-- ==== Sys2Proof/Word.lean ====
section
/-! DEFINITION. The word types and their plainest arithmetic. -/

namespace Sys2Proof

/-- A byte, the smallest addressable unit (00_scope R4). -/
abbrev Byte := BitVec 8
/-- One lane of a lane register (05_memory R58). -/
abbrev Word := BitVec 32
/-- A uniform register (05_memory R59). -/
abbrev DWord := BitVec 64
/-- A lane mask: bit n stands for lane n (05_memory R60). -/
abbrev Mask := BitVec 32
/-- A program counter: a 57-bit virtual address (09_encoding R99). -/
abbrev PC := BitVec 57

end Sys2Proof
end

