-- ==== Sys2Proof/Syntax.lean ====
section
/-! DEFINITION. The instructions and events of spec/opcode_table.json, one constructor a row.
An encoded row carries its operand fields (09_encoding R102, R108); a row without an encoding is an event of the
part (95_what_each_step_holds.md), whose operands name where it happens or what the outside party supplies. -/

namespace Sys2Proof

/-- A write-mask or mask register number, k0 to k7 (05_memory R60). -/
abbrev KReg := Fin 8
/-- A lane register number, v0 to v127 (05_memory R58). -/
abbrev VReg := Fin 128
/-- A uniform register number, g0 to g63 (05_memory R59). -/
abbrev GReg := Fin 64
/-- The gb field of format LM: address register g8 + gb (05_memory R61). -/
abbrev AReg := Fin 8
/-- A lookahead count (09_encoding R116). -/
abbrev La := Fin 16

/-- The ICMP conditions (09_encoding R103). -/
inductive ICond where
  | eq | ne | lt | le | gt | ge
  deriving DecidableEq, Repr

/-- The FCMP conditions (09_encoding R103). -/
inductive FCond where
  | eq | ne | lt | le | gt | ge | unord | ord
  deriving DecidableEq, Repr

/-- The ICMP operand types (11 R134). -/
inductive IType where
  | s32 | z32 | s64 | z64
  deriving DecidableEq, Repr

/-- The floating types of a lane operation (11 R138). -/
inductive FType where
  | f32 | f16x2 | bf16x2 | f64
  deriving DecidableEq, Repr

/-- The CVT rounding modes (11 R141). -/
inductive RMode where
  | rne | rtz | rup | rdn
  deriving DecidableEq, Repr

/-- The MSTREAM element types (09_encoding R107). -/
inductive MType where
  | f64 | f32 | bf16 | f16 | e4m3 | e5m2 | f16nq4 | bf16nq4 | e4m3nq4 | s8
  deriving DecidableEq, Repr

/-- The ATOMG operations (09_encoding R106). -/
inductive AtomOp where
  | add | exch | cas | and | or | xor | minS | maxS | minZ | maxZ
  deriving DecidableEq, Repr

/-- The STG.REL widths (09_encoding R106). -/
inductive SzCode where
  | b1 | b2 | b4 | b8
  deriving DecidableEq, Repr

/-- The BR conditions (09_encoding R109). -/
inductive BCond where
  | always | eq | ne | lt | le | gt | ge
  deriving DecidableEq, Repr

/-- The five gates (05_memory R70). -/
inductive Gate where
  | gc | gm | gl | gx | gt
  deriving DecidableEq, Repr

/-- The scopes (03_execution_model R48, 13_ordering R198). -/
inductive Scope where
  | group | core | cluster | die | package | pod | system
  deriving DecidableEq, Repr

/-- Where an agent puts a block: the claimed rows it may use as a bitmap (12 R192), and the scratchpad offset (12 R191). -/
structure Placement where
  rows : Nat
  spbase : Nat
  deriving DecidableEq, Repr

/-- A remote-scratchpad message arriving at a fabric port (28_fabric R358, R361). -/
structure FabricMessage where
  port : Nat
  key : Nat
  authentic : Bool
  die : Nat
  cluster : Nat
  core : Nat
  offset : Nat
  bytes : List Byte
  credit : Bool
  barrier : Nat
  deriving DecidableEq, Repr

/-- A host access to device memory or a SYS page at a home slice (13_ordering R220). -/
inductive HostAccess where
  | read (pa : Nat) (n : Nat)
  | write (pa : Nat) (bytes : List Byte)
  deriving DecidableEq, Repr

/-- Where an uncorrected error is found (31_health R380): `view` is a core's L1 copy of a byte, `landing` byte `n` of what an operation has read
and not landed. -/
inductive ErrorSite where
  | memory (pa : Nat)
  | view (core : Nat) (pa : Nat)
  | landing (op : Nat) (n : Nat)
  | scratch (core : Nat) (off : Nat)
  | slotByte (core : Nat) (off : Nat)
  | platenByte (core : Nat) (platen : Nat) (off : Nat)
  | row (core : Nat) (row : Nat)
  | groupState (core : Nat) (slot : Nat)
  | coreUnit (core : Nat)
  | dieUnit
  deriving DecidableEq, Repr

/-- A firmware image presented to the device (31_health R387): whether each signature verifies, its measurement, and
the charge-table entries it fixes as (class, base, unit) (18_vacate R255). -/
structure FirmwareImage where
  ecdsaOk : Bool
  lmsOk : Bool
  measurement : BitVec 384
  charges : List (Nat × Nat × Nat)
  deriving DecidableEq, Repr

/-- One constructor per row of spec/opcode_table.json, in the table's order. -/
inductive Instr where
  /-- IADD (R130): Lane integer add, modulo 2^32. -/
  | iadd (k : KReg) (d : VReg) (a : VReg) (b : VReg)
  /-- ISUB (R130): Lane integer subtract, modulo 2^32. -/
  | isub (k : KReg) (d : VReg) (a : VReg) (b : VReg)
  /-- IMUL (R130): Lane integer multiply, low 32 bits. -/
  | imul (k : KReg) (d : VReg) (a : VReg) (b : VReg)
  /-- IMULH_Z (R130): Lane unsigned multiply, high 32 bits. -/
  | imulhZ (k : KReg) (d : VReg) (a : VReg) (b : VReg)
  /-- IMIN_S (R130): Lane signed minimum. -/
  | iminS (k : KReg) (d : VReg) (a : VReg) (b : VReg)
  /-- IMAX_S (R130): Lane signed maximum. -/
  | imaxS (k : KReg) (d : VReg) (a : VReg) (b : VReg)
  /-- IMIN_Z (R130): Lane unsigned minimum. -/
  | iminZ (k : KReg) (d : VReg) (a : VReg) (b : VReg)
  /-- IMAX_Z (R130): Lane unsigned maximum. -/
  | imaxZ (k : KReg) (d : VReg) (a : VReg) (b : VReg)
  /-- AND (R130): Lane bitwise AND. -/
  | and (k : KReg) (d : VReg) (a : VReg) (b : VReg)
  /-- OR (R130): Lane bitwise OR. -/
  | or (k : KReg) (d : VReg) (a : VReg) (b : VReg)
  /-- XOR (R130): Lane bitwise XOR. -/
  | xor (k : KReg) (d : VReg) (a : VReg) (b : VReg)
  /-- ANDN (R130): Lane a AND NOT b. -/
  | andn (k : KReg) (d : VReg) (a : VReg) (b : VReg)
  /-- SHL (R130): Lane shift left by b[4:0]. -/
  | shl (k : KReg) (d : VReg) (a : VReg) (b : VReg)
  /-- SHR (R130): Lane logical shift right. -/
  | shr (k : KReg) (d : VReg) (a : VReg) (b : VReg)
  /-- SAR (R130): Lane arithmetic shift right. -/
  | sar (k : KReg) (d : VReg) (a : VReg) (b : VReg)
  /-- ROTL (R130): Lane rotate left. -/
  | rotl (k : KReg) (d : VReg) (a : VReg) (b : VReg)
  /-- POPC (R130): Lane population count. -/
  | popc (k : KReg) (d : VReg) (a : VReg)
  /-- CLZ (R130): Lane count leading zeros. -/
  | clz (k : KReg) (d : VReg) (a : VReg)
  /-- CTZ (R130): Lane count trailing zeros. -/
  | ctz (k : KReg) (d : VReg) (a : VReg)
  /-- BREV (R130): Lane bit reverse. -/
  | brev (k : KReg) (d : VReg) (a : VReg)
  /-- BFE_Z (R133): Lane unsigned bit-field extract. -/
  | bfeZ (k : KReg) (d : VReg) (a : VReg) (b : VReg)
  /-- BFE_S (R133): Lane signed bit-field extract. -/
  | bfeS (k : KReg) (d : VReg) (a : VReg) (b : VReg)
  /-- BFI (R133): Lane bit-field insert into vd. -/
  | bfi (k : KReg) (d : VReg) (a : VReg) (b : VReg)
  /-- PERM (R133): Lane byte permute selected by vd. -/
  | perm (k : KReg) (d : VReg) (a : VReg) (b : VReg)
  /-- ICMP (R134): Lane integer compare writing a mask register. -/
  | icmp (k : KReg) (c : ICond) (e : KReg) (a : VReg) (b : VReg) (t : IType)
  /-- IADD64 (R132): Lane 64-bit add of pairs. -/
  | iadd64 (k : KReg) (d : VReg) (a : VReg) (b : VReg)
  /-- ISUB64 (R132): Lane 64-bit subtract of pairs. -/
  | isub64 (k : KReg) (d : VReg) (a : VReg) (b : VReg)
  /-- SHL64 (R132): Lane 64-bit shift left. -/
  | shl64 (k : KReg) (d : VReg) (a : VReg) (b : VReg)
  /-- SHR64 (R132): Lane 64-bit logical shift right. -/
  | shr64 (k : KReg) (d : VReg) (a : VReg) (b : VReg)
  /-- IMAD_LO (R131): Lane multiply-add, low 32 bits. -/
  | imadLo (k : KReg) (d : VReg) (a : VReg) (b : VReg)
  /-- IMAD_WIDE_Z (R131): Lane unsigned widening multiply-add into a pair. -/
  | imadWideZ (k : KReg) (d : VReg) (a : VReg) (b : VReg)
  /-- IMAD_WIDE_S (R131): Lane signed widening multiply-add into a pair. -/
  | imadWideS (k : KReg) (d : VReg) (a : VReg) (b : VReg)
  /-- IMULH_S (R131): Lane signed multiply, high 32 bits. -/
  | imulhS (k : KReg) (d : VReg) (a : VReg) (b : VReg)
  /-- SEL (R136): Per-lane select of va or vb under mask k across the split. -/
  | sel (k : KReg) (d : VReg) (a : VReg) (b : VReg)
  /-- MOV (R135): Lane register move. -/
  | mov (k : KReg) (d : VReg) (a : VReg)
  /-- LANEID (R135): Writes each lane's index. -/
  | laneid (k : KReg) (d : VReg)
  /-- IALUG_IADD (R137): Lane add with uniform operand. -/
  | ialugIadd (k : KReg) (d : VReg) (a : VReg) (g : GReg)
  /-- IALUG_ISUB (R137): Lane subtract with uniform operand. -/
  | ialugIsub (k : KReg) (d : VReg) (a : VReg) (g : GReg)
  /-- IALUG_IMUL (R137): Lane multiply with uniform operand. -/
  | ialugImul (k : KReg) (d : VReg) (a : VReg) (g : GReg)
  /-- IALUG_AND (R137): Lane AND with uniform operand. -/
  | ialugAnd (k : KReg) (d : VReg) (a : VReg) (g : GReg)
  /-- IALUG_OR (R137): Lane OR with uniform operand. -/
  | ialugOr (k : KReg) (d : VReg) (a : VReg) (g : GReg)
  /-- IALUG_XOR (R137): Lane XOR with uniform operand. -/
  | ialugXor (k : KReg) (d : VReg) (a : VReg) (g : GReg)
  /-- IALUG_SHL (R137): Lane shift left by uniform count. -/
  | ialugShl (k : KReg) (d : VReg) (a : VReg) (g : GReg)
  /-- IALUG_SHR (R137): Lane shift right by uniform count. -/
  | ialugShr (k : KReg) (d : VReg) (a : VReg) (g : GReg)
  /-- FALUG_FADD (R140): f32 lane add with uniform operand. -/
  | falugFadd (k : KReg) (d : VReg) (a : VReg) (g : GReg)
  /-- FALUG_FSUB (R140): f32 lane subtract with uniform operand. -/
  | falugFsub (k : KReg) (d : VReg) (a : VReg) (g : GReg)
  /-- FALUG_FMUL (R140): f32 lane multiply with uniform operand. -/
  | falugFmul (k : KReg) (d : VReg) (a : VReg) (g : GReg)
  /-- FALUG_FMA (R140): f32 lane fused multiply-add with uniform operand. -/
  | falugFma (k : KReg) (d : VReg) (a : VReg) (g : GReg)
  /-- FALUG_FMIN (R140): f32 lane minimumNumber with uniform operand. -/
  | falugFmin (k : KReg) (d : VReg) (a : VReg) (g : GReg)
  /-- FALUG_FMAX (R140): f32 lane maximumNumber with uniform operand. -/
  | falugFmax (k : KReg) (d : VReg) (a : VReg) (g : GReg)
  /-- MOVG (R140): Copies a uniform register's low word to lanes. -/
  | movg (k : KReg) (d : VReg) (g : GReg)
  /-- FADD (R138): Lane floating add, one rounding. -/
  | fadd (k : KReg) (d : VReg) (a : VReg) (b : VReg) (t : FType)
  /-- FSUB (R138): Lane floating subtract. -/
  | fsub (k : KReg) (d : VReg) (a : VReg) (b : VReg) (t : FType)
  /-- FMUL (R138): Lane floating multiply. -/
  | fmul (k : KReg) (d : VReg) (a : VReg) (b : VReg) (t : FType)
  /-- FMA (R138): Lane fused multiply-add into vd. -/
  | fma (k : KReg) (d : VReg) (a : VReg) (b : VReg) (t : FType)
  /-- FMIN (R138): Lane minimumNumber. -/
  | fmin (k : KReg) (d : VReg) (a : VReg) (b : VReg) (t : FType)
  /-- FMAX (R138): Lane maximumNumber. -/
  | fmax (k : KReg) (d : VReg) (a : VReg) (b : VReg) (t : FType)
  /-- FCMP (R139): Lane floating compare writing a mask register. -/
  | fcmp (k : KReg) (c : FCond) (e : KReg) (a : VReg) (b : VReg) (t : FType)
  /-- CVT (R141): Lane conversion selected by code, rounded in mode. -/
  | cvt (k : KReg) (d : VReg) (a : VReg) (c : Fin 128) (m : RMode)
  /-- XFN_RCP (R143): Correctly rounded reciprocal under lookahead. -/
  | xfnRcp (k : KReg) (d : VReg) (a : VReg) (l : La)
  /-- XFN_RSQ (R143): Correctly rounded reciprocal square root. -/
  | xfnRsq (k : KReg) (d : VReg) (a : VReg) (l : La)
  /-- XFN_SQRT (R143): Correctly rounded square root. -/
  | xfnSqrt (k : KReg) (d : VReg) (a : VReg) (l : La)
  /-- XFN_EXP2 (R143): Correctly rounded 2^a. -/
  | xfnExp2 (k : KReg) (d : VReg) (a : VReg) (l : La)
  /-- XFN_LOG2 (R143): Correctly rounded log2. -/
  | xfnLog2 (k : KReg) (d : VReg) (a : VReg) (l : La)
  /-- XFN_SIN (R143): Correctly rounded sin(pi*a). -/
  | xfnSin (k : KReg) (d : VReg) (a : VReg) (l : La)
  /-- XFN_COS (R143): Correctly rounded cos(pi*a). -/
  | xfnCos (k : KReg) (d : VReg) (a : VReg) (l : La)
  /-- XFN_TANH (R143): Correctly rounded tanh. -/
  | xfnTanh (k : KReg) (d : VReg) (a : VReg) (l : La)
  /-- SHFL_IDX (R145): Lane shuffle from an indexed lane. -/
  | shflIdx (k : KReg) (d : VReg) (a : VReg) (b : VReg)
  /-- SHFL_XOR (R145): Lane shuffle from lane XOR c. -/
  | shflXor (k : KReg) (d : VReg) (a : VReg) (b : VReg)
  /-- SHFL_UP (R145): Lane shuffle from lane minus c. -/
  | shflUp (k : KReg) (d : VReg) (a : VReg) (b : VReg)
  /-- SHFL_DOWN (R145): Lane shuffle from lane plus c. -/
  | shflDown (k : KReg) (d : VReg) (a : VReg) (b : VReg)
  /-- LDS_Z8 (R148): Scratchpad byte load, zero-extended. -/
  | ldsZ8 (k : KReg) (d : VReg) (a : VReg) (g : AReg) (l : La)
  /-- LDS_Z16 (R148): Scratchpad halfword load, zero-extended. -/
  | ldsZ16 (k : KReg) (d : VReg) (a : VReg) (g : AReg) (l : La)
  /-- LDS_32 (R148): Scratchpad word load. -/
  | lds32 (k : KReg) (d : VReg) (a : VReg) (g : AReg) (l : La)
  /-- LDS_64 (R148): Scratchpad doubleword load into a pair. -/
  | lds64 (k : KReg) (d : VReg) (a : VReg) (g : AReg) (l : La)
  /-- LDSX_S8 (R148): Scratchpad byte load, sign-extended. -/
  | ldsxS8 (k : KReg) (d : VReg) (a : VReg) (g : AReg) (l : La)
  /-- LDSX_S16 (R148): Scratchpad halfword load, sign-extended. -/
  | ldsxS16 (k : KReg) (d : VReg) (a : VReg) (g : AReg) (l : La)
  /-- LDSX_128 (R148): Scratchpad 16-byte load into four registers. -/
  | ldsx128 (k : KReg) (d : VReg) (a : VReg) (g : AReg) (l : La)
  /-- STS_8 (R149): Scratchpad byte store. -/
  | sts8 (k : KReg) (d : VReg) (a : VReg) (g : AReg)
  /-- STS_16 (R149): Scratchpad halfword store. -/
  | sts16 (k : KReg) (d : VReg) (a : VReg) (g : AReg)
  /-- STS_32 (R149): Scratchpad word store. -/
  | sts32 (k : KReg) (d : VReg) (a : VReg) (g : AReg)
  /-- STS_64 (R149): Scratchpad doubleword store from a pair. -/
  | sts64 (k : KReg) (d : VReg) (a : VReg) (g : AReg)
  /-- ATOMS_ADD (R150): Scratchpad atomic add returning old word. -/
  | atomsAdd (k : KReg) (d : VReg) (a : VReg) (g : AReg) (l : La)
  /-- ATOMS_EXCH (R150): Scratchpad atomic exchange. -/
  | atomsExch (k : KReg) (d : VReg) (a : VReg) (g : AReg) (l : La)
  /-- ATOMS_CAS (R150): Scratchpad atomic compare-and-swap. -/
  | atomsCas (k : KReg) (d : VReg) (a : VReg) (g : AReg) (l : La)
  /-- ATOMS_MAX_S (R150): Scratchpad atomic signed maximum. -/
  | atomsMaxS (k : KReg) (d : VReg) (a : VReg) (g : AReg) (l : La)
  /-- ATOMSX_AND (R150): Scratchpad atomic AND. -/
  | atomsxAnd (k : KReg) (d : VReg) (a : VReg) (g : AReg) (l : La)
  /-- ATOMSX_OR (R150): Scratchpad atomic OR. -/
  | atomsxOr (k : KReg) (d : VReg) (a : VReg) (g : AReg) (l : La)
  /-- ATOMSX_XOR (R150): Scratchpad atomic XOR. -/
  | atomsxXor (k : KReg) (d : VReg) (a : VReg) (g : AReg) (l : La)
  /-- ATOMSX_MIN_S (R150): Scratchpad atomic signed minimum. -/
  | atomsxMinS (k : KReg) (d : VReg) (a : VReg) (g : AReg) (l : La)
  /-- LDG_32 (R154): Queued global word load on gate gl. -/
  | ldg32 (k : KReg) (d : VReg) (a : VReg) (g : AReg)
  /-- LDG_64 (R154): Queued global doubleword load. -/
  | ldg64 (k : KReg) (d : VReg) (a : VReg) (g : AReg)
  /-- LDG_128 (R154): Queued global 16-byte load. -/
  | ldg128 (k : KReg) (d : VReg) (a : VReg) (g : AReg)
  /-- LDG_32_ACQ (R154): Queued global word load that is an acquire. -/
  | ldg32Acq (k : KReg) (d : VReg) (a : VReg) (g : AReg)
  /-- STG_8 (R156): Global byte store entry into the store queue. -/
  | stg8 (k : KReg) (d : VReg) (a : VReg) (g : AReg)
  /-- STG_16 (R156): Global halfword store entry. -/
  | stg16 (k : KReg) (d : VReg) (a : VReg) (g : AReg)
  /-- STG_32 (R156): Global word store entry. -/
  | stg32 (k : KReg) (d : VReg) (a : VReg) (g : AReg)
  /-- STG_64 (R156): Global doubleword store entry. -/
  | stg64 (k : KReg) (d : VReg) (a : VReg) (g : AReg)
  /-- MSTREAM (R228): Issues one matrix pass per quarter with active lanes. -/
  | mstream (k : KReg) (d : VReg) (a : VReg) (s : Fin 32) (t : MType)
  /-- TCOPY (R247): Hands a tensor copy to the TCE on gate gc. -/
  | tcopy (k : KReg) (d : VReg) (a : VReg)
  /-- TCOPYQ (R247): Hands a narrowing tensor store to the TCE. -/
  | tcopyq (k : KReg) (d : VReg) (a : VReg)
  /-- ATOMG (R157): Queued global 32-bit atomic per active lane on gl. -/
  | atomg (k : KReg) (d : VReg) (a : VReg) (o : AtomOp)
  /-- TVWALK (R296): Starts a tree walk per active lane on gate gt. -/
  | tvwalk (k : KReg) (d : VReg) (a : VReg)
  /-- TVCUT (R297): Requests a cut of a walk at its next node boundary. -/
  | tvcut (k : KReg) (d : VReg) (a : VReg)
  /-- TVRET (R298): In a service group, returns each lane's action word and ends the lane. -/
  | tvret (k : KReg) (a : VReg)
  /-- TVRESUME (R296): Resumes a walk from a cut record. -/
  | tvresume (k : KReg) (d : VReg) (a : VReg)
  /-- TVSTAT (R299): Reads a snapshot of a handle's walk state. -/
  | tvstat (k : KReg) (d : VReg) (a : VReg)
  /-- GPUT (R303): Reserves galley slots and writes records from scratchpad. -/
  | gput (k : KReg) (d : VReg) (a : VReg)
  /-- GTAKE (R303): Reserves published galley records and copies them to scratchpad. -/
  | gtake (k : KReg) (d : VReg) (a : VReg)
  /-- STG_REL (R158): Store-queue entry marked as a release. -/
  | stgRel (k : KReg) (d : VReg) (a : VReg) (s : SzCode)
  /-- UADD (R162): Uniform 64-bit add. -/
  | uadd (d : GReg) (a : GReg) (b : GReg)
  /-- USUB (R162): Uniform subtract. -/
  | usub (d : GReg) (a : GReg) (b : GReg)
  /-- UMUL (R162): Uniform multiply, low 64 bits. -/
  | umul (d : GReg) (a : GReg) (b : GReg)
  /-- UMULH_Z (R162): Uniform unsigned multiply high. -/
  | umulhZ (d : GReg) (a : GReg) (b : GReg)
  /-- UMULH_S (R162): Uniform signed multiply high. -/
  | umulhS (d : GReg) (a : GReg) (b : GReg)
  /-- UMIN_S (R162): Uniform signed minimum. -/
  | uminS (d : GReg) (a : GReg) (b : GReg)
  /-- UMAX_S (R162): Uniform signed maximum. -/
  | umaxS (d : GReg) (a : GReg) (b : GReg)
  /-- UMIN_Z (R162): Uniform unsigned minimum. -/
  | uminZ (d : GReg) (a : GReg) (b : GReg)
  /-- UMAX_Z (R162): Uniform unsigned maximum. -/
  | umaxZ (d : GReg) (a : GReg) (b : GReg)
  /-- UAND (R162): Uniform bitwise AND. -/
  | uand (d : GReg) (a : GReg) (b : GReg)
  /-- UOR (R162): Uniform bitwise OR. -/
  | uor (d : GReg) (a : GReg) (b : GReg)
  /-- UXOR (R162): Uniform bitwise XOR. -/
  | uxor (d : GReg) (a : GReg) (b : GReg)
  /-- UANDN (R162): Uniform a AND NOT b. -/
  | uandn (d : GReg) (a : GReg) (b : GReg)
  /-- USHL (R162): Uniform shift left. -/
  | ushl (d : GReg) (a : GReg) (b : GReg)
  /-- USHR (R162): Uniform logical shift right. -/
  | ushr (d : GReg) (a : GReg) (b : GReg)
  /-- USAR (R162): Uniform arithmetic shift right. -/
  | usar (d : GReg) (a : GReg) (b : GReg)
  /-- UCMP_EQ (R162): Uniform equality compare to 0 or 1. -/
  | ucmpEq (d : GReg) (a : GReg) (b : GReg)
  /-- UCMP_LT_S (R162): Uniform signed less-than compare. -/
  | ucmpLtS (d : GReg) (a : GReg) (b : GReg)
  /-- UCMP_LT_Z (R162): Uniform unsigned less-than compare. -/
  | ucmpLtZ (d : GReg) (a : GReg) (b : GReg)
  /-- UCMP_LE_S (R162): Uniform signed less-or-equal compare. -/
  | ucmpLeS (d : GReg) (a : GReg) (b : GReg)
  /-- UCMP_LE_Z (R162): Uniform unsigned less-or-equal compare. -/
  | ucmpLeZ (d : GReg) (a : GReg) (b : GReg)
  /-- UPOPC (R162): Uniform population count. -/
  | upopc (d : GReg) (a : GReg)
  /-- UCLZ (R162): Uniform count leading zeros. -/
  | uclz (d : GReg) (a : GReg)
  /-- UMOV (R162): Uniform register move. -/
  | umov (d : GReg) (a : GReg)
  /-- UADD32 (R162): Uniform 32-bit add, sign-extended. -/
  | uadd32 (d : GReg) (a : GReg) (b : GReg)
  /-- USUB32 (R162): Uniform 32-bit subtract, sign-extended. -/
  | usub32 (d : GReg) (a : GReg) (b : GReg)
  /-- UADDI (R163): Uniform add of a signed 14-bit immediate. -/
  | uaddi (d : GReg) (a : GReg) (i : BitVec 14)
  /-- UHI (R163): Loads a sign-extended 20-bit immediate shifted by 12. -/
  | uhi (d : GReg) (i : BitVec 20)
  /-- UANDI (R163): Uniform AND with immediate. -/
  | uandi (d : GReg) (a : GReg) (i : BitVec 14)
  /-- UORI (R163): Uniform OR with immediate. -/
  | uori (d : GReg) (a : GReg) (i : BitVec 14)
  /-- UXORI (R163): Uniform XOR with immediate. -/
  | uxori (d : GReg) (a : GReg) (i : BitVec 14)
  /-- USHLI (R163): Uniform shift left by immediate count. -/
  | ushli (d : GReg) (a : GReg) (n : Fin 64)
  /-- BR (R164): Uniform branch moving the whole split when its condition holds. -/
  | br (c : BCond) (a : GReg) (o : BitVec 16)
  /-- BRD (R165): Divergent branch that moves or divides the split. -/
  | brd (k : KReg) (i : Fin 2) (o : BitVec 22)
  /-- CALL (R166): PC-relative call linking g63. -/
  | call (o : BitVec 26)
  /-- JMPI (R166): Jump to a register target. -/
  | jmpi (a : GReg)
  /-- CALLI (R166): Call to a register target linking g63. -/
  | calli (a : GReg)
  /-- RET (R166): Return to g63. -/
  | ret
  /-- NOP (R168): No effect; counts n positions. -/
  | nop (n : Fin 64)
  /-- EXIT (R168): Ends the split's lanes, or traps with CLUSTER_EXIT. -/
  | exit
  /-- TRAP (R168): Software trap with a 6-bit code. -/
  | trap (c : Fin 64)
  /-- RETT (R174): Pops a frame of TRAP entries and restores the splits. -/
  | rett
  /-- BRK (R168): Breakpoint trap, or a halt when a debugger is attached. -/
  | brk
  /-- YIELD (R168): Holds the split for 16 cycles. -/
  | yield
  /-- PJOIN (R167): Pushes a JOIN entry for a label. -/
  | pjoin (o : BitVec 26)
  /-- CFENCE (R175): Closes the open batch of gate gc. -/
  | cfence (d : GReg)
  /-- MFENCE (R175): Closes the open batch of gate gm. -/
  | mfence (d : GReg)
  /-- LFENCE (R175): Closes the open batch of gate gl. -/
  | lfence (d : GReg)
  /-- XFENCE (R175): Closes the open batch of gate gx. -/
  | xfence (d : GReg)
  /-- TFENCE (R175): Closes the open batch of gate gt. -/
  | tfence (d : GReg)
  /-- FENCE_ALL (R212): Full fence at a scope, held until reads and writes are performed. -/
  | fenceAll (s : Scope)
  /-- FENCE_ACQ (R212): Acquire fence at a scope. -/
  | fenceAcq (s : Scope)
  /-- FENCE_REL (R212): Release fence at a scope. -/
  | fenceRel (s : Scope)
  /-- WAIT_GATE (R176): Holds the split until a gate batch is done. -/
  | waitGate (a : GReg) (g : Gate)
  /-- WAIT_OBJECT (R176): Holds the split until a barrier object reaches a phase. -/
  | waitObject (a : GReg) (b : GReg)
  /-- ARRIVE (R177): Delivers one arrival to a barrier object. -/
  | arrive (a : GReg)
  /-- ARRIVE_EXPECT (R177): Arrival carrying an expectation of bytes. -/
  | arriveExpect (a : GReg) (b : GReg)
  /-- ARRIVE_DROP (R177): Arrival that also lowers the reload. -/
  | arriveDrop (a : GReg)
  /-- BINIT (R178): Initialises a barrier object. -/
  | binit (a : GReg) (b : GReg)
  /-- ULD_S_32 (R179): Uniform scratchpad word load, held. -/
  | uldS32 (d : GReg) (a : GReg)
  /-- ULD_S_64 (R179): Uniform scratchpad doubleword load, held. -/
  | uldS64 (d : GReg) (a : GReg)
  /-- ULD_G_32 (R180): Queued uniform global word load on gl. -/
  | uldG32 (d : GReg) (a : GReg)
  /-- ULD_G_64 (R180): Queued uniform global doubleword load. -/
  | uldG64 (d : GReg) (a : GReg)
  /-- ULD_G_ADD (R180): Queued uniform 64-bit atomic add. -/
  | uldGAdd (d : GReg) (a : GReg) (b : GReg)
  /-- ULD_G_EXCH (R180): Queued uniform 64-bit atomic exchange. -/
  | uldGExch (d : GReg) (a : GReg) (b : GReg)
  /-- ULD_G_CAS (R180): Queued uniform 64-bit compare-and-swap. -/
  | uldGCas (d : GReg) (a : GReg) (b : GReg)
  /-- UST_S_32 (R179): Uniform scratchpad word store. -/
  | ustS32 (a : GReg) (b : GReg)
  /-- UST_S_64 (R179): Uniform scratchpad doubleword store. -/
  | ustS64 (a : GReg) (b : GReg)
  /-- UST_G_32 (R180): Uniform global word store into the store queue. -/
  | ustG32 (a : GReg) (b : GReg)
  /-- UST_G_64 (R180): Uniform global doubleword store into the store queue. -/
  | ustG64 (a : GReg) (b : GReg)
  /-- READLANE (R181): Reads one lane's value into a uniform register. -/
  | readlane (d : GReg) (v : VReg) (b : GReg)
  /-- READFIRST (R181): Reads the lowest active lane's value. -/
  | readfirst (d : GReg) (v : VReg)
  /-- VOTE_ANY (R181): 1 if any active lane is non-zero. -/
  | voteAny (d : GReg) (v : VReg)
  /-- VOTE_ALL (R181): 1 if every active lane is non-zero. -/
  | voteAll (d : GReg) (v : VReg)
  /-- BALLOT (R181): Mask of active lanes with non-zero value. -/
  | ballot (d : GReg) (v : VReg)
  /-- UMASK_SET (R182): Sets a mask register from a uniform register. -/
  | umaskSet (d : KReg) (a : GReg)
  /-- UMASK_GET (R182): Copies a mask register to a uniform register. -/
  | umaskGet (d : GReg) (a : KReg)
  /-- UMASK_AND (R182): Mask AND. -/
  | umaskAnd (d : KReg) (a : KReg) (b : KReg)
  /-- UMASK_OR (R182): Mask OR. -/
  | umaskOr (d : KReg) (a : KReg) (b : KReg)
  /-- UMASK_XOR (R182): Mask XOR. -/
  | umaskXor (d : KReg) (a : KReg) (b : KReg)
  /-- UMASK_ANDN (R182): Mask AND NOT. -/
  | umaskAndn (d : KReg) (a : KReg) (b : KReg)
  /-- UMASK_NOT (R182): Mask NOT. -/
  | umaskNot (d : KReg) (a : KReg)
  /-- MLOAD (R230): Sets a platen's record count and queues a platen load. -/
  | mload (a : GReg) (b : GReg)
  /-- MOPEN (R231): Opens slot HEAD of the accumulator ring. -/
  | mopen (d : GReg) (a : GReg)
  /-- MCLOSE (R232): Marks an OPEN slot READY. -/
  | mclose (a : GReg)
  /-- EPI (R234): Frees the tail slot and queues an epilogue command. -/
  | epi (a : GReg)
  /-- AMOV_LD (R235): Queues a copy of scratchpad rows into slot rows. -/
  | amovLd (a : GReg) (b : GReg)
  /-- AMOV_ST (R235): Queues a copy of slot rows to scratchpad. -/
  | amovSt (a : GReg) (b : GReg)
  /-- MSTAT (R236): Reads the matrix engine's bookkeeping state. -/
  | mstat (d : GReg)
  /-- GINFO (R306): Reads a galley counter snapshot. -/
  | ginfo (d : GReg) (a : GReg) (b : GReg)
  /-- GBIND (R305): Binds or unbinds a galley for the context. -/
  | gbind (d : GReg) (a : GReg) (b : GReg)
  /-- XBIND (R315): Binds or unbinds an exchange channel end. -/
  | xbind (d : GReg) (a : GReg) (b : GReg)
  /-- XPERMIT (R316): Grants permits on a receiver end. -/
  | xpermit (a : GReg)
  /-- XSEND (R317): Sends bytes into the next landing slot of a channel. -/
  | xsend (d : GReg) (a : GReg) (b : GReg)
  /-- XSTAT (R318): Reads the state of a channel end. -/
  | xstat (d : GReg) (a : GReg)
  /-- FBULK (R362): Bulk fabric transfer to attic or remote scratchpad on gx. -/
  | fbulk (d : GReg) (a : Fin 16)
  /-- FSTAT (R366): Reads a fabric port status snapshot. -/
  | fstat (d : GReg) (a : GReg)
  /-- VCOST (R183): Returns the charge and channel of an operation class. -/
  | vcost (d : GReg) (a : GReg) (b : GReg)
  /-- VTEST (R184): Applies the issue rule to a would-be operation. -/
  | vtest (d : GReg) (a : GReg) (b : GReg)
  /-- UMOVS (R185): Reads a system register. -/
  | umovs (d : GReg) (r : Fin 64)
  /-- UMOVT (R186): Writes a system register. -/
  | umovt (a : GReg) (r : Fin 64)
  /-- EVENT (R187): Posts a PROGRAM event to the context's event ring. -/
  | event (a : GReg) (b : GReg)
  /-- TMARK (R188): Emits a SYNC packet into the trace. -/
  | tmark
  /-- DISPATCH (R193): Agent starts a carved block. -/
  | dispatch (d : GReg) (a : GReg)
  /-- LEASE (R190): Queries, claims or releases a register row. -/
  | lease (d : GReg) (a : GReg)
  /-- CARVE (R192): Assigns rows and slots to a dispatch record. -/
  | carve (d : GReg) (a : GReg) (b : GReg)
  /-- CTXSAVE (R194): Vacates a block, writing its image. -/
  | ctxsave (d : GReg) (a : GReg) (b : GReg)
  /-- CTXLOAD (R195): Restores a block image into carved resources. -/
  | ctxload (d : GReg) (a : GReg) (b : GReg)
  /-- TLBINV (R196): Removes translations from every translation cache. -/
  | tlbinv (a : GReg) (b : GReg)
  /-- KEYSET (R197): Loads or clears a fabric key slot. -/
  | keyset (d : GReg) (a : GReg) (b : GReg)
  /-- SPLIT_PARK (R35): A selected split at its governing JOIN PC parks instead of issuing. -/
  | splitPark (core : Nat) (slot : Nat) (split : Nat)
  /-- STACK_FILL (R37): At cycle end a free split entry is filled from a covered JOIN or DEFER entry. -/
  | stackFill (core : Nat) (slot : Nat)
  /-- YIELD_EXPIRY (R168): The 16-cycle hold of a YIELD ends. -/
  | yieldExpiry (core : Nat) (slot : Nat) (split : Nat)
  /-- SCRATCH_RESULT (R116): A lookahead result of a scratchpad load, atomic or XFN is written. -/
  | scratchResult (core : Nat) (slot : Nat) (n : Nat)
  /-- TAKE_VALUE (R202): A queued read takes its value from queue, view or home. -/
  | takeValue (core : Nat) (slot : Nat) (piece : Nat)
  /-- LEAVE (R202): The head store-queue entry enters the core view and propagates. -/
  | leave (core : Nat) (slot : Nat)
  /-- PROPAGATION_ARRIVE (R202): A propagating write is appended to its bytes' coherence order at home. -/
  | propagationArrive (n : Nat)
  /-- DROP (R202): A clean copy is removed from a core view. -/
  | drop (core : Nat) (line : Nat)
  /-- ATOMIC_STEP (R202): A queued atomic reads and writes at its place in one step. -/
  | atomicStep (core : Nat) (slot : Nat)
  /-- ENGINE_ACCESS (R202): One read or write of a forked engine operation. -/
  | engineAccess (op : Nat) (n : Nat)
  /-- FAULT_RESPONSE_DOORBELL (R330): Host answers a fault record with RETRY or FAIL. -/
  | faultResponseDoorbell (func : Nat) (ctx : Nat) (w : (BitVec 64))
  /-- FAULT_ANSWER_FIRMWARE (R330): With FWFAULT the agent answers a fault record. -/
  | faultAnswerFirmware (ctx : Nat) (record : Nat) (fail : Bool)
  /-- REPLICA_STAMP (R83): The sequencer stamps and performs a REPL store or atomic and multicasts it. -/
  | replicaStamp (n : Nat)
  /-- REPLICA_APPLY (R83): A member copy applies a stamped write in stamp order. -/
  | replicaApply (ctx : Nat) (rset : Nat) (die : Nat)
  /-- MSTREAM_PASS_RUN (R229): A queued matrix pass runs on the streaming array. -/
  | mstreamPassRun (core : Nat) (i : Nat)
  /-- MLOAD_RUN (R230): A platen load command copies records into a platen. -/
  | mloadRun (core : Nat) (i : Nat)
  /-- SLOT_ZEROING (R231): An MOPEN zeroing command clears a slot. -/
  | slotZeroing (core : Nat) (n : Nat)
  /-- EPI_RUN (R234): An epilogue command narrows the tail slot into scratchpad. -/
  | epiRun (core : Nat) (i : Nat)
  /-- AMOV_RUN (R235): An AMOV command copies slot rows. -/
  | amovRun (core : Nat) (i : Nat)
  /-- TCE_LANDING (R245): A copy's bytes land and credit its barrier object. -/
  | tceLanding (op : Nat)
  /-- TCOPY_COMPLETE (R244): A copy completes and writes its status word. -/
  | tcopyComplete (op : Nat)
  /-- WALK_VISIT (R287): A walk pops an entry at a node boundary and visits it. -/
  | walkVisit (op : Nat) (lane : Nat)
  /-- SERVICE_GROUP_FORM (R293): 32 pending calls of one routine form a service group. -/
  | serviceGroupForm (core : Nat) (block : Nat)
  /-- SERVICE_GROUP_TIMEOUT (R293): The oldest pending call has waited 64 cycles and a service group forms. -/
  | serviceGroupTimeout (core : Nat) (block : Nat)
  /-- ROUTINE_RETURN (R293): A service group ends and its walks continue. -/
  | routineReturn (core : Nat) (block : Nat)
  /-- TVCUT_COMPLETE (R297): A TVCUT's record is performed and the operation completes. -/
  | tvcutComplete (op : Nat)
  /-- GALLEY_RESERVATION (R301): A put or take reservation reaches the owning die. -/
  | galleyReservation (op : Nat)
  /-- GALLEY_PUBLISH (R301): A put record's write is performed and published. -/
  | galleyPublish (op : Nat) (lane : Nat)
  /-- GALLEY_OP_COMPLETE (R303): A GPUT or GTAKE completes and writes lane results. -/
  | galleyOpComplete (op : Nat)
  /-- GALLEY_CONSUMER_LAUNCH (R304): The owning die launches one more consumer block. -/
  | galleyConsumerLaunch (galley : Nat) (core : Nat) (p : Placement)
  /-- GALLEY_CONSUMER_TIMER (R304): Records waited 4,096 cycles with no waiting consumer. -/
  | galleyConsumerTimer (galley : Nat) (core : Nat) (p : Placement)
  /-- XSEND_LANDING (R313): A send's bytes land and update the landing barrier. -/
  | xsendLanding (op : Nat)
  /-- GRANT_SEND (R316): A held XPERMIT sends its grants. -/
  | grantSend (core : Nat) (slot : Nat) (split : Nat)
  /-- PERMIT_GRANT (R314): A grant arrives at the sender and updates the permit object. -/
  | permitGrant (n : Nat)
  /-- FBULK_LANDING (R362): One fabric message lands and credits its object. -/
  | fbulkLanding (op : Nat) (n : Nat)
  /-- FBULK_COMPLETE (R365): An FBULK completes and writes its status word. -/
  | fbulkComplete (op : Nat)
  /-- BRANCH_BLOCKED (R364): A multicast branch stays blocked for 10 microseconds. -/
  | branchBlocked (op : Nat)
  /-- FABRIC_MESSAGE_RECEIVE (R361): An arriving remote-scratchpad message is accepted or refused. -/
  | fabricMessageReceive (m : FabricMessage)
  /-- FABRIC_LINK (R356): A fabric port link leaves the up state. -/
  | fabricLink (port : Nat) (state : Nat)
  /-- HOST_ACCESS (R220): A host access to device memory at a home slice. -/
  | hostAccess (a : HostAccess)
  /-- REGISTER_WRITE (R323): Write to a BAR0 register with no behaviour of its own. -/
  | registerWrite (off : Nat) (v : (BitVec 64))
  /-- FEATCTL_COMMIT (R324): Commits the accepted feature vector. -/
  | featctlCommit (v : (BitVec 64))
  /-- CTXCMD_VACATE (R261): Vacate request stopping the context in one cycle. -/
  | ctxcmdVacate (ctx : Nat)
  /-- CTXCMD_RESUME (R329): Restores a context's saved blocks and switches queues in. -/
  | ctxcmdResume (ctx : Nat) (ps : (List (Nat × Nat × Placement)))
  /-- CTXCMD_END (R329): Abandons every block of a context and stops its queues. -/
  | ctxcmdEnd (ctx : Nat)
  /-- PARTCMD_APPLY (R327): Applies one partition descriptor. -/
  | partcmdApply (func : Nat)
  /-- DBGCMD_HALT (R369): Halts a context at one cycle boundary. -/
  | dbgcmdHalt (v : (BitVec 64))
  /-- DBGCMD_RESUME (R371): Ends a halt. -/
  | dbgcmdResume (v : (BitVec 64))
  /-- DBGCMD_STEP (R371): Lets one instruction of a named split issue, then halts. -/
  | dbgcmdStep (ctx : Nat) (core : Nat) (slot : Nat) (split : Nat)
  /-- DBGCMD_ATTACH (R368): Sets the context's ATTACHED state. -/
  | dbgcmdAttach (v : (BitVec 64))
  /-- DBGCMD_DETACH (R368): Clears the context's ATTACHED state. -/
  | dbgcmdDetach (v : (BitVec 64))
  /-- ERRCNT_CLEAR (R381): W1C write to a die's error counter register. -/
  | errcntClear (die : Nat) (v : (BitVec 64))
  /-- QUEUE_TAIL_DOORBELL (R332): Host writes a new tail for a queue. -/
  | queueTailDoorbell (func : Nat) (queue : Nat) (v : (BitVec 64))
  /-- EVENT_HEAD_DOORBELL (R349): Host writes a new head for an event ring. -/
  | eventHeadDoorbell (func : Nat) (ring : Nat) (v : (BitVec 64))
  /-- PACKET_NOP (R336): NOP packet starts and completes at once. -/
  | packetNop (queue : Nat)
  /-- PACKET_LAUNCH (R336): LAUNCH packet offers tickets on every die of its vector. -/
  | packetLaunch (queue : Nat)
  /-- PACKET_BARRIER (R341): BARRIER packet starts waiting on its wait list. -/
  | packetBarrier (queue : Nat)
  /-- PACKET_COPY (R337): COPY packet starts a translated copy in pieces. -/
  | packetCopy (queue : Nat)
  /-- PACKET_SIGNAL_SET (R338): SIGNAL packet writes a value to a signal. -/
  | packetSignalSet (queue : Nat)
  /-- PACKET_SIGNAL_ADD (R338): SIGNAL packet adds a value atomically to a signal. -/
  | packetSignalAdd (queue : Nat)
  /-- PACKET_CHAIN (R339): CHAIN packet runs a command block at the next level. -/
  | packetChain (queue : Nat)
  /-- PACKET_EVENT (R336): EVENT packet posts a QUEUE_EVENT record. -/
  | packetEvent (queue : Nat)
  /-- PACKET_COMPLETE (R336): A packet completes, releases and adds -1 to its signal. -/
  | packetComplete (queue : Nat) (n : Nat)
  /-- BARRIER_TEST (R341): A BARRIER packet tests its wait list. -/
  | barrierTest (queue : Nat) (n : Nat)
  /-- PROGRESS_PUBLISH (R333): The chaining engine publishes a queue's PROGRESS. -/
  | progressPublish (queue : Nat)
  /-- BLOCK_CLAIM (R346): An agent takes a ticket and dispatches a block of a launch. -/
  | blockClaim (launch : Nat) (core : Nat) (p : Placement)
  /-- INSTANCE_START (R54): A co-scheduled instance starts once every part is reserved. -/
  | instanceStart (launch : Nat)
  /-- ROW_FREE (R347): A draining row becomes free once queues and gates are complete. -/
  | rowFree (core : Nat) (row : Nat)
  /-- BLOCK_COMPLETE (R348): A block's completion is published through bitmap, signal and count. -/
  | blockComplete (core : Nat) (block : Nat)
  /-- BLKMAX_OVERRUN (R254): A block's elapsed count passes BLKMAX. -/
  | blkmaxOverrun (core : Nat) (block : Nat)
  /-- CHANNEL_PRIORITY_HOLD (R259): An operation held 1,024 cycles blocks its channel for others. -/
  | channelPriorityHold (core : Nat) (slot : Nat) (split : Nat)
  /-- BLOCK_SAVE (R265): A block committed to save has drained and its image is written. -/
  | blockSave (core : Nat) (block : Nat)
  /-- BLOCK_MODE_FINISHED (R262): A block finishes its save, drain or flush. -/
  | blockModeFinished (core : Nat) (block : Nat)
  /-- CTXLOAD_COMPLETE (R195): A restore completes and the block starts. -/
  | ctxloadComplete (op : Nat)
  /-- TLBINV_COMPLETE (R196): No cache holds a matching translation and no walk can install one. -/
  | tlbinvComplete (op : Nat)
  /-- TRACE_UNIT_WRITE (R373): A 64-byte trace unit is written to the ring and TBYTES advances. -/
  | traceUnitWrite (core : Nat)
  /-- SAMPLE (R374): A scheduler samples a group at its period. -/
  | sample (core : Nat) (sched : Nat)
  /-- PACKAGE_RESET (R383): Package reset; link training begins. -/
  | packageReset
  /-- REDUCED_SERVICE_START (R383): Forme 0 links and stacks 0 and 1 are trained. -/
  | reducedServiceStart
  /-- FULL_SERVICE_START (R384): Training is complete and no context is resident. -/
  | fullServiceStart
  /-- AGEING_PLAN_RAISE (R386): Ageing monitors raise PLAN. -/
  | ageingPlanRaise (plan : Nat)
  /-- PERIOD_CHANGE (R386): PERIOD takes PLAN when no context is resident. -/
  | periodChange
  /-- DIE_FAILURE (R53): A die fails during a launch. -/
  | dieFailure (die : Nat) (launch : Nat)
  /-- CORRECTED_ERROR (R381): A corrected error is counted. -/
  | correctedError (die : Nat)
  /-- UNCORRECTED_ERROR (R380): An uncorrected error poisons data, suspends a group or faults a core. -/
  | uncorrectedError (die : Nat) (site : ErrorSite)
  /-- FIRMWARE_IMAGE (R387): A firmware image is verified and accepted or refused. -/
  | firmwareImage (img : FirmwareImage)
  /-- LIVE_HANDOVER (R389): A hand-over entry is appended, committing the new image. -/
  | liveHandover
  /-- MEASUREMENTS (R389): SPDM MEASUREMENTS request answered with the current measurement. -/
  | measurements
  /-- ILLEGAL_OP (R100): Issue of an instruction word that decodes to no instruction, or carries a reserved value or non-zero must-be-zero field, trapping precisely with ILLEGAL_OP. -/
  | illegalOp (w : (BitVec 32))
  /-- HELD_UNIFORM_RESULT (R159): The result of a held uniform instruction (uld.s, lease, carve, dispatch, keyset, GBIND, GINFO, XBIND, FSTAT) is written and the stalled split may issue again. -/
  | heldUniformResult (core : Nat) (slot : Nat) (split : Nat)
  /-- TRAINING_COMPLETE (R384): The remaining link and stack training finishes and CLKSTAT.TRAINED becomes 1, possibly while contexts are still resident. -/
  | trainingComplete
  /-- FABRIC_LINK_UP (R366): A fabric port's link enters the up state, from training or retraining. -/
  | fabricLinkUp (port : Nat)
  /-- LINK_LEVEL_RETRY (R354): A fabric port's link layer replays flits from its replay buffer and the REPLAYS count rises. -/
  | linkLevelRetry (port : Nat)
  deriving DecidableEq, Repr

end Sys2Proof
end

