-- ==== Sys2Proof/WellFormed.lean ====
section
/-! DEFINITION. The operand checks a word must pass to be an instruction (09_encoding R100): they depend on the word alone.
What depends on the issuing group (its allotment, its mode, the engine it holds) is checked by the meanings. -/

namespace Sys2Proof

/-- A 64-bit lane operand names an even register (05_memory R58). -/
def evenReg (v : VReg) : Bool := v.val % 2 == 0

/-- A 128-bit lane operand names a multiple of four (05_memory R58). -/
def quadReg (v : VReg) : Bool := v.val % 4 == 0

/-- A numeric format of the CVT table (11 R141): floats, and signed or unsigned integers of a width. -/
inductive NumFmt where
  | f64 | f32 | f16 | bf16 | e4m3 | e5m2
  | s (bits : Nat) | z (bits : Nat)
  deriving DecidableEq, Repr

/-- The conversion a CVT code below 0x40 names, as (destination, source) (11 R141). -/
def cvtPair : Nat → Option (NumFmt × NumFmt)
  | 0x00 => some (.f64, .f32) | 0x01 => some (.f32, .f64) | 0x02 => some (.f16, .f32) | 0x03 => some (.f32, .f16)
  | 0x04 => some (.bf16, .f32) | 0x05 => some (.f32, .bf16) | 0x06 => some (.f16, .f64) | 0x07 => some (.f64, .f16)
  | 0x08 => some (.e4m3, .f32) | 0x09 => some (.e5m2, .f32) | 0x0A => some (.f32, .e4m3) | 0x0B => some (.f32, .e5m2)
  | 0x0C => some (.e4m3, .f16) | 0x0D => some (.e5m2, .f16) | 0x0E => some (.f16, .e4m3) | 0x0F => some (.f16, .e5m2)
  | 0x10 => some (.s 32, .f32) | 0x11 => some (.z 32, .f32) | 0x12 => some (.s 32, .f64) | 0x13 => some (.z 32, .f64)
  | 0x14 => some (.s 64, .f32) | 0x15 => some (.z 64, .f32) | 0x16 => some (.s 64, .f64) | 0x17 => some (.z 64, .f64)
  | 0x18 => some (.f32, .s 32) | 0x19 => some (.f32, .z 32) | 0x1A => some (.f64, .s 32) | 0x1B => some (.f64, .z 32)
  | 0x1C => some (.f32, .s 64) | 0x1D => some (.f32, .z 64) | 0x1E => some (.f64, .s 64) | 0x1F => some (.f64, .z 64)
  | 0x20 => some (.s 32, .s 8) | 0x21 => some (.s 32, .s 16) | 0x22 => some (.z 32, .z 8) | 0x23 => some (.z 32, .z 16)
  | 0x24 => some (.s 8, .s 32) | 0x25 => some (.s 16, .s 32) | 0x26 => some (.z 8, .z 32) | 0x27 => some (.z 16, .z 32)
  | 0x28 => some (.s 32, .s 64) | 0x29 => some (.z 32, .z 64) | 0x2A => some (.s 64, .s 32) | 0x2B => some (.z 64, .z 32)
  | 0x2C => some (.f16, .s 32) | 0x2D => some (.f16, .z 32) | 0x2E => some (.s 32, .f16) | 0x2F => some (.z 32, .f16)
  | _ => none

/-- The codes that have a `.sat` form (11 R141). -/
def cvtSatCode (c : Nat) : Bool :=
  c == 0x08 || c == 0x09 || c == 0x0C || c == 0x0D || (0x24 ≤ c && c ≤ 0x29)

/-- A CVT code read: destination, source and saturation; none for a reserved code (11 R141). -/
def cvtOf (code : Nat) : Option (NumFmt × NumFmt × Bool) :=
  if code < 0x40 then (cvtPair code).map fun (d, s) => (d, s, false)
  else if cvtSatCode (code - 0x40) then (cvtPair (code - 0x40)).map fun (d, s) => (d, s, true)
  else none

/-- Whether a format fills a register pair. -/
def NumFmt.wide : NumFmt → Bool
  | .f64 => true | .s 64 => true | .z 64 => true | _ => false

/-- CVT: a listed code, and even registers for 64-bit operands (11 R141, R142). -/
def cvtOk (d a : VReg) (code : Nat) : Bool :=
  match cvtOf code with
  | none => false
  | some (dst, src, _) => (!dst.wide || evenReg d) && (!src.wide || evenReg a)

/-- f64 forms name even registers only (11 R138, R139). -/
def floatRegs (t : FType) (regs : List VReg) : Bool :=
  match t with
  | .f64 => regs.all evenReg
  | _ => true

/-- The s64 and z64 compares name even registers (11 R134). -/
def intRegs (t : IType) (regs : List VReg) : Bool :=
  match t with
  | .s64 | .z64 => regs.all evenReg
  | _ => true

/-- Whether the operands are ones the entry allows; false means the word traps with ILLEGAL_OP (09_encoding R100). -/
def wellFormed : Instr → Bool
  | .icmp _ _ _ a b t => intRegs t [a, b]
  | .iadd64 _ d a b => evenReg d && evenReg a && evenReg b
  | .isub64 _ d a b => evenReg d && evenReg a && evenReg b
  | .shl64 _ d a _ => evenReg d && evenReg a
  | .shr64 _ d a _ => evenReg d && evenReg a
  | .imadWideZ _ d _ _ => evenReg d
  | .imadWideS _ d _ _ => evenReg d
  | .fadd _ d a b t => floatRegs t [d, a, b]
  | .fsub _ d a b t => floatRegs t [d, a, b]
  | .fmul _ d a b t => floatRegs t [d, a, b]
  | .fma _ d a b t => floatRegs t [d, a, b]
  | .fmin _ d a b t => floatRegs t [d, a, b]
  | .fmax _ d a b t => floatRegs t [d, a, b]
  | .fcmp _ _ _ a b t => floatRegs t [a, b]
  | .cvt _ d a c _ => cvtOk d a c.val
  | .lds64 _ d _ _ _ => evenReg d
  | .ldsx128 _ d _ _ _ => quadReg d
  | .sts64 _ d _ _ => evenReg d
  | .atomsCas _ d _ _ _ => evenReg d
  | .ldg64 _ d _ _ => evenReg d
  | .ldg128 _ d _ _ => quadReg d
  | .stg64 _ d _ _ => evenReg d
  | .atomg _ d a o => evenReg a && (o != .cas || evenReg d)
  | .stgRel _ d a s => evenReg a && (s != .b8 || evenReg d)
  | .tcopy _ _ a => evenReg a
  | .tcopyq _ _ a => evenReg a
  | .tvwalk _ _ a => evenReg a
  | .tvcut _ _ a => evenReg a
  | .tvresume _ _ a => evenReg a
  | .br c a _ => c != .always || a.val == 0
  | .umovs _ r => r.val < 36
  | .umovt _ r => 23 ≤ r.val && r.val < 35
  | _ => true

/-- Whether an instruction exists in a group: TVRET only in a service group, TVCUT only outside one (22_traversal R294). -/
def belongs (svc : Bool) : Instr → Bool
  | .tvcut _ _ _ => !svc
  | .tvret _ _ => svc
  | _ => true

end Sys2Proof
end

