-- ==== Sys2Proof/Decode.lean ====
section
/-! DEFINITION. The decoder and the encoder of the 32-bit instruction words, written from the encoding tables of
09_encoding (R99 to R112) and of each entry. -/

namespace Sys2Proof

/-- Why a word is not an instruction (09_encoding R100): too few bytes, a reserved major, function, condition, type or
selector or a non-zero must-be-zero field, or a legal layout whose operands the entry forbids. -/
inductive DecodeError where
  | tooShort | reserved | illFormed
  deriving DecidableEq, Repr

/-- Bits [hi:lo] of a word read as a number (00_scope R2): `n` bits from `lo`. -/
def fld (w lo n : Nat) : Nat := w / 2 ^ lo % 2 ^ n

/-- A field as a number below `m`, for a field of as many bits as `m` takes. -/
def fin (m : Nat) [NeZero m] (x : Nat) : Fin m := Fin.ofNat m x

/-- The code of ICond in the instruction word. -/
def ICond.code : ICond → Nat
  | .eq => 0
  | .ne => 1
  | .lt => 2
  | .le => 3
  | .gt => 4
  | .ge => 5

/-- ICond read from its code; none where the code is reserved. -/
def ICond.ofCode : Nat → Option ICond
  | 0 => some .eq
  | 1 => some .ne
  | 2 => some .lt
  | 3 => some .le
  | 4 => some .gt
  | 5 => some .ge
  | _ => none

/-- The code of FCond in the instruction word. -/
def FCond.code : FCond → Nat
  | .eq => 0
  | .ne => 1
  | .lt => 2
  | .le => 3
  | .gt => 4
  | .ge => 5
  | .unord => 6
  | .ord => 7

/-- FCond read from its code; none where the code is reserved. -/
def FCond.ofCode : Nat → Option FCond
  | 0 => some .eq
  | 1 => some .ne
  | 2 => some .lt
  | 3 => some .le
  | 4 => some .gt
  | 5 => some .ge
  | 6 => some .unord
  | 7 => some .ord
  | _ => none

/-- The code of IType in the instruction word. -/
def IType.code : IType → Nat
  | .s32 => 0
  | .z32 => 1
  | .s64 => 2
  | .z64 => 3

/-- IType read from its code; none where the code is reserved. -/
def IType.ofCode : Nat → Option IType
  | 0 => some .s32
  | 1 => some .z32
  | 2 => some .s64
  | 3 => some .z64
  | _ => none

/-- The code of FType in the instruction word. -/
def FType.code : FType → Nat
  | .f32 => 0
  | .f16x2 => 1
  | .bf16x2 => 2
  | .f64 => 3

/-- FType read from its code; none where the code is reserved. -/
def FType.ofCode : Nat → Option FType
  | 0 => some .f32
  | 1 => some .f16x2
  | 2 => some .bf16x2
  | 3 => some .f64
  | _ => none

/-- The code of RMode in the instruction word. -/
def RMode.code : RMode → Nat
  | .rne => 0
  | .rtz => 1
  | .rup => 2
  | .rdn => 3

/-- RMode read from its code; none where the code is reserved. -/
def RMode.ofCode : Nat → Option RMode
  | 0 => some .rne
  | 1 => some .rtz
  | 2 => some .rup
  | 3 => some .rdn
  | _ => none

/-- The code of MType in the instruction word. -/
def MType.code : MType → Nat
  | .f64 => 0
  | .f32 => 1
  | .bf16 => 2
  | .f16 => 3
  | .e4m3 => 4
  | .e5m2 => 5
  | .f16nq4 => 6
  | .bf16nq4 => 7
  | .e4m3nq4 => 8
  | .s8 => 9

/-- MType read from its code; none where the code is reserved. -/
def MType.ofCode : Nat → Option MType
  | 0 => some .f64
  | 1 => some .f32
  | 2 => some .bf16
  | 3 => some .f16
  | 4 => some .e4m3
  | 5 => some .e5m2
  | 6 => some .f16nq4
  | 7 => some .bf16nq4
  | 8 => some .e4m3nq4
  | 9 => some .s8
  | _ => none

/-- The code of AtomOp in the instruction word. -/
def AtomOp.code : AtomOp → Nat
  | .add => 0
  | .exch => 1
  | .cas => 2
  | .and => 3
  | .or => 4
  | .xor => 5
  | .minS => 6
  | .maxS => 7
  | .minZ => 8
  | .maxZ => 9

/-- AtomOp read from its code; none where the code is reserved. -/
def AtomOp.ofCode : Nat → Option AtomOp
  | 0 => some .add
  | 1 => some .exch
  | 2 => some .cas
  | 3 => some .and
  | 4 => some .or
  | 5 => some .xor
  | 6 => some .minS
  | 7 => some .maxS
  | 8 => some .minZ
  | 9 => some .maxZ
  | _ => none

/-- The code of SzCode in the instruction word. -/
def SzCode.code : SzCode → Nat
  | .b1 => 0
  | .b2 => 1
  | .b4 => 2
  | .b8 => 3

/-- SzCode read from its code; none where the code is reserved. -/
def SzCode.ofCode : Nat → Option SzCode
  | 0 => some .b1
  | 1 => some .b2
  | 2 => some .b4
  | 3 => some .b8
  | _ => none

/-- The code of BCond in the instruction word. -/
def BCond.code : BCond → Nat
  | .always => 0
  | .eq => 1
  | .ne => 2
  | .lt => 3
  | .le => 4
  | .gt => 5
  | .ge => 6

/-- BCond read from its code; none where the code is reserved. -/
def BCond.ofCode : Nat → Option BCond
  | 0 => some .always
  | 1 => some .eq
  | 2 => some .ne
  | 3 => some .lt
  | 4 => some .le
  | 5 => some .gt
  | 6 => some .ge
  | _ => none

/-- The code of Gate in the instruction word. -/
def Gate.code : Gate → Nat
  | .gc => 0
  | .gm => 1
  | .gl => 2
  | .gx => 3
  | .gt => 4

/-- Gate read from its code; none where the code is reserved. -/
def Gate.ofCode : Nat → Option Gate
  | 0 => some .gc
  | 1 => some .gm
  | 2 => some .gl
  | 3 => some .gx
  | 4 => some .gt
  | _ => none

/-- The code of Scope in the instruction word. -/
def Scope.code : Scope → Nat
  | .group => 0
  | .core => 1
  | .cluster => 2
  | .die => 3
  | .package => 4
  | .pod => 5
  | .system => 6

/-- Scope read from its code; none where the code is reserved. -/
def Scope.ofCode : Nat → Option Scope
  | 0 => some .group
  | 1 => some .core
  | 2 => some .cluster
  | 3 => some .die
  | 4 => some .package
  | 5 => some .pod
  | 6 => some .system
  | _ => none

/-- Major 0x1 of the lane set. -/
def decodeMajor1 (w : Nat) : Option Instr :=
  if fld w 0 2 = 0 then some (.iadd (fin 8 (fld w 23 3)) (fin 128 (fld w 16 7)) (fin 128 (fld w 9 7)) (fin 128 (fld w 2 7))) else
  if fld w 0 2 = 1 then some (.isub (fin 8 (fld w 23 3)) (fin 128 (fld w 16 7)) (fin 128 (fld w 9 7)) (fin 128 (fld w 2 7))) else
  if fld w 0 2 = 2 then some (.imul (fin 8 (fld w 23 3)) (fin 128 (fld w 16 7)) (fin 128 (fld w 9 7)) (fin 128 (fld w 2 7))) else
  if fld w 0 2 = 3 then some (.imulhZ (fin 8 (fld w 23 3)) (fin 128 (fld w 16 7)) (fin 128 (fld w 9 7)) (fin 128 (fld w 2 7))) else
  none

/-- Major 0x3 of the lane set. -/
def decodeMajor3 (w : Nat) : Option Instr :=
  if fld w 0 2 = 0 then some (.iminS (fin 8 (fld w 23 3)) (fin 128 (fld w 16 7)) (fin 128 (fld w 9 7)) (fin 128 (fld w 2 7))) else
  if fld w 0 2 = 1 then some (.imaxS (fin 8 (fld w 23 3)) (fin 128 (fld w 16 7)) (fin 128 (fld w 9 7)) (fin 128 (fld w 2 7))) else
  if fld w 0 2 = 2 then some (.iminZ (fin 8 (fld w 23 3)) (fin 128 (fld w 16 7)) (fin 128 (fld w 9 7)) (fin 128 (fld w 2 7))) else
  if fld w 0 2 = 3 then some (.imaxZ (fin 8 (fld w 23 3)) (fin 128 (fld w 16 7)) (fin 128 (fld w 9 7)) (fin 128 (fld w 2 7))) else
  none

/-- Major 0x4 of the lane set. -/
def decodeMajor4 (w : Nat) : Option Instr :=
  if fld w 0 2 = 0 then some (.and (fin 8 (fld w 23 3)) (fin 128 (fld w 16 7)) (fin 128 (fld w 9 7)) (fin 128 (fld w 2 7))) else
  if fld w 0 2 = 1 then some (.or (fin 8 (fld w 23 3)) (fin 128 (fld w 16 7)) (fin 128 (fld w 9 7)) (fin 128 (fld w 2 7))) else
  if fld w 0 2 = 2 then some (.xor (fin 8 (fld w 23 3)) (fin 128 (fld w 16 7)) (fin 128 (fld w 9 7)) (fin 128 (fld w 2 7))) else
  if fld w 0 2 = 3 then some (.andn (fin 8 (fld w 23 3)) (fin 128 (fld w 16 7)) (fin 128 (fld w 9 7)) (fin 128 (fld w 2 7))) else
  none

/-- Major 0x5 of the lane set. -/
def decodeMajor5 (w : Nat) : Option Instr :=
  if fld w 0 2 = 0 then some (.shl (fin 8 (fld w 23 3)) (fin 128 (fld w 16 7)) (fin 128 (fld w 9 7)) (fin 128 (fld w 2 7))) else
  if fld w 0 2 = 1 then some (.shr (fin 8 (fld w 23 3)) (fin 128 (fld w 16 7)) (fin 128 (fld w 9 7)) (fin 128 (fld w 2 7))) else
  if fld w 0 2 = 2 then some (.sar (fin 8 (fld w 23 3)) (fin 128 (fld w 16 7)) (fin 128 (fld w 9 7)) (fin 128 (fld w 2 7))) else
  if fld w 0 2 = 3 then some (.rotl (fin 8 (fld w 23 3)) (fin 128 (fld w 16 7)) (fin 128 (fld w 9 7)) (fin 128 (fld w 2 7))) else
  none

/-- Major 0x6 of the lane set. -/
def decodeMajor6 (w : Nat) : Option Instr :=
  if fld w 0 9 = 0 then some (.popc (fin 8 (fld w 23 3)) (fin 128 (fld w 16 7)) (fin 128 (fld w 9 7))) else
  if fld w 0 9 = 1 then some (.clz (fin 8 (fld w 23 3)) (fin 128 (fld w 16 7)) (fin 128 (fld w 9 7))) else
  if fld w 0 9 = 2 then some (.ctz (fin 8 (fld w 23 3)) (fin 128 (fld w 16 7)) (fin 128 (fld w 9 7))) else
  if fld w 0 9 = 3 then some (.brev (fin 8 (fld w 23 3)) (fin 128 (fld w 16 7)) (fin 128 (fld w 9 7))) else
  none

/-- Major 0x7 of the lane set. -/
def decodeMajor7 (w : Nat) : Option Instr :=
  if fld w 0 2 = 0 then some (.bfeZ (fin 8 (fld w 23 3)) (fin 128 (fld w 16 7)) (fin 128 (fld w 9 7)) (fin 128 (fld w 2 7))) else
  if fld w 0 2 = 1 then some (.bfeS (fin 8 (fld w 23 3)) (fin 128 (fld w 16 7)) (fin 128 (fld w 9 7)) (fin 128 (fld w 2 7))) else
  if fld w 0 2 = 2 then some (.bfi (fin 8 (fld w 23 3)) (fin 128 (fld w 16 7)) (fin 128 (fld w 9 7)) (fin 128 (fld w 2 7))) else
  if fld w 0 2 = 3 then some (.perm (fin 8 (fld w 23 3)) (fin 128 (fld w 16 7)) (fin 128 (fld w 9 7)) (fin 128 (fld w 2 7))) else
  none

/-- Major 0x8 of the lane set. -/
def decodeMajor8 (w : Nat) : Option Instr :=
  (ICond.ofCode (fld w 19 4)).bind fun c => (IType.ofCode (fld w 0 2)).bind fun t => some (.icmp (fin 8 (fld w 23 3)) c (fin 8 (fld w 16 3)) (fin 128 (fld w 9 7)) (fin 128 (fld w 2 7)) t)

/-- Major 0x9 of the lane set. -/
def decodeMajor9 (w : Nat) : Option Instr :=
  if fld w 0 2 = 0 then some (.iadd64 (fin 8 (fld w 23 3)) (fin 128 (fld w 16 7)) (fin 128 (fld w 9 7)) (fin 128 (fld w 2 7))) else
  if fld w 0 2 = 1 then some (.isub64 (fin 8 (fld w 23 3)) (fin 128 (fld w 16 7)) (fin 128 (fld w 9 7)) (fin 128 (fld w 2 7))) else
  if fld w 0 2 = 2 then some (.shl64 (fin 8 (fld w 23 3)) (fin 128 (fld w 16 7)) (fin 128 (fld w 9 7)) (fin 128 (fld w 2 7))) else
  if fld w 0 2 = 3 then some (.shr64 (fin 8 (fld w 23 3)) (fin 128 (fld w 16 7)) (fin 128 (fld w 9 7)) (fin 128 (fld w 2 7))) else
  none

/-- Major 0xa of the lane set. -/
def decodeMajor10 (w : Nat) : Option Instr :=
  if fld w 0 2 = 0 then some (.imadLo (fin 8 (fld w 23 3)) (fin 128 (fld w 16 7)) (fin 128 (fld w 9 7)) (fin 128 (fld w 2 7))) else
  if fld w 0 2 = 1 then some (.imadWideZ (fin 8 (fld w 23 3)) (fin 128 (fld w 16 7)) (fin 128 (fld w 9 7)) (fin 128 (fld w 2 7))) else
  if fld w 0 2 = 2 then some (.imadWideS (fin 8 (fld w 23 3)) (fin 128 (fld w 16 7)) (fin 128 (fld w 9 7)) (fin 128 (fld w 2 7))) else
  if fld w 0 2 = 3 then some (.imulhS (fin 8 (fld w 23 3)) (fin 128 (fld w 16 7)) (fin 128 (fld w 9 7)) (fin 128 (fld w 2 7))) else
  none

/-- Major 0xb of the lane set. -/
def decodeMajor11 (w : Nat) : Option Instr :=
  if fld w 0 2 = 0 then some (.sel (fin 8 (fld w 23 3)) (fin 128 (fld w 16 7)) (fin 128 (fld w 9 7)) (fin 128 (fld w 2 7))) else
  if fld w 0 9 = 1 then some (.mov (fin 8 (fld w 23 3)) (fin 128 (fld w 16 7)) (fin 128 (fld w 9 7))) else
  if fld w 0 16 = 2 then some (.laneid (fin 8 (fld w 23 3)) (fin 128 (fld w 16 7))) else
  none

/-- Major 0xc of the lane set. -/
def decodeMajor12 (w : Nat) : Option Instr :=
  if fld w 0 3 = 0 then some (.ialugIadd (fin 8 (fld w 23 3)) (fin 128 (fld w 16 7)) (fin 128 (fld w 9 7)) (fin 64 (fld w 3 6))) else
  if fld w 0 3 = 1 then some (.ialugIsub (fin 8 (fld w 23 3)) (fin 128 (fld w 16 7)) (fin 128 (fld w 9 7)) (fin 64 (fld w 3 6))) else
  if fld w 0 3 = 2 then some (.ialugImul (fin 8 (fld w 23 3)) (fin 128 (fld w 16 7)) (fin 128 (fld w 9 7)) (fin 64 (fld w 3 6))) else
  if fld w 0 3 = 3 then some (.ialugAnd (fin 8 (fld w 23 3)) (fin 128 (fld w 16 7)) (fin 128 (fld w 9 7)) (fin 64 (fld w 3 6))) else
  if fld w 0 3 = 4 then some (.ialugOr (fin 8 (fld w 23 3)) (fin 128 (fld w 16 7)) (fin 128 (fld w 9 7)) (fin 64 (fld w 3 6))) else
  if fld w 0 3 = 5 then some (.ialugXor (fin 8 (fld w 23 3)) (fin 128 (fld w 16 7)) (fin 128 (fld w 9 7)) (fin 64 (fld w 3 6))) else
  if fld w 0 3 = 6 then some (.ialugShl (fin 8 (fld w 23 3)) (fin 128 (fld w 16 7)) (fin 128 (fld w 9 7)) (fin 64 (fld w 3 6))) else
  if fld w 0 3 = 7 then some (.ialugShr (fin 8 (fld w 23 3)) (fin 128 (fld w 16 7)) (fin 128 (fld w 9 7)) (fin 64 (fld w 3 6))) else
  none

/-- Major 0xd of the lane set. -/
def decodeMajor13 (w : Nat) : Option Instr :=
  if fld w 0 3 = 0 then some (.falugFadd (fin 8 (fld w 23 3)) (fin 128 (fld w 16 7)) (fin 128 (fld w 9 7)) (fin 64 (fld w 3 6))) else
  if fld w 0 3 = 1 then some (.falugFsub (fin 8 (fld w 23 3)) (fin 128 (fld w 16 7)) (fin 128 (fld w 9 7)) (fin 64 (fld w 3 6))) else
  if fld w 0 3 = 2 then some (.falugFmul (fin 8 (fld w 23 3)) (fin 128 (fld w 16 7)) (fin 128 (fld w 9 7)) (fin 64 (fld w 3 6))) else
  if fld w 0 3 = 3 then some (.falugFma (fin 8 (fld w 23 3)) (fin 128 (fld w 16 7)) (fin 128 (fld w 9 7)) (fin 64 (fld w 3 6))) else
  if fld w 0 3 = 4 then some (.falugFmin (fin 8 (fld w 23 3)) (fin 128 (fld w 16 7)) (fin 128 (fld w 9 7)) (fin 64 (fld w 3 6))) else
  if fld w 0 3 = 5 then some (.falugFmax (fin 8 (fld w 23 3)) (fin 128 (fld w 16 7)) (fin 128 (fld w 9 7)) (fin 64 (fld w 3 6))) else
  if fld w 0 3 = 6 ∧ fld w 9 7 = 0 then some (.movg (fin 8 (fld w 23 3)) (fin 128 (fld w 16 7)) (fin 64 (fld w 3 6))) else
  none

/-- Major 0xe of the lane set. -/
def decodeMajor14 (w : Nat) : Option Instr :=
  (FType.ofCode (fld w 0 2)).bind fun t => some (.fadd (fin 8 (fld w 23 3)) (fin 128 (fld w 16 7)) (fin 128 (fld w 9 7)) (fin 128 (fld w 2 7)) t)

/-- Major 0xf of the lane set. -/
def decodeMajor15 (w : Nat) : Option Instr :=
  (FType.ofCode (fld w 0 2)).bind fun t => some (.fsub (fin 8 (fld w 23 3)) (fin 128 (fld w 16 7)) (fin 128 (fld w 9 7)) (fin 128 (fld w 2 7)) t)

/-- Major 0x10 of the lane set. -/
def decodeMajor16 (w : Nat) : Option Instr :=
  (FType.ofCode (fld w 0 2)).bind fun t => some (.fmul (fin 8 (fld w 23 3)) (fin 128 (fld w 16 7)) (fin 128 (fld w 9 7)) (fin 128 (fld w 2 7)) t)

/-- Major 0x11 of the lane set. -/
def decodeMajor17 (w : Nat) : Option Instr :=
  (FType.ofCode (fld w 0 2)).bind fun t => some (.fma (fin 8 (fld w 23 3)) (fin 128 (fld w 16 7)) (fin 128 (fld w 9 7)) (fin 128 (fld w 2 7)) t)

/-- Major 0x12 of the lane set. -/
def decodeMajor18 (w : Nat) : Option Instr :=
  (FType.ofCode (fld w 0 2)).bind fun t => some (.fmin (fin 8 (fld w 23 3)) (fin 128 (fld w 16 7)) (fin 128 (fld w 9 7)) (fin 128 (fld w 2 7)) t)

/-- Major 0x13 of the lane set. -/
def decodeMajor19 (w : Nat) : Option Instr :=
  (FType.ofCode (fld w 0 2)).bind fun t => some (.fmax (fin 8 (fld w 23 3)) (fin 128 (fld w 16 7)) (fin 128 (fld w 9 7)) (fin 128 (fld w 2 7)) t)

/-- Major 0x14 of the lane set. -/
def decodeMajor20 (w : Nat) : Option Instr :=
  (FCond.ofCode (fld w 19 4)).bind fun c => (FType.ofCode (fld w 0 2)).bind fun t => some (.fcmp (fin 8 (fld w 23 3)) c (fin 8 (fld w 16 3)) (fin 128 (fld w 9 7)) (fin 128 (fld w 2 7)) t)

/-- Major 0x15 of the lane set. -/
def decodeMajor21 (w : Nat) : Option Instr :=
  (RMode.ofCode (fld w 0 2)).bind fun m => some (.cvt (fin 8 (fld w 23 3)) (fin 128 (fld w 16 7)) (fin 128 (fld w 9 7)) (fin 128 (fld w 2 7)) m)

/-- Major 0x16 of the lane set. -/
def decodeMajor22 (w : Nat) : Option Instr :=
  if fld w 4 5 = 0 then some (.xfnRcp (fin 8 (fld w 23 3)) (fin 128 (fld w 16 7)) (fin 128 (fld w 9 7)) (fin 16 (fld w 0 4))) else
  if fld w 4 5 = 1 then some (.xfnRsq (fin 8 (fld w 23 3)) (fin 128 (fld w 16 7)) (fin 128 (fld w 9 7)) (fin 16 (fld w 0 4))) else
  if fld w 4 5 = 2 then some (.xfnSqrt (fin 8 (fld w 23 3)) (fin 128 (fld w 16 7)) (fin 128 (fld w 9 7)) (fin 16 (fld w 0 4))) else
  if fld w 4 5 = 3 then some (.xfnExp2 (fin 8 (fld w 23 3)) (fin 128 (fld w 16 7)) (fin 128 (fld w 9 7)) (fin 16 (fld w 0 4))) else
  if fld w 4 5 = 4 then some (.xfnLog2 (fin 8 (fld w 23 3)) (fin 128 (fld w 16 7)) (fin 128 (fld w 9 7)) (fin 16 (fld w 0 4))) else
  if fld w 4 5 = 5 then some (.xfnSin (fin 8 (fld w 23 3)) (fin 128 (fld w 16 7)) (fin 128 (fld w 9 7)) (fin 16 (fld w 0 4))) else
  if fld w 4 5 = 6 then some (.xfnCos (fin 8 (fld w 23 3)) (fin 128 (fld w 16 7)) (fin 128 (fld w 9 7)) (fin 16 (fld w 0 4))) else
  if fld w 4 5 = 7 then some (.xfnTanh (fin 8 (fld w 23 3)) (fin 128 (fld w 16 7)) (fin 128 (fld w 9 7)) (fin 16 (fld w 0 4))) else
  none

/-- Major 0x17 of the lane set. -/
def decodeMajor23 (w : Nat) : Option Instr :=
  if fld w 0 2 = 0 then some (.shflIdx (fin 8 (fld w 23 3)) (fin 128 (fld w 16 7)) (fin 128 (fld w 9 7)) (fin 128 (fld w 2 7))) else
  if fld w 0 2 = 1 then some (.shflXor (fin 8 (fld w 23 3)) (fin 128 (fld w 16 7)) (fin 128 (fld w 9 7)) (fin 128 (fld w 2 7))) else
  if fld w 0 2 = 2 then some (.shflUp (fin 8 (fld w 23 3)) (fin 128 (fld w 16 7)) (fin 128 (fld w 9 7)) (fin 128 (fld w 2 7))) else
  if fld w 0 2 = 3 then some (.shflDown (fin 8 (fld w 23 3)) (fin 128 (fld w 16 7)) (fin 128 (fld w 9 7)) (fin 128 (fld w 2 7))) else
  none

/-- Major 0x18 of the lane set. -/
def decodeMajor24 (w : Nat) : Option Instr :=
  if fld w 4 2 = 0 then some (.ldsZ8 (fin 8 (fld w 23 3)) (fin 128 (fld w 16 7)) (fin 128 (fld w 9 7)) (fin 8 (fld w 6 3)) (fin 16 (fld w 0 4))) else
  if fld w 4 2 = 1 then some (.ldsZ16 (fin 8 (fld w 23 3)) (fin 128 (fld w 16 7)) (fin 128 (fld w 9 7)) (fin 8 (fld w 6 3)) (fin 16 (fld w 0 4))) else
  if fld w 4 2 = 2 then some (.lds32 (fin 8 (fld w 23 3)) (fin 128 (fld w 16 7)) (fin 128 (fld w 9 7)) (fin 8 (fld w 6 3)) (fin 16 (fld w 0 4))) else
  if fld w 4 2 = 3 then some (.lds64 (fin 8 (fld w 23 3)) (fin 128 (fld w 16 7)) (fin 128 (fld w 9 7)) (fin 8 (fld w 6 3)) (fin 16 (fld w 0 4))) else
  none

/-- Major 0x19 of the lane set. -/
def decodeMajor25 (w : Nat) : Option Instr :=
  if fld w 4 2 = 0 then some (.ldsxS8 (fin 8 (fld w 23 3)) (fin 128 (fld w 16 7)) (fin 128 (fld w 9 7)) (fin 8 (fld w 6 3)) (fin 16 (fld w 0 4))) else
  if fld w 4 2 = 1 then some (.ldsxS16 (fin 8 (fld w 23 3)) (fin 128 (fld w 16 7)) (fin 128 (fld w 9 7)) (fin 8 (fld w 6 3)) (fin 16 (fld w 0 4))) else
  if fld w 4 2 = 2 then some (.ldsx128 (fin 8 (fld w 23 3)) (fin 128 (fld w 16 7)) (fin 128 (fld w 9 7)) (fin 8 (fld w 6 3)) (fin 16 (fld w 0 4))) else
  none

/-- Major 0x1a of the lane set. -/
def decodeMajor26 (w : Nat) : Option Instr :=
  if fld w 0 6 = 0 then some (.sts8 (fin 8 (fld w 23 3)) (fin 128 (fld w 16 7)) (fin 128 (fld w 9 7)) (fin 8 (fld w 6 3))) else
  if fld w 0 6 = 16 then some (.sts16 (fin 8 (fld w 23 3)) (fin 128 (fld w 16 7)) (fin 128 (fld w 9 7)) (fin 8 (fld w 6 3))) else
  if fld w 0 6 = 32 then some (.sts32 (fin 8 (fld w 23 3)) (fin 128 (fld w 16 7)) (fin 128 (fld w 9 7)) (fin 8 (fld w 6 3))) else
  if fld w 0 6 = 48 then some (.sts64 (fin 8 (fld w 23 3)) (fin 128 (fld w 16 7)) (fin 128 (fld w 9 7)) (fin 8 (fld w 6 3))) else
  none

/-- Major 0x1b of the lane set. -/
def decodeMajor27 (w : Nat) : Option Instr :=
  if fld w 4 2 = 0 then some (.atomsAdd (fin 8 (fld w 23 3)) (fin 128 (fld w 16 7)) (fin 128 (fld w 9 7)) (fin 8 (fld w 6 3)) (fin 16 (fld w 0 4))) else
  if fld w 4 2 = 1 then some (.atomsExch (fin 8 (fld w 23 3)) (fin 128 (fld w 16 7)) (fin 128 (fld w 9 7)) (fin 8 (fld w 6 3)) (fin 16 (fld w 0 4))) else
  if fld w 4 2 = 2 then some (.atomsCas (fin 8 (fld w 23 3)) (fin 128 (fld w 16 7)) (fin 128 (fld w 9 7)) (fin 8 (fld w 6 3)) (fin 16 (fld w 0 4))) else
  if fld w 4 2 = 3 then some (.atomsMaxS (fin 8 (fld w 23 3)) (fin 128 (fld w 16 7)) (fin 128 (fld w 9 7)) (fin 8 (fld w 6 3)) (fin 16 (fld w 0 4))) else
  none

/-- Major 0x2 of the lane set. -/
def decodeMajor2 (w : Nat) : Option Instr :=
  if fld w 4 2 = 0 then some (.atomsxAnd (fin 8 (fld w 23 3)) (fin 128 (fld w 16 7)) (fin 128 (fld w 9 7)) (fin 8 (fld w 6 3)) (fin 16 (fld w 0 4))) else
  if fld w 4 2 = 1 then some (.atomsxOr (fin 8 (fld w 23 3)) (fin 128 (fld w 16 7)) (fin 128 (fld w 9 7)) (fin 8 (fld w 6 3)) (fin 16 (fld w 0 4))) else
  if fld w 4 2 = 2 then some (.atomsxXor (fin 8 (fld w 23 3)) (fin 128 (fld w 16 7)) (fin 128 (fld w 9 7)) (fin 8 (fld w 6 3)) (fin 16 (fld w 0 4))) else
  if fld w 4 2 = 3 then some (.atomsxMinS (fin 8 (fld w 23 3)) (fin 128 (fld w 16 7)) (fin 128 (fld w 9 7)) (fin 8 (fld w 6 3)) (fin 16 (fld w 0 4))) else
  none

/-- Major 0x1c of the lane set. -/
def decodeMajor28 (w : Nat) : Option Instr :=
  if fld w 0 6 = 0 then some (.ldg32 (fin 8 (fld w 23 3)) (fin 128 (fld w 16 7)) (fin 128 (fld w 9 7)) (fin 8 (fld w 6 3))) else
  if fld w 0 6 = 16 then some (.ldg64 (fin 8 (fld w 23 3)) (fin 128 (fld w 16 7)) (fin 128 (fld w 9 7)) (fin 8 (fld w 6 3))) else
  if fld w 0 6 = 32 then some (.ldg128 (fin 8 (fld w 23 3)) (fin 128 (fld w 16 7)) (fin 128 (fld w 9 7)) (fin 8 (fld w 6 3))) else
  if fld w 0 6 = 48 then some (.ldg32Acq (fin 8 (fld w 23 3)) (fin 128 (fld w 16 7)) (fin 128 (fld w 9 7)) (fin 8 (fld w 6 3))) else
  none

/-- Major 0x1d of the lane set. -/
def decodeMajor29 (w : Nat) : Option Instr :=
  if fld w 0 6 = 0 then some (.stg8 (fin 8 (fld w 23 3)) (fin 128 (fld w 16 7)) (fin 128 (fld w 9 7)) (fin 8 (fld w 6 3))) else
  if fld w 0 6 = 16 then some (.stg16 (fin 8 (fld w 23 3)) (fin 128 (fld w 16 7)) (fin 128 (fld w 9 7)) (fin 8 (fld w 6 3))) else
  if fld w 0 6 = 32 then some (.stg32 (fin 8 (fld w 23 3)) (fin 128 (fld w 16 7)) (fin 128 (fld w 9 7)) (fin 8 (fld w 6 3))) else
  if fld w 0 6 = 48 then some (.stg64 (fin 8 (fld w 23 3)) (fin 128 (fld w 16 7)) (fin 128 (fld w 9 7)) (fin 8 (fld w 6 3))) else
  none

/-- Major 0x1e of the lane set. -/
def decodeMajor30 (w : Nat) : Option Instr :=
  (MType.ofCode (fld w 0 4)).bind fun t => some (.mstream (fin 8 (fld w 23 3)) (fin 128 (fld w 16 7)) (fin 128 (fld w 9 7)) (fin 32 (fld w 4 5)) t)

/-- Major 0x1f of the lane set. -/
def decodeMajor31 (w : Nat) : Option Instr :=
  if fld w 0 9 = 0 then some (.tcopy (fin 8 (fld w 23 3)) (fin 128 (fld w 16 7)) (fin 128 (fld w 9 7))) else
  if fld w 0 9 = 16 then some (.tcopyq (fin 8 (fld w 23 3)) (fin 128 (fld w 16 7)) (fin 128 (fld w 9 7))) else
  if fld w 4 5 = 2 then (AtomOp.ofCode (fld w 0 4)).bind fun o => some (.atomg (fin 8 (fld w 23 3)) (fin 128 (fld w 16 7)) (fin 128 (fld w 9 7)) o) else
  if fld w 0 9 = 48 then some (.tvwalk (fin 8 (fld w 23 3)) (fin 128 (fld w 16 7)) (fin 128 (fld w 9 7))) else
  if fld w 0 9 = 64 then some (.tvcut (fin 8 (fld w 23 3)) (fin 128 (fld w 16 7)) (fin 128 (fld w 9 7))) else
  if fld w 0 9 = 80 then some (.tvresume (fin 8 (fld w 23 3)) (fin 128 (fld w 16 7)) (fin 128 (fld w 9 7))) else
  if fld w 0 9 = 96 then some (.tvstat (fin 8 (fld w 23 3)) (fin 128 (fld w 16 7)) (fin 128 (fld w 9 7))) else
  if fld w 0 9 = 112 then some (.gput (fin 8 (fld w 23 3)) (fin 128 (fld w 16 7)) (fin 128 (fld w 9 7))) else
  if fld w 0 9 = 128 then some (.gtake (fin 8 (fld w 23 3)) (fin 128 (fld w 16 7)) (fin 128 (fld w 9 7))) else
  if fld w 2 7 = 36 then (SzCode.ofCode (fld w 0 2)).bind fun s => some (.stgRel (fin 8 (fld w 23 3)) (fin 128 (fld w 16 7)) (fin 128 (fld w 9 7)) s) else
  none

/-- Major 0x1 of the uniform set. -/
def decodeMajor33 (w : Nat) : Option Instr :=
  if fld w 0 8 = 0 then some (.uadd (fin 64 (fld w 20 6)) (fin 64 (fld w 14 6)) (fin 64 (fld w 8 6))) else
  if fld w 0 8 = 1 then some (.usub (fin 64 (fld w 20 6)) (fin 64 (fld w 14 6)) (fin 64 (fld w 8 6))) else
  if fld w 0 8 = 2 then some (.umul (fin 64 (fld w 20 6)) (fin 64 (fld w 14 6)) (fin 64 (fld w 8 6))) else
  if fld w 0 8 = 3 then some (.umulhZ (fin 64 (fld w 20 6)) (fin 64 (fld w 14 6)) (fin 64 (fld w 8 6))) else
  if fld w 0 8 = 4 then some (.umulhS (fin 64 (fld w 20 6)) (fin 64 (fld w 14 6)) (fin 64 (fld w 8 6))) else
  if fld w 0 8 = 5 then some (.uminS (fin 64 (fld w 20 6)) (fin 64 (fld w 14 6)) (fin 64 (fld w 8 6))) else
  if fld w 0 8 = 6 then some (.umaxS (fin 64 (fld w 20 6)) (fin 64 (fld w 14 6)) (fin 64 (fld w 8 6))) else
  if fld w 0 8 = 7 then some (.uminZ (fin 64 (fld w 20 6)) (fin 64 (fld w 14 6)) (fin 64 (fld w 8 6))) else
  if fld w 0 8 = 8 then some (.umaxZ (fin 64 (fld w 20 6)) (fin 64 (fld w 14 6)) (fin 64 (fld w 8 6))) else
  if fld w 0 8 = 9 then some (.uand (fin 64 (fld w 20 6)) (fin 64 (fld w 14 6)) (fin 64 (fld w 8 6))) else
  if fld w 0 8 = 10 then some (.uor (fin 64 (fld w 20 6)) (fin 64 (fld w 14 6)) (fin 64 (fld w 8 6))) else
  if fld w 0 8 = 11 then some (.uxor (fin 64 (fld w 20 6)) (fin 64 (fld w 14 6)) (fin 64 (fld w 8 6))) else
  if fld w 0 8 = 12 then some (.uandn (fin 64 (fld w 20 6)) (fin 64 (fld w 14 6)) (fin 64 (fld w 8 6))) else
  if fld w 0 8 = 13 then some (.ushl (fin 64 (fld w 20 6)) (fin 64 (fld w 14 6)) (fin 64 (fld w 8 6))) else
  if fld w 0 8 = 14 then some (.ushr (fin 64 (fld w 20 6)) (fin 64 (fld w 14 6)) (fin 64 (fld w 8 6))) else
  if fld w 0 8 = 15 then some (.usar (fin 64 (fld w 20 6)) (fin 64 (fld w 14 6)) (fin 64 (fld w 8 6))) else
  if fld w 0 8 = 16 then some (.ucmpEq (fin 64 (fld w 20 6)) (fin 64 (fld w 14 6)) (fin 64 (fld w 8 6))) else
  if fld w 0 8 = 17 then some (.ucmpLtS (fin 64 (fld w 20 6)) (fin 64 (fld w 14 6)) (fin 64 (fld w 8 6))) else
  if fld w 0 8 = 18 then some (.ucmpLtZ (fin 64 (fld w 20 6)) (fin 64 (fld w 14 6)) (fin 64 (fld w 8 6))) else
  if fld w 0 8 = 19 then some (.ucmpLeS (fin 64 (fld w 20 6)) (fin 64 (fld w 14 6)) (fin 64 (fld w 8 6))) else
  if fld w 0 8 = 20 then some (.ucmpLeZ (fin 64 (fld w 20 6)) (fin 64 (fld w 14 6)) (fin 64 (fld w 8 6))) else
  if fld w 0 14 = 21 then some (.upopc (fin 64 (fld w 20 6)) (fin 64 (fld w 14 6))) else
  if fld w 0 14 = 22 then some (.uclz (fin 64 (fld w 20 6)) (fin 64 (fld w 14 6))) else
  if fld w 0 14 = 23 then some (.umov (fin 64 (fld w 20 6)) (fin 64 (fld w 14 6))) else
  if fld w 0 8 = 24 then some (.uadd32 (fin 64 (fld w 20 6)) (fin 64 (fld w 14 6)) (fin 64 (fld w 8 6))) else
  if fld w 0 8 = 25 then some (.usub32 (fin 64 (fld w 20 6)) (fin 64 (fld w 14 6)) (fin 64 (fld w 8 6))) else
  none

/-- Major 0x2 of the uniform set. -/
def decodeMajor34 (w : Nat) : Option Instr :=
  some (.uaddi (fin 64 (fld w 20 6)) (fin 64 (fld w 14 6)) (BitVec.ofNat 14 (fld w 0 14)))

/-- Major 0x3 of the uniform set. -/
def decodeMajor35 (w : Nat) : Option Instr :=
  some (.uhi (fin 64 (fld w 20 6)) (BitVec.ofNat 20 (fld w 0 20)))

/-- Major 0x4 of the uniform set. -/
def decodeMajor36 (w : Nat) : Option Instr :=
  some (.uandi (fin 64 (fld w 20 6)) (fin 64 (fld w 14 6)) (BitVec.ofNat 14 (fld w 0 14)))

/-- Major 0x5 of the uniform set. -/
def decodeMajor37 (w : Nat) : Option Instr :=
  some (.uori (fin 64 (fld w 20 6)) (fin 64 (fld w 14 6)) (BitVec.ofNat 14 (fld w 0 14)))

/-- Major 0x6 of the uniform set. -/
def decodeMajor38 (w : Nat) : Option Instr :=
  some (.uxori (fin 64 (fld w 20 6)) (fin 64 (fld w 14 6)) (BitVec.ofNat 14 (fld w 0 14)))

/-- Major 0x7 of the uniform set. -/
def decodeMajor39 (w : Nat) : Option Instr :=
  if fld w 6 8 = 0 then some (.ushli (fin 64 (fld w 20 6)) (fin 64 (fld w 14 6)) (fin 64 (fld w 0 6))) else
  none

/-- Major 0x8 of the uniform set. -/
def decodeMajor40 (w : Nat) : Option Instr :=
  (BCond.ofCode (fld w 22 4)).bind fun c => some (.br c (fin 64 (fld w 16 6)) (BitVec.ofNat 16 (fld w 0 16)))

/-- Major 0x9 of the uniform set. -/
def decodeMajor41 (w : Nat) : Option Instr :=
  some (.brd (fin 8 (fld w 23 3)) (fin 2 (fld w 22 1)) (BitVec.ofNat 22 (fld w 0 22)))

/-- Major 0xa of the uniform set. -/
def decodeMajor42 (w : Nat) : Option Instr :=
  some (.call (BitVec.ofNat 26 (fld w 0 26)))

/-- Major 0xb of the uniform set. -/
def decodeMajor43 (w : Nat) : Option Instr :=
  if fld w 0 14 = 0 ∧ fld w 20 6 = 0 then some (.jmpi (fin 64 (fld w 14 6))) else
  if fld w 0 14 = 1 ∧ fld w 20 6 = 0 then some (.calli (fin 64 (fld w 14 6))) else
  if fld w 0 26 = 2 then some .ret else
  none

/-- Major 0xc of the uniform set. -/
def decodeMajor44 (w : Nat) : Option Instr :=
  if fld w 0 8 = 0 ∧ fld w 14 12 = 0 then some (.nop (fin 64 (fld w 8 6))) else
  if fld w 0 26 = 1 then some .exit else
  if fld w 0 8 = 2 ∧ fld w 14 12 = 0 then some (.trap (fin 64 (fld w 8 6))) else
  if fld w 0 26 = 3 then some .rett else
  if fld w 0 26 = 4 then some .brk else
  if fld w 0 26 = 5 then some .yield else
  none

/-- Major 0xd of the uniform set. -/
def decodeMajor45 (w : Nat) : Option Instr :=
  some (.pjoin (BitVec.ofNat 26 (fld w 0 26)))

/-- Major 0xe of the uniform set. -/
def decodeMajor46 (w : Nat) : Option Instr :=
  if fld w 0 20 = 0 then some (.cfence (fin 64 (fld w 20 6))) else
  if fld w 0 20 = 1 then some (.mfence (fin 64 (fld w 20 6))) else
  if fld w 0 20 = 2 then some (.lfence (fin 64 (fld w 20 6))) else
  if fld w 0 20 = 3 then some (.xfence (fin 64 (fld w 20 6))) else
  if fld w 0 20 = 4 then some (.tfence (fin 64 (fld w 20 6))) else
  if fld w 3 23 = 8 then (Scope.ofCode (fld w 0 3)).bind fun s => some (.fenceAll s) else
  if fld w 3 23 = 9 then (Scope.ofCode (fld w 0 3)).bind fun s => some (.fenceAcq s) else
  if fld w 3 23 = 10 then (Scope.ofCode (fld w 0 3)).bind fun s => some (.fenceRel s) else
  none

/-- Major 0xf of the uniform set. -/
def decodeMajor47 (w : Nat) : Option Instr :=
  if fld w 3 11 = 0 ∧ fld w 20 6 = 0 then (Gate.ofCode (fld w 0 3)).bind fun g => some (.waitGate (fin 64 (fld w 14 6)) g) else
  if fld w 0 8 = 8 ∧ fld w 20 6 = 0 then some (.waitObject (fin 64 (fld w 14 6)) (fin 64 (fld w 8 6))) else
  none

/-- Major 0x10 of the uniform set. -/
def decodeMajor48 (w : Nat) : Option Instr :=
  if fld w 0 14 = 0 ∧ fld w 20 6 = 0 then some (.arrive (fin 64 (fld w 14 6))) else
  if fld w 0 8 = 1 ∧ fld w 20 6 = 0 then some (.arriveExpect (fin 64 (fld w 14 6)) (fin 64 (fld w 8 6))) else
  if fld w 0 14 = 2 ∧ fld w 20 6 = 0 then some (.arriveDrop (fin 64 (fld w 14 6))) else
  if fld w 0 8 = 3 ∧ fld w 20 6 = 0 then some (.binit (fin 64 (fld w 14 6)) (fin 64 (fld w 8 6))) else
  none

/-- Major 0x11 of the uniform set. -/
def decodeMajor49 (w : Nat) : Option Instr :=
  if fld w 0 14 = 0 then some (.uldS32 (fin 64 (fld w 20 6)) (fin 64 (fld w 14 6))) else
  if fld w 0 14 = 1 then some (.uldS64 (fin 64 (fld w 20 6)) (fin 64 (fld w 14 6))) else
  if fld w 0 14 = 2 then some (.uldG32 (fin 64 (fld w 20 6)) (fin 64 (fld w 14 6))) else
  if fld w 0 14 = 3 then some (.uldG64 (fin 64 (fld w 20 6)) (fin 64 (fld w 14 6))) else
  if fld w 0 8 = 8 then some (.uldGAdd (fin 64 (fld w 20 6)) (fin 64 (fld w 14 6)) (fin 64 (fld w 8 6))) else
  if fld w 0 8 = 9 then some (.uldGExch (fin 64 (fld w 20 6)) (fin 64 (fld w 14 6)) (fin 64 (fld w 8 6))) else
  if fld w 0 8 = 10 then some (.uldGCas (fin 64 (fld w 20 6)) (fin 64 (fld w 14 6)) (fin 64 (fld w 8 6))) else
  none

/-- Major 0x12 of the uniform set. -/
def decodeMajor50 (w : Nat) : Option Instr :=
  if fld w 0 8 = 0 ∧ fld w 20 6 = 0 then some (.ustS32 (fin 64 (fld w 14 6)) (fin 64 (fld w 8 6))) else
  if fld w 0 8 = 1 ∧ fld w 20 6 = 0 then some (.ustS64 (fin 64 (fld w 14 6)) (fin 64 (fld w 8 6))) else
  if fld w 0 8 = 2 ∧ fld w 20 6 = 0 then some (.ustG32 (fin 64 (fld w 14 6)) (fin 64 (fld w 8 6))) else
  if fld w 0 8 = 3 ∧ fld w 20 6 = 0 then some (.ustG64 (fin 64 (fld w 14 6)) (fin 64 (fld w 8 6))) else
  none

/-- Major 0x13 of the uniform set. -/
def decodeMajor51 (w : Nat) : Option Instr :=
  if fld w 0 7 = 0 then some (.readlane (fin 64 (fld w 20 6)) (fin 128 (fld w 13 7)) (fin 64 (fld w 7 6))) else
  if fld w 0 13 = 1 then some (.readfirst (fin 64 (fld w 20 6)) (fin 128 (fld w 13 7))) else
  if fld w 0 13 = 2 then some (.voteAny (fin 64 (fld w 20 6)) (fin 128 (fld w 13 7))) else
  if fld w 0 13 = 3 then some (.voteAll (fin 64 (fld w 20 6)) (fin 128 (fld w 13 7))) else
  if fld w 0 13 = 4 then some (.ballot (fin 64 (fld w 20 6)) (fin 128 (fld w 13 7))) else
  none

/-- Major 0x14 of the uniform set. -/
def decodeMajor52 (w : Nat) : Option Instr :=
  if fld w 0 14 = 0 ∧ fld w 23 3 = 0 then some (.umaskSet (fin 8 (fld w 20 3)) (fin 64 (fld w 14 6))) else
  if fld w 0 14 = 1 ∧ fld w 17 3 = 0 then some (.umaskGet (fin 64 (fld w 20 6)) (fin 8 (fld w 14 3))) else
  if fld w 0 8 = 2 ∧ fld w 11 3 = 0 ∧ fld w 17 3 = 0 ∧ fld w 23 3 = 0 then some (.umaskAnd (fin 8 (fld w 20 3)) (fin 8 (fld w 14 3)) (fin 8 (fld w 8 3))) else
  if fld w 0 8 = 3 ∧ fld w 11 3 = 0 ∧ fld w 17 3 = 0 ∧ fld w 23 3 = 0 then some (.umaskOr (fin 8 (fld w 20 3)) (fin 8 (fld w 14 3)) (fin 8 (fld w 8 3))) else
  if fld w 0 8 = 4 ∧ fld w 11 3 = 0 ∧ fld w 17 3 = 0 ∧ fld w 23 3 = 0 then some (.umaskXor (fin 8 (fld w 20 3)) (fin 8 (fld w 14 3)) (fin 8 (fld w 8 3))) else
  if fld w 0 8 = 5 ∧ fld w 11 3 = 0 ∧ fld w 17 3 = 0 ∧ fld w 23 3 = 0 then some (.umaskAndn (fin 8 (fld w 20 3)) (fin 8 (fld w 14 3)) (fin 8 (fld w 8 3))) else
  if fld w 0 14 = 6 ∧ fld w 17 3 = 0 ∧ fld w 23 3 = 0 then some (.umaskNot (fin 8 (fld w 20 3)) (fin 8 (fld w 14 3))) else
  none

/-- Major 0x15 of the uniform set. -/
def decodeMajor53 (w : Nat) : Option Instr :=
  if fld w 0 8 = 0 ∧ fld w 20 6 = 0 then some (.mload (fin 64 (fld w 14 6)) (fin 64 (fld w 8 6))) else
  if fld w 0 14 = 1 then some (.mopen (fin 64 (fld w 20 6)) (fin 64 (fld w 14 6))) else
  if fld w 0 14 = 2 ∧ fld w 20 6 = 0 then some (.mclose (fin 64 (fld w 14 6))) else
  if fld w 0 14 = 3 ∧ fld w 20 6 = 0 then some (.epi (fin 64 (fld w 14 6))) else
  if fld w 0 8 = 4 ∧ fld w 20 6 = 0 then some (.amovLd (fin 64 (fld w 14 6)) (fin 64 (fld w 8 6))) else
  if fld w 0 8 = 5 ∧ fld w 20 6 = 0 then some (.amovSt (fin 64 (fld w 14 6)) (fin 64 (fld w 8 6))) else
  if fld w 0 20 = 6 then some (.mstat (fin 64 (fld w 20 6))) else
  none

/-- Major 0x16 of the uniform set. -/
def decodeMajor54 (w : Nat) : Option Instr :=
  if fld w 0 8 = 0 then some (.ginfo (fin 64 (fld w 20 6)) (fin 64 (fld w 14 6)) (fin 64 (fld w 8 6))) else
  if fld w 0 8 = 1 then some (.gbind (fin 64 (fld w 20 6)) (fin 64 (fld w 14 6)) (fin 64 (fld w 8 6))) else
  none

/-- Major 0x17 of the uniform set. -/
def decodeMajor55 (w : Nat) : Option Instr :=
  if fld w 0 8 = 0 then some (.xbind (fin 64 (fld w 20 6)) (fin 64 (fld w 14 6)) (fin 64 (fld w 8 6))) else
  if fld w 0 14 = 1 ∧ fld w 20 6 = 0 then some (.xpermit (fin 64 (fld w 14 6))) else
  if fld w 0 8 = 2 then some (.xsend (fin 64 (fld w 20 6)) (fin 64 (fld w 14 6)) (fin 64 (fld w 8 6))) else
  if fld w 0 14 = 3 then some (.xstat (fin 64 (fld w 20 6)) (fin 64 (fld w 14 6))) else
  none

/-- Major 0x18 of the uniform set. -/
def decodeMajor56 (w : Nat) : Option Instr :=
  if fld w 0 16 = 0 then some (.fbulk (fin 64 (fld w 20 6)) (fin 16 (fld w 16 4))) else
  if fld w 0 14 = 1 then some (.fstat (fin 64 (fld w 20 6)) (fin 64 (fld w 14 6))) else
  none

/-- Major 0x19 of the uniform set. -/
def decodeMajor57 (w : Nat) : Option Instr :=
  if fld w 0 8 = 0 then some (.vcost (fin 64 (fld w 20 6)) (fin 64 (fld w 14 6)) (fin 64 (fld w 8 6))) else
  if fld w 0 8 = 1 then some (.vtest (fin 64 (fld w 20 6)) (fin 64 (fld w 14 6)) (fin 64 (fld w 8 6))) else
  none

/-- Major 0x1a of the uniform set. -/
def decodeMajor58 (w : Nat) : Option Instr :=
  if fld w 0 8 = 0 ∧ fld w 14 6 = 0 then some (.umovs (fin 64 (fld w 20 6)) (fin 64 (fld w 8 6))) else
  if fld w 0 8 = 1 ∧ fld w 20 6 = 0 then some (.umovt (fin 64 (fld w 14 6)) (fin 64 (fld w 8 6))) else
  if fld w 0 8 = 2 ∧ fld w 20 6 = 0 then some (.event (fin 64 (fld w 14 6)) (fin 64 (fld w 8 6))) else
  if fld w 0 26 = 3 then some .tmark else
  none

/-- Major 0x1b of the uniform set. -/
def decodeMajor59 (w : Nat) : Option Instr :=
  if fld w 0 14 = 0 then some (.dispatch (fin 64 (fld w 20 6)) (fin 64 (fld w 14 6))) else
  if fld w 0 14 = 1 then some (.lease (fin 64 (fld w 20 6)) (fin 64 (fld w 14 6))) else
  if fld w 0 8 = 2 then some (.carve (fin 64 (fld w 20 6)) (fin 64 (fld w 14 6)) (fin 64 (fld w 8 6))) else
  if fld w 0 8 = 3 then some (.ctxsave (fin 64 (fld w 20 6)) (fin 64 (fld w 14 6)) (fin 64 (fld w 8 6))) else
  if fld w 0 8 = 4 then some (.ctxload (fin 64 (fld w 20 6)) (fin 64 (fld w 14 6)) (fin 64 (fld w 8 6))) else
  if fld w 0 8 = 5 ∧ fld w 20 6 = 0 then some (.tlbinv (fin 64 (fld w 14 6)) (fin 64 (fld w 8 6))) else
  if fld w 0 8 = 6 then some (.keyset (fin 64 (fld w 20 6)) (fin 64 (fld w 14 6)) (fin 64 (fld w 8 6))) else
  none

/-- The instruction a word lays out, before the checks of its operands: chosen by SET and MAJOR (09_encoding R99, R104, R110). -/
def decodeRaw (w : Nat) : Option Instr :=
  match fld w 26 6 with
  | 1 => decodeMajor1 w
  | 3 => decodeMajor3 w
  | 4 => decodeMajor4 w
  | 5 => decodeMajor5 w
  | 6 => decodeMajor6 w
  | 7 => decodeMajor7 w
  | 8 => decodeMajor8 w
  | 9 => decodeMajor9 w
  | 10 => decodeMajor10 w
  | 11 => decodeMajor11 w
  | 12 => decodeMajor12 w
  | 13 => decodeMajor13 w
  | 14 => decodeMajor14 w
  | 15 => decodeMajor15 w
  | 16 => decodeMajor16 w
  | 17 => decodeMajor17 w
  | 18 => decodeMajor18 w
  | 19 => decodeMajor19 w
  | 20 => decodeMajor20 w
  | 21 => decodeMajor21 w
  | 22 => decodeMajor22 w
  | 23 => decodeMajor23 w
  | 24 => decodeMajor24 w
  | 25 => decodeMajor25 w
  | 26 => decodeMajor26 w
  | 27 => decodeMajor27 w
  | 2 => decodeMajor2 w
  | 28 => decodeMajor28 w
  | 29 => decodeMajor29 w
  | 30 => decodeMajor30 w
  | 31 => decodeMajor31 w
  | 33 => decodeMajor33 w
  | 34 => decodeMajor34 w
  | 35 => decodeMajor35 w
  | 36 => decodeMajor36 w
  | 37 => decodeMajor37 w
  | 38 => decodeMajor38 w
  | 39 => decodeMajor39 w
  | 40 => decodeMajor40 w
  | 41 => decodeMajor41 w
  | 42 => decodeMajor42 w
  | 43 => decodeMajor43 w
  | 44 => decodeMajor44 w
  | 45 => decodeMajor45 w
  | 46 => decodeMajor46 w
  | 47 => decodeMajor47 w
  | 48 => decodeMajor48 w
  | 49 => decodeMajor49 w
  | 50 => decodeMajor50 w
  | 51 => decodeMajor51 w
  | 52 => decodeMajor52 w
  | 53 => decodeMajor53 w
  | 54 => decodeMajor54 w
  | 55 => decodeMajor55 w
  | 56 => decodeMajor56 w
  | 57 => decodeMajor57 w
  | 58 => decodeMajor58 w
  | 59 => decodeMajor59 w
  | _ => none

/-- ASYNC sub 4 inside a service group: TVRET, with the vd field zero (22_traversal R294, R298). -/
def decodeTvret (w : Nat) : Option Instr :=
  if fld w 0 9 = 64 ∧ fld w 16 7 = 0 then some (.tvret (fin 8 (fld w 23 3)) (fin 128 (fld w 9 7))) else none

/-- The decoder of one word. `svc` says that the issuing group is a service group, where ASYNC sub 4 is TVRET
(22_traversal R294). A word that is no instruction is refused by name. -/
def decode (svc : Bool) (w : Word) : Except DecodeError Instr :=
  let n := w.toNat
  let raw := if svc ∧ fld n 26 6 = 31 ∧ fld n 4 5 = 4 then decodeTvret n else decodeRaw n
  match raw with
  | none => .error .reserved
  | some i => if wellFormed i then .ok i else .error .illFormed

/-- The little-endian word of four bytes (00_scope R4, 09_encoding R99). -/
def wordOfBytes (b0 b1 b2 b3 : Byte) : Word :=
  BitVec.ofNat 32 (b0.toNat + 2 ^ 8 * b1.toNat + 2 ^ 16 * b2.toNat + 2 ^ 24 * b3.toNat)

/-- The decoder on bytes: the first four bytes are the word, the rest is left over. -/
def decodeBytes (svc : Bool) : List Byte → Except DecodeError (Instr × List Byte)
  | b0 :: b1 :: b2 :: b3 :: rest =>
    match decode svc (wordOfBytes b0 b1 b2 b3) with
    | .ok i => .ok (i, rest)
    | .error e => .error e
  | _ => .error .tooShort

/-- The host's question: what the decoder reads from an instruction of a group that is no service group, whose bits are
`w`. Every instruction is one word, so `nbits` only bounds the bits given. -/
def decodeTableWord (nbits w : Nat) : Option Instr :=
  let n := w % 2 ^ nbits
  match decodeBytes false [BitVec.ofNat 8 n, BitVec.ofNat 8 (n / 2 ^ 8), BitVec.ofNat 8 (n / 2 ^ 16), BitVec.ofNat 8 (n / 2 ^ 24)] with
  | .ok (i, _) => some i
  | .error _ => none

/-- The word of an instruction as a number, written from the same encoding tables; none for an event of the part, which has no word. -/
def encodeNat : Instr → Option Nat
  | .iadd k d a b => some (67108864 + k.val * 8388608 + d.val * 65536 + a.val * 512 + b.val * 4)
  | .isub k d a b => some (67108865 + k.val * 8388608 + d.val * 65536 + a.val * 512 + b.val * 4)
  | .imul k d a b => some (67108866 + k.val * 8388608 + d.val * 65536 + a.val * 512 + b.val * 4)
  | .imulhZ k d a b => some (67108867 + k.val * 8388608 + d.val * 65536 + a.val * 512 + b.val * 4)
  | .iminS k d a b => some (201326592 + k.val * 8388608 + d.val * 65536 + a.val * 512 + b.val * 4)
  | .imaxS k d a b => some (201326593 + k.val * 8388608 + d.val * 65536 + a.val * 512 + b.val * 4)
  | .iminZ k d a b => some (201326594 + k.val * 8388608 + d.val * 65536 + a.val * 512 + b.val * 4)
  | .imaxZ k d a b => some (201326595 + k.val * 8388608 + d.val * 65536 + a.val * 512 + b.val * 4)
  | .and k d a b => some (268435456 + k.val * 8388608 + d.val * 65536 + a.val * 512 + b.val * 4)
  | .or k d a b => some (268435457 + k.val * 8388608 + d.val * 65536 + a.val * 512 + b.val * 4)
  | .xor k d a b => some (268435458 + k.val * 8388608 + d.val * 65536 + a.val * 512 + b.val * 4)
  | .andn k d a b => some (268435459 + k.val * 8388608 + d.val * 65536 + a.val * 512 + b.val * 4)
  | .shl k d a b => some (335544320 + k.val * 8388608 + d.val * 65536 + a.val * 512 + b.val * 4)
  | .shr k d a b => some (335544321 + k.val * 8388608 + d.val * 65536 + a.val * 512 + b.val * 4)
  | .sar k d a b => some (335544322 + k.val * 8388608 + d.val * 65536 + a.val * 512 + b.val * 4)
  | .rotl k d a b => some (335544323 + k.val * 8388608 + d.val * 65536 + a.val * 512 + b.val * 4)
  | .popc k d a => some (402653184 + k.val * 8388608 + d.val * 65536 + a.val * 512)
  | .clz k d a => some (402653185 + k.val * 8388608 + d.val * 65536 + a.val * 512)
  | .ctz k d a => some (402653186 + k.val * 8388608 + d.val * 65536 + a.val * 512)
  | .brev k d a => some (402653187 + k.val * 8388608 + d.val * 65536 + a.val * 512)
  | .bfeZ k d a b => some (469762048 + k.val * 8388608 + d.val * 65536 + a.val * 512 + b.val * 4)
  | .bfeS k d a b => some (469762049 + k.val * 8388608 + d.val * 65536 + a.val * 512 + b.val * 4)
  | .bfi k d a b => some (469762050 + k.val * 8388608 + d.val * 65536 + a.val * 512 + b.val * 4)
  | .perm k d a b => some (469762051 + k.val * 8388608 + d.val * 65536 + a.val * 512 + b.val * 4)
  | .icmp k c e a b t => some (536870912 + k.val * 8388608 + c.code * 524288 + e.val * 65536 + a.val * 512 + b.val * 4 + t.code)
  | .iadd64 k d a b => some (603979776 + k.val * 8388608 + d.val * 65536 + a.val * 512 + b.val * 4)
  | .isub64 k d a b => some (603979777 + k.val * 8388608 + d.val * 65536 + a.val * 512 + b.val * 4)
  | .shl64 k d a b => some (603979778 + k.val * 8388608 + d.val * 65536 + a.val * 512 + b.val * 4)
  | .shr64 k d a b => some (603979779 + k.val * 8388608 + d.val * 65536 + a.val * 512 + b.val * 4)
  | .imadLo k d a b => some (671088640 + k.val * 8388608 + d.val * 65536 + a.val * 512 + b.val * 4)
  | .imadWideZ k d a b => some (671088641 + k.val * 8388608 + d.val * 65536 + a.val * 512 + b.val * 4)
  | .imadWideS k d a b => some (671088642 + k.val * 8388608 + d.val * 65536 + a.val * 512 + b.val * 4)
  | .imulhS k d a b => some (671088643 + k.val * 8388608 + d.val * 65536 + a.val * 512 + b.val * 4)
  | .sel k d a b => some (738197504 + k.val * 8388608 + d.val * 65536 + a.val * 512 + b.val * 4)
  | .mov k d a => some (738197505 + k.val * 8388608 + d.val * 65536 + a.val * 512)
  | .laneid k d => some (738197506 + k.val * 8388608 + d.val * 65536)
  | .ialugIadd k d a g => some (805306368 + k.val * 8388608 + d.val * 65536 + a.val * 512 + g.val * 8)
  | .ialugIsub k d a g => some (805306369 + k.val * 8388608 + d.val * 65536 + a.val * 512 + g.val * 8)
  | .ialugImul k d a g => some (805306370 + k.val * 8388608 + d.val * 65536 + a.val * 512 + g.val * 8)
  | .ialugAnd k d a g => some (805306371 + k.val * 8388608 + d.val * 65536 + a.val * 512 + g.val * 8)
  | .ialugOr k d a g => some (805306372 + k.val * 8388608 + d.val * 65536 + a.val * 512 + g.val * 8)
  | .ialugXor k d a g => some (805306373 + k.val * 8388608 + d.val * 65536 + a.val * 512 + g.val * 8)
  | .ialugShl k d a g => some (805306374 + k.val * 8388608 + d.val * 65536 + a.val * 512 + g.val * 8)
  | .ialugShr k d a g => some (805306375 + k.val * 8388608 + d.val * 65536 + a.val * 512 + g.val * 8)
  | .falugFadd k d a g => some (872415232 + k.val * 8388608 + d.val * 65536 + a.val * 512 + g.val * 8)
  | .falugFsub k d a g => some (872415233 + k.val * 8388608 + d.val * 65536 + a.val * 512 + g.val * 8)
  | .falugFmul k d a g => some (872415234 + k.val * 8388608 + d.val * 65536 + a.val * 512 + g.val * 8)
  | .falugFma k d a g => some (872415235 + k.val * 8388608 + d.val * 65536 + a.val * 512 + g.val * 8)
  | .falugFmin k d a g => some (872415236 + k.val * 8388608 + d.val * 65536 + a.val * 512 + g.val * 8)
  | .falugFmax k d a g => some (872415237 + k.val * 8388608 + d.val * 65536 + a.val * 512 + g.val * 8)
  | .movg k d g => some (872415238 + k.val * 8388608 + d.val * 65536 + g.val * 8)
  | .fadd k d a b t => some (939524096 + k.val * 8388608 + d.val * 65536 + a.val * 512 + b.val * 4 + t.code)
  | .fsub k d a b t => some (1006632960 + k.val * 8388608 + d.val * 65536 + a.val * 512 + b.val * 4 + t.code)
  | .fmul k d a b t => some (1073741824 + k.val * 8388608 + d.val * 65536 + a.val * 512 + b.val * 4 + t.code)
  | .fma k d a b t => some (1140850688 + k.val * 8388608 + d.val * 65536 + a.val * 512 + b.val * 4 + t.code)
  | .fmin k d a b t => some (1207959552 + k.val * 8388608 + d.val * 65536 + a.val * 512 + b.val * 4 + t.code)
  | .fmax k d a b t => some (1275068416 + k.val * 8388608 + d.val * 65536 + a.val * 512 + b.val * 4 + t.code)
  | .fcmp k c e a b t => some (1342177280 + k.val * 8388608 + c.code * 524288 + e.val * 65536 + a.val * 512 + b.val * 4 + t.code)
  | .cvt k d a c m => some (1409286144 + k.val * 8388608 + d.val * 65536 + a.val * 512 + c.val * 4 + m.code)
  | .xfnRcp k d a l => some (1476395008 + k.val * 8388608 + d.val * 65536 + a.val * 512 + l.val)
  | .xfnRsq k d a l => some (1476395024 + k.val * 8388608 + d.val * 65536 + a.val * 512 + l.val)
  | .xfnSqrt k d a l => some (1476395040 + k.val * 8388608 + d.val * 65536 + a.val * 512 + l.val)
  | .xfnExp2 k d a l => some (1476395056 + k.val * 8388608 + d.val * 65536 + a.val * 512 + l.val)
  | .xfnLog2 k d a l => some (1476395072 + k.val * 8388608 + d.val * 65536 + a.val * 512 + l.val)
  | .xfnSin k d a l => some (1476395088 + k.val * 8388608 + d.val * 65536 + a.val * 512 + l.val)
  | .xfnCos k d a l => some (1476395104 + k.val * 8388608 + d.val * 65536 + a.val * 512 + l.val)
  | .xfnTanh k d a l => some (1476395120 + k.val * 8388608 + d.val * 65536 + a.val * 512 + l.val)
  | .shflIdx k d a b => some (1543503872 + k.val * 8388608 + d.val * 65536 + a.val * 512 + b.val * 4)
  | .shflXor k d a b => some (1543503873 + k.val * 8388608 + d.val * 65536 + a.val * 512 + b.val * 4)
  | .shflUp k d a b => some (1543503874 + k.val * 8388608 + d.val * 65536 + a.val * 512 + b.val * 4)
  | .shflDown k d a b => some (1543503875 + k.val * 8388608 + d.val * 65536 + a.val * 512 + b.val * 4)
  | .ldsZ8 k d a g l => some (1610612736 + k.val * 8388608 + d.val * 65536 + a.val * 512 + g.val * 64 + l.val)
  | .ldsZ16 k d a g l => some (1610612752 + k.val * 8388608 + d.val * 65536 + a.val * 512 + g.val * 64 + l.val)
  | .lds32 k d a g l => some (1610612768 + k.val * 8388608 + d.val * 65536 + a.val * 512 + g.val * 64 + l.val)
  | .lds64 k d a g l => some (1610612784 + k.val * 8388608 + d.val * 65536 + a.val * 512 + g.val * 64 + l.val)
  | .ldsxS8 k d a g l => some (1677721600 + k.val * 8388608 + d.val * 65536 + a.val * 512 + g.val * 64 + l.val)
  | .ldsxS16 k d a g l => some (1677721616 + k.val * 8388608 + d.val * 65536 + a.val * 512 + g.val * 64 + l.val)
  | .ldsx128 k d a g l => some (1677721632 + k.val * 8388608 + d.val * 65536 + a.val * 512 + g.val * 64 + l.val)
  | .sts8 k d a g => some (1744830464 + k.val * 8388608 + d.val * 65536 + a.val * 512 + g.val * 64)
  | .sts16 k d a g => some (1744830480 + k.val * 8388608 + d.val * 65536 + a.val * 512 + g.val * 64)
  | .sts32 k d a g => some (1744830496 + k.val * 8388608 + d.val * 65536 + a.val * 512 + g.val * 64)
  | .sts64 k d a g => some (1744830512 + k.val * 8388608 + d.val * 65536 + a.val * 512 + g.val * 64)
  | .atomsAdd k d a g l => some (1811939328 + k.val * 8388608 + d.val * 65536 + a.val * 512 + g.val * 64 + l.val)
  | .atomsExch k d a g l => some (1811939344 + k.val * 8388608 + d.val * 65536 + a.val * 512 + g.val * 64 + l.val)
  | .atomsCas k d a g l => some (1811939360 + k.val * 8388608 + d.val * 65536 + a.val * 512 + g.val * 64 + l.val)
  | .atomsMaxS k d a g l => some (1811939376 + k.val * 8388608 + d.val * 65536 + a.val * 512 + g.val * 64 + l.val)
  | .atomsxAnd k d a g l => some (134217728 + k.val * 8388608 + d.val * 65536 + a.val * 512 + g.val * 64 + l.val)
  | .atomsxOr k d a g l => some (134217744 + k.val * 8388608 + d.val * 65536 + a.val * 512 + g.val * 64 + l.val)
  | .atomsxXor k d a g l => some (134217760 + k.val * 8388608 + d.val * 65536 + a.val * 512 + g.val * 64 + l.val)
  | .atomsxMinS k d a g l => some (134217776 + k.val * 8388608 + d.val * 65536 + a.val * 512 + g.val * 64 + l.val)
  | .ldg32 k d a g => some (1879048192 + k.val * 8388608 + d.val * 65536 + a.val * 512 + g.val * 64)
  | .ldg64 k d a g => some (1879048208 + k.val * 8388608 + d.val * 65536 + a.val * 512 + g.val * 64)
  | .ldg128 k d a g => some (1879048224 + k.val * 8388608 + d.val * 65536 + a.val * 512 + g.val * 64)
  | .ldg32Acq k d a g => some (1879048240 + k.val * 8388608 + d.val * 65536 + a.val * 512 + g.val * 64)
  | .stg8 k d a g => some (1946157056 + k.val * 8388608 + d.val * 65536 + a.val * 512 + g.val * 64)
  | .stg16 k d a g => some (1946157072 + k.val * 8388608 + d.val * 65536 + a.val * 512 + g.val * 64)
  | .stg32 k d a g => some (1946157088 + k.val * 8388608 + d.val * 65536 + a.val * 512 + g.val * 64)
  | .stg64 k d a g => some (1946157104 + k.val * 8388608 + d.val * 65536 + a.val * 512 + g.val * 64)
  | .mstream k d a s t => some (2013265920 + k.val * 8388608 + d.val * 65536 + a.val * 512 + s.val * 16 + t.code)
  | .tcopy k d a => some (2080374784 + k.val * 8388608 + d.val * 65536 + a.val * 512)
  | .tcopyq k d a => some (2080374800 + k.val * 8388608 + d.val * 65536 + a.val * 512)
  | .atomg k d a o => some (2080374816 + k.val * 8388608 + d.val * 65536 + a.val * 512 + o.code)
  | .tvwalk k d a => some (2080374832 + k.val * 8388608 + d.val * 65536 + a.val * 512)
  | .tvcut k d a => some (2080374848 + k.val * 8388608 + d.val * 65536 + a.val * 512)
  | .tvret k a => some (2080374848 + k.val * 8388608 + a.val * 512)
  | .tvresume k d a => some (2080374864 + k.val * 8388608 + d.val * 65536 + a.val * 512)
  | .tvstat k d a => some (2080374880 + k.val * 8388608 + d.val * 65536 + a.val * 512)
  | .gput k d a => some (2080374896 + k.val * 8388608 + d.val * 65536 + a.val * 512)
  | .gtake k d a => some (2080374912 + k.val * 8388608 + d.val * 65536 + a.val * 512)
  | .stgRel k d a s => some (2080374928 + k.val * 8388608 + d.val * 65536 + a.val * 512 + s.code)
  | .uadd d a b => some (2214592512 + d.val * 1048576 + a.val * 16384 + b.val * 256)
  | .usub d a b => some (2214592513 + d.val * 1048576 + a.val * 16384 + b.val * 256)
  | .umul d a b => some (2214592514 + d.val * 1048576 + a.val * 16384 + b.val * 256)
  | .umulhZ d a b => some (2214592515 + d.val * 1048576 + a.val * 16384 + b.val * 256)
  | .umulhS d a b => some (2214592516 + d.val * 1048576 + a.val * 16384 + b.val * 256)
  | .uminS d a b => some (2214592517 + d.val * 1048576 + a.val * 16384 + b.val * 256)
  | .umaxS d a b => some (2214592518 + d.val * 1048576 + a.val * 16384 + b.val * 256)
  | .uminZ d a b => some (2214592519 + d.val * 1048576 + a.val * 16384 + b.val * 256)
  | .umaxZ d a b => some (2214592520 + d.val * 1048576 + a.val * 16384 + b.val * 256)
  | .uand d a b => some (2214592521 + d.val * 1048576 + a.val * 16384 + b.val * 256)
  | .uor d a b => some (2214592522 + d.val * 1048576 + a.val * 16384 + b.val * 256)
  | .uxor d a b => some (2214592523 + d.val * 1048576 + a.val * 16384 + b.val * 256)
  | .uandn d a b => some (2214592524 + d.val * 1048576 + a.val * 16384 + b.val * 256)
  | .ushl d a b => some (2214592525 + d.val * 1048576 + a.val * 16384 + b.val * 256)
  | .ushr d a b => some (2214592526 + d.val * 1048576 + a.val * 16384 + b.val * 256)
  | .usar d a b => some (2214592527 + d.val * 1048576 + a.val * 16384 + b.val * 256)
  | .ucmpEq d a b => some (2214592528 + d.val * 1048576 + a.val * 16384 + b.val * 256)
  | .ucmpLtS d a b => some (2214592529 + d.val * 1048576 + a.val * 16384 + b.val * 256)
  | .ucmpLtZ d a b => some (2214592530 + d.val * 1048576 + a.val * 16384 + b.val * 256)
  | .ucmpLeS d a b => some (2214592531 + d.val * 1048576 + a.val * 16384 + b.val * 256)
  | .ucmpLeZ d a b => some (2214592532 + d.val * 1048576 + a.val * 16384 + b.val * 256)
  | .upopc d a => some (2214592533 + d.val * 1048576 + a.val * 16384)
  | .uclz d a => some (2214592534 + d.val * 1048576 + a.val * 16384)
  | .umov d a => some (2214592535 + d.val * 1048576 + a.val * 16384)
  | .uadd32 d a b => some (2214592536 + d.val * 1048576 + a.val * 16384 + b.val * 256)
  | .usub32 d a b => some (2214592537 + d.val * 1048576 + a.val * 16384 + b.val * 256)
  | .uaddi d a i => some (2281701376 + d.val * 1048576 + a.val * 16384 + i.toNat)
  | .uhi d i => some (2348810240 + d.val * 1048576 + i.toNat)
  | .uandi d a i => some (2415919104 + d.val * 1048576 + a.val * 16384 + i.toNat)
  | .uori d a i => some (2483027968 + d.val * 1048576 + a.val * 16384 + i.toNat)
  | .uxori d a i => some (2550136832 + d.val * 1048576 + a.val * 16384 + i.toNat)
  | .ushli d a n => some (2617245696 + d.val * 1048576 + a.val * 16384 + n.val)
  | .br c a o => some (2684354560 + c.code * 4194304 + a.val * 65536 + o.toNat)
  | .brd k i o => some (2751463424 + k.val * 8388608 + i.val * 4194304 + o.toNat)
  | .call o => some (2818572288 + o.toNat)
  | .jmpi a => some (2885681152 + a.val * 16384)
  | .calli a => some (2885681153 + a.val * 16384)
  | .ret => some (2885681154)
  | .nop n => some (2952790016 + n.val * 256)
  | .exit => some (2952790017)
  | .trap c => some (2952790018 + c.val * 256)
  | .rett => some (2952790019)
  | .brk => some (2952790020)
  | .yield => some (2952790021)
  | .pjoin o => some (3019898880 + o.toNat)
  | .cfence d => some (3087007744 + d.val * 1048576)
  | .mfence d => some (3087007745 + d.val * 1048576)
  | .lfence d => some (3087007746 + d.val * 1048576)
  | .xfence d => some (3087007747 + d.val * 1048576)
  | .tfence d => some (3087007748 + d.val * 1048576)
  | .fenceAll s => some (3087007808 + s.code)
  | .fenceAcq s => some (3087007816 + s.code)
  | .fenceRel s => some (3087007824 + s.code)
  | .waitGate a g => some (3154116608 + a.val * 16384 + g.code)
  | .waitObject a b => some (3154116616 + a.val * 16384 + b.val * 256)
  | .arrive a => some (3221225472 + a.val * 16384)
  | .arriveExpect a b => some (3221225473 + a.val * 16384 + b.val * 256)
  | .arriveDrop a => some (3221225474 + a.val * 16384)
  | .binit a b => some (3221225475 + a.val * 16384 + b.val * 256)
  | .uldS32 d a => some (3288334336 + d.val * 1048576 + a.val * 16384)
  | .uldS64 d a => some (3288334337 + d.val * 1048576 + a.val * 16384)
  | .uldG32 d a => some (3288334338 + d.val * 1048576 + a.val * 16384)
  | .uldG64 d a => some (3288334339 + d.val * 1048576 + a.val * 16384)
  | .uldGAdd d a b => some (3288334344 + d.val * 1048576 + a.val * 16384 + b.val * 256)
  | .uldGExch d a b => some (3288334345 + d.val * 1048576 + a.val * 16384 + b.val * 256)
  | .uldGCas d a b => some (3288334346 + d.val * 1048576 + a.val * 16384 + b.val * 256)
  | .ustS32 a b => some (3355443200 + a.val * 16384 + b.val * 256)
  | .ustS64 a b => some (3355443201 + a.val * 16384 + b.val * 256)
  | .ustG32 a b => some (3355443202 + a.val * 16384 + b.val * 256)
  | .ustG64 a b => some (3355443203 + a.val * 16384 + b.val * 256)
  | .readlane d v b => some (3422552064 + d.val * 1048576 + v.val * 8192 + b.val * 128)
  | .readfirst d v => some (3422552065 + d.val * 1048576 + v.val * 8192)
  | .voteAny d v => some (3422552066 + d.val * 1048576 + v.val * 8192)
  | .voteAll d v => some (3422552067 + d.val * 1048576 + v.val * 8192)
  | .ballot d v => some (3422552068 + d.val * 1048576 + v.val * 8192)
  | .umaskSet d a => some (3489660928 + d.val * 1048576 + a.val * 16384)
  | .umaskGet d a => some (3489660929 + d.val * 1048576 + a.val * 16384)
  | .umaskAnd d a b => some (3489660930 + d.val * 1048576 + a.val * 16384 + b.val * 256)
  | .umaskOr d a b => some (3489660931 + d.val * 1048576 + a.val * 16384 + b.val * 256)
  | .umaskXor d a b => some (3489660932 + d.val * 1048576 + a.val * 16384 + b.val * 256)
  | .umaskAndn d a b => some (3489660933 + d.val * 1048576 + a.val * 16384 + b.val * 256)
  | .umaskNot d a => some (3489660934 + d.val * 1048576 + a.val * 16384)
  | .mload a b => some (3556769792 + a.val * 16384 + b.val * 256)
  | .mopen d a => some (3556769793 + d.val * 1048576 + a.val * 16384)
  | .mclose a => some (3556769794 + a.val * 16384)
  | .epi a => some (3556769795 + a.val * 16384)
  | .amovLd a b => some (3556769796 + a.val * 16384 + b.val * 256)
  | .amovSt a b => some (3556769797 + a.val * 16384 + b.val * 256)
  | .mstat d => some (3556769798 + d.val * 1048576)
  | .ginfo d a b => some (3623878656 + d.val * 1048576 + a.val * 16384 + b.val * 256)
  | .gbind d a b => some (3623878657 + d.val * 1048576 + a.val * 16384 + b.val * 256)
  | .xbind d a b => some (3690987520 + d.val * 1048576 + a.val * 16384 + b.val * 256)
  | .xpermit a => some (3690987521 + a.val * 16384)
  | .xsend d a b => some (3690987522 + d.val * 1048576 + a.val * 16384 + b.val * 256)
  | .xstat d a => some (3690987523 + d.val * 1048576 + a.val * 16384)
  | .fbulk d a => some (3758096384 + d.val * 1048576 + a.val * 65536)
  | .fstat d a => some (3758096385 + d.val * 1048576 + a.val * 16384)
  | .vcost d a b => some (3825205248 + d.val * 1048576 + a.val * 16384 + b.val * 256)
  | .vtest d a b => some (3825205249 + d.val * 1048576 + a.val * 16384 + b.val * 256)
  | .umovs d r => some (3892314112 + d.val * 1048576 + r.val * 256)
  | .umovt a r => some (3892314113 + a.val * 16384 + r.val * 256)
  | .event a b => some (3892314114 + a.val * 16384 + b.val * 256)
  | .tmark => some (3892314115)
  | .dispatch d a => some (3959422976 + d.val * 1048576 + a.val * 16384)
  | .lease d a => some (3959422977 + d.val * 1048576 + a.val * 16384)
  | .carve d a b => some (3959422978 + d.val * 1048576 + a.val * 16384 + b.val * 256)
  | .ctxsave d a b => some (3959422979 + d.val * 1048576 + a.val * 16384 + b.val * 256)
  | .ctxload d a b => some (3959422980 + d.val * 1048576 + a.val * 16384 + b.val * 256)
  | .tlbinv a b => some (3959422981 + a.val * 16384 + b.val * 256)
  | .keyset d a b => some (3959422982 + d.val * 1048576 + a.val * 16384 + b.val * 256)
  | .splitPark _ _ _ => none
  | .stackFill _ _ => none
  | .yieldExpiry _ _ _ => none
  | .scratchResult _ _ _ => none
  | .takeValue _ _ _ => none
  | .leave _ _ => none
  | .propagationArrive _ => none
  | .drop _ _ => none
  | .atomicStep _ _ => none
  | .engineAccess _ _ => none
  | .faultResponseDoorbell _ _ _ => none
  | .faultAnswerFirmware _ _ _ => none
  | .replicaStamp _ => none
  | .replicaApply _ _ _ => none
  | .mstreamPassRun _ _ => none
  | .mloadRun _ _ => none
  | .slotZeroing _ _ => none
  | .epiRun _ _ => none
  | .amovRun _ _ => none
  | .tceLanding _ => none
  | .tcopyComplete _ => none
  | .walkVisit _ _ => none
  | .serviceGroupForm _ _ => none
  | .serviceGroupTimeout _ _ => none
  | .routineReturn _ _ => none
  | .tvcutComplete _ => none
  | .galleyReservation _ => none
  | .galleyPublish _ _ => none
  | .galleyOpComplete _ => none
  | .galleyConsumerLaunch _ _ _ => none
  | .galleyConsumerTimer _ _ _ => none
  | .xsendLanding _ => none
  | .grantSend _ _ _ => none
  | .permitGrant _ => none
  | .fbulkLanding _ _ => none
  | .fbulkComplete _ => none
  | .branchBlocked _ => none
  | .fabricMessageReceive _ => none
  | .fabricLink _ _ => none
  | .hostAccess _ => none
  | .registerWrite _ _ => none
  | .featctlCommit _ => none
  | .ctxcmdVacate _ => none
  | .ctxcmdResume _ _ => none
  | .ctxcmdEnd _ => none
  | .partcmdApply _ => none
  | .dbgcmdHalt _ => none
  | .dbgcmdResume _ => none
  | .dbgcmdStep _ _ _ _ => none
  | .dbgcmdAttach _ => none
  | .dbgcmdDetach _ => none
  | .errcntClear _ _ => none
  | .queueTailDoorbell _ _ _ => none
  | .eventHeadDoorbell _ _ _ => none
  | .packetNop _ => none
  | .packetLaunch _ => none
  | .packetBarrier _ => none
  | .packetCopy _ => none
  | .packetSignalSet _ => none
  | .packetSignalAdd _ => none
  | .packetChain _ => none
  | .packetEvent _ => none
  | .packetComplete _ _ => none
  | .barrierTest _ _ => none
  | .progressPublish _ => none
  | .blockClaim _ _ _ => none
  | .instanceStart _ => none
  | .rowFree _ _ => none
  | .blockComplete _ _ => none
  | .blkmaxOverrun _ _ => none
  | .channelPriorityHold _ _ _ => none
  | .blockSave _ _ => none
  | .blockModeFinished _ _ => none
  | .ctxloadComplete _ => none
  | .tlbinvComplete _ => none
  | .traceUnitWrite _ => none
  | .sample _ _ => none
  | .packageReset => none
  | .reducedServiceStart => none
  | .fullServiceStart => none
  | .ageingPlanRaise _ => none
  | .periodChange => none
  | .dieFailure _ _ => none
  | .correctedError _ => none
  | .uncorrectedError _ _ => none
  | .firmwareImage _ => none
  | .liveHandover => none
  | .measurements => none
  | .illegalOp _ => none
  | .heldUniformResult _ _ _ => none
  | .trainingComplete => none
  | .fabricLinkUp _ => none
  | .linkLevelRetry _ => none

/-- The word of an instruction; none for an event of the part. -/
def encode (i : Instr) : Option Word := (encodeNat i).map (BitVec.ofNat 32)

end Sys2Proof
end

