-- ==== Sys2Proof/Config.lean ====
section
/-! DEFINITION. What the manual leaves open: the free values, and the geometry of the part (01_the_part R13 to R28).
A free value has no body, so nothing can be proved of which value it is. -/

namespace Sys2Proof

/-- The choice between the old and the new value of a register read inside a travel time (00_scope R11, 09_encoding
R114), and between a cached and a fresh translation (05_memory R77). -/
opaque Config.freeBool : Nat → Bool
/-- Unspecified 32-bit contents: a register row at block start (12 R193). -/
opaque Config.freeWord : Nat → Word
/-- Unspecified bytes: scratchpad, slots and platens at block start (12 R193, 16 R223). -/
opaque Config.freeByte : Nat → Byte
/-- An unspecified number, for a value the manual states for no operand: named where it is used. -/
opaque Config.freeNat : Nat → Nat

/-- Whether an attic node has memory at a 64 KiB frame of the attic window (28_fabric R355): the node's management path is not
described. -/
opaque Config.atticMemory : Nat → Bool
/-- Whether a key slot is enrolled for reductions at the node behind a port (28_fabric R363). -/
opaque Config.enrolled : Nat → Nat → Bool

/-- The number of cores of the package (01_the_part R17). -/
def Config.cores : Nat := 832

/-- The package core index (26_command R328): 160d + 16 × cluster + core on forme d, and 640 + 24 × (d − 4) + 8 × cluster
+ core on a cellar die. -/
def Config.coreIndex (die cluster core : Nat) : Nat :=
  if die < 4 then 160 * die + 16 * cluster + core else 640 + 24 * (die - 4) + 8 * cluster + core

/-- The die index of a core (01_the_part R13). -/
def Config.dieOf (c : Nat) : Nat := if c < 640 then c / 160 else 4 + (c - 640) / 24
/-- %cluster of a core (01_the_part R17). -/
def Config.clusterOf (c : Nat) : Nat := if c < 640 then c % 160 / 16 else (c - 640) % 24 / 8
/-- %core of a core (01_the_part R17). -/
def Config.coreOf (c : Nat) : Nat := if c < 640 then c % 16 else (c - 640) % 8
/-- Whether a core lies on a forme die. -/
def Config.isForme (c : Nat) : Bool := c < 640
/-- The cores per cluster of a core's die (01_the_part R17). -/
def Config.coresPerCluster (c : Nat) : Nat := if c < 640 then 16 else 8
/-- The matrix engine width N of a core, which is its column count C (01_the_part R17, 16 R226). -/
def Config.width (c : Nat) : Nat := if c < 640 then 64 else 32
/-- The scratchpad bytes of a core (01_the_part R17). -/
def Config.scratchBytes (c : Nat) : Nat := if c < 640 then 524288 else 262144
/-- The bytes of one accumulator slot (16 R226). -/
def Config.slotBytes (c : Nat) : Nat := if c < 640 then 4096 else 2048
/-- The package cluster number of a cluster of a die (26_command R326). -/
def Config.clusterIndex (die cluster : Nat) : Nat := if die < 4 then 10 * die + cluster else 40 + 3 * (die - 4) + cluster
/-- The clusters of a die (01_the_part R17). -/
def Config.clustersOf (die : Nat) : Nat := if die < 4 then 10 else 3

end Sys2Proof
end

