-- ==== Sys2Proof/Machine/State.lean ====
section
/-! DEFINITION. The state of the package as plain data, the reasons a step can stop, and the state after reset.
INVENTORY.md lists every field with the rule that names it. -/

namespace Sys2Proof.Machine

/-- Why the machine stops with a fault. -/
inductive Fault where
  /-- Raised by every instruction of a split when the issuer names no split in use: no step of a run reaches it, since the
  step sets the issuer. Safe: the machine stops where the hardware has no such situation. -/
  | noIssuer
  deriving DecidableEq, Repr

/-- Why the model refuses an instruction. -/
inductive Refusal where
  /-- Raised by an arm of exec without a meaning yet. Safe: nothing is claimed of it. -/
  | notModelled (mnemonic : String)
  deriving DecidableEq, Repr

/-- A sparse array. An unlisted cell reads zero, or what the first range of `junk` that holds it says: `(first, count, none)` a
range that has been zeroed, `(first, count, some n)` one whose contents the manual calls unspecified, free values of `n`. -/
structure Store (w : Nat) where
  junk : List (Nat × Nat × Option Nat)
  cells : List (Nat × BitVec w)
  deriving DecidableEq, Repr

/-- A zeroed array. -/
def Store.zero (w : Nat) : Store w := ⟨[], []⟩

/-- The trap causes that a group can take (12_uniform R170). -/
inductive Cause where
  | illegalOp | regRange | misaligned | scratchRange | accessViolation | vacateBound | barrierOverarrive | barrierInvalid
  | illegalShape | ringFull | ringEmpty | exchangeNoPermit | routineBlock | routineReentry | stackOverflow
  | travStackOverflow | hazard | breakpoint | software | poison | privilege | gateRange | remoteNonmember | clusterExit
  | layoutInvalid | galleyInvalid
  deriving DecidableEq, Repr

/-- Why a split has not issued its next instruction (03 R43, 29_debug R375). An EPI waits for its record, with the bytes and the poisoned word
read, or for the tail slots of an accumulator kind (16 R234). A fence names its place in its group's issue order and
its kind; an access that waits for an acquire or a release of its group is held as one of no kind (13 R208, R209). A DISPATCH may find that
its read of the launch record has failed (26 R343). -/
inductive Hold where
  | none | lookahead | waitGate (g : Gate) | waitObject | drain15 | fence (seq : Nat) (acq rel : Bool) | vacateStall | commandQueueFull
  | epi (kind : Nat) | epiRead (record : List Byte) (bad : Option Nat)
  | heldResult | xpermit (binding count : Nat) | unbind | arrival | yield | faultSuspension | fetch | storeQueueFull | channelPriority
  | recordFailed
  deriving DecidableEq, Repr

/-- One entry of the split table (03 R31). `heldFor` counts the cycles a hold has lasted, `tried` that it was tried in the
present cycle. -/
structure Split where
  idx : Nat
  pc : PC
  mask : Mask
  passOver : Nat
  hold : Hold
  heldFor : Nat
  tried : Bool
  deriving DecidableEq, Repr

/-- The kinds of stack entry on chip and in the spill area (03 R33). -/
inductive EntryKind where
  | join | defer | trap
  deriving DecidableEq, Repr

/-- A reconvergence stack entry (03 R33); `arrived` is the lanes parked at a JOIN, the split index of a TRAP; `area` says that it lies in
the spill area (R40), as the bottom entries of a stack may. -/
structure SEntry where
  kind : EntryKind
  pc : PC
  mask : Mask
  arrived : Mask
  area : Bool
  deriving DecidableEq, Repr

/-- A register name of the travel-time rule (09_encoding R114): a lane register, a mask, or %fpflags (07 R88), whose lanes are its
four bits. -/
inductive RegName where
  | v (n : Nat) | k (n : Nat) | flags
  deriving DecidableEq, Repr

/-- A write that a read may still see as old: a fixed-latency write whose travel time has not passed (09_encoding R114), with the
lanes written (the bits of a mask or of the flags), the old values of the register, the lanes of the split that wrote it with the
positions each has passed since along its path, the cycle of issue, and the distances for a lane and a uniform consumer. `own`
marks the window of a lookahead count (R116), which binds only those lanes, with the `born` of its result. `gate` marks the write of a
queued operation that has completed (05 R71): reads choose until a WAIT covers its batch. -/
structure Pend where
  reg : RegName
  lanes : Mask
  old : List Word
  path : Mask
  ages : List Nat
  cycle : Nat
  tLane : Nat
  tUni : Nat
  own : Option Nat
  gate : Option (Gate × Word)
  pc : PC
  deriving DecidableEq, Repr

/-- What a cluster-remote access does in each of its lanes (11 R148 to R150, 12 R178, R179): a load into registers with its extension
(0 none, 8 and 16 the sign of that many bits), a uniform load, a store, or an atomic. -/
inductive RemoteKind where
  | load (d regs ext : Nat) | uload | store | atom (op : AtomOp) (d : Nat)
  deriving DecidableEq, Repr

/-- One lane of a cluster-remote access: its scratchpad address, the byte offset in the target's scratchpad, and its operands. -/
structure RemoteLane where
  lane : Nat
  addr : Nat
  off : Nat
  v1 : DWord
  v2 : DWord
  deriving DecidableEq, Repr

/-- The part of a scratchpad instruction that is on its way to another core's intake (11 R147, 13 R206): `seq` places it in its group's
issue order, `epoch` counts the group's release fences at CLUSTER or wider before it, and `reached` says that it reaches the intake in this
cycle. -/
structure RemoteAccess where
  target : Nat
  seq : Nat
  split : Nat
  epoch : Nat
  size : Nat
  kind : RemoteKind
  lanes : List RemoteLane
  reached : Bool
  deriving DecidableEq, Repr

/-- An outstanding lookahead result (09_encoding R116): `path` is the lanes of the split that awaits it, `left` the
instructions each may still issue along its path; `untilWait` marks la = 15. `writes` are (register, lane, value); `poisoned` is the address
and lanes of a poisoned word (11 R151); `born` places the instruction in issue order; `split` is the index of the split that issued it,
and `parked` counts the traps it lies under: a poisoned result keeps its trap through the handlers of others (12 R171). `parts` are its
accesses that other cores' intakes have not performed yet; a remote store stands here with no path until then. -/
structure LaResult where
  path : Mask
  left : List Nat
  untilWait : Bool
  writes : List (Nat × Nat × Word)
  poisoned : Option (DWord × Mask)
  pc : PC
  born : Nat
  split : Nat
  parked : Nat
  parts : List RemoteAccess
  deriving DecidableEq, Repr

/-- An outstanding held uniform result (12_uniform R159); `born` and `parked` as of a lookahead result, `part` a load that another core's
intake has not performed yet. -/
structure HeldResult where
  split : Nat
  gd : Nat
  value : DWord
  poisoned : Option DWord
  born : Nat
  parked : Nat
  part : Option RemoteAccess
  deriving DecidableEq, Repr

/-- A gate's counters and the batch of every operation that has not completed (05 R70). -/
structure GateState where
  closed : Word
  done : Word
  outstanding : List Word
  deriving DecidableEq, Repr

/-- Where a queued access stands with its translation (05 R78). -/
inductive AccessFault where
  | clear
  | waiting (record : Nat)
  deriving DecidableEq, Repr

/-- A store queue entry (11 R156): the bytes of each lane at their virtual address. `release` is the scope of STG.REL,
`fenced` the scope of an earlier release fence (13 R208). `away` is the lanes whose REPL bytes are on their way to the sequencer
(05 R83), `written` the bytes that lanes have already written, as (physical address, lane), and `counted` says that a capped release has
been counted (14 R222); `born` places the store in issue order. -/
structure QEntry where
  seq : Nat
  pc : PC
  split : Nat
  writes : List (Nat × Nat × List Byte)
  release : Option Scope
  fenced : Option Scope
  away : List (Nat × Nat × List Byte)
  written : List (Nat × Nat)
  counted : Bool
  fault : AccessFault
  born : Nat
  deriving DecidableEq, Repr

/-- One single-copy-atomic piece of a queued read (13 R213): `len` bytes at `va` for bytes `off` of the lane's value. -/
structure Piece where
  lane : Nat
  va : Nat
  len : Nat
  off : Nat
  deriving DecidableEq, Repr

/-- The registers a queued read or atomic writes at completion (05 R71). -/
inductive Dest where
  | lanes (vd : Nat) (bytes : Nat)
  | uniform (gd : Nat) (bytes : Nat)
  deriving DecidableEq, Repr

/-- A write that may still be on its way (13 R207, R219): of a group, by core, slot and sequence number, or a stamped write of a
replica set. -/
inductive WriteRef where
  | write (core slot seq : Nat)
  | stamp (ctx rset stamp : Nat)
  deriving DecidableEq, Repr

/-- The ordered-before set of a release that others may acquire (13 R208, R218): its core and scope, the writes of it still on their
way, and what carries it: the bytes that one lane's store wrote, with the store's place, or a barrier object as (core, offset) with the
phase once the arrival has been applied. `live` holds those of the bytes that have arrived at home and that only atomics have changed since
(R210). -/
structure ReleaseSet where
  id : Nat
  core : Nat
  scope : Scope
  source : Option (Nat × Nat)
  cells : List Host.Cell
  live : List Nat
  object : Option (Nat × Nat)
  phase : Option Nat
  writes : List WriteRef
  deriving DecidableEq, Repr

/-- A write that a read has seen, by the core it comes from: the write itself, or one that a release of a scope carries (13 R199, R208). -/
structure Sight where
  core : Nat
  scope : Option Scope
  ref : WriteRef
  deriving DecidableEq, Repr

/-- A queued read or atomic (13 R201). An atomic has an operation and, per lane, the operand and the new value of cas;
`half` says that the read half of an atomic made in two halves has been made (13 R220). `marks` are the bytes of released stores that it has
read, as (lane, set, address), and `sights` the writes it has seen (13 R208, R210). -/
structure REntry where
  seq : Nat
  batch : Word
  pc : PC
  split : Nat
  dest : Dest
  pieces : List Piece
  got : List (Nat × Nat × Byte)
  atom : Option AtomOp
  operands : List (Nat × DWord × DWord)
  half : Bool
  acquire : Option Scope
  fault : AccessFault
  poisoned : Mask
  opId : Nat
  marks : List (Nat × Nat × Nat)
  sights : List Sight
  deriving DecidableEq, Repr

/-- A trap that waits for its suspension point: the gate batch that reaches it, or the object it credits (05 R78, 16 R246). `born` places
its operation in issue order (18 R266). -/
structure DueTrap where
  gate : Option (Gate × Word)
  object : Option Nat
  store : Bool
  split : Nat
  cause : Cause
  bad : DWord
  lanes : Mask
  born : Nat
  deriving DecidableEq, Repr

/-- A trap sequence that waits for the answer of a fault on its spill accesses (03 R40, R41). -/
structure TrapWait where
  split : Nat
  cause : Cause
  resume : PC
  bad : DWord
  lanes : Mask
  code : Nat
  deriving DecidableEq, Repr

/-- The kinds of routine call (22_traversal R288, R293). -/
inductive CallKind where
  | enter | prune | leave
  deriving DecidableEq, Repr

/-- A pending or running routine call of a walk (22_traversal R293), with the routine's address and, once a lane has returned, its
action word. -/
structure Call where
  op : Nat
  lane : Nat
  routine : Nat
  kind : CallKind
  handle : Nat
  node : Nat
  depth : Nat
  nodeKind : Nat
  child : Nat
  payload : List Byte
  query : Nat
  waited : Nat
  pc : PC
  reply : Option Word
  deriving DecidableEq, Repr

/-- The SYNC that a stream owes before its next packet: none, its first since TRC was set (30_program_trace R378), or one after a
LOSS (29_debug R377). -/
inductive OwedSync where
  | none | first | afterLoss
  deriving DecidableEq, Repr

/-- The trace state of one stream (29_debug R377): pending branch bits, oldest first, with the cycle of the first and where its
split stood then (`pc0`, `mask0`), where the split stands after the last, the packets of its group since its last SYNC, and the SYNC
that it owes. -/
structure Stream where
  split : Nat
  bits : List Bool
  bitCycle : Nat
  pc0 : PC
  mask0 : Mask
  pc : PC
  mask : Mask
  since : Nat
  owed : OwedSync
  deriving DecidableEq, Repr

/-- The grants of an XPERMIT that have not left: the split it was issued by, the binding of its end and that of the sender end they go to,
and how many they are (24 R314, R316). -/
structure Permit where
  split : Nat
  own : Nat
  peer : Nat
  count : Nat
  deriving DecidableEq, Repr

/-- A resident group of 32 lanes (03 R30). `permits` holds the grants of its XPERMITs that have not left (24 R316). `seen` and `observed`
name writes its reads have seen and those it observed through an acquire (13 R208). `podAcquired` and `podReleased` say that it has made an
acquire and a release at POD or wider (R207, R216), and `epoch` counts its release fences at CLUSTER or wider (R206). `exitArrived` says
that it has arrived on the exit barrier of its cluster instance (03 R56). -/
structure Group where
  slot : Nat
  block : Nat
  ctx : Nat
  allot : Nat
  blockIndex : Nat
  groupIndex : Nat
  role : Nat
  first : Nat
  second : Nat
  levels : List (Nat × Nat × Nat)
  live : Mask
  splits : List Split
  stack : List SEntry
  masks : List Mask
  gates : List GateState
  queue : List QEntry
  reads : List REntry
  nextSeq : Nat
  relFence : Option Scope
  observed : List WriteRef
  seen : List Sight
  podAcquired : Bool
  podReleased : Bool
  epoch : Nat
  exitArrived : Bool
  pend : List Pend
  la : List LaResult
  held : List HeldResult
  due : List DueTrap
  suspended : Bool
  trapWait : Option TrapWait
  tvec : DWord
  epc : DWord
  ecause : DWord
  ebad : DWord
  emact : DWord
  emflt : DWord
  spill : DWord
  fpflags : BitVec 4
  dphase : BitVec 6
  capCount : Word
  service : List Call
  traceId : Nat
  streams : List Stream
  permits : List Permit
  deriving DecidableEq, Repr

/-- A level entry of a launch record (03 R48). -/
structure Level where
  x : Nat
  y : Nat
  z : Nat
  domain : Nat
  scope : Nat
  flags : Nat
  exitBarrier : Nat
  deriving DecidableEq, Repr

/-- A launch record as read (03 R48, R52, 18 R251, 22 R281, R304, 26 R344). -/
structure Launch where
  va : Nat
  version : Nat
  flags : Nat
  levels : List Level
  roleCount : Nat
  entry0 : Nat
  entry1 : Nat
  rows0 : Nat
  groups0 : Nat
  rows1 : Nat
  groups1 : Nat
  scratch : Nat
  shares : List Nat
  args : Nat
  blkmax : Nat
  modes : Nat
  kinds : Nat
  routines : Nat
  galley : Nat
  maxLive : Nat
  bitmap : Nat
  zerosOk : Bool
  deriving DecidableEq, Repr

/-- The modes of a vacate (18 R253). -/
inductive Mode where
  | flush | save | drain
  deriving DecidableEq, Repr

/-- What a block is doing: not yet started, with its place held, or held to be loaded from an image, or loaded and waiting for the other
blocks of its instance (20 R278); running, carrying out a vacate mode, finished with it (18 R262), unable to be saved (20 R274), or
completed, with its completion being published (26 R348). -/
inductive BlockPhase where
  | reserved | loading | loaded | running | vacating (m : Mode) | finished (m : Mode) | stuck | publishing
  deriving DecidableEq, Repr

/-- A block resident on a core (03 R45, 12 R191); `rows` is the rows held for its groups until they take them, `unit` its cluster instance
and `inst` its co-scheduled one (03 R54, R390). `before` is the writes of its groups that its completion releases,
`marked` says that its completion bit is set, and `half` is what the read half of a completion's atomic took (26 R348, 13 R220). -/
structure Block where
  id : Nat
  ctx : Nat
  blockIndex : Nat
  incarn : Nat
  spbase : Nat
  rec_ : Launch
  launchId : Option Nat
  dispatch : Nat
  slots : List Nat
  rows : List Nat
  routineRow : Option Nat
  routineSlot : Option Nat
  unit : Option Nat
  inst : Option Nat
  elapsed : Nat
  overrun : Bool
  phase : BlockPhase
  saveVa : Nat
  saveOp : Option Nat
  waiting : Bool
  taken : List (Nat × Nat)
  calls : List Call
  before : List WriteRef
  marked : Bool
  half : Option DWord
  deriving DecidableEq, Repr

/-- Slot states of the accumulator ring (16 R227). -/
inductive SlotState where
  | free | opened | ready
  deriving DecidableEq, Repr

/-- An epilogue record as read (16 R233). -/
structure EpiRecord where
  outType : Nat
  mode : Nat
  act : Nat
  flags : Nat
  scale : Nat
  bias : Nat
  dest : Nat
  stride : Nat
  rows : Nat
  accKind : Nat
  zerosOk : Bool
  deriving DecidableEq, Repr

/-- A command of the matrix command queue (16 R224, R225). -/
inductive CommandKind where
  | zero (slot : Nat)
  | load (platen addr count : Nat)
  | pass (addr slot row0 col0 platen : Nat) (zero : Bool) (m n : Nat) (short : Bool) (t : MType)
  | epi (r : EpiRecord) (slot phase : Nat)
  | amov (store : Bool) (addr slot row0 rows : Nat)
  deriving DecidableEq, Repr

/-- A queued command with the engine operation it belongs to, and its place in intake order: the cycle, and the rank within it
(16 R224). A command that runs makes its accesses unit by unit (13 R202): the units left, the poison met so far (16 R237), and the scales
and biases that an EPI has read. -/
structure Command where
  block : Nat
  op : Option Nat
  cycle : Nat
  rank : Nat
  kind : CommandKind
  left : List Nat
  bad : Option DWord
  scales : List Byte
  biases : List Byte
  deriving DecidableEq, Repr

/-- The matrix engine of a core (16 R223 to R227). `mark` is the last cycle in which a uniform matrix instruction issued; `slots0`,
`count00` and `count10` are the bookkeeping state before it, which the MSTREAMs of that cycle meet (16 R224). -/
structure Matrix where
  holder : Option Nat
  lastCtx : Option Nat
  tail : Nat
  used : Nat
  slots : List SlotState
  acc : Store 8
  platen0 : Store 8
  platen1 : Store 8
  count0 : Nat
  count1 : Nat
  queue : List Command
  mark : Option Nat
  slots0 : List SlotState
  count00 : Nat
  count10 : Nat
  deriving DecidableEq, Repr

/-- Channel end states (24 R318). -/
inductive EndState where
  | half | live | broken
  deriving DecidableEq, Repr

/-- A channel descriptor (24 R310). -/
structure ChanDesc where
  sdie : Nat
  scluster : Nat
  score : Nat
  send : Nat
  rdie : Nat
  rcluster : Nat
  rcore : Nat
  rend : Nat
  slotBytes : Nat
  slots : Nat
  landing : Nat
  landbar : Nat
  permit : Nat
  zerosOk : Bool
  deriving DecidableEq, Repr

/-- A bound channel end (24 R309, R312), with the number of its binding. `count` is SENT of a sender and RECEIVED of a receiver. -/
structure ChanEnd where
  id : Nat
  index : Nat
  ctx : Nat
  block : Nat
  tag : Nat × Nat × Nat
  sender : Bool
  state : EndState
  descVa : Nat
  desc : ChanDesc
  count : Word
  granted : Word
  deriving DecidableEq, Repr

/-- A grant in flight to the sender end of a binding (24 R314); `applied` says that its update is among those of this cycle. -/
structure Grant where
  binding : Nat
  applied : Bool
  deriving DecidableEq, Repr

/-- An XSEND in flight (24 R313, R317): the bindings of its ends, its number, its source in the sender's scratchpad, and at the
receiver the core, the block and the owner tag of its allocation, the slot and the landing barrier. `applied` says that its update is among
those of this cycle. -/
structure Send where
  sender : Nat
  receiver : Nat
  number : Word
  src : Nat
  bytes : Nat
  core : Nat
  block : Nat
  tag : Nat × Nat × Nat
  landing : Nat
  landbar : Nat
  unread : List Nat
  sent : List (Nat × List (Byte × Bool))
  cut : Bool
  applied : Bool
  deriving DecidableEq, Repr

/-- An entry of a walk's stack (22 R290). -/
structure WEntry where
  node : Nat
  kind : Nat
  depth : Nat
  key : Nat
  frame : Nat
  deriving DecidableEq, Repr

/-- A kept child of a visit: entry and child slot (22 R287). -/
structure Cand where
  node : Nat
  kind : Nat
  child : Nat
  key : Nat
  deriving DecidableEq, Repr

/-- Where a walk stands (22 R287 to R290): before its first visit, with the cut record to read or as restored; at a node boundary;
in a visit that has begun, with the replies of its routine calls as they come; writing the frame it has taken, or pushing its candidates;
making a CUT action, with its galley slot, whose record is then performed; finishing an entry of a frame, or calling the leave routine of one
that is finished; or at its end with a status. -/
inductive WalkPoint where
  | starting (record : Option Nat) (restored : Bool)
  | boundary
  | visiting (e : WEntry)
  | entering (e : WEntry) (reply : Option Word)
  | pruning (e : WEntry) (cut : Option Nat) (cands : List Cand) (replies : List (Option Word))
  | pushing (e : WEntry) (cut : Option Nat) (cands : List Cand)
  | framing (e : WEntry) (cut : Option Nat) (cands : List Cand) (frame : Nat)
  | placing (e : WEntry) (opens : Bool) (cut : Option Nat) (cands : List Cand) (frame : Nat)
  | leaving (e : WEntry) (reply : Option Word)
  | cutting (e : WEntry) (opens : Bool) (level : Nat) (slot : Option Word)
  | putting (e : WEntry) (opens : Bool) (galley slot : Nat)
  | closing (frame : Nat)
  | calling (frame : Nat)
  | leavingFrame (parent : Nat) (reply : Option Word)
  | ended (code : Nat)
  deriving DecidableEq, Repr

/-- One lane's walk (22 R284 to R292): its stack area with 2^ELOG entries, the entries on chip, top first, the count spilled, and
the TVCUTs that wait for its next boundary as (operation, lane), oldest first. -/
structure Walk where
  lane : Nat
  handle : Nat
  area : Nat
  elog : Nat
  hot : List WEntry
  spilled : Nat
  query : Nat
  frames : Nat
  cutGalley : Option Nat
  visited : Nat
  point : WalkPoint
  cuts : List (Nat × Nat)
  bad : DWord
  deriving DecidableEq, Repr

/-- One lane of a TVCUT (22 R297): the walk's handle, the level, the capacity, the record's VA, and the outcome. -/
structure CutLane where
  lane : Nat
  handle : Nat
  level : Nat
  cap : Nat
  va : Nat
  made : Option Bool
  deriving DecidableEq, Repr

/-- A tensor layout record as read (16 R239). -/
structure Layout where
  base : Nat
  format : Nat
  kind : Nat
  ndims : Nat
  flags : Nat
  extents : List Nat
  strides : List Nat
  boxes : List Nat
  phaseBase : Nat
  bscale : Nat
  sscale : Nat
  dst : Nat
  barrier : Nat
  zerosOk : Bool
  deriving DecidableEq, Repr

/-- What a translation gives: the physical address and the page's kind (05 R75); `forged` says of an engine's read that the attic node's
answer has failed authentication (28 R358). -/
structure Page where
  pa : Nat
  sys : Bool
  satom : Bool
  nc : Bool
  repl : Bool
  rset : Nat
  attic : Bool
  key : Nat
  forged : Bool
  deriving DecidableEq, Repr

/-- A tensor copy in flight (16 R238 to R247). `next` is the lowest unit not yet accessed and `ahead` the units beyond it that have been (13
R201); `buffer` holds what has been read and not yet landed as (scratchpad offset, byte, poisoned); `moved` counts the bytes landed; `code` is
the status met at the lowest unit, `codeAt` that unit; `ends` is the unit at which the copy stops; `trying` is the unit of
its last access that met a fault. `places` is where the units of a store that have not landed go, as translated (16 R243), and `owed` the lowest
unit and the bytes of those on REPL pages whose credit waits for the members (05 R83, 13 R218); `word` is the instruction (12 R172). -/
structure Copy where
  quant : Bool
  lane : Nat
  vd : Nat
  recVa : Nat
  declared : Word
  origin : List Int
  phase : Nat
  layout : Option Layout
  next : Nat
  ahead : List Nat
  buffer : List (Nat × Byte × Bool)
  moved : Nat
  code : Option Nat
  codeAt : Nat
  ends : Option Nat
  trying : Nat
  bad : DWord
  places : List (Nat × List (Page × Nat))
  owed : Option (Nat × Nat)
  word : DWord
  deriving DecidableEq, Repr

/-- One lane of a galley operation (22 R303): the reserved slot, the bytes moved, the result. -/
structure GalleyLane where
  lane : Nat
  galley : Nat
  addr : Nat
  slot : Option Nat
  bytes : Option (List Byte)
  result : Option Word
  faulted : Option Nat
  deriving DecidableEq, Repr

/-- One message of an FBULK (28 R362): what has been read, whether it is over and whether its bytes landed, its status, the first
poisoned or failing address, and whether a branch of it has been reported blocked (R364). -/
structure Message where
  off : Nat
  len : Nat
  bytes : Option (List (Byte × Bool))
  spent : Bool
  landed : Bool
  code : Nat
  bad : DWord
  blocked : Bool
  deriving DecidableEq, Repr

/-- A fabric key slot (12 R197, 28 R357). -/
structure KeySlot where
  index : Nat
  key : List Byte
  func : Nat
  counters : List Nat
  deriving DecidableEq, Repr

/-- An FBULK in flight (28 R360 to R365). `slot` is the key slot it was issued under, if its context's partition held it (12 R197). -/
structure Bulk where
  gd : Nat
  loc : Nat
  bytes : Nat
  remote : Nat
  port : Nat
  op : Nat
  kind : Nat
  barrier : Nat
  credit : Bool
  key : Nat
  slot : Option KeySlot
  messages : List Message
  deriving DecidableEq, Repr

/-- What an engine operation does (13 R201). -/
inductive OpKind where
  | reads
  | copy (c : Copy)
  | matrix (commands : Nat)
  | walks (vd : Nat) (ws : List Walk)
  | cut (lanes : List CutLane)
  | put (vd : Nat) (lanes : List GalleyLane)
  | take (vd : Nat) (lanes : List GalleyLane)
  | send (x : Send)
  | bulk (b : Bulk)
  | ctxsave (gd : Nat) (block : Nat)
  | ctxload (gd : Nat) (status : Nat) (block : Nat) (va : Nat)
  | tlbinv (ctx kind size : Nat) (va : Nat)
  deriving DecidableEq, Repr

/-- An engine operation in flight: who issued it, its gate batch, and its charge (13 R215, 18 R256); `restored` marks walks that a
restore brought back (22 R307), and `pod` that its group had made a release at POD or wider before it (13 R216). -/
structure Op where
  id : Nat
  core : Nat
  slot : Nat
  split : Nat
  block : Nat
  ctx : Nat
  gate : Gate
  batch : Word
  pc : PC
  charge : Nat
  channel : Nat
  restored : Bool
  pod : Bool
  kind : OpKind
  deriving DecidableEq, Repr

/-- The trace and sampling state of a context on a core (29_debug R373 to R379): the buffer, the stream bytes already
written, the samples, the packets lost and not yet reported, the stream selected, the last time written, where packets begin,
and for each scheduler the sampling cursor and the number of cycles of the package up to its last sample, 0 for none. -/
structure Tracer where
  ctx : Nat
  buffer : List Byte
  offset : Nat
  samples : Nat
  lost : Nat
  current : Option (Nat × Nat)
  lastTime : Nat
  dropped : Nat
  starts : List Nat
  cursors : List Nat
  sampledAt : List Nat
  deriving DecidableEq, Repr

/-- What a trace event writes (29_debug R377). -/
inductive TraceKind where
  | sync
  | mask (event : Nat) (m : Mask)
  | bit (taken : Bool)
  deriving DecidableEq, Repr

/-- A trace event of the present cycle (29_debug R376): its place in event order, the stream as it stood when the instruction
issued (`pc0`, `mask0`), and as it stands after it. -/
structure TraceEvent where
  core : Nat
  slot : Nat
  pipe : Nat
  split : Nat
  pc0 : PC
  mask0 : Mask
  pc : PC
  mask : Mask
  kind : TraceKind
  deriving DecidableEq, Repr

/-- A line copy in a core view, or of an attic line at its home slice (13 R201, 05 R80): the bytes it holds, as bits of `held`, their
values that differ from an unlisted byte, whether an engine's write has passed it, so that it does not outlive the next join (13
R211, R217), and the addresses of its poisoned bytes (31 R380). -/
structure ViewLine where
  line : Nat
  held : Nat
  cells : List Host.Cell
  behind : Bool
  bad : List Nat
  deriving DecidableEq, Repr

/-- Lease states of register rows (12 R190). -/
inductive Lease where
  | free | running | draining | claimed | agent
  deriving DecidableEq, Repr

/-- A core of the package (01 R18). `leases` holds the rows that are not free, `rowCtx` and `scratchCtx` the context that last
used a row or a 256-byte unit of the scratchpad (12 R193), `carved` the group slots carved with their rows (12 R192). -/
structure Core where
  index : Nat
  rows : Store 32
  leases : List (Nat × Lease)
  rowCtx : List (Nat × Nat)
  carved : List (Nat × Nat × Nat)
  scratch : Store 8
  scratchCtx : List (Nat × Nat)
  poison : List Nat
  slotPoison : List Nat
  blocks : List Block
  groups : List Group
  matrix : Matrix
  ends : List ChanEnd
  view : List ViewLine
  dispatches : Nat
  tracers : List Tracer
  failed : Bool
  deriving DecidableEq, Repr

/-- What a write goes on to from its home (13 R207): nothing, the attic node behind it, or the host that acknowledges it. -/
inductive Beyond where
  | none | node | host
  deriving DecidableEq, Repr

/-- A write in flight toward its home (13 R201); once `home` it is on its way to what lies beyond. `prev` is what the host still reads of
bytes whose write it has not acknowledged (13 R207). `owed` is the trap that the group of a block owes if the attic node refuses the write
(28 R355, R356). -/
structure Propagation where
  core : Nat
  slot : Nat
  seq : Nat
  bytes : List Host.Cell
  repl : Option (Nat × Nat)
  beyond : Beyond
  home : Bool
  prev : List Host.Cell
  owed : Option (Nat × DueTrap)
  deriving DecidableEq, Repr

/-- A stamped write on its way to a member copy (05 R83), by its bytes in the sequencer's copy, with the addresses of those that are poisoned
(31 R380); `op` is the engine operation that made it. -/
structure Stamped where
  stamp : Nat
  die : Nat
  bytes : List Host.Cell
  bad : List Nat
  core : Nat
  slot : Nat
  seq : Nat
  op : Option Nat
  deriving DecidableEq, Repr

/-- A replica set of a context: the sequencer's stamp and the writes not yet applied (05 R82, R83). -/
structure ReplicaSet where
  ctx : Nat
  rset : Nat
  stamp : Nat
  pending : List Stamped
  deriving DecidableEq, Repr

/-- A translation cache: a core's, or the shared one of a forme die (01 R18, R25, 05 R77). -/
inductive Tlb where
  | core (c : Nat) | die (d : Nat)
  deriving DecidableEq, Repr

/-- A leaf translation that a cache holds (05 R77). -/
structure CachedLeaf where
  holder : Tlb
  ctx : Nat
  vpage : Nat
  level : Nat
  pte : DWord
  deriving DecidableEq, Repr

/-- What a context is doing (26 R329). -/
inductive CtxPhase where
  | idle | vacating | vacated | resuming | ended
  deriving DecidableEq, Repr

/-- Who waits for the answer of a fault record (05 R78, 26 R343): a read, a store, a fetch, a spill, a lane of an engine
operation, an instruction; a queue, with the error code a FAIL gives it, the signal then set to −1 and the packet's path; an owed write of −1; a
block's completion; a galley's DONESIG; a vacate image; a resume command's read of an image; a block whose flush ignores the answer; a DISPATCH, and a
galley's consumer launch, that read a launch record. -/
inductive FaultOwner where
  | read (core slot seq : Nat)
  | store (core slot seq : Nat)
  | fetch (core slot split : Nat)
  | spill (core slot split : Nat)
  | op (id : Nat) (lane : Nat)
  | instr (core slot split : Nat)
  | queue (q code : Nat) (sig : Option Nat) (path : List Nat)
  | minus (q va : Nat)
  | block (core block : Nat)
  | doneSig (galley : Nat)
  | image (core block : Nat)
  | resume (block va : Nat)
  | ignored (core block : Nat)
  | dispatch (core slot split : Nat)
  | consumer (galley : Nat)
  deriving DecidableEq, Repr

/-- A fault record not yet answered (05 R79, 26 R330). -/
structure FaultRecord where
  number : Nat
  va : DWord
  kind : Nat
  cause : Nat
  lanes : Mask
  owner : FaultOwner
  deriving DecidableEq, Repr

/-- A fault that waits for a slot of the fault queue (26 R330): of a queue's or an agent's access (R343), or of a spill access (03 R40). -/
structure FaultWait where
  va : Nat
  source : Nat × Nat × Nat × Nat
  kind : Nat
  cause : Nat
  lanes : Mask
  time : Nat
  owner : FaultOwner
  deriving DecidableEq, Repr

/-- A block saved or flushed by a vacate, as the agents restore it (20 R264, R277); `arrived` is its groups that have arrived on an exit
barrier (03 R56); `failed` says that its image could not be written, `lost` that it could not be read. -/
structure SavedBlock where
  core : Nat
  blockIndex : Nat
  incarn : Nat
  va : Nat
  rec_ : Launch
  launchId : Option Nat
  unit : Option Nat
  inst : Option Nat
  flushed : Bool
  taken : List (Nat × Nat)
  ends : List ChanEnd
  waiting : Bool
  arrived : List Nat
  failed : Bool
  lost : Bool
  deriving DecidableEq, Repr

/-- A context as the device holds it (26 R328): the descriptor as last read, and the registers kept with the context.
`stopping` is the halts that take effect at the end of the present cycle, oldest first (29 R369 to R371): for each its DEBUG_STOP code, the
PC, and the group it names. `step` is a pending step (29 R371). `vpast` is the vacate registers as they stood in the last cycles, newest
first (18 R250). `resizing` says that a partition command vacates it (20 R279). -/
structure Ctx where
  id : Nat
  valid : Bool
  pt0 : Nat
  vb : Nat
  vres : Nat
  func : Nat
  debug : Bool
  fwfault : Bool
  saveArea : Nat
  saveSlot : Nat
  faultLog : Nat
  evring : Nat
  faultq : Nat
  replsets : Nat
  capped : Bool
  keyid : BitVec 8
  tvstack : DWord
  trcctl : DWord
  started : Bool
  cycles : Nat
  attached : Bool
  halted : Bool
  step : Option (Nat × Nat × Nat)
  stopping : List (Nat × Nat × Option (Nat × Nat))
  vpast : List (List Nat)
  phase : CtxPhase
  requestTicks : Nat
  vmeas : Nat
  vover : Bool
  vvalid : Bool
  priority : List (Nat × Nat × Nat × Nat)
  faults : List FaultRecord
  faultWait : List FaultWait
  faultTail : Nat
  saved : List SavedBlock
  resizing : Bool
  deriving DecidableEq, Repr

/-- A packet started and not yet complete (26 R335, R336). `path` is its place: the ring index, then the indexes within the
chained blocks that hold it. `copy` is the source, destination and length of a COPY, and `copied` the bytes moved. `failed` says
that it met an error and never completes. `units` is the words of a COPY's piece in flight that have not moved, and `half` what the read half of
a signal's atomic took (26 R337, R338). -/
structure Started where
  path : List Nat
  type : Nat
  flags : Nat
  aux : Nat
  ptr : Nat
  sig : Option Nat
  launch : Option Nat
  copy : Option (Nat × Nat × Nat)
  copied : Nat
  done : Bool
  failed : Bool
  units : List Nat
  half : Option DWord
  deriving DecidableEq, Repr

/-- What a chaining engine holds of a queue (26 R331 to R334): the chain levels open, each with its block VA, packet count
and next index, and the started packets. -/
structure Queue where
  id : Nat
  ctx : Nat
  out : Bool
  fetched : Nat
  chain : List (Nat × Nat × Nat)
  started : List Started
  progress : Nat
  deriving DecidableEq, Repr

/-- A launch being run (26 R344 to R348). `homes` is the core of each instance of its outermost CORE-domain level that has begun (03 R50);
`before` is the writes of the blocks that have ended which are still on their way, with the blocks' indexes (R51). -/
structure LaunchRun where
  id : Nat
  ctx : Nat
  rec_ : Launch
  queue : Nat
  path : List Nat
  tickets : List Nat
  remaining : Nat
  perBlock : Bool
  sig : Option Nat
  relScope : Nat
  failedDie : Bool
  homes : List (Nat × Nat)
  before : List (Nat × WriteRef)
  deriving DecidableEq, Repr

/-- Slot states of a galley ring (22 R301). -/
inductive GalleySlot where
  | reserved | published | void
  deriving DecidableEq, Repr

/-- A bound galley on its owning die (22 R300, R301, R304). -/
structure Galley where
  id : Nat
  ctx : Nat
  ring : Nat
  recLog : Nat
  capLog : Nat
  thresh : Nat
  consumer : Nat
  doneSig : Nat
  head : Word
  tail : Word
  overflow : Word
  outstanding : Word
  slots : List (Nat × GalleySlot)
  launches : Nat
  live : List (Nat × Nat)
  idle : Nat
  deriving DecidableEq, Repr

/-- A tenant partition (26 R326). -/
structure Partition where
  func : Nat
  clusters : BitVec 64
  hbm : BitVec 512
  valid : Bool
  cap : Bool
  deriving DecidableEq, Repr

/-- A fabric port (28 R354, R366): LINK and REPLAYS; `sent` says that it has carried sealed traffic since reset, and `since` is the first number
given out after its link last left the up state: the accesses numbered below it that were to use the port are refused (R356). -/
structure Port where
  link : Nat
  replays : Nat
  sent : Bool
  since : Nat
  deriving DecidableEq, Repr

/-- An error counter register (31 R381). -/
structure ErrCnt where
  corr : Nat
  uncorr : Nat
  thresh : Nat
  deriving DecidableEq, Repr

/-- The service phases (31 R383, R384). -/
inductive Service where
  | training | reduced | full
  deriving DecidableEq, Repr

/-- An entry of the measurement log (31 R388): hand-over entries hold the previous measurement too. -/
structure LogEntry where
  number : Nat
  measurement : BitVec 384
  handover : Option (BitVec 384)
  deriving DecidableEq, Repr

/-- The device registers and unit state outside the cores (26 R323, 31); `partRun` is the partition a running PARTCMD has applied
(26 R327). -/
structure Device where
  featcap : BitVec 256
  featen : BitVec 256
  commit : Bool
  refused : Bool
  ctxbase : DWord
  qbase : DWord
  evbase : DWord
  partbase : DWord
  ctxcmd : DWord
  partcmd : DWord
  dbgcmd : DWord
  period : Nat
  plan : Nat
  trained : Bool
  service : Service
  errcnt : List ErrCnt
  partitions : List Partition
  pfCap : Bool
  partRun : Option Partition
  keys : List KeySlot
  authDue : List (Nat × Nat × Nat)
  ports : List Port
  charges : List (Nat × Nat × Nat × Nat)
  image : Option FirmwareImage
  pendingImage : Option FirmwareImage
  log : List LogEntry
  response : Option (BitVec 384 × List LogEntry)
  hostData : List Byte
  deriving DecidableEq, Repr

/-- Where an update of a barrier object comes from (05 R68): an arrival with its split and address, or a landing or a
grant with its context, the engine operation it may belong to, and the object's address. -/
inductive UpdateSource where
  | arrival (core slot split : Nat) (pc : PC) (addr : DWord)
  | credit (ctx : Nat) (op : Option (Nat × Nat)) (addr : DWord)
  deriving DecidableEq, Repr

/-- An update of this cycle to a barrier object at a byte offset of a core's scratchpad (05 R68). `rank` places it in intake
order. -/
structure Update where
  core : Nat
  off : Nat
  rank : Nat × Nat
  arrive : Bool
  drop : Bool
  expect : Nat
  landed : Nat
  source : UpdateSource
  deriving DecidableEq, Repr

/-- A trap taken in the present cycle (12 R173): the group, the split and the address of its instruction; `unhandled` says that
the group has no handler, so that its event is due when the cycle has settled which trap counts. -/
structure TakenTrap where
  core : Nat
  slot : Nat
  split : Nat
  pc : PC
  unhandled : Bool
  deriving DecidableEq, Repr

/-- A WAIT held on an object (12 R176): its split, the object's place, the phase it waits for, and what the first test since that
ended it found: that the phase has come, or that the object is invalid. -/
structure ObjectWait where
  core : Nat
  slot : Nat
  split : Nat
  home : Nat
  off : Nat
  phase : Word
  met : Option Bool
  deriving DecidableEq, Repr

/-- One move of the machine: an event of the part, an issue by a split, or the end of a cycle. -/
inductive Move where
  | event (i : Instr)
  | issue (core slot split : Nat)
  | cycle
  deriving DecidableEq, Repr

/-- The state of the package. -/
structure State where
  agenda : List Move
  issuer : Option (Nat × Nat × Nat)
  issued : List (Nat × Nat × Bool)
  free : Nat
  nextId : Nat
  cycle : Nat
  picos : Nat
  mem : List Host.Cell
  memPoison : List Nat
  props : List Propagation
  replicas : List ReplicaSet
  cache : List CachedLeaf
  attic : List ViewLine
  sets : List ReleaseSet
  cores : List Core
  ctxs : List Ctx
  ops : List Op
  grants : List Grant
  queues : List Queue
  launches : List LaunchRun
  galleys : List Galley
  dev : Device
  updates : List Update
  waits : List ObjectWait
  trapped : List TakenTrap
  traceNow : List TraceEvent
  deriving DecidableEq, Repr

/-- An empty matrix engine (16 R223). -/
def Matrix.empty : Matrix :=
  ⟨none, none, 0, 0, List.replicate 64 .free, Store.zero 8, Store.zero 8, Store.zero 8, 0, 0, [], none,
   List.replicate 64 .free, 0, 0⟩

/-- A core with nothing resident. -/
def Core.idle (index : Nat) : Core :=
  ⟨index, Store.zero 32, [], [], [], Store.zero 8, [], [], [], [], [], Matrix.empty, [], [], 0,
   [], false⟩

/-- The default charge table: class, channel, BASE and UNIT (18 R255). -/
def defaultCharges : List (Nat × Nat × Nat × Nat) :=
  [(0, 0, 256, 4), (1, 0, 1024, 8), (2, 0, 288, 4), (3, 0, 1056, 8), (4, 0, 192, 0), (5, 0, 256, 0), (6, 1, 16, 2),
   (7, 1, 16, 1), (8, 1, 96, 0), (9, 1, 32, 1), (10, 2, 512, 4), (11, 2, 2048, 8), (12, 3, 256, 0), (13, 3, 64, 0)]

/-- The device registers after package reset (26 R323, R326, 31 R381, R385). -/
def Device.reset : Device :=
  { featcap := 0x3FF, featen := 0, commit := false, refused := false, ctxbase := 0, qbase := 0, evbase := 0, partbase := 0,
    ctxcmd := 0, partcmd := 0, dbgcmd := 0, period := 0x09C4, plan := 0x04E2, trained := false, service := .training,
    errcnt := List.replicate 12 ⟨0, 0, 0x10⟩, partitions := [], pfCap := false, partRun := none, keys := [],
    ports := List.replicate 8 ⟨0, 0, false, 0⟩, authDue := [], charges := defaultCharges, image := none, pendingImage := none, log := [],
    response := none, hostData := [] }

/-- The package right after reset (31 R383): nothing resident, nothing queued, training begun. -/
def State.reset : State :=
  { agenda := [], issuer := none, issued := [], free := 0, nextId := 0, cycle := 0, picos := 0, mem := [], memPoison := [],
    props := [], replicas := [], cache := [], attic := [], sets := [], cores := [], ctxs := [], ops := [], grants := [], queues := [], launches := [],
    galleys := [], dev := Device.reset, updates := [], waits := [], trapped := [], traceNow := [] }

end Sys2Proof.Machine
end

