-- ==== Sys2Proof/Machine/Bits.lean ====
section
/-! DEFINITION. Bits, byte strings, sparse arrays and the memory list. -/

namespace Sys2Proof.Machine

/-- The low `n` bits of a number (00_scope R10, Trunc). -/
def trunc (n x : Nat) : Nat := x % 2 ^ n

/-- SignExtend (00_scope R10): the signed value of the low `n` bits. -/
def signed (n x : Nat) : Int := if 2 * (x % 2 ^ n) < 2 ^ n then (x % 2 ^ n : Nat) else ((x % 2 ^ n : Nat) : Int) - 2 ^ n

/-- Bits [lo+n-1:lo] of a number (00_scope R2). -/
def bits (x lo n : Nat) : Nat := x / 2 ^ lo % 2 ^ n

/-- Bit `i` of a number. -/
def bit (x i : Nat) : Bool := x / 2 ^ i % 2 == 1

/-- The mask of one lane. -/
def oneLane (l : Nat) : Mask := (1#32) <<< l

/-- The lanes of a mask in ascending order (00_scope R10). -/
def lanesOf (m : Mask) : List Nat := (List.range 32).filter fun l => m.getLsbD l

/-- The mask of a list of lanes. -/
def maskOf (ls : List Nat) : Mask := ls.foldl (fun m l => m ||| oneLane l) 0

/-- The lowest lane of a mask, 0 for an empty one. -/
def lowestLane (m : Mask) : Nat := (lanesOf m).headD 0

/-- The number of 1 bits of the low `n` bits. -/
def popcount : Nat → Nat → Nat
  | 0, _ => 0
  | n + 1, x => x % 2 + popcount n (x / 2)

/-- Leading zero bits of an `n`-bit number; `n` for zero. -/
def leadingZeros : Nat → Nat → Nat
  | 0, _ => 0
  | n + 1, x => if bit x n then 0 else 1 + leadingZeros n x

/-- Trailing zero bits of an `n`-bit number; `n` for zero. -/
def trailingZeros : Nat → Nat → Nat
  | 0, _ => 0
  | n + 1, x => if x % 2 == 1 then 0 else 1 + trailingZeros n (x / 2)

/-- Bit j of an `n`-bit number moved to bit n − 1 − j. -/
def reverseBits : Nat → Nat → Nat
  | 0, _ => 0
  | n + 1, x => x % 2 * 2 ^ n + reverseBits n (x / 2)

/-- The `n` bytes of a number, the lowest first (00_scope R4). -/
def bytesOf : Nat → Nat → List Byte
  | 0, _ => []
  | n + 1, x => BitVec.ofNat 8 x :: bytesOf n (x / 256)

/-- The number of a byte string, the lowest byte first (00_scope R4). -/
def numOf : List Byte → Nat
  | [] => 0
  | b :: bs => b.toNat + 256 * numOf bs

/-- A little-endian field of a byte string (00_scope R4). -/
def fieldOf (bs : List Byte) (off n : Nat) : Nat := numOf ((bs.drop off).take n)

/-- Replace the first element that satisfies `p`, keeping the order. -/
def replaceFirst {α : Type} (p : α → Bool) (f : α → α) : List α → List α
  | [] => []
  | x :: xs => if p x then f x :: xs else x :: replaceFirst p f xs

/-- Remove the element at a place. -/
def removeAt {α : Type} : Nat → List α → List α
  | _, [] => []
  | 0, _ :: xs => xs
  | n + 1, x :: xs => x :: removeAt n xs

/-- Change the element at a place. -/
def modifyAt {α : Type} (f : α → α) : Nat → List α → List α
  | _, [] => []
  | 0, x :: xs => f x :: xs
  | n + 1, x :: xs => x :: modifyAt f n xs

/-- The value of a key in an association list, or a default. -/
def assocD {α : Type} (k : Nat) (d : α) : List (Nat × α) → α
  | [] => d
  | (j, v) :: r => if j = k then v else assocD k d r

/-- Set the value of a key in an association list. -/
def assocSet {α : Type} (k : Nat) (v : α) : List (Nat × α) → List (Nat × α)
  | [] => [(k, v)]
  | (j, u) :: r => if j = k then (k, v) :: r else (j, u) :: assocSet k v r

/-- The seed of the first range that holds a key, if it has one. -/
def junkSeed : List (Nat × Nat × Option Nat) → Nat → Option Nat
  | [], _ => none
  | (lo, n, seed) :: r, k => if lo ≤ k ∧ k < lo + n then seed else junkSeed r k

/-- What an unlisted byte of an array of bytes reads as. -/
def junkByte (js : List (Nat × Nat × Option Nat)) (k : Nat) : Byte :=
  match junkSeed js k with
  | none => 0
  | some n => Config.freeByte (n * 2 ^ 21 + k)

/-- What an unlisted word of an array of words reads as. -/
def junkWord (js : List (Nat × Nat × Option Nat)) (k : Nat) : Word :=
  match junkSeed js k with
  | none => 0
  | some n => Config.freeWord (n * 2 ^ 21 + k)

/-- The listed value of a key in a sorted list of cells. -/
def cellAt {w : Nat} (k : Nat) : List (Nat × BitVec w) → Option (BitVec w)
  | [] => none
  | (j, v) :: r => if j = k then some v else if k < j then none else cellAt k r

/-- List a key's value in a sorted list of cells. -/
def cellSet {w : Nat} (k : Nat) (v : BitVec w) : List (Nat × BitVec w) → List (Nat × BitVec w)
  | [] => [(k, v)]
  | (j, u) :: r => if j = k then (k, v) :: r else if k < j then (k, v) :: (j, u) :: r else (j, u) :: cellSet k v r

/-- Read a byte of an array. -/
def Store.byte (s : Store 8) (k : Nat) : Byte := (cellAt k s.cells).getD (junkByte s.junk k)

/-- Read a word of an array. -/
def Store.word (s : Store 32) (k : Nat) : Word := (cellAt k s.cells).getD (junkWord s.junk k)

/-- Write a cell of an array. -/
def Store.set {w : Nat} (s : Store w) (k : Nat) (v : BitVec w) : Store w := ⟨s.junk, cellSet k v s.cells⟩

/-- Give a range of an array new contents: zeros, or unspecified ones (12 R193, 16 R223). -/
def Store.refresh {w : Nat} (s : Store w) (lo n : Nat) (seed : Option Nat) : Store w :=
  ⟨(lo, n, seed) :: s.junk.filter fun r => !(lo ≤ r.1 && r.1 + r.2.1 ≤ lo + n),
   s.cells.filter fun c => c.1 < lo || lo + n ≤ c.1⟩

/-- Read `n` bytes of an array from `k`. -/
def Store.bytes (s : Store 8) : Nat → Nat → List Byte
  | _, 0 => []
  | k, n + 1 => s.byte k :: s.bytes (k + 1) n

/-- Write bytes of an array from `k` upward. -/
def Store.setBytes (s : Store 8) (k : Nat) : List Byte → Store 8
  | [] => s
  | b :: bs => (s.set k b).setBytes (k + 1) bs

/-- A byte of memory (unlisted bytes read 0, log 4). -/
def Memory.read : List Host.Cell → Nat → Byte
  | [], _ => 0
  | (k, v) :: r, a => if k = a then v else if a < k then 0 else Memory.read r a

/-- Write a byte of memory, keeping the canonical form. -/
def Memory.write : List Host.Cell → Nat → Byte → List Host.Cell
  | [], a, b => if b = 0 then [] else [(a, b)]
  | (k, v) :: r, a, b =>
    if a < k then (if b = 0 then (k, v) :: r else (a, b) :: (k, v) :: r)
    else if a = k then (if b = 0 then r else (a, b) :: r)
    else (k, v) :: Memory.write r a b

/-- Every address of the list is above `lo`, in rising order, and no entry is 0. -/
def Memory.above (lo : Nat) : List Host.Cell → Bool
  | [] => true
  | (k, v) :: r => decide (lo ≤ k) && v != 0 && Memory.above (k + 1) r

/-- The canonical form: addresses strictly rising and no entry equal to what an unlisted address reads as. -/
def Memory.wf (m : List Host.Cell) : Bool := Memory.above 0 m

/-- Write a list of cells in order. -/
def Memory.writeAll (m : List Host.Cell) (cs : List Host.Cell) : List Host.Cell :=
  cs.foldl (fun m c => Memory.write m c.1 c.2) m

/-- Read `n` bytes of memory from `a`. -/
def Memory.bytes (m : List Host.Cell) : Nat → Nat → List Byte
  | _, 0 => []
  | a, n + 1 => Memory.read m a :: Memory.bytes m (a + 1) n

/-- The cells of a byte string from `a` upward. -/
def cellsOf (a : Nat) : List Byte → List Host.Cell
  | [] => []
  | b :: bs => (a, b) :: cellsOf (a + 1) bs

end Sys2Proof.Machine
end

