-- ==== Sys2Proof/Machine/Access.lean ====
section
/-! DEFINITION. Finding and replacing the parts of the state: cores, groups, splits, blocks, contexts, operations. -/

namespace Sys2Proof.Machine

/-- The core with an index; a core nothing has used yet is idle. -/
def State.core (s : State) (c : Nat) : Core := (s.cores.find? fun x => x.index == c).getD (Core.idle c)

/-- Put a core into a list kept in ascending index. -/
def putCore (x : Core) : List Core → List Core
  | [] => [x]
  | y :: r => if y.index = x.index then x :: r else if x.index < y.index then x :: y :: r else y :: putCore x r

/-- Replace a core. -/
def State.setCore (s : State) (x : Core) : State := { s with cores := putCore x s.cores }

/-- Change a core. -/
def State.modCore (s : State) (c : Nat) (f : Core → Core) : State := s.setCore (f (s.core c))

/-- The group in a slot (03 R30). -/
def Core.group? (x : Core) (slot : Nat) : Option Group := x.groups.find? fun g => g.slot == slot

/-- Change the group in a slot. -/
def Core.modGroup (x : Core) (slot : Nat) (f : Group → Group) : Core :=
  { x with groups := replaceFirst (fun g => g.slot == slot) f x.groups }

/-- The group in a slot of a core. -/
def State.group? (s : State) (c slot : Nat) : Option Group := (s.core c).group? slot

/-- Change the group in a slot of a core. -/
def State.modGroup (s : State) (c slot : Nat) (f : Group → Group) : State := s.modCore c fun x => x.modGroup slot f

/-- The split with an index (03 R31). -/
def Group.split? (g : Group) (i : Nat) : Option Split := g.splits.find? fun sp => sp.idx == i

/-- Put a split into a table kept in ascending index. -/
def putSplit (x : Split) : List Split → List Split
  | [] => [x]
  | y :: r => if y.idx = x.idx then x :: r else if x.idx < y.idx then x :: y :: r else y :: putSplit x r

/-- Replace or add a split. -/
def Group.setSplit (g : Group) (x : Split) : Group := { g with splits := putSplit x g.splits }

/-- Change a split. -/
def Group.modSplit (g : Group) (i : Nat) (f : Split → Split) : Group :=
  { g with splits := replaceFirst (fun sp => sp.idx == i) f g.splits }

/-- Free a split's table entry. -/
def Group.dropSplit (g : Group) (i : Nat) : Group := { g with splits := g.splits.filter fun sp => sp.idx != i }

/-- The lowest free split index, none if all four are in use (03 R31). -/
def Group.freeIdx (g : Group) : Option Nat := (List.range 4).find? fun i => (g.split? i).isNone

/-- Change a split of a group of a core. -/
def State.modSplit (s : State) (c slot i : Nat) (f : Split → Split) : State := s.modGroup c slot fun g => g.modSplit i f

/-- A block of a core. -/
def Core.block? (x : Core) (b : Nat) : Option Block := x.blocks.find? fun k => k.id == b

/-- Change a block of a core. -/
def Core.modBlock (x : Core) (b : Nat) (f : Block → Block) : Core :=
  { x with blocks := replaceFirst (fun k => k.id == b) f x.blocks }

/-- Change a block of a core. -/
def State.modBlock (s : State) (c b : Nat) (f : Block → Block) : State := s.modCore c fun x => x.modBlock b f

/-- The context with an id. -/
def State.ctx? (s : State) (c : Nat) : Option Ctx := s.ctxs.find? fun x => x.id == c

/-- Change a context. -/
def State.modCtx (s : State) (c : Nat) (f : Ctx → Ctx) : State :=
  { s with ctxs := replaceFirst (fun x => x.id == c) f s.ctxs }

/-- The engine operation with an id. -/
def State.op? (s : State) (n : Nat) : Option Op := s.ops.find? fun o => o.id == n

/-- Change an engine operation. -/
def State.modOp (s : State) (n : Nat) (f : Op → Op) : State :=
  { s with ops := replaceFirst (fun o => o.id == n) f s.ops }

/-- Change the kind of an engine operation. -/
def State.setOpKind (s : State) (n : Nat) (k : OpKind) : State := s.modOp n fun o => { o with kind := k }

/-- Remove an engine operation. -/
def State.dropOp (s : State) (n : Nat) : State := { s with ops := s.ops.filter fun o => o.id != n }

/-- The queue with a number, as its chaining engine holds it. -/
def State.queue? (s : State) (q : Nat) : Option Queue := s.queues.find? fun x => x.id == q

/-- Change a queue. -/
def State.modQueue (s : State) (q : Nat) (f : Queue → Queue) : State :=
  { s with queues := replaceFirst (fun x => x.id == q) f s.queues }

/-- A launch being run. -/
def State.launch? (s : State) (n : Nat) : Option LaunchRun := s.launches.find? fun x => x.id == n

/-- Change a launch being run. -/
def State.modLaunch (s : State) (n : Nat) (f : LaunchRun → LaunchRun) : State :=
  { s with launches := replaceFirst (fun x => x.id == n) f s.launches }

/-- A bound galley. -/
def State.galley? (s : State) (n : Nat) : Option Galley := s.galleys.find? fun x => x.id == n

/-- Change a galley. -/
def State.modGalley (s : State) (n : Nat) (f : Galley → Galley) : State :=
  { s with galleys := replaceFirst (fun x => x.id == n) f s.galleys }

/-- A fresh id. -/
def State.fresh (s : State) : Nat × State := (s.nextId, { s with nextId := s.nextId + 1 })

/-- The next free value of the run: a truth value (log 2). -/
def State.coin (s : State) : Bool × State := (Config.freeBool (s.free * 16384 + 16383), { s with free := s.free + 1 })

/-- Change the device registers. -/
def State.modDev (s : State) (f : Device → Device) : State := { s with dev := f s.dev }

/-- TICKS: the package tick count (00_scope R6, 26 R323). DESIGN CHOICE (log 56): a partly elapsed nanosecond counts, so the elapsed
picoseconds over 1,000 are rounded up. -/
def State.ticks (s : State) : Nat := (s.picos + 999) / 1000

/-- The ticks of a cycle count at the present period: ⌈c × P⌉ (00_scope R6). -/
def State.cyclesToTicks (s : State) (c : Nat) : Nat := (c * s.dev.period + 999) / 1000

/-- The byte a line copy holds at an address, if it holds it. -/
def ViewLine.byte? (v : ViewLine) (pa : Nat) : Option Byte :=
  if v.line = pa / 128 ∧ v.held.testBit (pa % 128) then some (Memory.read v.cells pa) else none

/-- Put bytes into a line copy, those of its line: poison that they overwrite ends, and those at `bad` bring theirs (31 R380). -/
def ViewLine.put (v : ViewLine) (cs : List Host.Cell) (bad : List Nat) : ViewLine :=
  let mine := cs.filter fun c => c.1 / 128 == v.line
  { v with held := mine.foldl (fun h c => h ||| 2 ^ (c.1 % 128)) v.held, cells := Memory.writeAll v.cells mine,
           bad := bad ++ v.bad.filter fun k => !(mine.any fun c => c.1 == k) }

/-- Change the bytes that a line copy holds. -/
def ViewLine.overlay (v : ViewLine) (cs : List Host.Cell) : ViewLine :=
  { v with cells := Memory.writeAll v.cells (cs.filter fun c => (v.byte? c.1).isSome) }

/-- Put bytes of one line, those at `bad` poisoned, into a list of line copies, adding one where there is none. -/
def putLine (line : Nat) (cs : List Host.Cell) (bad : List Nat) : List ViewLine → List ViewLine
  | [] => [ViewLine.put ⟨line, 0, [], false, []⟩ cs bad]
  | v :: r => if v.line = line then v.put cs bad :: r else v :: putLine line cs bad r

/-- Who issues: the core, the group and the split of the present instruction, and what its reads need. -/
structure Issuer where
  c : Nat
  slot : Nat
  idx : Nat
  core : Core
  g : Group
  sp : Split
  deriving DecidableEq, Repr

/-- The issuer of the present instruction. -/
def State.who (s : State) : Option Issuer :=
  match s.issuer with
  | none => none
  | some (c, slot, idx) =>
    match s.group? c slot with
    | none => none
    | some g =>
      match g.split? idx with
      | none => none
      | some sp => some ⟨c, slot, idx, s.core c, g, sp⟩

/-- Run an instruction's effect for the issuer (03 R32). -/
def onIssuer (s : State) (f : Issuer → State) : Host.Outcome State Fault Refusal :=
  match s.who with
  | none => .fault .noIssuer
  | some w => .next (f w)

/-- The change of the issuing group. -/
def State.modMine (s : State) (w : Issuer) (f : Group → Group) : State := s.modGroup w.c w.slot f

/-- Whether a feature of the capability vector is accepted (26 R324). -/
def State.feature (s : State) (n : Nat) : Bool := s.dev.featen.getLsbD n && s.dev.featcap.getLsbD n

/-- The partition of a function; function 64 is the physical function (26 R326). -/
def State.partition? (s : State) (f : Nat) : Option Partition := s.dev.partitions.find? fun p => p.func == f && p.valid

/-- Whether a function's partition is valid. -/
def State.partitionValid (s : State) (f : Nat) : Bool := f == 64 || (s.partition? f).isSome

/-- Whether a function's partition holds a package cluster (26 R326). -/
def State.holdsCluster (s : State) (f n : Nat) : Bool :=
  if f = 64 then !(s.dev.partitions.any fun p => p.valid && p.clusters.getLsbD n)
  else match s.partition? f with
    | none => false
    | some p => p.clusters.getLsbD n

/-- Whether a function's partition holds the 1 GiB unit of a local physical address (26 R326). -/
def State.holdsUnit (s : State) (f pa : Nat) : Bool :=
  let u := pa / 2 ^ 30
  if f = 64 then !(s.dev.partitions.any fun p => p.valid && p.hbm.getLsbD u)
  else match s.partition? f with
    | none => false
    | some p => p.hbm.getLsbD u

/-- Whether a function's partition caps scope at TENANT (13 R200, 26 R326). -/
def State.capOf (s : State) (f : Nat) : Bool :=
  if f = 64 then s.dev.pfCap else match s.partition? f with
    | none => false
    | some p => p.cap

/-- The owner of a fabric key slot, none for a clear slot (12 R197). -/
def State.keyOwner (s : State) (k : Nat) : Option Nat := (s.dev.keys.find? fun x => x.index == k).map fun x => x.func

/-- Whether a function's partition holds a key slot (26 R326). -/
def State.holdsKey (s : State) (f k : Nat) : Bool := s.keyOwner k == some f

/-- The number of a trap cause (12 R170). -/
def Cause.number : Cause → Nat
  | .illegalOp => 0x01 | .regRange => 0x02 | .misaligned => 0x03 | .scratchRange => 0x04 | .accessViolation => 0x06
  | .vacateBound => 0x07 | .barrierOverarrive => 0x08 | .barrierInvalid => 0x09 | .illegalShape => 0x0A | .ringFull => 0x0B
  | .ringEmpty => 0x0C | .exchangeNoPermit => 0x0D | .routineBlock => 0x0E | .routineReentry => 0x0F
  | .stackOverflow => 0x10 | .travStackOverflow => 0x11 | .hazard => 0x12 | .breakpoint => 0x13 | .software => 0x14
  | .poison => 0x15 | .privilege => 0x16 | .gateRange => 0x17 | .remoteNonmember => 0x18 | .clusterExit => 0x19
  | .layoutInvalid => 0x1A | .galleyInvalid => 0x1B

end Sys2Proof.Machine
end

