-- ==== Sys2Proof/Machine/Translate.lean ====
section
/-! DEFINITION. Global virtual memory: the page walk, the translation caches, replica sets, and accesses made at home
(05_memory R73 to R83). -/

namespace Sys2Proof.Machine

/-- What an access needs of a page (05 R76). -/
inductive Need where
  | load | store | atomic | fetch
  deriving DecidableEq, Repr

/-- A translation that gives no address: a fault with its CAUSE (05 R79), or an address nothing lies at (01 R23, 05 R76). -/
inductive XErr where
  | fault (cause : Nat)
  | unresolved
  deriving DecidableEq, Repr

/-- The number of `n` bytes of memory at home (00_scope R4). -/
def State.num (s : State) (pa n : Nat) : Nat := numOf (Memory.bytes s.mem pa n)

/-- Write bytes at home at a physical address: those overwritten lose their poison (31 R380). -/
def State.poke (s : State) (pa : Nat) (bs : List Byte) : State :=
  { s with mem := Memory.writeAll s.mem (cellsOf pa bs), memPoison := s.memPoison.filter fun k => k < pa || pa + bs.length ≤ k }

/-- Write cells at home, those at the addresses `bad` poisoned (31 R380). -/
def State.putCells (s : State) (cs : List Host.Cell) (bad : List Nat) : State :=
  { s with mem := Memory.writeAll s.mem cs, memPoison := bad ++ s.memPoison.filter fun k => !(cs.any fun c => c.1 == k) }

/-- Whether a physical address lies in the attic window (01 R23). -/
def isAttic (pa : Nat) : Bool := bit pa 51

/-- A byte as its home slice has it: for an attic line the home slice's copy, if it holds one, else the attic node's (05 R80, 13 R207). -/
def State.homeByte (s : State) (pa : Nat) : Byte :=
  if isAttic pa then ((s.attic.find? fun v => v.line == pa / 128).bind fun v => v.byte? pa).getD (Memory.read s.mem pa)
  else Memory.read s.mem pa

/-- Bytes as their home slices have them. -/
def State.homeBytes (s : State) (pa n : Nat) : List Byte := (List.range n).map fun i => s.homeByte (pa + i)

/-- Write bytes at home, and through to the attic node (13 R207): a home slice's copy follows. -/
def State.homePoke (s : State) (pa : Nat) (bs : List Byte) : State :=
  let t := s.poke pa bs
  if isAttic pa then { t with attic := t.attic.map fun v => v.overlay (cellsOf pa bs) } else t

/-- A key slot whose next nonce on a port has been taken (28 R357). -/
def KeySlot.sends (k : KeySlot) (port : Nat) : KeySlot :=
  { k with counters := modifyAt (· + 1) port (k.counters ++ List.replicate (port + 1 - k.counters.length) 0) }

/-- A port that has carried sealed traffic. -/
def Device.sends (d : Device) (port : Nat) : Device := { d with ports := modifyAt (fun p => { p with sent := true }) port d.ports }

/-- A message goes out under a key slot on a port and is answered: whether it does, with nonces left on the port, and authenticates, which is
free (28 R357, R358; log 84). -/
def sealTrip (s : State) (key port : Nat) : Bool × State :=
  match s.dev.keys.find? fun k => k.index == key with
  | none => (false, s)
  | some k =>
    if 2 ^ 64 - 1 ≤ k.counters.getD port 0 then (false, s)
    else (s.modDev fun d => { d.sends port with keys := replaceFirst (fun q => q.index == key) (fun q => q.sends port) d.keys }).coin

/-- The fabric port of an attic address (28 R355). -/
def atticPort (pa : Nat) : Nat := bits (pa - 2 ^ 51) 41 3

/-- Whether a fabric port's link is up (28 R366). -/
def portUp (s : State) (p : Nat) : Bool := ((s.dev.ports[p]?).map fun q => q.link == 2).getD false

/-- Whether an access of a number was pending on the port of an attic address when the port's link left the up state: it is refused (28 R355,
R356). -/
def cutOff (s : State) (pa born : Nat) : Bool :=
  isAttic pa && ((s.dev.ports[atticPort pa]?).map fun q => decide (born < q.since)).getD false

/-- Whether an address lies in local memory that is not trained yet: before full service only stacks 0 and 1 are (31 R383). -/
def untrained (s : State) (pa : Nat) : Bool := s.dev.service != .full && 2 ^ 37 ≤ pa && pa < 2 ^ 39

/-- Whether a physical address lies in local memory or in the attic window at memory that its node has, behind a port that is up
(01 R23, 05 R80, 28 R355, R356). Before full service only stacks 0 and 1 are reached (31 R383). -/
def resolvable (s : State) (pa : Nat) : Bool :=
  (pa < 2 ^ 39 && !untrained s pa)
    || (2 ^ 51 ≤ pa && pa < 2 ^ 51 + 2 ^ 44 && portUp s (atticPort pa) && Config.atticMemory (pa / 2 ^ 16))

/-- The low VA bit a level's index begins at, which is the size of a leaf there (05 R74). -/
def levelShift : Nat → Nat
  | 0 => 46 | 1 => 36 | 2 => 26 | _ => 16

/-- The index of a virtual address at a level (05 R74). -/
def levelIndex (level va : Nat) : Nat := if level = 0 then bits va 46 11 else bits va (levelShift level) 10

/-- Whether a leaf entry is malformed (05 R75, 26 R324). -/
def leafMalformed (s : State) (level pte : Nat) : Bool :=
  bits pte 52 4 != 0 || bit pte 15 || bits pte 13 2 == 3 || level == 0
    || (bits pte 16 36 * 65536) % 2 ^ levelShift level != 0
    || (!bit pte 8 && bits pte 9 4 != 0)
    || (!bit pte 51 && bits pte 56 8 != 0)
    || (bit pte 8 && !s.feature 6) || (bit pte 6 && !s.feature 7)

/-- Whether a non-leaf entry is malformed (05 R75). -/
def tableMalformed (level pte : Nat) : Bool :=
  level == 3 || bits pte 2 11 != 0 || bits pte 52 12 != 0 || bit pte 51

/-- The walk from a table at a level: the level and entry of the leaf, or why there is none (05 R74 to R76, 31 R383). DESIGN CHOICE (log 67): a next
table outside local memory has CAUSE 4, as one outside the share, and for function 64, which holds every unit, the walk goes on there. -/
def walkFrom (s : State) (func va : Nat) : Nat → Nat → Nat → Except XErr (Nat × Nat)
  | 0, _, _ => .error (.fault 2)
  | fuel + 1, level, base =>
    let pte := s.num (base + 8 * levelIndex level va) 8
    if untrained s base then .error .unresolved
    else if !bit pte 0 then .error (.fault 0)
    else if bit pte 1 then (if leafMalformed s level pte then .error (.fault 2) else .ok (level, pte))
    else if tableMalformed level pte then .error (.fault 2)
    else
      let next := bits pte 13 39 * 8192
      if !s.holdsUnit func next then .error (.fault 4) else walkFrom s func va fuel (level + 1) next

/-- The walk of a context's tables. -/
def walk (s : State) (x : Ctx) (va : Nat) : Except XErr (Nat × Nat) := walkFrom s x.func va 4 0 x.pt0

/-- Whether a leaf grants what an access needs (05 R76). -/
def grants (need : Need) (pte : Nat) : Bool :=
  match need with
  | .load => bit pte 2
  | .store => bit pte 3
  | .atomic => bit pte 2 && bit pte 3
  | .fetch => bit pte 4

/-- The page a leaf gives for an address, or why it gives none (05 R75, R76, R80). DESIGN CHOICE (log 67): the order of the tests. -/
def leafPage (s : State) (func : Nat) (need : Need) (va level pte : Nat) : Except XErr Page :=
  let pa := bits pte 16 36 * 65536 + va % 2 ^ levelShift level
  if !grants need pte then .error (.fault 1)
  else if bit pte 51 && !s.holdsKey func (bits pte 56 8) then .error (.fault 3)
  else if !resolvable s pa then .error .unresolved
  else if !bit pte 51 && !s.holdsUnit func pa then .error (.fault 4)
  else .ok ⟨pa, bit pte 5, bit pte 6, bit pte 7, bit pte 8, bits pte 9 4, bit pte 51, bits pte 56 8, false⟩

/-- The entries a translation cache holds at most (01 R18, R25). -/
def Tlb.room : Tlb → Nat
  | .core _ => 256 | .die _ => 16384

/-- The forme die whose shared cache and walker serve a die: its own, or the one a cellar die shares a boundary with (01 R14, R25). -/
def walkerDie (die : Nat) : Nat := if die < 4 then die else (die - 4) / 2

/-- The cache that serves the misses of a core's. -/
def Tlb.behind : Tlb → Option Tlb
  | .core c => some (.die (walkerDie (Config.dieOf c)))
  | .die _ => none

/-- The leaf a cache holds for an address (05 R77). -/
def cachedLeaf (s : State) (h : Tlb) (c va : Nat) : Option CachedLeaf :=
  s.cache.find? fun e => e.holder == h && e.ctx == c && e.vpage == va / 2 ^ levelShift e.level

/-- Keep a leaf in a cache in place of an older one of its page, and of its oldest when it is full. -/
def cacheLeaf (s : State) (h : Tlb) (c va level pte : Nat) : State :=
  let mine := s.cache.filter fun e => e.holder == h && !(e.ctx == c && e.vpage == va / 2 ^ levelShift e.level)
  let others := s.cache.filter fun e => e.holder != h
  { s with cache := ⟨h, c, va / 2 ^ levelShift level, level, BitVec.ofNat 64 pte⟩ :: mine.take (h.room - 1) ++ others }

/-- The leaf for an address as a cache gives it, where what lies behind it gives `next`: an entry that differs from that may have been
kept or lost (05 R77). -/
def throughTlb (h : Tlb) (c va : Nat) (next : Except XErr (Nat × Nat) × State) : Except XErr (Nat × Nat) × State :=
  let fill : Except XErr (Nat × Nat) × State := match next.1 with
    | .error k => (.error k, next.2)
    | .ok l => (.ok l, cacheLeaf next.2 h c va l.1 l.2)
  match cachedLeaf next.2 h c va with
  | none => fill
  | some e =>
    let same : Bool := match next.1 with
      | .ok l => l.1 == e.level && l.2 == e.pte.toNat
      | .error _ => false
    let r : Except XErr (Nat × Nat) × State :=
      if same || Config.freeBool (next.2.free * 16384 + 16382) then (.ok (e.level, e.pte.toNat), next.2) else fill
    (r.1, if same then r.2 else { r.2 with free := next.2.free + 1 })

/-- The leaf for an address as a party with a cache finds it: a core's misses are served by the shared cache of its forme die, and that
cache's by the walk (01 R25, 05 R74 to R77). -/
def findLeaf (s : State) (h : Tlb) (x : Ctx) (va : Nat) : Except XErr (Nat × Nat) × State :=
  match h.behind with
  | none => throughTlb h x.id va (walk s x va, s)
  | some d => throughTlb h x.id va (throughTlb d x.id va (walk s x va, s))

/-- Translate a virtual address of bits [56:0] for a party with a cache (05 R74 to R77). -/
def translate (s : State) (h : Tlb) (x : Ctx) (need : Need) (va : Nat) : Except XErr Page × State :=
  match findLeaf s h x va with
  | (.error e, t) => (.error e, t)
  | (.ok l, t) => (leafPage s x.func need va l.1 l.2, t)

/-- A range of addresses cut at 64 KiB boundaries, as (address, length). -/
def spans : Nat → Nat → Nat → List (Nat × Nat)
  | 0, _, _ => []
  | fuel + 1, va, n =>
    if n = 0 then []
    else
      let k := min n (65536 - va % 65536)
      (va, k) :: spans fuel (va + k) (n - k)

/-- The spans of `n` bytes at an address. -/
def spansOf (va n : Nat) : List (Nat × Nat) := spans (n / 65536 + 2) va n

/-- A replica set descriptor read from physical memory (05 R82): members, sequencer and bases; none when it breaks a rule. -/
def replicaDesc (s : State) (pa : Nat) : Option (Nat × Nat × List Nat) :=
  let members := s.num pa 2
  let seq := s.num (pa + 2) 1
  let bases := (List.range 12).map fun d => s.num (pa + 8 + 8 * d) 8
  let ok := bits members 12 4 == 0 && seq < 12 && bit members seq && s.num (pa + 3) 5 == 0 && s.num (pa + 104) 24 == 0
    && (List.range 12).all fun d =>
      let b := bases.getD d 0
      if bit members d then b < 2 ^ 39 && (if d < 4 then b / 2 ^ 37 == d else b / 2 ^ 36 == d - 4) else b == 0
  if ok then some (members, seq, bases) else none

/-- The replica set of a REPL page: its descriptor read through the context's tables (05 R82, 26 R328). DESIGN CHOICE (log 67): a descriptor
that cannot be read, or lies on a REPL page, breaks the rules. -/
def replicaOf (s : State) (x : Ctx) (rset : Nat) : Option (Nat × Nat × List Nat) :=
  let va := x.replsets + 128 * rset
  match walk s x va with
  | .error _ => none
  | .ok (level, pte) =>
    match leafPage s x.func .load va level pte with
    | .error _ => none
    | .ok p => if p.repl then none else replicaDesc s p.pa

/-- The place of byte `x` of a set's sequencer copy in the copy of die `d`: BASE(d) + (x − BASE(SEQ)) (05 R82). DESIGN CHOICE
(log 67): a place that would be negative is 0. -/
def copyPlace (d : Nat × Nat × List Nat) (die x : Nat) : Nat := (d.2.2.getD die 0 + x) - d.2.2.getD d.2.1 0

/-- The physical address a die reads a REPL byte at (05 R82, R83). -/
def replicaRead (d : Nat × Nat × List Nat) (die pa : Nat) : Nat := copyPlace d (if bit d.1 die then die else d.2.1) pa

/-- Translate for an access, with a REPL page's descriptor checked (05 R82). -/
def translateR (s : State) (h : Tlb) (x : Ctx) (need : Need) (va : Nat) : Except XErr Page × State :=
  match translate s h x need va with
  | (.error e, t) => (.error e, t)
  | (.ok p, t) =>
    if p.repl && (replicaOf t x p.rset).isNone then (.error (.fault 2), t) else (.ok p, t)

/-- The stamp of a replica set of a context. -/
def stampOf (s : State) (c rset : Nat) : Nat :=
  ((s.replicas.find? fun r => r.ctx == c && r.rset == rset).map fun r => r.stamp).getD 0

/-- Change a replica set of a context. -/
def modReplica (s : State) (c rset : Nat) (f : ReplicaSet → ReplicaSet) : State :=
  if s.replicas.any fun r => r.ctx == c && r.rset == rset
  then { s with replicas := replaceFirst (fun r => r.ctx == c && r.rset == rset) f s.replicas }
  else { s with replicas := f ⟨c, rset, 0, []⟩ :: s.replicas }

/-- Who made a REPL write: a store or atomic of a group, an engine operation, or an agent (05 R83, 13 R217). -/
inductive Writer where
  | group (core slot seq : Nat)
  | op (id : Nat)
  | agent

/-- A stamped write of a writer for a member. -/
def Writer.stamped (w : Writer) (stamp die : Nat) (cells : List Host.Cell) (bad : List Nat) : Stamped :=
  match w with
  | .group c slot seq => ⟨stamp, die, cells, bad, c, slot, seq, none⟩
  | .op n => ⟨stamp, die, cells, bad, 0xFFFF, 0, 0, some n⟩
  | .agent => ⟨stamp, die, cells, bad, 0xFFFF, 0, 0, none⟩

/-- The sequencer stamps a write, performs it on its own copy, and multicasts it to the other members (05 R83). The pending writes name
bytes of the sequencer's copy, and those that are poisoned (31 R380). -/
def stampWrite (s : State) (x : Ctx) (rset : Nat) (cells : List Host.Cell) (bad : List Nat) (w : Writer) : State :=
  match replicaOf s x rset with
  | none => s
  | some d =>
    let stamp := stampOf s x.id rset + 1
    let others := (List.range 12).filter fun m => bit d.1 m && m != d.2.1
    let pending := others.map fun m => w.stamped stamp m cells bad
    modReplica (s.putCells cells bad) x.id rset fun r =>
      { r with stamp := stamp, pending := r.pending ++ pending }

/-- The die of a party with a translation cache. -/
def Tlb.dieOf : Tlb → Nat
  | .core c => Config.dieOf c | .die d => d

/-- An access to a page on a context's behalf by an agent, a queue, a stack or a fetch: one to an attic page is sealed, and one that fails is
reported later (28 R357, R358; log 84). -/
def sealPage (s : State) (ctx : Nat) (p : Page) : Bool × State :=
  if !p.attic then (true, s)
  else match sealTrip s p.key (atticPort p.pa) with
    | (true, t) => (true, t)
    | (false, t) => (false, t.modDev fun d => { d with authDue := d.authDue ++ [(p.key, atticPort p.pa, ctx)] })

/-- Read bytes through a context's tables at home, for a party with a cache; the failing address with its reason otherwise. -/
def readSpans (h : Tlb) (x : Ctx) (need : Need) : State → List (Nat × Nat) → Except (XErr × Nat) (List Byte) × State
  | s, [] => (.ok [], s)
  | s, (va, n) :: r =>
    match translateR s h x need va with
    | (.error e, t) => (.error (e, va), t)
    | (.ok p, t) =>
      let pa := if p.repl then ((replicaOf t x p.rset).map fun d => replicaRead d h.dieOf p.pa).getD p.pa else p.pa
      match sealPage t x.id p with
      | (false, t) => (.error (.unresolved, va), t)
      | (true, t) =>
        let bs := t.homeBytes pa n
        match readSpans h x need t r with
        | (.error e, u) => (.error e, u)
        | (.ok rest, u) => (.ok (bs ++ rest), u)

/-- An address with any of bits [63:57] set is never translated (05 R73). -/
def highVa (va : Nat) : Bool := 2 ^ 57 ≤ va

/-- Read `n` bytes at a virtual address of a context, at home. -/
def readVa (s : State) (h : Tlb) (x : Ctx) (va n : Nat) : Except (XErr × Nat) (List Byte) × State :=
  if highVa va || highVa (va + n - 1) then (.error (.unresolved, va), s) else readSpans h x .load s (spansOf va n)

/-- The physical places of a range a context may write, with the pages. -/
def placeSpans (h : Tlb) (x : Ctx) (need : Need) : State → List (Nat × Nat) → Except (XErr × Nat) (List (Page × Nat)) × State
  | s, [] => (.ok [], s)
  | s, (va, n) :: r =>
    match translateR s h x need va with
    | (.error e, t) => (.error (e, va), t)
    | (.ok p, t) =>
      match placeSpans h x need t r with
      | (.error e, u) => (.error e, u)
      | (.ok rest, u) => (.ok ((p, n) :: rest), u)

/-- Placed spans with each access to an attic page sealed: whether all go out. -/
def sealPlaces (ctx : Nat) : State → List (Page × Nat) → Bool × State
  | s, [] => (true, s)
  | s, (p, _) :: r => match sealPage s ctx p with
    | (true, t) => sealPlaces ctx t r
    | (false, t) => (false, t)

/-- The places of a range that an agent, a queue or a stack accesses, its traffic to attic nodes sealed (28 R357). -/
def placeSealed (h : Tlb) (x : Ctx) (need : Need) (s : State) (l : List (Nat × Nat)) : Except (XErr × Nat) (List (Page × Nat)) × State :=
  match placeSpans h x need s l with
  | (.error e, t) => (.error e, t)
  | (.ok ps, t) => match sealPlaces x.id t ps with
    | (true, u) => (.ok ps, u)
    | (false, u) => (.error (.unresolved, (l.head?.map Prod.fst).getD 0), u)

/-- Write the bytes of placed spans at home. -/
def writePlaces (x : Ctx) : State → List (Page × Nat) → List Byte → State
  | s, [], _ => s
  | s, (p, n) :: r, bs =>
    let now := bs.take n
    let t := if p.repl then stampWrite s x p.rset (cellsOf p.pa now) [] .agent else s.homePoke p.pa now
    writePlaces x t r (bs.drop n)

/-- Write bytes at a virtual address of a context, at home: all of them, or none and the failing address. -/
def writeVa (s : State) (h : Tlb) (x : Ctx) (va : Nat) (bs : List Byte) : Except (XErr × Nat) Unit × State :=
  if highVa va || highVa (va + bs.length - 1) then (.error (.unresolved, va), s)
  else match placeSealed h x .store s (spansOf va bs.length) with
    | (.error e, t) => (.error e, t)
    | (.ok ps, t) => (.ok (), writePlaces x t ps bs)

/-- What an atomic on a number in memory comes to: it is made, its read half has been made, or an address gives no byte. -/
inductive Added where
  | done (s : State)
  | half (old : DWord) (s : State)
  | fails (e : XErr) (va : Nat) (s : State)

/-- An atomic on a number in memory, as a signal add is (26 R336): in one step on a page with SATOM, else in two halves, of which `half`
gives what the first took (13 R220, 26 R338). -/
def addVa (s : State) (h : Tlb) (x : Ctx) (va n : Nat) (half : Option DWord) (f : Nat → Nat) : Added :=
  if highVa va || highVa (va + n - 1) then .fails .unresolved va s
  else match placeSealed h x .atomic s (spansOf va n) with
    | (.error e, t) => .fails e.1 e.2 t
    | (.ok ps, t) =>
      match ps, half with
      | [(p, _)], some old => if p.satom then .done (writePlaces x t ps (bytesOf n (f (numOf (t.homeBytes p.pa n)))))
        else .done (writePlaces x t ps (bytesOf n (f old.toNat)))
      | [(p, _)], none =>
        let old := numOf (t.homeBytes p.pa n)
        if p.satom then .done (writePlaces x t ps (bytesOf n (f old))) else .half (BitVec.ofNat 64 old) t
      | _, _ => .fails .unresolved va t

end Sys2Proof.Machine
end

