-- ==== Sys2Proof/Machine/Events.lean ====
section
/-! DEFINITION. Event rings and fault queues (26_command R330, R349 to R352, R393). -/

namespace Sys2Proof.Machine

/-- The event types of 26 R351 and of the chapters that define others. -/
inductive EventType where
  | queueError | program | queueEvent | unhandledTrap | stackOverflow | poison | atomicRace | scopeCapped | blkmaxOverrun
  | vacateOverrun | capability | saveStack | clusterUnplaced | dieFailed | creditLost | context | replica | fabricAuth
  | branchBlocked | fabricLink | debugStop | coreFault | ageing | corrected | handover | partition | saveFailed
  deriving DecidableEq, Repr

/-- TYPE of an event (26 R351). -/
def EventType.number : EventType → Nat
  | .queueError => 0x01 | .program => 0x02 | .queueEvent => 0x03 | .unhandledTrap => 0x04 | .stackOverflow => 0x05
  | .poison => 0x06 | .atomicRace => 0x07 | .scopeCapped => 0x08 | .blkmaxOverrun => 0x09 | .vacateOverrun => 0x0A
  | .capability => 0x0B | .saveStack => 0x0C | .clusterUnplaced => 0x0D | .dieFailed => 0x0E | .creditLost => 0x0F
  | .context => 0x10 | .replica => 0x11 | .fabricAuth => 0x12 | .branchBlocked => 0x13 | .fabricLink => 0x14
  | .debugStop => 0x15 | .coreFault => 0x16 | .ageing => 0x17 | .corrected => 0x18 | .handover => 0x19
  | .partition => 0x1A | .saveFailed => 0x1B

/-- Whether an event is of the error class (26 R351). -/
def EventType.isError : EventType → Bool
  | .queueError => true | .unhandledTrap => true | .stackOverflow => true | .poison => true | .saveStack => true
  | .clusterUnplaced => true | .dieFailed => true | .replica => true | .saveFailed => true
  | _ => false

/-- Where an event comes from: die, cluster, core and slot (26 R350). -/
abbrev EventSource := Nat × Nat × Nat × Nat

/-- An event without a source. -/
def noSource : EventSource := (0xFF, 0xFF, 0xFF, 0xFF)

/-- The source of what a queue's chaining engine reports: the die of forme (q mod 4) (26 R331, R343, 27_program_queue). -/
def chainSource (q : Nat) : EventSource := (q % 4, 0xFF, 0xFF, 0xFF)

/-- The source of an event of a group. -/
def groupSource (c slot : Nat) : EventSource := (Config.dieOf c, Config.clusterOf c, Config.coreOf c, slot)

/-- The die a core or an agent belongs to serves its accesses. -/
def dieOfCore (c : Nat) : Nat := Config.dieOf c

/-- The descriptor of a queue in memory (26 R331). -/
def State.queueDesc (s : State) (q : Nat) : Nat := s.dev.qbase.toNat + 128 * q

/-- The STATE byte of a queue: 0 STOPPED, 1 RUNNING, 2 HALTED, 3 ABORTED (26 R331). -/
def State.queueState (s : State) (q : Nat) : Nat := s.num (s.queueDesc q + 0x0B) 1

/-- The queues the device holds for a context. -/
def State.queuesOf (s : State) (c : Nat) : List Nat := (s.queues.filter fun q => q.ctx == c).map fun q => q.id

/-- Record the first error of a queue, met by the level-0 packet of an index, and stop it (26 R342). -/
def haltAt (s : State) (q state code index : Nat) : State :=
  let d := s.queueDesc q
  let word := code % 65536 + (index % 2 ^ 48) * 65536
  let t := if s.num (d + 0x20) 8 % 65536 = 0 then s.poke (d + 0x20) (bytesOf 8 word) else s
  t.poke (d + 0x0B) (bytesOf 1 state)

/-- Stop a queue for an error that no packet met: the index is that of the next packet to fetch (log 25). -/
def haltQueue (s : State) (q state code : Nat) : State := haltAt s q state code (((s.queue? q).map fun x => x.fetched).getD 0)

/-- The physical function's event ring: the lowest ring with FUNC 64 and a non-zero VA (26 R393). -/
def State.pfRing (s : State) : Option Nat :=
  (List.range 256).find? fun e =>
    s.num (s.dev.evbase.toNat + 64 * e + 9) 1 == 64 && s.num (s.dev.evbase.toNat + 64 * e) 8 != 0

/-- The 32 bytes of an event record (26 R350). -/
def eventBytes (s : State) (ty : EventType) (ctx queue code detail : Nat) (src : EventSource) : List Byte :=
  bytesOf 2 ty.number ++ bytesOf 2 queue ++ bytesOf 2 ctx ++ bytesOf 2 code ++ bytesOf 8 detail ++ bytesOf 8 s.ticks
    ++ bytesOf 1 src.1 ++ bytesOf 1 src.2.1 ++ bytesOf 1 src.2.2.1 ++ bytesOf 1 src.2.2.2 ++ bytesOf 4 0

/-- Whether a ring descriptor meets its rules (26 R349, 00 R9). -/
def ringOk (s : State) (ring : Nat) : Bool :=
  let d := s.dev.evbase.toNat + 64 * ring
  let log := s.num (d + 8) 1
  s.num d 8 % 32 == 0 && !highVa (s.num d 8) && 4 ≤ log && log ≤ 16 && s.num (d + 9) 1 ≤ 64 && s.num (d + 0x0A) 6 == 0
    && s.num (d + 0x24) 28 == 0

/-- Count a record that its ring has lost (26 R349, R352); a ring whose descriptor is refused counts nothing. -/
def countLost (s : State) (ring : Nat) : State :=
  let d := s.dev.evbase.toNat + 64 * ring
  if ringOk s ring then s.poke (d + 0x20) (bytesOf 4 (min (s.num (d + 0x20) 4 + 1) (2 ^ 32 - 1))) else s

/-- Post an event to a ring: the record, then TAIL; a full ring or a failed write loses it (26 R349, R352), as does a ring whose
descriptor breaks a rule (00 R9; log 7). A ring's VA is translated through the context of the event; an event of no context reaches it
at that physical address (log 7). It says whether the record was written. -/
def tryPost (s : State) (ring : Nat) (ctx : Option Ctx) (ty : EventType) (queue code detail : Nat) (src : EventSource) :
    Bool × State :=
  let d := s.dev.evbase.toNat + 64 * ring
  let tail := s.num (d + 0x10) 8
  let size := 2 ^ s.num (d + 8) 1
  let va := s.num d 8 + 32 * (tail % size)
  let rec_ := eventBytes s ty ((ctx.map fun x => x.id).getD 0xFFFF) queue code detail src
  let written : Option State :=
    if ringOk s ring && tail - s.num (d + 0x18) 8 < size then
      match ctx with
      | none => if resolvable s va then some (s.homePoke va rec_) else none
      | some x => match writeVa s (.die 0) x va rec_ with
        | (.ok _, t) => some t
        | (.error _, _) => none
    else none
  match written with
  | some t => (true, t.poke (d + 0x10) (bytesOf 8 (tail + 1)))
  | none => (false, countLost s ring)

/-- Halt every running queue of a context with EVENT_LOST, an error of its own (26 R342, R352). -/
def loseEvent (s : State) (x : Ctx) : State :=
  (s.queuesOf x.id).foldl (fun s q =>
    if s.queueState q = 1 then
      let t := haltQueue s q 2 9
      (tryPost t x.evring (some x) .queueError q 9 (t.num (t.queueDesc q + 0x20) 8) (chainSource q)).2
    else s) s

/-- Post an event to a ring; an error event that is lost halts queues (26 R349, R352). -/
def postTo (s : State) (ring : Nat) (ctx : Option Ctx) (ty : EventType) (queue code detail : Nat) (src : EventSource) : State :=
  match tryPost s ring ctx ty queue code detail src, ctx with
  | (false, t), some x => if ty.isError && !(ty == .queueError && queue != 0xFFFF) then loseEvent t x else t
  | (_, t), _ => t

/-- Post an event of a context to its ring (26 R328, R349). -/
def postEvent (s : State) (c : Nat) (ty : EventType) (queue code detail : Nat) (src : EventSource) : State :=
  match s.ctx? c with
  | none => s
  | some x => postTo s x.evring (some x) ty queue code detail src

/-- Post an event to the physical function's ring (26 R393). -/
def postPf (s : State) (ty : EventType) (code detail : Nat) (src : EventSource) : State :=
  match s.pfRing with
  | none => s
  | some e => postTo s e none ty 0xFFFF code detail src

/-! Sealed traffic (28 R357, R358). -/

/-- Report traffic that fails authentication, or names a key slot that is not valid: to the context named if its partition owns the slot,
else to one of the owner's contexts, one under the slot first; only a slot without an owner is the physical function's (28 R358; log 84). -/
def authEvent (s : State) (key port : Nat) (ctx : Option Nat) : State :=
  match s.keyOwner key with
  | none => postPf s .fabricAuth (key % 256) port noSource
  | some f =>
    let mine := (ctx.bind fun c => s.ctx? c).filter fun x => x.func == f
    let owners := s.ctxs.filter fun x => x.valid && x.func == f
    match mine <|> (owners.find? fun x => x.keyid.toNat == key) <|> owners.head? with
    | some x => postEvent s x.id .fabricAuth 0xFFFF key port noSource
    | none => s

/-- An access of a context goes out to an attic node under a key slot, and is answered; what fails is reported (28 R357, R358; log 84). -/
def atticTrip (s : State) (ctx key port : Nat) : Bool × State :=
  match sealTrip s key port with
  | (true, t) => (true, t)
  | (false, t) => (false, authEvent t key port (some ctx))

/-- Report what has failed of the traffic of agents, queues, stacks and fetches (28 R358). -/
def postAuth (s : State) : State :=
  s.dev.authDue.foldl (fun t d => authEvent t d.1 d.2.1 (some d.2.2)) (s.modDev fun d => { d with authDue := [] })

/-- The 32 bytes of a fault record (05 R79). -/
def faultBytes (va ctx : Nat) (src : EventSource) (kind cause : Nat) (lanes : Mask) (batch time : Nat) : List Byte :=
  bytesOf 8 va ++ bytesOf 2 ctx ++ bytesOf 1 src.1 ++ bytesOf 1 src.2.1 ++ bytesOf 1 src.2.2.1 ++ bytesOf 1 src.2.2.2
    ++ bytesOf 1 kind ++ bytesOf 1 cause ++ bytesOf 4 lanes.toNat ++ bytesOf 4 batch ++ bytesOf 8 time

/-- Post a fault record and give its number; none while the fault queue has no slot for it (05 R79, 26 R330). -/
def postFault (s : State) (x : Ctx) (va : Nat) (src : EventSource) (kind cause : Nat) (lanes : Mask) (batch time : Nat)
    (owner : FaultOwner) : Option Nat × State :=
  let x := (s.ctx? x.id).getD x
  if 2 ^ x.faultLog ≤ x.faults.length then (none, s)
  else
    let n := x.faultTail
    let rec_ := faultBytes va x.id src kind cause lanes batch time
    let t := match writeVa s (.die 0) x (x.faultq + 32 * (n % 2 ^ x.faultLog)) rec_ with
      | (.ok _, t) => t
      | (.error _, t) => t
    let t := t.poke (t.dev.ctxbase.toNat + 128 * x.id + 0x28) (bytesOf 8 (n + 1))
    (some n, t.modCtx x.id fun y =>
      { y with faultTail := n + 1,
               faults := y.faults ++ [⟨n, BitVec.ofNat 64 va, kind, cause, lanes, owner⟩] })

/-- Post the fault record of an access that its owner cannot make again by itself; one that finds no slot waits for it (26 R330). -/
def postHeld (s : State) (x : Ctx) (va : Nat) (src : EventSource) (kind cause : Nat) (lanes : Mask) (time : Nat) (owner : FaultOwner) : State :=
  match postFault s x va src kind cause lanes 0 time owner with
  | (some _, t) => t
  | (none, t) => t.modCtx x.id fun y => { y with faultWait := y.faultWait ++ [⟨va, src, kind, cause, lanes, time, owner⟩] }

/-- Post the fault record of a queue's or an agent's access (26 R343). -/
def postOrWait (s : State) (x : Ctx) (va : Nat) (src : EventSource) (kind cause : Nat) (owner : FaultOwner) : State :=
  postHeld s x va src kind cause 0 s.ticks owner

/-- Whether the record of an owner is unanswered, or waits for its slot. -/
def Ctx.asks (x : Ctx) (o : FaultOwner) : Bool := (x.faults.any fun f => f.owner == o) || x.faultWait.any fun f => f.owner == o

/-- Post the records of a context that have waited for slots of its fault queue, as far as there are slots (26 R330). -/
def postWaiting : Nat → State → Nat → State
  | 0, s, _ => s
  | n + 1, s, c =>
    match s.ctx? c with
    | none => s
    | some x =>
      match x.faultWait with
      | [] => s
      | f :: r =>
        match postFault s x f.va f.source f.kind f.cause f.lanes 0 f.time f.owner with
        | (some _, t) => postWaiting n (t.modCtx c fun y => { y with faultWait := r }) c
        | (none, _) => s

end Sys2Proof.Machine
end

