-- ==== Sys2Proof/Machine/Trace.lean ====
section
/-! DEFINITION. The branch-and-mask trace (29_debug R373, R376, R377, 30_program_trace R378, R379). -/

namespace Sys2Proof.Machine

/-- %trcctl.LOG (29 R373). -/
def trcLog (v : Nat) : Nat := bits v 6 5
/-- The area VA of %trcctl (29 R373). -/
def trcArea (v : Nat) : Nat := bits v 16 41 * 65536
/-- Whether the area and LOG of %trcctl let trace and sampling run (29 R373). -/
def trcUsable (v : Nat) : Bool := 12 ≤ trcLog v && trcLog v ≤ 24 && trcArea v != 0
/-- Whether the branch-and-mask trace is on. -/
def tracing (x : Ctx) : Bool := bit x.trcctl.toNat 0 && trcUsable x.trcctl.toNat
/-- The region of a core (29 R373). -/
def trcRegion (x : Ctx) (c : Nat) : Nat := trcArea x.trcctl.toNat + 2 ^ trcLog x.trcctl.toNat * c

/-- A context's tracer on a core with nothing written. -/
def Tracer.fresh (ctx : Nat) : Tracer := ⟨ctx, [], 0, 0, 0, none, 0, 0, [], [0, 0, 0, 0], [0, 0, 0, 0]⟩

/-- The tracer of a context on a core. -/
def Core.tracer (x : Core) (ctx : Nat) : Tracer := (x.tracers.find? fun t => t.ctx == ctx).getD (Tracer.fresh ctx)

/-- Replace a tracer. -/
def Core.setTracer (x : Core) (t : Tracer) : Core :=
  { x with tracers := t :: x.tracers.filter fun u => u.ctx != t.ctx }

/-- The stream of a split; a stream that has written nothing begins with a SYNC (30 R378). -/
def Group.stream (g : Group) (i : Nat) : Stream :=
  (g.streams.find? fun t => t.split == i).getD ⟨i, [], 0, 0, 0, 0, 0, 0, .first⟩

/-- Replace a stream. -/
def Group.setStream (g : Group) (t : Stream) : Group :=
  { g with streams := t :: g.streams.filter fun u => u.split != t.split }

/-- The bytes of a SYNC packet (29 R376). -/
def syncBytes (id split : Nat) (pc : PC) (m : Mask) (t : Nat) : List Byte :=
  bytesOf 1 0x10 ++ bytesOf 2 id ++ bytesOf 1 split ++ bytesOf 4 (pc.toNat / 4) ++ bytesOf 4 m.toNat ++ bytesOf 6 t

/-- Every stream of a context's groups on a core owes a SYNC (29 R377, 30 R378). -/
def Core.oweSyncs (x : Core) (ctx : Nat) (o : OwedSync) : Core :=
  { x with groups := x.groups.map fun g =>
      if g.ctx = ctx then { g with streams := g.streams.map fun t => { t with owed := o } } else g }

/-- Append packets to the buffer, with where each begins. -/
def appendPackets (t : Tracer) : List (List Byte) → Tracer
  | [] => t
  | p :: r => appendPackets { t with starts := t.starts ++ [t.offset + t.buffer.length], buffer := t.buffer ++ p } r

/-- Write the LOSS packet of a tracer: every stream then owes a SYNC (29 R377, 30 R379). -/
def putLoss (x : Core) (ctx : Nat) : Core :=
  let t := x.tracer ctx
  (x.setTracer (appendPackets { t with dropped := 0 } [bytesOf 1 0xF0 ++ bytesOf 2 (min t.dropped 65535)])).oweSyncs ctx .afterLoss

/-- Space has returned after a drop once the LOSS and the SYNC that must follow it find room in the 256-byte buffer: the LOSS
is written (29 R377, 30 R379). -/
def lossFirst (x : Core) (ctx : Nat) : Core :=
  let t := x.tracer ctx
  if t.dropped ≠ 0 ∧ t.buffer.length + 21 ≤ 256 then putLoss x ctx else x

/-- Write a unit of packets into the 256-byte buffer; a unit that finds it full, or that no LOSS precedes yet after a drop, is
dropped, each packet of it counted (29 R377, 30 R379). -/
def writeUnit (x : Core) (ctx : Nat) (unit : List (List Byte)) : Bool × Core :=
  let t := x.tracer ctx
  let n := (unit.map List.length).foldl (· + ·) 0
  if t.dropped = 0 ∧ t.buffer.length + n ≤ 256 then (true, x.setTracer (appendPackets t unit))
  else (false, x.setTracer { t with dropped := t.dropped + unit.length, lost := t.lost + unit.length })

/-- A packet of a group has been written: every stream of the group counts it, and a SYNC restarts its own count. -/
def countPacket (x : Core) (slot split : Nat) (isSync : Bool) : Core :=
  x.modGroup slot fun g =>
    let g := { g with streams := g.streams.map fun t => { t with since := t.since + 1 } }
    if isSync then g.setStream { g.stream split with since := 0, owed := .none } else g

/-- Write a SYNC of a stream. -/
def putSync (x : Core) (g : Group) (split : Nat) (pc : PC) (m : Mask) (time : Nat) : Core :=
  match writeUnit x g.ctx [syncBytes g.traceId split pc m time] with
  | (true, y) => countPacket (y.setTracer { y.tracer g.ctx with current := some (g.slot, split), lastTime := time }) g.slot split true
  | (false, y) => y

/-- Write a packet of a stream with the GROUP and DTS it needs, or a SYNC in its place (29 R377). -/
def putPacket (x : Core) (g : Group) (split : Nat) (body : List Byte) (ptime : Nat) (pc : PC) (m : Mask) (time : Nat) : Core :=
  let t := x.tracer g.ctx
  let at_ := max ptime t.lastTime
  if 63 ≤ (g.stream split).since || 65535 < at_ - t.lastTime then putSync x g split pc m time
  else
    let group := if t.current == some (g.slot, split) then [] else [bytesOf 1 0x30 ++ bytesOf 2 g.traceId ++ bytesOf 1 split]
    let dts := if at_ = t.lastTime then [] else [bytesOf 1 0x50 ++ bytesOf 2 (at_ - t.lastTime)]
    match writeUnit x g.ctx (group ++ dts ++ [body]) with
    | (true, y) => countPacket (y.setTracer { y.tracer g.ctx with current := some (g.slot, split), lastTime := at_ }) g.slot split false
    | (false, y) => y

/-- The number of a list of bits, the first lowest. -/
def bitsNum : List Bool → Nat
  | [] => 0
  | b :: r => b.toNat + 2 * bitsNum r

/-- Write the pending BR bits of a stream: the first SYNC since TRC was set comes right before them, at the time of the first bit
(30 R378). The bits of a stream that owes a SYNC after a LOSS wait for it: it discards them (30 R379). -/
def putBits (x : Core) (slot split time : Nat) : Core :=
  match x.group? slot with
  | none => x
  | some g =>
    let t := g.stream split
    if t.bits.isEmpty || t.owed == .afterLoss then x
    else
      let x := x.modGroup slot fun g => g.setStream { t with bits := [] }
      let x := if t.owed == .first then putSync x g split t.pc0 t.mask0 t.bitCycle else x
      putPacket x ((x.group? slot).getD g) split (bytesOf 1 (0x20 + t.bits.length % 8) ++ bytesOf 1 (bitsNum t.bits))
        t.bitCycle t.pc t.mask time

/-- Write the pending bits of the stream that a packet of another one leaves (29 R377). -/
def leaveStream (x : Core) (ctx slot split time : Nat) : Core :=
  match (x.tracer ctx).current with
  | some (a, b) => if a = slot ∧ b = split then x else putBits x a b time
  | none => x

/-- Write the SYNC that a stream owes after a LOSS, with its pending bits discarded (30 R379). -/
def syncAfterLoss (x : Core) (g : Group) (split : Nat) (pc : PC) (m : Mask) (time : Nat) : Core :=
  putSync (x.modGroup g.slot fun g => g.setStream { g.stream split with bits := [] }) g split pc m time

/-- The bytes of a MASK packet (29 R376). -/
def maskBytes (event : Nat) (m : Mask) : List Byte := bytesOf 1 0x40 ++ bytesOf 1 event ++ bytesOf 4 m.toNat

/-- Write what an event of a stream writes: a LOSS that is due, the bits before it, an owed SYNC, and its own packet
(29 R377, 30 R378, R379). -/
def writeEvent (x : Core) (e : TraceEvent) (time : Nat) : Core :=
  match x.group? e.slot with
  | none => x
  | some g =>
    let x := leaveStream (lossFirst x g.ctx) g.ctx e.slot e.split time
    let g := (x.group? e.slot).getD g
    let lost := (g.stream e.split).owed == .afterLoss
    let x := putBits x e.slot e.split time
    let g := (x.group? e.slot).getD g
    match e.kind with
    | .bit _ => if lost then syncAfterLoss x g e.split e.pc e.mask time else x
    | .sync => if lost then syncAfterLoss x g e.split e.pc e.mask time else putSync x g e.split e.pc e.mask time
    | .mask ev m =>
      let x := if lost then syncAfterLoss x g e.split e.pc0 e.mask0 time
        else if (g.stream e.split).owed == .first then putSync x g e.split e.pc0 e.mask0 time else x
      putPacket x ((x.group? e.slot).getD g) e.split (maskBytes ev m) time e.pc e.mask time

/-- Take one trace event into its core's stream: a BR bit is held until eight are pending (29 R377). -/
def takeTrace (x : Core) (e : TraceEvent) (time : Nat) : Core :=
  match x.group? e.slot with
  | none => x
  | some g =>
    let st := g.stream e.split
    match e.kind with
    | .bit b =>
      let st := if st.bits.isEmpty then { st with bitCycle := time, pc0 := e.pc0, mask0 := e.mask0 } else st
      let st := { st with bits := st.bits ++ [b], pc := e.pc, mask := e.mask }
      let x := x.modGroup e.slot fun g => g.setStream st
      if st.bits.length < 8 then x else writeEvent x e time
    | _ => writeEvent (x.modGroup e.slot fun g => g.setStream st) e time

/-- Keep a trace event for its cycle, if the group's context is traced (29 R376). -/
def note (s : State) (e : TraceEvent) : State :=
  match s.group? e.core e.slot with
  | none => s
  | some g =>
    match s.ctx? g.ctx with
    | none => s
    | some x => if tracing x then { s with traceNow := s.traceNow ++ [e] } else s

/-- Keep a SYNC for a split where it stands. -/
def noteSync (s : State) (c slot pipe i : Nat) : State :=
  match (s.group? c slot).bind fun g => g.split? i with
  | none => s
  | some sp => note s ⟨c, slot, pipe, i, sp.pc, sp.mask, sp.pc, sp.mask, .sync⟩

/-- Insert a trace event in event order (29 R376), after those of its own rank. -/
def insertTrace (e : TraceEvent) : List TraceEvent → List TraceEvent
  | [] => [e]
  | y :: r =>
    if e.core < y.core ∨ (e.core = y.core ∧ (e.slot < y.slot ∨ (e.slot = y.slot ∧ e.pipe < y.pipe)))
    then e :: y :: r else y :: insertTrace e r

/-- %cycle of the context of a group. -/
def cycleOf (s : State) (c slot : Nat) : Nat :=
  (((s.group? c slot).bind fun g => s.ctx? g.ctx).map fun x => x.cycles).getD 0

/-- Write the trace events kept so far, in event order (29 R376). -/
def settleTrace (s : State) : State :=
  let es := s.traceNow.foldl (fun l e => insertTrace e l) []
  es.foldl (fun s e => s.modCore e.core fun x => takeTrace x e (cycleOf s e.core e.slot)) { s with traceNow := [] }

/-- Write one unit of up to 64 bytes of a core's stream to the ring, and the region's counts (29 R373). -/
def drainUnit (s : State) (x : Ctx) (c : Nat) : State :=
  let t := (s.core c).tracer x.id
  let unit := t.buffer.take 64
  if unit.isEmpty then s
  else
    let log := trcLog x.trcctl.toNat
    let ring := trcRegion x c + 2 ^ (log - 1)
    let r := writeVa s (.core c) x (ring + t.offset % 2 ^ (log - 1)) unit
    let begun := (t.starts.filter fun k => k < t.offset + unit.length).length
    let bad : Bool := match r.1 with | .ok _ => false | .error _ => true
    let t := { t with buffer := t.buffer.drop 64, offset := t.offset + unit.length,
                      starts := t.starts.filter fun k => t.offset + unit.length ≤ k,
                      lost := if bad then t.lost + begun else t.lost }
    let s := r.2.modCore c fun y => y.setTracer t
    let h := (writeVa s (.core c) x (trcRegion x c) (bytesOf 8 t.offset)).2
    (writeVa h (.core c) x (trcRegion x c + 16) (bytesOf 8 t.lost)).2

/-- Drain a core's whole stream. -/
def drainAll : Nat → State → Ctx → Nat → State
  | 0, s, _, _ => s
  | n + 1, s, x, c => drainAll n (drainUnit s x c) x c

/-- Write the pending bits of one stream at a flush, or the SYNC in their place that it owes after a LOSS (29 R377, 30 R379; log 38). -/
def flushStream (x : Core) (ctx time slot split : Nat) : Core :=
  match x.group? slot with
  | none => x
  | some g =>
    let st := g.stream split
    if g.ctx != ctx || st.bits.isEmpty then x
    else
      let x := lossFirst x ctx
      let g := (x.group? slot).getD g
      if (g.stream split).owed == .afterLoss then syncAfterLoss x g split st.pc st.mask time else putBits x slot split time

/-- Write the pending bits of every stream of a context on a core, the selected stream's first (29 R377, Flush). -/
def flushBits (x : Core) (ctx time : Nat) : Core :=
  let y := match (x.tracer ctx).current with
    | some (slot, split) => flushStream x ctx time slot split
    | none => x
  (x.groups.map fun g => g.slot).foldl (fun y slot => (List.range 4).foldl (fun y i => flushStream y ctx time slot i) y) y

/-- Fill the stream to a multiple of 64 bytes with PAD packets, a LOSS that is owed before them (29 R376, R377, 30 R379). -/
def padStream (x : Core) (ctx : Nat) : Core :=
  let ragged (y : Core) : Nat := (64 - (y.tracer ctx).buffer.length % 64) % 64
  let y := if (x.tracer ctx).dropped ≠ 0 ∧ ragged x ≠ 0 then putLoss x ctx else x
  if ragged y = 0 then y else y.setTracer (appendPackets (y.tracer ctx) (List.replicate (ragged y) [0]))

/-- Flush a context's trace on every core: pending bits, PAD to 64 bytes, and every unit (29 R377). -/
def flushTrace (s : State) (c : Nat) : State :=
  let s := settleTrace s
  match s.ctx? c with
  | none => s
  | some x =>
    if !tracing x then s
    else s.cores.foldl (fun s y => drainAll 6 (s.setCore (padStream (flushBits (s.core y.index) c x.cycles) c)) x y.index) s

/-- The counts of a tracer restart at 0 in a new area; what its buffer still holds goes there (29 R373). -/
def Tracer.restart (t : Tracer) : Tracer :=
  { t with offset := 0, samples := 0, lost := 0, starts := t.starts.map fun k => k - t.offset }

/-- A UMOVT of %trcctl: a flush when it turns the trace off, counts restarted when the area changes, and a SYNC owed by every
stream when it turns the trace on (29 R373, R377, 30 R378; log 38). -/
def writeTrcctl (s : State) (c : Nat) (v : DWord) : State :=
  match s.ctx? c with
  | none => s
  | some x =>
    let new : DWord := BitVec.ofNat 64 (bits v.toNat 0 11 + trcArea v.toNat)
    let moved := trcLog new.toNat != trcLog x.trcctl.toNat || trcArea new.toNat != trcArea x.trcctl.toNat
    let y := { x with trcctl := new }
    let s := if tracing x && !tracing y then flushTrace s c else settleTrace s
    let s := if moved then
        { s with cores := s.cores.map fun k => { k with tracers := k.tracers.map fun t => if t.ctx = c then t.restart else t } }
      else s
    let s := if tracing y && !tracing x then
        { s with cores := s.cores.map fun k => (k.setTracer { k.tracer c with current := none, lastTime := 0 }).oweSyncs c .first }
      else s
    s.modCtx c fun z => { z with trcctl := new }

end Sys2Proof.Machine
end

