-- ==== Sys2Proof/Machine/Intake.lean ====
section
/-! DEFINITION. The scratchpad intake: accesses at a place, their poison, barrier objects and the tests of held WAITs, and the accesses of
other cores (05_memory R67, 11_lane R146 to R151, 12_uniform R176, 13_ordering R206). -/

namespace Sys2Proof.Machine

/-- A place in a scratchpad: the core and the byte offset in its whole scratchpad. -/
structure Place where
  core : Nat
  off : Nat
  deriving DecidableEq, Repr

/-- Write bytes of a core's scratchpad: bytes overwritten lose their poison (31 R380). -/
def Core.putScratch (x : Core) (off : Nat) (bs : List Byte) : Core :=
  { x with scratch := x.scratch.setBytes off bs,
           poison := x.poison.filter fun k => k < off || off + bs.length ≤ k }

/-- Write bytes at a place. -/
def writePlace (s : State) (p : Place) (bs : List Byte) : State := s.modCore p.core fun x => x.putScratch p.off bs

/-- Read bytes at a place. -/
def readPlace (s : State) (p : Place) (n : Nat) : List Byte := (s.core p.core).scratch.bytes p.off n

/-- Whether an access touches an 8-byte word that holds an uncorrected error (11 R151). -/
def Core.poisonedAt (x : Core) (off n : Nat) : Bool :=
  x.poison.any fun k => off / 8 ≤ k / 8 && k / 8 ≤ (off + n - 1) / 8

/-! Barrier objects. -/

/-- A barrier object (05 R67). -/
structure Obj where
  phase : Nat
  pend : Nat
  reload : Nat
  bytes : Int
  flags : Nat
  zero : Nat
  deriving DecidableEq, Repr

/-- Read an object. -/
def objOf (bs : List Byte) : Obj :=
  let n := numOf bs
  ⟨bits n 0 32, bits n 32 16, bits n 48 16, signed 32 (bits n 64 32), bits n 96 8, bits n 104 24⟩

/-- The bytes of an object. -/
def Obj.image (o : Obj) : List Byte :=
  bytesOf 4 o.phase ++ bytesOf 2 o.pend ++ bytesOf 2 o.reload ++ bytesOf 4 (wrapInt32 o.bytes) ++ bytesOf 1 o.flags
    ++ bytesOf 3 o.zero
where
  /-- A signed 32-bit field as stored. -/
  wrapInt32 (x : Int) : Nat := (x % (2 ^ 32 : Int)).toNat

/-- Whether an object is valid (05 R67). -/
def Obj.valid (o : Obj) : Bool := bit o.flags 0 && bits o.flags 1 3 != 7 && bits o.flags 4 4 == 0 && o.zero == 0

/-- SCOPE of an object. -/
def Obj.scope (o : Obj) : Nat := bits o.flags 1 3

/-- The object at a place. -/
def objAt (s : State) (p : Place) : Obj := objOf (readPlace s p 16)

/-- A test of an object by a WAIT for a phase: reached, invalid, or neither (12 R176). -/
def testObject (o : Obj) (phase : Word) : Option Bool :=
  if !o.valid then some false else if 0 ≤ (BitVec.ofNat 32 o.phase - phase).toInt then some true else none

/-- Test the held WAITs whose object has bytes among `n` at a place that have just been written (12 R176). -/
def testWaits (s : State) (p : Place) (n : Nat) : State :=
  { s with waits := s.waits.map fun t =>
      if t.met.isNone && t.home == p.core && t.off < p.off + n && p.off < t.off + 16
      then { t with met := testObject (objAt s ⟨t.home, t.off⟩) t.phase } else t }

/-- A plain store of bytes at a place: the WAITs on an object there test it (12 R176). -/
def storePlace (s : State) (p : Place) (bs : List Byte) : State := testWaits (writePlace s p bs) p bs.length

/-! The values of scratchpad instructions. -/

/-- The new value an atomic leaves in an `n`-bit word (11 R150, R157, 12 R180). -/
def atomNew (op : AtomOp) (n old operand new : Nat) : Nat :=
  match op with
  | .add => (old + operand) % 2 ^ n
  | .exch => operand
  | .cas => if old = operand then new else old
  | .and => old &&& operand
  | .or => old ||| operand
  | .xor => old ^^^ operand
  | .minS => if signed n old ≤ signed n operand then old else operand
  | .maxS => if signed n old ≤ signed n operand then operand else old
  | .minZ => min old operand
  | .maxZ => max old operand

/-- Sign extension of the low `n` bits to 32. -/
def signTo32 (n x : Nat) : Nat := (BitVec.ofInt 32 (signed n x)).toNat

/-- The register writes of a lane's value of `regs` words. -/
def spread (d regs l v : Nat) : List (Nat × Nat × Word) :=
  (List.range regs).map fun j => (d + j, l, BitVec.ofNat 32 (v / 2 ^ (32 * j)))

/-! Cluster-remote accesses (11 R147, 13 R206). -/

/-- The extension of a loaded value by its code. -/
def extend (code v : Nat) : Nat := if code = 0 then v else signTo32 code v

/-- Whether an access writes. -/
def RemoteKind.writes : RemoteKind → Bool
  | .store => true | .atom _ _ => true | _ => false

/-- The poisoned words that a lane of a remote access reads, as scratchpad addresses, each with the lane (11 R151). -/
def remotePoison (x : Core) (size : Nat) (l : RemoteLane) : List (DWord × Nat) :=
  (if x.poisonedAt l.off (min size 8) then [(BitVec.ofNat 64 (l.addr / 8 * 8), l.lane)] else [])
    ++ if 8 < size && x.poisonedAt (l.off + 8) (size - 8) then [(BitVec.ofNat 64 (l.addr / 8 * 8 + 8), l.lane)] else []

/-- What performed lanes give: their register writes, and the poisoned words they read. -/
abbrev LaneGot := List (Nat × Nat × Word) × List (DWord × Nat)

/-- Perform one lane at its target (05 R66, 11 R148 to R151). -/
def performLane (s : State) (p : RemoteAccess) (l : RemoteLane) : State × LaneGot :=
  let at_ : Place := ⟨p.target, l.off⟩
  let bad := remotePoison (s.core p.target) p.size l
  let now := numOf (readPlace s at_ p.size)
  match p.kind with
  | .store => (writePlace s at_ (bytesOf p.size (l.v1.toNat + 2 ^ 64 * l.v2.toNat)), ([], []))
  | .load d regs ext => (s, (if bad.isEmpty then spread d regs l.lane (extend ext now) else [], bad))
  | .uload => (s, ([(0, 0, BitVec.ofNat 32 now), (0, 1, BitVec.ofNat 32 (now / 2 ^ 32))], bad))
  | .atom op d =>
    if bad.isEmpty then (writePlace s at_ (bytesOf 4 (atomNew op 32 now l.v1.toNat l.v2.toNat)), (spread d 1 l.lane now, []))
    else (s, ([], bad))

/-- The first of the poisoned words that lanes read, with the lanes that read it (11 R151). -/
def lowestPoison : List (DWord × Nat) → Option (DWord × Mask)
  | [] => none
  | p :: r => some (p.1, maskOf (((p :: r).filter fun q => q.1 == p.1).map Prod.snd))

/-- The poison of two parts of an instruction, which read different words: that of the lower lane is named (11 R151). -/
def joinPoison (a b : Option (DWord × Mask)) : Option (DWord × Mask) :=
  match a, b with
  | none, q => q
  | p, none => p
  | some p, some q => if (lanesOf p.2).headD 32 ≤ (lanesOf q.2).headD 32 then some p else some q

/-- Perform an access at its target, its lanes in ascending order (11 R147, 05 R66). -/
def performLanes (p : RemoteAccess) : List RemoteLane → State → State × LaneGot
  | [], s => (s, [], [])
  | l :: r, s =>
    let a := performLane s p l
    let b := performLanes p r a.1
    (b.1, a.2.1 ++ b.2.1, a.2.2 ++ b.2.2)

/-- The remote accesses of a group on their way. -/
def Group.parts (g : Group) : List RemoteAccess := g.la.flatMap (fun a => a.parts) ++ g.held.filterMap fun h => h.part

/-- Whether an access has a byte in an 8-byte word that `n` bytes at `off` touch. -/
def RemoteAccess.meets (p : RemoteAccess) (off n : Nat) : Bool :=
  p.lanes.any fun l => decide (l.off / 8 ≤ (off + n - 1) / 8 ∧ off / 8 ≤ (l.off + p.size - 1) / 8)

/-- Whether an access must be performed before one of its split to the same core that comes after it, at `n` bytes at `off` and behind
`epoch` fences (13 R206). -/
def RemoteAccess.before (p : RemoteAccess) (split target epoch off n : Nat) : Bool :=
  p.split == split && p.target == target && (decide (p.epoch < epoch) || p.meets off n)

/-- Whether an access may be performed now (13 R206). -/
def Group.mayPerform (g : Group) (p : RemoteAccess) : Bool :=
  g.parts.all fun q => q.seq ≥ p.seq || !(p.lanes.any fun l => q.before p.split p.target p.epoch l.off p.size)

/-- A performed access gives its result to the group that awaits it; a store leaves nothing. -/
def Group.took (g : Group) (p : RemoteAccess) (r : LaneGot) : Group :=
  let num := (r.1.map fun w => w.2.2.toNat * 2 ^ (32 * w.2.1)).foldl (· + ·) 0
  { g with
    la := (g.la.map fun a => if a.parts.contains p
      then { a with parts := a.parts.erase p, writes := a.writes ++ r.1, poisoned := joinPoison a.poisoned (lowestPoison r.2) } else a).filter
        fun a => !(a.parts.isEmpty && a.writes.isEmpty && a.poisoned.isNone)
    held := g.held.map fun h => if h.part == some p
      then { h with part := none, value := BitVec.ofNat 64 num, poisoned := r.2.head?.map fun q => q.1 } else h }

/-- Perform an access of a group; the WAITs held on what it has written test it (12 R176). -/
def performPart (s : State) (c slot : Nat) (p : RemoteAccess) : State :=
  let r := performLanes p p.lanes s
  let t := if p.kind.writes then p.lanes.foldl (fun t l => testWaits t ⟨p.target, l.off⟩ p.size) r.1 else r.1
  t.modGroup c slot fun g => g.took p r.2

/-- Insert an access in issue order. -/
def insertPart (p : RemoteAccess) : List RemoteAccess → List RemoteAccess
  | [] => [p]
  | q :: r => if p.seq ≤ q.seq then p :: q :: r else q :: insertPart p r

/-- Perform all the accesses of a group that are on their way, in issue order (12 R171). -/
def performAll (s : State) (c slot : Nat) : State :=
  match s.group? c slot with
  | none => s
  | some g => (g.parts.foldl (fun l p => insertPart p l) []).foldl (fun s p => performPart s c slot p) s

/-- The accesses that reach an intake in this cycle and may be performed, of the cores in ascending order (11 R147). -/
def reachedParts (s : State) : List (Nat × Nat × RemoteAccess) :=
  s.cores.flatMap fun x => x.groups.flatMap fun g =>
    ((g.parts.foldl (fun l p => insertPart p l) []).filter fun p => p.reached).map fun p => (x.index, g.slot, p)

/-- The remote accesses that reach their targets in the cycle, after the local ones of the cycle (11 R147). -/
def settleRemote (s : State) : State :=
  (reachedParts s).foldl (fun s q =>
    match s.group? q.1 q.2.1 with
    | none => s
    | some g => if g.mayPerform q.2.2 then performPart s q.1 q.2.1 q.2.2 else s) s

end Sys2Proof.Machine
end

