-- ==== Sys2Proof/Machine/Ops.lean ====
section
/-! DEFINITION. The named operations of a group: registers under their travel times, gates, the reconvergence stack,
taking a trap and returning from one (03 R33 to R41, 05 R58 to R60, R70, 09 R114 to R117, 12 R169 to R174). -/

namespace Sys2Proof.Machine

/-! Registers. -/

/-- The place of a lane of a lane register in the core's rows (03 R46, 05 R58). -/
def rowKey (g : Group) (n l : Nat) : Nat := ((if n < 64 then g.first else g.second) * 64 + n % 64) * 32 + l

/-- Whether a lane of a lane register is part of g0, which reads zero and discards writes (05 R59). -/
def isG0 (g : Group) (n l : Nat) : Bool := n == g.allot - 4 && l < 2

/-- The content of a lane of a lane register. -/
def rawV (x : Core) (g : Group) (n l : Nat) : Word := if isG0 g n l then 0 else x.rows.word (rowKey g n l)

/-- The content of a mask register; k0 reads ones (05 R60). -/
def rawK (g : Group) (k : Nat) : Mask := if k = 0 then BitVec.allOnes 32 else g.masks.getD k 0

/-- The content of a register of the travel-time rule. -/
def rawReg (x : Core) (g : Group) (r : RegName) (l : Nat) : Word :=
  match r with
  | .v n => rawV x g n l
  | .k n => rawK g n
  | .flags => g.fpflags.setWidth 32

/-- The number of the free choice of a register's read (00 R11): one for each lane register, mask register and uniform register, and
for each bit of %fpflags. -/
inductive Choice where
  | v (n : Nat) | k (n : Nat) | g (n : Nat) | flag (b : Nat)

/-- The choices numbered apart. -/
def Choice.code : Choice → Nat
  | .v n => n | .k n => 128 + n | .g n => 136 + n | .flag b => 200 + b

/-- Whether a read by a consumer of lanes `m` stands nearer than the distance to a write (09 R114): in positions along the
path of the lanes that wrote it, in cycles for other lanes; before the WAIT of a queued operation's batch always (05 R71). DESIGN CHOICE
(log 67): the instructions that R88 counts before a UMOVS of %fpflags are counted in the same positions, so that `nop n` counts n. -/
def early (cycle : Nat) (m : Mask) (uni : Bool) (e : Pend) : Bool :=
  let t := if uni then e.tUni else e.tLane
  e.gate.isSome || ((lanesOf (m &&& e.path)).any fun l => e.ages.getD l 0 < t)
    || (e.own.isNone && (m &&& ~~~e.path) != 0 && cycle < e.cycle + t + 2)

/-- The old value a write in flight would still give. -/
def Pend.oldAt (e : Pend) (l : Nat) : Word :=
  match e.reg with
  | .v _ => e.old.getD l 0
  | _ => e.old.getD 0 0

/-- A register's value as the issuer reads it: the newest, or, inside the distance of a write, the value before that write if
the free choice says so (00 R11, 09 R114, R115). Writes are given newest first; `key` numbers the register's choice, which is made for
each write as a whole, whatever lanes it wrote: past a write that is seen, every older one is seen too. -/
def seen (cycle key : Nat) (m : Mask) (uni : Bool) (r : RegName) (l : Nat) (now : Word) : List Pend → Nat → Word
  | [], _ => now
  | e :: es, depth =>
    if e.reg == r then
      if early cycle m uni e && Config.freeBool (key * 64 + depth)
      then seen cycle key m uni r l (if e.lanes.getLsbD l then e.oldAt l else now) es (depth + 1)
      else now
    else seen cycle key m uni r l now es depth

/-- The value of lane `l` of a register as a consumer of lanes `m` of the issuer reads it, under a choice of its own. -/
def seeReg (s : State) (w : Issuer) (h : Choice) (m : Mask) (uni : Bool) (r : RegName) (l : Nat) : Word :=
  seen s.cycle (s.free * 256 + h.code) m uni r l (rawReg w.core w.g r l) w.g.pend 0

/-- The path that a read by lane `l` follows: a lane of the split follows its own, another lane's value is read along the split's. -/
def pathOf (w : Issuer) (l : Nat) : Mask := if w.sp.mask.getLsbD l then oneLane l else w.sp.mask

/-- V(n)[l] as a lane operand (09 R125). -/
def laneV (s : State) (w : Issuer) (n l : Nat) : Word := seeReg s w (.v n) (pathOf w l) false (.v n) l

/-- The 64-bit pair at n in lane l (05 R58). -/
def lanePair (s : State) (w : Issuer) (n l : Nat) : Nat := (laneV s w n l).toNat + 2 ^ 32 * (laneV s w (n + 1) l).toNat

/-- Whether a write of a register is kept that a read may see as old. -/
def Group.pending (g : Group) (r : RegName) : Bool := g.pend.any fun e => e.reg == r

/-- K(k) as a consumer of a set reads it (05 R60): each bit stands on its lane's path, and the register has one choice. -/
def maskK (s : State) (w : Issuer) (uni : Bool) (k : Nat) : Mask :=
  if k = 0 then BitVec.allOnes 32
  else if w.g.pending (.k k) then
    maskOf ((List.range 32).filter fun l => (seeReg s w (.k k) (pathOf w l) uni (.k k) l).getLsbD l)
  else rawK w.g k

/-- The lane register that holds g(i) (05 R59). -/
def gReg (g : Group) (i : Nat) : Nat := g.allot - 4 + i / 16
/-- The first lane of g(i) (05 R59). -/
def gLane (i : Nat) : Nat := 2 * i % 32

/-- G(i) as a consumer of a set reads it; g0 reads zero (05 R59). -/
def seeG (s : State) (w : Issuer) (uni : Bool) (i : Nat) : DWord :=
  if i = 0 then 0
  else BitVec.ofNat 64 ((seeReg s w (.g i) w.sp.mask uni (.v (gReg w.g i)) (gLane i)).toNat
    + 2 ^ 32 * (seeReg s w (.g i) w.sp.mask uni (.v (gReg w.g i)) (gLane i + 1)).toNat)

/-- G(i) as a uniform instruction reads it. -/
def uniG (s : State) (w : Issuer) (i : Nat) : DWord := seeG s w true i
/-- G(i) as a lane instruction reads it (09 R114). -/
def laneG (s : State) (w : Issuer) (i : Nat) : DWord := seeG s w false i

/-- The active lanes of a lane-set instruction with write mask k (09 R125). -/
def activeOf (s : State) (w : Issuer) (k : Nat) : Mask := w.sp.mask &&& maskK s w false k

/-- Write one lane in the rows; g0's lanes discard the write (05 R59). -/
def Core.landV (x : Core) (g : Group) (n l : Nat) (v : Word) : Core :=
  if isG0 g n l then x else { x with rows := x.rows.set (rowKey g n l) v }

/-- Write lanes of a register in the rows. -/
def Core.landLanes (x : Core) (g : Group) (n : Nat) (f : Nat → Word) : List Nat → Core
  | [] => x
  | l :: ls => (x.landV g n l (f l)).landLanes g n f ls

/-- The 32 lanes of a register as they stand. -/
def laneList (x : Core) (g : Group) (n : Nat) : List Word := (List.range 32).map fun l => rawV x g n l

/-- No positions passed, in any lane. -/
def freshAges : List Nat := List.replicate 32 0

/-- A fixed-latency write of the issuer, just issued (09 R114). -/
def pendOf (s : State) (w : Issuer) (r : RegName) (lanes : Mask) (old : List Word) (tl tu : Nat) : Pend :=
  ⟨r, lanes, old, w.sp.mask, freshAges, s.cycle, tl, tu, none, none, w.sp.pc⟩

/-- The write of lanes of a lane register at a queued completion: a read before the WAIT of its batch sees the register old or
new (05 R71). -/
def gatePend (cycle : Nat) (x : Core) (g : Group) (n : Nat) (lanes : Mask) (y : Gate) (batch : Word) (pc : PC) : Pend :=
  ⟨.v n, lanes, laneList x g n, 0, freshAges, cycle, 0, 0, none, some (y, batch), pc⟩

/-- Keep a write in flight (09 R114). -/
def Group.addPend (g : Group) (e : Pend) : Group := { g with pend := e :: g.pend }

/-- A fixed-latency write of lanes of a lane register, readable as new after `tl` positions by a lane consumer and `tu` by a
uniform one (09 R114). -/
def putV (s : State) (w : Issuer) (n : Nat) (lanes : Mask) (tl tu : Nat) (f : Nat → Word) : State :=
  if lanes = 0 then s
  else s.modCore w.c fun x =>
    match x.group? w.slot with
    | none => x
    | some g =>
      (x.landLanes g n f (lanesOf lanes)).modGroup w.slot fun h => h.addPend (pendOf s w (.v n) lanes (laneList x g n) tl tu)

/-- A fixed-latency write of a pair. -/
def putPair (s : State) (w : Issuer) (n : Nat) (lanes : Mask) (tl tu : Nat) (f : Nat → Nat) : State :=
  putV (putV s w n lanes tl tu fun l => BitVec.ofNat 32 (f l)) w (n + 1) lanes tl tu fun l => BitVec.ofNat 32 (f l / 2 ^ 32)

/-- The bits a mask write leaves: those outside `lanes` unchanged (11 R134). -/
def mergeMask (lanes old new : Mask) : Mask := (old &&& ~~~lanes) ||| (new &&& lanes)

/-- A fixed-latency write of bits of a mask register; k0 discards it (05 R60). -/
def putK (s : State) (w : Issuer) (k : Nat) (lanes : Mask) (tl tu : Nat) (v : Mask) : State :=
  if k = 0 then s
  else s.modGroup w.c w.slot fun g =>
    { g with masks := g.masks.set k (mergeMask lanes (rawK g k) v) }.addPend (pendOf s w (.k k) lanes [rawK g k] tl tu)

/-- A fixed-latency write of G(i): readable one position later by a uniform consumer, two by a lane one; g0 discards it
(05 R59, 12 R159). -/
def putG (s : State) (w : Issuer) (i : Nat) (v : DWord) : State :=
  if i = 0 then s
  else putV s w (gReg w.g i) (oneLane (gLane i) ||| oneLane (gLane i + 1)) 2 1 fun l =>
    if l = gLane i then v.setWidth 32 else (v >>> 32).setWidth 32

/-- The write of G(i) at a completion (05 R71). -/
def Core.landG (x : Core) (g : Group) (i : Nat) (v : DWord) : Core :=
  (x.landV g (gReg g i) (gLane i) (v.setWidth 32)).landV g (gReg g i) (gLane i + 1) ((v >>> 32).setWidth 32)

/-- Write the bits `f` of the flags, seen by UMOVS six positions later (07 R88); `t` is the distance of R114 from the instruction, which
is that of the detector (09 R117). -/
def flagWrite (s : State) (w : Issuer) (t : Nat) (f : BitVec 4) (to_ : BitVec 4 → BitVec 4) : State := s.modGroup w.c w.slot fun g =>
  { g with fpflags := to_ g.fpflags }.addPend (pendOf s w .flags (f.setWidth 32) [g.fpflags.setWidth 32] t 6)

/-- Raise floating flags by an instruction of distance `t` (07 R88). -/
def raiseFlags (s : State) (w : Issuer) (t : Nat) (f : BitVec 4) : State := if f = 0 then s else flagWrite s w t f fun v => v ||| f

/-! The hazard detector (09 R117). -/

/-- A register read: its name, the lanes read, whether a uniform consumer reads it, and whether each lane reads its own. -/
structure Src where
  reg : RegName
  lanes : Mask
  uni : Bool
  each : Bool
  deriving DecidableEq, Repr

/-- A lane register read in lanes. -/
def srcV (n : Nat) (lanes : Mask) : Src := ⟨.v n, lanes, false, true⟩
/-- A uniform register read (05 R59); g0 is none. -/
def srcG (g : Group) (uni : Bool) (i : Nat) : List Src :=
  if i = 0 then [] else [⟨.v (gReg g i), oneLane (gLane i) ||| oneLane (gLane i + 1), uni, false⟩]
/-- Bits of a mask register read, each on its lane's path; k0 is none. -/
def srcK (uni : Bool) (lanes : Mask) (k : Nat) : List Src := if k = 0 then [] else [⟨.k k, lanes, uni, true⟩]

/-- The lanes whose path a read of lane `l` by a split of lanes `m` follows. -/
def Src.path (r : Src) (m : Mask) (l : Nat) : Mask := if r.each && m.getLsbD l then oneLane l else m

/-- The flags read by UMOVS: the detector compares with the distance of R114, not with the longer one of R88 (09 R117). -/
def srcFlags : Src := ⟨.flags, 0xF, false, false⟩

/-- The producer of the first read of a split of lanes `m` that falls inside a distance or an unexpired lookahead, in a lane both
written and read. -/
def hazardIn (cycle : Nat) (m : Mask) (ps : List Pend) : List Src → Option PC
  | [] => none
  | r :: rs =>
    match ps.find? fun e => e.gate.isNone && e.reg == r.reg && (if r.uni then e.tUni else e.tLane) != 0
        && (lanesOf (e.lanes &&& r.lanes)).any fun l => early cycle (r.path m l) r.uni e with
    | some e => some e.pc
    | none => hazardIn cycle m ps rs

/-- Whether the issuer's context is in debug mode (29 R367). -/
def debugMode (s : State) (g : Group) : Bool := ((s.ctx? g.ctx).map fun x => x.debug).getD false

/-- The hazard of an instruction's reads, in debug mode only (09 R117). -/
def hazardOf (s : State) (w : Issuer) (rs : List Src) : Option PC :=
  if debugMode s w.g then hazardIn s.cycle w.sp.mask w.g.pend rs else none

/-! Issue: positions, lookahead counts and holds (03 R43, 09 R114, R116). -/

/-- Whether a write in flight can still be read as old. -/
def Pend.live (cycle : Nat) (e : Pend) : Bool :=
  e.gate.isSome || ((lanesOf e.path).any fun l => e.ages.getD l 0 < max e.tLane e.tUni)
    || (e.own.isNone && cycle < e.cycle + max e.tLane e.tUni + 2)

/-- Apply a function to the numbers of the lanes of a mask. -/
def atLanes (m : Mask) (f : Nat → Nat) (xs : List Nat) : List Nat :=
  (List.range 32).map fun l => if m.getLsbD l then f (xs.getD l 0) else xs.getD l 0

/-- A split of lanes `m` has issued `n` positions: the distances of the writes on its path grow, its lookahead counts fall. -/
def Group.pass (g : Group) (cycle : Nat) (m : Mask) (n : Nat) : Group :=
  { g with
    pend := (g.pend.map fun e => { e with ages := atLanes m (· + n) e.ages }).filter fun e => e.live cycle
    la := g.la.map fun a => if a.parked = 0 then { a with left := atLanes m (· - n) a.left } else a }

/-- Whether a split of lanes `m` would stall for a lookahead result (09 R116). DESIGN CHOICE (log 67): a nop that counts more positions
than are left issues while one is left, and the split stalls before its next instruction. -/
def LaResult.stalls (a : LaResult) (m : Mask) : Bool :=
  !a.untilWait && a.parked == 0 && (lanesOf (m &&& a.path)).any fun l => a.left.getD l 0 == 0

/-- A result whose poison has come: only its trap is left (11 R151). -/
def LaResult.poisonReady (a : LaResult) : Bool := a.poisoned.isSome && a.writes.isEmpty && a.parts.isEmpty

/-- Whether a result is outstanding (26 R347): it is more than a poisoned one's trap, and no store on its way to another core. -/
def LaResult.outstanding (a : LaResult) : Bool :=
  !a.poisonReady && !(!a.parts.isEmpty && a.parts.all fun p => p.kind == .store)

/-- Lanes that have ended follow no path any more (03 R39). -/
def Group.forget (g : Group) (m : Mask) : Group :=
  { g with pend := g.pend.map fun e => { e with path := e.path &&& ~~~m }
           la := g.la.map fun a => { a with path := a.path &&& ~~~m } }

/-- The issuer's instruction has issued and its split goes on at an address (09 R125, NextPC). -/
def retire (s : State) (w : Issuer) (next : PC) (n : Nat) : State := s.modGroup w.c w.slot fun g =>
  (g.pass s.cycle w.sp.mask n).modSplit w.idx fun sp => { sp with pc := next, hold := .none, heldFor := 0 }

/-- The next sequential PC (09 R99). DESIGN CHOICE (log 67): the one after the last word of the address space is 0. -/
def nextPc (w : Issuer) : PC := w.sp.pc + 4

/-- The issuer's instruction has issued and its split goes on at PC + 4. -/
def done (s : State) (w : Issuer) : State := retire s w (nextPc w) 1

/-- The issuer's instruction has not issued: its split is held and tries again in the next cycle (03 R43). -/
def holdIt (s : State) (w : Issuer) (h : Hold) : State := s.modSplit w.c w.slot w.idx fun sp =>
  { sp with hold := h, tried := true, heldFor := if sp.hold == h then sp.heldFor else 0 }

/-- The issuer's instruction has issued and the split is held before its next one. -/
def blockIt (s : State) (w : Issuer) (h : Hold) : State := s.modSplit w.c w.slot w.idx fun sp =>
  { sp with hold := h, heldFor := 0 }

/-! Gates (05 R70). -/

/-- The place of a gate. -/
def gateNum : Gate → Nat
  | .gc => 0 | .gm => 1 | .gl => 2 | .gx => 3 | .gt => 4

/-- A gate's state. -/
def Group.gate (g : Group) (x : Gate) : GateState := g.gates.getD (gateNum x) ⟨0, 0, []⟩
/-- Replace a gate's state. -/
def Group.setGate (g : Group) (x : Gate) (v : GateState) : Group := { g with gates := g.gates.set (gateNum x) v }

/-- DONE: every closed batch before the oldest operation outstanding. -/
def doneOf (closed : Word) : List Word → Word
  | [] => closed
  | b :: _ => b - 1

/-- The batch an operation joins when it issues: CLOSED + 1. -/
def Group.openBatch (g : Group) (x : Gate) : Word := (g.gate x).closed + 1

/-- An operation joins the open batch. -/
def Group.join (g : Group) (x : Gate) : Group :=
  let v := g.gate x
  g.setGate x { v with outstanding := v.outstanding ++ [v.closed + 1] }

/-- A fence closes the open batch. -/
def Group.close (g : Group) (x : Gate) : Group :=
  let v := g.gate x
  g.setGate x { v with closed := v.closed + 1, done := doneOf (v.closed + 1) v.outstanding }

/-- An operation of a batch completes. -/
def Group.complete (g : Group) (x : Gate) (b : Word) : Group :=
  let v := g.gate x
  let out := v.outstanding.erase b
  g.setGate x { v with outstanding := out, done := doneOf v.closed out }

/-- Whether a batch is complete: Signed32(DONE − n) ≥ 0. -/
def GateState.reached (v : GateState) (n : Word) : Bool := decide (0 ≤ (v.done - n).toInt)

/-! The reconvergence stack (03 R33 to R41). -/

/-- The 16 bytes of a stack entry (03 R33). -/
def entryBytes (e : SEntry) : List Byte :=
  let kind := match e.kind with | .join => 0 | .defer => 1 | .trap => 2
  bytesOf 8 (e.pc.toNat / 4 * 4 + kind) ++ bytesOf 4 e.mask.toNat ++ bytesOf 4 e.arrived.toNat

/-- %spill.BASE × 16 (03 R40). -/
def spillBase (g : Group) : Nat := bits g.spill.toNat 4 53 * 16
/-- The entries the spill area holds (03 R40). -/
def spillRoom (g : Group) : Nat := 16 * 2 ^ (g.spill.toNat % 16)

/-- A stack entry from its 16 bytes (03 R33). -/
def sentryOf (bs : List Byte) : SEntry :=
  let v := fieldOf bs 0 8
  ⟨match v % 4 with | 0 => .join | 1 => .defer | _ => .trap, BitVec.ofNat 57 (bits v 0 57 / 4 * 4), BitVec.ofNat 32 (fieldOf bs 8 4),
   BitVec.ofNat 32 (fieldOf bs 12 4), false⟩

/-- The entries of a group in its spill area (03 R40). -/
def Group.spilled (g : Group) : Nat := g.stack.countP fun e => e.area

/-- The entries of a group on chip, the bottom first. -/
def chipEntries (g : Group) : List SEntry := (g.stack.filter fun e => !e.area).reverse

/-- Put the entries `j` from the bottom on in the area, or take them out of it. -/
def markArea (n : Nat) (st : List SEntry) : List SEntry :=
  (st.reverse.zipIdx.map fun p => { p.1 with area := decide (p.2 < n) }).reverse

/-- What a push or a refill comes to. -/
inductive Spill where
  | ok (s : State)
  | overflow (va : Nat)
  | violation (va : Nat)
  | faulted (s : State)

/-- The %cycle of a group's context, the TIME of its fault records (05 R79). -/
def timeOf (s : State) (g : Group) : Nat := ((s.ctx? g.ctx).map fun x => x.cycles).getD 0

/-- A spill access that gives no byte: an address outside memory, or a fault, whose record is posted or waits for a slot, and which suspends
the group (03 R40, 26 R330). -/
def spillFails (s : State) (x : Ctx) (c : Nat) (g : Group) (idx : Nat) (e : XErr) (va : Nat) : Spill :=
  match e with
  | .unresolved => .violation va
  | .fault cause => .faulted (postHeld s x va (groupSource c g.slot) 4 cause (((g.split? idx).map fun sp => sp.mask).getD 0) (timeOf s g)
      (.spill c g.slot idx))

/-- The address of entry `j` from the bottom of a group's stack (03 R40). -/
def spillVa (g : Group) (j : Nat) : Nat := spillBase g + 16 * j

/-- Write entry `j` of a group to its spill area (03 R40). -/
def spillWrite (s : State) (c : Nat) (g : Group) (idx j : Nat) (e : SEntry) : Spill :=
  match s.ctx? g.ctx with
  | none => .violation (spillVa g j)
  | some x => match writeVa s (.core c) x (spillVa g j) (entryBytes e) with
    | (.ok _, t) => .ok t
    | (.error (e, _), t) => spillFails t x c g idx e (spillVa g j)

/-- Refill entry `j` of a group from its spill area: it comes on chip as its bytes there give it (03 R33, R40). -/
def spillRead (s : State) (c : Nat) (g : Group) (idx j : Nat) : Spill :=
  match s.ctx? g.ctx with
  | none => .violation (spillVa g j)
  | some x => match readVa s (.core c) x (spillVa g j) 16 with
    | (.ok bs, t) => .ok (t.modGroup c g.slot fun g => { g with stack := (modifyAt (fun _ => sentryOf bs) j g.stack.reverse).reverse })
    | (.error (e, _), t) => spillFails t x c g idx e (spillVa g j)

/-- Push an entry, spilling the bottom one when 32 are on chip (03 R40). -/
def pushEntry (s : State) (c slot idx : Nat) (e : SEntry) : Spill :=
  match s.group? c slot with
  | none => .ok s
  | some g =>
    let j := g.spilled
    match chipEntries g with
    | bottom :: rest =>
      if rest.length < 31 then .ok (s.modGroup c slot fun g => { g with stack := e :: g.stack })
      else if spillBase g = 0 then .overflow 0
      else if spillRoom g ≤ j then .overflow (spillBase g + 16 * j)
      else match spillWrite s c g idx j bottom with
        | .ok t => .ok (t.modGroup c slot fun g => { g with stack := e :: markArea (j + 1) g.stack })
        | r => r
    | [] => .ok (s.modGroup c slot fun g => { g with stack := e :: g.stack })

/-- Push entries in order. -/
def pushAll (c slot idx : Nat) : State → List SEntry → Spill
  | s, [] => .ok s
  | s, e :: es =>
    match pushEntry s c slot idx e with
    | .ok t => pushAll c slot idx t es
    | r => r

/-- The entries above the topmost TRAP entry (03 R35 to R37). -/
def aboveTrap : List SEntry → List SEntry
  | [] => []
  | e :: r => if e.kind = .trap then [] else e :: aboveTrap r

/-- Whether a mask lies within another. -/
def within (a b : Mask) : Bool := (a &&& ~~~b) == 0

/-- The place of the governing JOIN entry of a split: the topmost whose mask holds the split's (03 R35). -/
def governing (stack : List SEntry) (m : Mask) : Option Nat :=
  (aboveTrap stack).findIdx? fun e => e.kind == .join && within m e.mask

/-- Whether a JOIN entry is covered (03 R36). -/
def SEntry.covered (e : SEntry) : Bool := e.kind == .join && e.arrived == e.mask

/-- Pop a covered entry at a place: the entries above it whose masks lie within its own are discarded (03 R36). -/
def popCovered (stack : List SEntry) (i : Nat) : List SEntry :=
  match stack[i]? with
  | none => stack
  | some e => ((stack.take i).filter fun f => !within f.mask e.mask) ++ stack.drop (i + 1)

/-- Pop covered entries of empty mask above the topmost TRAP entry (03 R36). -/
def dropEmptyJoins : Nat → List SEntry → List SEntry
  | 0, st => st
  | n + 1, st =>
    match (aboveTrap st).findIdx? fun e => e.covered && e.mask == 0 with
    | none => st
    | some i => dropEmptyJoins n (popCovered st i)

/-! Splits. -/

/-- A fresh split. -/
def newSplit (i : Nat) (pc : PC) (m : Mask) (passOver : Nat) : Split := ⟨i, pc, m, passOver, .none, 0, false⟩

/-! Taking a trap, and returning from one. -/

/-- Write every outstanding lookahead result (12 R171). -/
def Core.landResults (x : Core) (g : Group) (ws : List (Nat × Nat × Word)) : Core :=
  ws.foldl (fun x p => x.landV g p.1 p.2.1 p.2.2) x

/-- Complete the fixed-latency writes, the lookahead results and the held results of a group, as far as the intakes have performed them (09
R115, 12 R171): a split that a held result held goes on. The trap of a poisoned result stays due (11 R151, 12 R179). -/
def landWrites (s : State) (c slot : Nat) : State := s.modCore c fun x =>
  match x.group? slot with
  | none => x
  | some g =>
    let x := g.la.foldl (fun x a => x.landResults g a.writes) x
    let x := g.held.foldl (fun x h => if h.gd = 0 || h.poisoned.isSome || h.part.isSome then x else x.landG g h.gd h.value) x
    x.modGroup slot fun g =>
      { g with pend := g.pend.filter fun e => e.gate.isSome
               la := (g.la.filter fun a => a.poisoned.isSome || !a.parts.isEmpty).map fun a => { a with writes := [] }
               held := g.held.filter fun h => h.poisoned.isSome || h.part.isSome
               splits := g.splits.map fun sp =>
                 if sp.hold == .heldResult && !(g.held.any fun h => h.split == sp.idx && h.poisoned.isSome && h.parked == 0)
                 then { sp with hold := .none, heldFor := 0 } else sp }

/-- Complete all of them at once, with the accesses that other cores' intakes have yet to perform. -/
def completeWrites (s : State) (c slot : Nat) : State := landWrites (performAll s c slot) c slot

/-- The traps that poisoned results still owe lie under one frame more: they wait for its RETT (12 R171). -/
def Group.park (g : Group) : Group :=
  { g with la := g.la.map fun a => { a with parked := a.parked + 1 }
           held := g.held.map fun h => { h with parked := h.parked + 1 } }

/-- A frame has been removed: the traps it covered come nearer, and a split whose held result is poisoned is held again. -/
def Group.unpark (g : Group) : Group :=
  let held := g.held.map fun h => { h with parked := h.parked - 1 }
  { g with la := g.la.map fun a => { a with parked := a.parked - 1 }
           held := held
           splits := g.splits.map fun sp =>
             if held.any fun h => h.split == sp.idx && h.parked == 0 then { sp with hold := .heldResult } else sp }

/-- The trap state registers after a trap (12 R171). -/
def Group.trapRegs (g : Group) (i : Nat) (cause : Cause) (resume : PC) (bad : DWord) (m flt : Mask) (code : Nat) : Group :=
  { g with epc := resume.setWidth 64, ebad := bad, emact := m.setWidth 64, emflt := flt.setWidth 64,
           ecause := BitVec.ofNat 64 (cause.number + 2 ^ 8 * i + 2 ^ 10 * code) }

/-- Suspend a group (12 R171). -/
def suspend (s : State) (c slot : Nat) : State := s.modGroup c slot fun g => { g with suspended := true }

/-- %tvec.PC × 4 (12 R169). -/
def Group.handler (g : Group) : PC := BitVec.ofNat 57 (bits g.tvec.toNat 2 55 * 4)

/-- The TRAP entries of a group's splits, in ascending index, the trapping one at its resume address (03 R41). -/
def trapEntries (g : Group) (i : Nat) (resume : PC) : List SEntry :=
  g.splits.map fun t => ⟨.trap, if t.idx = i then resume else t.pc, t.mask, BitVec.ofNat 32 t.idx, false⟩

/-- The PC of the instruction that a trap sequence under way was taken at (12 R172, 26 R351). -/
def Group.trapPc (g : Group) (t : TrapWait) : Nat := ((g.split? t.split).map fun sp => sp.pc.toNat).getD t.resume.toNat

/-- Push the frame and enter the handler; a frame that cannot be pushed suspends the group (03 R41, 12 R171). -/
def enterHandler (s : State) (c slot : Nat) (t : TrapWait) : State :=
  match s.group? c slot with
  | none => s
  | some g =>
    match pushAll c slot t.split s (trapEntries g t.split t.resume) with
    | .ok u =>
      let u := u.modGroup c slot fun g =>
        { g with splits := [newSplit 0 g.handler (BitVec.allOnes 32) 0], trapWait := none }
      noteSync u c slot 2 0
    | .faulted u => u.modGroup c slot fun h => { h with stack := g.stack, trapWait := some t }
    | _ =>
      postEvent ((suspend s c slot).modGroup c slot fun g => { g with trapWait := none }) g.ctx .stackOverflow 0xFFFF 0
        (g.trapPc t) (groupSource c slot)

/-- Post the UNHANDLED_TRAP event of a group whose trap counts in this cycle (12 R171, R173). -/
def postUnhandled (s : State) (t : TakenTrap) : State :=
  match s.group? t.core t.slot with
  | none => s
  | some g =>
    if t.unhandled then
      postEvent s g.ctx .unhandledTrap 0xFFFF (bits g.ecause.toNat 0 8) (bits g.epc.toNat 2 55 * 4) (groupSource t.core t.slot)
    else s

/-- Take a trap at a split, or at a split 0 of no lanes (12 R171): a group without a handler is suspended, and its event is posted when the
cycle ends. It will resume at `resume`; `bad`, `flt` and `code` go to %ebad, %emflt and %ecause.CODE. Accesses that other cores' intakes have
yet to perform are performed, and their results written, at the end of the cycle, in intake order (11 R147). -/
def trapAt (s : State) (c slot : Nat) (sp : Split) (cause : Cause) (resume : PC) (bad : DWord) (flt : Mask) (code : Nat) : State :=
  let s := landWrites s c slot
  let s := s.modGroup c slot fun g =>
    (g.park.trapRegs sp.idx cause resume bad sp.mask flt code).modSplit sp.idx fun t => { t with hold := .none }
  let handler := ((s.group? c slot).map Group.handler).getD 0
  let s := { s with trapped := ⟨c, slot, sp.idx, sp.pc, handler == 0⟩ :: s.trapped }
  let s := note s ⟨c, slot, 2, sp.idx, sp.pc, sp.mask, sp.pc, sp.mask, .mask 3 flt⟩
  if handler = 0 then suspend s c slot else enterHandler s c slot ⟨sp.idx, cause, resume, bad, flt, code⟩

/-- Take a trap: split `i` of a group traps with a cause (12 R171). -/
def takeTrap (s : State) (c slot i : Nat) (cause : Cause) (resume : PC) (bad : DWord) (flt : Mask) (code : Nat) : State :=
  match (s.group? c slot).bind fun g => g.split? i with
  | none => s
  | some sp => trapAt s c slot sp cause resume bad flt code

/-- A group's lowest split in use traps with ACCESS_VIOLATION for a spill address that cannot be resolved (03 R40). DESIGN CHOICE (log 16): with
no split in use the trap is that of a split 0 of no lanes, with a free value for the PC. -/
def spillTrap (s : State) (c slot va : Nat) : State :=
  match s.group? c slot with
  | none => s
  | some g => match g.splits.head? with
    | some sp => takeTrap s c slot sp.idx .accessViolation sp.pc (BitVec.ofNat 64 va) sp.mask 0
    | none =>
      let pc : PC := BitVec.ofNat 57 (4 * Config.freeNat s.free)
      trapAt { s with free := s.free + 1 } c slot (newSplit 0 pc 0 0) .accessViolation pc (BitVec.ofNat 64 va) 0 0

/-- Write entries of a group's spill area as the stack has them; what a program that runs reads there is a free value (03 R40, log 16:
`inSpillArea`). -/
def mirrorFrom (c slot idx : Nat) : List Nat → State → State
  | [], s => s
  | j :: r, s =>
    match s.group? c slot with
    | none => s
    | some g =>
      match g.stack.reverse[j]? with
      | none => s
      | some e => match spillWrite s c g idx j e with
        | .ok t => mirrorFrom c slot idx r t
        | .violation va => spillTrap s c slot va
        | .faulted t => t
        | .overflow _ => s

/-- Write the spilled entries of a group to its area that differ from those of a stack as it was, after they changed (03 R39, R40): a fault
suspends the group. -/
def mirrorSpill (s : State) (old : List SEntry) (c slot idx : Nat) : State :=
  match s.group? c slot with
  | none => s
  | some g => mirrorFrom c slot idx ((List.range g.spilled).filter fun j => g.stack.reverse[j]? != old.reverse[j]?) s

/-- The issuer's instruction traps precisely at its own address (12 R172). -/
def trapHere (s : State) (w : Issuer) (cause : Cause) (bad : DWord) (flt : Mask) : State :=
  takeTrap s w.c w.slot w.idx cause w.sp.pc bad flt 0

/-- The issuer's instruction traps with the split's whole mask in %emflt (11 R128, 12 R160). -/
def trapAll (s : State) (w : Issuer) (cause : Cause) (bad : DWord) : State := trapHere s w cause bad w.sp.mask

/-- The entries RETT takes: TRAP entries from the top while their masks are disjoint (12 R174). -/
def frameOf : List SEntry → Mask → List SEntry
  | [], _ => []
  | e :: r, u => if e.kind = .trap ∧ e.mask &&& u = 0 then e :: frameOf r (u ||| e.mask) else []

/-- The splits a frame restores, the trapping one at %epc (12 R174). -/
def frameSplits (g : Group) (f : List SEntry) : List Split :=
  f.foldl (fun l e =>
    let i := e.arrived.toNat % 4
    let pc : PC := if i = bits g.ecause.toNat 8 2 then BitVec.ofNat 57 (bits g.epc.toNat 2 55 * 4) else e.pc
    putSplit (newSplit i pc e.mask 0) l) []

/-- A split whose XPERMIT has grants left is held by it again (24 R316). -/
def Group.permitHold (g : Group) (sp : Split) : Split :=
  match g.permits.find? fun p => p.split == sp.idx with
  | some p => { sp with hold := .xpermit p.own p.count }
  | none => sp

/-- Return from a trap (12 R174): none if no TRAP entry is on top. JOIN entries now above every TRAP entry are tested for
coverage. -/
def returnFromTrap (g : Group) : Option Group :=
  match frameOf g.stack 0 with
  | [] => none
  | f =>
    let st := g.stack.drop f.length
    some (Group.unpark { g with stack := dropEmptyJoins st.length st, splits := (frameSplits g f).map g.permitHold })

end Sys2Proof.Machine
end

