-- ==== Sys2Proof/Machine/Scratch.lean ====
section
/-! DEFINITION. The scratchpad: address checks, accesses at an intake, poison, and barrier objects (05 R62 to R69). -/

namespace Sys2Proof.Machine

/-- The block of the issuer; an agent's group has none (log 6). -/
def blockOf (w : Issuer) : Option Block := w.core.block? w.g.block

/-- The base and size of the issuer's scratchpad allocation; an agent's is the whole scratchpad (log 6). -/
def ownScratch (w : Issuer) : Nat × Nat :=
  match blockOf w with
  | none => (0, Config.scratchBytes w.c)
  | some b => (b.spbase, b.rec_.scratch)

/-- The core a cluster-remote address names (05 R62). -/
def remoteCore (c k : Nat) : Nat := Config.coreIndex (Config.dieOf c) (Config.clusterOf c) k

/-- The block of the issuer's cluster instance on a core (03 R55, R390). -/
def memberBlock (s : State) (w : Issuer) (c : Nat) : Option Block :=
  match (blockOf w).bind fun b => b.unit with
  | none => none
  | some u => (s.core c).blocks.find? fun b => b.unit == some u

/-- The base and size of the allocation an address falls in, if there is a target block (05 R62, R63). -/
def targetScratch (s : State) (w : Issuer) (a : Nat) : Option (Nat × Nat × Nat) :=
  if bits a 28 4 = 0 then some (w.c, ownScratch w)
  else if bits a 28 4 = 1 then
    (memberBlock s w (remoteCore w.c (bits a 24 4))).map fun b => (remoteCore w.c (bits a 24 4), b.spbase, b.rec_.scratch)
  else none

/-- Whether an address meets SCRATCH_RANGE for an access size (05 R63). -/
def outOfRange (s : State) (w : Issuer) (size a : Nat) : Bool :=
  1 < bits a 28 4 || bits a 19 5 != 0 || (bits a 28 4 == 0 && bits a 24 4 != 0)
    || (bits a 28 4 == 1 && Config.coresPerCluster w.c ≤ bits a 24 4)
    || match targetScratch s w a with
      | none => false
      | some (_, _, n) => n < bits a 0 19 + size

/-- Whether an address meets REMOTE_NONMEMBER (03 R55). -/
def nonMember (s : State) (w : Issuer) (a : Nat) : Bool := bits a 28 4 == 1 && (targetScratch s w a).isNone

/-- The first cause that any of the lane addresses meets, its lanes, and the address of the lowest (05 R63). -/
def scratchFault (s : State) (w : Issuer) (size : Nat) (as : List (Nat × Nat)) : Option (Cause × Mask × Nat) :=
  let pick (c : Cause) (bad : List (Nat × Nat)) : Option (Cause × Mask × Nat) :=
    match bad with
    | [] => none
    | (_, a) :: _ => some (c, maskOf (bad.map Prod.fst), a)
  match pick .scratchRange (as.filter fun p => outOfRange s w size p.2) with
  | some r => some r
  | none =>
    match pick .remoteNonmember (as.filter fun p => nonMember s w p.2) with
    | some r => some r
    | none => pick .misaligned (as.filter fun p => bits p.2 0 19 % size != 0)

/-- The place of a checked address. -/
def placeOf (s : State) (w : Issuer) (a : Nat) : Place :=
  match targetScratch s w a with
  | none => ⟨w.c, 0⟩
  | some (c, base, _) => ⟨c, base + bits a 0 19⟩

/-! The hierarchy of a launch (03 R50, R390). -/

/-- The instances of a level in one instance of its parent: E_i (03 R50). -/
def Level.size (l : Level) : Nat := l.x * l.y * l.z

/-- The product of the sizes of levels. -/
def sizes : List Level → Nat
  | [] => 1
  | l :: r => l.size * sizes r

/-- The levels but the innermost. -/
def Launch.outer (r : Launch) : List Level := r.levels.dropLast
/-- The block count of a launch (03 R49). -/
def Launch.blocks (r : Launch) : Nat := sizes r.outer
/-- The blocks of one instance of level `i` (03 R50). -/
def Launch.instanceBlocks (r : Launch) (i : Nat) : Nat := sizes (r.outer.drop (i + 1))
/-- The outermost CLUSTER-domain level (03 R390). -/
def Launch.clusterLevel (r : Launch) : Option Nat := r.levels.findIdx? fun l => l.domain == 2
/-- The lowest-numbered block of a cluster instance, with its core, while it is resident (03 R56, R390). -/
def lowestOf (s : State) (unit : Nat) : Option (Nat × Block) :=
  (s.cores.flatMap fun x => x.blocks.map fun b => (x.index, b)).find? fun p =>
    p.2.unit == some unit && (p.2.rec_.clusterLevel.map fun i => p.2.blockIndex % max (p.2.rec_.instanceBlocks i) 1) == some 0

/-- The offset of the exit barrier: that of the outermost CLUSTER-domain level (03 R48, R390). -/
def exitBarrierOff (r : Launch) : Nat := ((r.levels.find? fun l => l.domain == 2).map fun l => 16 * l.exitBarrier).getD 0

/-- Whether a place is the exit barrier of a cluster instance (03 R56). -/
def exitPlace (s : State) (core off : Nat) : Bool :=
  (s.core core).blocks.any fun b => decide (off = b.spbase + exitBarrierOff b.rec_)
    && b.unit.any fun u => (lowestOf s u).any fun p => p.1 == core && p.2.id == b.id

/-! Barrier objects. -/

/-- Why an update is rejected by an object in a state, none if it is applied (05 R68, 12 R177). -/
def rejects (o : Obj) (u : Update) : Option Cause :=
  let sum := o.bytes + (u.expect : Int) - (u.landed : Int)
  if !o.valid then some .barrierInvalid
  else if u.arrive && o.pend == 0 then some .barrierOverarrive
  else if u.drop && o.reload == 0 then some .barrierOverarrive
  else if sum < -(2 ^ 31 : Int) ∨ (2 ^ 31 - 1 : Int) < sum then some .barrierOverarrive
  else none

/-- An update applied (05 R68). -/
def applyUpdate (o : Obj) (u : Update) : Obj :=
  { o with pend := if u.arrive then o.pend - 1 else o.pend,
           reload := if u.drop then o.reload - 1 else o.reload,
           bytes := o.bytes + (u.expect : Int) - (u.landed : Int) }

/-- The group that an update is an arrival of. -/
def Update.arriver (u : Update) : Option (Nat × Nat) :=
  match u.source with
  | .arrival c slot _ _ _ => if u.arrive then some (c, slot) else none
  | .credit _ _ _ => none

/-- Why an update is rejected at an object where no group may arrive twice: `came` is the groups that have arrived (03 R56). -/
def rejectsAgain (came : Option (List (Nat × Nat))) (o : Obj) (u : Update) : Option Cause :=
  match came, u.arriver with
  | some l, some g => if o.valid && l.contains g then some .barrierOverarrive else rejects o u
  | _, _ => rejects o u

/-- A cycle's updates of one object in intake order: the object, whether any was applied, and the rejected ones (05 R68); `came` is the
groups that have arrived on an exit barrier in phase 0 (03 R56). -/
def mergeUpdates : Option (List (Nat × Nat)) → Obj → Bool → List Update → Obj × Bool × List (Update × Cause)
  | _, o, applied, [] => (o, applied, [])
  | came, o, applied, u :: us =>
    match rejectsAgain came o u with
    | some c =>
      let r := mergeUpdates came o applied us
      (r.1, r.2.1, (u, c) :: r.2.2)
    | none => mergeUpdates (came.map fun l => u.arriver.toList ++ l) (applyUpdate o u) true us

/-- BarrierUpdate (05 R68): the updates merged, and the phase advanced when nothing is pending. -/
def barrierUpdate (came : Option (List (Nat × Nat))) (o : Obj) (us : List Update) : Obj × List (Update × Cause) :=
  let r := mergeUpdates came o false us
  let w := r.1
  (if r.2.1 && w.pend == 0 && w.bytes == 0 then { w with phase := (w.phase + 1) % 2 ^ 32, pend := w.reload } else w, r.2.2)

/-- Insert an update in intake order (05 R68). -/
def insertUpdate (u : Update) : List Update → List Update
  | [] => [u]
  | y :: r =>
    if u.rank.1 < y.rank.1 ∨ (u.rank.1 = y.rank.1 ∧ u.rank.2 < y.rank.2) then u :: y :: r else y :: insertUpdate u r

/-- Keep an update for the end of its cycle. -/
def queueUpdate (s : State) (u : Update) : State := { s with updates := insertUpdate u s.updates }

/-- The same for a group that has pushed no frame: its splits are still in the table (12 R171, R173). -/
def retrapBare (g : Group) (t : TakenTrap) (split : Nat) (cause : Cause) (pc : PC) (bad : DWord) : Group :=
  let g := g.modSplit split fun sp => { sp with pc := pc, hold := .none }
  if split < t.split then
    let m := ((g.split? split).map fun sp => sp.mask).getD 0
    { (g.modSplit t.split fun sp => { sp with pc := t.pc }).trapRegs split cause pc bad m m 0 with
      trapWait := g.trapWait.map fun _ => ⟨split, cause, pc, bad, m, 0⟩ }
  else g

/-- An arrival that was rejected in the cycle of another trap of its group counts as the group's trap if its split index is
lower; otherwise it counts as not issued (12 R173). -/
def retrap (g : Group) (t : TakenTrap) (split : Nat) (cause : Cause) (pc : PC) (bad : DWord) : Group :=
  if g.suspended || g.trapWait.isSome then retrapBare g t split cause pc bad else
  let fix (i : Nat) (pc : PC) (st : List SEntry) : List SEntry :=
    replaceFirst (fun e => e.kind == .trap && e.arrived.toNat % 4 == i) (fun e => { e with pc := pc }) st
  let st := fix split pc g.stack
  if split < t.split then
    let m := ((g.stack.find? fun e => e.kind == .trap && e.arrived.toNat % 4 == split).map fun e => e.mask).getD 0
    { g with stack := fix t.split t.pc st }.trapRegs split cause pc bad m m 0
  else { g with stack := st }

/-- A condition met at a unit of a copy gives its status, unless one was met at no higher unit (16 R244). -/
def Copy.meets (c : Copy) (u code : Nat) (bad : DWord) : Copy :=
  if c.code.isNone || decide (u < c.codeAt) then { c with code := some code, codeAt := u, bad := bad } else c

/-- What a rejection does (05 R68): the arriving split traps at its arrival; a landing's or a grant's credit is discarded and
CREDIT_LOST posted. -/
def rejectUpdate (s : State) (u : Update) (cause : Cause) : State :=
  match u.source with
  | .arrival c slot split pc addr =>
    match s.trapped.find? fun t => t.core == c && t.slot == slot with
    | some t => s.modGroup c slot fun g => retrap g t split cause pc addr
    | none =>
      match (s.group? c slot).bind fun g => g.split? split with
      | none => s
      | some sp => takeTrap (s.modSplit c slot split fun sp => { sp with pc := pc }) c slot split cause pc addr sp.mask 0
  | .credit ctx op addr =>
    let s := postEvent s ctx .creditLost 0xFFFF 0 addr.toNat noSource
    match op with
    | none => s
    | some (n, k) => s.modOp n fun o =>
      { o with kind := match o.kind with
        | .copy cp => .copy (cp.meets k 5 0)
        | .bulk b => .bulk { b with messages := modifyAt (fun m => { m with code := if m.code = 0 then 5 else m.code }) k b.messages }
        | other => other }

/-- An applied arrival releases its split. -/
def acceptArrivals (s : State) (us : List Update) : State :=
  us.foldl (fun s u =>
    match u.source with
    | .arrival c slot split _ _ => s.modSplit c slot split fun sp => if sp.hold = .arrival then { sp with hold := .none } else sp
    | .credit _ _ _ => s) s

/-- The groups that have arrived on an exit barrier while it is in phase 0; none of another object (03 R56). -/
def exitArrivals (s : State) (core off : Nat) : Option (List (Nat × Nat)) :=
  if exitPlace s core off && (objAt s ⟨core, off⟩).phase == 0 then
    some (s.cores.flatMap fun y => (y.groups.filter fun g => g.exitArrived).map fun g => (y.index, g.slot))
  else none

/-- Note the groups whose arrivals on an exit barrier have been applied (03 R56). -/
def noteExits (s : State) (us : List Update) : State :=
  (us.filterMap Update.arriver).foldl (fun s p => s.modGroup p.1 p.2 fun g => { g with exitArrived := true }) s

/-- The releases that the arrivals of a cycle carry belong to the phase of their object that is open (13 R218). -/
def phaseSets (s : State) (core off n : Nat) : State :=
  { s with sets := s.sets.map fun r => if r.object = some (core, off) ∧ r.phase = none then { r with phase := some n } else r }

/-- Apply the updates of the cycle that reach one object. -/
def updateObject (s : State) (core off : Nat) (us : List Update) : State :=
  let came := exitArrivals s core off
  let r := barrierUpdate came (objAt s ⟨core, off⟩) us
  let s := phaseSets s core off (objAt s ⟨core, off⟩).phase
  let s := if r.2.length = us.length then s else storePlace s ⟨core, off⟩ r.1.image
  let s := if came.isSome then noteExits s (us.filter fun u => !(r.2.any fun p => p.1 == u)) else s
  let s := acceptArrivals s us
  r.2.foldl (fun s p => rejectUpdate s p.1 p.2) s

/-- Apply the updates of the cycle, object by object (05 R68). -/
def settleUpdates : Nat → State → State
  | 0, s => { s with updates := [] }
  | n + 1, s =>
    match s.updates with
    | [] => s
    | u :: _ =>
      let mine := s.updates.filter fun v => v.core == u.core && v.off == u.off
      let rest := s.updates.filter fun v => !(v.core == u.core && v.off == u.off)
      settleUpdates n (updateObject { s with updates := rest } u.core u.off mine)

end Sys2Proof.Machine
end

