-- ==== Sys2Proof/Machine/Operands.lean ====
section
/-! DEFINITION. The operand forms: the checks every instruction makes before its own (09 R100, R101, R117, 11 R128, 12 R160),
and the address forms (05 R61, R62). -/

namespace Sys2Proof.Machine

/-- The word of an instruction, for %ebad (12 R172). -/
def wordOf (i : Instr) : DWord := BitVec.ofNat 64 (((encode i).map BitVec.toNat).getD 0)

/-- A lane-set instruction: its word-only checks, its register range, its hazards, then its own effect. `named` are its lane
registers in the order vd, va, vb; `srcs` its register reads (11 R128). DESIGN CHOICE (log 67): HAZARD comes after REG_RANGE and before the
causes of the instruction's own chapter. -/
def laneIssue (s : State) (i : Instr) (named : List Nat) (srcs : Issuer → List Src) (act : Issuer → State) :
    Host.Outcome State Fault Refusal :=
  onIssuer s fun w =>
    if !wellFormed i then trapAll s w .illegalOp (wordOf i)
    else match named.find? fun r => w.g.allot ≤ r with
      | some r => trapAll s w .regRange (BitVec.ofNat 64 r)
      | none => match hazardOf s w (srcs w) with
        | some p => trapAll s w .hazard (p.setWidth 64)
        | none => act w

/-- Whether every queued read of a group earlier than `seq` has taken its value. -/
def readsValued (g : Group) (seq : Nat) : Bool := !(g.reads.any fun r => r.seq < seq)

/-- Whether an acquire of a group has not taken its value: a queued read that is one, or a read that a fence in progress makes one (13
R209, R212). -/
def acquirePending (g : Group) : Bool :=
  (g.reads.any fun r => r.acquire.isSome) || g.splits.any fun sp => match sp.hold with
    | .fence n true _ => !readsValued g n
    | _ => false

/-- A scratchpad access waits for the acquires before it in its group's issue order (13 R209). -/
def afterAcquires (s : State) (w : Issuer) (go : State) : State :=
  if acquirePending w.g then holdIt s w (.fence w.g.nextSeq false false) else go

/-- Whether the group is a firmware agent's: its first row is row 0 (12 R189). -/
def isAgent (g : Group) : Bool := g.first == 0

/-- A uniform-set instruction: its word-only checks, privilege, register range, hazards, then its own effect (12 R160). -/
def uniIssue (s : State) (i : Instr) (priv : Bool) (named : List Nat) (srcs : Issuer → List Src) (act : Issuer → State) :
    Host.Outcome State Fault Refusal :=
  onIssuer s fun w =>
    if !wellFormed i then trapAll s w .illegalOp (wordOf i)
    else if priv && !isAgent w.g then trapAll s w .privilege (wordOf i)
    else match named.find? fun r => w.g.allot ≤ r with
      | some r => trapAll s w .regRange (BitVec.ofNat 64 r)
      | none => match hazardOf s w (srcs w) with
        | some p => trapAll s w .hazard (p.setWidth 64)
        | none => act w

/-- A lane-set instruction whose word is illegal for some groups (16 R223, 22 R295, 26 R324). -/
def laneIssueIf (s : State) (i : Instr) (legal : Issuer → Bool) (named : List Nat) (srcs : Issuer → List Src)
    (act : Issuer → State) : Host.Outcome State Fault Refusal :=
  match s.who with
  | some w => if wellFormed i && !legal w then .next (trapAll s w .illegalOp (wordOf i)) else laneIssue s i named srcs act
  | none => laneIssue s i named srcs act

/-- A uniform-set instruction whose word is illegal for some groups (16 R223, 26 R324). -/
def uniIssueIf (s : State) (i : Instr) (legal : Issuer → Bool) (named : List Nat) (srcs : Issuer → List Src)
    (act : Issuer → State) : Host.Outcome State Fault Refusal :=
  match s.who with
  | some w => if wellFormed i && !legal w then .next (trapAll s w .illegalOp (wordOf i)) else uniIssue s i false named srcs act
  | none => uniIssue s i false named srcs act

/-- The uniform registers an instruction reads. -/
def readsG (is : List Nat) (w : Issuer) : List Src := is.flatMap fun i => srcG w.g true i

/-- The reads of a lane instruction: its write mask, then lane registers in every lane of its split, whatever the write mask leaves out
(09 R115, R117). -/
def readsV (_ : State) (k : Nat) (vs : List Nat) (w : Issuer) : List Src :=
  srcK false w.sp.mask k ++ vs.map fun v => srcV v w.sp.mask

/-- A result write of a lane instruction: `t` positions for a lane consumer; a uniform consumer stands at least 4 after
(09 R114). -/
def writeLanes (s : State) (w : Issuer) (d : Nat) (m : Mask) (t : Nat) (f : Nat → Word) : State :=
  putV s w d m t (max t 4) f

/-- A result write of a pair. -/
def writePairs (s : State) (w : Issuer) (d : Nat) (m : Mask) (t : Nat) (f : Nat → Nat) : State :=
  putPair s w d m t (max t 4) f

/-- The scratchpad address of a lane: Trunc(32, g[31:0] + va) (05 R61). -/
def scratchAddr (s : State) (w : Issuer) (gb va l : Nat) : Nat :=
  ((laneG s w (8 + gb)).toNat % 2 ^ 32 + (laneV s w va l).toNat) % 2 ^ 32

/-- The global address of a lane: Trunc(64, g + SignExtend(32, va)) (05 R61). -/
def globalAddr (s : State) (w : Issuer) (gb va l : Nat) : Nat :=
  (laneG s w (8 + gb) + (laneV s w va l).signExtend 64).toNat

/-- The address in the pair at va (11 R152). -/
def pairAddr (s : State) (w : Issuer) (va l : Nat) : Nat := lanePair s w va l

/-- A scratchpad address in a uniform register (12 R177, R179). -/
def uniAddr (s : State) (w : Issuer) (a : Nat) : Nat := (uniG s w a).toNat % 2 ^ 32

/-- A branch target: PC + 4 × off as an integer (09 R108). -/
def branchTarget (pc : PC) (w : Nat) (off : BitVec w) : Int := (pc.toNat : Int) + 4 * off.toInt

/-- Whether a target lies in 0 to 2^57 − 4 (12 R161). -/
def targetOk (t : Int) : Bool := decide (0 ≤ t ∧ t ≤ 2 ^ 57 - 4)

/-- A target as an address. -/
def targetPc (t : Int) : PC := BitVec.ofInt 57 t

/-- The scratchpad address check of an instruction's lanes, before its effect (05 R63). -/
def checked (s : State) (w : Issuer) (size : Nat) (as : List (Nat × Nat)) (ok : State) : State :=
  match scratchFault s w size as with
  | some (c, m, a) => trapHere s w c (BitVec.ofNat 64 a) m
  | none => if as.isEmpty then ok else afterAcquires s w ok

/-- The scratchpad address check of a uniform instruction, whose %emflt is the split's mask (12 R160). -/
def checkedU (s : State) (w : Issuer) (size a : Nat) (ok : State) : State :=
  match scratchFault s w size [(0, a)] with
  | some (c, _, b) => trapAll s w c (BitVec.ofNat 64 b)
  | none => afterAcquires s w ok

end Sys2Proof.Machine
end

