-- ==== Sys2Proof/Machine/Vacate.lean ====
section
/-! DEFINITION. The vacate estimate: charges, mode costs, channel sums, and the issue and admission rules (18_vacate R248 to
R260). -/

namespace Sys2Proof.Machine

/-- The entry of a class in the charge table of the boot epoch: channel, BASE and UNIT (18 R255). -/
def chargeEntry (s : State) (cls : Nat) : Nat × Nat × Nat :=
  match s.dev.charges.find? fun e => e.1 == cls with
  | some e => e.2
  | none => (0, 0, 0)

/-- The channel of a class: 0 C, 1 M, 2 X, 3 T (18 R255). -/
def channelOf (s : State) (cls : Nat) : Nat := (chargeEntry s cls).1

/-- BASE + UNIT × units, saturated (18 R255). -/
def chargeUnits (s : State) (cls units : Nat) : Nat :=
  min ((chargeEntry s cls).2.1 + (chargeEntry s cls).2.2 * units) (2 ^ 32 - 1)

/-- The units of a size in a class (12 R183). -/
def unitsOf (cls size : Nat) : Nat :=
  if cls ≤ 3 ∨ cls = 10 ∨ cls = 11 then (size + 15) / 16
  else if cls = 6 ∨ cls = 7 ∨ cls = 9 then size
  else 0

/-- Charge(class, size) (09 R125, 12 R183). -/
def chargeOf (s : State) (cls size : Nat) : Nat := chargeUnits s cls (unitsOf cls size)

/-- The rows of a launch's blocks: Σ over groups (03 R49). -/
def Launch.rows (r : Launch) : Nat := r.rows0 * r.groups0 + r.rows1 * r.groups1
/-- The groups of a launch's blocks (03 R49). -/
def Launch.groups (r : Launch) : Nat := r.groups0 + r.groups1
/-- Whether a launch is a matrix launch (16 R223). -/
def Launch.matrix (r : Launch) : Bool := bit r.flags 0
/-- Whether a launch is a traversal launch (22 R281). -/
def Launch.traversal (r : Launch) : Bool := r.kinds != 0

/-- The state bytes of a block of a launch on a core (18 R252). -/
def stateBytes (c : Nat) (r : Launch) : Nat :=
  64 * r.groups + 8192 * r.rows + 32 * r.groups + 512 * r.groups + r.scratch
    + (if r.matrix then (if Config.isForme c then 262144 + 16384 else 131072 + 8192) else 0)
    + (if r.traversal then 5120 * r.groups else 0)

/-- %vres.RATE: 0 selects 64 (18 R250). -/
def Ctx.rate (x : Ctx) : Nat := if x.vres = 0 then 64 else x.vres

/-- The cost of saving a block (18 R253). -/
def saveCost (c : Nat) (x : Ctx) (r : Launch) : Nat := (stateBytes c r + x.rate - 1) / x.rate

/-- The least mode cost of a block and its committed mode: flush, then save, then drain on a tie (18 R253). -/
def committed (s : State) (c : Nat) (x : Ctx) (r : Launch) (elapsed : Nat) : Nat × Mode :=
  let save := saveCost c x r
  if bit r.modes 2 && bit r.modes 3 then (0, .flush)
  else if bit r.modes 1 && elapsed ≤ r.blkmax && !x.halted then
    let drain := s.cyclesToTicks (r.blkmax - elapsed)
    if bit r.modes 0 && save ≤ drain then (save, .save) else (drain, .drain)
  else (save, .save)

/-- The committed mode of a block: the one it carries out once a vacate has begun (18 R253, R261). -/
def modeOf (s : State) (c : Nat) (x : Ctx) (b : Block) : Mode :=
  match b.phase with
  | .vacating m => m
  | .finished m => m
  | _ => (committed s c x b.rec_ b.elapsed).2

/-- c_b of a block. -/
def costOf (s : State) (c : Nat) (x : Ctx) (b : Block) : Nat := (committed s c x b.rec_ b.elapsed).1

/-- Whether a block only has its place, or has completed. -/
def BlockPhase.outside : BlockPhase → Bool
  | .reserved | .loading | .publishing => true
  | .loaded | .running | .vacating _ | .finished _ | .stuck => false

/-- The admitted blocks of a context with their cores, until they complete or have finished their mode. -/
def blocksOf (s : State) (ctx : Nat) : List (Nat × Block) :=
  s.cores.flatMap fun k => (k.blocks.filter fun b => b.ctx == ctx && !b.phase.outside).map fun b => (k.index, b)

/-- The sum of a list of numbers. -/
def total : List Nat → Nat
  | [] => 0
  | n :: r => n + total r

/-- %vfix: 200 + Σ c_b (18 R249). -/
def vfix (s : State) (x : Ctx) : Nat := 200 + total ((blocksOf s x.id).map fun p => costOf s p.1 x p.2)

/-- Whether the block of an operation is committed to flush (18 R256). -/
def flushes (s : State) (x : Ctx) (core block : Nat) : Bool :=
  match (s.core core).block? block with
  | none => false
  | some b => modeOf s core x b == .flush

/-- Whether a block is draining in a vacate: its operations issue without a test (20 R267). -/
def drains (s : State) (core block : Nat) : Bool :=
  ((s.core core).block? block).any fun b => b.phase == .vacating .drain

/-- S_k of a channel (18 R256). -/
def channelSum (s : State) (x : Ctx) (k : Nat) : Nat :=
  total ((s.ops.filter fun o => o.ctx == x.id && o.channel == k && !flushes s x o.core o.block).map fun o => o.charge)

/-- The greatest channel sum. -/
def maxSum (s : State) (x : Ctx) : Nat :=
  max (max (channelSum s x 0) (channelSum s x 1)) (max (channelSum s x 2) (channelSum s x 3))

/-- %ve (18 R249). -/
def estimate (s : State) (x : Ctx) : Nat := vfix s x + maxSum s x

/-- Saturation at 32 bits (18 R250). -/
def sat32 (n : Nat) : Nat := min n (2 ^ 32 - 1)

/-- What the issue rule says of a charged operation (18 R257, R259). -/
inductive Admit where
  | go
  | hold (h : Hold)
  | trap
  deriving DecidableEq, Repr

/-- The greatest sum of the channels but one. -/
def otherSums (s : State) (x : Ctx) (k : Nat) : Nat :=
  ([0, 1, 2, 3].filter fun j => j != k).foldl (fun m j => max m (channelSum s x j)) 0

/-- The issue rule for a charge on a channel, for a block of a context (18 R257, R259, 20 R267): one that does not fit is in a vacate stall,
whoever has the channel. `who` is the issuing core, slot and split. -/
def issueRule (s : State) (x : Ctx) (core block k c : Nat) (who : Nat × Nat × Nat) : Admit :=
  if flushes s x core block || drains s core block then .go
  else if x.vb < vfix s x + c then .trap
  else if x.vb < vfix s x + max (channelSum s x k + c) (otherSums s x k) then .hold .vacateStall
  else if x.priority.any fun p => p.1 == k && p.2 != who then .hold .channelPriority
  else .go

/-- Who claims a channel: a split of a group, under the trap frames it lies under (18 R259). -/
def claimant (c : Nat) (g : Group) (i : Nat) : Nat × Nat × Nat := (c, g.slot, i + 4 * g.stack.countP fun e => e.kind == .trap)

/-- The issuer as a claimant. -/
def Issuer.claimant (w : Issuer) : Nat × Nat × Nat := Machine.claimant w.c w.g w.idx

/-- The issue rule for the issuer; an agent's operations take no charge (12 R189). -/
def admitMine (s : State) (w : Issuer) (cls c : Nat) : Admit :=
  match s.ctx? w.g.ctx, blockOf w with
  | some x, some b => issueRule s x w.c b.id (channelOf s cls) c (w.claimant)
  | _, _ => .go

/-- Issue a charged operation if the issue rule lets it; `go` performs its issue, and a trap names lanes (18 R257). -/
def chargedFor (s : State) (w : Issuer) (cls c : Nat) (flt : Mask) (go : State) : State :=
  match admitMine s w cls c with
  | .go => go
  | .hold h => holdIt s w h
  | .trap => trapHere s w .vacateBound (BitVec.ofNat 64 c) flt

/-- Issue a charged operation if the issue rule lets it (18 R257). -/
def charged (s : State) (w : Issuer) (cls c : Nat) (go : State) : State := chargedFor s w cls c w.sp.mask go

/-- An operation that issues ends its hold's claim on its channel (18 R259). -/
def endPriority (s : State) (w : Issuer) : State := s.modCtx w.g.ctx fun x =>
  { x with priority := x.priority.filter fun p => p.2 != w.claimant }

/-- Fork an engine operation: it joins the open batch of its gate and its charge enters its channel (05 R70, 13 R215, 18
R257). -/
def forkOp (s : State) (w : Issuer) (gate : Gate) (cls c : Nat) (kind : OpKind) : Nat × State :=
  let n := s.nextId
  let o : Op := ⟨n, w.c, w.slot, w.idx, w.g.block, w.g.ctx, gate, w.g.openBatch gate, w.sp.pc, c, channelOf s cls, false, w.g.podReleased, kind⟩
  let s := endPriority s w
  (n, { s with nextId := n + 1, ops := s.ops ++ [o] }.modGroup w.c w.slot fun g => g.join gate)

/-- An operation completes: its batch counts it and its charge leaves its channel; the charge of a group's restored walks stays until
the last of them (05 R70, 18 R256, 22 R307). -/
def completeOp (s : State) (o : Op) : State :=
  let s := s.dropOp o.id
  let heir := if o.restored then s.ops.find? fun p => p.restored && p.core == o.core && p.slot == o.slot else none
  (match heir with
  | some p => s.modOp p.id fun q => { q with charge := q.charge + o.charge }
  | none => s).modGroup o.core o.slot fun g => g.complete o.gate o.batch

/-- Write a lane register in lanes of an operation's group at its completion (05 R71). -/
def landResults (s : State) (o : Op) (n : Nat) (ws : List (Nat × Word)) : State := if ws.isEmpty then s else s.modCore o.core fun x =>
  match x.group? o.slot with
  | none => x
  | some g => (ws.foldl (fun x p => x.landV g n p.1 p.2) x).modGroup o.slot fun h =>
      h.addPend (gatePend s.cycle x g n (maskOf (ws.map fun p => p.1)) o.gate o.batch o.pc)

/-- Write G(gd) of an operation's group at its completion; g0 discards it (05 R59, R71). -/
def landResultG (s : State) (o : Op) (gd v : Nat) : State := if gd = 0 then s else s.modCore o.core fun x =>
  match x.group? o.slot with
  | none => x
  | some g => (x.landG g gd (BitVec.ofNat 64 v)).modGroup o.slot fun h =>
      h.addPend (gatePend s.cycle x g (gReg g gd) (oneLane (gLane gd) ||| oneLane (gLane gd + 1)) o.gate o.batch o.pc)

/-- The admission rule for a block of a launch on a core (18 R260). -/
def admits (s : State) (x : Ctx) (c : Nat) (r : Launch) : Bool :=
  vfix s x + (committed s c x r 0).1 + maxSum s x ≤ x.vb

end Sys2Proof.Machine
end

