-- ==== Sys2Proof/Machine/LaunchRecord.lean ====
section
/-! DEFINITION. Launch records: their fields, their validity, and the level indices they give (03 R48 to R54, R390, R391, 18_vacate
R251, 22_traversal R281 to R283, R304, 26_command R344, R345). -/

namespace Sys2Proof.Machine

/-- The level entry at a place of a record (03 R48). -/
def levelAt (bs : List Byte) (i : Nat) : Level :=
  let o := 0x20 + 16 * i
  ⟨fieldOf bs o 2, fieldOf bs (o + 2) 2, fieldOf bs (o + 4) 2, fieldOf bs (o + 6) 1, fieldOf bs (o + 7) 1, fieldOf bs (o + 8) 1,
   fieldOf bs (o + 10) 2⟩

/-- Whether the bytes of a record that must be zero are (03 R48, 18 R251, 22 R304, 26 R344). -/
def launchZeros (bs : List Byte) : Bool :=
  let n := fieldOf bs 2 1
  let levels := (List.range 8).all fun i =>
    let o := 0x20 + 16 * i
    if i < n then fieldOf bs (o + 9) 1 == 0 && fieldOf bs (o + 12) 4 == 0 else fieldOf bs o 16 == 0
  let roles := fieldOf bs 3 1 != 1 || (fieldOf bs 0x1A 2 == 0 && fieldOf bs 0x10 8 == 0)
  fieldOf bs 1 1 / 2 == 0 && fieldOf bs 4 4 == 0 && levels && roles && fieldOf bs 0xDC 1 / 16 == 0 && fieldOf bs 0xDD 3 == 0
    && bits (fieldOf bs 0xF0 2) 12 3 == 0 && fieldOf bs 0xF2 2 == 0

/-- The launch record of 256 bytes read at an address. -/
def launchOf (va : Nat) (bs : List Byte) : Launch :=
  { va := va, version := fieldOf bs 0 1, flags := fieldOf bs 1 1,
    levels := (List.range (min (fieldOf bs 2 1) 8)).map (levelAt bs), roleCount := fieldOf bs 3 1,
    entry0 := fieldOf bs 0x08 8, entry1 := fieldOf bs 0x10 8, rows0 := fieldOf bs 0x18 1, groups0 := fieldOf bs 0x19 1,
    rows1 := fieldOf bs 0x1A 1, groups1 := fieldOf bs 0x1B 1, scratch := fieldOf bs 0x1C 4,
    shares := (List.range 12).map fun d => fieldOf bs (0xA0 + 4 * d) 4, args := fieldOf bs 0xD0 8, blkmax := fieldOf bs 0xD8 4,
    modes := fieldOf bs 0xDC 1, kinds := fieldOf bs 0xE0 8, routines := fieldOf bs 0xE8 8, galley := fieldOf bs 0xF0 2,
    maxLive := fieldOf bs 0xF4 4, bitmap := fieldOf bs 0xF8 8, zerosOk := launchZeros bs && fieldOf bs 2 1 ≤ 8 }

/-! The hierarchy. -/

/-- The innermost level. -/
def Launch.inner (r : Launch) : Level := r.levels.getLastD ⟨0, 0, 0, 0, 0, 0, 0⟩
/-- Whether level `i` is co-scheduled: by its flag, or as a CLUSTER-domain level (03 R54). -/
def Launch.coScheduled (r : Launch) (i : Nat) : Bool :=
  match r.levels[i]? with
  | none => false
  | some l => bit l.flags 0 || l.domain == 2
/-- The outermost co-scheduled level outside the innermost: the blocks of one of its instances start together (03 R54). -/
def Launch.unitLevel (r : Launch) : Option Nat := (List.range r.outer.length).find? fun i => r.coScheduled i

/-- The index of level `i` within its parent, as (x, y, z) (03 R50). -/
def Level.point (l : Level) (n : Nat) : Nat × Nat × Nat := (n % l.x, n / l.x % l.y, n / (l.x * l.y))

/-- The level indices of a block, outermost first: the linear block index taken apart (03 R50). -/
def pointsOf : List Level → Nat → List (Nat × Nat × Nat)
  | [], _ => []
  | l :: r, b => l.point (b / sizes r % l.size) :: pointsOf r b

/-- The level indices of a group of a block (03 R50). -/
def Launch.points (r : Launch) (b group : Nat) : List (Nat × Nat × Nat) := pointsOf r.outer b ++ [r.inner.point group]

/-- The first block of a die's share (03 R52). -/
def Launch.shareStart (r : Launch) (d : Nat) : Nat := total (r.shares.take d)
/-- The share of a die (03 R52). -/
def Launch.share (r : Launch) (d : Nat) : Nat := r.shares.getD d 0
/-- The dies with a share. -/
def Launch.dies (r : Launch) : List Nat := (List.range 12).filter fun d => r.share d != 0

/-! Validity. -/

/-- The rank of a domain's own scope (03 R49). -/
def domainScope (d : Nat) : Nat := 4 - d

/-- The rules of R49 on one level beside its parent (03 R48, R49). -/
def levelOk (l : Level) : Bool :=
  1 ≤ l.x && 1 ≤ l.y && 1 ≤ l.z && l.domain ≤ 4 && l.scope ≤ 6 && domainScope l.domain ≤ l.scope && l.flags ≤ 1

/-- Each level's domain is no larger than its parent's (03 R49). -/
def domainsFall : List Level → Bool
  | a :: b :: r => decide (a.domain ≤ b.domain) && domainsFall (b :: r)
  | _ => true

/-- The exit barrier fields: one of the outermost CLUSTER-domain level within the scratchpad, all others zero (03 R48, R49,
R390). -/
def exitBarriersOk (r : Launch) : Bool :=
  (List.range r.levels.length).all fun i =>
    match r.levels[i]? with
    | none => true
    | some l => if some i = r.clusterLevel then 16 * l.exitBarrier + 16 ≤ r.scratch else l.exitBarrier == 0

/-- The blocks a core of a die may hold at most, by scratchpad (03 R49). -/
def scratchLimit (d : Nat) : Nat := if d < 4 then 524288 else 262144

/-- The role fields (03 R48, R49), as DISPATCH's ROLES hold them too (12 R192). -/
def rolesOk (roles rows0 groups0 rows1 groups1 inner extra : Nat) : Bool :=
  (roles == 1 || roles == 2) && (rows0 == 1 || rows0 == 2) && 1 ≤ groups0
    && (if roles = 2 then (rows1 == 1 || rows1 == 2) && 1 ≤ groups1 else rows1 == 0 && groups1 == 0)
    && groups0 + groups1 == inner && 1 ≤ inner && inner + extra ≤ 32 && rows0 * groups0 + rows1 * groups1 + extra ≤ 63

/-- Whether every bound between two dies' shares falls between instances of a level within a die (03 R52). -/
def sharesAligned (r : Launch) : Bool :=
  (List.range r.outer.length).all fun i =>
    match r.levels[i]? with
    | none => true
    | some l => l.domain == 0 || (List.range 12).all fun d => r.shareStart d % r.instanceBlocks i == 0

/-- The rules on a cluster instance (03 R49). -/
def clusterOk (r : Launch) : Bool :=
  match r.clusterLevel with
  | none => true
  | some i => r.dies.all fun d => r.instanceBlocks i ≤ (if d < 4 then 16 else 8)

/-- The vacate fields (18 R251). -/
def modesOk (r : Launch) : Bool :=
  (!bit r.modes 2 || bit r.modes 3) && (bit r.modes 0 || bit r.modes 2) && (!bit r.modes 1 || r.blkmax != 0)

/-- The entry PCs and table addresses (22 R281, 26 R344). -/
def pointersOk (r : Launch) : Bool :=
  r.entry0 % 4 == 0 && !highVa r.entry0 && r.entry1 % 4 == 0 && !highVa r.entry1 && r.kinds % 64 == 0 && r.routines % 64 == 0
    && r.bitmap % 8 == 0

/-- The structure of a record (03 R49, R52, 18 R251, 22 R281, 26 R344). -/
def launchShapeOk (s : State) (r : Launch) : Bool :=
  let n := r.levels.length
  let extra := if r.traversal then 1 else 0
  r.zerosOk && r.version == 1 && 2 ≤ n && r.levels.all levelOk && domainsFall r.levels && r.inner.domain == 4
    && (r.outer.all fun l => l.domain != 4) && (r.outer.getLastD ⟨0, 0, 0, 0, 0, 0, 0⟩).domain == 3
    && rolesOk r.roleCount r.rows0 r.groups0 r.rows1 r.groups1 r.inner.size extra
    && r.scratch % 256 == 0 && (r.dies.all fun d => r.scratch ≤ scratchLimit d) && r.blocks ≤ 2 ^ 32 - 1
    && exitBarriersOk r && total r.shares == r.blocks && sharesAligned r && clusterOk r && modesOk r && pointersOk r
    && (!r.traversal || s.feature 3)

/-! Capacity (03 R391). -/

/-- The clusters a function's partition holds on a die. -/
def clustersHeld (s : State) (func d : Nat) : Nat :=
  ((List.range (Config.clustersOf d)).filter fun c => s.holdsCluster func (Config.clusterIndex d c)).length

/-- The outermost CORE-domain level of a launch: each of its instances lies on one core (03 R50). -/
def Launch.coreLevel (r : Launch) : Option Nat := r.outer.findIdx? fun l => l.domain == 3

/-- The blocks one core of a die can hold at once (03 R391). -/
def coreCapacity (r : Launch) (d : Nat) : Nat :=
  let extra := if r.traversal then 1 else 0
  let fit := min (32 / (r.groups + extra)) (63 / (r.rows + extra))
  let fit := if r.scratch = 0 then fit else min fit (scratchLimit d / r.scratch)
  if r.matrix || r.clusterLevel.isSome then min fit 1 else fit

/-- The blocks one cluster of a die can hold at once: an instance of a CORE-domain level lies on one core (03 R50), and a cluster instance stays
whole. -/
def clusterCapacity (r : Launch) (d : Nat) : Nat :=
  let whole := (r.coreLevel.map fun i => max (r.instanceBlocks i) 1).getD 1
  let n := (if d < 4 then 16 else 8) * (coreCapacity r d / whole * whole)
  match r.clusterLevel with
  | none => n
  | some i => n / max (r.instanceBlocks i) 1 * r.instanceBlocks i

/-- The most blocks of one instance of `z` blocks that fall in a die's share. -/
def overlap (r : Launch) (d z : Nat) : Nat :=
  let lo := r.shareStart d
  let hi := lo + r.share d
  let up := (lo + z - 1) / z * z
  if up + z ≤ hi then z else max (min hi up - lo) (hi - max lo (hi / z * z))

/-- Whether every co-scheduled instance fits in an empty instance of its domain (03 R49, R391). -/
def coScheduleFits (s : State) (func : Nat) (r : Launch) : Bool :=
  (List.range r.outer.length).all fun i =>
    match r.levels[i]? with
    | none => true
    | some l =>
      let z := r.instanceBlocks i
      !r.coScheduled i || r.dies.all fun d =>
        decide (overlap r d z ≤ match l.domain with
          | 0 => clustersHeld s func d * clusterCapacity r d
          | 1 => clustersHeld s func d * clusterCapacity r d
          | 2 => clusterCapacity r d
          | _ => coreCapacity r d)

/-- Whether the state bytes of a launch that may be saved fit a save slot (26 R328). -/
def saveFits (x : Ctx) (r : Launch) : Bool :=
  !bit r.modes 0 || r.dies.all fun d => stateBytes (if d < 4 then 0 else 640) r ≤ x.saveSlot

/-- Whether a share falls on a die on which the partition holds no cluster, or, in reduced service,
on a die but forme 0 (01 R29, 26 R345, 31 R383). -/
def partitionRefuses (s : State) (func : Nat) (r : Launch) : Bool :=
  r.dies.any fun d => clustersHeld s func d == 0 || (s.dev.service != .full && d != 0)

/-! Node kinds (22 R282, R283). -/

/-- A node kind entry. -/
structure NodeKind where
  bytes : Nat
  cntKind : Nat
  count : Nat
  choff : Nat
  ptrForm : Nat
  maxch : Nat
  ploff : Nat
  pllen : Nat
  enter : Nat
  prune : Nat
  leave : Nat
  flags : Nat
  idxBase : Nat
  ckind : Nat
  zerosOk : Bool
  deriving DecidableEq, Repr

/-- Read a node kind entry of 32 bytes. -/
def nodeKindOf (bs : List Byte) : NodeKind :=
  ⟨fieldOf bs 0 2, fieldOf bs 2 1, fieldOf bs 3 1, fieldOf bs 4 2, fieldOf bs 6 1, fieldOf bs 7 1, fieldOf bs 8 2, fieldOf bs 10 2,
   fieldOf bs 12 1, fieldOf bs 13 1, fieldOf bs 14 1, fieldOf bs 15 1, fieldOf bs 16 8, fieldOf bs 24 1 % 16,
   fieldOf bs 15 1 < 4 && fieldOf bs 24 1 < 16 && fieldOf bs 25 7 == 0⟩

/-- FRAME of a kind. -/
def NodeKind.frame (k : NodeKind) : Bool := bit k.flags 0
/-- TAGGED of a kind. -/
def NodeKind.tagged (k : NodeKind) : Bool := bit k.flags 1
/-- The bytes of a child pointer (22 R283). -/
def NodeKind.width (k : NodeKind) : Nat := if k.ptrForm = 0 then 8 else 4
/-- Whether a kind is empty (22 R282). -/
def NodeKind.empty (k : NodeKind) : Bool := k.bytes == 0

/-- Whether a non-empty kind is valid (22 R282, R283). -/
def NodeKind.valid (k : NodeKind) : Bool :=
  k.zerosOk && k.bytes % 16 == 0 && 16 ≤ k.bytes && k.bytes ≤ 4096 && k.cntKind ≤ 1 && k.ptrForm ≤ 2 && k.maxch ≤ 16
    && (if k.cntKind = 0 then k.count ≤ k.maxch else k.count < k.bytes)
    && (k.maxch == 0 || k.choff + k.maxch * k.width ≤ k.bytes) && k.pllen ≤ 64 && (k.pllen == 0 || k.ploff + k.pllen ≤ k.bytes)
    && k.enter < 64 && k.prune < 64 && k.leave < 64 && (k.ptrForm == 2 || k.idxBase == 0)

/-- Whether a kind table names a routine in a valid entry (22 R281). -/
def namesRoutine (bs : List Byte) : Bool :=
  (List.range 16).any fun k =>
    let e := nodeKindOf ((bs.drop (32 * k)).take 32)
    !e.empty && e.valid && (e.enter != 0 || e.prune != 0 || e.leave != 0)

/-! Reading and checking a record. -/

/-- What reading a launch record comes to: a record, a refusal with its error code, or an address that gives no byte. -/
inductive ReadLaunch where
  | ok (r : Launch)
  | refused (code : Nat)
  | failed (e : XErr) (va : Nat)

/-- Whether a consumer record names the galley whose descriptor names it, with extents 1 outside the innermost level (22 R304).
`bound` gives the consumer VA of a galley. -/
def consumerOk (r : Launch) (bound : Nat → Option Nat) : Bool :=
  !bit r.galley 15 || ((r.outer.all fun l => l.size == 1) && bound (r.galley % 4096) == some r.va)

/-- The consumer VA of a galley bound to a context. -/
def boundConsumer (s : State) (ctx g : Nat) : Option Nat :=
  match s.galley? g with
  | none => none
  | some y => if y.ctx = ctx then some y.consumer else none

/-- Read a launch record through a context's tables for a party with a cache, and check it (26 R345). -/
def readLaunch (s : State) (h : Tlb) (x : Ctx) (va : Nat) (bound : Nat → Option Nat) : ReadLaunch × State :=
  match readVa s h x va 256 with
  | (.error (e, a), t) => (.failed e a, t)
  | (.ok bs, t) =>
    let r := launchOf va bs
    if !launchShapeOk t r || !consumerOk r bound || !saveFits x r then (.refused 4, t)
    else if partitionRefuses t x.func r then (.refused 5, t)
    else if !coScheduleFits t x.func r then (.refused 4, t)
    else if r.traversal && r.routines = 0 then
      match readVa t h x r.kinds 512 with
      | (.error (e, a), u) => (.failed e a, u)
      | (.ok ks, u) => if namesRoutine ks then (.refused 4, u) else (.ok r, u)
    else (.ok r, t)

end Sys2Proof.Machine
end

