-- ==== Sys2Proof/Machine/Float.lean ====
section
/-! DEFINITION. The number formats and their exact arithmetic (07_numbers). A finite value is kept exactly; a value is
narrowed only by `roundTo` (00_scope R10). -/

namespace Sys2Proof

/-- Fraction bits m (07 R85). -/
def NumFmt.frac : NumFmt → Nat
  | .f64 => 52 | .f32 => 23 | .f16 => 10 | .bf16 => 7 | .e4m3 => 3 | .e5m2 => 2 | _ => 0
/-- Exponent bits (07 R85). -/
def NumFmt.expBits : NumFmt → Nat
  | .f64 => 11 | .f32 => 8 | .f16 => 5 | .bf16 => 8 | .e4m3 => 4 | .e5m2 => 5 | _ => 0
/-- Exponent bias (07 R85). -/
def NumFmt.bias : NumFmt → Nat
  | .f64 => 1023 | .f32 => 127 | .f16 => 15 | .bf16 => 127 | .e4m3 => 7 | .e5m2 => 15 | _ => 0
/-- Width in bits of a format. -/
def NumFmt.width : NumFmt → Nat
  | .f64 => 64 | .f32 => 32 | .f16 => 16 | .bf16 => 16 | .e4m3 => 8 | .e5m2 => 8 | .s n => n | .z n => n
/-- Whether a format is floating. -/
def NumFmt.isFloat : NumFmt → Bool
  | .s _ => false | .z _ => false | _ => true
/-- The canonical NaN (07 R86). -/
def NumFmt.canonicalNaN : NumFmt → Nat
  | .f64 => 0x7FF8000000000000 | .f32 => 0x7FC00000 | .f16 => 0x7E00 | .bf16 => 0x7FC0 | .e4m3 => 0x7F | .e5m2 => 0x7E
  | _ => 0
/-- The exponent of the unit of the smallest subnormal. -/
def NumFmt.minExp (f : NumFmt) : Int := 1 - (f.bias : Int) - (f.frac : Int)
/-- The encoding of the largest finite value, without sign (07 R85). -/
def NumFmt.maxFinite (f : NumFmt) : Nat :=
  if f = .e4m3 then 0x7E else (2 ^ f.expBits - 1) * 2 ^ f.frac - 1
/-- The encoding of infinity, without sign; the canonical NaN for e4m3, which has none (07 R89). -/
def NumFmt.infinity (f : NumFmt) : Nat :=
  if f = .e4m3 then 0x7F else (2 ^ f.expBits - 1) * 2 ^ f.frac
/-- The sign bit set on an encoding. -/
def NumFmt.withSign (f : NumFmt) (neg : Bool) (x : Nat) : Nat := if neg then x + 2 ^ (f.width - 1) else x

/-- The least and greatest value of an integer format (07 R84). -/
def NumFmt.limits : NumFmt → Int × Int
  | .s n => (-(2 ^ (n - 1) : Int), 2 ^ (n - 1) - 1)
  | .z n => (0, 2 ^ n - 1)
  | _ => (0, 0)

end Sys2Proof

namespace Sys2Proof.Machine

/-- A floating value: NaN (with its signalling bit), infinity, or ± man × 2^exp exactly; man = 0 is a signed zero. -/
inductive FVal where
  | nan (signalling : Bool)
  | inf (neg : Bool)
  | fin (neg : Bool) (man : Nat) (exp : Int)
  deriving DecidableEq, Repr

/-- The rounding modes of 07 R89 and R95; `dither t` rounds up from a fraction of `t` 128ths (07 R96). -/
inductive Rnd where
  | rne | rtz | rup | rdn | dither (t : Nat)
  deriving DecidableEq, Repr

/-- The rounding mode a CVT mode field names (11 R141). -/
def rndOf : RMode → Rnd
  | .rne => .rne | .rtz => .rtz | .rup => .rup | .rdn => .rdn

/-- The value of an encoding (07 R85, R86). -/
def unpack (f : NumFmt) (x : Nat) : FVal :=
  let neg := bit x (f.width - 1)
  let e := bits x f.frac f.expBits
  let m := x % 2 ^ f.frac
  if f = .e4m3 ∧ e = 15 ∧ m = 7 then .nan false
  else if f ≠ .e4m3 ∧ e = 2 ^ f.expBits - 1 then
    if m = 0 then .inf neg
    else .nan (f.width > 8 && !bit m (f.frac - 1))
  else if e = 0 then .fin neg m f.minExp
  else .fin neg (2 ^ f.frac + m) (f.minExp + (e : Int) - 1)

/-- The encoding of a finite value of the format: man below 2^(m+1), with exp the unit it was rounded to. -/
def packFinite (f : NumFmt) (neg : Bool) (man : Nat) (exp : Int) : Nat :=
  f.withSign neg (if man < 2 ^ f.frac then man
    else ((exp - f.minExp).toNat + 1) * 2 ^ f.frac + (man - 2 ^ f.frac))

/-- Whether the magnitude q + r ÷ d rounds up to q + 1 (07 R89, R96). -/
def roundsUp (mode : Rnd) (neg : Bool) (q r d : Nat) : Bool :=
  match mode with
  | .rne => d < 2 * r || (2 * r == d && q % 2 == 1)
  | .rtz => false
  | .rup => !neg && r != 0
  | .rdn => neg && r != 0
  | .dither t => if r = 0 then false else if neg then !(decide (t * d ≤ 128 * (d - r))) else decide (t * d ≤ 128 * r)

/-- num ÷ den × 2^e as quotient, remainder and divisor. -/
def scaled (num den : Nat) (e : Int) : Nat × Nat × Nat :=
  let n := if 0 ≤ e then num * 2 ^ e.toNat else num
  let d := if 0 ≤ e then den else den * 2 ^ (-e).toNat
  (n / d, n % d, d)

/-- ⌊log₂(num ÷ den)⌋ for positive num and den. -/
def floorLog2 (num den : Nat) : Int :=
  let k : Int := (Nat.log2 num : Int) - (Nat.log2 den : Int)
  let (q, _, _) := scaled num den (-k)
  if q = 0 then k - 1 else k

/-- The four flags NV, OF, UF, NX as bits 0 to 3 (07 R88). -/
abbrev FFlags := BitVec 4

/-- No flag. -/
def noFlags : FFlags := 0
/-- Invalid operation. -/
def flagNV : FFlags := 1
/-- Overflow. -/
def flagOF : FFlags := 2
/-- Underflow. -/
def flagUF : FFlags := 4
/-- Inexact. -/
def flagNX : FFlags := 8

/-- What an overflow gives: an infinity or the largest finite value by mode, the e4m3 row, or the saturating row
(07 R89). -/
def overflowTo (f : NumFmt) (mode : Rnd) (sat neg : Bool) : Nat :=
  if sat then f.withSign neg f.maxFinite
  else
    let big := match mode with
      | .rne => true | .dither _ => true | .rtz => false | .rup => !neg | .rdn => neg
    if big then (if f = .e4m3 then f.canonicalNaN else f.withSign neg f.infinity) else f.withSign neg f.maxFinite

/-- The magnitude num ÷ den × 2^exp rounded to a unit of 2^u: the multiple and whether it is inexact. -/
def roundMag (mode : Rnd) (neg : Bool) (num den : Nat) (exp u : Int) : Nat × Bool :=
  let (q, r, d) := scaled num den (exp - u)
  (if roundsUp mode neg q r d then q + 1 else q, r != 0)

/-- The rounding of a magnitude whose unit has exponent `u`: DITHER beyond the largest finite value is RNE (07 R95). -/
def roundingOf (f : NumFmt) (mode : Rnd) (neg : Bool) (num den : Nat) (exp u : Int) : Rnd :=
  match mode with
  | .dither _ =>
    let (q, inexact) := roundMag .rtz neg num den exp u
    let enc := packFinite f false q u
    if decide (f.maxFinite < enc) || (enc == f.maxFinite && inexact) then .rne else mode
  | _ => mode

/-- RoundTo (00_scope R10, 07 R87 to R89): the value ± num ÷ den × 2^exp rounded once into a floating format. -/
def roundTo (f : NumFmt) (mode : Rnd) (sat : Bool) (neg : Bool) (num den : Nat) (exp : Int) : Nat × FFlags :=
  if num = 0 then (f.withSign neg 0, noFlags)
  else
    let lead := floorLog2 num den + exp
    let free := lead - (f.frac : Int)
    let u := max free f.minExp
    let mode := roundingOf f mode neg num den exp u
    let (q, inexact) := roundMag mode neg num den exp u
    let (q, u) := if q = 2 ^ (f.frac + 1) then (2 ^ f.frac, u + 1) else (q, u)
    let enc := packFinite f false q u
    if f.maxFinite < enc then (overflowTo f mode sat neg, flagOF ||| flagNX)
    else
      let (qf, _) := roundMag mode neg num den exp free
      let tiny := decide (free < f.minExp) &&
        (let d := (f.minExp - free).toNat; decide (qf < 2 ^ (f.frac + d)))
      (f.withSign neg enc, (if inexact then flagNX else noFlags) ||| (if inexact && tiny then flagUF else noFlags))

/-- The result of an exact value in a floating format (07 R86, R87). -/
def encodeTo (f : NumFmt) (mode : Rnd) (sat : Bool) : FVal → Nat × FFlags
  | .nan _ => (f.canonicalNaN, noFlags)
  | .inf neg => (if sat then f.withSign neg f.maxFinite else if f = .e4m3 then f.canonicalNaN else f.withSign neg f.infinity, noFlags)
  | .fin neg m e => roundTo f mode sat neg m 1 e

/-- Whether a value is a signalling NaN. -/
def FVal.isSNaN : FVal → Bool
  | .nan s => s | _ => false
/-- Whether a value is a NaN. -/
def FVal.isNaN : FVal → Bool
  | .nan _ => true | _ => false
/-- Whether a value is a zero. -/
def FVal.isZero : FVal → Bool
  | .fin _ 0 _ => true | _ => false
/-- Whether a value is an infinity. -/
def FVal.isInf : FVal → Bool
  | .inf _ => true | _ => false
/-- The sign of a value; NaN has none. -/
def FVal.neg : FVal → Bool
  | .nan _ => false | .inf n => n | .fin n _ _ => n
/-- The value with its sign inverted (11 R138). -/
def FVal.negate : FVal → FVal
  | .nan s => .nan s | .inf n => .inf (!n) | .fin n m e => .fin (!n) m e

/-- A signed integer mantissa. -/
def signedMan (neg : Bool) (m : Nat) : Int := if neg then -(m : Int) else m

/-- The exact sum of two finite values; an exact zero sum of opposite signs is +0 (07 R87). -/
def addFinite (n1 : Bool) (m1 : Nat) (e1 : Int) (n2 : Bool) (m2 : Nat) (e2 : Int) : FVal :=
  let e := min e1 e2
  let x := signedMan n1 (m1 * 2 ^ (e1 - e).toNat) + signedMan n2 (m2 * 2 ^ (e2 - e).toNat)
  if x = 0 then .fin (n1 && n2) 0 0 else .fin (decide (x < 0)) x.natAbs e

/-- The exact sum, and NV for ∞ − ∞ (07 R88). -/
def addVal : FVal → FVal → FVal × FFlags
  | .nan _, _ => (.nan false, noFlags)
  | _, .nan _ => (.nan false, noFlags)
  | .inf a, .inf b => if a = b then (.inf a, noFlags) else (.nan false, flagNV)
  | .inf a, _ => (.inf a, noFlags)
  | _, .inf b => (.inf b, noFlags)
  | .fin n1 m1 e1, .fin n2 m2 e2 => (addFinite n1 m1 e1 n2 m2 e2, noFlags)

/-- The exact product, and NV for 0 × ∞ (07 R88). -/
def mulVal : FVal → FVal → FVal × FFlags
  | .nan _, _ => (.nan false, noFlags)
  | _, .nan _ => (.nan false, noFlags)
  | .inf a, .inf b => (.inf (a != b), noFlags)
  | .inf a, .fin b m _ => if m = 0 then (.nan false, flagNV) else (.inf (a != b), noFlags)
  | .fin a m _, .inf b => if m = 0 then (.nan false, flagNV) else (.inf (a != b), noFlags)
  | .fin a m e, .fin b k g => (.fin (a != b) (m * k) (e + g), noFlags)

/-- NV for a signalling operand (07 R88). -/
def sNaNFlag (vs : List FVal) : FFlags := if vs.any FVal.isSNaN then flagNV else noFlags

/-- FADD of two encodings: exact sum, one rounding (07 R87, 11 R138). -/
def fpAdd (f : NumFmt) (a b : Nat) : Nat × FFlags :=
  let x := unpack f a; let y := unpack f b
  let (v, fl) := addVal x y
  let (r, fr) := encodeTo f .rne false v
  (r, fl ||| fr ||| sNaNFlag [x, y])

/-- FSUB: a + (−b), the sign of b inverted first (11 R138). -/
def fpSub (f : NumFmt) (a b : Nat) : Nat × FFlags :=
  let x := unpack f a; let y := unpack f b
  let (v, fl) := addVal x y.negate
  let (r, fr) := encodeTo f .rne false v
  (r, fl ||| fr ||| sNaNFlag [x, y])

/-- FMUL (11 R138). -/
def fpMul (f : NumFmt) (a b : Nat) : Nat × FFlags :=
  let x := unpack f a; let y := unpack f b
  let (v, fl) := mulVal x y
  let (r, fr) := encodeTo f .rne false v
  (r, fl ||| fr ||| sNaNFlag [x, y])

/-- FMA: a × b + d rounded once; 0 × ∞ raises NV whatever the addend (07 R87, R88, 11 R138). -/
def fpFma (f : NumFmt) (a b d : Nat) : Nat × FFlags :=
  let x := unpack f a; let y := unpack f b; let z := unpack f d
  let (p, fp) := mulVal x y
  let (v, fl) := addVal p z
  let (r, fr) := encodeTo f .rne false v
  (r, fp ||| fl ||| fr ||| sNaNFlag [x, y, z])

/-- Whether a < b for two values that are no NaN; −0 = +0 (07 R86). -/
def ltVal : FVal → FVal → Bool
  | .nan _, _ => false
  | _, .nan _ => false
  | .inf a, .inf b => a && !b
  | .inf a, .fin _ _ _ => a
  | .fin _ _ _, .inf b => !b
  | .fin n1 m1 e1, .fin n2 m2 e2 =>
    let e := min e1 e2
    decide (signedMan n1 (m1 * 2 ^ (e1 - e).toNat) < signedMan n2 (m2 * 2 ^ (e2 - e).toNat))

/-- Whether a = b for two values that are no NaN; −0 = +0. -/
def eqVal (a b : FVal) : Bool := !a.isNaN && !b.isNaN && !ltVal a b && !ltVal b a

/-- minimumNumber and maximumNumber, with −0 less than +0 (07 R87). `mx` selects the maximum. -/
def fpMinMax (f : NumFmt) (mx : Bool) (a b : Nat) : Nat × FFlags :=
  let x := unpack f a; let y := unpack f b
  let fl := sNaNFlag [x, y]
  if x.isNaN && y.isNaN then (f.canonicalNaN, fl)
  else if x.isNaN then (b, fl)
  else if y.isNaN then (a, fl)
  else
    let less := if x.isZero && y.isZero then x.neg && !y.neg else ltVal x y
    (if less != mx then a else b, fl)

/-- FCMP's condition on one pair of elements, and NV for a signalling operand (11 R139). -/
def fpCompare (f : NumFmt) (c : FCond) (a b : Nat) : Bool × FFlags :=
  let x := unpack f a; let y := unpack f b
  let un := x.isNaN || y.isNaN
  let r := match c with
    | .eq => !un && eqVal x y
    | .ne => un || !eqVal x y
    | .lt => !un && ltVal x y
    | .le => !un && (ltVal x y || eqVal x y)
    | .gt => !un && ltVal y x
    | .ge => !un && (ltVal y x || eqVal x y)
    | .unord => un
    | .ord => !un
  (r, sNaNFlag [x, y])

/-- The value of an integer encoding. -/
def intValue (f : NumFmt) (x : Nat) : Int :=
  match f with
  | .s n => signed n x
  | _ => (x % 2 ^ f.width : Nat)

/-- An integer narrowed to a width, as an unsigned encoding (07 R84). -/
def wrapInt (n : Nat) (x : Int) : Nat := (x % (2 ^ n : Int)).toNat

/-- An exact value rounded to an integer: the integer and whether rounding changed it (07 R89, R95). -/
def roundToInt (mode : Rnd) (neg : Bool) (num den : Nat) (exp : Int) : Int × Bool :=
  let (q, inexact) := roundMag mode neg num den exp 0
  (signedMan neg q, inexact)

/-- Clamp to the range of an integer format. -/
def clampInt (f : NumFmt) (x : Int) : Int := max f.limits.1 (min f.limits.2 x)

/-- Float → integer (07 R89). -/
def cvtToInt (dst : NumFmt) (mode : Rnd) (v : FVal) : Nat × FFlags :=
  match v with
  | .nan _ => (0, flagNV)
  | .inf neg => (wrapInt dst.width (if neg then dst.limits.1 else dst.limits.2), flagNV)
  | .fin neg m e =>
    let (x, inexact) := roundToInt mode neg m 1 e
    if x < dst.limits.1 ∨ dst.limits.2 < x then (wrapInt dst.width (clampInt dst x), flagNV)
    else (wrapInt dst.width x, if inexact then flagNX else noFlags)

/-- Float → float (07 R89): the e4m3 and saturating rows included. -/
def cvtFloat (dst : NumFmt) (mode : Rnd) (sat : Bool) (v : FVal) : Nat × FFlags :=
  match v with
  | .nan s => (dst.canonicalNaN, if s then flagNV else noFlags)
  | .inf neg =>
    if sat then (dst.withSign neg dst.maxFinite, noFlags)
    else if dst = .e4m3 then (dst.canonicalNaN, flagNV)
    else (dst.withSign neg dst.infinity, noFlags)
  | .fin neg m e => roundTo dst mode sat neg m 1 e

/-- One conversion of the CVT table on the encoding of its source (07 R89, 11 R141, R142): the result's encoding at the
destination width, and the flags. -/
def convert (dst src : NumFmt) (sat : Bool) (mode : Rnd) (x : Nat) : Nat × FFlags :=
  if src.isFloat then
    let v := unpack src x
    if dst.isFloat then cvtFloat dst mode sat v else cvtToInt dst mode v
  else
    let i := intValue src x
    if dst.isFloat then roundTo dst mode sat (decide (i < 0)) i.natAbs 1 0
    else (wrapInt dst.width (if sat then clampInt dst i else i), noFlags)

/-- Narrow (07 R95) of the exact value ± num ÷ den × 2^exp into an output format: one rounding, saturating or clamping,
no flag. -/
def narrowFinite (f : NumFmt) (mode : Rnd) (sat neg : Bool) (num den : Nat) (exp : Int) : Nat :=
  if f.isFloat then (roundTo f mode sat neg num den exp).1
  else
    let x := (roundToInt mode neg num den exp).1
    if x < f.limits.1 ∨ f.limits.2 < x then wrapInt f.width (clampInt f (roundToInt .rne neg num den exp).1)
    else wrapInt f.width x

end Sys2Proof.Machine
end

