-- ==== Sys2Proof/Machine/Flags.lean ====
section
/-! DEFINITION. The floating flags of lane operations and their visibility (07 R88), and operations applied to the elements of
each type (11 R138). -/

namespace Sys2Proof.Machine

/-- The OR of the flags of lanes (07 R88). -/
def orFlags (f : Nat → FFlags) : List Nat → FFlags
  | [] => noFlags
  | l :: ls => f l ||| orFlags f ls

/-- An operation on the elements of a type: one, or both halves, or a pair (11 R138). -/
def elements (t : FType) (op : NumFmt → Nat → Nat → Nat → Nat × FFlags) (a b d : Nat) : Nat × FFlags :=
  let halves (f : NumFmt) : Nat × FFlags :=
    let lo := op f (a % 65536) (b % 65536) (d % 65536)
    let hi := op f (a / 65536) (b / 65536) (d / 65536)
    (lo.1 + 65536 * hi.1, lo.2 ||| hi.2)
  match t with
  | .f32 => op .f32 a b d
  | .f16x2 => halves .f16
  | .bf16x2 => halves .bf16
  | .f64 => op .f64 a b d

/-- A compare on the elements of a type: for packed types it must hold for both halves (11 R139). -/
def elementsCompare (t : FType) (c : FCond) (a b : Nat) : Bool × FFlags :=
  let halves (f : NumFmt) : Bool × FFlags :=
    let lo := fpCompare f c (a % 65536) (b % 65536)
    let hi := fpCompare f c (a / 65536) (b / 65536)
    (lo.1 && hi.1, lo.2 ||| hi.2)
  match t with
  | .f32 => fpCompare .f32 c a b
  | .f16x2 => halves .f16
  | .bf16x2 => halves .bf16
  | .f64 => fpCompare .f64 c a b

/-- The travel time of a floating type's arithmetic (09 R114). -/
def floatTravel : FType → Nat
  | .f64 => 6 | _ => 4

/-- A lane operand of a floating type: the register, or the pair for f64. -/
def floatOperand (s : State) (w : Issuer) (t : FType) (n l : Nat) : Nat :=
  match t with
  | .f64 => lanePair s w n l
  | _ => (laneV s w n l).toNat

/-- The registers a floating operand occupies. -/
def floatSpan (t : FType) (n : Nat) : List Nat :=
  match t with
  | .f64 => [n, n + 1]
  | _ => [n]

/-- Write a floating result: a register or a pair. -/
def writeFloat (s : State) (w : Issuer) (t : FType) (d : Nat) (m : Mask) (f : Nat → Nat) : State :=
  match t with
  | .f64 => writePairs s w d m 6 f
  | _ => writeLanes s w d m 4 fun l => BitVec.ofNat 32 (f l)

/-- Lane `l`'s bit of a mask computed lane by lane. -/
def maskFrom (f : Nat → Bool) : Mask := maskOf ((List.range 32).filter f)

/-- %fpflags as a UMOVS reads it: each bit of an instruction too near is old or new (07 R88). -/
def seeFlags (s : State) (w : Issuer) : DWord :=
  let bitAt (b : Nat) : Bool := (seeReg s w (.flag b) w.sp.mask true .flags b).getLsbD b
  BitVec.ofNat 64 ((bitAt 0).toNat + 2 * (bitAt 1).toNat + 4 * (bitAt 2).toNat + 8 * (bitAt 3).toNat)

end Sys2Proof.Machine
end

