-- ==== Sys2Proof/Machine/Transcend.lean ====
section
/-! DEFINITION. The functions of XFN (11_lane R143, R144), correctly rounded to f32. Roots and reciprocals are exact; the others
are evaluated in fixed point with far more bits than any f32 rounding decision needs, and marked inexact by a last odd bit. -/

namespace Sys2Proof.Machine

/-- The integer square root, bit by bit from 2^n. -/
def rootBits : Nat → Nat → Nat → Nat
  | 0, _, q => q
  | n + 1, x, q => if (q + 2 ^ n) * (q + 2 ^ n) ≤ x then rootBits n x (q + 2 ^ n) else rootBits n x q

/-- ⌊√x⌋ for x below 2^160. -/
def isqrt (x : Nat) : Nat := rootBits 80 x 0

/-- The fraction bits of the fixed-point evaluation. -/
def fixBits : Nat := 384

/-- One in fixed point. -/
def fixOne : Nat := 2 ^ fixBits

/-- x × y in fixed point. -/
def fixMul (x y : Nat) : Nat := x * y / fixOne

/-- The sum of z^(2k+1) ÷ (2k+1) from a power on, alternating or not: atanh or atan of z. -/
def arcSeries (alternate : Bool) (zz : Nat) : Nat → Nat → Nat → Bool → Int
  | 0, _, _, _ => 0
  | n + 1, power, k, neg =>
    let term : Int := ((power / k : Nat) : Int)
    (if neg then -term else term) + arcSeries alternate zz n (fixMul power zz) (k + 2) (alternate && !neg)

/-- atanh of a fixed-point z of at most 1/3. -/
def fixAtanh (z : Nat) : Nat := (arcSeries false (fixMul z z) 140 z 1 false).toNat

/-- atan of a fixed-point z of at most 1/5. -/
def fixAtan (z : Nat) : Nat := (arcSeries true (fixMul z z) 100 z 1 false).toNat

/-- ln 2 in fixed point. -/
def fixLn2 : Nat := 2 * fixAtanh (fixOne / 3)

/-- π in fixed point. -/
def fixPi : Nat := 16 * fixAtan (fixOne / 5) - 4 * fixAtan (fixOne / 239)

/-- The sum of x^k ÷ k! from a term on. -/
def expSeries (x : Nat) : Nat → Nat → Nat → Nat
  | 0, _, _ => 0
  | n + 1, term, k => term + expSeries x n (fixMul term x / k) (k + 1)

/-- e^x for a fixed-point x below 1. -/
def fixExp (x : Nat) : Nat := expSeries x 90 fixOne 1

/-- The alternating sum of x^(2k+1) ÷ (2k+1)!. -/
def sinSeries (xx : Nat) : Nat → Nat → Nat → Bool → Int
  | 0, _, _, _ => 0
  | n + 1, term, k, neg =>
    (if neg then -(term : Int) else (term : Int)) + sinSeries xx n (fixMul term xx / ((k + 1) * (k + 2))) (k + 2) (!neg)

/-- sin x for a fixed-point x up to π/2. -/
def fixSin (x : Nat) : Nat := (sinSeries (fixMul x x) 60 x 1 false).toNat

/-- Square a fixed-point number n times. -/
def fixSquares : Nat → Nat → Nat
  | 0, x => x
  | n + 1, x => fixSquares n (fixMul x x)

/-- The f32 nearest an inexact fixed-point magnitude times 2^e. -/
def fromFix (neg : Bool) (v : Nat) (e : Int) : Nat × FFlags := roundTo .f32 .rne false neg (2 * v + 1) 1 (e - (fixBits : Int) - 1)

/-- A finite f32 value in fixed point; its exponent is at least −149. -/
def toFix (m : Nat) (e : Int) : Nat := m * 2 ^ (e + (fixBits : Int)).toNat

/-- The f32 canonical NaN. -/
def nan32 : Nat := 0x7FC00000
/-- f32 +∞. -/
def inf32 : Nat := 0x7F800000
/-- f32 1. -/
def one32 : Nat := 0x3F800000
/-- An f32 encoding with a sign. -/
def sign32 (neg : Bool) (x : Nat) : Nat := if neg then x + 2 ^ 31 else x

/-- A finite value with an even exponent. -/
def evenExp (m : Nat) (e : Int) : Nat × Int := if e % 2 = 0 then (m, e) else (2 * m, e - 1)

/-- rcp (11 R143, R144). -/
def xfnRcp : FVal → Nat × FFlags
  | .nan s => (nan32, if s then flagNV else noFlags)
  | .inf n => (sign32 n 0, noFlags)
  | .fin n m e => if m = 0 then (sign32 n inf32, noFlags) else roundTo .f32 .rne false n 1 m (-e)

/-- rsq (11 R143, R144). -/
def xfnRsq : FVal → Nat × FFlags
  | .nan s => (nan32, if s then flagNV else noFlags)
  | .inf n => if n then (nan32, flagNV) else (0, noFlags)
  | .fin n m e =>
    if m = 0 then (sign32 n inf32, noFlags)
    else if n then (nan32, flagNV)
    else
      let p := evenExp m e
      let q := isqrt (2 ^ 120 / p.1)
      roundTo .f32 .rne false false (2 * q + if q * q * p.1 = 2 ^ 120 then 0 else 1) 1 (-p.2 / 2 - 61)

/-- sqrt (11 R143, R144). -/
def xfnSqrt : FVal → Nat × FFlags
  | .nan s => (nan32, if s then flagNV else noFlags)
  | .inf n => if n then (nan32, flagNV) else (inf32, noFlags)
  | .fin n m e =>
    if m = 0 then (sign32 n 0, noFlags)
    else if n then (nan32, flagNV)
    else
      let p := evenExp m e
      let x := p.1 * 2 ^ 80
      let q := isqrt x
      roundTo .f32 .rne false false (2 * q + if q * q = x then 0 else 1) 1 (p.2 / 2 - 41)

/-- exp2 (11 R143, R144). -/
def xfnExp2 : FVal → Nat × FFlags
  | .nan s => (nan32, if s then flagNV else noFlags)
  | .inf n => (if n then 0 else inf32, noFlags)
  | .fin n m e =>
    if m = 0 then (one32, noFlags)
    else
      let big : Bool := decide (10 ≤ floorLog2 m 1 + e)
      if big then (if n then fromFix false fixOne (-1000) else fromFix false fixOne 1000)
      else
        let x : Int := signedMan n (toFix m e)
        let whole := x / (fixOne : Int)
        let frac := (x % (fixOne : Int)).toNat
        if frac = 0 then roundTo .f32 .rne false false 1 1 whole
        else fromFix false (fixExp (fixMul frac fixLn2)) whole

/-- log2 (11 R143, R144). -/
def xfnLog2 : FVal → Nat × FFlags
  | .nan s => (nan32, if s then flagNV else noFlags)
  | .inf n => if n then (nan32, flagNV) else (inf32, noFlags)
  | .fin n m e =>
    if m = 0 then (sign32 true inf32, noFlags)
    else if n then (nan32, flagNV)
    else
      let k := floorLog2 m 1
      let whole := k + e
      let x := m * 2 ^ (fixBits - k.toNat)
      if x = fixOne then roundTo .f32 .rne false (decide (whole < 0)) whole.natAbs 1 0
      else
        let z := (x - fixOne) * fixOne / (x + fixOne)
        let part := 2 * fixAtanh z * fixOne / fixLn2
        let v : Int := whole * (fixOne : Int) + (part : Int)
        fromFix (decide (v < 0)) v.natAbs 0

/-- sin(π × t ÷ d) for a denominator d, a power of two: sign, and the exact cases (11 R144). -/
def sinTurns (neg : Bool) (t d : Nat) : Nat × FFlags :=
  let r := t % (2 * d)
  let lower := d ≤ r
  let r := if lower then r - d else r
  let r := if d < 2 * r then d - r else r
  let sgn := neg != lower
  if 2 * r = d then (sign32 sgn one32, noFlags)
  else fromFix sgn (fixSin (fixPi * r / d)) 0

/-- sin(π a) (11 R143, R144). -/
def xfnSin : FVal → Nat × FFlags
  | .nan s => (nan32, if s then flagNV else noFlags)
  | .inf _ => (nan32, noFlags)
  | .fin n m e =>
    if 0 ≤ e then (sign32 n 0, noFlags)
    else
      let d := 2 ^ (-e).toNat
      if m % d = 0 then (sign32 n 0, noFlags) else sinTurns n m d

/-- cos(π a) (11 R143, R144). -/
def xfnCos : FVal → Nat × FFlags
  | .nan s => (nan32, if s then flagNV else noFlags)
  | .inf _ => (nan32, noFlags)
  | .fin _ m e =>
    if 0 < e then (one32, noFlags)
    else
      let d := 2 ^ (-e).toNat
      if m % d = 0 then (sign32 (m / d % 2 == 1) one32, noFlags)
      else if 2 * m % d = 0 then (0, noFlags)
      else sinTurns false (2 * m + d) (2 * d)

/-- tanh (11 R143, R144). -/
def xfnTanh : FVal → Nat × FFlags
  | .nan s => (nan32, if s then flagNV else noFlags)
  | .inf n => (sign32 n one32, noFlags)
  | .fin n m e =>
    if m = 0 then (sign32 n 0, noFlags)
    else if 6 ≤ floorLog2 m 1 + e then fromFix n (fixOne - 1) 0
    else
      let y := fixSquares 7 (fixExp (toFix m e / 64))
      fromFix n ((y - fixOne) * fixOne / (y + fixOne)) 0

end Sys2Proof.Machine
end

