-- ==== Sys2Proof/Machine/LaneFloat.lean ====
section
/-! DEFINITION. The floating lane instructions: FADD to FCMP, FALUG, CVT and XFN (11_lane R138 to R144), and lookahead results
(09_encoding R116). -/

namespace Sys2Proof.Machine

/-! The shapes of the family. -/

/-- A lane operation on the elements of a type, with flags (11 R138). `readD` says that vd is an addend. -/
def fpR (s : State) (i : Instr) (k d a b : Nat) (t : FType) (readD : Bool)
    (op : NumFmt → Nat → Nat → Nat → Nat × FFlags) : Host.Outcome State Fault Refusal :=
  laneIssue s i [d, a, b] (readsV s k (floatSpan t a ++ floatSpan t b ++ if readD then floatSpan t d else [])) fun w =>
    let m := activeOf s w k
    let r (l : Nat) : Nat × FFlags :=
      elements t op (floatOperand s w t a l) (floatOperand s w t b l) (floatOperand s w t d l)
    done (raiseFlags (writeFloat s w t d m fun l => (r l).1) w (if t == .f64 then 6 else 4) (orFlags (fun l => (r l).2) (lanesOf m))) w

/-- An f32 lane operation with a uniform second operand (11 R140). -/
def fpG (s : State) (i : Instr) (k d a g : Nat) (readD : Bool) (op : NumFmt → Nat → Nat → Nat → Nat × FFlags) :
    Host.Outcome State Fault Refusal :=
  laneIssue s i [d, a] (fun w => readsV s k ([a] ++ if readD then [d] else []) w ++ srcG w.g false g) fun w =>
    let m := activeOf s w k
    let r (l : Nat) : Nat × FFlags :=
      op .f32 (laneV s w a l).toNat ((laneG s w g).toNat % 2 ^ 32) (laneV s w d l).toNat
    done (raiseFlags (writeLanes s w d m 4 fun l => BitVec.ofNat 32 (r l).1) w 4 (orFlags (fun l => (r l).2) (lanesOf m))) w

/-- The positions a split may issue before a result under a lookahead count, counted from its own instruction (09 R116). -/
def laWindow (la : Nat) : Nat := if la = 15 then 2 ^ 32 else la + 1

/-- Hand in a result under a lookahead count: it is written by SCRATCH_RESULT (09 R116). -/
def pushLa (s : State) (w : Issuer) (la : Nat) (regs : List Nat) (m : Mask) (writes : List (Nat × Nat × Word))
    (poisoned : Option (DWord × Mask)) (parts : List RemoteAccess) : State :=
  if m = 0 then s
  else State.modCore { s with nextId := s.nextId + 1 } w.c fun x =>
    match x.group? w.slot with
    | none => x
    | some g =>
      let t := laWindow la
      let es : List Pend := regs.map fun n => { pendOf s w (.v n) m (laneList x g n) t t with own := some s.nextId }
      x.modGroup w.slot fun g =>
        { g with la := g.la ++ [⟨w.sp.mask, List.replicate 32 t, la == 15, writes, poisoned, w.sp.pc, s.nextId, w.idx, 0, parts⟩],
                 pend := es ++ g.pend, nextSeq := if parts.isEmpty then g.nextSeq else g.nextSeq + 1 }

/-- An XFN function of each active lane (11 R143). -/
def xfn (s : State) (i : Instr) (k d a la : Nat) (f : FVal → Nat × FFlags) : Host.Outcome State Fault Refusal :=
  laneIssue s i [d, a] (readsV s k [a]) fun w =>
    let m := activeOf s w k
    let r (l : Nat) : Nat × FFlags := f (unpack .f32 (laneV s w a l).toNat)
    let s := pushLa s w la [d] m ((lanesOf m).map fun l => (d, l, BitVec.ofNat 32 (r l).1)) none []
    done (raiseFlags s w 0 (orFlags (fun l => (r l).2) (lanesOf m))) w

/-! FADD to FCMP (11 R138, R139). -/

/-- FADD (11 R138). -/
def execFadd (k : KReg) (d a b : VReg) (t : FType) (s : State) :=
  fpR s (.fadd k d a b t) k d a b t false fun f x y _ => fpAdd f x y
/-- FSUB (11 R138). -/
def execFsub (k : KReg) (d a b : VReg) (t : FType) (s : State) :=
  fpR s (.fsub k d a b t) k d a b t false fun f x y _ => fpSub f x y
/-- FMUL (11 R138). -/
def execFmul (k : KReg) (d a b : VReg) (t : FType) (s : State) :=
  fpR s (.fmul k d a b t) k d a b t false fun f x y _ => fpMul f x y
/-- FMA (11 R138). -/
def execFma (k : KReg) (d a b : VReg) (t : FType) (s : State) := fpR s (.fma k d a b t) k d a b t true fpFma
/-- FMIN (11 R138). -/
def execFmin (k : KReg) (d a b : VReg) (t : FType) (s : State) :=
  fpR s (.fmin k d a b t) k d a b t false fun f x y _ => fpMinMax f false x y
/-- FMAX (11 R138). -/
def execFmax (k : KReg) (d a b : VReg) (t : FType) (s : State) :=
  fpR s (.fmax k d a b t) k d a b t false fun f x y _ => fpMinMax f true x y

/-- FCMP (11 R139). -/
def execFcmp (k : KReg) (c : FCond) (e : KReg) (a b : VReg) (t : FType) (s : State) : Host.Outcome State Fault Refusal :=
  laneIssue s (.fcmp k c e a b t) [a, b] (readsV s k (floatSpan t a ++ floatSpan t b)) fun w =>
    let m := activeOf s w k
    let r (l : Nat) : Bool × FFlags := elementsCompare t c (floatOperand s w t a l) (floatOperand s w t b l)
    done (raiseFlags (putK s w e m 3 3 (maskFrom fun l => (r l).1)) w 3 (orFlags (fun l => (r l).2) (lanesOf m))) w

/-! FALUG (11 R140). -/

/-- FALUG_FADD (11 R140). -/
def execFalugFadd (k : KReg) (d a : VReg) (g : GReg) (s : State) :=
  fpG s (.falugFadd k d a g) k d a g false fun f x y _ => fpAdd f x y
/-- FALUG_FSUB (11 R140). -/
def execFalugFsub (k : KReg) (d a : VReg) (g : GReg) (s : State) :=
  fpG s (.falugFsub k d a g) k d a g false fun f x y _ => fpSub f x y
/-- FALUG_FMUL (11 R140). -/
def execFalugFmul (k : KReg) (d a : VReg) (g : GReg) (s : State) :=
  fpG s (.falugFmul k d a g) k d a g false fun f x y _ => fpMul f x y
/-- FALUG_FMA (11 R140). -/
def execFalugFma (k : KReg) (d a : VReg) (g : GReg) (s : State) := fpG s (.falugFma k d a g) k d a g true fpFma
/-- FALUG_FMIN (11 R140). -/
def execFalugFmin (k : KReg) (d a : VReg) (g : GReg) (s : State) :=
  fpG s (.falugFmin k d a g) k d a g false fun f x y _ => fpMinMax f false x y
/-- FALUG_FMAX (11 R140). -/
def execFalugFmax (k : KReg) (d a : VReg) (g : GReg) (s : State) :=
  fpG s (.falugFmax k d a g) k d a g false fun f x y _ => fpMinMax f true x y

/-! CVT (11 R141, R142). -/

/-- A result as written to a register: s8 and s16 filled with the sign, other narrow types with zeros (11 R142). -/
def fillResult (f : NumFmt) (x : Nat) : Nat :=
  match f with
  | .s n => if n < 32 then wrapInt 32 (signed n x) else x
  | _ => x

/-- The registers of a conversion operand (11 R142). -/
def cvtSpan (f : NumFmt) (n : Nat) : List Nat := if f.wide then [n, n + 1] else [n]

/-- A conversion's source at its width (11 R142). -/
def cvtOperand (s : State) (w : Issuer) (f : NumFmt) (n l : Nat) : Nat :=
  if f.wide then lanePair s w n l else (laneV s w n l).toNat % 2 ^ f.width

/-- CVT (11 R141, R142). -/
def execCvt (k : KReg) (d a : VReg) (c : Fin 128) (md : RMode) (s : State) : Host.Outcome State Fault Refusal :=
  let (dst, src, sat) := (cvtOf c.val).getD (.f32, .f32, false)
  laneIssue s (.cvt k d a c md) [d, a] (readsV s k (cvtSpan src a)) fun w =>
    let m := activeOf s w k
    let r (l : Nat) : Nat × FFlags := convert dst src sat (rndOf md) (cvtOperand s w src a l)
    let s' := if dst.wide then writePairs s w d m 4 (fun l => (r l).1)
      else writeLanes s w d m 4 fun l => BitVec.ofNat 32 (fillResult dst (r l).1)
    done (raiseFlags s' w 4 (orFlags (fun l => (r l).2) (lanesOf m))) w

/-! XFN (11 R143, R144). -/

/-- XFN_RCP (11 R143). -/
def execXfnRcp (k : KReg) (d a : VReg) (l : La) (s : State) := xfn s (.xfnRcp k d a l) k d a l xfnRcp
/-- XFN_RSQ (11 R143). -/
def execXfnRsq (k : KReg) (d a : VReg) (l : La) (s : State) := xfn s (.xfnRsq k d a l) k d a l xfnRsq
/-- XFN_SQRT (11 R143). -/
def execXfnSqrt (k : KReg) (d a : VReg) (l : La) (s : State) := xfn s (.xfnSqrt k d a l) k d a l xfnSqrt
/-- XFN_EXP2 (11 R143). -/
def execXfnExp2 (k : KReg) (d a : VReg) (l : La) (s : State) := xfn s (.xfnExp2 k d a l) k d a l xfnExp2
/-- XFN_LOG2 (11 R143). -/
def execXfnLog2 (k : KReg) (d a : VReg) (l : La) (s : State) := xfn s (.xfnLog2 k d a l) k d a l xfnLog2
/-- XFN_SIN (11 R143). -/
def execXfnSin (k : KReg) (d a : VReg) (l : La) (s : State) := xfn s (.xfnSin k d a l) k d a l xfnSin
/-- XFN_COS (11 R143). -/
def execXfnCos (k : KReg) (d a : VReg) (l : La) (s : State) := xfn s (.xfnCos k d a l) k d a l xfnCos
/-- XFN_TANH (11 R143). -/
def execXfnTanh (k : KReg) (d a : VReg) (l : La) (s : State) := xfn s (.xfnTanh k d a l) k d a l xfnTanh

end Sys2Proof.Machine
end

