-- ==== Sys2Proof/Machine/Order.lean ====
section
/-! DEFINITION. Scopes, the writes in flight, and what an access waits for in its group's order (13_ordering R200, R207 to R209). -/

namespace Sys2Proof.Machine

/-! Scopes. -/

/-- The code of a scope (03 R48). -/
def scopeRank : Scope → Nat
  | .group => 0 | .core => 1 | .cluster => 2 | .die => 3 | .package => 4 | .pod => 5 | .system => 6

/-- The scope that a code names (03 R48). -/
def scopeOfCode : Nat → Scope
  | 0 => .group | 1 => .core | 2 => .cluster | 3 => .die | 4 => .package | 5 => .pod | _ => .system

/-- The wider of two scopes. -/
def widerScope (a b : Scope) : Scope := if scopeRank a < scopeRank b then b else a

/-- Whether a scope reaches other cores (13 R207). -/
def reachesOut (a : Scope) : Bool := 2 ≤ scopeRank a

/-- Whether a scope around one core contains another (13 R198, R199). -/
def scopeHolds (a : Scope) (c d : Nat) : Bool :=
  match a with
  | .group => false
  | .core => c == d
  | .cluster => Config.dieOf c == Config.dieOf d && Config.clusterOf c == Config.clusterOf d
  | .die => Config.dieOf c == Config.dieOf d
  | _ => true

/-- Whether an acquire at a scope by a group of core `c` orders a write that it has seen: of a release, if each scope contains the
other party (13 R199, R208). -/
def Sight.counts (y : Sight) (a : Scope) (c : Nat) : Bool := scopeHolds a c y.core && y.scope.all fun r => scopeHolds r y.core c

/-- The scope of an acquire or a release on a page (11 R154). -/
def pageScope (p : Page) : Scope := if p.sys then .system else if p.attic then .pod else .package

/-- Count a capped operation of a group, with the event of the first (13 R200, 14 R222). -/
def countCapped (s : State) (c slot : Nat) (pc : PC) : State :=
  match s.group? c slot with
  | none => s
  | some g =>
    let t := s.modGroup c slot fun g => { g with capCount := if g.capCount = BitVec.allOnes 32 then g.capCount else g.capCount + 1 }
    if g.capCount = 0 then postEvent t g.ctx .scopeCapped 0xFFFF 0 pc.toNat (groupSource c slot) else t

/-- Whether the partition of a group's context caps scope at TENANT (13 R200). -/
def cappedGroup (s : State) (g : Group) : Bool := ((s.ctx? g.ctx).map fun x => x.capped).getD false

/-- The scope an operation of a group is performed at: under the cap POD and SYSTEM are TENANT, which is PACKAGE with POD for attic lines
(13 R200). -/
def performedScope (s : State) (g : Group) (sc : Scope) : Scope := if cappedGroup s g && 5 ≤ scopeRank sc then .pod else sc

/-- The scope an operation of a group is performed at, with its count; an agent's is not counted (13 R200, 14 R222). -/
def capScope (s : State) (c slot : Nat) (g : Group) (sc : Scope) (pc : PC) : Scope × State :=
  (performedScope s g sc, if cappedGroup s g && sc == .system && !isAgent g then countCapped s c slot pc else s)

/-! What is in flight (13 R207, R208). -/

/-- The pending stamped writes of a context's replica sets (05 R83). -/
def stampedOf (s : State) (ctx : Nat) : List (Nat × Stamped) :=
  (s.replicas.filter fun r => r.ctx == ctx).flatMap fun r => r.pending.map fun p => (r.rset, p)

/-- Whether a write in flight is not performed at a scope beyond CORE: it has not arrived at its home, or not been written through to the
attic node, or not been acknowledged by the host (13 R207). -/
def Propagation.pending (p : Propagation) (sc : Scope) : Bool :=
  !p.home || match p.beyond with
    | .none => false
    | .node => decide (5 ≤ scopeRank sc)
    | .host => sc == .system

/-- Whether a write is not performed at a scope beyond CORE (13 R207, R219). -/
def refPending (s : State) (sc : Scope) : WriteRef → Bool
  | .write c slot seq => s.props.any fun p => p.core == c && p.slot == slot && p.seq == seq && p.pending sc
  | .stamp ctx rset n => (stampedOf s ctx).any fun p => p.1 == rset && p.2.stamp ≤ n

/-- Whether a write is still on its way to some place. -/
def onWay (s : State) (o : WriteRef) : Bool := refPending s .system o

/-- Whether a write of a group earlier than `seq` is not performed at a scope beyond CORE. -/
def ownInFlight (s : State) (c : Nat) (g : Group) (seq : Nat) (sc : Scope) : Bool :=
  (s.props.any fun p => p.core == c && p.slot == g.slot && p.seq < seq && p.pending sc)
    || (stampedOf s g.ctx).any fun p => p.2.core == c && p.2.slot == g.slot && p.2.seq < seq

/-- Whether every write of a group earlier than `seq` is performed at a scope (13 R207, R212, R219). -/
def ownPerformed (s : State) (c : Nat) (g : Group) (seq : Nat) (sc : Scope) : Bool :=
  sc == .group || (!(g.queue.any fun e => e.seq < seq) && !(g.parts.any fun p => p.kind.writes && p.seq < seq)
    && (!reachesOut sc || !ownInFlight s c g seq sc))

/-- Whether every write of a group earlier than `seq`, and every write it observed, is performed at a scope (13 R207, R208,
R219). -/
def writesPerformed (s : State) (c : Nat) (g : Group) (seq : Nat) (sc : Scope) : Bool :=
  ownPerformed s c g seq sc && (!reachesOut sc || !(g.observed.any fun o => refPending s sc o))

/-- Whether a group's next store, arrival or fork, a release since its last release fence, may be performed (13 R208). -/
def releaseReady (s : State) (c : Nat) (g : Group) : Bool :=
  match g.relFence with
  | none => true
  | some sc => readsValued g g.nextSeq && writesPerformed s c g g.nextSeq sc

/-- An access that is performed when it issues waits for the acquires of its group; a release waits for what it orders (13 R208,
R209). -/
def afterFences (s : State) (w : Issuer) (go : State) : State :=
  if acquirePending w.g || !releaseReady s w.c w.g then holdIt s w (.fence w.g.nextSeq false false) else go

end Sys2Proof.Machine
end

