-- ==== Sys2Proof/Machine/LaneScratch.lean ====
section
/-! DEFINITION. The scratchpad lane instructions: LDS, LDSX, STS, ATOMS and ATOMSX (11_lane R146 to R151). -/

namespace Sys2Proof.Machine

/-- The addresses of the active lanes (05 R61). -/
def laneAddrs (s : State) (w : Issuer) (m : Mask) (g a : Nat) : List (Nat × Nat) :=
  (lanesOf m).map fun l => (l, scratchAddr s w g a l)

/-- The first word with an uncorrected error that an access touches, as a scratchpad address (11 R151). -/
def poisonAddr (s : State) (w : Issuer) (size a : Nat) : Option Nat :=
  let p := placeOf s w a
  let x := s.core p.core
  if x.poisonedAt p.off (min size 8) then some (a / 8 * 8)
  else if x.poisonedAt p.off size then some (a / 8 * 8 + 8)
  else none

/-- Whether an access touches the 8-byte word of a place. -/
def touchesWord (s : State) (w : Issuer) (size a : Nat) (q : Place) : Bool :=
  let p := placeOf s w a
  p.core == q.core && decide (p.off / 8 ≤ q.off / 8 ∧ q.off / 8 ≤ (p.off + size - 1) / 8)

/-- The poisoned word that the lowest lane with one reads, and the lanes that read that word (11 R151). -/
def poisonOf (s : State) (w : Issuer) (size : Nat) (as : List (Nat × Nat)) : Option (DWord × Mask) :=
  match as.filterMap fun p => poisonAddr s w size p.2 with
  | [] => none
  | b :: _ =>
    let q := placeOf s w b
    some (BitVec.ofNat 64 b, maskOf ((as.filter fun p => touchesWord s w size p.2 q).map Prod.fst))

/-- The address reads of a scratchpad lane instruction. -/
def scratchReads (s : State) (k a g : Nat) (others : List Nat) (w : Issuer) : List Src :=
  readsV s k (a :: others) w ++ srcG w.g false (8 + g)

/-- Whether an address is in the issuer's own core. -/
def isNear (s : State) (w : Issuer) (a : Nat) : Bool := (placeOf s w a).core == w.c

/-- The accesses of lanes to other cores, one for each target: their operands by lane (11 R147, 13 R206). -/
def remoteParts (s : State) (w : Issuer) (size : Nat) (k : RemoteKind) (as : List (Nat × Nat)) (v : Nat → DWord × DWord) : List RemoteAccess :=
  let far := as.filter fun p => !isNear s w p.2
  ((far.map fun p => (placeOf s w p.2).core).eraseDups).map fun t =>
    ⟨t, w.g.nextSeq, w.idx, w.g.epoch, size, k,
     (far.filter fun p => (placeOf s w p.2).core == t).map fun p => ⟨p.1, p.2, (placeOf s w p.2).off, (v p.1).1, (v p.1).2⟩, false⟩

/-- Keep accesses without a result until other cores' intakes perform them (13 R206). -/
def pushFar (s : State) (w : Issuer) (parts : List RemoteAccess) : State :=
  if parts.isEmpty then s
  else State.modMine { s with nextId := s.nextId + 1 } w fun g =>
    { g with la := g.la ++ [⟨0, List.replicate 32 0, false, [], none, w.sp.pc, s.nextId, w.idx, 0, parts⟩], nextSeq := g.nextSeq + 1 }

/-- A scratchpad load (11 R148): `size` bytes into `regs` registers, with an extension. -/
def lds (s : State) (i : Instr) (k d a g la size regs ext : Nat) : Host.Outcome State Fault Refusal :=
  laneIssue s i [d, a] (scratchReads s k a g []) fun w =>
    let m := activeOf s w k
    let as := laneAddrs s w m g a
    let near := as.filter fun p => isNear s w p.2
    let good := near.filter fun p => (poisonAddr s w size p.2).isNone
    let writes := good.flatMap fun p => spread d regs p.1 (extend ext (numOf (readPlace s (placeOf s w p.2) size)))
    checked s w size as
      (done (pushLa s w la ((List.range regs).map fun j => d + j) m writes (poisonOf s w size near)
        (remoteParts s w size (.load d regs ext) as fun _ => (0, 0))) w)

/-- The value a store takes from a lane: the register vd, or the pair at vd. -/
def storeValue (s : State) (w : Issuer) (size d l : Nat) : Nat := if size = 8 then lanePair s w d l else (laneV s w d l).toNat

/-- The tests of held WAITs after an instruction has stored in its lanes' words (12 R176). -/
def testAll (s : State) (w : Issuer) (size : Nat) (as : List (Nat × Nat)) (t : State) : State :=
  as.foldl (fun t p => testWaits t (placeOf s w p.2) size) t

/-- A scratchpad store of lanes to the own core: in ascending order, so that the highest survives (05 R66, 11 R149). -/
def storeLanes (s : State) (w : Issuer) (size d : Nat) (as : List (Nat × Nat)) : State :=
  testAll s w size as (as.foldl (fun t p => writePlace t (placeOf s w p.2) (bytesOf size (storeValue s w size d p.1))) s)

/-- The address check of a scratchpad store, which may be a release (05 R63, 13 R208, R209). -/
def checkedStore (s : State) (w : Issuer) (size : Nat) (as : List (Nat × Nat)) (ok : State) : State :=
  checked s w size as (if as.isEmpty then ok else afterFences s w ok)

/-- A scratchpad store (11 R149). -/
def sts (s : State) (i : Instr) (k d a g size : Nat) : Host.Outcome State Fault Refusal :=
  laneIssue s i [d, a] (scratchReads s k a g (if size = 8 then [d, d + 1] else [d])) fun w =>
    let as := laneAddrs s w (activeOf s w k) g a
    let far := remoteParts s w size .store as fun l => (BitVec.ofNat 64 (storeValue s w size d l), 0)
    checkedStore s w size as (done (pushFar (storeLanes s w size d (as.filter fun p => isNear s w p.2)) w far) w)

/-- An atomic on the words of lanes in ascending order: the state and each lane's old word; a poisoned word is unchanged
(11 R150, R151). -/
def atomLanes (s : State) (w : Issuer) (op : AtomOp) (d : Nat) :
    List (Nat × Nat) → State → List (Nat × Nat × Word) → State × List (Nat × Nat × Word)
  | [], t, out => (t, out)
  | (l, a) :: r, t, out =>
    let p := placeOf s w a
    if (t.core p.core).poisonedAt p.off 4 then atomLanes s w op d r t out
    else
      let old := numOf (readPlace t p 4)
      let t := writePlace t p (bytesOf 4 (atomNew op 32 old (laneV s w d l).toNat (laneV s w (d + 1) l).toNat))
      atomLanes s w op d r t (out ++ [(d, l, BitVec.ofNat 32 old)])

/-- A scratchpad atomic (11 R150). -/
def atoms (s : State) (i : Instr) (k d a g la : Nat) (op : AtomOp) : Host.Outcome State Fault Refusal :=
  laneIssue s i [d, a] (scratchReads s k a g (if op = .cas then [d, d + 1] else [d])) fun w =>
    let m := activeOf s w k
    let as := laneAddrs s w m g a
    let near := as.filter fun p => isNear s w p.2
    let r := atomLanes s w op d near s []
    let far := remoteParts s w 4 (.atom op d) as fun l => ((laneV s w d l).setWidth 64, (laneV s w (d + 1) l).setWidth 64)
    checkedStore s w 4 as (done (pushLa (testAll s w 4 near r.1) w la [d] m r.2 (poisonOf s w 4 near) far) w)

/-! LDS and LDSX (11 R148). -/

/-- LDS_Z8 (11 R148). -/
def execLdsZ8 (k : KReg) (d a : VReg) (g : AReg) (l : La) (s : State) := lds s (.ldsZ8 k d a g l) k d a g l 1 1 0
/-- LDS_Z16 (11 R148). -/
def execLdsZ16 (k : KReg) (d a : VReg) (g : AReg) (l : La) (s : State) := lds s (.ldsZ16 k d a g l) k d a g l 2 1 0
/-- LDS_32 (11 R148). -/
def execLds32 (k : KReg) (d a : VReg) (g : AReg) (l : La) (s : State) := lds s (.lds32 k d a g l) k d a g l 4 1 0
/-- LDS_64 (11 R148). -/
def execLds64 (k : KReg) (d a : VReg) (g : AReg) (l : La) (s : State) := lds s (.lds64 k d a g l) k d a g l 8 2 0
/-- LDSX_S8 (11 R148). -/
def execLdsxS8 (k : KReg) (d a : VReg) (g : AReg) (l : La) (s : State) :=
  lds s (.ldsxS8 k d a g l) k d a g l 1 1 8
/-- LDSX_S16 (11 R148). -/
def execLdsxS16 (k : KReg) (d a : VReg) (g : AReg) (l : La) (s : State) :=
  lds s (.ldsxS16 k d a g l) k d a g l 2 1 16
/-- LDSX_128 (11 R148). -/
def execLdsx128 (k : KReg) (d a : VReg) (g : AReg) (l : La) (s : State) := lds s (.ldsx128 k d a g l) k d a g l 16 4 0

/-! STS (11 R149). -/

/-- STS_8 (11 R149). -/
def execSts8 (k : KReg) (d a : VReg) (g : AReg) (s : State) := sts s (.sts8 k d a g) k d a g 1
/-- STS_16 (11 R149). -/
def execSts16 (k : KReg) (d a : VReg) (g : AReg) (s : State) := sts s (.sts16 k d a g) k d a g 2
/-- STS_32 (11 R149). -/
def execSts32 (k : KReg) (d a : VReg) (g : AReg) (s : State) := sts s (.sts32 k d a g) k d a g 4
/-- STS_64 (11 R149). -/
def execSts64 (k : KReg) (d a : VReg) (g : AReg) (s : State) := sts s (.sts64 k d a g) k d a g 8

/-! ATOMS and ATOMSX (11 R150). -/

/-- ATOMS_ADD (11 R150). -/
def execAtomsAdd (k : KReg) (d a : VReg) (g : AReg) (l : La) (s : State) := atoms s (.atomsAdd k d a g l) k d a g l .add
/-- ATOMS_EXCH (11 R150). -/
def execAtomsExch (k : KReg) (d a : VReg) (g : AReg) (l : La) (s : State) := atoms s (.atomsExch k d a g l) k d a g l .exch
/-- ATOMS_CAS (11 R150). -/
def execAtomsCas (k : KReg) (d a : VReg) (g : AReg) (l : La) (s : State) := atoms s (.atomsCas k d a g l) k d a g l .cas
/-- ATOMS_MAX_S (11 R150). -/
def execAtomsMaxS (k : KReg) (d a : VReg) (g : AReg) (l : La) (s : State) := atoms s (.atomsMaxS k d a g l) k d a g l .maxS
/-- ATOMSX_AND (11 R150). -/
def execAtomsxAnd (k : KReg) (d a : VReg) (g : AReg) (l : La) (s : State) := atoms s (.atomsxAnd k d a g l) k d a g l .and
/-- ATOMSX_OR (11 R150). -/
def execAtomsxOr (k : KReg) (d a : VReg) (g : AReg) (l : La) (s : State) := atoms s (.atomsxOr k d a g l) k d a g l .or
/-- ATOMSX_XOR (11 R150). -/
def execAtomsxXor (k : KReg) (d a : VReg) (g : AReg) (l : La) (s : State) := atoms s (.atomsxXor k d a g l) k d a g l .xor
/-- ATOMSX_MIN_S (11 R150). -/
def execAtomsxMinS (k : KReg) (d a : VReg) (g : AReg) (l : La) (s : State) := atoms s (.atomsxMinS k d a g l) k d a g l .minS

end Sys2Proof.Machine
end

