-- ==== Sys2Proof/Machine/Global.lean ====
section
/-! DEFINITION. The ordering machine for global memory: store and read queues, core views, propagations, atomics, replica sets
(11_lane R152 to R158, 12_uniform R180, 13_ordering R198 to R222, 05_memory R78 to R83). -/

namespace Sys2Proof.Machine

/-! Translation of a queue's addresses. -/

/-- The page an address translates to by the tables as they stand, without the caches. -/
def peek (s : State) (x : Ctx) (need : Need) (va : Nat) : Except XErr Page :=
  match walk s x va with
  | .error e => .error e
  | .ok (level, pte) =>
    match leafPage s x.func need va level pte with
    | .error e => .error e
    | .ok p => if p.repl && (replicaOf s x p.rset).isNone then .error (.fault 2) else .ok p

/-- The physical address by the tables as they stand, if there is one. -/
def peekPa (s : State) (x : Ctx) (va : Nat) : Option Nat :=
  match walk s x va with
  | .error _ => none
  | .ok (level, pte) => some (bits pte 16 36 * 65536 + va % 2 ^ levelShift level)

/-- Whether every byte of a store would translate now. -/
def storeTranslates (s : State) (x : Ctx) (e : QEntry) : Bool :=
  e.writes.all fun w => (spansOf w.2.1 w.2.2.length).all fun sp =>
    match peek s x .store sp.1 with | .ok _ => true | .error _ => false

/-! The sets of releases (13 R208). -/

/-- The ordered-before set of a release of a group at `seq`, as far as it is on its way (13 R208). -/
def beforeSet (s : State) (c : Nat) (g : Group) (seq : Nat) : List WriteRef :=
  ((s.props.filter fun p => p.core == c && p.slot == g.slot && p.seq < seq).map fun p => WriteRef.write c p.slot p.seq)
    ++ (((stampedOf s g.ctx).filter fun p => p.2.core == c && p.2.slot == g.slot && p.2.seq < seq).map
      fun p => WriteRef.stamp g.ctx p.1 p.2.stamp)
    ++ g.observed.filter fun o => onWay s o

/-- Keep the ordered-before set of a release that has been performed, if anything of it is on its way. -/
def keepSet (s : State) (core : Nat) (sc : Scope) (source : Option (Nat × Nat)) (cells : List Host.Cell) (object : Option (Nat × Nat))
    (ws : List WriteRef) : State :=
  if ws.isEmpty then s
  else { s with nextId := s.nextId + 1, sets := ⟨s.nextId, core, sc, source, cells, [], object, none, ws.eraseDups⟩ :: s.sets }

/-- What a release's set carries, as an acquire sees it (13 R199, R208). -/
def ReleaseSet.sights (r : ReleaseSet) : List Sight := r.writes.map fun o => ⟨r.core, some r.scope, o⟩

/-- What the releases of an object's completed phases carry (13 R218): not those of the phase that is open. -/
def setsOf (s : State) (p : Place) : List Sight :=
  (s.sets.filter fun r => r.object == some (p.core, p.off)
    && r.phase.any fun n => decide (0 < (BitVec.ofNat 32 (objAt s p).phase - BitVec.ofNat 32 n).toInt)).flatMap ReleaseSet.sights

/-- A store of a core arrives at bytes of its home: they are its release's from now on, and no longer those of others (13 R210). -/
def arriveSets (s : State) (core slot seq : Nat) (cells : List Nat) : State :=
  { s with sets := s.sets.map fun r =>
      let rest := r.live.filter fun a => !cells.contains a
      if r.core = core ∧ r.source = some (slot, seq)
      then { r with live := rest ++ ((r.cells.map Prod.fst).filter fun a => cells.contains a) } else { r with live := rest } }

/-- Bytes of a home take a value that no release and no atomic wrote (13 R210). -/
def endSets (s : State) (pa n : Nat) : State :=
  { s with sets := s.sets.map fun r => { r with live := r.live.filter fun a => a < pa || pa + n ≤ a } }

/-- Whether a read of byte `b` at `pa` by a core has read the value of a release, or of an atomic that read it: from the release's own write on
its way, from its home, or from a copy of it (13 R210; log 7). -/
def ReleaseSet.readAt (s : State) (r : ReleaseSet) (c pa : Nat) (way : Option WriteRef) (b : Byte) : Bool :=
  r.object.isNone && match way with
    | some o => (r.source.any fun q => o == .write r.core q.1 q.2) && r.cells.any fun k => k.1 == pa
    | none => (r.live.contains pa && b == s.homeByte pa)
        || (r.cells.contains (pa, b) && (r.core == c || ((s.core c).view.any fun v => v.line == pa / 128)))

/-! Acquires (13 R207, R209). -/

/-- What an acquire does to the core: beyond CORE its clean copies drop. -/
def acquireAt (s : State) (c : Nat) (sc : Scope) : State :=
  if reachesOut sc then s.modCore c fun x => { x with view := [] } else s

/-- What an acquire of a group does: at POD and beyond its later reads of attic lines are from the attic node (13 R207). -/
def acquireBy (s : State) (c slot : Nat) (sc : Scope) : State :=
  let t := acquireAt s c sc
  if 5 ≤ scopeRank sc then t.modGroup c slot fun g => { g with podAcquired := true } else t

/-- What a join does to the core: the copies that an engine's write has passed drop (13 R211, R217; log 61). -/
def dropBehind (s : State) (c : Nat) : State := s.modCore c fun x => { x with view := x.view.filter fun v => !v.behind }

/-- A group observes what an acquire at a scope has seen, as far as it counts for that scope and is still on its way (13 R199, R208). -/
def observe (s : State) (c slot : Nat) (sc : Scope) (ys : List Sight) : State := s.modGroup c slot fun g =>
  { g with observed := (g.observed ++ (ys.filter fun y => y.counts sc c).map fun y => y.ref).eraseDups.filter fun o => onWay s o }

/-- A fence makes a group's earlier reads acquires at a scope (13 R212). -/
def acquireReads (s : State) (c slot : Nat) (sc : Scope) : State :=
  match s.group? c slot with
  | none => s
  | some g => acquireBy (observe s c slot sc g.seen) c slot sc

/-! Issue. -/

/-- The pieces of an access, cut at 8-byte boundaries (13 R213). -/
def cutPieces : Nat → Nat → Nat → Nat → Nat → List Piece
  | 0, _, _, _, _ => []
  | fuel + 1, lane, va, n, off =>
    if n = 0 then [] else
      let k := min n (8 - va % 8)
      ⟨lane, va, k, off⟩ :: cutPieces fuel lane (va + k) (n - k) (off + k)

/-- The lanes whose access has an address with any of bits [63:57] set (05 R73). DESIGN CHOICE (log 67): any byte's address counts. -/
def highLanes (size : Nat) (as : List (Nat × Nat)) : List (Nat × Nat) :=
  as.filter fun p => highVa p.2 || highVa (p.2 + size - 1)

/-- The address checks of a global instruction: ACCESS_VIOLATION, then MISALIGNED for an atomic (11 R152). -/
def globalFault (size align : Nat) (as : List (Nat × Nat)) : Option (Cause × Mask × Nat) :=
  match highLanes size as with
  | (l, a) :: r => some (.accessViolation, maskOf (((l, a) :: r).map Prod.fst), a)
  | [] =>
    match as.filter fun p => p.2 % align != 0 with
    | (l, a) :: r => some (.misaligned, maskOf (((l, a) :: r).map Prod.fst), a)
    | [] => none

/-- Queue a read or an atomic and fork its operation on gl (11 R154, R157). -/
def queueRead (s : State) (w : Issuer) (cls : Nat) (dest : Dest) (pieces : List Piece) (atom : Option AtomOp)
    (operands : List (Nat × DWord × DWord)) (acquire : Option Scope) : State :=
  charged s w cls (chargeOf s cls 0)
    (let r := forkOp s w .gl cls (chargeOf s cls 0) .reads
     done (r.2.modMine w fun g =>
      { g with nextSeq := g.nextSeq + 1,
               reads := g.reads ++ [⟨g.nextSeq, w.g.openBatch .gl, w.sp.pc, w.idx, dest, pieces, [], atom, operands, false,
                 acquire, .clear, 0, r.1, [], []⟩] }) w)

/-- Put an entry at the tail of the group's store queue (11 R156). -/
def queueStore (s : State) (w : Issuer) (writes : List (Nat × Nat × List Byte)) (release : Option Scope) : State :=
  done (State.modMine { s with nextId := s.nextId + 1 } w fun g =>
    { g with nextSeq := g.nextSeq + 1,
             queue := g.queue ++ [⟨g.nextSeq, w.sp.pc, w.idx, writes, release, g.relFence, [], [], false, .clear, s.nextId⟩] }) w

/-! Suspension points of stores (05 R78). -/

/-- The POISON event of a trap with cause POISON (11 R151, R155). -/
def poisonEvent (s : State) (c slot : Nat) (cause : Cause) (bad : DWord) : State :=
  match cause, s.group? c slot with
  | .poison, some g => postEvent s g.ctx .poison 0xFFFF cause.number bad.toNat (groupSource c slot)
  | _, _ => s

/-- Take a trap that has waited for its suspension point: it is at the issuer's instruction. -/
def takeDue (s : State) (w : Issuer) (d : DueTrap) : State :=
  let s := s.modMine w fun g => { g with due := g.due.erase d }
  trapHere (poisonEvent s w.c w.slot d.cause d.bad) w d.cause d.bad d.lanes

/-- A suspension point of stores: a due trap is taken, an earlier store that does not translate holds the split, and otherwise
the instruction goes on (05 R78). -/
def storePoint (s : State) (w : Issuer) (go : State) : State :=
  match w.g.due.find? fun d => d.store with
  | some d => takeDue s w d
  | none =>
    match s.ctx? w.g.ctx with
    | none => go
    | some x =>
      if w.g.queue.any fun e => e.fault != .clear || !storeTranslates s x e then holdIt s w .faultSuspension else go

/-- Whether a split's store has found the queue full, now or at an earlier try: it is a suspension point then (05 R78). -/
def foundFull (w : Issuer) : Bool := decide (16 ≤ w.g.queue.length) || w.sp.hold == .storeQueueFull || w.sp.hold == .faultSuspension

/-- A store finds room in the queue, or is held; a store that finds the queue full is a suspension point (11 R156, 05 R78). -/
def withRoom (s : State) (w : Issuer) (go : State) : State :=
  if foundFull w then storePoint s w (if w.g.queue.length < 16 then go else holdIt s w .storeQueueFull) else go

/-! Reading (13 R202). -/

/-- The byte that a lane's store has at an address: found by virtual or by physical address. -/
def laneByte (s : State) (x : Ctx) (w : Nat × Nat × List Byte) (va pa : Nat) : Option Byte :=
  let bs := w.2.2
  if w.2.1 ≤ va ∧ va < w.2.1 + bs.length then bs[va - w.2.1]?
  else (spansOf w.2.1 bs.length).findSome? fun sp =>
    (peekPa s x sp.1).bind fun q => if q ≤ pa ∧ pa < q + sp.2 then bs[sp.1 - w.2.1 + (pa - q)]? else none

/-- The byte of a queue entry at an address: the highest lane's that writes it, unless a higher lane has already left with it (05 R66). -/
def entryByte (s : State) (x : Ctx) (e : QEntry) (va pa : Nat) : Option Byte :=
  let best := (e.writes ++ e.away).foldl (fun (found : Option (Nat × Byte)) w =>
    match laneByte s x w va pa, found with
    | some b, some f => if f.1 ≤ w.1 then some (w.1, b) else some f
    | some b, none => some (w.1, b)
    | none, f => f) none
  best.bind fun f => if e.written.any fun w => w.1 == pa && decide (f.1 < w.2) then none else some f.2

/-- The youngest queue entry's byte at an address, among entries earlier than a read (11 R153). -/
def queueByte (s : State) (x : Ctx) (g : Group) (seq va pa : Nat) : Option Byte :=
  (g.queue.reverse.filter fun e => e.seq < seq).findSome? fun e => entryByte s x e va pa

/-- The newest write of the core toward its home that covers a physical address, with its place. -/
def overlayByte (s : State) (c pa : Nat) : Option (Byte × WriteRef) :=
  (s.props.reverse.filter fun p => p.core == c && p.repl.isNone && !p.home).findSome? fun p =>
    (p.bytes.find? fun b => b.1 == pa).map fun b => (b.2, .write c p.slot p.seq)

/-- The writes at home that cover a physical address and are on their way beyond it (13 R207). -/
def beyondRefs (s : State) (pa : Nat) : List Sight :=
  (s.props.filter fun p => p.home && p.bytes.any fun b => b.1 == pa).map fun p => ⟨p.core, none, .write p.core p.slot p.seq⟩

/-- The line of a physical address (01 R24). -/
def lineOf (pa : Nat) : Nat := pa / 128

/-- The byte a core view holds at an address (13 R201). -/
def Core.viewByte (x : Core) (pa : Nat) : Option Byte := (x.view.find? fun v => v.line == lineOf pa).bind fun v => v.byte? pa

/-- The addresses of a line. -/
def lineAddrs (line : Nat) : List Nat := (List.range 128).map (128 * line + ·)

/-- The home slice of an attic line takes the attic node's bytes again, but for writes that are still on their way there (05 R80, 13
R207). -/
def refreshAttic (s : State) (line : Nat) : State :=
  let cs := ((lineAddrs line).filter fun pa => (beyondRefs s pa).isEmpty).map fun pa => (pa, Memory.read s.mem pa)
  { s with attic := putLine line cs [] s.attic }

/-- A read of an attic line by a group at its home: the home slice's copy may have been lost (05 R80); a group that has acquired at POD, and
a page that is not cached, take the attic node's bytes (13 R207). Whether what comes from the node authenticates (28 R358). -/
def atticFetch (s : State) (g : Group) (q : Page) (line : Nat) : Bool × State :=
  if !q.attic then (true, s)
  else
    let must := q.nc || g.podAcquired || !(s.attic.any fun v => v.line == line)
    let lost := s.coin
    if must || lost.1 then
      let r := atticTrip (if must then s else lost.2) g.ctx q.key (atticPort q.pa)
      (r.1, if r.1 then refreshAttic r.2 line else r.2)
    else (true, lost.2)

/-- The byte that a core's view gives a read: a copy of part of an aligned 8-byte word gives none, so that no access sees part of
another (13 R213). -/
def Core.copyByte (x : Core) (pa : Nat) : Option Byte :=
  if (List.range 8).all fun i => (x.viewByte (pa / 8 * 8 + i)).isSome then x.viewByte pa else none

/-- Whether bytes at a physical address hold an uncorrected error (31 R380). -/
def poisonedMem (s : State) (pa n : Nat) : Bool := s.memPoison.any fun q => pa ≤ q && q < pa + n

/-- Take a clean copy of the words of a line that a core's view does not hold, from their home, with their poison; its own writes stay in
it. -/
def copyLine (s : State) (c line : Nat) : State :=
  let want := (lineAddrs line).filter fun pa => ((s.core c).copyByte pa).isNone
  let cs := want.map fun pa => (pa, ((overlayByte s c pa).map Prod.fst).getD (s.homeByte pa))
  let bad := want.filter fun pa => (overlayByte s c pa).isNone && poisonedMem s pa 1
  s.modCore c fun x => { x with view := putLine line cs bad x.view }

/-- Remove a core's copy of a line (13 R202). -/
def dropLine (s : State) (c line : Nat) : State :=
  s.modCore c fun x => { x with view := x.view.filter fun v => v.line != line }

/-- The stamp of a replica set that a die's copy has applied (05 R83). -/
def appliedStamp (s : State) (ctx rset die : Nat) : Nat :=
  match s.replicas.find? fun r => r.ctx == ctx && r.rset == rset with
  | none => 0
  | some r =>
    match r.pending.find? fun p => p.die == die with
    | none => r.stamp
    | some p => p.stamp - 1

/-- The place a byte of a page is read at by a core (05 R82, R83). -/
def readPa (s : State) (c : Nat) (x : Ctx) (p : Page) : Nat :=
  if p.repl then ((replicaOf s x p.rset).map fun d => replicaRead d (Config.dieOf c) p.pa).getD p.pa else p.pa

/-- A byte that a read has taken: its value, the releases whose value it is, and the writes that it has seen. -/
structure ByteRead where
  byte : Byte
  sets : List Nat
  sights : List Sight

/-- The releases that a byte read at home or on its way carries (13 R210). -/
def releasesRead (s : State) (c pa : Nat) (way : Option WriteRef) (b : Byte) : List Nat :=
  (s.sets.filter fun r => r.readAt s c pa way b).map fun r => r.id

/-- A byte read by a group of a core: from its queue, the core's writes on their way, the core's view, or the home; with what the
group has seen by it. -/
def readByte (s : State) (c : Nat) (x : Ctx) (g : Group) (seq : Nat) (p : Page) (va pa : Nat) : ByteRead :=
  match queueByte s x g seq va p.pa with
  | some b => ⟨b, [], []⟩
  | none =>
    let own := if p.repl then [⟨c, none, .stamp x.id p.rset (appliedStamp s x.id p.rset (Config.dieOf c))⟩] else beyondRefs s pa
    match overlayByte s c pa with
    | some (b, r) => ⟨b, releasesRead s c pa (some r) b, ⟨c, none, r⟩ :: own⟩
    | none =>
      let b := if p.nc || (p.attic && g.podAcquired) then s.homeByte pa else ((s.core c).copyByte pa).getD (s.homeByte pa)
      ⟨b, releasesRead s c (if p.repl then p.pa else pa) none b, own⟩

/-- What translating the pieces of the oldest access comes to: the step is used for a fault, or these pieces may go on. -/
inductive Screen where
  | used (s : State)
  | good (s : State) (ps : List (Piece × Page))

/-- Translate pieces in order, for a core. -/
def translatePieces (c : Nat) (x : Ctx) (need : Need) : State → List Piece → List (Piece × Except XErr Page) × State
  | s, [] => ([], s)
  | s, p :: r =>
    let t := translateR s (.core c) x need p.va
    let u := translatePieces c x need t.2 r
    ((p, t.1) :: u.1, u.2)

/-- Change the oldest read of a group. -/
def modRead (s : State) (c slot : Nat) (f : REntry → REntry) : State := s.modGroup c slot fun g =>
  { g with reads := match g.reads with | [] => [] | e :: r => f e :: r }

/-- The bytes of a lane, if all have come. -/
def laneBytes (e : REntry) (l n : Nat) : Option (List Byte) :=
  (List.range n).foldr (fun off acc =>
    acc.bind fun bs => (e.got.find? fun q => q.1 == l && q.2.1 == off).map fun q => q.2.2 :: bs) (some [])

/-- Write the destinations of a completed read (05 R71). -/
def landRead (x : Core) (g : Group) (e : REntry) : Core :=
  match e.dest with
  | .lanes vd n =>
    (List.range 32).foldl (fun x l =>
      match laneBytes e l n with
      | none => x
      | some bs => (List.range ((n + 3) / 4)).foldl (fun x j =>
          x.landV g (vd + j) l (BitVec.ofNat 32 (numOf bs / 2 ^ (32 * j)))) x) x
  | .uniform gd n =>
    match laneBytes e 0 n with
    | none => x
    | some bs => if gd = 0 then x else x.landG g gd (BitVec.ofNat 64 (numOf bs))

/-- The trap that a poisoned read owes at the WAIT on its batch (11 R155). -/
def poisonDue (e : REntry) (va : Nat) : DueTrap :=
  ⟨some (.gl, e.batch), none, false, e.split, .poison, BitVec.ofNat 64 va, e.poisoned, e.opId⟩

/-- The writes of a completed read as reads before the WAIT of its batch may see them, each register old or new (05 R71). -/
def landPends (s : State) (x : Core) (g : Group) (e : REntry) : List Pend :=
  let entry (n : Nat) (m : Mask) : Pend := gatePend s.cycle x g n m .gl e.batch e.pc
  match e.dest with
  | .lanes vd n =>
    let m := maskOf ((List.range 32).filter fun l => (laneBytes e l n).isSome)
    (List.range ((n + 3) / 4)).map fun j => entry (vd + j) m
  | .uniform gd n =>
    if gd = 0 || (laneBytes e 0 n).isNone then [] else [entry (gReg g gd) (oneLane (gLane gd) ||| oneLane (gLane gd + 1))]

/-- Complete the oldest read of a group: its destinations, its acquire, its gate (05 R70, R71, 13 R209). -/
def finishRead (s : State) (c slot : Nat) : State :=
  match s.group? c slot with
  | none => s
  | some g =>
    match g.reads with
    | [] => s
    | e :: _ =>
      let s := s.modCore c fun x => (landRead x g e).modGroup slot fun h =>
        { h with reads := h.reads.drop 1, pend := landPends s x g e ++ h.pend }
      let s := match s.op? e.opId with
        | none => s
        | some o => completeOp s o
      match e.acquire with
      | none => s
      | some sc =>
        let r := capScope s c slot g sc e.pc
        acquireBy (observe r.2 c slot r.1 e.sights) c slot r.1

/-- Complete the oldest read if nothing of it is left. -/
def finishIfDone (s : State) (c slot : Nat) : State :=
  match (s.group? c slot).bind fun g => g.reads.head? with
  | none => s
  | some e => if e.pieces.isEmpty then finishRead s c slot else s

/-- A page that an access may use, unless the access was pending on its port when the port's link failed (28 R356). -/
def refuseCut (s : State) (born : Nat) : Except XErr Page → Except XErr Page
  | .ok q => if cutOff s q.pa born then .error .unresolved else .ok q
  | .error k => .error k

/-- The translation outcome of the oldest access: faults post one record, lanes without an address owe their trap, and the
other pieces may go on (05 R78, R79). -/
def screen (s : State) (c slot : Nat) (x : Ctx) (g : Group) (e : REntry) (kind : Nat) (need : Need) : Screen :=
  let r := translatePieces c x need s e.pieces
  let r := (r.1.map fun p => (p.1, refuseCut s e.opId p.2), r.2)
  let faults := r.1.filterMap fun p => match p.2 with | .error (.fault k) => some (p.1, k) | _ => none
  let lost := r.1.filterMap fun p => match p.2 with | .error .unresolved => some p.1 | _ => none
  let good := r.1.filterMap fun p => match p.2 with | .ok q => some (p.1, q) | _ => none
  match lost, faults with
  | p :: ps, _ =>
    let lanes := maskOf ((p :: ps).map fun q => q.lane)
    let t := modRead r.2 c slot fun e => { e with pieces := e.pieces.filter fun q => !lanes.getLsbD q.lane }
    let t := t.modGroup c slot fun g => { g with due := g.due ++
      [⟨some (.gl, e.batch), none, false, e.split, .accessViolation, BitVec.ofNat 64 p.va, lanes, e.opId⟩] }
    .used (finishIfDone t c slot)
  | [], f :: fs =>
    if e.fault = .clear then
      let lanes := maskOf ((f :: fs).map fun q => q.1.lane)
      match postFault r.2 x f.1.va (groupSource c slot) kind f.2 lanes e.batch.toNat (timeOf s g) (.read c slot e.seq) with
      | (none, _) => .used s
      | (some n, t) => .used (modRead t c slot fun e => { e with fault := .waiting n })
    else .good r.2 good
  | [], [] => .good r.2 good

/-- Whether a core's copy of a byte, which is what its view gives a read, is poisoned (31 R380). -/
def Core.copyPoisoned (x : Core) (pa : Nat) : Bool := x.view.any fun v => v.bad.contains pa

/-- A lane of the oldest read of a group reads poison: its trap is due once, with the address of the lowest such lane (11 R155). -/
def oweReadPoison (s : State) (c slot : Nat) (p : Piece) : State := s.modGroup c slot fun g =>
  match g.reads with
  | [] => g
  | e :: _ =>
    let va := p.va - p.off
    if g.due.any fun d => d.cause == .poison && d.born == e.opId then
      { g with due := g.due.map fun d => if d.cause == .poison && d.born == e.opId
          then { d with lanes := e.poisoned, bad := if p.lane < lowestLane d.lanes then BitVec.ofNat 64 va else d.bad } else d }
    else { g with due := g.due ++ [poisonDue e va] }

/-- The bytes of a piece have come: they are kept, and the poison of their lane noted. -/
def gotPiece (s : State) (c slot : Nat) (p : Piece) (bs : List Byte) (bad : Bool) : State :=
  let s := modRead s c slot fun e =>
    { e with pieces := e.pieces.erase p,
             got := e.got ++ (List.range bs.length).filterMap fun i => bs[i]?.map fun b => (p.lane, p.off + i, b),
             poisoned := if bad then e.poisoned ||| oneLane p.lane else e.poisoned }
  if bad then oweReadPoison s c slot p else s

/-- The oldest read of a group has read bytes of a lane: a release all of whose bytes the lane has read carries its set to the group
(13 R208, R210). -/
def noteSights (s : State) (c slot lane pa : Nat) (rs : List ByteRead) : State :=
  match (s.group? c slot).bind fun g => g.reads.head? with
  | none => s
  | some e =>
    let new := rs.zipIdx.flatMap fun r => r.1.sets.map fun n => (lane, n, pa + r.2)
    let marks := (e.marks ++ new).eraseDups
    let whole := s.sets.filter fun r => (new.any fun m => m.2.1 == r.id) && r.cells.all fun k => marks.contains (lane, r.id, k.1)
    let ys := ((rs.flatMap fun r => r.sights) ++ whole.flatMap ReleaseSet.sights).filter fun y => onWay s y.ref
    (modRead s c slot fun e => { e with marks := marks, sights := (e.sights ++ ys).eraseDups }).modGroup c slot fun g =>
      { g with seen := ((g.seen ++ ys).filter fun y => onWay s y.ref).eraseDups }

/-- Whether an address lies in the spill area of a resident group of a context: a program's read there gives no value that the manual states
(03 R40). -/
def inSpillArea (s : State) (ctx va : Nat) : Bool :=
  s.cores.any fun y => y.groups.any fun g => g.ctx == ctx && g.live != 0 && spillBase g != 0 && decide (spillBase g ≤ va)
    && decide (va < spillBase g + 16 * spillRoom g)

/-- Take the value of one piece of the oldest read (13 R202); data that fails authentication is poisoned (28 R358). -/
def takePiece (s : State) (c slot : Nat) (x : Ctx) (g : Group) (e : REntry) (p : Piece) (q : Page) : State :=
  let pa := readPa s c x q
  let atHome := (List.range p.len).filter fun i =>
    (queueByte s x g e.seq (p.va + i) (q.pa + i)).isNone && (overlayByte s c (pa + i)).isNone
  let fromHome := atHome.any fun i => q.nc || (q.attic && g.podAcquired) || ((s.core c).copyByte (pa + i)).isNone
  let f := if fromHome then atticFetch s g q (lineOf pa) else (true, s)
  let s := f.2
  let rs := (List.range p.len).map fun i => readByte s c x g e.seq { q with pa := q.pa + i } (p.va + i) (pa + i)
  let bs := if inSpillArea s x.id p.va then (List.range p.len).map fun i => Config.freeByte (s.free * 256 + 8 * p.lane + i)
    else rs.map fun r => r.byte
  let bad := !f.1 || atHome.any fun i =>
    if q.nc || (q.attic && g.podAcquired) || ((s.core c).copyByte (pa + i)).isNone then poisonedMem s (pa + i) 1
    else (s.core c).copyPoisoned (pa + i)
  let s := if fromHome && !q.nc && f.1 then copyLine s c (lineOf pa) else s
  let s := noteSights s c slot p.lane (if q.repl then q.pa else pa) rs
  let s := modRead s c slot fun e => { e with acquire := e.acquire.map fun a => widerScope a (pageScope q) }
  gotPiece s c slot p bs bad

/-- Take the values of the pieces that lie in one aligned 8-byte word, so that lanes of one location agree (05 R66). -/
def takePieces (c slot : Nat) (x : Ctx) : List (Piece × Page) → State → State
  | [], s => finishIfDone s c slot
  | (p, q) :: r, s =>
    match s.group? c slot with
    | none => s
    | some g => match g.reads with
      | [] => s
      | e :: _ => takePieces c slot x r (takePiece s c slot x g e p q)

/-- Whether an acquire fence that holds a split comes before a read: what the acquire drops must go first, and at a fence.all the group's
earlier stores (13 R209, R212). -/
def behindFenceAll (g : Group) (e : REntry) : Bool :=
  g.splits.any fun sp => match sp.hold with
    | .fence n true _ => decide (n ≤ e.seq)
    | _ => false

/-- TAKE_VALUE (13 R202): piece `n` of the oldest read of a group that is not an atomic, and with it those of the same word. -/
def takeValue (s : State) (c slot n : Nat) : State :=
  match s.group? c slot with
  | none => s
  | some g =>
    match g.reads, s.ctx? g.ctx with
    | e :: _, some x =>
      if e.atom.isSome || behindFenceAll g e then s
      else match screen s c slot x g e 0 .load with
        | .used t => t
        | .good t ps =>
          match ps[n]? with
          | none => s
          | some (_, q) => takePieces c slot x (ps.filter fun r => r.2.pa / 8 == q.pa / 8) t
    | _, _ => s

/-! Atomics (05 R81, 13 R202). -/

/-- Whether an atomic on bytes of the home must wait: an earlier store of the group to them, or a write of the core that the
group has seen, is on its way (13 R202, R203). -/
def atomBlocked (s : State) (c : Nat) (x : Ctx) (g : Group) (e : REntry) (p : Piece) (q : Page) : Bool :=
  (List.range p.len).any fun i =>
    (queueByte s x g e.seq (p.va + i) (q.pa + i)).isSome
      || s.props.any fun r => r.core == c && !r.home
          && (r.slot == g.slot || (g.seen.any fun y => y.ref == .write c r.slot r.seq) || g.observed.contains (.write c r.slot r.seq))
          && r.bytes.any fun b => b.1 == q.pa + i

/-- Overwritten bytes of memory lose their poison (31 R380). -/
def cleanPoison (s : State) (pa n : Nat) : State := { s with memPoison := s.memPoison.filter fun k => k < pa || pa + n ≤ k }

/-- Write bytes at home, and through to an attic node, on an access's behalf: their poison ends (31 R380), and they are no release's any
more (13 R210). -/
def homeWrite (s : State) (pa : Nat) (bs : List Byte) : State := endSets (cleanPoison (s.homePoke pa bs) pa bs.length) pa bs.length

/-- What a write to a page goes on to from its home (13 R207). -/
def beyondOf (q : Page) : Beyond := if q.sys then .host else if q.attic then .node else .none

/-- Write cells at their home slice: an attic line's copy there takes them. -/
def homeCells (s : State) (cs : List Host.Cell) : State :=
  let t := { s with memPoison := s.memPoison.filter fun k => !(cs.any fun b => b.1 == k) }
  match cs with
  | [] => t
  | c :: _ => if isAttic c.1 then { t with attic := putLine (lineOf c.1) cs [] t.attic } else { t with mem := Memory.writeAll t.mem cs }

/-- What the host reads of bytes until it acknowledges a write of them (13 R207). -/
def hostPrev (s : State) (b : Beyond) (cs : List Host.Cell) : List Host.Cell :=
  if b = .host then cs.map fun k => (k.1, s.homeByte k.1) else []

/-- An atomic's write of a group made at its home, which may still have to go beyond it (13 R202, R207): a release whose value it read goes on
(R210). -/
def writeAtHome (s : State) (q : Page) (cs : List Host.Cell) (c slot seq : Nat) (owed : Option (Nat × DueTrap)) : State :=
  let t := homeCells s cs
  match beyondOf q with
  | .none => t
  | b => { t with props := t.props ++ [⟨c, slot, seq, cs, none, b, true, hostPrev s b cs, owed⟩] }

/-- The operand and new value of a lane of an atomic. -/
def REntry.operandOf (e : REntry) (l : Nat) : Nat × Nat :=
  match e.operands.find? fun o => o.1 == l with
  | none => (0, 0)
  | some o => (o.2.1.toNat, o.2.2.toNat)

/-- The trap a group owes for a piece of an atomic whose write an attic node refuses (28 R355). -/
def atomOwed (s : State) (c slot : Nat) (e : REntry) (p : Piece) : Option (Nat × DueTrap) := (s.group? c slot).map fun g =>
  (g.block, ⟨some (.gl, e.batch), none, false, e.split, .accessViolation, BitVec.ofNat 64 p.va, oneLane p.lane, e.opId⟩)

/-- The write of an atomic at its place (05 R81, R83): a REPL page's at the sequencer. -/
def atomWrite (s : State) (c slot : Nat) (x : Ctx) (e : REntry) (p : Piece) (q : Page) (new : List Byte) : State :=
  if q.repl then stampWrite s x q.rset (cellsOf q.pa new) [] (.group c slot e.seq)
  else writeAtHome s q (cellsOf q.pa new) c slot e.seq (atomOwed s c slot e p)

/-- The write of an atomic goes through to its attic node as a message of its own (28 R357). -/
def atomSeal (s : State) (x : Ctx) (q : Page) : Bool × State :=
  if q.attic then atticTrip s x.id q.key (atticPort q.pa) else (true, s)

/-- The place of an atomic reads its home; an attic line's copy there may have been lost (05 R80). -/
def atomFetch (s : State) (g : Group) (q : Page) : Bool × State := atticFetch s g q (lineOf q.pa)

/-- The read of an atomic at its home, with what the group has seen by it: it may be an acquire (13 R209, R210). -/
def atomSees (s : State) (c slot : Nat) (p : Piece) (q : Page) : State :=
  noteSights s c slot p.lane q.pa ((s.homeBytes q.pa p.len).zipIdx.map fun b =>
    ⟨b.1, releasesRead s c (q.pa + b.2) none b.1, beyondRefs s (q.pa + b.2)⟩)

/-- One lane of an atomic in one step at its place (05 R81): one that reads poison, or whose write fails to go out, writes nothing (11 R155, 28
R358). -/
def atomAt (s : State) (c slot : Nat) (x : Ctx) (e : REntry) (op : AtomOp) (p : Piece) (q : Page) : State :=
  let old := s.homeBytes q.pa p.len
  let s := atomSees s c slot p q
  if poisonedMem s q.pa p.len then gotPiece s c slot p old true
  else match atomSeal s x q with
  | (false, s) => gotPiece s c slot p old true
  | (true, s) =>
    let v := e.operandOf p.lane
    let new := bytesOf p.len (atomNew op (8 * p.len) (numOf old) v.1 v.2)
    gotPiece (dropLine (atomWrite s c slot x e p q new) c (lineOf (readPa s c x q))) c slot p old false

/-- Whether an atomic on a page is made in two halves with respect to the host (13 R220). -/
def twoHalves (q : Page) : Bool := !q.satom

/-- The read half of an atomic made in two halves: its value is kept (13 R220). One that reads poison is over: it writes nothing
(11 R155). -/
def readHalf (s : State) (c slot : Nat) (p : Piece) (q : Page) : State :=
  let old := s.homeBytes q.pa p.len
  let s := atomSees s c slot p q
  if poisonedMem s q.pa p.len then finishIfDone (gotPiece s c slot p old true) c slot
  else modRead s c slot fun e =>
    { e with half := true, got := e.got ++ (List.range old.length).filterMap fun i => old[i]?.map fun b => (p.lane, p.off + i, b) }

/-- The write half (13 R220); one that fails to go out writes nothing (28 R358). -/
def writeHalf (s : State) (c slot : Nat) (x : Ctx) (e : REntry) (op : AtomOp) (p : Piece) (q : Page) : State :=
  let old := numOf ((laneBytes e p.lane p.len).getD [])
  let v := e.operandOf p.lane
  match atomSeal s x q with
  | (false, s) => gotPiece (modRead s c slot fun e => { e with half := false }) c slot p [] true
  | (true, s) =>
    let t := atomWrite s c slot x e p q (bytesOf p.len (atomNew op (8 * p.len) old v.1 v.2))
    gotPiece (modRead (dropLine t c (lineOf (readPa s c x q))) c slot fun e => { e with half := false }) c slot p [] false

/-- ATOMIC_STEP (13 R202): the lowest lane left of the oldest access of a group, an atomic. -/
def atomicStep (s : State) (c slot : Nat) : State :=
  match s.group? c slot with
  | none => s
  | some g =>
    match g.reads, s.ctx? g.ctx with
    | e :: _, some x =>
      match e.atom with
      | none => s
      | some op =>
        match screen s c slot x g e 2 .atomic with
        | .used t => t
        | .good _ [] => s
        | .good t ((p, q) :: _) =>
          if atomBlocked s c x g e p q || behindFenceAll g e then s
          else if e.half then finishIfDone (writeHalf t c slot x e op p q) c slot
          else match atomFetch t g q with
            | (false, u) => finishIfDone (gotPiece u c slot p (u.homeBytes q.pa p.len) true) c slot
            | (true, u) => if twoHalves q then readHalf u c slot p q else finishIfDone (atomAt u c slot x e op p q) c slot
    | _, _ => s

/-! Leaving the queue (13 R202, R208). -/

/-- Whether a fence.acq or fence.all that holds a split comes before a store and its reads have not all been valued (13 R209, R212). -/
def behindAcquire (g : Group) (e : QEntry) : Bool :=
  (g.reads.any fun r => r.seq < e.seq && r.acquire.isSome)
    || g.splits.any fun sp => match sp.hold with
      | .fence n true _ => decide (n ≤ e.seq) && !readsValued g n
      | _ => false

/-- Whether what a store orders is performed at a scope (13 R208). -/
def orderedBefore (s : State) (c : Nat) (g : Group) (e : QEntry) (sc : Scope) : Bool :=
  let p := performedScope s g sc
  p = .group || (readsValued g e.seq && writesPerformed s c g e.seq p)

/-- The scope a store is a release at, GROUP if it is none (13 R208). -/
def QEntry.scope (e : QEntry) : Scope := widerScope (e.release.getD .group) (e.fenced.getD .group)

/-- Whether the oldest store of a group may leave its queue (13 R202, R208, R209). -/
def mayLeave (s : State) (c : Nat) (g : Group) (e : QEntry) : Bool :=
  !e.writes.isEmpty && e.fault == .clear && !behindAcquire g e && orderedBefore s c g e e.scope

/-- The pages of a lane's store, or why it has none, with the faulting address. -/
def placeWrites (c : Nat) (x : Ctx) : State → List (Nat × Nat × List Byte) →
    List ((Nat × Nat × List Byte) × Except (XErr × Nat) (List (Page × Nat))) × State
  | s, [] => ([], s)
  | s, w :: r =>
    let t := placeSpans (.core c) x .store s (spansOf w.2.1 w.2.2.length)
    let u := placeWrites c x t.2 r
    ((w, t.1) :: u.1, u.2)

/-- Seal the parts of a store that go to attic nodes: whether each does and is acknowledged (28 R357, R358). -/
def sealPages (ctx : Nat) : State → List (Page × Nat) → Bool × State
  | s, [] => (true, s)
  | s, (p, _) :: r =>
    if p.attic then match atticTrip s ctx p.key (atticPort p.pa) with
      | (true, t) => sealPages ctx t r
      | (false, t) => (false, t)
    else sealPages ctx s r

/-- Seal the lanes of a store: one that fails is as one whose address nothing answers (28 R358). -/
def sealWrites (ctx : Nat) : State → List ((Nat × Nat × List Byte) × Except (XErr × Nat) (List (Page × Nat))) →
    List ((Nat × Nat × List Byte) × Except (XErr × Nat) (List (Page × Nat))) × State
  | s, [] => ([], s)
  | s, (w, .error k) :: r => let u := sealWrites ctx s r; ((w, .error k) :: u.1, u.2)
  | s, (w, .ok ps) :: r =>
    let t := sealPages ctx s ps
    let u := sealWrites ctx t.2 r
    ((w, if t.1 then .ok ps else .error (.unresolved, w.2.1)) :: u.1, u.2)

/-- A byte that a lane stores: its page, its physical cell and the lane. -/
abbrev LaneCell := Page × Host.Cell × Nat

/-- The physical cells of a lane's store. -/
def placedCells (lane : Nat) : List (Page × Nat) → List Byte → List LaneCell
  | [], _ => []
  | (p, n) :: r, bs => ((cellsOf p.pa (bs.take n)).map fun c => (p, c, lane)) ++ placedCells lane r (bs.drop n)

/-- The surviving cells of an entry, later lanes over earlier ones, and over none that a higher lane has already written (05 R66). -/
def survivors (written : List (Nat × Nat)) (cs : List LaneCell) : List LaneCell :=
  (cs.foldl (fun l c => l.filter (fun d => d.2.1.1 != c.2.1.1) ++ [c]) []).filter fun c =>
    !(written.any fun w => w.1 == c.2.1.1 && decide (c.2.2 < w.2))

/-- The cells of one aligned 8-byte word after another, in the order they first occur. -/
def groupWords (cs : List LaneCell) : List (Page × List Host.Cell) :=
  (cs.map fun c => c.2.1.1 / 8).eraseDups.map fun k =>
    let mine := cs.filter fun c => c.2.1.1 / 8 == k
    (((mine.head?.map Prod.fst).getD ⟨0, false, false, false, false, 0, false, 0, false⟩), mine.map fun c => c.2.1)

/-- Start the propagations of an entry's bytes (13 R202); REPL bytes go to their sequencer (05 R83). -/
def propagate (s : State) (c slot : Nat) (ctx seq : Nat) (owed : Page × List Host.Cell → Option (Nat × DueTrap))
    (ws : List (Page × List Host.Cell)) : State :=
  { s with props := s.props ++ ws.map fun w =>
      ⟨c, slot, seq, w.2, if w.1.repl then some (ctx, w.1.rset) else none, beyondOf w.1, false, [], owed w⟩ }

/-- The trap a group owes for bytes of a store that an attic node refuses (28 R355). -/
def storeOwed (g : Group) (e : QEntry) (cells : List LaneCell) (w : Page × List Host.Cell) : Option (Nat × DueTrap) :=
  if !w.1.attic then none
  else
    let lanes := maskOf ((cells.filter fun k => w.2.any fun b => b.1 == k.2.1.1).map fun k => k.2.2)
    let va := ((e.writes.find? fun q => q.1 == lowestLane lanes).map fun q => q.2.1).getD 0
    some (g.block, ⟨none, none, true, e.split, .accessViolation, BitVec.ofNat 64 va, lanes, e.born⟩)

/-- The bytes of a store that has left enter the core's view, but those of uncached and of replicated pages (13 R202, 05 R83). -/
def enterView (s : State) (c : Nat) (ws : List (Page × List Host.Cell)) : State :=
  s.modCore c fun y => { y with view := ws.foldl (fun v w =>
    if w.1.nc || w.1.repl then v else putLine (lineOf ((w.2.head?.map Prod.fst).getD 0)) w.2 [] v) y.view }

/-- The lanes of a store that fault, with the lowest faulting address of the lowest lane. -/
def badLanes (rs : List ((Nat × Nat × List Byte) × Except (XErr × Nat) (List (Page × Nat)))) (want : XErr → Bool) :
    List (Nat × XErr × Nat) :=
  rs.filterMap fun r => match r.2 with
    | .error (k, va) => if want k then some (r.1.1, k, va) else none
    | .ok _ => none

/-- A store that has left with its widest scope so far: a capped release is counted once, a release at POD or wider is noted, and its
ordered-before set is kept for those that read what a lane of it wrote (13 R208, R210, R216, 14 R222). -/
def released (s : State) (c slot : Nat) (g : Group) (e : QEntry) (sc : Scope) (cells : List LaneCell) : State :=
  let s := if e.release.isSome && !e.counted && sc == .system then (capScope s c slot g sc e.pc).2 else s
  let at_ := performedScope s g (widerScope sc (e.fenced.getD .group))
  if e.scope = .group then s
  else
    let ws := beforeSet s c g e.seq
    let s := if 5 ≤ scopeRank sc then s.modGroup c slot fun g => { g with podReleased := true } else s
    e.writes.foldl (fun s w =>
      let mine := (cells.filter fun k => k.2.2 == w.1).map fun k => k.2.1
      if mine.length = w.2.2.length then keepSet s c at_ (some (slot, e.seq)) mine none ws else s) s

/-- The scope that the leaf of an address gives a release, whatever keeps the access from it (11 R154; log 18). -/
def leafScope (s : State) (x : Ctx) (va : Nat) : Scope :=
  match walk s x va with
  | .ok (_, pte) => if bit pte 5 then .system else if bit pte 51 then .pod else .package
  | .error _ => .package

/-- The places of a store, unless it was pending on the port of one when the port's link failed (28 R356). -/
def refuseCuts (s : State) (born va : Nat) : Except (XErr × Nat) (List (Page × Nat)) → Except (XErr × Nat) (List (Page × Nat))
  | .ok ps => if ps.any fun p => cutOff s p.1.pa born then .error (.unresolved, va) else .ok ps
  | .error k => .error k

/-- LEAVE (13 R202): the oldest store of a group enters the core's view and its propagations start. Lanes that fault stay with
one fault record; lanes without an address owe a trap, and the entries behind are discarded (05 R78). Lanes of REPL pages stay until their
die's copy has applied them (05 R83). -/
def leave (s : State) (c slot : Nat) : State :=
  match s.group? c slot with
  | none => s
  | some g =>
    match g.queue, s.ctx? g.ctx with
    | e :: rest, some x =>
      if !mayLeave s c g e then s
      else
        let r := placeWrites c x s e.writes
        let r := (r.1.map fun p => (p.1, refuseCuts s e.born p.1.2.1 p.2), r.2)
        let r := sealWrites x.id r.2 r.1
        let ok := r.1.filterMap fun p => match p.2 with | .ok ps => some (p.1, ps) | .error _ => none
        let cells := survivors e.written (ok.flatMap fun p => placedCells p.1.1 p.2 p.1.2.2)
        let words := groupWords cells
        let wide := (e.writes.flatMap fun w => spansOf w.2.1 w.2.2.length).foldl (fun a p => widerScope a (leafScope s x p.1))
          (e.release.getD .group)
        let scope := if e.release.isSome then wide else .group
        let lost := badLanes r.1 fun k => k == .unresolved
        let faults := badLanes r.1 fun k => k != .unresolved
        let posted : Option (AccessFault × State) := match faults with
          | [] => some (.clear, r.2)
          | (l, k, va) :: fs =>
            let cause := match k with | .fault n => n | .unresolved => 0
            match postFault r.2 x va (groupSource c slot) 1 cause (maskOf (l :: fs.map Prod.fst)) 0 (timeOf s g) (.store c slot e.seq) with
            | (none, _) => none
            | (some n, t) => some (.waiting n, t)
        if !orderedBefore s c g e scope then s
        else match posted with
        | none => s
        | some (fault, t) =>
          let t := released t c slot g e scope cells
          let t := enterView (propagate t c slot x.id e.seq (storeOwed g e cells) words) c words
          let stay := faults.filterMap fun f => e.writes.find? fun w => w.1 == f.1
          let gone := (ok.filter fun p => p.2.any fun q => q.1.repl).map Prod.fst
          let left : QEntry :=
            { e with writes := stay, away := e.away ++ gone, fault := fault, release := e.release.map fun _ => scope,
                     written := e.written ++ cells.map fun p => (p.2.1.1, p.2.2),
                     counted := e.counted || scope == .system }
          let head : List QEntry := if stay.isEmpty && left.away.isEmpty then [] else [left]
          let due : List DueTrap := match lost with
            | [] => []
            | (l, _, va) :: ls => [⟨none, none, true, e.split, .accessViolation, BitVec.ofNat 64 va, maskOf (l :: ls.map Prod.fst), e.born⟩]
          t.modGroup c slot fun g => { g with queue := head ++ (if lost.isEmpty then rest else []), due := g.due ++ due }
    | _, _ => s

/-- The line of a propagation. -/
def Propagation.line (p : Propagation) : Option Nat := p.bytes.head?.map fun b => lineOf b.1

/-- Whether a propagation may arrive: every earlier one from its core to its line has, but for the pieces of its own store to other words
(05 R66, 13 R202, R213); at home, the earlier ones of its line have gone on. -/
def mayArrive (s : State) (n : Nat) (p : Propagation) : Bool :=
  !((s.props.take n).any fun q => q.line == p.line && q.home == p.home
    && (p.home || (q.core == p.core
      && !(q.slot == p.slot && q.seq == p.seq && !(q.bytes.any fun b => p.bytes.any fun k => k.1 == b.1)))))

/-- The fabric port of a write through to an attic node (28 R355). -/
def Propagation.port (p : Propagation) : Nat := atticPort ((p.bytes.head?.map Prod.fst).getD 0)

/-- A write that the attic node refuses: its group owes a trap at the access's suspension point (28 R355). -/
def oweRefused (s : State) (p : Propagation) : State :=
  match p.owed with
  | none => s
  | some (b, d) => s.modGroup p.core p.slot fun g => if g.block = b then { g with due := g.due ++ [d] } else g

/-- PROPAGATION_ARRIVE (13 R202): the write is appended to its bytes' coherence order at home; one that goes on is then written through to
the attic node, which refuses it where the port's link is not up (28 R356), or acknowledged by the host (R207). -/
def arriveProp (s : State) (n : Nat) : State :=
  match s.props[n]? with
  | none => s
  | some p =>
    if p.repl.isSome || !mayArrive s n p then s
    else
      let t := { s with props := removeAt n s.props }
      if p.home then
        if p.beyond != .node then t
        else if portUp s p.port then { t with mem := Memory.writeAll t.mem p.bytes }
        else oweRefused t p
      else
        let prev := hostPrev t p.beyond p.bytes
        let t := arriveSets (homeCells t p.bytes) p.core p.slot p.seq (p.bytes.map Prod.fst)
        if p.beyond = .none then t else { t with props := t.props ++ [{ p with home := true, prev := prev }] }

/-! Replica sets (05 R83). -/

/-- The lanes of a REPL entry leave its queue once its own die's copy, or the sequencer's for a non-member, has applied them (05 R83). -/
def retireRepl (s : State) (ctx core slot seq : Nat) : State :=
  match s.group? core slot with
  | none => s
  | some g =>
    let flying := s.props.any fun p => p.core == core && p.slot == slot && p.seq == seq && p.repl.isSome
    let waiting := (stampedOf s ctx).any fun p => p.2.core == core && p.2.slot == slot && p.2.seq == seq && p.2.die == Config.dieOf core
    if flying || waiting || !(g.queue.any fun e => e.seq == seq && !e.away.isEmpty) then s
    else s.modCore core fun x =>
      Core.modGroup { x with view := [] } slot fun g =>
        let q : List QEntry := g.queue.map fun e => if e.seq = seq then { e with away := [] } else e
        { g with queue := q.filter fun e => !(e.writes.isEmpty && e.away.isEmpty) }

/-- REPLICA_STAMP (05 R83): a REPL write reaches its sequencer. Where the set can no longer be read, the write takes its stamp and every
member fails to apply it, which is reported. -/
def replicaStamp (s : State) (n : Nat) : State :=
  match s.props[n]? with
  | none => s
  | some p =>
    match p.repl with
    | none => s
    | some (ctx, rset) =>
      match s.ctx? ctx with
      | none => s
      | some x =>
        if !mayArrive s n p then s
        else
          let t := { s with props := removeAt n s.props }
          retireRepl (match replicaOf t x rset with
            | some _ => stampWrite t x rset p.bytes [] (.group p.core p.slot p.seq)
            | none =>
              let k := stampOf t x.id rset + 1
              postEvent (modReplica t ctx rset fun r => { r with stamp := k }) ctx .replica 0xFFFF rset k noSource) ctx p.core p.slot p.seq

/-- The copies in the views of a die's cores of bytes that a stamped write of an engine has reached are behind it (13 R211, R217). -/
def passMember (s : State) (die : Nat) (cs : List Host.Cell) : State :=
  { s with cores := s.cores.map fun y => if Config.dieOf y.index = die then
      { y with view := y.view.map fun v => if (cs.any fun c => lineOf c.1 == v.line) then { v with behind := true } else v } else y }

/-- REPLICA_APPLY (05 R83): a member copy applies its next stamped write; one that cannot is reported. -/
def replicaApply (s : State) (ctx rset die : Nat) : State :=
  match s.ctx? ctx, s.replicas.find? fun r => r.ctx == ctx && r.rset == rset with
  | some x, some r =>
    match r.pending.find? fun p => p.die == die with
    | none => s
    | some p =>
      let s := modReplica s ctx rset fun r => { r with pending := r.pending.erase p }
      match replicaOf s x rset with
      | none => retireRepl (postEvent s ctx .replica 0xFFFF rset p.stamp noSource) ctx p.core p.slot p.seq
      | some d =>
        let cs := p.bytes.map fun b => (copyPlace d die b.1, b.2)
        let s := s.putCells cs (p.bad.map fun a => copyPlace d die a)
        retireRepl (if p.op.isSome then passMember s die cs else s) ctx p.core p.slot p.seq
  | _, _ => s

/-! The host (13 R220). -/

/-- A host access observed between the halves of an atomic on its line (13 R220). -/
def snoopRaces (s : State) (pa n : Nat) : State :=
  s.cores.foldl (fun s x => x.groups.foldl (fun s g =>
    match g.reads, s.ctx? g.ctx with
    | e :: _, some ctx =>
      match e.half, e.pieces with
      | true, p :: _ =>
        match peekPa s ctx p.va with
        | some q => if lineOf pa ≤ lineOf q && lineOf q ≤ lineOf (pa + n - 1)
            then postEvent s g.ctx .atomicRace 0xFFFF 0 p.va (groupSource x.index g.slot) else s
        | none => s
      | _, _ => s
    | _, _ => s) s) s

/-- The read halves that agents and chaining engines have made of signals and bitmaps, with their contexts (13 R220, 26 R338, R348). -/
def agentHalves (s : State) : List (Nat × Nat × EventSource) :=
  (s.queues.flatMap fun q => (q.started.filter fun k => k.half.isSome).map fun k =>
    (q.ctx, if k.type = 4 then k.ptr else k.sig.getD 0, chainSource q.id))
    ++ s.cores.flatMap fun y => (y.blocks.filter fun k => k.half.isSome).filterMap fun k =>
      (if k.marked || k.rec_.bitmap == 0 then ((k.launchId.bind fun n => s.launch? n).bind fun l => l.sig) else some (k.rec_.bitmap + k.blockIndex / 8)).map
        fun va => (k.ctx, va, (Config.dieOf y.index, Config.clusterOf y.index, Config.coreOf y.index, 0xFF))

/-- A host access observed between the halves of an agent's atomic on its line (13 R220). -/
def agentRaces (s : State) (pa n : Nat) : State :=
  (agentHalves s).foldl (fun s h =>
    match (s.ctx? h.1).bind fun x => peekPa s x h.2.1 with
    | some q => if lineOf pa ≤ lineOf q && lineOf q ≤ lineOf (pa + n - 1) then postEvent s h.1 .atomicRace 0xFFFF 0 h.2.1 h.2.2 else s
    | none => s) s

/-- A byte as the host reads it: a write that it has not acknowledged is not seen by it yet (13 R207). -/
def hostByte (s : State) (pa : Nat) : Byte :=
  ((s.props.findSome? fun p => p.prev.find? fun k => k.1 == pa).map Prod.snd).getD (s.homeByte pa)

/-- The bytes that the host itself writes hide what it has not acknowledged of them. -/
def hostWrote (s : State) (pa n : Nat) : State :=
  { s with props := s.props.map fun p => { p with prev := p.prev.filter fun k => k.1 < pa || pa + n ≤ k.1 } }

/-- A host access at the line's home slice (13 R220). -/
def hostAccessAt (s : State) (a : HostAccess) : State :=
  match a with
  | .read pa n => (agentRaces (snoopRaces s pa n) pa n).modDev fun d => { d with hostData := (List.range n).map fun i => hostByte s (pa + i) }
  | .write pa bs => hostWrote (homeWrite (agentRaces (snoopRaces s pa bs.length) pa bs.length) pa bs) pa bs.length

end Sys2Proof.Machine
end

