-- ==== Sys2Proof/Machine/Fetch.lean ====
section
/-! DEFINITION. Fetching an instruction (05_memory R76, R78, 09_encoding R99). -/

namespace Sys2Proof.Machine

/-- The bytes of an instruction from memory, as its word. -/
def wordAt (s : State) (pa : Nat) : Word :=
  wordOfBytes (s.homeByte pa) (s.homeByte (pa + 1)) (s.homeByte (pa + 2)) (s.homeByte (pa + 3))

/-- Whether a group decodes as a service group (22 R294). -/
def inService (g : Group) : Bool := !g.service.isEmpty

/-- What fetching a split's next instruction comes to. -/
inductive Fetched where
  | word (w : Word) (s : State)
  | fault (cause : Nat) (s : State)
  | lost (s : State)

/-- Fetch the word at an address of a context for a core: replica reads use its die's copy. From an attic page it may come from what has been
fetched before, which is free, else it is sealed traffic (28 R357; log 84). -/
def fetch (s : State) (c : Nat) (x : Ctx) (pc : PC) : Fetched :=
  match translateR s (.core c) x .fetch pc.toNat with
  | (.error (.fault k), t) => .fault k t
  | (.error .unresolved, t) => .lost t
  | (.ok p, t) =>
    let kept := t.coin
    match if !p.attic then (true, t) else if kept.1 then kept else sealPage kept.2 x.id p with
    | (true, u) => .word (wordAt u (readPa u c x p)) u
    | (false, u) => .lost u

/-- The pipe of a word's set: 0 lane, 1 uniform (09 R102). -/
def pipeOf (w : Word) : Nat := w.toNat / 2 ^ 31

/-- The pipe of a split's next instruction as it would be fetched; the lane pipe if it has none. -/
def nextPipe (s : State) (c : Nat) (g : Group) (sp : Split) : Nat :=
  match s.ctx? g.ctx with
  | none => 0
  | some x =>
    match fetch s c x sp.pc with
    | .word w _ => pipeOf w
    | _ => 0

end Sys2Proof.Machine
end

