-- ==== Sys2Proof/Machine/Control.lean ====
section
/-! DEFINITION. Branches, calls, joins and control (03 R33 to R41, 12_uniform R161, R164 to R168, R174, R187, R188). -/

namespace Sys2Proof.Machine

/-! Branches and calls. -/

/-- A trace event of the issuer on the uniform pipe, with its stream at an address. -/
def noteUni (s : State) (w : Issuer) (pc : PC) (m : Mask) (k : TraceKind) : State := note s ⟨w.c, w.slot, 1, w.idx, w.sp.pc, w.sp.mask, pc, m, k⟩

/-- The address of a PC-relative target, or the trap (12 R161). DESIGN CHOICE (log 67): BR and BRD check it also where the branch is
not taken. -/
def toTarget (s : State) (w : Issuer) (t : Int) (go : PC → State) : State :=
  if targetOk t then go (targetPc t) else trapAll s w .accessViolation (BitVec.ofInt 64 t)

/-- The address a register names, or the trap (12 R161). -/
def toRegister (s : State) (w : Issuer) (v : DWord) (go : PC → State) : State :=
  if v.toNat % 4 ≠ 0 then trapAll s w .misaligned v
  else if highVa v.toNat then trapAll s w .accessViolation v
  else go (v.setWidth 57)

/-- The test of a BR condition (09 R109). -/
def brTest (c : BCond) (a : DWord) : Bool :=
  match c with
  | .always => true
  | .eq => a == 0
  | .ne => a != 0
  | .lt => decide (a.toInt < 0)
  | .le => decide (a.toInt ≤ 0)
  | .gt => decide (0 < a.toInt)
  | .ge => decide (0 ≤ a.toInt)

/-- BR (12 R164). -/
def execBr (c : BCond) (a : GReg) (o : BitVec 16) (s : State) : Host.Outcome State Fault Refusal :=
  uniIssue s (.br c a o) false [] (readsG [a]) fun w =>
    toTarget s w (branchTarget w.sp.pc 16 o) fun t =>
      let taken := brTest c (uniG s w a)
      let next := if taken then t else nextPc w
      let s := if c = .always then s else noteUni s w next w.sp.mask (.bit taken)
      retire s w next 1

/-- A split whose lanes agree moves as a whole (03 R34). -/
def moveWhole (s : State) (w : Issuer) (taken : Bool) (t : PC) : State :=
  let next := if taken then t else nextPc w
  retire (noteUni s w next w.sp.mask (.bit taken)) w next 1

/-- The lanes that do not take a branch stay in the split, which keeps its index (03 R34). -/
def keepLanes (s : State) (w : Issuer) (kept : Mask) : State :=
  (retire s w (nextPc w) 1).modSplit w.c w.slot w.idx fun sp => { sp with mask := kept }

/-- The split divides: the taken lanes form a split, or a DEFER entry when four are in use (03 R34, 12 R165). DESIGN CHOICE (log 67):
the new split takes the pass-over count the parent had before this issue returns it to 0. -/
def divide (s : State) (w : Issuer) (taken : Mask) (t : PC) : State :=
  let kept := w.sp.mask &&& ~~~taken
  match w.g.freeIdx with
  | some i =>
    let s := keepLanes s w kept
    let s := s.modMine w fun g => g.setSplit (newSplit i t taken w.sp.passOver)
    let s := s.modSplit w.c w.slot i fun sp => { sp with tried := true }
    note (noteUni s w (nextPc w) kept (.mask 0 kept)) ⟨w.c, w.slot, 1, i, t, taken, t, taken, .sync⟩
  | none =>
    match pushEntry s w.c w.slot w.idx ⟨.defer, t, taken, 0, false⟩ with
    | .ok u => noteUni (keepLanes u w kept) w (nextPc w) kept (.mask 0 kept)
    | .overflow va => trapAll s w .stackOverflow (BitVec.ofNat 64 va)
    | .violation va => trapAll s w .accessViolation (BitVec.ofNat 64 va)
    | .faulted u => holdIt u w .faultSuspension

/-- BRD (12 R165). DESIGN CHOICE (log 67): the target is checked before the mask is looked at, so `brd.not k0` and a branch that no
lane takes trap on a target out of range (12 R161). -/
def execBrd (k : KReg) (i : Fin 2) (o : BitVec 22) (s : State) : Host.Outcome State Fault Refusal :=
  uniIssue s (.brd k i o) false [] (fun w => srcK true w.sp.mask k) fun w =>
    toTarget s w (branchTarget w.sp.pc 22 o) fun t =>
      let v := maskK s w true k
      let taken := w.sp.mask &&& (if i.val = 0 then v else ~~~v)
      if taken = 0 then moveWhole s w false t
      else if taken = w.sp.mask then moveWhole s w true t
      else divide s w taken t

/-- The link register of calls (12 R166). -/
def link (s : State) (w : Issuer) : State := putG s w 63 ((nextPc w).setWidth 64)

/-- Jump to an address, with its SYNC (29 R377). -/
def jumpTo (s : State) (w : Issuer) (t : PC) : State := noteUni (retire s w t 1) w t w.sp.mask .sync

/-- CALL (12 R166): it writes no trace packet (29 R377). -/
def execCall (o : BitVec 26) (s : State) : Host.Outcome State Fault Refusal :=
  uniIssue s (.call o) false [] (fun _ => []) fun w =>
    toTarget s w (branchTarget w.sp.pc 26 o) fun t => retire (link s w) w t 1

/-- JMPI (12 R166). -/
def execJmpi (a : GReg) (s : State) : Host.Outcome State Fault Refusal :=
  uniIssue s (.jmpi a) false [] (readsG [a]) fun w => toRegister s w (uniG s w a) fun t => jumpTo s w t

/-- CALLI (12 R166). -/
def execCalli (a : GReg) (s : State) : Host.Outcome State Fault Refusal :=
  uniIssue s (.calli a) false [] (readsG [a]) fun w => toRegister s w (uniG s w a) fun t => jumpTo (link s w) w t

/-- RET (12 R166). -/
def execRet (s : State) : Host.Outcome State Fault Refusal :=
  uniIssue s .ret false [] (readsG [63]) fun w => toRegister s w (uniG s w 63) fun t => jumpTo s w t

/-- PJOIN (12 R167): the label is taken modulo 2^57, since it is not checked. -/
def execPjoin (o : BitVec 26) (s : State) : Host.Outcome State Fault Refusal :=
  uniIssue s (.pjoin o) false [] (fun _ => []) fun w =>
    match pushEntry s w.c w.slot w.idx ⟨.join, targetPc (branchTarget w.sp.pc 26 o), w.sp.mask, 0, false⟩ with
    | .ok u => done u w
    | .overflow va => trapAll s w .stackOverflow (BitVec.ofNat 64 va)
    | .violation va => trapAll s w .accessViolation (BitVec.ofNat 64 va)
    | .faulted u => holdIt u w .faultSuspension

/-! Parking and filling (03 R35 to R37). -/

/-- A split at its governing JOIN entry parks; the split that covers it resumes with the entry's mask (03 R35, R36). -/
def parkGroup (g : Group) (sp : Split) (i : Nat) (e : SEntry) : Group :=
  let e := { e with arrived := e.arrived ||| sp.mask }
  let g := { g with stack := modifyAt (fun _ => e) i g.stack }
  if e.covered then
    let g := { g with stack := popCovered g.stack i }
    if e.mask = 0 then g.dropSplit sp.idx else g.modSplit sp.idx fun sp => { sp with mask := e.mask }
  else g.dropSplit sp.idx

/-- The JOIN entry a split would park at, with its place (03 R35). -/
def parkPoint (g : Group) (sp : Split) : Option (Nat × SEntry) :=
  match governing g.stack sp.mask with
  | none => none
  | some i =>
    match g.stack[i]? with
    | none => none
    | some e => if e.pc = sp.pc then some (i, e) else none

/-- SPLIT_PARK (03 R35): a selected split at the address of its governing JOIN entry parks instead of issuing. -/
def execSplitPark (core slot split : Nat) (s : State) : Host.Outcome State Fault Refusal :=
  .next (match s.group? core slot with
  | none => s
  | some g =>
    match g.split? split with
    | none => s
    | some sp =>
      match parkPoint g sp with
      | none => s
      | some (i, e) =>
        let pipe := nextPipe s core g sp
        let arrived := e.arrived ||| sp.mask
        let t := note s ⟨core, slot, pipe, split, sp.pc, sp.mask, sp.pc, sp.mask, .mask 2 arrived⟩
        let t := t.modGroup core slot fun g => parkGroup g sp i e
        let t := t.modSplit core slot split fun sp => { sp with tried := true }
        mirrorSpill (if arrived = e.mask then noteSync t core slot pipe split else t) g.stack core slot split)

/-- The entry that fills a free split at the end of a cycle: the topmost covered JOIN, else the topmost DEFER (03 R37). -/
def fillChoice (stack : List SEntry) : Option Nat :=
  let live := aboveTrap stack
  match live.findIdx? fun e => e.covered with
  | some i => some i
  | none => live.findIdx? fun e => e.kind == .defer

/-- STACK_FILL (03 R37). -/
def execStackFill (core slot : Nat) (s : State) : Host.Outcome State Fault Refusal :=
  .next (match s.group? core slot with
  | none => s
  | some g =>
    match g.freeIdx, fillChoice g.stack with
    | some n, some i =>
      match g.stack[i]? with
      | none => s
      | some e =>
        let st := if e.kind = .join then popCovered g.stack i else removeAt i g.stack
        let t := s.modGroup core slot fun g => { g with stack := st }.setSplit (newSplit n e.pc e.mask 0)
        mirrorSpill (noteSync t core slot 2 n) g.stack core slot n
    | _, _ => s)

/-! CTRL (12 R168). -/

/-- NOP (12 R168): it counts n + 1 positions for an encoded n. -/
def execNop (n : Fin 64) (s : State) : Host.Outcome State Fault Refusal :=
  uniIssue s (.nop n) false [] (fun _ => []) fun w => retire s w (nextPc w) (n.val + 1)

/-- Lanes leave every mask of a group's splits and stack (03 R39). -/
def dropLanes (g : Group) (m : Mask) : Group :=
  let st := g.stack.map fun e => { e with mask := e.mask &&& ~~~m, arrived := if e.kind = .join then e.arrived &&& ~~~m else e.arrived }
  let st := st.filter fun e => e.kind == .join || e.mask != 0
  { g.forget m with live := g.live &&& ~~~m, stack := dropEmptyJoins st.length st,
                    splits := g.splits.map fun sp => { sp with mask := sp.mask &&& ~~~m } }

/-- A group ends with its last live lane (03 R30). -/
def endIfDead (g : Group) : Group :=
  if g.live = 0 then { g with splits := [], stack := [] } else g

/-- The executing split's lanes end, and with them may the group (03 R30, R39). -/
def exitLanes (g : Group) (idx : Nat) (m : Mask) : Group := endIfDead ((dropLanes g m).dropSplit idx)

/-- The lowest-numbered block of the issuer's cluster instance: none once it has ended, at a phase of its barrier beyond 0 (log 63). -/
def lowestMember (s : State) (w : Issuer) : Option (Nat × Block) :=
  ((blockOf w).bind fun b => b.unit).bind fun u => lowestOf s u

/-- The cluster-remote address of an exit barrier (03 R56). -/
def exitBarrierAddr (c off : Nat) : Nat := 2 ^ 28 + 2 ^ 24 * Config.coreOf c + off

/-- The CLUSTER_EXIT check: the exit barrier's address while its phase is 0 (03 R56). -/
def clusterExit (s : State) (w : Issuer) : Option Nat :=
  match lowestMember s w with
  | none => none
  | some (c, b) =>
    let off := exitBarrierOff b.rec_
    if (objAt s ⟨c, b.spbase + off⟩).phase = 0 then some (exitBarrierAddr c off) else none

/-- EXIT (12 R168, 03 R39): a suspension point of stores. DESIGN CHOICE (log 67): in a service group of a cluster block EXIT does not
meet the CLUSTER_EXIT check. -/
def execExit (s : State) : Host.Outcome State Fault Refusal :=
  uniIssue s .exit false [] (fun _ => []) fun w =>
    storePoint s w
      (match if inService w.g then none else clusterExit s w with
      | some a => trapAll s w .clusterExit (BitVec.ofNat 64 a)
      | none =>
        let t := s.modMine w fun g => exitLanes (g.pass s.cycle w.sp.mask 1) w.idx w.sp.mask
        mirrorSpill (noteUni t w w.sp.pc w.sp.mask (.mask 4 (w.g.live &&& ~~~w.sp.mask))) w.g.stack w.c w.slot w.idx)

/-- TRAP (12 R168): the trap resumes at PC + 4. -/
def execTrap (c : Fin 64) (s : State) : Host.Outcome State Fault Refusal :=
  uniIssue s (.trap c) false [] (fun _ => []) fun w => takeTrap s w.c w.slot w.idx .software (nextPc w) 0 w.sp.mask c.val

/-- RETT (12 R174). -/
def execRett (s : State) : Host.Outcome State Fault Refusal :=
  uniIssue s .rett false [] (fun _ => []) fun w =>
    match returnFromTrap (w.g.pass s.cycle w.sp.mask 1) with
    | none => trapAll s w .illegalOp (wordOf .rett)
    | some g =>
      let g : Group := { g with splits := g.splits.map fun (sp : Split) => { sp with tried := true } }
      let t := g.splits.foldl (fun t sp => noteSync t w.c w.slot 1 sp.idx) (s.modMine w fun _ => g)
      mirrorSpill t w.g.stack w.c w.slot (((g.splits.head?).map fun sp => sp.idx).getD 0)

/-- BRK (12 R168, 29 R370): with a debugger attached the context halts at the end of the cycle. -/
def execBrk (s : State) : Host.Outcome State Fault Refusal :=
  uniIssue s .brk false [] (fun _ => []) fun w =>
    if ((s.ctx? w.g.ctx).map fun x => x.attached).getD false then
      (done s w).modCtx w.g.ctx fun x => { x with stopping := x.stopping ++ [(1, w.sp.pc.toNat, some (w.c, w.slot))] }
    else takeTrap s w.c w.slot w.idx .breakpoint (nextPc w) 0 w.sp.mask 0

/-- YIELD (12 R168). -/
def execYield (s : State) : Host.Outcome State Fault Refusal :=
  uniIssue s .yield false [] (fun _ => []) fun w => blockIt (done s w) w .yield

/-- YIELD_EXPIRY (12 R168): the split has been held for the next 16 cycles. -/
def execYieldExpiry (core slot split : Nat) (s : State) : Host.Outcome State Fault Refusal :=
  .next (s.modSplit core slot split fun sp => if sp.hold = .yield ∧ 17 ≤ sp.heldFor then { sp with hold := .none, heldFor := 0 } else sp)

/-- ILLEGAL_OP (09 R100): the issue of a word that is no instruction. -/
def execIllegalOp (w : BitVec 32) (s : State) : Host.Outcome State Fault Refusal :=
  onIssuer s fun i => trapAll s i .illegalOp (w.setWidth 64)

/-! Events of a program (12 R187, R188). -/

/-- EVENT (12 R187). -/
def execEvent (a b : GReg) (s : State) : Host.Outcome State Fault Refusal :=
  uniIssue s (.event a b) false [] (readsG [a, b]) fun w =>
    done (postEvent s w.g.ctx .program 0xFFFF ((uniG s w a).toNat % 65536) (uniG s w b).toNat (groupSource w.c w.slot)) w

/-- TMARK (12 R188). -/
def execTmark (s : State) : Host.Outcome State Fault Refusal :=
  uniIssue s .tmark false [] (fun _ => []) fun w => done (noteUni s w w.sp.pc w.sp.mask .sync) w

end Sys2Proof.Machine
end

