-- ==== Sys2Proof/Machine/Sys.lean ====
section
/-! DEFINITION. The system registers: UMOVS and UMOVT (09_encoding R113, 12_uniform R185, R186). -/

namespace Sys2Proof.Machine

/-- The vacate registers %vb, %ve, %vfix, %vchc, %vchm, %vchx, %vcht and %vmeas as they stand (18 R250). -/
def vacateRegs (s : State) (x : Ctx) : List Nat :=
  [sat32 x.vb, sat32 (estimate s x), sat32 (vfix s x), sat32 (channelSum s x 0), sat32 (channelSum s x 1),
   sat32 (channelSum s x 2), sat32 (channelSum s x 3),
   sat32 x.vmeas + 2 ^ 32 * x.vover.toNat + 2 ^ 33 * x.vvalid.toNat]

/-- A vacate register as UMOVS returns it: exact at some cycle no more than 64 cycles before (18 R250). -/
def readVacate (s : State) (x : Ctx) (n : Nat) : Nat :=
  let values := vacateRegs s x :: x.vpast
  (values.getD (Config.freeNat s.free % values.length) []).getD n 0

/-- %gid (03 R47). -/
def gidOf (g : Group) : Nat := g.blockIndex + 2 ^ 32 * g.groupIndex + 2 ^ 40 * g.role

/-- %lvl i (03 R50). -/
def lvlOf (g : Group) (i : Nat) : Nat :=
  match g.levels[i]? with
  | none => 0
  | some (x, y, z) => x + 2 ^ 16 * y + 2 ^ 32 * z

/-- The value of a system register (09 R113), reserved bits 0. -/
def sysReg (s : State) (w : Issuer) (x : Ctx) (r : Nat) : DWord :=
  match r with
  | 0 => BitVec.ofNat 64 (gidOf w.g)
  | 1 => BitVec.ofNat 64 (Config.coreOf w.c)
  | 2 => BitVec.ofNat 64 (Config.clusterOf w.c)
  | 3 => BitVec.ofNat 64 (Config.dieOf w.c)
  | 12 => BitVec.ofNat 64 (w.g.first + 2 ^ 8 * w.g.second)
  | 13 => BitVec.ofNat 64 x.cycles
  | 22 => BitVec.ofNat 64 x.rate
  | 23 => w.g.epc
  | 24 => w.g.ecause
  | 25 => w.g.ebad
  | 26 => w.g.emact
  | 27 => w.g.emflt
  | 28 => w.g.tvec
  | 29 => w.g.spill
  | 30 => x.tvstack
  | 31 => seeFlags s w
  | 32 => w.g.dphase.setWidth 64
  | 33 => x.keyid.setWidth 64
  | 34 => x.trcctl
  | 35 => BitVec.ofNat 64 (w.g.capCount.toNat + 2 ^ 32 * x.capped.toNat)
  | n => if 4 ≤ n ∧ n ≤ 11 then BitVec.ofNat 64 (lvlOf w.g (n - 4))
    else if 14 ≤ n ∧ n ≤ 21 then BitVec.ofNat 64 (readVacate s x (n - 14)) else 0

/-- A context that does not exist, for a group whose context has been ended: its registers read 0. -/
def noCtx : Ctx :=
  { id := 0xFFFF, valid := false, pt0 := 0, vb := 0, vres := 0, func := 64, debug := false, fwfault := false, saveArea := 0,
    saveSlot := 0, faultLog := 0, evring := 0, faultq := 0, replsets := 0, capped := false, keyid := 0, tvstack := 0,
    trcctl := 0, started := false, cycles := 0, attached := false, halted := false, step := none, stopping := [],
    vpast := [], phase := .ended, requestTicks := 0, vmeas := 0, vover := false, vvalid := false, priority := [],
    faults := [], faultWait := [], faultTail := 0, saved := [], resizing := false }

/-- The context of the issuer. -/
def ctxOf (s : State) (w : Issuer) : Ctx := (s.ctx? w.g.ctx).getD noCtx

/-- UMOVS (12 R185). -/
def execUmovs (d : GReg) (r : Fin 64) (s : State) : Host.Outcome State Fault Refusal :=
  uniIssue s (.umovs d r) false []
    (fun _ => if r.val = 31 then [srcFlags] else [])
    fun w => done (putG s w d (sysReg s w (ctxOf s w) r.val)) w

/-- Bits [lo+n-1:lo] of a value, in place. -/
def keepBits (v lo n : Nat) : DWord := BitVec.ofNat 64 (bits v lo n * 2 ^ lo)

/-- Write %fpflags: seen as a flag write of an instruction is (07 R88). -/
def writeFlags (s : State) (w : Issuer) (f : BitVec 4) : State := flagWrite s w 1 0xF fun _ => f

/-- The fields of %tvstack that a write keeps (22 R284). -/
def tvstackOf (v : Nat) : DWord := BitVec.ofNat 64 (bits v 0 5 + 2 ^ 8 * bits v 8 5 + 2 ^ 16 * bits v 16 41)

/-- UMOVT (12 R186). -/
def execUmovt (a : GReg) (r : Fin 64) (s : State) : Host.Outcome State Fault Refusal :=
  uniIssue s (.umovt a r) false [] (readsG [a]) fun w =>
    let v := uniG s w a
    let n := v.toNat
    let group (f : Group → Group) : State := done (s.modMine w f) w
    let ctx (f : Ctx → Ctx) : State := done (s.modCtx w.g.ctx f) w
    match r.val with
    | 23 => group fun g => { g with epc := keepBits n 2 55 }
    | 24 => group fun g => { g with ecause := keepBits n 0 16 }
    | 25 => group fun g => { g with ebad := v }
    | 26 => group fun g => { g with emact := keepBits n 0 32 }
    | 27 => group fun g => { g with emflt := keepBits n 0 32 }
    | 28 => group fun g => { g with tvec := keepBits n 2 55 }
    | 29 => if w.g.spilled = 0 then group fun g => { g with spill := keepBits n 0 57 } else trapAll s w .stackOverflow 0
    | 30 => ctx fun x => { x with tvstack := tvstackOf n }
    | 31 => done (writeFlags s w (v.setWidth 4)) w
    | 32 => group fun g => { g with dphase := v.setWidth 6 }
    | 33 => if s.holdsKey (ctxOf s w).func (n % 256) then ctx fun x => { x with keyid := v.setWidth 8 }
      else trapAll s w .privilege v
    | 34 => done (if s.feature 8 then writeTrcctl s w.g.ctx v else s) w
    | _ => trapAll s w .illegalOp (wordOf (.umovt a r))

end Sys2Proof.Machine
end

