-- ==== Sys2Proof/Machine/Context.lean ====
section
/-! DEFINITION. Context descriptors and boundaries (18_vacate R248, R250, 26_command R326, R328), and the errors of queues
(26_command R342, R343). -/

namespace Sys2Proof.Machine

/-- A context that a command or an error halts at the end of the cycle; two of one cycle are one halt (29 R369). -/
def Ctx.halts (x : Ctx) : Ctx := if x.stopping.any fun h => h.1 == 0 then x else { x with stopping := x.stopping ++ [(0, 0, none)] }

/-- The address of a context descriptor (26 R328). -/
def State.ctxDesc (s : State) (c : Nat) : Nat := s.dev.ctxbase.toNat + 128 * c

/-- A context as its descriptor in memory gives it, at its first run (26 R328, 20 R275). -/
def ctxOfDesc (s : State) (c : Nat) : Ctx :=
  let d := s.ctxDesc c
  let flags := s.num (d + 0x0F) 1
  { noCtx with
    id := c, valid := bit flags 0, pt0 := s.num d 8, vb := s.num (d + 8) 4, vres := s.num (d + 0x0C) 2,
    func := s.num (d + 0x0E) 1, debug := bit flags 1, fwfault := bit flags 2, saveArea := s.num (d + 0x10) 8,
    saveSlot := s.num (d + 0x18) 4, faultLog := s.num (d + 0x1C) 1, evring := s.num (d + 0x1D) 1,
    faultq := s.num (d + 0x20) 8, replsets := s.num (d + 0x30) 8, capped := s.capOf (s.num (d + 0x0E) 1),
    keyid := BitVec.ofNat 8 (s.num (d + 0x1E) 1), faultTail := s.num (d + 0x28) 8, phase := .idle }

/-- Whether the event ring a context names may be named by it (26 R328). -/
def ringAllowed (s : State) (x : Ctx) : Bool := x.func == 64 || s.num (s.dev.evbase.toNat + 64 * x.evring + 9) 1 == x.func

/-- Whether a descriptor meets the rules (18 R248, R250, 26 R326, R328). -/
def descOk (s : State) (x : Ctx) : Bool :=
  let d := s.ctxDesc x.id
  x.valid && 1000 ≤ x.vb && x.vb ≤ 65000000 && x.vres ≤ 4096 && x.func ≤ 64 && s.num (d + 0x0F) 1 < 8 && x.saveArea % 64 == 0
    && x.saveSlot % 64 == 0 && 4 ≤ x.faultLog && x.faultLog ≤ 12 && s.num (d + 0x1F) 1 == 0 && x.faultq % 32 == 0
    && x.replsets % 128 == 0 && s.num (d + 0x38) 72 == 0 && ringAllowed s x && s.partitionValid x.func && x.pt0 % 16384 == 0
    && x.pt0 < 2 ^ 39 && s.holdsUnit x.func x.pt0

/-- Whether none of a context's blocks is resident: a context boundary (26 R328). -/
def atBoundary (s : State) (c : Nat) : Bool := s.cores.all fun k => k.blocks.all fun b => b.ctx != c || b.phase == .reserved || b.phase == .loading

/-- Post a QUEUE_ERROR event of a queue: the code of the error met, and its sticky ERROR word (26 R342, R351, R352). -/
def queueEvent (s : State) (q code : Nat) : State :=
  match s.queue? q with
  | none => s
  | some y => postEvent s y.ctx .queueError q code (s.num (s.queueDesc q + 0x20) 8) (chainSource q)

/-- Post a QUEUE_ERROR of a queue whose context has been refused: through the refused descriptor's own ring and tables where it
may name that ring, else to the physical function's ring (26 R328; log 7). -/
def refusedEvent (s : State) (x : Ctx) (q : Nat) : State :=
  let word := s.num (s.queueDesc q + 0x20) 8
  if ringAllowed s x then postTo s x.evring (some x) .queueError q 0x000B word (chainSource q)
  else match s.pfRing with
    | none => s
    | some e => postTo s e none .queueError q 0x000B word (chainSource q)

/-! Fields of a queue descriptor (26 R331). -/

/-- RING. -/
def queueRing (s : State) (q : Nat) : Nat := s.num (s.queueDesc q) 8
/-- The packets a ring holds. -/
def queueSize (s : State) (q : Nat) : Nat := 2 ^ s.num (s.queueDesc q + 8) 1
/-- PRIO. -/
def queuePrio (s : State) (q : Nat) : Nat := s.num (s.queueDesc q + 9) 1
/-- FLAGS.RSTOL. -/
def queueTolerates (s : State) (q : Nat) : Bool := bit (s.num (s.queueDesc q + 0x0A) 1) 0
/-- FLAGS.ENABLE. -/
def queueEnabled (s : State) (q : Nat) : Bool := bit (s.num (s.queueDesc q + 0x0A) 1) 1
/-- CTX. -/
def queueCtx (s : State) (q : Nat) : Nat := s.num (s.queueDesc q + 0x0C) 2
/-- TAIL. -/
def queueTail (s : State) (q : Nat) : Nat := s.num (s.queueDesc q + 0x10) 8

/-- Whether a queue's descriptor fields lie in their ranges and its reserved bytes are zero (26 R331, 00 R9). -/
def queueDescOk (s : State) (q : Nat) : Bool :=
  let d := s.queueDesc q
  let log := s.num (d + 8) 1
  queueRing s q % 16 == 0 && queueRing s q < 2 ^ 52 && 4 ≤ log && log ≤ 20 && queuePrio s q ≤ 3 && s.num (d + 0x0A) 1 < 4
    && queueCtx s q < 1024 && s.num (d + 0x0E) 2 == 0 && s.num (d + 0x28) 24 == 0

/-- A queue as its descriptor names its context now: with no packet started it belongs to the context of its CTX (26 R331). -/
def queueNow (s : State) (y : Queue) : Queue :=
  if y.started.isEmpty && y.chain.isEmpty && y.ctx != queueCtx s y.id then { y with ctx := queueCtx s y.id, out := false } else y

/-- The queues of the queue table that name a context (26 R328, R331): those the device holds, and those not yet opened whose
descriptors do. -/
def queuesNaming (s : State) (c : Nat) : List Nat :=
  (List.range 4096).filter fun q => match s.queue? q with
    | some y => (queueNow s y).ctx == c
    | none => queueDescOk s q && queueCtx s q == c

/-- Whether a queue has been switched out and has halted already: the next readings of a descriptor that has been refused say nothing more of
it. -/
def refusedBefore (s : State) (q : Nat) : Bool := ((s.queue? q).all fun y => y.out) && s.queueState q == 2

/-- Refuse a context: every queue that names it halts with CONTEXT_INVALID and is switched out (26 R328, R334). A descriptor that was refused
`before` and still is halts those that have run since. -/
def refuseCtx (s : State) (x : Ctx) (before : Bool) : State :=
  ((queuesNaming s x.id).filter fun q => !(before && refusedBefore s q)).foldl (fun s q =>
    refusedEvent ((haltQueue s q 2 0x000B).modQueue q fun y => { queueNow s y with out := true }) x q) s

/-- Read a context's descriptor at a boundary: its fields, or a refusal (26 R328, 18 R248). What is kept with the context stays
(20 R275, 29 R368). -/
def readBoundary (s : State) (c : Nat) : Option Ctx × State :=
  let new := ctxOfDesc s c
  if !descOk s new then (none, refuseCtx (s.modCtx c fun x => { x with valid := false }) new ((s.ctx? c).any fun x => !x.valid))
  else match s.ctx? c with
    | none => (some new, { s with ctxs := s.ctxs ++ [new] })
    | some x =>
      if x.phase = .ended then
        let y := { new with faultTail := x.faultTail, attached := false }
        (some y, s.modCtx c fun _ => y)
      else
        let y := { x with valid := true, pt0 := new.pt0, vb := new.vb, vres := new.vres, func := new.func, debug := new.debug,
                          fwfault := new.fwfault, saveArea := new.saveArea, saveSlot := new.saveSlot,
                          faultLog := new.faultLog, evring := new.evring, faultq := new.faultq, replsets := new.replsets,
                          capped := new.capped, keyid := if x.started then x.keyid else new.keyid }
        (some y, s.modCtx c fun _ => y)

/-- A context for work that begins: its descriptor is read again when none of its blocks is resident (26 R328). -/
def ctxForWork (s : State) (c : Nat) : Option Ctx × State :=
  match s.ctx? c with
  | none => readBoundary s c
  | some x => if atBoundary s c then readBoundary s c else (if x.valid then some x else none, s)

/-! Errors of a queue (26 R342, R343). -/

/-- The translation cache of a queue's chaining engine: its die's (01 R25, 26 R331). -/
def chainTlb (q : Nat) : Tlb := .die (q % 4)

/-- Add to or set a signal at home (26 R336, R338, R341): the failing address otherwise. -/
def setSignal (s : State) (h : Tlb) (x : Ctx) (va : Nat) (v : Int) : Except (XErr × Nat) Unit × State :=
  writeVa s h x va (bytesOf 8 (v % 2 ^ 64).toNat)

/-- Add to a signal at home (26 R338). -/
def addSignal (s : State) (h : Tlb) (x : Ctx) (va : Nat) (v : Int) (half : Option DWord) : Added :=
  addVa s h x va 8 half fun old => ((old + v) % 2 ^ 64).toNat

/-- Write −1 to a failing packet's signal, if it has one: a fault posts a record, and an address outside memory leaves the signal (26 R341
to R343). -/
def minusSignal (s : State) (x : Ctx) (q : Nat) (sig : Option Nat) : State :=
  match sig with
  | none => s
  | some va => match setSignal s (chainTlb q) x va (-1) with
    | (.ok _, t) => t
    | (.error (.unresolved, _), t) => t
    | (.error (.fault c, a), t) => postOrWait t x a (chainSource q) 1 c (.minus q va)

/-- A queue meets an error at the level-0 packet of an index: it halts, or aborts, its event is posted, then its packet's signal
becomes −1 (26 R342). -/
def queueError (s : State) (x : Ctx) (q code : Nat) (sig : Option Nat) (index : Nat) : State :=
  let t := haltAt s q (if code = 3 then 3 else 2) code index
  minusSignal (queueEvent t q code) x q sig

/-- A queue's access gives no byte: a fault posts a record that waits for its answer; an address outside memory is an error at
once (26 R343, 05 R392). -/
def queueFails (s : State) (x : Ctx) (q : Nat) (e : XErr) (va kind code : Nat) (sig : Option Nat) (path : List Nat) : State :=
  match e with
  | .unresolved => queueError s x q code sig (path.headD 0)
  | .fault c => postOrWait s x va (chainSource q) kind c (.queue q code sig path)

/-- Whether an unanswered fault record holds a queue. -/
def queueWaits (x : Ctx) (q : Nat) : Bool :=
  let mine (o : FaultOwner) : Bool := match o with
    | .queue p _ _ _ => p == q
    | _ => false
  (x.faults.any fun f => mine f.owner) || x.faultWait.any fun f => mine f.owner

end Sys2Proof.Machine
end

