-- ==== Sys2Proof/Machine/Sync.lean ====
section
/-! DEFINITION. Fences, WAIT, the arrive family, uniform scratchpad accesses, and the results that are written later (12_uniform
R175 to R179, 13_ordering R212, 09_encoding R116, 11_lane R151). -/

namespace Sys2Proof.Machine

/-! Gate closes (12 R175). -/

/-- Close the open batch of a gate and write the new CLOSED. -/
def closeGate (s : State) (i : Instr) (x : Gate) (d : Nat) : Host.Outcome State Fault Refusal :=
  uniIssue s i false [] (fun _ => []) fun w =>
    let t := s.modMine w fun g => g.close x
    done (putG t w d ((w.g.close x).gate x).closed.toNat) w

/-- CFENCE (12 R175). -/
def execCfence (d : GReg) (s : State) := closeGate s (.cfence d) .gc d
/-- MFENCE (12 R175). -/
def execMfence (d : GReg) (s : State) := closeGate s (.mfence d) .gm d
/-- LFENCE (12 R175). -/
def execLfence (d : GReg) (s : State) := closeGate s (.lfence d) .gl d
/-- XFENCE (12 R175). -/
def execXfence (d : GReg) (s : State) := closeGate s (.xfence d) .gx d
/-- TFENCE (12 R175). -/
def execTfence (d : GReg) (s : State) := closeGate s (.tfence d) .gt d

/-! Fences (13 R212). -/

/-- The place of a fence in its group's issue order: where it first tried to issue. -/
def fencePoint (w : Issuer) : Nat :=
  match w.sp.hold with
  | .fence n true _ => n
  | .fence n _ true => n
  | _ => w.g.nextSeq

/-- A release fence that has been passed: at CLUSTER or wider it orders the accesses of its split to other scratchpads, at POD or wider its
group's forks see the attic nodes (13 R206, R216). -/
def passRelease (s : State) (w : Issuer) (sc : Scope) : State := s.modMine w fun g =>
  { g with epoch := if reachesOut sc then g.epoch + 1 else g.epoch, podReleased := g.podReleased || decide (5 ≤ scopeRank sc) }

/-- Stores, arrivals and forks after a release fence are releases at its scope (13 R208). -/
def markRelease (s : State) (w : Issuer) (sc : Scope) : State := s.modMine w fun g =>
  { g with relFence := some (match g.relFence with | none => sc | some a => widerScope a sc) }

/-- A fence of a kind at a scope: a suspension point of stores, then a hold until its condition is met (13 R212). -/
def fenceAt (s : State) (i : Instr) (sc : Scope) (acq rel : Bool) : Host.Outcome State Fault Refusal :=
  uniIssue s i false [] (fun _ => []) fun w =>
    let n := fencePoint w
    let p := performedScope s w.g sc
    let marked := if rel then markRelease s w p else s
    storePoint s w
      (if readsValued w.g n && (!rel || ownPerformed s w.c w.g n p) then
        let t := (capScope marked w.c w.slot w.g sc w.sp.pc).2
        let t := if rel then passRelease t w p else t
        done (if acq then acquireReads t w.c w.slot p else t) w
      else holdIt marked w (.fence n acq rel))

/-- FENCE_ALL (13 R212). -/
def execFenceAll (sc : Scope) (s : State) := fenceAt s (.fenceAll sc) sc true true
/-- FENCE_ACQ (13 R212). -/
def execFenceAcq (sc : Scope) (s : State) := fenceAt s (.fenceAcq sc) sc true false
/-- FENCE_REL (13 R212). -/
def execFenceRel (sc : Scope) (s : State) := fenceAt s (.fenceRel sc) sc false true

/-! WAIT (12 R176). -/

/-- The la = 15 results of a split. -/
def la15 (w : Issuer) : List LaResult := w.g.la.filter fun a => a.untilWait && a.parked == 0 && (a.path &&& w.sp.mask) != 0

/-- The trap of a poisoned lookahead result, at the issuer's instruction (11 R151). -/
def poisonTrap (s : State) (w : Issuer) (a : LaResult) : State :=
  let p := a.poisoned.getD (0, 0)
  let s := s.modMine w fun g => { g with la := g.la.erase a }
  trapHere (poisonEvent s w.c w.slot .poison p.1) w .poison p.1 p.2

/-- A WAIT whose condition is met drains the la = 15 results of its split, then returns (12 R176, 09 R116). -/
def drain15 (s : State) (w : Issuer) (go : State) : State :=
  match (la15 w).find? fun a => a.poisonReady with
  | some a => poisonTrap s w a
  | none => if (la15 w).isEmpty then go else holdIt s w .drain15

/-- The trap due at a WAIT on a gate batch (05 R78, 11 R155, 16 R246). -/
def dueAtGate (g : Group) (x : Gate) (n : Word) : Option DueTrap :=
  g.due.find? fun d => match d.gate with
    | some (y, b) => y == x && decide (0 ≤ (n - b).toInt)
    | none => false

/-- Whether an access of a gate's batches up to `n` waits for the answer of a fault (29 R375, 05 R78). -/
def gateFaulted (s : State) (w : Issuer) (x : Gate) (n : Word) : Bool :=
  match s.ctx? w.g.ctx with
  | none => false
  | some y => y.faults.any fun f => match f.owner with
    | .read c slot seq => x == .gl && c == w.c && slot == w.slot && (w.g.reads.any fun r => r.seq == seq && decide (0 ≤ (n - r.batch).toInt))
    | .op id _ => match s.op? id with
      | some o => o.core == w.c && o.slot == w.slot && o.gate == x && decide (0 ≤ (n - o.batch).toInt)
      | none => false
    | _ => false

/-- What a gate join adds: the group's later reads are not older than the joined operations' writes, and one on gt acquires the records
that its takes took (13 R211, R217, 22 R301; log 61). -/
def joinedBy (s : State) (c : Nat) (g : Gate) : State := if g == .gt then acquireAt s c .package else dropBehind s c

/-- A WAIT on a gate has covered its batches up to `n`: reads see what their queued operations wrote (05 R71). -/
def Group.settleBatch (g : Group) (x : Gate) (n : Word) : Group :=
  { g with pend := g.pend.filter fun e => match e.gate with
    | some (y, b) => !(y == x && decide (0 ≤ (n - b).toInt))
    | none => true }

/-- WAIT_GATE (12 R176). -/
def execWaitGate (a : GReg) (g : Gate) (s : State) : Host.Outcome State Fault Refusal :=
  uniIssue s (.waitGate a g) false [] (readsG [a]) fun w =>
    let n : Word := (uniG s w a).setWidth 32
    if inService w.g && g != .gl && g != .gm then trapAll s w .routineBlock 0
    else if decide (0 < (n - (w.g.gate g).closed).toInt) then trapAll s w .gateRange (n.setWidth 64)
    else if !(w.g.gate g).reached n then holdIt s w (if gateFaulted s w g n then .faultSuspension else .waitGate g)
    else match dueAtGate w.g g n with
      | some d => takeDue s w d
      | none => drain15 s w (done ((joinedBy s w.c g).modMine w fun h => h.settleBatch g n) w)

/-- A place as one number: the location a copy credits (16 R246). -/
def placeNum (p : Place) : Nat := p.core * 2 ^ 20 + p.off

/-- The trap due at a WAIT of the group on an object (16 R246). -/
def dueAtObject (g : Group) (p : Place) : Option DueTrap := g.due.find? fun d => d.object == some (placeNum p)

/-- What the tests of a held WAIT have found since it was first tried, if one has ended it (12 R176). -/
def testedSince (s : State) (w : Issuer) (p : Place) (phase : Word) : Option Bool :=
  if w.sp.hold = .waitObject then
    (s.waits.find? fun t => t.core == w.c && t.slot == w.slot && t.split == w.idx && t.home == p.core && t.off == p.off
      && t.phase == phase).bind fun t => t.met
  else none

/-- A WAIT on an object holds its split; each later change of the object tests it (12 R176). -/
def holdOnObject (s : State) (w : Issuer) (p : Place) (phase : Word) : State :=
  let others := s.waits.filter fun t => !(t.core == w.c && t.slot == w.slot && t.split == w.idx)
  holdIt { s with waits := ⟨w.c, w.slot, w.idx, p.core, p.off, phase, none⟩ :: others } w .waitObject

/-- What a WAIT on an object finds: the first test that ended it, or a test of the object as it stands (12 R176). -/
def waitFinds (s : State) (w : Issuer) (p : Place) (phase : Word) : Option Bool :=
  if w.sp.hold = .drain15 then some true else (testedSince s w p phase) <|> testObject (objAt s p) phase

/-- A WAIT on an object has returned: an acquire at the object's scope, which observes what the releases of its phases carry, and a join
of the operations that credited it (13 R209, R217, R218). It is no operation that the cap counts (14 R222). -/
def joinObject (s : State) (w : Issuer) (p : Place) : State :=
  let sc := performedScope s w.g (scopeOfCode (objAt s p).scope)
  dropBehind (acquireBy (observe s w.c w.slot sc (setsOf s p)) w.c w.slot sc) w.c

/-- An access to a place waits for the accesses of its split there that are still on their way (13 R206). -/
def afterParts (s : State) (w : Issuer) (p : Place) (n : Nat) (go : State) : State :=
  if w.g.parts.any fun q => q.before w.idx p.core w.g.epoch p.off n then holdIt s w (.fence w.g.nextSeq false false) else go

/-- WAIT_OBJECT (12 R176, 05 R69): an acquire at the object's scope, and a join of the operations that credited it (13 R209, R217).
DESIGN CHOICE (log 67): a phase already reached lets it return while a fault of a copy that credits the object is unanswered. -/
def execWaitObject (a b : GReg) (s : State) : Host.Outcome State Fault Refusal :=
  uniIssue s (.waitObject a b) false [] (readsG [a, b]) fun w =>
    let at_ := uniAddr s w a
    let phase : Word := (uniG s w b).setWidth 32
    if inService w.g then trapAll s w .routineBlock 0
    else checkedU s w 16 at_
      (let p := placeOf s w at_
      match dueAtObject w.g p with
      | some d => takeDue s w d
      | none => afterParts s w p 16 (match waitFinds s w p phase with
        | some false => trapAll s w .barrierInvalid (BitVec.ofNat 64 at_)
        | none => holdOnObject s w p phase
        | some true => drain15 s w (done (joinObject s w p) w)))

/-! The arrive family (12 R177, R178). -/

/-- The place of an update in the intake order: own core by slot and split, then remote by CORE (05 R68). -/
def arrivalRank (w : Issuer) (p : Place) : Nat × Nat :=
  if p.core = w.c then (0, 4 * w.slot + w.idx) else (1, Config.coreOf w.c)

/-- What an arrival carries as a release to the completion of its phase, at the object's scope: its group's ordered-before set (13 R208,
R218). -/
def carrySet (s : State) (w : Issuer) (p : Place) : State :=
  if w.g.relFence.isSome then
    keepSet s w.c (scopeOfCode (objAt s p).scope) none [] (some (p.core, p.off)) (beforeSet s w.c w.g w.g.nextSeq)
  else s

/-- Deliver an arrival: after a release fence it waits until the group's earlier accesses are performed (13 R208); the split is
held until its update is applied or rejected (12 R177). -/
def arriveAt (s : State) (i : Instr) (a : Nat) (gs : List Nat) (drop : Bool) (expect : Issuer → Nat) :
    Host.Outcome State Fault Refusal :=
  uniIssue s i false [] (readsG gs) fun w =>
    let at_ := uniAddr s w a
    checkedU s w 16 at_
      (let p := placeOf s w at_
      let u : Update := ⟨p.core, p.off, arrivalRank w p, true, drop, expect w, 0,
        .arrival w.c w.slot w.idx w.sp.pc (BitVec.ofNat 64 at_)⟩
      afterFences s w (afterParts s w p 16 (blockIt (queueUpdate (done (carrySet s w p) w) u) w .arrival)))

/-- ARRIVE (12 R177). -/
def execArrive (a : GReg) (s : State) := arriveAt s (.arrive a) a [a] false fun _ => 0
/-- ARRIVE_EXPECT (12 R177). -/
def execArriveExpect (a b : GReg) (s : State) :=
  arriveAt s (.arriveExpect a b) a [a, b] false fun w => (uniG s w b).toNat % 2 ^ 32
/-- ARRIVE_DROP (12 R177). -/
def execArriveDrop (a : GReg) (s : State) := arriveAt s (.arriveDrop a) a [a] true fun _ => 0

/-- A uniform store of `n` bytes to the scratchpad: at once in the own core, else when the other core's intake performs it (12 R178, R179, 13
R206). It may be a release (R208). -/
def storeNear (s : State) (w : Issuer) (n a v : Nat) : State :=
  afterFences s w (if isNear s w a then done (storePlace s (placeOf s w a) (bytesOf n v)) w
    else done (pushFar s w (remoteParts s w n .store [(0, a)] fun _ => (BitVec.ofNat 64 v, BitVec.ofNat 64 (v / 2 ^ 64)))) w)

/-- The object BINIT writes from G(gb) (12 R178). -/
def binitObj (v : Nat) : Obj := ⟨0, bits v 0 16, bits v 0 16, signed 32 (bits v 32 32), 1 + 2 * bits v 16 3, 0⟩

/-- BINIT (12 R178). -/
def execBinit (a b : GReg) (s : State) : Host.Outcome State Fault Refusal :=
  uniIssue s (.binit a b) false [] (readsG [a, b]) fun w =>
    let at_ := uniAddr s w a
    let v := (uniG s w b).toNat
    checkedU s w 16 at_
      (if bits v 16 3 = 7 ∨ bits v 19 13 ≠ 0 then trapAll s w .barrierInvalid (BitVec.ofNat 64 at_)
      else storeNear s w 16 at_ (numOf (binitObj v).image))

/-! Held results (12 R159). -/

/-- A held uniform instruction has issued: its result is written by HELD_UNIFORM_RESULT, and the split stalls till then. -/
def heldFor (s : State) (w : Issuer) (d : Nat) (v : DWord) (poisoned : Option DWord) (part : Option RemoteAccess) : State :=
  blockIt (State.modMine { done s w with nextId := s.nextId + 1 } w fun g =>
    { g with held := g.held ++ [⟨w.idx, d, v, poisoned, s.nextId, 0, part⟩],
             nextSeq := if part.isSome then g.nextSeq + 1 else g.nextSeq }) w .heldResult

/-- A held uniform instruction whose result is known. -/
def heldDone (s : State) (w : Issuer) (d : Nat) (v : DWord) (poisoned : Option DWord) : State := heldFor s w d v poisoned none

/-- HELD_UNIFORM_RESULT (12 R159): the result is written and the split may issue again; a poisoned one traps at its ULD
(R179). A load of another core's scratchpad reaches its intake in this cycle (11 R147, 13 R206). -/
def execHeldUniformResult (core slot split : Nat) (s : State) : Host.Outcome State Fault Refusal :=
  .next (match s.group? core slot with
  | none => s
  | some g =>
    match g.held.find? fun h => h.split == split && h.parked == 0, g.split? split with
    | some h, some sp =>
      if h.part.isSome then s.modGroup core slot fun g =>
        { g with held := g.held.map fun k => if k = h then { k with part := k.part.map fun p => { p with reached := true } } else k }
      else
      let s := s.modCore core fun x =>
        let x := if h.gd = 0 || h.poisoned.isSome then x else x.landG g h.gd h.value
        x.modGroup slot fun g => { g with held := g.held.erase h }.modSplit split fun sp => { sp with hold := .none, heldFor := 0 }
      match h.poisoned with
      | none => s
      | some bad => takeTrap (poisonEvent s core slot .poison bad) core slot split .poison (sp.pc - 4) bad sp.mask 0
    | _, _ => s)

/-! Uniform scratchpad accesses (12 R179). -/

/-- A uniform scratchpad load of `n` bytes. -/
def uldS (s : State) (i : Instr) (d a n : Nat) : Host.Outcome State Fault Refusal :=
  uniIssue s i false [] (readsG [a]) fun w =>
    let at_ := uniAddr s w a
    checkedU s w n at_
      (if isNear s w at_ then heldDone s w d (BitVec.ofNat 64 (numOf (readPlace s (placeOf s w at_) n)))
          ((poisonAddr s w n at_).map fun b => BitVec.ofNat 64 b)
        else heldFor s w d 0 none (remoteParts s w n .uload [(0, at_)] fun _ => (0, 0)).head?)

/-- A uniform scratchpad store of `n` bytes. -/
def ustS (s : State) (i : Instr) (a b n : Nat) : Host.Outcome State Fault Refusal :=
  uniIssue s i false [] (readsG [a, b]) fun w =>
    let at_ := uniAddr s w a
    checkedU s w n at_ (storeNear s w n at_ (uniG s w b).toNat)

/-- ULD_S_32 (12 R179). -/
def execUldS32 (d a : GReg) (s : State) := uldS s (.uldS32 d a) d a 4
/-- ULD_S_64 (12 R179). -/
def execUldS64 (d a : GReg) (s : State) := uldS s (.uldS64 d a) d a 8
/-- UST_S_32 (12 R179). -/
def execUstS32 (a b : GReg) (s : State) := ustS s (.ustS32 a b) a b 4
/-- UST_S_64 (12 R179). -/
def execUstS64 (a b : GReg) (s : State) := ustS s (.ustS64 a b) a b 8

/-! Lookahead results (09 R116). -/

/-- SCRATCH_RESULT (09 R116): lookahead result `n` of a group is written; one with accesses on their way to other cores reaches their
intakes in this cycle instead (11 R147, 13 R206). A poisoned result keeps its trap (11 R151). DESIGN CHOICE
(log 67): a lookahead of 15 expires here for reads and for the detector (R117). -/
def execScratchResult (core slot n : Nat) (s : State) : Host.Outcome State Fault Refusal :=
  .next (match s.group? core slot with
  | none => s
  | some g =>
    match g.la[n]? with
    | none => s
    | some a =>
      if !a.parts.isEmpty then s.modGroup core slot fun g =>
        { g with la := modifyAt (fun a => { a with parts := a.parts.map fun p => { p with reached := true } }) n g.la }
      else s.modCore core fun x =>
        (x.landResults g a.writes).modGroup slot fun g =>
          { g with
            la := if a.poisoned.isSome then modifyAt (fun a => { a with writes := [] }) n g.la else removeAt n g.la
            pend := if a.untilWait then g.pend.filter fun e => e.own != some a.born else g.pend })

end Sys2Proof.Machine
end

