-- ==== Sys2Proof/Machine/Blocks.lean ====
section
/-! DEFINITION. Register rows, group slots, dispatch records, and the start and end of blocks (03_execution_model R31, R45, R46,
R50, R51, R56, 12_uniform R190 to R193, 16 R223, 26_command R344, R347, R348). -/

namespace Sys2Proof.Machine

/-! Leases (12 R190). -/

/-- The lease state of a row. -/
def Core.lease (x : Core) (r : Nat) : Lease := if r = 0 then .agent else assocD r .free x.leases

/-- The number of a lease state. -/
def Lease.number : Lease → Nat
  | .free => 0 | .running => 1 | .draining => 2 | .claimed => 3 | .agent => 4

/-- Set the lease state of a row; row 0 keeps its own. -/
def Core.setLease (x : Core) (r : Nat) (l : Lease) : Core :=
  if r = 0 then x
  else { x with leases := if l = .free then x.leases.filter fun p => p.1 != r else assocSet r l x.leases }

/-- Set the lease state of rows. -/
def Core.setLeases (x : Core) (rs : List Nat) (l : Lease) : Core := rs.foldl (fun x r => x.setLease r l) x

/-- Whether a row is carved for a group slot. -/
def Core.rowCarved (x : Core) (r : Nat) : Bool := x.carved.any fun p => p.2.1 == r || p.2.2 == r

/-- Release a claimed or carved row, with the group slot carved with it (12 R190). -/
def Core.release (x : Core) (r : Nat) : Core :=
  { x with carved := x.carved.filter fun p => !(p.2.1 == r || p.2.2 == r) }.setLease r .free

/-- Whether a group slot is occupied: by a group, or carved. -/
def Core.slotTaken (x : Core) (slot : Nat) : Bool := (x.group? slot).isSome || x.carved.any fun p => p.1 == slot

/-- The free slot the next group takes: in the scheduler with the fewest occupied slots, the lowest on a tie (03 R45). -/
def pickSlot (taken : Nat → Bool) : Option Nat :=
  let used (j : Nat) : Nat := ((List.range 8).filter fun k => taken (8 * j + k)).length
  let best := (List.range 4).foldl (fun b j => if used j < used b then j else b) 0
  ((List.range 8).map fun k => 8 * best + k).find? fun n => !taken n

/-- Slots for `n` groups in order. -/
def pickSlots (taken : Nat → Bool) : Nat → Option (List Nat)
  | 0 => some []
  | n + 1 =>
    match pickSlot taken with
    | none => none
    | some k => (pickSlots (fun m => m == k || taken m) n).map fun r => k :: r

/-- The rows of groups, role 0 first, from a list of rows (03 R46). -/
def takeRows : List Nat → List Nat → Option (List (Nat × Nat))
  | [], _ => some []
  | need :: more, rows =>
    if need = 2 then match rows with
      | a :: b :: rest => (takeRows more rest).map fun r => (a, b) :: r
      | _ => none
    else match rows with
      | a :: rest => (takeRows more rest).map fun r => (a, a) :: r
      | _ => none

/-! Dispatch records (12 R191). -/

/-- A dispatch record as read. -/
structure DRecord where
  ctx : Nat
  groups : Nat
  spbase : Nat
  launch : Nat
  block : Nat
  incarn : Nat
  roles : List Byte
  table : List (Nat × Nat × Nat)
  zerosOk : Bool
  deriving DecidableEq, Repr

/-- Read a dispatch record of 128 bytes. -/
def drecordOf (bs : List Byte) : DRecord :=
  let entry (j : Nat) : Nat × Nat × Nat := (fieldOf bs (32 + 3 * j) 1, fieldOf bs (33 + 3 * j) 1, fieldOf bs (34 + 3 * j) 1)
  let n := fieldOf bs 2 1
  ⟨fieldOf bs 0 2, n, fieldOf bs 4 4, fieldOf bs 8 8, fieldOf bs 16 4, fieldOf bs 20 4, (bs.drop 24).take 8,
   (List.range (min n 32)).map entry,
   fieldOf bs 3 1 == 0 && n ≤ 32 && fieldOf bs 0 2 < 1024 && fieldOf bs 4 4 % 256 == 0
     && (List.range 32).all fun j => if j < n then (entry j).1 < 32 else entry j == (0, 0, 0)⟩

/-- The rows per group that ROLES asks for, in carving order (03 R46). -/
def roleRows (roles : List Byte) : List Nat :=
  List.replicate (fieldOf roles 1 1) (fieldOf roles 0 1) ++ List.replicate (fieldOf roles 3 1) (fieldOf roles 2 1)

/-- Whether ROLES keeps the rules of R49 that it can break by itself (12 R192). -/
def rolesValid (c : Nat) (roles : List Byte) : Bool :=
  let g0 := fieldOf roles 1 1
  let g1 := fieldOf roles 3 1
  rolesOk (if g1 = 0 then 1 else 2) (fieldOf roles 0 1) g0 (fieldOf roles 2 1) g1 (g0 + g1) 0
    && fieldOf roles 4 4 % 256 == 0 && fieldOf roles 4 4 ≤ Config.scratchBytes c

/-- What a carve comes to: a table of (slot, first, second), or the status of its failure (12 R192). -/
inductive Carving where
  | ok (table : List (Nat × Nat × Nat))
  | failed (status : Nat)

/-- Carve for ROLES from the claimed rows that a set names (03 R45, R46, 12 R192): the lowest rows first. DESIGN CHOICE (log 68): where several
conditions fail, the status is the first of 3, 1 and 2. -/
def carveFor (x : Core) (roles : List Byte) (named : Nat → Bool) : Carving :=
  if !rolesValid x.index roles then .failed 3
  else
    let rows := (List.range 64).filter fun r => named r && x.lease r == .claimed && !x.rowCarved r
    match takeRows (roleRows roles) rows with
    | none => .failed 1
    | some rs =>
      match pickSlots x.slotTaken rs.length with
      | none => .failed 2
      | some slots => .ok (slots.zip rs)

/-! The start of a block. -/

/-- A gate at group start (05 R70). -/
def freshGate : GateState := ⟨0, 0, []⟩

/-- The unspecified contents of k1 to k7 at group start. -/
def freshMasks (seed : Nat) : List Mask :=
  BitVec.allOnes 32 :: (List.range 7).map fun k => Config.freeWord (seed * 2 ^ 21 + 2 ^ 20 + k)

/-- A group as it starts (03 R31, 05 R70, 07 R88, R98, 12 R169, 13 R200). -/
def newGroup (slot block ctx allot blockIndex groupIndex role first second : Nat) (levels : List (Nat × Nat × Nat)) (live : Mask)
    (pc : PC) (masks : List Mask) (traceId : Nat) : Group :=
  { slot := slot, block := block, ctx := ctx, allot := allot, blockIndex := blockIndex, groupIndex := groupIndex, role := role,
    first := first, second := second, levels := levels, live := live, splits := [newSplit 0 pc live 0], stack := [],
    masks := masks, gates := List.replicate 5 freshGate, queue := [], reads := [], nextSeq := 0, relFence := none,
    observed := [], seen := [], podAcquired := false, podReleased := false, epoch := 0, exitArrived := false, pend := [], la := [], held := [], due := [], suspended := false, trapWait := none, tvec := 0,
    epc := 0, ecause := 0, ebad := 0, emact := 0, emflt := 0, spill := 0, fpflags := 0, dphase := 0, capCount := 0,
    service := [], traceId := traceId, streams := [], permits := [] }

/-- The keys of a register row in the core's rows. -/
def rowRange (r : Nat) : Nat × Nat := (2048 * r, 2048)

/-- New contents for a row given to a context: zeros if another context used it last, else unspecified (12 R193). -/
def Core.freshRow (x : Core) (ctx seed r : Nat) : Core :=
  let last := (x.rowCtx.find? fun p => p.1 == r).map fun p => p.2
  let junk : Option Nat := if last.isNone || last == some ctx then some seed else none
  { x with rows := x.rows.refresh (rowRange r).1 (rowRange r).2 junk, rowCtx := assocSet r ctx x.rowCtx }

/-- Whether a 256-byte unit of the scratchpad was last used by another context. -/
def Core.unitForeign (x : Core) (ctx u : Nat) : Bool :=
  match x.scratchCtx.find? fun p => p.1 == u with
  | none => false
  | some p => p.2 != ctx

/-- New contents for an allocation: zeros where another context used a unit last, else unspecified (12 R193). -/
def Core.freshScratch (x : Core) (ctx seed base n : Nat) : Core :=
  let units := (List.range (n / 256)).map fun j => base / 256 + j
  let foreign := units.filter fun u => x.unitForeign ctx u
  { x with
    scratch := foreign.foldl (fun m u => m.refresh (256 * u) 256 none) (x.scratch.refresh base n (some seed)),
    scratchCtx := units.foldl (fun l u => assocSet u ctx l) x.scratchCtx }

/-- The matrix engine as a block takes it (16 R223). -/
def Matrix.taken (m : Matrix) (block ctx seed : Nat) : Matrix :=
  let junk (n : Nat) : Store 8 := ⟨[(0, 2 ^ 20, if m.lastCtx.isNone || m.lastCtx == some ctx then some (4 * seed + n) else none)], []⟩
  { Matrix.empty with holder := some block, lastCtx := some ctx, acc := junk 1, platen0 := junk 2, platen1 := junk 3 }

/-- The role and entry of a group of a launch (03 R50). -/
def Launch.roleOf (r : Launch) (j : Nat) : Nat := if j < r.groups0 then 0 else 1

/-- Place a 64-bit value in a uniform register of a group that starts. -/
def Core.giveG (x : Core) (slot i : Nat) (v : Nat) : Core :=
  match x.group? slot with
  | none => x
  | some g => x.landG g i (BitVec.ofNat 64 v)

/-- The groups of a block, in ascending group index. -/
def groupsOf (r : Launch) (id ctx b : Nat) (table : List (Nat × Nat × Nat)) (traceHigh seed : Nat) : List Group :=
  (List.range table.length).map fun j =>
    let e := table.getD j (0, 0, 0)
    let role := r.roleOf j
    newGroup e.1 id ctx (if e.2.1 = e.2.2 then 64 else 128) b j role e.2.1 e.2.2 (r.points b j) (BitVec.allOnes 32)
      (BitVec.ofNat 57 (if role = 0 then r.entry0 else r.entry1)) (freshMasks (seed + j)) (traceHigh * 32 + e.1)

/-- The address of the cluster exit barrier of a unit's lowest block, which its groups find in g2 (03 R56). -/
def exitAddress (s : State) (unit : Option Nat) : Option Nat :=
  (unit.bind fun u => lowestOf s u).map fun p => exitBarrierAddr p.1 (exitBarrierOff p.2.rec_)

/-- A block whose resources are in place, not yet started: its rows and slots are its own (03 R54). The dispatch count of the core rises, and
the block's groups take their trace ids from it, whenever they start (29 R376; log 38). -/
def reserveBlock (s : State) (c : Nat) (x : Ctx) (r : Launch) (b incarn spbase : Nat) (table : List (Nat × Nat × Nat))
    (routine : Option (Nat × Nat)) (launchId unit inst : Option Nat) (saveVa : Nat) : Nat × State :=
  let n := s.nextId
  let count := (s.core c).dispatches + 1
  let k : Block :=
    { id := n, ctx := x.id, blockIndex := b, incarn := incarn, spbase := spbase, rec_ := r, launchId := launchId, dispatch := count,
      slots := table.map fun (e : Nat × Nat × Nat) => e.1, rows := (table.flatMap fun (e : Nat × Nat × Nat) => [e.2.1, e.2.2]).eraseDups,
      routineRow := routine.map fun p => p.1, routineSlot := routine.map fun p => p.2, unit := unit, inst := inst, elapsed := 0,
      overrun := false, phase := .reserved, saveVa := saveVa, saveOp := none, waiting := true, taken := [], calls := [],
      before := [], marked := false, half := none }
  let extra : List (Nat × Nat × Nat) := match routine with | none => [] | some p => [(p.2, p.1, p.1)]
  let keep (l : List (Nat × Nat × Nat)) (e : Nat × Nat × Nat) : List (Nat × Nat × Nat) :=
    if l.any fun q => q.1 == e.1 then l else l ++ [e]
  (n, { s with nextId := n + 1 }.modCore c fun y =>
    { y with blocks := y.blocks ++ [k], dispatches := count, carved := (table ++ extra).foldl keep y.carved }.setLeases
      (k.rows ++ k.routineRow.toList) .claimed)

/-- The groups' table of a reserved block, from the slots carved for it. -/
def reservedTable (y : Core) (k : Block) : List (Nat × Nat × Nat) :=
  k.slots.filterMap fun slot => y.carved.find? fun p => p.1 == slot

/-- The blocks of a launch with indexes from `lo` to `hi` that agents have claimed (26 R346). -/
def claimedIn (l : LaunchRun) (lo hi : Nat) : Nat :=
  total ((List.range 12).map fun d => min (l.rec_.shareStart d + l.tickets.getD d 0) hi - max (l.rec_.shareStart d) lo)

/-- The resident blocks of a launch with indexes from `lo` to `hi`. -/
def residentIn (s : State) (launch lo hi : Nat) : List Block :=
  s.cores.flatMap fun y => y.blocks.filter fun k => k.launchId == some launch && decide (lo ≤ k.blockIndex) && decide (k.blockIndex < hi)

/-- Whether a block that starts with others begins an instance of level `i`: no block of it has started before (03 R51). -/
def beginsInstance (s : State) (k : Block) (together : List Nat) (i : Nat) : Bool :=
  let r := k.rec_
  let n := max (r.instanceBlocks i) 1
  let lo := k.blockIndex / n * n
  if r.outer.length ≤ i then true
  else match (r.levels[i]?).map fun l => l.domain, k.launchId.bind fun n => s.launch? n with
    | some 0, some l =>
      let waiting := (residentIn s l.id lo (lo + n)).filter fun q => q.phase == .reserved && !together.contains q.blockIndex
      decide (claimedIn l lo (lo + n) ≤ (together.filter fun b => lo ≤ b && b < lo + n).length + waiting.length)
    | _, _ => together.contains lo

/-- Whether an instance of level `i` ends with a block: every other block of it has come to its end (03 R51). -/
def endsInstance (s : State) (k : Block) (i : Nat) : Bool :=
  let n := max (k.rec_.instanceBlocks i) 1
  let lo := k.blockIndex / n * n
  decide (k.rec_.outer.length ≤ i) || n == 1 || (k.launchId.bind fun m => s.launch? m).any fun l =>
    claimedIn l lo (lo + n) == n && (residentIn s l.id lo (lo + n)).all (fun q => q.id == k.id)
      && !(s.ctxs.any fun x => x.id == k.ctx && x.saved.any fun b =>
        b.launchId == some l.id && decide (lo ≤ b.blockIndex) && decide (b.blockIndex < lo + n))

/-- The widest scope of the levels of a block's launch that a test picks. -/
def widestLevel (k : Block) (pick : Nat → Bool) : Scope :=
  ((List.range k.rec_.levels.length).filter pick).foldl
    (fun a i => widerScope a (((k.rec_.levels[i]?).map fun l => scopeOfCode l.scope).getD .group)) .group

/-- The scope at which an agent's operation for a block is performed, under the partition's cap (13 R200). -/
def agentCap (s : State) (k : Block) (sc : Scope) : Scope :=
  if ((s.ctx? k.ctx).any fun x => x.capped) && 5 ≤ scopeRank sc then .pod else sc

/-- The scope of the agent's acquire before the groups of a block start: the widest of the levels whose instances begin with it, under the
partition's cap (03 R51, 13 R200). -/
def levelScope (s : State) (k : Block) (together : List Nat) : Scope :=
  agentCap s k (widestLevel k fun i => beginsInstance s k together i)

/-- A fresh start of a reserved block: rows and scratchpad take new contents, its groups stand at their role entries, g1 holds
ARGS and g2 the exit barrier's address (03 R31, R45, R56, 12 R193, 16 R223, 26 R344). The agent acquires first (03 R51). -/
def startFresh (s : State) (c id : Nat) (together : List Nat) : State :=
  match (s.core c).block? id with
  | none => s
  | some k =>
    let sc := levelScope s k together
    let s := acquireAt s c sc
    let y := s.core c
    let table := reservedTable y k
    let seed := 64 * id
    let gs := groupsOf k.rec_ id k.ctx k.blockIndex table (k.dispatch % 2048) seed
    let rows := k.rows ++ k.routineRow.toList
    let gs := gs.map fun g => { g with podAcquired := decide (5 ≤ scopeRank sc) }
    let y := rows.foldl (fun y r => y.freshRow k.ctx (seed + r) r) y
    let y := y.freshScratch k.ctx (4 * id) k.spbase k.rec_.scratch
    let y := if k.rec_.matrix then { y with matrix := y.matrix.taken id k.ctx id, slotPoison := [] } else y
    let y := { y with
      groups := y.groups ++ gs,
      carved := y.carved.filter fun p => !(k.slots.contains p.1),
      poison := y.poison.filter fun o => o < k.spbase || k.spbase + k.rec_.scratch ≤ o }.setLeases rows .running
    let y := y.modBlock id fun k => { k with phase := .running, rows := [], elapsed := 0, overrun := false, waiting := true }
    let g2 := exitAddress s k.unit
    let y := k.slots.foldl (fun y slot =>
      let y := y.giveG slot 1 k.rec_.args
      match g2 with
      | none => y
      | some a => y.giveG slot 2 a) y
    let s := (s.setCore y).modCtx k.ctx fun x => { x with started := true }
    k.slots.foldl (fun s slot => noteSync s c slot 2 0) s

/-- The exit barrier of a cluster instance as it is set up before any group starts (03 R56). -/
def exitObject (groups : Nat) : Obj := ⟨0, groups, groups, 0, 1 + 2 * 2, 0⟩

/-- Set up the exit barrier in the scratchpad of a cluster instance's lowest block (03 R56). -/
def setExitBarrier (s : State) (u : Nat) : State :=
  let members := s.cores.flatMap fun x => (x.blocks.filter fun b => b.unit == some u).map fun b => (x.index, b)
  let groups := total (members.map fun p => p.2.rec_.groups)
  match lowestOf s u with
  | none => s
  | some (c, b) => writePlace s ⟨c, b.spbase + exitBarrierOff b.rec_⟩ (exitObject groups).image

/-! The end of a block (26 R347, R348). -/

/-- Whether a group has ended. -/
def Group.ended (g : Group) : Bool := g.live == 0 && g.splits.isEmpty

/-- Whether an ended group holds its rows no longer: its store queue empty, DONE equal to CLOSED on all five gates, and no lookahead
result outstanding (26 R347). DESIGN CHOICE (log 13): its stores to other cores, which reach them at the end of the cycle, count too, and so do
grants that have not left (24 R316). -/
def Group.quiet (g : Group) : Bool :=
  g.queue.isEmpty && (g.gates.all fun x => x.done == x.closed) && (g.la.all fun a => !a.outstanding) && g.parts.isEmpty
    && g.permits.isEmpty && g.held.all fun h => h.poisoned.isSome

/-- The rows of a group. -/
def Group.rowsOf (g : Group) : List Nat := [g.first, g.second].eraseDups

/-- Move the rows of ended groups to Draining; the routine row stays with its block (26 R347, 22 R293). -/
def drainRows (y : Core) : Core :=
  y.groups.foldl (fun y g =>
    if g.ended && !isAgent g && g.service.isEmpty then
      g.rowsOf.foldl (fun y r => if y.lease r == .running then y.setLease r .draining else y) y
    else y) y

/-- Whether every group of a block has left the core, so that all of its rows but the routine row are free. -/
def groupsGone (y : Core) (k : Block) : Bool := !(y.groups.any fun g => g.block == k.id)

/-- The writes in flight of a group that leaves its slot take a number of their own in the slot's place, so that they stay apart from
those of the slot's next group. -/
def detachWrites (s : State) (c slot : Nat) : State :=
  let n := 2 ^ 20 + s.nextId
  let f (o : WriteRef) : WriteRef := match o with
    | .write a b seq => if a = c ∧ b = slot then .write c n seq else o
    | _ => o
  let fs (l : List WriteRef) : List WriteRef := l.map f
  { s with
    nextId := s.nextId + 1,
    props := s.props.map fun p => if p.core = c ∧ p.slot = slot then { p with slot := n } else p,
    replicas := s.replicas.map fun r => { r with
      pending := r.pending.map fun p => if p.core = c ∧ p.slot = slot then { p with slot := n } else p },
    sets := s.sets.map fun t => { t with writes := fs t.writes, source := if t.core = c then
      (t.source.map fun (q : Nat × Nat) => if q.1 = slot then (n, q.2) else q) else t.source },
    cores := s.cores.map fun x => { x with
      groups := x.groups.map fun g => { g with
        seen := g.seen.map fun (y : Sight) => { y with ref := f y.ref }, observed := fs g.observed },
      blocks := x.blocks.map fun k => { k with before := fs k.before } } }

/-- The slot that an operation keeps when its block is gone. -/
def noSlot : Nat := 0xFF

/-- The slot that an operation keeps when its group has left its slot. -/
def goneSlot : Nat := 0xFE

/-- An ended group leaves its slot (26 R347): its block keeps the writes that its completion
releases, and operations of its open batches go on without it; reads of an open batch end with it. -/
def groupLeaves (s : State) (c : Nat) (g : Group) : State :=
  let s := s.modBlock c g.block fun k => { k with before := (k.before ++ beforeSet s c g g.nextSeq).eraseDups }
  let s := detachWrites s c g.slot
  let mine (o : Op) : Bool := o.core == c && o.slot == g.slot
  let isRead (o : Op) : Bool := match o.kind with | .reads => true | _ => false
  { s with ops := (s.ops.filter fun o => !(mine o && isRead o)).map fun o => if mine o then { o with slot := goneSlot } else o }.modCore c
    fun y => { y with groups := y.groups.filter fun h => h.slot != g.slot }

/-- A draining row becomes Free once every group that held it is quiet, and a group's slot with its last row (26 R347). -/
def freeRow (s : State) (c r : Nat) : State :=
  let y := s.core c
  if y.lease r == .draining && (y.groups.all fun g => !(g.rowsOf.contains r) || (g.ended && g.quiet)) then
    let y := y.setLease r .free
    let gone := y.groups.filter fun g => g.ended && g.quiet && !isAgent g && g.rowsOf.all fun q => y.lease q == .free
    gone.foldl (fun s g => groupLeaves s c g) (s.setCore y)
  else s

/-- A block has completed: its scratchpad allocation, routine row and slot, and the matrix engine are released, and its completion is
published from now on (26 R348, 22 R293). -/
def completeBlock (s : State) (c : Nat) (k : Block) : State := s.modCore c fun y =>
  ({ y with
    matrix := if y.matrix.holder == some k.id then { y.matrix with holder := none, queue := [], used := 0, slots := List.replicate 64 .free } else y.matrix,
    carved := y.carved.filter fun p => k.routineSlot != some p.1 }.setLeases k.routineRow.toList .free).modBlock k.id
    fun k => { k with phase := .publishing, routineRow := none, routineSlot := none }

/-- Release what a block holds: its operations in flight (the walks that a save has put into its image, 22 R307), its routine row and
slot, its scratchpad and the matrix engine, and its channel ends (22 R293, 24 R309, 26 R348). Messages that a flush left to land stay. -/
def dropBlock (s : State) (c id : Nat) : State :=
  let s := ((s.core c).groups.filter fun g => g.block == id).foldl (fun s g => detachWrites s c g.slot) s
  let t : State := { s with ops := s.ops.filter fun o => !(o.core == c && o.block == id && o.slot != noSlot) }
  t.modCore c fun y =>
  match y.block? id with
  | none => y
  | some k =>
    let gone := y.groups.filter fun g => g.block == id
    let rows := k.rows ++ k.routineRow.toList
    let y := { y with groups := y.groups.filter fun g => g.block != id, blocks := y.blocks.filter fun b => b.id != id,
                      ends := y.ends.filter fun e => e.block != id,
                      matrix := if y.matrix.holder == some id then { y.matrix with holder := none, queue := [], used := 0, slots := List.replicate 64 .free } else y.matrix,
                      carved := y.carved.filter fun p => !(k.rows.contains p.2.1 || k.routineSlot == some p.1) }
    (y.setLeases rows .free).setLeases (gone.flatMap fun g => g.rowsOf) .free

end Sys2Proof.Machine
end

