-- ==== Sys2Proof/Machine/EngineMem.lean ====
section
/-! DEFINITION. The accesses that engines make to memory on a context's behalf (05 R78, R79, R392, 13 R216). -/

namespace Sys2Proof.Machine

/-- The home addresses of placed spans, for a party on a die: one address a byte (05 R82). -/
def homeAddrs (s : State) (die : Nat) (x : Ctx) : List (Page × Nat) → List Nat
  | [] => []
  | (p, n) :: r =>
    let pa := if p.repl then ((replicaOf s x p.rset).map fun d => replicaRead d die p.pa).getD p.pa else p.pa
    (List.range n).map (pa + ·) ++ homeAddrs s die x r

/-- What an engine's access gives. -/
inductive EngineGot where
  /-- The access may be made: its spans, and the state with its translations. -/
  | ok (ps : List (Page × Nat)) (s : State)
  /-- A fault record waits for its answer, or for room in the fault queue: nothing else has changed. -/
  | held (s : State)
  /-- An address outside local memory and the attic window: the outcome of a FAIL answer, at once. -/
  | lost (va : Nat) (s : State)

/-- Whether a lane of an operation waits for the answer of a fault record. -/
def opWaits (s : State) (o : Op) (lane : Nat) : Bool :=
  match s.ctx? o.ctx with
  | none => false
  | some x => x.faults.any fun f => f.owner == .op o.id lane

/-- %cycle of an operation's group at a fault, or of its context if the group is gone. -/
def opTime (s : State) (o : Op) (x : Ctx) : Nat :=
  match s.group? o.core o.slot with
  | some g => timeOf s g
  | none => x.cycles

/-- Translate an access of part `part` of an operation; a fault's record names the lanes `lanes` (05 R79, R392). -/
def partSpans (s : State) (o : Op) (x : Ctx) (part : Nat) (lanes : Mask) (kind : Nat) (need : Need) (va n : Nat) : EngineGot :=
  if highVa va || highVa (va + n - 1) then .lost va s
  else match placeSpans (.core o.core) x need s (spansOf va n) with
    | (.ok ps, t) => if ps.any fun p => cutOff s p.1.pa o.id then .lost va t else .ok ps t
    | (.error (.unresolved, a), t) => .lost a t
    | (.error (.fault c, a), t) =>
      match postFault t x a (groupSource o.core o.slot) kind c lanes o.batch.toNat (opTime s o x) (.op o.id part) with
      | (none, _) => .held s
      | (some _, u) => .held u

/-- The spans of an engine's access with those that go to attic nodes sealed, each marked if it fails (28 R357, R358). -/
def sealSpans (ctx : Nat) : State → List (Page × Nat) → List (Page × Nat) × State
  | s, [] => ([], s)
  | s, (p, n) :: r =>
    if p.attic then
      let t := atticTrip s ctx p.key (atticPort p.pa)
      let u := sealSpans ctx t.2 r
      (({ p with forged := !t.1 }, n) :: u.1, u.2)
    else
      let u := sealSpans ctx s r
      ((p, n) :: u.1, u.2)

/-- Seal an access whose translation has succeeded: a read that fails is poisoned, another access is as one whose address nothing answers (28
R358). -/
def sealGot (x : Ctx) (need : Need) (va : Nat) : EngineGot → EngineGot
  | .ok ps t =>
    let u := sealSpans x.id t ps
    if need != .load && u.1.any fun p => p.1.forged then .lost va u.2 else .ok u.1 u.2
  | r => r

/-- Translate an access of a lane of an operation, and seal it. -/
def engineSpans (s : State) (o : Op) (x : Ctx) (lane kind : Nat) (need : Need) (va n : Nat) : EngineGot :=
  sealGot x need va (partSpans s o x lane (oneLane lane) kind need va n)

/-- A byte of memory as an engine reads it: at its home slice, or for an attic line after a release at POD as the attic node has it, with
what is on its way there (13 R216). -/
def engineByte (s : State) (pod : Bool) (pa : Nat) : Byte :=
  if pod && isAttic pa && (beyondRefs s pa).isEmpty then Memory.read s.mem pa else s.homeByte pa

/-- The bytes of an access at home, each with its poison (13 R216, 28 R358, 31 R380). -/
def engineBytes (s : State) (die : Nat) (pod : Bool) (x : Ctx) (ps : List (Page × Nat)) : List (Byte × Bool) :=
  ps.flatMap fun p => (homeAddrs s die x [p]).map fun pa => (engineByte s pod pa, p.1.forged || poisonedMem s pa 1)

/-- The bytes that an engine operation reads. -/
def opBytes (s : State) (o : Op) (x : Ctx) (ps : List (Page × Nat)) : List (Byte × Bool) := engineBytes s (dieOfCore o.core) o.pod x ps

/-- Write bytes at home: their poison is that of the bytes (31 R380). -/
def engineWrite (wr : Writer) (x : Ctx) : State → List (Page × Nat) → List (Byte × Bool) → State
  | s, [], _ => s
  | s, (p, n) :: r, bs =>
    let now := bs.take n
    let bad := ((List.range now.length).filter fun i => (now[i]?.map Prod.snd).getD false).map (p.pa + ·)
    let t := if p.repl then stampWrite s x p.rset (cellsOf p.pa (now.map Prod.fst)) bad wr
      else
        let t := homeWrite s p.pa (now.map Prod.fst)
        { t with memPoison := bad ++ t.memPoison }
    engineWrite wr x t r (bs.drop n)

/-- Whether stamped writes of an engine operation are still to be applied by members (05 R83, 13 R217). -/
def replPending (s : State) (o : Op) : Bool := (stampedOf s o.ctx).any fun p => p.2.op == some o.id

/-- Whether stamped writes of a context's agents are still to be applied by members (05 R83). -/
def agentPending (s : State) (ctx : Nat) : Bool := (stampedOf s ctx).any fun p => p.2.core == 0xFFFF && p.2.op.isNone

/-- The copies of written bytes in core views are behind an engine's write (13 R211, R217). -/
def passViews (s : State) (ps : List (Page × Nat)) : State :=
  { s with cores := s.cores.map fun y => { y with view := y.view.map fun v =>
      if (ps.any fun p => decide (p.1.pa / 128 ≤ v.line) && decide (v.line * 128 < p.1.pa + p.2)) then { v with behind := true } else v } }

/-- Land bytes in a core's scratchpad: their poison is that of the bytes (31 R380). -/
def Core.landBytes (x : Core) (off : Nat) (bs : List (Byte × Bool)) : Core :=
  let y := x.putScratch off (bs.map Prod.fst)
  { y with poison := ((List.range bs.length).filter fun i => (bs[i]?.map Prod.snd).getD false).map (off + ·) ++ y.poison }

/-- Land bytes at a place: the WAITs on an object there test it (12 R176). -/
def landAt (s : State) (p : Place) (bs : List (Byte × Bool)) : State := testWaits (s.modCore p.core fun x => x.landBytes p.off bs) p bs.length

/-- The bytes of a range of a core's scratchpad, each with its poison. -/
def Core.markedBytes (x : Core) (off n : Nat) : List (Byte × Bool) :=
  (List.range n).map fun i => (x.scratch.byte (off + i), x.poison.contains (off + i))

/-- Credit a barrier object of a core with landed bytes, for part `part` of an operation (05 R68). -/
def creditBytes (s : State) (core off n : Nat) (o : Op) (part : Nat) (addr : Nat) : State :=
  queueUpdate s ⟨core, off, (2, 0), false, false, 0, n, .credit o.ctx (some (o.id, part)) (BitVec.ofNat 64 addr)⟩

/-- Whether an operation's credits have all been applied or rejected (16 R245). -/
def creditsSettled (s : State) (o : Op) : Bool :=
  !s.updates.any fun u => match u.source with
    | .credit _ (some (n, _)) _ => n == o.id
    | _ => false

/-- A trap that an operation owes its issuing group at a WAIT on its batch (05 R78). -/
def oweTrap (s : State) (o : Op) (object : Option Nat) (cause : Cause) (bad : DWord) (lanes : Mask) : State :=
  s.modGroup o.core o.slot fun g =>
    { g with due := g.due ++ [⟨some (o.gate, o.batch), object, false, o.split, cause, bad, lanes, o.id⟩] }

/-- The base and size of a block's scratchpad allocation. -/
def allocOf (s : State) (core block : Nat) : Nat × Nat :=
  match (s.core core).block? block with
  | some b => (b.spbase, b.rec_.scratch)
  | none => (0, Config.scratchBytes core)

end Sys2Proof.Machine
end

