-- ==== Sys2Proof/Machine/Priv.lean ====
section
/-! DEFINITION. The privileged instructions of the firmware agents but CTXSAVE and CTXLOAD: LEASE, CARVE, DISPATCH, TLBINV and
KEYSET (12_uniform R189 to R193, R196, R197). -/

namespace Sys2Proof.Machine

/-- Why a record address traps: R63 with an alignment of its own. -/
def recordFault (s : State) (w : Issuer) (size align a : Nat) : Option Cause :=
  if outOfRange s w size a then some .scratchRange
  else if nonMember s w a then some .remoteNonmember
  else if bits a 0 19 % align ≠ 0 then some .misaligned else none

/-- The check of a record address of a uniform instruction, before its effect. -/
def checkedRecord (s : State) (w : Issuer) (size align a : Nat) (ok : State) : State :=
  match recordFault s w size align a with
  | some c => trapAll s w c (BitVec.ofNat 64 a)
  | none => ok

/-- LEASE (12 R190). -/
def execLease (d a : GReg) (s : State) : Host.Outcome State Fault Refusal :=
  uniIssue s (.lease d a) true [] (readsG [a]) fun w =>
    let v := (uniG s w a).toNat
    let r := v % 64
    let old := w.core.lease r
    let t := match bits v 8 2, old with
      | 1, .free => s.modCore w.c fun x => x.setLease r .claimed
      | 2, .claimed => s.modCore w.c fun x => x.release r
      | _, _ => s
    heldDone t w d (BitVec.ofNat 64 old.number) none

/-- The bytes of a group table in a dispatch record, from GROUPS on (12 R191). -/
def tableBytes (table : List (Nat × Nat × Nat)) : List Byte :=
  (table.flatMap fun e => [BitVec.ofNat 8 e.1, BitVec.ofNat 8 e.2.1, BitVec.ofNat 8 e.2.2])
    ++ List.replicate (96 - 3 * table.length) 0

/-- CARVE (12 R192). -/
def execCarve (d a b : GReg) (s : State) : Host.Outcome State Fault Refusal :=
  uniIssue s (.carve d a b) true [] (readsG [a, b]) fun w =>
    let at_ := uniAddr s w a
    checkedRecord s w 128 16 at_
      (let p := placeOf s w at_
      match carveFor w.core ((readPlace s ⟨p.core, p.off + 24⟩ 8)) (fun r => bit (uniG s w b).toNat r) with
      | .failed k => heldDone s w d (BitVec.ofNat 64 k) none
      | .ok table =>
        let t := writePlace (writePlace s ⟨p.core, p.off + 2⟩ [BitVec.ofNat 8 table.length]) ⟨p.core, p.off + 32⟩ (tableBytes table)
        heldDone (t.modCore w.c fun x => { x with carved := x.carved ++ table }) w d 0 none)

/-! DISPATCH (12 R193). -/

/-- Whether two ranges of bytes meet. -/
def rangesMeet (a n b m : Nat) : Bool := a < b + m && b < a + n

/-- Whether a core's resources are in place for a block: its carved rows and slots, its scratchpad bytes, and the matrix engine
(12 R193, 16 R223). -/
def resourcesOk (x : Core) (r : Launch) (spbase : Nat) (table : List (Nat × Nat × Nat)) : Bool :=
  (table.all fun e => x.carved.contains e) && spbase + r.scratch ≤ Config.scratchBytes x.index
    && (x.blocks.all fun b => b.phase == .publishing || (!rangesMeet spbase r.scratch b.spbase b.rec_.scratch && !(r.matrix && b.rec_.matrix)))

/-- The routine row and slot of a traversal block: the lowest row the agent has claimed and not carved, and a free slot (22
R293). -/
def routineFor (x : Core) (r : Launch) : Option (Option (Nat × Nat)) :=
  if !r.traversal then some none
  else match (List.range 64).find? fun n => x.lease n == .claimed && !x.rowCarved n, pickSlot x.slotTaken with
    | some row, some slot => some (some (row, slot))
    | _, _ => none

/-- The rows of a core that an agent may claim for a block: free rows of the set it chose, never row 0 (12 R189, R190). -/
def claimable (y : Core) (p : Placement) : List Nat :=
  (List.range 64).filter fun r => r != 0 && bit p.rows r && y.lease r == .free

/-- An agent claims and carves for a block of a launch on a core: the core as carved, the groups' table, and the routine row and
slot (26 R346, 12 R190, R192). None if the rows it chose, the slots or the scratchpad do not suffice. -/
def agentCarve (y : Core) (r : Launch) (p : Placement) : Option (Core × List (Nat × Nat × Nat) × Option (Nat × Nat)) :=
  let needs := List.replicate r.groups0 r.rows0 ++ List.replicate r.groups1 r.rows1
  let rows := claimable y p
  match takeRows needs rows, pickSlots y.slotTaken needs.length with
  | some pairs, some slots =>
    let table := slots.zip pairs
    let used := pairs.flatMap fun q => [q.1, q.2]
    let extra := if r.traversal then (rows.filter fun n => !used.contains n).take 1 else []
    let y := { y with carved := y.carved ++ table }.setLeases (used.eraseDups ++ extra) .claimed
    let routine : Option (Option (Nat × Nat)) :=
      if !r.traversal then some none
      else match extra, pickSlot y.slotTaken with
        | n :: _, some slot => some (some (n, slot))
        | _, _ => none
    match routine with
    | some q => if resourcesOk y r p.spbase table && p.spbase % 256 == 0 then some (y, table, q) else none
    | none => none
  | _, _ => none

/-- Whether a dispatch record agrees with the launch record it names (12 R191). -/
def recordAgrees (d : DRecord) (r : Launch) : Bool :=
  d.zerosOk && d.groups == r.groups && d.block < r.blocks
    && d.roles == bytesOf 1 r.rows0 ++ bytesOf 1 r.groups0 ++ bytesOf 1 r.rows1 ++ bytesOf 1 r.groups1 ++ bytesOf 4 r.scratch
    && (d.table.zip (roleRows d.roles)).all fun p => (p.1.2.1 == p.1.2.2) == (p.2 == 1)

/-- Insert a number in ascending order. -/
def insertNat (b : Nat) : List Nat → List Nat
  | [] => [b]
  | c :: r => if b ≤ c then b :: c :: r else c :: insertNat b r

/-- The launch being run that a block belongs to. -/
def launchRunOf (s : State) (ctx va : Nat) : Option Nat :=
  (s.launches.find? fun l => l.ctx == ctx && l.rec_.va == va).map fun l => l.id

/-- Whether two blocks of a launch lie in one instance of level `i` (03 R50). -/
def sameInstance (r : Launch) (i a b : Nat) : Bool := a / max (r.instanceBlocks i) 1 == b / max (r.instanceBlocks i) 1

/-- The other blocks that one launch has reserved on the cores. -/
def reservedWith (s : State) (ctx : Nat) (r : Launch) (launchId : Option Nat) : List (Nat × Block) :=
  s.cores.flatMap fun y => (y.blocks.filter fun k =>
    k.ctx == ctx && k.rec_.va == r.va && k.launchId == launchId && k.phase == .reserved).map fun k => (y.index, k)

/-- The instance of level `i` that a block belongs to, by the number its reserved members have, or a new number. -/
def joinInstance (s : State) (ctx : Nat) (r : Launch) (launchId : Option Nat) (b : Nat) (level : Option Nat) (num : Block → Option Nat) :
    Option Nat × State :=
  match level with
  | none => (none, s)
  | some i =>
    match (reservedWith s ctx r launchId).find? fun p => sameInstance r i p.2.blockIndex b with
    | some p => (num p.2, s)
    | none => let n := s.fresh; (some n.1, n.2)

/-- The reserved blocks that start together with a block of a launch: those of its co-scheduled instance, or it alone (03 R54). -/
def instanceMembers (s : State) (ctx : Nat) (r : Launch) (launchId : Option Nat) (b : Nat) : List (Nat × Block) :=
  (reservedWith s ctx r launchId).filter fun p => match r.unitLevel with
    | none => p.2.blockIndex == b
    | some i => sameInstance r i p.2.blockIndex b

/-- Whether a core may hold a block of a cluster instance: in the cluster of its other blocks, one block a core (03 R54, R391). -/
def clusterPlaceOk (s : State) (ctx : Nat) (r : Launch) (launchId : Option Nat) (b c : Nat) : Bool :=
  match r.clusterLevel with
  | none => true
  | some i => (reservedWith s ctx r launchId).all fun p =>
      !sameInstance r i p.2.blockIndex b
        || (p.1 != c && Config.dieOf p.1 == Config.dieOf c && Config.clusterOf p.1 == Config.clusterOf c)

/-- Whether the resident blocks of a block's CORE-domain instance lie on a core (03 R50). -/
def coreShared (s : State) (ctx : Nat) (r : Launch) (launchId : Option Nat) (b c : Nat) : Bool :=
  r.coreLevel.all fun i => s.cores.all fun y => y.index == c || !(y.blocks.any fun k =>
    k.ctx == ctx && k.rec_.va == r.va && k.launchId == launchId && sameInstance r i k.blockIndex b)

/-- Whether a core may hold a block of an instance of a CORE-domain level: the core of its other blocks (03 R50). -/
def corePlaceOk (s : State) (ctx : Nat) (r : Launch) (launchId : Option Nat) (b c : Nat) : Bool :=
  match r.coreLevel with
  | none => true
  | some i =>
    coreShared s ctx r launchId b c
    && ((launchId.bind fun n => s.launch? n).bind fun l => l.homes.find? fun h => sameInstance r i h.1 b).all fun h => h.2 == c

/-- Whether a core may hold a block of a launch (03 R50, R54, R391). -/
def placeFits (s : State) (ctx : Nat) (r : Launch) (launchId : Option Nat) (b c : Nat) : Bool :=
  clusterPlaceOk s ctx r launchId b c && corePlaceOk s ctx r launchId b c

/-- Keep the core of a block's CORE-domain instance (03 R50). -/
def keepHome (s : State) (r : Launch) (launchId : Option Nat) (b c : Nat) : State :=
  match r.coreLevel, launchId with
  | some i, some n => if r.instanceBlocks i ≤ 1 then s else s.modLaunch n fun l =>
      { l with homes := if l.homes.any fun h => sameInstance r i h.1 b then l.homes else (b, c) :: l.homes }
  | _, _ => s

/-- A restore has put a block on a core: that is the core of its CORE-domain instance from now on (03 R50). -/
def moveHome (s : State) (r : Launch) (launchId : Option Nat) (b c : Nat) : State :=
  match r.coreLevel, launchId with
  | some i, some n => if r.instanceBlocks i ≤ 1 then s else s.modLaunch n fun l =>
      { l with homes := (b, c) :: l.homes.filter fun h => !sameInstance r i h.1 b }
  | _, _ => s

/-- Whether every block of the instance has its place. -/
def instanceWhole (r : Launch) (members : List (Nat × Block)) : Bool :=
  members.length == match r.unitLevel with
    | none => 1
    | some i => r.instanceBlocks i

/-- Start the reserved blocks of an instance in one step, if they are admitted together (03 R54, 18 R260). -/
def startInstance (s : State) (x : Ctx) (members : List (Nat × Block)) : Option State :=
  let cost := total (members.map fun p => (committed s p.1 x p.2.rec_ 0).1)
  if x.vb < vfix s x + cost + maxSum s x then none
  else
    let units := (members.filterMap fun p => p.2.unit).eraseDups
    let together := members.map fun p => p.2.blockIndex
    some (units.foldl setExitBarrier (members.foldl (fun s p => startFresh s p.1 p.2.id together) s))

/-- Reserve the resources of a block of a launch, with its instances (03 R54). -/
def placeBlock (s : State) (c : Nat) (x : Ctx) (r : Launch) (b incarn spbase : Nat) (table : List (Nat × Nat × Nat))
    (routine : Option (Nat × Nat)) (launchId : Option Nat) : Nat × State :=
  let u := joinInstance s x.id r launchId b r.clusterLevel fun k => k.unit
  let v := joinInstance u.2 x.id r launchId b r.unitLevel fun k => k.inst
  reserveBlock (keepHome v.2 r launchId b c) c x r b incarn spbase table routine launchId u.1 v.1 0

/-- The source of what a core's agent reports of its own accesses (26 R343). -/
def agentSource (c : Nat) : EventSource := (Config.dieOf c, Config.clusterOf c, Config.coreOf c, 0xFF)

/-- The status of a dispatch of a record, with the state (12 R193); none while the read of the launch record waits for the answer to its
fault (05 R392, 26 R343). DESIGN CHOICE (log 68): where several conditions fail, the status is the first of 4, 3, 2 and 1; a place that
breaks R50 or R54 gives status 2, and a context that is being vacated or is halted admits nothing (18 R261, 29 R369), which gives status 1.
-/
def dispatchRecord (s : State) (c : Nat) (d : DRecord) (o : FaultOwner) : Option Nat × State :=
  match ctxForWork s d.ctx with
  | (none, t) => (some 4, t)
  | (some x, t) =>
    match readLaunch t (.core c) x d.launch (boundConsumer t x.id) with
    | (.ok r, u) =>
      let die := Config.dieOf c
      let y := u.core c
      if !recordAgrees d r || !u.holdsCluster x.func (Config.clusterIndex die (Config.clusterOf c)) then (some 4, u)
      else if d.block < r.shareStart die ∨ r.shareStart die + r.share die ≤ d.block then (some 3, u)
      else if !resourcesOk y r d.spbase d.table then (some 2, u)
      else match routineFor y r with
        | none => (some 2, u)
        | some routine =>
          let n := launchRunOf u x.id r.va
          if !placeFits u x.id r n d.block c then (some 2, u)
          else if x.phase == .vacating || x.halted || (r.unitLevel.isNone && !admits u x c r) then (some 1, u)
          else
            let t := (placeBlock u c x r d.block d.incarn d.spbase d.table routine n).2
            let members := instanceMembers t x.id r n d.block
            if instanceWhole r members then
              match startInstance t x members with
              | some v => (some 0, v)
              | none => (some 1, u)
            else (some 0, t)
    | (.failed (.fault e) a, u) => (none, postOrWait u x a (agentSource c) 0 e o)
    | (_, u) => (some 4, u)

/-- DISPATCH (12 R193): it is held while its read of the launch record waits for an answer. DESIGN CHOICE (log 68): FAIL gives status 4. -/
def execDispatch (d a : GReg) (s : State) : Host.Outcome State Fault Refusal :=
  uniIssue s (.dispatch d a) true [] (readsG [a]) fun w =>
    let at_ := uniAddr s w a
    checkedRecord s w 128 16 at_
      (let owner := FaultOwner.dispatch w.c w.slot w.idx
      if w.sp.hold == .recordFailed then heldDone s w d 4 none
      else if s.ctxs.any fun x => x.asks owner then holdIt s w .faultSuspension
      else match dispatchRecord s w.c (drecordOf (readPlace s (placeOf s w at_) 128)) owner with
      | (some n, t) => heldDone t w d (BitVec.ofNat 64 n) none
      | (none, t) => holdIt t w .faultSuspension)

/-! TLBINV (12 R196). -/

/-- An agent's queued operation: no charge (12 R189). -/
def agentOp (s : State) (w : Issuer) (gate : Gate) (k : OpKind) : State := (forkOp s w gate 14 0 k).2

/-- TLBINV (12 R196). -/
def execTlbinv (a b : GReg) (s : State) : Host.Outcome State Fault Refusal :=
  uniIssue s (.tlbinv a b) true [] (readsG [a, b]) fun w =>
    let v := (uniG s w b).toNat
    let size := bits v 12 2
    let kind := if bits v 10 2 = 0 ∧ size = 3 then 1 else min (bits v 10 2) 2
    done (agentOp s w .gl (.tlbinv (v % 1024) kind size (uniG s w a).toNat)) w

/-- Remove the translations that an invalidation names (12 R196). -/
def invalidate (s : State) (ctx kind size va : Nat) : State :=
  let shift := if size = 0 then 16 else if size = 1 then 26 else 36
  let hit (e : CachedLeaf) : Bool :=
    if kind = 2 then true
    else if kind = 1 then e.ctx == ctx
    else e.ctx == ctx && (e.vpage * 2 ^ levelShift e.level / 2 ^ shift == va % 2 ^ 57 / 2 ^ shift
      || va % 2 ^ 57 / 2 ^ levelShift e.level == e.vpage)
  { s with cache := s.cache.filter fun e => !hit e }

/-- TLBINV_COMPLETE (12 R196). -/
def execTlbinvComplete (op : Nat) (s : State) : Host.Outcome State Fault Refusal :=
  .next (match s.op? op with
  | none => s
  | some o =>
    match o.kind with
    | .tlbinv ctx kind size va => completeOp (invalidate s ctx kind size va) o
    | _ => s)

/-! KEYSET (12 R197). -/

/-- Replace a key slot, or clear it. -/
def setKey (s : State) (k : Nat) (v : Option KeySlot) : State := s.modDev fun d =>
  { d with keys := (match v with | none => [] | some x => [x]) ++ d.keys.filter fun x => x.index != k }

/-- Whether a key record's bytes are allowed. -/
def keyRecordOk (bs : List Byte) : Bool := fieldOf bs 32 1 ≤ 63 && fieldOf bs 33 1 < 2 && fieldOf bs 34 30 == 0

/-- KEYSET (12 R197). -/
def execKeyset (d a b : GReg) (s : State) : Host.Outcome State Fault Refusal :=
  uniIssue s (.keyset d a b) true [] (readsG [a, b]) fun w =>
    let at_ := uniAddr s w b
    let k := (uniG s w a).toNat % 256
    checkedRecord s w 64 16 at_
      (let p := placeOf s w at_
      let bs := readPlace s p 64
      if !keyRecordOk bs then heldDone s w d 1 none
      else
        let slot : Option KeySlot := if bit (fieldOf bs 33 1) 0 then some ⟨k, bs.take 32, fieldOf bs 32 1, []⟩ else none
        heldDone (writePlace (setKey s k slot) p (List.replicate 32 0)) w d 0 none)

end Sys2Proof.Machine
end

