-- ==== Sys2Proof/Machine/Packets.lean ====
section
/-! DEFINITION. Queues and their packets: fetching, starting and completing them (26_command R331 to R343). -/

namespace Sys2Proof.Machine

/-- Whether a queue is served: RUNNING, enabled and switched in; in reduced service only with RSTOL, and before it not at all (26 R331,
R334, 31 R383). -/
def queueServed (s : State) (y : Queue) : Bool :=
  s.dev.commit && s.queueState y.id == 1 && queueEnabled s y.id && !y.out
    && (match s.dev.service with | .full => true | .reduced => queueTolerates s y.id | .training => false)

/-- Whether a queue may fetch and start packets: it is served, its context runs, and no fault of it is unanswered (26 R331, R343). -/
def queueRuns (s : State) (x : Ctx) (y : Queue) : Bool :=
  queueServed s y && x.valid && !queueWaits x y.id && x.phase == .idle && !x.halted

/-! Where the next packet lies (26 R336, R339). -/

/-- Leave the chain levels whose packets have all started. -/
def popChain : List (Nat × Nat × Nat) → List (Nat × Nat × Nat)
  | [] => []
  | (va, n, i) :: r => if n ≤ i then popChain r else (va, n, i) :: r

/-- The path of the packets that hold an open chain's levels: the ring index, then the index of each CHAIN within its block. -/
def chainPath (y : Queue) : List (Nat × Nat × Nat) → List Nat
  | [] => []
  | _ :: r => chainPath y r ++ (match r with | [] => [y.fetched - 1] | (_, _, i) :: _ => [i - 1])

/-- The next packet of a queue: its path, its address, and the chain levels open around it. -/
def nextPacket (s : State) (y : Queue) : Option (List Nat × Nat × List (Nat × Nat × Nat)) :=
  let ch := popChain y.chain
  match ch with
  | (va, _, i) :: _ => some (chainPath y ch ++ [i], va + 16 * i, ch)
  | [] =>
    if queueTail s y.id ≤ y.fetched then none
    else some ([y.fetched], queueRing s y.id + 16 * (y.fetched % queueSize s y.id), [])

/-- The queue after its next packet has started. -/
def advanceQueue (y : Queue) (ch : List (Nat × Nat × Nat)) : Queue :=
  match ch with
  | (va, n, i) :: r => { y with chain := (va, n, i + 1) :: r }
  | [] => { y with chain := [], fetched := y.fetched + 1 }

/-- The path of the packet before one in its sequence. -/
def pathBefore (path : List Nat) : Option (List Nat) :=
  match path.getLast? with
  | some n => if n = 0 then none else some (path.dropLast ++ [n - 1])
  | none => none

/-- Whether the packet before one has BARRIER set and has not completed (26 R336). -/
def barred (y : Queue) (path : List Nat) : Bool :=
  match pathBefore path with
  | none => false
  | some p => y.started.any fun k => k.path == p && bit k.flags 0

/-- A packet as fetched (26 R335). -/
structure Packet where
  type : Nat
  flags : Nat
  aux : Nat
  ptr : Nat
  sigField : Nat
  deriving DecidableEq, Repr

/-- A packet from its 16 bytes. -/
def packetOf (bs : List Byte) : Packet := ⟨fieldOf bs 0 1, fieldOf bs 1 1, fieldOf bs 2 2, 16 * fieldOf bs 4 6, fieldOf bs 10 6⟩

/-- The completion signal of a packet, if it has one (26 R335). -/
def Packet.sig (p : Packet) : Option Nat := if bit p.flags 6 then some (16 * p.sigField) else none

/-- Whether a packet breaks R335 to R341 in its own bytes. -/
def Packet.bad (p : Packet) : Bool :=
  bit p.flags 7 || (match p.type with
    | 0 => p.aux != 0
    | 1 => 2 ≤ p.aux || p.ptr == 0
    | 2 => p.aux == 0 || 8 < p.aux || p.ptr == 0
    | 3 => p.aux != 0 || p.ptr == 0
    | 4 => 2 ≤ p.aux || p.ptr == 0 || bit p.flags 6
    | 5 => p.aux == 0 || 256 < p.aux || p.ptr == 0
    | 6 => false
    | _ => true)

/-- What fetching the next packet of a queue comes to. -/
inductive PacketFetch where
  /-- No packet may start now. -/
  | idle
  /-- The queue met an error, or waits for the answer of a fault. -/
  | stopped (s : State)
  | ok (x : Ctx) (y : Queue) (path : List Nat) (ch : List (Nat × Nat × Nat)) (p : Packet) (s : State)

/-- Whether a queue could fetch its next packet now, its context read again where it stands at a boundary: a refused one is then halted (26
R328, R334). -/
def couldFetch (s : State) (y : Queue) : Bool :=
  let y := queueNow s y
  queueServed s y && ((nextPacket s y).any fun n => !barred y n.1) && ((ctxForWork s y.ctx).1.all fun x => queueRuns s x y)

/-- Whether a queue of higher PRIO of the same engine is to be fetched from first (26 R334). -/
def outranked (s : State) (y : Queue) : Bool :=
  s.queues.any fun z => z.id % 4 == y.id % 4 && decide (queuePrio s y.id < queuePrio s z.id) && couldFetch s z

/-- Fetch the next packet of a queue (26 R333, R336): BAD_PACKET halts it, whatever its type; a refused context stops its queues
(26 R328). A queue whose descriptor names another context by now goes on under that (26 R331). -/
def fetchPacket (s : State) (q : Nat) : PacketFetch :=
  let s := s.modQueue q (queueNow s)
  match s.queue? q with
  | none => .idle
  | some y =>
    if !queueServed s y || outranked s y then .idle
    else match nextPacket s y with
    | none => .idle
    | some (path, va, ch) =>
      if barred y path then .idle
      else match ctxForWork s y.ctx with
        | (none, t) => .stopped t
        | (some x, s) =>
          if !queueRuns s x y then .idle
          else match readVa s (chainTlb q) x va 16 with
            | (.error (e, a), t) => .stopped (queueFails t x q e a 0 6 none path)
            | (.ok bs, t) =>
              let p := packetOf bs
              if p.bad then .stopped (queueError t x q 1 p.sig (path.headD 0)) else .ok x y path ch p t

/-- A packet has started: it is kept until it completes (26 R336). -/
def startPacket (s : State) (q : Nat) (path : List Nat) (ch : List (Nat × Nat × Nat)) (p : Packet) (done : Bool)
    (f : Started → Started) : State :=
  s.modQueue q fun y => { advanceQueue y ch with
    started := y.started ++ [f ⟨path, p.type, p.flags, p.aux, p.ptr, p.sig, none, none, 0, done, false, [], none⟩] }

/-- The scope of a packet's acquire: ACQSCOPE, for a wait list PACKAGE where ACQ is clear (26 R335, R336, R341). -/
def acquireScope (flags : Nat) (list : Bool) : Option Nat :=
  if bit flags 1 then some (bits flags 2 2) else if list then some 1 else none

/-- An acquire for the work of a queue's packet (26 R336, 13 R207): the clean copies of the engine's die, or of the package, drop, and beyond
PACKAGE the home slices take the attic nodes' bytes again. -/
def packetAcquire (s : State) (q : Nat) (scope : Option Nat) : State :=
  match scope with
  | none => s
  | some n =>
    let t : State := { s with cores := s.cores.map fun y => if n ≠ 0 || Config.dieOf y.index == q % 4 then { y with view := [] } else y }
    if 2 ≤ n then (t.attic.map fun v => v.line).foldl refreshAttic t else t

/-- Start the next packet of a queue if it is of a type and its AUX fits: what is particular to the type is `go`. -/
def startNext (s : State) (q : Nat) (fits : Packet → Bool)
    (go : State → Ctx → Queue → List Nat → List (Nat × Nat × Nat) → Packet → State) : Host.Outcome State Fault Refusal :=
  .next (match fetchPacket s q with
  | .idle => s
  | .stopped t => t
  | .ok x y path ch p t => if fits p then go (packetAcquire t q (acquireScope p.flags false)) x y path ch p else s)

/-- PACKET_NOP (26 R336): it completes at once. -/
def execPacketNop (queue : Nat) (s : State) : Host.Outcome State Fault Refusal :=
  startNext s queue (fun p => p.type == 0) fun t _ _ path ch p => startPacket t queue path ch p true id

/-- PACKET_EVENT (26 R336, R352): the record is written or dropped. -/
def execPacketEvent (queue : Nat) (s : State) : Host.Outcome State Fault Refusal :=
  startNext s queue (fun p => p.type == 6) fun t x _ path ch p =>
    startPacket (postEvent t x.id .queueEvent queue p.aux (p.ptr / 16) (chainSource queue)) queue path ch p true id

/-- PACKET_SIGNAL_SET (26 R338): the packet starts; its write is performed at its completion. -/
def execPacketSignalSet (queue : Nat) (s : State) : Host.Outcome State Fault Refusal :=
  startNext s queue (fun p => p.type == 4 && p.aux == 0) fun t _ _ path ch p =>
    startPacket t queue path ch p false fun k => { k with sig := some p.sigField }

/-- PACKET_SIGNAL_ADD (26 R338): the packet starts; its add is performed at its completion. -/
def execPacketSignalAdd (queue : Nat) (s : State) : Host.Outcome State Fault Refusal :=
  startNext s queue (fun p => p.type == 4 && p.aux == 1) fun t _ _ path ch p =>
    startPacket t queue path ch p false fun k => { k with sig := some p.sigField }

/-- PACKET_CHAIN (26 R339): the command block's packets come next, at the next level; a fifth level is CHAIN_DEPTH. -/
def execPacketChain (queue : Nat) (s : State) : Host.Outcome State Fault Refusal :=
  startNext s queue (fun p => p.type == 5) fun t x _ path ch p =>
    if 4 ≤ ch.length then queueError t x queue 2 p.sig (path.headD 0)
    else (startPacket t queue path ch p false id).modQueue queue fun y => { y with chain := (p.ptr, p.aux, 0) :: y.chain }

/-- PACKET_COPY (26 R337): its descriptor is read; its pieces follow. -/
def execPacketCopy (queue : Nat) (s : State) : Host.Outcome State Fault Refusal :=
  startNext s queue (fun p => p.type == 3) fun t x _ path ch p =>
    match readVa t (chainTlb queue) x p.ptr 32 with
    | (.error (e, a), u) => queueFails u x queue e a 0 6 p.sig path
    | (.ok bs, u) =>
      let n := fieldOf bs 0x10 8
      if n = 0 ∨ 2 ^ 32 < n ∨ fieldOf bs 0x18 8 ≠ 0 then queueError u x queue 1 p.sig (path.headD 0)
      else startPacket u queue path ch p false fun k => { k with copy := some (fieldOf bs 0 8, fieldOf bs 8 8, n) }

/-- PACKET_LAUNCH (26 R336, R345, R346): the record is read and checked, and its tickets are offered. -/
def execPacketLaunch (queue : Nat) (s : State) : Host.Outcome State Fault Refusal :=
  startNext s queue (fun p => p.type == 1) fun t x _ path ch p =>
    let index := path.headD 0
    if p.ptr % 256 ≠ 0 then queueError t x queue 4 p.sig index
    else match readLaunch t (chainTlb queue) x p.ptr (boundConsumer t x.id) with
      | (.failed e a, u) => queueFails u x queue e a 0 6 p.sig path
      | (.refused c, u) => queueError u x queue c p.sig index
      | (.ok r, u) =>
        let n := u.nextId
        let run : LaunchRun :=
          { id := n, ctx := x.id, rec_ := r, queue := queue, path := path, tickets := List.replicate 12 0, remaining := r.blocks,
            perBlock := bit p.aux 0, sig := p.sig, relScope := bits p.flags 4 2, failedDie := false, homes := [], before := [] }
        startPacket { u with nextId := n + 1, launches := u.launches ++ [run] } queue path ch p false fun k => { k with launch := some n }

/-! Wait lists (26 R340, R341). -/

/-- What a test of a wait list comes to. -/
inductive WaitTest where
  | satisfied (s : State)
  | waiting (s : State)
  | negative (s : State)
  | badList (s : State)
  | listFails (e : XErr) (va : Nat) (s : State)
  | signalFails (e : XErr) (va sig : Nat) (s : State)

/-- Test the entries of a wait list in order (26 R341). -/
def testList (h : Tlb) (x : Ctx) (va : Nat) : Nat → Nat → Bool → State → WaitTest
  | 0, _, all, s => if all then .satisfied s else .waiting s
  | n + 1, i, all, s =>
    match readVa s h x (va + 16 * i) 16 with
    | (.error (e, a), t) => .listFails e a t
    | (.ok bs, t) =>
      let sig := fieldOf bs 0 8
      if fieldOf bs 8 8 ≠ 0 ∨ sig % 16 ≠ 0 then .badList t
      else match readVa t h x sig 8 with
        | (.error (e, a), u) => .signalFails e a sig u
        | (.ok v, u) =>
          let v := signed 64 (numOf v)
          if v < 0 then .negative u else testList h x va n (i + 1) (all && v == 0) u

/-- Change the started packet at a path. -/
def modStarted (s : State) (q : Nat) (path : List Nat) (f : Started → Started) : State := s.modQueue q fun y =>
  { y with started := replaceFirst (fun k => k.path == path) f y.started }

/-- A started packet meets an error: it never completes, and its queue halts (26 R342). -/
def startedError (s : State) (x : Ctx) (q code : Nat) (k : Started) : State :=
  queueError (modStarted s q k.path fun k => { k with failed := true }) x q code k.sig (k.path.headD 0)

/-- An access of a started packet fails: the packet waits for the answer, or meets its error at once (26 R343). `sig` is the signal
that then becomes −1. -/
def startedFails (s : State) (x : Ctx) (q : Nat) (e : XErr) (va kind code : Nat) (sig : Option Nat) (k : Started) : State :=
  let t := match e with
    | .unresolved => modStarted s q k.path fun k => { k with failed := true }
    | .fault _ => s
  queueFails t x q e va kind code sig k.path

/-- Run a BARRIER packet's test (26 R341): its reads are acquires, and a negative value aborts the queue. -/
def barrierTest (s : State) (x : Ctx) (q : Nat) (k : Started) : State :=
  match testList (chainTlb q) x k.ptr k.aux 0 true (packetAcquire s q (acquireScope k.flags true)) with
  | .satisfied t => modStarted t q k.path fun k => { k with done := true }
  | .waiting t => t
  | .negative t => startedError t x q 3 k
  | .badList t => startedError t x q 1 k
  | .listFails e a t => startedFails t x q e a 0 6 k.sig k
  | .signalFails e a sig t => startedFails t x q e a 0 12 (if some sig = k.sig then none else k.sig) k

/-- PACKET_BARRIER (26 R336, R341): the packet starts with a test of its list. -/
def execPacketBarrier (queue : Nat) (s : State) : Host.Outcome State Fault Refusal :=
  startNext s queue (fun p => p.type == 2) fun t x _ path ch p =>
    let u := startPacket t queue path ch p false id
    match (u.queue? queue).bind fun y => y.started.getLast? with
    | some k => barrierTest u x queue k
    | none => u

/-- Whether a started packet goes on: it has met no error, its queue is switched in, and no fault of its queue is unanswered (26 R334, R341,
R343); a halt of its context starts no packet but ends none (29 R369). -/
def packetRuns (x : Ctx) (y : Queue) (k : Started) : Bool := !k.failed && !y.out && !queueWaits x y.id

/-- BARRIER_TEST (26 R341): started packet `n` of a queue tests its list again, unless its context is halted (29 R372). -/
def execBarrierTest (queue n : Nat) (s : State) : Host.Outcome State Fault Refusal :=
  .next (match s.queue? queue with
  | none => s
  | some y =>
    match y.started[n]?, s.ctx? y.ctx with
    | some k, some x => if k.type = 2 ∧ !k.done ∧ packetRuns x y k ∧ !x.halted then barrierTest s x queue k else s
    | _, _ => s)

/-! Completion (26 R333, R336). -/

/-- The progress of a queue: every packet below it has completed (26 R333). -/
def Queue.reached (y : Queue) : Nat := (y.started.map fun k => k.path.headD 0).foldl min y.fetched

/-- Publish PROGRESS (26 R333), unless the queue's context is halted (29 R372). -/
def publishProgress (s : State) (q : Nat) : State :=
  match s.queue? q with
  | none => s
  | some y =>
    if y.reached = y.progress ∨ (s.ctx? y.ctx).any (fun x => x.halted) then s
    else (s.poke (s.queueDesc q + 0x18) (bytesOf 8 y.reached)).modQueue q fun y => { y with progress := y.reached }

/-- PROGRESS_PUBLISH (26 R333). -/
def execProgressPublish (queue : Nat) (s : State) : Host.Outcome State Fault Refusal := .next (publishProgress s queue)

/-- A packet has completed: it leaves the started ones, and PROGRESS is published after one with its barrier bit set (26 R333). -/
def finishPacket (s : State) (q : Nat) (k : Started) : State :=
  let s := s.modQueue q fun y => { y with started := y.started.filter fun j => j.path != k.path }
  let s := match k.launch with
    | some n => { s with launches := s.launches.filter fun l => l.id != n }
    | none => s
  if bit k.flags 0 then publishProgress s q else s

/-- The completion add of a packet with SIG, in the same release (26 R336); a launch with PERBLOCK makes none. -/
def signalDone (s : State) (x : Ctx) (q : Nat) (k : Started) (perBlock : Bool) : State :=
  match k.sig with
  | none => finishPacket s q k
  | some va =>
    if perBlock then finishPacket s q k
    else match addSignal s (chainTlb q) x va (-1) k.half with
      | .done t => finishPacket t q k
      | .half old t => modStarted t q k.path fun k => { k with half := some old }
      | .fails e a t => startedFails t x q e a 2 12 none k

/-- The write of a SIGNAL packet (26 R338). -/
def signalWrite (s : State) (x : Ctx) (q : Nat) (k : Started) : State :=
  let v := signed 48 (k.sig.getD 0)
  let k0 := { k with sig := none }
  let r : Added := if k.aux ≠ 0 then addSignal s (chainTlb q) x k.ptr v k.half
    else match setSignal s (chainTlb q) x k.ptr v with
      | (.ok _, t) => .done t
      | (.error e, t) => .fails e.1 e.2 t
  match r with
  | .done t => finishPacket t q k0
  | .half old t => modStarted t q k.path fun k => { k with half := some old }
  | .fails e a t => startedFails t x q e a (if k.aux = 0 then 1 else 2) 12 none k0

/-- The words of the destination that the present piece of a COPY writes, of at most 64 KiB (26 R337, 13 R213). -/
def pieceUnits (k : Started) (dst n : Nat) : List Nat :=
  if k.units.isEmpty then List.range (((dst + k.copied) % 8 + min 65536 (n - k.copied) + 7) / 8) else k.units

/-- Move one word of the present piece of a COPY (26 R337): a translation fault ends it with COPY_FAULT. Poison moves with the data (31
R380). -/
def copyWord (s : State) (x : Ctx) (q : Nat) (k : Started) (src dst n pick : Nat) : State :=
  let len := min 65536 (n - k.copied)
  let b := dst + k.copied
  let units := pieceUnits k dst n
  match units[pick]? with
  | none => s
  | some u =>
    let lo := max b ((b / 8 + u) * 8)
    let m := min (b + len) ((b / 8 + u + 1) * 8) - lo
    let a := src + (lo - dst)
    let fail (t : State) : State := startedError t x q 7 k
    if highVa (a + m - 1) || highVa (lo + m - 1) then fail s
    else match placeSealed (chainTlb q) x .load s (spansOf a m) with
      | (.error _, t) => fail t
      | (.ok ps, t) =>
        let bs := engineBytes t (q % 4) false x ps
        match placeSealed (chainTlb q) x .store t (spansOf lo m) with
        | (.error _, u) => fail u
        | (.ok ds, v) =>
          let left := units.eraseIdx pick
          let copied := if left.isEmpty then k.copied + len else k.copied
          modStarted (passViews (engineWrite .agent x v ds bs) ds) q k.path fun k => { k with units := left, copied := copied }

/-- A step of a COPY: its next word, or its completion once every byte is performed at its home (26 R336, R337). -/
def copyStep (s : State) (x : Ctx) (q : Nat) (k : Started) (src dst n pick : Nat) : State :=
  if n ≤ k.copied then (if agentPending s x.id then s else signalDone s x q k false) else copyWord s x q k src dst n pick

/-- Whether every packet of a CHAIN's block has started and completed (26 R336). -/
def chainDone (y : Queue) (k : Started) : Bool :=
  !(y.started.any fun j => decide (k.path.length < j.path.length) && j.path.take k.path.length == k.path)
    && !(let ch := popChain y.chain
         (List.range ch.length).any fun i => (chainPath y (ch.drop i)) == k.path)

/-- A started packet of a queue performs its work that is left, releases it and adds −1 to its signal. `n` names the packet, and for a COPY
also one of the words left of its piece: a switch-out waits for the piece in flight (26 R336 to R339). -/
def packetStep (queue n : Nat) (s : State) : State :=
  match s.queue? queue with
  | none => s
  | some y =>
    match y.started[n % y.started.length]?, s.ctx? y.ctx with
    | some k, some x =>
      if !packetRuns x (if k.units.isEmpty then y else { y with out := false }) k then s
      else match k.type, k.copy, k.launch with
        | 4, _, _ => signalWrite s x queue k
        | 3, some (a, b, len), _ => copyStep s x queue k a b len (n / y.started.length)
        | 5, _, _ => if chainDone y k then signalDone s x queue k false else s
        | 1, _, some l =>
          match s.launch? l with
          | none => s
          | some run =>
            if run.remaining ≠ 0 then s
            else if run.failedDie then startedError s x queue 10 k
            else signalDone s x queue k run.perBlock
        | _, _, _ => if k.done then signalDone s x queue k false else s
    | _, _ => s

/-! Doorbells (26 R332, R349). -/

/-- Hold a queue that a doorbell names: its fetching begins at its PROGRESS, and it runs (26 R331, R333). -/
def openQueue (s : State) (q : Nat) : State :=
  let p := s.num (s.queueDesc q + 0x18) 8
  match s.queue? q with
  | some _ => s
  | none => { s with queues := s.queues ++ [⟨q, queueCtx s q, false, p, [], [], p⟩] }

/-- Whether a function owns a context's objects: its own, or any for the physical function (26 R325). -/
def ownsCtx (s : State) (func c : Nat) : Bool := func == 64 || s.num (s.ctxDesc c + 0x0E) 1 == func

/-- A tail out of range halts its queue with BAD_DOORBELL; a context the device does not hold yet is read for the event's ring, and one
that is refused posts the event itself (26 R328, R332, R342). -/
def badDoorbell (s : State) (queue : Nat) : State :=
  let t := haltQueue s queue 2 8
  match t.ctx? (queueCtx s queue) with
  | some _ => queueEvent t queue 8
  | none => match readBoundary t (queueCtx s queue) with
    | (some _, u) => queueEvent u queue 8
    | (none, u) => u

/-- QUEUE_TAIL_DOORBELL (26 R325, R332): an accepted tail is recorded and a STOPPED queue that is enabled, or a halted one whose
error the host has cleared, runs; another value halts the queue with BAD_DOORBELL. `func` names the function whose page is written. -/
def execQueueTailDoorbell (func queue : Nat) (v : BitVec 64) (s : State) : Host.Outcome State Fault Refusal :=
  .next (
    if 4096 ≤ queue ∨ s.dev.service = .training ∨ !queueDescOk s queue ∨ !ownsCtx s func (queueCtx s queue) then s
    else
      let t := v.toNat
      let u := openQueue s queue
      let progress := ((u.queue? queue).map fun y => y.progress).getD 0
      if t < queueTail s queue ∨ progress + queueSize s queue < t then badDoorbell u queue
      else
        let u := u.poke (s.queueDesc queue + 0x10) (bytesOf 8 t)
        let st := s.queueState queue
        let cleared := s.num (s.queueDesc queue + 0x20) 8 == 0
        if queueEnabled s queue && (st == 0 || (2 ≤ st && cleared)) then u.poke (s.queueDesc queue + 0x0B) (bytesOf 1 1) else u)

/-- EVENT_HEAD_DOORBELL (26 R325, R349): HEAD takes the value, unless it lies outside HEAD to TAIL. -/
def execEventHeadDoorbell (func ring : Nat) (v : BitVec 64) (s : State) : Host.Outcome State Fault Refusal :=
  .next (
    let d := s.dev.evbase.toNat + 64 * ring
    let head := s.num (d + 0x18) 8
    let tail := s.num (d + 0x10) 8
    if 256 ≤ ring ∨ (func ≠ 64 ∧ s.num (d + 9) 1 ≠ func) ∨ v.toNat < head ∨ tail < v.toNat then s
    else s.poke (d + 0x18) (bytesOf 8 v.toNat))

end Sys2Proof.Machine
end

