-- ==== Sys2Proof/Machine/Galley.lean ====
section
/-! DEFINITION. Galley queues (22_traversal R300 to R306): binding, puts and takes, and consumer launches. -/

namespace Sys2Proof

/-- The capacity of a galley in records (22 R300). -/
def Machine.Galley.capacity (y : Machine.Galley) : Nat := 2 ^ y.capLog
/-- The bytes of a record. -/
def Machine.Galley.recBytes (y : Machine.Galley) : Nat := 2 ^ y.recLog
/-- The VA of slot `n` of the ring (22 R301). -/
def Machine.Galley.slotVa (y : Machine.Galley) (n : Nat) : Nat := y.ring + 2 ^ y.recLog * (n % y.capacity)
/-- A galley is full when its occupied slots equal its capacity (22 R301). -/
def Machine.Galley.full (y : Machine.Galley) : Bool := decide (y.capacity ≤ y.slots.length)
/-- The published, untaken records: those from HEAD on (22 R304). -/
def Machine.Galley.avail (y : Machine.Galley) : Nat :=
  (y.slots.filter fun p => p.2 == .published && decide (0 ≤ (BitVec.ofNat 32 p.1 - y.head).toInt)).length

end Sys2Proof

namespace Sys2Proof.Machine

/-- Reserve the slot at TAIL for a put (22 R301). -/
def reservePut (y : Galley) : Galley :=
  { y with slots := y.slots ++ [(y.tail.toNat, .reserved)], tail := y.tail + 1, outstanding := y.outstanding + 1 }

/-- Change the state of a slot. -/
def setSlot (y : Galley) (n : Nat) (v : GalleySlot) : Galley :=
  { y with slots := y.slots.map fun p => if p.1 = n then (n, v) else p }

/-- Free a slot. -/
def freeSlot (y : Galley) (n : Nat) : Galley := { y with slots := y.slots.filter fun p => p.1 != n }

/-- The context's agent source of a galley's accesses: die only. -/
def dieSource (die : Nat) : EventSource := (die, 0xFF, 0xFF, 0xFF)

/-- The owning die of a galley (01 R28). -/
def galleyDie (g : Nat) : Nat := g / 1024

/-- The write of 0 to a galley's DONESIG, for the agent of its die (22 R302, 26 R343). -/
def writeDone (s : State) (x : Ctx) (y : Galley) : State :=
  match setSignal s (.die (galleyDie y.id)) x y.doneSig 0 with
  | (.ok _, t) => t
  | (.error (.unresolved, _), t) => t
  | (.error (.fault c, a), t) => postOrWait t x a (dieSource (galleyDie y.id)) 1 c (.doneSig y.id)

/-- Set DONESIG to 0 when OUTSTANDING reaches 0 while TAIL = HEAD (22 R302). -/
def galleyDone (s : State) (g : Nat) : State :=
  match s.galley? g with
  | none => s
  | some y =>
    if y.outstanding ≠ 0 ∨ y.tail ≠ y.head ∨ y.doneSig = 0 then s
    else match s.ctx? y.ctx with
      | none => s
      | some x =>
        writeDone s x y

/-- Retire records of a galley (22 R302). -/
def retireRecords (s : State) (g n : Nat) : State :=
  if n = 0 then s else galleyDone (s.modGalley g fun y => { y with outstanding := y.outstanding - BitVec.ofNat 32 n }) g

/-- Reserve the next published record for a take: a void slot at HEAD is passed over, freed and retired (22 R301). -/
def reserveTake : Nat → State → Nat → Option Nat × State
  | 0, s, _ => (none, s)
  | fuel + 1, s, g =>
    match s.galley? g with
    | none => (none, s)
    | some y =>
      let n := y.head.toNat
      match (y.slots.find? fun p => p.1 == n).map fun p => p.2 with
      | some GalleySlot.published => (some n, s.modGalley g fun y => { y with head := y.head + 1 })
      | some GalleySlot.void => reserveTake fuel (retireRecords (s.modGalley g fun y => { freeSlot y n with head := y.head + 1 }) g 1) g
      | _ => (none, s)

/-- Whether a galley is bound to a context. -/
def galleyBound (s : State) (g ctx : Nat) : Bool := ((s.galley? g).map fun y => y.ctx == ctx).getD false

/-! GPUT and GTAKE (22 R303). -/

/-- GPUT or GTAKE. -/
def galleyIssue (s : State) (i : Instr) (k d a : Nat) (put : Bool) : Host.Outcome State Fault Refusal :=
  laneIssueIf s i (fun _ => s.feature 3) [d, a] (readsV s k [d, a]) fun w =>
    let m := activeOf s w k
    if m = 0 then done (s.modMine w fun g => g.join .gt |>.complete .gt (g.openBatch .gt)) w
    else
      let gv (l : Nat) : Nat := (laneV s w d l).toNat
      let bad := (lanesOf m).filter fun l => 4096 ≤ gv l || !galleyBound s (gv l) w.g.ctx
      let recBytes (l : Nat) : Nat := ((s.galley? (gv l)).map Galley.recBytes).getD 16
      let av (l : Nat) : Nat := (laneV s w a l).toNat
      let out := (lanesOf m).filter fun l => bits (av l) 19 13 != 0 || (ownScratch w).2 < av l + recBytes l
      let skew := (lanesOf m).filter fun l => av l % 16 != 0
      match bad, out, skew with
      | l :: ls, _, _ => trapHere s w .galleyInvalid ((laneV s w d l).setWidth 64) (maskOf (l :: ls))
      | [], l :: ls, _ => trapHere s w .scratchRange (BitVec.ofNat 64 (av l)) (maskOf (l :: ls))
      | [], [], l :: ls => trapHere s w .misaligned (BitVec.ofNat 64 (av l)) (maskOf (l :: ls))
      | [], [], [] =>
        let c := chargeOf s 13 0
        let lanes := (lanesOf m).map fun l => (⟨l, gv l, av l, none, none, none, none⟩ : GalleyLane)
        charged s w 13 c (afterFences s w (done (forkOp s w .gt 13 c (if put then .put d lanes else .take d lanes)).2 w))

/-- GPUT (22 R303). -/
def execGput (k : KReg) (d a : VReg) (s : State) : Host.Outcome State Fault Refusal := galleyIssue s (.gput k d a) k d a true
/-- GTAKE (22 R303). -/
def execGtake (k : KReg) (d a : VReg) (s : State) : Host.Outcome State Fault Refusal := galleyIssue s (.gtake k d a) k d a false

/-- Reserve for the lanes of a put in ascending order; a lane that finds its galley full counts an overflow (22 R303). -/
def reservePuts : State → List GalleyLane → State × List GalleyLane
  | s, [] => (s, [])
  | s, l :: r =>
    let out : State × GalleyLane :=
      match s.galley? l.galley with
      | none => (s, { l with result := some 0 })
      | some y =>
        if y.full then (s.modGalley l.galley fun y => { y with overflow := y.overflow + 1 }, { l with result := some 0 })
        else (s.modGalley l.galley reservePut, { l with slot := some y.tail.toNat })
    let rest := reservePuts out.1 r
    (rest.1, out.2 :: rest.2)

/-- Reserve for the lanes of a take in ascending order; the block takes what is reserved (22 R302, R303). -/
def reserveTakes (core block : Nat) : State → List GalleyLane → State × List GalleyLane
  | s, [] => (s, [])
  | s, l :: r =>
    let n := reserveTake (((s.galley? l.galley).map fun y => y.slots.length).getD 0 + 1) s l.galley
    let out : State × GalleyLane :=
      match n.1 with
      | none => (n.2, { l with result := some 0 })
      | some k => (n.2.modBlock core block fun b => { b with taken := assocSet l.galley (assocD l.galley 0 b.taken + 1) b.taken },
                   { l with slot := some k })
    let rest := reserveTakes core block out.1 r
    (rest.1, out.2 :: rest.2)

/-- GALLEY_RESERVATION (22 R301): the reservations of a put or a take reach the owning dies. -/
def execGalleyReservation (op : Nat) (s : State) : Host.Outcome State Fault Refusal :=
  .next (match s.op? op with
  | some o =>
    let fresh (ls : List GalleyLane) : Bool := ls.all fun l => l.slot.isNone && l.result.isNone
    match o.kind with
    | .put d ls => if fresh ls then (let r := reservePuts s ls; r.1.setOpKind op (.put d r.2)) else s
    | .take d ls => if fresh ls then (let r := reserveTakes o.core o.block s ls; r.1.setOpKind op (.take d r.2)) else s
    | _ => s
  | none => s)

/-- Change one lane of a galley operation. -/
def modGalleyLane (s : State) (op lane : Nat) (f : GalleyLane → GalleyLane) : State := s.modOp op fun o =>
  { o with kind := match o.kind with
    | .put d ls => .put d (replaceFirst (fun l => l.lane == lane) f ls)
    | .take d ls => .take d (replaceFirst (fun l => l.lane == lane) f ls)
    | other => other }

/-- A put's record gives no place: its slot becomes void and the lane receives 0 (22 R301). -/
def voidPut (s : State) (o : Op) (l : GalleyLane) (va : Nat) : State :=
  modGalleyLane (s.modGalley l.galley fun y => setSlot y (l.slot.getD 0) .void) o.id l.lane fun l =>
    { l with result := some 0, faulted := some va }

/-- A take's record is lost: its slot is freed and the lane receives 0 (22 R301). -/
def loseTake (s : State) (o : Op) (l : GalleyLane) (va : Nat) : State :=
  modGalleyLane (s.modGalley l.galley fun y => freeSlot y (l.slot.getD 0)) o.id l.lane fun l =>
    { l with result := some 0, faulted := some va }

/-- The read of a lane's record: from scratchpad for a put, from its slot for a take, which then lands (22 R301, R303). -/
def galleyRead (s : State) (o : Op) (x : Ctx) (l : GalleyLane) (put : Bool) : State :=
  match l.slot, l.result, l.bytes, s.galley? l.galley with
  | some n, none, none, some y =>
    let off := (allocOf s o.core o.block).1 + l.addr
    if put then
      modGalleyLane s o.id l.lane fun l => { l with bytes := some ((s.core o.core).scratch.bytes off y.recBytes) }
    else if opWaits s o l.lane then s
    else match engineSpans s o x l.lane 0 .load (y.slotVa n) y.recBytes with
      | .held t => t
      | .lost a t => loseTake t o l a
      | .ok ps t =>
        let t := (landAt t ⟨o.core, off⟩ (opBytes t o x ps)).modGalley l.galley fun y => freeSlot y n
        modGalleyLane t o.id l.lane fun l => { l with result := some 1 }
  | _, _, _, _ => s

/-- The access of a lane of a galley operation. -/
def galleyAccess (s : State) (o : Op) (n : Nat) : State :=
  match s.ctx? o.ctx, o.kind with
  | some x, .put _ ls => (match ls.find? fun l => l.lane == n with | some l => galleyRead s o x l true | none => s)
  | some x, .take _ ls => (match ls.find? fun l => l.lane == n with | some l => galleyRead s o x l false | none => s)
  | _, _ => s

/-- The poison marks of a put's record, as the scratchpad holds them now. -/
def recordMarks (s : State) (o : Op) (l : GalleyLane) (bs : List Byte) : List (Byte × Bool) :=
  let marks := (s.core o.core).markedBytes ((allocOf s o.core o.block).1 + l.addr) bs.length
  (List.zip bs marks).map fun p => (p.1, p.2.2 && p.2.1 == p.1)

/-- A put's record is published (22 R301). -/
def publishPut (s : State) (o : Op) (l : GalleyLane) (n : Nat) : State :=
  modGalleyLane (s.modGalley l.galley fun y => setSlot y n .published) o.id l.lane fun l => { l with result := some 1 }

/-- The write of a put's record at its home (22 R301): it is published once it has been performed, at every member of a replica set
(05 R83, 13 R217); a lane with no bytes left to write waits for that. -/
def putRecord (s : State) (o : Op) (x : Ctx) (l : GalleyLane) (n va : Nat) (bs : List Byte) : State :=
  if bs.isEmpty then (if replPending s o then s else publishPut s o l n)
  else if opWaits s o l.lane then s
  else match engineSpans s o x l.lane 1 .store va bs.length with
    | .held t => t
    | .lost a t => voidPut t o l a
    | .ok ps t =>
      let t := engineWrite (.op o.id) x t ps (recordMarks t o l bs)
      if replPending t o then modGalleyLane t o.id l.lane fun l => { l with bytes := some [] } else publishPut t o l n

/-- GALLEY_PUBLISH (22 R301): a put's write is performed at its home. -/
def execGalleyPublish (op lane : Nat) (s : State) : Host.Outcome State Fault Refusal :=
  .next (match s.op? op with
  | some o =>
    match o.kind, s.ctx? o.ctx with
    | .put _ ls, some x =>
      match ls.find? fun l => l.lane == lane with
      | some l =>
        match l.slot, l.result, l.bytes, s.galley? l.galley with
        | some n, none, some bs, some y => putRecord s o x l n (y.slotVa n) bs
        | _, _, _, _ => s
      | none => s
    | _, _ => s
  | none => s)

/-- GALLEY_OP_COMPLETE (22 R301, R303, R304): every lane has its result; a lane that lost its slot's access owes a trap. -/
def execGalleyOpComplete (op : Nat) (s : State) : Host.Outcome State Fault Refusal :=
  .next (match s.op? op with
  | some o =>
    let finish (d : Nat) (ls : List GalleyLane) (take : Bool) : State :=
      if ls.any fun l => l.result.isNone then s
      else
        let t := landResults s o d (ls.map fun l => (l.lane, l.result.getD 0))
        let lost := ls.filter fun l => l.faulted.isSome
        let t := match lost with
          | [] => t
          | l :: _ => oweTrap t o none .accessViolation (BitVec.ofNat 64 (l.faulted.getD 0)) (maskOf (lost.map fun l => l.lane))
        let t := if take && ls.any (fun l => l.slot.isSome) then t.modBlock o.core o.block fun b => { b with waiting := false } else t
        completeOp t o
    match o.kind with
    | .put d ls => finish d ls false
    | .take d ls => finish d ls true
    | _ => s
  | none => s)

/-! GBIND and GINFO (22 R305, R306). -/

/-- A galley descriptor's fields (22 R300). -/
def galleyOf (g ctx : Nat) (bs : List Byte) : Galley :=
  { id := g, ctx := ctx, ring := fieldOf bs 0 8, recLog := fieldOf bs 8 1, capLog := fieldOf bs 9 1, thresh := fieldOf bs 12 4,
    consumer := fieldOf bs 0x18 8, doneSig := fieldOf bs 0x28 8, head := 0, tail := 0, overflow := 0, outstanding := 0,
    slots := [], launches := 0, live := [], idle := 0 }

/-- Whether a descriptor meets R300. -/
def galleyDescOk (bs : List Byte) (y : Galley) : Bool :=
  y.ring % 256 == 0 && 4 ≤ y.recLog && y.recLog ≤ 8 && y.capLog ≤ 20 && fieldOf bs 10 2 == 0 && 1 ≤ y.thresh && y.thresh ≤ y.capacity
    && fieldOf bs 0x10 8 == 0 && fieldOf bs 0x20 8 == 0 && y.doneSig % 16 == 0 && (bs.drop 0x30).all (· == 0)

/-- A read of an instruction that holds its split: bytes, or the state in which it waits or traps (22 R305, 24 R315, 05 R392). -/
def instrRead (s : State) (w : Issuer) (x : Ctx) (va n : Nat) (go : State → List Byte → State) : State :=
  match readVa s (.core w.c) x va n with
  | (.ok bs, t) => go t bs
  | (.error (.unresolved, a), t) => trapAll t w .accessViolation (BitVec.ofNat 64 a)
  | (.error (.fault c, a), t) =>
    match postFault t x a (groupSource w.c w.slot) 0 c w.sp.mask 0 (timeOf s w.g) (.instr w.c w.slot w.idx) with
    | (none, _) => holdIt s w .faultSuspension
    | (some _, u) => holdIt u w .faultSuspension

/-- Bind a galley from its descriptor, with its consumer record checked (22 R304, R305); `bound` is the status of a galley that is bound
already. -/
def bindGalley (s : State) (w : Issuer) (x : Ctx) (d g va bound : Nat) : State :=
  instrRead s w x va 64 fun s bs =>
    let y := galleyOf g x.id bs
    let status (s : State) (v : Nat) : State := heldDone s w d (BitVec.ofNat 64 v) none
    let bind (s : State) : State :=
      status { s with galleys := (s.galleys.filter fun z => z.id != g) ++ [y] } 0
    if bound ≠ 0 then status s bound
    else if !galleyDescOk bs y then status s 2
    else if y.consumer = 0 then bind s
    else if highVa y.consumer || y.consumer % 256 != 0 then status s 2
    else instrRead s w x y.consumer 256 fun s cs =>
      let r := launchOf y.consumer cs
      if bit r.galley 15 && bits r.galley 12 3 == 0 && fieldOf cs 0xF2 2 == 0 && r.galley % 4096 == g && r.outer.all (fun l => l.size == 1)
      then bind s
      else status s 2

/-- GBIND (22 R305). DESIGN CHOICE (log 67): where several statuses apply, an unaligned address gives 2; then the galley's binding
gives 1 or 3, once the descriptor has been read; then its fields give 2. -/
def execGbind (d a b : GReg) (s : State) : Host.Outcome State Fault Refusal :=
  uniIssueIf s (.gbind d a b) (fun _ => s.feature 3) [] (readsG [a, b]) fun w =>
    let va := (uniG s w a).toNat
    let g := bits (uniG s w b).toNat 0 12
    let status (s : State) (v : Nat) : State := heldDone s w d (BitVec.ofNat 64 v) none
    let free (y : Galley) : Bool := y.tail == y.head && y.slots.isEmpty && y.outstanding == 0
    let bound : Nat := match s.galley? g with
      | some y => if y.ctx ≠ w.g.ctx then 1 else if !free y then 3 else 0
      | none => 0
    if va = 0 then status (if bound = 0 then { s with galleys := s.galleys.filter fun z => z.id != g } else s) bound
    else if highVa va then trapAll s w .accessViolation (BitVec.ofNat 64 va)
    else if va % 64 ≠ 0 then status s 2
    else bindGalley s w (ctxOf s w) d g va bound

/-- GINFO (22 R306). -/
def execGinfo (d a b : GReg) (s : State) : Host.Outcome State Fault Refusal :=
  uniIssueIf s (.ginfo d a b) (fun _ => s.feature 3) [] (readsG [a, b]) fun w =>
    let g := bits (uniG s w a).toNat 0 12
    let v : Option Word := match s.galley? g with
      | none => none
      | some y =>
        if y.ctx ≠ w.g.ctx then none
        else match bits (uniG s w b).toNat 0 3 with
          | 0 => some (y.tail - y.head) | 1 => some y.overflow | 2 => some y.outstanding | 3 => some y.head | 4 => some y.tail
          | _ => none
    heldDone s w d (match v with | some v => v.setWidth 64 | none => BitVec.allOnes 64) none

/-! Consumer launches (22 R304). -/

/-- The consumer blocks of a galley that are resident. -/
def consumersOf (s : State) (y : Galley) : List Block := y.live.filterMap fun p => (s.core p.1).block? p.2

/-- W: those that wait for a first record. -/
def waitingConsumers (s : State) (y : Galley) : Nat := ((consumersOf s y).filter fun b => b.waiting).length

/-- A block with its core. -/
def blockOn (s : State) (c id : Nat) : Option (Nat × Block) := ((s.core c).block? id).map fun b => (c, b)

/-- Launch one more consumer block on a core, its own cluster instance if its record has one, with the rows and the scratchpad the agent
chose (22 R304, 18 R260). A fault on the read of its record waits for its answer (26 R343); after either answer the launch may be tried
again. -/
def launchConsumer (s : State) (g : Nat) (y : Galley) (c : Nat) (p : Placement) : State :=
  match ctxForWork s y.ctx with
  | (none, t) => t
  | (some x, t) =>
    let die := Config.dieOf c
    if x.asks (.consumer g) then s
    else match readLaunch t (.core c) x y.consumer (boundConsumer t x.id) with
    | (.ok r, u) =>
      let ok := u.holdsCluster x.func (Config.clusterIndex die (Config.clusterOf c)) && decide (r.share die ≠ 0)
        && (r.maxLive == 0 || decide ((consumersOf u y).length < r.maxLive)) && x.phase == .idle && !x.halted && admits u x c r
      match agentCarve (u.core c) r p with
      | some (core, table, routine) =>
        if !ok then s
        else
          let n := placeBlock (u.setCore core) c x r (y.launches % 2 ^ 32) 0 p.spbase table routine none
          match startInstance n.2 x ((blockOn n.2 c n.1).toList) with
          | some v => v.modGalley g fun y => { y with launches := y.launches + 1, live := y.live ++ [(c, n.1)], idle := 0 }
          | none => s
      | none => s
    | (.failed (.fault e) a, u) => postOrWait u x a (agentSource c) 0 e (.consumer g)
    | _ => s

/-- GALLEY_CONSUMER_LAUNCH (22 R304): the records available reach THRESH × (W + 1). -/
def execGalleyConsumerLaunch (galley core : Nat) (p : Placement) (s : State) : Host.Outcome State Fault Refusal :=
  .next (match s.galley? galley with
  | some y => if y.consumer ≠ 0 ∧ y.thresh * (waitingConsumers s y + 1) ≤ y.avail then launchConsumer s galley y core p else s
  | none => s)

/-- GALLEY_CONSUMER_TIMER (22 R304): records have waited 4,096 cycles with no waiting consumer. -/
def execGalleyConsumerTimer (galley core : Nat) (p : Placement) (s : State) : Host.Outcome State Fault Refusal :=
  .next (match s.galley? galley with
  | some y =>
    if y.consumer ≠ 0 ∧ 0 < y.avail ∧ waitingConsumers s y = 0 ∧ 4096 ≤ y.idle then launchConsumer s galley y core p else s
  | none => s)

/-- The end of a cycle for a galley: how long records have waited with no waiting consumer, and its resident consumers (22 R304). -/
def galleyTick (s : State) (y : Galley) : Galley :=
  { y with idle := if 0 < y.avail ∧ waitingConsumers s y = 0 then y.idle + 1 else 0,
           live := y.live.filter fun p => ((s.core p.1).block? p.2).isSome }

end Sys2Proof.Machine
end

