-- ==== Sys2Proof/Machine/Uniform.lean ====
section
/-! DEFINITION. The uniform arithmetic, lane-to-uniform, mask and vacate-query instructions (12_uniform R159 to R163, R181 to
R184). -/

namespace Sys2Proof.Machine

/-! The functions of a uniform operand (12 R162). -/

/-- uadd. -/
def uniAdd (a b : DWord) : DWord := a + b
/-- usub. -/
def uniSub (a b : DWord) : DWord := a - b
/-- umul. -/
def uniMul (a b : DWord) : DWord := a * b
/-- umulh.z: ⌊a × b ÷ 2^64⌋. -/
def uniMulhZ (a b : DWord) : DWord := BitVec.ofNat 64 (a.toNat * b.toNat / 2 ^ 64)
/-- umulh.s: ⌊S(a) × S(b) ÷ 2^64⌋. -/
def uniMulhS (a b : DWord) : DWord := BitVec.ofInt 64 (a.toInt * b.toInt / 2 ^ 64)
/-- umin.s. -/
def uniMinS (a b : DWord) : DWord := if a.toInt ≤ b.toInt then a else b
/-- umax.s. -/
def uniMaxS (a b : DWord) : DWord := if a.toInt ≤ b.toInt then b else a
/-- umin.z. -/
def uniMinZ (a b : DWord) : DWord := if a.toNat ≤ b.toNat then a else b
/-- umax.z. -/
def uniMaxZ (a b : DWord) : DWord := if a.toNat ≤ b.toNat then b else a
/-- uand. -/
def uniAnd (a b : DWord) : DWord := a &&& b
/-- uor. -/
def uniOr (a b : DWord) : DWord := a ||| b
/-- uxor. -/
def uniXor (a b : DWord) : DWord := a ^^^ b
/-- uandn: a AND NOT b. -/
def uniAndn (a b : DWord) : DWord := a &&& ~~~b
/-- The count b[5:0]. -/
def count6 (b : DWord) : Nat := b.toNat % 64
/-- ushl. -/
def uniShl (a b : DWord) : DWord := a <<< count6 b
/-- ushr. -/
def uniShr (a b : DWord) : DWord := a >>> count6 b
/-- usar. -/
def uniSar (a b : DWord) : DWord := a.sshiftRight (count6 b)
/-- A truth value as 1 or 0. -/
def flag64 (b : Bool) : DWord := if b then 1 else 0
/-- ucmp.eq. -/
def uniCmpEq (a b : DWord) : DWord := flag64 (a == b)
/-- ucmp.lt.s. -/
def uniCmpLtS (a b : DWord) : DWord := flag64 (a.slt b)
/-- ucmp.lt.z. -/
def uniCmpLtZ (a b : DWord) : DWord := flag64 (a.ult b)
/-- ucmp.le.s. -/
def uniCmpLeS (a b : DWord) : DWord := flag64 (a.sle b)
/-- ucmp.le.z. -/
def uniCmpLeZ (a b : DWord) : DWord := flag64 (a.ule b)
/-- uadd32: SignExtend(32, Trunc(32, a + b)). -/
def uniAdd32 (a b : DWord) : DWord := ((a + b).setWidth 32).signExtend 64
/-- usub32. -/
def uniSub32 (a b : DWord) : DWord := ((a - b).setWidth 32).signExtend 64
/-- upopc. -/
def uniPopc (a : DWord) : DWord := BitVec.ofNat 64 (popcount 64 a.toNat)
/-- uclz. -/
def uniClz (a : DWord) : DWord := BitVec.ofNat 64 (leadingZeros 64 a.toNat)
/-- umov. -/
def uniMov (a : DWord) : DWord := a

/-! The shapes. -/

/-- A uniform operation of two registers (12 R162). -/
def ualu (s : State) (i : Instr) (d a b : Nat) (f : DWord → DWord → DWord) : Host.Outcome State Fault Refusal :=
  uniIssue s i false [] (readsG [a, b]) fun w => done (putG s w d (f (uniG s w a) (uniG s w b))) w

/-- A uniform operation of one register (12 R162, R163). -/
def ualu1 (s : State) (i : Instr) (d a : Nat) (f : DWord → DWord) : Host.Outcome State Fault Refusal :=
  uniIssue s i false [] (readsG [a]) fun w => done (putG s w d (f (uniG s w a))) w

/-! UALU (12 R162). -/

/-- UADD (12 R162). -/
def execUadd (d a b : GReg) (s : State) := ualu s (.uadd d a b) d a b uniAdd
/-- USUB (12 R162). -/
def execUsub (d a b : GReg) (s : State) := ualu s (.usub d a b) d a b uniSub
/-- UMUL (12 R162). -/
def execUmul (d a b : GReg) (s : State) := ualu s (.umul d a b) d a b uniMul
/-- UMULH_Z (12 R162). -/
def execUmulhZ (d a b : GReg) (s : State) := ualu s (.umulhZ d a b) d a b uniMulhZ
/-- UMULH_S (12 R162). -/
def execUmulhS (d a b : GReg) (s : State) := ualu s (.umulhS d a b) d a b uniMulhS
/-- UMIN_S (12 R162). -/
def execUminS (d a b : GReg) (s : State) := ualu s (.uminS d a b) d a b uniMinS
/-- UMAX_S (12 R162). -/
def execUmaxS (d a b : GReg) (s : State) := ualu s (.umaxS d a b) d a b uniMaxS
/-- UMIN_Z (12 R162). -/
def execUminZ (d a b : GReg) (s : State) := ualu s (.uminZ d a b) d a b uniMinZ
/-- UMAX_Z (12 R162). -/
def execUmaxZ (d a b : GReg) (s : State) := ualu s (.umaxZ d a b) d a b uniMaxZ
/-- UAND (12 R162). -/
def execUand (d a b : GReg) (s : State) := ualu s (.uand d a b) d a b uniAnd
/-- UOR (12 R162). -/
def execUor (d a b : GReg) (s : State) := ualu s (.uor d a b) d a b uniOr
/-- UXOR (12 R162). -/
def execUxor (d a b : GReg) (s : State) := ualu s (.uxor d a b) d a b uniXor
/-- UANDN (12 R162). -/
def execUandn (d a b : GReg) (s : State) := ualu s (.uandn d a b) d a b uniAndn
/-- USHL (12 R162). -/
def execUshl (d a b : GReg) (s : State) := ualu s (.ushl d a b) d a b uniShl
/-- USHR (12 R162). -/
def execUshr (d a b : GReg) (s : State) := ualu s (.ushr d a b) d a b uniShr
/-- USAR (12 R162). -/
def execUsar (d a b : GReg) (s : State) := ualu s (.usar d a b) d a b uniSar
/-- UCMP_EQ (12 R162). -/
def execUcmpEq (d a b : GReg) (s : State) := ualu s (.ucmpEq d a b) d a b uniCmpEq
/-- UCMP_LT_S (12 R162). -/
def execUcmpLtS (d a b : GReg) (s : State) := ualu s (.ucmpLtS d a b) d a b uniCmpLtS
/-- UCMP_LT_Z (12 R162). -/
def execUcmpLtZ (d a b : GReg) (s : State) := ualu s (.ucmpLtZ d a b) d a b uniCmpLtZ
/-- UCMP_LE_S (12 R162). -/
def execUcmpLeS (d a b : GReg) (s : State) := ualu s (.ucmpLeS d a b) d a b uniCmpLeS
/-- UCMP_LE_Z (12 R162). -/
def execUcmpLeZ (d a b : GReg) (s : State) := ualu s (.ucmpLeZ d a b) d a b uniCmpLeZ
/-- UADD32 (12 R162). -/
def execUadd32 (d a b : GReg) (s : State) := ualu s (.uadd32 d a b) d a b uniAdd32
/-- USUB32 (12 R162). -/
def execUsub32 (d a b : GReg) (s : State) := ualu s (.usub32 d a b) d a b uniSub32
/-- UPOPC (12 R162). -/
def execUpopc (d a : GReg) (s : State) := ualu1 s (.upopc d a) d a uniPopc
/-- UCLZ (12 R162). -/
def execUclz (d a : GReg) (s : State) := ualu1 s (.uclz d a) d a uniClz
/-- UMOV (12 R162). -/
def execUmov (d a : GReg) (s : State) := ualu1 s (.umov d a) d a uniMov

/-! Immediates (12 R163). -/

/-- UADDI (12 R163). -/
def execUaddi (d a : GReg) (i : BitVec 14) (s : State) := ualu1 s (.uaddi d a i) d a fun x => x + i.signExtend 64
/-- UHI (12 R163): SignExtend(32, imm20 × 2^12). -/
def execUhi (d : GReg) (i : BitVec 20) (s : State) : Host.Outcome State Fault Refusal :=
  uniIssue s (.uhi d i) false [] (fun _ => []) fun w => done (putG s w d ((i ++ (0 : BitVec 12)).signExtend 64)) w
/-- UANDI (12 R163). -/
def execUandi (d a : GReg) (i : BitVec 14) (s : State) := ualu1 s (.uandi d a i) d a fun x => x &&& i.signExtend 64
/-- UORI (12 R163). -/
def execUori (d a : GReg) (i : BitVec 14) (s : State) := ualu1 s (.uori d a i) d a fun x => x ||| i.signExtend 64
/-- UXORI (12 R163). -/
def execUxori (d a : GReg) (i : BitVec 14) (s : State) := ualu1 s (.uxori d a i) d a fun x => x ^^^ i.signExtend 64
/-- USHLI (12 R163). -/
def execUshli (d a : GReg) (n : Fin 64) (s : State) := ualu1 s (.ushli d a n) d a fun x => x <<< n.val

/-! LANE-TO-UNIFORM (12 R181). -/

/-- V(n)[l] as a uniform instruction reads it. -/
def uniV (s : State) (w : Issuer) (n l : Nat) : Word :=
  seeReg s w (.v n) (pathOf w l) true (.v n) l

/-- The lanes of the split whose value of a register is not zero. -/
def nonZero (s : State) (w : Issuer) (v : Nat) : Mask := maskOf ((lanesOf w.sp.mask).filter fun l => uniV s w v l != 0)

/-- A read of lanes of a register into a uniform register (12 R181). -/
def laneToUni (s : State) (i : Instr) (d v : Nat) (gs : List Nat) (lanes : Issuer → Mask) (f : Issuer → DWord) :
    Host.Outcome State Fault Refusal :=
  uniIssue s i false [v] (fun w => readsG gs w ++ [⟨.v v, lanes w, true, true⟩]) fun w => done (putG s w d (f w)) w

/-- READLANE (12 R181). -/
def execReadlane (d : GReg) (v : VReg) (b : GReg) (s : State) : Host.Outcome State Fault Refusal :=
  laneToUni s (.readlane d v b) d v [b] (fun w => oneLane ((uniG s w b).toNat % 32))
    fun w => (uniV s w v ((uniG s w b).toNat % 32)).setWidth 64
/-- READFIRST (12 R181). -/
def execReadfirst (d : GReg) (v : VReg) (s : State) : Host.Outcome State Fault Refusal :=
  laneToUni s (.readfirst d v) d v [] (fun w => oneLane (lowestLane w.sp.mask))
    fun w => (uniV s w v (lowestLane w.sp.mask)).setWidth 64
/-- VOTE_ANY (12 R181). -/
def execVoteAny (d : GReg) (v : VReg) (s : State) : Host.Outcome State Fault Refusal :=
  laneToUni s (.voteAny d v) d v [] (fun w => w.sp.mask) fun w => flag64 (nonZero s w v != 0)
/-- VOTE_ALL (12 R181). -/
def execVoteAll (d : GReg) (v : VReg) (s : State) : Host.Outcome State Fault Refusal :=
  laneToUni s (.voteAll d v) d v [] (fun w => w.sp.mask) fun w => flag64 (nonZero s w v == w.sp.mask)
/-- BALLOT (12 R181). -/
def execBallot (d : GReg) (v : VReg) (s : State) : Host.Outcome State Fault Refusal :=
  laneToUni s (.ballot d v) d v [] (fun w => w.sp.mask) fun w => (nonZero s w v).setWidth 64

/-! UMASK (12 R182). -/

/-- A write of a whole mask register by a uniform instruction: readable one position later by a uniform consumer, two by a
lane one (12 R159, R182). -/
def putMask (s : State) (w : Issuer) (k : Nat) (v : Mask) : State := putK s w k (BitVec.allOnes 32) 2 1 v

/-- A mask operation of two masks (12 R182). -/
def umask2 (s : State) (i : Instr) (d a b : Nat) (f : Mask → Mask → Mask) : Host.Outcome State Fault Refusal :=
  uniIssue s i false [] (fun _ => srcK true (BitVec.allOnes 32) a ++ srcK true (BitVec.allOnes 32) b) fun w =>
    done (putMask s w d (f (maskK s w true a) (maskK s w true b))) w

/-- UMASK_SET (12 R182). -/
def execUmaskSet (d : KReg) (a : GReg) (s : State) : Host.Outcome State Fault Refusal :=
  uniIssue s (.umaskSet d a) false [] (readsG [a]) fun w => done (putMask s w d ((uniG s w a).setWidth 32)) w
/-- UMASK_GET (12 R182). -/
def execUmaskGet (d : GReg) (a : KReg) (s : State) : Host.Outcome State Fault Refusal :=
  uniIssue s (.umaskGet d a) false [] (fun _ => srcK true (BitVec.allOnes 32) a) fun w => done (putG s w d ((maskK s w true a).setWidth 64)) w
/-- UMASK_AND (12 R182). -/
def execUmaskAnd (d a b : KReg) (s : State) := umask2 s (.umaskAnd d a b) d a b fun x y => x &&& y
/-- UMASK_OR (12 R182). -/
def execUmaskOr (d a b : KReg) (s : State) := umask2 s (.umaskOr d a b) d a b fun x y => x ||| y
/-- UMASK_XOR (12 R182). -/
def execUmaskXor (d a b : KReg) (s : State) := umask2 s (.umaskXor d a b) d a b fun x y => x ^^^ y
/-- UMASK_ANDN (12 R182). -/
def execUmaskAndn (d a b : KReg) (s : State) := umask2 s (.umaskAndn d a b) d a b fun x y => x &&& ~~~y
/-- UMASK_NOT (12 R182). -/
def execUmaskNot (d a : KReg) (s : State) : Host.Outcome State Fault Refusal :=
  uniIssue s (.umaskNot d a) false [] (fun _ => srcK true (BitVec.allOnes 32) a) fun w => done (putMask s w d (~~~maskK s w true a)) w

/-! Vacate queries (12 R183, R184). -/

/-- The answer of VCOST (12 R183). -/
def vcostOf (s : State) (cls size : Nat) : DWord :=
  if 13 < cls then BitVec.allOnes 64 else BitVec.ofNat 64 (chargeOf s cls size + 2 ^ 32 * channelOf s cls)

/-- VCOST (12 R183). -/
def execVcost (d a b : GReg) (s : State) : Host.Outcome State Fault Refusal :=
  uniIssue s (.vcost d a b) false [] (readsG [a, b]) fun w =>
    done (putG s w d (vcostOf s ((uniG s w a).toNat % 256) (uniG s w b).toNat)) w

/-- The answer of VTEST (12 R184). -/
def vtestOf (s : State) (w : Issuer) (cls size : Nat) : DWord :=
  if 13 < cls then BitVec.allOnes 64
  else match admitMine s w cls (chargeOf s cls size) with
    | .go => 0
    | .hold _ => 1
    | .trap => 2

/-- VTEST (12 R184). -/
def execVtest (d a b : GReg) (s : State) : Host.Outcome State Fault Refusal :=
  uniIssue s (.vtest d a b) false [] (readsG [a, b]) fun w =>
    done (putG s w d (vtestOf s w ((uniG s w a).toNat % 256) (uniG s w b).toNat)) w

end Sys2Proof.Machine
end

