-- ==== Sys2Proof/Machine/Matrix.lean ====
section
/-! DEFINITION. The matrix engine: its instructions, and the commands that run from its queue (07_numbers R90, R92 to R98, 16 R223 to
R237). -/

namespace Sys2Proof

open Sys2Proof.Machine

/-- The format of the A elements of a type; s8 for type 9. -/
def MType.aFmt : MType → NumFmt
  | .f64 => .f64 | .f32 => .f32 | .bf16 => .bf16 | .f16 => .f16 | .e4m3 => .e4m3 | .e5m2 => .e5m2
  | .f16nq4 => .f16 | .bf16nq4 => .bf16 | .e4m3nq4 => .e4m3 | .s8 => .s 8

/-- Whether the B elements of a type are nq4 codes. -/
def MType.isNq4 : MType → Bool
  | .f16nq4 => true | .bf16nq4 => true | .e4m3nq4 => true | _ => false

/-- The accumulator format of a type (07 R93). -/
def MType.accFmt : MType → NumFmt
  | .f64 => .f64 | .s8 => .s 32 | _ => .f32

/-- U: the units of one A-row (07 R92). -/
def MType.units : MType → Nat
  | .f16nq4 => 4 | .bf16nq4 => 4 | .e4m3nq4 => 2 | _ => 1

end Sys2Proof

namespace Sys2Proof.Machine

/-! Element types and shapes (07 R90, R92, 09 R107). -/

/-- The bytes of a format. -/
def fmtBytes (f : NumFmt) : Nat := f.width / 8

/-- Ku: the elements of one 128-byte unit (07 R92). -/
def unitElems (f : NumFmt) : Nat := 96 / fmtBytes f

/-- K of a pass (07 R92, 09 R107). -/
def depthOf (t : MType) (short : Bool) : Nat := if short then 4 else t.units * unitElems t.aFmt

/-- M of a shape (09 R107). -/
def shapeM (shape : Nat) : Nat := match bits shape 3 2 with | 0 => 1 | 1 => 4 | 2 => 8 | _ => 16
/-- N of a shape. -/
def shapeN (shape : Nat) : Nat := match bits shape 1 2 with | 0 => 4 | 1 => 16 | 2 => 32 | _ => 64

/-- q(c) of an nq4 code (07 R90). -/
def nq4Int (c : Nat) : Int :=
  [-256, -180, -136, -102, -74, -48, -24, 0, 21, 44, 68, 94, 122, 156, 198, 256].getD c 0

/-- The exact value of an integer times a power of two. -/
def exactInt (n : Int) (e : Int) : FVal := .fin (decide (n < 0)) n.natAbs e

/-- The value of an nq4 code: q(c) ÷ 256; code 7 is +0 (07 R90). -/
def nq4Val (c : Nat) : FVal := exactInt (nq4Int c) (-8)

/-- The value of an encoding of any format. -/
def valueOf (f : NumFmt) (x : Nat) : FVal := if f.isFloat then unpack f x else exactInt (intValue f x) 0

/-! Pass (07 R93). -/

/-- The exact sum of values: NaN for any NaN and for both infinities; −0 only of negative zeros. -/
def sumVals : FVal → List FVal → FVal
  | a, [] => a
  | a, v :: vs => sumVals (addVal a v).1 vs

/-- The exact sum of the terms of a block. -/
def sumTerms : List FVal → FVal
  | [] => .fin false 0 0
  | v :: vs => sumVals v vs

/-- The accumulator element after a pass: one rounding; integer sums wrap (07 R93). -/
def passResult (f : NumFmt) (acc : Nat) (terms : List FVal) : Nat :=
  match f, sumVals (valueOf f acc) terms with
  | .s n, .fin neg m e => wrapInt n (signedMan neg (m * 2 ^ e.toNat))
  | _, v => (encodeTo f .rne false v).1

/-- The bytes of a store at an offset as a number. -/
def Store.num (m : Store 8) (off n : Nat) : Nat := numOf (m.bytes off n)

/-- Element `k` of an A-row at an offset of the scratchpad (07 R92). -/
def aElem (x : Store 8) (t : MType) (row k : Nat) : FVal :=
  let f := t.aFmt
  valueOf f (x.num (row + 128 * (k / unitElems f) + k % unitElems f * fmtBytes f) (fmtBytes f))

/-- The terms of a pass for one A-row and one column record (07 R92, R93). DESIGN CHOICE (log 67): a BlockSum with an infinity times code 7,
or with infinities of both signs, is NaN, and a zero BlockSum is −0 only where its every product is. -/
def passTerms (x b : Store 8) (t : MType) (k row rec_ : Nat) : List FVal :=
  if t.isNq4 then
    (List.range (k / 64)).map fun blk =>
      let sum := sumTerms ((List.range 64).map fun i =>
        let n := 64 * blk + i
        let code := bits (b.num (rec_ + n / 2) 1) (4 * (n % 2)) 4
        (mulVal (aElem x t row n) (nq4Val code)).1)
      (mulVal sum (unpack .f32 (b.num (rec_ + 96 + 4 * blk) 4))).1
  else
    (List.range k).map fun i =>
      (mulVal (aElem x t row i) (valueOf t.aFmt (b.num (rec_ + i * fmtBytes t.aFmt) (fmtBytes t.aFmt)))).1

/-! The accumulator store (16 R226). -/

/-- The offset in the store of element (row, column) of a tile at a slot. -/
def accOff (c : Nat) (f : NumFmt) (slot row col : Nat) : Nat :=
  slot * Config.slotBytes c + (Config.width c * row + col) * fmtBytes f

/-- The slots a pass of a type covers. -/
def slotSpan (t : MType) (slot : Nat) : List Nat := if t = .f64 then [slot, slot + 1] else [slot]

/-- The bytes of one row of a slot (16 R235). -/
def rowBytes (c : Nat) : Nat := 4 * Config.width c

/-- The platen of a number. -/
def Matrix.platen (m : Matrix) (p : Nat) : Store 8 := if p = 0 then m.platen0 else m.platen1
/-- The record count of a platen. -/
def Matrix.count (m : Matrix) (p : Nat) : Nat := if p = 0 then m.count0 else m.count1
/-- The slot states that the MSTREAMs of a cycle meet (16 R224). -/
def Matrix.slotsAt (m : Matrix) (cycle : Nat) : List SlotState := if m.mark = some cycle then m.slots0 else m.slots
/-- The record count that the MSTREAMs of a cycle meet. -/
def Matrix.countAt (m : Matrix) (cycle p : Nat) : Nat :=
  if m.mark = some cycle then (if p = 0 then m.count00 else m.count10) else m.count p

/-- The state of a slot. -/
def slotState (ss : List SlotState) (n : Nat) : SlotState := ss.getD n .free

/-- HEAD (16 R227). -/
def Matrix.head (m : Matrix) : Nat := (m.tail + m.used) % 64

/-- Keep the bookkeeping state of before a cycle's first uniform matrix instruction (16 R224). -/
def Matrix.marked (m : Matrix) (cycle : Nat) : Matrix :=
  if m.mark = some cycle then m
  else { m with mark := some cycle, slots0 := m.slots, count00 := m.count0, count10 := m.count1 }

/-- Insert a command in intake order (16 R224). -/
def insertCommand (k : Command) : List Command → List Command
  | [] => [k]
  | y :: r => if k.cycle < y.cycle ∨ (k.cycle = y.cycle ∧ k.rank < y.rank) then k :: y :: r else y :: insertCommand k r

/-- The units in which a command makes its accesses (13 R201, R202): the records of a load, the A-rows of a pass, the vectors (0 and 1) and
the output rows (from 2) of an EPI, the rows of an AMOV, and one for a zeroing. DESIGN CHOICE (log 69): the unit is what a unit of R225
works on in one cycle. -/
def CommandKind.units : CommandKind → List Nat
  | .zero _ => [0]
  | .load _ _ n => List.range n
  | .pass _ _ _ _ _ _ m _ _ _ => List.range m
  | .epi r _ _ => (if bit r.flags 1 then [0] else []) ++ (if bit r.flags 2 then [1] else []) ++ (List.range r.rows).map (· + 2)
  | .amov _ _ _ _ rows => List.range rows

/-- A command as it reaches the queue. -/
def newCommand (block : Nat) (op : Option Nat) (cycle rank : Nat) (kind : CommandKind) : Command :=
  ⟨block, op, cycle, rank, kind, kind.units, none, [], []⟩

/-- Enqueue commands. -/
def Matrix.enqueue (m : Matrix) (ks : List Command) : Matrix := { m with queue := ks.foldl (fun q k => insertCommand k q) m.queue }

/-- Whether commands fit the queue (16 R224). -/
def Matrix.fits (m : Matrix) (n : Nat) : Bool := m.queue.length + n ≤ 32

/-- A uniform matrix instruction places its command if there is room for it; the passes of its cycle come before it (16 R224: `yields`). -/
def placeNow (s : State) (w : Issuer) (go : State → State) : State :=
  if w.core.matrix.fits 1 then go s else holdIt s w .commandQueueFull

/-- Whether the issuer's block holds the matrix engine (16 R223). -/
def holdsEngine (w : Issuer) : Bool := w.core.matrix.holder == some w.g.block

/-- The base and size of the issuer's allocation. -/
def scratchBase (w : Issuer) : Nat := (ownScratch w).1

/-- Whether a local scratchpad range of any length breaks R63: SEL not 0, or outside the allocation. -/
def localRange (w : Issuer) (a n : Nat) : Bool := bits a 19 13 != 0 || (ownScratch w).2 < a + n

/-! MSTREAM (16 R228, R229). -/

/-- A pass that an MSTREAM asks for: its quarter, supplying lane, A address and descriptor. -/
structure PassAsk where
  quarter : Nat
  lane : Nat
  a : Nat
  d : Nat
  deriving DecidableEq, Repr

/-- The passes of an MSTREAM, one a quarter with active lanes (16 R228). -/
def passAsks (s : State) (w : Issuer) (m : Mask) (vd va : Nat) : List PassAsk :=
  (List.range 4).filterMap fun q =>
    match (lanesOf m).find? fun l => l / 8 == q with
    | none => none
    | some l => some ⟨q, l, (laneV s w va l).toNat, (laneV s w vd l).toNat⟩

/-- ILLEGAL_SHAPE of a pass (16 R228). -/
def badShape (s : State) (w : Issuer) (t : MType) (shape : Nat) (p : PassAsk) : Bool :=
  let m := shapeM shape
  let n := shapeN shape
  let c := Config.width w.c
  bits p.d 18 14 != 0 || (n == 64 && !Config.isForme w.c) || (bit shape 0 && t.isNq4) || 16 < bits p.d 6 4 + m
    || c < bits p.d 10 6 + n || w.core.matrix.countAt s.cycle (bits p.d 16 1) < n || (t == .f64 && p.d % 2 == 1)

/-- RING_EMPTY of a pass. -/
def slotsClosed (s : State) (w : Issuer) (t : MType) (p : PassAsk) : Bool :=
  (slotSpan t (bits p.d 0 6)).any fun n => slotState (w.core.matrix.slotsAt s.cycle) n != .opened

/-- The first cause that any pass of an MSTREAM meets, its lanes, and %ebad (16 R228). -/
def mstreamFault (s : State) (w : Issuer) (t : MType) (shape : Nat) (ps : List PassAsk) : Option (Cause × Mask × Nat) :=
  let size := 128 * t.units * shapeM shape
  let pick (c : Cause) (bad : List PassAsk) (v : PassAsk → Nat) : Option (Cause × Mask × Nat) :=
    match bad with
    | [] => none
    | p :: _ => some (c, maskOf (bad.map fun q => q.lane), v p)
  (pick .illegalShape (ps.filter (badShape s w t shape)) fun p => p.d) <|>
  (pick .ringEmpty (ps.filter (slotsClosed s w t)) fun p => p.d) <|>
  (pick .scratchRange (ps.filter fun p => localRange w p.a size) fun p => p.a) <|>
  (pick .misaligned (ps.filter fun p => p.a % 128 != 0) fun p => p.a)

/-- Whether the type of an MSTREAM has been accepted (26 R324). -/
def typeAccepted (s : State) (t : MType) : Bool :=
  (t != .f64 || s.feature 1) && (!t.isNq4 || s.feature 2)
    && (s.dev.service == .full || t == .f64 || t == .f32 || t == .bf16 || t == .f16)

/-- MSTREAM (16 R228, R229). -/
def execMstream (k : KReg) (d a : VReg) (sh : Fin 32) (t : MType) (s : State) : Host.Outcome State Fault Refusal :=
  laneIssueIf s (.mstream k d a sh t) (fun w => holdsEngine w && typeAccepted s t) [d, a] (readsV s k [d.val, a.val]) fun w =>
    let ps := passAsks s w (activeOf s w k) d a
    match mstreamFault s w t sh.val ps with
    | some (c, m, b) => trapHere s w c (BitVec.ofNat 64 b) m
    | none =>
      if ps.isEmpty then done s w
      else
        let charge := ps.length * chargeOf s 6 (shapeM sh.val)
        chargedFor s w 6 charge (maskOf (ps.map fun p => p.lane))
          (if !w.core.matrix.fits ps.length then holdIt s w .commandQueueFull
          else afterFences s w
            (let r := forkOp s w .gm 6 charge (.matrix ps.length)
            let cmd (p : PassAsk) : Command :=
              newCommand w.g.block (some r.1) s.cycle (32 * p.quarter + w.slot) (.pass (scratchBase w + p.a) (bits p.d 0 6) (bits p.d 6 4)
                (bits p.d 10 6) (bits p.d 16 1) (bit p.d 17) (shapeM sh.val) (shapeN sh.val) (bit sh.val 0) t)
            done (r.2.modCore w.c fun x => { x with matrix := x.matrix.enqueue (ps.map cmd) }) w))

/-! MLOAD, MOPEN, MCLOSE, AMOV, MSTAT (16 R230 to R232, R235, R236). -/

/-- A uniform matrix instruction places one command that is an operation on gm, with its bookkeeping (16 R224, R225). -/
def placeCommand (s : State) (w : Issuer) (cls c : Nat) (kind : CommandKind) (book : Matrix → Matrix) : State :=
  charged s w cls c (placeNow s w fun s => afterFences s w
    (let r := forkOp s w .gm cls c (.matrix 1)
    done (r.2.modCore w.c fun x =>
      { x with matrix := (book (x.matrix.marked s.cycle)).enqueue [newCommand w.g.block (some r.1) s.cycle (128 + w.slot) kind] }) w))

/-- The local scratchpad address checks of a uniform matrix instruction (16 R230, R234, R235). -/
def checkedLocal (s : State) (w : Issuer) (size align a : Nat) (ok : State) : State :=
  if localRange w a size then trapAll s w .scratchRange (BitVec.ofNat 64 a)
  else if a % align ≠ 0 then trapAll s w .misaligned (BitVec.ofNat 64 a) else ok

/-- MLOAD (16 R230). -/
def execMload (a b : GReg) (s : State) : Host.Outcome State Fault Refusal :=
  uniIssueIf s (.mload a b) holdsEngine [] (readsG [a, b]) fun w =>
    let at_ := uniAddr s w a
    let v := (uniG s w b).toNat
    let n := bits v 0 7
    let p := bits v 8 1
    if n = 0 ∨ Config.width w.c < n ∨ bit v 7 ∨ bits v 9 55 ≠ 0 then trapAll s w .illegalShape (BitVec.ofNat 64 v)
    else checkedLocal s w (128 * n) 128 at_
      (placeCommand s w 7 (chargeOf s 7 n) (.load p (scratchBase w + at_) n)
        fun m => if p = 0 then { m with count0 := n } else { m with count1 := n })

/-- MOPEN (16 R231). -/
def execMopen (d a : GReg) (s : State) : Host.Outcome State Fault Refusal :=
  uniIssueIf s (.mopen d a) holdsEngine [] (readsG [a]) fun w =>
    let v := (uniG s w a).toNat
    let m := w.core.matrix
    if 2 ≤ v then trapAll s w .illegalShape (BitVec.ofNat 64 v)
    else if m.used = 64 then trapAll s w .ringFull (BitVec.ofNat 64 v)
    else
      let go (s : State) : State :=
        let t := s.modCore w.c fun x =>
          let m := x.matrix.marked s.cycle
          let m := { m with slots := m.slots.set m.head .opened, used := m.used + 1 }
          { x with matrix := if v = 0 then m.enqueue [newCommand w.g.block none s.cycle (128 + w.slot) (.zero w.core.matrix.head)] else m }
        done (putG t w d (BitVec.ofNat 64 m.head)) w
      if v = 0 then placeNow s w go else go s

/-- MCLOSE (16 R232). -/
def execMclose (a : GReg) (s : State) : Host.Outcome State Fault Refusal :=
  uniIssueIf s (.mclose a) holdsEngine [] (readsG [a]) fun w =>
    let v := (uniG s w a).toNat
    if 64 ≤ v then trapAll s w .illegalShape (BitVec.ofNat 64 v)
    else if slotState w.core.matrix.slots v != .opened then trapAll s w .ringEmpty (BitVec.ofNat 64 v)
    else done (s.modCore w.c fun x =>
      let m := x.matrix.marked s.cycle
      { x with matrix := { m with slots := m.slots.set v .ready } }) w

/-- AMOV in either direction (16 R235). -/
def amov (s : State) (i : Instr) (a b : Nat) (store : Bool) : Host.Outcome State Fault Refusal :=
  uniIssueIf s i holdsEngine [] (readsG [a, b]) fun w =>
    let at_ := uniAddr s w a
    let v := (uniG s w b).toNat
    let slot := bits v 0 6
    let row0 := bits v 6 4
    let rows := bits v 10 5
    if rows = 0 ∨ 16 < row0 + rows ∨ bits v 15 49 ≠ 0 then trapAll s w .illegalShape (BitVec.ofNat 64 v)
    else if slotState w.core.matrix.slots slot == .free then trapAll s w .ringEmpty (BitVec.ofNat 64 v)
    else checkedLocal s w (rows * rowBytes w.c) 16 at_
      (placeCommand s w 9 (chargeOf s 9 rows) (.amov store (scratchBase w + at_) slot row0 rows) id)

/-- AMOV_LD (16 R235). -/
def execAmovLd (a b : GReg) (s : State) := amov s (.amovLd a b) a b false
/-- AMOV_ST (16 R235). -/
def execAmovSt (a b : GReg) (s : State) := amov s (.amovSt a b) a b true

/-- The word MSTAT reads (16 R236). -/
def mstatWord (m : Matrix) : Nat :=
  m.head + 2 ^ 6 * m.tail + 2 ^ 12 * m.used
    + (if m.used != 0 && slotState m.slots m.tail == .ready then 2 ^ 19 else 0) + 2 ^ 20 * m.count0 + 2 ^ 27 * m.count1
    + 2 ^ 34 * m.queue.length

/-- MSTAT (16 R236). -/
def execMstat (d : GReg) (s : State) : Host.Outcome State Fault Refusal :=
  uniIssueIf s (.mstat d) holdsEngine [] (fun _ => []) fun w => done (putG s w d (BitVec.ofNat 64 (mstatWord w.core.matrix))) w

/-! EPI (16 R233, R234). -/

/-- Read an epilogue record of 32 bytes. -/
def epiRecordOf (bs : List Byte) : EpiRecord :=
  ⟨fieldOf bs 0 1, fieldOf bs 1 1, fieldOf bs 2 1, fieldOf bs 3 1, fieldOf bs 4 4, fieldOf bs 8 4, fieldOf bs 12 4, fieldOf bs 16 4,
   fieldOf bs 20 1, fieldOf bs 21 1, fieldOf bs 22 10 == 0⟩

/-- The output format of a record. -/
def outFmt : Nat → NumFmt
  | 0 => .f32 | 1 => .bf16 | 2 => .f16 | 3 => .e4m3 | 4 => .e5m2 | 5 => .s 8 | _ => .s 32

/-- Whether a vector of a record is valid: 16-byte aligned and inside the allocation, or zero if absent. -/
def vectorOk (present : Bool) (a n size : Nat) : Bool := if present then a % 16 == 0 && a + n ≤ size else a == 0

/-- Whether an epilogue record is valid on a core with an allocation of a size (16 R233, 26 R324). -/
def epiValid (s : State) (c size : Nat) (r : EpiRecord) : Bool :=
  let n := Config.width c
  r.outType ≤ 6 && r.mode ≤ 4 && (r.mode != 4 || s.feature 9) && r.act ≤ 3 && r.flags < 8 && 1 ≤ r.rows && r.rows ≤ 16
    && r.accKind ≤ 2 && r.zerosOk && r.stride % 16 == 0 && r.dest % 16 == 0
    && vectorOk (bit r.flags 1) r.scale (4 * n) size && vectorOk (bit r.flags 2) r.bias (4 * n) size
    && r.dest + r.stride * (r.rows - 1) + n * fmtBytes (outFmt r.outType) ≤ size

/-- The slots an EPI of an accumulator kind frees: the tail, or the tail pair (16 R227). -/
def epiSlots (m : Matrix) (kind : Nat) : List Nat := if kind = 2 then [m.tail, (m.tail + 1) % 64] else [m.tail]

/-- The poisoned word of a record of 32 bytes at an address of the issuer's scratchpad. -/
def recordPoison (w : Issuer) (at_ : Nat) : Option Nat :=
  ((List.range 4).find? fun j => w.core.poisonedAt (scratchBase w + at_ + 8 * j) 8).map fun j => at_ + 8 * j

/-- EPI with its record as read: the checks of the record and of the ring, the hold for an OPEN tail, or its issue (16 R234, 07 R98). -/
def epiChecked (s : State) (w : Issuer) (at_ : Nat) (r : EpiRecord) : State :=
  let ebad : DWord := BitVec.ofNat 64 at_
  let m := w.core.matrix
  let slots := epiSlots m r.accKind
  if !epiValid s w.c (ownScratch w).2 r then trapAll s w .layoutInvalid ebad
  else if m.used < slots.length then trapAll s w .ringEmpty ebad
  else if r.accKind = 2 && m.tail % 2 = 1 then trapAll s w .illegalShape ebad
  else if slots.any fun n => slotState m.slots n != .ready then holdIt s w (.epi r.accKind)
  else
    let t := placeCommand s w 8 (chargeOf s 8 0) (.epi r m.tail w.g.dphase.toNat) fun m =>
      { m with slots := slots.foldl (fun ss n => ss.set n .free) m.slots, tail := (m.tail + slots.length) % 64,
               used := m.used - slots.length }
    if (t.core w.c).matrix.queue.length == m.queue.length then t else t.modMine w fun g => { g with dphase := g.dphase + 1 }

/-- EPI (16 R234, 07 R98): the split is held until the record has been read, and while the tail is OPEN; the record is then read again.
DESIGN CHOICE (log 67): a try after a hold for the queue, the charge or a fence reads the record and goes on in the same cycle. -/
def execEpi (a : GReg) (s : State) : Host.Outcome State Fault Refusal :=
  uniIssueIf s (.epi a) holdsEngine [] (readsG [a]) fun w =>
    let at_ := uniAddr s w a
    let m := w.core.matrix
    let record := readPlace s ⟨w.c, scratchBase w + at_⟩ 32
    let readNow := holdIt s w (.epiRead record (recordPoison w at_))
    let readAgain := if (recordPoison w at_).isNone then epiChecked s w at_ (epiRecordOf record) else readNow
    checkedLocal s w 32 32 at_
      (match w.sp.hold with
      | .epiRead _ (some b) => trapAll (poisonEvent s w.c w.slot .poison (BitVec.ofNat 64 b)) w .poison (BitVec.ofNat 64 b)
      | .epiRead bs none => epiChecked s w at_ (epiRecordOf bs)
      | .epi kind => if (epiSlots m kind).any fun n => slotState m.slots n == .opened then holdIt s w (.epi kind) else readNow
      | .vacateStall => readAgain
      | .commandQueueFull => readAgain
      | .fence _ _ _ => readAgain
      | _ => readNow)

/-! Running commands (16 R225, R229, R230, R231, R234, R235). -/

/-- The platens a command reads or writes, with whether it writes. -/
def CommandKind.platens : CommandKind → List (Nat × Bool)
  | .load p _ _ => [(p, true)]
  | .pass _ _ _ _ p _ _ _ _ _ => [(p, false)]
  | _ => []

/-- The slots a command reads or writes (16 R225). -/
def CommandKind.slots : CommandKind → List Nat
  | .zero n => [n]
  | .load _ _ _ => []
  | .pass _ n _ _ _ _ _ _ _ t => slotSpan t n
  | .epi r n _ => if r.accKind = 2 then [n, n + 1] else [n]
  | .amov _ _ n _ _ => [n]

/-- The scratchpad ranges a command reads on a core, its block's allocation at a base. -/
def CommandKind.reads (c base : Nat) : CommandKind → List (Nat × Nat)
  | .load _ a n => [(a, 128 * n)]
  | .pass a _ _ _ _ _ m _ _ t => [(a, 128 * t.units * m)]
  | .epi r _ _ => (if bit r.flags 1 then [(base + r.scale, 4 * Config.width c)] else [])
      ++ if bit r.flags 2 then [(base + r.bias, 4 * Config.width c)] else []
  | .amov false a _ _ rows => [(a, rows * rowBytes c)]
  | _ => []

/-- The scratchpad ranges a command writes. -/
def CommandKind.writes (c base : Nat) : CommandKind → List (Nat × Nat)
  | .epi r _ _ => [(base + r.dest, r.stride * (r.rows - 1) + Config.width c * fmtBytes (outFmt r.outType))]
  | .amov true a _ _ rows => [(a, rows * rowBytes c)]
  | _ => []

/-- Whether a later command waits for an earlier one: a platen or slot they share, or scratchpad bytes the earlier one writes and
the later one reads (16 R225). DESIGN CHOICE (log 67): or writes. -/
def waitsFor (c base : Nat) (k e : CommandKind) : Bool :=
  (k.platens.any fun p => e.platens.any fun q => p.1 == q.1 && (p.2 || q.2)) || (k.slots.any fun n => e.slots.contains n)
    || ((k.reads c base).any fun r => (e.writes c base).any fun q => r.1 < q.1 + q.2 && q.1 < r.1 + r.2)
    || ((k.writes c base).any fun r => (e.writes c base).any fun q => r.1 < q.1 + q.2 && q.1 < r.1 + r.2)

/-- Command `n` of a core's queue, if it may run now: it reached the queue in an earlier cycle, every earlier command it depends on has
finished, and every command before it has been able to start (16 R225). -/
def runnable (s : State) (c n : Nat) : Option (Command × Nat) :=
  let x := s.core c
  match x.matrix.queue[n]? with
  | none => none
  | some k =>
    let base (k : Command) : Nat := ((x.block? k.block).map fun b => b.spbase).getD 0
    let free (j : Nat) : Bool := match x.matrix.queue[j]? with
      | none => true
      | some e => !((x.matrix.queue.take j).any fun f => waitsFor c (base e) e.kind f.kind)
    if k.cycle < s.cycle && (List.range (n + 1)).all free then some (k, base k) else none

/-- Unit `u` of a command that may run now. -/
def runUnit (s : State) (c n u : Nat) : Option (Command × Nat) := (runnable s c n).filter fun p => p.1.left.contains u

/-- The units that the commands of a queue have left, command by command, each with its command's place. An event names one by its place
here. -/
def unitsLeft (q : List Command) : List (Nat × Nat) := q.zipIdx.flatMap fun p => p.1.left.map fun u => (p.2, u)

/-- A move of the unit that an event names, if it names one. -/
def atUnit (s : State) (core i : Nat) (f : Nat → Nat → State) : Host.Outcome State Fault Refusal :=
  .next (match (unitsLeft (s.core core).matrix.queue)[i]? with
  | some (n, u) => f n u
  | none => s)

/-- The scratchpad bytes that unit `u` of a command reads (16 R237): of an A-row only the bytes that hold elements (07 R92). -/
def CommandKind.touches (c base u : Nat) : CommandKind → List (Nat × Nat)
  | .pass a _ _ _ _ _ _ _ short t =>
      if short then [(a + 128 * t.units * u, 4 * fmtBytes t.aFmt)]
      else (List.range t.units).map fun j => (a + 128 * (t.units * u + j), unitElems t.aFmt * fmtBytes t.aFmt)
  | .load _ a _ => [(a + 128 * u, 128)]
  | .epi r _ _ => if u = 0 then [(base + r.scale, 4 * Config.width c)] else if u = 1 then [(base + r.bias, 4 * Config.width c)] else []
  | .amov false a _ _ _ => [(a + u * rowBytes c, rowBytes c)]
  | _ => []

/-- The platen bytes that a pass reads, as poison numbers them: its column records, codes and scales or elements (07 R92). -/
def CommandKind.records : CommandKind → List (Nat × Nat)
  | .pass _ _ _ _ p _ _ n short t => (List.range n).flatMap fun j =>
      let at_ := 2 ^ 20 * (1 + p) + 128 * j
      let k := depthOf t short
      if t.isNq4 then [(at_, k / 2), (at_ + 96, 4 * (k / 64))] else [(at_, k * fmtBytes t.aFmt)]
  | _ => []

/-- The offset in the store of a row of a slot. -/
def rowOff (c slot row : Nat) : Nat := slot * Config.slotBytes c + row * rowBytes c

/-- The bytes of the accumulator store that unit `u` of a command reads. -/
def CommandKind.tiles (c u : Nat) : CommandKind → List (Nat × Nat)
  | .pass _ slot row0 col0 _ clear _ n _ t => if clear then [] else [(accOff c t.accFmt slot (row0 + u) col0, n * fmtBytes t.accFmt)]
  | .epi r slot _ =>
      let row := Config.width c * (if r.accKind = 2 then 8 else 4)
      if u < 2 then [] else [(slot * Config.slotBytes c + (u - 2) * row, row)]
  | .amov true _ slot row0 _ => [(rowOff c slot (row0 + u), rowBytes c)]
  | _ => []

/-- Poison that a unit of a command meets: a scratchpad word it reads, or a platen or slot byte (16 R237). DESIGN CHOICE (log 67): of
several, the lowest scratchpad word, before any platen or slot byte. -/
def unitPoison (x : Core) (c base u : Nat) (k : CommandKind) : Option DWord :=
  let words := (k.touches c base u).flatMap fun r =>
    (x.poison.filter fun o => r.1 / 8 ≤ o / 8 && o / 8 ≤ (r.1 + r.2 - 1) / 8).map fun o => o / 8 * 8
  match words with
  | o :: os => some (BitVec.ofNat 64 (os.foldl min o - base))
  | [] => if (k.records ++ k.tiles c u).any fun r => x.slotPoison.any fun o => r.1 ≤ o && o < r.1 + r.2 then some 0 else none

/-- A command has run: it leaves the queue, and its operation completes with its last command (16 R229). An instruction with a poisoned one
owes its group one trap at the WAIT on its batch (16 R237); DESIGN CHOICE (log 67): of several, for the first to finish. -/
def commandDone (s : State) (c n : Nat) (k : Command) : State :=
  let s := s.modCore c fun x => { x with matrix := { x.matrix with queue := removeAt n x.matrix.queue } }
  match k.op.bind fun i => s.op? i with
  | none => s
  | some o =>
    let s := match k.bad with
      | none => s
      | some b => s.modGroup o.core o.slot fun g =>
          if g.due.any fun d => d.born == o.id then g
          else { g with due := g.due ++ [⟨some (.gm, o.batch), none, false, o.split, .poison, b, BitVec.allOnes 32, o.id⟩] }
    match o.kind with
    | .matrix (i + 2) => s.setOpKind o.id (.matrix (i + 1))
    | _ => completeOp s o

/-- Unit `u` of command `n` has run, meeting poison or none: the command is done with its last one. -/
def unitDone (s : State) (c n u : Nat) (k : Command) (bad : Option DWord) : State :=
  let k := { k with left := k.left.erase u, bad := k.bad <|> bad }
  if k.left.isEmpty then commandDone s c n k
  else s.modCore c fun x => { x with matrix := { x.matrix with queue := x.matrix.queue.set n k } }

/-- Bytes written over poison numbered from `lo`: it ends, and that of the bytes takes its place (31 R380). -/
def movePoison (lo : Nat) (bs : List (Byte × Bool)) (ps : List Nat) : List Nat :=
  ((List.range bs.length).filter fun i => (bs[i]?.map Prod.snd).getD false).map (lo + ·)
    ++ ps.filter fun o => o < lo || lo + bs.length ≤ o

/-- Bytes written into the accumulator store, each with its poison. -/
def Core.putAcc (x : Core) (off : Nat) (bs : List (Byte × Bool)) : Core :=
  { x with matrix := { x.matrix with acc := x.matrix.acc.setBytes off (bs.map Prod.fst) }, slotPoison := movePoison off bs x.slotPoison }

/-- The bytes of a range of the accumulator store, each with its poison. -/
def Core.accBytes (x : Core) (off n : Nat) : List (Byte × Bool) :=
  (List.range n).map fun i => (x.matrix.acc.byte (off + i), x.slotPoison.contains (off + i))

/-- The first bytes of a platen, each with its poison. -/
def Core.platenBytes (x : Core) (p n : Nat) : List (Byte × Bool) :=
  (List.range n).map fun i => ((x.matrix.platen p).byte i, x.slotPoison.contains (2 ^ 20 * (1 + p) + i))

/-- Bytes written into a platen, each with its poison. -/
def Core.putPlaten (x : Core) (p off : Nat) (bs : List (Byte × Bool)) : Core :=
  let m := x.matrix
  let b := (m.platen p).setBytes off (bs.map Prod.fst)
  { x with matrix := if p = 0 then { m with platen0 := b } else { m with platen1 := b },
           slotPoison := movePoison (2 ^ 20 * (1 + p) + off) bs x.slotPoison }

/-- Bytes without poison. -/
def clean (bs : List Byte) : List (Byte × Bool) := bs.map fun b => (b, false)

/-- One element of a pass (07 R93, 16 R229). -/
def passElement (x : Core) (c : Nat) (t : MType) (k a slot row0 col0 platen : Nat) (zero : Bool) (m j : Nat) : Core :=
  let f := t.accFmt
  let off := accOff c f slot (row0 + m) (col0 + j)
  let old := if zero then 0 else x.matrix.acc.num off (fmtBytes f)
  let terms := passTerms x.scratch (x.matrix.platen platen) t k (a + 128 * t.units * m) (128 * j)
  x.putAcc off (clean (bytesOf (fmtBytes f) (passResult f old terms)))

/-- The elements of one A-row of a pass. -/
def passRow (x : Core) (c : Nat) (t : MType) (k a slot row0 col0 platen : Nat) (zero : Bool) (m n : Nat) : Core :=
  (List.range n).foldl (fun x j => passElement x c t k a slot row0 col0 platen zero m j) x

/-- A-row `u` of pass `n` of a core's queue runs (16 R229). -/
def runPass (core n u : Nat) (s : State) : State :=
  match runUnit s core n u with
  | some (k, base) =>
    match k.kind with
    | .pass a slot row0 col0 p zero _ nn short t =>
      let bad := unitPoison (s.core core) core base u k.kind
      unitDone (s.modCore core fun x => passRow x core t (depthOf t short) a slot row0 col0 p zero u nn) core n u k bad
    | _ => s
  | none => s

/-- MSTREAM_PASS_RUN (16 R229): unit `i` of those that the queue has left. -/
def execMstreamPassRun (core i : Nat) (s : State) : Host.Outcome State Fault Refusal := atUnit s core i fun n u => runPass core n u s

/-- Record `u` of load `n` runs (16 R230). -/
def runLoad (core n u : Nat) (s : State) : State :=
  match runUnit s core n u with
  | some (k, base) =>
    match k.kind with
    | .load p a _ =>
      let bad := unitPoison (s.core core) core base u k.kind
      unitDone (s.modCore core fun x => x.putPlaten p (128 * u) (x.markedBytes (a + 128 * u) 128)) core n u k bad
    | _ => s
  | none => s

/-- MLOAD_RUN (16 R230): unit `i` of those that the queue has left. -/
def execMloadRun (core i : Nat) (s : State) : Host.Outcome State Fault Refusal := atUnit s core i fun n u => runLoad core n u s

/-- SLOT_ZEROING (16 R231). -/
def execSlotZeroing (core n : Nat) (s : State) : Host.Outcome State Fault Refusal :=
  .next (match runUnit s core n 0 with
  | some (k, _) =>
    match k.kind with
    | .zero slot =>
      unitDone (s.modCore core fun x =>
        let lo := slot * Config.slotBytes core
        { x with matrix := { x.matrix with acc := x.matrix.acc.refresh lo (Config.slotBytes core) none },
                 slotPoison := x.slotPoison.filter fun o => o < lo || lo + Config.slotBytes core ≤ o }) core n 0 k none
    | _ => s
  | none => s)

/-- Row `u` of transfer `n` runs (16 R235). -/
def runAmov (core n u : Nat) (s : State) : State :=
  match runUnit s core n u with
  | some (k, base) =>
    match k.kind with
    | .amov store a slot row0 _ =>
      let bad := unitPoison (s.core core) core base u k.kind
      let off := rowOff core slot (row0 + u)
      let at_ := a + u * rowBytes core
      unitDone (if store then landAt s ⟨core, at_⟩ ((s.core core).accBytes off (rowBytes core))
        else s.modCore core fun x => x.putAcc off (x.markedBytes at_ (rowBytes core))) core n u k bad
    | _ => s
  | none => s

/-- AMOV_RUN (16 R235): unit `i` of those that the queue has left. -/
def execAmovRun (core i : Nat) (s : State) : Host.Outcome State Fault Refusal := atUnit s core i fun n u => runAmov core n u s

/-! The epilogue (07 R95 to R98). -/

/-- An exact value ± num ÷ den × 2^exp, or one that is not finite. -/
structure Ratio where
  v : FVal
  den : Nat
  deriving DecidableEq, Repr

/-- The product of z and σ(z × p ÷ q) with σ the cubic of 07 R95: σ(y) = (54 + 27y − y³) ÷ 108 between −3 and 3. -/
def timesSigma (p q : Nat) (neg : Bool) (m : Nat) (e : Int) : Ratio :=
  let d : Nat := if 0 ≤ e then q else q * 2 ^ (-e).toNat
  let y : Int := signedMan neg (if 0 ≤ e then m * 2 ^ e.toNat * p else m * p)
  if y ≤ -3 * (d : Int) then ⟨.fin false 0 0, 1⟩
  else if 3 * (d : Int) ≤ y then ⟨.fin neg m e, 1⟩
  else
    let num : Int := 54 * (d : Int) ^ 3 + 27 * y * (d : Int) ^ 2 - y ^ 3
    ⟨.fin neg (m * num.natAbs) e, 108 * d ^ 3⟩

/-- Act (07 R95). -/
def activate (act : Nat) (z : FVal) : Ratio :=
  match act, z with
  | _, .nan _ => ⟨.nan false, 1⟩
  | 0, v => ⟨v, 1⟩
  | 1, .inf neg => ⟨if neg then .fin false 0 0 else .inf false, 1⟩
  | 1, .fin neg m e => ⟨if neg then .fin false 0 0 else .fin false m e, 1⟩
  | _, .inf neg => ⟨if neg then .fin false 0 0 else .inf false, 1⟩
  | 2, .fin neg m e => timesSigma 851 500 neg m e
  | _, .fin neg m e => timesSigma 1 1 neg m e

/-- Narrow (07 R95): an exact value into an output format; NaN gives the canonical NaN, or 0 for an integer. -/
def narrow (f : NumFmt) (mode : Rnd) (sat : Bool) (r : Ratio) : Nat :=
  let sat := sat && (f == .e4m3 || f == .e5m2)
  match r.v with
  | .nan _ => f.canonicalNaN
  | .inf neg => if f.isFloat then (encodeTo f mode sat (.inf neg)).1 else wrapInt f.width (if neg then f.limits.1 else f.limits.2)
  | .fin neg m e => narrowFinite f mode sat neg m r.den e

/-- bitrev6 (07 R96). -/
def bitrev6 (n : Nat) : Nat := reverseBits 6 n

/-- The rounding of a record's MODE for an element at position `i` with phase `p` (07 R96): t = (bitrev6 + 0.5) ÷ 64. -/
def roundingAt (mode i p : Nat) : Rnd :=
  match mode with
  | 0 => .rne | 1 => .rtz | 2 => .rup | 3 => .rdn
  | _ => .dither (2 * bitrev6 ((i + p) % 64) + 1)

/-- z of an element: a × s + b, exact (07 R95). -/
def scaleBias (a : FVal) (scale bias : Option FVal) : FVal :=
  let p := match scale with
    | none => a
    | some sc => (mulVal a sc).1
  match bias with
  | none => p
  | some b => (addVal p b).1

/-- The accumulator format of ACCKIND. -/
def accKindFmt : Nat → NumFmt
  | 0 => .f32 | 1 => .s 32 | _ => .f64

/-- The position of an EPI element (07 R97). -/
def epiPosition (c row n : Nat) : Nat := if Config.isForme c then n else (32 * row + n) % 64

/-- Element `n` of a vector of f32 as read. -/
def vecElem (bs : List Byte) (n : Nat) : FVal := unpack .f32 (fieldOf bs (4 * n) 4)

/-- The output of one element of an EPI, with its scales and biases as read (07 R95, 16 R234). -/
def epiElement (x : Core) (c : Nat) (r : EpiRecord) (scales biases : List Byte) (slot phase row n : Nat) : Nat :=
  let f := accKindFmt r.accKind
  let a := valueOf f (x.matrix.acc.num (accOff c f slot row n) (fmtBytes f))
  let vec (flag : Nat) (bs : List Byte) : Option FVal := if bit r.flags flag then some (vecElem bs n) else none
  narrow (outFmt r.outType) (roundingAt r.mode (epiPosition c row n) phase) (bit r.flags 0)
    (activate r.act (scaleBias a (vec 1 scales) (vec 2 biases)))

/-- One output row of an EPI. -/
def epiRow (x : Core) (c : Nat) (r : EpiRecord) (scales biases : List Byte) (slot phase row : Nat) : List Byte :=
  (List.range (Config.width c)).flatMap fun n =>
    bytesOf (fmtBytes (outFmt r.outType)) (epiElement x c r scales biases slot phase row n)

/-- Whether unit `u` of an EPI is next: its vectors are read before any row, and its rows are written in ascending order (16 R234). -/
def epiNext (k : Command) (u : Nat) : Bool := decide (u < 2) || k.left.all fun v => u ≤ v

/-- Unit `u` of epilogue `n` reads the scales (0), the biases (1), or writes an output row (16 R234). -/
def runEpi (core n u : Nat) (s : State) : State :=
  match (runUnit s core n u).filter fun p => epiNext p.1 u with
  | some (k, base) =>
    match k.kind with
    | .epi r slot phase =>
      let x := s.core core
      let bad := unitPoison x core base u k.kind
      let vec (at_ : Nat) : List Byte := x.scratch.bytes (base + at_) (4 * Config.width core)
      if u = 0 then unitDone s core n u { k with scales := vec r.scale } bad
      else if u = 1 then unitDone s core n u { k with biases := vec r.bias } bad
      else unitDone (landAt s ⟨core, base + r.dest + r.stride * (u - 2)⟩ (clean (epiRow x core r k.scales k.biases slot phase (u - 2))))
        core n u k bad
    | _ => s
  | none => s

/-- EPI_RUN (16 R234): unit `i` of those that the queue has left. -/
def execEpiRun (core i : Nat) (s : State) : Host.Outcome State Fault Refusal := atUnit s core i fun n u => runEpi core n u s

end Sys2Proof.Machine
end

