-- ==== Sys2Proof/Machine/Exchange.lean ====
section
/-! DEFINITION. The exchange: channel ends, permits, sends and their landings (24_exchange R309 to R322). -/

namespace Sys2Proof.Machine

/-! Channel descriptors (24 R310, R311). -/

/-- A channel descriptor from its 64 bytes (24 R310). -/
def chanDescOf (bs : List Byte) : ChanDesc :=
  let f := fieldOf bs
  { sdie := f 0 1, scluster := f 1 1, score := f 2 1, send := f 3 1, rdie := f 4 1, rcluster := f 5 1, rcore := f 6 1, rend := f 7 1,
    slotBytes := f 8 4, slots := f 0x0C 1, landing := f 0x10 4, landbar := f 0x14 4, permit := f 0x18 4,
    zerosOk := f 0x0D 3 == 0 && (bs.drop 0x1C).all (· == 0) }

/-- Whether a core lies within R17 for its die. -/
def coreExists (die cluster core : Nat) : Bool :=
  die < 12 && cluster < Config.clustersOf die && core < (if die < 4 then 16 else 8)

/-- The conditions of R311 that concern both sides. -/
def chanDescOk (d : ChanDesc) : Bool :=
  let place (a : Nat) : Bool := a < 2 ^ 19 && a % 16 == 0
  d.zerosOk && d.send < 8 && d.rend < 8 && ((d.sdie < 4 && 4 ≤ d.rdie) || (4 ≤ d.sdie && d.rdie < 4))
    && coreExists d.sdie d.scluster d.score && coreExists d.rdie d.rcluster d.rcore && d.slotBytes % 16 == 0 && 16 ≤ d.slotBytes
    && d.slotBytes ≤ 65536 && 1 ≤ d.slots && d.slots ≤ 16 && place d.landing && place d.landbar && place d.permit

/-- The conditions of R311 that concern one side, for an allocation of a size. -/
def chanSideOk (d : ChanDesc) (sender : Bool) (size : Nat) : Bool :=
  if sender then d.permit + 16 ≤ size
  else
    let area := d.slotBytes * d.slots
    d.landing + area ≤ size && d.landbar + 16 ≤ size && !rangesMeet d.landing area d.landbar 16

/-- The core and end number a descriptor names for a role. -/
def chanEndOf (d : ChanDesc) (sender : Bool) : Nat × Nat :=
  if sender then (Config.coreIndex d.sdie d.scluster d.score, d.send) else (Config.coreIndex d.rdie d.rcluster d.rcore, d.rend)

/-! Ends (24 R309, R312). -/

/-- The end of a number that a block has bound on a core. -/
def Core.endOf (x : Core) (block n : Nat) : Option ChanEnd := x.ends.find? fun e => e.index == n && e.block == block

/-- Every bound end of the package, with its core. -/
def allEnds (s : State) : List (Nat × ChanEnd) := s.cores.flatMap fun x => x.ends.map fun e => (x.index, e)

/-- Change the end of a binding, resident or kept with its context (24 R320). -/
def modEnd (s : State) (binding : Nat) (f : ChanEnd → ChanEnd) : State :=
  let g (e : ChanEnd) : ChanEnd := if e.id = binding then f e else e
  { s with cores := s.cores.map fun x => { x with ends := x.ends.map g },
           ctxs := s.ctxs.map fun c => { c with saved := c.saved.map fun b => { b with ends := b.ends.map g } } }

/-- The ends that contexts keep of saved blocks (24 R320). -/
def keptEnds (s : State) : List ChanEnd := s.ctxs.flatMap fun x => x.saved.flatMap fun b => b.ends

/-- Every bound end, resident or kept. -/
def boundEnds (s : State) : List ChanEnd := (allEnds s).map Prod.snd ++ keptEnds s

/-- The other end of a channel: bound in the same context under the same descriptor, in the other role (24 R309). -/
def peerOf (s : State) (e : ChanEnd) : Option ChanEnd :=
  (boundEnds s).find? fun p => p.ctx == e.ctx && p.descVa == e.descVa && p.sender != e.sender && p.state != .broken

/-- A resident end by its binding, with its core and its block. -/
def endAt (s : State) (binding : Nat) : Option (Nat × ChanEnd × Block) :=
  ((allEnds s).find? fun p => p.2.id == binding).bind fun p => ((s.core p.1).block? p.2.block).map fun b => (p.1, p.2, b)

/-- Release an end: a LIVE peer becomes BROKEN (24 R315, R322). -/
def releaseEnd (s : State) (e : ChanEnd) : State :=
  let s := match peerOf s e with
    | some p => if e.state == EndState.live && p.state == EndState.live then modEnd s p.id fun q => { q with state := .broken } else s
    | none => s
  { s with cores := s.cores.map fun x => { x with ends := x.ends.filter fun q => q.id != e.id } }

/-- Release the ends of a block (24 R309, R322). -/
def releaseEnds (s : State) (core block : Nat) : State :=
  ((s.core core).ends.filter fun e => e.block == block).foldl releaseEnd s

/-- XSTAT's word for an end (24 R318). -/
def xstatWord (e : Option ChanEnd) : DWord :=
  match e with
  | none => 0
  | some e =>
    let state := match e.state with | .half => 1 | .live => 2 | .broken => 3
    BitVec.ofNat 64 (state + (if e.sender then 4 else 0) + e.desc.slots * 2 ^ 8 + e.count.toNat % 2 ^ 16 * 2 ^ 32
      + e.granted.toNat % 2 ^ 16 * 2 ^ 48)

/-- The owner tag of a block's allocation (20 R269). -/
def tagOf (b : Block) : Nat × Nat × Nat := (b.ctx, b.blockIndex, b.incarn)

/-- Grants set out for the sender of a channel (24 R314). -/
def sendGrants (s : State) (e : ChanEnd) (n : Nat) : State :=
  match peerOf s e with
  | some p => { s with grants := s.grants ++ List.replicate n ⟨p.id, false⟩ }
  | none => s

/-! XBIND (24 R315). -/

/-- Whether an instruction of the exchange may be issued: the feature is accepted (26 R324). -/
def exchangeOn (s : State) : Bool := s.feature 4

/-- The object an end initialises at its binding (24 R315). -/
def boundObject (sender : Bool) : Obj := ⟨0, if sender then 0 else 1, if sender then 0 else 1, 0, 1 + 2 * 4, 0⟩

/-- The status of a bind (24 R315). -/
def bindStatus (s : State) (w : Issuer) (n : Nat) (sender : Bool) (va : Nat) (d : ChanDesc) : Nat :=
  if w.core.ends.any fun e => e.index == n then 1
  else if !chanDescOk d || (chanEndOf d sender == (w.c, n) && !chanSideOk d sender (ownScratch w).2) then 2
  else if chanEndOf d sender != (w.c, n) || s.dev.service != .full then 3
  else if (boundEnds s).any fun p => p.ctx == w.g.ctx && p.descVa == va && p.sender == sender then 4
  else if ((blockOf w).map fun b => bit b.rec_.modes 1).getD false then 5 else 0

/-- Bind an end; when its peer is bound, both become LIVE and the receiver grants SLOTS permits (24 R315). -/
def bindEnd (s : State) (w : Issuer) (n : Nat) (sender : Bool) (va : Nat) (d : ChanDesc) : State :=
  let e : ChanEnd :=
    { id := s.nextId, index := n, ctx := w.g.ctx, block := w.g.block, tag := ((blockOf w).map tagOf).getD (w.g.ctx, 0, 0), sender := sender,
      state := .half, descVa := va, desc := d, count := 0, granted := 0 }
  let s := writePlace { s with nextId := s.nextId + 1 } ⟨w.c, scratchBase w + (if sender then d.permit else d.landbar)⟩
    (boundObject sender).image
  let s := s.modCore w.c fun x => { x with ends := x.ends ++ [e] }
  match peerOf s e with
  | some p =>
    if p.state = .half then
      let s := modEnd (modEnd s e.id fun q => { q with state := .live }) p.id fun q => { q with state := .live }
      let r := if sender then p else e
      modEnd (sendGrants s r d.slots) r.id fun q => { q with granted := BitVec.ofNat 32 d.slots }
    else s
  | none => s

/-- Whether an end's sends have landed and the grants it issued have been applied (24 R315). -/
def endQuiet (s : State) (e : ChanEnd) : Bool :=
  if e.sender then !(s.ops.any fun o => match o.kind with | .send x => x.sender == e.id | _ => false)
  else !(((peerOf s e).map fun p => s.grants.any fun g => g.binding == p.id).getD false)
    && !(s.cores.any fun y => y.groups.any fun g => g.permits.any fun p => p.own == e.id)

/-- XBIND (24 R315, R319). -/
def execXbind (d a b : GReg) (s : State) : Host.Outcome State Fault Refusal :=
  uniIssueIf s (.xbind d a b) (fun w => exchangeOn s && decide ((uniG s w b).toNat < 32)) [] (readsG [a, b]) fun w =>
    let v := (uniG s w b).toNat
    let va := (uniG s w a).toNat
    let n := v % 8
    let sender := bit v 3
    let status (s : State) (v : Nat) : State := heldDone s w d (BitVec.ofNat 64 v) none
    if inService w.g then trapAll s w .routineBlock 0
    else if bit v 4 then
      match w.core.endOf w.g.block n with
      | none => status s 1
      | some e => if endQuiet s e then status (releaseEnd s e) 0 else holdIt s w .unbind
    else if highVa va then trapAll s w .accessViolation (BitVec.ofNat 64 va)
    else if va % 64 ≠ 0 then trapAll s w .misaligned (BitVec.ofNat 64 va)
    else instrRead s w (ctxOf s w) va 64 fun s bs =>
      let desc := chanDescOf bs
      match bindStatus s w n sender va desc with
      | 0 => status (bindEnd s w n sender va desc) 0
      | c => status s c

/-! XPERMIT (24 R316). -/

/-- An XPERMIT has issued: its grants wait with the group and go to the sender end that the channel has now (24 R314, R316). -/
def permitting (s : State) (w : Issuer) (q : ChanEnd) (count : Nat) : State :=
  s.modMine w fun g =>
    { g with permits := g.permits ++ [⟨w.idx, q.id, ((peerOf s q).map fun p => p.id).getD s.nextId, count⟩] }

/-- XPERMIT (24 R316): the counter is raised and the split is held until the grants leave. -/
def execXpermit (a : GReg) (s : State) : Host.Outcome State Fault Refusal :=
  let ok (v : Nat) : Bool := bits v 3 5 == 0 && v < 2 ^ 13 && 1 ≤ bits v 8 5 && bits v 8 5 ≤ 16
  uniIssueIf s (.xpermit a) (fun w => exchangeOn s && ok (uniG s w a).toNat) [] (readsG [a]) fun w =>
    let v := (uniG s w a).toNat
    let count := bits v 8 5
    let e := w.core.endOf w.g.block (v % 8)
    if inService w.g then trapAll s w .routineBlock 0
    else match e with
      | none => trapAll s w .exchangeNoPermit 0
      | some q =>
        if q.sender || q.state != .live || decide ((q.desc.slots : Int) < (q.granted + BitVec.ofNat 32 count - q.count).toInt) then
          trapAll s w .exchangeNoPermit (xstatWord e)
        else
          let t := modEnd (permitting s w q count) q.id fun q => { q with granted := q.granted + BitVec.ofNat 32 count }
          blockIt (done t w) w (.xpermit q.id count)

/-- The grants of an XPERMIT leave (24 R314, R316). -/
def deliverGrants (s : State) (p : Permit) : State :=
  { s with grants := s.grants ++ List.replicate p.count ⟨p.peer, false⟩ }

/-- An XPERMIT of a split has its grants sent: it holds its split no longer, unless the split has another (24 R316). -/
def Group.granted (g : Group) (n : Nat) : Group :=
  let left := removeAt n g.permits
  let free (sp : Split) : Split := match sp.hold with
    | .xpermit _ _ => if left.any fun p => p.split == sp.idx then sp else { sp with hold := .none, heldFor := 0 }
    | _ => sp
  { g with permits := left, splits := g.splits.map free }

/-- GRANT_SEND (24 R316): every scratchpad access of the group is performed, no lookahead result of it is outstanding, and the grants
leave; also while the XPERMIT's split stands in a trap frame, or has ended. -/
def execGrantSend (core slot split : Nat) (s : State) : Host.Outcome State Fault Refusal :=
  .next (match s.group? core slot with
  | none => s
  | some g =>
    let n := g.permits.findIdx fun p => p.split == split
    match g.permits[n]? with
    | some p =>
      if !(g.la.all LaResult.poisonReady && g.parts.isEmpty) then s
      else (deliverGrants s p).modGroup core slot fun g => g.granted n
    | none => s)

/-! XSEND and XSTAT (24 R317, R318). -/

/-- The send of `bytes` bytes at `src` on a sender end: to the allocation of the receiver's block, where it is resident (24 R313, R317). -/
def sendOf (s : State) (q : ChanEnd) (src bytes : Nat) : Send :=
  let r := peerOf s q
  let at_ := r.bind fun r => endAt s r.id
  { sender := q.id, receiver := (r.map fun r => r.id).getD s.nextId, number := q.count, src := src, bytes := bytes,
    core := (at_.map fun p => p.1).getD Config.cores, block := (at_.map fun p => p.2.2.id).getD s.nextId,
    tag := (r.map fun r => r.tag).getD (q.ctx, 0, 0), landing := q.desc.landing + (q.count.toNat % q.desc.slots) * q.desc.slotBytes,
    landbar := q.desc.landbar, unread := List.range (bytes / 16), sent := [], cut := false, applied := false }

/-- XSEND (24 R317). -/
def execXsend (d a b : GReg) (s : State) : Host.Outcome State Fault Refusal :=
  let ok (v : Nat) : Bool := bits v 3 5 == 0 && v < 2 ^ 25
  uniIssueIf s (.xsend d a b) (fun w => exchangeOn s && ok (uniG s w b).toNat) [] (readsG [a, b]) fun w =>
    let v := (uniG s w b).toNat
    let bytes := bits v 8 17
    let at_ := uniAddr s w a
    let e := w.core.endOf w.g.block (v % 8)
    if inService w.g then trapAll s w .routineBlock 0
    else match e with
      | some q =>
        if !q.sender || q.state != .live || decide ((q.granted - q.count).toInt ≤ 0) then trapAll s w .exchangeNoPermit (xstatWord e)
        else if bytes = 0 ∨ bytes % 16 ≠ 0 ∨ q.desc.slotBytes < bytes then trapAll s w .layoutInvalid (BitVec.ofNat 64 v)
        else checkedLocal s w bytes 16 at_
          (let c := chargeOf s 10 bytes
          let n := q.count.toNat
          charged s w 10 c (afterFences s w
            (let t := (forkOp s w .gx 10 c (.send (sendOf s q (scratchBase w + at_) bytes))).2
            let t := modEnd t q.id fun q => { q with count := q.count + 1 }
            done (putG t w d (BitVec.ofNat 64 n)) w)))
      | none => trapAll s w .exchangeNoPermit (xstatWord e)

/-- XSTAT (24 R318, R319). -/
def execXstat (d a : GReg) (s : State) : Host.Outcome State Fault Refusal :=
  uniIssueIf s (.xstat d a) (fun _ => exchangeOn s) [] (readsG [a]) fun w =>
    let e := if inService w.g then none else w.core.endOf w.g.block ((uniG s w a).toNat % 8)
    done (putG s w d (xstatWord e)) w

/-- Whether every earlier send of a channel has been applied, and none of this cycle (24 R313). -/
def sendTurn (s : State) (x : Send) : Bool :=
  !s.ops.any fun o => match o.kind with
    | .send y => y.sender == x.sender && (y.applied || decide ((y.number - x.number).toInt < 0))
    | _ => false

/-- Whether a send waits for its receiver: the receiver's block is saved, and its traffic follows it when it is restored (24 R320, R321;
log 70). -/
def sendParked (s : State) (x : Send) : Bool :=
  match endAt s x.receiver with
  | some p => p.2.2.phase == .finished .save
  | none => (keptEnds s).any fun e => e.id == x.receiver

/-- The allocation that a landing reaches: that of its receiver's block, if its owner tag is that of the send; else it is discarded (20
R269, 24 R313). -/
def landingBlock (s : State) (x : Send) : Option (Nat × Block) :=
  let p : Option (Nat × Block) := match endAt s x.receiver with
    | some p => some (p.1, p.2.2)
    | none => ((s.core x.core).block? x.block).map fun b => (x.core, b)
  p.filter fun p => tagOf p.2 == x.tag && p.2.phase != .publishing

/-- Pieces of a send land at its receiver, or are discarded where its tag no longer matches (24 R313). -/
def landPieces (s : State) (x : Send) (ps : List (Nat × List (Byte × Bool))) : State :=
  match landingBlock s x with
  | none => s
  | some (c, b) => ps.foldl (fun s p => landAt s ⟨c, b.spbase + x.landing + 16 * p.1⟩ p.2) s

/-- One read or write of an XSEND (13 R202, 24 R317): 16 bytes of its source are read, or 16 bytes that have been read land. DESIGN CHOICE
(log 70): 16 bytes are one access. -/
def sendAccess (s : State) (o : Op) (x : Send) (n : Nat) : State :=
  match x.unread[n]? with
  | some j =>
    s.setOpKind o.id (.send { x with unread := x.unread.erase j,
                                     sent := x.sent ++ [(j, (s.core o.core).markedBytes (x.src + 16 * j) 16)] })
  | none =>
    match x.sent[n - x.unread.length]? with
    | none => s
    | some p =>
      if sendParked s x then s
      else
        let sent := removeAt (n - x.unread.length) x.sent
        let s := landPieces s x [p]
        if x.cut && sent.isEmpty then completeOp s o else s.setOpKind o.id (.send { x with sent := sent })

/-- XSEND_LANDING (24 R313): once all its bytes have been read, those of an XSEND that are left land at the receiver, then one update
reaches the landing barrier. A landing whose tag no longer matches the allocation is discarded. -/
def execXsendLanding (op : Nat) (s : State) : Host.Outcome State Fault Refusal :=
  .next (match s.op? op with
  | some o =>
    match o.kind with
    | .send x =>
      if !x.unread.isEmpty || x.cut || !sendTurn s x || sendParked s x then s
      else match landingBlock s x with
        | none => completeOp s o
        | some (c, b) =>
          let s := landPieces s x x.sent
          let s := queueUpdate s ⟨c, b.spbase + x.landbar, (2, 0), true, false, x.bytes, x.bytes,
            .credit o.ctx (some (o.id, 0)) (BitVec.ofNat 64 x.landbar)⟩
          s.setOpKind op (.send { x with sent := [], applied := true })
    | _ => s
  | none => s)

/-- PERMIT_GRANT (24 R314): a grant reaches the permit object of its sender; the grants of a channel in order, one a cycle. A grant
toward an end that has been released is discarded, and one toward a saved block waits for it (R320, R321; log 70). -/
def execPermitGrant (n : Nat) (s : State) : Host.Outcome State Fault Refusal :=
  .next (match s.grants[n]? with
  | none => s
  | some g =>
    if (s.grants.take n).any fun q => q.binding == g.binding then s
    else match endAt s g.binding with
      | none => if (keptEnds s).any fun e => e.id == g.binding then s else { s with grants := removeAt n s.grants }
      | some (c, e, b) =>
        if g.applied || b.phase == .finished .save then s
        else
          let s := queueUpdate s ⟨c, b.spbase + e.desc.permit, (3, 0), false, false, 0, 0, .credit e.ctx none (BitVec.ofNat 64 e.desc.permit)⟩
          { s with grants := modifyAt (fun g => { g with applied := true }) n s.grants })

/-- The updates of the cycle have been applied or rejected: RECEIVED and GRANTED rise, and the sends complete (24 R313, R314). -/
def settleExchange (s : State) : State :=
  let s := (s.grants.filter fun g => g.applied).foldl (fun s g => modEnd s g.binding fun e => { e with granted := e.granted + 1 }) s
  let s := { s with grants := s.grants.filter fun g => !g.applied }
  s.ops.foldl (fun t o =>
    match o.kind with
    | .send x => if x.applied then completeOp (modEnd t x.receiver fun e => { e with count := e.count + 1 }) o else t
    | _ => t) s

end Sys2Proof.Machine
end

