-- ==== Sys2Proof/Machine/Traversal.lean ====
section
/-! DEFINITION. The traversal engine: walks, frames, cuts and service groups (22_traversal R281 to R299). -/

namespace Sys2Proof.Machine

/-! Stack entries and images (22 R290, R291). -/

/-- The bytes of a stack entry (22 R290). -/
def WEntry.image (e : WEntry) : List Byte :=
  bytesOf 8 e.node ++ bytesOf 2 (e.kind % 16 + 16 * e.depth) ++ bytesOf 2 e.key ++ bytesOf 4 e.frame

/-- A stack entry from its bytes. -/
def wentryOf (bs : List Byte) : WEntry :=
  let kd := fieldOf bs 8 2
  ⟨fieldOf bs 0 8, kd % 16, kd / 16, fieldOf bs 10 2, fieldOf bs 12 4⟩

/-- The stack entries in bytes, in their order there. -/
def wentriesOf (bs : List Byte) (n : Nat) : List WEntry := (List.range n).map fun i => wentryOf ((bs.drop (16 * i)).take 16)

/-- A stack image (22 R291): header fields, and the entries with the bottom entry first. -/
def stackImage (magic handle count query frames need batch : Nat) (bottomFirst : List WEntry) : List Byte :=
  bytesOf 2 magic ++ bytesOf 2 handle ++ bytesOf 4 count ++ bytesOf 8 query ++ bytesOf 8 frames ++ bytesOf 4 need ++ bytesOf 4 batch
    ++ bottomFirst.flatMap WEntry.image

/-! The end of a walk (22 R292). -/

/-- Whether a walk has ended. -/
def Walk.over (w : Walk) : Bool := match w.point with | .ended _ => true | _ => false

/-- The status word of a walk (22 R292). -/
def Walk.status (w : Walk) (code : Nat) : Word := BitVec.ofNat 32 (code * 2 ^ 24 + min w.visited 0xFFFFFF)

/-- The trap a status code carries (22 R292). -/
def walkTrap : Nat → Option Cause
  | 0x0A => some .travStackOverflow | 0x0B => some .poison | 0x0C => some .accessViolation | _ => none

/-- Change the walk of a lane of an operation. -/
def modWalk (s : State) (op lane : Nat) (f : Walk → Walk) : State := s.modOp op fun o =>
  { o with kind := match o.kind with
    | .walks d ws => .walks d (replaceFirst (fun w => w.lane == lane) f ws)
    | other => other }

/-- The trap that the ended walks of an operation owe (22 R292). -/
def oweWalks (s : State) (o : Op) (ws : List Walk) : State :=
  let bad := ws.filterMap fun w => match w.point with
    | .ended c => (walkTrap c).map fun k => (w, k)
    | _ => none
  match bad with
  | [] => s
  | p :: _ =>
    let low := bad.foldl (fun (q : Walk × Cause) r => if r.1.lane < q.1.lane then r else q) p
    oweTrap s o none low.2 low.1.bad (maskOf (bad.map fun q => q.1.lane))

/-- The operation completes when every lane's walk has ended and its writes are performed at every member of a replica set (05 R83, 13 R217);
the codes that trap owe their trap at the first WAIT on gt that covers the batch (22 R292, R296). -/
def finishWalks (s : State) (op : Nat) : State :=
  match s.op? op with
  | none => s
  | some o =>
    match o.kind with
    | .walks _ ws =>
      if (ws.any fun w => !w.over) || replPending s o then s else completeOp (oweWalks s o ws) o
    | _ => s

/-- Finish (22 R287): the walk discards its stack, writes its status word and ends. -/
def endWalk (s : State) (o : Op) (w : Walk) (code : Nat) (bad : DWord) : State :=
  let s := match o.kind with
    | .walks d _ => landResults s o d [(w.lane, w.status code)]
    | _ => s
  finishWalks (modWalk s o.id w.lane fun _ => { w with hot := [], spilled := 0, point := .ended code, bad := bad }) o.id

/-! The engine's accesses (22 R287, 05 R392). -/

/-- What a read of a walk gives: bytes, or the state in which the walk waits or has ended. -/
inductive WalkGot where
  | bytes (bs : List Byte) (s : State)
  | stop (s : State)

/-- Read for a walk: poisoned data ends it with POISON, an address outside memory with FAULT (22 R292). -/
def walkRead (s : State) (o : Op) (x : Ctx) (w : Walk) (va n : Nat) : WalkGot :=
  if n = 0 then .bytes [] s
  else match engineSpans s o x w.lane 0 .load va n with
    | .held t => .stop t
    | .lost a t => .stop (endWalk t o w 0x0C (BitVec.ofNat 64 a))
    | .ok ps t =>
      let bs := opBytes t o x ps
      match (List.range n).find? fun i => (bs[i]?.map Prod.snd).getD false with
      | some i => .stop (endWalk t o w 0x0B (BitVec.ofNat 64 (va + i)))
      | none => .bytes (bs.map Prod.fst) t

/-- Translate a write or an atomic of a walk: its places, or the state in which it waits or has ended. -/
def walkPlaces (s : State) (o : Op) (x : Ctx) (w : Walk) (need : Need) (va n : Nat) : Except State (List (Page × Nat) × State) :=
  if n = 0 then .ok ([], s)
  else match engineSpans s o x w.lane (if need = .atomic then 2 else 1) need va n with
    | .held t => .error t
    | .lost a t => .error (endWalk t o w 0x0C (BitVec.ofNat 64 a))
    | .ok ps t => .ok (ps, t)

/-- Write bytes at translated places, for an operation. -/
def walkWrite (s : State) (o : Op) (x : Ctx) (ps : List (Page × Nat)) (bs : List Byte) : State :=
  engineWrite (.op o.id) x s ps (bs.map fun b => (b, false))

/-- An atomic of a walk on 4 bytes, at their home or at their set's sequencer: the old value (05 R81, R83, 22 R289). -/
def walkAdd (s : State) (o : Op) (x : Ctx) (w : Walk) (va : Nat) (f : Nat → Nat) : Except State (Nat × State) :=
  match walkPlaces s o x w .atomic va 4 with
  | .error t => .error t
  | .ok (ps, t) =>
    let at_ := ps.flatMap fun p => (List.range p.2).map (p.1.pa + ·)
    match at_.findIdx? fun pa => poisonedMem t pa 1 with
    | some i => .error (endWalk t o w 0x0B (BitVec.ofNat 64 (va + i)))
    | none =>
      let old := numOf (at_.map t.homeByte)
      .ok (old, walkWrite t o x ps (bytesOf 4 (f old)))

/-- The whole stack of a walk, top first: the spilled entries are read back (22 R290). -/
def wholeStack (s : State) (o : Op) (x : Ctx) (w : Walk) : Except State (List WEntry × State) :=
  match walkRead s o x w w.area (16 * w.spilled) with
  | .stop t => .error t
  | .bytes bs t => .ok (w.hot ++ (wentriesOf bs w.spilled).reverse, t)

/-- Give a walk a stack, top first: the top 8 entries stay on chip and the rest are spilled, bottom first (22 R290). `kept` is
how many spilled entries already stand in the area. -/
def placeStack (s : State) (o : Op) (x : Ctx) (w : Walk) (st : List WEntry) (kept : Nat) : Except State (Walk × State) :=
  let low := (st.drop 8).reverse
  match walkPlaces s o x w .store (w.area + 16 * kept) (16 * (low.length - kept)) with
  | .error t => .error t
  | .ok (ps, t) => .ok ({ w with hot := st.take 8, spilled := low.length }, walkWrite t o x ps ((low.drop kept).flatMap WEntry.image))

/-- Keep a walk's new form. -/
def setWalk (s : State) (o : Op) (w : Walk) : State := modWalk s o.id w.lane fun _ => w

/-! Routine calls (22 R281, R287, R288, R293). -/

/-- The block's kind entry (22 R282): an entry is empty where the launch has no table. -/
def readKind (s : State) (o : Op) (x : Ctx) (b : Block) (w : Walk) (kind : Nat) : Except State (NodeKind × State) :=
  if b.rec_.kinds = 0 then .ok (nodeKindOf [], s)
  else match walkRead s o x w (b.rec_.kinds + 32 * kind) 32 with
    | .stop t => .error t
    | .bytes bs t => .ok (nodeKindOf bs, t)

/-- Call a routine for a walk (22 R293): the call is pending until a service group runs it. A routine that the table does not give
ends the walk with ROUTINE_INVALID (22 R281). -/
def callRoutine (s : State) (o : Op) (x : Ctx) (b : Block) (w : Walk) (routine : Nat) (calls : List Call) (point : WalkPoint) : State :=
  let go (s : State) (v : Nat) : State :=
    if v = 0 ∨ v % 4 ≠ 0 ∨ highVa v then endWalk s o w 0x07 0
    else (setWalk s o { w with point := point }).modBlock o.core b.id fun k =>
      { k with calls := k.calls ++ calls.map fun c => { c with pc := BitVec.ofNat 57 v } }
  if b.rec_.routines = 0 then go s 0
  else match walkRead s o x w (b.rec_.routines + 8 * routine) 8 with
    | .stop t => t
    | .bytes bs t => go t (numOf bs)

/-- A call of a walk (22 R293). -/
def mkCall (o : Op) (w : Walk) (routine : Nat) (kind : CallKind) (node depth nodeKind child : Nat) (payload : List Byte) : Call :=
  ⟨o.id, w.lane, routine, kind, w.handle, node, depth, nodeKind, child, payload, w.query, 0, 0, none⟩

/-- Whether an action word is one that an enter call may return (22 R288). -/
def enterOk (v : Nat) : Bool :=
  bits v 4 12 == 0 && (match bits v 0 4 with
    | 0 => bits v 16 16 == 0 | 1 => true | 2 => bits v 16 16 == 0 | 3 => bits v 16 16 == 0 | 4 => bits v 28 4 == 0 | _ => false)

/-- Whether an action word is one that a prune call may return: KEEP with a key, or DISCARD (22 R288). -/
def pruneOk (v : Nat) : Bool := bits v 4 12 == 0 && (bits v 0 4 == 0 || v == 1)

/-! Visits (22 R287). -/

/-- A child pointer: none if null, else the child's VA and kind, with the index of idx32 (22 R283). -/
def childOf (k : NodeKind) (node : Nat) (p : Nat) : Option (Nat × Nat × Option Nat) :=
  let kind (t : Nat) : Nat := if k.tagged then t else k.ckind
  match k.ptrForm with
  | 0 => if bits p 0 57 = 0 then none else some (if k.tagged then bits p 0 60 else p, kind (bits p 60 4), none)
  | 1 =>
    let off : Int := if k.tagged then 16 * signed 28 (bits p 0 28) else signed 32 p
    if off = 0 then none else some ((((node : Int) + off) % (2 ^ 64 : Int)).toNat, kind (bits p 28 4), none)
  | _ =>
    let idx := if k.tagged then bits p 0 28 else p
    if idx = (if k.tagged then 2 ^ 28 - 1 else 2 ^ 32 - 1) then none else some (0, kind (bits p 28 4), some idx)

/-- The address of an idx32 child needs its kind's node size (22 R283). -/
def resolveChildren (o : Op) (x : Ctx) (b : Block) (w : Walk) (k : NodeKind) :
    State → List (Nat × Nat × Nat × Option Nat) → Except State (List Cand × State)
  | s, [] => .ok ([], s)
  | s, (slot, va, kind, idx) :: r =>
    let size : Except State (Nat × State) := match idx with
      | none => .ok (0, s)
      | some _ => match readKind s o x b w kind with
        | .error t => .error t
        | .ok (e, t) => .ok (e.bytes, t)
    match size with
    | .error t => .error t
    | .ok (n, t) =>
      match resolveChildren o x b w k t r with
      | .error u => .error u
      | .ok (cs, u) => .ok (⟨match idx with | none => va | some i => (k.idxBase + i * n) % 2 ^ 64, kind, slot, 0⟩ :: cs, u)

/-- Read the child pointers of a node that a mask lets through, in ascending slot: the non-null children. A child of an entry of depth 4095
ends the walk (22 R287). -/
def readChildren (o : Op) (x : Ctx) (w : Walk) (k : NodeKind) (e : WEntry) (mask : Nat) :
    State → List Nat → Except State (List (Nat × Nat × Nat × Option Nat) × State)
  | s, [] => .ok ([], s)
  | s, i :: r =>
    if !bit mask i then readChildren o x w k e mask s r
    else match walkRead s o x w (e.node + k.choff + k.width * i) k.width with
      | .stop t => .error t
      | .bytes bs t =>
        match childOf k e.node (numOf bs) with
        | none => readChildren o x w k e mask t r
        | some c =>
          if e.depth = 4095 then .error (endWalk t o w 0x05 0)
          else match readChildren o x w k e mask t r with
            | .error u => .error u
            | .ok (cs, u) => .ok ((i, c.1, c.2.1, c.2.2) :: cs, u)

/-- The enter call of a visit has returned, or the kind has none: the children are read and their prune calls made (22 R287). -/
def entered (s : State) (o : Op) (x : Ctx) (b : Block) (w : Walk) (e : WEntry) (v : Nat) : State :=
  if !enterOk v then endWalk s o w 0x08 0
  else match readKind s o x b w e.kind with
    | .error t => t
    | .ok (k, s) =>
      let act := bits v 0 4
      let cut := if act = 4 then some (bits v 16 12) else none
      if act = 3 then endWalk s o w 0x01 0
      else if act = 2 then setWalk s o { w with point := .pushing e none [] }
      else
        let count : WalkGot := if k.cntKind = 0 then .bytes (bytesOf 1 k.count) s else walkRead s o x w (e.node + k.count) 1
        match count with
        | .stop t => t
        | .bytes cb s =>
          let n := numOf cb
          if k.maxch < n then endWalk s o w 0x04 0
          else match readChildren o x w k e (if act = 1 then bits v 16 16 else 0xFFFF) s (List.range n) with
            | .error t => t
            | .ok (raw, s) => match resolveChildren o x b w k s raw with
              | .error t => t
              | .ok (cs, s) =>
                if k.prune = 0 ∨ cs.isEmpty then setWalk s o { w with point := .pushing e cut cs }
                else match walkRead s o x w (e.node + k.ploff) k.pllen with
                  | .stop t => t
                  | .bytes pay s =>
                    let calls := cs.map fun c => mkCall o w k.prune .prune c.node (e.depth + 1) c.kind c.child pay
                    callRoutine s o x b w k.prune calls (.pruning e cut cs (cs.map fun _ => none))

/-- The prune calls of a visit have returned: the kept children with their keys (22 R287, R288). -/
def pruned (s : State) (o : Op) (w : Walk) (e : WEntry) (cut : Option Nat) (cs : List Cand) (rs : List Nat) : State :=
  if rs.any fun v => !pruneOk v then endWalk s o w 0x08 0
  else setWalk s o { w with point := .pushing e cut ((cs.zip rs).filterMap fun p =>
    if bits p.2 0 4 = 0 then some { p.1 with key := bits p.2 16 16 } else none) }

/-- Insert a child before those of a higher key, or of the same key and a higher slot (22 R287). -/
def insertCand (c : Cand) : List Cand → List Cand
  | [] => [c]
  | d :: r => if c.key < d.key ∨ (c.key = d.key ∧ c.child < d.child) then c :: d :: r else d :: insertCand c r

/-- What follows a visit's pushes (22 R287): a CUT action, or the decrement of the entry's frame. -/
def afterPush (e : WEntry) (opens : Bool) (cut : Option Nat) : WalkPoint :=
  match cut with
  | some l => .cutting e opens l none
  | none => if opens then .boundary else .closing e.frame

/-- Push the kept children with their frame (22 R287, R290). -/
def pushCands (s : State) (o : Op) (x : Ctx) (w : Walk) (e : WEntry) (cs : List Cand) (f : Nat) (next : WalkPoint) : Except State State :=
  if 8 + 2 ^ w.elog < w.hot.length + w.spilled + cs.length then .ok (endWalk s o w 0x0A (BitVec.ofNat 64 w.handle))
  else
    let top := (cs.foldr insertCand []).map fun c => (⟨c.node, c.kind, e.depth + 1, c.key, f⟩ : WEntry)
    let st := top ++ w.hot
    let low := (st.drop 8).reverse
    match walkPlaces s o x w .store (w.area + 16 * w.spilled) (16 * low.length) with
    | .error t => .error t
    | .ok (ps, t) =>
      .ok (setWalk (walkWrite t o x ps (low.flatMap WEntry.image)) o
        { w with hot := st.take 8, spilled := w.spilled + low.length, point := next })

/-- The bytes of a frame (22 R289). -/
def frameImage (e : WEntry) (leave pending : Nat) : List Byte :=
  bytesOf 8 (bits e.node 4 53 * 16 + e.kind % 16 + leave % 64 * 2 ^ 57) ++ bytesOf 4 pending ++ bytesOf 4 (e.depth % 4096 + e.frame % 2 ^ 20 * 4096)

/-- The candidates of a visit are pushed with their frame. -/
def placeCands (s : State) (o : Op) (x : Ctx) (w : Walk) (e : WEntry) (opens : Bool) (cut : Option Nat) (cs : List Cand) (f : Nat) : State :=
  match pushCands s o x w e cs f (afterPush e opens cut) with
  | .ok u => u
  | .error u => u

/-- The candidates of a visit are known: a frame is taken for them or counts them (22 R287, R289). DESIGN CHOICE (log 71): a frame area whose
header breaks R289 gives FRAME_FULL. -/
def pushVisit (s : State) (o : Op) (x : Ctx) (b : Block) (w : Walk) (e : WEntry) (cut : Option Nat) (cs : List Cand) : State :=
  match readKind s o x b w e.kind with
  | .error t => t
  | .ok (k, s) =>
    let opens := k.frame && k.leave != 0
    if opens && cs.isEmpty then
      match walkRead s o x w (e.node + k.ploff) k.pllen with
      | .stop t => t
      | .bytes pay s => callRoutine s o x b w k.leave [mkCall o w k.leave .leave e.node e.depth e.kind 0 pay] (.leaving e none)
    else if opens then
      if w.frames = 0 then endWalk s o w 0x06 0
      else match walkRead s o x w w.frames 16 with
        | .stop t => t
        | .bytes hd s =>
          if 2 ^ 20 < fieldOf hd 4 4 ∨ fieldOf hd 8 8 ≠ 0 then endWalk s o w 0x06 0
          else match walkAdd s o x w w.frames (· + 1) with
            | .error t => t
            | .ok (f, t) => if fieldOf hd 4 4 ≤ f then endWalk t o w 0x06 0 else setWalk t o { w with point := .framing e cut cs f }
    else if e.frame ≠ 0 then
      match walkAdd s o x w (w.frames + 16 * e.frame + 8) (· + cs.length) with
      | .error t => t
      | .ok (_, t) => setWalk t o { w with point := .placing e false cut cs e.frame }
    else placeCands s o x w e false cut cs 0

/-- A frame that a visit has taken is written, before any entry that carries it is pushed (22 R289). -/
def writeFrame (s : State) (o : Op) (x : Ctx) (b : Block) (w : Walk) (e : WEntry) (cut : Option Nat) (cs : List Cand) (f : Nat) : State :=
  match readKind s o x b w e.kind with
  | .error t => t
  | .ok (k, s) => match walkPlaces s o x w .store (w.frames + 16 * f) 16 with
    | .error t => t
    | .ok (at_, s) => setWalk (walkWrite s o x at_ (frameImage e k.leave cs.length)) o { w with point := .placing e true cut cs f }

/-! Frames (22 R289). -/

/-- Done (22 R289): the count of frame `f` falls by 1; the walk that makes it 0 goes on to call the leave routine of the frame. -/
def closeFrame (s : State) (o : Op) (x : Ctx) (w : Walk) (f : Nat) : State :=
  if f = 0 then setWalk s o { w with point := .boundary }
  else match walkAdd s o x w (w.frames + 16 * f + 8) (fun n => (n + 2 ^ 32 - 1) % 2 ^ 32) with
    | .error t => t
    | .ok (old, t) => setWalk t o { w with point := if old = 1 then .calling f else .boundary }

/-- The walk acquires at PACKAGE and calls the leave routine of a frame that is finished (22 R289). -/
def callFrame (s : State) (o : Op) (x : Ctx) (b : Block) (w : Walk) (f : Nat) : State :=
  match walkRead (acquireAt s o.core .package) o x w (w.frames + 16 * f) 16 with
  | .stop t => t
  | .bytes fr s =>
    let v := fieldOf fr 0 8
    let node := bits v 4 53 * 16
    let leave := bits v 57 6
    let dp := fieldOf fr 12 4
    match readKind s o x b w (bits v 0 4) with
    | .error t => t
    | .ok (k, s) =>
      match walkRead s o x w (node + k.ploff) (if k.valid then k.pllen else 0) with
      | .stop t => t
      | .bytes pay s =>
        callRoutine s o x b w leave [mkCall o w leave .leave node (dp % 4096) (bits v 0 4) 0 pay] (.leavingFrame (dp / 4096) none)

/-! Cuts (22 R290, R291, R297). -/

/-- What a cut at level `l` removes and leaves of a stack, both top first (22 R290). -/
def cutStack (l : Nat) (st : List WEntry) : List WEntry × List WEntry := (st.filter fun e => e.depth ≤ l, st.filter fun e => !(e.depth ≤ l))

/-- How many of the lowest entries of two stacks, top first, agree: those need no new spill. -/
def keptBelow : List WEntry → List WEntry → Nat
  | a :: r, b :: q => if a = b then keptBelow r q + 1 else 0
  | _, _ => 0

/-- Give a walk what a cut leaves of its stack, the whole of which is `old`. -/
def restack (s : State) (o : Op) (x : Ctx) (w : Walk) (old st : List WEntry) : Except State (Walk × State) :=
  placeStack s o x w st (min (keptBelow old.reverse st.reverse) (min w.spilled (st.length - 8)))

/-- Change a lane of a TVCUT. -/
def modCutLane (s : State) (op lane : Nat) (made : Bool) : State := s.modOp op fun o =>
  { o with kind := match o.kind with
    | .cut ls => .cut (replaceFirst (fun l => l.lane == lane) (fun l => { l with made := some made }) ls)
    | other => other }

/-- Make the oldest TVCUT that waits for a walk, at its node boundary (22 R290, R297). -/
def makeCut (s : State) (o : Op) (x : Ctx) (w : Walk) (cop lane : Nat) (more : List (Nat × Nat)) : State :=
  let drop (s : State) : State := setWalk s o { w with cuts := more }
  match s.op? cop with
  | none => drop s
  | some c =>
    match c.kind with
    | .cut ls =>
      match ls.find? fun l => l.lane == lane with
      | none => drop s
      | some l =>
        if opWaits s c lane then s
        else if l.made.isSome then drop s
        else match wholeStack s o x w with
          | .error t => t
          | .ok (old, s) =>
            let p := cutStack l.level old
            let fits := p.1.length ≤ l.cap
            let out := if fits then p.1 else []
            let image := stackImage 0x5654 0 out.length w.query w.frames p.1.length 0 out.reverse
            match engineSpans s c x lane 1 .store l.va image.length with
            | .held t => t
            | .lost _ t => drop (modCutLane t cop lane false)
            | .ok ps t =>
              match restack t o x w old (if fits then p.2 else old) with
              | .error u => u
              | .ok (v, u) => setWalk (modCutLane (walkWrite u c x ps image) cop lane true) o { v with cuts := more }
    | _ => drop s

/-- CutToGalley (22 R290): the record fills the slot, with zeros behind it (R308). -/
def cutToGalley (s : State) (o : Op) (x : Ctx) (w : Walk) (e : WEntry) (opens : Bool) (level : Nat) (slot : Option Word) : State :=
  let next : WalkPoint := if opens then .boundary else .closing e.frame
  let skip (s : State) : State := setWalk s o { w with point := next }
  match w.cutGalley with
  | none => skip s
  | some g =>
    match s.galley? g with
    | none => skip s
    | some y =>
      if y.ctx ≠ x.id then skip s
      else if slot.isNone && y.full then skip (s.modGalley g fun y => { y with overflow := y.overflow + 1 })
      else match wholeStack s o x w with
        | .error t => t
        | .ok (old, s) =>
          let p := cutStack level old
          let n := p.1.length
          if n = 0 ∨ y.recBytes < 32 + 16 * n then skip s
          else match slot with
            | none => setWalk (s.modGalley g reservePut) o { w with point := .cutting e opens level (some y.tail) }
            | some t =>
              let image := stackImage 0x5654 0 n w.query w.frames n 0 p.1.reverse
              let image := image ++ List.replicate (y.recBytes - image.length) 0
              match engineSpans s o x w.lane 1 .store (y.slotVa t.toNat) image.length with
              | .held u => u
              | .lost _ u => skip (u.modGalley g fun y => setSlot y t.toNat .void)
              | .ok ps u =>
                match restack u o x w old p.2 with
                | .error v => v
                | .ok (w2, v) =>
                  let v := walkWrite v o x ps image
                  if replPending v o then setWalk v o { w2 with point := .putting e opens g t.toNat }
                  else setWalk (v.modGalley g fun y => setSlot y t.toNat .published) o { w2 with point := next }

/-! A walk's steps. -/

/-- The start of a walk: its cut record and its query record are read (22 R285, R291, R296). DESIGN CHOICE (log 71): a query record that
is not zero where R285 says so ends the walk with RECORD_INVALID (00 R9). -/
def startWalk (s : State) (o : Op) (x : Ctx) (w : Walk) (record : Option Nat) (restored : Bool) : State :=
  let query (s : State) (w : Walk) (keepFrames : Bool) (next : State → Walk → State) : State :=
    match walkRead s o x w (w.query + 0x30) 16 with
    | .stop t => t
    | .bytes bs t =>
      let c := fieldOf bs 0 2
      if bits c 12 3 ≠ 0 ∨ fieldOf bs 2 6 ≠ 0 then endWalk t o w 0x09 0
      else next t { w with cutGalley := if bit c 15 then some (c % 4096) else none,
                           frames := if keepFrames then w.frames else fieldOf bs 8 8, point := .boundary }
  match record with
  | none => query s w restored fun t w => setWalk t o w
  | some va =>
    match walkRead s o x w va 32 with
    | .stop t => t
    | .bytes hd t =>
      let count := fieldOf hd 4 4
      if fieldOf hd 0 2 ≠ 0x5654 ∨ count < fieldOf hd 24 4 ∨ fieldOf hd 2 2 ≠ 0 ∨ fieldOf hd 28 4 ≠ 0 then endWalk t o w 0x09 0
      else if count = 0 then endWalk t o w 0x00 0
      else if 8 + 2 ^ w.elog < count then endWalk t o w 0x0A (BitVec.ofNat 64 w.handle)
      else match walkRead t o x w (va + 32) (16 * count) with
        | .stop u => u
        | .bytes bs u =>
          query u { w with query := fieldOf hd 8 8, frames := fieldOf hd 16 8 } true fun t w =>
            match placeStack t o x w (wentriesOf bs count).reverse 0 with
            | .error v => v
            | .ok (w, v) => setWalk v o w

/-- A node boundary: pending TVCUTs first, then the next Pop (22 R287, R290). -/
def boundaryStep (s : State) (o : Op) (x : Ctx) (b : Block) (w : Walk) : State :=
  match w.cuts, w.hot with
  | c :: more, _ => makeCut s o x w c.1 c.2 more
  | [], [] => endWalk s o w 0x00 0
  | [], e :: hot =>
    let refill : Except State (List WEntry × State) :=
      if w.spilled = 0 then .ok (hot, s)
      else match walkRead s o x w (w.area + 16 * (w.spilled - 1)) 16 with
        | .stop t => .error t
        | .bytes bs t => .ok (hot ++ [wentryOf bs], t)
    match refill with
    | .error t => t
    | .ok (hot, s) =>
      match readKind s o x b w e.kind with
      | .error t => t
      | .ok (k, s) =>
        if k.empty || !k.valid || e.node % 16 ≠ 0 || highVa e.node then endWalk s o w 0x04 0
        else
          setWalk s o { w with hot := hot, spilled := w.spilled - 1, visited := w.visited + 1, point := .visiting e }

/-- A visit has begun: its enter call, if its kind has one (22 R287). -/
def beginVisit (s : State) (o : Op) (x : Ctx) (b : Block) (w : Walk) (e : WEntry) : State :=
  match readKind s o x b w e.kind with
  | .error t => t
  | .ok (k, s) =>
    if k.enter = 0 then setWalk s o { w with point := .entering e (some 0) }
    else match walkRead s o x w (e.node + k.ploff) k.pllen with
      | .stop t => t
      | .bytes pay s => callRoutine s o x b w k.enter [mkCall o w k.enter .enter e.node e.depth e.kind 0 pay] (.entering e none)

/-- One step of a walk (22 R287): it waits for the answers to its faults, and for its writes to be performed (22 R289). A walk with no stack
left completes even where a vacate cuts it (22 R307). -/
def walkStep (s : State) (o : Op) (x : Ctx) (b : Block) (w : Walk) : State :=
  if opWaits s o w.lane || replPending s o then s
  else match w.point with
    | .starting r k => startWalk s o x w r k
    | .boundary =>
      if b.phase == .running || b.phase == .vacating .drain || !w.cuts.isEmpty || w.hot.isEmpty then boundaryStep s o x b w else s
    | .visiting e => beginVisit s o x b w e
    | .entering e (some v) => entered s o x b w e v.toNat
    | .entering _ none => s
    | .pruning e cut cs rs => if rs.all Option.isSome then pruned s o w e cut cs (rs.map fun r => (r.getD 0).toNat) else s
    | .pushing e cut cs => pushVisit s o x b w e cut cs
    | .framing e cut cs f => writeFrame s o x b w e cut cs f
    | .placing e opens cut cs f => placeCands s o x w e opens cut cs f
    | .leaving e (some v) => if v ≠ 0 then endWalk s o w 0x08 0 else setWalk s o { w with point := .closing e.frame }
    | .leaving _ none => s
    | .cutting e opens level slot => cutToGalley s o x w e opens level slot
    | .putting e opens g n =>
      setWalk (s.modGalley g fun y => setSlot y n .published) o { w with point := if opens then .boundary else .closing e.frame }
    | .closing f => closeFrame s o x w f
    | .calling f => callFrame s o x b w f
    | .leavingFrame parent (some v) => if v ≠ 0 then endWalk s o w 0x08 0 else setWalk s o { w with point := .closing parent }
    | .leavingFrame _ none => s
    | .ended _ => finishWalks s o.id

/-- WALK_VISIT (22 R287): a walk takes its next step: at a node boundary it pops an entry and begins its visit, and within a
visit it goes on as far as the next routine call or access. -/
def execWalkVisit (op lane : Nat) (s : State) : Host.Outcome State Fault Refusal :=
  .next (match s.op? op with
  | some o =>
    match o.kind, s.ctx? o.ctx, (s.core o.core).block? o.block with
    | .walks _ ws, some x, some b =>
      match ws.find? fun w => w.lane == lane with
      | some w => walkStep s o x b w
      | none => s
    | _, _, _ => s
  | none => s)

/-- The answer FAIL to a fault of a walk (22 R290, R292): a CUT action's slot becomes void and the walk goes on; any other access
ends it with FAULT. -/
def failWalk (s : State) (o : Op) (w : Walk) (bad : DWord) : State :=
  match w.point with
  | .cutting e opens _ (some t) =>
    match w.cutGalley.bind fun g => s.galley? g with
    | some y =>
      if y.slotVa t.toNat ≤ bad.toNat ∧ bad.toNat < y.slotVa t.toNat + y.recBytes then
        setWalk (s.modGalley y.id fun y => setSlot y t.toNat .void) o { w with point := if opens then .boundary else .closing e.frame }
      else endWalk s o w 0x0C bad
    | none => endWalk s o w 0x0C bad
  | _ => endWalk s o w 0x0C bad

/-! The instructions (22 R295 to R299). -/

/-- The walks of a context in flight on a core: those of its operations that have not ended. -/
def walksOn (s : State) (core ctx : Nat) : List (Op × Walk) :=
  s.ops.flatMap fun o => if o.core == core && o.ctx == ctx then
    (match o.kind with
    | .walks _ ws => (ws.filter fun w => !w.over).map fun w => (o, w)
    | _ => []) else []

/-- The status with which a walk ends at its issue, none if it starts (22 R284, R286, R296). -/
def walkRefusal (s : State) (w : Issuer) (earlier : List Walk) (l handle operand va : Nat) (resume : Bool) : Option Nat :=
  let tv := (ctxOf s w).tvstack.toNat
  let hlog := bits tv 8 5
  let elog := bits tv 0 5
  let h := handle % 65536
  let busy := ((walksOn s w.c w.g.ctx).any fun p => (p.1.slot == w.slot && p.2.lane == l) || p.2.handle == h)
    || earlier.any fun q => !q.over && q.handle == h
  if bits handle 16 16 ≠ 0 then some 0x04
  else if busy then some 0x02
  else if resume && (highVa va || va % 16 != 0) then some 0x09
  else if !resume && (highVa va || bits operand 4 4 != 0 || bits operand 20 12 != 0) then some 0x04
  else if bits tv 16 41 = 0 ∨ elog < 4 ∨ 20 < elog ∨ 16 < hlog ∨ 2 ^ hlog ≤ h then some 0x03
  else none

/-- A walk as it is issued (22 R284, R296). -/
def issuedWalk (s : State) (w : Issuer) (earlier : List Walk) (l handle operand va : Nat) (resume : Bool) : Walk :=
  let tv := (ctxOf s w).tvstack.toNat
  let base := bits tv 16 41 * 65536
  let h := handle % 65536
  let elog := bits tv 0 5
  let fresh : Walk :=
    { lane := l, handle := h, area := base + 64 * 2 ^ bits tv 8 5 + 16 * 2 ^ elog * h, elog := elog,
      hot := if resume then [] else [⟨va, operand % 16, bits operand 8 12, 0, 0⟩], spilled := 0, query := base + 64 * h,
      frames := 0, cutGalley := none, visited := 0, point := .starting (if resume then some va else none) false, cuts := [], bad := 0 }
  match walkRefusal s w earlier l handle operand va resume with
  | none => fresh
  | some c => { fresh with hot := [], point := .ended c }

/-- The walks of an instruction's lanes, in ascending lane. -/
def issuedWalks (s : State) (w : Issuer) (d a : Nat) (resume : Bool) : List Walk → List Nat → List Walk
  | done, [] => done
  | done, l :: r =>
    let operand := if resume then 0 else (laneV s w (a + 2) l).toNat
    issuedWalks s w d a resume (done ++ [issuedWalk s w done l (laneV s w d l).toNat operand (lanePair s w a l) resume]) r

/-- The status words of the walks that end at their issue. -/
def landRefused (s : State) (op d : Nat) (ws : List Walk) : State :=
  match s.op? op with
  | none => s
  | some o => landResults s o d (ws.filterMap fun k => match k.point with | .ended c => some (k.lane, k.status c) | _ => none)

/-- TVWALK or TVRESUME (22 R296). -/
def walkIssue (s : State) (i : Instr) (k d a : Nat) (resume : Bool) : Host.Outcome State Fault Refusal :=
  let srcs := if resume then [d, a, a + 1] else [d, a, a + 1, a + 2]
  laneIssueIf s i (fun _ => s.feature 3) ([d] ++ srcs.drop 1) (readsV s k srcs) fun w =>
    let m := activeOf s w k
    if inService w.g then trapHere s w .routineReentry 0 m
    else if m = 0 then done (s.modMine w fun g => g.join .gt |>.complete .gt (g.openBatch .gt)) w
    else
      let c := chargeOf s 12 0
      let ws := issuedWalks s w d a resume [] (lanesOf m)
      charged s w 12 c (afterFences s w
        (let r := forkOp s w .gt 12 c (.walks d ws)
        let t := landRefused r.2 r.1 d ws
        done (if ws.all Walk.over then finishWalks t r.1 else t) w))

/-- TVWALK (22 R296). -/
def execTvwalk (k : KReg) (d a : VReg) (s : State) : Host.Outcome State Fault Refusal := walkIssue s (.tvwalk k d a) k d a false
/-- TVRESUME (22 R296). -/
def execTvresume (k : KReg) (d a : VReg) (s : State) : Host.Outcome State Fault Refusal := walkIssue s (.tvresume k d a) k d a true

/-- Ask the walks that the lanes of a TVCUT name for their cuts, in ascending lane (22 R290, R297). -/
def askCuts (core block op : Nat) : State → List CutLane → State
  | s, [] => s
  | s, l :: r =>
    let named := (s.ops.filter fun o => o.core == core && o.block == block).findSome? fun o => match o.kind with
      | .walks _ ws => (ws.find? fun w => !w.over && w.handle == l.handle).map fun w => (o.id, w.lane)
      | _ => none
    askCuts core block op (match named with
      | none => s
      | some (n, lane) => modWalk s n lane fun w => { w with cuts := w.cuts ++ [(op, l.lane)] }) r

/-- TVCUT (22 R297). -/
def execTvcut (k : KReg) (d a : VReg) (s : State) : Host.Outcome State Fault Refusal :=
  laneIssueIf s (.tvcut k d a) (fun _ => s.feature 3) [d, a, a + 1, a + 2] (readsV s k [d, a, a + 1, a + 2]) fun w =>
    let m := activeOf s w k
    let va (l : Nat) : Nat := lanePair s w a l
    let x (l : Nat) : Nat := (laneV s w (a + 2) l).toNat
    if m = 0 then done (s.modMine w fun g => g.join .gt |>.complete .gt (g.openBatch .gt)) w
    else match (lanesOf m).filter fun l => highVa (va l), (lanesOf m).filter fun l => va l % 16 != 0,
        (lanesOf m).filter fun l => bits (x l) 12 4 != 0 || bits (x l) 16 16 == 0 with
      | l :: ls, _, _ => trapHere s w .accessViolation (BitVec.ofNat 64 (va l)) (maskOf (l :: ls))
      | [], l :: ls, _ => trapHere s w .misaligned (BitVec.ofNat 64 (va l)) (maskOf (l :: ls))
      | [], [], l :: ls => trapHere s w .layoutInvalid (BitVec.ofNat 64 (x l)) (maskOf (l :: ls))
      | [], [], [] =>
        let lanes := (lanesOf m).map fun l =>
          (⟨l, (laneV s w d l).toNat, bits (x l) 0 12, bits (x l) 16 16, va l, none⟩ : CutLane)
        afterFences s w
          (let r := forkOp s w .gt 14 0 (.cut lanes)
          done (askCuts w.c w.g.block r.1 r.2 lanes) w)

/-- A TVCUT's record for a handle with no walk in flight, or whose walk ended first: COUNT 0 and NEED 0 (22 R297). The manual does
not state the record's QUERY and FRAMES. -/
def emptyCut (s : State) (o : Op) (x : Ctx) (l : CutLane) : State :=
  if opWaits s o l.lane then s
  else match engineSpans s o x l.lane 1 .store l.va 32 with
    | .held t => t
    | .lost _ t => modCutLane t o.id l.lane false
    | .ok ps t =>
      let any (n : Nat) : Nat := (Config.freeWord (t.free + n)).toNat
      let image := stackImage 0x5654 0 0 (any 0 + 2 ^ 32 * any 1) (any 2 + 2 ^ 32 * any 3) 0 0 []
      modCutLane { (walkWrite t o x ps image) with free := t.free + 4 } o.id l.lane true

/-- TVCUT_COMPLETE (22 R297): a lane whose handle has no walk gets its record; once every lane has its record the operation
completes, and lanes whose record could not be written owe a trap. -/
def execTvcutComplete (op : Nat) (s : State) : Host.Outcome State Fault Refusal :=
  .next (match s.op? op with
  | some o =>
    match o.kind, s.ctx? o.ctx with
    | .cut ls, some x =>
      let asked (l : CutLane) : Bool := s.ops.any fun p => match p.kind with
        | .walks _ ws => ws.any fun w => !w.over && w.cuts.contains (op, l.lane)
        | _ => false
      match ls.find? fun l => l.made.isNone && !asked l with
      | some l => emptyCut s o x l
      | none =>
        if (ls.any fun l => l.made.isNone) || replPending s o then s
        else
          let lost := ls.filter fun l => l.made == some false
          let t := match lost with
            | [] => s
            | l :: _ => oweTrap s o none .accessViolation (BitVec.ofNat 64 l.va) (maskOf (lost.map fun l => l.lane))
          completeOp t o
    | _, _ => s
  | none => s)

/-- TVRET (22 R298): the action words of the active lanes are delivered and the lanes end as by EXIT. -/
def execTvret (k : KReg) (a : VReg) (s : State) : Host.Outcome State Fault Refusal :=
  laneIssueIf s (.tvret k a) (fun w => s.feature 3 && inService w.g) [a] (readsV s k [a]) fun w =>
    let m := activeOf s w k
    if m = 0 then done s w
    else
      let reply (g : Group) : Group :=
        { g with service := (List.range g.service.length).filterMap fun i => (g.service[i]?).map fun c =>
            if m.getLsbD i then { c with reply := some (laneV s w a i) } else c }
      let ended (g : Group) : Group :=
        if m = w.sp.mask then exitLanes (g.pass s.cycle m 1) w.idx m else endIfDead (dropLanes g m)
      let t := if m = w.sp.mask then s.modMine w fun g => ended (reply g) else (done s w).modMine w fun g => ended (reply g)
      mirrorSpill (noteUni t w w.sp.pc m (.mask 4 (w.g.live &&& ~~~m))) w.g.stack w.c w.slot w.idx

/-- The state of a handle's walk (22 R299). -/
def tvstatWord (s : State) (w : Issuer) (h : Nat) : Word :=
  match (walksOn s w.c w.g.ctx).find? fun p => p.1.block == w.g.block && p.2.handle == h with
  | none => 0
  | some (_, k) =>
    let calling : Bool := match k.point with
      | .entering _ none => true | .leaving _ none => true | .leavingFrame _ none => true
      | .pruning _ _ _ rs => rs.any Option.isNone
      | _ => false
    let state := if !k.cuts.isEmpty then 3 else if calling then 2 else 1
    BitVec.ofNat 32 (state + ((k.hot.head?.map fun e => e.depth).getD 0) * 2 ^ 12 + min (k.hot.length + k.spilled) 255 * 2 ^ 24)

/-- TVSTAT (22 R299). -/
def execTvstat (k : KReg) (d a : VReg) (s : State) : Host.Outcome State Fault Refusal :=
  laneIssueIf s (.tvstat k d a) (fun _ => s.feature 3) [d, a] (readsV s k [a]) fun w =>
    done (writeLanes s w d (activeOf s w k) 4 fun l => tvstatWord s w (laneV s w a l).toNat) w

/-! Service groups (22 R293). -/

/-- The lane register values a call starts with: v0 to v21 (22 R293). -/
def callRegs (c : Call) : List Word :=
  let kind : Nat := match c.kind with | .enter => 0 | .prune => 1 | .leave => 2
  let v3 := c.depth % 4096 + c.nodeKind % 16 * 2 ^ 12 + kind * 2 ^ 16 + (if c.kind = .prune then c.child % 16 * 2 ^ 18 else 0)
  let pay := (List.range 16).map fun j => numOf ((c.payload.drop (4 * j)).take 4)
  ([c.handle, c.node % 2 ^ 32, c.node / 2 ^ 32, v3] ++ pay ++ [c.query % 2 ^ 32, c.query / 2 ^ 32]).map (BitVec.ofNat 32)

/-- Form a service group of the oldest calls of a routine, in the routine row and slot of the block (22 R293). -/
def formService (s : State) (core : Nat) (b : Block) (routine : Nat) : State :=
  match b.routineRow, b.routineSlot with
  | some row, some slot =>
    let mine := (b.calls.filter fun c => c.routine == routine).take 32
    let y := s.core core
    match mine with
    | [] => s
    | first :: _ =>
      if (y.group? slot).isSome then s
      else
        let live := maskOf (List.range mine.length)
        let g := newGroup slot b.id b.ctx 64 b.blockIndex 31 0 row row (b.rec_.points b.blockIndex 0) live first.pc
          (BitVec.allOnes 32 :: List.replicate 7 0) ((b.dispatch % 2048) * 32 + slot)
        let g := { g with service := mine }
        let y := { y with rows := y.rows.refresh (rowRange row).1 (rowRange row).2 none, groups := y.groups ++ [g] }
        let y := (List.range mine.length).foldl (fun y l =>
          match mine[l]? with
          | none => y
          | some c =>
            let vs := callRegs c
            (List.range vs.length).foldl (fun y n => y.landV g n l (vs.getD n 0)) y) y
        let y := y.modBlock b.id fun k => { k with calls := mine.foldl (fun l c => l.erase c) k.calls }
        noteSync (s.setCore y) core slot 2 0
  | _, _ => s

/-- The block's context runs, and its walks are served: not while the context is halted, unless the vacate of the block waits for their
calls (29 R372, 20 R265, R271). -/
def serves (s : State) (b : Block) : Bool :=
  match s.ctx? b.ctx with
  | some x => (!x.halted || (match b.phase with | .vacating _ => true | _ => false)) && b.phase != .finished .save
  | none => false

/-- SERVICE_GROUP_FORM (22 R293): 32 calls of one routine wait; of several such routines, and one whose oldest call has waited 64 cycles,
the one whose oldest call is oldest. -/
def execServiceGroupForm (core block : Nat) (s : State) : Host.Outcome State Fault Refusal :=
  .next (match (s.core core).block? block with
  | some b =>
    if !serves s b then s
    else
      let many (c : Call) : Bool := 32 ≤ (b.calls.filter fun d => d.routine == c.routine).length
      match b.calls.find? fun c => many c || 64 ≤ c.waited with
      | some c => if many c then formService s core b c.routine else s
      | none => s
  | none => s)

/-- SERVICE_GROUP_TIMEOUT (22 R293): the oldest pending call has waited 64 cycles. -/
def execServiceGroupTimeout (core block : Nat) (s : State) : Host.Outcome State Fault Refusal :=
  .next (match (s.core core).block? block with
  | some b =>
    match b.calls with
    | c :: _ => if serves s b && 64 ≤ c.waited then formService s core b c.routine else s
    | [] => s
  | none => s)

/-- Deliver a call's action word to its walk; a lane that ended by EXIT returns 0 (22 R288). -/
def deliver (s : State) (c : Call) : State := modWalk s c.op c.lane fun w =>
  let v := some (c.reply.getD 0)
  { w with point := match w.point with
    | .entering e none => .entering e v
    | .leaving e none => .leaving e v
    | .leavingFrame p none => .leavingFrame p v
    | .pruning e cut cs rs => .pruning e cut cs ((cs.zip rs).map fun p => if p.1.child = c.child then v else p.2)
    | other => other }

/-- ROUTINE_RETURN (22 R293): a service group has ended with its stores performed, and its walks go on; operations of its open batches go on
without it. -/
def execRoutineReturn (core block : Nat) (s : State) : Host.Outcome State Fault Refusal :=
  .next (match (s.core core).block? block with
  | some b =>
    match (s.core core).groups.find? fun g => g.block == block && !g.service.isEmpty with
    | some g =>
      if !(g.ended && g.quiet && writesPerformed s core g g.nextSeq .package) || b.routineSlot != some g.slot then s
      else g.service.foldl deliver (groupLeaves s core g)
    | none => s
  | none => s)

/-- The end of a cycle for pending calls: they have waited one cycle more (22 R293). -/
def callsTick (b : Block) : Block := { b with calls := b.calls.map fun c => { c with waited := c.waited + 1 } }

end Sys2Proof.Machine
end

