-- ==== Sys2Proof/Machine/Save.lean ====
section
/-! DEFINITION. Vacating blocks: what a flush abandons, what a save waits for, and the vacate image (18_vacate R261, R262, 20_preemption
R264 to R276, 24_exchange R321, R322). -/

namespace Sys2Proof.Machine

/-! Flush (20 R268, R269). -/

/-- A flush gives up the lanes of a put: reserved slots become void (log 44). -/
def abandonPut (s : State) (ls : List GalleyLane) : State := ls.foldl (fun s l =>
  match l.slot, l.result with
  | some n, none => s.modGalley l.galley fun y => setSlot y n .void
  | _, _ => s) s

/-- A flush gives up the lanes of a take: the slots of records it has reserved are freed (log 44). -/
def abandonTake (s : State) (ls : List GalleyLane) : State := ls.foldl (fun s l =>
  match l.slot, l.result with
  | some n, none => s.modGalley l.galley fun y => freeSlot y n
  | _, _ => s) s

/-- A flush gives up a walk: the slot of a cut that it was making becomes void (log 44). -/
def abandonWalk (s : State) (w : Walk) : State :=
  match w.point, w.cutGalley with
  | .cutting _ _ _ (some t), some g => s.modGalley g fun y => setSlot y t.toNat .void
  | .putting _ _ g n, _ => s.modGalley g fun y => setSlot y n .void
  | _, _ => s

/-- What a flush leaves of an operation (20 R268): packets of an XSEND or FBULK that have been sent still land; all else ends. -/
def abandonOp (s : State) (o : Op) : State :=
  let detached (k : OpKind) : State := s.modOp o.id fun o => { o with slot := noSlot, charge := 0, kind := k }
  let drop (s : State) : State := s.dropOp o.id
  match o.kind with
  | .send x =>
    if x.unread.isEmpty then detached o.kind
    else if x.sent.isEmpty then drop s else detached (.send { x with unread := [], cut := true })
  | .bulk b =>
    let sent := b.messages.filter fun m => m.bytes.isSome && !m.spent
    if b.op = 1 && b.kind = 0 || sent.isEmpty then drop s else detached (.bulk { b with messages := sent, gd := 0 })
  | .put _ ls => drop (abandonPut s ls)
  | .take _ ls => drop (abandonTake s ls)
  | .walks _ ws => drop (ws.foldl abandonWalk s)
  | _ => drop s

/-- The operations of a block. -/
def opsOf (s : State) (c id : Nat) : List Op := s.ops.filter fun o => o.core == c && o.block == id && o.slot != noSlot

/-- The grants of the XPERMITs that a block holds leave (24 R316). -/
def deliverHeld (s : State) (c : Nat) (k : Block) : State :=
  let mine := (s.core c).groups.filter fun g => g.block == k.id
  mine.foldl (fun s g => g.permits.foldl deliverGrants s) s

/-- A block abandons its work (20 R268): the grants of its held XPERMITs leave (24 R316). Records of faults of its operations wait in the
block's name (20 R266). -/
def abandonBlock (s : State) (c : Nat) (k : Block) : State :=
  let gone := (opsOf s c k.id).map fun o => o.id
  let s := deliverHeld s c k
  let s := (opsOf s c k.id).foldl abandonOp s
  let own (f : FaultRecord) : FaultRecord := match f.owner with
    | .op n _ => if gone.contains n then { f with owner := .ignored c k.id } else f
    | _ => f
  let s := s.modCtx k.ctx fun x => { x with faults := x.faults.map own }
  let s := s.modCore c fun y =>
    { y with
      matrix := { y.matrix with queue := y.matrix.queue.filter fun m => m.block != k.id },
      groups := y.groups.map fun g =>
        if g.block = k.id then
          { g with queue := [], reads := [], la := [], held := [], due := [], trapWait := none, permits := [],
                   splits := g.splits.map fun sp => { sp with hold := .none } }
        else g }
  s.modBlock c k.id fun k => { k with calls := [] }

/-! The request (18 R261). -/

/-- A block begins to carry out its committed mode. -/
def beginMode (s : State) (x : Ctx) (p : Nat × Block) : State :=
  let m := modeOf s p.1 x p.2
  let s := s.modBlock p.1 p.2.id fun k => { k with phase := .vacating m }
  let s := s.modCtx x.id fun x =>
    { x with priority := x.priority.filter fun q => !(q.2.1 == p.1 && p.2.slots.contains q.2.2.1) }
  if m = .flush then abandonBlock s p.1 p.2 else s

/-- Blocks reserved and not admitted are released, and their tickets with them (03 R54, 26 R346; log 45). -/
def releaseReserved (s : State) (ctx : Nat) : State :=
  let held := s.cores.flatMap fun y => (y.blocks.filter fun k => k.ctx == ctx && k.phase == .reserved).map fun k => (y.index, k)
  held.foldl (fun s p =>
    let s := match p.2.launchId with
      | none => s
      | some n => s.modLaunch n fun l =>
        let d := Config.dieOf p.1
        { l with tickets := modifyAt (fun t => min t (p.2.blockIndex - l.rec_.shareStart d)) d l.tickets }
    dropBlock s p.1 p.2.id) s

/-! The end of a vacate (18 R262). -/

/-- Whether a piece of a COPY of a context is in flight (26 R337). -/
def pieceMoves (s : State) (ctx : Nat) : Bool :=
  s.queues.any fun q => q.ctx == ctx && q.started.any fun k => !k.units.isEmpty && !k.failed

/-- The vacate of a context is over when no block of it is left, and no piece of a COPY is in flight (26 R337): %vmeas is written, and a vacate
command reports its end. -/
def vacateDone (s : State) (ctx : Nat) : State :=
  match s.ctx? ctx with
  | none => s
  | some x =>
    if x.phase ≠ .vacating ∨ !(s.cores.all fun y => y.blocks.all fun k => k.ctx != ctx || k.phase == .loading) ∨ pieceMoves s ctx then s
    else
      let time := s.ticks - x.requestTicks
      let late := decide (x.vb < time)
      let s := (flushTrace s ctx).modCtx ctx fun x => { x with vmeas := time, vover := late, vvalid := true, phase := .vacated }
      let s := if late then
          postEvent s ctx .vacateOverrun 0xFFFF 0 (sat32 time + 2 ^ 32 + 2 ^ 33) noSource
        else s
      if x.resizing then s else postEvent s ctx .context 0xFFFF 1 0 noSource

/-- The CTXSAVEs of a block complete: bytes written and mode carried out (12 R194). -/
def endSaveOp (s : State) (k : Block) (bytes mode : Nat) : State :=
  s.ops.foldl (fun t o => match o.kind with
    | .ctxsave gd b =>
      if b ≠ k.id then t
      else completeOp (landResultG t o gd (sat32 bytes + mode * 2 ^ 32)) o
    | _ => t) s

/-- The records that a block took from galleys are retired (22 R302). -/
def retireTaken (s : State) (k : Block) : State := k.taken.foldl (fun s p => retireRecords s p.1 p.2) s

/-- The group of a block with an index, if it is still on the core. -/
def groupOf (y : Core) (k : Block) (j : Nat) : Option Group :=
  y.groups.find? fun g => g.block == k.id && g.groupIndex == j && g.service.isEmpty

/-- What the context keeps of a block that leaves its core (20 R264, R277, 24 R320). -/
def savedOf (s : State) (c : Nat) (k : Block) (flushed : Bool) (va : Nat) : SavedBlock :=
  let y := s.core c
  let came := y.groups.filter fun g => g.block == k.id && g.exitArrived && !flushed
  { core := c, blockIndex := k.blockIndex, incarn := k.incarn, va := va, rec_ := k.rec_, launchId := k.launchId, unit := k.unit, inst := k.inst,
    flushed := flushed, taken := if flushed then [] else k.taken,
    ends := if flushed then [] else y.ends.filter fun e => e.block == k.id, waiting := k.waiting,
    arrived := came.map fun g => g.groupIndex, failed := false, lost := false }

/-- A block has finished its mode: it leaves its core, and with it may end the vacate of its context (18 R262). -/
def blockLeaves (s : State) (c : Nat) (k : Block) (saved : Option SavedBlock) (bytes mode : Nat) : State :=
  let s := match saved with
    | none => s
    | some b => s.modCtx k.ctx fun x => { x with saved := x.saved ++ [b] }
  let s := dropBlock (endSaveOp (settleTrace s) k bytes mode) c k.id
  vacateDone s k.ctx

/-! What a save waits for (20 R265, R266, 24 R321). -/

/-- Whether an unanswered fault record belongs to a block. -/
def recordOf (s : State) (x : Ctx) (c : Nat) (k : Block) : Bool :=
  let mine (slot : Nat) : Bool := ((s.core c).group? slot).any fun g => g.block == k.id
  (x.faults.map (fun f => f.owner) ++ x.faultWait.map fun f => f.owner).any fun o => match o with
    | .read a slot _ => a == c && mine slot
    | .store a slot _ => a == c && mine slot
    | .fetch a slot _ => a == c && mine slot
    | .spill a slot _ => a == c && mine slot
    | .instr a slot _ => a == c && mine slot
    | .op n _ => (s.op? n).any fun o => o.core == c && o.block == k.id
    | .image a b => a == c && b == k.id
    | .block a b => a == c && b == k.id
    | .ignored a b => a == c && b == k.id
    | _ => false

/-- Whether a walk stands at a node boundary with entries left, or has ended (22 R307). -/
def walkCut (w : Walk) : Bool :=
  w.over || (match w.point with | .boundary | .starting _ true => w.cuts.isEmpty && !w.hot.isEmpty | _ => false)

/-- Whether an operation is a send whose receiver is on a core still to be saved, or gone. -/
def sendUnderWay (s : State) (o : Op) : Bool := match o.kind with | .send x => !sendParked s x | _ => false

/-- Whether no send, grant or held XPERMIT of a context is on its way, but toward blocks that are saved (24 R321; log 70). -/
def exchangeQuiet (s : State) (ctx : Nat) : Bool :=
  !(s.ops.any fun o => o.ctx == ctx && sendUnderWay s o)
    && !(s.grants.any fun g => (endAt s g.binding).any fun p => p.2.1.ctx == ctx && p.2.2.phase != .finished .save)
    && !(s.cores.any fun y => y.groups.any fun g => g.ctx == ctx && !g.permits.isEmpty)

/-- Whether the exchange has nothing under way that can reach a block's allocation (24 R321). -/
def exchangeDone (s : State) (c : Nat) (k : Block) : Bool :=
  let target (o : Op) : Bool := match o.kind with
    | .send x => x.core == c && x.block == k.id && sendUnderWay s o
    | _ => false
  !(s.ops.any target) && (!((s.core c).ends.any fun e => e.block == k.id) || exchangeQuiet s k.ctx)

/-- Whether a member of a block's cluster instance has an access under way to its core (20 R265). -/
def remoteComing (s : State) (c : Nat) (k : Block) : Bool :=
  k.unit.isSome && s.cores.any fun y => y.groups.any fun g =>
    (g.parts.any fun p => p.target == c) && (y.block? g.block).any fun b => b.unit == k.unit

/-- Whether a group's work but its walks has completed. -/
def groupDrained (g : Group) : Bool :=
  g.queue.isEmpty && g.reads.isEmpty && g.parts.isEmpty && (g.held.all fun h => h.poisoned.isSome) && g.trapWait.isNone && g.service.isEmpty

/-- Whether a block committed to save has completed what it must, and only its image is left (20 R265). -/
def drained (s : State) (x : Ctx) (c : Nat) (k : Block) : Bool :=
  let y := s.core c
  (y.groups.all fun g => g.block != k.id || groupDrained g) && k.calls.isEmpty && s.updates.isEmpty
    && (y.matrix.queue.all fun m => m.block != k.id)
    && ((opsOf s c k.id).all fun o => match o.kind with
      | .walks _ ws => ws.all walkCut && !replPending s o
      | .send _ => !sendUnderWay s o
      | _ => false)
    && exchangeDone s c k && !remoteComing s c k && !recordOf s x c k

/-- A send of a saved block that waits for its receiver completes for its group and goes on without it (24 R320; log 70). -/
def detachSend (s : State) (o : Op) : State :=
  match o.kind with
  | .send _ => (s.modOp o.id fun o => { o with slot := noSlot, charge := 0 }).modGroup o.core o.slot fun g => g.complete o.gate o.batch
  | _ => s

/-- The ended walks of operations still in flight owe their traps now (20 R266). -/
def oweEnded (s : State) (o : Op) : State :=
  match o.kind with
  | .walks d ws => if ws.any Walk.over then (oweWalks s o ws).setOpKind o.id (.walks d (ws.filter fun w => !w.over)) else s
  | _ => s

/-- The traps that poisoned lookahead and held results of a group owe (11 R151, 12 R179). -/
def poisonDues (g : Group) : List DueTrap :=
  (g.la.filterMap fun a => a.poisoned.map fun p => ⟨none, none, false, a.split, .poison, p.1, p.2, a.born⟩)
    ++ g.held.filterMap fun h => h.poisoned.map fun bad =>
      ⟨none, none, false, h.split, .poison, bad, ((g.split? h.split).map fun sp => sp.mask).getD 0, h.born⟩

/-- The earliest of due traps, in the issue order of their operations. -/
def firstDue : List DueTrap → Option DueTrap
  | [] => none
  | d :: r => match firstDue r with
    | none => some d
    | some e => if e.born < d.born then some e else some d

/-- The next trap that a block's groups take before its image is written: with the group's slot (20 R266). -/
def nextDue (y : Core) (k : Block) : Option (Group × DueTrap) :=
  (y.groups.filter fun g => g.block == k.id && !g.ended && !g.suspended).findSome? fun g =>
    (firstDue (poisonDues g ++ g.due)).map fun d => (g, d)

/-- Take a due trap before an image is written: by the split that issued its operation, or the lowest in use (20 R266). -/
def takeSaved (s : State) (c : Nat) (g : Group) (d : DueTrap) : State :=
  let i := if (g.split? d.split).isSome then d.split else ((g.splits.head?).map fun sp => sp.idx).getD 0
  let pc := ((g.split? i).map fun sp => sp.pc).getD 0
  let s := s.modGroup c g.slot fun g =>
    { g with due := g.due.erase d,
             la := g.la.map fun a => if a.born = d.born && a.poisoned.isSome then { a with poisoned := none } else a
             held := g.held.filter fun h => !(h.born == d.born && h.poisoned.isSome) }
  takeTrap (poisonEvent s c g.slot d.cause d.bad) c g.slot i d.cause pc d.bad d.lanes 0

/-! The image (20 R272 to R275). -/

/-- The MODE of a header (20 R273). -/
def modeCode : Mode → Nat
  | .flush => 0 | .save => 1 | .drain => 2

/-- A save entry (20 R274). -/
def saveEntry (sub pc a b : Nat) : List Byte := bytesOf 8 (pc / 4 * 4 + 3 + sub * 2 ^ 57) ++ bytesOf 4 a ++ bytesOf 4 b

/-- The save entries of a group: SUB 5, SUB 4 and its splits (20 R274). -/
def saveEntries (g : Group) : List (List Byte) :=
  [saveEntry 5 (bits g.tvec.toNat 0 57) (bits g.emact.toNat 0 32) (bits g.emflt.toNat 0 32),
   saveEntry 4 (bits g.epc.toNat 0 57) (bits g.ebad.toNat 0 32) (bits g.ebad.toNat 32 32)]
    ++ g.splits.map fun sp => saveEntry sp.idx sp.pc.toNat sp.mask.toNat 0

/-- Bytes filled with zeros to a size. -/
def padTo (n : Nat) (bs : List Byte) : List Byte := bs ++ List.replicate (n - bs.length) 0

/-- The 512 bytes of a group's stack section (20 R274). -/
def stackSection (g : Group) : List Byte := padTo 512 ((chipEntries g).flatMap entryBytes ++ (saveEntries g).flatten)

/-- RING of the header of a matrix launch's group 0 (20 R273). -/
def ringWord (m : Matrix) : Nat := m.tail + m.used * 2 ^ 6 + m.count0 * 2 ^ 13 + m.count1 * 2 ^ 20

/-- READY of the header of a matrix launch's group 0 (20 R273). -/
def readyWord (m : Matrix) : Nat :=
  total ((List.range m.used).map fun j => if slotState m.slots ((m.tail + j) % 64) = .ready then 2 ^ j else 0)

/-- The 64 bytes of a header of a save image (20 R273). -/
def saveHeader (y : Core) (k : Block) (j : Nat) : List Byte :=
  let g? := (groupOf y k j).filter fun g => !g.ended
  let z (f : Group → Nat) : Nat := (g?.map f).getD 0
  let gates := [Gate.gc, .gm, .gl, .gx, .gt].flatMap fun x => bytesOf 4 (z fun g => (g.gate x).closed.toNat)
  let ring := k.rec_.matrix && j == 0
  bytesOf 2 0x5A56 ++ bytesOf 1 (j + 32 * modeCode .save + (if g?.isNone then 128 else 0)) ++ bytesOf 1 (z fun g => g.dphase.toNat)
    ++ bytesOf 4 k.blockIndex ++ bytesOf 4 k.incarn ++ gates ++ bytesOf 4 (z fun g => g.capCount.toNat)
    ++ bytesOf 4 (z fun g => g.spilled + ((chipEntries g).length + (saveEntries g).length) * 2 ^ 20 + g.fpflags.toNat * 2 ^ 26)
    ++ bytesOf 2 (z fun g => bits g.ecause.toNat 0 16) ++ bytesOf 2 0 ++ bytesOf 4 (if ring then ringWord y.matrix else 0)
    ++ bytesOf 8 (z fun g => g.spill.toNat) ++ bytesOf 8 (if ring then readyWord y.matrix else 0)

/-- The header of a flush image (20 R276). -/
def flushHeader (k : Block) (j : Nat) : List Byte :=
  padTo 64 (bytesOf 2 0x5A56 ++ bytesOf 1 j ++ bytesOf 1 0 ++ bytesOf 4 k.blockIndex ++ bytesOf 4 k.incarn)

/-- The registers of a row of a group, as the row holds them (03 R46). -/
def rowImage (y : Core) (g : Group) (second : Bool) : List Byte :=
  (List.range 64).flatMap fun n => (List.range 32).flatMap fun l => bytesOf 4 (rawV y g (if second then 64 + n else n) l).toNat

/-- The rows a group of a launch has (03 R46). -/
def Launch.rowsOfGroup (r : Launch) (j : Nat) : Nat := if j < r.groups0 then r.rows0 else r.rows1

/-- A group's rows in the image; zero for an ended group (20 R272). -/
def rowsSection (y : Core) (k : Block) (j : Nat) : List Byte :=
  match (groupOf y k j).filter fun g => !g.ended with
  | none => List.replicate (8192 * k.rec_.rowsOfGroup j) 0
  | some g => rowImage y g false ++ (if k.rec_.rowsOfGroup j = 2 then rowImage y g true else [])

/-- A group's masks in the image. -/
def masksSection (y : Core) (k : Block) (j : Nat) : List Byte :=
  match (groupOf y k j).filter fun g => !g.ended with
  | none => List.replicate 32 0
  | some g => (List.range 8).flatMap fun i => bytesOf 4 (rawK g i).toNat

/-- The walk in flight of a lane of a group, with its operation. -/
def walkAt (s : State) (c slot l : Nat) : Option (Op × Nat × Walk) :=
  s.ops.findSome? fun o =>
    if o.core = c ∧ o.slot = slot then match o.kind with
      | .walks d ws => (ws.find? fun w => w.lane == l && !w.over).map fun w => (o, d, w)
      | _ => none
    else none

/-- The 160 bytes of a walk slot (20 R275, 22 R291, R307). -/
def walkSlot (s : State) (c slot l : Nat) : List Byte :=
  padTo 160 (match walkAt s c slot l with
  | none => []
  | some (o, d, w) => stackImage 0x5655 w.handle (w.hot.length + 256 * d) w.query w.frames w.spilled o.batch.toNat w.hot.reverse)

/-- The walk slots of a group. -/
def walksSection (s : State) (c : Nat) (k : Block) (j : Nat) : List Byte :=
  match (groupOf (s.core c) k j).filter fun g => !g.ended with
  | none => List.replicate 5120 0
  | some g => (List.range 32).flatMap fun l => walkSlot s c g.slot l

/-- The save image of a block (20 R272), with the poison of its scratchpad, accumulator and platen bytes (31 R380). -/
def saveImage (s : State) (c : Nat) (k : Block) : List (Byte × Bool) :=
  let y := s.core c
  let js := List.range k.rec_.groups
  clean (js.flatMap (saveHeader y k)) ++ clean (js.flatMap (rowsSection y k)) ++ clean (js.flatMap (masksSection y k))
    ++ clean (js.flatMap fun j => match (groupOf y k j).filter fun g => !g.ended with
      | none => List.replicate 512 0
      | some g => stackSection g)
    ++ y.markedBytes k.spbase k.rec_.scratch
    ++ (if k.rec_.matrix then
        y.accBytes 0 (64 * Config.slotBytes c) ++ y.platenBytes 0 (128 * Config.width c) ++ y.platenBytes 1 (128 * Config.width c)
      else [])
    ++ (if k.rec_.traversal then clean (js.flatMap (walksSection s c k)) else [])

/-- Spill bottom entries of a group until its on-chip and save entries fit 32 slots (20 R274): an address outside memory traps (03 R40). -/
def makeRoom (c slot : Nat) : Nat → State → Spill
  | 0, s => .ok s
  | n + 1, s =>
    match s.group? c slot with
    | none => .ok s
    | some g =>
      match chipEntries g with
      | [] => .ok s
      | e :: _ =>
        if (chipEntries g).length + (saveEntries g).length ≤ 32 then .ok s
        else if spillBase g = 0 || spillRoom g ≤ g.spilled then .overflow 0
        else match spillWrite s c g (((g.splits.head?).map fun sp => sp.idx).getD 0) g.spilled e with
          | .ok t => makeRoom c slot n (t.modGroup c slot fun g => { g with stack := markArea (g.spilled + 1) g.stack })
          | .violation va => if g.suspended then .overflow va else .faulted (spillTrap s c slot va)
          | r => r

/-- Make room in the stacks of all groups of a block. -/
def makeRooms (c : Nat) : List Group → State → Spill
  | [], s => .ok s
  | g :: r, s =>
    match makeRoom c g.slot 8 s with
    | .ok t => makeRooms c r t
    | x => x

/-- The VA of a block's image: CTXSAVE's, or its place in the save area (26 R328). -/
def imageVa (x : Ctx) (c : Nat) (k : Block) : Nat :=
  if k.saveOp.isSome then k.saveVa else x.saveArea + x.saveSlot * (32 * c + k.slots.headD 0)

/-- What writing an image comes to. -/
inductive Written where
  | ok (s : State)
  | held (s : State)
  | lost (s : State)

/-- Write an image: a fault waits with the bytes before it written; an address outside memory loses the image (20 R266). -/
def writeImage (x : Ctx) (c : Nat) (k : Block) : State → List (Nat × Nat) → List (Byte × Bool) → Written
  | s, [], _ => .ok s
  | s, (a, n) :: r, bs =>
    if highVa a || highVa (a + n - 1) then .lost s
    else match placeSealed (.core c) x .store s [(a, n)] with
      | (.ok ps, t) => writeImage x c k (engineWrite .agent x t ps (bs.take n)) r (bs.drop n)
      | (.error (.unresolved, _), t) => .lost t
      | (.error (.fault cause, va), t) =>
        match postFault t x va (groupSource c (k.slots.headD 0)) 1 cause 0 0 x.cycles (.image c k.id) with
        | (none, _) => .held s
        | (some _, u) => .held u

/-- A block whose image cannot be written is discarded, and stays among the blocks left out (20 R266). -/
def saveFails (s : State) (c : Nat) (k : Block) : State :=
  let s := postEvent s k.ctx .saveFailed 0xFFFF 0 k.blockIndex (groupSource c (k.slots.headD 0))
  let s := retireTaken (releaseEnds (abandonBlock s c k) c k.id) k
  let b : SavedBlock := { savedOf s c k true 0 with flushed := false, failed := true }
  blockLeaves s c k (some b) 0 (modeCode .save)

/-- A block whose stacks cannot be saved stays resident and suspended (20 R274). -/
def saveStuck (s : State) (c : Nat) (k : Block) : State :=
  postEvent (s.modBlock c k.id fun k => { k with phase := .stuck }) k.ctx .saveStack 0xFFFF 0 k.blockIndex
    (groupSource c (k.slots.headD 0))

/-- BLOCK_SAVE (20 R265, R266): a block committed to save completes its results, takes the traps that are due, one a step, and then
writes its image. -/
def execBlockSave (core block : Nat) (s : State) : Host.Outcome State Fault Refusal :=
  .next (match (s.core core).block? block with
  | none => s
  | some k =>
    match s.ctx? k.ctx with
    | none => s
    | some x =>
      if k.phase ≠ .vacating .save || !drained s x core k then s
      else
        let s := (opsOf s core k.id).foldl (fun s o => detachSend (oweEnded s o) o) s
        match nextDue (s.core core) k with
        | some (g, d) => takeSaved s core g d
        | none =>
          let gs := (s.core core).groups.filter fun g => g.block == k.id && !g.ended
          let s := gs.foldl (fun s g => completeWrites s core g.slot) s
          match makeRooms core gs s with
          | .faulted t => t
          | .overflow _ => saveStuck s core k
          | .violation _ => saveStuck s core k
          | .ok t =>
            let image := saveImage t core k
            match writeImage x core k t (spansOf (imageVa x core k) image.length) image with
            | .ok u => u.modBlock core k.id fun k => { k with phase := .finished .save }
            | .held u => u
            | .lost u => saveFails u core k)

/-- BLOCK_MODE_FINISHED (18 R262): a saved block leaves its core once its image is performed at every member of a replica set (05 R83);
a flushed one writes its headers once its records are answered, and then leaves (20 R266, R268, R276). -/
def execBlockModeFinished (core block : Nat) (s : State) : Host.Outcome State Fault Refusal :=
  .next (match (s.core core).block? block with
  | none => s
  | some k =>
    match s.ctx? k.ctx, k.phase with
    | some x, .finished .flush =>
      if agentPending s x.id then s
      else
        let b := savedOf s core k true (imageVa x core k)
        blockLeaves (retireTaken (releaseEnds s core k.id) k) core k (some b) (64 * k.rec_.groups) (modeCode .flush)
    | some x, .finished _ =>
      if agentPending s x.id then s
      else blockLeaves s core k (some (savedOf s core k false (imageVa x core k))) (stateBytes core k.rec_) (modeCode .save)
    | some x, .vacating .flush =>
      if recordOf s x core k || !s.updates.isEmpty then s
      else
        let image := clean ((List.range k.rec_.groups).flatMap (flushHeader k))
        match writeImage x core k s (spansOf (imageVa x core k) image.length) image with
        | .held u => u
        | .lost u => saveFails u core k
        | .ok u => u.modBlock core k.id fun k => { k with phase := .finished .flush }
    | _, _ => s)

/-! CTXSAVE (12 R194). -/

/-- The block of a context's group in a slot of a core. -/
def blockAt (y : Core) (slot : Nat) : Option Block := (y.group? slot).bind fun g => y.block? g.block

/-- The blocks of a vacate unit: a block's cluster instance, or itself (20 R270). -/
def unitOf (s : State) (c : Nat) (k : Block) : List (Nat × Block) :=
  match k.unit with
  | none => [(c, k)]
  | some u => s.cores.flatMap fun y => (y.blocks.filter fun b => b.unit == some u).map fun b => (y.index, b)

/-- A CTXSAVE reaches a block: it and its unit begin their mode, if they have not, and the block keeps the image's VA of the first (12 R194,
20 R270; log 72). -/
def saveBlock (s : State) (c : Nat) (k : Block) (op va : Nat) : State :=
  let fresh (b : Block) : Bool := b.phase == .running || b.phase == .loaded
  if !fresh k then s
  else
    let s := s.modBlock c k.id fun k => { k with saveVa := va, saveOp := some op }
    match s.ctx? k.ctx with
    | none => s
    | some x => ((unitOf s c k).filter fun p => fresh p.2).foldl (fun s p => beginMode s x p) s

/-- CTXSAVE (12 R194): the block in a slot is vacated, its unit with it (20 R270); a slot that holds none gives all ones. -/
def execCtxsave (d a b : GReg) (s : State) : Host.Outcome State Fault Refusal :=
  uniIssue s (.ctxsave d a b) true [] (readsG [a, b]) fun w =>
    let va := (uniG s w b).toNat
    if highVa va then trapAll s w .accessViolation (BitVec.ofNat 64 va)
    else if va % 64 ≠ 0 then trapAll s w .misaligned (BitVec.ofNat 64 va)
    else match blockAt w.core ((uniG s w a).toNat % 32) with
      | none => heldDone s w d (BitVec.allOnes 64) none
      | some k => afterFences s w
        (let r := forkOp s w .gc 14 0 (.ctxsave d k.id)
        done (saveBlock r.2 w.c k r.1 va) w)

end Sys2Proof.Machine
end

