-- ==== Sys2Proof/Machine/Restore.lean ====
section
/-! DEFINITION. Restoring blocks from vacate images: CTXLOAD and what a resume command does (12_uniform R195, 20_preemption R277, R278,
22_traversal R307). -/

namespace Sys2Proof.Machine

/-! Reading an image (20 R272 to R276). -/

/-- Whether the header of a group in an image names its block with a mode (20 R273, R276). -/
def headerOk (h : List Byte) (j mode blockIndex incarn : Nat) : Bool :=
  fieldOf h 0 2 == 0x5A56 && bits (fieldOf h 2 1) 0 5 == j && bits (fieldOf h 2 1) 5 2 == mode && fieldOf h 4 4 == blockIndex
    && fieldOf h 8 4 == incarn

/-- Whether every header of an image names its block. -/
def headersOk (bs : List Byte) (groups mode blockIndex incarn : Nat) : Bool :=
  (List.range groups).all fun j => headerOk ((bs.drop (64 * j)).take 64) j mode blockIndex incarn

/-- Where the sections of a save image begin: rows, masks, stacks, scratchpad, accumulator, platens and traversal (20 R272). -/
structure Sections where
  rows : Nat
  masks : Nat
  piles : Nat
  scratch : Nat
  acc : Nat
  platens : Nat
  walks : Nat
  deriving DecidableEq, Repr

/-- The sections of a launch's image on a core. -/
def sectionsOf (c : Nat) (r : Launch) : Sections :=
  let rows := 64 * r.groups
  let masks := rows + 8192 * r.rows
  let piles := masks + 32 * r.groups
  let scratch := piles + 512 * r.groups
  let acc := scratch + r.scratch
  let platens := if r.matrix then acc + 64 * Config.slotBytes c else acc
  ⟨rows, masks, piles, scratch, acc, platens, if r.matrix then platens + 256 * Config.width c else acc⟩

/-- The rows of the groups before one (20 R272). -/
def rowsBefore (r : Launch) (j : Nat) : Nat := total ((List.range j).map r.rowsOfGroup)

/-- The used slots of a group's stack section, each 16 bytes. -/
def slotsOf (st : List Byte) (n : Nat) : List (List Byte) := (List.range n).map fun i => (st.drop (16 * i)).take 16

/-- The kind field of a slot: 3 for a save entry (20 R274). -/
def slotKind (e : List Byte) : Nat := fieldOf e 0 1 % 4
/-- SUB of a save entry. -/
def slotSub (e : List Byte) : Nat := bits (fieldOf e 0 8) 57 7

/-- A save entry of a group (20 R274). -/
def saveSlot (es : List (List Byte)) (sub : Nat) : List Byte := (es.find? fun e => slotKind e == 3 && slotSub e == sub).getD []

/-- The PC of a save entry. -/
def savedPc (e : List Byte) : Nat := bits (fieldOf e 0 8) 2 55 * 4

/-- The splits of a group from its save entries, with pass-over counts of 0 (20 R277). -/
def savedSplits (es : List (List Byte)) : List Split :=
  (es.filter fun e => slotKind e == 3 && slotSub e < 4).map fun e =>
    newSplit (slotSub e) (BitVec.ofNat 57 (savedPc e)) (BitVec.ofNat 32 (fieldOf e 8 4)) 0

/-- A gate after a restore: DONE is CLOSED, but for walks outstanding (20 R277). -/
def restoredGate (closed : Word) (batches : List Word) : GateState := ⟨closed, doneOf closed batches, batches⟩

/-- The walks of a group in an image: lane, batch, status register and walk (22 R291, R307). -/
def savedWalks (x : Ctx) (bs : List Byte) : List (Nat × Nat × Walk) :=
  let tv := x.tvstack.toNat
  (List.range 32).filterMap fun l =>
    let w := (bs.drop (160 * l)).take 160
    if fieldOf w 0 2 ≠ 0x5655 then none
    else
      let h := fieldOf w 2 2
      let n := fieldOf w 4 4
      let elog := bits tv 0 5
      some (fieldOf w 28 4, bits n 8 7,
        { lane := l, handle := h, area := bits tv 16 41 * 65536 + 64 * 2 ^ bits tv 8 5 + 16 * 2 ^ elog * h, elog := elog,
          hot := (wentriesOf (w.drop 32) (min (bits n 0 4) 8)).reverse, spilled := fieldOf w 24 4, query := fieldOf w 8 8,
          frames := fieldOf w 16 8, cutGalley := none, visited := 0, point := .starting none true, cuts := [], bad := 0 })

/-- Group walks of one batch and status register into operations. -/
def walkSets : List (Nat × Nat × Walk) → List (Nat × Nat × List Walk)
  | [] => []
  | (b, d, w) :: r =>
    let rest := walkSets r
    match rest.find? fun e => e.1 == b && e.2.1 == d with
    | some _ => replaceFirst (fun e => e.1 == b && e.2.1 == d) (fun e => (b, d, w :: e.2.2)) rest
    | none => (b, d, [w]) :: rest

/-- The entries of a stack, bottom first, up to the frame of the lowest trap: those of one frame have ascending indices and disjoint masks
(03 R41, 12 R174). -/
def upToFrame : List SEntry → Option (Nat × Mask) → List SEntry
  | [], _ => []
  | e :: r, none => e :: upToFrame r (if e.kind = .trap then some (e.arrived.toNat, e.mask) else none)
  | e :: r, some (i, m) =>
    if e.kind = .trap ∧ i < e.arrived.toNat ∧ e.mask &&& m = 0 then e :: upToFrame r (some (e.arrived.toNat, m ||| e.mask)) else []

/-- The live lanes of a group from its stack and splits: a handler's splits hold every lane, so that below a trap its frame tells them (03 R39,
R41). -/
def liveLanes (st : List SEntry) (sps : List Split) : Mask :=
  let low := (upToFrame st.reverse none).foldl (fun m e => m ||| e.mask) 0
  if st.any fun e => e.kind == .trap then low else sps.foldl (fun m sp => m ||| sp.mask) low

/-- Where a group's spilled entries lie and their size, from its header (03 R40, 20 R273). -/
def areaRange (h : List Byte) : Nat × Nat :=
  if bit (fieldOf h 2 1) 7 then (0, 0) else (bits (fieldOf h 48 8) 4 53 * 16, 16 * bits (fieldOf h 36 4) 0 20)

/-- Stack entries of a spill area, bottom first. -/
def areaEntries (bs : List Byte) : List SEntry := (slotsOf bs (bs.length / 16)).map fun e => { sentryOf e with area := true }

/-- A group from its header, stack section, masks and spill area (20 R277; log 73). -/
def savedGroup (g : Group) (h st ms area : List Byte) (batches : List Word) : Group :=
  let word := fieldOf h 36 4
  let es := slotsOf st (min (bits word 20 6) 32)
  let pile := ((es.filter fun e => slotKind e != 3).map sentryOf).reverse ++ (areaEntries area).reverse
  let gate (i : Nat) (out : List Word) : GateState := restoredGate (BitVec.ofNat 32 (fieldOf h (12 + 4 * i) 4)) out
  let s5 := saveSlot es 5
  let s4 := saveSlot es 4
  { g with
    live := liveLanes pile (savedSplits es), splits := savedSplits es, stack := pile,
    masks := (List.range 8).map fun i => BitVec.ofNat 32 (fieldOf ms (4 * i) 4),
    gates := [gate 0 [], gate 1 [], gate 2 [], gate 3 [], gate 4 batches], dphase := BitVec.ofNat 6 (fieldOf h 3 1),
    capCount := BitVec.ofNat 32 (fieldOf h 32 4), fpflags := BitVec.ofNat 4 (bits word 26 4), ecause := BitVec.ofNat 64 (fieldOf h 40 2),
    spill := BitVec.ofNat 64 (fieldOf h 48 8), tvec := BitVec.ofNat 64 (savedPc s5), emact := BitVec.ofNat 64 (fieldOf s5 8 4),
    emflt := BitVec.ofNat 64 (fieldOf s5 12 4), epc := BitVec.ofNat 64 (savedPc s4), ebad := BitVec.ofNat 64 (fieldOf s4 8 8) }

/-- Put the 2,048 words of a row in place. -/
def Core.putRow (x : Core) (row : Nat) (bs : List Byte) : Core :=
  { x with rows := (List.range 2048).foldl (fun m i => m.set (2048 * row + i) (BitVec.ofNat 32 (fieldOf bs (4 * i) 4))) x.rows }

/-- The matrix engine from an image (20 R273, R277). -/
def savedMatrix (m : Matrix) (c block ctx : Nat) (h acc pl : List Byte) : Matrix :=
  let ring := fieldOf h 44 4
  let ready := fieldOf h 56 8
  let tail := bits ring 0 6
  let used := bits ring 6 7
  let n := 128 * Config.width c
  let slots := (List.range 64).map fun i =>
    let j := (i + 64 - tail) % 64
    if j < used then (if bit ready j then SlotState.ready else .opened) else .free
  { Matrix.empty with
    holder := some block, lastCtx := some ctx, tail := tail, used := used, slots := slots, acc := (Store.zero 8).setBytes 0 acc,
    platen0 := (Store.zero 8).setBytes 0 (pl.take n), platen1 := (Store.zero 8).setBytes 0 ((pl.drop n).take n),
    count0 := bits ring 13 7, count1 := bits ring 20 7, mark := m.mark, slots0 := slots, count00 := bits ring 13 7,
    count10 := bits ring 20 7 }

/-- The operations of a group's restored walks: the first bears the charge of class 12 (22 R307). -/
def addWalkOps (s : State) (core slot block ctx : Nat) : List (Nat × Nat × List Walk) → Nat → State
  | [], _ => s
  | (b, d, ws) :: r, charge =>
    let o : Op := ⟨s.nextId, core, slot, 4, block, ctx, .gt, BitVec.ofNat 32 b, 0, charge, channelOf s 12, true, false, .walks d ws⟩
    addWalkOps { s with nextId := s.nextId + 1, ops := s.ops ++ [o] } core slot block ctx r 0

/-- The groups of an image that have restored walks. -/
def walkingGroups (c : Nat) (x : Ctx) (r : Launch) (bs : List Byte) : Nat :=
  if !r.traversal then 0
  else ((List.range r.groups).filter fun j => !(savedWalks x ((bs.drop ((sectionsOf c r).walks + 5120 * j)).take 5120)).isEmpty).length

/-! Admission and placement (18 R260, 20 R277, R278). -/

/-- The instance whose blocks a restore puts back together: a block's co-scheduled instance, or its cluster instance (03 R54, 20 R278). -/
def SavedBlock.whole (b : SavedBlock) : Option Nat := b.inst <|> b.unit
/-- The same of a resident block. -/
def Block.whole (k : Block) : Option Nat := k.inst <|> k.unit

/-- The blocks of an instance that are loaded, or have a place to be loaded into. -/
def placedOf (s : State) (n : Option Nat) (num : Block → Option Nat) : List (Nat × Block) :=
  if n.isNone then []
  else s.cores.flatMap fun y =>
    (y.blocks.filter fun k => num k == n && (k.phase == .loading || k.phase == .loaded)).map fun k => (y.index, k)

/-- Whether no block of an instance is left to be loaded: one whose save failed never is (20 R266, R278; log 64). -/
def allLoaded (s : State) (ctx : Nat) (n : Option Nat) : Bool :=
  n.isNone || !((s.ctx? ctx).any fun x => x.saved.any fun b => b.whole == n)

/-- Whether a saved block can come back: its image was written, and that of every other block of its instance (20 R266, R278). -/
def restorable (x : Ctx) (b : SavedBlock) : Bool := !b.failed && (b.whole.isNone || !(x.saved.any fun q => q.failed && q.whole == b.whole))

/-- Whether a restored block may be admitted, beside the loaded blocks of its instance, with the charges of its walks (18 R260, 22 R307). -/
def admitsLoad (s : State) (x : Ctx) (c : Nat) (r : Launch) (walking : Nat) : Bool :=
  let more := walking * chargeOf s 12 0
  let k := channelOf s 12
  vfix s x + (committed s c x r 0).1 + max (channelSum s x k + more) (otherSums s x k) ≤ x.vb

/-- Whether a core may take a saved block: a block of a unit on its own %core in the cluster of the unit's other blocks (20 R278), and one of
a CORE-domain instance on the core of the instance's other blocks (03 R50). -/
def placeOk (s : State) (ctx c : Nat) (r : Launch) (b : SavedBlock) : Bool :=
  coreShared s ctx r b.launchId b.blockIndex c && (b.unit.isNone || (Config.coreOf c == Config.coreOf b.core
    && (placedOf s b.unit fun k => k.unit).all fun p => Config.dieOf p.1 == Config.dieOf c && Config.clusterOf p.1 == Config.clusterOf c))

/-! Reading an image and the spill areas it names (05 R79, 20 R277). -/

/-- What reading an image gives: its bytes and those of each group's spill area; or a wait for the answer of a fault record; or nothing. -/
inductive ImageGot where
  | ok (img : List (Byte × Bool)) (areas : List (List Byte)) (s : State)
  | held (s : State)
  | lost (s : State)

/-- An entry that governs no split and fills none, for one whose bytes a restore does not reach: its refill reads them (log 73). -/
def blankEntry : SEntry := ⟨.join, 0, 0, 1, false⟩

/-- The bytes of a spill area as a core's agent finds them: an entry that it does not reach is blank (log 73). -/
def areaBytes (c : Nat) (x : Ctx) (va : Nat) : Nat → State → List Byte × State
  | 0, s => ([], s)
  | n + 1, s =>
    let r : List Byte × State := match readVa s (.core c) x va 16 with
      | (.ok bs, t) => (bs, t)
      | (.error _, _) => (entryBytes blankEntry, s)
    let rest := areaBytes c x (va + 16) n r.2
    (r.1 ++ rest.1, rest.2)

/-- The spill areas of groups in turn. -/
def readAreas (c : Nat) (x : Ctx) : List (Nat × Nat) → State → List (List Byte) × State
  | [], s => ([], s)
  | (va, n) :: r, s =>
    let a := areaBytes c x va (n / 16) s
    let rest := readAreas c x r a.2
    (a.1 :: rest.1, rest.2)

/-- The bytes of an image that a restore reads. -/
def imageBytes (c : Nat) (flushed : Bool) (r : Launch) : Nat := if flushed then 64 * r.groups else stateBytes c r

/-- Read the image of a launch's block of a context at a VA, with the spill areas of its groups. -/
def readImage (rd : State → Nat → Nat → EngineGot) (got : State → List (Page × Nat) → List (Byte × Bool)) (s : State) (c : Nat) (x : Ctx)
    (flushed : Bool) (r : Launch) (va : Nat) : ImageGot :=
  match rd s va (imageBytes c flushed r) with
  | .held t => .held t
  | .lost _ t => .lost t
  | .ok ps t =>
    let img := got t ps
    let bs := img.map Prod.fst
    let areas := readAreas c x (if flushed then [] else (List.range r.groups).map fun j => areaRange ((bs.drop (64 * j)).take 64)) t
    .ok img areas.1 areas.2

/-! Putting a block back. -/

/-- One group of a restored block (20 R272, R277). -/
def restoreGroup (s : State) (c : Nat) (x : Ctx) (k : Block) (arrived : List Nat) (img : List Byte) (areas : List (List Byte)) (trace : Nat)
    (e : Nat × Nat × Nat) (j : Nat) : State :=
  let r := k.rec_
  let z := sectionsOf c r
  let h := (img.drop (64 * j)).take 64
  let ended := bit (fieldOf h 2 1) 7
  let walks := if r.traversal && !ended then walkSets (savedWalks x ((img.drop (z.walks + 5120 * j)).take 5120)) else []
  let batches := ((walks.map fun w => w.1).foldl (fun l n => insertNat n l) []).map (BitVec.ofNat 32)
  let role := r.roleOf j
  let fresh := newGroup e.1 k.id k.ctx (if e.2.1 = e.2.2 then 64 else 128) k.blockIndex j role e.2.1 e.2.2 (r.points k.blockIndex j) 0 0
    (BitVec.allOnes 32 :: List.replicate 7 0) (trace % 2048 * 32 + e.1)
  let g : Group :=
    if ended then { fresh with splits := [] }
    else savedGroup fresh h ((img.drop (z.piles + 512 * j)).take 512) ((img.drop (z.masks + 32 * j)).take 32) (areas.getD j []) batches
  let g : Group := { g with exitArrived := arrived.contains j }
  let rows := img.drop (z.rows + 8192 * rowsBefore r j)
  let s := s.modCore c fun y =>
    let y := y.putRow e.2.1 (rows.take 8192)
    let y := if r.rowsOfGroup j = 2 then y.putRow e.2.2 ((rows.drop 8192).take 8192) else y
    { y with groups := y.groups ++ [g] }
  addWalkOps s c e.1 k.id k.ctx walks (chargeOf s 12 0)

/-- The contents of a reserved block from a save image; its groups stand as they were, and wait to be started (20 R277, 24 R320). The core
drops its clean copies, older than what the block has written elsewhere (13 R211). -/
def loadBlock (s : State) (c : Nat) (x : Ctx) (k : Block) (b : SavedBlock) (img : List (Byte × Bool)) (areas : List (List Byte)) : State :=
  let r := k.rec_
  let z := sectionsOf c r
  let bs := img.map Prod.fst
  let s := acquireAt s c .package
  let y := s.core c
  let table := reservedTable y k
  let rows := k.rows ++ k.routineRow.toList
  let y := rows.foldl (fun y n => y.freshRow k.ctx (64 * k.id + n) n) y
  let y := y.freshScratch k.ctx (4 * k.id) k.spbase r.scratch
  let y := { y with poison := y.poison.filter fun o => o < k.spbase || k.spbase + r.scratch ≤ o }
  let y := y.landBytes k.spbase ((img.drop z.scratch).take r.scratch)
  let acc := (img.drop z.acc).take (64 * Config.slotBytes c)
  let platens := (img.drop z.platens).take (256 * Config.width c)
  let y := if r.matrix then
    { y with matrix := savedMatrix y.matrix c k.id k.ctx (bs.take 64) (acc.map Prod.fst) (platens.map Prod.fst),
             slotPoison := movePoison 0 acc [] ++ movePoison (2 ^ 20) (platens.take (128 * Config.width c)) []
               ++ movePoison (2 ^ 21) (platens.drop (128 * Config.width c)) [] }
    else y
  let y := { y with carved := y.carved.filter fun p => !(k.slots.contains p.1 || k.routineSlot == some p.1),
                    ends := y.ends ++ b.ends.map fun (e : ChanEnd) => { e with block := k.id } }
  let y := y.setLeases rows .running
  let y := y.modBlock k.id fun k => { k with rows := [], taken := b.taken, waiting := b.waiting, elapsed := 0, overrun := false }
  (List.range table.length).foldl (fun s j => restoreGroup s c x k b.arrived bs areas k.dispatch (table.getD j (0, 0, 0)) j) (s.setCore y)

/-- A restored block whose groups are in place starts: they may issue from now on (20 R277). -/
def startLoaded (s : State) (c : Nat) (k : Block) : State :=
  let s := (s.modBlock c k.id fun k => { k with phase := .running }).modCtx k.ctx fun x => { x with started := true }
  let gs := (s.core c).groups.filter fun g => g.block == k.id && !g.ended
  gs.foldl (fun s g => g.splits.foldl (fun s sp => noteSync s c g.slot 2 sp.idx) s) s

/-- Restored blocks start together: those of flush images afresh, with the exit barriers of their cluster instances (03 R54, R56, 20 R276,
R278). -/
def startRestored (s : State) (ps : List (Nat × Block)) : State :=
  let fresh := ps.filter fun p => !p.2.rows.isEmpty
  let s := ps.foldl (fun s p => if p.2.rows.isEmpty then startLoaded s p.1 p.2 else startFresh s p.1 p.2.id (fresh.map fun q => q.2.blockIndex)) s
  ((fresh.filterMap fun p => p.2.unit).eraseDups).foldl setExitBarrier s

/-- A consumer block that comes back counts among its galley's consumers again (22 R304). -/
def rejoinGalley (s : State) (c : Nat) (k : Block) : State :=
  if bit k.rec_.galley 15 && k.launchId.isNone then
    s.modGalley (k.rec_.galley % 4096) fun y => { y with live := y.live ++ [(c, k.id)] }
  else s

/-- A block whose place is held is put back from its image, with status 0, and starts once no block of its instance is left to be loaded: else
the image or the admission fails (20 R277, R278), as the admission does while a vacate takes the context (18 R261). -/
def restoreInto (s : State) (c id : Nat) (x : Ctx) (b : SavedBlock) (img : List (Byte × Bool)) (areas : List (List Byte)) : Nat × State :=
  match (s.core c).block? id with
  | none => (3, s)
  | some k =>
    let bs := img.map Prod.fst
    if !headersOk bs k.rec_.groups (if b.flushed then 0 else 1) b.blockIndex b.incarn || !restorable x b then (3, s)
    else if !s.holdsCluster x.func (Config.clusterIndex (Config.dieOf c) (Config.clusterOf c)) then (2, s)
    else if x.phase == .vacating || !admitsLoad s x c k.rec_ (if b.flushed then 0 else walkingGroups c x k.rec_ bs) then (1, s)
    else
      let s := s.modCtx x.id fun x => { x with saved := x.saved.erase b }
      let s := if b.flushed then s else loadBlock s c x k b img areas
      let s := rejoinGalley (s.modBlock c id fun k => { k with phase := .loaded }) c k
      let members := if k.whole.isNone then ((s.core c).block? id).toList.map fun k => (c, k) else placedOf s k.whole Block.whole
      (0, if allLoaded s x.id b.whole && members.all (fun p => p.2.phase == .loaded) then startRestored s members else s)

/-! CTXLOAD (12 R195). -/

/-- The saved block that an image at an address can be of: by its block index and incarnation, and by its launch or where it was saved; of
several, the one of the launch saved at that address (12 R195, 20 R277). -/
def savedAt (x : Ctx) (block incarn launch va : Nat) : Option SavedBlock :=
  let fits := x.saved.filter fun b => b.blockIndex == block && restorable x b
    && incarn == (if b.flushed then (b.incarn + 1) % 2 ^ 32 else b.incarn)
  (fits.find? fun b => b.va == va && b.rec_.va == launch) <|> (fits.find? fun b => b.rec_.va == launch) <|> fits.find? fun b => b.va == va

/-- A block as its image alone gives it: one that the context does not count among those left out (log 49). -/
def imageAlone (s : State) (ctx c : Nat) (r : Launch) (block incarn va : Nat) (flushed : Bool) : SavedBlock :=
  { core := c, blockIndex := block, incarn := if flushed then (incarn + 2 ^ 32 - 1) % 2 ^ 32 else incarn, va := va, rec_ := r,
    launchId := launchRunOf s ctx r.va, unit := none, inst := none, flushed := flushed, taken := [], ends := [], waiting := true,
    arrived := [], failed := false, lost := false }

/-- What a CTXLOAD's record and address name: a saved block, or a block by its image alone, or a status (12 R195, 20 R277, R278; log 49). The
core must be on the die that saved the block. -/
def imageAt (s : State) (x : Ctx) (c : Nat) (r : Launch) (block incarn va : Nat) : Except Nat SavedBlock :=
  match savedAt x block incarn r.va va with
  | some b => if Config.dieOf b.core = Config.dieOf c then .ok b else .error 3
  | none =>
    if x.saved.any fun b => b.failed && b.blockIndex == block && b.rec_.va == r.va then .error 3
    else if r.unitLevel.isSome || r.clusterLevel.isSome then .error 2
    else .ok (imageAlone s x.id c r block incarn va false)

/-- Hold a block's place for its image (20 R277); its CORE-domain instance has its core from now on (03 R50). -/
def reserveFor (s : State) (c : Nat) (x : Ctx) (r : Launch) (b : SavedBlock) (incarn spbase : Nat) (table : List (Nat × Nat × Nat))
    (routine : Option (Nat × Nat)) (va : Nat) : Nat × State :=
  let n := reserveBlock (moveHome s r b.launchId b.blockIndex c) c x r b.blockIndex incarn spbase table routine b.launchId b.unit b.inst va
  (n.1, n.2.modBlock c n.1 fun k => { k with phase := .loading })

/-- The checks of a CTXLOAD at its issue, and the reservation of its resources: a status, and the block reserved if it is 0, else a number
that no block has (12 R195, 20 R277, R278); no status while the read of the launch record waits for the answer to its fault (05 R392). -/
def reserveLoad (s : State) (c : Nat) (d : DRecord) (va : Nat) (o : FaultOwner) : Option Nat × Nat × State :=
  match ctxForWork s d.ctx with
  | (none, t) => (some 3, t.nextId, t)
  | (some x, s) =>
    match readLaunch s (.core c) x d.launch (boundConsumer s x.id) with
    | (.ok r, u) =>
      match imageAt u x c r d.block d.incarn va with
      | .error n => (some n, u.nextId, u)
      | .ok b =>
        if !recordAgrees d r then (some 3, u.nextId, u)
        else if !u.holdsCluster x.func (Config.clusterIndex (Config.dieOf c) (Config.clusterOf c)) || !resourcesOk (u.core c) r d.spbase d.table
            || !placeOk u x.id c r b then (some 2, u.nextId, u)
        else match routineFor (u.core c) r with
          | none => (some 2, u.nextId, u)
          | some routine =>
            let n := reserveFor u c x r b d.incarn d.spbase d.table routine va
            (some 0, n.1, n.2)
    | (.failed (.fault e) a, u) => (none, u.nextId, postOrWait u x a (agentSource c) 0 e o)
    | (_, u) => (some 3, u.nextId, u)

/-- CTXLOAD (12 R195): it is held while its read of the launch record waits for an answer. DESIGN CHOICE (log 49): FAIL gives status 3. -/
def execCtxload (d a b : GReg) (s : State) : Host.Outcome State Fault Refusal :=
  uniIssue s (.ctxload d a b) true [] (readsG [a, b]) fun w =>
    let at_ := uniAddr s w a
    let va := (uniG s w b).toNat
    checkedRecord s w 128 16 at_
      (if highVa va then trapAll s w .accessViolation (BitVec.ofNat 64 va)
      else if va % 64 ≠ 0 then trapAll s w .misaligned (BitVec.ofNat 64 va)
      else afterFences s w
        (let owner := FaultOwner.dispatch w.c w.slot w.idx
        let go (s : State) (status block : Nat) : State := done (forkOp s w .gc 14 0 (.ctxload d status block va)).2 w
        if w.sp.hold == .recordFailed then go s 3 s.nextId
        else if s.ctxs.any fun x => x.asks owner then holdIt s w .faultSuspension
        else match reserveLoad s w.c (drecordOf (readPlace s (placeOf s w at_) 128)) va owner with
        | (some n, block, t) => go t n block
        | (none, _, t) => holdIt t w .faultSuspension))

/-- A reservation that came to nothing goes back to its carving (12 R195): what the record carved stays carved, the routine row and slot
do not. -/
def unreserve (s : State) (c id : Nat) : State := s.modCore c fun y =>
  { y with blocks := y.blocks.filter fun k => k.id != id,
           carved := match y.block? id with
             | some k => y.carved.filter fun p => !(k.routineSlot == some p.1 && k.routineRow == some p.2.1)
             | none => y.carved }

/-- A CTXLOAD completes with a status. -/
def endLoadOp (s : State) (o : Op) (gd status : Nat) : State :=
  completeOp (landResultG s o gd status) o

/-- What a CTXLOAD finds to load: the block, or a wait for the answer of a fault record, or nothing. -/
inductive LoadKind where
  | ok (b : SavedBlock) (s : State)
  | held (s : State)
  | lost (s : State)

/-- The block that a CTXLOAD loads: of one known by its image alone, the first header tells whether it was flushed (20 R273, R276). -/
def loadKind (s : State) (o : Op) (x : Ctx) (k : Block) (b : SavedBlock) (va : Nat) : LoadKind :=
  if x.saved.contains b then .ok b s
  else match engineSpans s o x 0 0 .load va 64 with
    | .held t => .held t
    | .lost _ t => .lost t
    | .ok ps t =>
      let mode := bits (fieldOf ((opBytes t o x ps).map Prod.fst) 2 1) 5 2
      .ok (imageAlone t x.id o.core k.rec_ k.blockIndex k.incarn va (mode == 0)) t

/-- CTXLOAD_COMPLETE (12 R195, 20 R277): the image is read and checked, and the block is put back and started. -/
def execCtxloadComplete (op : Nat) (s : State) : Host.Outcome State Fault Refusal :=
  .next (match s.op? op with
  | none => s
  | some o =>
    match o.kind with
    | .ctxload gd st block va =>
      let fail (s : State) (n : Nat) : State := endLoadOp (unreserve s o.core block) o gd n
      if st ≠ 0 then fail s st
      else match (s.core o.core).block? block with
        | none => endLoadOp s o gd 3
        | some k =>
          match s.ctx? k.ctx with
          | none => fail s 3
          | some x =>
            match imageAt s x o.core k.rec_ k.blockIndex k.incarn va with
            | .error n => fail s n
            | .ok b =>
              if opWaits s o 0 then s
              else match loadKind s o x k b va with
                | .held t => t
                | .lost t => fail t 3
                | .ok b t => match readImage (fun t a n => engineSpans t o x 0 0 .load a n) (fun t ps => opBytes t o x ps) t o.core x b.flushed k.rec_ va with
                  | .held t => t
                  | .lost t => fail t 3
                  | .ok img areas t =>
                    match restoreInto t o.core block x b img areas with
                    | (0, u) => endLoadOp u o gd 0
                    | (n, _) => fail t n
    | _ => s)

/-! Restoring without CTXLOAD: the agents of a resume command and of a partition command (26 R329, 20 R279). -/

/-- Translate an agent's access to the image of a saved block: a fault's record waits in the block's name. -/
def agentSpans (x : Ctx) (c : Nat) (b : SavedBlock) (s : State) (va n : Nat) : EngineGot :=
  if highVa va || highVa (va + n - 1) then .lost va s
  else match placeSealed (.core c) x .load s (spansOf va n) with
    | (.ok ps, t) => .ok ps t
    | (.error (.unresolved, a), t) => .lost a t
    | (.error (.fault cause, a), t) =>
      .held (postHeld t x a (agentSource c) 0 cause 0 x.cycles (.resume b.blockIndex b.rec_.va))

/-- Read the image of a saved block for a core's agent. -/
def agentImage (s : State) (x : Ctx) (c : Nat) (b : SavedBlock) : ImageGot :=
  readImage (agentSpans x c b) (fun t ps => engineBytes t (Config.dieOf c) false x ps) s c x b.flushed b.rec_ b.va

/-- Restore one saved block on a core with the rows and scratchpad its agent chose (20 R277). -/
def restoreOne (s : State) (ctx : Nat) (b : SavedBlock) (c : Nat) (p : Placement) : Option State :=
  match s.ctx? ctx with
  | none => none
  | some x =>
    let die := Config.dieOf c
    if b.lost || !restorable x b || Config.dieOf b.core != die || !placeOk s x.id c b.rec_ b
        || !s.holdsCluster x.func (Config.clusterIndex die (Config.clusterOf c)) then none
    else match agentCarve (s.core c) b.rec_ p with
      | none => none
      | some (y, table, routine) =>
        let incarn := if b.flushed then (b.incarn + 1) % 2 ^ 32 else b.incarn
        let n := reserveFor (s.setCore y) c x b.rec_ b incarn p.spbase table routine b.va
        match agentImage n.2 x c b with
        | .ok img areas t =>
          match restoreInto t c n.1 x b img areas with
          | (0, u) => some u
          | _ => none
        | _ => none

/-- Restore saved blocks in order, all or none. -/
def restoreAll (s : State) (ctx : Nat) : List (SavedBlock × Nat × Placement) → Option State
  | [] => some s
  | (b, c, p) :: r =>
    match restoreOne s ctx b c p with
    | none => none
    | some t => restoreAll t ctx r

/-- Restore the blocks that placements are given for, one by one, an instance only as a whole; the others stay vacated (18 R263, 20 R278). -/
def restoreEach (ctx : Nat) (all : List (SavedBlock × Nat × Placement)) : State → List (SavedBlock × Nat × Placement) → State
  | s, [] => s
  | s, (b, c, p) :: r =>
    let t : State := match b.whole with
      | none => (restoreOne s ctx b c p).getD s
      | some u =>
        let members := all.filter fun q => q.1.whole == some u
        if members.head? == some (b, c, p) then
          let need := ((s.ctx? ctx).map fun x => (x.saved.filter fun k => k.whole == some u).length).getD 0
          if members.length < need then s else (restoreAll s ctx members).getD s
        else s
    restoreEach ctx all t r

end Sys2Proof.Machine
end

