-- ==== Sys2Proof/Machine/Command.lean ====
section
/-! DEFINITION. The device registers of the host: plain writes, feature negotiation, context commands, partition commands and debug
commands (20_preemption R279, 26_command R323 to R329, 29_debug R368 to R372, 31_health R381). -/

namespace Sys2Proof.Machine

/-- Whether no block of any context is resident. -/
def nothingResident (s : State) : Bool := s.cores.all fun y => y.blocks.isEmpty

/-! Plain registers (26 R323, R324). -/

/-- Put 64 bits of a vector of 256. -/
def putBits64 (old : BitVec 256) (n : Nat) (v : DWord) : BitVec 256 :=
  (old &&& ~~~((BitVec.allOnes 64).setWidth 256 <<< (64 * n))) ||| (v.setWidth 256 <<< (64 * n))

/-- A read of a BAR0 register: an aligned 8-byte access (00 R8, 26 R323, R326, R327, 29 R368, 31 R381, R385). Reserved bits and an offset that
holds no register read 0. -/
def regRead (s : State) (off : Nat) : DWord :=
  let d := s.dev
  let word (v : BitVec 256) (n : Nat) : DWord := (v >>> (64 * n)).setWidth 64
  match off with
  | 0x000 => word d.featcap 0
  | 0x008 => word d.featcap 1
  | 0x010 => word d.featcap 2
  | 0x018 => word d.featcap 3
  | 0x020 => word d.featen 0
  | 0x028 => word d.featen 1
  | 0x030 => word d.featen 2
  | 0x038 => word d.featen 3
  | 0x040 => BitVec.ofNat 64 (d.commit.toNat + 2 * d.refused.toNat + 4 * (d.service == .full).toNat)
  | 0x048 => d.ctxbase
  | 0x050 => d.qbase
  | 0x058 => d.evbase
  | 0x060 => d.ctxcmd
  | 0x068 => BitVec.ofNat 64 s.ticks
  | 0x070 => d.dbgcmd
  | 0x078 => BitVec.ofNat 64 (d.period + d.plan * 2 ^ 16 + d.trained.toNat * 2 ^ 32)
  | 0x0E0 => d.partbase
  | 0x0E8 => d.partcmd
  | n =>
    if 0x080 ≤ n ∧ n < 0x0E0 ∧ n % 8 = 0 then match d.errcnt[(n - 0x080) / 8]? with
      | some e => BitVec.ofNat 64 (e.corr + e.uncorr * 2 ^ 32 + e.thresh * 2 ^ 48)
      | none => 0
    else 0

/-- The RW fields of DBGCMD but OP: CTX, DIE, CLUSTER, CORE, SLOT and SPLIT (29 R368). -/
def dbgFields (v : Nat) : DWord := BitVec.ofNat 64 (bits v 0 10 + bits v 16 19 * 2 ^ 16)

/-- A write of a die's error counter register: bits written 1 clear the counts, and THRESH takes its field (00 R8, 31 R381). -/
def writeErrcnt (s : State) (die : Nat) (v : DWord) : State := s.modDev fun d =>
  { d with errcnt := modifyAt (fun e =>
    { corr := (BitVec.ofNat 32 e.corr &&& ~~~(v.setWidth 32)).toNat,
      uncorr := (BitVec.ofNat 16 e.uncorr &&& ~~~((v >>> 32).setWidth 16)).toNat, thresh := bits v.toNat 48 5 }) die d.errcnt }

/-- REGISTER_WRITE (26 R323, R324, R326): FEATEN until the commit, without the bits that FEATCAP does not hold; the table bases while no
context is resident; the partition base; an error counter register (31 R381); a command register whose OP does nothing sets its other fields
(00 R8, 26 R327, 29 R368). Writes of read-only registers are ignored, and a write that carries a command is that command's own event (log
74). -/
def execRegisterWrite (off : Nat) (v : BitVec 64) (s : State) : Host.Outcome State Fault Refusal :=
  .next (
    let free := nothingResident s
    match off with
    | 0x048 => if free then s.modDev fun d => { d with ctxbase := v } else s
    | 0x050 => if free then s.modDev fun d => { d with qbase := v } else s
    | 0x058 => if free then s.modDev fun d => { d with evbase := v } else s
    | 0x060 => if s.dev.commit && bits v.toNat 10 2 == 0 then s.modDev fun d => { d with ctxcmd := BitVec.ofNat 64 (bits v.toNat 0 10) } else s
    | 0x070 => if [0, 6, 7].contains (bits v.toNat 10 3) then s.modDev fun d => { d with dbgcmd := dbgFields v.toNat } else s
    | 0x0E0 => s.modDev fun d => { d with partbase := v }
    | 0x0E8 => if s.dev.partRun.isNone && bits v.toNat 7 2 != 1 then s.modDev fun d => { d with partcmd := BitVec.ofNat 64 (bits v.toNat 0 7) } else s
    | _ =>
      if 0x020 ≤ off ∧ off ≤ 0x038 ∧ off % 8 = 0 ∧ !s.dev.commit then
        s.modDev fun d => { d with featen := putBits64 d.featen ((off - 0x020) / 8) v &&& d.featcap }
      else if 0x080 ≤ off ∧ off < 0x0E0 ∧ off % 8 = 0 then writeErrcnt s ((off - 0x080) / 8) v
      else s)

/-- FEATCTL_COMMIT (26 R324, 31 R387): refused without bit 0, and while no firmware image has been accepted. -/
def execFeatctlCommit (v : BitVec 64) (s : State) : Host.Outcome State Fault Refusal :=
  .next (
    if !v.getLsbD 0 ∨ s.dev.commit then s
    else if s.feature 0 && s.dev.image.isSome then s.modDev fun d => { d with commit := true, refused := false }
    else s.modDev fun d => { d with refused := true })

/-- ERRCNT_CLEAR (31 R381): a W1C write to a die's error counter register. -/
def execErrcntClear (die : Nat) (v : BitVec 64) (s : State) : Host.Outcome State Fault Refusal := .next (writeErrcnt s die v)

/-! Context commands (26 R329). -/

/-- A command word as the register reads once it has been accepted (26 R323). -/
def tookCommand (s : State) (ctx : Nat) : State := s.modDev fun d => { d with ctxcmd := BitVec.ofNat 64 (ctx % 1024) }

/-- Switch a context's queues out or in (26 R334). -/
def switchQueues (s : State) (ctx : Nat) (out : Bool) : State :=
  { s with queues := s.queues.map fun q => if q.ctx = ctx then { q with out := out } else q }

/-- Whether a command of a context is still running (26 R329). -/
def commandRuns (x : Ctx) : Bool := x.phase == .vacating || x.phase == .resuming

/-- A vacate request (18 R261): in one step for the whole context. -/
def vacateCtx (s : State) (ctx : Nat) : State :=
  let s := flushTrace (releaseReserved (switchQueues s ctx true) ctx) ctx
  let s := s.modCtx ctx fun x => { x with phase := .vacating, requestTicks := s.ticks, step := none }
  let s := (blocksOf s ctx).foldl (fun s p => match s.ctx? ctx with
    | some x => if p.2.phase = .running ∨ p.2.phase = .loaded then beginMode s x p else s
    | none => s) s
  vacateDone s ctx

/-- Whether a context command is taken: features are committed (26 R324). -/
def commandTaken (s : State) (ctx : Nat) : Bool := s.dev.commit && decide (ctx < 1024)

/-- The event that a command of a context with a refused descriptor ends with (26 R328, R329; log 7). -/
def refusedCommand (s : State) (ctx op : Nat) : State :=
  let x := ctxOfDesc s ctx
  let left := ((s.ctx? ctx).map fun y => y.saved.length).getD 0
  if ringAllowed s x then postTo s x.evring (some x) .context 0xFFFF op left noSource
  else match s.pfRing with
    | none => s
    | some e => postTo s e none .context 0xFFFF op left noSource

/-- CTXCMD_VACATE (18 R261, 26 R329): a context whose descriptor is refused has nothing to vacate. -/
def execCtxcmdVacate (ctx : Nat) (s : State) : Host.Outcome State Fault Refusal :=
  .next (
    if !commandTaken s ctx then s
    else match ctxForWork s ctx with
      | (none, t) => refusedCommand (tookCommand t ctx) ctx 1
      | (some x, t) => if commandRuns x then s else vacateCtx (tookCommand t ctx) ctx)

/-- Read the images of saved blocks on the cores that take them: whether none waits for an answer (26 R329, 05 R78). An image that cannot be
read at all is lost. -/
def readImages (ctx : Nat) : State → List (SavedBlock × Nat) → Bool × State
  | s, [] => (true, s)
  | s, (b, c) :: r =>
    match s.ctx? ctx with
    | none => (true, s)
    | some x =>
      if b.lost || b.failed then readImages ctx s r
      else match agentImage s x c b with
        | .ok _ _ t => readImages ctx t r
        | .held t => (false, t)
        | .lost t => readImages ctx (t.modCtx ctx fun x => { x with saved := x.saved.map fun q => if q = b then { q with lost := true } else q }) r

/-- Whether the read of an image of a context waits for an answer. -/
def imageWaits (x : Ctx) : Bool :=
  (x.faults.map (fun f => f.owner) ++ x.faultWait.map fun f => f.owner).any fun o => match o with | .resume _ _ => true | _ => false

/-- The saved blocks that a resume's placements name, by their place among the context's saved blocks. -/
def namedBlocks (x : Ctx) (ps : List (Nat × Nat × Placement)) : List (SavedBlock × Nat × Placement) :=
  ps.filterMap fun p => (x.saved[p.1]?).map fun b => (b, p.2.1, p.2.2)

/-- The images that could not be read are tried again by the next command. -/
def forgetLost (s : State) (ctx : Nat) : State := s.modCtx ctx fun x => { x with saved := x.saved.map fun b => { b with lost := false } }

/-- The end of a resume (26 R329, 18 R263): what is left out stays vacated. -/
def resumeDone (s : State) (ctx : Nat) : State :=
  match s.ctx? ctx with
  | none => s
  | some x =>
    let s := switchQueues (postEvent s ctx .context 0xFFFF 2 x.saved.length noSource) ctx false
    (forgetLost s ctx).modCtx ctx fun x => { x with phase := .idle }

/-- The agents of a resume restore blocks, once no read of an image waits for an answer (20 R277, R278). -/
def resumeCtx (s : State) (ctx : Nat) (x : Ctx) (ps : List (Nat × Nat × Placement)) : State :=
  match readImages ctx s ((namedBlocks x ps).map fun p => (p.1, p.2.1)) with
  | (false, t) => t
  | (true, t) =>
    let named := namedBlocks ((t.ctx? ctx).getD x) ps
    resumeDone (restoreEach ctx named t named) ctx

/-- CTXCMD_RESUME (26 R329, 18 R263, 20 R277, R278): the agents restore the saved blocks on the cores and with the rows and scratchpad
they choose; while the read of an image waits for an answer, so does the command. -/
def execCtxcmdResume (ctx : Nat) (ps : List (Nat × Nat × Placement)) (s : State) : Host.Outcome State Fault Refusal :=
  .next (
    if !commandTaken s ctx then s
    else match s.ctx? ctx with
      | some x =>
        if x.phase = .vacating then s
        else if x.phase = .resuming then (if imageWaits x then s else resumeCtx s ctx x ps)
        else match ctxForWork s ctx with
          | (none, t) => refusedCommand (tookCommand t ctx) ctx 2
          | (some x, t) => resumeCtx ((tookCommand t ctx).modCtx ctx fun x => { x with phase := .resuming }) ctx x ps
      | none => match ctxForWork s ctx with
        | (none, t) => refusedCommand (tookCommand t ctx) ctx 2
        | (some _, t) => resumeDone (tookCommand t ctx) ctx)

/-- A block is abandoned as under flush, and no image is written (26 R329). -/
def endBlock (s : State) (c : Nat) (k : Block) : State :=
  let s := endSaveOp (abandonBlock (settleTrace s) c k) k 0 (modeCode .flush)
  dropBlock (retireTaken (releaseEnds s c k.id) k) c k.id

/-- The words that are left of a COPY's piece move (26 R337). -/
def finishPiece (q : Nat) (path : List Nat) : Nat → State → State
  | 0, s => s
  | n + 1, s =>
    match s.queue? q with
    | none => s
    | some y =>
      match y.started.findIdx? fun k => k.path == path && !k.units.isEmpty && !k.failed with
      | none => s
      | some i => finishPiece q path n (packetStep q i s)

/-- The pieces in flight of a context's COPY packets end, as a switch-out waits for them (26 R334, R337). -/
def finishPieces (s : State) (ctx : Nat) : State :=
  (s.queues.flatMap fun q => if q.ctx = ctx then q.started.map fun k => (q.id, k.path, k.units.length) else []).foldl
    (fun s p => finishPiece p.1 p.2.1 p.2.2 s) s

/-- The end of a context: its blocks are abandoned, and its queues stop (26 R329), a piece of a COPY that is in flight first (R337). -/
def endCtx (s : State) (ctx : Nat) : State :=
  let s := finishPieces s ctx
  let mine := s.cores.flatMap fun y => (y.blocks.filter fun k => k.ctx == ctx).map fun k => (y.index, k)
  let s := mine.foldl (fun s p => endBlock s p.1 p.2) s
  let s := (s.queuesOf ctx).foldl (fun s q => s.poke (s.queueDesc q + 0x0B) (bytesOf 1 0)) s
  { s with queues := s.queues.filter fun q => q.ctx != ctx, launches := s.launches.filter fun l => l.ctx != ctx }

/-- What is kept with a context that has been ended. -/
def forgetCtx (s : State) (ctx : Nat) : State := s.modCtx ctx fun x =>
  { x with phase := .ended, saved := [], faults := [], faultWait := [], halted := false, step := none, stopping := [],
           attached := false, resizing := false, priority := [], started := false }

/-- CTXCMD_END (26 R329): also for a context whose vacate cannot finish (20 R274), or whose descriptor is refused. -/
def execCtxcmdEnd (ctx : Nat) (s : State) : Host.Outcome State Fault Refusal :=
  .next (
    if !commandTaken s ctx then s
    else match ctxForWork s ctx with
      | (none, t) => forgetCtx (refusedCommand (endCtx (tookCommand t ctx) ctx) ctx 3) ctx
      | (some x, t) =>
        let stuck := s.cores.any fun y => y.blocks.any fun k => k.ctx == ctx && k.phase == .stuck
        if commandRuns x && !stuck then s
        else forgetCtx (postEvent (endCtx (tookCommand t ctx) ctx) ctx .context 0xFFFF 3 0 noSource) ctx)

/-! Partition commands (26 R326, R327, 20 R279). -/

/-- A partition descriptor read from the table; none if a reserved bit is set (26 R326). Of descriptor 64 only POLICY is read. -/
def partitionOf (s : State) (func : Nat) : Option Partition :=
  let d := s.dev.partbase.toNat + 128 * func
  let policy := s.num (d + 0x48) 1
  if policy / 4 ≠ 0 ∨ (func ≠ 64 ∧ s.num (d + 0x49) 55 ≠ 0) then none
  else some ⟨func, BitVec.ofNat 64 (s.num d 8), BitVec.ofNat 512 (s.num (d + 8) 64), bit policy 0, bit policy 1⟩

/-- Whether a descriptor names what another valid virtual function's partition holds (26 R327). -/
def partitionClash (s : State) (p : Partition) : Bool :=
  p.valid && p.func != 64 && s.dev.partitions.any fun q => q.valid && q.func != p.func
    && ((q.clusters &&& p.clusters) != 0 || (q.hbm &&& p.hbm) != 0)

/-- A partition takes its descriptor (26 R327). -/
def takePartition (s : State) (p : Partition) : State := s.modDev fun d =>
  if p.func = 64 then { d with pfCap := p.cap }
  else { d with partitions := (d.partitions.filter fun q => q.func != p.func) ++ (if p.valid then [p] else []) }

/-- A PARTCMD ends with a PARTITION event (26 R327). -/
def partitionEvent (s : State) (code func : Nat) : State := postPf s .partition code func noSource

/-- The contexts with a block on a cluster that their partition does not hold (26 R327). -/
def displaced (s : State) : List Nat :=
  (s.ctxs.filter fun x => (s.cores.any fun y => (y.blocks.any fun k => k.ctx == x.id && k.phase != .loading)
    && !s.holdsCluster x.func (Config.clusterIndex (Config.dieOf y.index) (Config.clusterOf y.index)))).map fun x => x.id

/-- The lowest 256-byte aligned range of a core's scratchpad that no block holds. -/
def freeBase (y : Core) (n : Nat) : Nat :=
  256 * ((List.range (Config.scratchBytes y.index / 256)).find? fun u =>
    y.blocks.all fun k => !rangesMeet (256 * u) n k.spbase k.rec_.scratch).getD 0

/-- The placement an agent takes on a core when a partition command restores blocks (log 50). -/
def autoPlace (s : State) (c : Nat) (r : Launch) : Placement := ⟨2 ^ 64 - 1, freeBase (s.core c) r.scratch⟩

/-- The cores of a die. -/
def coresOfDie (d : Nat) : List Nat := (List.range Config.cores).filter fun c => Config.dieOf c == d

/-- Restore blocks together on the remaining cores of their dies: the first cores that take them all (20 R279). -/
def restoreSomewhere (ctx : Nat) : State → List SavedBlock → Option State
  | s, [] => some s
  | s, b :: r => (coresOfDie (Config.dieOf b.core)).findSome? fun c =>
      (restoreOne s ctx b c (autoPlace s c b.rec_)).bind fun t => restoreSomewhere ctx t r

/-- Restore a block, or with its first block an instance that must come back whole (20 R278, R279). -/
def restoreAuto (s : State) (ctx : Nat) (all : List SavedBlock) (b : SavedBlock) : Option State :=
  match b.whole with
  | none => restoreSomewhere ctx s [b]
  | some u =>
    let members := all.filter fun q => q.whole == some u
    if members.head? = some b then restoreSomewhere ctx s members else none

/-- Restore the blocks of a context that a partition command has vacated: an event names each that finds no place (20 R279). Whether none of
its images waits for an answer. -/
def restoreCtx (s : State) (ctx : Nat) : Bool × State :=
  match ctxForWork s ctx with
  | (none, t) =>
    let left := (((t.ctx? ctx).map fun y => y.saved).getD []).filter fun b => !b.failed
    (true, (left.foldl (fun s b => postEvent s ctx .clusterUnplaced 0xFFFF 0 b.blockIndex noSource) t).modCtx ctx fun x => { x with resizing := false })
  | (some x, t) =>
    if imageWaits x then (false, t)
    else match readImages ctx t (x.saved.map fun b => (b, b.core)) with
      | (false, u) => (false, u)
      | (true, u) =>
        let saved := ((u.ctx? ctx).map fun y => y.saved).getD []
        let u := saved.foldl (fun s b => (restoreAuto s ctx saved b).getD s) u
        let left := (((u.ctx? ctx).map fun y => y.saved).getD []).filter fun b => !b.failed
        let u := left.foldl (fun s b => postEvent s ctx .clusterUnplaced 0xFFFF 0 b.blockIndex noSource) u
        (true, switchQueues ((forgetLost u ctx).modCtx ctx fun x => { x with phase := .idle, resizing := false }) ctx false)

/-- Restore the contexts that a partition command has vacated, in turn: whether all have been. -/
def restoreCtxs : List Nat → State → Bool × State
  | [], s => (true, s)
  | c :: r, s => match restoreCtx s c with
    | (true, t) => restoreCtxs r t
    | (false, t) => (false, t)

/-- The end of a PARTCMD: what was vacated for it is restored, and the translations of the contexts whose share changed are removed
(26 R327). -/
def partitionDone (s : State) (p : Partition) : State :=
  match restoreCtxs ((s.ctxs.filter fun x => x.resizing).map fun x => x.id) s with
  | (false, t) => t
  | (true, t) =>
    let t := { t with cache := t.cache.filter fun e => !((t.ctx? e.ctx).any fun (x : Ctx) => x.func == p.func || x.func == 64) }
    partitionEvent (t.modDev fun d => { d with partRun := none }) 0 p.func

/-- A partition command under way: contexts that have lost a cluster under their blocks are vacated, one under a command once that has ended
(20 R279, 26 R329); then the command ends. -/
def partitionGoes (s : State) (p : Partition) : State :=
  let s := (displaced s).foldl (fun s c => match s.ctx? c with
    | some x => if commandRuns x || x.resizing then s else vacateCtx (s.modCtx c fun x => { x with resizing := true }) c
    | none => s) s
  if (s.ctxs.any fun x => x.resizing && x.phase == .vacating) || (displaced s).any (fun c => (s.ctx? c).any fun x => !x.resizing) then s
  else partitionDone s p

/-- PARTCMD_APPLY (26 R327, 20 R279): a command takes effect, vacates the contexts that lose a cluster under their blocks, and ends once
they have been vacated and restored; the event is named again to let a running command go on. -/
def execPartcmdApply (func : Nat) (s : State) : Host.Outcome State Fault Refusal :=
  .next (match s.dev.partRun with
  | some p => partitionGoes s p
  | none =>
    let s := s.modDev fun d => { d with partcmd := BitVec.ofNat 64 (func % 128) }
    if 64 < func then partitionEvent s 1 func
    else match partitionOf s func with
      | none => partitionEvent s 1 func
      | some p =>
        if partitionClash s p then partitionEvent s 1 func
        else partitionGoes ((takePartition s p).modDev fun d => { d with partRun := some p }) p)

/-! Debug commands (29 R368 to R371). Each is a write of DBGCMD whose OP names it. -/

/-- The context that a write of DBGCMD names (29 R368). -/
def dbgCtx (v : DWord) : Nat := bits v.toNat 0 10

/-- A debug command: the write sets the register's RW fields, and the command acts on its context if that is valid and no context command of
it runs (00 R8, 29 R368). -/
def debugCommand (s : State) (v : DWord) (go : State → Ctx → State) : State :=
  let s := s.modDev fun d => { d with dbgcmd := dbgFields v.toNat }
  match s.ctx? (dbgCtx v) with
  | some x => if x.valid && !commandRuns x && x.phase != .ended then go s x else s
  | none =>
    let x := ctxOfDesc s (dbgCtx v)
    if descOk s x then go { s with ctxs := s.ctxs ++ [x] } x else s

/-- A debug command that changes its context. -/
def debugChange (v : DWord) (f : Ctx → Ctx) (s : State) : Host.Outcome State Fault Refusal :=
  .next (debugCommand s v fun t x => t.modCtx x.id f)

/-- DBGCMD_HALT (29 R369): the halt takes effect at the end of the cycle; it cancels a pending step. -/
def execDbgcmdHalt (v : BitVec 64) (s : State) : Host.Outcome State Fault Refusal :=
  debugChange v (fun x => if x.halted then { x with step := none } else x.halts) s

/-- DBGCMD_RESUME (29 R371). -/
def execDbgcmdResume (v : BitVec 64) (s : State) : Host.Outcome State Fault Refusal :=
  debugChange v (fun x => { x with halted := false, step := none }) s

/-- The core, slot and split that DBGCMD's fields name for a step, if they name a core of the package (29 R368). -/
def stepNamed (v : DWord) : Option (Nat × Nat × Nat) :=
  let f := bits v.toNat
  let c := Config.coreIndex (f 16 4) (f 20 4) (f 24 4)
  if Config.dieOf c == f 16 4 && Config.clusterOf c == f 20 4 && Config.coreOf c == f 24 4 then some (c, f 28 5, f 33 2) else none

/-- The split in use that a step of a context names (29 R371). -/
def stepSplit (s : State) (x : Ctx) (v : DWord) : Option (Nat × Nat × Nat) :=
  (stepNamed v).filter fun p => (s.group? p.1 p.2.1).any fun g => g.ctx == x.id && (g.split? p.2.2).isSome

/-- A write of DBGCMD with OP 3 by its fields: CTX, then DIE, CLUSTER and CORE as one number of 12 bits, SLOT and SPLIT (29 R368). -/
def stepWord (ctx core slot split : Nat) : DWord :=
  BitVec.ofNat 64 (ctx % 2 ^ 10 + 3 * 2 ^ 10 + core % 2 ^ 12 * 2 ^ 16 + slot % 2 ^ 5 * 2 ^ 28 + split % 4 * 2 ^ 33)

/-- A debug command that steps a split; one that names no split in use only posts its event, for which the manual states no DETAIL (29
R371). -/
def debugStep (v : DWord) (s : State) : State :=
  debugCommand s v fun t x =>
    if !x.halted then t
    else match stepSplit t x v with
      | some p => t.modCtx x.id fun x => { x with step := some p }
      | none => postEvent { t with free := t.free + 1 } x.id .debugStop 0xFFFF 3 (Config.freeNat t.free) noSource

/-- DBGCMD_STEP (29 R371). -/
def execDbgcmdStep (ctx core slot split : Nat) (s : State) : Host.Outcome State Fault Refusal :=
  .next (debugStep (stepWord ctx core slot split) s)

/-- DBGCMD_ATTACH (29 R368). -/
def execDbgcmdAttach (v : BitVec 64) (s : State) : Host.Outcome State Fault Refusal := debugChange v (fun x => { x with attached := true }) s

/-- DBGCMD_DETACH (29 R368). -/
def execDbgcmdDetach (v : BitVec 64) (s : State) : Host.Outcome State Fault Refusal := debugChange v (fun x => { x with attached := false }) s

end Sys2Proof.Machine
end

