-- ==== Sys2Proof/Machine/Tce.lean ====
section
/-! DEFINITION. The tensor copy engine: layout records, TCOPY and TCOPYQ, and the accesses and landings of their copies
(07_numbers R90 to R92, R95 to R98, 16_matrix_copy R238 to R247). -/

namespace Sys2Proof

/-! Layout records (16 R239, R240). -/

/-- The format a FORMAT code names (16 R239); an nq4 element is read as its byte. -/
def Machine.Layout.fmt (l : Machine.Layout) : NumFmt :=
  match l.format with
  | 0 => .f64 | 1 => .f32 | 2 => .f16 | 3 => .bf16 | 4 => .e4m3 | 5 => .e5m2 | 6 => .z 8 | 7 => .s 8 | 8 => .z 8 | 9 => .s 16
  | 10 => .z 16 | 11 => .s 32 | 12 => .z 32 | 13 => .s 64 | _ => .z 64

/-- The bytes of an element; of a byte of codes for nq4. -/
def Machine.Layout.size (l : Machine.Layout) : Nat := Machine.fmtBytes l.fmt

/-- Whether the tensor is nq4. -/
def Machine.Layout.nq4 (l : Machine.Layout) : Bool := l.format == 6
/-- FLAGS.DIR: a store from the scratchpad. -/
def Machine.Layout.store (l : Machine.Layout) : Bool := Machine.bit l.flags 0
/-- FLAGS.CREDIT. -/
def Machine.Layout.credit (l : Machine.Layout) : Bool := Machine.bit l.flags 1
/-- FLAGS.DITHER. -/
def Machine.Layout.dither (l : Machine.Layout) : Bool := Machine.bit l.flags 2

/-- The box dimensions in use. -/
def Machine.Layout.box (l : Machine.Layout) : List Nat := l.boxes.take l.ndims

/-- BOX0. -/
def Machine.Layout.box0 (l : Machine.Layout) : Nat := l.boxes.getD 0 1

/-- The product of a list. -/
def Machine.product : List Nat → Nat
  | [] => 1
  | a :: r => a * product r

/-- R: the rows or records of a box (16 R242). -/
def Machine.Layout.rows (l : Machine.Layout) : Nat := Machine.product (l.box.drop 1)

/-- Ku of the element format (07 R92); codes count two a byte. -/
def Machine.Layout.perUnit (l : Machine.Layout) : Nat := 96 / l.size

/-- U: the row units of an A-row (16 R242). -/
def Machine.Layout.rowUnits (l : Machine.Layout) : Nat := (l.box0 + l.perUnit - 1) / l.perUnit

/-- The units of a copy: an element each, or a byte of two codes. -/
def Machine.Layout.units (l : Machine.Layout) : Nat := l.box0 * l.rows / (if l.nq4 then 2 else 1)

/-- The units of a row or record. -/
def Machine.Layout.rowLen (l : Machine.Layout) : Nat := l.box0 / (if l.nq4 then 2 else 1)

/-- The scratchpad bytes of one unit: f32 for TCOPYQ (16 R242). -/
def Machine.Layout.cell (l : Machine.Layout) (quant : Bool) : Nat := if quant then 4 else l.size

/-- The offset of unit `u` from DST (16 R242). -/
def Machine.Layout.offset (l : Machine.Layout) (quant : Bool) (u : Nat) : Nat :=
  let row := u / l.rowLen
  let i := u % l.rowLen
  match l.kind with
  | 0 => l.cell quant * u
  | 1 => 128 * l.rowUnits * row + 128 * (i / l.perUnit) + i % l.perUnit * l.size
  | _ => 128 * row + i * l.size

/-- The scratchpad bytes of a copy (16 R242). -/
def Machine.Layout.span (l : Machine.Layout) (quant : Bool) : Nat :=
  match l.kind with
  | 0 => l.cell quant * l.units
  | 1 => 128 * l.rowUnits * l.rows
  | _ => 128 * l.rows

end Sys2Proof

namespace Sys2Proof.Machine

/-- A layout record read from its 128 bytes (16 R239). -/
def layoutOf (bs : List Byte) : Layout :=
  let f := fieldOf bs
  { base := f 0 8, format := f 8 1, kind := f 9 1, ndims := f 0x0A 1, flags := f 0x0B 1,
    extents := (List.range 5).map fun d => f (0x10 + 4 * d) 4, strides := (List.range 4).map fun d => f (0x24 + 4 * d) 4,
    boxes := (List.range 5).map fun d => f (0x34 + 2 * d) 2, phaseBase := f 0x3E 2, bscale := f 0x40 8, sscale := f 0x48 8,
    dst := f 0x50 4, barrier := f 0x54 4, zerosOk := f 0x0C 4 == 0 && (bs.drop 0x58).all (· == 0) }

/-- The conditions on the dimensions (16 R240). -/
def dimensionsOk (l : Layout) : Bool :=
  1 ≤ l.ndims && l.ndims ≤ 5 && (List.range 5).all fun d =>
    let e := l.extents.getD d 0
    let b := l.boxes.getD d 0
    if d < l.ndims then 1 ≤ e && 1 ≤ b else e == 0 && b == 0 && l.strides.getD (d - 1) 0 == 0

/-- The conditions on an nq4 tensor, or on the scale fields of another (16 R240). -/
def scalesOk (l : Layout) : Bool :=
  if l.nq4 then !l.store && l.extents.getD 0 0 % 64 == 0 && l.strides.all (· % 2 == 0) && l.bscale % 2 == 0 && l.sscale % 4 == 0
    && l.bscale != 0 && l.sscale != 0
  else l.bscale == 0 && l.sscale == 0

/-- The conditions on the canonical kinds and on the raw kind (16 R240). -/
def kindOk (l : Layout) : Bool :=
  let plain := l.format ≤ 5 || l.format == 7
  match l.kind with
  | 0 => l.dst % 16 == 0 && (!l.nq4 || l.box0 % 2 == 0)
  | 1 => !l.store && plain && l.dst % 128 == 0
    && l.box0 ≤ (if l.format == 2 || l.format == 3 || l.format == 4 then 192 else l.perUnit)
  | _ => !l.store && l.dst % 128 == 0
    && (if l.nq4 then l.box0 % 64 == 0 && l.box0 ≤ 192 else plain && l.box0 ≤ l.perUnit)

/-- The conditions on the rounding fields (16 R240). -/
def roundingOk (l : Layout) (quant : Bool) : Bool :=
  if quant then l.store && l.kind == 0 && ([1, 2, 3, 4, 5, 7, 11].contains l.format) && bits l.phaseBase 6 10 == 0
  else bits l.flags 2 4 == 0 && l.phaseBase == 0

/-- Whether a local scratchpad range lies in an allocation (16 R240, 05 R63). -/
def inAlloc (size a n : Nat) : Bool := bits a 19 13 == 0 && a + n ≤ size

/-- Whether the record names an object it can credit (16 R240). -/
def barrierOk (l : Layout) (size : Nat) : Bool :=
  if l.credit then l.barrier % 16 == 0 && inAlloc size l.barrier 16 else l.barrier == 0

/-- Whether a layout record is valid for an allocation of a size, with the features accepted (16 R240, 26 R324). -/
def layoutOk (s : State) (l : Layout) (quant : Bool) (size : Nat) : Bool :=
  l.format ≤ 14 && l.kind ≤ 2 && l.zerosOk && bits l.flags 6 2 == 0 && dimensionsOk l && l.base < 2 ^ 57 && l.base % l.size == 0
    && scalesOk l && kindOk l && roundingOk l quant && inAlloc size l.dst (l.span quant) && barrierOk l size
    && (!l.nq4 || s.feature 2) && (!l.dither || s.feature 9)

/-! The elements of a box (16 R241). -/

/-- The coordinates within a box of box index `b`, dimension 0 first (16 R241). -/
def boxCoords : List Nat → Nat → List Nat
  | [], _ => []
  | n :: r, b => b % n :: boxCoords r (b / n)

/-- The tensor coordinates of a box element (16 R241). -/
def coordsOf (c : Copy) (l : Layout) (b : Nat) : List Int := (List.zip c.origin (boxCoords l.box b)).map fun p => p.1 + (p.2 : Int)

/-- Whether coordinates are in bounds (16 R241). -/
def inBounds (l : Layout) (cs : List Int) : Bool := (List.zip cs l.extents).all fun p => decide (0 ≤ p.1 ∧ p.1 < (p.2 : Int))

/-- The element offset of coordinates in storage (16 R241). -/
def storageIndex (l : Layout) (cs : List Int) : Nat :=
  (List.zip cs (1 :: l.strides)).foldl (fun a p => a + p.1.toNat * p.2) 0

/-- The linear index of coordinates over the extents (07 R91). -/
def linearIndex (l : Layout) (cs : List Int) : Nat :=
  (List.zip cs l.extents).foldr (fun p a => p.1.toNat + p.2 * a) 0

/-- The address of an element, of the byte of its code for nq4 (16 R241). -/
def elementVa (l : Layout) (cs : List Int) : Nat :=
  if l.nq4 then l.base + storageIndex l cs / 2 else l.base + l.size * storageIndex l cs

/-- The in-bounds positions of a box along one dimension. -/
def inBoundsAlong (o : Int) (box extent : Nat) : Nat :=
  (min (o + (box : Int)) (extent : Int) - max o 0).toNat

/-- The bytes a copy moves when it does not stop (16 R243). -/
def bytesToMove (c : Copy) (l : Layout) : Nat :=
  if l.store then
    l.size * product ((List.zip c.origin (List.zip l.box l.extents)).map fun p => inBoundsAlong p.1 p.2.1 p.2.2)
  else l.span c.quant

/-! The issue of a copy (16 R243, R247). -/

/-- TCOPY or TCOPYQ (16 R247). -/
def tcopyIssue (s : State) (i : Instr) (k d a : Nat) (quant : Bool) : Host.Outcome State Fault Refusal :=
  laneIssue s i ((List.range 6).map (d + ·) ++ [a, a + 1]) (fun w => srcK false w.sp.mask k ++ ([a, a + 1] ++ (List.range 6).map (d + ·)).map fun v =>
      srcV v (let m := activeOf s w k; if m = 0 then 0 else oneLane (lowestLane m))) fun w =>
    let m := activeOf s w k
    if m = 0 then done (s.modMine w fun g => g.join .gc |>.complete .gc (g.openBatch .gc)) w
    else
      let l := lowestLane m
      let va := lanePair s w a l
      let declared := laneV s w d l
      let lane := oneLane l
      if highVa va then trapHere s w .accessViolation (BitVec.ofNat 64 va) lane
      else if va % 128 ≠ 0 then trapHere s w .misaligned (BitVec.ofNat 64 va) lane
      else if bits declared.toNat 25 7 ≠ 0 then trapHere s w .layoutInvalid (declared.setWidth 64) lane
      else
        let cls := (if quant then 2 else 0) + bits declared.toNat 24 1
        let c := chargeUnits s cls (bits declared.toNat 0 24)
        let copy : Copy :=
          { quant := quant, lane := l, vd := d, recVa := va, declared := declared,
            origin := (List.range 5).map fun j => (laneV s w (d + 1 + j) l).toInt, phase := w.g.dphase.toNat, layout := none,
            next := 0, ahead := [], buffer := [], moved := 0, code := none, codeAt := 0, ends := none, trying := 0, bad := 0,
            places := [], owed := none, word := wordOf i }
        charged s w cls c (afterFences s w
          (let t := (forkOp s w .gc cls c (.copy copy)).2
          let t := if quant then t.modMine w fun g => { g with dphase := g.dphase + 1 } else t
          done t w))

/-- TCOPY (16 R247). -/
def execTcopy (k : KReg) (d a : VReg) (s : State) : Host.Outcome State Fault Refusal := tcopyIssue s (.tcopy k d a) k d a false
/-- TCOPYQ (16 R247). -/
def execTcopyq (k : KReg) (d a : VReg) (s : State) : Host.Outcome State Fault Refusal := tcopyIssue s (.tcopyq k d a) k d a true

/-! The accesses of a copy (16 R238, R242 to R246). The units of a copy are accessed in any order (13 R201). -/

/-- A copy stops at a unit with a status (16 R243, R244). -/
def Copy.stop (c : Copy) (u code : Nat) (bad : DWord) : Copy := { c.meets u code bad with ends := some (min u (c.ends.getD u)) }

/-- A poisoned byte met at a unit: status 0x06, with its address (16 R244, R246). -/
def Copy.poison (c : Copy) (u va : Nat) (bs : List (Byte × Bool)) : Copy :=
  match (List.range bs.length).find? fun i => (bs[i]?.map Prod.snd).getD false with
  | none => c
  | some i => c.meets u 6 (BitVec.ofNat 64 (va + i))

/-- The unit at which a copy ends. -/
def Copy.limit (c : Copy) (l : Layout) : Nat := min (c.ends.getD l.units) l.units

/-- The unit that access `n` of a copy makes: the `n`-th of those not yet accessed. -/
def Copy.unit (c : Copy) (n : Nat) : Nat :=
  (((List.range (n + c.ahead.length + 1)).map (c.next + ·)).filter fun u => !c.ahead.contains u).getD n c.next

/-- A unit has been accessed. -/
def Copy.took (c : Copy) (u : Nat) : Copy :=
  let all := u :: c.ahead
  let next := (((List.range (all.length + 1)).map (c.next + ·)).find? fun v => !all.contains v).getD c.next
  { c with next := next, ahead := all.filter fun v => next < v }

/-- In reduced service, a TCOPY of an 8-bit or nq4 format with KIND 1 or 2 traps (31 R383). -/
def reducedRefuses (s : State) (l : Layout) (quant : Bool) : Bool :=
  s.dev.service != .full && !quant && (l.kind == 1 || l.kind == 2) && (l.format == 4 || l.format == 5 || l.format == 6 || l.format == 7 || l.format == 8)

/-- The copy starts: it reads its layout record (16 R238), and codes 0x01 and 0x03 are decided, as 0x04 is where the record lies on an attic
page (16 R244). -/
def startCopy (s : State) (o : Op) (x : Ctx) (c : Copy) : State :=
  match partSpans s o x c.lane (oneLane c.lane) 5 .load c.recVa 128 with
  | .held t => t.setOpKind o.id (.copy { c with trying := 0 })
  | .lost va t => t.setOpKind o.id (.copy (c.stop 0 7 (BitVec.ofNat 64 va)))
  | .ok ps t =>
    if !c.declared.getLsbD 24 && ps.any fun p => p.1.attic then t.setOpKind o.id (.copy (c.stop 0 4 0))
    else
      let r := sealSpans x.id t ps
      let t := r.2
      let bs := opBytes t o x r.1
      let l := layoutOf (bs.map Prod.fst)
      let c := { c.poison 0 c.recVa bs with layout := some l }
      let size := (allocOf t o.core o.block).2
      t.setOpKind o.id (.copy (
        if reducedRefuses t l c.quant then c.stop 0 8 c.word
        else if !layoutOk t l c.quant size then c.stop 0 1 (BitVec.ofNat 64 c.recVa)
        else if bits c.declared.toNat 0 24 < (bytesToMove c l + 15) / 16 then c.stop 0 3 0
        else c))

/-- One read of a load: bytes with their poison, or how the copy goes on without them. -/
inductive CopyRead where
  | bytes (bs : List (Byte × Bool)) (s : State)
  | ends (s : State) (code : Nat) (bad : DWord)
  | held (s : State)

/-- Read global bytes for a copy; an attic page without ATTIC stops it (16 R244). -/
def copyRead (s : State) (o : Op) (x : Ctx) (c : Copy) (va n : Nat) : CopyRead :=
  match partSpans s o x c.lane (oneLane c.lane) 5 .load va n with
  | .held t => .held t
  | .lost a t => .ends t 7 (BitVec.ofNat 64 a)
  | .ok ps t =>
    if !c.declared.getLsbD 24 && ps.any fun p => p.1.attic then .ends t 4 0
    else
      let r := sealSpans x.id t ps
      .bytes (opBytes r.2 o x r.1) r.2

/-- The canonical block scale: RoundTo(f32, (s + 1) ÷ 1024 × S, RNE) (07 R91). -/
def blockScale (sb10 super : Nat) : Nat :=
  (encodeTo .f32 .rne false (mulVal (exactInt ((sb10 : Int) + 1) (-10)) (unpack .f32 super)).1).1

/-- The record block of a record whose scale comes from the storage block that code `i` of the record begins there, as its
number and the coordinates of its first code (07 R91, R92, 16 R242). -/
def scaleDue (l : Layout) (cs : List Int) (i : Nat) : Option (Nat × List Int) :=
  match cs with
  | [] => none
  | c0 :: rest =>
    if i ≠ 0 ∧ c0 % 64 ≠ 0 then none
    else (List.range 3).findSome? fun k =>
      let first := c0 + (64 * k : Nat) - (i : Nat)
      if 64 * k < l.box0 ∧ i ≤ 64 * k ∧ first / 64 = c0 / 64 then some (k, first :: rest) else none

/-- Read the scale of a record block at a unit: the copy fails with 0x02 where bits [15:10] of the container are not zero (07 R91). -/
def readScale (s : State) (o : Op) (x : Ctx) (c : Copy) (l : Layout) (u : Nat) (cs : List Int) : CopyRead × Copy :=
  let j := linearIndex l cs / 64
  let va := l.bscale + 2 * j
  let vs := l.sscale + 4 * (j / 256)
  match copyRead s o x c va 2 with
  | .bytes bs t =>
    let c := c.poison u va bs
    let v := numOf (bs.map Prod.fst)
    if 1024 ≤ v then (.ends t 2 0, c)
    else match copyRead t o x c vs 4 with
      | .bytes ss t =>
        let bad := (bs ++ ss).any Prod.snd
        (.bytes ((bytesOf 4 (blockScale v (numOf (ss.map Prod.fst)))).map fun b => (b, bad)) t, c.poison u vs ss)
      | other => (other, c)
  | other => (other, c)

/-- One code of an nq4 load: its scale first where one is due (16 R242). The code comes in the low bits of the byte. -/
def loadCode (s : State) (o : Op) (x : Ctx) (c : Copy) (l : Layout) (b : Nat) : CopyRead × Copy :=
  let cs := coordsOf c l b
  let u := b / 2
  if !inBounds l cs then (.bytes [(7, false)] s, c)
  else
    let go (s : State) (c : Copy) : CopyRead × Copy :=
      match copyRead s o x c (elementVa l cs) 1 with
      | .bytes bs t =>
        (.bytes (bs.map fun p => (BitVec.ofNat 8 (bits p.1.toNat (4 * (storageIndex l cs % 2)) 4), p.2)) t, c.poison u (elementVa l cs) bs)
      | other => (other, c)
    match if l.kind = 2 then scaleDue l cs (b % l.box0) else none with
    | none => go s c
    | some (k, first) =>
      match readScale s o x c l u first with
      | (.bytes bs t, c) =>
        let at_ := 128 * (b / l.box0) + 96 + 4 * k
        go t { c with buffer := c.buffer ++ (List.range 4).map fun i => (at_ + i, (bs[i]?.getD (0, false))) }
      | other => other

/-- The bytes of a unit of a load (16 R241, R242). -/
def loadUnit (s : State) (o : Op) (x : Ctx) (c : Copy) (l : Layout) (u : Nat) : CopyRead × Copy :=
  if l.nq4 then
    match loadCode s o x c l (2 * u) with
    | (.bytes lo t, c) =>
      match loadCode t o x c l (2 * u + 1) with
      | (.bytes hi t, c) =>
        let a := lo.head?.getD (7, false)
        let b := hi.head?.getD (7, false)
        (.bytes [(BitVec.ofNat 8 (a.1.toNat + 16 * b.1.toNat), a.2 || b.2)] t, c)
      | other => other
    | other => other
  else
    let cs := coordsOf c l u
    if !inBounds l cs then (.bytes (List.replicate l.size (0, false)) s, c)
    else
      let va := elementVa l cs
      match copyRead s o x c va l.size with
      | .bytes bs t => (.bytes bs t, c.poison u va bs)
      | other => (other, c)

/-- The element a store writes: raw bytes, or for TCOPYQ the f32 narrowed (16 R247). -/
def storeElement (c : Copy) (l : Layout) (u : Nat) (bs : List (Byte × Bool)) : List (Byte × Bool) :=
  if c.quant then
    let mode := if l.dither then 4 else bits l.flags 3 2
    let p := (c.phase + bits l.phaseBase 0 6) % 64
    let v := narrow l.fmt (roundingAt mode (u % 64) p) (bit l.flags 5) ⟨unpack .f32 (numOf (bs.map Prod.fst)), 1⟩
    (bytesOf l.size v).map fun b => (b, bs.any Prod.snd)
  else bs

/-- A unit of a load is read at home; one that stops the copy, or waits, is noted (16 R243, R244). -/
def loadAccess (s : State) (o : Op) (x : Ctx) (c : Copy) (l : Layout) (u : Nat) : State :=
  match loadUnit s o x c l u with
  | (.held t, _) => t.setOpKind o.id (.copy { c with trying := u })
  | (.ends t code bad, d) => t.setOpKind o.id (.copy ({ d with buffer := c.buffer }.stop u code bad))
  | (.bytes bs t, c) =>
    let off := l.offset c.quant u
    t.setOpKind o.id (.copy { c.took u with buffer := c.buffer ++ (List.range bs.length).map fun i => (off + i, bs[i]?.getD (0, false)) })

/-- Translate an element that a store writes, and test its page (16 R244): the copy stops there, or waits. -/
def storePlaces (s : State) (o : Op) (x : Ctx) (c : Copy) (l : Layout) (u : Nat) : Except State (List (Page × Nat) × State) :=
  match partSpans s o x c.lane (oneLane c.lane) 6 .store (elementVa l (coordsOf c l u)) l.size with
  | .held t => .error (t.setOpKind o.id (.copy { c with trying := u }))
  | .lost a t => .error (t.setOpKind o.id (.copy (c.stop u 7 (BitVec.ofNat 64 a))))
  | .ok ps t => if !c.declared.getLsbD 24 && ps.any fun p => p.1.attic then .error (t.setOpKind o.id (.copy (c.stop u 4 0))) else .ok (ps, t)

/-- A unit of a store is read from the scratchpad, and its destination translated and sealed (28 R357); one out of bounds writes nothing. Its
bytes are kept under 16 times the unit. -/
def storeAccess (s : State) (o : Op) (x : Ctx) (c : Copy) (l : Layout) (u : Nat) : State :=
  if !inBounds l (coordsOf c l u) then s.setOpKind o.id (.copy (c.took u))
  else match storePlaces s o x c l u with
    | .error t => t
    | .ok (ps, t) =>
      match sealPages x.id t ps with
      | (false, t) => t.setOpKind o.id (.copy (c.stop u 7 (BitVec.ofNat 64 (elementVa l (coordsOf c l u)))))
      | (true, t) =>
        let off := l.dst + l.offset c.quant u
        let bs := (t.core o.core).markedBytes ((allocOf t o.core o.block).1 + off) (l.cell c.quant)
        let es := storeElement c l u bs
        t.setOpKind o.id (.copy { (c.poison u off bs).took u with
          places := c.places ++ [(u, ps)],
          buffer := c.buffer ++ (List.range es.length).map fun i => (16 * u + i, es[i]?.getD (0, false)) })

/-- Access `n` of a copy (16 R238, R247): its record first, then its units, read at home by a load and from the scratchpad by a store. -/
def copyAccess (s : State) (o : Op) (c : Copy) (n : Nat) : State :=
  match s.ctx? o.ctx with
  | none => s
  | some x =>
    if opWaits s o c.lane then s
    else match c.layout with
      | none => if c.ends.isSome then s else startCopy s o x c
      | some l =>
        let u := c.unit n
        if c.limit l ≤ u then s else if l.store then storeAccess s o x c l u else loadAccess s o x c l u

/-- The scratchpad offset up to which a load may land: that of its first unit not yet accessed, or at which it stops (16 R243). -/
def Copy.landEdge (c : Copy) (l : Layout) : Nat :=
  if c.ends.isNone && l.units ≤ c.next then l.span c.quant else l.offset c.quant (min c.next (c.limit l))

/-- A byte of a load's scratchpad side: what was read, else the padding of R242. -/
def Copy.landByte (c : Copy) (l : Layout) (off : Nat) : Byte × Bool :=
  match c.buffer.find? fun p => p.1 == off with
  | some p => p.2
  | none => (if l.nq4 && off % 128 < 96 then 0x77 else 0, false)

/-- Credit a copy's object for bytes from unit `u` on (16 R245). -/
def creditCopy (s : State) (o : Op) (l : Layout) (u n : Nat) : State :=
  if l.credit && n != 0 then creditBytes s o.core ((allocOf s o.core o.block).1 + l.barrier) n o u l.barrier else s

/-- The first unit at or above an offset of the scratchpad side (16 R242). -/
def Machine.Layout.unitAt (l : Layout) (quant : Bool) (off : Nat) : Nat :=
  let inUnit (b : Nat) : Nat := min l.perUnit ((b + l.size - 1) / l.size)
  match l.kind with
  | 0 => off / l.cell quant
  | 1 =>
    let w := off % (128 * l.rowUnits)
    off / (128 * l.rowUnits) * l.rowLen + min l.rowLen (w / 128 * l.perUnit + inUnit (w % 128))
  | _ => off / 128 * l.rowLen + min l.rowLen (inUnit (off % 128))

/-- A load's bytes land at the scratchpad intake, then credit its object (16 R245, 13 R218). -/
def landLoad (s : State) (o : Op) (c : Copy) (l : Layout) : State :=
  let edge := c.landEdge l
  let n := edge - c.moved
  if n = 0 then s
  else
    let bs := (List.range n).map fun i => c.landByte l (c.moved + i)
    let s := landAt s ⟨o.core, (allocOf s o.core o.block).1 + l.dst + c.moved⟩ bs
    creditCopy (s.setOpKind o.id (.copy { c with moved := edge, buffer := c.buffer.filter fun p => edge ≤ p.1 })) o l
      (Machine.Layout.unitAt l c.quant c.moved) n

/-- The units of a store that may land: those accessed, with every unit before them accessed too, so that none of them stops the copy, and
none before them still to land at an attic node, whose link may fail (16 R243, 28 R356). -/
def Copy.landable (c : Copy) (l : Layout) : List Nat :=
  (c.places.map Prod.fst).filter fun u => u < min c.next (c.limit l)
    && !(c.places.any fun p => decide (p.1 < u) && p.2.any fun q => q.1.attic)

/-- A store's element, one of those that may, lands when its bytes are performed at their home, then credits its object (16 R245): on a
REPL page that is once every member has applied them (05 R83, 13 R218). -/
def landStore (s : State) (o : Op) (x : Ctx) (c : Copy) (l : Layout) : State :=
  let us := c.landable l
  match c.owed with
  | some (u, n) =>
    if replPending s o then s else creditCopy (s.setOpKind o.id (.copy { c with owed := none })) o l u n
  | none =>
    match us[Config.freeNat s.free % us.length]? with
    | none => s
    | some u =>
      let ps := (c.places.filter fun p => p.1 == u).flatMap Prod.snd
      let bs := (c.buffer.filter fun p => p.1 / 16 == u).map Prod.snd
      let repl := ps.any fun p => p.1.repl
      if ps.any fun p => p.1.attic && (cutOff s p.1.pa o.id || !portUp s (atticPort p.1.pa)) then
        s.setOpKind o.id (.copy (c.stop u 7 (BitVec.ofNat 64 (elementVa l (coordsOf c l u)))))
      else
      let t := passViews (engineWrite (.op o.id) x { s with free := s.free + 1 } ps bs) ps
      let t := t.setOpKind o.id (.copy { c with buffer := c.buffer.filter fun p => p.1 / 16 != u,
                                                places := c.places.filter fun p => p.1 != u, moved := c.moved + bs.length,
                                                owed := if repl then some (u, bs.length) else none })
      if repl then t else creditCopy t o l u bs.length

/-- TCE_LANDING (16 R245). -/
def execTceLanding (op : Nat) (s : State) : Host.Outcome State Fault Refusal :=
  .next (match s.op? op with
  | some o =>
    match o.kind, s.ctx? o.ctx with
    | .copy c, some x =>
      match c.layout with
      | some l =>
        if opWaits s o c.lane then s
        else if l.store then landStore s o x c l else landLoad s o c l
      | none => s
    | _, _ => s
  | none => s)

/-- Whether every byte a copy moves has landed. -/
def Copy.landed (c : Copy) (l : Layout) : Bool :=
  c.limit l ≤ c.next && (if l.store then (c.landable l).isEmpty else c.moved == c.landEdge l)

/-- Whether a copy is over: it has stopped without its record, or has moved what it moves. -/
def Copy.over (c : Copy) : Bool := match c.layout with | none => c.ends.isSome | some l => c.landed l

/-- The trap a copy owes at its suspension point (16 R246); code 8 is the model's own, for the refusal of reduced service. -/
def copyTrap (s : State) (o : Op) (c : Copy) : State :=
  let base := (allocOf s o.core o.block).1
  let object := match c.layout with
    | some l => if l.credit then some (o.core * 2 ^ 20 + base + l.barrier) else none
    | none => none
  match c.code with
  | some 1 => oweTrap s o object .layoutInvalid c.bad (oneLane c.lane)
  | some 8 => oweTrap s o object .illegalOp c.bad (oneLane c.lane)
  | some 6 => oweTrap s o object .poison c.bad (oneLane c.lane)
  | some 7 => oweTrap s o object .accessViolation c.bad (oneLane c.lane)
  | _ => s

/-- TCOPY_COMPLETE (16 R244 to R246): every byte has landed and every credit is settled; the status word is written and the
operation completes. -/
def execTcopyComplete (op : Nat) (s : State) : Host.Outcome State Fault Refusal :=
  .next (match s.op? op with
  | some o =>
    match o.kind with
    | .copy c =>
      if !c.over || c.owed.isSome || !creditsSettled s o || opWaits s o c.lane || replPending s o then s
      else
        let status := (if c.code = some 8 then 1 else c.code.getD 0) * 2 ^ 24 + (c.moved + 15) / 16
        let t := landResults s o c.vd [(c.lane, BitVec.ofNat 32 status)]
        completeOp (copyTrap t o c) o
    | _ => s
  | none => s)

/-- The answer FAIL to a fault of a copy (16 R244): status 0x07. -/
def failCopy (s : State) (o : Op) (c : Copy) (bad : DWord) : State := s.setOpKind o.id (.copy (c.stop c.trying 7 bad))

end Sys2Proof.Machine
end

