-- ==== Sys2Proof/Machine/Fabric.lean ====
section
/-! DEFINITION. The attic fabric: FBULK, its messages and their landings, FSTAT, and the ports (28_fabric R353 to R366). -/

namespace Sys2Proof.Machine

/-! FBULK (28 R360 to R362). -/

/-- The messages of a transfer: at most 256 bytes each, by ascending address (28 R362). -/
def messagesOf (bytes : Nat) : List Message :=
  (List.range ((bytes + 255) / 256)).map fun j => ⟨256 * j, min 256 (bytes - 256 * j), none, false, false, 0, 0, false⟩

/-- Whether KIND, OP and CREDIT are a permitted combination (28 R360). -/
def bulkAllowed (kind op : Nat) (credit : Bool) : Bool :=
  match kind with
  | 0 => op ≤ 4 && (op == 1 || !credit)
  | 1 => op == 0
  | 2 => op == 0
  | _ => false

/-- Whether the reserved fields of an FBULK's four registers are zero (28 R360, R361). -/
def bulkZeros (r0 r1 r2 r3 : Nat) : Bool :=
  let kind := bits r2 6 2
  bits r0 53 11 == 0 && bits r2 8 56 == 0 && bits r3 19 13 == 0 && bits r3 33 31 == 0 && (kind != 0 || bits r2 0 3 == 0)
    && (kind == 0 || bits r1 39 25 == 0)

/-- The key slot that a context's partition holds under a number (12 R197, 28 R358). -/
def keySlot (s : State) (x : Ctx) (key : Nat) : Option KeySlot :=
  if s.holdsKey x.func key then s.dev.keys.find? fun k => k.index == key else none

/-- FBULK (28 R362). -/
def execFbulk (d : GReg) (a : Fin 16) (s : State) : Host.Outcome State Fault Refusal :=
  let g (w : Issuer) (j : Nat) : Nat := (uniG s w (4 * a.val + j)).toNat
  let legal (w : Issuer) : Bool :=
    s.feature 5 && bulkZeros (g w 0) (g w 1) (g w 2) (g w 3)
      && bulkAllowed (bits (g w 2) 6 2) (bits (g w 2) 3 3) (bit (g w 3) 32)
  uniIssueIf s (.fbulk d a) legal [] (readsG [4 * a.val, 4 * a.val + 1, 4 * a.val + 2, 4 * a.val + 3]) fun w =>
    let bytes := bits (g w 0) 32 21
    let loc := bits (g w 0) 0 32
    let kind := bits (g w 2) 6 2
    let op := bits (g w 2) 3 3
    let remote := g w 1
    let align := if 2 ≤ op then 4 else 16
    let go : State :=
      let c := chargeOf s 11 bytes
      let b : Bulk :=
        { gd := d.val, loc := loc, bytes := bytes, remote := remote, port := bits (g w 2) 0 3, op := op, kind := kind,
          barrier := bits (g w 3) 0 19, credit := bit (g w 3) 32, key := (ctxOf s w).keyid.toNat,
          slot := keySlot s (ctxOf s w) (ctxOf s w).keyid.toNat, messages := messagesOf bytes }
      charged s w 11 c (afterFences s w (done (forkOp s w .gx 11 c (.bulk b)).2 w))
    if bytes < 16 ∨ 1048576 < bytes ∨ bytes % 16 ≠ 0 then trapAll s w .layoutInvalid (BitVec.ofNat 64 (g w 0))
    else checkedLocal s w bytes 16 loc
      (if kind = 0 ∧ highVa remote then trapAll s w .accessViolation (BitVec.ofNat 64 remote)
      else if kind = 0 ∧ remote % align ≠ 0 then trapAll s w .misaligned (BitVec.ofNat 64 remote) else go)

/-- Change a message of an FBULK. -/
def modMessage (s : State) (op n : Nat) (f : Message → Message) : State := s.modOp op fun o =>
  { o with kind := match o.kind with
    | .bulk b => .bulk { b with messages := modifyAt f n b.messages }
    | other => other }

/-- A message ends with a status and lands nothing. -/
def Message.refused (m : Message) (code : Nat) (bad : DWord) : Message :=
  { m with spent := true, code := if m.code = 0 then code else m.code, bad := if m.code = 0 then bad else m.bad }

/-- Whether a part of an FBULK waits for the answer of a fault record. -/
def bulkWaits (s : State) (o : Op) (n : Nat) : Bool := opWaits s o n

/-- Whether two slots hold one key of one owner. -/
def KeySlot.same (a b : KeySlot) : Bool := a.index == b.index && a.key == b.key && a.func == b.func

/-- A transfer's key slot with the nonces it has used: of the device while that still holds the key, else as the transfer keeps it (12 R197,
28 R357). -/
def bulkSlot (s : State) (b : Bulk) : Option KeySlot := b.slot.map fun k => (s.dev.keys.find? k.same).getD k

/-- The key check of a message: the slot was valid and held by the context's partition, with nonces left on the port (28 R357, R365). -/
def keyUsable (s : State) (b : Bulk) (port : Nat) : Bool := (bulkSlot s b).any fun k => decide (k.counters.getD port 0 < 2 ^ 64 - 1)

/-- A sealed message takes the next nonce of its slot on its port (28 R357). -/
def countNonce (s : State) (o : Op) (b : Bulk) (port : Nat) : State :=
  match b.slot with
  | none => s
  | some k =>
    if s.dev.keys.any k.same then s.modDev fun d => { d.sends port with keys := replaceFirst k.same (fun q => q.sends port) d.keys }
    else (s.modDev fun d => d.sends port).modOp o.id fun o => { o with kind := match o.kind with
      | .bulk b => .bulk { b with slot := b.slot.map fun q => q.sends port }
      | other => other }

/-- A message goes out under its transfer's key, and is answered: whether it does and authenticates, which is free; else it is reported (28
R357, R358, R365; log 84). -/
def bulkTrip (s : State) (o : Op) (b : Bulk) (port : Nat) : Bool × State :=
  if !keyUsable s b port then (false, authEvent s b.key port (some o.ctx))
  else match (countNonce s o b port).coin with
    | (true, t) => (true, t)
    | (false, t) => (false, authEvent t b.key port (some o.ctx))

/-- A message whose range lies behind several ports goes out on each (28 R357). -/
def bulkTrips (o : Op) (b : Bulk) : State → List Nat → Bool × State
  | s, [] => (true, s)
  | s, p :: r => match bulkTrip s o b p with
    | (true, t) => bulkTrips o b t r
    | (false, t) => (false, t)

/-- The ports of the places of a message. -/
def portsOf (ps : List (Page × Nat)) : List Nat := (ps.map fun q => atticPort q.1.pa).eraseDups

/-- The first poisoned byte of a list. -/
def firstPoison (bs : List (Byte × Bool)) : Option Nat := (List.range bs.length).find? fun i => (bs[i]?.map Prod.snd).getD false

/-- What the spans of a message's attic range come to, by ascending address: their places, or how the message goes on at the first that gives
none (28 R365). -/
def atticSpans (o : Op) (x : Ctx) (b : Bulk) (n kind : Nat) (need : Need) : State → List (Nat × Nat) → Except State (List (Page × Nat) × State)
  | s, [] => .ok ([], s)
  | s, (va, k) :: r => match partSpans s o x n (oneLane 0) kind need va k with
    | .held t => .error t
    | .lost a t => .error (modMessage t o.id n fun m => m.refused (if highVa a then 7 else
        match peekPa t x a with | some pa => if 2 ^ 51 ≤ pa ∧ pa < 2 ^ 51 + 2 ^ 44 ∧ !portUp t (atticPort pa) then 8 else 7 | none => 7)
        (BitVec.ofNat 64 a))
    | .ok ps t =>
      if ps.any fun p => !p.1.attic || p.1.key != b.key then .error (modMessage t o.id n fun m => m.refused 4 0)
      else match atticSpans o x b n kind need t r with
        | .ok (qs, u) => .ok (ps ++ qs, u)
        | .error u => .error u

/-- What a message's attic range comes to: its places, or how the message goes on (28 R365). -/
def atticPlaces (s : State) (o : Op) (x : Ctx) (b : Bulk) (n : Nat) (m : Message) (need : Need) : Except State (List (Page × Nat) × State) :=
  let kind := match need with | .load => 0 | .atomic => 2 | _ => 1
  atticSpans o x b n kind need s (spansOf (b.remote + m.off) m.len)

/-- The bytes of a range as the attic node holds them (28 R362). -/
def nodeBytes (s : State) (o : Op) (x : Ctx) (ps : List (Page × Nat)) : List (Byte × Bool) :=
  (homeAddrs s (dieOfCore o.core) x ps).map fun pa => (Memory.read s.mem pa, poisonedMem s pa 1)

/-- The message is read at its source: scratchpad, or for a GET the attic node (28 R362). One under a slot that the context's partition does not
hold is not sent; that a slot without an owner is named is reported (26 R328, 28 R358). -/
def bulkAccess (s : State) (o : Op) (b : Bulk) (n : Nat) : State :=
  match b.messages[n]?, s.ctx? o.ctx with
  | some m, some x =>
    if m.spent || m.bytes.isSome || bulkWaits s o n then s
    else
      let local_ := (allocOf s o.core o.block).1 + b.loc + m.off
      if b.slot.isNone then
        let port := if b.kind = 0 then ((peekPa s x (b.remote + m.off)).map atticPort).getD 0 else b.port
        modMessage (if (s.keyOwner b.key).isNone then authEvent s b.key port none else s) o.id n fun m => m.refused 3 0
      else if b.kind = 0 && b.op == 1 then
        match atticPlaces s o x b n m .load with
        | .error t => t
        | .ok (ps, t) =>
          match bulkTrips o b t (portsOf ps) with
          | (false, u) => modMessage u o.id n fun m => m.refused 3 0
          | (true, u) => modMessage u o.id n fun m => { m with bytes := some (nodeBytes t o x ps) }
      else modMessage s o.id n fun m => { m with bytes := some ((s.core o.core).markedBytes local_ m.len) }
  | _, _ => s

/-- The element of a reduction (28 R363). -/
def reduceElement (op old x : Nat) : Nat :=
  match op with
  | 2 => (encodeTo .f32 .rne false (addVal (unpack .f32 old) (unpack .f32 x)).1).1
  | 3 => (old + x) % 2 ^ 32
  | _ => (fpMinMax .f32 true old x).1

/-- The bytes of a range after a reduction, element by element. -/
def reduceBytes (op : Nat) : Nat → List (Byte × Bool) → List (Byte × Bool) → List (Byte × Bool)
  | 0, _, _ => []
  | n + 1, old, x =>
    let v := reduceElement op (numOf ((old.take 4).map Prod.fst)) (numOf ((x.take 4).map Prod.fst))
    let bad := (old.take 4).any Prod.snd || (x.take 4).any Prod.snd
    (bytesOf 4 v).map (fun b => (b, bad)) ++ reduceBytes op n (old.drop 4) (x.drop 4)

/-- A message has landed; poisoned data gives status 0x06 and is carried (28 R365, 31 R380). -/
def Message.landedWith (m : Message) (bs : List (Byte × Bool)) (va : Nat) : Message :=
  match firstPoison bs with
  | some i => { m with spent := true, landed := true, code := if m.code = 0 then 6 else m.code,
                       bad := if m.code = 0 then BitVec.ofNat 64 (va + i) else m.bad }
  | none => { m with spent := true, landed := true }

/-- A GET's message lands in the issuer's scratchpad and credits its object (28 R360, R362). -/
def landGet (s : State) (o : Op) (b : Bulk) (n : Nat) (m : Message) (bs : List (Byte × Bool)) : State :=
  let base := (allocOf s o.core o.block).1
  let s := landAt s ⟨o.core, base + b.loc + m.off⟩ bs
  let s := modMessage s o.id n fun q => q.landedWith bs (b.remote + m.off)
  if b.credit then creditBytes s o.core (base + b.barrier) m.len o n b.barrier else s

/-- A PUT's or a reduction's message lands at the attic node (28 R362, R363). -/
def landAttic (s : State) (o : Op) (x : Ctx) (b : Bulk) (n : Nat) (m : Message) (bs : List (Byte × Bool)) : State :=
  match atticPlaces s o x b n m (if 2 ≤ b.op then .atomic else .store) with
  | .error t => t
  | .ok (ps, t) =>
    match bulkTrips o b t (portsOf ps) with
    | (false, t) => modMessage t o.id n fun m => m.refused 3 0
    | (true, t) =>
      let src := b.loc + m.off
      if 2 ≤ b.op then
        if !(portsOf ps).all fun p => Config.enrolled b.key p then modMessage t o.id n fun m => m.refused 2 0
        else
          let old := nodeBytes t o x ps
          modMessage (passViews (engineWrite (.op o.id) x t ps (reduceBytes b.op (m.len / 4) old bs)) ps) o.id n fun m => m.landedWith bs src
      else modMessage (passViews (engineWrite (.op o.id) x t ps bs) ps) o.id n fun m => m.landedWith bs src

/-- A message to another package: what the target does with it lies outside this package, so whether it accepts, and whether a
credit is rejected there, are free (28 R361, R364, R365). -/
def landRemote (s : State) (o : Op) (b : Bulk) (n : Nat) (bs : List (Byte × Bool)) : State :=
  if !portUp s b.port then modMessage s o.id n fun m => m.refused 8 0
  else match bulkTrip s o b b.port with
  | (false, t) => modMessage t o.id n fun m => m.refused 3 0
  | (true, s) =>
    let refused := s.coin
    let other := refused.2.coin
    if refused.1 then modMessage other.2 o.id n fun m => { m.refused 1 0 with landed := b.kind == 2 && other.1 }
    else modMessage other.2 o.id n fun m =>
      let m := m.landedWith bs (b.loc + m.off)
      { m with code := if b.credit && other.1 && m.code = 0 then 5 else m.code }

/-- FBULK_LANDING (28 R362): message `n` lands and credits its object. -/
def execFbulkLanding (op n : Nat) (s : State) : Host.Outcome State Fault Refusal :=
  .next (match s.op? op with
  | some o =>
    match o.kind, s.ctx? o.ctx with
    | .bulk b, some x =>
      match b.messages[n]? with
      | some m =>
        match m.bytes with
        | some bs =>
          if m.spent || bulkWaits s o n then s
          else if b.kind = 0 then (if b.op = 1 then landGet s o b n m bs else landAttic s o x b n m bs)
          else landRemote s o b n bs
        | none => s
      | none => s
    | _, _ => s
  | none => s)

/-- The answer FAIL to a fault of a message (28 R365): status 0x07. -/
def failBulk (s : State) (o : Op) (n : Nat) (bad : DWord) : State := modMessage s o.id n fun m => m.refused 7 bad

/-- The bytes landed of messages that are over (28 R365): of a multicast, those of the branch that landed fewest, which are fewer than all by one
refused message at least. -/
def movedBy (ms : List Message) : Nat :=
  let refused := ms.filter fun m => m.code == 1
  let missed := total ((refused.filter fun m => !m.landed).map Message.len)
  total (ms.map fun m => if m.landed then m.len else 0) - ((refused.map Message.len).foldl max 0 - missed)

/-- FBULK_COMPLETE (28 R365): every message is over and every credit settled; the status word is written. -/
def execFbulkComplete (op : Nat) (s : State) : Host.Outcome State Fault Refusal :=
  .next (match s.op? op with
  | some o =>
    match o.kind with
    | .bulk b =>
      if (b.messages.any fun m => !m.spent) || !creditsSettled s o || replPending s o then s
      else
        let moved := movedBy b.messages
        let first := b.messages.find? fun m => m.code != 0
        let code := (first.map fun m => m.code).getD 0
        let bad := (first.map fun m => m.bad).getD 0
        let t := landResultG s o b.gd (code * 2 ^ 24 + moved / 16)
        let t := match code with
          | 6 => oweTrap t o none .poison bad (BitVec.allOnes 32)
          | 7 => oweTrap t o none .accessViolation bad (oneLane 0)
          | _ => t
        completeOp t o
    | _ => s
  | none => s)

/-- BRANCH_BLOCKED (28 R364): a branch of a multicast message has been blocked for 10 µs; it is reported once per message. -/
def execBranchBlocked (op : Nat) (s : State) : Host.Outcome State Fault Refusal :=
  .next (match s.op? op with
  | some o =>
    match o.kind with
    | .bulk b =>
      match (List.range b.messages.length).find? fun n =>
          ((b.messages[n]?).map fun m => !m.spent && m.bytes.isSome && !m.blocked).getD false with
      | some n =>
        if b.kind = 2 then
          modMessage (postEvent s o.ctx .branchBlocked 0xFFFF b.port b.remote (groupSource o.core o.slot)) op n fun m => { m with blocked := true }
        else s
      | none => s
    | _ => s
  | none => s)

/-! Arriving messages (28 R358, R361). -/

/-- FABRIC_MESSAGE_RECEIVE (28 R358, R361): a remote-scratchpad message arrives: it is discarded with an event if its slot is
invalid or it fails authentication, refused if its target does not accept it, and landed and credited otherwise. -/
def execFabricMessageReceive (m : FabricMessage) (s : State) : Host.Outcome State Fault Refusal :=
  .next (
    if m.port ≥ 8 ∨ !portUp s m.port then s
    else match s.keyOwner m.key, m.authentic with
      | none, _ => authEvent s m.key m.port none
      | some _, false => authEvent s m.key m.port none
      | some f, true =>
        if m.die ≥ 12 ∨ Config.clustersOf m.die ≤ m.cluster ∨ (if m.die < 4 then 16 else 8) ≤ m.core then s
        else
          let c := Config.coreIndex m.die m.cluster m.core
          let fits (b : Block) : Bool :=
            !b.phase.outside && b.phase != .finished .save && ((s.ctx? b.ctx).any fun x => x.func == f) && m.offset % 16 == 0 && m.offset + m.bytes.length ≤ b.rec_.scratch
              && (!m.credit || (m.barrier % 16 == 0 && m.barrier + 16 ≤ b.rec_.scratch))
          match (s.core c).blocks.find? fits with
          | none => s
          | some b =>
            let t := landAt s ⟨c, b.spbase + m.offset⟩ (m.bytes.map fun v => (v, false))
            if m.credit then
              queueUpdate t ⟨c, b.spbase + m.barrier, (2, 0), false, false, 0, m.bytes.length, .credit b.ctx none (BitVec.ofNat 64 m.barrier)⟩
            else t)

/-! Ports (28 R356, R366). -/

/-- Whether an address of a context lies behind a port. -/
def behindPort (s : State) (x : Ctx) (port va : Nat) : Bool :=
  match peekPa s x va with
  | some pa => decide (2 ^ 51 ≤ pa ∧ pa < 2 ^ 51 + 2 ^ 44) && atticPort pa == port
  | none => false

/-- Whether a message of an FBULK is pending on a port (28 R356). -/
def messageOn (s : State) (x : Ctx) (port : Nat) (b : Bulk) (m : Message) : Bool :=
  !m.spent && (if b.kind = 0 then behindPort s x port (b.remote + m.off) || behindPort s x port (b.remote + m.off + m.len - 1)
    else b.port == port)

/-- The addresses that a walk is at (22 R287, R289). -/
def Walk.at_ (w : Walk) : List Nat :=
  match w.point with
  | .starting _ _ => [w.query]
  | .visiting e | .entering e _ | .pruning e _ _ _ | .pushing e _ _ | .leaving e _ | .cutting e _ _ _ | .putting e _ _ _ => [e.node]
  | .framing _ _ _ f | .placing _ _ _ _ f | .closing f | .calling f => [w.frames + 16 * f]
  | .leavingFrame f _ => [w.frames + 16 * f]
  | .boundary | .ended _ => []

/-- Whether a lane of a galley operation has an access to its slot to make behind a port. -/
def laneOn (s : State) (x : Ctx) (port : Nat) (l : GalleyLane) : Bool :=
  match l.slot, l.result, s.galley? l.galley with
  | some n, none, some y => behindPort s x port (y.slotVa n)
  | _, _, _ => false

/-- Whether a started COPY has a piece in flight that is read or written behind a port (26 R337). -/
def copyOn (s : State) (x : Ctx) (port : Nat) (k : Started) : Bool :=
  match k.copy with
  | some (src, dst, _) => !k.done && !k.failed && !k.units.isEmpty
      && (behindPort s x port (src + k.copied) || behindPort s x port (dst + k.copied))
  | none => false

/-- Whether a context has an access or an FBULK packet pending on a port (28 R356). -/
def pendingOn (s : State) (x : Ctx) (port : Nat) : Bool :=
  (s.ops.any fun o => o.ctx == x.id && match o.kind with
    | .bulk b => b.messages.any (messageOn s x port b)
    | .copy c => match c.layout with
      | some l => (List.range (c.limit l)).any fun u => decide (c.next ≤ u) && inBounds l (coordsOf c l u)
          && behindPort s x port (elementVa l (coordsOf c l u))
      | none => behindPort s x port c.recVa
    | .walks _ ws => ws.any fun w => w.at_.any (behindPort s x port)
    | .cut ls => ls.any fun l => l.made.isNone && behindPort s x port l.va
    | .put _ ls | .take _ ls => ls.any (laneOn s x port)
    | _ => false)
  || (s.queues.any fun q => q.ctx == x.id && q.started.any (copyOn s x port))
  || s.cores.any fun y => y.groups.any fun g => g.ctx == x.id
    && ((g.reads.any fun e => e.pieces.any fun p => behindPort s x port p.va)
      || (g.queue.any fun e => e.writes.any fun w => behindPort s x port w.2.1)
      || s.props.any fun p => p.core == y.index && p.slot == g.slot && p.beyond == .node && p.home && p.port == port)

/-- Set a port's link. -/
def setLink (s : State) (port link : Nat) : State := s.modDev fun d =>
  { d with ports := modifyAt (fun p => { p with link := link }) port d.ports }

/-- What is pending on a port whose link leaves the up state, for a context: FBULK packets end with status 0x08, pieces of a COPY fail, and
writes that were to go through to the node are refused (28 R355, R356). -/
def failPort (port : Nat) (s t : State) (x : Ctx) : State :=
  let t := { t with ops := t.ops.map fun o => match o.kind with
    | .bulk b => if o.ctx = x.id then
        { o with kind := .bulk { b with messages := b.messages.map fun m => if messageOn s x port b m then m.refused 8 0 else m } } else o
    | _ => o }
  (s.queues.filter fun q => q.ctx == x.id).foldl (fun t q =>
    (q.started.filter (copyOn s x port)).foldl (fun t k => startedError t x q.id 7 k) t) t

/-- FABRIC_LINK (28 R356): a port's link leaves the up state: an event to every context with work pending on it; FBULK packets
pending there end with status 0x08, and attic accesses pending there are refused (R355): those that were issued before, by their number. A
link that is not up may go from one such state to another (R366). -/
def execFabricLink (port state : Nat) (s : State) : Host.Outcome State Fault Refusal :=
  .next (
    if state = 2 ∨ 4 ≤ state then s
    else if !portUp s port then (if s.dev.service = .full then setLink s port state else s)
    else
      let hit := s.ctxs.filter fun x => x.valid && pendingOn s x port
      let t := hit.foldl (fun t x => postEvent t x.id .fabricLink 0xFFFF port 0 noSource) s
      let t := hit.foldl (failPort port s) t
      let gone (p : Propagation) : Bool := p.home && p.beyond == .node && p.port == port
      let t := (t.props.filter gone).foldl oweRefused { t with props := t.props.filter fun p => !gone p }
      let t := t.modDev fun d => { d with ports := modifyAt (fun p => { p with since := t.nextId }) port d.ports }
      setLink t port state)

/-- FABRIC_LINK_UP (28 R366): a port's link enters the up state; in reduced service every port reads 1 (31 R383). -/
def execFabricLinkUp (port : Nat) (s : State) : Host.Outcome State Fault Refusal :=
  .next (if portUp s port ∨ s.dev.service ≠ .full then s else setLink s port 2)

/-- LINK_LEVEL_RETRY (28 R354, R366): REPLAYS rises by 1, modulo 2^16. -/
def execLinkLevelRetry (port : Nat) (s : State) : Host.Outcome State Fault Refusal :=
  .next (s.modDev fun d => { d with ports := modifyAt (fun p => { p with replays := (p.replays + 1) % 2 ^ 16 }) port d.ports })

/-- FSTAT's word (28 R366). How many flits are in use is a snapshot the manual states no value of (R359; log 84): RESV is 0 to 4, and 0 for a
slot that is not valid; SHARED is at most the pool less the reserved flits; both are 0 on a port that has carried nothing. -/
def fstatWord (s : State) (port key : Nat) : DWord :=
  let p := s.dev.ports.getD port ⟨0, 0, false, 0⟩
  let blocked := s.ops.any fun o => match o.kind with
    | .bulk b => b.port == port && b.key == key && b.messages.any fun m => m.blocked && !m.spent
    | _ => false
  let resv := if p.sent && (s.keyOwner key).isSome then Config.freeNat s.free % 5 else 0
  let shared := if p.sent then Config.freeNat (s.free + 1) % (2049 - 4 * min 256 s.dev.keys.length) else 0
  BitVec.ofNat 64 (p.link % 4 + (if blocked then 4 else 0) + resv * 2 ^ 16 + shared * 2 ^ 32 + p.replays % 2 ^ 16 * 2 ^ 48)

/-- FSTAT (28 R366). -/
def execFstat (d a : GReg) (s : State) : Host.Outcome State Fault Refusal :=
  uniIssueIf s (.fstat d a) (fun _ => s.feature 5) [] (readsG [a]) fun w =>
    let v := fstatWord s ((uniG s w a).toNat % 8) (ctxOf s w).keyid.toNat
    heldDone { s with free := s.free + 2 } w d v none

end Sys2Proof.Machine
end

