-- ==== Sys2Proof/Machine/Launches.lean ====
section
/-! DEFINITION. Launches being run: claiming and starting blocks, and how they end (03_execution_model R53, R54, 26_command R346 to
R348). -/

namespace Sys2Proof.Machine

/-- PACKET_COMPLETE (26 R336 to R339): a step of a started packet; a vacate that has waited for the piece of a COPY may end with it. -/
def execPacketComplete (queue n : Nat) (s : State) : Host.Outcome State Fault Refusal :=
  let t := packetStep queue n s
  .next (match s.queue? queue with
  | some y => if (y.started[n % y.started.length]?).any fun k => k.type == 3 then vacateDone t y.ctx else t
  | none => t)

/-! Claiming (26 R346). -/

/-- Whether a launch may hand out blocks to a core: its context runs, its queue is enabled and switched in, its packet has not failed,
tickets of the core's die are left, and the partition holds the core's cluster (26 R326, R334, R346). A queue that has halted or
aborted starts no packet, but a launch it had started runs to completion (26 R341 to R343; log 62). -/
def offers (s : State) (l : LaunchRun) (c : Nat) : Bool :=
  let d := Config.dieOf c
  decide (l.tickets.getD d 0 < l.rec_.share d) && s.dev.image.isSome && !(s.core c).failed
    && (match s.ctx? l.ctx with
      | some x => x.valid && x.phase == .idle && !x.halted && s.holdsCluster x.func (Config.clusterIndex d (Config.clusterOf c))
      | none => false)
    && ((s.queue? l.queue).any fun y => !y.out && queueEnabled s y.id && !(y.started.any fun k => k.path == l.path && k.failed))

/-- Whether an agent prefers one launch to another: by the PRIO of its queue, then by its start (26 R346). -/
def preferred (s : State) (a b : LaunchRun) : Bool :=
  decide (queuePrio s b.queue < queuePrio s a.queue) || (queuePrio s a.queue == queuePrio s b.queue && decide (a.id ≤ b.id))

/-- Start the reserved block of an index of a launch, with its instance: once all have their places, no block of a lower ticket on their dies
is left unstarted, and they are admitted (03 R54, 26 R346). -/
def tryStart (s : State) (x : Ctx) (l : LaunchRun) (b : Nat) : Option State :=
  let members := instanceMembers s l.ctx l.rec_ (some l.id) b
  let others := (reservedWith s l.ctx l.rec_ (some l.id)).filter fun p => !(members.any fun q => q.2.id == p.2.id)
  let lower := members.any fun q => others.any fun p => Config.dieOf p.1 == Config.dieOf q.1 && decide (p.2.blockIndex < q.2.blockIndex)
  if instanceWhole l.rec_ members && !lower then startInstance s x members else none

/-- BLOCK_CLAIM (26 R346): an agent carves for a block, takes the next ticket of its die, and starts the block where its instance is whole,
its turn has come and it is admitted; else its place is held, and INSTANCE_START tries it again. -/
def execBlockClaim (launch core : Nat) (p : Placement) (s : State) : Host.Outcome State Fault Refusal :=
  .next (match s.launch? launch with
  | none => s
  | some l =>
    if !offers s l core || !(s.launches.all fun m => !offers s m core || preferred s l m) then s
    else match ctxForWork s l.ctx with
      | (none, t) => t
      | (some x, t) =>
        let d := Config.dieOf core
        let b := l.rec_.shareStart d + l.tickets.getD d 0
        match agentCarve (t.core core) l.rec_ p with
        | none => t
        | some (y, table, routine) =>
          if !placeFits t l.ctx l.rec_ (some l.id) b core then t
          else
            let u := (placeBlock (t.setCore y) core x l.rec_ b 0 p.spbase table routine (some l.id)).2
            let u := u.modLaunch l.id fun m => { m with tickets := modifyAt (· + 1) d m.tickets }
            (tryStart u x l b).getD u)

/-- INSTANCE_START (03 R54, 26 R346): the lowest block of a launch that has its place and can start does so, with its instance. -/
def execInstanceStart (launch : Nat) (s : State) : Host.Outcome State Fault Refusal :=
  .next (match s.launch? launch with
  | none => s
  | some l => match ctxForWork s l.ctx with
    | (none, t) => t
    | (some x, t) =>
      let waiting := (reservedWith t l.ctx l.rec_ (some l.id)).foldl (fun l p => insertNat p.2.blockIndex l) []
      if x.phase ≠ .idle || x.halted then t else (waiting.findSome? (tryStart t x l)).getD t)

/-! The end of a block (26 R347, R348). -/

/-- ROW_FREE (26 R347): a draining row becomes Free once the groups that held it have nothing outstanding. -/
def execRowFree (core row : Nat) (s : State) : Host.Outcome State Fault Refusal := .next (freeRow s core row)

/-- The queue and packet that a block's launch belongs to. -/
def launchOf? (s : State) (k : Block) : Option LaunchRun := k.launchId.bind fun n => s.launch? n

/-- A block whose completion is over leaves: with a drain, it ends its mode (12 R194, 18 R262). -/
def blockDone (s : State) (c : Nat) (k : Block) : State :=
  vacateDone (dropBlock (endSaveOp (retireTaken s k) k 0 (modeCode .drain)) c k.id) k.ctx

/-- A completion that cannot be published halts the queue with SIGNAL_FAULT; where its bitmap bit was not set, the packet's signal becomes −1
(26 R343). -/
def completionFails (s : State) (c : Nat) (k : Block) : State :=
  let s := match launchOf? s k, s.ctx? k.ctx with
    | some l, some x =>
      let s := modStarted s l.queue l.path fun q => { q with failed := true }
      queueError s x l.queue 12 (if k.rec_.bitmap ≠ 0 ∧ !k.marked then l.sig else none) (l.path.headD 0)
    | _, _ => s
  blockDone s c k

/-- An access of a block's completion gives no byte (26 R343). -/
def completionStops (s : State) (x : Ctx) (c : Nat) (k : Block) (e : XErr) (va : Nat) : State :=
  match e with
  | .unresolved => completionFails s c k
  | .fault cause => postOrWait s x va (Config.dieOf c, Config.clusterOf c, Config.coreOf c, 0xFF) 2 cause (.block c k.id)

/-- The scope at which a completion releases: the widest of its launch's RELSCOPE, PACKAGE, and the levels whose instances end with the block,
under the partition's cap (03 R51, 26 R335, R348, 13 R200). -/
def completionScope (s : State) (k : Block) : Scope :=
  let n := ((launchOf? s k).map fun l => l.relScope).getD 0
  agentCap s k (widerScope (if n ≤ 1 then .package else if n = 2 then .pod else .system) (widestLevel k (endsInstance s k)))

/-- The writes that a block's completion releases: its own, and those of the ended blocks of the instances that end with it (03 R51). -/
def releasedBy (s : State) (k : Block) : List WriteRef :=
  let mates := (List.range k.rec_.outer.length).filter fun i => endsInstance s k i
  k.before ++ ((launchOf? s k).toList.flatMap fun l =>
    (l.before.filter fun p => mates.any fun i => sameInstance k.rec_ i p.1 k.blockIndex).map fun p => p.2)

/-- The count of a launch's remaining blocks falls, and the block leaves (26 R348); the writes it released are kept for the instances it belongs
to (03 R51). -/
def countBlock (s : State) (c : Nat) (k : Block) : State :=
  let s := match k.launchId with
    | some n => s.modLaunch n fun l => { l with remaining := l.remaining - 1, before := l.before ++ k.before.map fun o => (k.blockIndex, o) }
    | none => s
  blockDone s c k

/-- The second step of a completion: with PERBLOCK, −1 is added to the signal, as one atomic or in two halves (26 R348, 13 R220). -/
def signalBlock (s : State) (x : Ctx) (c : Nat) (k : Block) : State :=
  match (launchOf? s k).bind fun l => if l.perBlock then l.sig else none with
  | none => countBlock s c k
  | some va => match addSignal s (.core c) x va (-1) k.half with
    | .done t => countBlock t c k
    | .half old t => t.modBlock c k.id fun k => { k with half := some old }
    | .fails e a t => completionStops t x c k e a

/-- Whether an operation of a block that has completed, of a batch that was open, still makes accesses that the completion releases; a matrix
command ended with the engine's release, and a walk whose routine call found no routine row goes no further (26 R348; log 40). -/
def stillRuns (k : Block) (o : Op) : Bool :=
  match o.kind with
  | .matrix _ => false
  | .walks _ _ => !(k.calls.any fun q => q.op == o.id)
  | _ => true

/-- The completion of a block is published (26 R348): once what it releases has been performed, its bit is set in the bitmap, then comes the
per-block add and the count. -/
def publishBlock (s : State) (x : Ctx) (c : Nat) (k : Block) : State :=
  if (opsOf s c k.id).any (stillRuns k) then s
  else if ((releasedBy s k).any fun o => refPending s (completionScope s k) o) || agentPending s x.id then s
  else if k.rec_.bitmap = 0 ∨ k.marked then signalBlock s x c k
  else match addVa s (.core c) x (k.rec_.bitmap + k.blockIndex / 8) 1 k.half fun old => old ||| 2 ^ (k.blockIndex % 8) with
    | .done t => t.modBlock c k.id fun k => { k with marked := true, half := none }
    | .half old t => t.modBlock c k.id fun k => { k with half := some old }
    | .fails e a t => completionStops t x c k e a

/-- BLOCK_COMPLETE (26 R348): every row of a block is free: what it held is released, its channel ends among it (24 R309), and its
completion is published, a step at a time. For a draining block this ends its mode (18 R262). -/
def execBlockComplete (core block : Nat) (s : State) : Host.Outcome State Fault Refusal :=
  .next (match (s.core core).block? block with
  | none => s
  | some k =>
    match s.ctx? k.ctx with
    | none => s
    | some x =>
      let waits := (x.faults.map (fun f => f.owner) ++ x.faultWait.map fun f => f.owner).any fun o => o == .block core block
      if k.phase = .publishing then (if waits then s else publishBlock s x core k)
      else if (k.phase == .running || k.phase == .vacating .drain) && groupsGone (s.core core) k then
        completeBlock (releaseEnds s core k.id) core k
      else s)

/-- DIE_FAILURE (03 R53): a die fails during a launch: the launch's blocks on it end without completing, and are not run again. -/
def execDieFailure (die launch : Nat) (s : State) : Host.Outcome State Fault Refusal :=
  .next (match s.launch? launch with
  | none => s
  | some l =>
    if 12 ≤ die then s
    else
      let s := postEvent s l.ctx .dieFailed 0xFFFF die l.rec_.va noSource
      let mine := s.cores.flatMap fun y => (y.blocks.filter fun k => Config.dieOf y.index == die && k.launchId == some l.id).map fun k => (y.index, k)
      let saved := ((s.ctx? l.ctx).map fun x => x.saved.filter fun b => Config.dieOf b.core == die && b.launchId == some l.id).getD []
      let left := l.rec_.share die - l.tickets.getD die 0
      let t := mine.foldl (fun s p => dropBlock (releaseEnds (endSaveOp (abandonBlock s p.1 p.2) p.2 0 0) p.1 p.2.id) p.1 p.2.id) s
      let t := t.modCtx l.ctx fun x => { x with saved := x.saved.filter fun b => !saved.contains b }
      let t := t.modLaunch l.id fun l =>
        { l with remaining := l.remaining - (left + mine.length + saved.length), tickets := l.tickets.set die (l.rec_.share die), failedDie := true }
      let failed := (List.range Config.cores).filter fun c => Config.dieOf c == die
      vacateDone (failed.foldl (fun s c => s.modCore c fun y => { y with failed := true }) t) l.ctx)

end Sys2Proof.Machine
end

