-- ==== Sys2Proof/Machine/Answer.lean ====
section
/-! DEFINITION. The accesses of engine operations, and the answers to fault records (05_memory R78, R79, R392, 13 R202, 26_command R330,
R343). -/

namespace Sys2Proof.Machine

/-- ENGINE_ACCESS (13 R202): access `n` of an engine operation. -/
def execEngineAccess (op n : Nat) (s : State) : Host.Outcome State Fault Refusal :=
  .next (match s.op? op with
  | none => s
  | some o =>
    match o.kind with
    | .copy c => copyAccess s o c n
    | .put _ _ => galleyAccess s o n
    | .take _ _ => galleyAccess s o n
    | .send x => sendAccess s o x n
    | .bulk b => bulkAccess s o b n
    | _ => s)

/-! The answer FAIL (05 R79, R392, 26 R343). -/

/-- A group's oldest read fails in the lanes of its record: they write nothing, and the trap is due at the WAIT on its batch. -/
def failRead (s : State) (c slot seq : Nat) (f : FaultRecord) : State :=
  match (s.group? c slot).bind fun g => g.reads.head? with
  | none => s
  | some e =>
    if e.seq ≠ seq then s
    else
      let t := modRead s c slot fun e => { e with fault := .clear, pieces := e.pieces.filter fun p => !f.lanes.getLsbD p.lane }
      let t := t.modGroup c slot fun g =>
        { g with due := g.due ++ [⟨some (.gl, e.batch), none, false, e.split, .accessViolation, f.va, f.lanes, e.opId⟩] }
      finishIfDone t c slot

/-- A store fails: it and the entries held behind it are discarded, and the trap is due at the next suspension point of stores. -/
def failStore (s : State) (c slot seq : Nat) (f : FaultRecord) : State := s.modGroup c slot fun g =>
  match g.queue.find? fun e => e.seq == seq with
  | none => g
  | some e =>
    { g with queue := g.queue.filter fun q => q.seq < seq,
             due := g.due ++ [⟨none, none, true, e.split, .accessViolation, f.va, f.lanes, e.born⟩] }

/-- A split traps at its next instruction (05 R79). -/
def failSplit (s : State) (c slot i : Nat) (f : FaultRecord) : State :=
  match (s.group? c slot).bind fun g => g.split? i with
  | none => s
  | some sp => takeTrap s c slot i .accessViolation sp.pc f.va f.lanes 0

/-- A spill access fails: a trap sequence that needed it cannot push its frame; else the group traps (03 R40, R41). -/
def failSpill (s : State) (c slot i : Nat) (f : FaultRecord) : State :=
  match s.group? c slot with
  | none => s
  | some g =>
    match g.trapWait with
    | none => failSplit s c slot (if (g.split? i).isSome then i else (g.splits.head?.map fun sp => sp.idx).getD i) f
    | some t =>
      postEvent ((suspend s c slot).modGroup c slot fun g => { g with trapWait := none }) g.ctx .stackOverflow 0xFFFF 0 (g.trapPc t)
        (groupSource c slot)

/-- A part of an engine operation fails, with the outcome of its kind (05 R392). -/
def failOp (s : State) (n part : Nat) (f : FaultRecord) : State :=
  match s.op? n with
  | none => s
  | some o =>
    match o.kind with
    | .copy c => failCopy s o c f.va
    | .walks _ ws => match ws.find? fun w => w.lane == part with
      | some w => failWalk s o w f.va
      | none => s
    | .put _ ls => match ls.find? fun l => l.lane == part with
      | some l => voidPut s o l f.va.toNat
      | none => s
    | .take _ ls => match ls.find? fun l => l.lane == part with
      | some l => loseTake s o l f.va.toNat
      | none => s
    | .cut _ => modCutLane s n part false
    | .bulk _ => failBulk s o part f.va
    | .ctxload gd _ block va => s.setOpKind n (.ctxload gd 3 block va)
    | _ => s

/-- A block's image or completion fails. -/
def failBlock (s : State) (c b : Nat) (go : State → Block → State) : State :=
  match (s.core c).block? b with
  | none => s
  | some k => go s k

/-- A queue's access fails: its packet never completes and the queue halts (26 R343). -/
def failQueue (s : State) (x : Ctx) (q code : Nat) (sig : Option Nat) (path : List Nat) : State :=
  queueError (modStarted s q path fun k => { k with failed := true }) x q code sig (path.headD 0)

/-- Whether the answer to a group's record is ignored, for its block flushes (20 R266). -/
def answerIgnored (s : State) (c slot : Nat) : Bool :=
  ((s.group? c slot).bind fun g => (s.core c).block? g.block).any fun k => k.phase == .vacating .flush

/-- The answer FAIL to a record that has been taken from its context. -/
def answerFail (s : State) (x : Ctx) (f : FaultRecord) : State :=
  match f.owner with
  | .read c slot seq => if answerIgnored s c slot then s else failRead s c slot seq f
  | .store c slot seq => if answerIgnored s c slot then s else failStore s c slot seq f
  | .fetch c slot i => if answerIgnored s c slot then s else failSplit s c slot i f
  | .spill c slot i => if answerIgnored s c slot then s else failSpill s c slot i f
  | .instr c slot i => if answerIgnored s c slot then s else failSplit s c slot i f
  | .op n part => failOp s n part f
  | .queue q code sig path => failQueue s x q code sig path
  | .minus _ _ => s
  | .block c b => failBlock s c b fun s k => completionFails s c k
  | .doneSig _ => s
  | .image c b => failBlock s c b fun s k => saveFails s c k
  | .resume b va => s.modCtx x.id fun x =>
      { x with saved := x.saved.map fun q => if q.blockIndex = b ∧ q.rec_.va = va then { q with lost := true } else q }
  | .ignored _ _ => s
  | .dispatch c slot i => s.modSplit c slot i fun sp => if sp.hold = .faultSuspension then { sp with hold := .recordFailed } else sp
  | .consumer _ => s

/-! The answer RETRY: the access is tried again (05 R79). -/

/-- The answer RETRY to a record that has been taken from its context. An access that its own event makes is made again there. -/
def answerRetry (s : State) (x : Ctx) (f : FaultRecord) : State :=
  match f.owner with
  | .read c slot seq => modRead s c slot fun e => if e.seq = seq then { e with fault := .clear } else e
  | .store c slot seq => s.modGroup c slot fun g =>
      { g with queue := g.queue.map fun e => if e.seq = seq then { e with fault := .clear } else e }
  | .spill c slot i => match (s.group? c slot).bind fun g => g.trapWait with
    | some t => enterHandler s c slot t
    | none => mirrorSpill s [] c slot i
  | .minus q va => minusSignal s x q (some va)
  | .doneSig g => match s.galley? g with
    | some y => writeDone s x y
    | none => s
  | .block c b => failBlock s c b fun s k => publishBlock s x c k
  | _ => s

/-- Answer the unanswered record of a number of a context (26 R330). -/
def answerRecord (s : State) (c : Nat) (pick : FaultRecord → Bool) (fail : Bool) : State :=
  match s.ctx? c with
  | none => s
  | some x =>
    match x.faults.find? pick with
    | none => s
    | some f =>
      let s := postWaiting x.faultWait.length (s.modCtx c fun x => { x with faults := x.faults.erase f }) c
      match s.ctx? c with
      | none => s
      | some x => if fail then answerFail s x f else answerRetry s x f

/-- FAULT_RESPONSE_DOORBELL (26 R325, R330): the host answers a record, unless the firmware does or a reserved bit is set. -/
def execFaultResponseDoorbell (func ctx : Nat) (w : BitVec 64) (s : State) : Host.Outcome State Fault Refusal :=
  .next (
    if bits w.toNat 33 31 ≠ 0 ∨ !ownsCtx s func ctx ∨ ((s.ctx? ctx).any fun x => x.fwfault) then s
    else answerRecord s ctx (fun f => f.number % 2 ^ 32 == bits w.toNat 0 32) (w.getLsbD 32))

/-- FAULT_ANSWER_FIRMWARE (26 R330): with FWFAULT the agent answers. -/
def execFaultAnswerFirmware (ctx record : Nat) (fail : Bool) (s : State) : Host.Outcome State Fault Refusal :=
  .next (if (s.ctx? ctx).any fun x => x.fwfault then answerRecord s ctx (fun f => f.number == record) fail else s)

end Sys2Proof.Machine
end

