-- ==== Sys2Proof/Machine/GlobalInstr.lean ====
section
/-! DEFINITION. The global memory instructions, LDG, STG, ATOMG, STG.REL, ULD.G and UST.G (11_lane R152 to R158, 12_uniform R180),
and the steps of the ordering machine (13_ordering R202, R220, 05_memory R83). -/

namespace Sys2Proof.Machine

/-- The global addresses of the active lanes (05 R61). -/
def globalAddrs (s : State) (w : Issuer) (m : Mask) (g a : Nat) : List (Nat × Nat) :=
  (lanesOf m).map fun l => (l, globalAddr s w g a l)

/-- The addresses in the pairs of the active lanes (11 R152). -/
def pairAddrs (s : State) (w : Issuer) (m : Mask) (a : Nat) : List (Nat × Nat) :=
  (lanesOf m).map fun l => (l, pairAddr s w a l)

/-- The address checks of a lane instruction, before its effect (11 R152). -/
def checkedG (s : State) (w : Issuer) (size align : Nat) (as : List (Nat × Nat)) (ok : State) : State :=
  match globalFault size align as with
  | some (c, m, a) => trapHere s w c (BitVec.ofNat 64 a) m
  | none => ok

/-- A queued load (11 R154): `n` bytes a lane. -/
def ldg (s : State) (i : Instr) (k d a g n : Nat) (acquire : Option Scope) : Host.Outcome State Fault Refusal :=
  laneIssue s i [d, a] (fun w => readsV s k [a] w ++ srcG w.g false (8 + g)) fun w =>
    let m := activeOf s w k
    let as := globalAddrs s w m g a
    if m = 0 then done s w
    else checkedG s w n 1 as
      (queueRead s w 4 (.lanes d n) (as.flatMap fun p => cutPieces 4 p.1 p.2 n 0) none [] acquire)

/-- A queued store (11 R156). -/
def stg (s : State) (i : Instr) (k d a g n : Nat) : Host.Outcome State Fault Refusal :=
  laneIssue s i [d, a] (fun w => readsV s k ([a, d] ++ if n = 8 then [d + 1] else []) w ++ srcG w.g false (8 + g)) fun w =>
    let m := activeOf s w k
    let as := globalAddrs s w m g a
    if m = 0 then done s w
    else checkedG s w n 1 as
      (withRoom s w (queueStore s w (as.map fun p => (p.1, p.2, bytesOf n (storeValue s w n d p.1))) none))

/-- LDG_32 (11 R154). -/
def execLdg32 (k : KReg) (d a : VReg) (g : AReg) (s : State) := ldg s (.ldg32 k d a g) k d a g 4 none
/-- LDG_64 (11 R154). -/
def execLdg64 (k : KReg) (d a : VReg) (g : AReg) (s : State) := ldg s (.ldg64 k d a g) k d a g 8 none
/-- LDG_128 (11 R154). -/
def execLdg128 (k : KReg) (d a : VReg) (g : AReg) (s : State) := ldg s (.ldg128 k d a g) k d a g 16 none
/-- LDG_32_ACQ (11 R154): its scope is that of its pages, at least PACKAGE. -/
def execLdg32Acq (k : KReg) (d a : VReg) (g : AReg) (s : State) := ldg s (.ldg32Acq k d a g) k d a g 4 (some .package)
/-- STG_8 (11 R156). -/
def execStg8 (k : KReg) (d a : VReg) (g : AReg) (s : State) := stg s (.stg8 k d a g) k d a g 1
/-- STG_16 (11 R156). -/
def execStg16 (k : KReg) (d a : VReg) (g : AReg) (s : State) := stg s (.stg16 k d a g) k d a g 2
/-- STG_32 (11 R156). -/
def execStg32 (k : KReg) (d a : VReg) (g : AReg) (s : State) := stg s (.stg32 k d a g) k d a g 4
/-- STG_64 (11 R156). -/
def execStg64 (k : KReg) (d a : VReg) (g : AReg) (s : State) := stg s (.stg64 k d a g) k d a g 8

/-- ATOMG (11 R157). -/
def execAtomg (k : KReg) (d a : VReg) (o : AtomOp) (s : State) : Host.Outcome State Fault Refusal :=
  laneIssue s (.atomg k d a o) [d, a]
    (readsV s k ([a.val, a.val + 1, d.val] ++ if o = .cas then [d.val + 1] else [])) fun w =>
    let m := activeOf s w k
    let as := pairAddrs s w m a
    if m = 0 then done s w
    else checkedG s w 4 4 as
      (queueRead s w 5 (.lanes d 4) (as.map fun p => ⟨p.1, p.2, 4, 0⟩) (some o)
        (as.map fun p => (p.1, (laneV s w d p.1).setWidth 64, (laneV s w (d.val + 1) p.1).setWidth 64)) none)

/-- The bytes a width code stores (09 R106, 11 R158). -/
def szBytes : SzCode → Nat
  | .b1 => 1 | .b2 => 2 | .b4 => 4 | .b8 => 8

/-- STG_REL (11 R158): a suspension point of stores (05 R78), then an entry marked as a release. DESIGN CHOICE (log 67): with no active lane it
completes at once, neither a suspension point nor held by a full queue. -/
def execStgRel (k : KReg) (d a : VReg) (z : SzCode) (s : State) : Host.Outcome State Fault Refusal :=
  laneIssue s (.stgRel k d a z) [d, a]
    (readsV s k ([a.val, a.val + 1, d.val] ++ if z = .b8 then [d.val + 1] else [])) fun w =>
    let m := activeOf s w k
    let as := pairAddrs s w m a
    if m = 0 then done s w
    else checkedG s w (szBytes z) 1 as
      (storePoint s w
        (withRoom s w (queueStore s w (as.map fun p => (p.1, p.2, bytesOf (szBytes z) (storeValue s w (szBytes z) d p.1))) (some .package))))

/-! Uniform forms (12 R180). DESIGN CHOICE (log 67): a fault or a poison of a queued uniform access names lane 0 in LANES and %emflt. -/

/-- The address checks of a uniform instruction, whose %emflt is the split's mask (12 R160). -/
def checkedUG (s : State) (w : Issuer) (size align a : Nat) (ok : State) : State :=
  match globalFault size align [(0, a)] with
  | some (c, _, b) => trapAll s w c (BitVec.ofNat 64 b)
  | none => ok

/-- A queued uniform load of `n` bytes, as a read of lane 0 (DESIGN CHOICE, log 67). -/
def uldG (s : State) (i : Instr) (d a n : Nat) : Host.Outcome State Fault Refusal :=
  uniIssue s i false [] (readsG [a]) fun w =>
    let va := (uniG s w a).toNat
    checkedUG s w n 1 va (queueRead s w 4 (.uniform d n) (cutPieces 3 0 va n 0) none [] none)

/-- A queued uniform 64-bit atomic, as an access of lane 0 (DESIGN CHOICE, log 67). -/
def uldGAtom (s : State) (i : Instr) (d a b : Nat) (gs : List Nat) (o : AtomOp) : Host.Outcome State Fault Refusal :=
  uniIssue s i false [] (readsG gs) fun w =>
    let va := (uniG s w a).toNat
    checkedUG s w 8 8 va
      (queueRead s w 5 (.uniform d 8) [⟨0, va, 8, 0⟩] (some o) [(0, uniG s w b, uniG s w d)] none)

/-- A uniform store of `n` bytes into the store queue, as a store of lane 0 (DESIGN CHOICE, log 67). -/
def ustG (s : State) (i : Instr) (a b n : Nat) : Host.Outcome State Fault Refusal :=
  uniIssue s i false [] (readsG [a, b]) fun w =>
    let va := (uniG s w a).toNat
    checkedUG s w n 1 va (withRoom s w (queueStore s w [(0, va, bytesOf n (uniG s w b).toNat)] none))

/-- ULD_G_32 (12 R180). -/
def execUldG32 (d a : GReg) (s : State) := uldG s (.uldG32 d a) d a 4
/-- ULD_G_64 (12 R180). -/
def execUldG64 (d a : GReg) (s : State) := uldG s (.uldG64 d a) d a 8
/-- ULD_G_ADD (12 R180). -/
def execUldGAdd (d a b : GReg) (s : State) := uldGAtom s (.uldGAdd d a b) d a b [a, b] .add
/-- ULD_G_EXCH (12 R180). -/
def execUldGExch (d a b : GReg) (s : State) := uldGAtom s (.uldGExch d a b) d a b [a, b] .exch
/-- ULD_G_CAS (12 R180). -/
def execUldGCas (d a b : GReg) (s : State) := uldGAtom s (.uldGCas d a b) d a b [a, b, d] .cas
/-- UST_G_32 (12 R180). -/
def execUstG32 (a b : GReg) (s : State) := ustG s (.ustG32 a b) a b 4
/-- UST_G_64 (12 R180). -/
def execUstG64 (a b : GReg) (s : State) := ustG s (.ustG64 a b) a b 8

/-! The steps of the ordering machine. -/

/-- TAKE_VALUE (13 R202). -/
def execTakeValue (core slot piece : Nat) (s : State) : Host.Outcome State Fault Refusal := .next (takeValue s core slot piece)
/-- LEAVE (13 R202). -/
def execLeave (core slot : Nat) (s : State) : Host.Outcome State Fault Refusal := .next (leave s core slot)
/-- PROPAGATION_ARRIVE (13 R202). -/
def execPropagationArrive (n : Nat) (s : State) : Host.Outcome State Fault Refusal := .next (arriveProp s n)
/-- DROP (13 R202). -/
def execDrop (core line : Nat) (s : State) : Host.Outcome State Fault Refusal := .next (dropLine s core line)
/-- ATOMIC_STEP (13 R202). -/
def execAtomicStep (core slot : Nat) (s : State) : Host.Outcome State Fault Refusal := .next (atomicStep s core slot)
/-- REPLICA_STAMP (05 R83). -/
def execReplicaStamp (n : Nat) (s : State) : Host.Outcome State Fault Refusal := .next (replicaStamp s n)
/-- REPLICA_APPLY (05 R83). -/
def execReplicaApply (ctx rset die : Nat) (s : State) : Host.Outcome State Fault Refusal := .next (replicaApply s ctx rset die)
/-- HOST_ACCESS (13 R220). -/
def execHostAccess (a : HostAccess) (s : State) : Host.Outcome State Fault Refusal := .next (hostAccessAt s a)

end Sys2Proof.Machine
end

