-- ==== Sys2Proof/Machine/Health.lean ====
section
/-! DEFINITION. Reset, training, ageing, error counting, firmware images and attestation (31_health R380 to R389). -/

namespace Sys2Proof.Machine

/-! Reset, training and ageing (31 R383 to R386, 01 R20, R21). -/

/-- PACKAGE_RESET (31 R383): the package as after reset. Whether memory keeps its contents is open (log 32). -/
def execPackageReset (s : State) : Host.Outcome State Fault Refusal :=
  let kept := s.coin.1
  .next { State.reset with agenda := s.agenda, nextId := s.nextId, free := s.free + 1,
                           mem := if kept then s.mem else [], memPoison := if kept then s.memPoison else [] }

/-- REDUCED_SERVICE_START (31 R383): the links of forme 0 and stacks 0 and 1 are trained; every fabric port trains. -/
def execReducedServiceStart (s : State) : Host.Outcome State Fault Refusal :=
  .next (if s.dev.service = .training then
      s.modDev fun d => { d with service := .reduced, ports := d.ports.map fun p => { p with link := 1 } }
    else s)

/-- TRAINING_COMPLETE (31 R384, R385): TRAINED becomes 1. -/
def execTrainingComplete (s : State) : Host.Outcome State Fault Refusal :=
  .next (if s.dev.service = .training then s else s.modDev fun d => { d with trained := true })

/-- FULL_SERVICE_START (31 R384): training is complete and no context is resident; the period becomes 1,250 ps or PLAN, and a
CAPABILITY event names it. -/
def execFullServiceStart (s : State) : Host.Outcome State Fault Refusal :=
  .next (if s.dev.service = .reduced && s.dev.trained && nothingResident s then
      let p := max 1250 s.dev.plan
      postPf (s.modDev fun d => { d with service := .full, period := p }) .capability 0 p noSource
    else s)

/-- The CODE of an event that the manual gives no CODE for: a free value. -/
def freeCode (s : State) : Nat × State := (Config.freeNat s.free % 65536, { s with free := s.free + 1 })

/-- PERIOD_CHANGE (31 R386, 01 R20): in full service and with no context resident, PERIOD takes PLAN, and a CAPABILITY event names
it. -/
def execPeriodChange (s : State) : Host.Outcome State Fault Refusal :=
  .next (if s.dev.service = .full && nothingResident s && s.dev.period != s.dev.plan then
      postPf (s.modDev fun d => { d with period := d.plan }) .capability 0 s.dev.plan noSource
    else s)

/-! Error counting (31 R380, R381). -/

/-- Post an event whose CODE and DETAIL the manual does not give: free values. -/
def postOpen (s : State) (ty : EventType) (src : EventSource) : State :=
  postPf { s with free := s.free + 2 } ty (Config.freeNat s.free % 65536) (Config.freeNat (s.free + 1)) src

/-- CORRECTED_ERROR (31 R381): CORR rises, saturating, and a CORRECTED event is posted at each multiple of 2^THRESH. -/
def execCorrectedError (die : Nat) (s : State) : Host.Outcome State Fault Refusal :=
  .next (match s.dev.errcnt[die]? with
  | none => s
  | some e =>
    if e.corr = 2 ^ 32 - 1 then s
    else
      let n := e.corr + 1
      let t := s.modDev fun d => { d with errcnt := modifyAt (fun e => { e with corr := n }) die d.errcnt }
      if e.thresh ≠ 31 ∧ n % 2 ^ e.thresh = 0 then postOpen t .corrected (dieSource die) else t)

/-- Whether a context has work on a core. -/
def worksOn (s : State) (ctx c : Nat) : Bool :=
  ((s.core c).blocks.any fun b => b.ctx == ctx) || ((s.core c).groups.any fun g => g.ctx == ctx && !isAgent g)
    || (s.ops.any fun o => o.ctx == ctx && o.core == c)

/-- Whether a context has work on the units of a die: on its cores, its engine's queues, or its galleys. -/
def worksOnDie (s : State) (ctx die : Nat) : Bool :=
  (s.cores.any fun y => Config.dieOf y.index == die && worksOn s ctx y.index)
    || (s.queues.any fun q => q.ctx == ctx && q.id % 4 == die && !q.out)
    || (s.galleys.any fun y => y.ctx == ctx && galleyDie y.id == die)

/-- Halt every context that has work on a unit, at the end of the cycle (29 R369). -/
def haltWhere (s : State) (works : Nat → Bool) : State :=
  { s with ctxs := s.ctxs.map fun x =>
      if works x.id && !x.halted then x.halts else x }

/-- An uncorrected error of a core's agent, or of another unit of the core that holds no data (31 R380). -/
def coreFault (s : State) (c : Nat) : State :=
  postOpen (haltWhere s fun x => worksOn s x c) .coreFault (Config.dieOf c, Config.clusterOf c, Config.coreOf c, 0xFF)

/-- The monitors raise PLAN, in multiples of 25 ps up to 2,500; an AGEING event carries the new one (31 R386). -/
def raisePlan (s : State) (plan : Nat) : State :=
  if plan % 25 = 0 ∧ 1250 ≤ plan ∧ plan ≤ 2500 ∧ s.dev.plan < plan then
    let r := freeCode (s.modDev fun d => { d with plan := plan })
    postPf r.2 .ageing r.1 plan noSource
  else s

/-- The cores of a die. -/
def coresOf (die : Nat) : List Nat := (List.range Config.cores).filter fun c => Config.dieOf c == die

/-- On a die where a plan of 2,500 ps cannot hold timing, that is reported as a CORE_FAULT of each of its cores (31 R386). -/
def timingLost (s : State) (die : Nat) : State := if s.dev.plan = 2500 then (coresOf die).foldl coreFault s else s

/-- AGEING_PLAN_RAISE (31 R386): PLAN rises to bits [11:0] of the operand; where the bits above give 1 + d, a plan of 2,500 ps cannot hold
timing on die d (log 33). -/
def execAgeingPlanRaise (plan : Nat) (s : State) : Host.Outcome State Fault Refusal :=
  let t := raisePlan s (plan % 4096)
  .next (match plan / 4096 with
  | 0 => t
  | d + 1 => timingLost t d)

/-- A group met by an uncorrected error in its state is suspended with no handler (31 R380). -/
def groupFault (s : State) (c : Nat) (g : Group) (detail : Nat) : State :=
  postEvent (suspend s c g.slot) g.ctx .poison 0xFFFF 0xFF detail (groupSource c g.slot)

/-- Poison byte `n` of what an engine operation has read and not landed. -/
def strikeLanding (n : Nat) : OpKind → OpKind
  | .copy c => .copy { c with buffer := modifyAt (fun p => (p.1, p.2.1, true)) n c.buffer }
  | .send x => .send { x with sent := modifyAt (fun p => (p.1, modifyAt (fun b => (b.1, true)) (n % 16) p.2)) (n / 16) x.sent }
  | .bulk b => .bulk { b with messages := modifyAt (fun m =>
      { m with bytes := m.bytes.map (modifyAt (fun b => (b.1, true)) (n % 256)) }) (n / 256) b.messages }
  | k => k

/-- What an uncorrected error does where it is found (31 R380). Row 0 is the agent's. -/
def strike (s : State) (die : Nat) : ErrorSite → State
  | .memory pa => if pa < 2 ^ 52 then { s with memPoison := pa :: s.memPoison } else s
  | .view c pa => s.modCore c fun x => { x with view := x.view.map fun v => if (v.byte? pa).isSome then { v with bad := pa :: v.bad } else v }
  | .landing op n => s.modOp op fun o => { o with kind := strikeLanding n o.kind }
  | .scratch c off => if c < Config.cores ∧ off < Config.scratchBytes c then s.modCore c fun x => { x with poison := off :: x.poison } else s
  | .slotByte c off =>
    if c < Config.cores ∧ off < 64 * Config.slotBytes c then s.modCore c fun x => { x with slotPoison := off :: x.slotPoison } else s
  | .platenByte c p off =>
    if c < Config.cores ∧ p < 2 ∧ off < 128 * Config.width c then
      s.modCore c fun x => { x with slotPoison := (2 ^ 20 * (1 + p) + off) :: x.slotPoison }
    else s
  | .row c r =>
    if r = 0 then coreFault s c
    else match (s.core c).groups.find? fun g => (g.rowsOf.contains r) && !isAgent g with
      | some g => groupFault s c g r
      | none => s
  | .groupState c slot => match s.group? c slot with
    | some g => groupFault s c g 64
    | none => s
  | .coreUnit c => if c < Config.cores then coreFault s c else s
  | .dieUnit => postOpen (haltWhere s fun x => worksOnDie s x die) .coreFault (dieSource die)

/-- UNCORRECTED_ERROR (31 R380, R381): UNCORR of the die rises, saturating, and the error is handled by where it is found. -/
def execUncorrectedError (die : Nat) (site : ErrorSite) (s : State) : Host.Outcome State Fault Refusal :=
  .next (if die < 12 then
      strike (s.modDev fun d =>
        { d with errcnt := modifyAt (fun e => { e with uncorr := min (e.uncorr + 1) 65535 }) die d.errcnt }) die site
    else s)

/-! Firmware and attestation (31 R387 to R389, 18 R255). -/

/-- The charge table that an image fixes at boot: its entries, and the default for a class without one (18 R255). -/
def imageCharges (img : FirmwareImage) : List (Nat × Nat × Nat × Nat) :=
  defaultCharges.map fun e => match img.charges.find? fun c => c.1 == e.1 with
    | some c => (e.1, e.2.1, c.2.1, c.2.2)
    | none => e

/-- FIRMWARE_IMAGE (31 R387, R388): an image is accepted if both signatures verify. The first runs at boot, fixes the charge table and
heads the log; a later one waits for a live hand-over. -/
def execFirmwareImage (img : FirmwareImage) (s : State) : Host.Outcome State Fault Refusal :=
  .next (if img.ecdsaOk && img.lmsOk then
      s.modDev fun d =>
        if d.image.isSome then { d with pendingImage := some img }
        else { d with image := some img, charges := imageCharges img,
                      log := d.log ++ [⟨d.log.length % 2 ^ 32, img.measurement, none⟩] }
    else s)

/-- LIVE_HANDOVER (31 R388, R389): the hand-over entry is appended, agents run the new image, and a HANDOVER event carries the entry's
number. The charge table stays. -/
def execLiveHandover (s : State) : Host.Outcome State Fault Refusal :=
  .next (match s.dev.image, s.dev.pendingImage with
  | some old, some new =>
    let n := s.dev.log.length % 2 ^ 32
    let r := freeCode (s.modDev fun d =>
      { d with image := some new, pendingImage := none, log := d.log ++ [⟨n, new.measurement, some old.measurement⟩] })
    postPf r.2 .handover r.1 n noSource
  | _, _ => s)

/-- MEASUREMENTS (31 R389): a response carries the measurement of the image whose agents produce it, and the log. -/
def execMeasurements (s : State) : Host.Outcome State Fault Refusal :=
  .next (match s.dev.image with
  | some img => s.modDev fun d => { d with response := some (img.measurement, d.log) }
  | none => s)

end Sys2Proof.Machine
end

