-- ==== Sys2Proof/Machine/LaneInt.lean ====
section
/-! DEFINITION. The integer lane instructions: IARITH, IMINMAX, LOGIC, SHIFT, BITS, BFIELD, ICMP, I64, IMAD, MOVE, IALUG, MOVG and
SHFL (11_lane R130 to R137, R140, R145). -/

namespace Sys2Proof.Machine

/-! The functions of one lane. -/

/-- iadd (11 R130). -/
def aluAdd (a b : Word) : Word := a + b
/-- isub (11 R130). -/
def aluSub (a b : Word) : Word := a - b
/-- imul (11 R130). -/
def aluMul (a b : Word) : Word := a * b
/-- imulh.z (11 R130): ⌊a × b ÷ 2^32⌋. -/
def aluMulhZ (a b : Word) : Word := BitVec.ofNat 32 (a.toNat * b.toNat / 2 ^ 32)
/-- imulh.s (11 R131). -/
def aluMulhS (a b : Word) : Word := BitVec.ofInt 32 (a.toInt * b.toInt / 2 ^ 32)
/-- imin.s (11 R130). -/
def aluMinS (a b : Word) : Word := if a.toInt ≤ b.toInt then a else b
/-- imax.s (11 R130). -/
def aluMaxS (a b : Word) : Word := if a.toInt ≤ b.toInt then b else a
/-- imin.z (11 R130). -/
def aluMinZ (a b : Word) : Word := if a.toNat ≤ b.toNat then a else b
/-- imax.z (11 R130). -/
def aluMaxZ (a b : Word) : Word := if a.toNat ≤ b.toNat then b else a
/-- andn (11 R130): a AND NOT b. -/
def aluAndn (a b : Word) : Word := a &&& ~~~b
/-- The shift count b[4:0]. -/
def count5 (b : Word) : Nat := b.toNat % 32
/-- shl (11 R130). -/
def aluShl (a b : Word) : Word := a <<< count5 b
/-- shr (11 R130). -/
def aluShr (a b : Word) : Word := a >>> count5 b
/-- sar (11 R130). -/
def aluSar (a b : Word) : Word := a.sshiftRight (count5 b)
/-- rotl (11 R130). -/
def aluRotl (a b : Word) : Word := a.rotateLeft (count5 b)
/-- popc (11 R130). -/
def aluPopc (a : Word) : Word := BitVec.ofNat 32 (popcount 32 a.toNat)
/-- clz (11 R130). -/
def aluClz (a : Word) : Word := BitVec.ofNat 32 (leadingZeros 32 a.toNat)
/-- ctz (11 R130). -/
def aluCtz (a : Word) : Word := BitVec.ofNat 32 (trailingZeros 32 a.toNat)
/-- brev (11 R130). -/
def aluBrev (a : Word) : Word := BitVec.ofNat 32 (reverseBits 32 a.toNat)
/-- pos of a bit-field operand (11 R133). -/
def fieldPos (b : Word) : Nat := b.toNat % 32
/-- len of a bit-field operand (11 R133). -/
def fieldLen (b : Word) : Nat := min (bits b.toNat 8 6) (32 - fieldPos b)
/-- bfe.z (11 R133). -/
def aluBfeZ (a b : Word) : Word := BitVec.ofNat 32 (a.toNat / 2 ^ fieldPos b % 2 ^ fieldLen b)
/-- bfe.s (11 R133). -/
def aluBfeS (a b : Word) : Word :=
  if fieldLen b = 0 then 0 else BitVec.ofInt 32 (signed (fieldLen b) (a.toNat / 2 ^ fieldPos b))
/-- bfi (11 R133). -/
def aluBfi (a b d : Word) : Word :=
  BitVec.ofNat 32 (d.toNat - d.toNat / 2 ^ fieldPos b % 2 ^ fieldLen b * 2 ^ fieldPos b
    + a.toNat % 2 ^ fieldLen b * 2 ^ fieldPos b)
/-- Byte j of perm's result (11 R133). -/
def permByte (a b d : Word) (j : Nat) : Nat :=
  let sel := bits d.toNat (4 * j) 4
  let y := bits (b.toNat * 2 ^ 32 + a.toNat) (8 * (sel % 8)) 8
  if sel / 8 = 1 then (if y / 128 = 1 then 0xFF else 0) else y
/-- perm (11 R133). -/
def aluPerm (a b d : Word) : Word :=
  BitVec.ofNat 32 (permByte a b d 0 + 2 ^ 8 * permByte a b d 1 + 2 ^ 16 * permByte a b d 2 + 2 ^ 24 * permByte a b d 3)
/-- imad.lo (11 R131). -/
def aluMadLo (a b d : Word) : Word := a * b + d
/-- imad.wide.z (11 R131). -/
def aluMadWideZ (a b : Word) (d : Nat) : Nat := (a.toNat * b.toNat + d) % 2 ^ 64
/-- imad.wide.s (11 R131). -/
def aluMadWideS (a b : Word) (d : Nat) : Nat := ((a.toInt * b.toInt + (d : Int)) % (2 ^ 64 : Int)).toNat
/-- iadd64 (11 R132). -/
def aluAdd64 (a b : Nat) : Nat := (a + b) % 2 ^ 64
/-- isub64 (11 R132). -/
def aluSub64 (a b : Nat) : Nat := (a + 2 ^ 64 - b % 2 ^ 64) % 2 ^ 64
/-- shl64 (11 R132). -/
def aluShl64 (a : Nat) (b : Word) : Nat := a * 2 ^ (b.toNat % 64) % 2 ^ 64
/-- shr64 (11 R132). -/
def aluShr64 (a : Nat) (b : Word) : Nat := a / 2 ^ (b.toNat % 64)
/-- The truth of an integer condition (11 R134). -/
def condInt (c : ICond) (a b : Int) : Bool :=
  match c with
  | .eq => a == b | .ne => a != b | .lt => decide (a < b) | .le => decide (a ≤ b) | .gt => decide (b < a) | .ge => decide (b ≤ a)

/-! The shapes of the family. -/

/-- A register operation of two lane operands, which may read vd as a third (11 R130, R131, R133). -/
def aluR (s : State) (i : Instr) (k d a b : Nat) (readD : Bool) (f : Word → Word → Word → Word) :
    Host.Outcome State Fault Refusal :=
  laneIssue s i [d, a, b] (readsV s k ([a, b] ++ if readD then [d] else [])) fun w =>
    done (writeLanes s w d (activeOf s w k) 2 fun l => f (laneV s w a l) (laneV s w b l) (laneV s w d l)) w

/-- A register operation of one lane operand (11 R130, R135). -/
def aluR1 (s : State) (i : Instr) (k d a : Nat) (f : Word → Word) : Host.Outcome State Fault Refusal :=
  laneIssue s i [d, a] (readsV s k [a]) fun w =>
    done (writeLanes s w d (activeOf s w k) 2 fun l => f (laneV s w a l)) w

/-- A register operation with a uniform second operand, read once (11 R137). -/
def aluG (s : State) (i : Instr) (k d a g : Nat) (f : Word → Word → Word) : Host.Outcome State Fault Refusal :=
  laneIssue s i [d, a] (fun w => readsV s k [a] w ++ srcG w.g false g) fun w =>
    done (writeLanes s w d (activeOf s w k) 2 fun l => f (laneV s w a l) ((laneG s w g).setWidth 32)) w

/-- A shuffle (11 R145): `src l c` is the lane a lane reads, none outside 0 to 31. -/
def shuffle (s : State) (i : Instr) (k d a b : Nat) (src : Nat → Nat → Option Nat) : Host.Outcome State Fault Refusal :=
  laneIssue s i [d, a, b] (fun w => srcK false w.sp.mask k ++ [srcV a (BitVec.allOnes 32), srcV b w.sp.mask]) fun w =>
    done (writeLanes s w d (activeOf s w k) 3 fun l =>
      laneV s w a ((src l (count5 (laneV s w b l))).getD l)) w

/-! IARITH, IMINMAX, LOGIC, SHIFT, BITS (11 R130). -/

/-- IADD (11 R130). -/
def execIadd (k : KReg) (d a b : VReg) (s : State) := aluR s (.iadd k d a b) k d a b false fun x y _ => aluAdd x y
/-- ISUB (11 R130). -/
def execIsub (k : KReg) (d a b : VReg) (s : State) := aluR s (.isub k d a b) k d a b false fun x y _ => aluSub x y
/-- IMUL (11 R130). -/
def execImul (k : KReg) (d a b : VReg) (s : State) := aluR s (.imul k d a b) k d a b false fun x y _ => aluMul x y
/-- IMULH_Z (11 R130). -/
def execImulhZ (k : KReg) (d a b : VReg) (s : State) := aluR s (.imulhZ k d a b) k d a b false fun x y _ => aluMulhZ x y
/-- IMIN_S (11 R130). -/
def execIminS (k : KReg) (d a b : VReg) (s : State) := aluR s (.iminS k d a b) k d a b false fun x y _ => aluMinS x y
/-- IMAX_S (11 R130). -/
def execImaxS (k : KReg) (d a b : VReg) (s : State) := aluR s (.imaxS k d a b) k d a b false fun x y _ => aluMaxS x y
/-- IMIN_Z (11 R130). -/
def execIminZ (k : KReg) (d a b : VReg) (s : State) := aluR s (.iminZ k d a b) k d a b false fun x y _ => aluMinZ x y
/-- IMAX_Z (11 R130). -/
def execImaxZ (k : KReg) (d a b : VReg) (s : State) := aluR s (.imaxZ k d a b) k d a b false fun x y _ => aluMaxZ x y
/-- AND (11 R130). -/
def execAnd (k : KReg) (d a b : VReg) (s : State) := aluR s (.and k d a b) k d a b false fun x y _ => x &&& y
/-- OR (11 R130). -/
def execOr (k : KReg) (d a b : VReg) (s : State) := aluR s (.or k d a b) k d a b false fun x y _ => x ||| y
/-- XOR (11 R130). -/
def execXor (k : KReg) (d a b : VReg) (s : State) := aluR s (.xor k d a b) k d a b false fun x y _ => x ^^^ y
/-- ANDN (11 R130). -/
def execAndn (k : KReg) (d a b : VReg) (s : State) := aluR s (.andn k d a b) k d a b false fun x y _ => aluAndn x y
/-- SHL (11 R130). -/
def execShl (k : KReg) (d a b : VReg) (s : State) := aluR s (.shl k d a b) k d a b false fun x y _ => aluShl x y
/-- SHR (11 R130). -/
def execShr (k : KReg) (d a b : VReg) (s : State) := aluR s (.shr k d a b) k d a b false fun x y _ => aluShr x y
/-- SAR (11 R130). -/
def execSar (k : KReg) (d a b : VReg) (s : State) := aluR s (.sar k d a b) k d a b false fun x y _ => aluSar x y
/-- ROTL (11 R130). -/
def execRotl (k : KReg) (d a b : VReg) (s : State) := aluR s (.rotl k d a b) k d a b false fun x y _ => aluRotl x y
/-- POPC (11 R130). -/
def execPopc (k : KReg) (d a : VReg) (s : State) := aluR1 s (.popc k d a) k d a aluPopc
/-- CLZ (11 R130). -/
def execClz (k : KReg) (d a : VReg) (s : State) := aluR1 s (.clz k d a) k d a aluClz
/-- CTZ (11 R130). -/
def execCtz (k : KReg) (d a : VReg) (s : State) := aluR1 s (.ctz k d a) k d a aluCtz
/-- BREV (11 R130). -/
def execBrev (k : KReg) (d a : VReg) (s : State) := aluR1 s (.brev k d a) k d a aluBrev

/-! BFIELD (11 R133). -/

/-- BFE_Z (11 R133). -/
def execBfeZ (k : KReg) (d a b : VReg) (s : State) := aluR s (.bfeZ k d a b) k d a b false fun x y _ => aluBfeZ x y
/-- BFE_S (11 R133). -/
def execBfeS (k : KReg) (d a b : VReg) (s : State) := aluR s (.bfeS k d a b) k d a b false fun x y _ => aluBfeS x y
/-- BFI (11 R133). -/
def execBfi (k : KReg) (d a b : VReg) (s : State) := aluR s (.bfi k d a b) k d a b true aluBfi
/-- PERM (11 R133). -/
def execPerm (k : KReg) (d a b : VReg) (s : State) := aluR s (.perm k d a b) k d a b true aluPerm

/-! ICMP (11 R134). -/

/-- The registers an integer compare reads of an operand (11 R134). -/
def intSpan (t : IType) (n : Nat) : List Nat :=
  match t with
  | .s32 => [n] | .z32 => [n] | .s64 => [n, n + 1] | .z64 => [n, n + 1]

/-- An integer operand of a compare (11 R134). -/
def intOperand (s : State) (w : Issuer) (t : IType) (n l : Nat) : Int :=
  match t with
  | .s32 => (laneV s w n l).toInt
  | .z32 => ((laneV s w n l).toNat : Int)
  | .s64 => signed 64 (lanePair s w n l)
  | .z64 => (lanePair s w n l : Int)

/-- ICMP (11 R134): the condition's truth in the active lanes of a mask register. -/
def execIcmp (k : KReg) (c : ICond) (e : KReg) (a b : VReg) (t : IType) (s : State) : Host.Outcome State Fault Refusal :=
  laneIssue s (.icmp k c e a b t) [a, b] (readsV s k (intSpan t a ++ intSpan t b)) fun w =>
    done (putK s w e (activeOf s w k) 3 3 (maskFrom fun l => condInt c (intOperand s w t a l) (intOperand s w t b l))) w

/-! I64 and IMAD (11 R131, R132). -/

/-- IADD64 (11 R132). -/
def execIadd64 (k : KReg) (d a b : VReg) (s : State) : Host.Outcome State Fault Refusal :=
  laneIssue s (.iadd64 k d a b) [d, a, b] (readsV s k [a, a + 1, b, b + 1]) fun w =>
    done (writePairs s w d (activeOf s w k) 2 fun l => aluAdd64 (lanePair s w a l) (lanePair s w b l)) w
/-- ISUB64 (11 R132). -/
def execIsub64 (k : KReg) (d a b : VReg) (s : State) : Host.Outcome State Fault Refusal :=
  laneIssue s (.isub64 k d a b) [d, a, b] (readsV s k [a, a + 1, b, b + 1]) fun w =>
    done (writePairs s w d (activeOf s w k) 2 fun l => aluSub64 (lanePair s w a l) (lanePair s w b l)) w
/-- SHL64 (11 R132). -/
def execShl64 (k : KReg) (d a b : VReg) (s : State) : Host.Outcome State Fault Refusal :=
  laneIssue s (.shl64 k d a b) [d, a, b] (readsV s k [a, a + 1, b]) fun w =>
    done (writePairs s w d (activeOf s w k) 2 fun l => aluShl64 (lanePair s w a l) (laneV s w b l)) w
/-- SHR64 (11 R132). -/
def execShr64 (k : KReg) (d a b : VReg) (s : State) : Host.Outcome State Fault Refusal :=
  laneIssue s (.shr64 k d a b) [d, a, b] (readsV s k [a, a + 1, b]) fun w =>
    done (writePairs s w d (activeOf s w k) 2 fun l => aluShr64 (lanePair s w a l) (laneV s w b l)) w
/-- IMAD_LO (11 R131). -/
def execImadLo (k : KReg) (d a b : VReg) (s : State) := aluR s (.imadLo k d a b) k d a b true aluMadLo
/-- IMAD_WIDE_Z (11 R131). -/
def execImadWideZ (k : KReg) (d a b : VReg) (s : State) : Host.Outcome State Fault Refusal :=
  laneIssue s (.imadWideZ k d a b) [d, a, b] (readsV s k [a, b, d, d + 1]) fun w =>
    done (writePairs s w d (activeOf s w k) 2 fun l => aluMadWideZ (laneV s w a l) (laneV s w b l) (lanePair s w d l)) w
/-- IMAD_WIDE_S (11 R131). -/
def execImadWideS (k : KReg) (d a b : VReg) (s : State) : Host.Outcome State Fault Refusal :=
  laneIssue s (.imadWideS k d a b) [d, a, b] (readsV s k [a, b, d, d + 1]) fun w =>
    done (writePairs s w d (activeOf s w k) 2 fun l => aluMadWideS (laneV s w a l) (laneV s w b l) (lanePair s w d l)) w
/-- IMULH_S (11 R131). -/
def execImulhS (k : KReg) (d a b : VReg) (s : State) := aluR s (.imulhS k d a b) k d a b false fun x y _ => aluMulhS x y

/-! MOVE (11 R135, R136). -/

/-- SEL (11 R136): k selects, over the split's whole mask. -/
def execSel (k : KReg) (d a b : VReg) (s : State) : Host.Outcome State Fault Refusal :=
  laneIssue s (.sel k d a b) [d, a, b] (fun w => srcK false w.sp.mask k ++ [srcV a w.sp.mask, srcV b w.sp.mask]) fun w =>
    done (writeLanes s w d w.sp.mask 2 fun l =>
      if (maskK s w false k).getLsbD l then laneV s w a l else laneV s w b l) w
/-- MOV (11 R135). -/
def execMov (k : KReg) (d a : VReg) (s : State) := aluR1 s (.mov k d a) k d a fun x => x
/-- LANEID (11 R135). -/
def execLaneid (k : KReg) (d : VReg) (s : State) : Host.Outcome State Fault Refusal :=
  laneIssue s (.laneid k d) [d] (readsV s k []) fun w =>
    done (writeLanes s w d (activeOf s w k) 2 fun l => BitVec.ofNat 32 l) w

/-! IALUG and MOVG (11 R137, R140). -/

/-- IALUG_IADD (11 R137). -/
def execIalugIadd (k : KReg) (d a : VReg) (g : GReg) (s : State) := aluG s (.ialugIadd k d a g) k d a g aluAdd
/-- IALUG_ISUB (11 R137). -/
def execIalugIsub (k : KReg) (d a : VReg) (g : GReg) (s : State) := aluG s (.ialugIsub k d a g) k d a g aluSub
/-- IALUG_IMUL (11 R137). -/
def execIalugImul (k : KReg) (d a : VReg) (g : GReg) (s : State) := aluG s (.ialugImul k d a g) k d a g aluMul
/-- IALUG_AND (11 R137). -/
def execIalugAnd (k : KReg) (d a : VReg) (g : GReg) (s : State) := aluG s (.ialugAnd k d a g) k d a g fun x y => x &&& y
/-- IALUG_OR (11 R137). -/
def execIalugOr (k : KReg) (d a : VReg) (g : GReg) (s : State) := aluG s (.ialugOr k d a g) k d a g fun x y => x ||| y
/-- IALUG_XOR (11 R137). -/
def execIalugXor (k : KReg) (d a : VReg) (g : GReg) (s : State) := aluG s (.ialugXor k d a g) k d a g fun x y => x ^^^ y
/-- IALUG_SHL (11 R137). -/
def execIalugShl (k : KReg) (d a : VReg) (g : GReg) (s : State) := aluG s (.ialugShl k d a g) k d a g aluShl
/-- IALUG_SHR (11 R137). -/
def execIalugShr (k : KReg) (d a : VReg) (g : GReg) (s : State) := aluG s (.ialugShr k d a g) k d a g aluShr
/-- MOVG (11 R140). -/
def execMovg (k : KReg) (d : VReg) (g : GReg) (s : State) : Host.Outcome State Fault Refusal :=
  laneIssue s (.movg k d g) [d] (fun w => readsV s k [] w ++ srcG w.g false g) fun w =>
    done (writeLanes s w d (activeOf s w k) 2 fun _ => (laneG s w g).setWidth 32) w

/-! SHFL (11 R145). -/

/-- SHFL_IDX (11 R145). -/
def execShflIdx (k : KReg) (d a b : VReg) (s : State) := shuffle s (.shflIdx k d a b) k d a b fun _ c => some c
/-- SHFL_XOR (11 R145). -/
def execShflXor (k : KReg) (d a b : VReg) (s : State) := shuffle s (.shflXor k d a b) k d a b fun l c => some (l ^^^ c)
/-- SHFL_UP (11 R145). -/
def execShflUp (k : KReg) (d a b : VReg) (s : State) :=
  shuffle s (.shflUp k d a b) k d a b fun l c => if c ≤ l then some (l - c) else none
/-- SHFL_DOWN (11 R145). -/
def execShflDown (k : KReg) (d a b : VReg) (s : State) :=
  shuffle s (.shflDown k d a b) k d a b fun l c => if l + c ≤ 31 then some (l + c) else none

end Sys2Proof.Machine
end

