-- ==== Sys2Proof/Machine/Sampling.lean ====
section
/-! DEFINITION. What holds a split, sampling, trace units, and the events of the counts that run with a context (18_vacate R254, R259,
29_debug R372 to R375). -/

namespace Sys2Proof.Machine

/-- The scheduler of a slot (03 R42). -/
def schedOf (slot : Nat) : Nat := slot / 8

/-- Whether the block of a group runs: an agent's group has none (log 6), a vacating block runs while it drains (18 R261), and the
routine calls of walks to be cut go on (18 R265). -/
def blockRuns (x : Core) (g : Group) : Bool :=
  match x.block? g.block with
  | none => true
  | some b => b.phase == .running || b.phase == .vacating .drain || (b.phase == .vacating .save && !g.service.isEmpty)

/-- Whether a block is being vacated. -/
def Block.vacates (b : Block) : Bool := match b.phase with | .vacating _ => true | _ => false

/-- Whether a group's context lets a split of it issue: it is not halted, or this split is stepped (29 R369, R371), or the vacate of its block
waits for the routine calls of its walks (20 R265, R271; log 43). -/
def ctxRuns (x : Ctx) (y : Core) (g : Group) (i : Nat) : Bool :=
  !x.halted || x.step == some (y.index, g.slot, i) || (!g.service.isEmpty && (y.block? g.block).any Block.vacates)

/-- Whether an unanswered fault record holds a split: its fetch or its instruction's own access, or a spill access of its
group (03 R40, 05 R78). -/
def faultHeld (x : Ctx) (c slot i : Nat) : Bool :=
  let mine (o : FaultOwner) : Bool := match o with
    | .fetch a b j => a == c && b == slot && j == i
    | .instr a b j => a == c && b == slot && j == i
    | .spill a b _ => a == c && b == slot
    | _ => false
  (x.faults.any fun f => mine f.owner) || x.faultWait.any fun f => mine f.owner

/-- Whether a context's cycle counts run: it is not halted, or a step of it is pending (29 R371, R372; log 43). -/
def Ctx.runs (x : Ctx) : Bool := !x.halted || x.step.isSome

/-- The holds that end by an event, not by trying again. -/
def Hold.stands : Hold → Bool
  | .yield => true
  | .arrival => true
  | .heldResult => true
  | .xpermit _ _ => true
  | _ => false

/-- Whether a split may try to issue in this cycle: nothing that ends by an event holds it, its group is not suspended by another split's
fault (05 R78), and it has not tried yet. -/
def mayTry (s : State) (c : Nat) (g : Group) (sp : Split) : Bool :=
  match s.ctx? g.ctx with
  | none => false
  | some x =>
    !(s.core c).failed && !g.suspended && g.trapWait.isNone && !sp.tried && !sp.hold.stands && blockRuns (s.core c) g
      && !(g.splits.any fun t => t.idx != sp.idx && t.hold == .faultSuspension) && ctxRuns x (s.core c) g sp.idx && !faultHeld x c g.slot sp.idx && !(s.trapped.any fun t => t.core == c && t.slot == g.slot)

/-! Sampling (29 R373 to R375). -/

/-- The stall code of a hold (29 R375). -/
def Hold.code : Hold → Option Nat
  | .none => Option.none
  | .lookahead => some 3
  | .waitGate g => some (4 + gateNum g)
  | .waitObject => some 9
  | .drain15 => some 10
  | .fence _ _ _ => some 11
  | .vacateStall => some 12
  | .commandQueueFull => some 13
  | .epi _ => some 14
  | .epiRead _ _ => some 14
  | .heldResult => some 15
  | .unbind => some 15
  | .xpermit _ _ => some 16
  | .arrival => some 17
  | .yield => some 18
  | .faultSuspension => some 19
  | .recordFailed => some 19
  | .fetch => some 21
  | .storeQueueFull => some 26
  | .channelPriority => some 24

/-- Whether a split issued in the present cycle: one that has read an EPI's record has not (16 R234). -/
def hasIssued (s : State) (c slot i : Nat) : Bool :=
  (s.issued.any fun p => p.1 == c && p.2.1 == 4 * slot + i)
    && !((((s.group? c slot).bind fun g => g.split? i).map fun sp => match sp.hold with | .epiRead _ _ => true | _ => false).getD false)

/-- What keeps a split that nothing in its own hold keeps: a fault of its group, a trap sequence, a vacate, or another split's step. -/
def outerCode (s : State) (x : Ctx) (c : Nat) (g : Group) (i : Nat) : Option Nat :=
  if faultHeld x c g.slot i then some 19
  else if g.trapWait.isSome || g.suspended then some 20
  else if !blockRuns (s.core c) g then some 23
  else if !ctxRuns x (s.core c) g i then some 25
  else none

/-- The lowest code that applies to a split which a fault suspends: that of its WAIT or fence, which is not met either, else 19 (29 R375). -/
def faultCode (s : State) (x : Ctx) (c : Nat) (g : Group) (sp : Split) : Nat :=
  match fetch s c x sp.pc with
  | .word v _ => match decode (inService g) v with
    | .ok (.waitGate _ y) => 4 + gateNum y
    | .ok (.waitObject _ _) => 9
    | .ok (.fenceAll _) => 11
    | .ok (.fenceAcq _) => 11
    | .ok (.fenceRel _) => 11
    | _ => 19
  | _ => 19

/-- The code of what holds a split at the end of the cycle (29 R375): a ready one that was not selected has not tried in the cycle, so that
a hold of an earlier try holds it no more. -/
def holdCode (s : State) (x : Ctx) (c : Nat) (g : Group) (sp : Split) : Option Nat :=
  if mayTry s c g sp then none
  else match sp.hold with
    | .faultSuspension => some (faultCode s x c g sp)
    | h => h.code

/-- The stall reason of a split (29 R375): the lowest code of those that apply; a ready one waits for its pipe. -/
def stallReason (s : State) (x : Ctx) (c : Nat) (g : Group) (sp : Split) : Nat :=
  if hasIssued s c g.slot sp.idx then 0
  else match holdCode s x c g sp, outerCode s x c g sp.idx with
    | some a, some b => min a b
    | some a, none => a
    | none, some b => b
    | none, none => 1 + nextPipe s c g sp

/-- The 16 bytes of a sample of a group (29 R374). -/
def sampleBytes (s : State) (x : Ctx) (c sched : Nat) (g : Group) : List Byte :=
  let first : Nat := match g.splits.head? with
    | none => 22 * 2 ^ 57
    | some sp => sp.idx + sp.pc.toNat / 4 * 4 + stallReason s x c g sp * 2 ^ 57
                  + (if hasIssued s c g.slot sp.idx then 2 ^ 62 else 0)
  bytesOf 8 first ++ bytesOf 2 g.traceId ++ bytesOf 1 sched ++ bytesOf 1 0 ++ bytesOf 4 x.cycles

/-- Whether a context samples in the present cycle (29 R373, R374). -/
def sampleDue (x : Ctx) : Bool :=
  let v := x.trcctl.toNat
  bit v 1 && trcUsable v && decide (bits v 2 4 ≤ 10) && x.runs && x.cycles % 2 ^ (bits v 2 4 + 6) == 0

/-- The next group of a context on a scheduler in ascending slot from a cursor on, wrapping around (29 R374). -/
def nextSampled (y : Core) (ctx sched cursor : Nat) : Option Group :=
  ((List.range 8).map fun i => 8 * sched + (cursor + i) % 8).findSome? fun slot =>
    y.groups.find? fun g => g.ctx == ctx && g.slot == slot

/-- Write the sample of a scheduler for a context, and the count (29 R373, R374). -/
def sampleFor (s : State) (c sched : Nat) (x : Ctx) : State :=
  let t := (s.core c).tracer x.id
  if !sampleDue x || t.sampledAt.getD sched 0 == s.cycle + 1 then s
  else match nextSampled (s.core c) x.id sched (t.cursors.getD sched 0) with
    | none => s
    | some g =>
      let log := trcLog x.trcctl.toNat
      let at_ := trcRegion x c + 2 ^ (log - 2) + 16 * (t.samples % 2 ^ (log - 6))
      let r := writeVa s (.core c) x at_ (sampleBytes s x c sched g)
      let t := { t with samples := t.samples + 1, cursors := t.cursors.set sched (g.slot % 8 + 1),
                        sampledAt := t.sampledAt.set sched (s.cycle + 1) }
      (writeVa (r.2.modCore c fun y => y.setTracer t) (.core c) x (trcRegion x c + 8) (bytesOf 8 t.samples)).2

/-- SAMPLE (29 R374): a scheduler samples a group of each context whose period falls in this cycle. -/
def execSample (core sched : Nat) (s : State) : Host.Outcome State Fault Refusal :=
  .next (if sched < 4 then s.ctxs.foldl (fun s x => sampleFor s core sched x) s else s)

/-- Whether a scheduler has sampled the present cycle. -/
def hasSampled (s : State) (c sched : Nat) : Bool :=
  (s.core c).tracers.any fun t => t.sampledAt.getD sched 0 == s.cycle + 1

/-- TRACE_UNIT_WRITE (29 R373): a full unit of a core's trace buffer goes to its ring. -/
def execTraceUnitWrite (core : Nat) (s : State) : Host.Outcome State Fault Refusal :=
  .next (match (s.core core).tracers.find? fun t => decide (64 ≤ t.buffer.length) with
  | none => s
  | some t => match s.ctx? t.ctx with
    | none => s
    | some x => drainUnit s x core)

/-! Counts that run out (18 R254, R259). -/

/-- BLKMAX_OVERRUN (18 R254): the elapsed count of a block that may drain has passed BLKMAX (log 60). -/
def execBlkmaxOverrun (core block : Nat) (s : State) : Host.Outcome State Fault Refusal :=
  .next (match (s.core core).block? block with
  | none => s
  | some b =>
    if b.overrun || !bit b.rec_.modes 1 || b.elapsed ≤ b.rec_.blkmax then s
    else postEvent (s.modBlock core block fun k => { k with overrun := true }) b.ctx .blkmaxOverrun 0xFFFF 0 b.blockIndex
      (groupSource core 0xFF))

/-- The class of charge of a charged instruction (18 R255). -/
def classOf : Instr → Option Nat
  | .tcopy _ _ _ => some 0
  | .tcopyq _ _ _ => some 2
  | .ldg32 _ _ _ _ => some 4
  | .ldg64 _ _ _ _ => some 4
  | .ldg128 _ _ _ _ => some 4
  | .ldg32Acq _ _ _ _ => some 4
  | .uldG32 _ _ => some 4
  | .uldG64 _ _ => some 4
  | .atomg _ _ _ _ => some 5
  | .uldGAdd _ _ _ => some 5
  | .uldGExch _ _ _ => some 5
  | .uldGCas _ _ _ => some 5
  | .mstream _ _ _ _ _ => some 6
  | .mload _ _ => some 7
  | .epi _ => some 8
  | .amovLd _ _ => some 9
  | .amovSt _ _ => some 9
  | .xsend _ _ _ => some 10
  | .fbulk _ _ => some 11
  | .tvwalk _ _ _ => some 12
  | .tvresume _ _ _ => some 12
  | .gput _ _ _ => some 13
  | .gtake _ _ _ => some 13
  | _ => none

/-- The channel of the charged operation a split holds (18 R259). -/
def channelAt (s : State) (c : Nat) (g : Group) (sp : Split) : Option Nat :=
  match s.ctx? g.ctx with
  | none => none
  | some x => match fetch s c x sp.pc with
    | .word w _ => match decode (inService g) w with
      | .ok i => (classOf i).map fun k => channelOf s k
      | .error _ => none
    | _ => none

/-- CHANNEL_PRIORITY_HOLD (18 R259): an operation that a vacate stall has held for 1,024 cycles keeps its channel from the others of its
context. -/
def execChannelPriorityHold (core slot split : Nat) (s : State) : Host.Outcome State Fault Refusal :=
  .next (match s.group? core slot with
  | none => s
  | some g => match g.split? split with
    | none => s
    | some sp =>
      if sp.hold = .vacateStall ∧ 1024 ≤ sp.heldFor then
        match channelAt s core g sp with
        | none => s
        | some k => s.modCtx g.ctx fun x =>
            if x.priority.any fun p => p.1 == k then x else { x with priority := x.priority ++ [(k, claimant core g split)] }
      else s)

end Sys2Proof.Machine
end

