-- ==== Sys2Proof/Machine/Dispatch.lean ====
section
/-! DEFINITION. The meaning of every instruction and event, one arm a constructor. -/

namespace Sys2Proof.Machine

/-- The effect of an instruction by the issuing split, or of an event (95_what_each_step_holds.md). -/
def exec (i : Instr) (s : State) : Host.Outcome State Fault Refusal :=
  match i with
  | .iadd k d a b => Sys2Proof.Machine.execIadd k d a b s
  | .isub k d a b => Sys2Proof.Machine.execIsub k d a b s
  | .imul k d a b => Sys2Proof.Machine.execImul k d a b s
  | .imulhZ k d a b => Sys2Proof.Machine.execImulhZ k d a b s
  | .iminS k d a b => Sys2Proof.Machine.execIminS k d a b s
  | .imaxS k d a b => Sys2Proof.Machine.execImaxS k d a b s
  | .iminZ k d a b => Sys2Proof.Machine.execIminZ k d a b s
  | .imaxZ k d a b => Sys2Proof.Machine.execImaxZ k d a b s
  | .and k d a b => Sys2Proof.Machine.execAnd k d a b s
  | .or k d a b => Sys2Proof.Machine.execOr k d a b s
  | .xor k d a b => Sys2Proof.Machine.execXor k d a b s
  | .andn k d a b => Sys2Proof.Machine.execAndn k d a b s
  | .shl k d a b => Sys2Proof.Machine.execShl k d a b s
  | .shr k d a b => Sys2Proof.Machine.execShr k d a b s
  | .sar k d a b => Sys2Proof.Machine.execSar k d a b s
  | .rotl k d a b => Sys2Proof.Machine.execRotl k d a b s
  | .popc k d a => Sys2Proof.Machine.execPopc k d a s
  | .clz k d a => Sys2Proof.Machine.execClz k d a s
  | .ctz k d a => Sys2Proof.Machine.execCtz k d a s
  | .brev k d a => Sys2Proof.Machine.execBrev k d a s
  | .bfeZ k d a b => Sys2Proof.Machine.execBfeZ k d a b s
  | .bfeS k d a b => Sys2Proof.Machine.execBfeS k d a b s
  | .bfi k d a b => Sys2Proof.Machine.execBfi k d a b s
  | .perm k d a b => Sys2Proof.Machine.execPerm k d a b s
  | .icmp k c e a b t => Sys2Proof.Machine.execIcmp k c e a b t s
  | .iadd64 k d a b => Sys2Proof.Machine.execIadd64 k d a b s
  | .isub64 k d a b => Sys2Proof.Machine.execIsub64 k d a b s
  | .shl64 k d a b => Sys2Proof.Machine.execShl64 k d a b s
  | .shr64 k d a b => Sys2Proof.Machine.execShr64 k d a b s
  | .imadLo k d a b => Sys2Proof.Machine.execImadLo k d a b s
  | .imadWideZ k d a b => Sys2Proof.Machine.execImadWideZ k d a b s
  | .imadWideS k d a b => Sys2Proof.Machine.execImadWideS k d a b s
  | .imulhS k d a b => Sys2Proof.Machine.execImulhS k d a b s
  | .sel k d a b => Sys2Proof.Machine.execSel k d a b s
  | .mov k d a => Sys2Proof.Machine.execMov k d a s
  | .laneid k d => Sys2Proof.Machine.execLaneid k d s
  | .ialugIadd k d a g => Sys2Proof.Machine.execIalugIadd k d a g s
  | .ialugIsub k d a g => Sys2Proof.Machine.execIalugIsub k d a g s
  | .ialugImul k d a g => Sys2Proof.Machine.execIalugImul k d a g s
  | .ialugAnd k d a g => Sys2Proof.Machine.execIalugAnd k d a g s
  | .ialugOr k d a g => Sys2Proof.Machine.execIalugOr k d a g s
  | .ialugXor k d a g => Sys2Proof.Machine.execIalugXor k d a g s
  | .ialugShl k d a g => Sys2Proof.Machine.execIalugShl k d a g s
  | .ialugShr k d a g => Sys2Proof.Machine.execIalugShr k d a g s
  | .falugFadd k d a g => Sys2Proof.Machine.execFalugFadd k d a g s
  | .falugFsub k d a g => Sys2Proof.Machine.execFalugFsub k d a g s
  | .falugFmul k d a g => Sys2Proof.Machine.execFalugFmul k d a g s
  | .falugFma k d a g => Sys2Proof.Machine.execFalugFma k d a g s
  | .falugFmin k d a g => Sys2Proof.Machine.execFalugFmin k d a g s
  | .falugFmax k d a g => Sys2Proof.Machine.execFalugFmax k d a g s
  | .movg k d g => Sys2Proof.Machine.execMovg k d g s
  | .fadd k d a b t => Sys2Proof.Machine.execFadd k d a b t s
  | .fsub k d a b t => Sys2Proof.Machine.execFsub k d a b t s
  | .fmul k d a b t => Sys2Proof.Machine.execFmul k d a b t s
  | .fma k d a b t => Sys2Proof.Machine.execFma k d a b t s
  | .fmin k d a b t => Sys2Proof.Machine.execFmin k d a b t s
  | .fmax k d a b t => Sys2Proof.Machine.execFmax k d a b t s
  | .fcmp k c e a b t => Sys2Proof.Machine.execFcmp k c e a b t s
  | .cvt k d a c m => Sys2Proof.Machine.execCvt k d a c m s
  | .xfnRcp k d a l => Sys2Proof.Machine.execXfnRcp k d a l s
  | .xfnRsq k d a l => Sys2Proof.Machine.execXfnRsq k d a l s
  | .xfnSqrt k d a l => Sys2Proof.Machine.execXfnSqrt k d a l s
  | .xfnExp2 k d a l => Sys2Proof.Machine.execXfnExp2 k d a l s
  | .xfnLog2 k d a l => Sys2Proof.Machine.execXfnLog2 k d a l s
  | .xfnSin k d a l => Sys2Proof.Machine.execXfnSin k d a l s
  | .xfnCos k d a l => Sys2Proof.Machine.execXfnCos k d a l s
  | .xfnTanh k d a l => Sys2Proof.Machine.execXfnTanh k d a l s
  | .shflIdx k d a b => Sys2Proof.Machine.execShflIdx k d a b s
  | .shflXor k d a b => Sys2Proof.Machine.execShflXor k d a b s
  | .shflUp k d a b => Sys2Proof.Machine.execShflUp k d a b s
  | .shflDown k d a b => Sys2Proof.Machine.execShflDown k d a b s
  | .ldsZ8 k d a g l => Sys2Proof.Machine.execLdsZ8 k d a g l s
  | .ldsZ16 k d a g l => Sys2Proof.Machine.execLdsZ16 k d a g l s
  | .lds32 k d a g l => Sys2Proof.Machine.execLds32 k d a g l s
  | .lds64 k d a g l => Sys2Proof.Machine.execLds64 k d a g l s
  | .ldsxS8 k d a g l => Sys2Proof.Machine.execLdsxS8 k d a g l s
  | .ldsxS16 k d a g l => Sys2Proof.Machine.execLdsxS16 k d a g l s
  | .ldsx128 k d a g l => Sys2Proof.Machine.execLdsx128 k d a g l s
  | .sts8 k d a g => Sys2Proof.Machine.execSts8 k d a g s
  | .sts16 k d a g => Sys2Proof.Machine.execSts16 k d a g s
  | .sts32 k d a g => Sys2Proof.Machine.execSts32 k d a g s
  | .sts64 k d a g => Sys2Proof.Machine.execSts64 k d a g s
  | .atomsAdd k d a g l => Sys2Proof.Machine.execAtomsAdd k d a g l s
  | .atomsExch k d a g l => Sys2Proof.Machine.execAtomsExch k d a g l s
  | .atomsCas k d a g l => Sys2Proof.Machine.execAtomsCas k d a g l s
  | .atomsMaxS k d a g l => Sys2Proof.Machine.execAtomsMaxS k d a g l s
  | .atomsxAnd k d a g l => Sys2Proof.Machine.execAtomsxAnd k d a g l s
  | .atomsxOr k d a g l => Sys2Proof.Machine.execAtomsxOr k d a g l s
  | .atomsxXor k d a g l => Sys2Proof.Machine.execAtomsxXor k d a g l s
  | .atomsxMinS k d a g l => Sys2Proof.Machine.execAtomsxMinS k d a g l s
  | .ldg32 k d a g => Sys2Proof.Machine.execLdg32 k d a g s
  | .ldg64 k d a g => Sys2Proof.Machine.execLdg64 k d a g s
  | .ldg128 k d a g => Sys2Proof.Machine.execLdg128 k d a g s
  | .ldg32Acq k d a g => Sys2Proof.Machine.execLdg32Acq k d a g s
  | .stg8 k d a g => Sys2Proof.Machine.execStg8 k d a g s
  | .stg16 k d a g => Sys2Proof.Machine.execStg16 k d a g s
  | .stg32 k d a g => Sys2Proof.Machine.execStg32 k d a g s
  | .stg64 k d a g => Sys2Proof.Machine.execStg64 k d a g s
  | .mstream k d a z t => Sys2Proof.Machine.execMstream k d a z t s
  | .tcopy k d a => Sys2Proof.Machine.execTcopy k d a s
  | .tcopyq k d a => Sys2Proof.Machine.execTcopyq k d a s
  | .atomg k d a o => Sys2Proof.Machine.execAtomg k d a o s
  | .tvwalk k d a => Sys2Proof.Machine.execTvwalk k d a s
  | .tvcut k d a => Sys2Proof.Machine.execTvcut k d a s
  | .tvret k a => Sys2Proof.Machine.execTvret k a s
  | .tvresume k d a => Sys2Proof.Machine.execTvresume k d a s
  | .tvstat k d a => Sys2Proof.Machine.execTvstat k d a s
  | .gput k d a => Sys2Proof.Machine.execGput k d a s
  | .gtake k d a => Sys2Proof.Machine.execGtake k d a s
  | .stgRel k d a z => Sys2Proof.Machine.execStgRel k d a z s
  | .uadd d a b => Sys2Proof.Machine.execUadd d a b s
  | .usub d a b => Sys2Proof.Machine.execUsub d a b s
  | .umul d a b => Sys2Proof.Machine.execUmul d a b s
  | .umulhZ d a b => Sys2Proof.Machine.execUmulhZ d a b s
  | .umulhS d a b => Sys2Proof.Machine.execUmulhS d a b s
  | .uminS d a b => Sys2Proof.Machine.execUminS d a b s
  | .umaxS d a b => Sys2Proof.Machine.execUmaxS d a b s
  | .uminZ d a b => Sys2Proof.Machine.execUminZ d a b s
  | .umaxZ d a b => Sys2Proof.Machine.execUmaxZ d a b s
  | .uand d a b => Sys2Proof.Machine.execUand d a b s
  | .uor d a b => Sys2Proof.Machine.execUor d a b s
  | .uxor d a b => Sys2Proof.Machine.execUxor d a b s
  | .uandn d a b => Sys2Proof.Machine.execUandn d a b s
  | .ushl d a b => Sys2Proof.Machine.execUshl d a b s
  | .ushr d a b => Sys2Proof.Machine.execUshr d a b s
  | .usar d a b => Sys2Proof.Machine.execUsar d a b s
  | .ucmpEq d a b => Sys2Proof.Machine.execUcmpEq d a b s
  | .ucmpLtS d a b => Sys2Proof.Machine.execUcmpLtS d a b s
  | .ucmpLtZ d a b => Sys2Proof.Machine.execUcmpLtZ d a b s
  | .ucmpLeS d a b => Sys2Proof.Machine.execUcmpLeS d a b s
  | .ucmpLeZ d a b => Sys2Proof.Machine.execUcmpLeZ d a b s
  | .upopc d a => Sys2Proof.Machine.execUpopc d a s
  | .uclz d a => Sys2Proof.Machine.execUclz d a s
  | .umov d a => Sys2Proof.Machine.execUmov d a s
  | .uadd32 d a b => Sys2Proof.Machine.execUadd32 d a b s
  | .usub32 d a b => Sys2Proof.Machine.execUsub32 d a b s
  | .uaddi d a imm => Sys2Proof.Machine.execUaddi d a imm s
  | .uhi d imm => Sys2Proof.Machine.execUhi d imm s
  | .uandi d a imm => Sys2Proof.Machine.execUandi d a imm s
  | .uori d a imm => Sys2Proof.Machine.execUori d a imm s
  | .uxori d a imm => Sys2Proof.Machine.execUxori d a imm s
  | .ushli d a n => Sys2Proof.Machine.execUshli d a n s
  | .br c a o => Sys2Proof.Machine.execBr c a o s
  | .brd k imm o => Sys2Proof.Machine.execBrd k imm o s
  | .call o => Sys2Proof.Machine.execCall o s
  | .jmpi a => Sys2Proof.Machine.execJmpi a s
  | .calli a => Sys2Proof.Machine.execCalli a s
  | .ret => Sys2Proof.Machine.execRet s
  | .nop n => Sys2Proof.Machine.execNop n s
  | .exit => Sys2Proof.Machine.execExit s
  | .trap c => Sys2Proof.Machine.execTrap c s
  | .rett => Sys2Proof.Machine.execRett s
  | .brk => Sys2Proof.Machine.execBrk s
  | .yield => Sys2Proof.Machine.execYield s
  | .pjoin o => Sys2Proof.Machine.execPjoin o s
  | .cfence d => Sys2Proof.Machine.execCfence d s
  | .mfence d => Sys2Proof.Machine.execMfence d s
  | .lfence d => Sys2Proof.Machine.execLfence d s
  | .xfence d => Sys2Proof.Machine.execXfence d s
  | .tfence d => Sys2Proof.Machine.execTfence d s
  | .fenceAll z => Sys2Proof.Machine.execFenceAll z s
  | .fenceAcq z => Sys2Proof.Machine.execFenceAcq z s
  | .fenceRel z => Sys2Proof.Machine.execFenceRel z s
  | .waitGate a g => Sys2Proof.Machine.execWaitGate a g s
  | .waitObject a b => Sys2Proof.Machine.execWaitObject a b s
  | .arrive a => Sys2Proof.Machine.execArrive a s
  | .arriveExpect a b => Sys2Proof.Machine.execArriveExpect a b s
  | .arriveDrop a => Sys2Proof.Machine.execArriveDrop a s
  | .binit a b => Sys2Proof.Machine.execBinit a b s
  | .uldS32 d a => Sys2Proof.Machine.execUldS32 d a s
  | .uldS64 d a => Sys2Proof.Machine.execUldS64 d a s
  | .uldG32 d a => Sys2Proof.Machine.execUldG32 d a s
  | .uldG64 d a => Sys2Proof.Machine.execUldG64 d a s
  | .uldGAdd d a b => Sys2Proof.Machine.execUldGAdd d a b s
  | .uldGExch d a b => Sys2Proof.Machine.execUldGExch d a b s
  | .uldGCas d a b => Sys2Proof.Machine.execUldGCas d a b s
  | .ustS32 a b => Sys2Proof.Machine.execUstS32 a b s
  | .ustS64 a b => Sys2Proof.Machine.execUstS64 a b s
  | .ustG32 a b => Sys2Proof.Machine.execUstG32 a b s
  | .ustG64 a b => Sys2Proof.Machine.execUstG64 a b s
  | .readlane d v b => Sys2Proof.Machine.execReadlane d v b s
  | .readfirst d v => Sys2Proof.Machine.execReadfirst d v s
  | .voteAny d v => Sys2Proof.Machine.execVoteAny d v s
  | .voteAll d v => Sys2Proof.Machine.execVoteAll d v s
  | .ballot d v => Sys2Proof.Machine.execBallot d v s
  | .umaskSet d a => Sys2Proof.Machine.execUmaskSet d a s
  | .umaskGet d a => Sys2Proof.Machine.execUmaskGet d a s
  | .umaskAnd d a b => Sys2Proof.Machine.execUmaskAnd d a b s
  | .umaskOr d a b => Sys2Proof.Machine.execUmaskOr d a b s
  | .umaskXor d a b => Sys2Proof.Machine.execUmaskXor d a b s
  | .umaskAndn d a b => Sys2Proof.Machine.execUmaskAndn d a b s
  | .umaskNot d a => Sys2Proof.Machine.execUmaskNot d a s
  | .mload a b => Sys2Proof.Machine.execMload a b s
  | .mopen d a => Sys2Proof.Machine.execMopen d a s
  | .mclose a => Sys2Proof.Machine.execMclose a s
  | .epi a => Sys2Proof.Machine.execEpi a s
  | .amovLd a b => Sys2Proof.Machine.execAmovLd a b s
  | .amovSt a b => Sys2Proof.Machine.execAmovSt a b s
  | .mstat d => Sys2Proof.Machine.execMstat d s
  | .ginfo d a b => Sys2Proof.Machine.execGinfo d a b s
  | .gbind d a b => Sys2Proof.Machine.execGbind d a b s
  | .xbind d a b => Sys2Proof.Machine.execXbind d a b s
  | .xpermit a => Sys2Proof.Machine.execXpermit a s
  | .xsend d a b => Sys2Proof.Machine.execXsend d a b s
  | .xstat d a => Sys2Proof.Machine.execXstat d a s
  | .fbulk d a => Sys2Proof.Machine.execFbulk d a s
  | .fstat d a => Sys2Proof.Machine.execFstat d a s
  | .vcost d a b => Sys2Proof.Machine.execVcost d a b s
  | .vtest d a b => Sys2Proof.Machine.execVtest d a b s
  | .umovs d r => Sys2Proof.Machine.execUmovs d r s
  | .umovt a r => Sys2Proof.Machine.execUmovt a r s
  | .event a b => Sys2Proof.Machine.execEvent a b s
  | .tmark => Sys2Proof.Machine.execTmark s
  | .dispatch d a => Sys2Proof.Machine.execDispatch d a s
  | .lease d a => Sys2Proof.Machine.execLease d a s
  | .carve d a b => Sys2Proof.Machine.execCarve d a b s
  | .ctxsave d a b => Sys2Proof.Machine.execCtxsave d a b s
  | .ctxload d a b => Sys2Proof.Machine.execCtxload d a b s
  | .tlbinv a b => Sys2Proof.Machine.execTlbinv a b s
  | .keyset d a b => Sys2Proof.Machine.execKeyset d a b s
  | .splitPark core slot split => Sys2Proof.Machine.execSplitPark core slot split s
  | .stackFill core slot => Sys2Proof.Machine.execStackFill core slot s
  | .yieldExpiry core slot split => Sys2Proof.Machine.execYieldExpiry core slot split s
  | .scratchResult core slot n => Sys2Proof.Machine.execScratchResult core slot n s
  | .takeValue core slot piece => Sys2Proof.Machine.execTakeValue core slot piece s
  | .leave core slot => Sys2Proof.Machine.execLeave core slot s
  | .propagationArrive n => Sys2Proof.Machine.execPropagationArrive n s
  | .drop core line => Sys2Proof.Machine.execDrop core line s
  | .atomicStep core slot => Sys2Proof.Machine.execAtomicStep core slot s
  | .engineAccess op n => Sys2Proof.Machine.execEngineAccess op n s
  | .faultResponseDoorbell func ctx w => Sys2Proof.Machine.execFaultResponseDoorbell func ctx w s
  | .faultAnswerFirmware ctx record fail => Sys2Proof.Machine.execFaultAnswerFirmware ctx record fail s
  | .replicaStamp n => Sys2Proof.Machine.execReplicaStamp n s
  | .replicaApply ctx rset die => Sys2Proof.Machine.execReplicaApply ctx rset die s
  | .mstreamPassRun core imm => Sys2Proof.Machine.execMstreamPassRun core imm s
  | .mloadRun core imm => Sys2Proof.Machine.execMloadRun core imm s
  | .slotZeroing core n => Sys2Proof.Machine.execSlotZeroing core n s
  | .epiRun core imm => Sys2Proof.Machine.execEpiRun core imm s
  | .amovRun core imm => Sys2Proof.Machine.execAmovRun core imm s
  | .tceLanding op => Sys2Proof.Machine.execTceLanding op s
  | .tcopyComplete op => Sys2Proof.Machine.execTcopyComplete op s
  | .walkVisit op lane => Sys2Proof.Machine.execWalkVisit op lane s
  | .serviceGroupForm core block => Sys2Proof.Machine.execServiceGroupForm core block s
  | .serviceGroupTimeout core block => Sys2Proof.Machine.execServiceGroupTimeout core block s
  | .routineReturn core block => Sys2Proof.Machine.execRoutineReturn core block s
  | .tvcutComplete op => Sys2Proof.Machine.execTvcutComplete op s
  | .galleyReservation op => Sys2Proof.Machine.execGalleyReservation op s
  | .galleyPublish op lane => Sys2Proof.Machine.execGalleyPublish op lane s
  | .galleyOpComplete op => Sys2Proof.Machine.execGalleyOpComplete op s
  | .galleyConsumerLaunch galley core p => Sys2Proof.Machine.execGalleyConsumerLaunch galley core p s
  | .galleyConsumerTimer galley core p => Sys2Proof.Machine.execGalleyConsumerTimer galley core p s
  | .xsendLanding op => Sys2Proof.Machine.execXsendLanding op s
  | .grantSend core slot split => Sys2Proof.Machine.execGrantSend core slot split s
  | .permitGrant n => Sys2Proof.Machine.execPermitGrant n s
  | .fbulkLanding op n => Sys2Proof.Machine.execFbulkLanding op n s
  | .fbulkComplete op => Sys2Proof.Machine.execFbulkComplete op s
  | .branchBlocked op => Sys2Proof.Machine.execBranchBlocked op s
  | .fabricMessageReceive m => Sys2Proof.Machine.execFabricMessageReceive m s
  | .fabricLink port state => Sys2Proof.Machine.execFabricLink port state s
  | .hostAccess a => Sys2Proof.Machine.execHostAccess a s
  | .registerWrite off v => Sys2Proof.Machine.execRegisterWrite off v s
  | .featctlCommit v => Sys2Proof.Machine.execFeatctlCommit v s
  | .ctxcmdVacate ctx => Sys2Proof.Machine.execCtxcmdVacate ctx s
  | .ctxcmdResume ctx ps => Sys2Proof.Machine.execCtxcmdResume ctx ps s
  | .ctxcmdEnd ctx => Sys2Proof.Machine.execCtxcmdEnd ctx s
  | .partcmdApply func => Sys2Proof.Machine.execPartcmdApply func s
  | .dbgcmdHalt v => Sys2Proof.Machine.execDbgcmdHalt v s
  | .dbgcmdResume v => Sys2Proof.Machine.execDbgcmdResume v s
  | .dbgcmdStep ctx core slot split => Sys2Proof.Machine.execDbgcmdStep ctx core slot split s
  | .dbgcmdAttach v => Sys2Proof.Machine.execDbgcmdAttach v s
  | .dbgcmdDetach v => Sys2Proof.Machine.execDbgcmdDetach v s
  | .errcntClear die v => Sys2Proof.Machine.execErrcntClear die v s
  | .queueTailDoorbell func queue v => Sys2Proof.Machine.execQueueTailDoorbell func queue v s
  | .eventHeadDoorbell func ring v => Sys2Proof.Machine.execEventHeadDoorbell func ring v s
  | .packetNop queue => Sys2Proof.Machine.execPacketNop queue s
  | .packetLaunch queue => Sys2Proof.Machine.execPacketLaunch queue s
  | .packetBarrier queue => Sys2Proof.Machine.execPacketBarrier queue s
  | .packetCopy queue => Sys2Proof.Machine.execPacketCopy queue s
  | .packetSignalSet queue => Sys2Proof.Machine.execPacketSignalSet queue s
  | .packetSignalAdd queue => Sys2Proof.Machine.execPacketSignalAdd queue s
  | .packetChain queue => Sys2Proof.Machine.execPacketChain queue s
  | .packetEvent queue => Sys2Proof.Machine.execPacketEvent queue s
  | .packetComplete queue n => Sys2Proof.Machine.execPacketComplete queue n s
  | .barrierTest queue n => Sys2Proof.Machine.execBarrierTest queue n s
  | .progressPublish queue => Sys2Proof.Machine.execProgressPublish queue s
  | .blockClaim launch core p => Sys2Proof.Machine.execBlockClaim launch core p s
  | .instanceStart launch => Sys2Proof.Machine.execInstanceStart launch s
  | .rowFree core row => Sys2Proof.Machine.execRowFree core row s
  | .blockComplete core block => Sys2Proof.Machine.execBlockComplete core block s
  | .blkmaxOverrun core block => Sys2Proof.Machine.execBlkmaxOverrun core block s
  | .channelPriorityHold core slot split => Sys2Proof.Machine.execChannelPriorityHold core slot split s
  | .blockSave core block => Sys2Proof.Machine.execBlockSave core block s
  | .blockModeFinished core block => Sys2Proof.Machine.execBlockModeFinished core block s
  | .ctxloadComplete op => Sys2Proof.Machine.execCtxloadComplete op s
  | .tlbinvComplete op => Sys2Proof.Machine.execTlbinvComplete op s
  | .traceUnitWrite core => Sys2Proof.Machine.execTraceUnitWrite core s
  | .sample core sched => Sys2Proof.Machine.execSample core sched s
  | .packageReset => Sys2Proof.Machine.execPackageReset s
  | .reducedServiceStart => Sys2Proof.Machine.execReducedServiceStart s
  | .fullServiceStart => Sys2Proof.Machine.execFullServiceStart s
  | .ageingPlanRaise plan => Sys2Proof.Machine.execAgeingPlanRaise plan s
  | .periodChange => Sys2Proof.Machine.execPeriodChange s
  | .dieFailure die launch => Sys2Proof.Machine.execDieFailure die launch s
  | .correctedError die => Sys2Proof.Machine.execCorrectedError die s
  | .uncorrectedError die site => Sys2Proof.Machine.execUncorrectedError die site s
  | .firmwareImage img => Sys2Proof.Machine.execFirmwareImage img s
  | .liveHandover => Sys2Proof.Machine.execLiveHandover s
  | .measurements => Sys2Proof.Machine.execMeasurements s
  | .illegalOp w => Sys2Proof.Machine.execIllegalOp w s
  | .heldUniformResult core slot split => Sys2Proof.Machine.execHeldUniformResult core slot split s
  | .trainingComplete => Sys2Proof.Machine.execTrainingComplete s
  | .fabricLinkUp port => Sys2Proof.Machine.execFabricLinkUp port s
  | .linkLevelRetry port => Sys2Proof.Machine.execLinkLevelRetry port s

end Sys2Proof.Machine
end

