-- ==== Sys2Proof/Machine/Issue.lean ====
section
/-! DEFINITION. Selection and issue (03 R35, R38, R42 to R44, 12_uniform R173). -/

namespace Sys2Proof.Machine

/-- A fault on an instruction fetch suspends the split (05 R78, R79). -/
def fetchFault (s : State) (w : Issuer) (x : Ctx) (cause : Nat) : State :=
  let r := postFault s x w.sp.pc.toNat (groupSource w.c w.slot) 3 cause w.sp.mask 0 (timeOf s w.g) (.fetch w.c w.slot w.idx)
  holdIt r.2 w .fetch

/-- Issue the instruction a word is for a group; a word that is none issues as ILLEGAL_OP (09 R100). -/
def issueWord (g : Group) (v : Word) (s : State) : Host.Outcome State Fault Refusal :=
  match decode (inService g) v with
  | .ok i => exec i s
  | .error _ => execIllegalOp v s

/-- A split tries to issue its next instruction, after its lookahead results are looked at (09 R116). -/
def attempt (s : State) (c slot i : Nat) : Host.Outcome State Fault Refusal :=
  let s := { s with issuer := some (c, slot, i) }
  match s.who with
  | none => .next s
  | some w =>
    match s.ctx? w.g.ctx with
    | none => .next s
    | some x =>
      match fetch s c x w.sp.pc with
      | .fault k t => .next (fetchFault t w x k)
      | .lost t => .next (trapAll t w .accessViolation (w.sp.pc.setWidth 64))
      | .word v t =>
        match w.g.la.find? fun a => a.stalls w.sp.mask with
        | some a => .next (if a.poisonReady then poisonTrap t w a else holdIt t w .lookahead)
        | none => issueWord w.g v t

/-- Whether a split's try left it held (03 R43). -/
def heldIn (t : State) (c slot i : Nat) : Bool :=
  match (t.group? c slot).bind fun g => g.split? i with
  | none => false
  | some sp => sp.tried && sp.hold != .none

/-- Whether a try has read an EPI's record: the split is selected for it, and is held until it has been read (16 R234). -/
def readRecord (t : State) (c slot i : Nat) : Bool :=
  match (t.group? c slot).bind fun g => g.split? i with
  | some sp => (match sp.hold with | .epiRead _ _ => sp.tried | _ => false)
  | none => false

/-- Whether a split stands at its governing JOIN entry (03 R35). -/
def parks (g : Group) (sp : Split) : Bool := (parkPoint g sp).isSome

/-- Whether a split is ready (03 R43): nothing holds it, and its next instruction is not held when tried, but for the reading of an EPI's
record, which is made when the split is selected (16 R234). A split at its governing JOIN
entry parks only when it is ready. -/
def ready (s : State) (c : Nat) (g : Group) (sp : Split) : Bool :=
  mayTry s c g sp && match attempt s c g.slot sp.idx with
    | .next t => !heldIn t c g.slot sp.idx || readRecord t c g.slot sp.idx
    | _ => true

/-- The splits of a scheduler that may try, with their groups. -/
def tryers (s : State) (c sched : Nat) : List (Group × Split) :=
  ((s.core c).groups.filter fun g => schedOf g.slot == sched).flatMap fun g =>
    (g.splits.filter fun sp => mayTry s c g sp).map fun sp => (g, sp)

/-- The issue order of the ready splits of a pipe (03 R44). -/
def outranks (a b : Group × Split) : Bool :=
  decide (b.2.passOver < a.2.passOver)
    || (a.2.passOver == b.2.passOver && (decide (a.1.slot < b.1.slot) || (a.1.slot == b.1.slot && decide (a.2.idx < b.2.idx))))

/-- Whether a pipe of a scheduler has issued in this cycle (03 R42). -/
def pipeUsed (s : State) (c sched pipe : Nat) : Bool :=
  s.issued.any fun p => p.1 == c && schedOf (p.2.1 / 4) == sched && p.2.2 == (pipe == 1)

/-- The place of an issue in the order of its cycle: ascending core and group slot, the lane pipe first (11 R147, 18 R258). -/
def issueKey (c slot pipe : Nat) : Nat := 64 * c + 2 * slot + pipe

/-- The context of a group. -/
def ctxAt (s : State) (c slot : Nat) : Option Nat := (s.group? c slot).map fun g => g.ctx

/-- Whether an issue keeps the order of the cycle: no later one of its core or its context has been made (11 R147, 18 R258). -/
def inOrder (s : State) (c slot pipe : Nat) : Bool :=
  s.issued.all fun p => !(p.1 == c || ctxAt s p.1 (p.2.1 / 4) == ctxAt s c slot)
    || decide (issueKey p.1 (p.2.1 / 4) p.2.2.toNat ≤ issueKey c slot pipe)

/-- The other splits that compete for the pipe of a split and are ready. -/
def rivals (s : State) (c : Nat) (g : Group) (sp : Split) (pipe : Nat) : List (Group × Split) :=
  (tryers s c (schedOf g.slot)).filter fun r =>
    !(r.1.slot == g.slot && r.2.idx == sp.idx) && nextPipe s c r.1 r.2 == pipe && ready s c r.1 r.2

/-- Whether the scheduler selects a ready split for a pipe now (03 R42, R44). -/
def selected (s : State) (c : Nat) (g : Group) (sp : Split) (pipe : Nat) : Bool :=
  !pipeUsed s c (schedOf g.slot) pipe && inOrder s c g.slot pipe
    && (rivals s c g sp pipe).all fun r => outranks (g, sp) r

/-- The other splits of a group that merge into a selected one: those at its PC that nothing holds (03 R38). -/
def mergers (s : State) (c : Nat) (g : Group) (sp : Split) : List Split :=
  g.splits.filter fun t => t.idx != sp.idx && t.pc == sp.pc && ready s c g t

/-- Merge splits into a selected one (03 R38). -/
def mergeInto (g : Group) (sp : Split) (others : List Split) : Group × Split :=
  let all := sp :: others
  let low := others.foldl (fun i t => min i t.idx) sp.idx
  let m : Split := { sp with idx := low, mask := all.foldl (fun m t => m ||| t.mask) 0,
                             passOver := others.foldl (fun n t => max n t.passOver) sp.passOver }
  ({ g with splits := putSplit m (g.splits.filter fun t => !(all.any fun a => a.idx == t.idx)) }, m)

/-- The state with a selected split merged, and the split (03 R38, 29 R377). -/
def merged (s : State) (c pipe : Nat) (g : Group) (sp : Split) (others : List Split) : State × Split :=
  if others.isEmpty then (s, sp)
  else
    let r := mergeInto g sp others
    let was := ((sp :: others).find? fun t => t.idx == r.2.idx).getD sp
    (note (s.modGroup c g.slot fun _ => r.1)
      ⟨c, g.slot, pipe, r.2.idx, was.pc, was.mask, r.2.pc, r.2.mask, .mask 1 r.2.mask⟩, r.2)

/-- The pass-over counts of the ready splits passed over rise (03 R44): not those of splits that a trap or a return has put in their
place. -/
def passOver (t : State) (c : Nat) (rs : List (Group × Split)) : State :=
  rs.foldl (fun t r => t.modSplit c r.1.slot r.2.idx fun sp => if sp = r.2 then { sp with passOver := sp.passOver + 1 } else sp) t

/-- What follows the issue of a split: the pipe is taken, its count returns to 0 unless it parked, and a pending step ends in a
halt (03 R35, R44, 29 R371). -/
def afterIssue (t : State) (c slot i pipe : Nat) (pc : PC) (ctx : Nat) (parked : Bool) : State :=
  let t := { t with issued := (c, 4 * slot + i, pipe == 1) :: t.issued }
  let t := if parked || (t.trapped.any fun k => k.core == c && k.slot == slot) then t
    else t.modSplit c slot i fun sp => { sp with tried := true, passOver := 0 }
  t.modCtx ctx fun x => if x.step == some (c, slot, i) && !parked
    then { x with step := none, stopping := x.stopping ++ [(2, pc.toNat, some (c, slot))] } else x

/-- A selected split issues, parks, or reads its EPI's record, which takes the pipe of the cycle. -/
def issueBare (s : State) (c : Nat) (g : Group) (sp : Split) (pipe : Nat) : Host.Outcome State Fault Refusal :=
  let rs := rivals s c g sp pipe
  if parks g sp then
    match execSplitPark c g.slot sp.idx s with
    | .next t => .next (passOver (afterIssue t c g.slot sp.idx pipe sp.pc g.ctx true) c rs)
    | r => r
  else
    let others := mergers s c g sp
    let m := merged s c pipe g sp others
    match attempt m.1 c g.slot m.2.idx with
    | .next t =>
      if readRecord t c g.slot m.2.idx then
        .next (passOver { t with issued := (c, 4 * g.slot + m.2.idx, pipe == 1) :: t.issued } c
          (rs.filter fun r => !(r.1.slot == g.slot && others.any fun o => o.idx == r.2.idx)))
      else if heldIn t c g.slot m.2.idx then .next t
      else .next (passOver (afterIssue t c g.slot m.2.idx pipe sp.pc g.ctx false) c
        (rs.filter fun r => !(r.1.slot == g.slot && others.any fun o => o.idx == r.2.idx)))
    | r => r

/-- Whether a split is about to issue an MSTREAM. -/
def streamsNext (s : State) (c : Nat) (g : Group) (sp : Split) : Bool :=
  match s.ctx? g.ctx with
  | none => false
  | some x => match fetch s c x sp.pc with
    | .word v _ => (match decode (inService g) v with | .ok (.mstream _ _ _ _ _) => true | _ => false)
    | _ => false

/-- The state with the MSTREAMs issued that the schedulers select in this cycle from group slots above one. -/
def streamsIssued (s : State) (c slot : Nat) : State :=
  (((s.core c).groups.filter fun g => slot < g.slot).flatMap fun g => g.splits.map fun sp => (g.slot, sp.idx)).foldl (fun s p =>
    match (s.group? c p.1).bind fun g => (g.split? p.2).map fun sp => (g, sp) with
    | none => s
    | some (g, sp) =>
      if mayTry s c g sp && nextPipe s c g sp == 0 && streamsNext s c g sp && ready s c g sp && selected s c g sp 0 then
        match issueBare s c g sp 0 with
        | .next t => t
        | _ => s
      else s) s

/-- Whether a uniform matrix instruction that has issued yields its places to passes: those of the MSTREAMs of its cycle come first in intake
order, and the queue has no room for all (16 R224). -/
def yields (s t : State) (c slot : Nat) : Bool :=
  let q := (s.core c).matrix.queue
  let n := (t.core c).matrix.queue.length
  if n ≤ q.length then false
  else
    let u := streamsIssued (t.modCore c fun x => { x with matrix := { x.matrix with queue := q } }) c slot
    32 < (u.core c).matrix.queue.length + (n - q.length)

/-- A selected split issues, parks, or is held because passes of its cycle take the places of its command (16 R224). -/
def issueOne (s : State) (c : Nat) (g : Group) (sp : Split) (pipe : Nat) : Host.Outcome State Fault Refusal :=
  match issueBare s c g sp pipe with
  | .next t =>
    if pipe == 1 && yields s t c g.slot then
      .next (s.modSplit c g.slot sp.idx fun sp => { sp with hold := .commandQueueFull, tried := true })
    else .next t
  | r => r

/-- Whether a move took a trap of a group. -/
def tookTrap (s t : State) (c slot : Nat) : Bool :=
  (t.trapped.any fun k => k.core == c && k.slot == slot) && !(s.trapped.any fun k => k.core == c && k.slot == slot)

/-- The split of a group that its scheduler selects for the uniform pipe. -/
def uniformMate (s : State) (c : Nat) (g : Group) (sp : Split) : Option Split :=
  g.splits.find? fun t => t.idx != sp.idx && t.pc != sp.pc && mayTry s c g t && nextPipe s c g t == 1
    && ready s c g t && selected s c g t 1

/-- A lane-set instruction that traps, beside a uniform-set one of its group in the same cycle: if both trap, the lower split
index, after merging (03 R38), counts; if only one does, the other completes (12 R173). -/
def settleMates (s t : State) (c : Nat) (g : Group) (sp : Split) (pipe : Nat) :
    Host.Outcome State Fault Refusal :=
  if pipe = 0 && tookTrap s t c g.slot then
    match uniformMate s c g sp with
    | none => .next t
    | some mate =>
      match issueOne s c g mate 1 with
      | .next u =>
        let low (q : Split) : Nat := (mergers s c g q).foldl (fun i r => min i r.idx) q.idx
        if tookTrap s u c g.slot then .next (if low sp < low mate then t else u)
        else match u.group? c g.slot with
          | none => .next u
          | some h => match h.split? sp.idx with
            | none => .next u
            | some q => issueOne u c h q 0
      | r => r
  else .next t

/-! The order of the issues of a cycle. -/

/-- The splits of the package that may try, in ascending core and slot. -/
def allTryers (s : State) : List (Nat × Group × Split) :=
  s.cores.flatMap fun x => x.groups.flatMap fun g => (g.splits.filter fun sp => mayTry s x.index g sp).map fun sp => (x.index, g, sp)

/-- The place of a split in the issue order of its cycle. -/
def orderKey (s : State) (p : Nat × Group × Split) : Nat := issueKey p.1 p.2.1.slot (nextPipe s p.1 p.2.1 p.2.2)

/-- The first in issue order. -/
def firstOf (s : State) : List (Nat × Group × Split) → Option (Nat × Group × Split)
  | [] => none
  | p :: r => match firstOf s r with
    | none => some p
    | some q => if orderKey s q < orderKey s p then some q else some p

/-- The issue a run without an agenda makes next: a held split is tried first, then the selected splits in order. -/
def nextIssue (s : State) : Option (Nat × Nat × Nat) :=
  let all := allTryers s
  match all.find? fun p => !ready s p.1 p.2.1 p.2.2 with
  | some p => some (p.1, p.2.1.slot, p.2.2.idx)
  | none => (firstOf s (all.filter fun p => selected s p.1 p.2.1 p.2.2 (nextPipe s p.1 p.2.1 p.2.2))).map
      fun p => (p.1, p.2.1.slot, p.2.2.idx)

/-- Whether an earlier issue of the same core or context is due: a ready split that its scheduler selects (11 R147, 18 R258). -/
def earlierDue (s : State) (c : Nat) (g : Group) (pipe : Nat) : Bool :=
  (allTryers s).any fun p => (p.1 == c || p.2.1.ctx == g.ctx) && decide (orderKey s p < issueKey c g.slot pipe)
    && ready s p.1 p.2.1 p.2.2 && selected s p.1 p.2.1 p.2.2 (nextPipe s p.1 p.2.1 p.2.2)

/-- Move: a split tries to issue. A held split is marked; a ready one issues if its scheduler selects it and no earlier issue is due. -/
def issueMove (s : State) (c slot i : Nat) : Host.Outcome State Fault Refusal :=
  match s.group? c slot with
  | none => .next s
  | some g =>
    match g.split? i with
    | none => .next s
    | some sp =>
      if !mayTry s c g sp then .next s
      else
        let pipe := nextPipe s c g sp
        if ready s c g sp then
          if selected s c g sp pipe && !earlierDue s c g pipe then
            match issueOne s c g sp pipe with
            | .next t => settleMates s t c g sp pipe
            | r => r
          else .next s
        else attempt s c slot i

end Sys2Proof.Machine
end

