-- ==== Sys2Proof/Machine/Cycle.lean ====
section
/-! DEFINITION. The end of a cycle: updates of barrier objects, refills, fills, holds that end, trace, halts, and the counts that
rise (03 R37, R40, 05 R68, 12_uniform R168, R185, 18_vacate R250, R253, 29_debug R369 to R374). -/

namespace Sys2Proof.Machine

/-- The places of all groups. -/
def allGroups (s : State) : List (Nat × Group) := s.cores.flatMap fun x => x.groups.map fun g => (x.index, g)

/-- Whether the counts of a group's context run. -/
def groupRuns (s : State) (g : Group) : Bool := ((s.ctx? g.ctx).map fun x => x.runs).getD false

/-- A group refills its on-chip entries from its spill area, one entry a cycle (03 R40). The access to the area may fault. -/
def refill (s : State) (c : Nat) (g : Group) : State :=
  let held := ((s.ctx? g.ctx).map fun x => faultHeld x c g.slot 4).getD true
  if g.spilled = 0 || 32 ≤ (chipEntries g).length || held then s
  else
    let i := ((g.splits.head?).map fun sp => sp.idx).getD 0
    match spillRead s c g i (g.spilled - 1) with
    | .ok t => t.modGroup c g.slot fun g => { g with stack := markArea (g.spilled - 1) g.stack }
    | .violation va => spillTrap s c g.slot va
    | .faulted t => t
    | .overflow _ => s

/-- The state of an outcome, or the one before where it is none. -/
def orElse (s : State) : Host.Outcome State Fault Refusal → State
  | .next t => t
  | _ => s

/-- Every group of a running context refills (03 R40). DESIGN CHOICE (log 67): a suspended group, one of a halted context and one with a trap
sequence under way do not. -/
def refillAll (s : State) : State :=
  (allGroups s).foldl (fun s p => match s.group? p.1 p.2.slot with
    | some g => if groupRuns s g && !g.suspended && g.trapWait.isNone then refill s p.1 g else s
    | none => s) s

/-- The split tables of the groups that run are filled, one entry each (03 R37). DESIGN CHOICE (log 67): that of a suspended group, of one
whose context is halted or whose block is vacated, or with a trap sequence under way is not. -/
def fillAll (s : State) : State :=
  (allGroups s).foldl (fun s p => match s.group? p.1 p.2.slot with
    | some g =>
      if groupRuns s g && !g.suspended && g.trapWait.isNone && blockRuns (s.core p.1) g then orElse s (execStackFill p.1 g.slot s) else s
    | none => s) s

/-- The splits of the package. -/
def allSplits (s : State) : List (Nat × Nat × Nat) :=
  (allGroups s).flatMap fun p => p.2.splits.map fun sp => (p.1, p.2.slot, sp.idx)

/-- Holds last one cycle more in the contexts that run, and every split may try again (03 R43, 12 R168). -/
def holdTick (s : State) : State :=
  { s with cores := s.cores.map fun x => { x with groups := x.groups.map fun g =>
      let run := groupRuns s g
      { g with splits := g.splits.map fun sp =>
          { sp with tried := false, heldFor := if run && sp.hold != .none then sp.heldFor + 1 else sp.heldFor } } } }

/-- The holds that end by their count: YIELD, and the claim of a channel by a long vacate stall (12 R168, 18 R259). -/
def holdsEnd (s : State) : State :=
  (allSplits s).foldl (fun s p =>
    orElse s (execChannelPriorityHold p.1 p.2.1 p.2.2 (orElse s (execYieldExpiry p.1 p.2.1 p.2.2 s)))) s

/-- The blocks of the package with their cores. -/
def allBlocks (s : State) : List (Nat × Block) := s.cores.flatMap fun x => x.blocks.map fun b => (x.index, b)

/-- Whether a block's elapsed count runs: it runs or drains, and its context is not halted (18 R253, 29 R372). -/
def blockCounts (s : State) (b : Block) : Bool :=
  (b.phase == .running || b.phase == .vacating .drain) && ((s.ctx? b.ctx).map fun x => x.runs).getD false

/-- Whether the waits of a block's routine calls run: its context does, or a vacate of the block waits for them (20 R265, R271, 29 R372). -/
def callsRun (s : State) (b : Block) : Bool := ((s.ctx? b.ctx).map fun x => x.runs).getD false || b.vacates

/-- Elapsed counts and the waits of pending calls rise (18 R253, 22 R293). -/
def blockTick (s : State) : State :=
  { s with cores := s.cores.map fun x => { x with blocks := x.blocks.map fun b =>
      let b := if blockCounts s b then { b with elapsed := b.elapsed + 1 } else b
      if (callsRun s b) then (callsTick b) else b } }

/-- What block counts bring: an overrun of BLKMAX, and service groups (18 R254, 22 R293). -/
def blockEvents (s : State) : State :=
  (allBlocks s).foldl (fun s p =>
    let s := orElse s (execBlkmaxOverrun p.1 p.2.id s)
    if callsRun s p.2 then (
      let s := orElse s (execServiceGroupForm p.1 p.2.id s)
      orElse s (execServiceGroupTimeout p.1 p.2.id s))
    else s) s

/-- The samples of the cycle (29 R374). -/
def sampleAll (s : State) : State :=
  if s.ctxs.any fun x => sampleDue x then
    s.cores.foldl (fun s y => (List.range 4).foldl (fun s k => orElse s (execSample y.index k s)) s) s
  else s

/-- %cycle rises, and the vacate registers of the cycle are kept (12 R185, 18 R250). -/
def ctxTick (s : State) (x : Ctx) : Ctx :=
  { x with cycles := if x.started && x.runs then x.cycles + 1 else x.cycles, vpast := (vacateRegs s x :: x.vpast).take 64 }

/-- A halt takes effect: fixed-latency and lookahead results complete, the trace is flushed, and an event is posted for
each halt, stop at a BRK or step of the cycle (29 R369 to R371, R377). -/
def haltNow (s : State) (ctx : Nat) : State :=
  match s.ctx? ctx with
  | none => s
  | some x =>
    if x.stopping.isEmpty then s
    else
      let s := (allGroups s).foldl (fun s p => if p.2.ctx = ctx then completeWrites s p.1 p.2.slot else s) s
      let s := (flushTrace s ctx).modCtx ctx fun x => { x with halted := true, stopping := [], step := none }
      x.stopping.foldl (fun s h => postEvent s ctx .debugStop 0xFFFF h.1 h.2.1
        (match h.2.2 with
        | none => noSource
        | some (c, slot) => groupSource c slot)) s

/-- The halts of the cycle (29 R369). -/
def haltAll (s : State) : State := (s.ctxs.map fun x => x.id).foldl haltNow s

/-- The end of a cycle for a galley: its timer stops while its context is halted (29 R372). -/
def galleyEnd (s : State) (y : Galley) : Galley :=
  if ((s.ctx? y.ctx).map fun x => x.runs).getD false then galleyTick s y else y

/-- Whether the split of a test still waits on an object (12 R176). -/
def stillWaits (s : State) (t : ObjectWait) : Bool :=
  ((s.group? t.core t.slot).bind fun g => g.split? t.split).any fun sp => sp.hold == .waitObject

/-- A launch, with what is still on its way of the writes that its ended blocks have released (03 R51). -/
def pruneLaunch (s : State) (l : LaunchRun) : LaunchRun := { l with before := l.before.filter fun p => onWay s p.2 }

/-- The sets of releases, without the writes that are performed at every place (13 R208). -/
def pruneSets (s : State) : List ReleaseSet :=
  (s.sets.map fun r => { r with writes := r.writes.filter fun o => onWay s o }).filter fun r => !r.writes.isEmpty

/-- Whether a group's accesses to other cores reach them in the cycle at the latest: it has trapped, its context halts, or it has ended
(12 R171, 26 R347, 29 R369). -/
def mustReach (s : State) (c : Nat) (g : Group) : Bool :=
  g.ended || (s.trapped.any fun k => k.core == c && k.slot == g.slot)
    || ((s.ctx? g.ctx).map fun x => !x.stopping.isEmpty).getD false

/-- The accesses of such groups reach their targets (11 R147). -/
def reachAll (s : State) : State :=
  let reach (g : Group) : Group :=
    { g with la := g.la.map fun a => { a with parts := a.parts.map fun p => { p with reached := true } },
             held := g.held.map fun h => { h with part := h.part.map fun p => { p with reached := true } } }
  { s with cores := s.cores.map fun x => { x with groups := x.groups.map fun g => if mustReach s x.index g then reach g else g } }

/-- The groups that trapped have all their results written (12 R171). -/
def landTrapped (s : State) : State := s.trapped.foldl (fun s k => completeWrites s k.core k.slot) s

/-- The end of a cycle. -/
def endCycle (s : State) : State :=
  let s := reachAll (sampleAll s)
  let s := settleExchange (settleUpdates (settleRemote s).updates.length (settleRemote s))
  let s := refillAll s
  let s := { s with cores := s.cores.map drainRows }
  let s := settleTrace (fillAll s)
  let s := holdsEnd (holdTick s)
  let s := blockEvents (blockTick s)
  let s := { s with galleys := s.galleys.map (galleyEnd s) }
  let s := { s with ctxs := s.ctxs.map (ctxTick s) }
  let s := postAuth s
  let s := haltAll (s.trapped.reverse.foldl postUnhandled (landTrapped s))
  let s := { s with waits := s.waits.filter (stillWaits s), sets := pruneSets s, launches := s.launches.map (pruneLaunch s) }
  let s := { s with cycle := s.cycle + 1, picos := s.picos + s.dev.period, issued := [], trapped := [] }
  orElse s (execPeriodChange (orElse s (execFullServiceStart s)))

/-! The moves of a run without an agenda: what the part does by itself, in a fixed order. -/

/-- A move of the part. -/
abbrev Act := State → Host.Outcome State Fault Refusal

/-- The steps of the ordering machine and of the results of a group. -/
def groupActs (c : Nat) (g : Group) : List Act :=
  (List.range g.la.length).map (fun n => execScratchResult c g.slot n)
    ++ g.splits.map (fun sp => execHeldUniformResult c g.slot sp.idx) ++ g.permits.map (fun p => execGrantSend c g.slot p.split)
    ++ (List.range ((g.reads.head?.map fun e => e.pieces.length).getD 0)).map (fun n => execTakeValue c g.slot n)
    ++ [execAtomicStep c g.slot, execLeave c g.slot]

/-- The steps of an engine operation. -/
def opActs (o : Op) : List Act :=
  match o.kind with
  | .reads => []
  | .copy _ => [execEngineAccess o.id 0, execTceLanding o.id, execTcopyComplete o.id]
  | .matrix _ => []
  | .walks _ ws => ws.map fun w => execWalkVisit o.id w.lane
  | .cut _ => [execTvcutComplete o.id]
  | .put _ ls => [execGalleyReservation o.id] ++ ls.map (fun l => execEngineAccess o.id l.lane)
      ++ ls.map (fun l => execGalleyPublish o.id l.lane) ++ [execGalleyOpComplete o.id]
  | .take _ ls => [execGalleyReservation o.id] ++ ls.map (fun l => execEngineAccess o.id l.lane) ++ [execGalleyOpComplete o.id]
  | .send _ => [execEngineAccess o.id 0, execXsendLanding o.id]
  | .bulk b => (List.range b.messages.length).flatMap (fun n => [execEngineAccess o.id n, execFbulkLanding o.id n])
      ++ [execFbulkComplete o.id]
  | .ctxsave _ _ => []
  | .ctxload _ _ _ _ => [execCtxloadComplete o.id]
  | .tlbinv _ _ _ _ => [execTlbinvComplete o.id]

/-- The steps of the blocks, rows and matrix engine of a core. -/
def coreActs (y : Core) : List Act :=
  y.groups.flatMap (groupActs y.index)
    ++ [execMstreamPassRun y.index 0, execMloadRun y.index 0, execSlotZeroing y.index 0, execEpiRun y.index 0, execAmovRun y.index 0]
    ++ y.blocks.flatMap (fun b => [execRoutineReturn y.index b.id, execBlockSave y.index b.id, execBlockModeFinished y.index b.id])
    ++ y.leases.map (fun p => execRowFree y.index p.1)
    ++ y.blocks.map (fun b => execBlockComplete y.index b.id)
    ++ [execTraceUnitWrite y.index]

/-- The steps of a queue. -/
def queueActs (y : Queue) : List Act :=
  (List.range y.started.length).flatMap (fun n => [execPacketComplete y.id n, execBarrierTest y.id n])
    ++ [execPacketNop y.id, execPacketLaunch y.id, execPacketBarrier y.id, execPacketCopy y.id, execPacketSignalSet y.id,
        execPacketSignalAdd y.id, execPacketChain y.id, execPacketEvent y.id, execProgressPublish y.id]

/-- The steps of a launch: its instances, and a claim by each core in turn with the lowest free resources. -/
def launchActs (s : State) (l : LaunchRun) : List Act :=
  execInstanceStart l.id
    :: ((List.range Config.cores).filter fun c => offers s l c).map fun c => execBlockClaim l.id c (autoPlace s c l.rec_)

/-- The steps of a galley with records for a consumer: a launch by each core in turn with the lowest free resources. -/
def galleyActs (s : State) (y : Galley) : List Act :=
  if y.consumer = 0 ∨ y.avail = 0 then [] else
    match ctxForWork s y.ctx with
    | (none, _) => []
    | (some x, t) => (List.range Config.cores).flatMap fun c =>
      match readLaunch t (.core c) x y.consumer (boundConsumer t x.id) with
      | (.ok r, _) => [execGalleyConsumerLaunch y.id c (autoPlace s c r), execGalleyConsumerTimer y.id c (autoPlace s c r)]
      | _ => []

/-- Drop a clean copy whose home has since changed, once the core's own writes to the line have arrived (13 R202, R221). -/
def dropStale (c : Nat) (v : ViewLine) : Act := fun s =>
  if (lineAddrs v.line).all fun pa => ((v.byte? pa).map fun b => b == s.homeByte pa || (overlayByte s c pa).isSome).getD true then .next s
  else execDrop c v.line s

/-- Everything the part may do by itself. -/
def ownActs (s : State) : List Act :=
  s.cores.flatMap coreActs ++ s.ops.flatMap opActs
    ++ (List.range s.props.length).flatMap (fun n => [execPropagationArrive n, execReplicaStamp n])
    ++ s.replicas.flatMap (fun r => r.pending.map fun p => execReplicaApply r.ctx r.rset p.die)
    ++ (List.range s.grants.length).map (fun n => execPermitGrant n)
    ++ s.queues.flatMap queueActs ++ s.launches.flatMap (launchActs s)
    ++ s.galleys.flatMap (galleyActs s) ++ s.cores.flatMap (fun y => y.view.map (dropStale y.index))

/-- The first move that changes more than the free values spent. -/
def firstChange (s : State) : List Act → Option State
  | [] => none
  | f :: r => match f s with
    | .next t => if { t with free := s.free } = s then firstChange s r else some t
    | _ => firstChange s r

/-! Atomics made in two halves (13 R220): no access but the host's comes between the halves of one on a page of device memory. -/

/-- Whether an atomic on an address is made in device memory. -/
def onDevice (s : State) (ctx va : Nat) : Bool :=
  match (s.ctx? ctx).map fun x => peek s x .atomic va with
  | some (.ok q) => !q.sys
  | _ => true

/-- The address of a group's atomic whose read half has been made. -/
def groupHalf (g : Group) : Option Nat :=
  match g.reads with
  | e :: _ => if e.half then e.pieces.head?.map fun p => p.va else none
  | [] => none

/-- The write halves due in device memory: of groups, of signal adds of packets, and of the adds and the bitmap of blocks. -/
def openHalves (s : State) : List Act :=
  ((allGroups s).filter fun p => (groupHalf p.2).any fun va => onDevice s p.2.ctx va).map (fun p => execAtomicStep p.1 p.2.slot)
    ++ (s.queues.flatMap fun y => ((List.range y.started.length).filter fun n => (y.started[n]?).any fun k =>
          k.half.isSome && onDevice s y.ctx (if k.type = 4 then k.ptr else k.sig.getD 0)).map fun n => execPacketComplete y.id n)
    ++ ((allBlocks s).filter fun p => p.2.half.isSome).map fun p => execBlockComplete p.1 p.2.id

/-- The state with the first due write half made. -/
def closeHalf (s : State) : Option State := firstChange s (openHalves s)

/-! One move. -/

/-- Whether a constructor is an event that comes by itself: the instructions of a program, and the events that are part of an issue or
of the end of a cycle, come only with those moves. -/
def comesAlone : Instr → Bool
  | .scratchResult _ _ _ => true
  | .takeValue _ _ _ => true
  | .leave _ _ => true
  | .propagationArrive _ => true
  | .drop _ _ => true
  | .atomicStep _ _ => true
  | .engineAccess _ _ => true
  | .faultResponseDoorbell _ _ _ => true
  | .faultAnswerFirmware _ _ _ => true
  | .replicaStamp _ => true
  | .replicaApply _ _ _ => true
  | .mstreamPassRun _ _ => true
  | .mloadRun _ _ => true
  | .slotZeroing _ _ => true
  | .epiRun _ _ => true
  | .amovRun _ _ => true
  | .tceLanding _ => true
  | .tcopyComplete _ => true
  | .walkVisit _ _ => true
  | .serviceGroupForm _ _ => true
  | .serviceGroupTimeout _ _ => true
  | .routineReturn _ _ => true
  | .tvcutComplete _ => true
  | .galleyReservation _ => true
  | .galleyPublish _ _ => true
  | .galleyOpComplete _ => true
  | .galleyConsumerLaunch _ _ _ => true
  | .galleyConsumerTimer _ _ _ => true
  | .xsendLanding _ => true
  | .grantSend _ _ _ => true
  | .permitGrant _ => true
  | .fbulkLanding _ _ => true
  | .fbulkComplete _ => true
  | .branchBlocked _ => true
  | .fabricMessageReceive _ => true
  | .fabricLink _ _ => true
  | .hostAccess _ => true
  | .registerWrite _ _ => true
  | .featctlCommit _ => true
  | .ctxcmdVacate _ => true
  | .ctxcmdResume _ _ => true
  | .ctxcmdEnd _ => true
  | .partcmdApply _ => true
  | .dbgcmdHalt _ => true
  | .dbgcmdResume _ => true
  | .dbgcmdStep _ _ _ _ => true
  | .dbgcmdAttach _ => true
  | .dbgcmdDetach _ => true
  | .errcntClear _ _ => true
  | .queueTailDoorbell _ _ _ => true
  | .eventHeadDoorbell _ _ _ => true
  | .packetNop _ => true
  | .packetLaunch _ => true
  | .packetBarrier _ => true
  | .packetCopy _ => true
  | .packetSignalSet _ => true
  | .packetSignalAdd _ => true
  | .packetChain _ => true
  | .packetEvent _ => true
  | .packetComplete _ _ => true
  | .barrierTest _ _ => true
  | .progressPublish _ => true
  | .blockClaim _ _ _ => true
  | .instanceStart _ => true
  | .rowFree _ _ => true
  | .blockComplete _ _ => true
  | .blkmaxOverrun _ _ => true
  | .channelPriorityHold _ _ _ => true
  | .blockSave _ _ => true
  | .blockModeFinished _ _ => true
  | .ctxloadComplete _ => true
  | .tlbinvComplete _ => true
  | .traceUnitWrite _ => true
  | .sample _ _ => false
  | .packageReset => true
  | .reducedServiceStart => true
  | .fullServiceStart => true
  | .ageingPlanRaise _ => true
  | .periodChange => true
  | .dieFailure _ _ => true
  | .correctedError _ => true
  | .uncorrectedError _ _ => true
  | .firmwareImage _ => true
  | .liveHandover => true
  | .measurements => true
  | .heldUniformResult _ _ _ => true
  | .trainingComplete => true
  | .fabricLinkUp _ => true
  | .linkLevelRetry _ => true
  | _ => false

/-- A move of the agenda. A cycle ends when no issue is due in it (03 R42, R44): else the next one is made, and the end stays due. -/
def makeMove (s : State) : Move → Host.Outcome State Fault Refusal
  | .event i => if comesAlone i then exec i s else .next s
  | .issue c slot i => issueMove s c slot i
  | .cycle => match nextIssue s with
    | some p => issueMove { s with agenda := .cycle :: s.agenda } p.1 p.2.1 p.2.2
    | none => .next (endCycle s)

/-- The move of a machine with an empty agenda: an issue, else a step of the part, else the end of the cycle. -/
def ownMove (s : State) : Host.Outcome State Fault Refusal :=
  match nextIssue s with
  | some p => issueMove s p.1 p.2.1 p.2.2
  | none => match firstChange s (ownActs s) with
    | some t => .next t
    | none => .next (endCycle s)

/-- Whether a move is an access of the host. -/
def Move.ofHost : Move → Bool
  | .event (.hostAccess _) => true
  | _ => false

/-- One step: the free values and the issuer are fresh, and the first move of the agenda is made. A write half that is due comes before
every move but the host's. -/
def oneMove (s : State) : Host.Outcome State Fault Refusal :=
  let t := { s with issuer := none, free := s.free + 1 }
  match s.agenda with
  | m :: rest =>
    match if m.ofHost then none else closeHalf t with
    | some u => .next u
    | none => makeMove { t with agenda := rest } m
  | [] =>
    match closeHalf t with
    | some u => .next u
    | none => ownMove t

end Sys2Proof.Machine
end

