-- ==== Sys2Proof/Machine/Step.lean ====
section
/-! DEFINITION. One step of the package, and the placement of one instruction where a step fetches (log 1). -/

namespace Sys2Proof.Machine

/-- One step: the first move of the agenda, or the machine's own next move. -/
def step (s : State) : Host.Outcome State Fault Refusal := oneMove s

/-- The context that `State.withFetchWord` loads: its tables map the first 64 GiB of virtual addresses to the same physical ones, with
all permissions. -/
def loadCtx : Ctx := { noCtx with id := 0, valid := true, pt0 := 0x4000, phase := .idle, started := true }

/-- The group that `State.withFetchWord` loads: slot 0 of core 0, register row 1, split 0 at PC 0. -/
def loadGroup : Group :=
  newGroup 0 0 0 64 0 0 0 1 1 [] (BitVec.allOnes 32) 0 (List.replicate 8 (BitVec.allOnes 32)) 0

/-- The state with an instruction stored where the next step fetches, and all that the fetch needs: the device in full service, a
context with its page tables, and one group whose split is the next to issue. -/
def State.withFetchWord (s : State) (nbits w : Nat) : State :=
  let t := ((s.poke 0x4000 (bytesOf 8 0x8001)).poke 0x8000 (bytesOf 8 0x1F)).poke 0 (bytesOf 4 (w % 2 ^ nbits))
  { t with agenda := [.issue 0 0 0], ctxs := [loadCtx], cores := [{ Core.idle 0 with groups := [loadGroup] }],
           dev := { t.dev with service := .full, trained := true, commit := true, featen := t.dev.featcap } }

end Sys2Proof.Machine
end

