-- ==== Sys2Proof/Safety.lean ====
section
/-! DEFINITION. The terms in which statements speak of a run: what counts as a safe run, who issues, what an instruction leaves
unchanged, and where its split goes on. -/

namespace Sys2Proof.Machine

/-- A step that answers a next state. -/
def Runs (s : State) : Prop := ∃ t, step s = .next t

/-- The states a machine comes to from one. -/
inductive Reaches (s : State) : State → Prop where
  | start : Reaches s s
  | step {t u : State} : Reaches s t → Machine.step t = .next u → Reaches s u

/-- A safe state: from every state it comes to, a step answers a next state. -/
def Safe (s : State) : Prop := ∀ t, Reaches s t → Runs t

/-- The issuer of a state is `w`, and no read of its instruction can fall inside a distance that the hazard detector checks (09 R117):
its context is not in debug mode, or no write of its group is in flight. -/
def Issues (s : State) (w : Issuer) : Prop := s.who = some w ∧ (debugMode s w.g = false ∨ w.g.pend = [])

/-- Nothing that the issuer's group has issued holds an access that is performed, or a fork made, when it issues: no acquire is outstanding, and a
release may be performed (13 R208, R209). -/
def Unfenced (s : State) (w : Issuer) : Prop := acquirePending w.g = false ∧ releaseReady s w.c w.g = true

/-- The line copies of a list are in the canonical form of memory. -/
def LinesForm (vs : List ViewLine) : Prop := ∀ v ∈ vs, Memory.wf v.cells = true

/-- The content of G(i) in the rows (05 R59). -/
def rawG (x : Core) (g : Group) (i : Nat) : DWord :=
  if i = 0 then 0
  else BitVec.ofNat 64 ((rawV x g (gReg g i) (gLane i)).toNat + 2 ^ 32 * (rawV x g (gReg g i) (gLane i + 1)).toNat)

/-- The cells of a core's rows that a write of lanes `m` of a lane register changes: those of g0 are none (05 R58, R59). -/
def VKeys (g : Group) (n : Nat) (m : Mask) (k : Nat) : Prop :=
  ∃ l, l < 32 ∧ m.getLsbD l = true ∧ isG0 g n l = false ∧ k = rowKey g n l

/-- The cells of a core's rows that hold G(i) (05 R59). -/
def GKeys (g : Group) (i : Nat) (k : Nat) : Prop :=
  i ≠ 0 ∧ VKeys g (gReg g i) (oneLane (gLane i) ||| oneLane (gLane i + 1)) k

/-- No cell. -/
def noKeys (_ : Nat) : Prop := False

/-- A lookahead result without its count. -/
def LaResult.content (a : LaResult) : LaResult := { a with left := [] }

/-- What changes in the issuing group of a register instruction: its split table and its writes in flight, and of its mask registers
and floating flags at most those named. The lookahead results it awaited stay, and `new` ones come after them; if they hold accesses to
other cores, those take a place in the group's issue order (13 R206). -/
def GroupAwaits (new : List LaResult) (ks : Nat → Prop) (fl : Bool) (g h : Group) : Prop :=
  h = { g with splits := h.splits, pend := h.pend, la := h.la, masks := h.masks, fpflags := h.fpflags
               nextSeq := g.nextSeq + if new.all fun a => a.parts.isEmpty then 0 else 1 }
    ∧ (∀ k, ¬ ks k → rawK h k = rawK g k) ∧ (fl = false → h.fpflags = g.fpflags)
    ∧ h.la.map LaResult.content = g.la.map LaResult.content ++ new.map LaResult.content

/-- What changes in the issuing group of a register instruction that awaits nothing. -/
def GroupLocal (ks : Nat → Prop) (fl : Bool) (g h : Group) : Prop := GroupAwaits [] ks fl g h

/-- What changes in the issuing group of an instruction that changes it by `f`: beside that its split table and its writes in flight. -/
def GroupBy (f : Group → Group) (g h : Group) : Prop :=
  h = { f g with splits := h.splits, pend := h.pend, la := h.la } ∧ h.la.map LaResult.content = g.la.map LaResult.content

/-- Between two states only registers of the issuing group changed: in the rows at most the cells `keys`, and of the group what `rel`
says. Every byte of memory, every other register, every special register, other groups, other cores and the rest of the package are as
before, but for the model's count of names and the trace events of the cycle. -/
structure Near (s t : State) (w : Issuer) (keys : Nat → Prop) (rel : Group → Group → Prop) : Prop where
  package : t = { s with cores := t.cores, nextId := t.nextId, traceNow := t.traceNow }
  memory : ∀ a, Memory.read t.mem a = Memory.read s.mem a
  cores : ∀ c, c ≠ w.c → t.core c = s.core c
  core : t.core w.c = { s.core w.c with rows := (t.core w.c).rows, groups := (t.core w.c).groups }
  rows : ∀ k, ¬ keys k → (t.core w.c).rows.word k = (s.core w.c).rows.word k
  slots : ∀ b, b ≠ w.slot → t.group? w.c b = s.group? w.c b
  group : ∀ g, s.group? w.c w.slot = some g → ∃ h, t.group? w.c w.slot = some h ∧ rel g h

/-- Only registers changed: at most the cells `keys`, the mask registers `ks` and, with `fl`, the floating flags. -/
abbrev Local (s t : State) (w : Issuer) (keys ks : Nat → Prop) (fl : Bool) : Prop := Near s t w keys (GroupLocal ks fl)

/-- The issuer's split stands so, and the other splits of its group are as before. -/
def Stands (t : State) (w : Issuer) (sp : Split) : Prop :=
  ∃ g, t.group? w.c w.slot = some g ∧ g.split? w.idx = some sp ∧ ∀ i, i ≠ w.idx → g.split? i = w.g.split? i

/-- The issuer's split goes on at an address, not held, and the other splits of its group are as before. -/
def GoesOn (t : State) (w : Issuer) (pc : PC) : Prop :=
  Stands t w { w.sp with pc := pc, hold := .none, heldFor := 0 }

/-- Lanes `m` of a lane register hold `f` after an instruction; g0's lanes read 0 (05 R59). -/
def HoldsV (t : State) (w : Issuer) (n : Nat) (m : Mask) (f : Nat → Word) : Prop :=
  ∀ l, l < 32 → m.getLsbD l = true → rawV (t.core w.c) w.g n l = if isG0 w.g n l then 0 else f l

/-- G(i) holds `v` after an instruction; g0 reads 0 (05 R59). -/
def HoldsG (t : State) (w : Issuer) (i : Nat) (v : DWord) : Prop :=
  rawG (t.core w.c) w.g i = if i = 0 then 0 else v

/-- A lane instruction with a register result: it completes, its active lanes of vd hold the result, its split goes on at PC + 4, and
nothing else changes. -/
def LaneResult (s : State) (w : Issuer) (i : Instr) (d : Nat) (m : Mask) (f : Nat → Word) : Prop :=
  ∃ t, exec i s = .next t ∧ HoldsV t w d m f ∧ GoesOn t w (nextPc w) ∧ Local s t w (VKeys w.g d m) noKeys false

/-- A lane instruction with a pair result (05 R58). -/
def PairResult (s : State) (w : Issuer) (i : Instr) (d : Nat) (m : Mask) (f : Nat → Nat) : Prop :=
  ∃ t, exec i s = .next t ∧ HoldsV t w d m (fun l => BitVec.ofNat 32 (f l))
    ∧ HoldsV t w (d + 1) m (fun l => BitVec.ofNat 32 (f l / 2 ^ 32)) ∧ GoesOn t w (nextPc w)
    ∧ Local s t w (fun k => VKeys w.g d m k ∨ VKeys w.g (d + 1) m k) noKeys false

/-- A uniform instruction with a register result: it completes, G(gd) holds the result, its split goes on at PC + 4, and nothing else
changes. -/
def UniResult (s : State) (w : Issuer) (i : Instr) (d : Nat) (v : DWord) : Prop :=
  ∃ t, exec i s = .next t ∧ HoldsG t w d v ∧ GoesOn t w (nextPc w) ∧ Local s t w (GKeys w.g d) noKeys false

/-- The lookahead results an instruction of lanes `m` of the issuer hands in: one if it has an active lane, none otherwise (09 R116); `far` is
its accesses to other cores (13 R206). -/
def awaited (s : State) (w : Issuer) (la : Nat) (m : Mask) (ws : List (Nat × Nat × Word)) (bad : Option (DWord × Mask))
    (far : List RemoteAccess) : List LaResult :=
  if m = 0 then [] else [⟨w.sp.mask, [], la == 15, ws, bad, w.sp.pc, s.nextId, w.idx, 0, far⟩]

/-- What a store of the issuer hands in for its accesses to other cores, if it makes any: they wait with no result (13 R206). -/
def leftFar (s : State) (w : Issuer) (far : List RemoteAccess) : List LaResult :=
  if far = [] then [] else [⟨0, [], false, [], none, w.sp.pc, s.nextId, w.idx, 0, far⟩]

/-- The newest lookahead result of the issuer's group may see `la` further instructions in each lane of its split (09 R116). -/
def NewestWaits (t : State) (w : Issuer) (la : Nat) : Prop :=
  ∃ h a, t.group? w.c w.slot = some h ∧ h.la.getLast? = some a ∧ ∀ l, l < 32 → w.sp.mask.getLsbD l = true → a.left.getD l 0 = la

/-- The result of a test of a held WAIT's object in a state (12 R176). -/
def tested (t : State) (u : ObjectWait) : ObjectWait := { u with met := testObject (objAt t ⟨u.home, u.off⟩) u.phase }

/-- A held WAIT after bytes of scratchpads are written: as it was, or tested in the state after; tested if it had met nothing and a
byte of its object is written (12 R176). -/
def Retests (t : State) (f : Nat → Nat → Option Byte) (u v : ObjectWait) : Prop :=
  (v = u ∨ v = tested t u) ∧ (u.met ≠ none → v = u)
    ∧ (u.met = none → (∃ o, u.off ≤ o ∧ o < u.off + 16 ∧ (f u.home o).isSome) → v = tested t u)

/-- Between two states only scratchpads changed, and of the issuing group what `rel` says: byte `o` of core `c` is what `f` gives, and
otherwise as before; a byte written loses its error (31 R380), and the WAITs held on an object written are tested (12 R176). -/
structure Scratched (s t : State) (w : Issuer) (rel : Group → Group → Prop) (f : Nat → Nat → Option Byte) : Prop where
  package : t = { s with cores := t.cores, nextId := t.nextId, waits := t.waits }
  core : ∀ c, t.core c = { s.core c with scratch := (t.core c).scratch, poison := (t.core c).poison, groups := (t.core c).groups }
  others : ∀ c b, (c ≠ w.c ∨ b ≠ w.slot) → t.group? c b = s.group? c b
  bytes : ∀ c o, (t.core c).scratch.byte o = (f c o).getD ((s.core c).scratch.byte o)
  poison : ∀ c o, o ∈ (t.core c).poison ↔ o ∈ (s.core c).poison ∧ f c o = none
  waits : List.Forall₂ (Retests t f) s.waits t.waits
  group : ∀ g, s.group? w.c w.slot = some g → ∃ h, t.group? w.c w.slot = some h ∧ rel g h

/-- Bytes written at a place, over what `f` gives. -/
def overBytes (p : Place) (bs : List Byte) (f : Nat → Nat → Option Byte) : Nat → Nat → Option Byte := fun c o =>
  if c = p.core ∧ p.off ≤ o ∧ o < p.off + bs.length then bs[o - p.off]? else f c o

/-- No byte written. -/
def noBytes : Nat → Nat → Option Byte := fun _ _ => none

/-- The engine operation that a fork of the issuer makes: it joins the open batch of its gate, and its charge its channel (05 R70, 13 R215,
18 R257). -/
def forkedOp (s : State) (w : Issuer) (gate : Gate) (cls charge : Nat) (kind : OpKind) : Op :=
  ⟨s.nextId, w.c, w.slot, w.idx, w.g.block, w.g.ctx, gate, (w.g.gate gate).closed + 1, w.sp.pc, charge, channelOf s cls, false, w.g.podReleased,
    kind⟩

/-- An operation that issues ends its split's claim on a channel (18 R259). -/
def EndsClaim (s t : State) (w : Issuer) : Prop :=
  ∀ c, t.ctx? c = (s.ctx? c).map fun x =>
    if c = w.g.ctx then { x with priority := x.priority.filter fun p => p.2 != w.claimant } else x

/-- An instruction forks an operation and goes on: the operation is outstanding at its gate, the group changes by `f` beside, a claim of
the split on a channel ends, and nothing else changes. -/
def Forks (s : State) (w : Issuer) (i : Instr) (gate : Gate) (cls charge : Nat) (kind : OpKind) (f : Group → Group) : Prop :=
  ∃ t, exec i s = .next t ∧ GoesOn t w (nextPc w) ∧ t.ops = s.ops ++ [forkedOp s w gate cls charge kind] ∧ EndsClaim s t w
    ∧ Near s { t with ops := s.ops, ctxs := s.ctxs } w noKeys (GroupBy fun g => f (g.join gate))

/-- An instruction places commands of one operation on gm in the matrix command queue and goes on: `book` is what it does to the slots
and counts, and `f` to the group; nothing else changes (16 R224). -/
def Places (s : State) (w : Issuer) (i : Instr) (cls charge n : Nat) (ks : List Command) (book : Matrix → Matrix) (f : Group → Group) : Prop :=
  let m := (s.core w.c).matrix
  ∃ t, exec i s = .next t ∧ GoesOn t w (nextPc w) ∧ t.ops = s.ops ++ [forkedOp s w .gm cls charge (.matrix n)] ∧ EndsClaim s t w
    ∧ (t.core w.c).matrix = { book m with queue := ks.foldl (fun q k => insertCommand k q) m.queue }
    ∧ Near s (State.modCore { t with ops := s.ops, ctxs := s.ctxs } w.c fun x => { x with matrix := m }) w noKeys
        (GroupBy fun g => f (g.join .gm))

/-- An instruction of the issuer changes only its group, by `f`, and goes on. -/
def Completes (s : State) (w : Issuer) (i : Instr) (f : Group → Group) : Prop :=
  ∃ t, exec i s = .next t ∧ GoesOn t w (nextPc w) ∧ Near s t w noKeys (GroupBy f)

/-- An instruction of the issuer does not issue and holds its split (03 R43). -/
def Holds (s : State) (w : Issuer) (i : Instr) (h : Hold) : Prop :=
  ∃ t sp, exec i s = .next t ∧ Stands t w sp ∧ sp.pc = w.sp.pc ∧ sp.mask = w.sp.mask ∧ sp.hold = h ∧ Local s t w noKeys noKeys false

end Sys2Proof.Machine
end

