-- ==== Sys2Proof/Certificates/Slice0/Obligations.lean ====
section
/-! DEFINITION. The statements about the model, for the provers. -/

open Sys2Proof Sys2Proof.Machine

/-! Lane instructions with register results (11 R130 to R145). -/

/-- The forms of two lane operands and one lane result, with the function of a lane (11 R130, R131, R133). -/
def laneBinaryForms : List ((KReg → VReg → VReg → VReg → Instr) × (Word → Word → Word)) :=
  [(.iadd, fun x y => x + y), (.isub, fun x y => x - y), (.imul, fun x y => x * y),
   (.imulhZ, fun x y => BitVec.ofNat 32 (x.toNat * y.toNat / 2 ^ 32)),
   (.imulhS, fun x y => BitVec.ofInt 32 (x.toInt * y.toInt / 2 ^ 32)),
   (.iminS, fun x y => if x.sle y then x else y), (.imaxS, fun x y => if x.sle y then y else x),
   (.iminZ, fun x y => if x.ule y then x else y), (.imaxZ, fun x y => if x.ule y then y else x),
   (.and, fun x y => x &&& y), (.or, fun x y => x ||| y), (.xor, fun x y => x ^^^ y), (.andn, fun x y => x &&& ~~~y),
   (.shl, fun x y => x <<< (y.toNat % 32)), (.shr, fun x y => x >>> (y.toNat % 32)),
   (.sar, fun x y => x.sshiftRight (y.toNat % 32)), (.rotl, fun x y => x.rotateLeft (y.toNat % 32))]

/-- Every form of IARITH, IMINMAX, LOGIC, SHIFT and imulh.s completes with its result in the active lanes and changes nothing else (11
R130, R131). -/
def LaneBinaryResults : Prop :=
  ∀ (s : State) (w : Issuer) (k : KReg) (d a b : VReg), Issues s w → d.val < w.g.allot → a.val < w.g.allot → b.val < w.g.allot →
    ∀ p ∈ laneBinaryForms,
      LaneResult s w (p.1 k d a b) d (activeOf s w k) fun l => p.2 (laneV s w a l) (laneV s w b l)

/-- The forms that read vd as a third operand (11 R131, R133). -/
def laneTernaryForms : List ((KReg → VReg → VReg → VReg → Instr) × (Word → Word → Word → Word)) :=
  [(.imadLo, fun x y z => x * y + z), (.bfi, aluBfi), (.perm, aluPerm), (.bfeZ, fun x y _ => aluBfeZ x y),
   (.bfeS, fun x y _ => aluBfeS x y)]

/-- IMAD lo and BFIELD complete with their result, of va, vb and the old vd (11 R131, R133). -/
def LaneTernaryResults : Prop :=
  ∀ (s : State) (w : Issuer) (k : KReg) (d a b : VReg), Issues s w → d.val < w.g.allot → a.val < w.g.allot → b.val < w.g.allot →
    ∀ p ∈ laneTernaryForms,
      LaneResult s w (p.1 k d a b) d (activeOf s w k) fun l => p.2 (laneV s w a l) (laneV s w b l) (laneV s w d l)

/-- The number of bits of a word from the top that are 0. -/
def highZeros (x : Word) : Nat := if x = 0 then 32 else 31 - Nat.log2 x.toNat

/-- The bits of a word in reverse order. -/
def reversed (x : Word) : Word := BitVec.ofFnLE fun j : Fin 32 => x.getLsbD (31 - j.val)

/-- BITS, mov, laneid, sel and the forms with a uniform operand complete with their result (11 R130, R135 to R137, R140). -/
def LaneMoveResults : Prop :=
  ∀ (s : State) (w : Issuer) (k : KReg) (d a b : VReg) (g : GReg), Issues s w → d.val < w.g.allot → a.val < w.g.allot →
    b.val < w.g.allot →
    let m := activeOf s w k
    LaneResult s w (.popc k d a) d m (fun l => BitVec.ofNat 32 ((List.range 32).filter fun j => (laneV s w a l).getLsbD j).length)
      ∧ LaneResult s w (.clz k d a) d m (fun l => BitVec.ofNat 32 (highZeros (laneV s w a l)))
      ∧ LaneResult s w (.ctz k d a) d m (fun l => BitVec.ofNat 32 (((List.range 32).find? fun j => (laneV s w a l).getLsbD j).getD 32))
      ∧ LaneResult s w (.brev k d a) d m (fun l => reversed (laneV s w a l))
      ∧ LaneResult s w (.mov k d a) d m (fun l => laneV s w a l)
      ∧ LaneResult s w (.laneid k d) d m (fun l => BitVec.ofNat 32 l)
      ∧ LaneResult s w (.sel k d a b) d w.sp.mask
          (fun l => if (maskK s w false k).getLsbD l then laneV s w a l else laneV s w b l)
      ∧ LaneResult s w (.movg k d g) d m (fun _ => (laneG s w g).setWidth 32)

/-- The forms of IALUG with the operation of the same name (11 R137). -/
def laneUniformForms : List ((KReg → VReg → VReg → GReg → Instr) × (Word → Word → Word)) :=
  [(.ialugIadd, fun x y => x + y), (.ialugIsub, fun x y => x - y), (.ialugImul, fun x y => x * y), (.ialugAnd, fun x y => x &&& y),
   (.ialugOr, fun x y => x ||| y), (.ialugXor, fun x y => x ^^^ y), (.ialugShl, fun x y => x <<< (y.toNat % 32)),
   (.ialugShr, fun x y => x >>> (y.toNat % 32))]

/-- IALUG completes with the operation of the same name on G(gb)[31:0] (11 R137). -/
def LaneUniformResults : Prop :=
  ∀ (s : State) (w : Issuer) (k : KReg) (d a : VReg) (g : GReg), Issues s w → d.val < w.g.allot → a.val < w.g.allot →
    ∀ p ∈ laneUniformForms,
      LaneResult s w (p.1 k d a g) d (activeOf s w k) fun l => p.2 (laneV s w a l) ((laneG s w g).setWidth 32)

/-- Every form of IARITH, IMINMAX, LOGIC, SHIFT, BFIELD and IALUG, with imulh.s and imad.lo, completes with its result in the active lanes
and changes nothing else (11 R130, R131, R133, R137). -/
def Obligations.LaneIntegerResults : Prop := LaneBinaryResults ∧ LaneTernaryResults ∧ LaneUniformResults

/-- The forms with pair results, with the value of a lane of the old pairs (11 R131, R132). -/
def pairForms : List ((KReg → VReg → VReg → VReg → Instr) × (State → Issuer → Nat → Nat → Nat → Nat → Nat)) :=
  [(.iadd64, fun s w d a b l => (lanePair s w a l + lanePair s w b l) % 2 ^ 64),
   (.isub64, fun s w d a b l => (lanePair s w a l + 2 ^ 64 - lanePair s w b l) % 2 ^ 64),
   (.shl64, fun s w d a b l => lanePair s w a l * 2 ^ ((laneV s w b l).toNat % 64) % 2 ^ 64),
   (.shr64, fun s w d a b l => lanePair s w a l / 2 ^ ((laneV s w b l).toNat % 64)),
   (.imadWideZ, fun s w d a b l => ((laneV s w a l).toNat * (laneV s w b l).toNat + lanePair s w d l) % 2 ^ 64),
   (.imadWideS, fun s w d a b l =>
     (((laneV s w a l).toInt * (laneV s w b l).toInt + (lanePair s w d l : Int)) % (2 ^ 64 : Int)).toNat)]

/-- I64 and the wide forms of IMAD complete with their pair result (11 R131, R132). -/
def Obligations.LanePairResults : Prop :=
  ∀ (s : State) (w : Issuer) (k : KReg) (d a b : VReg), Issues s w → d.val < w.g.allot → a.val < w.g.allot → b.val < w.g.allot →
    ∀ p ∈ pairForms, wellFormed (p.1 k d a b) = true →
      PairResult s w (p.1 k d a b) d (activeOf s w k) fun l => p.2 s w d a b l

/-- SHFL completes: each active lane receives va of the lane its mode and its own count select, or its own va where that lane does
not exist (11 R145). -/
def ShuffleResults : Prop :=
  ∀ (s : State) (w : Issuer) (k : KReg) (d a b : VReg), Issues s w → d.val < w.g.allot → a.val < w.g.allot → b.val < w.g.allot →
    let m := activeOf s w k
    let c := fun l => (laneV s w b l).toNat % 32
    LaneResult s w (.shflIdx k d a b) d m (fun l => laneV s w a (c l))
      ∧ LaneResult s w (.shflXor k d a b) d m (fun l => laneV s w a (l ^^^ c l))
      ∧ LaneResult s w (.shflUp k d a b) d m (fun l => laneV s w a (if c l ≤ l then l - c l else l))
      ∧ LaneResult s w (.shflDown k d a b) d m (fun l => laneV s w a (if l + c l ≤ 31 then l + c l else l))

/-- BITS, MOVE, SEL, LANEID and SHFL complete with their result and change nothing else (11 R130, R135, R136, R145). -/
def Obligations.LaneMovesAndShuffles : Prop := LaneMoveResults ∧ ShuffleResults

/-- An instruction that writes lanes of a mask register completes: K(kd) of the lanes in `m` is the truth, of the others as before, and
a kd of 0 discards it; the floating flags `fl` are raised (11 R134, R139). -/
def MaskResult (s : State) (w : Issuer) (i : Instr) (e : Nat) (m : Mask) (truth : Nat → Bool) (fl : FFlags) : Prop :=
  ∃ t, exec i s = .next t ∧ GoesOn t w (nextPc w) ∧ Local s t w noKeys (fun j => j = e ∧ e ≠ 0) true
    ∧ ∃ h, t.group? w.c w.slot = some h ∧ h.fpflags = w.g.fpflags ||| fl ∧ (e < h.masks.length → e ≠ 0 → ∀ l, l < 32 →
        (rawK h e).getLsbD l = if m.getLsbD l then truth l else (rawK w.g e).getLsbD l)

/-- ICMP completes with the condition's truth (11 R134). -/
def IntegerCompare : Prop :=
  ∀ (s : State) (w : Issuer) (k e : KReg) (c : ICond) (a b : VReg) (t : IType), Issues s w → a.val < w.g.allot → b.val < w.g.allot →
    wellFormed (.icmp k c e a b t) = true →
    MaskResult s w (.icmp k c e a b t) e (activeOf s w k)
      (fun l => condInt c (intOperand s w t a l) (intOperand s w t b l)) noFlags

/-- FCMP completes with the condition's truth on every element (11 R139). -/
def FloatCompare : Prop :=
  ∀ (s : State) (w : Issuer) (k e : KReg) (c : FCond) (a b : VReg) (t : FType), Issues s w → a.val < w.g.allot → b.val < w.g.allot →
    wellFormed (.fcmp k c e a b t) = true →
    MaskResult s w (.fcmp k c e a b t) e (activeOf s w k)
      (fun l => (elementsCompare t c (floatOperand s w t a l) (floatOperand s w t b l)).1)
      (orFlags (fun l => (elementsCompare t c (floatOperand s w t a l) (floatOperand s w t b l)).2) (lanesOf (activeOf s w k)))

/-- ICMP and FCMP write their truth to the active lanes of a mask register and change nothing else but the flags FCMP raises (11 R134,
R139). -/
def Obligations.CompareResults : Prop := IntegerCompare ∧ FloatCompare

/-- A floating lane instruction completes: the active lanes of vd (the pair for f64) hold the results, the flags of the lanes are raised
beside those that stood, and nothing else changes (07 R88, 11 R138). -/
def FloatResult (s : State) (w : Issuer) (i : Instr) (wide : Bool) (d : Nat) (m : Mask) (r : Nat → Nat × FFlags) : Prop :=
  ∃ t, exec i s = .next t ∧ GoesOn t w (nextPc w)
    ∧ HoldsV t w d m (fun l => BitVec.ofNat 32 (r l).1)
    ∧ (wide = true → HoldsV t w (d + 1) m fun l => BitVec.ofNat 32 ((r l).1 / 2 ^ 32))
    ∧ Local s t w (fun k => VKeys w.g d m k ∨ (wide = true ∧ VKeys w.g (d + 1) m k)) noKeys true
    ∧ ∃ h, t.group? w.c w.slot = some h ∧ h.fpflags = w.g.fpflags ||| orFlags (fun l => (r l).2) (lanesOf m)

/-- The floating forms with their operation on one element (11 R138). -/
def floatForms : List ((KReg → VReg → VReg → VReg → FType → Instr) × (NumFmt → Nat → Nat → Nat → Nat × FFlags)) :=
  [(.fadd, fun f x y _ => fpAdd f x y), (.fsub, fun f x y _ => fpSub f x y), (.fmul, fun f x y _ => fpMul f x y), (.fma, fpFma),
   (.fmin, fun f x y _ => fpMinMax f false x y), (.fmax, fun f x y _ => fpMinMax f true x y)]

/-- FADD, FSUB, FMUL, FMA, FMIN and FMAX complete on every type: element by element, with the flags of every element (11 R138). -/
def FloatResults : Prop :=
  ∀ (s : State) (w : Issuer) (k : KReg) (d a b : VReg) (t : FType), Issues s w → d.val < w.g.allot → a.val < w.g.allot →
    b.val < w.g.allot → ∀ p ∈ floatForms, wellFormed (p.1 k d a b t) = true →
      FloatResult s w (p.1 k d a b t) (t == .f64) d (activeOf s w k) fun l =>
        elements t p.2 (floatOperand s w t a l) (floatOperand s w t b l) (floatOperand s w t d l)

/-- The forms of FALUG with their operation (11 R140). -/
def floatUniformForms : List ((KReg → VReg → VReg → GReg → Instr) × (NumFmt → Nat → Nat → Nat → Nat × FFlags)) :=
  [(.falugFadd, fun f x y _ => fpAdd f x y), (.falugFsub, fun f x y _ => fpSub f x y), (.falugFmul, fun f x y _ => fpMul f x y),
   (.falugFma, fpFma), (.falugFmin, fun f x y _ => fpMinMax f false x y), (.falugFmax, fun f x y _ => fpMinMax f true x y)]

/-- FALUG and CVT complete with their results and flags (11 R140 to R142). -/
def FloatUniformAndConvert : Prop :=
  ∀ (s : State) (w : Issuer) (k : KReg) (d a : VReg) (g : GReg) (c : Fin 128) (md : RMode), Issues s w → d.val < w.g.allot →
    a.val < w.g.allot →
    (∀ p ∈ floatUniformForms, FloatResult s w (p.1 k d a g) false d (activeOf s w k) fun l =>
        p.2 .f32 (laneV s w a l).toNat ((laneG s w g).toNat % 2 ^ 32) (laneV s w d l).toNat)
      ∧ ∀ dst src sat, cvtOf c.val = some (dst, src, sat) → wellFormed (.cvt k d a c md) = true →
        FloatResult s w (.cvt k d a c md) dst.wide d (activeOf s w k) fun l =>
          let r := convert dst src sat (rndOf md) (cvtOperand s w src a l)
          (if dst.wide then r.1 else fillResult dst r.1, r.2)

/-- FADD, FSUB, FMUL, FMA, FMIN, FMAX, FALUG and CVT complete with their results and flags (11 R138 to R142). -/
def Obligations.FloatingResults : Prop := FloatResults ∧ FloatUniformAndConvert

/-! Lookahead results and the scratchpad (09 R116, 11 R143 to R151). -/

/-- The XFN functions (11 R143). -/
def transcendForms : List ((KReg → VReg → VReg → La → Instr) × (FVal → Nat × FFlags)) :=
  [(.xfnRcp, xfnRcp), (.xfnRsq, xfnRsq), (.xfnSqrt, xfnSqrt), (.xfnExp2, xfnExp2), (.xfnLog2, xfnLog2), (.xfnSin, xfnSin),
   (.xfnCos, xfnCos), (.xfnTanh, xfnTanh)]

/-- XFN completes: its result waits under the lookahead count, its flags are raised, and no register changes yet (07 R88, 09 R116, 11
R143). -/
def Obligations.TranscendentalResults : Prop :=
  ∀ (s : State) (w : Issuer) (k : KReg) (d a : VReg) (n : La), Issues s w → d.val < w.g.allot → a.val < w.g.allot →
    ∀ p ∈ transcendForms,
      let m := activeOf s w k
      let r := fun l => p.2 (unpack .f32 (laneV s w a l).toNat)
      ∃ t, exec (p.1 k d a n) s = .next t ∧ GoesOn t w (nextPc w)
        ∧ Near s t w noKeys (GroupAwaits (awaited s w n m ((lanesOf m).map fun l => (d.val, l, BitVec.ofNat 32 (r l).1)) none []) noKeys true)
        ∧ (m ≠ 0 → n.val < 15 → NewestWaits t w n)
        ∧ ∃ h, t.group? w.c w.slot = some h ∧ h.fpflags = w.g.fpflags ||| orFlags (fun l => (r l).2) (lanesOf m)

/-- The scratchpad loads: bytes, registers, and what a lane's value is extended to (11 R148). -/
def scratchLoadForms : List ((KReg → VReg → VReg → AReg → La → Instr) × Nat × Nat × (Nat → Nat)) :=
  [(.ldsZ8, 1, 1, id), (.ldsZ16, 2, 1, id), (.lds32, 4, 1, id), (.lds64, 8, 2, id),
   (.ldsxS8, 1, 1, fun x => if x < 128 then x else x + 0xFFFFFF00), (.ldsxS16, 2, 1, fun x => if x < 32768 then x else x + 0xFFFF0000),
   (.ldsx128, 16, 4, id)]

/-- The lanes whose address lies in the issuer's own core: those of other cores wait for their intakes (11 R147, 13 R206). -/
def nearLanes (s : State) (w : Issuer) (m : Mask) (addr : Nat → Nat) : List Nat :=
  (lanesOf m).filter fun l => (placeOf s w (addr l)).core == w.c

/-- What a scratchpad load gives the registers of its lanes that meet no error: register d + j of a lane bytes 4j to 4j + 3 of its value
(11 R148, R151). -/
def scratchWrites (s : State) (w : Issuer) (m : Mask) (g a d size regs : Nat) (ext : Nat → Nat) : List (Nat × Nat × Word) :=
  ((nearLanes s w m (scratchAddr s w g a)).filter fun l => (poisonAddr s w size (scratchAddr s w g a l)).isNone).flatMap fun l =>
    (List.range regs).map fun j =>
      (d + j, l, BitVec.ofNat 32 (ext (numOf (readPlace s (placeOf s w (scratchAddr s w g a l)) size)) / 2 ^ (32 * j)))

/-- LDS and LDSX complete when no active lane's address is at fault and no acquire of the group is outstanding: the values of the lanes in
the own core wait under the lookahead count, with the accesses to other cores, and nothing else changes; behind an acquire the split is
held (05 R63, 09 R116, 11 R147, R148, R151, 13 R206, R209). That it is held there is the model's choice (log 75), and so is when other cores'
accesses are performed (log 13). -/
def Obligations.ScratchLoads : Prop :=
  ∀ (s : State) (w : Issuer) (k : KReg) (d a : VReg) (g : AReg) (n : La), Issues s w → d.val < w.g.allot → a.val < w.g.allot →
    ∀ p ∈ scratchLoadForms, wellFormed (p.1 k d a g n) = true →
      let m := activeOf s w k
      let lane := fun (l : Nat) => (l, scratchAddr s w g a l)
      let as := (lanesOf m).map lane
      let ext : Nat := if p.2.2.2 255 = 255 then (if p.2.2.2 65535 = 65535 then 0 else 16) else 8
      scratchFault s w p.2.1 as = none →
        (m = 0 ∨ acquirePending w.g = false →
          ∃ t, exec (p.1 k d a g n) s = .next t ∧ GoesOn t w (nextPc w)
            ∧ Near s t w noKeys (GroupAwaits (awaited s w n m (scratchWrites s w m g a d p.2.1 p.2.2.1 p.2.2.2)
                (poisonOf s w p.2.1 ((nearLanes s w m (scratchAddr s w g a)).map lane))
                (remoteParts s w p.2.1 (.load d p.2.2.1 ext) as fun _ => (0, 0))) noKeys false)
            ∧ (m ≠ 0 → n.val < 15 → NewestWaits t w n))
        ∧ (m ≠ 0 → acquirePending w.g = true → Holds s w (p.1 k d a g n) (.fence w.g.nextSeq false false))

/-- The scratchpad stores with their bytes (11 R149). -/
def scratchStoreForms : List ((KReg → VReg → VReg → AReg → Instr) × Nat) := [(.sts8, 1), (.sts16, 2), (.sts32, 4), (.sts64, 8)]

/-- The value a lane stores: register vd, or the pair at vd for 8 bytes (11 R149, R156). -/
def valueStored (s : State) (w : Issuer) (size d l : Nat) : Nat := if size = 8 then lanePair s w d l else (laneV s w d l).toNat

/-- The bytes a lane stores (11 R149, R156). -/
def bytesStored (s : State) (w : Issuer) (size d l : Nat) : List Byte := bytesOf size (valueStored s w size d l)

/-- The bytes a store of lanes leaves, lane after lane (05 R66). -/
def storedBytes (s : State) (w : Issuer) (size d : Nat) (addr : Nat → Nat) : List Nat → (Nat → Nat → Option Byte) → Nat → Nat → Option Byte
  | [], f => f
  | l :: ls, f => storedBytes s w size d addr ls (overBytes (placeOf s w (addr l)) (bytesStored s w size d l) f)

/-- STS completes when no active lane's address is at fault and its group's earlier accesses let it: the bytes of each active lane with
an address in the own core stand there, where lanes overlap those of the highest lane, and every other byte is as before; the accesses to
other cores are on their way; behind an acquire or as a release that must wait it is held (05 R63, R66, 11 R147, R149, 13 R206, R208,
R209). That it is held there is the model's choice (log 75), and so is when other cores' accesses are performed (log 13). -/
def Obligations.ScratchStores : Prop :=
  ∀ (s : State) (w : Issuer) (k : KReg) (d a : VReg) (g : AReg), Issues s w → d.val < w.g.allot → a.val < w.g.allot →
    ∀ p ∈ scratchStoreForms, wellFormed (p.1 k d a g) = true →
      let m := activeOf s w k
      let as := (lanesOf m).map fun l => (l, scratchAddr s w g a l)
      scratchFault s w p.2 as = none →
        (m = 0 ∨ Unfenced s w →
          ∃ t, exec (p.1 k d a g) s = .next t ∧ GoesOn t w (nextPc w)
            ∧ Scratched s t w
                (GroupAwaits (leftFar s w (remoteParts s w p.2 .store as fun l => (BitVec.ofNat 64 (valueStored s w p.2 d l), 0))) noKeys false)
                (storedBytes s w p.2 d (scratchAddr s w g a) (nearLanes s w m (scratchAddr s w g a)) noBytes))
        ∧ (m ≠ 0 → ¬ Unfenced s w →
            Holds s w (p.1 k d a g) (.fence w.g.nextSeq false false))

/-- The scratchpad atomics with their operation and the word they leave of the old word, the operand and the new value (11 R150). -/
def scratchAtomicForms : List ((KReg → VReg → VReg → AReg → La → Instr) × AtomOp × (Word → Word → Word → Word)) :=
  [(.atomsAdd, .add, fun o x _ => o + x), (.atomsExch, .exch, fun _ x _ => x), (.atomsCas, .cas, fun o x n => if o = x then n else o),
   (.atomsMaxS, .maxS, fun o x _ => if o.sle x then x else o), (.atomsxAnd, .and, fun o x _ => o &&& x),
   (.atomsxOr, .or, fun o x _ => o ||| x), (.atomsxXor, .xor, fun o x _ => o ^^^ x), (.atomsxMinS, .minS, fun o x _ => if o.sle x then o else x)]

/-- The scratchpad after atomics of lanes in ascending order and each lane's old word; a word with an error is left (11 R150, R151). -/
def atomicBytes (s : State) (w : Issuer) (d : Nat) (addr : Nat → Nat) (op : Word → Word → Word → Word) :
    List Nat → (Nat → Nat → Option Byte) → (Nat → Nat → Option Byte) × List (Nat × Nat × Word)
  | [], f => (f, [])
  | l :: ls, f =>
    let p := placeOf s w (addr l)
    if (s.core p.core).poisonedAt p.off 4 then atomicBytes s w d addr op ls f
    else
      let old := BitVec.ofNat 32 (numOf ((List.range 4).map fun j => (f p.core (p.off + j)).getD ((s.core p.core).scratch.byte (p.off + j))))
      let new := op old (laneV s w d l) (laneV s w (d + 1) l)
      let r := atomicBytes s w d addr op ls (overBytes p (bytesOf 4 new.toNat) f)
      (r.1, (d, l, old) :: r.2)

/-- ATOMS and ATOMSX complete when no active lane's address is at fault and its group's earlier accesses let them: the words in the own core are
changed lane by lane in ascending order, and the old words wait under the lookahead count, with the accesses to other cores (05 R63, R66, 09
R116, 11 R147, R150, R151, 13 R206, R208, R209). Behind an acquire or as a release that must wait the split is held: the model's choice (log
75), and so is when other cores' accesses are performed (log 13). -/
def Obligations.ScratchAtomics : Prop :=
  ∀ (s : State) (w : Issuer) (k : KReg) (d a : VReg) (g : AReg) (n : La), Issues s w → d.val < w.g.allot → a.val < w.g.allot →
    ∀ p ∈ scratchAtomicForms, wellFormed (p.1 k d a g n) = true →
      let m := activeOf s w k
      let lane := fun (l : Nat) => (l, scratchAddr s w g a l)
      let as := (lanesOf m).map lane
      let near := nearLanes s w m (scratchAddr s w g a)
      let r := atomicBytes s w d (scratchAddr s w g a) p.2.2 near noBytes
      scratchFault s w 4 as = none →
        (m = 0 ∨ Unfenced s w →
          ∃ t, exec (p.1 k d a g n) s = .next t ∧ GoesOn t w (nextPc w)
            ∧ Scratched s t w (GroupAwaits (awaited s w n m r.2 (poisonOf s w 4 (near.map lane)) (remoteParts s w 4 (.atom p.2.1 d) as
                fun l => ((laneV s w d l).setWidth 64, (laneV s w (d + 1) l).setWidth 64))) noKeys false) r.1
            ∧ (m ≠ 0 → n.val < 15 → NewestWaits t w n))
        ∧ (m ≠ 0 → ¬ Unfenced s w →
            Holds s w (p.1 k d a g n) (.fence w.g.nextSeq false false))

/-! Uniform arithmetic, masks and system registers (12 R162, R163, R181 to R186). -/

/-- UALU with two operands (12 R162). -/
def uniformForms : List ((GReg → GReg → GReg → Instr) × (DWord → DWord → DWord)) :=
  [(.uadd, fun x y => x + y), (.usub, fun x y => x - y), (.umul, fun x y => x * y),
   (.umulhZ, fun x y => BitVec.ofNat 64 (x.toNat * y.toNat / 2 ^ 64)), (.umulhS, fun x y => BitVec.ofInt 64 (x.toInt * y.toInt / 2 ^ 64)),
   (.uminS, fun x y => if x.sle y then x else y), (.umaxS, fun x y => if x.sle y then y else x),
   (.uminZ, fun x y => if x.ule y then x else y), (.umaxZ, fun x y => if x.ule y then y else x),
   (.uand, fun x y => x &&& y), (.uor, fun x y => x ||| y), (.uxor, fun x y => x ^^^ y), (.uandn, fun x y => x &&& ~~~y),
   (.ushl, fun x y => x <<< (y.toNat % 64)), (.ushr, fun x y => x >>> (y.toNat % 64)), (.usar, fun x y => x.sshiftRight (y.toNat % 64)),
   (.ucmpEq, fun x y => if x = y then 1 else 0), (.ucmpLtS, fun x y => if x.toInt < y.toInt then 1 else 0),
   (.ucmpLtZ, fun x y => if x.toNat < y.toNat then 1 else 0), (.ucmpLeS, fun x y => if x.toInt ≤ y.toInt then 1 else 0),
   (.ucmpLeZ, fun x y => if x.toNat ≤ y.toNat then 1 else 0), (.uadd32, fun x y => ((x + y).setWidth 32).signExtend 64),
   (.usub32, fun x y => ((x - y).setWidth 32).signExtend 64)]

/-- UALU completes with its result in G(gd), whatever the mask of the split, and changes nothing else (12 R159, R162). -/
def UniformResults : Prop :=
  ∀ (s : State) (w : Issuer) (d a b : GReg), Issues s w →
    ∀ p ∈ uniformForms, UniResult s w (p.1 d a b) d (p.2 (uniG s w a) (uniG s w b))

/-- The forms with one operand or an immediate complete with their result (12 R162, R163). -/
def UniformImmediates : Prop :=
  ∀ (s : State) (w : Issuer) (d a : GReg) (i : BitVec 14) (j : BitVec 20) (n : Fin 64), Issues s w →
    let x := uniG s w a
    UniResult s w (.upopc d a) d (BitVec.ofNat 64 ((List.range 64).filter fun b => x.getLsbD b).length)
      ∧ UniResult s w (.uclz d a) d (if x = 0 then 64 else BitVec.ofNat 64 (63 - Nat.log2 x.toNat))
      ∧ UniResult s w (.umov d a) d x
      ∧ UniResult s w (.uaddi d a i) d (x + i.signExtend 64)
      ∧ UniResult s w (.uandi d a i) d (x &&& i.signExtend 64)
      ∧ UniResult s w (.uori d a i) d (x ||| i.signExtend 64)
      ∧ UniResult s w (.uxori d a i) d (x ^^^ i.signExtend 64)
      ∧ UniResult s w (.ushli d a n) d (BitVec.ofNat 64 (x.toNat * 2 ^ n.val))
      ∧ UniResult s w (.uhi d j) d (((j.setWidth 32) <<< 12).signExtend 64)

/-- UALU and the uniform immediates complete with their result in G(gd) and change nothing else (12 R159, R162, R163). -/
def Obligations.UniformArithmetic : Prop := UniformResults ∧ UniformImmediates

/-- LANE-TO-UNIFORM and UMASK complete with their results (12 R181, R182). -/
def Obligations.LaneToUniformAndMasks : Prop :=
  ∀ (s : State) (w : Issuer) (d b : GReg) (v : VReg) (e i j : KReg), Issues s w → v.val < w.g.allot →
    let ls := lanesOf w.sp.mask
    let x := uniV s w v
    let one := fun (z : Bool) => if z then (1 : DWord) else 0
    let ones := BitVec.allOnes 32
    UniResult s w (.readlane d v b) d ((x ((uniG s w b).toNat % 32)).setWidth 64)
      ∧ UniResult s w (.readfirst d v) d ((x (ls.headD 0)).setWidth 64)
      ∧ UniResult s w (.voteAny d v) d (one (ls.any fun l => x l != 0))
      ∧ UniResult s w (.voteAll d v) d (one (ls.all fun l => x l != 0))
      ∧ UniResult s w (.ballot d v) d (BitVec.ofNat 64 (ls.foldl (fun n l => if x l != 0 then n + 2 ^ l else n) 0))
      ∧ MaskResult s w (.umaskSet e b) e ones (fun l => (uniG s w b).getLsbD l) noFlags
      ∧ UniResult s w (.umaskGet d i) d ((maskK s w true i).setWidth 64)
      ∧ MaskResult s w (.umaskAnd e i j) e ones (fun l => (maskK s w true i).getLsbD l && (maskK s w true j).getLsbD l) noFlags
      ∧ MaskResult s w (.umaskOr e i j) e ones (fun l => (maskK s w true i).getLsbD l || (maskK s w true j).getLsbD l) noFlags
      ∧ MaskResult s w (.umaskXor e i j) e ones (fun l => (maskK s w true i).getLsbD l != (maskK s w true j).getLsbD l) noFlags
      ∧ MaskResult s w (.umaskAndn e i j) e ones (fun l => (maskK s w true i).getLsbD l && !(maskK s w true j).getLsbD l) noFlags
      ∧ MaskResult s w (.umaskNot e i) e ones (fun l => !(maskK s w true i).getLsbD l) noFlags

/-- What UMOVS reads of each system register but the vacate registers (03 R47, R50, 09 R113, 12 R169, R185). -/
def systemValues (s : State) (w : Issuer) (x : Ctx) : List (Fin 64 × DWord) :=
  [(0, BitVec.ofNat 64 (w.g.blockIndex + 2 ^ 32 * w.g.groupIndex + 2 ^ 40 * w.g.role)), (1, BitVec.ofNat 64 (Config.coreOf w.c)),
   (2, BitVec.ofNat 64 (Config.clusterOf w.c)), (3, BitVec.ofNat 64 (Config.dieOf w.c))]
  ++ (List.range 8).map (fun i => (Fin.ofNat 64 (4 + i),
      match w.g.levels[i]? with
      | none => 0
      | some (a, b, c) => BitVec.ofNat 64 (a + 2 ^ 16 * b + 2 ^ 32 * c)))
  ++ [(12, BitVec.ofNat 64 (w.g.first + 2 ^ 8 * w.g.second)), (13, BitVec.ofNat 64 x.cycles),
   (22, BitVec.ofNat 64 (if x.vres = 0 then 64 else x.vres)), (23, w.g.epc), (24, w.g.ecause), (25, w.g.ebad), (26, w.g.emact),
   (27, w.g.emflt), (28, w.g.tvec), (29, w.g.spill), (30, x.tvstack), (31, seeFlags s w), (32, w.g.dphase.setWidth 64),
   (33, x.keyid.setWidth 64), (34, x.trcctl), (35, BitVec.ofNat 64 (w.g.capCount.toNat + 2 ^ 32 * x.capped.toNat))]

/-- UMOVS completes with the register's value; a vacate register as it stood in one of the cycles the model keeps, which one the manual
leaves open (12 R185, 18 R250). VCOST and VTEST complete with the charge, and with the issue rule's answer (12 R183, R184). -/
def Obligations.SystemReadsAndQueries : Prop :=
  ∀ (s : State) (w : Issuer) (x : Ctx) (d a b : GReg), Issues s w → s.ctx? w.g.ctx = some x →
    (∀ p ∈ systemValues s w x, UniResult s w (.umovs d p.1) d p.2)
      ∧ (∀ r : Fin 64, 14 ≤ r.val → r.val ≤ 21 → ∃ v ∈ vacateRegs s x :: x.vpast,
          UniResult s w (.umovs d r) d (BitVec.ofNat 64 (v.getD (r.val - 14) 0)))
      ∧ (let c := (uniG s w a).toNat % 256
         let n := (uniG s w b).toNat
         UniResult s w (.vcost d a b) d
            (if 13 < c then BitVec.allOnes 64 else BitVec.ofNat 64 (chargeOf s c n + 2 ^ 32 * channelOf s c))
          ∧ (13 < c → UniResult s w (.vtest d a b) d (BitVec.allOnes 64))
          ∧ (c ≤ 13 → admitMine s w c (chargeOf s c n) = .go → UniResult s w (.vtest d a b) d 0)
          ∧ (∀ h, c ≤ 13 → admitMine s w c (chargeOf s c n) = .hold h → UniResult s w (.vtest d a b) d 1)
          ∧ (c ≤ 13 → admitMine s w c (chargeOf s c n) = .trap → UniResult s w (.vtest d a b) d 2))

/-- The group's registers that UMOVT writes, with the bits it keeps (12 R169, R186). -/
def groupWrites (v : DWord) : List (Fin 64 × (Group → Group)) :=
  [(23, fun g => { g with epc := v &&& 0x01FFFFFFFFFFFFFC }), (24, fun g => { g with ecause := v &&& 0xFFFF }),
   (25, fun g => { g with ebad := v }), (26, fun g => { g with emact := v &&& 0xFFFFFFFF }),
   (27, fun g => { g with emflt := v &&& 0xFFFFFFFF }), (28, fun g => { g with tvec := v &&& 0x01FFFFFFFFFFFFFC }),
   (31, fun g => { g with fpflags := v.setWidth 4 }), (32, fun g => { g with dphase := v.setWidth 6 })]

/-- The context's registers that UMOVT writes (12 R186, 22 R284). -/
def contextWrites (v : DWord) : List (Fin 64 × (Ctx → Ctx)) :=
  [(30, fun x => { x with tvstack := v &&& 0x01FFFFFFFFFF1F1F }), (33, fun x => { x with keyid := v.setWidth 8 })]

/-- A state with the trace units of every core and the trace streams of its groups as they stand in another. -/
def traceOf (s t : State) : State :=
  let sameGroup := fun (g h : Group) => { g with streams := h.streams }
  let sameCore := fun (y z : Core) => { y with tracers := z.tracers, groups := List.zipWith sameGroup y.groups z.groups }
  { t with cores := t.cores.map fun y => sameCore y (s.core y.index) }

/-- UMOVT completes: the register holds the bits of G(ga) that it has, and nothing else changes (12 R186); %spill while no entry is
spilled, and if one is it traps, with 0 in %ebad by the model's choice (log 16); %keyid for a slot that the partition holds; %trcctl where the
trace was off: if it is on now every stream owes its first SYNC, and a new BASE or LOG restarts the counts (29 R373, R377). -/
def Obligations.SystemWrites : Prop :=
  ∀ (s : State) (w : Issuer) (x : Ctx) (a : GReg), Issues s w → s.ctx? w.g.ctx = some x →
    let v := uniG s w a
    (∀ p ∈ groupWrites v, ∃ t, exec (.umovt a p.1) s = .next t ∧ GoesOn t w (nextPc w) ∧ Near s t w noKeys (GroupBy p.2))
      ∧ (w.g.spilled = 0 → ∃ t, exec (.umovt a 29) s = .next t ∧ GoesOn t w (nextPc w)
          ∧ Near s t w noKeys (GroupBy fun g => { g with spill := v &&& 0x01FFFFFFFFFFFFFF }))
      ∧ (w.g.spilled ≠ 0 → exec (.umovt a 29) s = .next (trapAll s w .stackOverflow 0))
      ∧ (s.holdsKey x.func (v.toNat % 256) = false → exec (.umovt a 33) s = .next (trapAll s w .privilege v))
      ∧ (s.feature 8 = false → ∃ t, exec (.umovt a 34) s = .next t ∧ GoesOn t w (nextPc w) ∧ Local s t w noKeys noKeys false)
      ∧ (s.feature 8 = true → s.traceNow = [] → tracing x = false →
          let new := { x with trcctl := v &&& 0x01FFFFFFFFFF07FF }
          ∃ t, exec (.umovt a 34) s = .next t ∧ GoesOn t w (nextPc w) ∧ t.ctx? x.id = some new ∧ (∀ i, i ≠ x.id → t.ctx? i = s.ctx? i)
            ∧ Local s (traceOf s { t with ctxs := s.ctxs }) w noKeys noKeys false
            ∧ (tracing new = false → ∀ c b, (t.group? c b).map Group.streams = (s.group? c b).map Group.streams)
            ∧ (tracing new = true → ∀ c b h, t.group? c b = some h → h.ctx = x.id → ∀ r ∈ h.streams, r.owed = .first)
            ∧ (trcLog new.trcctl.toNat ≠ trcLog x.trcctl.toNat ∨ trcArea new.trcctl.toNat ≠ trcArea x.trcctl.toNat →
                ∀ c, ∀ r ∈ (t.core c).tracers, r.ctx = x.id → r.offset = 0 ∧ r.samples = 0 ∧ r.lost = 0))
      ∧ ∀ p ∈ contextWrites v, (p.1 = 33 → s.holdsKey x.func (v.toNat % 256) = true) →
          ∃ t, exec (.umovt a p.1) s = .next t ∧ GoesOn t w (nextPc w) ∧ t.ctx? x.id = some (p.2 x)
            ∧ (∀ i, i ≠ x.id → t.ctx? i = s.ctx? i) ∧ Local s { t with ctxs := s.ctxs } w noKeys noKeys false

/-! Branches, joins and control (03 R33 to R41, 12 R161, R164 to R168). -/

/-- An instruction that only moves its split. -/
def Moves (s : State) (w : Issuer) (i : Instr) (pc : PC) : Prop :=
  ∃ t, exec i s = .next t ∧ GoesOn t w pc ∧ Local s t w noKeys noKeys false

/-- A call: its split moves, and G(63) is the address after it (12 R166). -/
def Calls (s : State) (w : Issuer) (i : Instr) (pc : PC) : Prop :=
  ∃ t, exec i s = .next t ∧ GoesOn t w pc ∧ HoldsG t w 63 ((w.sp.pc + 4).setWidth 64) ∧ Local s t w (GKeys w.g 63) noKeys false

/-- BR, CALL, JMPI, CALLI and RET complete where their target is an address (09 R109, 12 R161, R164, R166). -/
def Obligations.BranchesAndCalls : Prop :=
  ∀ (s : State) (w : Issuer) (c : BCond) (a : GReg) (o : BitVec 16) (n : BitVec 26), Issues s w →
    let near := (w.sp.pc.toNat : Int) + 4 * o.toInt
    let far := (w.sp.pc.toNat : Int) + 4 * n.toInt
    let x := uniG s w a
    let y := uniG s w 63
    let holds : Bool := match c with
      | .always => true
      | .eq => x == 0
      | .ne => x != 0
      | .lt => decide (x.toInt < 0)
      | .le => decide (x.toInt ≤ 0)
      | .gt => decide (0 < x.toInt)
      | .ge => decide (0 ≤ x.toInt)
    (wellFormed (.br c a o) = true → 0 ≤ near → near ≤ 2 ^ 57 - 4 →
        Moves s w (.br c a o) (if holds then BitVec.ofInt 57 near else nextPc w))
      ∧ (0 ≤ far → far ≤ 2 ^ 57 - 4 → Calls s w (.call n) (BitVec.ofInt 57 far))
      ∧ (x.toNat % 4 = 0 → x.toNat < 2 ^ 57 → Moves s w (.jmpi a) (x.setWidth 57) ∧ Calls s w (.calli a) (x.setWidth 57))
      ∧ (y.toNat % 4 = 0 → y.toNat < 2 ^ 57 → Moves s w .ret (y.setWidth 57))

/-- Where a target is no address the branch, call, jump or return takes its trap, MISALIGNED or ACCESS_VIOLATION, with the target in %ebad
(12 R161). That a branch with such a target traps also where it is not taken is the model's choice (log 67). -/
def Obligations.BranchTargetTraps : Prop :=
  ∀ (s : State) (w : Issuer) (c : BCond) (k : KReg) (v : Fin 2) (a : GReg) (o : BitVec 16) (m : BitVec 22) (n : BitVec 26),
    Issues s w →
    let out := fun (t : Int) => t < 0 ∨ 2 ^ 57 - 4 < t
    let near := (w.sp.pc.toNat : Int) + 4 * o.toInt
    let mid := (w.sp.pc.toNat : Int) + 4 * m.toInt
    let far := (w.sp.pc.toNat : Int) + 4 * n.toInt
    let register := fun (i : Instr) (x : DWord) =>
      (x.toNat % 4 ≠ 0 → exec i s = .next (trapAll s w .misaligned x))
        ∧ (x.toNat % 4 = 0 → 2 ^ 57 ≤ x.toNat → exec i s = .next (trapAll s w .accessViolation x))
    (wellFormed (.br c a o) = true → out near → exec (.br c a o) s = .next (trapAll s w .accessViolation (BitVec.ofInt 64 near)))
      ∧ (out mid → exec (.brd k v m) s = .next (trapAll s w .accessViolation (BitVec.ofInt 64 mid)))
      ∧ (out far → exec (.call n) s = .next (trapAll s w .accessViolation (BitVec.ofInt 64 far)))
      ∧ register (.jmpi a) (uniG s w a) ∧ register (.calli a) (uniG s w a) ∧ register .ret (uniG s w 63)

/-- BRD moves the whole split if its lanes agree, and otherwise divides it: the lanes not taken keep the split's index, the taken lanes
are a new split with the lowest free index and the parent's pass-over count, or a DEFER entry when four are in use (03 R34, 12 R165). That
the count is the parent's from before this issue returns it to 0 is the model's choice (log 67). -/
def Obligations.DivergentBranches : Prop :=
  ∀ (s : State) (w : Issuer) (k : KReg) (v : Fin 2) (o : BitVec 22), Issues s w →
    let dest := (w.sp.pc.toNat : Int) + 4 * o.toInt
    let pc := BitVec.ofInt 57 dest
    let truth := maskK s w true k
    let taken := w.sp.mask &&& (if v.val = 0 then truth else ~~~truth)
    let kept := w.sp.mask &&& ~~~taken
    0 ≤ dest → dest ≤ 2 ^ 57 - 4 →
      (taken = 0 → Moves s w (.brd k v o) (nextPc w))
        ∧ (taken ≠ 0 → taken = w.sp.mask → Moves s w (.brd k v o) pc)
        ∧ (taken ≠ 0 → taken ≠ w.sp.mask →
            (∀ i, w.g.freeIdx = some i → ∃ t g, exec (.brd k v o) s = .next t ∧ Local s t w noKeys noKeys false
                ∧ t.group? w.c w.slot = some g
                ∧ g.split? w.idx = some { w.sp with pc := nextPc w, mask := kept, hold := .none, heldFor := 0 }
                ∧ g.split? i = some ⟨i, pc, taken, w.sp.passOver, .none, 0, true⟩
                ∧ ∀ j, j ≠ w.idx → j ≠ i → g.split? j = w.g.split? j)
              ∧ (w.g.freeIdx = none → (chipEntries w.g).length < 32 → ∃ t, exec (.brd k v o) s = .next t
                ∧ Stands t w { w.sp with pc := nextPc w, mask := kept, hold := .none, heldFor := 0 }
                ∧ Near s t w noKeys (GroupBy fun g => { g with stack := ⟨.defer, pc, taken, 0, false⟩ :: g.stack })))

/-- NOP, PJOIN, TMARK, YIELD and EVENT complete: NOP counts its positions, PJOIN pushes a JOIN entry of the split's mask, YIELD holds its
split, and EVENT posts a PROGRAM event (03 R35, 12 R167, R168, R187, R188). That a nop may count more positions than a lookahead has left
(log 67), and that the label of PJOIN is formed in 57 bits without a test (log 15), are the model's choices. -/
def Obligations.ControlCompletes : Prop :=
  ∀ (s : State) (w : Issuer) (n : Fin 64) (o : BitVec 26) (a b : GReg), Issues s w →
    (∃ t, exec (.nop n) s = .next t ∧ GoesOn t w (nextPc w) ∧ Local s t w noKeys noKeys false
        ∧ ∀ (i : Nat) (r : LaResult), w.g.la[i]? = some r → ∃ (h : Group) (q : LaResult), t.group? w.c w.slot = some h ∧ h.la[i]? = some q
            ∧ ∀ l, l < 32 → q.left.getD l 0 =
                if w.sp.mask.getLsbD l && r.parked == 0 then r.left.getD l 0 - (n.val + 1) else r.left.getD l 0)
      ∧ Moves s w .tmark (nextPc w)
      ∧ ((chipEntries w.g).length < 32 → ∃ t, exec (.pjoin o) s = .next t ∧ GoesOn t w (nextPc w)
          ∧ Near s t w noKeys (GroupBy fun g =>
              { g with stack := ⟨.join, BitVec.ofInt 57 ((w.sp.pc.toNat : Int) + 4 * o.toInt), w.sp.mask, 0, false⟩ :: g.stack }))
      ∧ (32 ≤ (chipEntries w.g).length → bits w.g.spill.toNat 4 53 = 0 → exec (.pjoin o) s = .next (trapAll s w .stackOverflow 0))
      ∧ (∃ t, exec .yield s = .next t ∧ Stands t w { w.sp with pc := nextPc w, hold := .yield, heldFor := 0 }
          ∧ Local s t w noKeys noKeys false)
      ∧ (∃ t, exec (.event a b) s = .next t ∧ GoesOn t w (nextPc w)
          ∧ Local (postEvent s w.g.ctx .program 0xFFFF ((uniG s w a).toNat % 65536) (uniG s w b).toNat (groupSource w.c w.slot)) t w
              noKeys noKeys false)

/-- A group has none of some lanes: in no split, and in no mask or arrived field of its stack (03 R39). -/
def Without (g : Group) (m : Mask) : Prop :=
  g.live &&& m = 0 ∧ (∀ sp ∈ g.splits, sp.mask &&& m = 0) ∧ ∀ e ∈ g.stack, e.mask &&& m = 0 ∧ (e.kind = .join → e.arrived &&& m = 0)

/-- EXIT completes: the split's lanes leave every mask of the group and its entry is freed; the other live lanes, the registers and the
rest of the package are as before, memory too, while no entry is spilled and the group's stores translate. An exit barrier at phase 0 traps
it with CLUSTER_EXIT (03 R30, R39, R56, 05 R78, 12 R168). That it does not trap a service group's is the model's choice (log 67). -/
def Obligations.ExitEndsLanes : Prop :=
  ∀ (s : State) (w : Issuer) (x : Ctx), Issues s w → s.ctx? w.g.ctx = some x →
    (∀ d ∈ w.g.due, d.store = false) → (∀ e ∈ w.g.queue, e.fault = .clear ∧ storeTranslates s x e = true) →
      (∀ a, inService w.g = false → clusterExit s w = some a → exec .exit s = .next (trapAll s w .clusterExit (BitVec.ofNat 64 a)))
        ∧ ((inService w.g = true ∨ clusterExit s w = none) → w.g.spilled = 0 → ∃ t h, exec .exit s = .next t
            ∧ t.group? w.c w.slot = some h ∧ h.live = w.g.live &&& ~~~w.sp.mask ∧ h.split? w.idx = none ∧ Without h w.sp.mask
            ∧ (h.live = 0 → h.splits = [] ∧ h.stack = [])
            ∧ Near s t w noKeys fun g h => h = { g with live := h.live, splits := h.splits, stack := h.stack, pend := h.pend, la := h.la })

/-! Traps (03 R41, 12 R170 to R174). -/

/-- After a trap with a handler: the trap registers, one TRAP entry for every split in use in ascending index, the trapping one at its
resume address, and split 0 at the handler with every lane; results that were outstanding are written, but for the poisoned ones, whose
traps come after RETT (03 R41, 11 R151, 12 R171; log 17), and those that other cores' intakes have yet to perform (11 R147; log 13). -/
def TrapEntered (t : State) (w : Issuer) (cause : Cause) (resume : PC) (bad : DWord) (code : Nat) (flt : Mask) : Prop :=
  ∃ h, t.group? w.c w.slot = some h
    ∧ h.epc = resume.setWidth 64 ∧ h.ebad = bad ∧ h.emact = w.sp.mask.setWidth 64 ∧ h.emflt = flt.setWidth 64
    ∧ h.ecause = BitVec.ofNat 64 (cause.number + 2 ^ 8 * w.idx + 2 ^ 10 * code)
    ∧ h.splits = [⟨0, BitVec.ofNat 57 (bits w.g.tvec.toNat 2 55 * 4), BitVec.allOnes 32, 0, .none, 0, false⟩]
    ∧ h.stack = (w.g.splits.map fun e =>
        (⟨.trap, if e.idx = w.idx then resume else e.pc, e.mask, BitVec.ofNat 32 e.idx, false⟩ : SEntry)).reverse ++ w.g.stack
    ∧ h.pend = w.g.pend.filter (fun e => e.gate.isSome)
    ∧ h.la = (w.g.la.filter fun a => a.poisoned.isSome || !a.parts.isEmpty).map (fun a => { a with writes := [], parked := a.parked + 1 })
    ∧ h.held = (w.g.held.filter fun r => r.poisoned.isSome || r.part.isSome).map (fun r => { r with parked := r.parked + 1 }) ∧ h.suspended = w.g.suspended ∧ h.live = w.g.live ∧ h.gates = w.g.gates ∧ h.queue = w.g.queue
    ∧ h.reads = w.g.reads ∧ h.masks = w.g.masks ∧ h.fpflags = w.g.fpflags ∧ h.tvec = w.g.tvec ∧ h.spill = w.g.spill

/-- An instruction traps at the issuer's split, with lanes in %emflt. With a handler and room on chip for the frame the handler is entered; with
none the group is suspended with its trap registers set (12 R171). Registers change only by results that were outstanding. -/
def TrapsIn (s : State) (w : Issuer) (i : Instr) (cause : Cause) (resume : PC) (bad : DWord) (code : Nat) (flt : Mask) : Prop :=
  ∃ t, exec i s = .next t
    ∧ (bits w.g.tvec.toNat 2 55 ≠ 0 → (chipEntries w.g).length + w.g.splits.length ≤ 32 → TrapEntered t w cause resume bad code flt
        ∧ ∀ a, Memory.read t.mem a = Memory.read s.mem a)
    ∧ (bits w.g.tvec.toNat 2 55 = 0 → ∃ h, t.group? w.c w.slot = some h ∧ h.suspended = true ∧ h.epc = resume.setWidth 64 ∧ h.ebad = bad
        ∧ h.emact = w.sp.mask.setWidth 64 ∧ h.emflt = flt.setWidth 64 ∧ h.ecause = BitVec.ofNat 64 (cause.number + 2 ^ 8 * w.idx + 2 ^ 10 * code) ∧ h.stack = w.g.stack)
    ∧ (∀ c, c ≠ w.c → (t.core c).groups = (s.core c).groups) ∧ (∀ b, b ≠ w.slot → t.group? w.c b = s.group? w.c b)
    ∧ (w.g.la = [] → w.g.held = [] → ∀ k, (t.core w.c).rows.word k = (s.core w.c).rows.word k)

/-- An instruction traps with the split's whole mask in %emflt (11 R128, 12 R160). -/
def Traps (s : State) (w : Issuer) (i : Instr) (cause : Cause) (resume : PC) (bad : DWord) (code : Nat) : Prop :=
  TrapsIn s w i cause resume bad code w.sp.mask

/-- TRAP and BRK trap with SOFTWARE and BREAKPOINT and resume at PC + 4; BRK with a debugger attached goes on, and the context halts at the
end of the cycle; a word that is no instruction traps with ILLEGAL_OP at its own address (09 R100, 12 R168, R171, R172, 29 R370). -/
def TrapEntry : Prop :=
  ∀ (s : State) (w : Issuer) (x : Ctx) (c : Fin 64) (v : Word), Issues s w → s.ctx? w.g.ctx = some x →
    Traps s w (.trap c) .software (w.sp.pc + 4) 0 c
      ∧ (x.attached = false → Traps s w .brk .breakpoint (w.sp.pc + 4) 0 0)
      ∧ (x.attached = true → ∃ t, exec .brk s = .next t ∧ GoesOn t w (nextPc w)
          ∧ t.ctx? x.id = some { x with stopping := x.stopping ++ [(1, w.sp.pc.toNat, some (w.c, w.slot))] }
          ∧ Local s { t with ctxs := s.ctxs } w noKeys noKeys false)
      ∧ Traps s w (.illegalOp v) .illegalOp w.sp.pc (v.setWidth 64) 0

/-- A lane instruction that names a register the group does not have traps with REG_RANGE, with the first such number of vd, va, vb in
%ebad; an instruction with operands that its entry does not allow traps with ILLEGAL_OP (09 R100, R101, 11 R128, 12 R172). -/
def OperandTraps : Prop :=
  ∀ (s : State) (w : Issuer) (k : KReg) (d a b : VReg), Issues s w →
    (∀ p ∈ laneBinaryForms,
        (w.g.allot ≤ d.val → Traps s w (p.1 k d a b) .regRange w.sp.pc (BitVec.ofNat 64 d) 0)
          ∧ (d.val < w.g.allot → w.g.allot ≤ a.val → Traps s w (p.1 k d a b) .regRange w.sp.pc (BitVec.ofNat 64 a) 0)
          ∧ (d.val < w.g.allot → a.val < w.g.allot → w.g.allot ≤ b.val →
              Traps s w (p.1 k d a b) .regRange w.sp.pc (BitVec.ofNat 64 b) 0))
      ∧ ∀ p ∈ pairForms, wellFormed (p.1 k d a b) = false →
          Traps s w (p.1 k d a b) .illegalOp w.sp.pc (wordOf (p.1 k d a b)) 0

/-- The first of some causes that any of the lanes' addresses meets is the trap of an instruction: %ebad is the address of the lowest lane that
meets it, and %emflt what `flt` makes of the lanes that do (05 R63, 12 R172). -/
def FirstCause (s : State) (w : Issuer) (i : Instr) (flt : Mask → Mask) : List (Cause × (Nat → Bool)) → List (Nat × Nat) → Prop
  | [], _ => True
  | (c, p) :: r, as => match as.filter fun q => p q.2 with
    | [] => FirstCause s w i flt r as
    | (l, x) :: z => TrapsIn s w i c w.sp.pc (BitVec.ofNat 64 x) 0 (flt (maskOf (l :: z.map Prod.fst)))

/-- What a scratchpad address is tested for, in order, for an access size: its selector, its zero fields, its core and the end of its target
block; the membership of its core; its alignment (03 R55, 05 R62, R63). -/
def scratchTests (s : State) (w : Issuer) (size : Nat) : List (Cause × (Nat → Bool)) :=
  let member := fun (a : Nat) => memberBlock s w (remoteCore w.c (a / 2 ^ 24 % 16))
  [(.scratchRange, fun a => decide (2 ≤ a / 2 ^ 28) || a / 2 ^ 19 % 32 != 0 || (a / 2 ^ 28 == 0 && a / 2 ^ 24 % 16 != 0)
      || (a / 2 ^ 28 == 1 && decide (Config.coresPerCluster w.c ≤ a / 2 ^ 24 % 16))
      || (a / 2 ^ 28 == 0 && decide ((ownScratch w).2 < a % 2 ^ 19 + size))
      || (a / 2 ^ 28 == 1 && (member a).any fun b => decide (b.rec_.scratch < a % 2 ^ 19 + size))),
   (.remoteNonmember, fun a => a / 2 ^ 28 == 1 && (member a).isNone), (.misaligned, fun a => a % size != 0)]

/-- A scratchpad access with an address at fault in any active lane traps and performs nothing: LDS, LDSX, STS, ATOMS, ATOMSX, the arrive family,
BINIT, ULD.S and UST.S (03 R55, 05 R63, 12 R172, R177 to R179). -/
def ScratchAddressTraps : Prop :=
  ∀ (s : State) (w : Issuer) (k : KReg) (d a : VReg) (g : AReg) (n : La) (e b : GReg), Issues s w → d.val < w.g.allot → a.val < w.g.allot →
    let as := (lanesOf (activeOf s w k)).map fun l => (l, scratchAddr s w g a l)
    (∀ p ∈ scratchLoadForms, wellFormed (p.1 k d a g n) = true → FirstCause s w (p.1 k d a g n) id (scratchTests s w p.2.1) as)
      ∧ (∀ p ∈ scratchStoreForms, wellFormed (p.1 k d a g) = true → FirstCause s w (p.1 k d a g) id (scratchTests s w p.2) as)
      ∧ (∀ p ∈ scratchAtomicForms, wellFormed (p.1 k d a g n) = true → FirstCause s w (p.1 k d a g n) id (scratchTests s w 4) as)
      ∧ ∀ p ∈ [((Instr.arrive e, 16) : Instr × Nat), (.arriveExpect e b, 16), (.arriveDrop e, 16), (.binit e b, 16), (.uldS32 b e, 4),
            (.uldS64 b e, 8), (.ustS32 e b, 4), (.ustS64 e b, 8)],
          FirstCause s w p.1 (fun _ => w.sp.mask) (scratchTests s w p.2) [(0, (uniG s w e).toNat % 2 ^ 32)]

/-- What a global address is tested for, in order, for an access size and its alignment: bits [63:57], of any byte's address by the model's
choice (log 67), and the alignment of an atomic (05 R73, 11 R152). -/
def globalTests (size align : Nat) : List (Cause × (Nat → Bool)) :=
  [(.accessViolation, fun a => decide (2 ^ 57 ≤ a) || decide (2 ^ 57 ≤ a + size - 1)), (.misaligned, fun a => a % align != 0)]

/-- A global access with an address at fault in any active lane traps at issue and queues nothing: LDG, STG, ATOMG, STG.REL, ULD.G and UST.G (05
R73, 11 R152, 12 R180). That the address of any byte counts is the model's choice (log 67). -/
def GlobalAddressTraps : Prop :=
  ∀ (s : State) (w : Issuer) (k : KReg) (d a : VReg) (g : AReg) (o : AtomOp) (z : SzCode) (e b c : GReg), Issues s w → d.val < w.g.allot →
    a.val < w.g.allot →
    let ls := lanesOf (activeOf s w k)
    let n := match z with | .b1 => 1 | .b2 => 2 | .b4 => 4 | .b8 => 8
    let x := [(0, (uniG s w e).toNat)]
    (∀ p ∈ [((Instr.ldg32 k d a g, 4) : Instr × Nat), (.ldg64 k d a g, 8), (.ldg128 k d a g, 16), (.ldg32Acq k d a g, 4), (.stg8 k d a g, 1),
        (.stg16 k d a g, 2), (.stg32 k d a g, 4), (.stg64 k d a g, 8)], wellFormed p.1 = true →
      FirstCause s w p.1 id (globalTests p.2 1) (ls.map fun l => (l, globalAddr s w g a l)))
      ∧ (∀ p ∈ [((Instr.atomg k d a o, 4, 4) : Instr × Nat × Nat), (.stgRel k d a z, n, 1)], wellFormed p.1 = true →
          FirstCause s w p.1 id (globalTests p.2.1 p.2.2) (ls.map fun l => (l, lanePair s w a l)))
      ∧ ∀ p ∈ [((Instr.uldG32 b e, 4, 1) : Instr × Nat × Nat), (.uldG64 b e, 8, 1), (.ustG32 e b, 4, 1), (.ustG64 e b, 8, 1),
            (.uldGAdd b e c, 8, 8), (.uldGExch b e c, 8, 8), (.uldGCas b e c, 8, 8)],
          FirstCause s w p.1 (fun _ => w.sp.mask) (globalTests p.2.1 p.2.2) x

/-- A global read or atomic of a block committed to save or drain, with its addresses good: it traps with VACATE_BOUND and the charge in %ebad
if the fixed cost and the charge alone exceed %vb, and is held in a vacate stall if only what is outstanding keeps it from fitting (11 R152, 12
R170, R180, 18 R257). -/
def VacateBoundTraps : Prop :=
  ∀ (s : State) (w : Issuer) (x : Ctx) (y : Block) (k : KReg) (d a : VReg) (g : AReg) (o : AtomOp) (e b c : GReg), Issues s w →
    d.val < w.g.allot → a.val < w.g.allot → s.ctx? w.g.ctx = some x → blockOf w = some y → flushes s x w.c y.id = false →
    drains s w.c y.id = false →
    let ls := lanesOf (activeOf s w k)
    let at_ := (uniG s w e).toNat
    let bounded := fun (i : Instr) (cls : Nat) =>
      let n := chargeOf s cls 0
      (x.vb < vfix s x + n → Traps s w i .vacateBound w.sp.pc (BitVec.ofNat 64 n) 0)
        ∧ (vfix s x + n ≤ x.vb → x.vb < vfix s x + max (channelSum s x (channelOf s cls) + n) (otherSums s x (channelOf s cls)) →
            Holds s w i .vacateStall)
    (∀ p ∈ [((Instr.ldg32 k d a g, 4) : Instr × Nat), (.ldg64 k d a g, 8), (.ldg128 k d a g, 16), (.ldg32Acq k d a g, 4)],
        wellFormed p.1 = true → ls ≠ [] → (∀ l ∈ ls, globalAddr s w g a l < 2 ^ 57 ∧ globalAddr s w g a l + p.2 - 1 < 2 ^ 57) → bounded p.1 4)
      ∧ (wellFormed (.atomg k d a o) = true → ls ≠ [] → (∀ l ∈ ls, lanePair s w a l + 3 < 2 ^ 57 ∧ lanePair s w a l % 4 = 0) →
          bounded (.atomg k d a o) 5)
      ∧ (∀ p ∈ [((Instr.uldG32 b e, 4) : Instr × Nat), (.uldG64 b e, 8)], at_ < 2 ^ 57 → at_ + p.2 - 1 < 2 ^ 57 → bounded p.1 4)
      ∧ ∀ i ∈ [Instr.uldGAdd b e c, .uldGExch b e c, .uldGCas b e c], at_ + 7 < 2 ^ 57 → at_ % 8 = 0 → bounded i 5

/-- The traps of an instruction at its issue: of its operands, of its scratchpad and global addresses, and of a charge that cannot fit (03 R55, 05
R63, R73, 09 R100, R101, 11 R128, R152, 12 R170, R172, R180, 18 R257). That any byte's global address counts is the model's choice (log 67). -/
def Obligations.IssueTraps : Prop := OperandTraps ∧ ScratchAddressTraps ∧ GlobalAddressTraps ∧ VacateBoundTraps

/-- The frame that RETT takes from the top of the stack (12 R174). -/
def topFrame : List SEntry → Mask → List SEntry × List SEntry
  | [], _ => ([], [])
  | e :: r, u => if e.kind = .trap ∧ e.mask &&& u = 0 then ((e :: (topFrame r (u ||| e.mask)).1), (topFrame r (u ||| e.mask)).2) else ([], e :: r)

/-- RETT ends every split and restores those of the frame on top, the one that trapped at %epc; covered JOIN entries of empty mask above
every TRAP entry go, and a split whose poisoned result waited under the frame is held for its trap again (12 R174, R179). With no TRAP entry
on top it traps with ILLEGAL_OP. -/
def TrapReturn : Prop :=
  ∀ (s : State) (w : Issuer), Issues s w →
    let f := topFrame w.g.stack 0
    let resume := fun (e : SEntry) => if e.arrived.toNat % 4 = bits w.g.ecause.toNat 8 2 then BitVec.ofNat 57 (bits w.g.epc.toNat 2 55 * 4) else e.pc
    (f.1 = [] → Traps s w .rett .illegalOp w.sp.pc (wordOf .rett) 0)
      ∧ (f.1 ≠ [] → w.g.spilled = 0 → (f.1.map fun e => e.arrived.toNat % 4).Nodup → ∃ t h, exec .rett s = .next t
          ∧ t.group? w.c w.slot = some h
          ∧ (∀ e ∈ f.1, h.split? (e.arrived.toNat % 4) = some ⟨e.arrived.toNat % 4, resume e, e.mask, 0,
              if w.g.held.any fun r => r.split == e.arrived.toNat % 4 && decide (r.parked ≤ 1) then .heldResult else .none, 0, true⟩)
          ∧ h.held = w.g.held.map (fun r => { r with parked := r.parked - 1 })
          ∧ (∀ i, (∀ e ∈ f.1, e.arrived.toNat % 4 ≠ i) → h.split? i = none)
          ∧ h.stack.Sublist f.2 ∧ (∀ e ∈ f.2, e.kind = .trap → e ∈ h.stack)
          ∧ ((∀ e ∈ f.2, e.kind = .join → e.arrived = e.mask → e.mask ≠ 0) → h.stack = f.2)
          ∧ Near s t w noKeys fun g h => h = { g with splits := h.splits, stack := h.stack, pend := h.pend, la := h.la, held := h.held })

/-- Instructions and words that trap enter the handler, and RETT returns from it (09 R100, 12 R168, R171, R172, R174, 29 R370). That a
poisoned outstanding result is parked meanwhile, and comes due after the return, is the model's reading of 11 R151 (log 17). -/
def Obligations.TrapAndReturn : Prop := TrapEntry ∧ TrapReturn

/-! Gates, fences, waits and barriers (05 R67 to R70, 12 R175 to R178, 13 R212). -/

/-- The gate closes: the batch is closed, CLOSED rises by 1 and is written to G(gd), and DONE is the batch before the oldest operation
outstanding, or CLOSED with none (05 R70, 12 R175). -/
def GateCloses : Prop :=
  ∀ (s : State) (w : Issuer) (d : GReg), Issues s w → w.g.gates.length = 5 →
    ∀ p ∈ [((Instr.cfence d, Gate.gc) : Instr × Gate), (.mfence d, .gm), (.lfence d, .gl), (.xfence d, .gx), (.tfence d, .gt)],
      let v := w.g.gate p.2
      ∃ t h, exec p.1 s = .next t ∧ GoesOn t w (nextPc w) ∧ HoldsG t w d ((v.closed + 1).setWidth 64)
        ∧ t.group? w.c w.slot = some h
        ∧ h.gate p.2 = ⟨v.closed + 1, (match v.outstanding with | [] => v.closed + 1 | b :: _ => b - 1), v.outstanding⟩
        ∧ (∀ g, g ≠ p.2 → h.gate g = w.g.gate g)
        ∧ Near s t w (GKeys w.g d) fun g h => h = { g with gates := h.gates, splits := h.splits, pend := h.pend, la := h.la }

/-- WAIT on a gate completes when the batch is complete, and its split's la = 15 results have come; a batch not yet closed traps with
GATE_RANGE, and one not yet complete holds the split (12 R176, 09 R116). After a WAIT on gt the core keeps
no clean copy, and after another none that an engine's write has passed: the model's reading of 13 R211, R217 and 22 R301 (log 61). -/
def GateWaits : Prop :=
  ∀ (s : State) (w : Issuer) (a : GReg) (g : Gate), Issues s w →
    let n : Word := (uniG s w a).setWidth 32
    let v := w.g.gate g
    (inService w.g = true → g = .gc ∨ g = .gx ∨ g = .gt → Traps s w (.waitGate a g) .routineBlock w.sp.pc 0 0)
      ∧ ((inService w.g = false ∨ g = .gl ∨ g = .gm) →
        (0 < (n - v.closed).toInt → Traps s w (.waitGate a g) .gateRange w.sp.pc (n.setWidth 64) 0)
          ∧ ((n - v.closed).toInt ≤ 0 → (v.done - n).toInt < 0 → ∃ t sp, exec (.waitGate a g) s = .next t ∧ Stands t w sp
              ∧ sp.pc = w.sp.pc ∧ sp.mask = w.sp.mask ∧ (sp.hold = .waitGate g ∨ sp.hold = .faultSuspension)
              ∧ Local s t w noKeys noKeys false)
          ∧ ((n - v.closed).toInt ≤ 0 → 0 ≤ (v.done - n).toInt → dueAtGate w.g g n = none →
              (∀ r ∈ w.g.la, r.untilWait = true → r.path &&& w.sp.mask = 0) → ∃ t, exec (.waitGate a g) s = .next t ∧ GoesOn t w (nextPc w)
                ∧ ((t.core w.c).view = if g = .gt then [] else (s.core w.c).view.filter fun v => !v.behind)
                ∧ Local s (t.modCore w.c fun x => { x with view := (s.core w.c).view }) w noKeys noKeys false))

/-- WAIT on an object completes when the object is valid and its phase has been reached, as an acquire at its scope and a join (log 61), and
holds its split until then; an invalid object traps with BARRIER_INVALID. A held WAIT is tested when the object changes, and what the first
test that ends it finds counts (05 R69, 12 R176). An acquire of SYSTEM scope under a cap is counted (13 R200). -/
def ObjectWaits : Prop :=
  ∀ (s : State) (w : Issuer) (a b : GReg), Issues s w → inService w.g = false →
    let at_ := (uniG s w a).toNat % 2 ^ 32
    let p : Word := (uniG s w b).setWidth 32
    let q := placeOf s w at_
    let o := objAt s q
    let mine := fun (u : ObjectWait) => u.core == w.c && u.slot == w.slot && u.split == w.idx && u.home == q.core && u.off == q.off && u.phase == p
    let ended : Option Bool := if w.sp.hold = .waitObject then (s.waits.find? mine).bind fun u => u.met else none
    scratchFault s w 16 [(0, at_)] = none → acquirePending w.g = false → dueAtObject w.g q = none →
      (∀ z ∈ w.g.parts, z.before w.idx q.core w.g.epoch q.off 16 = false) → w.sp.hold ≠ .drain15 →
      (ended = some false ∨ (ended = none ∧ o.valid = false) →
          Traps s w (.waitObject a b) .barrierInvalid w.sp.pc (BitVec.ofNat 64 at_) 0)
        ∧ (ended = none → o.valid = true → (BitVec.ofNat 32 o.phase - p).toInt < 0 → ∃ t sp, exec (.waitObject a b) s = .next t
            ∧ Stands t w sp ∧ sp.pc = w.sp.pc ∧ sp.mask = w.sp.mask ∧ sp.hold = .waitObject
            ∧ t.waits = ⟨w.c, w.slot, w.idx, q.core, q.off, p, none⟩
                :: s.waits.filter (fun u => !(u.core == w.c && u.slot == w.slot && u.split == w.idx))
            ∧ Local s { t with waits := s.waits } w noKeys noKeys false)
        ∧ (ended = some true ∨ (ended = none ∧ o.valid = true ∧ 0 ≤ (BitVec.ofNat 32 o.phase - p).toInt) →
            (∀ r ∈ w.g.la, r.untilWait = true → r.path &&& w.sp.mask = 0) →
            ∃ t, exec (.waitObject a b) s = .next t ∧ GoesOn t w (nextPc w)
              ∧ ((t.core w.c).view = if 2 ≤ o.scope then [] else (s.core w.c).view.filter fun v => !v.behind)
              ∧ Near s (t.modCore w.c fun x => { x with view := (s.core w.c).view }) w noKeys fun g h =>
                  h = { g with splits := h.splits, pend := h.pend, la := h.la, observed := h.observed, podAcquired := h.podAcquired }
                    ∧ h.podAcquired = (g.podAcquired || decide (5 ≤ o.scope)))

/-- Closing a gate, and waiting for a batch or an object: where each completes, holds and traps (05 R69, R70, 09 R116, 12 R175, R176). Which
clean copies a WAIT drops (log 61), and that a WAIT on an object whose phase has come completes also while a fault of a copy that credits it
is unanswered (log 67), are the model's choices. -/
def Obligations.GateControl : Prop := GateCloses ∧ GateWaits ∧ ObjectWaits

/-- FENCE completes when the group's earlier reads have their values and, for a release, its earlier writes are performed at the scope: an
acquire beyond CORE drops the core's clean copies, a release marks what follows, from where it first tried to issue. A scope above the
partition's cap is performed at TENANT, and one of SYSTEM counted (13 R200, R206 to R209, R212, R216). -/
def Obligations.Fences : Prop :=
  ∀ (s : State) (w : Issuer) (x : Ctx) (sc : Scope), Issues s w → s.ctx? w.g.ctx = some x →
    (∀ d ∈ w.g.due, d.store = false) → (∀ e ∈ w.g.queue, e.fault = .clear ∧ storeTranslates s x e = true) →
    (∀ e ∈ w.g.reads, fencePoint w ≤ e.seq) →
      let drop := fun (t : State) => (t.core w.c).view = if 2 ≤ scopeRank sc then [] else (s.core w.c).view
      let rest := fun (t : State) (acq rel : Bool) =>
        Near s (t.modCore w.c fun x => { x with view := (s.core w.c).view }) w noKeys fun g h =>
          h = { g with splits := h.splits, pend := h.pend, la := h.la, observed := h.observed, relFence := h.relFence, epoch := h.epoch,
                       podAcquired := h.podAcquired, podReleased := h.podReleased }
            ∧ (h.relFence = if rel then some (match g.relFence with | none => sc | some a => widerScope a sc) else g.relFence)
            ∧ (h.epoch = if rel ∧ 2 ≤ scopeRank sc then g.epoch + 1 else g.epoch)
            ∧ h.podAcquired = (g.podAcquired || (acq && decide (5 ≤ scopeRank sc)))
            ∧ h.podReleased = (g.podReleased || (rel && decide (5 ≤ scopeRank sc)))
      (x.capped = false ∨ scopeRank sc < 5 →
        (∃ t, exec (.fenceAcq sc) s = .next t ∧ GoesOn t w (nextPc w) ∧ drop t ∧ rest t true false)
          ∧ (ownPerformed s w.c w.g (fencePoint w) sc = true →
              (∃ t, exec (.fenceRel sc) s = .next t ∧ GoesOn t w (nextPc w) ∧ (t.core w.c).view = (s.core w.c).view ∧ rest t false true)
                ∧ ∃ t, exec (.fenceAll sc) s = .next t ∧ GoesOn t w (nextPc w) ∧ drop t ∧ rest t true true)
          ∧ (ownPerformed s w.c w.g (fencePoint w) sc = false → ∀ q ∈ [((Instr.fenceRel sc, false) : Instr × Bool), (.fenceAll sc, true)],
              ∃ t sp h, exec q.1 s = .next t ∧ Stands t w sp ∧ sp.pc = w.sp.pc ∧ sp.hold = .fence (fencePoint w) q.2 true
                ∧ t.group? w.c w.slot = some h
                ∧ h.relFence = some (match w.g.relFence with | none => sc | some a => widerScope a sc)))
        ∧ (x.capped = true → 5 ≤ scopeRank sc → ∃ t h, exec (.fenceAcq sc) s = .next t ∧ GoesOn t w (nextPc w) ∧ (t.core w.c).view = []
            ∧ t.group? w.c w.slot = some h ∧ h.relFence = w.g.relFence ∧ h.podAcquired = true
            ∧ h.capCount = if sc = .system ∧ isAgent w.g = false ∧ w.g.capCount ≠ BitVec.allOnes 32 then w.g.capCount + 1 else w.g.capCount)

/-- The update an arrival delivers (05 R68, 12 R177). -/
def arrivalOf (s : State) (w : Issuer) (at_ : Nat) (drop : Bool) (expect : Nat) : Update :=
  ⟨(placeOf s w at_).core, (placeOf s w at_).off, arrivalRank w (placeOf s w at_), true, drop, expect, 0,
    .arrival w.c w.slot w.idx w.sp.pc (BitVec.ofNat 64 at_)⟩

/-- The arrive family completes where its address is not at fault and its group's earlier accesses let it: an arrival's update waits for the
end of the cycle and holds its split till then, and BINIT writes an object of the own core at once, one of another core when its intake
performs it (05 R67, R68, 11 R147, 12 R177, R178, 13 R206, R208, R209). That behind an acquire or as a release that must wait the split is
held (log 75), and when another core's object is written (log 13), are the model's choices. -/
def Obligations.BarrierArrivals : Prop :=
  ∀ (s : State) (w : Issuer) (a b : GReg), Issues s w →
    let at_ := (uniG s w a).toNat % 2 ^ 32
    let v := (uniG s w b).toNat
    let q := placeOf s w at_
    let image := bytesOf 4 0 ++ bytesOf 2 v ++ bytesOf 2 v ++ bytesOf 4 (v / 2 ^ 32) ++ bytesOf 1 (1 + 2 * bits v 16 3) ++ bytesOf 3 0
    let good := bits v 16 3 ≠ 7 ∧ bits v 19 13 = 0
    let arrives := fun (i : Instr) (drop : Bool) (expect : Nat) =>
      ∃ t, exec i s = .next t ∧ Stands t w { w.sp with pc := nextPc w, hold := .arrival, heldFor := 0 }
        ∧ t.updates = insertUpdate (arrivalOf s w at_ drop expect) s.updates ∧ (w.g.relFence = none → t.sets = s.sets)
        ∧ Local s { t with updates := s.updates, sets := s.sets } w noKeys noKeys false
    scratchFault s w 16 [(0, at_)] = none → acquirePending w.g = false →
      (releaseReady s w.c w.g = true → (∀ z ∈ w.g.parts, z.before w.idx q.core w.g.epoch q.off 16 = false) →
          arrives (.arrive a) false 0 ∧ arrives (.arriveExpect a b) false (v % 2 ^ 32) ∧ arrives (.arriveDrop a) true 0)
        ∧ (good → releaseReady s w.c w.g = true → q.core = w.c → ∃ t, exec (.binit a b) s = .next t ∧ GoesOn t w (nextPc w)
            ∧ Scratched s t w (GroupLocal noKeys false) (overBytes q image noBytes))
        ∧ (good → releaseReady s w.c w.g = true → q.core ≠ w.c → ∃ t, exec (.binit a b) s = .next t ∧ GoesOn t w (nextPc w)
            ∧ Near s t w noKeys (GroupAwaits (leftFar s w [⟨q.core, w.g.nextSeq, w.idx, w.g.epoch, 16, .store,
                [⟨0, at_, q.off, BitVec.ofNat 64 (numOf image), BitVec.ofNat 64 (numOf image / 2 ^ 64)⟩], false⟩]) noKeys false))
        ∧ (releaseReady s w.c w.g = false → ∀ i ∈ [Instr.arrive a, .arriveExpect a b, .arriveDrop a],
            Holds s w i (.fence w.g.nextSeq false false))
        ∧ (¬ good → Traps s w (.binit a b) .barrierInvalid w.sp.pc (BitVec.ofNat 64 at_) 0)

/-- ULD.S and UST.S complete where their address is not at fault and the group's earlier accesses let them: a load's result is held for
HELD_UNIFORM_RESULT, which writes it and releases the split; a store's bytes are written at once; of another core's scratchpad both
wait for its intake (11 R147, 12 R159, R179, 13 R206, R208, R209). -/
def UniformScratch : Prop :=
  ∀ (s : State) (w : Issuer) (d a b : GReg), Issues s w → acquirePending w.g = false →
    let at_ := (uniG s w a).toNat % 2 ^ 32
    let p := placeOf s w at_
    let v := (uniG s w b).toNat
    let far := fun (n : Nat) (k : RemoteKind) (x y : DWord) =>
      (⟨p.core, w.g.nextSeq, w.idx, w.g.epoch, n, k, [⟨0, at_, p.off, x, y⟩], false⟩ : RemoteAccess)
    (∀ q ∈ [((Instr.uldS32 d a, 4) : Instr × Nat), (.uldS64 d a, 8)], scratchFault s w q.2 [(0, at_)] = none →
        ∃ t, exec q.1 s = .next t ∧ Stands t w { w.sp with pc := nextPc w, hold := .heldResult, heldFor := 0 }
          ∧ Near s t w noKeys (GroupBy fun g => if p.core = w.c then { g with held := g.held ++
                [⟨w.idx, d, BitVec.ofNat 64 (numOf (readPlace s p q.2)), (poisonAddr s w q.2 at_).map (fun z => BitVec.ofNat 64 z), s.nextId, 0, none⟩] }
              else { g with held := g.held ++ [⟨w.idx, d, 0, none, s.nextId, 0, some (far q.2 .uload 0 0)⟩], nextSeq := g.nextSeq + 1 }))
      ∧ ∀ q ∈ [((Instr.ustS32 a b, 4) : Instr × Nat), (.ustS64 a b, 8)], scratchFault s w q.2 [(0, at_)] = none →
        releaseReady s w.c w.g = true → ∃ t, exec q.1 s = .next t ∧ GoesOn t w (nextPc w)
          ∧ (p.core = w.c → Scratched s t w (GroupLocal noKeys false) (overBytes p (bytesOf q.2 v) noBytes))
          ∧ (p.core ≠ w.c → Near s t w noKeys (GroupAwaits (leftFar s w [far q.2 .store (BitVec.ofNat 64 v) (BitVec.ofNat 64 (v / 2 ^ 64))])
              noKeys false))

/-- HELD_UNIFORM_RESULT writes the result and releases its split, and SCRATCH_RESULT writes the oldest lookahead result; of a result with
accesses on their way to other cores both mark those as reaching their intakes in this cycle (09 R116, 11 R147, 12 R159). -/
def ResultsCome : Prop :=
  ∀ (s : State) (w : Issuer), Issues s w →
    (∀ r, w.g.held = [r] → r.split = w.idx → r.parked = 0 →
        (r.part = none → r.poisoned = none → ∃ t, exec (.heldUniformResult w.c w.slot w.idx) s = .next t
          ∧ HoldsG t w r.gd r.value ∧ Stands t w { w.sp with hold := .none, heldFor := 0 }
          ∧ Near s t w (GKeys w.g r.gd) (GroupBy fun g => { g with held := [] }))
        ∧ ∀ z, r.part = some z → ∃ t, exec (.heldUniformResult w.c w.slot w.idx) s = .next t ∧ Stands t w w.sp
          ∧ Near s t w noKeys (GroupBy fun g => { g with held := [{ r with part := some { z with reached := true } }] }))
      ∧ (∀ r n l v, w.g.la = [r] → r.parts = [] → r.poisoned = none → r.writes = [(n, l, v)] → isG0 w.g n l = false → n < w.g.allot →
          l < 32 → ∃ t, exec (.scratchResult w.c w.slot 0) s = .next t ∧ rawV (t.core w.c) w.g n l = v
            ∧ Near s t w (fun k => k = rowKey w.g n l) fun g h => h = { g with la := [], pend := h.pend })
      ∧ ∀ r, w.g.la = [r] → r.parts ≠ [] → ∃ t, exec (.scratchResult w.c w.slot 0) s = .next t
            ∧ Near s t w noKeys fun g h => h = { g with la := [{ r with parts := r.parts.map fun z => { z with reached := true } }] }

/-- An access to another core's scratchpad is performed there lane after lane: a store leaves its bytes and nothing for its group, a load gives
the lane's bytes with their extension, and an atomic changes the word and gives the old one (05 R66, 11 R147 to R150). -/
def RemotePerformed : Prop :=
  ∀ (s : State) (p : RemoteAccess) (l : RemoteLane), p.target < Config.cores →
    (∀ j, j < p.size → (s.core p.target).poisonedAt (l.off + j) 1 = false) → 0 < p.size → p.size ≤ 16 →
    let at_ : Place := ⟨p.target, l.off⟩
    let r := performLane s p l
    let now := numOf (readPlace s at_ p.size)
    (p.kind = .store → r.2 = ([], []) ∧ ∀ c o, (r.1.core c).scratch.byte o
        = ((overBytes at_ (bytesOf p.size (l.v1.toNat + 2 ^ 64 * l.v2.toNat)) noBytes) c o).getD ((s.core c).scratch.byte o))
      ∧ (∀ d regs, p.kind = .load d regs 0 → r.1 = s ∧ r.2.2 = []
          ∧ r.2.1 = (List.range regs).map fun j => (d + j, l.lane, BitVec.ofNat 32 (now / 2 ^ (32 * j))))
      ∧ (∀ op d, p.kind = .atom op d → p.size = 4 → r.2 = ([(d, l.lane, BitVec.ofNat 32 now)], []) ∧ ∀ c o, (r.1.core c).scratch.byte o
          = ((overBytes at_ (bytesOf 4 (atomNew op 32 now l.v1.toNat l.v2.toNat)) noBytes) c o).getD ((s.core c).scratch.byte o))

/-- Uniform accesses to scratchpads, the results that are written later, and what other cores' intakes perform (09 R116, 11 R147 to R150, 12
R159, R179, 13 R206). When another core's intake performs an access (log 13), and that a result with poison is parked behind another trap
(log 17), are the model's choices. -/
def Obligations.UniformScratchAndResults : Prop := UniformScratch ∧ ResultsCome ∧ RemotePerformed

/-! Global memory (11 R152 to R158, 12 R180). -/

/-- A read or an atomic put at the end of a group's reads (11 R154, R157). -/
def readQueued (w : Issuer) (id : Nat) (dest : Dest) (pieces : List Piece) (atom : Option AtomOp) (operands : List (Nat × DWord × DWord))
    (acquire : Option Scope) (g : Group) : Group :=
  { g with nextSeq := g.nextSeq + 1,
           reads := g.reads ++ [⟨g.nextSeq, (w.g.gate .gl).closed + 1, w.sp.pc, w.idx, dest, pieces, [], atom, operands, false, acquire,
             .clear, 0, id, [], []⟩] }

/-- An entry put at the tail of a group's store queue (11 R156). -/
def storeQueued (w : Issuer) (id : Nat) (writes : List (Nat × Nat × List Byte)) (release : Option Scope) (g : Group) : Group :=
  { g with nextSeq := g.nextSeq + 1, queue := g.queue ++ [⟨g.nextSeq, w.sp.pc, w.idx, writes, release, g.relFence, [], [], false, .clear, id⟩] }

/-- An access of `n` bytes lies below 2^57 (05 R73). -/
def lowVa (va n : Nat) : Prop := va < 2 ^ 57 ∧ va + n - 1 < 2 ^ 57

/-- LDG and ULD.G loads complete where their addresses are not at fault and the charge is admitted: a read of each active lane's bytes is
queued on gl, and no register changes yet; with no active lane nothing is queued (05 R73, 11 R152, R154, 12 R180, 18 R257). -/
def Obligations.GlobalLoads : Prop :=
  ∀ (s : State) (w : Issuer) (k : KReg) (d a : VReg) (g : AReg) (e b : GReg), Issues s w → d.val < w.g.allot → a.val < w.g.allot →
    admitMine s w 4 (chargeOf s 4 0) = .go →
    (∀ p ∈ [((Instr.ldg32 k d a g, 4, none) : Instr × Nat × Option Scope), (.ldg64 k d a g, 8, none), (.ldg128 k d a g, 16, none),
        (.ldg32Acq k d a g, 4, some .package)], wellFormed p.1 = true →
      let ls := lanesOf (activeOf s w k)
      (ls = [] → Moves s w p.1 (nextPc w))
        ∧ (ls ≠ [] → (∀ l ∈ ls, lowVa (globalAddr s w g a l) p.2.1) →
          Forks s w p.1 .gl 4 (chargeOf s 4 0) .reads
            (readQueued w s.nextId (.lanes d p.2.1) (ls.flatMap fun l => cutPieces 4 l (globalAddr s w g a l) p.2.1 0) none [] p.2.2)))
    ∧ ∀ p ∈ [((Instr.uldG32 e b, 4) : Instr × Nat), (.uldG64 e b, 8)], lowVa (uniG s w b).toNat p.2 →
      Forks s w p.1 .gl 4 (chargeOf s 4 0) .reads
        (readQueued w s.nextId (.uniform e p.2) (cutPieces 3 0 (uniG s w b).toNat p.2 0) none [] none)

/-- STG, STG.REL and UST.G complete while the store queue has room (and, if they had found it full, no earlier store faults) and their
addresses are not at fault: one entry with each active lane's
bytes at its address joins the tail, and memory does not change yet. STG.REL's is a release (05 R78, 11 R152, R156, R158, 12 R180). -/
def Obligations.GlobalStores : Prop :=
  ∀ (s : State) (w : Issuer) (x : Ctx) (k : KReg) (d a : VReg) (g : AReg) (z : SzCode) (e b : GReg), Issues s w → d.val < w.g.allot →
    a.val < w.g.allot → w.g.queue.length < 16 → s.ctx? w.g.ctx = some x →
    (foundFull w = true → (∀ q ∈ w.g.due, q.store = false) ∧ ∀ q ∈ w.g.queue, q.fault = .clear ∧ storeTranslates s x q = true) →
    let ls := lanesOf (activeOf s w k)
    (∀ p ∈ [((Instr.stg8 k d a g, 1) : Instr × Nat), (.stg16 k d a g, 2), (.stg32 k d a g, 4), (.stg64 k d a g, 8)], wellFormed p.1 = true →
      (ls = [] → Moves s w p.1 (nextPc w))
        ∧ (ls ≠ [] → (∀ l ∈ ls, lowVa (globalAddr s w g a l) p.2) → Completes s w p.1
            (storeQueued w s.nextId (ls.map fun l => (l, globalAddr s w g a l, bytesStored s w p.2 d l)) none)))
    ∧ (wellFormed (.stgRel k d a z) = true → (∀ q ∈ w.g.due, q.store = false) →
        (∀ q ∈ w.g.queue, q.fault = .clear ∧ storeTranslates s x q = true) →
        let n := match z with | .b1 => 1 | .b2 => 2 | .b4 => 4 | .b8 => 8
        (ls = [] → Moves s w (.stgRel k d a z) (nextPc w))
        ∧ (ls ≠ [] → (∀ l ∈ ls, lowVa (lanePair s w a l) n) → Completes s w (.stgRel k d a z)
            (storeQueued w s.nextId (ls.map fun l => (l, lanePair s w a l, bytesStored s w n d l)) (some .package))))
    ∧ ∀ p ∈ [((Instr.ustG32 e b, 4) : Instr × Nat), (.ustG64 e b, 8)], lowVa (uniG s w e).toNat p.2 →
        Completes s w p.1 (storeQueued w s.nextId [(0, (uniG s w e).toNat, bytesOf p.2 (uniG s w b).toNat)] none)

/-- ATOMG and the atomic ULD forms complete where their addresses are aligned and not at fault and the charge is admitted: one atomic of
each active lane is queued on gl with its operands as read (11 R152, R157, 12 R180, 18 R257). -/
def Obligations.GlobalAtomics : Prop :=
  ∀ (s : State) (w : Issuer) (k : KReg) (d a : VReg) (o : AtomOp) (e b c : GReg), Issues s w → d.val < w.g.allot → a.val < w.g.allot →
    admitMine s w 5 (chargeOf s 5 0) = .go →
    (wellFormed (.atomg k d a o) = true →
      let ls := lanesOf (activeOf s w k)
      (ls = [] → Moves s w (.atomg k d a o) (nextPc w))
        ∧ (ls ≠ [] → (∀ l ∈ ls, lowVa (lanePair s w a l) 4 ∧ lanePair s w a l % 4 = 0) →
          Forks s w (.atomg k d a o) .gl 5 (chargeOf s 5 0) .reads
            (readQueued w s.nextId (.lanes d 4) (ls.map fun l => ⟨l, lanePair s w a l, 4, 0⟩) (some o)
              (ls.map fun l => (l, (laneV s w d l).setWidth 64, (laneV s w (d.val + 1) l).setWidth 64)) none)))
    ∧ ∀ p ∈ [((Instr.uldGAdd e b c, AtomOp.add) : Instr × AtomOp), (.uldGExch e b c, .exch), (.uldGCas e b c, .cas)],
        lowVa (uniG s w b).toNat 8 → (uniG s w b).toNat % 8 = 0 →
          Forks s w p.1 .gl 5 (chargeOf s 5 0) .reads
            (readQueued w s.nextId (.uniform e 8) [⟨0, (uniG s w b).toNat, 8, 0⟩] (some p.2) [(0, uniG s w c, uniG s w e)] none)

/-! The ordering machine (05 R81 to R83, 13 R202, R220). -/

/-- The byte that a list of cells, written in order, leaves at an address, over what stood there. -/
def writtenOver (cs : List Host.Cell) (a : Nat) (old : Byte) : Byte := ((cs.reverse.find? fun c => c.1 == a).map Prod.snd).getD old

/-- PROPAGATION_ARRIVE appends a write at its home slice, once every earlier write of its core to the line has arrived; a write to an attic or a SYS
page then goes on to the attic node, or to the host that acknowledges it (13 R202, R207): a second PROPAGATION_ARRIVE, by the model's choice
(log 14), which a port that is down refuses (log 84). DROP removes a core's copy of a line. -/
def Obligations.PropagationsAndDrops : Prop :=
  ∀ (s : State) (n : Nat) (p : Propagation), Memory.wf s.mem = true → LinesForm s.attic → s.props[n]? = some p → p.repl = none →
    (∀ b ∈ p.bytes, ∀ c ∈ p.bytes, lineOf b.1 = lineOf c.1) → mayArrive s n p = true →
    (p.home = false → ∃ t, exec (.propagationArrive n) s = .next t
        ∧ t.props = s.props.eraseIdx n ++ (if p.beyond = .none then [] else
            [{ p with home := true, prev := if p.beyond = .host then p.bytes.map fun k => (k.1, s.homeByte k.1) else [] }])
        ∧ (∀ a, t.homeByte a = writtenOver p.bytes a (s.homeByte a))
        ∧ (∀ a, isAttic a = true → Memory.read t.mem a = Memory.read s.mem a)
        ∧ (∀ a, a ∈ t.memPoison ↔ a ∈ s.memPoison ∧ ∀ c ∈ p.bytes, c.1 ≠ a)
        ∧ t = { s with props := t.props, mem := t.mem, attic := t.attic, sets := t.sets, memPoison := t.memPoison })
      ∧ (p.home = true → p.beyond = .node → portUp s p.port = false → ∃ t, exec (.propagationArrive n) s = .next t
        ∧ t.props = s.props.eraseIdx n ∧ t.mem = s.mem ∧ ∀ g b d, s.group? p.core p.slot = some g → p.owed = some (b, d) → g.block = b →
          ∃ h, t.group? p.core p.slot = some h ∧ h = { g with due := g.due ++ [d] })
      ∧ (p.home = true → (p.beyond = .node → portUp s p.port = true) → ∃ t, exec (.propagationArrive n) s = .next t ∧ t.props = s.props.eraseIdx n
        ∧ (∀ a, Memory.read t.mem a = if p.beyond = .node then writtenOver p.bytes a (Memory.read s.mem a) else Memory.read s.mem a)
        ∧ t = { s with props := t.props, mem := t.mem })
      ∧ ∀ c line, ∃ t, exec (.drop c line) s = .next t ∧ t.core c = { s.core c with view := (s.core c).view.filter fun v => v.line != line }
        ∧ (∀ b, b ≠ c → t.core b = s.core b) ∧ t = { s with cores := t.cores }

/-- LEAVE: the oldest store of a group leaves its queue when what must come before it is performed, and its traffic to an attic node
authenticates (28 R358). The bytes of a lane in one page are
then in flight toward its home and stand in the core's view, and memory is as before (13 R202, R208). -/
def StoresLeave : Prop :=
  ∀ (s : State) (g : Group) (x : Ctx) (c slot l va : Nat) (bs : List Byte) (e : QEntry) (rest : List QEntry) (p : Page) (u : State),
    s.group? c slot = some g → s.ctx? g.ctx = some x → g.queue = e :: rest → mayLeave s c g e = true → e.writes = [(l, va, bs)] →
    e.written = [] → e.away = [] →
    bs ≠ [] → va % 65536 + bs.length ≤ 65536 → e.release = none → translateR s (.core c) x .store va = (.ok p, u) → p.repl = false →
    (p.attic = true → (atticTrip u x.id p.key (atticPort p.pa)).1 = true) →
    ∃ t ws, exec (.leave c slot) s = .next t ∧ t.props = s.props ++ ws
      ∧ (∀ q ∈ ws, q.core = c ∧ q.slot = slot ∧ q.seq = e.seq ∧ q.repl = none ∧ q.home = false
          ∧ q.beyond = if p.sys then .host else if p.attic then .node else .none)
      ∧ (∀ q : Host.Cell, (∃ r ∈ ws, q ∈ r.bytes) ↔ q ∈ cellsOf p.pa bs) ∧ (∃ h, t.group? c slot = some h ∧ h.queue = rest)
      ∧ (LinesForm (s.core c).view → p.nc = false → ∀ i, i < bs.length → (t.core c).viewByte (p.pa + i) = bs[i]?)
      ∧ ∀ a, Memory.read t.mem a = Memory.read s.mem a ∧ t.homeByte a = s.homeByte a

/-- TAKE_VALUE: with none of the core's stores on its way and no copy of the line, a queued uniform read takes the bytes of its home at its
address, writes its register and completes (05 R71, 11 R154, 13 R202). -/
def ReadsTakeValues : Prop :=
  ∀ (s : State) (w : Issuer) (x : Ctx) (e : REntry) (p : Page) (u : State) (gd va n : Nat), Issues s w → s.ctx? w.g.ctx = some x →
    w.g.reads = [e] → e.atom = none → e.acquire = none → e.got = [] → e.fault = .clear → e.dest = .uniform gd n → e.pieces = [⟨0, va, n, 0⟩] →
    0 < n → n ≤ 8 → gd ≠ 0 → w.g.queue = [] → s.props = [] → (s.core w.c).view = [] → s.memPoison = [] →
    behindFenceAll w.g e = false → inSpillArea s x.id va = false →
    translateR s (.core w.c) x .load va = (.ok p, u) → p.repl = false → p.attic = false →
    ∃ t h, exec (.takeValue w.c w.slot 0) s = .next t ∧ t.group? w.c w.slot = some h ∧ h.reads = []
      ∧ rawG (t.core w.c) w.g gd = BitVec.ofNat 64 (numOf (s.homeBytes p.pa n)) ∧ t.homeBytes p.pa n = s.homeBytes p.pa n
      ∧ (∀ k, ¬ GKeys w.g gd k → (t.core w.c).rows.word k = (s.core w.c).rows.word k)

/-- ATOMIC_STEP: the lowest lane left of the oldest access of a group, an atomic, changes its word at its home and leaves every other byte: on a
page with SATOM in one step, elsewhere in two halves, of which the first takes the value (05 R81, 11 R157, 13 R202, R220). -/
def AtomicSteps : Prop :=
  ∀ (s : State) (g : Group) (x : Ctx) (c slot l va n : Nat) (e : REntry) (rest : List REntry) (op : AtomOp) (p : Page) (u : State),
    Memory.wf s.mem = true → LinesForm s.attic → s.group? c slot = some g → s.ctx? g.ctx = some x → g.reads = e :: rest → e.atom = some op →
    e.fault = .clear → e.acquire = none → e.pieces = [⟨l, va, n, 0⟩] → translateR s (.core c) x .atomic va = (.ok p, u) → p.repl = false →
    p.attic = false → p.pa % 128 + n ≤ 128 → g.queue = [] → s.props = [] → s.memPoison = [] →
    behindFenceAll g e = false →
    let leaves := fun (old : Nat) => ∃ t, exec (.atomicStep c slot) s = .next t
      ∧ ∀ a, t.homeByte a = writtenOver (cellsOf p.pa (bytesOf n (atomNew op (8 * n) old (e.operandOf l).1 (e.operandOf l).2))) a (s.homeByte a)
    (p.satom = true → e.half = false → leaves (numOf (s.homeBytes p.pa n)))
      ∧ (p.satom = false → e.half = false → e.got = [] → ∃ t h f, exec (.atomicStep c slot) s = .next t ∧ t.group? c slot = some h
          ∧ h.reads = f :: rest ∧ f.half = true ∧ f.pieces = e.pieces ∧ f.got = (s.homeBytes p.pa n).zipIdx.map (fun b => (l, b.2, b.1))
          ∧ ∀ a, t.homeByte a = s.homeByte a)
      ∧ ∀ old : List Byte, e.half = true → old.length = n → e.got = old.zipIdx.map (fun b => (l, b.2, b.1)) → leaves (numOf old)

/-- A store leaves, a read takes its value and an atomic performs, one at a time (05 R71, R81, 11 R154, R157, 13 R202, R208, R220). -/
def Obligations.RequestSteps : Prop := StoresLeave ∧ ReadsTakeValues ∧ AtomicSteps

/-- No atomic of a group, a packet or a block stands between its halves (13 R220). -/
def NoHalves (s : State) : Prop :=
  (∀ c ∈ s.cores, (∀ g ∈ c.groups, ∀ e ∈ g.reads, e.half = false) ∧ ∀ k ∈ c.blocks, k.half = none)
    ∧ ∀ q ∈ s.queues, ∀ k ∈ q.started, k.half = none

/-- REPLICA_STAMP gives a write its set's next stamp and performs it at the sequencer's copy; REPLICA_APPLY performs a member's next
stamped write at its own copy, or reports it where the set cannot be read (05 R82, R83). HOST_ACCESS reads or writes bytes at their home (13
R220). -/
def Obligations.ReplicasAndHost : Prop :=
  ∀ (s : State) (x : Ctx) (r : ReplicaSet) (q : Stamped) (d : Nat × Nat × List Nat) (die rset : Nat), Memory.wf s.mem = true →
    s.ctx? x.id = some x →
    (s.replicas.find? (fun r => r.ctx == x.id && r.rset == rset) = some r → r.pending.find? (fun q => q.die == die) = some q →
      (replicaOf s x rset = some d → ∃ t, exec (.replicaApply x.id rset die) s = .next t
        ∧ (∀ a, Memory.read t.mem a
            = writtenOver (q.bytes.map fun b => (d.2.2.getD die 0 + b.1 - d.2.2.getD d.2.1 0, b.2)) a (Memory.read s.mem a))
        ∧ ∃ r', t.replicas.find? (fun r => r.ctx == x.id && r.rset == rset) = some r' ∧ r'.pending = r.pending.erase q ∧ r'.stamp = r.stamp)
      ∧ (replicaOf s x rset = none → ∃ t, exec (.replicaApply x.id rset die) s = .next t
        ∧ t.mem = (postEvent s x.id .replica 0xFFFF rset q.stamp noSource).mem))
    ∧ (∀ (n : Nat) (p : Propagation), s.props[n]? = some p → p.repl = some (x.id, rset) → mayArrive s n p = true →
        replicaOf s x rset = some d → ∃ t, exec (.replicaStamp n) s = .next t ∧ t.props = s.props.eraseIdx n
          ∧ stampOf t x.id rset = stampOf s x.id rset + 1
          ∧ ∀ a, Memory.read t.mem a = writtenOver p.bytes a (Memory.read s.mem a))
    ∧ (NoHalves s → ∀ (pa n : Nat) (bs : List Byte),
        (∃ t, exec (.hostAccess (.read pa n)) s = .next t ∧ t.dev.hostData = ((List.range n).map fun i =>
              (((s.props.flatMap fun p => p.prev).find? fun k => k.1 == pa + i).map Prod.snd).getD (s.homeByte (pa + i)))
            ∧ t = { s with dev := { s.dev with hostData := t.dev.hostData } })
          ∧ ∃ t, exec (.hostAccess (.write pa bs)) s = .next t
            ∧ (∀ a, Memory.read t.mem a = writtenOver (cellsOf pa bs) a (Memory.read s.mem a))
            ∧ t.props = s.props.map (fun p => { p with prev := p.prev.filter fun k => k.1 < pa || pa + bs.length ≤ k.1 })
            ∧ t = { s with mem := t.mem, attic := t.attic, memPoison := t.memPoison, props := t.props, sets := t.sets })

/-! The matrix engine (16 R223 to R237). -/

/-- The matrix instructions of the block that holds the engine complete where their causes do not hold, their charge is admitted, the command
queue has room and the group's earlier accesses let a fork be made (16 R224, R228 to R236, 13 R208, R209). EPI is held until its record has
been read; that it is read again where the queue or the charge held it then is the model's choice (log 67). -/
def Obligations.MatrixIssue : Prop :=
  ∀ (s : State) (w : Issuer) (k : KReg) (d a : VReg) (sh : Fin 32) (ty : MType) (e b c : GReg), Issues s w → holdsEngine w = true →
    let m := (s.core w.c).matrix
    let at_ := (uniG s w b).toNat % 2 ^ 32
    let v := (uniG s w c).toNat
    let rank := 128 + w.slot
    let inside := fun (n align : Nat) => bits at_ 19 13 = 0 ∧ at_ + n ≤ (ownScratch w).2 ∧ at_ % align = 0
    (d.val < w.g.allot → a.val < w.g.allot → typeAccepted s ty = true → wellFormed (.mstream k d a sh ty) = true →
        let ps := passAsks s w (activeOf s w k) d a
        let charge := ps.length * chargeOf s 6 (shapeM sh.val)
        (activeOf s w k = 0 → Moves s w (.mstream k d a sh ty) (nextPc w))
          ∧ (ps ≠ [] → mstreamFault s w ty sh.val ps = none → admitMine s w 6 charge = .go → m.queue.length + ps.length ≤ 32 → Unfenced s w →
            Places s w (.mstream k d a sh ty) 6 charge ps.length
              (ps.map fun p => newCommand w.g.block (some s.nextId) s.cycle (32 * p.quarter + w.slot) (.pass (scratchBase w + p.a) (bits p.d 0 6)
                (bits p.d 6 4) (bits p.d 10 6) (bits p.d 16 1) (bit p.d 17) (shapeM sh.val) (shapeN sh.val) (bit sh.val 0) ty)) id id))
    ∧ (let n := v % 128
       n ≠ 0 → n ≤ Config.width w.c → v / 128 % 2 = 0 → v < 512 → inside (128 * n) 128 → admitMine s w 7 (chargeOf s 7 n) = .go →
        m.queue.length < 32 → Unfenced s w → Places s w (.mload b c) 7 (chargeOf s 7 n) 1
          [newCommand w.g.block (some s.nextId) s.cycle rank (.load (v / 256) (scratchBase w + at_) n)]
          (fun q => if v / 256 = 0 then { q.marked s.cycle with count0 := n } else { q.marked s.cycle with count1 := n }) id)
    ∧ (v < 2 → m.used ≠ 64 → (v = 0 → m.queue.length < 32) → ∃ t, exec (.mopen e c) s = .next t ∧ GoesOn t w (nextPc w)
        ∧ HoldsG t w e (BitVec.ofNat 64 ((m.tail + m.used) % 64))
        ∧ (t.core w.c).matrix.slots = m.slots.set ((m.tail + m.used) % 64) .opened ∧ (t.core w.c).matrix.used = m.used + 1
        ∧ (t.core w.c).matrix.queue = (if v = 0 then insertCommand (newCommand w.g.block none s.cycle rank (.zero ((m.tail + m.used) % 64))) m.queue else m.queue)
        ∧ Local s (t.modCore w.c fun x => { x with matrix := m }) w (GKeys w.g e) noKeys false)
    ∧ (v < 64 → slotState m.slots v = .opened → ∃ t, exec (.mclose c) s = .next t ∧ GoesOn t w (nextPc w)
        ∧ (t.core w.c).matrix = { m.marked s.cycle with slots := m.slots.set v .ready }
        ∧ Local s (t.modCore w.c fun x => { x with matrix := m }) w noKeys noKeys false)
    ∧ (∀ q ∈ [((Instr.amovLd b c, false) : Instr × Bool), (.amovSt b c, true)],
        let rows := v / 2 ^ 10 % 32
        rows ≠ 0 → v / 64 % 16 + rows ≤ 16 → v < 2 ^ 15 → slotState m.slots (v % 64) ≠ .free → inside (rows * (4 * Config.width w.c)) 16 →
        admitMine s w 9 (chargeOf s 9 rows) = .go → m.queue.length < 32 → Unfenced s w → Places s w q.1 9 (chargeOf s 9 rows) 1
          [newCommand w.g.block (some s.nextId) s.cycle rank (.amov q.2 (scratchBase w + at_) (v % 64) (v / 64 % 16) rows)] (fun q => q.marked s.cycle) id)
    ∧ UniResult s w (.mstat e) e (BitVec.ofNat 64 ((m.tail + m.used) % 64 + 2 ^ 6 * m.tail + 2 ^ 12 * m.used
        + (if m.used ≠ 0 ∧ slotState m.slots m.tail = .ready then 2 ^ 19 else 0) + 2 ^ 20 * m.count0 + 2 ^ 27 * m.count1
        + 2 ^ 34 * m.queue.length))
    ∧ (inside 32 32 → w.sp.hold = .none → ∃ bad,
        Holds s w (.epi b) (.epiRead (readPlace s ⟨w.c, scratchBase w + at_⟩ 32) bad)
          ∧ (bad = none ↔ ∀ j < 4, w.core.poisonedAt (scratchBase w + at_ + 8 * j) 8 = false))
    ∧ (∀ bs, let r := epiRecordOf bs
       let slots := if r.accKind = 2 then [m.tail, (m.tail + 1) % 64] else [m.tail]
       inside 32 32 → (w.sp.hold = .epiRead bs none ∨ ((w.sp.hold = .commandQueueFull ∨ w.sp.hold = .vacateStall)
          ∧ bs = readPlace s ⟨w.c, scratchBase w + at_⟩ 32 ∧ ∀ j < 4, w.core.poisonedAt (scratchBase w + at_ + 8 * j) 8 = false)) → epiValid s w.c (ownScratch w).2 r = true →
        slots.length ≤ m.used → (r.accKind = 2 → m.tail % 2 = 0) → (∀ n ∈ slots, slotState m.slots n = .ready) →
        admitMine s w 8 (chargeOf s 8 0) = .go → m.queue.length < 32 → Unfenced s w → Places s w (.epi b) 8 (chargeOf s 8 0) 1
          [newCommand w.g.block (some s.nextId) s.cycle rank (.epi r m.tail w.g.dphase.toNat)]
          (fun q => { q.marked s.cycle with slots := slots.foldl (fun ss n => ss.set n .free) m.slots, tail := (m.tail + slots.length) % 64,
                                            used := m.used - slots.length })
          fun g => { g with dphase := g.dphase + 1 })

/-- Unit `u` of a command has run: it has left the command, which has met no other poison than before or the unit's; with its last unit the
command has left the queue, and an operation of which it was the last command is over (16 R225, R229, R237). -/
def UnitOver (s t : State) (c n u : Nat) (k k' : Command) (bad : Option DWord) : Prop :=
  let left := k.left.erase u
  (left = [] → (t.core c).matrix.queue = (s.core c).matrix.queue.eraseIdx n
      ∧ ∀ o, k.op = some o.id → s.op? o.id = some o → o.kind = .matrix 1 → t.op? o.id = none)
    ∧ (left ≠ [] → (t.core c).matrix.queue = (s.core c).matrix.queue.set n { k' with left := left, bad := k.bad <|> bad })

/-- The commands of the matrix queue run when what they depend on has finished, unit by unit: a load its records, a pass its A-rows, a
transfer its rows, an epilogue its scales and biases and then its output rows in ascending order, a zeroing at once; each with its effect on
the accumulator store, the platens and the scratchpad, and on no other byte of them (07 R93, R95, 16 R225, R229 to R231, R234, R235; that
these are the units is the model's choice, log 69). -/
def Obligations.MatrixRuns : Prop :=
  ∀ (s : State) (c n base u i : Nat) (k : Command), runnable s c n = some (k, base) → u ∈ k.left →
    (unitsLeft (s.core c).matrix.queue)[i]? = some (n, u) →
    let x := s.core c
    let bad := unitPoison x c base u k.kind
    let Platens := fun (t : State) => (t.core c).matrix.platen0 = x.matrix.platen0 ∧ (t.core c).matrix.platen1 = x.matrix.platen1
    (∀ slot, k.kind = .zero slot → u = 0 → ∃ t, exec (.slotZeroing c n) s = .next t ∧ UnitOver s t c n u k k none ∧ Platens t
        ∧ (∀ o, (t.core c).matrix.acc.byte o = if slot * Config.slotBytes c ≤ o ∧ o < slot * Config.slotBytes c + Config.slotBytes c then 0
            else x.matrix.acc.byte o) ∧ (t.core c).scratch = x.scratch)
    ∧ (∀ p a m, k.kind = .load p a m → ∃ t, exec (.mloadRun c i) s = .next t ∧ UnitOver s t c n u k k bad
        ∧ (∀ q < 2, ∀ o, ((t.core c).matrix.platen q).byte o = if decide (q = 0) = decide (p = 0) ∧ 128 * u ≤ o ∧ o < 128 * u + 128
            then x.scratch.byte (a + o) else (x.matrix.platen q).byte o)
        ∧ (t.core c).matrix.acc = x.matrix.acc ∧ (t.core c).scratch = x.scratch)
    ∧ (∀ st a slot row0 rows, k.kind = .amov st a slot row0 rows → ∃ t, exec (.amovRun c i) s = .next t ∧ UnitOver s t c n u k k bad ∧ Platens t
        ∧ (let len := 4 * Config.width c
           let off := slot * Config.slotBytes c + (row0 + u) * len
           let at_ := a + u * len
           (∀ o, (t.core c).scratch.byte o = if st = true ∧ at_ ≤ o ∧ o < at_ + len then x.matrix.acc.byte (off + (o - at_)) else x.scratch.byte o)
             ∧ ∀ o, (t.core c).matrix.acc.byte o = if st = false ∧ off ≤ o ∧ o < off + len then x.scratch.byte (at_ + (o - off))
                 else x.matrix.acc.byte o))
    ∧ (∀ a slot row0 col0 p zero m w short ty, k.kind = .pass a slot row0 col0 p zero m w short ty → col0 + w ≤ Config.width c →
        ∃ t, exec (.mstreamPassRun c i) s = .next t ∧ UnitOver s t c n u k k bad ∧ (t.core c).scratch = x.scratch ∧ Platens t
          ∧ let sz := fmtBytes ty.accFmt
            (∀ j, j < w → (t.core c).matrix.acc.num (accOff c ty.accFmt slot (row0 + u) (col0 + j)) sz
              = passResult ty.accFmt (if zero then 0 else x.matrix.acc.num (accOff c ty.accFmt slot (row0 + u) (col0 + j)) sz)
                  (passTerms x.scratch (x.matrix.platen p) ty (depthOf ty short) (a + 128 * ty.units * u) (128 * j)) % 2 ^ (8 * sz))
              ∧ ∀ o, (o < accOff c ty.accFmt slot (row0 + u) col0 ∨ accOff c ty.accFmt slot (row0 + u) col0 + w * sz ≤ o) →
                  (t.core c).matrix.acc.byte o = x.matrix.acc.byte o)
    ∧ (∀ r slot phase, k.kind = .epi r slot phase → (2 ≤ u → ∀ v ∈ k.left, u ≤ v) → ∃ t, exec (.epiRun c i) s = .next t
        ∧ UnitOver s t c n u k (if u = 0 then { k with scales := x.scratch.bytes (base + r.scale) (4 * Config.width c) }
            else if u = 1 then { k with biases := x.scratch.bytes (base + r.bias) (4 * Config.width c) } else k) bad
        ∧ (t.core c).matrix.acc = x.matrix.acc ∧ Platens t
        ∧ ∀ o, (t.core c).scratch.byte o = if u < 2 then x.scratch.byte o
            else ((overBytes ⟨c, base + r.dest + r.stride * (u - 2)⟩ (epiRow x c r k.scales k.biases slot phase (u - 2)) noBytes) c o).getD
              (x.scratch.byte o))

/-! Tensor copies (16 R238 to R247). -/

/-- TCOPY and TCOPYQ complete where the record's address and the declared word are not at fault, the charge is admitted and no fence of the
group holds the fork: the lowest active lane's copy is forked on gc, and TCOPYQ steps the dither phase; with no active lane nothing is forked
(07 R98, 13 R208, R209, 16 R243, R247). -/
def Obligations.CopyIssue : Prop :=
  ∀ (s : State) (w : Issuer) (k : KReg) (d a : VReg), Issues s w → a.val + 1 < w.g.allot → d.val + 5 < w.g.allot →
    ∀ p ∈ [((Instr.tcopy k d a, false) : Instr × Bool), (.tcopyq k d a, true)], wellFormed p.1 = true →
      let m := activeOf s w k
      let l := (lanesOf m).headD 0
      let va := lanePair s w a l
      let word := laneV s w d l
      let cls := (if p.2 then 2 else 0) + bits word.toNat 24 1
      let charge := chargeUnits s cls (word.toNat % 2 ^ 24)
      (m = 0 → ∃ t, exec p.1 s = .next t ∧ GoesOn t w (nextPc w) ∧ t.ops = s.ops
          ∧ Near s t w noKeys fun g h => h = { g with gates := h.gates, splits := h.splits, pend := h.pend, la := h.la }
              ∧ ∀ x, (h.gate x).closed = (g.gate x).closed ∧ (x ≠ .gc → h.gate x = g.gate x))
        ∧ (m ≠ 0 → va < 2 ^ 57 → va % 128 = 0 → word.toNat < 2 ^ 25 → admitMine s w cls charge = .go → Unfenced s w →
          Forks s w p.1 .gc cls charge
            (.copy { quant := p.2, lane := l, vd := d, recVa := va, declared := word,
                     origin := (List.range 5).map fun j => (laneV s w (d + 1 + j) l).toInt, phase := w.g.dphase.toNat, layout := none,
                     next := 0, ahead := [], buffer := [], moved := 0, code := none, codeAt := 0, ends := none, trying := 0, bad := 0,
                     places := [], owed := none, word := wordOf p.1 })
            fun g => if p.2 then { g with dphase := g.dphase + 1 } else g)

/-- A copy reads its units in any order, lands what it has read in ascending scratchpad order and credits its object, and completes with
its status word when all has landed (13 R201, 16 R238, R242 to R245). -/
def Obligations.CopyEvents : Prop :=
  ∀ (s : State) (o : Op) (x : Ctx) (c : Copy) (l : Layout), s.op? o.id = some o → s.ctx? o.ctx = some x → o.kind = .copy c →
    c.layout = some l → opWaits s o c.lane = false →
    (∀ n, c.unit n < c.limit l → l.store = false → l.nq4 = false → inBounds l (coordsOf c l (c.unit n)) = false →
        exec (.engineAccess o.id n) s = .next (s.setOpKind o.id (.copy { c.took (c.unit n) with
          buffer := c.buffer ++ (List.range l.size).map fun i => (l.offset c.quant (c.unit n) + i, ((0 : Byte), false)) })))
    ∧ (∀ n ps u, c.unit n < c.limit l → l.store = false → l.nq4 = false → inBounds l (coordsOf c l (c.unit n)) = true →
        partSpans s o x c.lane (oneLane c.lane) 5 .load (elementVa l (coordsOf c l (c.unit n))) l.size = .ok ps u → ps.all (fun p => !p.1.attic) = true →
        (∀ b ∈ opBytes u o x ps, b.2 = false) →
        exec (.engineAccess o.id n) s = .next (u.setOpKind o.id (.copy { c.took (c.unit n) with
          buffer := c.buffer ++ (List.range (opBytes u o x ps).length).map fun i =>
            (l.offset c.quant (c.unit n) + i, ((opBytes u o x ps)[i]?).getD (0, false)) })))
    ∧ (l.store = false → c.moved < c.landEdge l → ∃ t o', exec (.tceLanding o.id) s = .next t
        ∧ t.op? o.id = some o' ∧ (∃ c', o'.kind = .copy c' ∧ c'.moved = c.landEdge l)
        ∧ (let at_ := (allocOf s o.core o.block).1 + l.dst
           ∀ b, (t.core o.core).scratch.byte b = if at_ + c.moved ≤ b ∧ b < at_ + c.landEdge l then (c.landByte l (b - at_)).1
             else (s.core o.core).scratch.byte b)
        ∧ t.updates.length = s.updates.length + (if l.credit then 1 else 0) ∧ ∀ a, Memory.read t.mem a = Memory.read s.mem a)
    ∧ (∀ g, c.landed l = true → c.owed = none → creditsSettled s o = true → replPending s o = false → c.code = none ∨ c.code = some 0x02 ∨ c.code = some 0x03 ∨ c.code = some 0x04
        ∨ c.code = some 0x05 → s.group? o.core o.slot = some g → isG0 g c.vd c.lane = false → c.lane < 32 →
        ∃ t h, exec (.tcopyComplete o.id) s = .next t ∧ t.op? o.id = none ∧ t.group? o.core o.slot = some h
          ∧ rawV (t.core o.core) h c.vd c.lane = BitVec.ofNat 32 (c.code.getD 0 * 2 ^ 24 + (c.moved + 15) / 16) ∧ h.due = g.due
          ∧ h.gates = (g.complete o.gate o.batch).gates)

/-! The traversal engine (22 R281 to R307). -/

/-- TVWALK and TVRESUME fork one walk for each active lane where no lane is refused: TVWALK's holds the root with its kind and depth, key 0
and frame 0, and TVRESUME's the cut record to read; in a service group both trap (22 R284, R285, R296). -/
def WalksStart : Prop :=
  ∀ (s : State) (w : Issuer) (k : KReg) (d a : VReg), Issues s w → a.val + 1 < w.g.allot → d.val < w.g.allot → s.feature 3 = true →
    a.val % 2 = 0 →
    ∀ p ∈ [((Instr.tvwalk k d a, false) : Instr × Bool), (.tvresume k d a, true)], (p.2 = false → a.val + 2 < w.g.allot) →
      let m := activeOf s w k
      let tv := (ctxOf s w).tvstack.toNat
      let base := bits tv 16 41 * 65536
      let handle := fun (l : Nat) => (laneV s w d l).toNat
      let operand := fun (l : Nat) => (laneV s w (a + 2) l).toNat
      let fresh := fun (l : Nat) =>
        ({ lane := l, handle := handle l, area := base + 64 * 2 ^ bits tv 8 5 + 16 * 2 ^ bits tv 0 5 * handle l, elog := bits tv 0 5,
           hot := if p.2 then [] else [⟨lanePair s w a l, operand l % 16, bits (operand l) 8 12, 0, 0⟩], spilled := 0,
           query := base + 64 * handle l, frames := 0, cutGalley := none, visited := 0,
           point := .starting (if p.2 then some (lanePair s w a l) else none) false, cuts := [], bad := 0 } : Walk)
      let charge := chargeOf s 12 0
      (inService w.g = true → exec p.1 s = .next (trapHere s w .routineReentry 0 m))
        ∧ (inService w.g = false → m ≠ 0 → 4 ≤ bits tv 0 5 → bits tv 0 5 ≤ 20 → bits tv 8 5 ≤ 16 → bits tv 16 41 ≠ 0 →
            (∀ l ∈ lanesOf m, handle l < 2 ^ 16 ∧ handle l < 2 ^ bits tv 8 5 ∧ lanePair s w a l < 2 ^ 57
              ∧ (if p.2 then lanePair s w a l % 16 = 0 else bits (operand l) 4 4 = 0 ∧ bits (operand l) 20 12 = 0)
              ∧ (∀ q ∈ walksOn s w.c w.g.ctx, q.2.handle ≠ handle l ∧ ¬ (q.1.slot = w.slot ∧ q.2.lane = l))
              ∧ ∀ j ∈ lanesOf m, j ≠ l → handle j ≠ handle l) →
            admitMine s w 12 charge = .go → Unfenced s w → Forks s w p.1 .gt 12 charge (.walks d ((lanesOf m).map fresh)) id)

/-- TVCUT forks on gt the cuts of its lanes and asks the walks it names; TVRET delivers the action words and ends the lanes; TVSTAT writes
the state of the walk a handle names (22 R297 to R299). -/
def WalkControl : Prop :=
  ∀ (s : State) (w : Issuer) (k : KReg) (d a : VReg), Issues s w → d.val < w.g.allot → a.val < w.g.allot → s.feature 3 = true →
    let m := activeOf s w k
    let x := fun (l : Nat) => (laneV s w (a + 2) l).toNat
    let lanes := (lanesOf m).map fun l => (⟨l, (laneV s w d l).toNat, bits (x l) 0 12, bits (x l) 16 16, lanePair s w a l, none⟩ : CutLane)
    (a.val % 2 = 0 → a.val + 2 < w.g.allot → m ≠ 0 →
        (∀ l ∈ lanesOf m, lanePair s w a l < 2 ^ 57 ∧ lanePair s w a l % 16 = 0 ∧ bits (x l) 12 4 = 0 ∧ bits (x l) 16 16 ≠ 0) →
        (∀ o ∈ s.ops, ∀ d ws, o.kind = .walks d ws → o.core = w.c → o.block = w.g.block → ∀ q ∈ ws, ∀ l ∈ lanes, q.handle ≠ l.handle) →
        Unfenced s w → Forks s w (.tvcut k d a) .gt 14 0 (.cut lanes) id)
      ∧ (inService w.g = true → m ≠ 0 → w.g.spilled = 0 → ∃ t h, exec (.tvret k a) s = .next t ∧ t.group? w.c w.slot = some h
          ∧ h.live = w.g.live &&& ~~~m ∧ Without h m
          ∧ (∀ (l : Nat) (c : Call), w.g.service[l]? = some c →
              h.service[l]? = some (if m.getLsbD l then { c with reply := some (laneV s w a l) } else c))
          ∧ (∀ b, Memory.read t.mem b = Memory.read s.mem b) ∧ (t.core w.c).rows = (s.core w.c).rows ∧ t.ops = s.ops)
      ∧ LaneResult s w (.tvstat k d a) d m fun l =>
          match (walksOn s w.c w.g.ctx).find? fun p => p.1.block == w.g.block && p.2.handle == (laneV s w a l).toNat with
          | none => 0
          | some (_, q) =>
            let calling : Bool := match q.point with
              | .entering _ none => true
              | .leaving _ none => true
              | .leavingFrame _ none => true
              | .pruning _ _ _ rs => rs.any Option.isNone
              | _ => false
            BitVec.ofNat 32 ((if q.cuts ≠ [] then 3 else if calling then 2 else 1) + ((q.hot.head?.map fun e => e.depth).getD 0) * 2 ^ 12
              + min (q.hot.length + q.spilled) 255 * 2 ^ 24)

/-- TVWALK, TVRESUME, TVCUT, TVRET and TVSTAT complete (22 R284, R285, R296 to R299). -/
def Obligations.Walks : Prop := WalksStart ∧ WalkControl

/-- A walk of an operation as it stands after an event, while the operation is in flight. -/
def WalkAt (t : State) (o : Op) (q : Walk) : Prop :=
  ∃ (o' : Op) (d : Nat) (ws : List Walk), t.op? o.id = some o' ∧ o'.kind = .walks d ws ∧ (ws.find? fun v => v.lane == q.lane) = some q

/-- WALK_VISIT: a walk with an empty stack ends with DONE, its status word written, and the operation completes with its last walk, whatever
its block's phase; else it pops its top entry, and one whose kind is null or invalid, or whose address is, ends it with NODE_INVALID; the visit
begins, with no enter call where its kind has none (22 R287, R292, R307). -/
def Obligations.WalkVisits : Prop :=
  ∀ (s : State) (o : Op) (x : Ctx) (b : Block) (d : Nat) (ws : List Walk) (q : Walk), s.op? o.id = some o → s.ctx? o.ctx = some x →
    (s.core o.core).block? o.block = some b → o.kind = .walks d ws → (ws.find? fun v => v.lane == q.lane) = some q →
    opWaits s o q.lane = false → replPending s o = false →
    (∀ g, q.point = .boundary → q.cuts = [] → q.hot = [] → s.group? o.core o.slot = some g → q.lane < 32 → isG0 g d q.lane = false →
        ∃ t h, exec (.walkVisit o.id q.lane) s = .next t ∧ t.group? o.core o.slot = some h
          ∧ rawV (t.core o.core) h d q.lane = BitVec.ofNat 32 (min q.visited 0xFFFFFF)
          ∧ ((∃ v ∈ ws, v.lane ≠ q.lane ∧ v.over = false) → WalkAt t o { q with hot := [], spilled := 0, point := .ended 0, bad := 0 } ∧ h.gates = g.gates)
          ∧ ((∀ v ∈ ws, v.lane = q.lane ∨ ∃ c, v.point = .ended c ∧ walkTrap c = none) → (ws.map Walk.lane).Nodup → t.op? o.id = none
              ∧ h.gates = (g.complete o.gate o.batch).gates ∧ h.due = g.due))
    ∧ (∀ e rest k u, q.point = .boundary → q.cuts = [] → b.phase = .running → q.hot = e :: rest → q.spilled = 0 →
        readKind s o x b q e.kind = .ok (k, u) → k.empty = false → k.valid = true → e.node % 16 = 0 → e.node < 2 ^ 57 →
        ∃ t, exec (.walkVisit o.id q.lane) s = .next t ∧ WalkAt t o { q with hot := rest, visited := q.visited + 1, point := .visiting e }
          ∧ ∀ a, Memory.read t.mem a = Memory.read s.mem a)
    ∧ (∀ e k u, q.point = .visiting e → readKind s o x b q e.kind = .ok (k, u) → k.enter = 0 → ∃ t, exec (.walkVisit o.id q.lane) s = .next t
        ∧ WalkAt t o { q with point := .entering e (some 0) } ∧ ∀ a, Memory.read t.mem a = Memory.read s.mem a)
    ∧ (∀ e rest k u, q.point = .boundary → q.cuts = [] → b.phase = .running → q.hot = e :: rest → q.spilled = 0 → readKind s o x b q e.kind = .ok (k, u) →
        (k.empty = true ∨ k.valid = false ∨ e.node % 16 ≠ 0 ∨ 2 ^ 57 ≤ e.node ∧ e.node < 2 ^ 64) → (∃ v ∈ ws, v.lane ≠ q.lane ∧ v.over = false) →
        ∃ t, exec (.walkVisit o.id q.lane) s = .next t ∧ WalkAt t o { q with hot := [], spilled := 0, point := .ended 4, bad := 0 })

/-- After a service group is formed of calls: its lanes are the calls in order, at the routine's address, with the start state and the
registers of a call (22 R293). -/
def ServiceFormed (t : State) (core : Nat) (b : Block) (row slot : Nat) (mine : List Call) (pc : PC) : Prop :=
  ∃ g, t.group? core slot = some g ∧ g.service = mine ∧ g.live = maskOf (List.range mine.length) ∧ g.allot = 64 ∧ g.first = row
    ∧ g.block = b.id ∧ g.blockIndex = b.blockIndex ∧ g.groupIndex = 31 ∧ g.role = 0 ∧ g.stack = [] ∧ g.tvec = 0
    ∧ g.splits = [⟨0, pc, maskOf (List.range mine.length), 0, .none, 0, false⟩]
    ∧ g.gates = List.replicate 5 ⟨0, 0, []⟩ ∧ (∀ k, 1 ≤ k → k ≤ 7 → rawK g k = 0)
    ∧ (∀ l c, mine[l]? = some c → rawV (t.core core) g 0 l = BitVec.ofNat 32 c.handle
        ∧ rawV (t.core core) g 1 l = BitVec.ofNat 32 (c.node % 2 ^ 32) ∧ rawV (t.core core) g 2 l = BitVec.ofNat 32 (c.node / 2 ^ 32)
        ∧ rawV (t.core core) g 3 l = BitVec.ofNat 32 (c.depth % 4096 + c.nodeKind % 16 * 2 ^ 12
            + (match c.kind with | .enter => 0 | .prune => 2 ^ 16 + c.child % 16 * 2 ^ 18 | .leave => 2 ^ 17))
        ∧ (∀ j, j < 16 → rawV (t.core core) g (4 + j) l = BitVec.ofNat 32 (numOf ((c.payload.drop (4 * j)).take 4)))
        ∧ rawV (t.core core) g 20 l = BitVec.ofNat 32 (c.query % 2 ^ 32) ∧ rawV (t.core core) g 21 l = BitVec.ofNat 32 (c.query / 2 ^ 32))
    ∧ (∀ n l, n < 64 → l < 32 → (22 ≤ n ∨ mine.length ≤ l) → rawV (t.core core) g n l = 0)

/-- Service groups: formed of up to 32 calls of one routine when 32 wait or the oldest has waited 64 cycles, the routine whose oldest call
is oldest; a return delivers the action
words and ends the group. TVCUT_COMPLETE completes a TVCUT whose records are written (22 R288, R293, R297). -/
def Obligations.ServiceGroups : Prop :=
  ∀ (s : State) (core row slot : Nat) (b : Block), (s.core core).block? b.id = some b → b.routineRow = some row → b.routineSlot = some slot →
    (∀ c, serves s b = true → (s.core core).group? slot = none →
        (b.calls.find? fun c => decide (32 ≤ (b.calls.filter fun d => d.routine == c.routine).length) || decide (64 ≤ c.waited)) = some c →
        32 ≤ (b.calls.filter fun d => d.routine == c.routine).length → ∃ t f, exec (.serviceGroupForm core b.id) s = .next t ∧ (b.calls.filter fun d => d.routine == c.routine).head? = some f
          ∧ ServiceFormed t core b row slot ((b.calls.filter fun d => d.routine == c.routine).take 32) f.pc)
    ∧ (∀ c rest, serves s b = true → (s.core core).group? slot = none → b.calls = c :: rest → 64 ≤ c.waited →
        ∃ t, exec (.serviceGroupTimeout core b.id) s = .next t
          ∧ ServiceFormed t core b row slot ((b.calls.filter fun d => d.routine == c.routine).take 32) c.pc)
    ∧ (∀ g c o ws d q e, ((s.core core).groups.find? fun g => g.block == b.id && !g.service.isEmpty) = some g → g.slot = slot → g.ended = true →
        g.quiet = true → writesPerformed s core g g.nextSeq .package = true → g.service = [c] → s.op? c.op = some o → o.kind = .walks d ws →
        (ws.find? fun v => v.lane == c.lane) = some q → q.point = .entering e none →
        ∃ t, exec (.routineReturn core b.id) s = .next t ∧ t.group? core slot = none
          ∧ WalkAt t o { q with point := .entering e (some (c.reply.getD 0)) })
    ∧ (∀ (o : Op) (ls : List CutLane) (x : Ctx) (g : Group), s.op? o.id = some o → s.ctx? o.ctx = some x → o.kind = .cut ls →
        s.group? o.core o.slot = some g → (∀ l ∈ ls, l.made = some true) → replPending s o = false → ∃ t h, exec (.tvcutComplete o.id) s = .next t
          ∧ t.op? o.id = none ∧ t.group? o.core o.slot = some h ∧ h.gates = (g.complete o.gate o.batch).gates ∧ h.due = g.due)

/-! Galleys (22 R300 to R306). -/

/-- A uniform instruction whose result is held: it has issued, HELD_UNIFORM_RESULT will write `v` to G(gd), and nothing else changes (12
R159). -/
def Answers (s : State) (w : Issuer) (i : Instr) (d : Nat) (v : DWord) : Prop :=
  ∃ t, exec i s = .next t ∧ Stands t w { w.sp with pc := nextPc w, hold := .heldResult, heldFor := 0 }
    ∧ Near s t w noKeys (GroupBy fun g => { g with held := g.held ++ [⟨w.idx, d, v, none, s.nextId, 0, none⟩] })

/-- As `Answers`, and the rest of the package is that of `u`. -/
def AnswersIn (s : State) (w : Issuer) (i : Instr) (d : Nat) (v : DWord) (u : State → State) : Prop :=
  ∃ t, exec i s = .next t ∧ Stands t w { w.sp with pc := nextPc w, hold := .heldResult, heldFor := 0 }
    ∧ Near (u s) t w noKeys (GroupBy fun g => { g with held := g.held ++ [⟨w.idx, d, v, none, (u s).nextId, 0, none⟩] })

/-- GPUT and GTAKE fork on gt the transfers of their active lanes; GINFO gives a galley's counter, or ones; GBIND with VA 0 ends a binding,
and gives status 1 for another context's galley and 3 for one in use (22 R303, R305, R306). -/
def Obligations.GalleyInstructions : Prop :=
  ∀ (s : State) (w : Issuer) (k : KReg) (d a : VReg) (e b c : GReg), Issues s w → d.val < w.g.allot → a.val < w.g.allot →
    s.feature 3 = true →
    let m := activeOf s w k
    let named := fun (l : Nat) => (laneV s w d l).toNat
    let at_ := fun (l : Nat) => (laneV s w a l).toNat
    let lanes := (lanesOf m).map fun l => (⟨l, named l, at_ l, none, none, none, none⟩ : GalleyLane)
    let charge := chargeOf s 13 0
    let g := (uniG s w b).toNat % 4096
    let h := (uniG s w c).toNat % 4096
    (∀ p ∈ [((Instr.gput k d a, .put d lanes) : Instr × OpKind), (.gtake k d a, .take d lanes)], m ≠ 0 →
        (∀ l ∈ lanesOf m, named l < 4096 ∧ (∃ y, s.galley? (named l) = some y ∧ y.ctx = w.g.ctx ∧ at_ l + 2 ^ y.recLog ≤ (ownScratch w).2)
          ∧ at_ l < 2 ^ 19 ∧ at_ l % 16 = 0) → admitMine s w 13 charge = .go → Unfenced s w → Forks s w p.1 .gt 13 charge p.2 id)
      ∧ (∀ y, s.galley? g = some y → y.ctx = w.g.ctx → Answers s w (.ginfo e b c) e
          (match (uniG s w c).toNat % 8 with
          | 0 => (y.tail - y.head).setWidth 64
          | 1 => y.overflow.setWidth 64
          | 2 => y.outstanding.setWidth 64
          | 3 => y.head.setWidth 64
          | 4 => y.tail.setWidth 64
          | _ => BitVec.allOnes 64))
      ∧ ((∀ y, s.galley? g = some y → y.ctx ≠ w.g.ctx) → Answers s w (.ginfo e b c) e (BitVec.allOnes 64))
      ∧ (∀ y, s.galley? h = some y → y.ctx ≠ w.g.ctx → Answers s w (.gbind e b c) e 1)
      ∧ (∀ y, s.galley? h = some y → y.ctx = w.g.ctx → (y.tail ≠ y.head ∨ y.slots ≠ [] ∨ y.outstanding ≠ 0) → Answers s w (.gbind e b c) e 3)
      ∧ (∀ y, s.galley? h = some y → y.ctx = w.g.ctx → y.tail = y.head → y.slots = [] → y.outstanding = 0 → uniG s w b = 0 →
          AnswersIn s w (.gbind e b c) e 0 fun s => { s with galleys := s.galleys.filter fun z => z.id != h })
      ∧ (s.galley? h = none → uniG s w b = 0 → Answers s w (.gbind e b c) e 0)
      ∧ (∀ bs u, s.galley? h = none → uniG s w b ≠ 0 → (uniG s w b).toNat < 2 ^ 57 → (uniG s w b).toNat % 64 = 0 →
          readVa s (.core w.c) (ctxOf s w) (uniG s w b).toNat 64 = (.ok bs, u) → galleyDescOk bs (galleyOf h (ctxOf s w).id bs) = true →
          fieldOf bs 0x18 8 = 0 → AnswersIn s w (.gbind e b c) e 0 fun _ => { u with galleys := u.galleys ++
            [{ id := h, ctx := (ctxOf s w).id, ring := fieldOf bs 0 8, recLog := fieldOf bs 8 1, capLog := fieldOf bs 9 1,
               thresh := fieldOf bs 12 4, consumer := 0, doneSig := fieldOf bs 0x28 8, head := 0, tail := 0, overflow := 0,
               outstanding := 0, slots := [], launches := 0, live := [], idle := 0 }] })

/-- The reservations of a put or a take reach the galley; a put's record is published when its write is performed; the operation completes
with every lane's result in V(vd) (22 R301, R303). -/
def GalleyTransfers : Prop :=
  ∀ (s : State) (o : Op) (d : Nat) (l : GalleyLane) (y : Galley), s.op? o.id = some o → s.galley? l.galley = some y →
    (o.kind = .put d [l] → l.slot = none → l.result = none → ∃ t o', exec (.galleyReservation o.id) s = .next t ∧ t.op? o.id = some o'
        ∧ (y.slots.length < 2 ^ y.capLog → o'.kind = .put d [{ l with slot := some y.tail.toNat }]
            ∧ t.galley? l.galley = some { y with slots := y.slots ++ [(y.tail.toNat, .reserved)], tail := y.tail + 1,
                                                 outstanding := y.outstanding + 1 })
        ∧ (2 ^ y.capLog ≤ y.slots.length → o'.kind = .put d [{ l with result := some 0 }]
            ∧ t.galley? l.galley = some { y with overflow := y.overflow + 1 }))
    ∧ (o.kind = .take d [l] → l.slot = none → l.result = none → ∃ t o', exec (.galleyReservation o.id) s = .next t ∧ t.op? o.id = some o'
        ∧ ((y.slots.find? fun p => p.1 == y.head.toNat) = some (y.head.toNat, .published) →
            o'.kind = .take d [{ l with slot := some y.head.toNat }] ∧ t.galley? l.galley = some { y with head := y.head + 1 })
        ∧ (((y.slots.find? fun p => p.1 == y.head.toNat) = none ∨ (y.slots.find? fun p => p.1 == y.head.toNat) = some (y.head.toNat, .reserved)) →
            o'.kind = .take d [{ l with result := some 0 }] ∧ t.galley? l.galley = some y))
    ∧ (∀ (x : Ctx) (n : Nat) (bs : List Byte) (p : Page) (u : State), Memory.wf s.mem = true → s.ctx? o.ctx = some x → o.kind = .put d [l] →
        l.slot = some n → l.result = none → l.bytes = some bs → bs ≠ [] → opWaits s o l.lane = false → replPending s o = false →
        engineSpans s o x l.lane 1 .store (y.ring + 2 ^ y.recLog * (n % 2 ^ y.capLog)) bs.length = .ok [(p, bs.length)] u → p.repl = false →
        ∃ t o', exec (.galleyPublish o.id l.lane) s = .next t ∧ t.op? o.id = some o' ∧ o'.kind = .put d [{ l with result := some 1 }]
          ∧ (∀ a, Memory.read t.mem a = writtenOver (cellsOf p.pa bs) a (Memory.read s.mem a))
          ∧ ∃ z, t.galley? l.galley = some z ∧ z = { y with slots := z.slots } ∧ ∀ q, q ∈ z.slots ↔
              (q ∈ y.slots ∧ q.1 ≠ n) ∨ (q = (n, .published) ∧ ∃ v, (n, v) ∈ y.slots))
    ∧ (∀ g v, s.group? o.core o.slot = some g → (o.kind = .put d [l] ∨ o.kind = .take d [l]) → l.result = some v → l.faulted = none →
        isG0 g d l.lane = false → ∃ t h, exec (.galleyOpComplete o.id) s = .next t ∧ t.op? o.id = none
          ∧ t.group? o.core o.slot = some h ∧ rawV (t.core o.core) h d l.lane = v ∧ h.gates = (g.complete o.gate o.batch).gates ∧ h.due = g.due)

/-- The agent launches one more consumer block when THRESH × (W + 1) records are available, or after 4,096 cycles with none waiting (22
R304): the core can hold it, and it is admitted, before its place is reserved and with its place (18 R260). -/
def ConsumerLaunches : Prop :=
  ∀ (s t u : State) (y : Galley) (x : Ctx) (r : Launch) (core : Nat) (p : Placement) (made : Core) (table : List (Nat × Nat × Nat))
    (routine : Option (Nat × Nat)), s.galley? y.id = some y → y.consumer ≠ 0 → ctxForWork s y.ctx = (some x, t) →
    readLaunch t (.core core) x y.consumer (boundConsumer t x.id) = (.ok r, u) →
    u.holdsCluster x.func (Config.clusterIndex (Config.dieOf core) (Config.clusterOf core)) = true → r.share (Config.dieOf core) ≠ 0 →
    (r.maxLive = 0 ∨ (consumersOf u y).length < r.maxLive) → x.phase = .idle → admits u x core r = true →
    agentCarve (u.core core) r p = some (made, table, routine) →
    let n := placeBlock (u.setCore made) core x r (y.launches % 2 ^ 32) 0 p.spbase table routine none
    ((n.2.core core).block? n.1).map Block.rec_ = some r → admits n.2 x core r = true →
    let launched := fun (i : Instr) => ∃ v id, exec i s = .next v
      ∧ v.galley? y.id = some { y with launches := y.launches + 1, live := y.live ++ [(core, id)], idle := 0 }
    (y.thresh * (waitingConsumers s y + 1) ≤ y.avail → launched (.galleyConsumerLaunch y.id core p))
      ∧ (0 < y.avail → waitingConsumers s y = 0 → 4096 ≤ y.idle → launched (.galleyConsumerTimer y.id core p))

/-- Reservations, publications and completions of galley operations, and the consumer launches they lead to (22 R301 to R304). -/
def Obligations.GalleyEvents : Prop := GalleyTransfers ∧ ConsumerLaunches

/-! The exchange and the fabric (24 R309 to R319, 28 R354 to R366). -/

/-- The ends of every core are as before but for those of binding `id`, changed by `f`. -/
def EndsBy (s t : State) (id : Nat) (f : ChanEnd → ChanEnd) : Prop :=
  ∀ c, (t.core c).ends = (s.core c).ends.map fun e => if e.id = id then f e else e

/-- XPERMIT raises its end's GRANTED and holds its split until the grants leave; XSEND forks a send on gx, numbers it and counts it in SENT;
XSTAT gives an end's word; XBIND binds an end and initialises its object (24 R309, R315 to R318). -/
def Obligations.ExchangeInstructions : Prop :=
  ∀ (s : State) (w : Issuer) (d a b : GReg), Issues s w → inService w.g = false → s.feature 4 = true →
    let v := (uniG s w a).toNat
    let x := (uniG s w b).toNat
    (∀ q, v % 8 + 2 ^ 8 * (v / 2 ^ 8) = v → 1 ≤ v / 2 ^ 8 → v / 2 ^ 8 ≤ 16 → w.core.endOf w.g.block (v % 8) = some q → q.sender = false →
        q.state = .live → (q.granted + BitVec.ofNat 32 (v / 2 ^ 8) - q.count).toInt ≤ q.desc.slots →
        ∃ t, exec (.xpermit a) s = .next t ∧ Stands t w { w.sp with pc := nextPc w, hold := .xpermit q.id (v / 2 ^ 8), heldFor := 0 }
          ∧ EndsBy s t q.id (fun e => { e with granted := e.granted + BitVec.ofNat 32 (v / 2 ^ 8) }) ∧ t.grants = s.grants
          ∧ (∀ p, peerOf s q = some p → ∃ h, t.group? w.c w.slot = some h ∧ h.permits = w.g.permits ++ [⟨w.idx, q.id, p.id, v / 2 ^ 8⟩])
          ∧ ∀ a, Memory.read t.mem a = Memory.read s.mem a)
    ∧ (let bytes := x / 2 ^ 8
       let at_ := v % 2 ^ 32
       ∀ q, x % 8 + 2 ^ 8 * bytes = x → w.core.endOf w.g.block (x % 8) = some q → q.sender = true →
        q.state = .live → 0 < (q.granted - q.count).toInt → bytes ≠ 0 → bytes < 2 ^ 17 → bytes % 16 = 0 → bytes ≤ q.desc.slotBytes →
        at_ < 2 ^ 19 → at_ + bytes ≤ (ownScratch w).2 → at_ % 16 = 0 → admitMine s w 10 (chargeOf s 10 bytes) = .go → Unfenced s w →
        ∃ t, exec (.xsend d a b) s = .next t ∧ GoesOn t w (nextPc w) ∧ HoldsG t w d (BitVec.ofNat 64 q.count.toNat)
          ∧ (∃ z, t.ops = s.ops ++ [forkedOp s w .gx 10 (chargeOf s 10 bytes) (.send z)]
              ∧ (z.sender = q.id ∧ z.number = q.count ∧ z.src = scratchBase w + at_ ∧ z.bytes = bytes ∧ z.landbar = q.desc.landbar
                ∧ z.landing = q.desc.landing + (q.count.toNat % q.desc.slots) * q.desc.slotBytes 
                ∧ z.unread = List.range (bytes / 16) ∧ z.sent = [] ∧ z.cut = false ∧ z.applied = false)
              ∧ ∀ r c e b, peerOf s q = some r → endAt s r.id = some (c, e, b) → z.receiver = r.id ∧ z.core = c ∧ z.block = b.id ∧ z.tag = r.tag)
          ∧ EndsBy s t q.id (fun e => { e with count := e.count + 1 }) ∧ (∀ a, Memory.read t.mem a = Memory.read s.mem a)
          ∧ ∀ k, ¬ GKeys w.g d k → (t.core w.c).rows.word k = (s.core w.c).rows.word k)
    ∧ UniResult s w (.xstat d a) d (match w.core.endOf w.g.block (v % 8) with
        | none => 0
        | some e => BitVec.ofNat 64 ((match e.state with | .half => 1 | .live => 2 | .broken => 3) + (if e.sender then 4 else 0)
            + e.desc.slots * 2 ^ 8 + e.count.toNat % 2 ^ 16 * 2 ^ 32 + e.granted.toNat % 2 ^ 16 * 2 ^ 48))
    ∧ (∀ bs u, let sender := x / 8 % 2 == 1
       let e := chanDescOf bs
       let object := fun (n : Nat) => bytesOf 4 0 ++ bytesOf 2 n ++ bytesOf 2 n ++ bytesOf 4 0 ++ bytesOf 1 9 ++ bytesOf 3 0
       x < 16 → v < 2 ^ 57 → v % 64 = 0 → readVa s (.core w.c) (ctxOf s w) v 64 = (.ok bs, u) → bindStatus u w (x % 8) sender v e = 0 →
        (∀ p ∈ boundEnds u, p.ctx = w.g.ctx → p.descVa = v → p.sender = sender ∨ p.state = .broken) →
        ∃ t y, exec (.xbind d a b) s = .next t ∧ Stands t w { w.sp with pc := nextPc w, hold := .heldResult, heldFor := 0 }
          ∧ (t.core w.c).ends = (s.core w.c).ends ++ [y] ∧ y.index = x % 8 ∧ y.ctx = w.g.ctx ∧ y.block = w.g.block ∧ y.sender = sender
          ∧ y.state = .half ∧ y.desc = e ∧ y.count = 0 ∧ y.granted = 0 ∧ t.grants = s.grants
          ∧ ∀ o, (t.core w.c).scratch.byte o = ((overBytes ⟨w.c, scratchBase w + (if sender then e.permit else e.landbar)⟩
              (object (if sender then 0 else 1)) noBytes) w.c o).getD ((s.core w.c).scratch.byte o))
    ∧ (16 ≤ x → x < 32 → w.core.endOf w.g.block (x % 8) = none → Answers s w (.xbind d a b) d 1)

/-- An update of the cycle stands for its object (05 R68). -/
def Updates (s t : State) (u : Update) : Prop := ∀ v, v ∈ t.updates ↔ v = u ∨ v ∈ s.updates

/-- GRANT_SEND sends the grants of an XPERMIT on their way; PERMIT_GRANT raises the sender's permit object; an XSEND reads its bytes
and lands them at the receiver 16 at a time, in any order, and XSEND_LANDING then arrives at its landing barrier with their count (13 R202,
24 R313, R314, R316, R317; that an access is 16 bytes is the model's choice, log 70). -/
def ExchangeEvents : Prop :=
  ∀ (s : State) (core slot split : Nat) (g : Group) (sp : Split), s.group? core slot = some g →
    (∀ p rest, g.split? split = some sp → g.permits = p :: rest → p.split = split → g.la.all LaResult.poisonReady = true →
        g.parts.isEmpty = true → ∃ t, exec (.grantSend core slot split) s = .next t
          ∧ t.grants = s.grants ++ List.replicate p.count ⟨p.peer, false⟩
          ∧ ∃ h, t.group? core slot = some h ∧ h.permits = rest
            ∧ (sp.hold = .xpermit p.own p.count → (∀ q ∈ rest, q.split ≠ split) → h.split? split = some { sp with hold := .none, heldFor := 0 }))
    ∧ (∀ q rest c e b, s.grants = q :: rest → q.applied = false → endAt s q.binding = some (c, e, b) → b.phase ≠ .finished .save → ∃ t, exec (.permitGrant 0) s = .next t ∧ t.grants = { q with applied := true } :: rest
          ∧ Updates s t ⟨c, b.spbase + e.desc.permit, (3, 0), false, false, 0, 0, .credit e.ctx none (BitVec.ofNat 64 e.desc.permit)⟩)
    ∧ (∀ o x, s.op? o.id = some o → o.kind = .send x →
        (∀ n j, x.unread[n]? = some j → exec (.engineAccess o.id n) s = .next (s.setOpKind o.id (.send { x with
            unread := x.unread.erase j, sent := x.sent ++ [(j, (s.core o.core).markedBytes (x.src + 16 * j) 16)] })))
        ∧ (∀ n j bs c b, x.sent[n]? = some (j, bs) → x.cut = false → sendParked s x = false → landingBlock s x = some (c, b) →
            ∃ t, exec (.engineAccess o.id (x.unread.length + n)) s = .next t
              ∧ t.op? o.id = some { o with kind := .send { x with sent := x.sent.eraseIdx n } }
              ∧ ∀ a, (t.core c).scratch.byte a = if b.spbase + x.landing + 16 * j ≤ a ∧ a < b.spbase + x.landing + 16 * j + bs.length
                  then ((bs[a - (b.spbase + x.landing + 16 * j)]?).map Prod.fst).getD 0 else (s.core c).scratch.byte a))
    ∧ (∀ o x c b, s.op? o.id = some o → o.kind = .send x → x.unread = [] → x.sent = [] → x.cut = false → sendTurn s x = true →
        sendParked s x = false → landingBlock s x = some (c, b) → ∃ t, exec (.xsendLanding o.id) s = .next t
          ∧ t.op? o.id = some { o with kind := .send { x with applied := true } }
          ∧ (∀ a, (t.core c).scratch.byte a = (s.core c).scratch.byte a)
          ∧ Updates s t ⟨c, b.spbase + x.landbar, (2, 0), true, false, x.bytes, x.bytes,
              .credit o.ctx (some (o.id, 0)) (BitVec.ofNat 64 x.landbar)⟩)

/-- FBULK forks its transfer on gx as messages of at most 256 bytes; FSTAT gives the port's word, of which only what the manual leaves open
is free (28 R360, R362, R366). -/
def Obligations.FabricInstructions : Prop :=
  ∀ (s : State) (w : Issuer) (d b : GReg) (a : Fin 16), Issues s w → s.feature 5 = true →
    (let r := fun (j : Nat) => (uniG s w (4 * a.val + j)).toNat
     let bytes := r 0 / 2 ^ 32
     let loc := r 0 % 2 ^ 32
     let port := r 2 % 8
     let op := r 2 / 8 % 8
     let kind := r 2 / 64
     let charge := chargeOf s 11 bytes
     let credit := r 3 / 2 ^ 32 == 1
     ((kind = 0 ∧ op ≤ 4 ∧ (op = 1 ∨ credit = false) ∧ port = 0 ∧ r 1 < 2 ^ 57 ∧ r 1 % (if 2 ≤ op then 4 else 16) = 0)
        ∨ ((kind = 1 ∨ kind = 2) ∧ op = 0 ∧ r 1 < 2 ^ 39)) →
      r 3 < 2 ^ 33 → bits (r 3) 19 13 = 0 → 16 ≤ bytes → bytes ≤ 1048576 → bytes % 16 = 0 → loc < 2 ^ 19 → loc + bytes ≤ (ownScratch w).2 →
      loc % 16 = 0 → admitMine s w 11 charge = .go → Unfenced s w → Forks s w (.fbulk d a) .gx 11 charge (.bulk
        { gd := d.val, loc := loc, bytes := bytes, remote := r 1, port := port, op := op, kind := kind, barrier := r 3 % 2 ^ 19,
          credit := credit, key := (ctxOf s w).keyid.toNat, slot := keySlot s (ctxOf s w) (ctxOf s w).keyid.toNat,
          messages := (List.range ((bytes + 255) / 256)).map fun j => ⟨256 * j, min 256 (bytes - 256 * j), none, false, false, 0, 0, false⟩ }) id)
    ∧ ∃ v, AnswersIn s w (.fstat d b) d v (fun s => { s with free := s.free + 2 })
        ∧ (let p := s.dev.ports.getD ((uniG s w b).toNat % 8) ⟨0, 0, false, 0⟩
           v.toNat % 4 = p.link % 4 ∧ v.toNat / 2 ^ 48 = p.replays % 2 ^ 16 ∧ v.toNat / 2 ^ 16 % 2 ^ 16 ≤ 4
            ∧ (s.keyOwner (ctxOf s w).keyid.toNat = none → v.toNat / 2 ^ 16 % 2 ^ 16 = 0)
            ∧ v.toNat / 2 ^ 32 % 2 ^ 16 ≤ 2048 - 4 * min 256 s.dev.keys.length
            ∧ (p.sent = false → v.toNat / 2 ^ 16 % 2 ^ 16 = 0 ∧ v.toNat / 2 ^ 32 % 2 ^ 16 = 0))

/-- Messages land at the scratchpad of a GET's issuer or at the attic memory of a PUT, whose traffic authenticates or gives status 3, and
the transfer completes with its status; a message from another package lands where it is accepted; links go up and down and count their
replays (28 R358, R361 to R366). -/
def FabricEvents : Prop :=
  ∀ (s : State) (o : Op) (x : Ctx) (b : Bulk) (m : Message) (bs : List (Byte × Bool)) (port link : Nat), Memory.wf s.mem = true →
    (s.op? o.id = some o → s.ctx? o.ctx = some x → o.kind = .bulk b → b.messages = [m] → m.spent = false → m.bytes = some bs →
      opWaits s o 0 = false → bs.length = m.len → (∀ p ∈ bs, p.2 = false) →
      (b.kind = 0 → b.op = 1 → b.credit = false → ∃ t, exec (.fbulkLanding o.id 0) s = .next t
          ∧ t.op? o.id = some { o with kind := .bulk { b with messages := [{ m with spent := true, landed := true }] } }
          ∧ (let at_ := (allocOf s o.core o.block).1 + b.loc + m.off
             ∀ z, (t.core o.core).scratch.byte z = if at_ ≤ z ∧ z < at_ + m.len then ((bs[z - at_]?).map Prod.fst).getD 0
               else (s.core o.core).scratch.byte z) ∧ ∀ z, Memory.read t.mem z = Memory.read s.mem z)
      ∧ (∀ p u, b.kind = 0 → b.op = 0 → atticPlaces s o x b 0 m .store = .ok ([(p, m.len)], u) → p.repl = false →
          keyUsable u b (atticPort p.pa) = true → ∃ t k n, exec (.fbulkLanding o.id 0) s = .next t
            ∧ t.op? o.id = some { o with kind := .bulk { b with messages := [n], slot := k } }
            ∧ k.map KeySlot.key = b.slot.map KeySlot.key
            ∧ ((bulkTrip u o b (atticPort p.pa)).1 = true → n = { m with spent := true, landed := true }
                ∧ ∀ z, Memory.read t.mem z = writtenOver (cellsOf p.pa (bs.map Prod.fst)) z (Memory.read s.mem z))
            ∧ ((bulkTrip u o b (atticPort p.pa)).1 = false → n = m.refused 3 0))
      ∧ (b.kind = 2 → m.blocked = false → ∃ t, exec (.branchBlocked o.id) s = .next t
            ∧ t.op? o.id = some { o with kind := .bulk { b with messages := [{ m with blocked := true }] } }
            ∧ t.mem = (postEvent s o.ctx .branchBlocked 0xFFFF b.port b.remote (groupSource o.core o.slot)).mem))
    ∧ (∀ g, s.op? o.id = some o → o.kind = .bulk b → (∀ m ∈ b.messages, m.spent = true ∧ m.code = 0) → creditsSettled s o = true → replPending s o = false →
        s.group? o.core o.slot = some g → ∃ t h, exec (.fbulkComplete o.id) s = .next t ∧ t.op? o.id = none
          ∧ t.group? o.core o.slot = some h ∧ h.gates = (g.complete o.gate o.batch).gates ∧ h.due = g.due
          ∧ (b.gd ≠ 0 → rawG (t.core o.core) h b.gd = BitVec.ofNat 64 (total (b.messages.map fun m => if m.landed then m.len else 0) / 16)))
    ∧ (∀ (q : FabricMessage) f k, let c := Config.coreIndex q.die q.cluster q.core
        q.port < 8 → portUp s q.port = true → s.keyOwner q.key = some f → q.authentic = true → q.die < 12 →
        q.cluster < Config.clustersOf q.die → q.core < (if q.die < 4 then 16 else 8) → (s.core c).blocks = [k] →
        k.phase.outside = false → k.phase ≠ .finished .save → (s.ctx? k.ctx).map Ctx.func = some f → q.offset % 16 = 0 → q.offset + q.bytes.length ≤ k.rec_.scratch → q.credit = false →
        ∃ t, exec (.fabricMessageReceive q) s = .next t ∧ ∀ z, (t.core c).scratch.byte z
          = if k.spbase + q.offset ≤ z ∧ z < k.spbase + q.offset + q.bytes.length then (q.bytes[z - (k.spbase + q.offset)]?).getD 0
            else (s.core c).scratch.byte z)
    ∧ (∀ p, s.dev.ports[port]? = some p →
        (portUp s port = true → link ≠ 2 → link < 4 → ∃ t, exec (.fabricLink port link) s = .next t
            ∧ (∃ q, t.dev.ports[port]? = some q ∧ q.link = link ∧ q.replays = p.replays)
            ∧ ∀ j, j ≠ port → (t.dev.ports[j]?).map (fun q => (q.link, q.replays)) = (s.dev.ports[j]?).map fun q => (q.link, q.replays))
        ∧ (portUp s port = false → s.dev.service = .full → link ≠ 2 → link < 4 → ∃ t, exec (.fabricLink port link) s = .next t
            ∧ t.dev.ports[port]? = some { p with link := link } ∧ ∀ j, j ≠ port → t.dev.ports[j]? = s.dev.ports[j]?)
        ∧ (portUp s port = false → s.dev.service = .full → ∃ t, exec (.fabricLinkUp port) s = .next t
            ∧ t.dev.ports[port]? = some { p with link := 2 } ∧ ∀ j, j ≠ port → t.dev.ports[j]? = s.dev.ports[j]?)
        ∧ ∃ t, exec (.linkLevelRetry port) s = .next t ∧ t.dev.ports[port]? = some { p with replays := (p.replays + 1) % 2 ^ 16 }
            ∧ ∀ j, j ≠ port → t.dev.ports[j]? = s.dev.ports[j]?)

/-- What the exchange and the fabric deliver: grants, permits, sends, messages, transfers and link states (24 R313 to R316, 28 R358, R361 to
R366). -/
def Obligations.LinkEvents : Prop := ExchangeEvents ∧ FabricEvents

/-! The firmware agents (12 R189 to R197). -/

/-- The privileged instructions trap with PRIVILEGE in a group that is no agent's; LEASE answers a row's state and claims or releases it;
CARVE answers 0 with the table it fills or the status of its failure; TLBINV forks an invalidation; KEYSET loads or clears a key slot and
zeroes its record (12 R189, R190, R192, R196, R197). -/
def Obligations.AgentInstructions : Prop :=
  ∀ (s : State) (w : Issuer) (d a b : GReg), Issues s w →
    let v := (uniG s w a).toNat
    let x := (uniG s w b).toNat
    let r := v % 64
    let free := fun (i : Instr) => Traps s w i .privilege w.sp.pc (wordOf i) 0
    (w.g.first ≠ 0 → free (.lease d a) ∧ free (.carve d a b) ∧ free (.dispatch d a) ∧ free (.ctxsave d a b) ∧ free (.ctxload d a b)
      ∧ free (.tlbinv a b) ∧ free (.keyset d a b))
    ∧ (w.g.first = 0 →
      (let old := w.core.lease r
       let word := BitVec.ofNat 64 old.number
       let op := v / 2 ^ 8 % 4
       (op = 1 → old = .free → AnswersIn s w (.lease d a) d 0 fun s => s.modCore w.c fun y => y.setLease r .claimed)
        ∧ (op = 2 → old = .claimed → AnswersIn s w (.lease d a) d 3 fun s => s.modCore w.c fun y =>
            { y with carved := y.carved.filter fun p => !(p.2.1 == r || p.2.2 == r) }.setLease r .free)
        ∧ (¬ (op = 1 ∧ old = .free) → ¬ (op = 2 ∧ old = .claimed) → Answers s w (.lease d a) d word))
      ∧ (let p := placeOf s w (v % 2 ^ 32)
         let made := carveFor w.core (readPlace s ⟨p.core, p.off + 24⟩ 8) fun r => x.testBit r
         recordFault s w 128 16 (v % 2 ^ 32) = none →
          (∀ k, made = .failed k → Answers s w (.carve d a b) d (BitVec.ofNat 64 k))
          ∧ ∀ table, made = .ok table → ∃ t, exec (.carve d a b) s = .next t
              ∧ Stands t w { w.sp with pc := nextPc w, hold := .heldResult, heldFor := 0 }
              ∧ (t.core w.c).carved = w.core.carved ++ table
              ∧ ∀ o, (t.core p.core).scratch.byte o = ((overBytes ⟨p.core, p.off + 32⟩ ((table.flatMap fun e =>
                  [BitVec.ofNat 8 e.1, BitVec.ofNat 8 e.2.1, BitVec.ofNat 8 e.2.2]) ++ List.replicate (96 - 3 * table.length) 0)
                  (overBytes ⟨p.core, p.off + 2⟩ [BitVec.ofNat 8 table.length] noBytes)) p.core o).getD ((s.core p.core).scratch.byte o))
      ∧ (let size := x / 2 ^ 12 % 4
         let kind := if x / 2 ^ 10 % 4 = 0 ∧ size = 3 then 1 else min (x / 2 ^ 10 % 4) 2
         Forks s w (.tlbinv a b) .gl 14 0 (.tlbinv (x % 1024) kind size v) id)
      ∧ (let p := placeOf s w (x % 2 ^ 32)
         let bs := readPlace s p 64
         let k := v % 256
         recordFault s w 64 16 (x % 2 ^ 32) = none →
          (keyRecordOk bs = false → Answers s w (.keyset d a b) d 1)
          ∧ (keyRecordOk bs = true → ∃ t, exec (.keyset d a b) s = .next t
              ∧ Stands t w { w.sp with pc := nextPc w, hold := .heldResult, heldFor := 0 }
              ∧ t.keyOwner k = (if fieldOf bs 33 1 % 2 = 1 then some (fieldOf bs 32 1) else none)
              ∧ (∀ j, j ≠ k → t.keyOwner j = s.keyOwner j)
              ∧ ∀ o, (t.core p.core).scratch.byte o = ((overBytes p (List.replicate 32 0) noBytes) p.core o).getD
                  ((s.core p.core).scratch.byte o))))

/-- DISPATCH of a record whose resources are in place, on a core of its partition that can hold its block, starts the block where no instance
holds it back and it is admitted, and answers 0 (12 R191, R193). -/
def Dispatches : Prop :=
  ∀ (s : State) (w : Issuer) (d a : GReg), Issues s w → w.g.first = 0 →
    let at_ := (uniG s w a).toNat % 2 ^ 32
    let q := drecordOf (readPlace s (placeOf s w at_) 128)
    let die := Config.dieOf w.c
    ∀ x t r u k0, recordFault s w 128 16 at_ = none → ctxForWork s q.ctx = (some x, t) → x.phase ≠ .vacating → x.halted = false →
      w.sp.hold ≠ .recordFailed → (∀ y ∈ s.ctxs, y.asks (.dispatch w.c w.slot w.idx) = false) →
      readLaunch t (.core w.c) x q.launch (boundConsumer t x.id) = (.ok r, u) → recordAgrees q r = true →
      u.holdsCluster x.func (Config.clusterIndex die (Config.clusterOf w.c)) = true → r.shareStart die ≤ q.block →
      q.block < r.shareStart die + r.share die → resourcesOk (u.core w.c) r q.spbase q.table = true → r.traversal = false →
      r.unitLevel = none → (∀ k ∈ (s.core w.c).blocks, k.id < s.nextId) →
      (∀ e ∈ q.table, ((s.core w.c).carved.find? fun p => p.1 == e.1) = some e) →
      let n := launchRunOf u x.id r.va
      let v := placeBlock u w.c x r q.block q.incarn q.spbase q.table none n
      placeFits u x.id r n q.block w.c = true → admits u x w.c r = true → admits v.2 x w.c r = true →
      instanceMembers v.2 x.id r n q.block = [(w.c, k0)] → k0.id = v.1 → k0.rec_ = r → ∃ t k, exec (.dispatch d a) s = .next t
        ∧ (t.core w.c).blocks = (s.core w.c).blocks ++ [k] ∧ k.ctx = x.id ∧ k.blockIndex = q.block ∧ k.incarn = q.incarn
        ∧ k.spbase = q.spbase ∧ k.rec_ = r ∧ k.phase = .running ∧ k.elapsed = 0
        ∧ (∀ e ∈ q.table, ∃ (g : Group) (pc : PC), g ∈ (t.core w.c).groups ∧ g.slot = e.1 ∧ g.block = k.id ∧ g.first = e.2.1 ∧ g.second = e.2.2
            ∧ g.live = BitVec.allOnes 32 ∧ g.splits = [⟨0, pc, BitVec.allOnes 32, 0, .none, 0, false⟩] ∧ g.stack = [] ∧ g.tvec = 0)
        ∧ ∃ h m, t.group? w.c w.slot = some h ∧ h.held = w.g.held ++ [⟨w.idx, d, 0, none, m, 0, none⟩]

/-- CTXLOAD forks on gc the load of its image: with the block's place held where the core can take the block that the record and the image
are of, and with a status where it cannot, 3 on another die than the one that saved the block (12 R195, 20 R277). Which block of the context
that is, and what an image of none of them gives, is the model's choice (log 49). -/
def Loads : Prop :=
  ∀ (s : State) (w : Issuer) (d a b : GReg), Issues s w → w.g.first = 0 → Unfenced s w →
    let at_ := (uniG s w a).toNat % 2 ^ 32
    let va := (uniG s w b).toNat
    let q := drecordOf (readPlace s (placeOf s w at_) 128)
    let die := Config.dieOf w.c
    ∀ x t r u, recordFault s w 128 16 at_ = none → ctxForWork s q.ctx = (some x, t) →
      readLaunch t (.core w.c) x q.launch (boundConsumer t x.id) = (.ok r, u) → va < 2 ^ 57 → va % 64 = 0 →
      let forks := fun (t : State) (n k : Nat) => exec (.ctxload d a b) s = .next t ∧ GoesOn t w (nextPc w)
        ∧ ∃ o, t.ops = u.ops ++ [o] ∧ o.kind = .ctxload d n k va ∧ o.gate = .gc ∧ o.batch = (w.g.gate .gc).closed + 1
      w.sp.hold ≠ .recordFailed → (∀ x ∈ s.ctxs, x.asks (.dispatch w.c w.slot w.idx) = false) →
      (∀ n, imageAt u x w.c r q.block q.incarn va = .error n → ∃ t, forks t n u.nextId)
      ∧ (∀ z, savedAt x q.block q.incarn r.va va = some z → Config.dieOf z.core ≠ die → ∃ t, forks t 3 u.nextId)
      ∧ ∀ z, imageAt u x w.c r q.block q.incarn va = .ok z → recordAgrees q r = true →
          u.holdsCluster x.func (Config.clusterIndex die (Config.clusterOf w.c)) = true → resourcesOk (u.core w.c) r q.spbase q.table = true →
          placeOk u x.id w.c r z = true → r.traversal = false → (∀ k ∈ (s.core w.c).blocks, k.id < s.nextId) →
          ∃ t k, forks t 0 k.id ∧ (t.core w.c).blocks = (s.core w.c).blocks ++ [k] ∧ k.ctx = x.id ∧ k.blockIndex = z.blockIndex
            ∧ k.incarn = q.incarn ∧ k.spbase = q.spbase ∧ k.rec_ = r ∧ k.phase = .loading ∧ k.saveVa = va

/-- CTXSAVE of a running block outside a cluster instance forks on gc and begins the block's committed mode; a slot without a group answers
all ones (12 R194, 18 R253). -/
def Saves : Prop :=
  ∀ (s : State) (w : Issuer) (d a b : GReg), Issues s w → w.g.first = 0 →
    let va := (uniG s w b).toNat
    let named := blockAt w.core ((uniG s w a).toNat % 32)
    va < 2 ^ 57 → va % 64 = 0 →
    (named = none → Answers s w (.ctxsave d a b) d (BitVec.allOnes 64))
    ∧ ∀ k x, named = some k → Unfenced s w → (s.core w.c).block? k.id = some k → k.unit = none → k.phase = .running →
        s.ctx? k.ctx = some x → bit k.rec_.modes 2 = false → ∃ t m, exec (.ctxsave d a b) s = .next t ∧ GoesOn t w (nextPc w)
          ∧ t.ops = s.ops ++ [forkedOp s w .gc 14 0 (.ctxsave d k.id)]
          ∧ (t.core w.c).block? k.id = some { k with saveVa := va, saveOp := some s.nextId, phase := .vacating m }
          ∧ m = (committed s w.c x k.rec_ k.elapsed).2

/-- DISPATCH starts the block of its record and answers 0; CTXSAVE begins the vacate of a block and CTXLOAD holds a block's place for its
restore, each an operation on gc; CTXLOAD_COMPLETE puts the block back, or gives its place up, and writes its status; TLBINV_COMPLETE drops the
translations of a context or all (12 R193 to R196, 20 R277). The order in which CTXLOAD tests for its statuses is the model's choice (log
49), and so is that of DISPATCH (log 68). -/
def Obligations.AgentBlocks : Prop :=
  Dispatches ∧ Loads ∧ Saves ∧ ∀ (s : State) (o : Op) (g : Group), s.op? o.id = some o → s.group? o.core o.slot = some g →
    let ends := fun (t : State) => t.op? o.id = none ∧ ∃ h, t.group? o.core o.slot = some h ∧ h.gates = (g.complete o.gate o.batch).gates
    (∀ d n k v, o.kind = .ctxload d n k v → n ≠ 0 → ∃ t h, exec (.ctxloadComplete o.id) s = .next t ∧ ends t ∧ (t.core o.core).block? k = none
        ∧ t.group? o.core o.slot = some h ∧ (d ≠ 0 → rawG (t.core o.core) h d = BitVec.ofNat 64 n))
    ∧ (∀ d i v k x z img areas t u, o.kind = .ctxload d 0 i v → (s.core o.core).block? i = some k → s.ctx? k.ctx = some x →
        imageAt s x o.core k.rec_ k.blockIndex k.incarn v = .ok z → x.saved.contains z = true → opWaits s o 0 = false →
        readImage (fun t a n => engineSpans t o x 0 0 .load a n) (fun t ps => opBytes t o x ps) s o.core x z.flushed k.rec_ v
          = .ok img areas t → restoreInto t o.core i x z img areas = (0, u) →
        exec (.ctxloadComplete o.id) s = .next (endLoadOp u o d 0))
    ∧ (∀ ctx size v, o.kind = .tlbinv ctx 1 size v → ∃ t, exec (.tlbinvComplete o.id) s = .next t ∧ ends t
        ∧ t.cache = s.cache.filter fun e => e.ctx != ctx)
    ∧ (∀ ctx size v, o.kind = .tlbinv ctx 2 size v → ∃ t, exec (.tlbinvComplete o.id) s = .next t ∧ ends t ∧ t.cache = [])

/-! Splits, holds and the answers to faults (03 R35 to R37, 05 R79, 12 R168, 18 R259, 26 R330). -/

/-- A split at the address of the JOIN entry on top parks: its lanes arrive and its table entry is freed, or, if it covers the entry, the entry
is popped and the split resumes with the entry's mask. STACK_FILL gives a DEFER entry on top the lowest free split. YIELD ends after 17
cycles with its own, and a stall of 1,024 cycles claims its channel (03 R35 to R37, 12 R168, 18 R259). -/
def SplitEvents : Prop :=
  ∀ (s : State) (core slot i : Nat) (g : Group) (sp : Split) (e : SEntry) (rest : List SEntry), s.group? core slot = some g →
    (g.split? i = some sp → g.spilled = 0 → g.stack = e :: rest → e.kind = .join → e.pc = sp.pc → sp.mask &&& ~~~e.mask = 0 →
      (e.arrived ||| sp.mask ≠ e.mask → ∃ t h, exec (.splitPark core slot i) s = .next t ∧ t.group? core slot = some h
          ∧ h.stack = { e with arrived := e.arrived ||| sp.mask } :: rest ∧ h.split? i = none ∧ (∀ j, j ≠ i → h.split? j = g.split? j)
          ∧ (t.core core).rows = (s.core core).rows ∧ t.mem = s.mem)
      ∧ (e.arrived ||| sp.mask = e.mask → e.mask ≠ 0 → ∃ t h, exec (.splitPark core slot i) s = .next t ∧ t.group? core slot = some h
          ∧ h.stack = rest ∧ h.split? i = some { sp with mask := e.mask, tried := true } ∧ (∀ j, j ≠ i → h.split? j = g.split? j)
          ∧ (t.core core).rows = (s.core core).rows ∧ t.mem = s.mem))
    ∧ (g.freeIdx = some i → g.spilled = 0 → g.stack = e :: rest → e.kind = .defer → (∀ f ∈ rest, f.kind = .join → f.arrived ≠ f.mask) →
        ∃ t h, exec (.stackFill core slot) s = .next t ∧ t.group? core slot = some h ∧ h.stack = rest
          ∧ h.split? i = some ⟨i, e.pc, e.mask, 0, .none, 0, false⟩ ∧ (∀ j, j ≠ i → h.split? j = g.split? j)
          ∧ (t.core core).rows = (s.core core).rows ∧ t.mem = s.mem)
    ∧ (g.split? i = some sp → sp.hold = .yield → ∃ t h, exec (.yieldExpiry core slot i) s = .next t ∧ t.group? core slot = some h
          ∧ (17 ≤ sp.heldFor → h.split? i = some { sp with hold := .none, heldFor := 0 }) ∧ (sp.heldFor < 17 → h.split? i = some sp)
          ∧ (∀ j, j ≠ i → h.split? j = g.split? j) ∧ t.mem = s.mem)
    ∧ (∀ x k, g.split? i = some sp → sp.hold = .vacateStall → 1024 ≤ sp.heldFor → s.ctx? g.ctx = some x → channelAt s core g sp = some k →
        ∃ t, exec (.channelPriorityHold core slot i) s = .next t ∧ t.ctx? g.ctx = some (if x.priority.any (fun p => p.1 == k) then x
            else { x with priority := x.priority ++ [(k, claimant core g i)] }) ∧ t.cores = s.cores ∧ t.mem = s.mem)

/-- The answer to a fault record takes it from its context: RETRY lets a read or a store try again; FAIL discards a store with those behind it
and makes ACCESS_VIOLATION due (05 R79, 26 R330). The host answers through a doorbell, or the firmware for a context with FWFAULT. -/
def FaultAnswers : Prop :=
  ∀ (s : State) (x : Ctx) (f : FaultRecord) (g : Group) (e : QEntry) (func core slot seq : Nat) (fail : Bool), s.ctx? x.id = some x →
    x.faults = [f] → f.owner = .store core slot seq → s.group? core slot = some g → answerIgnored s core slot = false → f.number < 2 ^ 32 →
    (g.queue.find? fun q => q.seq == seq) = some e →
    let answered := fun (i : Instr) => ∃ t h y, exec i s = .next t ∧ t.ctx? x.id = some y ∧ y = { x with faults := [] }
      ∧ t.group? core slot = some h ∧ t.mem = s.mem
      ∧ (fail = false → h = { g with queue := g.queue.map fun q => if q.seq = seq then { q with fault := .clear } else q })
      ∧ (fail = true → h = { g with queue := g.queue.filter (fun q => decide (q.seq < seq)),
                                      due := g.due ++ [⟨none, none, true, e.split, .accessViolation, f.va, f.lanes, e.born⟩] })
    (ownsCtx s func x.id = true → x.fwfault = false →
        answered (.faultResponseDoorbell func x.id (BitVec.ofNat 64 (f.number + if fail then 2 ^ 32 else 0))))
      ∧ (x.fwfault = true → answered (.faultAnswerFirmware x.id f.number fail))

/-- Parking, stack fills, the end of YIELD and of a long stall; and the answers to a fault record (03 R35 to R37, 05 R79, 12 R168, 18 R259, 26
R330). -/
def Obligations.SplitAndFaultEvents : Prop := SplitEvents ∧ FaultAnswers

/-! The host (26 R323 to R332, R349, 29 R368 to R371, 31 R381). -/

/-- Register reads and writes: the features, the ticks and the registers as written; the table bases while nothing is resident, the partition
base, and FEATEN until the commit; the fields of a command register beside an OP that does nothing; the commit; the error counters; the queue and
event doorbells (00 R8, 26 R323 to R327, R332, R349, 29 R368, 31 R381). What a write of a command register without a command sets (log 74),
and what a tail doorbell does in each state of its queue (log 25), are the model's choices. -/
def Obligations.HostRegisters : Prop :=
  ∀ (s : State) (v : DWord) (e : ErrCnt) (die func n : Nat), Memory.wf s.mem = true →
    (nothingResident s = true →
        exec (.registerWrite 0x048 v) s = .next { s with dev := { s.dev with ctxbase := v } }
        ∧ exec (.registerWrite 0x050 v) s = .next { s with dev := { s.dev with qbase := v } }
        ∧ exec (.registerWrite 0x058 v) s = .next { s with dev := { s.dev with evbase := v } })
    ∧ exec (.registerWrite 0x0E0 v) s = .next { s with dev := { s.dev with partbase := v } }
    ∧ (s.dev.commit = true → bits v.toNat 10 2 = 0 →
        exec (.registerWrite 0x060 v) s = .next { s with dev := { s.dev with ctxcmd := v &&& 0x3FF } })
    ∧ ((bits v.toNat 10 3 = 0 ∨ bits v.toNat 10 3 = 6 ∨ bits v.toNat 10 3 = 7) →
        exec (.registerWrite 0x070 v) s = .next { s with dev := { s.dev with dbgcmd := v &&& 0x7FFFF03FF } })
    ∧ (s.dev.partRun = none → bits v.toNat 7 2 ≠ 1 →
        exec (.registerWrite 0x0E8 v) s = .next { s with dev := { s.dev with partcmd := v &&& 0x7F } })
    ∧ (regRead s 0x000 = s.dev.featcap.setWidth 64 ∧ regRead s 0x020 = s.dev.featen.setWidth 64 ∧ regRead s 0x048 = s.dev.ctxbase
        ∧ regRead s 0x060 = s.dev.ctxcmd ∧ regRead s 0x068 = BitVec.ofNat 64 s.ticks ∧ regRead s 0x070 = s.dev.dbgcmd
        ∧ regRead s 0x0E0 = s.dev.partbase ∧ regRead s 0x0E8 = s.dev.partcmd)
    ∧ (n < 4 → s.dev.commit = false → ∃ t, exec (.registerWrite (0x020 + 8 * n) v) s = .next t ∧ ∀ i, i < 256 → t.dev.featen.getLsbD i
        = ((if 64 * n ≤ i ∧ i < 64 * n + 64 then v.getLsbD (i - 64 * n) else s.dev.featen.getLsbD i) && s.dev.featcap.getLsbD i))
    ∧ (v.getLsbD 0 = true → s.dev.commit = false → exec (.featctlCommit v) s = .next (
        if s.feature 0 = true ∧ s.dev.image ≠ none then { s with dev := { s.dev with commit := true, refused := false } }
        else { s with dev := { s.dev with refused := true } }))
    ∧ (s.dev.errcnt[die]? = some e → ∃ t, exec (.errcntClear die v) s = .next t ∧ t.dev.errcnt[die]? = some
        ⟨(BitVec.ofNat 32 e.corr &&& ~~~v.setWidth 32).toNat, (BitVec.ofNat 16 e.uncorr &&& ~~~(v >>> 32).setWidth 16).toNat, v.toNat / 2 ^ 48 % 32⟩
        ∧ ∀ j, j ≠ die → t.dev.errcnt[j]? = s.dev.errcnt[j]?)
    ∧ (∀ y, n < 4096 → s.dev.service ≠ .training → queueDescOk s n = true → ownsCtx s func (queueCtx s n) = true → s.queue? n = some y →
        queueTail s n ≤ v.toNat → v.toNat ≤ y.progress + queueSize s n → queueEnabled s n = true → s.queueState n = 0 →
        ∃ t, exec (.queueTailDoorbell func n v) s = .next t ∧ queueTail t n = v.toNat ∧ t.queueState n = 1
          ∧ ∀ a, (a < s.queueDesc n + 0x10 ∨ s.queueDesc n + 0x18 ≤ a) → a ≠ s.queueDesc n + 0x0B → Memory.read t.mem a = Memory.read s.mem a)
    ∧ (let d := s.dev.evbase.toNat + 64 * n
       n < 256 → (func = 64 ∨ s.num (d + 9) 1 = func) → s.num (d + 0x18) 8 ≤ v.toNat → v.toNat ≤ s.num (d + 0x10) 8 →
        ∃ t, exec (.eventHeadDoorbell func n v) s = .next t ∧ t.num (d + 0x18) 8 = v.toNat
          ∧ ∀ a, (a < d + 0x18 ∨ d + 0x20 ≤ a) → Memory.read t.mem a = Memory.read s.mem a)

/-- A context command takes effect: CTXCMD_VACATE switches the queues of a context out and its block begins its committed mode; CTXCMD_RESUME
restores the blocks it gives places to and switches the queues in; CTXCMD_END drops all that the context has (18 R261, R263, 26 R329). The
commands are those of a context whose descriptor is not refused, with the features committed. -/
def ContextCommands : Prop :=
  ∀ (s t : State) (x z : Ctx), s.dev.commit = true → x.id < 1024 → s.ctx? x.id = some z → commandRuns z = false →
    ctxForWork s x.id = (some x, t) → t.ctx? x.id = some x → commandRuns x = false →
    (∀ c k, blocksOf t x.id = [(c, k)] → (∀ y ∈ t.cores, ∀ b ∈ y.blocks, b.ctx = x.id → b.phase ≠ .reserved) → (t.core c).block? k.id = some k →
        k.phase = .running → bit k.rec_.modes 2 = false → ∃ u y m, exec (.ctxcmdVacate x.id) s = .next u ∧ u.ctx? x.id = some y
          ∧ y.phase = .vacating ∧ y.requestTicks = s.ticks ∧ y.step = none ∧ (u.core c).block? k.id = some { k with phase := .vacating m }
          ∧ m = (committed t c x k.rec_ k.elapsed).2 ∧ ∀ q ∈ u.queues, q.ctx = x.id → q.out = true)
    ∧ (∃ u y, exec (.ctxcmdResume x.id []) s = .next u ∧ u.ctx? x.id = some y ∧ y.phase = .idle ∧ y.saved.length = x.saved.length
        ∧ ∀ q ∈ u.queues, q.ctx = x.id → q.out = false)
    ∧ (let t := (tookCommand t x.id).modCtx x.id fun y => { y with phase := .resuming }
       ∀ n c p b u y v, x.saved[n]? = some b → b.whole = none → readImages x.id t [(b, c)] = (true, u) → u.ctx? x.id = some y →
        y.saved[n]? = some b → restoreOne u x.id b c p = some v → exec (.ctxcmdResume x.id [(n, c, p)]) s = .next (resumeDone v x.id))
    ∧ ∃ u y, exec (.ctxcmdEnd x.id) s = .next u ∧ u.ctx? x.id = some y ∧ y.phase = .ended ∧ y.saved = [] ∧ y.faults = []
          ∧ (∀ q ∈ u.queues, q.ctx ≠ x.id) ∧ (∀ l ∈ u.launches, l.ctx ≠ x.id) ∧ ∀ d, ∀ k ∈ (u.core d).blocks, k.ctx ≠ x.id

/-- PARTCMD takes the partition of a valid descriptor that clashes with no other, at once where no block is resident (26 R327). -/
def PartitionCommand : Prop :=
  ∀ (s : State) (i : Nat) (p : Partition), s.dev.partRun = none → i < 64 → partitionOf s i = some p → partitionClash s p = false →
    (∀ x ∈ s.ctxs, x.resizing = false) → (∀ y ∈ s.cores, y.blocks = []) → ∃ u, exec (.partcmdApply i) s = .next u
      ∧ u.dev.partitions = (s.dev.partitions.filter fun q => q.func != i) ++ (if p.valid then [p] else []) ∧ u.dev.partRun = none
      ∧ u.dev.partcmd = BitVec.ofNat 64 i

/-- A debug command sets DBGCMD's fields; it changes the context it names if that is valid and no command runs on it, and is ignored
otherwise (29 R368 to R371). -/
def DebugCommands : Prop :=
  ∀ (s : State) (x : Ctx) (v : DWord), s.ctx? (dbgCtx v) = some x →
    let by_ := fun (i : Instr) (f : Ctx → Ctx) => ∃ u, exec i s = .next u
      ∧ u = { s with dev := { s.dev with dbgcmd := dbgFields v.toNat }, ctxs := u.ctxs } ∧ u.ctx? (dbgCtx v) = some (f x)
      ∧ ∀ c, c ≠ dbgCtx v → u.ctx? c = s.ctx? c
    let ignored := x.valid = false ∨ commandRuns x = true
    let acts := x.valid = true ∧ commandRuns x = false ∧ x.phase ≠ .ended
    let step := Instr.dbgcmdStep (dbgCtx v) (bits v.toNat 16 12) (bits v.toNat 28 5) (bits v.toNat 33 2)
    (∀ i ∈ [Instr.dbgcmdAttach v, .dbgcmdDetach v, .dbgcmdResume v, .dbgcmdHalt v, step], ignored → by_ i id)
      ∧ (acts → by_ (.dbgcmdAttach v) (fun y => { y with attached := true })
          ∧ by_ (.dbgcmdDetach v) (fun y => { y with attached := false })
          ∧ by_ (.dbgcmdResume v) (fun y => { y with halted := false, step := none })
          ∧ (x.halted = false → (∀ h ∈ x.stopping, h.1 ≠ 0) →
              by_ (.dbgcmdHalt v) fun y => { y with stopping := y.stopping ++ [(0, 0, none)] })
          ∧ (x.halted = true → by_ (.dbgcmdHalt v) fun y => { y with step := none })
          ∧ (x.halted = false → by_ step id)
          ∧ ∀ g c slot i, x.halted = true → stepNamed v = some (c, slot, i) → s.group? c slot = some g → g.ctx = dbgCtx v →
              g.split? i ≠ none → by_ step fun y => { y with step := some (c, slot, i) })

/-- The context, partition and debug commands take effect (26 R327, R329, 29 R368 to R371). What a vacate does to reserved blocks (log 45),
when a partition command completes (log 50), and what a register holds that a command wrote (log 51), are the model's choices. -/
def Obligations.HostCommands : Prop := ContextCommands ∧ PartitionCommand ∧ DebugCommands

/-- The queue after its next packet has started: the packet is among the started ones, and the next one is that after it (26 R336, R339). -/
def StartedAs (t : State) (q : Nat) (y : Queue) (ch : List (Nat × Nat × Nat)) (opens : List (Nat × Nat × Nat)) (k : Started) : Prop :=
  t.queue? q = some { y with started := y.started ++ [k]
                             fetched := if ch = [] then y.fetched + 1 else y.fetched
                             chain := opens ++ match ch with | [] => [] | (va, n, i) :: r => (va, n, i + 1) :: r }

/-- The next packet of a queue that may run starts after its acquire, each with what is particular to its type (26 R336 to R341, R345, R352). -/
def PacketsStart : Prop :=
  ∀ (s t : State) (q : Nat) (x : Ctx) (y : Queue) (path : List Nat) (ch : List (Nat × Nat × Nat)) (p : Packet),
    fetchPacket s q = .ok x y path ch p t →
    let t := packetAcquire t q (acquireScope p.flags false)
    let k := (⟨path, p.type, p.flags, p.aux, p.ptr, p.sig, none, none, 0, false, false, [], none⟩ : Started)
    (p.type = 0 → ∃ u, exec (.packetNop q) s = .next u ∧ StartedAs u q y ch [] { k with done := true } ∧ u.mem = t.mem)
    ∧ (p.type = 6 → ∃ u, exec (.packetEvent q) s = .next u ∧ StartedAs u q y ch [] { k with done := true }
        ∧ u.mem = (postEvent t x.id .queueEvent q p.aux (p.ptr / 16) (chainSource q)).mem)
    ∧ (p.type = 4 → (p.aux = 0 → ∃ u, exec (.packetSignalSet q) s = .next u ∧ StartedAs u q y ch [] { k with sig := some p.sigField } ∧ u.mem = t.mem)
        ∧ (p.aux = 1 → ∃ u, exec (.packetSignalAdd q) s = .next u ∧ StartedAs u q y ch [] { k with sig := some p.sigField } ∧ u.mem = t.mem))
    ∧ (p.type = 5 → ch.length < 4 → ∃ u, exec (.packetChain q) s = .next u ∧ StartedAs u q y ch [(p.ptr, p.aux, 0)] k ∧ u.mem = t.mem)
    ∧ (∀ bs u, p.type = 3 → readVa t (chainTlb q) x p.ptr 32 = (.ok bs, u) → fieldOf bs 0x10 8 ≠ 0 → fieldOf bs 0x10 8 ≤ 2 ^ 32 →
        fieldOf bs 0x18 8 = 0 → ∃ v, exec (.packetCopy q) s = .next v
          ∧ StartedAs v q y ch [] { k with copy := some (fieldOf bs 0 8, fieldOf bs 8 8, fieldOf bs 0x10 8) })
    ∧ (∀ r u, p.type = 1 → p.ptr % 256 = 0 → readLaunch t (chainTlb q) x p.ptr (boundConsumer t x.id) = (.ok r, u) →
        ∃ v run, exec (.packetLaunch q) s = .next v ∧ StartedAs v q y ch [] { k with launch := some run.id }
          ∧ v.launches = u.launches ++ [run] ∧ run.ctx = x.id ∧ run.rec_ = r ∧ run.queue = q ∧ run.tickets = List.replicate 12 0
          ∧ run.remaining = r.blocks ∧ run.sig = p.sig)
    ∧ (∀ u, p.type = 2 → testList (chainTlb q) x p.ptr p.aux 0 true
          (packetAcquire (startPacket t q path ch p false id) q (acquireScope p.flags true)) = .waiting u →
        ∃ v, exec (.packetBarrier q) s = .next v ∧ StartedAs v q y ch [] k)

/-- A started packet completes and leaves the queue: a SIGNAL performs its write, a BARRIER's list is satisfied; PROGRESS follows the packets
completed (26 R333, R336, R338, R341). -/
def PacketsComplete : Prop :=
  ∀ (s : State) (y : Queue) (x : Ctx) (k : Started), s.queue? y.id = some y → s.ctx? y.ctx = some x → y.started = [k] → k.failed = false →
    (packetRuns x y k = true → k.flags % 2 = 0 →
      (k.type = 0 → k.done = true → k.sig = none → k.launch = none → ∃ t, exec (.packetComplete y.id 0) s = .next t
          ∧ t.queue? y.id = some { y with started := [] } ∧ t.mem = s.mem)
      ∧ (∀ u, k.type = 4 → k.aux = 0 → k.launch = none → setSignal s (chainTlb y.id) x k.ptr (signed 48 (k.sig.getD 0)) = (.ok (), u) →
          ∃ t, exec (.packetComplete y.id 0) s = .next t ∧ t.queue? y.id = some { y with started := [] } ∧ t.mem = u.mem))
    ∧ (∀ u, k.type = 2 → k.done = false → packetRuns x y k = true → x.halted = false → testList (chainTlb y.id) x k.ptr k.aux 0 true
          (packetAcquire s y.id (acquireScope k.flags true)) = .satisfied u →
        ∃ t, exec (.barrierTest y.id 0) s = .next t ∧ t.queue? y.id = some { y with started := [{ k with done := true }] })
    ∧ (let low := min y.fetched (k.path.headD 0)
       low ≠ y.progress → ∃ t, exec (.progressPublish y.id) s = .next t ∧ t.queue? y.id = some { y with progress := low }
        ∧ t.mem = (s.poke (s.queueDesc y.id + 0x18) (bytesOf 8 low)).mem)

/-- Packets start in the order of their queue with what is particular to their type, and complete (26 R333, R336 to R341, R345, R352). -/
def Obligations.Packets : Prop := PacketsStart ∧ PacketsComplete

/-! Launches, vacates and health (03 R53, R54, 18 R254, R262, 20 R265, 26 R346 to R348, 29 R373, R374, 31 R380 to R389). -/

/-- An agent claims a block with the next ticket of its die, which starts where nothing of its launch waits before it and it is admitted, and
else keeps its place; a co-scheduled instance whose blocks have their places starts (03 R54, 18 R260, 26 R346). -/
def BlocksStart : Prop :=
  ∀ (s t : State) (l : LaunchRun) (x : Ctx) (c : Nat), s.launch? l.id = some l → ctxForWork s l.ctx = (some x, t) →
    (∀ (p : Placement) (y : Core) (table : List (Nat × Nat × Nat)) (routine : Option (Nat × Nat)), let die := Config.dieOf c
      let b := l.rec_.shareStart die + l.tickets.getD die 0
      let n := placeBlock (t.setCore y) c x l.rec_ b 0 p.spbase table routine (some l.id)
      let u := n.2.modLaunch l.id fun m => { m with tickets := modifyAt (· + 1) die m.tickets }
      offers s l c = true → (∀ m ∈ s.launches, offers s m c = true → preferred s l m = true) →
      agentCarve (t.core c) l.rec_ p = some (y, table, routine) → placeFits t l.ctx l.rec_ (some l.id) b c = true →
      (∀ b ∈ (s.core c).blocks, b.id < s.nextId) →
      let claims := fun (phase : BlockPhase) => ∃ v k h, exec (.blockClaim l.id c p) s = .next v ∧ (v.core c).blocks = (s.core c).blocks ++ [k]
        ∧ k.ctx = x.id ∧ k.rec_ = l.rec_ ∧ k.launchId = some l.id ∧ k.phase = phase ∧ k.blockIndex = b ∧ k.spbase = p.spbase
        ∧ v.launch? l.id = some { l with tickets := modifyAt (· + 1) die l.tickets, homes := h }
      (tryStart u x l b = none → claims .reserved)
      ∧ ∀ k, l.rec_.unitLevel = none → reservedWith u l.ctx l.rec_ (some l.id) = [(c, k)] → k.id = n.1 → k.blockIndex = b →
          vfix u x + (committed u c x k.rec_ 0).1 + maxSum u x ≤ x.vb → claims .running)
    ∧ ∀ k, x.phase = .idle → x.halted = false → (t.core c).block? k.id = some k → reservedWith t l.ctx l.rec_ (some l.id) = [(c, k)] →
        instanceMembers t l.ctx l.rec_ (some l.id) k.blockIndex = [(c, k)] → instanceWhole l.rec_ [(c, k)] = true →
        vfix t x + (committed t c x k.rec_ 0).1 + maxSum t x ≤ x.vb → ∃ v, exec (.instanceStart l.id) s = .next v
          ∧ (v.core c).block? k.id = some { k with phase := .running, rows := [], elapsed := 0, overrun := false, waiting := true }

/-- A drained row becomes free; a block that is done releases what it held, and its completion, once published, counts down its launch; a
saved block's image is written and it leaves its core; an overrun is reported once; a die's failure ends its blocks of the launch (03 R53, 18
R254, R262, 20 R265, 26 R347, R348). -/
def BlocksEnd : Prop :=
  ∀ (s : State) (l : LaunchRun) (x : Ctx) (c : Nat) (k : Block),
    (∀ r, (s.core c).lease r = .draining → (∀ g ∈ (s.core c).groups, r ∈ g.rowsOf → g.ended = true ∧ g.quiet = true) →
        ∃ t, exec (.rowFree c r) s = .next t ∧ (t.core c).lease r = .free ∧ ∀ j, j ≠ r → (t.core c).lease j = (s.core c).lease j)
    ∧ ((s.core c).block? k.id = some k → s.ctx? k.ctx = some x →
      (k.phase = .running → groupsGone (s.core c) k = true →
          ∃ t, exec (.blockComplete c k.id) s = .next t
            ∧ (t.core c).block? k.id = some { k with phase := .publishing, routineRow := none, routineSlot := none }
            ∧ (t.core c).matrix.holder = (if (s.core c).matrix.holder = some k.id then none else (s.core c).matrix.holder)
            ∧ (∀ r, k.routineRow = some r → (t.core c).lease r = .free) ∧ ∀ a, Memory.read t.mem a = Memory.read s.mem a)
      ∧ (s.launch? l.id = some l → k.launchId = some l.id → k.phase = .publishing → (∀ o ∈ opsOf s c k.id, stillRuns k o = false) → k.before = [] → l.before = [] → agentPending s x.id = false →
          (∀ f ∈ x.faults, f.owner ≠ .block c k.id) → (∀ f ∈ x.faultWait, f.owner ≠ .block c k.id) → (k.rec_.bitmap = 0 ∨ k.marked = true) →
          (l.perBlock = false ∨ l.sig = none) → ∃ t, exec (.blockComplete c k.id) s = .next t ∧ (t.core c).block? k.id = none
            ∧ t.launch? l.id = some { l with remaining := l.remaining - 1 })
      ∧ (∀ v u, let gs := (s.core c).groups.filter fun g => g.block == k.id && !g.ended
          k.phase = .vacating .save → drained s x c k = true → opsOf s c k.id = [] → nextDue (s.core c) k = none →
          makeRooms c gs (gs.foldl (fun s g => completeWrites s c g.slot) s) = .ok v →
          writeImage x c k v (spansOf (imageVa x c k) (saveImage v c k).length) (saveImage v c k) = .ok u →
          ∃ t, exec (.blockSave c k.id) s = .next t ∧ t.mem = u.mem ∧ (t.core c).block? k.id = some { k with phase := .finished .save })
      ∧ (k.phase = .finished .save → agentPending s x.id = false → ∃ t y b, exec (.blockModeFinished c k.id) s = .next t
          ∧ (t.core c).block? k.id = none ∧ t.ctx? k.ctx = some y ∧ y.saved = x.saved ++ [b] ∧ b.core = c ∧ b.blockIndex = k.blockIndex
          ∧ b.incarn = k.incarn ∧ b.rec_ = k.rec_ ∧ b.va = imageVa x c k ∧ b.flushed = false ∧ b.failed = false)
      ∧ (k.overrun = false → bit k.rec_.modes 1 = true → k.rec_.blkmax < k.elapsed → ∃ t, exec (.blkmaxOverrun c k.id) s = .next t
          ∧ (t.core c).block? k.id = some { k with overrun := true }
          ∧ t.mem = (postEvent s k.ctx .blkmaxOverrun 0xFFFF 0 k.blockIndex (groupSource c 0xFF)).mem))
    ∧ (∀ die, die < 12 → s.launch? l.id = some l → ∃ t m, exec (.dieFailure die l.id) s = .next t ∧ t.launch? l.id = some m
        ∧ m.failedDie = true ∧ m.tickets = l.tickets.set die (l.rec_.share die)
        ∧ (∀ c, c < Config.cores → Config.dieOf c = die → (t.core c).failed = true ∧ ∀ k ∈ (t.core c).blocks, k.launchId ≠ some l.id)
        ∧ ∀ y, t.ctx? l.ctx = some y → ∀ b ∈ y.saved, Config.dieOf b.core = die → b.launchId ≠ some l.id)

/-- Blocks are claimed, start, complete, are saved and fail as 03 R53, R54, 18 R254, R262, 20 R265 and 26 R346 to R348 say. SOURCE of
BLKMAX_OVERRUN (log 37) and which blocks post it (log 60), and whose work a die failure ends (log 52), are the model's choices. -/
def Obligations.BlockEvents : Prop := BlocksStart ∧ BlocksEnd

/-- Reset, training, ageing, error counts, firmware and attestation, with the sampling and trace units (29 R373, R374, 31 R380 to R389).
That memory keeps its contents at reset, or not, is the model's free choice (log 32, 34), and so are the CODEs of AGEING and HANDOVER. The
order of the phases of service (log 33), what an error strikes (log 35) and how images and measurements meet (log 36) are its choices too. -/
def Obligations.HealthEvents : Prop :=
  ∀ (s : State) (e : ErrCnt) (die : Nat) (img old : FirmwareImage),
    (∃ t, exec .packageReset s = .next t ∧ t = { State.reset with agenda := s.agenda, nextId := s.nextId, free := s.free + 1, mem := t.mem,
                                                                   memPoison := t.memPoison }
        ∧ ((t.mem = s.mem ∧ t.memPoison = s.memPoison) ∨ (t.mem = [] ∧ t.memPoison = [])))
    ∧ (s.dev.service = .training → ∃ t, exec .reducedServiceStart s = .next t ∧ t.dev.service = .reduced
        ∧ ∀ p ∈ t.dev.ports, p.link = 1)
    ∧ (s.dev.service ≠ .training → exec .trainingComplete s = .next { s with dev := { s.dev with trained := true } })
    ∧ (s.dev.service = .reduced → s.dev.trained = true → nothingResident s = true → ∃ t, exec .fullServiceStart s = .next t
        ∧ t.dev = { s.dev with service := .full, period := max 1250 s.dev.plan })
    ∧ (∀ plan, plan % 25 = 0 → 1250 ≤ plan → plan ≤ 2500 → s.dev.plan < plan → ∃ t, exec (.ageingPlanRaise plan) s = .next t
        ∧ t.dev = { s.dev with plan := plan })
    ∧ (∀ c x k, c < Config.cores → s.ctx? x.id = some x → s.dev.plan = 2500 → k ∈ (s.core c).blocks → k.ctx = x.id →
        ∃ t z, exec (.ageingPlanRaise (2500 + 4096 * (1 + Config.dieOf c))) s = .next t ∧ t.ctx? x.id = some z
          ∧ (z.halted = true ∨ ∃ h ∈ z.stopping, h.1 = 0) ∧ t.dev = s.dev)
    ∧ (s.dev.service = .full → nothingResident s = true → s.dev.period ≠ s.dev.plan → ∃ t, exec .periodChange s = .next t
        ∧ t.dev = { s.dev with period := s.dev.plan })
    ∧ (s.dev.errcnt[die]? = some e →
      (e.corr < 2 ^ 32 - 1 → ∃ t, exec (.correctedError die) s = .next t ∧ t.dev.errcnt[die]? = some { e with corr := e.corr + 1 })
      ∧ (∀ pa, die < 12 → pa < 2 ^ 52 → ∃ t, exec (.uncorrectedError die (.memory pa)) s = .next t ∧ t.memPoison = pa :: s.memPoison
          ∧ t.dev.errcnt[die]? = some { e with uncorr := min (e.uncorr + 1) 65535 })
      ∧ (∀ c b g, die < 12 → s.group? c b = some g → ∃ t h, exec (.uncorrectedError die (.groupState c b)) s = .next t ∧ t.group? c b = some h
          ∧ h = { g with suspended := true } ∧ t.dev.errcnt[die]? = some { e with uncorr := min (e.uncorr + 1) 65535 }))
    ∧ (img.ecdsaOk = true → img.lmsOk = true →
      (s.dev.image = none → ∃ t, exec (.firmwareImage img) s = .next t ∧ t.dev.image = some img
          ∧ t.dev.log = s.dev.log ++ [⟨s.dev.log.length % 2 ^ 32, img.measurement, none⟩])
      ∧ (s.dev.image = some old → ∃ t, exec (.firmwareImage img) s = .next t ∧ t.dev = { s.dev with pendingImage := some img }))
    ∧ (s.dev.image = some old → s.dev.pendingImage = some img → ∃ t, exec .liveHandover s = .next t
        ∧ t.dev = { s.dev with image := some img
                               pendingImage := none
                               log := s.dev.log ++ [⟨s.dev.log.length % 2 ^ 32, img.measurement, some old.measurement⟩] })
    ∧ (s.dev.image = some old → ∃ t, exec .measurements s = .next t
        ∧ t.dev = { s.dev with response := some (old.measurement, s.dev.log) })
    ∧ (∀ (x : Ctx) (g : Group) (rest : List Group) (c sched : Nat), s.ctxs = [x] → sched < 4 → sampleDue x = true →
        (s.core c).tracer x.id = { (s.core c).tracer x.id with sampledAt := List.replicate 4 0, cursors := List.replicate 4 0 } →
        ((s.core c).groups.filter fun g => g.ctx == x.id && schedOf g.slot == sched) = g :: rest → 8 * sched ≤ g.slot →
        ∃ t, exec (.sample c sched) s = .next t ∧ ((t.core c).tracer x.id).samples = ((s.core c).tracer x.id).samples + 1
          ∧ ((t.core c).tracer x.id).cursors.getD sched 0 = g.slot % 8 + 1 ∧ hasSampled t c sched = true)
    ∧ (∀ (x : Ctx) (r : Tracer) (c : Nat), (s.core c).tracers = [r] → 64 ≤ r.buffer.length → s.ctx? r.ctx = some x →
        ∃ t, exec (.traceUnitWrite c) s = .next t ∧ ((t.core c).tracer r.ctx).buffer = r.buffer.drop 64)


/-! The machine as a whole (00 R4, 05 R60, 09 R99, R100, 24 R319). -/

/-- XBIND, XPERMIT and XSEND of a traversal service group trap with ROUTINE_BLOCK, once their operands are ones the entry allows; XSTAT
reads as 0 there (24 R319). -/
def Obligations.ServiceExchange : Prop :=
  ∀ (s : State) (w : Issuer) (d a b : GReg), Issues s w → inService w.g = true → s.feature 4 = true →
    let v := (uniG s w a).toNat
    let x := (uniG s w b).toNat
    (x < 32 → exec (.xbind d a b) s = .next (trapAll s w .routineBlock 0))
      ∧ (v / 8 % 32 = 0 → 1 ≤ v / 2 ^ 8 → v / 2 ^ 8 ≤ 16 → exec (.xpermit a) s = .next (trapAll s w .routineBlock 0))
      ∧ (x / 8 % 32 = 0 → x < 2 ^ 25 → exec (.xsend d a b) s = .next (trapAll s w .routineBlock 0))
      ∧ UniResult s w (.xstat d a) d 0

/-- The mask registers are k0 to k7, and bit n stands for lane n; k0 reads 0xFFFF_FFFF, and a write to it completes and is discarded (05
R60). -/
def Obligations.MaskRegisterZero : Prop :=
  ∀ (s : State) (w : Issuer) (k i j : KReg) (a b : VReg) (g : GReg) (c : ICond) (f : FCond) (t : IType) (u : FType), Issues s w →
    a.val < w.g.allot → b.val < w.g.allot →
    let discards := fun (n : Instr) => wellFormed n = true → ∃ v h, exec n s = .next v ∧ GoesOn v w (nextPc w)
      ∧ v.group? w.c w.slot = some h ∧ ∀ m, rawK h m = rawK w.g m
    (∀ z, maskK s w z 0 = 0xFFFFFFFF) ∧ rawK w.g 0 = 0xFFFFFFFF
      ∧ (∀ l, l < 32 → (activeOf s w k).getLsbD l = (w.sp.mask.getLsbD l && (maskK s w false k).getLsbD l))
      ∧ discards (.umaskSet 0 g) ∧ discards (.umaskAnd 0 i j) ∧ discards (.umaskOr 0 i j) ∧ discards (.umaskXor 0 i j)
      ∧ discards (.umaskAndn 0 i j) ∧ discards (.umaskNot 0 i) ∧ discards (.icmp k c 0 a b t) ∧ discards (.fcmp k f 0 a b u)

/-- Memory is little-endian: the byte at address pa + j of a value of n bytes written at pa holds bits [8j+7:8j], every other byte is
as before, and what is read is the value again; a field of w bytes at offset n of a record occupies bytes n to n + w − 1 (00 R4). -/
def Obligations.LittleEndian : Prop :=
  ∀ (s : State) (pa n v : Nat), Memory.wf s.mem = true →
    (∀ j, j < n → Memory.read (s.poke pa (bytesOf n v)).mem (pa + j) = BitVec.ofNat 8 (v / 2 ^ (8 * j)))
      ∧ (∀ a, (a < pa ∨ pa + n ≤ a) → Memory.read (s.poke pa (bytesOf n v)).mem a = Memory.read s.mem a)
      ∧ (s.poke pa (bytesOf n v)).num pa n = v % 2 ^ (8 * n)
      ∧ (∀ (bs : List Byte) (w j : Nat), n + w ≤ bs.length → j < w →
          numOf ((bs.drop n).take w) / 2 ^ (8 * j) % 2 ^ 8 = (bs.getD (n + j) 0).toNat)
      ∧ ∀ b0 b1 b2 b3 : Byte, (wordOfBytes b0 b1 b2 b3).toNat = numOf [b0, b1, b2, b3]

/-- Words written out from the encodings of the manual decode to the instructions they stand for, and near misses to none (09 R99 to R112). -/
def Obligations.DecodeWords : Prop :=
  decode false 0x84518700 = .ok (.uadd 5 6 7) ∧ decode false 0x88503FFD = .ok (.uaddi 5 0 0x3FFD)
    ∧ decode false 0xA5400005 = .ok (.brd 2 1 5) ∧ decode false 0xB0000502 = .ok (.trap 5) ∧ decode false 0xB9400000 = .ok (.cfence 20)
    ∧ decode false 0xB8000052 = .ok (.fenceRel .cluster) ∧ decode false 0xC0014701 = .ok (.arriveExpect 5 7)
    ∧ decode false 0xD0304202 = .ok (.umaskAnd 3 1 2) ∧ decode false 0xE801D701 = .ok (.umovt 7 23)
    ∧ decode false 0xA0050003 = .error .illFormed ∧ decode false 0x9C614040 = .error .reserved ∧ decode false 0xE8014F01 = .error .illFormed

/-- The word of every well-formed instruction decodes to it in every group where it exists: no bit of an encoding is dropped (09 R99 to
R112, 22 R294). -/
def Obligations.EncodedWordsDecode : Prop :=
  ∀ (i : Instr) (svc : Bool) (v : Word), belongs svc i = true → wellFormed i = true → encode i = some v → decode svc v = .ok i

/-- Every word that decodes is the word of the well-formed instruction that it decodes to: each word has one meaning (09 R99, R100). -/
def Obligations.DecodedWordsEncode : Prop :=
  ∀ (svc : Bool) (v : Word) (i : Instr), decode svc v = .ok i → wellFormed i = true ∧ belongs svc i = true ∧ encode i = some v

/-- A step whose split issues runs the instruction its word decodes to, or ILLEGAL_OP where it decodes to none, and then takes the pipe,
clears the split's pass-over count and raises those of its rivals; a split that stays held is only marked (03 R42 to R44, 09 R100). A step
of the agenda that is an event runs the event. The write half of an atomic in device memory that is due comes before either, but not before a
host access (13 R220). How the moves of a run follow each other is the model's choice (log 1). -/
def Obligations.StepRunsDecoded : Prop :=
  ∀ (s : State) (rest : List Move),
    let s0 : State := { s with agenda := rest, issuer := none, free := s.free + 1 }
    let due := closeHalf { s with issuer := none, free := s.free + 1 }
    (∀ (i : Instr), comesAlone i = true → s.agenda = .event i :: rest → (due = none ∨ ∃ a, i = .hostAccess a) → step s = exec i s0)
    ∧ (∀ (m : Move) (u : State), s.agenda = m :: rest → m.ofHost = false → due = some u → step s = .next u)
    ∧ ∀ (c slot i : Nat) (g : Group) (sp : Split) (x : Ctx) (v : Word) (u : State),
      s.agenda = .issue c slot i :: rest → due = none → s0.group? c slot = some g → g.split? i = some sp → s0.ctx? g.ctx = some x →
      mayTry s0 c g sp = true → parks g sp = false → (∀ a ∈ g.la, a.stalls sp.mask = false) →
      fetch { s0 with issuer := some (c, slot, i) } c x sp.pc = .word v u →
      let run := match decode (inService g) v with
        | .ok j => exec j u
        | .error _ => exec (.illegalOp v) u
      let pipe := nextPipe s0 c g sp
      (∀ t, run = .next t → heldIn t c slot i = true → step s = .next t)
      ∧ (selected s0 c g sp pipe = true → earlierDue s0 c g pipe = false → mergers s0 c g sp = [] →
          (∀ f, run = .fault f → step s = .fault f) ∧ (∀ r, run = .refused r → step s = .refused r)
          ∧ ∀ t, run = .next t → heldIn t c slot i = false → (pipe = 1 ∨ tookTrap s0 t c slot = false ∨ uniformMate s0 c g sp = none) →
              step s = .next (passOver (afterIssue t c slot i pipe sp.pc g.ctx false) c (rivals s0 c g sp pipe)))

/-- The lines that the home slices of attic memory and the views of the cores hold are in the canonical form. -/
def CopiesForm (s : State) : Prop := LinesForm s.attic ∧ ∀ x ∈ s.cores, LinesForm x.view

/-- Every step keeps the canonical form of memory, and of the copies of its lines (13 R202, R207). -/
def Obligations.StepKeepsMemoryForm : Prop :=
  ∀ s t : State, step s = .next t → (Memory.wf s.mem = true → Memory.wf t.mem = true) ∧ (CopiesForm s → CopiesForm t)

/-- The names the model has given to blocks are below the next one (log 1). -/
def BlocksNamed (s : State) : Prop := ∀ c, ∀ b ∈ (s.core c).blocks, b.id < s.nextId

/-- Every step keeps the names of blocks below the next name: the premise of the statements on blocks (log 1). -/
def Obligations.StepKeepsBlockNames : Prop := ∀ s t : State, BlocksNamed s → step s = .next t → BlocksNamed t

/-- After reset memory is in its canonical form, no block is resident and no partition is valid, COMMIT is 0, the error counters, the period,
the plan and the ports hold their reset values, and training has begun (26 R323, R326, 28 R366, 31 R381, R383, R385). -/
def Obligations.ResetValues : Prop :=
  let r := State.reset
  Memory.wf r.mem = true ∧ CopiesForm r ∧ BlocksNamed r ∧ (∀ c, (r.core c).blocks = [] ∧ (r.core c).groups = [])
    ∧ r.dev.commit = false ∧ r.dev.partitions = [] ∧ r.dev.pfCap = false ∧ r.dev.service = .training ∧ r.dev.trained = false
    ∧ (∀ k, k < 12 → r.dev.errcnt[k]? = some ⟨0, 0, 0x10⟩) ∧ (∀ p, p < 8 → r.dev.ports[p]? = some ⟨0, 0, false, 0⟩)
    ∧ r.dev.period = 0x09C4 ∧ r.dev.plan = 0x04E2 ∧ r.cycle = 0 ∧ r.ticks = 0
end

