-- ==== Sys2Proof/Laws/State.lean ====
section
/-! SUPPORT. What each named update of the state leaves: one lemma per field per update, each true by its definition. -/

namespace Sys2Proof.Machine

@[simp] theorem State.setCore_agenda (s : State) (x : Core) : (s.setCore x).agenda = s.agenda := rfl
@[simp] theorem State.setCore_issuer (s : State) (x : Core) : (s.setCore x).issuer = s.issuer := rfl
@[simp] theorem State.setCore_issued (s : State) (x : Core) : (s.setCore x).issued = s.issued := rfl
@[simp] theorem State.setCore_free (s : State) (x : Core) : (s.setCore x).free = s.free := rfl
@[simp] theorem State.setCore_nextId (s : State) (x : Core) : (s.setCore x).nextId = s.nextId := rfl
@[simp] theorem State.setCore_cycle (s : State) (x : Core) : (s.setCore x).cycle = s.cycle := rfl
@[simp] theorem State.setCore_picos (s : State) (x : Core) : (s.setCore x).picos = s.picos := rfl
@[simp] theorem State.setCore_mem (s : State) (x : Core) : (s.setCore x).mem = s.mem := rfl
@[simp] theorem State.setCore_memPoison (s : State) (x : Core) : (s.setCore x).memPoison = s.memPoison := rfl
@[simp] theorem State.setCore_props (s : State) (x : Core) : (s.setCore x).props = s.props := rfl
@[simp] theorem State.setCore_replicas (s : State) (x : Core) : (s.setCore x).replicas = s.replicas := rfl
@[simp] theorem State.setCore_cache (s : State) (x : Core) : (s.setCore x).cache = s.cache := rfl
@[simp] theorem State.setCore_attic (s : State) (x : Core) : (s.setCore x).attic = s.attic := rfl
@[simp] theorem State.setCore_sets (s : State) (x : Core) : (s.setCore x).sets = s.sets := rfl
@[simp] theorem State.setCore_ctxs (s : State) (x : Core) : (s.setCore x).ctxs = s.ctxs := rfl
@[simp] theorem State.setCore_ops (s : State) (x : Core) : (s.setCore x).ops = s.ops := rfl
@[simp] theorem State.setCore_grants (s : State) (x : Core) : (s.setCore x).grants = s.grants := rfl
@[simp] theorem State.setCore_queues (s : State) (x : Core) : (s.setCore x).queues = s.queues := rfl
@[simp] theorem State.setCore_launches (s : State) (x : Core) : (s.setCore x).launches = s.launches := rfl
@[simp] theorem State.setCore_galleys (s : State) (x : Core) : (s.setCore x).galleys = s.galleys := rfl
@[simp] theorem State.setCore_dev (s : State) (x : Core) : (s.setCore x).dev = s.dev := rfl
@[simp] theorem State.setCore_updates (s : State) (x : Core) : (s.setCore x).updates = s.updates := rfl
@[simp] theorem State.setCore_waits (s : State) (x : Core) : (s.setCore x).waits = s.waits := rfl
@[simp] theorem State.setCore_trapped (s : State) (x : Core) : (s.setCore x).trapped = s.trapped := rfl
@[simp] theorem State.setCore_traceNow (s : State) (x : Core) : (s.setCore x).traceNow = s.traceNow := rfl

@[simp] theorem State.modCore_agenda (s : State) (c : Nat) (f : Core → Core) : (s.modCore c f).agenda = s.agenda := rfl
@[simp] theorem State.modCore_issuer (s : State) (c : Nat) (f : Core → Core) : (s.modCore c f).issuer = s.issuer := rfl
@[simp] theorem State.modCore_issued (s : State) (c : Nat) (f : Core → Core) : (s.modCore c f).issued = s.issued := rfl
@[simp] theorem State.modCore_free (s : State) (c : Nat) (f : Core → Core) : (s.modCore c f).free = s.free := rfl
@[simp] theorem State.modCore_nextId (s : State) (c : Nat) (f : Core → Core) : (s.modCore c f).nextId = s.nextId := rfl
@[simp] theorem State.modCore_cycle (s : State) (c : Nat) (f : Core → Core) : (s.modCore c f).cycle = s.cycle := rfl
@[simp] theorem State.modCore_picos (s : State) (c : Nat) (f : Core → Core) : (s.modCore c f).picos = s.picos := rfl
@[simp] theorem State.modCore_mem (s : State) (c : Nat) (f : Core → Core) : (s.modCore c f).mem = s.mem := rfl
@[simp] theorem State.modCore_memPoison (s : State) (c : Nat) (f : Core → Core) : (s.modCore c f).memPoison = s.memPoison := rfl
@[simp] theorem State.modCore_props (s : State) (c : Nat) (f : Core → Core) : (s.modCore c f).props = s.props := rfl
@[simp] theorem State.modCore_replicas (s : State) (c : Nat) (f : Core → Core) : (s.modCore c f).replicas = s.replicas := rfl
@[simp] theorem State.modCore_cache (s : State) (c : Nat) (f : Core → Core) : (s.modCore c f).cache = s.cache := rfl
@[simp] theorem State.modCore_attic (s : State) (c : Nat) (f : Core → Core) : (s.modCore c f).attic = s.attic := rfl
@[simp] theorem State.modCore_sets (s : State) (c : Nat) (f : Core → Core) : (s.modCore c f).sets = s.sets := rfl
@[simp] theorem State.modCore_ctxs (s : State) (c : Nat) (f : Core → Core) : (s.modCore c f).ctxs = s.ctxs := rfl
@[simp] theorem State.modCore_ops (s : State) (c : Nat) (f : Core → Core) : (s.modCore c f).ops = s.ops := rfl
@[simp] theorem State.modCore_grants (s : State) (c : Nat) (f : Core → Core) : (s.modCore c f).grants = s.grants := rfl
@[simp] theorem State.modCore_queues (s : State) (c : Nat) (f : Core → Core) : (s.modCore c f).queues = s.queues := rfl
@[simp] theorem State.modCore_launches (s : State) (c : Nat) (f : Core → Core) : (s.modCore c f).launches = s.launches := rfl
@[simp] theorem State.modCore_galleys (s : State) (c : Nat) (f : Core → Core) : (s.modCore c f).galleys = s.galleys := rfl
@[simp] theorem State.modCore_dev (s : State) (c : Nat) (f : Core → Core) : (s.modCore c f).dev = s.dev := rfl
@[simp] theorem State.modCore_updates (s : State) (c : Nat) (f : Core → Core) : (s.modCore c f).updates = s.updates := rfl
@[simp] theorem State.modCore_waits (s : State) (c : Nat) (f : Core → Core) : (s.modCore c f).waits = s.waits := rfl
@[simp] theorem State.modCore_trapped (s : State) (c : Nat) (f : Core → Core) : (s.modCore c f).trapped = s.trapped := rfl
@[simp] theorem State.modCore_traceNow (s : State) (c : Nat) (f : Core → Core) : (s.modCore c f).traceNow = s.traceNow := rfl

@[simp] theorem State.modGroup_agenda (s : State) (c slot : Nat) (f : Group → Group) : (s.modGroup c slot f).agenda = s.agenda := rfl
@[simp] theorem State.modGroup_issuer (s : State) (c slot : Nat) (f : Group → Group) : (s.modGroup c slot f).issuer = s.issuer := rfl
@[simp] theorem State.modGroup_issued (s : State) (c slot : Nat) (f : Group → Group) : (s.modGroup c slot f).issued = s.issued := rfl
@[simp] theorem State.modGroup_free (s : State) (c slot : Nat) (f : Group → Group) : (s.modGroup c slot f).free = s.free := rfl
@[simp] theorem State.modGroup_nextId (s : State) (c slot : Nat) (f : Group → Group) : (s.modGroup c slot f).nextId = s.nextId := rfl
@[simp] theorem State.modGroup_cycle (s : State) (c slot : Nat) (f : Group → Group) : (s.modGroup c slot f).cycle = s.cycle := rfl
@[simp] theorem State.modGroup_picos (s : State) (c slot : Nat) (f : Group → Group) : (s.modGroup c slot f).picos = s.picos := rfl
@[simp] theorem State.modGroup_mem (s : State) (c slot : Nat) (f : Group → Group) : (s.modGroup c slot f).mem = s.mem := rfl
@[simp] theorem State.modGroup_memPoison (s : State) (c slot : Nat) (f : Group → Group) : (s.modGroup c slot f).memPoison = s.memPoison := rfl
@[simp] theorem State.modGroup_props (s : State) (c slot : Nat) (f : Group → Group) : (s.modGroup c slot f).props = s.props := rfl
@[simp] theorem State.modGroup_replicas (s : State) (c slot : Nat) (f : Group → Group) : (s.modGroup c slot f).replicas = s.replicas := rfl
@[simp] theorem State.modGroup_cache (s : State) (c slot : Nat) (f : Group → Group) : (s.modGroup c slot f).cache = s.cache := rfl
@[simp] theorem State.modGroup_attic (s : State) (c slot : Nat) (f : Group → Group) : (s.modGroup c slot f).attic = s.attic := rfl
@[simp] theorem State.modGroup_sets (s : State) (c slot : Nat) (f : Group → Group) : (s.modGroup c slot f).sets = s.sets := rfl
@[simp] theorem State.modGroup_ctxs (s : State) (c slot : Nat) (f : Group → Group) : (s.modGroup c slot f).ctxs = s.ctxs := rfl
@[simp] theorem State.modGroup_ops (s : State) (c slot : Nat) (f : Group → Group) : (s.modGroup c slot f).ops = s.ops := rfl
@[simp] theorem State.modGroup_grants (s : State) (c slot : Nat) (f : Group → Group) : (s.modGroup c slot f).grants = s.grants := rfl
@[simp] theorem State.modGroup_queues (s : State) (c slot : Nat) (f : Group → Group) : (s.modGroup c slot f).queues = s.queues := rfl
@[simp] theorem State.modGroup_launches (s : State) (c slot : Nat) (f : Group → Group) : (s.modGroup c slot f).launches = s.launches := rfl
@[simp] theorem State.modGroup_galleys (s : State) (c slot : Nat) (f : Group → Group) : (s.modGroup c slot f).galleys = s.galleys := rfl
@[simp] theorem State.modGroup_dev (s : State) (c slot : Nat) (f : Group → Group) : (s.modGroup c slot f).dev = s.dev := rfl
@[simp] theorem State.modGroup_updates (s : State) (c slot : Nat) (f : Group → Group) : (s.modGroup c slot f).updates = s.updates := rfl
@[simp] theorem State.modGroup_waits (s : State) (c slot : Nat) (f : Group → Group) : (s.modGroup c slot f).waits = s.waits := rfl
@[simp] theorem State.modGroup_trapped (s : State) (c slot : Nat) (f : Group → Group) : (s.modGroup c slot f).trapped = s.trapped := rfl
@[simp] theorem State.modGroup_traceNow (s : State) (c slot : Nat) (f : Group → Group) : (s.modGroup c slot f).traceNow = s.traceNow := rfl

@[simp] theorem State.modSplit_agenda (s : State) (c slot i : Nat) (f : Split → Split) : (s.modSplit c slot i f).agenda = s.agenda := rfl
@[simp] theorem State.modSplit_issuer (s : State) (c slot i : Nat) (f : Split → Split) : (s.modSplit c slot i f).issuer = s.issuer := rfl
@[simp] theorem State.modSplit_issued (s : State) (c slot i : Nat) (f : Split → Split) : (s.modSplit c slot i f).issued = s.issued := rfl
@[simp] theorem State.modSplit_free (s : State) (c slot i : Nat) (f : Split → Split) : (s.modSplit c slot i f).free = s.free := rfl
@[simp] theorem State.modSplit_nextId (s : State) (c slot i : Nat) (f : Split → Split) : (s.modSplit c slot i f).nextId = s.nextId := rfl
@[simp] theorem State.modSplit_cycle (s : State) (c slot i : Nat) (f : Split → Split) : (s.modSplit c slot i f).cycle = s.cycle := rfl
@[simp] theorem State.modSplit_picos (s : State) (c slot i : Nat) (f : Split → Split) : (s.modSplit c slot i f).picos = s.picos := rfl
@[simp] theorem State.modSplit_mem (s : State) (c slot i : Nat) (f : Split → Split) : (s.modSplit c slot i f).mem = s.mem := rfl
@[simp] theorem State.modSplit_memPoison (s : State) (c slot i : Nat) (f : Split → Split) : (s.modSplit c slot i f).memPoison = s.memPoison := rfl
@[simp] theorem State.modSplit_props (s : State) (c slot i : Nat) (f : Split → Split) : (s.modSplit c slot i f).props = s.props := rfl
@[simp] theorem State.modSplit_replicas (s : State) (c slot i : Nat) (f : Split → Split) : (s.modSplit c slot i f).replicas = s.replicas := rfl
@[simp] theorem State.modSplit_cache (s : State) (c slot i : Nat) (f : Split → Split) : (s.modSplit c slot i f).cache = s.cache := rfl
@[simp] theorem State.modSplit_attic (s : State) (c slot i : Nat) (f : Split → Split) : (s.modSplit c slot i f).attic = s.attic := rfl
@[simp] theorem State.modSplit_sets (s : State) (c slot i : Nat) (f : Split → Split) : (s.modSplit c slot i f).sets = s.sets := rfl
@[simp] theorem State.modSplit_ctxs (s : State) (c slot i : Nat) (f : Split → Split) : (s.modSplit c slot i f).ctxs = s.ctxs := rfl
@[simp] theorem State.modSplit_ops (s : State) (c slot i : Nat) (f : Split → Split) : (s.modSplit c slot i f).ops = s.ops := rfl
@[simp] theorem State.modSplit_grants (s : State) (c slot i : Nat) (f : Split → Split) : (s.modSplit c slot i f).grants = s.grants := rfl
@[simp] theorem State.modSplit_queues (s : State) (c slot i : Nat) (f : Split → Split) : (s.modSplit c slot i f).queues = s.queues := rfl
@[simp] theorem State.modSplit_launches (s : State) (c slot i : Nat) (f : Split → Split) : (s.modSplit c slot i f).launches = s.launches := rfl
@[simp] theorem State.modSplit_galleys (s : State) (c slot i : Nat) (f : Split → Split) : (s.modSplit c slot i f).galleys = s.galleys := rfl
@[simp] theorem State.modSplit_dev (s : State) (c slot i : Nat) (f : Split → Split) : (s.modSplit c slot i f).dev = s.dev := rfl
@[simp] theorem State.modSplit_updates (s : State) (c slot i : Nat) (f : Split → Split) : (s.modSplit c slot i f).updates = s.updates := rfl
@[simp] theorem State.modSplit_waits (s : State) (c slot i : Nat) (f : Split → Split) : (s.modSplit c slot i f).waits = s.waits := rfl
@[simp] theorem State.modSplit_trapped (s : State) (c slot i : Nat) (f : Split → Split) : (s.modSplit c slot i f).trapped = s.trapped := rfl
@[simp] theorem State.modSplit_traceNow (s : State) (c slot i : Nat) (f : Split → Split) : (s.modSplit c slot i f).traceNow = s.traceNow := rfl

@[simp] theorem State.modBlock_agenda (s : State) (c b : Nat) (f : Block → Block) : (s.modBlock c b f).agenda = s.agenda := rfl
@[simp] theorem State.modBlock_issuer (s : State) (c b : Nat) (f : Block → Block) : (s.modBlock c b f).issuer = s.issuer := rfl
@[simp] theorem State.modBlock_issued (s : State) (c b : Nat) (f : Block → Block) : (s.modBlock c b f).issued = s.issued := rfl
@[simp] theorem State.modBlock_free (s : State) (c b : Nat) (f : Block → Block) : (s.modBlock c b f).free = s.free := rfl
@[simp] theorem State.modBlock_nextId (s : State) (c b : Nat) (f : Block → Block) : (s.modBlock c b f).nextId = s.nextId := rfl
@[simp] theorem State.modBlock_cycle (s : State) (c b : Nat) (f : Block → Block) : (s.modBlock c b f).cycle = s.cycle := rfl
@[simp] theorem State.modBlock_picos (s : State) (c b : Nat) (f : Block → Block) : (s.modBlock c b f).picos = s.picos := rfl
@[simp] theorem State.modBlock_mem (s : State) (c b : Nat) (f : Block → Block) : (s.modBlock c b f).mem = s.mem := rfl
@[simp] theorem State.modBlock_memPoison (s : State) (c b : Nat) (f : Block → Block) : (s.modBlock c b f).memPoison = s.memPoison := rfl
@[simp] theorem State.modBlock_props (s : State) (c b : Nat) (f : Block → Block) : (s.modBlock c b f).props = s.props := rfl
@[simp] theorem State.modBlock_replicas (s : State) (c b : Nat) (f : Block → Block) : (s.modBlock c b f).replicas = s.replicas := rfl
@[simp] theorem State.modBlock_cache (s : State) (c b : Nat) (f : Block → Block) : (s.modBlock c b f).cache = s.cache := rfl
@[simp] theorem State.modBlock_attic (s : State) (c b : Nat) (f : Block → Block) : (s.modBlock c b f).attic = s.attic := rfl
@[simp] theorem State.modBlock_sets (s : State) (c b : Nat) (f : Block → Block) : (s.modBlock c b f).sets = s.sets := rfl
@[simp] theorem State.modBlock_ctxs (s : State) (c b : Nat) (f : Block → Block) : (s.modBlock c b f).ctxs = s.ctxs := rfl
@[simp] theorem State.modBlock_ops (s : State) (c b : Nat) (f : Block → Block) : (s.modBlock c b f).ops = s.ops := rfl
@[simp] theorem State.modBlock_grants (s : State) (c b : Nat) (f : Block → Block) : (s.modBlock c b f).grants = s.grants := rfl
@[simp] theorem State.modBlock_queues (s : State) (c b : Nat) (f : Block → Block) : (s.modBlock c b f).queues = s.queues := rfl
@[simp] theorem State.modBlock_launches (s : State) (c b : Nat) (f : Block → Block) : (s.modBlock c b f).launches = s.launches := rfl
@[simp] theorem State.modBlock_galleys (s : State) (c b : Nat) (f : Block → Block) : (s.modBlock c b f).galleys = s.galleys := rfl
@[simp] theorem State.modBlock_dev (s : State) (c b : Nat) (f : Block → Block) : (s.modBlock c b f).dev = s.dev := rfl
@[simp] theorem State.modBlock_updates (s : State) (c b : Nat) (f : Block → Block) : (s.modBlock c b f).updates = s.updates := rfl
@[simp] theorem State.modBlock_waits (s : State) (c b : Nat) (f : Block → Block) : (s.modBlock c b f).waits = s.waits := rfl
@[simp] theorem State.modBlock_trapped (s : State) (c b : Nat) (f : Block → Block) : (s.modBlock c b f).trapped = s.trapped := rfl
@[simp] theorem State.modBlock_traceNow (s : State) (c b : Nat) (f : Block → Block) : (s.modBlock c b f).traceNow = s.traceNow := rfl

@[simp] theorem State.modCtx_agenda (s : State) (c : Nat) (f : Ctx → Ctx) : (s.modCtx c f).agenda = s.agenda := rfl
@[simp] theorem State.modCtx_issuer (s : State) (c : Nat) (f : Ctx → Ctx) : (s.modCtx c f).issuer = s.issuer := rfl
@[simp] theorem State.modCtx_issued (s : State) (c : Nat) (f : Ctx → Ctx) : (s.modCtx c f).issued = s.issued := rfl
@[simp] theorem State.modCtx_free (s : State) (c : Nat) (f : Ctx → Ctx) : (s.modCtx c f).free = s.free := rfl
@[simp] theorem State.modCtx_nextId (s : State) (c : Nat) (f : Ctx → Ctx) : (s.modCtx c f).nextId = s.nextId := rfl
@[simp] theorem State.modCtx_cycle (s : State) (c : Nat) (f : Ctx → Ctx) : (s.modCtx c f).cycle = s.cycle := rfl
@[simp] theorem State.modCtx_picos (s : State) (c : Nat) (f : Ctx → Ctx) : (s.modCtx c f).picos = s.picos := rfl
@[simp] theorem State.modCtx_mem (s : State) (c : Nat) (f : Ctx → Ctx) : (s.modCtx c f).mem = s.mem := rfl
@[simp] theorem State.modCtx_memPoison (s : State) (c : Nat) (f : Ctx → Ctx) : (s.modCtx c f).memPoison = s.memPoison := rfl
@[simp] theorem State.modCtx_props (s : State) (c : Nat) (f : Ctx → Ctx) : (s.modCtx c f).props = s.props := rfl
@[simp] theorem State.modCtx_replicas (s : State) (c : Nat) (f : Ctx → Ctx) : (s.modCtx c f).replicas = s.replicas := rfl
@[simp] theorem State.modCtx_cache (s : State) (c : Nat) (f : Ctx → Ctx) : (s.modCtx c f).cache = s.cache := rfl
@[simp] theorem State.modCtx_attic (s : State) (c : Nat) (f : Ctx → Ctx) : (s.modCtx c f).attic = s.attic := rfl
@[simp] theorem State.modCtx_sets (s : State) (c : Nat) (f : Ctx → Ctx) : (s.modCtx c f).sets = s.sets := rfl
@[simp] theorem State.modCtx_cores (s : State) (c : Nat) (f : Ctx → Ctx) : (s.modCtx c f).cores = s.cores := rfl
@[simp] theorem State.modCtx_ops (s : State) (c : Nat) (f : Ctx → Ctx) : (s.modCtx c f).ops = s.ops := rfl
@[simp] theorem State.modCtx_grants (s : State) (c : Nat) (f : Ctx → Ctx) : (s.modCtx c f).grants = s.grants := rfl
@[simp] theorem State.modCtx_queues (s : State) (c : Nat) (f : Ctx → Ctx) : (s.modCtx c f).queues = s.queues := rfl
@[simp] theorem State.modCtx_launches (s : State) (c : Nat) (f : Ctx → Ctx) : (s.modCtx c f).launches = s.launches := rfl
@[simp] theorem State.modCtx_galleys (s : State) (c : Nat) (f : Ctx → Ctx) : (s.modCtx c f).galleys = s.galleys := rfl
@[simp] theorem State.modCtx_dev (s : State) (c : Nat) (f : Ctx → Ctx) : (s.modCtx c f).dev = s.dev := rfl
@[simp] theorem State.modCtx_updates (s : State) (c : Nat) (f : Ctx → Ctx) : (s.modCtx c f).updates = s.updates := rfl
@[simp] theorem State.modCtx_waits (s : State) (c : Nat) (f : Ctx → Ctx) : (s.modCtx c f).waits = s.waits := rfl
@[simp] theorem State.modCtx_trapped (s : State) (c : Nat) (f : Ctx → Ctx) : (s.modCtx c f).trapped = s.trapped := rfl
@[simp] theorem State.modCtx_traceNow (s : State) (c : Nat) (f : Ctx → Ctx) : (s.modCtx c f).traceNow = s.traceNow := rfl

@[simp] theorem State.modOp_agenda (s : State) (n : Nat) (f : Op → Op) : (s.modOp n f).agenda = s.agenda := rfl
@[simp] theorem State.modOp_issuer (s : State) (n : Nat) (f : Op → Op) : (s.modOp n f).issuer = s.issuer := rfl
@[simp] theorem State.modOp_issued (s : State) (n : Nat) (f : Op → Op) : (s.modOp n f).issued = s.issued := rfl
@[simp] theorem State.modOp_free (s : State) (n : Nat) (f : Op → Op) : (s.modOp n f).free = s.free := rfl
@[simp] theorem State.modOp_nextId (s : State) (n : Nat) (f : Op → Op) : (s.modOp n f).nextId = s.nextId := rfl
@[simp] theorem State.modOp_cycle (s : State) (n : Nat) (f : Op → Op) : (s.modOp n f).cycle = s.cycle := rfl
@[simp] theorem State.modOp_picos (s : State) (n : Nat) (f : Op → Op) : (s.modOp n f).picos = s.picos := rfl
@[simp] theorem State.modOp_mem (s : State) (n : Nat) (f : Op → Op) : (s.modOp n f).mem = s.mem := rfl
@[simp] theorem State.modOp_memPoison (s : State) (n : Nat) (f : Op → Op) : (s.modOp n f).memPoison = s.memPoison := rfl
@[simp] theorem State.modOp_props (s : State) (n : Nat) (f : Op → Op) : (s.modOp n f).props = s.props := rfl
@[simp] theorem State.modOp_replicas (s : State) (n : Nat) (f : Op → Op) : (s.modOp n f).replicas = s.replicas := rfl
@[simp] theorem State.modOp_cache (s : State) (n : Nat) (f : Op → Op) : (s.modOp n f).cache = s.cache := rfl
@[simp] theorem State.modOp_attic (s : State) (n : Nat) (f : Op → Op) : (s.modOp n f).attic = s.attic := rfl
@[simp] theorem State.modOp_sets (s : State) (n : Nat) (f : Op → Op) : (s.modOp n f).sets = s.sets := rfl
@[simp] theorem State.modOp_cores (s : State) (n : Nat) (f : Op → Op) : (s.modOp n f).cores = s.cores := rfl
@[simp] theorem State.modOp_ctxs (s : State) (n : Nat) (f : Op → Op) : (s.modOp n f).ctxs = s.ctxs := rfl
@[simp] theorem State.modOp_grants (s : State) (n : Nat) (f : Op → Op) : (s.modOp n f).grants = s.grants := rfl
@[simp] theorem State.modOp_queues (s : State) (n : Nat) (f : Op → Op) : (s.modOp n f).queues = s.queues := rfl
@[simp] theorem State.modOp_launches (s : State) (n : Nat) (f : Op → Op) : (s.modOp n f).launches = s.launches := rfl
@[simp] theorem State.modOp_galleys (s : State) (n : Nat) (f : Op → Op) : (s.modOp n f).galleys = s.galleys := rfl
@[simp] theorem State.modOp_dev (s : State) (n : Nat) (f : Op → Op) : (s.modOp n f).dev = s.dev := rfl
@[simp] theorem State.modOp_updates (s : State) (n : Nat) (f : Op → Op) : (s.modOp n f).updates = s.updates := rfl
@[simp] theorem State.modOp_waits (s : State) (n : Nat) (f : Op → Op) : (s.modOp n f).waits = s.waits := rfl
@[simp] theorem State.modOp_trapped (s : State) (n : Nat) (f : Op → Op) : (s.modOp n f).trapped = s.trapped := rfl
@[simp] theorem State.modOp_traceNow (s : State) (n : Nat) (f : Op → Op) : (s.modOp n f).traceNow = s.traceNow := rfl

@[simp] theorem State.setOpKind_agenda (s : State) (n : Nat) (k : OpKind) : (s.setOpKind n k).agenda = s.agenda := rfl
@[simp] theorem State.setOpKind_issuer (s : State) (n : Nat) (k : OpKind) : (s.setOpKind n k).issuer = s.issuer := rfl
@[simp] theorem State.setOpKind_issued (s : State) (n : Nat) (k : OpKind) : (s.setOpKind n k).issued = s.issued := rfl
@[simp] theorem State.setOpKind_free (s : State) (n : Nat) (k : OpKind) : (s.setOpKind n k).free = s.free := rfl
@[simp] theorem State.setOpKind_nextId (s : State) (n : Nat) (k : OpKind) : (s.setOpKind n k).nextId = s.nextId := rfl
@[simp] theorem State.setOpKind_cycle (s : State) (n : Nat) (k : OpKind) : (s.setOpKind n k).cycle = s.cycle := rfl
@[simp] theorem State.setOpKind_picos (s : State) (n : Nat) (k : OpKind) : (s.setOpKind n k).picos = s.picos := rfl
@[simp] theorem State.setOpKind_mem (s : State) (n : Nat) (k : OpKind) : (s.setOpKind n k).mem = s.mem := rfl
@[simp] theorem State.setOpKind_memPoison (s : State) (n : Nat) (k : OpKind) : (s.setOpKind n k).memPoison = s.memPoison := rfl
@[simp] theorem State.setOpKind_props (s : State) (n : Nat) (k : OpKind) : (s.setOpKind n k).props = s.props := rfl
@[simp] theorem State.setOpKind_replicas (s : State) (n : Nat) (k : OpKind) : (s.setOpKind n k).replicas = s.replicas := rfl
@[simp] theorem State.setOpKind_cache (s : State) (n : Nat) (k : OpKind) : (s.setOpKind n k).cache = s.cache := rfl
@[simp] theorem State.setOpKind_attic (s : State) (n : Nat) (k : OpKind) : (s.setOpKind n k).attic = s.attic := rfl
@[simp] theorem State.setOpKind_sets (s : State) (n : Nat) (k : OpKind) : (s.setOpKind n k).sets = s.sets := rfl
@[simp] theorem State.setOpKind_cores (s : State) (n : Nat) (k : OpKind) : (s.setOpKind n k).cores = s.cores := rfl
@[simp] theorem State.setOpKind_ctxs (s : State) (n : Nat) (k : OpKind) : (s.setOpKind n k).ctxs = s.ctxs := rfl
@[simp] theorem State.setOpKind_grants (s : State) (n : Nat) (k : OpKind) : (s.setOpKind n k).grants = s.grants := rfl
@[simp] theorem State.setOpKind_queues (s : State) (n : Nat) (k : OpKind) : (s.setOpKind n k).queues = s.queues := rfl
@[simp] theorem State.setOpKind_launches (s : State) (n : Nat) (k : OpKind) : (s.setOpKind n k).launches = s.launches := rfl
@[simp] theorem State.setOpKind_galleys (s : State) (n : Nat) (k : OpKind) : (s.setOpKind n k).galleys = s.galleys := rfl
@[simp] theorem State.setOpKind_dev (s : State) (n : Nat) (k : OpKind) : (s.setOpKind n k).dev = s.dev := rfl
@[simp] theorem State.setOpKind_updates (s : State) (n : Nat) (k : OpKind) : (s.setOpKind n k).updates = s.updates := rfl
@[simp] theorem State.setOpKind_waits (s : State) (n : Nat) (k : OpKind) : (s.setOpKind n k).waits = s.waits := rfl
@[simp] theorem State.setOpKind_trapped (s : State) (n : Nat) (k : OpKind) : (s.setOpKind n k).trapped = s.trapped := rfl
@[simp] theorem State.setOpKind_traceNow (s : State) (n : Nat) (k : OpKind) : (s.setOpKind n k).traceNow = s.traceNow := rfl

@[simp] theorem State.dropOp_agenda (s : State) (n : Nat) : (s.dropOp n).agenda = s.agenda := rfl
@[simp] theorem State.dropOp_issuer (s : State) (n : Nat) : (s.dropOp n).issuer = s.issuer := rfl
@[simp] theorem State.dropOp_issued (s : State) (n : Nat) : (s.dropOp n).issued = s.issued := rfl
@[simp] theorem State.dropOp_free (s : State) (n : Nat) : (s.dropOp n).free = s.free := rfl
@[simp] theorem State.dropOp_nextId (s : State) (n : Nat) : (s.dropOp n).nextId = s.nextId := rfl
@[simp] theorem State.dropOp_cycle (s : State) (n : Nat) : (s.dropOp n).cycle = s.cycle := rfl
@[simp] theorem State.dropOp_picos (s : State) (n : Nat) : (s.dropOp n).picos = s.picos := rfl
@[simp] theorem State.dropOp_mem (s : State) (n : Nat) : (s.dropOp n).mem = s.mem := rfl
@[simp] theorem State.dropOp_memPoison (s : State) (n : Nat) : (s.dropOp n).memPoison = s.memPoison := rfl
@[simp] theorem State.dropOp_props (s : State) (n : Nat) : (s.dropOp n).props = s.props := rfl
@[simp] theorem State.dropOp_replicas (s : State) (n : Nat) : (s.dropOp n).replicas = s.replicas := rfl
@[simp] theorem State.dropOp_cache (s : State) (n : Nat) : (s.dropOp n).cache = s.cache := rfl
@[simp] theorem State.dropOp_attic (s : State) (n : Nat) : (s.dropOp n).attic = s.attic := rfl
@[simp] theorem State.dropOp_sets (s : State) (n : Nat) : (s.dropOp n).sets = s.sets := rfl
@[simp] theorem State.dropOp_cores (s : State) (n : Nat) : (s.dropOp n).cores = s.cores := rfl
@[simp] theorem State.dropOp_ctxs (s : State) (n : Nat) : (s.dropOp n).ctxs = s.ctxs := rfl
@[simp] theorem State.dropOp_grants (s : State) (n : Nat) : (s.dropOp n).grants = s.grants := rfl
@[simp] theorem State.dropOp_queues (s : State) (n : Nat) : (s.dropOp n).queues = s.queues := rfl
@[simp] theorem State.dropOp_launches (s : State) (n : Nat) : (s.dropOp n).launches = s.launches := rfl
@[simp] theorem State.dropOp_galleys (s : State) (n : Nat) : (s.dropOp n).galleys = s.galleys := rfl
@[simp] theorem State.dropOp_dev (s : State) (n : Nat) : (s.dropOp n).dev = s.dev := rfl
@[simp] theorem State.dropOp_updates (s : State) (n : Nat) : (s.dropOp n).updates = s.updates := rfl
@[simp] theorem State.dropOp_waits (s : State) (n : Nat) : (s.dropOp n).waits = s.waits := rfl
@[simp] theorem State.dropOp_trapped (s : State) (n : Nat) : (s.dropOp n).trapped = s.trapped := rfl
@[simp] theorem State.dropOp_traceNow (s : State) (n : Nat) : (s.dropOp n).traceNow = s.traceNow := rfl

@[simp] theorem State.modQueue_agenda (s : State) (q : Nat) (f : Queue → Queue) : (s.modQueue q f).agenda = s.agenda := rfl
@[simp] theorem State.modQueue_issuer (s : State) (q : Nat) (f : Queue → Queue) : (s.modQueue q f).issuer = s.issuer := rfl
@[simp] theorem State.modQueue_issued (s : State) (q : Nat) (f : Queue → Queue) : (s.modQueue q f).issued = s.issued := rfl
@[simp] theorem State.modQueue_free (s : State) (q : Nat) (f : Queue → Queue) : (s.modQueue q f).free = s.free := rfl
@[simp] theorem State.modQueue_nextId (s : State) (q : Nat) (f : Queue → Queue) : (s.modQueue q f).nextId = s.nextId := rfl
@[simp] theorem State.modQueue_cycle (s : State) (q : Nat) (f : Queue → Queue) : (s.modQueue q f).cycle = s.cycle := rfl
@[simp] theorem State.modQueue_picos (s : State) (q : Nat) (f : Queue → Queue) : (s.modQueue q f).picos = s.picos := rfl
@[simp] theorem State.modQueue_mem (s : State) (q : Nat) (f : Queue → Queue) : (s.modQueue q f).mem = s.mem := rfl
@[simp] theorem State.modQueue_memPoison (s : State) (q : Nat) (f : Queue → Queue) : (s.modQueue q f).memPoison = s.memPoison := rfl
@[simp] theorem State.modQueue_props (s : State) (q : Nat) (f : Queue → Queue) : (s.modQueue q f).props = s.props := rfl
@[simp] theorem State.modQueue_replicas (s : State) (q : Nat) (f : Queue → Queue) : (s.modQueue q f).replicas = s.replicas := rfl
@[simp] theorem State.modQueue_cache (s : State) (q : Nat) (f : Queue → Queue) : (s.modQueue q f).cache = s.cache := rfl
@[simp] theorem State.modQueue_attic (s : State) (q : Nat) (f : Queue → Queue) : (s.modQueue q f).attic = s.attic := rfl
@[simp] theorem State.modQueue_sets (s : State) (q : Nat) (f : Queue → Queue) : (s.modQueue q f).sets = s.sets := rfl
@[simp] theorem State.modQueue_cores (s : State) (q : Nat) (f : Queue → Queue) : (s.modQueue q f).cores = s.cores := rfl
@[simp] theorem State.modQueue_ctxs (s : State) (q : Nat) (f : Queue → Queue) : (s.modQueue q f).ctxs = s.ctxs := rfl
@[simp] theorem State.modQueue_ops (s : State) (q : Nat) (f : Queue → Queue) : (s.modQueue q f).ops = s.ops := rfl
@[simp] theorem State.modQueue_grants (s : State) (q : Nat) (f : Queue → Queue) : (s.modQueue q f).grants = s.grants := rfl
@[simp] theorem State.modQueue_launches (s : State) (q : Nat) (f : Queue → Queue) : (s.modQueue q f).launches = s.launches := rfl
@[simp] theorem State.modQueue_galleys (s : State) (q : Nat) (f : Queue → Queue) : (s.modQueue q f).galleys = s.galleys := rfl
@[simp] theorem State.modQueue_dev (s : State) (q : Nat) (f : Queue → Queue) : (s.modQueue q f).dev = s.dev := rfl
@[simp] theorem State.modQueue_updates (s : State) (q : Nat) (f : Queue → Queue) : (s.modQueue q f).updates = s.updates := rfl
@[simp] theorem State.modQueue_waits (s : State) (q : Nat) (f : Queue → Queue) : (s.modQueue q f).waits = s.waits := rfl
@[simp] theorem State.modQueue_trapped (s : State) (q : Nat) (f : Queue → Queue) : (s.modQueue q f).trapped = s.trapped := rfl
@[simp] theorem State.modQueue_traceNow (s : State) (q : Nat) (f : Queue → Queue) : (s.modQueue q f).traceNow = s.traceNow := rfl

@[simp] theorem State.modLaunch_agenda (s : State) (n : Nat) (f : LaunchRun → LaunchRun) : (s.modLaunch n f).agenda = s.agenda := rfl
@[simp] theorem State.modLaunch_issuer (s : State) (n : Nat) (f : LaunchRun → LaunchRun) : (s.modLaunch n f).issuer = s.issuer := rfl
@[simp] theorem State.modLaunch_issued (s : State) (n : Nat) (f : LaunchRun → LaunchRun) : (s.modLaunch n f).issued = s.issued := rfl
@[simp] theorem State.modLaunch_free (s : State) (n : Nat) (f : LaunchRun → LaunchRun) : (s.modLaunch n f).free = s.free := rfl
@[simp] theorem State.modLaunch_nextId (s : State) (n : Nat) (f : LaunchRun → LaunchRun) : (s.modLaunch n f).nextId = s.nextId := rfl
@[simp] theorem State.modLaunch_cycle (s : State) (n : Nat) (f : LaunchRun → LaunchRun) : (s.modLaunch n f).cycle = s.cycle := rfl
@[simp] theorem State.modLaunch_picos (s : State) (n : Nat) (f : LaunchRun → LaunchRun) : (s.modLaunch n f).picos = s.picos := rfl
@[simp] theorem State.modLaunch_mem (s : State) (n : Nat) (f : LaunchRun → LaunchRun) : (s.modLaunch n f).mem = s.mem := rfl
@[simp] theorem State.modLaunch_memPoison (s : State) (n : Nat) (f : LaunchRun → LaunchRun) : (s.modLaunch n f).memPoison = s.memPoison := rfl
@[simp] theorem State.modLaunch_props (s : State) (n : Nat) (f : LaunchRun → LaunchRun) : (s.modLaunch n f).props = s.props := rfl
@[simp] theorem State.modLaunch_replicas (s : State) (n : Nat) (f : LaunchRun → LaunchRun) : (s.modLaunch n f).replicas = s.replicas := rfl
@[simp] theorem State.modLaunch_cache (s : State) (n : Nat) (f : LaunchRun → LaunchRun) : (s.modLaunch n f).cache = s.cache := rfl
@[simp] theorem State.modLaunch_attic (s : State) (n : Nat) (f : LaunchRun → LaunchRun) : (s.modLaunch n f).attic = s.attic := rfl
@[simp] theorem State.modLaunch_sets (s : State) (n : Nat) (f : LaunchRun → LaunchRun) : (s.modLaunch n f).sets = s.sets := rfl
@[simp] theorem State.modLaunch_cores (s : State) (n : Nat) (f : LaunchRun → LaunchRun) : (s.modLaunch n f).cores = s.cores := rfl
@[simp] theorem State.modLaunch_ctxs (s : State) (n : Nat) (f : LaunchRun → LaunchRun) : (s.modLaunch n f).ctxs = s.ctxs := rfl
@[simp] theorem State.modLaunch_ops (s : State) (n : Nat) (f : LaunchRun → LaunchRun) : (s.modLaunch n f).ops = s.ops := rfl
@[simp] theorem State.modLaunch_grants (s : State) (n : Nat) (f : LaunchRun → LaunchRun) : (s.modLaunch n f).grants = s.grants := rfl
@[simp] theorem State.modLaunch_queues (s : State) (n : Nat) (f : LaunchRun → LaunchRun) : (s.modLaunch n f).queues = s.queues := rfl
@[simp] theorem State.modLaunch_galleys (s : State) (n : Nat) (f : LaunchRun → LaunchRun) : (s.modLaunch n f).galleys = s.galleys := rfl
@[simp] theorem State.modLaunch_dev (s : State) (n : Nat) (f : LaunchRun → LaunchRun) : (s.modLaunch n f).dev = s.dev := rfl
@[simp] theorem State.modLaunch_updates (s : State) (n : Nat) (f : LaunchRun → LaunchRun) : (s.modLaunch n f).updates = s.updates := rfl
@[simp] theorem State.modLaunch_waits (s : State) (n : Nat) (f : LaunchRun → LaunchRun) : (s.modLaunch n f).waits = s.waits := rfl
@[simp] theorem State.modLaunch_trapped (s : State) (n : Nat) (f : LaunchRun → LaunchRun) : (s.modLaunch n f).trapped = s.trapped := rfl
@[simp] theorem State.modLaunch_traceNow (s : State) (n : Nat) (f : LaunchRun → LaunchRun) : (s.modLaunch n f).traceNow = s.traceNow := rfl

@[simp] theorem State.modGalley_agenda (s : State) (n : Nat) (f : Galley → Galley) : (s.modGalley n f).agenda = s.agenda := rfl
@[simp] theorem State.modGalley_issuer (s : State) (n : Nat) (f : Galley → Galley) : (s.modGalley n f).issuer = s.issuer := rfl
@[simp] theorem State.modGalley_issued (s : State) (n : Nat) (f : Galley → Galley) : (s.modGalley n f).issued = s.issued := rfl
@[simp] theorem State.modGalley_free (s : State) (n : Nat) (f : Galley → Galley) : (s.modGalley n f).free = s.free := rfl
@[simp] theorem State.modGalley_nextId (s : State) (n : Nat) (f : Galley → Galley) : (s.modGalley n f).nextId = s.nextId := rfl
@[simp] theorem State.modGalley_cycle (s : State) (n : Nat) (f : Galley → Galley) : (s.modGalley n f).cycle = s.cycle := rfl
@[simp] theorem State.modGalley_picos (s : State) (n : Nat) (f : Galley → Galley) : (s.modGalley n f).picos = s.picos := rfl
@[simp] theorem State.modGalley_mem (s : State) (n : Nat) (f : Galley → Galley) : (s.modGalley n f).mem = s.mem := rfl
@[simp] theorem State.modGalley_memPoison (s : State) (n : Nat) (f : Galley → Galley) : (s.modGalley n f).memPoison = s.memPoison := rfl
@[simp] theorem State.modGalley_props (s : State) (n : Nat) (f : Galley → Galley) : (s.modGalley n f).props = s.props := rfl
@[simp] theorem State.modGalley_replicas (s : State) (n : Nat) (f : Galley → Galley) : (s.modGalley n f).replicas = s.replicas := rfl
@[simp] theorem State.modGalley_cache (s : State) (n : Nat) (f : Galley → Galley) : (s.modGalley n f).cache = s.cache := rfl
@[simp] theorem State.modGalley_attic (s : State) (n : Nat) (f : Galley → Galley) : (s.modGalley n f).attic = s.attic := rfl
@[simp] theorem State.modGalley_sets (s : State) (n : Nat) (f : Galley → Galley) : (s.modGalley n f).sets = s.sets := rfl
@[simp] theorem State.modGalley_cores (s : State) (n : Nat) (f : Galley → Galley) : (s.modGalley n f).cores = s.cores := rfl
@[simp] theorem State.modGalley_ctxs (s : State) (n : Nat) (f : Galley → Galley) : (s.modGalley n f).ctxs = s.ctxs := rfl
@[simp] theorem State.modGalley_ops (s : State) (n : Nat) (f : Galley → Galley) : (s.modGalley n f).ops = s.ops := rfl
@[simp] theorem State.modGalley_grants (s : State) (n : Nat) (f : Galley → Galley) : (s.modGalley n f).grants = s.grants := rfl
@[simp] theorem State.modGalley_queues (s : State) (n : Nat) (f : Galley → Galley) : (s.modGalley n f).queues = s.queues := rfl
@[simp] theorem State.modGalley_launches (s : State) (n : Nat) (f : Galley → Galley) : (s.modGalley n f).launches = s.launches := rfl
@[simp] theorem State.modGalley_dev (s : State) (n : Nat) (f : Galley → Galley) : (s.modGalley n f).dev = s.dev := rfl
@[simp] theorem State.modGalley_updates (s : State) (n : Nat) (f : Galley → Galley) : (s.modGalley n f).updates = s.updates := rfl
@[simp] theorem State.modGalley_waits (s : State) (n : Nat) (f : Galley → Galley) : (s.modGalley n f).waits = s.waits := rfl
@[simp] theorem State.modGalley_trapped (s : State) (n : Nat) (f : Galley → Galley) : (s.modGalley n f).trapped = s.trapped := rfl
@[simp] theorem State.modGalley_traceNow (s : State) (n : Nat) (f : Galley → Galley) : (s.modGalley n f).traceNow = s.traceNow := rfl

@[simp] theorem State.modDev_agenda (s : State) (f : Device → Device) : (s.modDev f).agenda = s.agenda := rfl
@[simp] theorem State.modDev_issuer (s : State) (f : Device → Device) : (s.modDev f).issuer = s.issuer := rfl
@[simp] theorem State.modDev_issued (s : State) (f : Device → Device) : (s.modDev f).issued = s.issued := rfl
@[simp] theorem State.modDev_free (s : State) (f : Device → Device) : (s.modDev f).free = s.free := rfl
@[simp] theorem State.modDev_nextId (s : State) (f : Device → Device) : (s.modDev f).nextId = s.nextId := rfl
@[simp] theorem State.modDev_cycle (s : State) (f : Device → Device) : (s.modDev f).cycle = s.cycle := rfl
@[simp] theorem State.modDev_picos (s : State) (f : Device → Device) : (s.modDev f).picos = s.picos := rfl
@[simp] theorem State.modDev_mem (s : State) (f : Device → Device) : (s.modDev f).mem = s.mem := rfl
@[simp] theorem State.modDev_memPoison (s : State) (f : Device → Device) : (s.modDev f).memPoison = s.memPoison := rfl
@[simp] theorem State.modDev_props (s : State) (f : Device → Device) : (s.modDev f).props = s.props := rfl
@[simp] theorem State.modDev_replicas (s : State) (f : Device → Device) : (s.modDev f).replicas = s.replicas := rfl
@[simp] theorem State.modDev_cache (s : State) (f : Device → Device) : (s.modDev f).cache = s.cache := rfl
@[simp] theorem State.modDev_attic (s : State) (f : Device → Device) : (s.modDev f).attic = s.attic := rfl
@[simp] theorem State.modDev_sets (s : State) (f : Device → Device) : (s.modDev f).sets = s.sets := rfl
@[simp] theorem State.modDev_cores (s : State) (f : Device → Device) : (s.modDev f).cores = s.cores := rfl
@[simp] theorem State.modDev_ctxs (s : State) (f : Device → Device) : (s.modDev f).ctxs = s.ctxs := rfl
@[simp] theorem State.modDev_ops (s : State) (f : Device → Device) : (s.modDev f).ops = s.ops := rfl
@[simp] theorem State.modDev_grants (s : State) (f : Device → Device) : (s.modDev f).grants = s.grants := rfl
@[simp] theorem State.modDev_queues (s : State) (f : Device → Device) : (s.modDev f).queues = s.queues := rfl
@[simp] theorem State.modDev_launches (s : State) (f : Device → Device) : (s.modDev f).launches = s.launches := rfl
@[simp] theorem State.modDev_galleys (s : State) (f : Device → Device) : (s.modDev f).galleys = s.galleys := rfl
@[simp] theorem State.modDev_updates (s : State) (f : Device → Device) : (s.modDev f).updates = s.updates := rfl
@[simp] theorem State.modDev_waits (s : State) (f : Device → Device) : (s.modDev f).waits = s.waits := rfl
@[simp] theorem State.modDev_trapped (s : State) (f : Device → Device) : (s.modDev f).trapped = s.trapped := rfl
@[simp] theorem State.modDev_traceNow (s : State) (f : Device → Device) : (s.modDev f).traceNow = s.traceNow := rfl

@[simp] theorem State.poke_agenda (s : State) (pa : Nat) (bs : List Byte) : (s.poke pa bs).agenda = s.agenda := rfl
@[simp] theorem State.poke_issuer (s : State) (pa : Nat) (bs : List Byte) : (s.poke pa bs).issuer = s.issuer := rfl
@[simp] theorem State.poke_issued (s : State) (pa : Nat) (bs : List Byte) : (s.poke pa bs).issued = s.issued := rfl
@[simp] theorem State.poke_free (s : State) (pa : Nat) (bs : List Byte) : (s.poke pa bs).free = s.free := rfl
@[simp] theorem State.poke_nextId (s : State) (pa : Nat) (bs : List Byte) : (s.poke pa bs).nextId = s.nextId := rfl
@[simp] theorem State.poke_cycle (s : State) (pa : Nat) (bs : List Byte) : (s.poke pa bs).cycle = s.cycle := rfl
@[simp] theorem State.poke_picos (s : State) (pa : Nat) (bs : List Byte) : (s.poke pa bs).picos = s.picos := rfl
@[simp] theorem State.poke_memPoison (s : State) (pa : Nat) (bs : List Byte) :
    (s.poke pa bs).memPoison = s.memPoison.filter fun k => k < pa || pa + bs.length ≤ k := rfl
@[simp] theorem State.poke_props (s : State) (pa : Nat) (bs : List Byte) : (s.poke pa bs).props = s.props := rfl
@[simp] theorem State.poke_replicas (s : State) (pa : Nat) (bs : List Byte) : (s.poke pa bs).replicas = s.replicas := rfl
@[simp] theorem State.poke_cache (s : State) (pa : Nat) (bs : List Byte) : (s.poke pa bs).cache = s.cache := rfl
@[simp] theorem State.poke_attic (s : State) (pa : Nat) (bs : List Byte) : (s.poke pa bs).attic = s.attic := rfl
@[simp] theorem State.poke_sets (s : State) (pa : Nat) (bs : List Byte) : (s.poke pa bs).sets = s.sets := rfl
@[simp] theorem State.poke_cores (s : State) (pa : Nat) (bs : List Byte) : (s.poke pa bs).cores = s.cores := rfl
@[simp] theorem State.poke_ctxs (s : State) (pa : Nat) (bs : List Byte) : (s.poke pa bs).ctxs = s.ctxs := rfl
@[simp] theorem State.poke_ops (s : State) (pa : Nat) (bs : List Byte) : (s.poke pa bs).ops = s.ops := rfl
@[simp] theorem State.poke_grants (s : State) (pa : Nat) (bs : List Byte) : (s.poke pa bs).grants = s.grants := rfl
@[simp] theorem State.poke_queues (s : State) (pa : Nat) (bs : List Byte) : (s.poke pa bs).queues = s.queues := rfl
@[simp] theorem State.poke_launches (s : State) (pa : Nat) (bs : List Byte) : (s.poke pa bs).launches = s.launches := rfl
@[simp] theorem State.poke_galleys (s : State) (pa : Nat) (bs : List Byte) : (s.poke pa bs).galleys = s.galleys := rfl
@[simp] theorem State.poke_dev (s : State) (pa : Nat) (bs : List Byte) : (s.poke pa bs).dev = s.dev := rfl
@[simp] theorem State.poke_updates (s : State) (pa : Nat) (bs : List Byte) : (s.poke pa bs).updates = s.updates := rfl
@[simp] theorem State.poke_waits (s : State) (pa : Nat) (bs : List Byte) : (s.poke pa bs).waits = s.waits := rfl
@[simp] theorem State.poke_trapped (s : State) (pa : Nat) (bs : List Byte) : (s.poke pa bs).trapped = s.trapped := rfl
@[simp] theorem State.poke_traceNow (s : State) (pa : Nat) (bs : List Byte) : (s.poke pa bs).traceNow = s.traceNow := rfl

@[simp] theorem State.coin_agenda (s : State) : s.coin.2.agenda = s.agenda := rfl
@[simp] theorem State.coin_issuer (s : State) : s.coin.2.issuer = s.issuer := rfl
@[simp] theorem State.coin_issued (s : State) : s.coin.2.issued = s.issued := rfl
@[simp] theorem State.coin_nextId (s : State) : s.coin.2.nextId = s.nextId := rfl
@[simp] theorem State.coin_cycle (s : State) : s.coin.2.cycle = s.cycle := rfl
@[simp] theorem State.coin_picos (s : State) : s.coin.2.picos = s.picos := rfl
@[simp] theorem State.coin_mem (s : State) : s.coin.2.mem = s.mem := rfl
@[simp] theorem State.coin_memPoison (s : State) : s.coin.2.memPoison = s.memPoison := rfl
@[simp] theorem State.coin_props (s : State) : s.coin.2.props = s.props := rfl
@[simp] theorem State.coin_replicas (s : State) : s.coin.2.replicas = s.replicas := rfl
@[simp] theorem State.coin_cache (s : State) : s.coin.2.cache = s.cache := rfl
@[simp] theorem State.coin_attic (s : State) : s.coin.2.attic = s.attic := rfl
@[simp] theorem State.coin_sets (s : State) : s.coin.2.sets = s.sets := rfl
@[simp] theorem State.coin_cores (s : State) : s.coin.2.cores = s.cores := rfl
@[simp] theorem State.coin_ctxs (s : State) : s.coin.2.ctxs = s.ctxs := rfl
@[simp] theorem State.coin_ops (s : State) : s.coin.2.ops = s.ops := rfl
@[simp] theorem State.coin_grants (s : State) : s.coin.2.grants = s.grants := rfl
@[simp] theorem State.coin_queues (s : State) : s.coin.2.queues = s.queues := rfl
@[simp] theorem State.coin_launches (s : State) : s.coin.2.launches = s.launches := rfl
@[simp] theorem State.coin_galleys (s : State) : s.coin.2.galleys = s.galleys := rfl
@[simp] theorem State.coin_dev (s : State) : s.coin.2.dev = s.dev := rfl
@[simp] theorem State.coin_updates (s : State) : s.coin.2.updates = s.updates := rfl
@[simp] theorem State.coin_waits (s : State) : s.coin.2.waits = s.waits := rfl
@[simp] theorem State.coin_trapped (s : State) : s.coin.2.trapped = s.trapped := rfl
@[simp] theorem State.coin_traceNow (s : State) : s.coin.2.traceNow = s.traceNow := rfl
@[simp] theorem State.coin_free (s : State) : s.coin.2.free = s.free + 1 := rfl
@[simp] theorem State.fresh_agenda (s : State) : s.fresh.2.agenda = s.agenda := rfl
@[simp] theorem State.fresh_issuer (s : State) : s.fresh.2.issuer = s.issuer := rfl
@[simp] theorem State.fresh_issued (s : State) : s.fresh.2.issued = s.issued := rfl
@[simp] theorem State.fresh_free (s : State) : s.fresh.2.free = s.free := rfl
@[simp] theorem State.fresh_cycle (s : State) : s.fresh.2.cycle = s.cycle := rfl
@[simp] theorem State.fresh_picos (s : State) : s.fresh.2.picos = s.picos := rfl
@[simp] theorem State.fresh_mem (s : State) : s.fresh.2.mem = s.mem := rfl
@[simp] theorem State.fresh_memPoison (s : State) : s.fresh.2.memPoison = s.memPoison := rfl
@[simp] theorem State.fresh_props (s : State) : s.fresh.2.props = s.props := rfl
@[simp] theorem State.fresh_replicas (s : State) : s.fresh.2.replicas = s.replicas := rfl
@[simp] theorem State.fresh_cache (s : State) : s.fresh.2.cache = s.cache := rfl
@[simp] theorem State.fresh_attic (s : State) : s.fresh.2.attic = s.attic := rfl
@[simp] theorem State.fresh_sets (s : State) : s.fresh.2.sets = s.sets := rfl
@[simp] theorem State.fresh_cores (s : State) : s.fresh.2.cores = s.cores := rfl
@[simp] theorem State.fresh_ctxs (s : State) : s.fresh.2.ctxs = s.ctxs := rfl
@[simp] theorem State.fresh_ops (s : State) : s.fresh.2.ops = s.ops := rfl
@[simp] theorem State.fresh_grants (s : State) : s.fresh.2.grants = s.grants := rfl
@[simp] theorem State.fresh_queues (s : State) : s.fresh.2.queues = s.queues := rfl
@[simp] theorem State.fresh_launches (s : State) : s.fresh.2.launches = s.launches := rfl
@[simp] theorem State.fresh_galleys (s : State) : s.fresh.2.galleys = s.galleys := rfl
@[simp] theorem State.fresh_dev (s : State) : s.fresh.2.dev = s.dev := rfl
@[simp] theorem State.fresh_updates (s : State) : s.fresh.2.updates = s.updates := rfl
@[simp] theorem State.fresh_waits (s : State) : s.fresh.2.waits = s.waits := rfl
@[simp] theorem State.fresh_trapped (s : State) : s.fresh.2.trapped = s.trapped := rfl
@[simp] theorem State.fresh_traceNow (s : State) : s.fresh.2.traceNow = s.traceNow := rfl
@[simp] theorem State.fresh_nextId (s : State) : s.fresh.2.nextId = s.nextId + 1 := rfl
@[simp] theorem State.fresh_fst (s : State) : s.fresh.1 = s.nextId := rfl

end Sys2Proof.Machine
end

