-- ==== Sys2Proof/Laws/Access.lean ====
section
/-! SUPPORT. Finding after replacing: cores, groups and splits, and cells of an array. -/

namespace Sys2Proof.Machine

theorem core_index (s : State) (c : Nat) : (s.core c).index = c := by
  unfold State.core
  cases h : s.cores.find? fun x => x.index == c with
  | none => rfl
  | some x => simpa using List.find?_some h

theorem find_putCore_same (x : Core) (xs : List Core) : (putCore x xs).find? (fun y => y.index == x.index) = some x := by
  induction xs with
  | nil => simp [putCore]
  | cons y r ih =>
    unfold putCore
    split
    · simp
    · split
      · simp
      · rename_i h _
        simp [h, ih]

theorem find_putCore_other (x : Core) (c : Nat) (hc : c ≠ x.index) (xs : List Core) :
    (putCore x xs).find? (fun y => y.index == c) = xs.find? (fun y => y.index == c) := by
  have hx : (x.index == c) = false := by simpa using fun h => hc h.symm
  induction xs with
  | nil => simp [putCore, hx]
  | cons y r ih =>
    unfold putCore
    split
    · rename_i h
      have hy : (y.index == c) = false := by rw [h]; exact hx
      simp [hx, hy]
    · split
      · simp [hx]
      · simp [ih, List.find?_cons]

theorem core_setCore (s : State) (x : Core) : (s.setCore x).core x.index = x := by
  simp [State.core, State.setCore, find_putCore_same]

theorem core_setCore_other (s : State) (x : Core) (c : Nat) (h : c ≠ x.index) : (s.setCore x).core c = s.core c := by
  simp [State.core, State.setCore, find_putCore_other x c h]

theorem core_modCore (s : State) (c : Nat) (f : Core → Core) (hf : (f (s.core c)).index = c) : (s.modCore c f).core c = f (s.core c) := by
  have := core_setCore s (f (s.core c))
  rwa [hf] at this

theorem core_modCore_other (s : State) (c b : Nat) (f : Core → Core) (hf : (f (s.core c)).index = c) (h : b ≠ c) :
    (s.modCore c f).core b = s.core b := core_setCore_other s _ b (by rw [hf]; exact h)

@[simp] theorem modGroup_index (x : Core) (slot : Nat) (f : Group → Group) : (x.modGroup slot f).index = x.index := rfl
@[simp] theorem modGroup_rows (x : Core) (slot : Nat) (f : Group → Group) : (x.modGroup slot f).rows = x.rows := rfl

theorem find_replaceFirst_same {α : Type} (p : α → Bool) (f : α → α) (hf : ∀ a, p a = true → p (f a) = true) (xs : List α) :
    (replaceFirst p f xs).find? p = (xs.find? p).map f := by
  induction xs with
  | nil => rfl
  | cons a r ih =>
    unfold replaceFirst
    by_cases h : p a = true
    · simp [h, hf a h]
    · simp [h, ih]

theorem find_replaceFirst_other {α : Type} (p q : α → Bool) (f : α → α) (hf : ∀ a, p a = true → q a = false)
    (hg : ∀ a, p a = true → q (f a) = false) (xs : List α) : (replaceFirst p f xs).find? q = xs.find? q := by
  induction xs with
  | nil => rfl
  | cons a r ih =>
    unfold replaceFirst
    by_cases h : p a = true
    · simp [h, hf a h, hg a h]
    · simp [h, ih, List.find?_cons]

theorem group_modGroup (x : Core) (slot : Nat) (f : Group → Group) (hf : ∀ g, (f g).slot = g.slot) :
    (x.modGroup slot f).group? slot = (x.group? slot).map f :=
  find_replaceFirst_same _ f (fun a h => by simpa [hf a] using h) x.groups

theorem group_modGroup_other (x : Core) (slot b : Nat) (f : Group → Group) (hf : ∀ g, (f g).slot = g.slot) (h : b ≠ slot) :
    (x.modGroup slot f).group? b = x.group? b :=
  find_replaceFirst_other _ _ f
    (fun a ha => by have : a.slot = slot := by simpa using ha
                    simpa [this] using fun e => h e.symm)
    (fun a ha => by have : a.slot = slot := by simpa using ha
                    simpa [hf a, this] using fun e => h e.symm) x.groups

theorem split_modSplit (g : Group) (i : Nat) (f : Split → Split) (hf : ∀ a, (f a).idx = a.idx) :
    (g.modSplit i f).split? i = (g.split? i).map f :=
  find_replaceFirst_same _ f (fun a h => by simpa [hf a] using h) g.splits

theorem split_modSplit_other (g : Group) (i j : Nat) (f : Split → Split) (hf : ∀ a, (f a).idx = a.idx) (h : j ≠ i) :
    (g.modSplit i f).split? j = g.split? j :=
  find_replaceFirst_other _ _ f
    (fun a ha => by have : a.idx = i := by simpa using ha
                    simpa [this] using fun e => h e.symm)
    (fun a ha => by have : a.idx = i := by simpa using ha
                    simpa [hf a, this] using fun e => h e.symm) g.splits

theorem cellAt_cellSet {w : Nat} (k : Nat) (v : BitVec w) (xs : List (Nat × BitVec w)) : cellAt k (cellSet k v xs) = some v := by
  induction xs with
  | nil => simp [cellSet, cellAt]
  | cons p r ih =>
    obtain ⟨j, u⟩ := p
    unfold cellSet
    split
    · simp [cellAt]
    · split
      · simp [cellAt]
      · rename_i h1 h2
        simp [cellAt, h1, h2, ih]

theorem cellAt_cellSet_other {w : Nat} (k j : Nat) (v : BitVec w) (h : j ≠ k) (xs : List (Nat × BitVec w)) :
    cellAt j (cellSet k v xs) = cellAt j xs := by
  induction xs with
  | nil => by_cases hj : j < k <;> simp [cellSet, cellAt, h.symm, hj]
  | cons p r ih =>
    obtain ⟨i, u⟩ := p
    unfold cellSet
    split
    · rename_i e
      subst e
      simp [cellAt, h.symm]
    · split
      · rename_i h1 h2
        by_cases hj : j < k
        · have : i ≠ j := by omega
          have : j < i := by omega
          simp [cellAt, h.symm, hj, *]
        · simp [cellAt, h.symm, hj]
      · simp [cellAt, ih]

theorem word_set (s : Store 32) (k : Nat) (v : Word) : (s.set k v).word k = v := by
  simp [Store.word, Store.set, cellAt_cellSet]

theorem word_set_other (s : Store 32) (k j : Nat) (v : Word) (h : j ≠ k) : (s.set k v).word j = s.word j := by
  simp [Store.word, Store.set, cellAt_cellSet_other k j v h]

theorem byte_set (s : Store 8) (k : Nat) (v : Byte) : (s.set k v).byte k = v := by
  simp [Store.byte, Store.set, cellAt_cellSet]

theorem byte_set_other (s : Store 8) (k j : Nat) (v : Byte) (h : j ≠ k) : (s.set k v).byte j = s.byte j := by
  simp [Store.byte, Store.set, cellAt_cellSet_other k j v h]

end Sys2Proof.Machine
end

