-- ==== Sys2Proof/Laws/Exec.lean ====
section
/-! SUPPORT. The meaning of each constructor, as exec calls it. -/

namespace Sys2Proof.Machine

theorem exec_iadd (k : KReg) (d : VReg) (a : VReg) (b : VReg) (s : State) : exec (.iadd k d a b) s = execIadd k d a b s := rfl
theorem exec_isub (k : KReg) (d : VReg) (a : VReg) (b : VReg) (s : State) : exec (.isub k d a b) s = execIsub k d a b s := rfl
theorem exec_imul (k : KReg) (d : VReg) (a : VReg) (b : VReg) (s : State) : exec (.imul k d a b) s = execImul k d a b s := rfl
theorem exec_imulhZ (k : KReg) (d : VReg) (a : VReg) (b : VReg) (s : State) : exec (.imulhZ k d a b) s = execImulhZ k d a b s := rfl
theorem exec_iminS (k : KReg) (d : VReg) (a : VReg) (b : VReg) (s : State) : exec (.iminS k d a b) s = execIminS k d a b s := rfl
theorem exec_imaxS (k : KReg) (d : VReg) (a : VReg) (b : VReg) (s : State) : exec (.imaxS k d a b) s = execImaxS k d a b s := rfl
theorem exec_iminZ (k : KReg) (d : VReg) (a : VReg) (b : VReg) (s : State) : exec (.iminZ k d a b) s = execIminZ k d a b s := rfl
theorem exec_imaxZ (k : KReg) (d : VReg) (a : VReg) (b : VReg) (s : State) : exec (.imaxZ k d a b) s = execImaxZ k d a b s := rfl
theorem exec_and (k : KReg) (d : VReg) (a : VReg) (b : VReg) (s : State) : exec (.and k d a b) s = execAnd k d a b s := rfl
theorem exec_or (k : KReg) (d : VReg) (a : VReg) (b : VReg) (s : State) : exec (.or k d a b) s = execOr k d a b s := rfl
theorem exec_xor (k : KReg) (d : VReg) (a : VReg) (b : VReg) (s : State) : exec (.xor k d a b) s = execXor k d a b s := rfl
theorem exec_andn (k : KReg) (d : VReg) (a : VReg) (b : VReg) (s : State) : exec (.andn k d a b) s = execAndn k d a b s := rfl
theorem exec_shl (k : KReg) (d : VReg) (a : VReg) (b : VReg) (s : State) : exec (.shl k d a b) s = execShl k d a b s := rfl
theorem exec_shr (k : KReg) (d : VReg) (a : VReg) (b : VReg) (s : State) : exec (.shr k d a b) s = execShr k d a b s := rfl
theorem exec_sar (k : KReg) (d : VReg) (a : VReg) (b : VReg) (s : State) : exec (.sar k d a b) s = execSar k d a b s := rfl
theorem exec_rotl (k : KReg) (d : VReg) (a : VReg) (b : VReg) (s : State) : exec (.rotl k d a b) s = execRotl k d a b s := rfl
theorem exec_popc (k : KReg) (d : VReg) (a : VReg) (s : State) : exec (.popc k d a) s = execPopc k d a s := rfl
theorem exec_clz (k : KReg) (d : VReg) (a : VReg) (s : State) : exec (.clz k d a) s = execClz k d a s := rfl
theorem exec_ctz (k : KReg) (d : VReg) (a : VReg) (s : State) : exec (.ctz k d a) s = execCtz k d a s := rfl
theorem exec_brev (k : KReg) (d : VReg) (a : VReg) (s : State) : exec (.brev k d a) s = execBrev k d a s := rfl
theorem exec_bfeZ (k : KReg) (d : VReg) (a : VReg) (b : VReg) (s : State) : exec (.bfeZ k d a b) s = execBfeZ k d a b s := rfl
theorem exec_bfeS (k : KReg) (d : VReg) (a : VReg) (b : VReg) (s : State) : exec (.bfeS k d a b) s = execBfeS k d a b s := rfl
theorem exec_bfi (k : KReg) (d : VReg) (a : VReg) (b : VReg) (s : State) : exec (.bfi k d a b) s = execBfi k d a b s := rfl
theorem exec_perm (k : KReg) (d : VReg) (a : VReg) (b : VReg) (s : State) : exec (.perm k d a b) s = execPerm k d a b s := rfl
theorem exec_icmp (k : KReg) (c : ICond) (e : KReg) (a : VReg) (b : VReg) (t : IType) (s : State) : exec (.icmp k c e a b t) s = execIcmp k c e a b t s := rfl
theorem exec_iadd64 (k : KReg) (d : VReg) (a : VReg) (b : VReg) (s : State) : exec (.iadd64 k d a b) s = execIadd64 k d a b s := rfl
theorem exec_isub64 (k : KReg) (d : VReg) (a : VReg) (b : VReg) (s : State) : exec (.isub64 k d a b) s = execIsub64 k d a b s := rfl
theorem exec_shl64 (k : KReg) (d : VReg) (a : VReg) (b : VReg) (s : State) : exec (.shl64 k d a b) s = execShl64 k d a b s := rfl
theorem exec_shr64 (k : KReg) (d : VReg) (a : VReg) (b : VReg) (s : State) : exec (.shr64 k d a b) s = execShr64 k d a b s := rfl
theorem exec_imadLo (k : KReg) (d : VReg) (a : VReg) (b : VReg) (s : State) : exec (.imadLo k d a b) s = execImadLo k d a b s := rfl
theorem exec_imadWideZ (k : KReg) (d : VReg) (a : VReg) (b : VReg) (s : State) : exec (.imadWideZ k d a b) s = execImadWideZ k d a b s := rfl
theorem exec_imadWideS (k : KReg) (d : VReg) (a : VReg) (b : VReg) (s : State) : exec (.imadWideS k d a b) s = execImadWideS k d a b s := rfl
theorem exec_imulhS (k : KReg) (d : VReg) (a : VReg) (b : VReg) (s : State) : exec (.imulhS k d a b) s = execImulhS k d a b s := rfl
theorem exec_sel (k : KReg) (d : VReg) (a : VReg) (b : VReg) (s : State) : exec (.sel k d a b) s = execSel k d a b s := rfl
theorem exec_mov (k : KReg) (d : VReg) (a : VReg) (s : State) : exec (.mov k d a) s = execMov k d a s := rfl
theorem exec_laneid (k : KReg) (d : VReg) (s : State) : exec (.laneid k d) s = execLaneid k d s := rfl
theorem exec_ialugIadd (k : KReg) (d : VReg) (a : VReg) (g : GReg) (s : State) : exec (.ialugIadd k d a g) s = execIalugIadd k d a g s := rfl
theorem exec_ialugIsub (k : KReg) (d : VReg) (a : VReg) (g : GReg) (s : State) : exec (.ialugIsub k d a g) s = execIalugIsub k d a g s := rfl
theorem exec_ialugImul (k : KReg) (d : VReg) (a : VReg) (g : GReg) (s : State) : exec (.ialugImul k d a g) s = execIalugImul k d a g s := rfl
theorem exec_ialugAnd (k : KReg) (d : VReg) (a : VReg) (g : GReg) (s : State) : exec (.ialugAnd k d a g) s = execIalugAnd k d a g s := rfl
theorem exec_ialugOr (k : KReg) (d : VReg) (a : VReg) (g : GReg) (s : State) : exec (.ialugOr k d a g) s = execIalugOr k d a g s := rfl
theorem exec_ialugXor (k : KReg) (d : VReg) (a : VReg) (g : GReg) (s : State) : exec (.ialugXor k d a g) s = execIalugXor k d a g s := rfl
theorem exec_ialugShl (k : KReg) (d : VReg) (a : VReg) (g : GReg) (s : State) : exec (.ialugShl k d a g) s = execIalugShl k d a g s := rfl
theorem exec_ialugShr (k : KReg) (d : VReg) (a : VReg) (g : GReg) (s : State) : exec (.ialugShr k d a g) s = execIalugShr k d a g s := rfl
theorem exec_falugFadd (k : KReg) (d : VReg) (a : VReg) (g : GReg) (s : State) : exec (.falugFadd k d a g) s = execFalugFadd k d a g s := rfl
theorem exec_falugFsub (k : KReg) (d : VReg) (a : VReg) (g : GReg) (s : State) : exec (.falugFsub k d a g) s = execFalugFsub k d a g s := rfl
theorem exec_falugFmul (k : KReg) (d : VReg) (a : VReg) (g : GReg) (s : State) : exec (.falugFmul k d a g) s = execFalugFmul k d a g s := rfl
theorem exec_falugFma (k : KReg) (d : VReg) (a : VReg) (g : GReg) (s : State) : exec (.falugFma k d a g) s = execFalugFma k d a g s := rfl
theorem exec_falugFmin (k : KReg) (d : VReg) (a : VReg) (g : GReg) (s : State) : exec (.falugFmin k d a g) s = execFalugFmin k d a g s := rfl
theorem exec_falugFmax (k : KReg) (d : VReg) (a : VReg) (g : GReg) (s : State) : exec (.falugFmax k d a g) s = execFalugFmax k d a g s := rfl
theorem exec_movg (k : KReg) (d : VReg) (g : GReg) (s : State) : exec (.movg k d g) s = execMovg k d g s := rfl
theorem exec_fadd (k : KReg) (d : VReg) (a : VReg) (b : VReg) (t : FType) (s : State) : exec (.fadd k d a b t) s = execFadd k d a b t s := rfl
theorem exec_fsub (k : KReg) (d : VReg) (a : VReg) (b : VReg) (t : FType) (s : State) : exec (.fsub k d a b t) s = execFsub k d a b t s := rfl
theorem exec_fmul (k : KReg) (d : VReg) (a : VReg) (b : VReg) (t : FType) (s : State) : exec (.fmul k d a b t) s = execFmul k d a b t s := rfl
theorem exec_fma (k : KReg) (d : VReg) (a : VReg) (b : VReg) (t : FType) (s : State) : exec (.fma k d a b t) s = execFma k d a b t s := rfl
theorem exec_fmin (k : KReg) (d : VReg) (a : VReg) (b : VReg) (t : FType) (s : State) : exec (.fmin k d a b t) s = execFmin k d a b t s := rfl
theorem exec_fmax (k : KReg) (d : VReg) (a : VReg) (b : VReg) (t : FType) (s : State) : exec (.fmax k d a b t) s = execFmax k d a b t s := rfl
theorem exec_fcmp (k : KReg) (c : FCond) (e : KReg) (a : VReg) (b : VReg) (t : FType) (s : State) : exec (.fcmp k c e a b t) s = execFcmp k c e a b t s := rfl
theorem exec_cvt (k : KReg) (d : VReg) (a : VReg) (c : Fin 128) (m : RMode) (s : State) : exec (.cvt k d a c m) s = execCvt k d a c m s := rfl
theorem exec_xfnRcp (k : KReg) (d : VReg) (a : VReg) (l : La) (s : State) : exec (.xfnRcp k d a l) s = execXfnRcp k d a l s := rfl
theorem exec_xfnRsq (k : KReg) (d : VReg) (a : VReg) (l : La) (s : State) : exec (.xfnRsq k d a l) s = execXfnRsq k d a l s := rfl
theorem exec_xfnSqrt (k : KReg) (d : VReg) (a : VReg) (l : La) (s : State) : exec (.xfnSqrt k d a l) s = execXfnSqrt k d a l s := rfl
theorem exec_xfnExp2 (k : KReg) (d : VReg) (a : VReg) (l : La) (s : State) : exec (.xfnExp2 k d a l) s = execXfnExp2 k d a l s := rfl
theorem exec_xfnLog2 (k : KReg) (d : VReg) (a : VReg) (l : La) (s : State) : exec (.xfnLog2 k d a l) s = execXfnLog2 k d a l s := rfl
theorem exec_xfnSin (k : KReg) (d : VReg) (a : VReg) (l : La) (s : State) : exec (.xfnSin k d a l) s = execXfnSin k d a l s := rfl
theorem exec_xfnCos (k : KReg) (d : VReg) (a : VReg) (l : La) (s : State) : exec (.xfnCos k d a l) s = execXfnCos k d a l s := rfl
theorem exec_xfnTanh (k : KReg) (d : VReg) (a : VReg) (l : La) (s : State) : exec (.xfnTanh k d a l) s = execXfnTanh k d a l s := rfl
theorem exec_shflIdx (k : KReg) (d : VReg) (a : VReg) (b : VReg) (s : State) : exec (.shflIdx k d a b) s = execShflIdx k d a b s := rfl
theorem exec_shflXor (k : KReg) (d : VReg) (a : VReg) (b : VReg) (s : State) : exec (.shflXor k d a b) s = execShflXor k d a b s := rfl
theorem exec_shflUp (k : KReg) (d : VReg) (a : VReg) (b : VReg) (s : State) : exec (.shflUp k d a b) s = execShflUp k d a b s := rfl
theorem exec_shflDown (k : KReg) (d : VReg) (a : VReg) (b : VReg) (s : State) : exec (.shflDown k d a b) s = execShflDown k d a b s := rfl
theorem exec_ldsZ8 (k : KReg) (d : VReg) (a : VReg) (g : AReg) (l : La) (s : State) : exec (.ldsZ8 k d a g l) s = execLdsZ8 k d a g l s := rfl
theorem exec_ldsZ16 (k : KReg) (d : VReg) (a : VReg) (g : AReg) (l : La) (s : State) : exec (.ldsZ16 k d a g l) s = execLdsZ16 k d a g l s := rfl
theorem exec_lds32 (k : KReg) (d : VReg) (a : VReg) (g : AReg) (l : La) (s : State) : exec (.lds32 k d a g l) s = execLds32 k d a g l s := rfl
theorem exec_lds64 (k : KReg) (d : VReg) (a : VReg) (g : AReg) (l : La) (s : State) : exec (.lds64 k d a g l) s = execLds64 k d a g l s := rfl
theorem exec_ldsxS8 (k : KReg) (d : VReg) (a : VReg) (g : AReg) (l : La) (s : State) : exec (.ldsxS8 k d a g l) s = execLdsxS8 k d a g l s := rfl
theorem exec_ldsxS16 (k : KReg) (d : VReg) (a : VReg) (g : AReg) (l : La) (s : State) : exec (.ldsxS16 k d a g l) s = execLdsxS16 k d a g l s := rfl
theorem exec_ldsx128 (k : KReg) (d : VReg) (a : VReg) (g : AReg) (l : La) (s : State) : exec (.ldsx128 k d a g l) s = execLdsx128 k d a g l s := rfl
theorem exec_sts8 (k : KReg) (d : VReg) (a : VReg) (g : AReg) (s : State) : exec (.sts8 k d a g) s = execSts8 k d a g s := rfl
theorem exec_sts16 (k : KReg) (d : VReg) (a : VReg) (g : AReg) (s : State) : exec (.sts16 k d a g) s = execSts16 k d a g s := rfl
theorem exec_sts32 (k : KReg) (d : VReg) (a : VReg) (g : AReg) (s : State) : exec (.sts32 k d a g) s = execSts32 k d a g s := rfl
theorem exec_sts64 (k : KReg) (d : VReg) (a : VReg) (g : AReg) (s : State) : exec (.sts64 k d a g) s = execSts64 k d a g s := rfl
theorem exec_atomsAdd (k : KReg) (d : VReg) (a : VReg) (g : AReg) (l : La) (s : State) : exec (.atomsAdd k d a g l) s = execAtomsAdd k d a g l s := rfl
theorem exec_atomsExch (k : KReg) (d : VReg) (a : VReg) (g : AReg) (l : La) (s : State) : exec (.atomsExch k d a g l) s = execAtomsExch k d a g l s := rfl
theorem exec_atomsCas (k : KReg) (d : VReg) (a : VReg) (g : AReg) (l : La) (s : State) : exec (.atomsCas k d a g l) s = execAtomsCas k d a g l s := rfl
theorem exec_atomsMaxS (k : KReg) (d : VReg) (a : VReg) (g : AReg) (l : La) (s : State) : exec (.atomsMaxS k d a g l) s = execAtomsMaxS k d a g l s := rfl
theorem exec_atomsxAnd (k : KReg) (d : VReg) (a : VReg) (g : AReg) (l : La) (s : State) : exec (.atomsxAnd k d a g l) s = execAtomsxAnd k d a g l s := rfl
theorem exec_atomsxOr (k : KReg) (d : VReg) (a : VReg) (g : AReg) (l : La) (s : State) : exec (.atomsxOr k d a g l) s = execAtomsxOr k d a g l s := rfl
theorem exec_atomsxXor (k : KReg) (d : VReg) (a : VReg) (g : AReg) (l : La) (s : State) : exec (.atomsxXor k d a g l) s = execAtomsxXor k d a g l s := rfl
theorem exec_atomsxMinS (k : KReg) (d : VReg) (a : VReg) (g : AReg) (l : La) (s : State) : exec (.atomsxMinS k d a g l) s = execAtomsxMinS k d a g l s := rfl
theorem exec_ldg32 (k : KReg) (d : VReg) (a : VReg) (g : AReg) (s : State) : exec (.ldg32 k d a g) s = execLdg32 k d a g s := rfl
theorem exec_ldg64 (k : KReg) (d : VReg) (a : VReg) (g : AReg) (s : State) : exec (.ldg64 k d a g) s = execLdg64 k d a g s := rfl
theorem exec_ldg128 (k : KReg) (d : VReg) (a : VReg) (g : AReg) (s : State) : exec (.ldg128 k d a g) s = execLdg128 k d a g s := rfl
theorem exec_ldg32Acq (k : KReg) (d : VReg) (a : VReg) (g : AReg) (s : State) : exec (.ldg32Acq k d a g) s = execLdg32Acq k d a g s := rfl
theorem exec_stg8 (k : KReg) (d : VReg) (a : VReg) (g : AReg) (s : State) : exec (.stg8 k d a g) s = execStg8 k d a g s := rfl
theorem exec_stg16 (k : KReg) (d : VReg) (a : VReg) (g : AReg) (s : State) : exec (.stg16 k d a g) s = execStg16 k d a g s := rfl
theorem exec_stg32 (k : KReg) (d : VReg) (a : VReg) (g : AReg) (s : State) : exec (.stg32 k d a g) s = execStg32 k d a g s := rfl
theorem exec_stg64 (k : KReg) (d : VReg) (a : VReg) (g : AReg) (s : State) : exec (.stg64 k d a g) s = execStg64 k d a g s := rfl
theorem exec_mstream (k : KReg) (d : VReg) (a : VReg) (sh : Fin 32) (t : MType) (s : State) : exec (.mstream k d a sh t) s = execMstream k d a sh t s := rfl
theorem exec_tcopy (k : KReg) (d : VReg) (a : VReg) (s : State) : exec (.tcopy k d a) s = execTcopy k d a s := rfl
theorem exec_tcopyq (k : KReg) (d : VReg) (a : VReg) (s : State) : exec (.tcopyq k d a) s = execTcopyq k d a s := rfl
theorem exec_atomg (k : KReg) (d : VReg) (a : VReg) (o : AtomOp) (s : State) : exec (.atomg k d a o) s = execAtomg k d a o s := rfl
theorem exec_tvwalk (k : KReg) (d : VReg) (a : VReg) (s : State) : exec (.tvwalk k d a) s = execTvwalk k d a s := rfl
theorem exec_tvcut (k : KReg) (d : VReg) (a : VReg) (s : State) : exec (.tvcut k d a) s = execTvcut k d a s := rfl
theorem exec_tvret (k : KReg) (a : VReg) (s : State) : exec (.tvret k a) s = execTvret k a s := rfl
theorem exec_tvresume (k : KReg) (d : VReg) (a : VReg) (s : State) : exec (.tvresume k d a) s = execTvresume k d a s := rfl
theorem exec_tvstat (k : KReg) (d : VReg) (a : VReg) (s : State) : exec (.tvstat k d a) s = execTvstat k d a s := rfl
theorem exec_gput (k : KReg) (d : VReg) (a : VReg) (s : State) : exec (.gput k d a) s = execGput k d a s := rfl
theorem exec_gtake (k : KReg) (d : VReg) (a : VReg) (s : State) : exec (.gtake k d a) s = execGtake k d a s := rfl
theorem exec_stgRel (k : KReg) (d : VReg) (a : VReg) (sh : SzCode) (s : State) : exec (.stgRel k d a sh) s = execStgRel k d a sh s := rfl
theorem exec_uadd (d : GReg) (a : GReg) (b : GReg) (s : State) : exec (.uadd d a b) s = execUadd d a b s := rfl
theorem exec_usub (d : GReg) (a : GReg) (b : GReg) (s : State) : exec (.usub d a b) s = execUsub d a b s := rfl
theorem exec_umul (d : GReg) (a : GReg) (b : GReg) (s : State) : exec (.umul d a b) s = execUmul d a b s := rfl
theorem exec_umulhZ (d : GReg) (a : GReg) (b : GReg) (s : State) : exec (.umulhZ d a b) s = execUmulhZ d a b s := rfl
theorem exec_umulhS (d : GReg) (a : GReg) (b : GReg) (s : State) : exec (.umulhS d a b) s = execUmulhS d a b s := rfl
theorem exec_uminS (d : GReg) (a : GReg) (b : GReg) (s : State) : exec (.uminS d a b) s = execUminS d a b s := rfl
theorem exec_umaxS (d : GReg) (a : GReg) (b : GReg) (s : State) : exec (.umaxS d a b) s = execUmaxS d a b s := rfl
theorem exec_uminZ (d : GReg) (a : GReg) (b : GReg) (s : State) : exec (.uminZ d a b) s = execUminZ d a b s := rfl
theorem exec_umaxZ (d : GReg) (a : GReg) (b : GReg) (s : State) : exec (.umaxZ d a b) s = execUmaxZ d a b s := rfl
theorem exec_uand (d : GReg) (a : GReg) (b : GReg) (s : State) : exec (.uand d a b) s = execUand d a b s := rfl
theorem exec_uor (d : GReg) (a : GReg) (b : GReg) (s : State) : exec (.uor d a b) s = execUor d a b s := rfl
theorem exec_uxor (d : GReg) (a : GReg) (b : GReg) (s : State) : exec (.uxor d a b) s = execUxor d a b s := rfl
theorem exec_uandn (d : GReg) (a : GReg) (b : GReg) (s : State) : exec (.uandn d a b) s = execUandn d a b s := rfl
theorem exec_ushl (d : GReg) (a : GReg) (b : GReg) (s : State) : exec (.ushl d a b) s = execUshl d a b s := rfl
theorem exec_ushr (d : GReg) (a : GReg) (b : GReg) (s : State) : exec (.ushr d a b) s = execUshr d a b s := rfl
theorem exec_usar (d : GReg) (a : GReg) (b : GReg) (s : State) : exec (.usar d a b) s = execUsar d a b s := rfl
theorem exec_ucmpEq (d : GReg) (a : GReg) (b : GReg) (s : State) : exec (.ucmpEq d a b) s = execUcmpEq d a b s := rfl
theorem exec_ucmpLtS (d : GReg) (a : GReg) (b : GReg) (s : State) : exec (.ucmpLtS d a b) s = execUcmpLtS d a b s := rfl
theorem exec_ucmpLtZ (d : GReg) (a : GReg) (b : GReg) (s : State) : exec (.ucmpLtZ d a b) s = execUcmpLtZ d a b s := rfl
theorem exec_ucmpLeS (d : GReg) (a : GReg) (b : GReg) (s : State) : exec (.ucmpLeS d a b) s = execUcmpLeS d a b s := rfl
theorem exec_ucmpLeZ (d : GReg) (a : GReg) (b : GReg) (s : State) : exec (.ucmpLeZ d a b) s = execUcmpLeZ d a b s := rfl
theorem exec_upopc (d : GReg) (a : GReg) (s : State) : exec (.upopc d a) s = execUpopc d a s := rfl
theorem exec_uclz (d : GReg) (a : GReg) (s : State) : exec (.uclz d a) s = execUclz d a s := rfl
theorem exec_umov (d : GReg) (a : GReg) (s : State) : exec (.umov d a) s = execUmov d a s := rfl
theorem exec_uadd32 (d : GReg) (a : GReg) (b : GReg) (s : State) : exec (.uadd32 d a b) s = execUadd32 d a b s := rfl
theorem exec_usub32 (d : GReg) (a : GReg) (b : GReg) (s : State) : exec (.usub32 d a b) s = execUsub32 d a b s := rfl
theorem exec_uaddi (d : GReg) (a : GReg) (i : BitVec 14) (s : State) : exec (.uaddi d a i) s = execUaddi d a i s := rfl
theorem exec_uhi (d : GReg) (i : BitVec 20) (s : State) : exec (.uhi d i) s = execUhi d i s := rfl
theorem exec_uandi (d : GReg) (a : GReg) (i : BitVec 14) (s : State) : exec (.uandi d a i) s = execUandi d a i s := rfl
theorem exec_uori (d : GReg) (a : GReg) (i : BitVec 14) (s : State) : exec (.uori d a i) s = execUori d a i s := rfl
theorem exec_uxori (d : GReg) (a : GReg) (i : BitVec 14) (s : State) : exec (.uxori d a i) s = execUxori d a i s := rfl
theorem exec_ushli (d : GReg) (a : GReg) (n : Fin 64) (s : State) : exec (.ushli d a n) s = execUshli d a n s := rfl
theorem exec_br (c : BCond) (a : GReg) (o : BitVec 16) (s : State) : exec (.br c a o) s = execBr c a o s := rfl
theorem exec_brd (k : KReg) (i : Fin 2) (o : BitVec 22) (s : State) : exec (.brd k i o) s = execBrd k i o s := rfl
theorem exec_call (o : BitVec 26) (s : State) : exec (.call o) s = execCall o s := rfl
theorem exec_jmpi (a : GReg) (s : State) : exec (.jmpi a) s = execJmpi a s := rfl
theorem exec_calli (a : GReg) (s : State) : exec (.calli a) s = execCalli a s := rfl
theorem exec_ret (s : State) : exec (.ret) s = execRet s := rfl
theorem exec_nop (n : Fin 64) (s : State) : exec (.nop n) s = execNop n s := rfl
theorem exec_exit (s : State) : exec (.exit) s = execExit s := rfl
theorem exec_trap (c : Fin 64) (s : State) : exec (.trap c) s = execTrap c s := rfl
theorem exec_rett (s : State) : exec (.rett) s = execRett s := rfl
theorem exec_brk (s : State) : exec (.brk) s = execBrk s := rfl
theorem exec_yield (s : State) : exec (.yield) s = execYield s := rfl
theorem exec_pjoin (o : BitVec 26) (s : State) : exec (.pjoin o) s = execPjoin o s := rfl
theorem exec_cfence (d : GReg) (s : State) : exec (.cfence d) s = execCfence d s := rfl
theorem exec_mfence (d : GReg) (s : State) : exec (.mfence d) s = execMfence d s := rfl
theorem exec_lfence (d : GReg) (s : State) : exec (.lfence d) s = execLfence d s := rfl
theorem exec_xfence (d : GReg) (s : State) : exec (.xfence d) s = execXfence d s := rfl
theorem exec_tfence (d : GReg) (s : State) : exec (.tfence d) s = execTfence d s := rfl
theorem exec_fenceAll (sh : Scope) (s : State) : exec (.fenceAll sh) s = execFenceAll sh s := rfl
theorem exec_fenceAcq (sh : Scope) (s : State) : exec (.fenceAcq sh) s = execFenceAcq sh s := rfl
theorem exec_fenceRel (sh : Scope) (s : State) : exec (.fenceRel sh) s = execFenceRel sh s := rfl
theorem exec_waitGate (a : GReg) (g : Gate) (s : State) : exec (.waitGate a g) s = execWaitGate a g s := rfl
theorem exec_waitObject (a : GReg) (b : GReg) (s : State) : exec (.waitObject a b) s = execWaitObject a b s := rfl
theorem exec_arrive (a : GReg) (s : State) : exec (.arrive a) s = execArrive a s := rfl
theorem exec_arriveExpect (a : GReg) (b : GReg) (s : State) : exec (.arriveExpect a b) s = execArriveExpect a b s := rfl
theorem exec_arriveDrop (a : GReg) (s : State) : exec (.arriveDrop a) s = execArriveDrop a s := rfl
theorem exec_binit (a : GReg) (b : GReg) (s : State) : exec (.binit a b) s = execBinit a b s := rfl
theorem exec_uldS32 (d : GReg) (a : GReg) (s : State) : exec (.uldS32 d a) s = execUldS32 d a s := rfl
theorem exec_uldS64 (d : GReg) (a : GReg) (s : State) : exec (.uldS64 d a) s = execUldS64 d a s := rfl
theorem exec_uldG32 (d : GReg) (a : GReg) (s : State) : exec (.uldG32 d a) s = execUldG32 d a s := rfl
theorem exec_uldG64 (d : GReg) (a : GReg) (s : State) : exec (.uldG64 d a) s = execUldG64 d a s := rfl
theorem exec_uldGAdd (d : GReg) (a : GReg) (b : GReg) (s : State) : exec (.uldGAdd d a b) s = execUldGAdd d a b s := rfl
theorem exec_uldGExch (d : GReg) (a : GReg) (b : GReg) (s : State) : exec (.uldGExch d a b) s = execUldGExch d a b s := rfl
theorem exec_uldGCas (d : GReg) (a : GReg) (b : GReg) (s : State) : exec (.uldGCas d a b) s = execUldGCas d a b s := rfl
theorem exec_ustS32 (a : GReg) (b : GReg) (s : State) : exec (.ustS32 a b) s = execUstS32 a b s := rfl
theorem exec_ustS64 (a : GReg) (b : GReg) (s : State) : exec (.ustS64 a b) s = execUstS64 a b s := rfl
theorem exec_ustG32 (a : GReg) (b : GReg) (s : State) : exec (.ustG32 a b) s = execUstG32 a b s := rfl
theorem exec_ustG64 (a : GReg) (b : GReg) (s : State) : exec (.ustG64 a b) s = execUstG64 a b s := rfl
theorem exec_readlane (d : GReg) (v : VReg) (b : GReg) (s : State) : exec (.readlane d v b) s = execReadlane d v b s := rfl
theorem exec_readfirst (d : GReg) (v : VReg) (s : State) : exec (.readfirst d v) s = execReadfirst d v s := rfl
theorem exec_voteAny (d : GReg) (v : VReg) (s : State) : exec (.voteAny d v) s = execVoteAny d v s := rfl
theorem exec_voteAll (d : GReg) (v : VReg) (s : State) : exec (.voteAll d v) s = execVoteAll d v s := rfl
theorem exec_ballot (d : GReg) (v : VReg) (s : State) : exec (.ballot d v) s = execBallot d v s := rfl
theorem exec_umaskSet (d : KReg) (a : GReg) (s : State) : exec (.umaskSet d a) s = execUmaskSet d a s := rfl
theorem exec_umaskGet (d : GReg) (a : KReg) (s : State) : exec (.umaskGet d a) s = execUmaskGet d a s := rfl
theorem exec_umaskAnd (d : KReg) (a : KReg) (b : KReg) (s : State) : exec (.umaskAnd d a b) s = execUmaskAnd d a b s := rfl
theorem exec_umaskOr (d : KReg) (a : KReg) (b : KReg) (s : State) : exec (.umaskOr d a b) s = execUmaskOr d a b s := rfl
theorem exec_umaskXor (d : KReg) (a : KReg) (b : KReg) (s : State) : exec (.umaskXor d a b) s = execUmaskXor d a b s := rfl
theorem exec_umaskAndn (d : KReg) (a : KReg) (b : KReg) (s : State) : exec (.umaskAndn d a b) s = execUmaskAndn d a b s := rfl
theorem exec_umaskNot (d : KReg) (a : KReg) (s : State) : exec (.umaskNot d a) s = execUmaskNot d a s := rfl
theorem exec_mload (a : GReg) (b : GReg) (s : State) : exec (.mload a b) s = execMload a b s := rfl
theorem exec_mopen (d : GReg) (a : GReg) (s : State) : exec (.mopen d a) s = execMopen d a s := rfl
theorem exec_mclose (a : GReg) (s : State) : exec (.mclose a) s = execMclose a s := rfl
theorem exec_epi (a : GReg) (s : State) : exec (.epi a) s = execEpi a s := rfl
theorem exec_amovLd (a : GReg) (b : GReg) (s : State) : exec (.amovLd a b) s = execAmovLd a b s := rfl
theorem exec_amovSt (a : GReg) (b : GReg) (s : State) : exec (.amovSt a b) s = execAmovSt a b s := rfl
theorem exec_mstat (d : GReg) (s : State) : exec (.mstat d) s = execMstat d s := rfl
theorem exec_ginfo (d : GReg) (a : GReg) (b : GReg) (s : State) : exec (.ginfo d a b) s = execGinfo d a b s := rfl
theorem exec_gbind (d : GReg) (a : GReg) (b : GReg) (s : State) : exec (.gbind d a b) s = execGbind d a b s := rfl
theorem exec_xbind (d : GReg) (a : GReg) (b : GReg) (s : State) : exec (.xbind d a b) s = execXbind d a b s := rfl
theorem exec_xpermit (a : GReg) (s : State) : exec (.xpermit a) s = execXpermit a s := rfl
theorem exec_xsend (d : GReg) (a : GReg) (b : GReg) (s : State) : exec (.xsend d a b) s = execXsend d a b s := rfl
theorem exec_xstat (d : GReg) (a : GReg) (s : State) : exec (.xstat d a) s = execXstat d a s := rfl
theorem exec_fbulk (d : GReg) (a : Fin 16) (s : State) : exec (.fbulk d a) s = execFbulk d a s := rfl
theorem exec_fstat (d : GReg) (a : GReg) (s : State) : exec (.fstat d a) s = execFstat d a s := rfl
theorem exec_vcost (d : GReg) (a : GReg) (b : GReg) (s : State) : exec (.vcost d a b) s = execVcost d a b s := rfl
theorem exec_vtest (d : GReg) (a : GReg) (b : GReg) (s : State) : exec (.vtest d a b) s = execVtest d a b s := rfl
theorem exec_umovs (d : GReg) (r : Fin 64) (s : State) : exec (.umovs d r) s = execUmovs d r s := rfl
theorem exec_umovt (a : GReg) (r : Fin 64) (s : State) : exec (.umovt a r) s = execUmovt a r s := rfl
theorem exec_event (a : GReg) (b : GReg) (s : State) : exec (.event a b) s = execEvent a b s := rfl
theorem exec_tmark (s : State) : exec (.tmark) s = execTmark s := rfl
theorem exec_dispatch (d : GReg) (a : GReg) (s : State) : exec (.dispatch d a) s = execDispatch d a s := rfl
theorem exec_lease (d : GReg) (a : GReg) (s : State) : exec (.lease d a) s = execLease d a s := rfl
theorem exec_carve (d : GReg) (a : GReg) (b : GReg) (s : State) : exec (.carve d a b) s = execCarve d a b s := rfl
theorem exec_ctxsave (d : GReg) (a : GReg) (b : GReg) (s : State) : exec (.ctxsave d a b) s = execCtxsave d a b s := rfl
theorem exec_ctxload (d : GReg) (a : GReg) (b : GReg) (s : State) : exec (.ctxload d a b) s = execCtxload d a b s := rfl
theorem exec_tlbinv (a : GReg) (b : GReg) (s : State) : exec (.tlbinv a b) s = execTlbinv a b s := rfl
theorem exec_keyset (d : GReg) (a : GReg) (b : GReg) (s : State) : exec (.keyset d a b) s = execKeyset d a b s := rfl
theorem exec_splitPark (core : Nat) (slot : Nat) (split : Nat) (s : State) : exec (.splitPark core slot split) s = execSplitPark core slot split s := rfl
theorem exec_stackFill (core : Nat) (slot : Nat) (s : State) : exec (.stackFill core slot) s = execStackFill core slot s := rfl
theorem exec_yieldExpiry (core : Nat) (slot : Nat) (split : Nat) (s : State) : exec (.yieldExpiry core slot split) s = execYieldExpiry core slot split s := rfl
theorem exec_scratchResult (core : Nat) (slot : Nat) (n : Nat) (s : State) : exec (.scratchResult core slot n) s = execScratchResult core slot n s := rfl
theorem exec_takeValue (core : Nat) (slot : Nat) (piece : Nat) (s : State) : exec (.takeValue core slot piece) s = execTakeValue core slot piece s := rfl
theorem exec_leave (core : Nat) (slot : Nat) (s : State) : exec (.leave core slot) s = execLeave core slot s := rfl
theorem exec_propagationArrive (n : Nat) (s : State) : exec (.propagationArrive n) s = execPropagationArrive n s := rfl
theorem exec_drop (core : Nat) (line : Nat) (s : State) : exec (.drop core line) s = execDrop core line s := rfl
theorem exec_atomicStep (core : Nat) (slot : Nat) (s : State) : exec (.atomicStep core slot) s = execAtomicStep core slot s := rfl
theorem exec_engineAccess (op : Nat) (n : Nat) (s : State) : exec (.engineAccess op n) s = execEngineAccess op n s := rfl
theorem exec_faultResponseDoorbell (func : Nat) (ctx : Nat) (w : (BitVec 64)) (s : State) : exec (.faultResponseDoorbell func ctx w) s = execFaultResponseDoorbell func ctx w s := rfl
theorem exec_faultAnswerFirmware (ctx : Nat) (record : Nat) (fail : Bool) (s : State) : exec (.faultAnswerFirmware ctx record fail) s = execFaultAnswerFirmware ctx record fail s := rfl
theorem exec_replicaStamp (n : Nat) (s : State) : exec (.replicaStamp n) s = execReplicaStamp n s := rfl
theorem exec_replicaApply (ctx : Nat) (rset : Nat) (die : Nat) (s : State) : exec (.replicaApply ctx rset die) s = execReplicaApply ctx rset die s := rfl
theorem exec_mstreamPassRun (core : Nat) (i : Nat) (s : State) : exec (.mstreamPassRun core i) s = execMstreamPassRun core i s := rfl
theorem exec_mloadRun (core : Nat) (i : Nat) (s : State) : exec (.mloadRun core i) s = execMloadRun core i s := rfl
theorem exec_slotZeroing (core : Nat) (n : Nat) (s : State) : exec (.slotZeroing core n) s = execSlotZeroing core n s := rfl
theorem exec_epiRun (core : Nat) (i : Nat) (s : State) : exec (.epiRun core i) s = execEpiRun core i s := rfl
theorem exec_amovRun (core : Nat) (i : Nat) (s : State) : exec (.amovRun core i) s = execAmovRun core i s := rfl
theorem exec_tceLanding (op : Nat) (s : State) : exec (.tceLanding op) s = execTceLanding op s := rfl
theorem exec_tcopyComplete (op : Nat) (s : State) : exec (.tcopyComplete op) s = execTcopyComplete op s := rfl
theorem exec_walkVisit (op : Nat) (lane : Nat) (s : State) : exec (.walkVisit op lane) s = execWalkVisit op lane s := rfl
theorem exec_serviceGroupForm (core : Nat) (block : Nat) (s : State) : exec (.serviceGroupForm core block) s = execServiceGroupForm core block s := rfl
theorem exec_serviceGroupTimeout (core : Nat) (block : Nat) (s : State) : exec (.serviceGroupTimeout core block) s = execServiceGroupTimeout core block s := rfl
theorem exec_routineReturn (core : Nat) (block : Nat) (s : State) : exec (.routineReturn core block) s = execRoutineReturn core block s := rfl
theorem exec_tvcutComplete (op : Nat) (s : State) : exec (.tvcutComplete op) s = execTvcutComplete op s := rfl
theorem exec_galleyReservation (op : Nat) (s : State) : exec (.galleyReservation op) s = execGalleyReservation op s := rfl
theorem exec_galleyPublish (op : Nat) (lane : Nat) (s : State) : exec (.galleyPublish op lane) s = execGalleyPublish op lane s := rfl
theorem exec_galleyOpComplete (op : Nat) (s : State) : exec (.galleyOpComplete op) s = execGalleyOpComplete op s := rfl
theorem exec_galleyConsumerLaunch (galley : Nat) (core : Nat) (p : Placement) (s : State) : exec (.galleyConsumerLaunch galley core p) s = execGalleyConsumerLaunch galley core p s := rfl
theorem exec_galleyConsumerTimer (galley : Nat) (core : Nat) (p : Placement) (s : State) : exec (.galleyConsumerTimer galley core p) s = execGalleyConsumerTimer galley core p s := rfl
theorem exec_xsendLanding (op : Nat) (s : State) : exec (.xsendLanding op) s = execXsendLanding op s := rfl
theorem exec_grantSend (core : Nat) (slot : Nat) (split : Nat) (s : State) : exec (.grantSend core slot split) s = execGrantSend core slot split s := rfl
theorem exec_permitGrant (n : Nat) (s : State) : exec (.permitGrant n) s = execPermitGrant n s := rfl
theorem exec_fbulkLanding (op : Nat) (n : Nat) (s : State) : exec (.fbulkLanding op n) s = execFbulkLanding op n s := rfl
theorem exec_fbulkComplete (op : Nat) (s : State) : exec (.fbulkComplete op) s = execFbulkComplete op s := rfl
theorem exec_branchBlocked (op : Nat) (s : State) : exec (.branchBlocked op) s = execBranchBlocked op s := rfl
theorem exec_fabricMessageReceive (m : FabricMessage) (s : State) : exec (.fabricMessageReceive m) s = execFabricMessageReceive m s := rfl
theorem exec_fabricLink (port : Nat) (state : Nat) (s : State) : exec (.fabricLink port state) s = execFabricLink port state s := rfl
theorem exec_hostAccess (a : HostAccess) (s : State) : exec (.hostAccess a) s = execHostAccess a s := rfl
theorem exec_registerWrite (off : Nat) (v : (BitVec 64)) (s : State) : exec (.registerWrite off v) s = execRegisterWrite off v s := rfl
theorem exec_featctlCommit (v : (BitVec 64)) (s : State) : exec (.featctlCommit v) s = execFeatctlCommit v s := rfl
theorem exec_ctxcmdVacate (ctx : Nat) (s : State) : exec (.ctxcmdVacate ctx) s = execCtxcmdVacate ctx s := rfl
theorem exec_ctxcmdResume (ctx : Nat) (ps : (List (Nat × Nat × Placement))) (s : State) : exec (.ctxcmdResume ctx ps) s = execCtxcmdResume ctx ps s := rfl
theorem exec_ctxcmdEnd (ctx : Nat) (s : State) : exec (.ctxcmdEnd ctx) s = execCtxcmdEnd ctx s := rfl
theorem exec_partcmdApply (func : Nat) (s : State) : exec (.partcmdApply func) s = execPartcmdApply func s := rfl
theorem exec_dbgcmdHalt (v : (BitVec 64)) (s : State) : exec (.dbgcmdHalt v) s = execDbgcmdHalt v s := rfl
theorem exec_dbgcmdResume (v : (BitVec 64)) (s : State) : exec (.dbgcmdResume v) s = execDbgcmdResume v s := rfl
theorem exec_dbgcmdStep (ctx : Nat) (core : Nat) (slot : Nat) (split : Nat) (s : State) : exec (.dbgcmdStep ctx core slot split) s = execDbgcmdStep ctx core slot split s := rfl
theorem exec_dbgcmdAttach (v : (BitVec 64)) (s : State) : exec (.dbgcmdAttach v) s = execDbgcmdAttach v s := rfl
theorem exec_dbgcmdDetach (v : (BitVec 64)) (s : State) : exec (.dbgcmdDetach v) s = execDbgcmdDetach v s := rfl
theorem exec_errcntClear (die : Nat) (v : (BitVec 64)) (s : State) : exec (.errcntClear die v) s = execErrcntClear die v s := rfl
theorem exec_queueTailDoorbell (func : Nat) (queue : Nat) (v : (BitVec 64)) (s : State) : exec (.queueTailDoorbell func queue v) s = execQueueTailDoorbell func queue v s := rfl
theorem exec_eventHeadDoorbell (func : Nat) (ring : Nat) (v : (BitVec 64)) (s : State) : exec (.eventHeadDoorbell func ring v) s = execEventHeadDoorbell func ring v s := rfl
theorem exec_packetNop (queue : Nat) (s : State) : exec (.packetNop queue) s = execPacketNop queue s := rfl
theorem exec_packetLaunch (queue : Nat) (s : State) : exec (.packetLaunch queue) s = execPacketLaunch queue s := rfl
theorem exec_packetBarrier (queue : Nat) (s : State) : exec (.packetBarrier queue) s = execPacketBarrier queue s := rfl
theorem exec_packetCopy (queue : Nat) (s : State) : exec (.packetCopy queue) s = execPacketCopy queue s := rfl
theorem exec_packetSignalSet (queue : Nat) (s : State) : exec (.packetSignalSet queue) s = execPacketSignalSet queue s := rfl
theorem exec_packetSignalAdd (queue : Nat) (s : State) : exec (.packetSignalAdd queue) s = execPacketSignalAdd queue s := rfl
theorem exec_packetChain (queue : Nat) (s : State) : exec (.packetChain queue) s = execPacketChain queue s := rfl
theorem exec_packetEvent (queue : Nat) (s : State) : exec (.packetEvent queue) s = execPacketEvent queue s := rfl
theorem exec_packetComplete (queue : Nat) (n : Nat) (s : State) : exec (.packetComplete queue n) s = execPacketComplete queue n s := rfl
theorem exec_barrierTest (queue : Nat) (n : Nat) (s : State) : exec (.barrierTest queue n) s = execBarrierTest queue n s := rfl
theorem exec_progressPublish (queue : Nat) (s : State) : exec (.progressPublish queue) s = execProgressPublish queue s := rfl
theorem exec_blockClaim (launch : Nat) (core : Nat) (p : Placement) (s : State) : exec (.blockClaim launch core p) s = execBlockClaim launch core p s := rfl
theorem exec_instanceStart (launch : Nat) (s : State) : exec (.instanceStart launch) s = execInstanceStart launch s := rfl
theorem exec_rowFree (core : Nat) (row : Nat) (s : State) : exec (.rowFree core row) s = execRowFree core row s := rfl
theorem exec_blockComplete (core : Nat) (block : Nat) (s : State) : exec (.blockComplete core block) s = execBlockComplete core block s := rfl
theorem exec_blkmaxOverrun (core : Nat) (block : Nat) (s : State) : exec (.blkmaxOverrun core block) s = execBlkmaxOverrun core block s := rfl
theorem exec_channelPriorityHold (core : Nat) (slot : Nat) (split : Nat) (s : State) : exec (.channelPriorityHold core slot split) s = execChannelPriorityHold core slot split s := rfl
theorem exec_blockSave (core : Nat) (block : Nat) (s : State) : exec (.blockSave core block) s = execBlockSave core block s := rfl
theorem exec_blockModeFinished (core : Nat) (block : Nat) (s : State) : exec (.blockModeFinished core block) s = execBlockModeFinished core block s := rfl
theorem exec_ctxloadComplete (op : Nat) (s : State) : exec (.ctxloadComplete op) s = execCtxloadComplete op s := rfl
theorem exec_tlbinvComplete (op : Nat) (s : State) : exec (.tlbinvComplete op) s = execTlbinvComplete op s := rfl
theorem exec_traceUnitWrite (core : Nat) (s : State) : exec (.traceUnitWrite core) s = execTraceUnitWrite core s := rfl
theorem exec_sample (core : Nat) (sched : Nat) (s : State) : exec (.sample core sched) s = execSample core sched s := rfl
theorem exec_packageReset (s : State) : exec (.packageReset) s = execPackageReset s := rfl
theorem exec_reducedServiceStart (s : State) : exec (.reducedServiceStart) s = execReducedServiceStart s := rfl
theorem exec_fullServiceStart (s : State) : exec (.fullServiceStart) s = execFullServiceStart s := rfl
theorem exec_ageingPlanRaise (plan : Nat) (s : State) : exec (.ageingPlanRaise plan) s = execAgeingPlanRaise plan s := rfl
theorem exec_periodChange (s : State) : exec (.periodChange) s = execPeriodChange s := rfl
theorem exec_dieFailure (die : Nat) (launch : Nat) (s : State) : exec (.dieFailure die launch) s = execDieFailure die launch s := rfl
theorem exec_correctedError (die : Nat) (s : State) : exec (.correctedError die) s = execCorrectedError die s := rfl
theorem exec_uncorrectedError (die : Nat) (site : ErrorSite) (s : State) : exec (.uncorrectedError die site) s = execUncorrectedError die site s := rfl
theorem exec_firmwareImage (img : FirmwareImage) (s : State) : exec (.firmwareImage img) s = execFirmwareImage img s := rfl
theorem exec_liveHandover (s : State) : exec (.liveHandover) s = execLiveHandover s := rfl
theorem exec_measurements (s : State) : exec (.measurements) s = execMeasurements s := rfl
theorem exec_illegalOp (w : (BitVec 32)) (s : State) : exec (.illegalOp w) s = execIllegalOp w s := rfl
theorem exec_heldUniformResult (core : Nat) (slot : Nat) (split : Nat) (s : State) : exec (.heldUniformResult core slot split) s = execHeldUniformResult core slot split s := rfl
theorem exec_trainingComplete (s : State) : exec (.trainingComplete) s = execTrainingComplete s := rfl
theorem exec_fabricLinkUp (port : Nat) (s : State) : exec (.fabricLinkUp port) s = execFabricLinkUp port s := rfl
theorem exec_linkLevelRetry (port : Nat) (s : State) : exec (.linkLevelRetry port) s = execLinkLevelRetry port s := rfl

end Sys2Proof.Machine
end

