-- ==== Sys2Proof/Laws/Registers.lean ====
section
/-! SUPPORT. The register writes of an instruction and its retirement: what each changes and what it leaves. -/

namespace Sys2Proof.Machine

/-! The relation of local change. -/

theorem GroupLocal.refl (ks : Nat → Prop) (fl : Bool) (g : Group) : GroupLocal ks fl g g :=
  ⟨rfl, fun _ _ => rfl, fun _ => rfl, by simp⟩

theorem GroupAwaits.trans {n : List LaResult} {ks : Nat → Prop} {fl : Bool} {a b c : Group} (h : GroupAwaits n ks fl a b)
    (k : GroupLocal ks fl b c) : GroupAwaits n ks fl a c := by
  refine ⟨?_, fun n hn => (k.2.1 n hn).trans (h.2.1 n hn), fun hf => (k.2.2.1 hf).trans (h.2.2.1 hf), ?_⟩
  · have h1 := h.1
    have k1 := k.1
    rw [h1] at k1
    exact k1
  · rw [k.2.2.2, h.2.2.2]
    simp

theorem GroupAwaits.mono {n : List LaResult} {ks ks' : Nat → Prop} {fl fl' : Bool} {a b : Group} (h : GroupAwaits n ks fl a b)
    (hm : ∀ k, ks k → ks' k) (hf : fl = true → fl' = true) : GroupAwaits n ks' fl' a b := by
  refine ⟨h.1, fun n hn => h.2.1 n fun e => hn (hm n e), fun hfl => h.2.2.1 ?_, h.2.2.2⟩
  cases fl with
  | false => rfl
  | true => exact absurd (hf rfl) (by simp [hfl])

theorem Near.trans {s t u : State} {w : Issuer} {keys : Nat → Prop} {r1 r2 r3 : Group → Group → Prop} (h : Near s t w keys r1)
    (k : Near t u w keys r2) (hr : ∀ a b c, r1 a b → r2 b c → r3 a c) : Near s u w keys r3 := by
  refine ⟨?_, fun a => (k.memory a).trans (h.memory a), fun c hc => (k.cores c hc).trans (h.cores c hc), ?_,
    fun n hn => (k.rows n hn).trans (h.rows n hn), fun b hb => (k.slots b hb).trans (h.slots b hb), ?_⟩
  · have h1 := h.package
    have k1 := k.package
    rw [h1] at k1
    exact k1
  · have h1 := h.core
    have k1 := k.core
    rw [h1] at k1
    exact k1
  · intro g hg
    obtain ⟨g1, h1, e1⟩ := h.group g hg
    obtain ⟨g2, h2, e2⟩ := k.group g1 h1
    exact ⟨g2, h2, hr _ _ _ e1 e2⟩

theorem Near.mono {s t : State} {w : Issuer} {keys keys' : Nat → Prop} {r1 r2 : Group → Group → Prop} (h : Near s t w keys r1)
    (hk : ∀ k, keys k → keys' k) (hr : ∀ a b, r1 a b → r2 a b) : Near s t w keys' r2 :=
  ⟨h.package, h.memory, h.cores, h.core, fun n hn => h.rows n fun e => hn (hk n e), h.slots, fun g hg => by
    obtain ⟨g1, h1, e1⟩ := h.group g hg
    exact ⟨g1, h1, hr _ _ e1⟩⟩

theorem Local.refl (s : State) (w : Issuer) (keys ks : Nat → Prop) (fl : Bool) : Local s s w keys ks fl :=
  ⟨rfl, fun _ => rfl, fun _ _ => rfl, rfl, fun _ _ => rfl, fun _ _ => rfl, fun g hg => ⟨g, hg, GroupLocal.refl ks fl g⟩⟩

theorem Local.trans {s t u : State} {w : Issuer} {keys ks : Nat → Prop} {fl : Bool} (h : Local s t w keys ks fl)
    (k : Local t u w keys ks fl) : Local s u w keys ks fl := Near.trans h k fun _ _ _ p q => GroupAwaits.trans p q

theorem Local.mono {s t : State} {w : Issuer} {keys keys' ks ks' : Nat → Prop} {fl fl' : Bool} (h : Local s t w keys ks fl)
    (hk : ∀ k, keys k → keys' k) (hm : ∀ k, ks k → ks' k) (hf : fl = true → fl' = true) : Local s t w keys' ks' fl' :=
  Near.mono h hk fun _ _ p => GroupAwaits.mono p hm hf

/-- The issuing group stands in a state with its registers' places and its split table as the issuer has them. -/
def Tracks (s : State) (w : Issuer) : Prop :=
  ∃ g, s.group? w.c w.slot = some g ∧ g.first = w.g.first ∧ g.second = w.g.second ∧ g.allot = w.g.allot ∧ g.splits = w.g.splits
    ∧ g.slot = w.slot

theorem who_parts {s : State} {w : Issuer} (h : s.who = some w) :
    s.group? w.c w.slot = some w.g ∧ w.g.split? w.idx = some w.sp ∧ w.core = s.core w.c := by
  unfold State.who at h
  split at h
  · exact absurd h (by simp)
  · rename_i c slot idx _
    split at h
    · exact absurd h (by simp)
    · rename_i g hg
      split at h
      · exact absurd h (by simp)
      · rename_i sp hsp
        have e := Option.some.inj h
        subst e
        exact ⟨hg, hsp, rfl⟩

theorem group_slot {s : State} {c slot : Nat} {g : Group} (h : s.group? c slot = some g) : g.slot = slot := by
  have := List.find?_some h
  simpa using this

theorem split_idx {g : Group} {i : Nat} {sp : Split} (h : g.split? i = some sp) : sp.idx = i := by
  have := List.find?_some h
  simpa using this

theorem who_tracks {s : State} {w : Issuer} (h : s.who = some w) : Tracks s w :=
  ⟨w.g, (who_parts h).1, rfl, rfl, rfl, rfl, group_slot (who_parts h).1⟩

theorem rowKey_congr {g h : Group} (e1 : g.first = h.first) (e2 : g.second = h.second) (n l : Nat) : rowKey g n l = rowKey h n l := by
  simp [rowKey, e1, e2]

theorem isG0_congr {g h : Group} (e : g.allot = h.allot) (n l : Nat) : isG0 g n l = isG0 h n l := by
  simp [isG0, e]

theorem rowKey_lane {g : Group} {n l m : Nat} (h : rowKey g n l = rowKey g n m) : l = m := by
  unfold rowKey at h
  omega

/-! Changing the issuing group only. -/

/-- The group after a change of the group in its slot. -/
theorem group_after (s : State) (x : Core) (c slot : Nat) (F : Group → Group) (hi : x.index = c) (hx : x.groups = (s.core c).groups)
    (hs : ∀ g, (F g).slot = g.slot) : (s.setCore (x.modGroup slot F)).group? c slot = (s.group? c slot).map F := by
  have hc : (s.setCore (x.modGroup slot F)).core c = x.modGroup slot F := by
    have := core_setCore s (x.modGroup slot F)
    rwa [modGroup_index, hi] at this
  unfold State.group?
  rw [hc, group_modGroup _ _ F hs]
  unfold Core.group?
  rw [hx]

/-- The other groups of the core after it. -/
theorem group_after_other (s : State) (x : Core) (c slot b : Nat) (F : Group → Group) (hi : x.index = c)
    (hx : x.groups = (s.core c).groups) (hs : ∀ g, (F g).slot = g.slot) (hb : b ≠ slot) :
    (s.setCore (x.modGroup slot F)).group? c b = s.group? c b := by
  have hc : (s.setCore (x.modGroup slot F)).core c = x.modGroup slot F := by
    have := core_setCore s (x.modGroup slot F)
    rwa [modGroup_index, hi] at this
  unfold State.group?
  rw [hc, group_modGroup_other _ _ _ F hs hb]
  unfold Core.group?
  rw [hx]

/-- The group after a change of it alone. -/
theorem group_changed (s : State) (c slot : Nat) (F : Group → Group) (hs : ∀ g, (F g).slot = g.slot) :
    (s.modGroup c slot F).group? c slot = (s.group? c slot).map F := group_after s _ c slot F (core_index s c) rfl hs

theorem modGroup_near {s : State} {w : Issuer} {rel : Group → Group → Prop} (f : Group → Group) (hs : ∀ g, (f g).slot = g.slot)
    (hf : ∀ g, rel g (f g)) : Near s (s.modGroup w.c w.slot f) w noKeys rel := by
  have hi : ((s.core w.c).modGroup w.slot f).index = w.c := by simp [core_index]
  have hc : (s.modGroup w.c w.slot f).core w.c = (s.core w.c).modGroup w.slot f := core_modCore s w.c _ hi
  refine ⟨rfl, fun _ => rfl, fun c h => core_modCore_other s w.c c _ hi h, ?_, ?_, ?_, ?_⟩
  · rw [hc]; rfl
  · intro k _; rw [hc]; rfl
  · intro b hb
    unfold State.group?
    rw [hc]
    exact group_modGroup_other _ _ _ f hs hb
  · intro g hg
    refine ⟨f g, ?_, hf g⟩
    unfold State.group? at hg ⊢
    rw [hc, group_modGroup _ _ f hs, hg]
    rfl

theorem modGroup_local {s : State} {w : Issuer} {ks : Nat → Prop} {fl : Bool} (f : Group → Group) (hs : ∀ g, (f g).slot = g.slot)
    (hf : ∀ g, GroupLocal ks fl g (f g)) : Local s (s.modGroup w.c w.slot f) w noKeys ks fl := modGroup_near f hs hf

/-! Lane register writes. -/

theorem landLanes_rest (x : Core) (g : Group) (n : Nat) (f : Nat → Word) (ls : List Nat) :
    x.landLanes g n f ls = { x with rows := (x.landLanes g n f ls).rows } := by
  induction ls generalizing x with
  | nil => rfl
  | cons l r ih =>
    have := ih (x.landV g n l (f l))
    unfold Core.landLanes
    rw [this]
    unfold Core.landV
    split <;> rfl

theorem landLanes_other (x : Core) (g : Group) (n : Nat) (f : Nat → Word) (ls : List Nat) (k : Nat)
    (h : ∀ l ∈ ls, isG0 g n l = false → k ≠ rowKey g n l) : (x.landLanes g n f ls).rows.word k = x.rows.word k := by
  induction ls generalizing x with
  | nil => rfl
  | cons l r ih =>
    unfold Core.landLanes
    rw [ih _ fun m hm => h m (by simp [hm])]
    unfold Core.landV
    split
    · rfl
    · rename_i h0
      exact word_set_other _ _ _ _ (h l (by simp) (by simpa using h0))

theorem landLanes_same (x : Core) (g : Group) (n : Nat) (f : Nat → Word) (ls : List Nat) (l : Nat) (hl : l ∈ ls) (h0 : isG0 g n l = false)
    (hd : ls.Nodup) : (x.landLanes g n f ls).rows.word (rowKey g n l) = f l := by
  induction ls generalizing x with
  | nil => simp at hl
  | cons m r ih =>
    unfold Core.landLanes
    rw [List.nodup_cons] at hd
    by_cases e : l = m
    · subst e
      rw [landLanes_other _ _ _ _ _ _ fun q hq _ he => by
        have := rowKey_lane he
        exact hd.1 (this ▸ hq)]
      simp [Core.landV, h0, word_set]
    · have hr : l ∈ r := by simpa [e] using hl
      exact ih _ hr hd.2

theorem mem_lanesOf {m : Mask} {l : Nat} : l ∈ lanesOf m ↔ l < 32 ∧ m.getLsbD l = true := by
  simp [lanesOf]

theorem lanesOf_nodup (m : Mask) : (lanesOf m).Nodup := List.Nodup.filter _ List.nodup_range

/-- The core after a fixed-latency write. -/
theorem putV_core {s : State} {w : Issuer} {n : Nat} {m : Mask} {tl tu : Nat} {f : Nat → Word} {g : Group}
    (hg : s.group? w.c w.slot = some g) (hm : m ≠ 0) :
    putV s w n m tl tu f = s.setCore (((s.core w.c).landLanes g n f (lanesOf m)).modGroup w.slot fun g' =>
      g'.addPend (pendOf s w (.v n) m (laneList (s.core w.c) g n) tl tu)) := by
  unfold State.group? at hg
  unfold putV State.modCore
  rw [if_neg hm]
  simp only [hg]

theorem landLanes_groups (x : Core) (g : Group) (n : Nat) (f : Nat → Word) (ls : List Nat) : (x.landLanes g n f ls).groups = x.groups := by
  rw [landLanes_rest]

theorem landLanes_index (x : Core) (g : Group) (n : Nat) (f : Nat → Word) (ls : List Nat) : (x.landLanes g n f ls).index = x.index := by
  rw [landLanes_rest]

theorem addPend_slot (g : Group) (e : Pend) : (g.addPend e).slot = g.slot := rfl

theorem putV_local {s : State} {w : Issuer} (n : Nat) (m : Mask) (tl tu : Nat) (f : Nat → Word) (h : Tracks s w) :
    Local s (putV s w n m tl tu f) w (VKeys w.g n m) noKeys false := by
  by_cases hm : m = 0
  · subst hm
    have : putV s w n 0 tl tu f = s := by simp [putV]
    rw [this]
    exact Local.refl ..
  obtain ⟨g, hg, e1, e2, e3, _, _⟩ := h
  rw [putV_core hg hm]
  set y := ((s.core w.c).landLanes g n f (lanesOf m)).modGroup w.slot fun g' =>
      g'.addPend (pendOf s w (.v n) m (laneList (s.core w.c) g n) tl tu) with hy
  have hi : y.index = w.c := by rw [hy, modGroup_index, landLanes_index, core_index]
  have hc : (s.setCore y).core w.c = y := by have := core_setCore s y; rwa [hi] at this
  refine ⟨rfl, fun _ => rfl, fun c hne => core_setCore_other s y c (by rw [hi]; exact hne), ?_, ?_, ?_, ?_⟩
  · rw [hc, hy]
    have := landLanes_rest (s.core w.c) g n f (lanesOf m)
    unfold Core.modGroup
    rw [this]
  · intro k hk
    rw [hc, hy, modGroup_rows]
    refine landLanes_other _ _ _ _ _ _ fun l hl h0 he => hk ?_
    rw [mem_lanesOf] at hl
    exact ⟨l, hl.1, hl.2, (isG0_congr e3 n l) ▸ h0, (rowKey_congr e1 e2 n l) ▸ he⟩
  · intro b hb
    rw [hy]
    exact group_after_other s _ _ _ _ _ ((landLanes_index ..).trans (core_index ..)) (landLanes_groups ..) (fun _ => rfl) hb
  · intro a ha
    have hr := group_after s ((s.core w.c).landLanes g n f (lanesOf m)) w.c w.slot (fun g' =>
      g'.addPend (pendOf s w (.v n) m (laneList (s.core w.c) g n) tl tu))
      ((landLanes_index ..).trans (core_index ..)) (landLanes_groups ..) (fun _ => rfl)
    rw [ha] at hr
    exact ⟨_, hr, rfl, fun _ _ => rfl, fun _ => rfl, by simp [Group.addPend]⟩

theorem putV_holds {s : State} {w : Issuer} (n : Nat) (m : Mask) (tl tu : Nat) (f : Nat → Word) (h : Tracks s w) :
    HoldsV (putV s w n m tl tu f) w n m f := by
  intro l hl hb
  have hm : m ≠ 0 := by
    intro e
    subst e
    simp at hb
  obtain ⟨g, hg, e1, e2, e3, _, _⟩ := h
  rw [putV_core hg hm]
  set y := ((s.core w.c).landLanes g n f (lanesOf m)).modGroup w.slot fun g' =>
      g'.addPend (pendOf s w (.v n) m (laneList (s.core w.c) g n) tl tu) with hy
  have hi : y.index = w.c := by rw [hy, modGroup_index, landLanes_index, core_index]
  have hc : (s.setCore y).core w.c = y := by have := core_setCore s y; rwa [hi] at this
  rw [hc, hy]
  unfold rawV
  split
  · rfl
  · rename_i h0
    rw [modGroup_rows, ← rowKey_congr e1 e2]
    refine landLanes_same _ _ _ _ _ _ (mem_lanesOf.2 ⟨hl, hb⟩) ?_ (lanesOf_nodup m)
    rw [isG0_congr e3]
    simpa using h0

theorem putV_tracks {s : State} {w : Issuer} (n : Nat) (m : Mask) (tl tu : Nat) (f : Nat → Word) (h : Tracks s w) :
    Tracks (putV s w n m tl tu f) w := by
  by_cases hm : m = 0
  · subst hm
    simpa [putV] using h
  obtain ⟨g, hg, e1, e2, e3, e4, e5⟩ := h
  rw [putV_core hg hm]
  have := group_after s ((s.core w.c).landLanes g n f (lanesOf m)) w.c w.slot (fun g' =>
      g'.addPend (pendOf s w (.v n) m (laneList (s.core w.c) g n) tl tu))
      ((landLanes_index ..).trans (core_index ..)) (landLanes_groups ..) (fun _ => rfl)
  rw [hg] at this
  exact ⟨_, this, e1, e2, e3, e4, e5⟩

/-! Keeping what another write holds. -/

theorem rawV_of_rows {x y : Core} {g : Group} {n l : Nat} (h : isG0 g n l = false → x.rows.word (rowKey g n l) = y.rows.word (rowKey g n l)) :
    rawV x g n l = rawV y g n l := by
  unfold rawV
  split
  · rfl
  · rename_i h0
    exact h (by simpa using h0)

theorem HoldsV.keep {t u : State} {w : Issuer} {n : Nat} {m : Mask} {f : Nat → Word} {keys ks : Nat → Prop} {fl : Bool}
    (h : HoldsV t w n m f) (k : Local t u w keys ks fl) (hd : ∀ a, VKeys w.g n m a → ¬ keys a) : HoldsV u w n m f := by
  intro l hl hb
  rw [← h l hl hb]
  exact rawV_of_rows fun h0 => k.rows _ (hd _ ⟨l, hl, hb, h0, rfl⟩)

/-! Retirement. -/

theorem pass_content (g : Group) (cycle : Nat) (m : Mask) (n : Nat) :
    (g.pass cycle m n).la.map LaResult.content = g.la.map LaResult.content := by
  show (g.la.map fun a => if a.parked = 0 then { a with left := atLanes m (· - n) a.left } else a).map LaResult.content = _
  rw [List.map_map]
  refine List.map_congr_left fun a _ => ?_
  simp only [Function.comp]
  split <;> rfl

theorem pass_local (g : Group) (cycle : Nat) (m : Mask) (n : Nat) : GroupLocal noKeys false g (g.pass cycle m n) :=
  ⟨rfl, fun _ _ => rfl, fun _ => rfl, by rw [pass_content]; simp⟩

theorem retire_local (s : State) (w : Issuer) (pc : PC) (n : Nat) : Local s (retire s w pc n) w noKeys noKeys false :=
  modGroup_local _ (fun _ => rfl) fun g => ⟨rfl, fun _ _ => rfl, fun _ => rfl, (pass_content g s.cycle w.sp.mask n).trans (by simp)⟩

theorem retire_goesOn {s : State} {w : Issuer} (pc : PC) (n : Nat) (h : Tracks s w) (hs : w.g.split? w.idx = some w.sp) :
    GoesOn (retire s w pc n) w pc := by
  obtain ⟨g, hg, _, _, _, e4, _⟩ := h
  have hr := group_changed s w.c w.slot (fun g => (g.pass s.cycle w.sp.mask n).modSplit w.idx fun sp =>
      { sp with pc := pc, hold := .none, heldFor := 0 }) fun _ => rfl
  rw [hg] at hr
  refine ⟨_, hr, ?_, ?_⟩
  · show ((g.pass s.cycle w.sp.mask n).modSplit w.idx _).split? w.idx = _
    rw [split_modSplit]
    case hf => exact fun _ => rfl
    have : (g.pass s.cycle w.sp.mask n).split? w.idx = w.g.split? w.idx := by
      unfold Group.split? Group.pass
      rw [e4]
    rw [this, hs]
    rfl
  · intro i hne
    show ((g.pass s.cycle w.sp.mask n).modSplit w.idx _).split? i = _
    rw [split_modSplit_other (h := hne)]
    case hf => exact fun _ => rfl
    unfold Group.split? Group.pass
    rw [e4]

/-! Uniform register writes. -/

theorem getLsbD_oneLane (a l : Nat) (hl : l < 32) : (oneLane a).getLsbD l = decide (l = a) := by
  unfold oneLane
  by_cases h : l = a
  · subst h
    simp [BitVec.getLsbD_shiftLeft, hl]
  · simp only [BitVec.getLsbD_shiftLeft, h, decide_false]
    by_cases hla : l < a
    · simp [hla]
    · have : l - a ≠ 0 := by omega
      simp [hl, hla, BitVec.getLsbD_one, this]

theorem pair_lane (a l : Nat) (hl : l < 32) : (oneLane a ||| oneLane (a + 1)).getLsbD l = decide (l = a ∨ l = a + 1) := by
  rw [BitVec.getLsbD_or, getLsbD_oneLane a l hl, getLsbD_oneLane (a + 1) l hl]
  simp [Bool.decide_or]

theorem gLane_lt (i : Nat) : gLane i + 1 < 32 := by
  unfold gLane
  omega

theorem gReg_not_g0 (g : Group) (i l : Nat) (hi : i ≠ 0) (hl : l = gLane i ∨ l = gLane i + 1) : isG0 g (gReg g i) l = false := by
  unfold isG0 gReg
  simp only [Bool.and_eq_false_iff, beq_eq_false_iff_ne, decide_eq_false_iff_not]
  unfold gLane at hl
  by_cases h : i / 16 = 0
  · right; omega
  · left; omega

theorem word_halves (v : DWord) : BitVec.ofNat 64 (((v.setWidth 32).toNat) + 2 ^ 32 * ((v >>> 32).setWidth 32).toNat) = v := by
  apply BitVec.eq_of_toNat_eq
  simp only [BitVec.toNat_ofNat, BitVec.toNat_setWidth, BitVec.toNat_ushiftRight, Nat.shiftRight_eq_div_pow]
  have := v.isLt
  omega

theorem putG_local {s : State} {w : Issuer} (i : Nat) (v : DWord) (h : Tracks s w) : Local s (putG s w i v) w (GKeys w.g i) noKeys false := by
  unfold putG
  split
  · exact Local.refl ..
  · rename_i hi
    exact (putV_local _ _ _ _ _ h).mono (fun k hk => ⟨hi, hk⟩) (fun _ e => e) (fun e => e)

theorem putG_tracks {s : State} {w : Issuer} (i : Nat) (v : DWord) (h : Tracks s w) : Tracks (putG s w i v) w := by
  unfold putG
  split
  · exact h
  · exact putV_tracks _ _ _ _ _ h

theorem holdsG_of_V {t : State} {w : Issuer} {i : Nat} {v : DWord} (hi : i ≠ 0)
    (h : HoldsV t w (gReg w.g i) (oneLane (gLane i) ||| oneLane (gLane i + 1))
      fun l => if l = gLane i then v.setWidth 32 else (v >>> 32).setWidth 32) : HoldsG t w i v := by
  have hl := gLane_lt i
  have h1 := h (gLane i) (by omega) (by rw [pair_lane _ _ (by omega)]; simp)
  have h2 := h (gLane i + 1) hl (by rw [pair_lane _ _ hl]; simp)
  rw [gReg_not_g0 w.g i _ hi (Or.inl rfl)] at h1
  rw [gReg_not_g0 w.g i _ hi (Or.inr rfl)] at h2
  unfold HoldsG rawG
  simp only [hi, if_false]
  rw [h1, h2]
  simpa using word_halves v

theorem putG_holds {s : State} {w : Issuer} (i : Nat) (v : DWord) (h : Tracks s w) : HoldsG (putG s w i v) w i v := by
  by_cases hi : i = 0
  · subst hi
    simp [HoldsG, rawG]
  · unfold putG
    simp only [hi, if_false]
    exact holdsG_of_V hi (putV_holds _ _ _ _ _ h)

theorem HoldsG.keep {t u : State} {w : Issuer} {i : Nat} {v : DWord} {keys ks : Nat → Prop} {fl : Bool}
    (h : HoldsG t w i v) (k : Local t u w keys ks fl) (hd : ∀ a, GKeys w.g i a → ¬ keys a) : HoldsG u w i v := by
  unfold HoldsG at h ⊢
  rw [← h]
  unfold rawG
  by_cases hi : i = 0
  · simp [hi]
  · have hl := gLane_lt i
    have key (l : Nat) (e : l = gLane i ∨ l = gLane i + 1) : rawV (u.core w.c) w.g (gReg w.g i) l = rawV (t.core w.c) w.g (gReg w.g i) l :=
      rawV_of_rows fun h0 => k.rows _ (hd _ ⟨hi, l, by omega, by rw [pair_lane _ _ (by omega)]; simpa using e, h0, rfl⟩)
    rw [key _ (Or.inl rfl), key _ (Or.inr rfl)]

/-! Mask registers and flags. -/

theorem putK_local (s : State) (w : Issuer) (k : Nat) (m : Mask) (tl tu : Nat) (v : Mask) :
    Local s (putK s w k m tl tu v) w noKeys (fun j => j = k ∧ k ≠ 0) false := by
  unfold putK
  split
  · exact Local.refl ..
  · rename_i hk
    refine modGroup_local _ (fun _ => rfl) fun g => ⟨rfl, fun j hj => ?_, fun _ => rfl, by simp [Group.addPend]⟩
    have hne : j ≠ k := fun e => hj ⟨e, hk⟩
    unfold rawK
    split
    · rfl
    · simp [Group.addPend, List.getD_eq_getElem?_getD, List.getElem?_set, hne.symm]

theorem putK_tracks {s : State} {w : Issuer} (k : Nat) (m : Mask) (tl tu : Nat) (v : Mask) (h : Tracks s w) :
    Tracks (putK s w k m tl tu v) w := by
  unfold putK
  split
  · exact h
  · obtain ⟨g, hg, e⟩ := h
    have hr := group_changed s w.c w.slot (fun g =>
        { g with masks := g.masks.set k (mergeMask m (rawK g k) v) }.addPend (pendOf s w (.k k) m [rawK g k] tl tu)) (fun _ => rfl)
    rw [hg] at hr
    exact ⟨_, hr, e⟩

theorem flagWrite_local (s : State) (w : Issuer) (d : Nat) (f : BitVec 4) (h : BitVec 4 → BitVec 4) :
    Local s (flagWrite s w d f h) w noKeys noKeys true :=
  modGroup_local _ (fun _ => rfl) fun g => ⟨rfl, fun _ _ => rfl, fun h => by simp at h, by simp [Group.addPend]⟩

theorem flagWrite_tracks {s : State} {w : Issuer} (d : Nat) (f : BitVec 4) (to_ : BitVec 4 → BitVec 4) (h : Tracks s w) :
    Tracks (flagWrite s w d f to_) w := by
  obtain ⟨g, hg, e⟩ := h
  have hr := group_changed s w.c w.slot (fun g => { g with fpflags := to_ g.fpflags }.addPend
    (pendOf s w .flags (f.setWidth 32) [g.fpflags.setWidth 32] d 6)) fun _ => rfl
  rw [hg] at hr
  exact ⟨_, hr, e⟩

theorem raiseFlags_local (s : State) (w : Issuer) (d : Nat) (f : BitVec 4) : Local s (raiseFlags s w d f) w noKeys noKeys true := by
  unfold raiseFlags
  split
  · exact Local.refl ..
  · exact flagWrite_local ..

theorem raiseFlags_tracks {s : State} {w : Issuer} (d : Nat) (f : BitVec 4) (h : Tracks s w) : Tracks (raiseFlags s w d f) w := by
  unfold raiseFlags
  split
  · exact h
  · exact flagWrite_tracks _ _ _ h

/-! Instructions with one register result. -/

theorem putV_done {s : State} {w : Issuer} (h : s.who = some w) (n : Nat) (m : Mask) (tl tu : Nat) (f : Nat → Word) :
    HoldsV (done (putV s w n m tl tu f) w) w n m f ∧ GoesOn (done (putV s w n m tl tu f) w) w (nextPc w)
      ∧ Local s (done (putV s w n m tl tu f) w) w (VKeys w.g n m) noKeys false := by
  have ht := who_tracks h
  have hr := retire_local (putV s w n m tl tu f) w (nextPc w) 1
  exact ⟨(putV_holds n m tl tu f ht).keep hr fun _ _ e => e, retire_goesOn _ _ (putV_tracks n m tl tu f ht) (who_parts h).2.1,
    (putV_local n m tl tu f ht).trans (hr.mono (fun _ e => e.elim) (fun _ e => e) fun e => e)⟩

theorem putG_done {s : State} {w : Issuer} (h : s.who = some w) (i : Nat) (v : DWord) :
    HoldsG (done (putG s w i v) w) w i v ∧ GoesOn (done (putG s w i v) w) w (nextPc w)
      ∧ Local s (done (putG s w i v) w) w (GKeys w.g i) noKeys false := by
  have ht := who_tracks h
  have hr := retire_local (putG s w i v) w (nextPc w) 1
  exact ⟨(putG_holds i v ht).keep hr fun _ _ e => e, retire_goesOn _ _ (putG_tracks i v ht) (who_parts h).2.1,
    (putG_local i v ht).trans (hr.mono (fun _ e => e.elim) (fun _ e => e) fun e => e)⟩

end Sys2Proof.Machine
end

