-- ==== Sys2Proof/Laws/Issue.lean ====
section
/-! SUPPORT. The checks of an instruction's issue: what lets it act, and what it traps with. -/

namespace Sys2Proof.Machine

/-- A step by the fields of a write of DBGCMD is that write, but for what lies outside its fields (29 R368). -/
theorem stepWord_bits (v : DWord) {lo n : Nat} (h : (lo, n) ∈ [(0, 10), (16, 19), (16, 4), (20, 4), (24, 4), (28, 5), (33, 2)]) :
    bits (stepWord (dbgCtx v) (bits v.toNat 16 12) (bits v.toNat 28 5) (bits v.toNat 33 2)).toNat lo n = bits v.toNat lo n := by
  rw [stepWord, BitVec.toNat_ofNat, Nat.mod_eq_of_lt (by omega)]
  simp only [List.mem_cons, Prod.mk.injEq, List.not_mem_nil, or_false] at h
  rw [dbgCtx]
  generalize v.toNat = x
  rcases h with ⟨rfl, rfl⟩ | ⟨rfl, rfl⟩ | ⟨rfl, rfl⟩ | ⟨rfl, rfl⟩ | ⟨rfl, rfl⟩ | ⟨rfl, rfl⟩ | ⟨rfl, rfl⟩ <;>
    simp only [bits, Nat.reducePow, Nat.mod_mod, Nat.div_one] <;> omega

/-- What a step by the fields of a write names is what the write names. -/
theorem stepWord_fields (v : DWord) :
    let u := stepWord (dbgCtx v) (bits v.toNat 16 12) (bits v.toNat 28 5) (bits v.toNat 33 2)
    dbgCtx u = dbgCtx v ∧ dbgFields u.toNat = dbgFields v.toNat ∧ stepNamed u = stepNamed v := by
  have e := @stepWord_bits v
  refine ⟨e (by decide), ?_, ?_⟩
  · rw [dbgFields, dbgFields, e (lo := 0) (by decide), e (lo := 16) (n := 19) (by decide)]
  · simp only [stepNamed, e (lo := 16) (n := 4) (by decide), e (lo := 20) (n := 4) (by decide), e (lo := 24) (n := 4) (by decide),
      e (lo := 28) (n := 5) (by decide), e (lo := 33) (n := 2) (by decide)]

theorem hazardOf_none {s : State} {w : Issuer} (h : Issues s w) (rs : List Src) : hazardOf s w rs = none := by
  unfold hazardOf
  split
  · rename_i hd
    rcases h.2 with e | e
    · simp [e] at hd
    · rw [e]
      induction rs with
      | nil => rfl
      | cons r rs ih => simpa [hazardIn] using ih
  · rfl

theorem onIssuer_eq {s : State} {w : Issuer} (h : s.who = some w) (f : Issuer → State) : onIssuer s f = .next (f w) := by
  simp [onIssuer, h]

theorem find_range_none {named : List Nat} {n : Nat} (h : ∀ r ∈ named, r < n) : named.find? (fun r => n ≤ r) = none := by
  rw [List.find?_eq_none]
  intro r hr
  have := h r hr
  simp
  omega

/-- A lane-set instruction acts if its word is legal, its registers exist and no read is too near. -/
theorem laneIssue_acts {s : State} {w : Issuer} (h : Issues s w) {i : Instr} (hw : wellFormed i = true) {named : List Nat}
    (hn : ∀ r ∈ named, r < w.g.allot) (srcs : Issuer → List Src) (act : Issuer → State) : laneIssue s i named srcs act = .next (act w) := by
  unfold laneIssue
  rw [onIssuer_eq h.1]
  simp [hw, find_range_none hn, hazardOf_none h]

/-- A uniform-set instruction acts if its word is legal, its group may issue it, its registers exist and no read is too near. -/
theorem uniIssue_acts {s : State} {w : Issuer} (h : Issues s w) {i : Instr} (hw : wellFormed i = true) {priv : Bool}
    (hp : priv = true → isAgent w.g = true) {named : List Nat} (hn : ∀ r ∈ named, r < w.g.allot) (srcs : Issuer → List Src)
    (act : Issuer → State) : uniIssue s i priv named srcs act = .next (act w) := by
  unfold uniIssue
  rw [onIssuer_eq h.1]
  have : (priv && !isAgent w.g) = false := by
    cases hpv : priv with
    | false => rfl
    | true => simp [hp hpv]
  simp [hw, this, find_range_none hn, hazardOf_none h]

theorem laneIssueIf_acts {s : State} {w : Issuer} (h : Issues s w) {i : Instr} (hw : wellFormed i = true) {legal : Issuer → Bool}
    (hl : legal w = true) {named : List Nat} (hn : ∀ r ∈ named, r < w.g.allot) (srcs : Issuer → List Src) (act : Issuer → State) :
    laneIssueIf s i legal named srcs act = .next (act w) := by
  unfold laneIssueIf
  simp only [h.1, hl]
  simpa using laneIssue_acts h hw hn srcs act

theorem uniIssueIf_acts {s : State} {w : Issuer} (h : Issues s w) {i : Instr} (hw : wellFormed i = true) {legal : Issuer → Bool}
    (hl : legal w = true) {named : List Nat} (hn : ∀ r ∈ named, r < w.g.allot) (srcs : Issuer → List Src) (act : Issuer → State) :
    uniIssueIf s i legal named srcs act = .next (act w) := by
  unfold uniIssueIf
  simp only [h.1, hl]
  simpa using uniIssue_acts h hw (by simp) hn srcs act

/-- A word that is no instruction traps (09 R100). -/
theorem laneIssue_illegal {s : State} {w : Issuer} (h : s.who = some w) {i : Instr} (hw : wellFormed i = false) (named : List Nat)
    (srcs : Issuer → List Src) (act : Issuer → State) : laneIssue s i named srcs act = .next (trapAll s w .illegalOp (wordOf i)) := by
  unfold laneIssue
  rw [onIssuer_eq h]
  simp [hw]

/-- What an instruction with one lane register result does. -/
theorem laneResult_of {s : State} {w : Issuer} (h : s.who = some w) {i : Instr} {d : Nat} {m : Mask} {tl tu : Nat} {f : Nat → Word}
    (e : exec i s = .next (done (putV s w d m tl tu f) w)) : LaneResult s w i d m f :=
  ⟨_, e, (putV_done h d m tl tu f).1, (putV_done h d m tl tu f).2⟩

/-- What an instruction with one uniform register result does. -/
theorem uniResult_of {s : State} {w : Issuer} (h : s.who = some w) {i : Instr} {d : Nat} {v : DWord}
    (e : exec i s = .next (done (putG s w d v) w)) : UniResult s w i d v :=
  ⟨_, e, (putG_done h d v).1, (putG_done h d v).2⟩

end Sys2Proof.Machine
end

