-- ==== Sys2Proof/Laws/Memory.lean ====
section
/-! SUPPORT. Memory: a read after a write, and that every memory operation keeps the canonical form. -/

namespace Sys2Proof.Machine

theorem Memory.above_mono {m : List Host.Cell} {lo k : Nat} (h : k ≤ lo) (hm : Memory.above lo m = true) : Memory.above k m = true := by
  cases m with
  | nil => rfl
  | cons c r =>
    obtain ⟨a, v⟩ := c
    simp only [Memory.above, Bool.and_eq_true, decide_eq_true_eq] at hm ⊢
    exact ⟨⟨by omega, hm.1.2⟩, hm.2⟩

theorem Memory.read_below {m : List Host.Cell} {lo a : Nat} (hm : Memory.above lo m = true) (h : a < lo) : Memory.read m a = 0 := by
  cases m with
  | nil => rfl
  | cons c r =>
    obtain ⟨k, v⟩ := c
    simp only [Memory.above, Bool.and_eq_true, decide_eq_true_eq] at hm
    have h1 : k ≠ a := by omega
    have h2 : a < k := by omega
    simp [Memory.read, h1, h2]

theorem Memory.above_write {m : List Host.Cell} {lo a : Nat} (b : Byte) (h : lo ≤ a) (hm : Memory.above lo m = true) :
    Memory.above lo (Memory.write m a b) = true := by
  induction m generalizing lo with
  | nil => by_cases hb : b = 0#8 <;> simp [Memory.write, Memory.above, hb, h]
  | cons c r ih =>
    obtain ⟨k, v⟩ := c
    have hm0 := hm
    simp only [Memory.above, Bool.and_eq_true, decide_eq_true_eq] at hm
    obtain ⟨⟨h1, h2⟩, h3⟩ := hm
    unfold Memory.write
    split
    · rename_i hk
      by_cases hb : b = 0#8
      · simpa [hb] using hm0
      · have : a + 1 ≤ k := hk
        simp_all [Memory.above]
    · split
      · rename_i e
        subst e
        by_cases hb : b = 0#8
        · simpa [hb] using Memory.above_mono (by omega) h3
        · simp_all [Memory.above]
      · have := ih (lo := k + 1) (by omega) h3
        simp_all [Memory.above]

theorem Memory.wf_write {m : List Host.Cell} (a : Nat) (b : Byte) (hm : Memory.wf m = true) : Memory.wf (Memory.write m a b) = true :=
  Memory.above_write b (Nat.zero_le a) hm

theorem Memory.wf_writeAll {m : List Host.Cell} (cs : List Host.Cell) (hm : Memory.wf m = true) :
    Memory.wf (Memory.writeAll m cs) = true := by
  induction cs generalizing m with
  | nil => exact hm
  | cons c r ih => exact ih (Memory.wf_write c.1 c.2 hm)

theorem Memory.read_write {m : List Host.Cell} {lo : Nat} (a c : Nat) (b : Byte) (hm : Memory.above lo m = true) :
    Memory.read (Memory.write m a b) c = if c = a then b else Memory.read m c := by
  induction m generalizing lo with
  | nil =>
    by_cases hb : b = 0#8
    · by_cases h : c = a <;> simp [Memory.write, Memory.read, hb, h]
    · by_cases h : c = a
      · simp [Memory.write, Memory.read, hb, h]
      · have : a ≠ c := fun e => h e.symm
        simp [Memory.write, Memory.read, hb, h, this]
  | cons p r ih =>
    obtain ⟨k, v⟩ := p
    simp only [Memory.above, Bool.and_eq_true, decide_eq_true_eq] at hm
    obtain ⟨⟨h1, h2⟩, h3⟩ := hm
    unfold Memory.write
    split
    · rename_i hk
      by_cases hb : b = 0#8
      · by_cases h : c = a
        · subst h
          have : k ≠ c := by omega
          simp [hb, Memory.read, this, hk]
        · simp [hb, h]
      · by_cases h : c = a
        · subst h; simp [hb, Memory.read]
        · have h' : a ≠ c := fun e => h e.symm
          by_cases hc : c < a
          · have e1 : k ≠ c := by omega
            have e2 : c < k := by omega
            simp [hb, h, h', Memory.read, hc, e1, e2]
          · simp [hb, h, h', Memory.read, hc]
    · split
      · rename_i e
        subst e
        by_cases hb : b = 0#8
        · by_cases h : c = a
          · subst h
            simp [hb, Memory.read_below h3 (by omega : c < c + 1)]
          · have h' : a ≠ c := fun e => h e.symm
            by_cases hc : c < a
            · simp [hb, h, h', Memory.read, hc, Memory.read_below h3 (by omega : c < a + 1)]
            · simp [hb, h, h', Memory.read, hc]
        · by_cases h : c = a
          · subst h; simp [hb, Memory.read]
          · have h' : a ≠ c := fun e => h e.symm
            simp [hb, h, h', Memory.read]
      · rename_i n1 n2
        have := ih h3
        by_cases hk : k = c
        · subst hk
          have : k ≠ a := fun e => n2 e.symm
          simp [Memory.read, this]
        · by_cases hc : c < k
          · have : c ≠ a := by omega
            simp [Memory.read, hk, hc, this]
          · simp [Memory.read, hk, hc, this]

/-- A byte reads as it was written, and every other byte as before. -/
theorem Memory.read_write_wf {m : List Host.Cell} (a c : Nat) (b : Byte) (hm : Memory.wf m = true) :
    Memory.read (Memory.write m a b) c = if c = a then b else Memory.read m c := Memory.read_write a c b hm

theorem State.poke_wf (s : State) (pa : Nat) (bs : List Byte) (h : Memory.wf s.mem = true) : Memory.wf (s.poke pa bs).mem = true :=
  Memory.wf_writeAll _ h

/-- A list of cells written leaves the bytes it does not name. -/
theorem Memory.read_writeAll_other {m : List Host.Cell} (cs : List Host.Cell) (c : Nat) (hm : Memory.wf m = true)
    (h : ∀ p ∈ cs, p.1 ≠ c) : Memory.read (Memory.writeAll m cs) c = Memory.read m c := by
  induction cs generalizing m with
  | nil => rfl
  | cons p r ih =>
    have h1 : Memory.read (Memory.writeAll (Memory.write m p.1 p.2) r) c = Memory.read (Memory.write m p.1 p.2) c :=
      ih (Memory.wf_write _ _ hm) fun q hq => h q (by simp [hq])
    have h2 : c ≠ p.1 := fun e => h p (by simp) e.symm
    rw [show Memory.writeAll m (p :: r) = Memory.writeAll (Memory.write m p.1 p.2) r from rfl, h1, Memory.read_write_wf _ _ _ hm]
    simp [h2]

theorem reset_memory_wf : Memory.wf State.reset.mem = true := by decide

end Sys2Proof.Machine
end

