-- ==== Sys2Proof/Laws/PerInstr.lean ====
section
/-! SUPPORT. The statement family RoundTrip: every instruction's word decodes to that instruction; one lemma a constructor. -/

namespace Sys2Proof.Laws

/-- The word of a well-formed instruction decodes to it, in every group where it exists. -/
def RoundTrip.Statement (i : Instr) : Prop :=
  ∀ (svc : Bool) (w : Word), belongs svc i = true → wellFormed i = true → encode i = some w → decode svc w = .ok i

theorem decode_of_raw {i : Instr} {n : Nat} (he : encodeNat i = some n) (hn : n < 2 ^ 32)
    (hs : ¬ (fld n 26 6 = 31 ∧ fld n 4 5 = 4)) (hr : decodeRaw n = some i) : RoundTrip.Statement i := by
  intro svc w _ hw h
  have : w = BitVec.ofNat 32 n := by simp only [encode, he, Option.map_some, Option.some.injEq] at h; exact h.symm
  subst this
  have ht : (BitVec.ofNat 32 n).toNat = n := by simp only [BitVec.toNat_ofNat]; omega
  have hs' : ¬ (svc = true ∧ fld n 26 6 = 31 ∧ fld n 4 5 = 4) := fun h => hs h.2
  simp only [decode, ht, if_neg hs', hr, hw, if_true]

theorem not_tvcut {n m : Nat} (hm : fld n 26 6 = m) (h : m ≠ 31) : ¬ (fld n 26 6 = 31 ∧ fld n 4 5 = 4) :=
  fun g => h (hm.symm.trans g.1)

theorem other_field {n l k x v : Nat} (hm : fld n l k = x) (h : (x == v) = false) : ¬ fld n l k = v :=
  fun g => absurd (hm.symm.trans g) (by simpa using h)

theorem no_word {i : Instr} (he : encodeNat i = none) : RoundTrip.Statement i := by
  intro _ w _ _ h
  simp [encode, he] at h

theorem fld_eq (w lo n : Nat) : fld w lo n = w / 2 ^ lo % 2 ^ n := rfl

theorem fin_eq {m : Nat} [NeZero m] {x : Nat} {k : Fin m} (h : x = k.val) : fin m x = k := by
  subst h; exact Fin.ofNat_val_eq_self k

theorem bits_eq {m x : Nat} {k : BitVec m} (h : x = k.toNat) : BitVec.ofNat m x = k := by
  subst h; simp

theorem ICond_code_lt (c : ICond) : c.code < 16 := by cases c <;> decide

theorem ICond_code_of (c : ICond) : ICond.ofCode c.code = some c := by cases c <;> rfl

theorem IType_code_lt (c : IType) : c.code < 4 := by cases c <;> decide

theorem IType_code_of (c : IType) : IType.ofCode c.code = some c := by cases c <;> rfl

theorem FType_code_lt (c : FType) : c.code < 4 := by cases c <;> decide

theorem FType_code_of (c : FType) : FType.ofCode c.code = some c := by cases c <;> rfl

theorem FCond_code_lt (c : FCond) : c.code < 16 := by cases c <;> decide

theorem FCond_code_of (c : FCond) : FCond.ofCode c.code = some c := by cases c <;> rfl

theorem RMode_code_lt (c : RMode) : c.code < 4 := by cases c <;> decide

theorem RMode_code_of (c : RMode) : RMode.ofCode c.code = some c := by cases c <;> rfl

theorem MType_code_lt (c : MType) : c.code < 16 := by cases c <;> decide

theorem MType_code_of (c : MType) : MType.ofCode c.code = some c := by cases c <;> rfl

theorem AtomOp_code_lt (c : AtomOp) : c.code < 16 := by cases c <;> decide

theorem AtomOp_code_of (c : AtomOp) : AtomOp.ofCode c.code = some c := by cases c <;> rfl

theorem SzCode_code_lt (c : SzCode) : c.code < 4 := by cases c <;> decide

theorem SzCode_code_of (c : SzCode) : SzCode.ofCode c.code = some c := by cases c <;> rfl

theorem BCond_code_lt (c : BCond) : c.code < 16 := by cases c <;> decide

theorem BCond_code_of (c : BCond) : BCond.ofCode c.code = some c := by cases c <;> rfl

theorem Scope_code_lt (c : Scope) : c.code < 8 := by cases c <;> decide

theorem Scope_code_of (c : Scope) : Scope.ofCode c.code = some c := by cases c <;> rfl

theorem Gate_code_lt (c : Gate) : c.code < 8 := by cases c <;> decide

theorem Gate_code_of (c : Gate) : Gate.ofCode c.code = some c := by cases c <;> rfl

theorem raw1 {n : Nat} (h : fld n 26 6 = 1) : decodeRaw n = decodeMajor1 n := by delta decodeRaw; rw [h]; rfl

theorem raw3 {n : Nat} (h : fld n 26 6 = 3) : decodeRaw n = decodeMajor3 n := by delta decodeRaw; rw [h]; rfl

theorem raw4 {n : Nat} (h : fld n 26 6 = 4) : decodeRaw n = decodeMajor4 n := by delta decodeRaw; rw [h]; rfl

theorem raw5 {n : Nat} (h : fld n 26 6 = 5) : decodeRaw n = decodeMajor5 n := by delta decodeRaw; rw [h]; rfl

theorem raw6 {n : Nat} (h : fld n 26 6 = 6) : decodeRaw n = decodeMajor6 n := by delta decodeRaw; rw [h]; rfl

theorem raw7 {n : Nat} (h : fld n 26 6 = 7) : decodeRaw n = decodeMajor7 n := by delta decodeRaw; rw [h]; rfl

theorem raw8 {n : Nat} (h : fld n 26 6 = 8) : decodeRaw n = decodeMajor8 n := by delta decodeRaw; rw [h]; rfl

theorem raw9 {n : Nat} (h : fld n 26 6 = 9) : decodeRaw n = decodeMajor9 n := by delta decodeRaw; rw [h]; rfl

theorem raw10 {n : Nat} (h : fld n 26 6 = 10) : decodeRaw n = decodeMajor10 n := by delta decodeRaw; rw [h]; rfl

theorem raw11 {n : Nat} (h : fld n 26 6 = 11) : decodeRaw n = decodeMajor11 n := by delta decodeRaw; rw [h]; rfl

theorem raw12 {n : Nat} (h : fld n 26 6 = 12) : decodeRaw n = decodeMajor12 n := by delta decodeRaw; rw [h]; rfl

theorem raw13 {n : Nat} (h : fld n 26 6 = 13) : decodeRaw n = decodeMajor13 n := by delta decodeRaw; rw [h]; rfl

theorem raw14 {n : Nat} (h : fld n 26 6 = 14) : decodeRaw n = decodeMajor14 n := by delta decodeRaw; rw [h]; rfl

theorem raw15 {n : Nat} (h : fld n 26 6 = 15) : decodeRaw n = decodeMajor15 n := by delta decodeRaw; rw [h]; rfl

theorem raw16 {n : Nat} (h : fld n 26 6 = 16) : decodeRaw n = decodeMajor16 n := by delta decodeRaw; rw [h]; rfl

theorem raw17 {n : Nat} (h : fld n 26 6 = 17) : decodeRaw n = decodeMajor17 n := by delta decodeRaw; rw [h]; rfl

theorem raw18 {n : Nat} (h : fld n 26 6 = 18) : decodeRaw n = decodeMajor18 n := by delta decodeRaw; rw [h]; rfl

theorem raw19 {n : Nat} (h : fld n 26 6 = 19) : decodeRaw n = decodeMajor19 n := by delta decodeRaw; rw [h]; rfl

theorem raw20 {n : Nat} (h : fld n 26 6 = 20) : decodeRaw n = decodeMajor20 n := by delta decodeRaw; rw [h]; rfl

theorem raw21 {n : Nat} (h : fld n 26 6 = 21) : decodeRaw n = decodeMajor21 n := by delta decodeRaw; rw [h]; rfl

theorem raw22 {n : Nat} (h : fld n 26 6 = 22) : decodeRaw n = decodeMajor22 n := by delta decodeRaw; rw [h]; rfl

theorem raw23 {n : Nat} (h : fld n 26 6 = 23) : decodeRaw n = decodeMajor23 n := by delta decodeRaw; rw [h]; rfl

theorem raw24 {n : Nat} (h : fld n 26 6 = 24) : decodeRaw n = decodeMajor24 n := by delta decodeRaw; rw [h]; rfl

theorem raw25 {n : Nat} (h : fld n 26 6 = 25) : decodeRaw n = decodeMajor25 n := by delta decodeRaw; rw [h]; rfl

theorem raw26 {n : Nat} (h : fld n 26 6 = 26) : decodeRaw n = decodeMajor26 n := by delta decodeRaw; rw [h]; rfl

theorem raw27 {n : Nat} (h : fld n 26 6 = 27) : decodeRaw n = decodeMajor27 n := by delta decodeRaw; rw [h]; rfl

theorem raw2 {n : Nat} (h : fld n 26 6 = 2) : decodeRaw n = decodeMajor2 n := by delta decodeRaw; rw [h]; rfl

theorem raw28 {n : Nat} (h : fld n 26 6 = 28) : decodeRaw n = decodeMajor28 n := by delta decodeRaw; rw [h]; rfl

theorem raw29 {n : Nat} (h : fld n 26 6 = 29) : decodeRaw n = decodeMajor29 n := by delta decodeRaw; rw [h]; rfl

theorem raw30 {n : Nat} (h : fld n 26 6 = 30) : decodeRaw n = decodeMajor30 n := by delta decodeRaw; rw [h]; rfl

theorem raw31 {n : Nat} (h : fld n 26 6 = 31) : decodeRaw n = decodeMajor31 n := by delta decodeRaw; rw [h]; rfl

theorem raw33 {n : Nat} (h : fld n 26 6 = 33) : decodeRaw n = decodeMajor33 n := by delta decodeRaw; rw [h]; rfl

theorem raw34 {n : Nat} (h : fld n 26 6 = 34) : decodeRaw n = decodeMajor34 n := by delta decodeRaw; rw [h]; rfl

theorem raw35 {n : Nat} (h : fld n 26 6 = 35) : decodeRaw n = decodeMajor35 n := by delta decodeRaw; rw [h]; rfl

theorem raw36 {n : Nat} (h : fld n 26 6 = 36) : decodeRaw n = decodeMajor36 n := by delta decodeRaw; rw [h]; rfl

theorem raw37 {n : Nat} (h : fld n 26 6 = 37) : decodeRaw n = decodeMajor37 n := by delta decodeRaw; rw [h]; rfl

theorem raw38 {n : Nat} (h : fld n 26 6 = 38) : decodeRaw n = decodeMajor38 n := by delta decodeRaw; rw [h]; rfl

theorem raw39 {n : Nat} (h : fld n 26 6 = 39) : decodeRaw n = decodeMajor39 n := by delta decodeRaw; rw [h]; rfl

theorem raw40 {n : Nat} (h : fld n 26 6 = 40) : decodeRaw n = decodeMajor40 n := by delta decodeRaw; rw [h]; rfl

theorem raw41 {n : Nat} (h : fld n 26 6 = 41) : decodeRaw n = decodeMajor41 n := by delta decodeRaw; rw [h]; rfl

theorem raw42 {n : Nat} (h : fld n 26 6 = 42) : decodeRaw n = decodeMajor42 n := by delta decodeRaw; rw [h]; rfl

theorem raw43 {n : Nat} (h : fld n 26 6 = 43) : decodeRaw n = decodeMajor43 n := by delta decodeRaw; rw [h]; rfl

theorem raw44 {n : Nat} (h : fld n 26 6 = 44) : decodeRaw n = decodeMajor44 n := by delta decodeRaw; rw [h]; rfl

theorem raw45 {n : Nat} (h : fld n 26 6 = 45) : decodeRaw n = decodeMajor45 n := by delta decodeRaw; rw [h]; rfl

theorem raw46 {n : Nat} (h : fld n 26 6 = 46) : decodeRaw n = decodeMajor46 n := by delta decodeRaw; rw [h]; rfl

theorem raw47 {n : Nat} (h : fld n 26 6 = 47) : decodeRaw n = decodeMajor47 n := by delta decodeRaw; rw [h]; rfl

theorem raw48 {n : Nat} (h : fld n 26 6 = 48) : decodeRaw n = decodeMajor48 n := by delta decodeRaw; rw [h]; rfl

theorem raw49 {n : Nat} (h : fld n 26 6 = 49) : decodeRaw n = decodeMajor49 n := by delta decodeRaw; rw [h]; rfl

theorem raw50 {n : Nat} (h : fld n 26 6 = 50) : decodeRaw n = decodeMajor50 n := by delta decodeRaw; rw [h]; rfl

theorem raw51 {n : Nat} (h : fld n 26 6 = 51) : decodeRaw n = decodeMajor51 n := by delta decodeRaw; rw [h]; rfl

theorem raw52 {n : Nat} (h : fld n 26 6 = 52) : decodeRaw n = decodeMajor52 n := by delta decodeRaw; rw [h]; rfl

theorem raw53 {n : Nat} (h : fld n 26 6 = 53) : decodeRaw n = decodeMajor53 n := by delta decodeRaw; rw [h]; rfl

theorem raw54 {n : Nat} (h : fld n 26 6 = 54) : decodeRaw n = decodeMajor54 n := by delta decodeRaw; rw [h]; rfl

theorem raw55 {n : Nat} (h : fld n 26 6 = 55) : decodeRaw n = decodeMajor55 n := by delta decodeRaw; rw [h]; rfl

theorem raw56 {n : Nat} (h : fld n 26 6 = 56) : decodeRaw n = decodeMajor56 n := by delta decodeRaw; rw [h]; rfl

theorem raw57 {n : Nat} (h : fld n 26 6 = 57) : decodeRaw n = decodeMajor57 n := by delta decodeRaw; rw [h]; rfl

theorem raw58 {n : Nat} (h : fld n 26 6 = 58) : decodeRaw n = decodeMajor58 n := by delta decodeRaw; rw [h]; rfl

theorem raw59 {n : Nat} (h : fld n 26 6 = 59) : decodeRaw n = decodeMajor59 n := by delta decodeRaw; rw [h]; rfl

theorem shape0 {m c n c0 f0 f1 f2 f3 : Nat} (hc : c = m * 67108864 + c0) (hn : n = c + f0 * 8388608 + f1 * 65536 + f2 * 512 + f3 * 4) (hm : m < 64) (gc0 : c0 < 4) (gf0 : f0 < 8) (gf1 : f1 < 128) (gf2 : f2 < 128) (gf3 : f3 < 128) :
    n < 2 ^ 32 ∧ fld n 26 6 = m ∧ fld n 23 3 = f0 ∧ fld n 16 7 = f1 ∧ fld n 9 7 = f2 ∧ fld n 2 7 = f3 ∧ fld n 0 2 = c0 := by
  subst hc hn
  simp only [fld_eq]
  refine ⟨by omega, by omega, by omega, by omega, by omega, by omega, by omega⟩

theorem shape1 {m c n c0 f0 f1 f2 : Nat} (hc : c = m * 67108864 + c0) (hn : n = c + f0 * 8388608 + f1 * 65536 + f2 * 512) (hm : m < 64) (gc0 : c0 < 512) (gf0 : f0 < 8) (gf1 : f1 < 128) (gf2 : f2 < 128) :
    n < 2 ^ 32 ∧ fld n 26 6 = m ∧ fld n 23 3 = f0 ∧ fld n 16 7 = f1 ∧ fld n 9 7 = f2 ∧ fld n 0 9 = c0 := by
  subst hc hn
  simp only [fld_eq]
  refine ⟨by omega, by omega, by omega, by omega, by omega, by omega⟩

theorem shape2 {m c n f0 f1 f2 f3 f4 f5 : Nat} (hc : c = m * 67108864) (hn : n = c + f0 * 8388608 + f1 * 524288 + f2 * 65536 + f3 * 512 + f4 * 4 + f5) (hm : m < 64) (gf0 : f0 < 8) (gf1 : f1 < 16) (gf2 : f2 < 8) (gf3 : f3 < 128) (gf4 : f4 < 128) (gf5 : f5 < 4) :
    n < 2 ^ 32 ∧ fld n 26 6 = m ∧ fld n 23 3 = f0 ∧ fld n 19 4 = f1 ∧ fld n 16 3 = f2 ∧ fld n 9 7 = f3 ∧ fld n 2 7 = f4 ∧ fld n 0 2 = f5 := by
  subst hc hn
  simp only [fld_eq]
  refine ⟨by omega, by omega, by omega, by omega, by omega, by omega, by omega, by omega⟩

theorem shape3 {m c n c0 f0 f1 : Nat} (hc : c = m * 67108864 + c0) (hn : n = c + f0 * 8388608 + f1 * 65536) (hm : m < 64) (gc0 : c0 < 65536) (gf0 : f0 < 8) (gf1 : f1 < 128) :
    n < 2 ^ 32 ∧ fld n 26 6 = m ∧ fld n 23 3 = f0 ∧ fld n 16 7 = f1 ∧ fld n 0 16 = c0 := by
  subst hc hn
  simp only [fld_eq]
  refine ⟨by omega, by omega, by omega, by omega, by omega⟩

theorem shape4 {m c n c0 f0 f1 f2 f3 : Nat} (hc : c = m * 67108864 + c0) (hn : n = c + f0 * 8388608 + f1 * 65536 + f2 * 512 + f3 * 8) (hm : m < 64) (gc0 : c0 < 8) (gf0 : f0 < 8) (gf1 : f1 < 128) (gf2 : f2 < 128) (gf3 : f3 < 64) :
    n < 2 ^ 32 ∧ fld n 26 6 = m ∧ fld n 23 3 = f0 ∧ fld n 16 7 = f1 ∧ fld n 9 7 = f2 ∧ fld n 3 6 = f3 ∧ fld n 0 3 = c0 := by
  subst hc hn
  simp only [fld_eq]
  refine ⟨by omega, by omega, by omega, by omega, by omega, by omega, by omega⟩

theorem shape5 {m c n c0 c1 f0 f1 f2 : Nat} (hc : c = m * 67108864 + c0 + c1 * 512) (hn : n = c + f0 * 8388608 + f1 * 65536 + f2 * 8) (hm : m < 64) (gc0 : c0 < 8) (gc1 : c1 < 128) (gf0 : f0 < 8) (gf1 : f1 < 128) (gf2 : f2 < 64) :
    n < 2 ^ 32 ∧ fld n 26 6 = m ∧ fld n 23 3 = f0 ∧ fld n 16 7 = f1 ∧ fld n 3 6 = f2 ∧ fld n 0 3 = c0 ∧ fld n 9 7 = c1 := by
  subst hc hn
  simp only [fld_eq]
  refine ⟨by omega, by omega, by omega, by omega, by omega, by omega, by omega⟩

theorem shape6 {m c n f0 f1 f2 f3 f4 : Nat} (hc : c = m * 67108864) (hn : n = c + f0 * 8388608 + f1 * 65536 + f2 * 512 + f3 * 4 + f4) (hm : m < 64) (gf0 : f0 < 8) (gf1 : f1 < 128) (gf2 : f2 < 128) (gf3 : f3 < 128) (gf4 : f4 < 4) :
    n < 2 ^ 32 ∧ fld n 26 6 = m ∧ fld n 23 3 = f0 ∧ fld n 16 7 = f1 ∧ fld n 9 7 = f2 ∧ fld n 2 7 = f3 ∧ fld n 0 2 = f4 := by
  subst hc hn
  simp only [fld_eq]
  refine ⟨by omega, by omega, by omega, by omega, by omega, by omega, by omega⟩

theorem shape7 {m c n c0 f0 f1 f2 f3 : Nat} (hc : c = m * 67108864 + c0 * 16) (hn : n = c + f0 * 8388608 + f1 * 65536 + f2 * 512 + f3) (hm : m < 64) (gc0 : c0 < 32) (gf0 : f0 < 8) (gf1 : f1 < 128) (gf2 : f2 < 128) (gf3 : f3 < 16) :
    n < 2 ^ 32 ∧ fld n 26 6 = m ∧ fld n 23 3 = f0 ∧ fld n 16 7 = f1 ∧ fld n 9 7 = f2 ∧ fld n 0 4 = f3 ∧ fld n 4 5 = c0 := by
  subst hc hn
  simp only [fld_eq]
  refine ⟨by omega, by omega, by omega, by omega, by omega, by omega, by omega⟩

theorem shape8 {m c n c0 f0 f1 f2 f3 f4 : Nat} (hc : c = m * 67108864 + c0 * 16) (hn : n = c + f0 * 8388608 + f1 * 65536 + f2 * 512 + f3 * 64 + f4) (hm : m < 64) (gc0 : c0 < 4) (gf0 : f0 < 8) (gf1 : f1 < 128) (gf2 : f2 < 128) (gf3 : f3 < 8) (gf4 : f4 < 16) :
    n < 2 ^ 32 ∧ fld n 26 6 = m ∧ fld n 23 3 = f0 ∧ fld n 16 7 = f1 ∧ fld n 9 7 = f2 ∧ fld n 6 3 = f3 ∧ fld n 0 4 = f4 ∧ fld n 4 2 = c0 := by
  subst hc hn
  simp only [fld_eq]
  refine ⟨by omega, by omega, by omega, by omega, by omega, by omega, by omega, by omega⟩

theorem shape9 {m c n c0 f0 f1 f2 f3 : Nat} (hc : c = m * 67108864 + c0) (hn : n = c + f0 * 8388608 + f1 * 65536 + f2 * 512 + f3 * 64) (hm : m < 64) (gc0 : c0 < 64) (gf0 : f0 < 8) (gf1 : f1 < 128) (gf2 : f2 < 128) (gf3 : f3 < 8) :
    n < 2 ^ 32 ∧ fld n 26 6 = m ∧ fld n 23 3 = f0 ∧ fld n 16 7 = f1 ∧ fld n 9 7 = f2 ∧ fld n 6 3 = f3 ∧ fld n 0 6 = c0 := by
  subst hc hn
  simp only [fld_eq]
  refine ⟨by omega, by omega, by omega, by omega, by omega, by omega, by omega⟩

theorem shape10 {m c n f0 f1 f2 f3 f4 : Nat} (hc : c = m * 67108864) (hn : n = c + f0 * 8388608 + f1 * 65536 + f2 * 512 + f3 * 16 + f4) (hm : m < 64) (gf0 : f0 < 8) (gf1 : f1 < 128) (gf2 : f2 < 128) (gf3 : f3 < 32) (gf4 : f4 < 16) :
    n < 2 ^ 32 ∧ fld n 26 6 = m ∧ fld n 23 3 = f0 ∧ fld n 16 7 = f1 ∧ fld n 9 7 = f2 ∧ fld n 4 5 = f3 ∧ fld n 0 4 = f4 := by
  subst hc hn
  simp only [fld_eq]
  refine ⟨by omega, by omega, by omega, by omega, by omega, by omega, by omega⟩

theorem shape11 {m c n c0 c1 f0 f1 : Nat} (hc : c = m * 67108864 + c0 + c1 * 65536) (hn : n = c + f0 * 8388608 + f1 * 512) (hm : m < 64) (gc0 : c0 < 512) (gc1 : c1 < 128) (gf0 : f0 < 8) (gf1 : f1 < 128) :
    n < 2 ^ 32 ∧ fld n 26 6 = m ∧ fld n 23 3 = f0 ∧ fld n 9 7 = f1 ∧ fld n 0 9 = c0 ∧ fld n 16 7 = c1 := by
  subst hc hn
  simp only [fld_eq]
  refine ⟨by omega, by omega, by omega, by omega, by omega, by omega⟩

theorem shape12 {m c n c0 f0 f1 f2 f3 : Nat} (hc : c = m * 67108864 + c0 * 4) (hn : n = c + f0 * 8388608 + f1 * 65536 + f2 * 512 + f3) (hm : m < 64) (gc0 : c0 < 128) (gf0 : f0 < 8) (gf1 : f1 < 128) (gf2 : f2 < 128) (gf3 : f3 < 4) :
    n < 2 ^ 32 ∧ fld n 26 6 = m ∧ fld n 23 3 = f0 ∧ fld n 16 7 = f1 ∧ fld n 9 7 = f2 ∧ fld n 0 2 = f3 ∧ fld n 2 7 = c0 := by
  subst hc hn
  simp only [fld_eq]
  refine ⟨by omega, by omega, by omega, by omega, by omega, by omega, by omega⟩

theorem shape13 {m c n c0 f0 f1 f2 : Nat} (hc : c = m * 67108864 + c0) (hn : n = c + f0 * 1048576 + f1 * 16384 + f2 * 256) (hm : m < 64) (gc0 : c0 < 256) (gf0 : f0 < 64) (gf1 : f1 < 64) (gf2 : f2 < 64) :
    n < 2 ^ 32 ∧ fld n 26 6 = m ∧ fld n 20 6 = f0 ∧ fld n 14 6 = f1 ∧ fld n 8 6 = f2 ∧ fld n 0 8 = c0 := by
  subst hc hn
  simp only [fld_eq]
  refine ⟨by omega, by omega, by omega, by omega, by omega, by omega⟩

theorem shape14 {m c n c0 f0 f1 : Nat} (hc : c = m * 67108864 + c0) (hn : n = c + f0 * 1048576 + f1 * 16384) (hm : m < 64) (gc0 : c0 < 16384) (gf0 : f0 < 64) (gf1 : f1 < 64) :
    n < 2 ^ 32 ∧ fld n 26 6 = m ∧ fld n 20 6 = f0 ∧ fld n 14 6 = f1 ∧ fld n 0 14 = c0 := by
  subst hc hn
  simp only [fld_eq]
  refine ⟨by omega, by omega, by omega, by omega, by omega⟩

theorem shape15 {m c n f0 f1 f2 : Nat} (hc : c = m * 67108864) (hn : n = c + f0 * 1048576 + f1 * 16384 + f2) (hm : m < 64) (gf0 : f0 < 64) (gf1 : f1 < 64) (gf2 : f2 < 16384) :
    n < 2 ^ 32 ∧ fld n 26 6 = m ∧ fld n 20 6 = f0 ∧ fld n 14 6 = f1 ∧ fld n 0 14 = f2 := by
  subst hc hn
  simp only [fld_eq]
  refine ⟨by omega, by omega, by omega, by omega, by omega⟩

theorem shape16 {m c n f0 f1 : Nat} (hc : c = m * 67108864) (hn : n = c + f0 * 1048576 + f1) (hm : m < 64) (gf0 : f0 < 64) (gf1 : f1 < 1048576) :
    n < 2 ^ 32 ∧ fld n 26 6 = m ∧ fld n 20 6 = f0 ∧ fld n 0 20 = f1 := by
  subst hc hn
  simp only [fld_eq]
  refine ⟨by omega, by omega, by omega, by omega⟩

theorem shape17 {m c n c0 f0 f1 f2 : Nat} (hc : c = m * 67108864 + c0 * 64) (hn : n = c + f0 * 1048576 + f1 * 16384 + f2) (hm : m < 64) (gc0 : c0 < 256) (gf0 : f0 < 64) (gf1 : f1 < 64) (gf2 : f2 < 64) :
    n < 2 ^ 32 ∧ fld n 26 6 = m ∧ fld n 20 6 = f0 ∧ fld n 14 6 = f1 ∧ fld n 0 6 = f2 ∧ fld n 6 8 = c0 := by
  subst hc hn
  simp only [fld_eq]
  refine ⟨by omega, by omega, by omega, by omega, by omega, by omega⟩

theorem shape18 {m c n f0 f1 f2 : Nat} (hc : c = m * 67108864) (hn : n = c + f0 * 4194304 + f1 * 65536 + f2) (hm : m < 64) (gf0 : f0 < 16) (gf1 : f1 < 64) (gf2 : f2 < 65536) :
    n < 2 ^ 32 ∧ fld n 26 6 = m ∧ fld n 22 4 = f0 ∧ fld n 16 6 = f1 ∧ fld n 0 16 = f2 := by
  subst hc hn
  simp only [fld_eq]
  refine ⟨by omega, by omega, by omega, by omega, by omega⟩

theorem shape19 {m c n f0 f1 f2 : Nat} (hc : c = m * 67108864) (hn : n = c + f0 * 8388608 + f1 * 4194304 + f2) (hm : m < 64) (gf0 : f0 < 8) (gf1 : f1 < 2) (gf2 : f2 < 4194304) :
    n < 2 ^ 32 ∧ fld n 26 6 = m ∧ fld n 23 3 = f0 ∧ fld n 22 1 = f1 ∧ fld n 0 22 = f2 := by
  subst hc hn
  simp only [fld_eq]
  refine ⟨by omega, by omega, by omega, by omega, by omega⟩

theorem shape20 {m c n f0 : Nat} (hc : c = m * 67108864) (hn : n = c + f0) (hm : m < 64) (gf0 : f0 < 67108864) :
    n < 2 ^ 32 ∧ fld n 26 6 = m ∧ fld n 0 26 = f0 := by
  subst hc hn
  simp only [fld_eq]
  refine ⟨by omega, by omega, by omega⟩

theorem shape21 {m c n c0 c1 f0 : Nat} (hc : c = m * 67108864 + c0 + c1 * 1048576) (hn : n = c + f0 * 16384) (hm : m < 64) (gc0 : c0 < 16384) (gc1 : c1 < 64) (gf0 : f0 < 64) :
    n < 2 ^ 32 ∧ fld n 26 6 = m ∧ fld n 14 6 = f0 ∧ fld n 0 14 = c0 ∧ fld n 20 6 = c1 := by
  subst hc hn
  simp only [fld_eq]
  refine ⟨by omega, by omega, by omega, by omega, by omega⟩

theorem shape22 {m c n c0 : Nat} (hc : c = m * 67108864 + c0) (hn : n = c) (hm : m < 64) (gc0 : c0 < 67108864) :
    n < 2 ^ 32 ∧ fld n 26 6 = m ∧ fld n 0 26 = c0 := by
  subst hc hn
  simp only [fld_eq]
  refine ⟨by omega, by omega, by omega⟩

theorem shape23 {m c n c0 c1 f0 : Nat} (hc : c = m * 67108864 + c0 + c1 * 16384) (hn : n = c + f0 * 256) (hm : m < 64) (gc0 : c0 < 256) (gc1 : c1 < 4096) (gf0 : f0 < 64) :
    n < 2 ^ 32 ∧ fld n 26 6 = m ∧ fld n 8 6 = f0 ∧ fld n 0 8 = c0 ∧ fld n 14 12 = c1 := by
  subst hc hn
  simp only [fld_eq]
  refine ⟨by omega, by omega, by omega, by omega, by omega⟩

theorem shape24 {m c n c0 f0 : Nat} (hc : c = m * 67108864 + c0) (hn : n = c + f0 * 1048576) (hm : m < 64) (gc0 : c0 < 1048576) (gf0 : f0 < 64) :
    n < 2 ^ 32 ∧ fld n 26 6 = m ∧ fld n 20 6 = f0 ∧ fld n 0 20 = c0 := by
  subst hc hn
  simp only [fld_eq]
  refine ⟨by omega, by omega, by omega, by omega⟩

theorem shape25 {m c n c0 f0 : Nat} (hc : c = m * 67108864 + c0 * 8) (hn : n = c + f0) (hm : m < 64) (gc0 : c0 < 8388608) (gf0 : f0 < 8) :
    n < 2 ^ 32 ∧ fld n 26 6 = m ∧ fld n 0 3 = f0 ∧ fld n 3 23 = c0 := by
  subst hc hn
  simp only [fld_eq]
  refine ⟨by omega, by omega, by omega, by omega⟩

theorem shape26 {m c n c0 c1 f0 f1 : Nat} (hc : c = m * 67108864 + c0 * 8 + c1 * 1048576) (hn : n = c + f0 * 16384 + f1) (hm : m < 64) (gc0 : c0 < 2048) (gc1 : c1 < 64) (gf0 : f0 < 64) (gf1 : f1 < 8) :
    n < 2 ^ 32 ∧ fld n 26 6 = m ∧ fld n 14 6 = f0 ∧ fld n 0 3 = f1 ∧ fld n 3 11 = c0 ∧ fld n 20 6 = c1 := by
  subst hc hn
  simp only [fld_eq]
  refine ⟨by omega, by omega, by omega, by omega, by omega, by omega⟩

theorem shape27 {m c n c0 c1 f0 f1 : Nat} (hc : c = m * 67108864 + c0 + c1 * 1048576) (hn : n = c + f0 * 16384 + f1 * 256) (hm : m < 64) (gc0 : c0 < 256) (gc1 : c1 < 64) (gf0 : f0 < 64) (gf1 : f1 < 64) :
    n < 2 ^ 32 ∧ fld n 26 6 = m ∧ fld n 14 6 = f0 ∧ fld n 8 6 = f1 ∧ fld n 0 8 = c0 ∧ fld n 20 6 = c1 := by
  subst hc hn
  simp only [fld_eq]
  refine ⟨by omega, by omega, by omega, by omega, by omega, by omega⟩

theorem shape28 {m c n c0 f0 f1 f2 : Nat} (hc : c = m * 67108864 + c0) (hn : n = c + f0 * 1048576 + f1 * 8192 + f2 * 128) (hm : m < 64) (gc0 : c0 < 128) (gf0 : f0 < 64) (gf1 : f1 < 128) (gf2 : f2 < 64) :
    n < 2 ^ 32 ∧ fld n 26 6 = m ∧ fld n 20 6 = f0 ∧ fld n 13 7 = f1 ∧ fld n 7 6 = f2 ∧ fld n 0 7 = c0 := by
  subst hc hn
  simp only [fld_eq]
  refine ⟨by omega, by omega, by omega, by omega, by omega, by omega⟩

theorem shape29 {m c n c0 f0 f1 : Nat} (hc : c = m * 67108864 + c0) (hn : n = c + f0 * 1048576 + f1 * 8192) (hm : m < 64) (gc0 : c0 < 8192) (gf0 : f0 < 64) (gf1 : f1 < 128) :
    n < 2 ^ 32 ∧ fld n 26 6 = m ∧ fld n 20 6 = f0 ∧ fld n 13 7 = f1 ∧ fld n 0 13 = c0 := by
  subst hc hn
  simp only [fld_eq]
  refine ⟨by omega, by omega, by omega, by omega, by omega⟩

theorem shape30 {m c n c0 c1 f0 f1 : Nat} (hc : c = m * 67108864 + c0 + c1 * 8388608) (hn : n = c + f0 * 1048576 + f1 * 16384) (hm : m < 64) (gc0 : c0 < 16384) (gc1 : c1 < 8) (gf0 : f0 < 8) (gf1 : f1 < 64) :
    n < 2 ^ 32 ∧ fld n 26 6 = m ∧ fld n 20 3 = f0 ∧ fld n 14 6 = f1 ∧ fld n 0 14 = c0 ∧ fld n 23 3 = c1 := by
  subst hc hn
  simp only [fld_eq]
  refine ⟨by omega, by omega, by omega, by omega, by omega, by omega⟩

theorem shape31 {m c n c0 c1 f0 f1 : Nat} (hc : c = m * 67108864 + c0 + c1 * 131072) (hn : n = c + f0 * 1048576 + f1 * 16384) (hm : m < 64) (gc0 : c0 < 16384) (gc1 : c1 < 8) (gf0 : f0 < 64) (gf1 : f1 < 8) :
    n < 2 ^ 32 ∧ fld n 26 6 = m ∧ fld n 20 6 = f0 ∧ fld n 14 3 = f1 ∧ fld n 0 14 = c0 ∧ fld n 17 3 = c1 := by
  subst hc hn
  simp only [fld_eq]
  refine ⟨by omega, by omega, by omega, by omega, by omega, by omega⟩

theorem shape32 {m c n c0 c1 c2 c3 f0 f1 f2 : Nat} (hc : c = m * 67108864 + c0 + c1 * 2048 + c2 * 131072 + c3 * 8388608) (hn : n = c + f0 * 1048576 + f1 * 16384 + f2 * 256) (hm : m < 64) (gc0 : c0 < 256) (gc1 : c1 < 8) (gc2 : c2 < 8) (gc3 : c3 < 8) (gf0 : f0 < 8) (gf1 : f1 < 8) (gf2 : f2 < 8) :
    n < 2 ^ 32 ∧ fld n 26 6 = m ∧ fld n 20 3 = f0 ∧ fld n 14 3 = f1 ∧ fld n 8 3 = f2 ∧ fld n 0 8 = c0 ∧ fld n 11 3 = c1 ∧ fld n 17 3 = c2 ∧ fld n 23 3 = c3 := by
  subst hc hn
  simp only [fld_eq]
  refine ⟨by omega, by omega, by omega, by omega, by omega, by omega, by omega, by omega, by omega⟩

theorem shape33 {m c n c0 c1 c2 f0 f1 : Nat} (hc : c = m * 67108864 + c0 + c1 * 131072 + c2 * 8388608) (hn : n = c + f0 * 1048576 + f1 * 16384) (hm : m < 64) (gc0 : c0 < 16384) (gc1 : c1 < 8) (gc2 : c2 < 8) (gf0 : f0 < 8) (gf1 : f1 < 8) :
    n < 2 ^ 32 ∧ fld n 26 6 = m ∧ fld n 20 3 = f0 ∧ fld n 14 3 = f1 ∧ fld n 0 14 = c0 ∧ fld n 17 3 = c1 ∧ fld n 23 3 = c2 := by
  subst hc hn
  simp only [fld_eq]
  refine ⟨by omega, by omega, by omega, by omega, by omega, by omega, by omega⟩

theorem shape34 {m c n c0 f0 f1 : Nat} (hc : c = m * 67108864 + c0) (hn : n = c + f0 * 1048576 + f1 * 65536) (hm : m < 64) (gc0 : c0 < 65536) (gf0 : f0 < 64) (gf1 : f1 < 16) :
    n < 2 ^ 32 ∧ fld n 26 6 = m ∧ fld n 20 6 = f0 ∧ fld n 16 4 = f1 ∧ fld n 0 16 = c0 := by
  subst hc hn
  simp only [fld_eq]
  refine ⟨by omega, by omega, by omega, by omega, by omega⟩

theorem shape35 {m c n c0 c1 f0 f1 : Nat} (hc : c = m * 67108864 + c0 + c1 * 16384) (hn : n = c + f0 * 1048576 + f1 * 256) (hm : m < 64) (gc0 : c0 < 256) (gc1 : c1 < 64) (gf0 : f0 < 64) (gf1 : f1 < 64) :
    n < 2 ^ 32 ∧ fld n 26 6 = m ∧ fld n 20 6 = f0 ∧ fld n 8 6 = f1 ∧ fld n 0 8 = c0 ∧ fld n 14 6 = c1 := by
  subst hc hn
  simp only [fld_eq]
  refine ⟨by omega, by omega, by omega, by omega, by omega, by omega⟩

theorem RoundTrip.iadd (k : KReg) (d : VReg) (a : VReg) (b : VReg) : RoundTrip.Statement (.iadd k d a b) := by
  obtain ⟨n, hN⟩ : ∃ n, n = 67108864 + k.val * 8388608 + d.val * 65536 + a.val * 512 + b.val * 4 := ⟨_, rfl⟩
  obtain ⟨hlt, hm, hf0, hf1, hf2, hf3, hc0⟩ := shape0 (m := 1) (c0 := 0) rfl hN (by decide) (by decide) k.isLt d.isLt a.isLt b.isLt
  refine decode_of_raw (hN ▸ rfl) hlt (not_tvcut hm (by decide)) ?_
  rw [raw1 hm]
  delta decodeMajor1
  rw [if_pos hc0]
  simp only [fin_eq hf0, fin_eq hf1, fin_eq hf2, fin_eq hf3]

theorem RoundTrip.isub (k : KReg) (d : VReg) (a : VReg) (b : VReg) : RoundTrip.Statement (.isub k d a b) := by
  obtain ⟨n, hN⟩ : ∃ n, n = 67108865 + k.val * 8388608 + d.val * 65536 + a.val * 512 + b.val * 4 := ⟨_, rfl⟩
  obtain ⟨hlt, hm, hf0, hf1, hf2, hf3, hc0⟩ := shape0 (m := 1) (c0 := 1) rfl hN (by decide) (by decide) k.isLt d.isLt a.isLt b.isLt
  refine decode_of_raw (hN ▸ rfl) hlt (not_tvcut hm (by decide)) ?_
  rw [raw1 hm]
  delta decodeMajor1
  rw [if_neg (other_field hc0 rfl), if_pos hc0]
  simp only [fin_eq hf0, fin_eq hf1, fin_eq hf2, fin_eq hf3]

theorem RoundTrip.imul (k : KReg) (d : VReg) (a : VReg) (b : VReg) : RoundTrip.Statement (.imul k d a b) := by
  obtain ⟨n, hN⟩ : ∃ n, n = 67108866 + k.val * 8388608 + d.val * 65536 + a.val * 512 + b.val * 4 := ⟨_, rfl⟩
  obtain ⟨hlt, hm, hf0, hf1, hf2, hf3, hc0⟩ := shape0 (m := 1) (c0 := 2) rfl hN (by decide) (by decide) k.isLt d.isLt a.isLt b.isLt
  refine decode_of_raw (hN ▸ rfl) hlt (not_tvcut hm (by decide)) ?_
  rw [raw1 hm]
  delta decodeMajor1
  rw [if_neg (other_field hc0 rfl), if_neg (other_field hc0 rfl), if_pos hc0]
  simp only [fin_eq hf0, fin_eq hf1, fin_eq hf2, fin_eq hf3]

theorem RoundTrip.imulhZ (k : KReg) (d : VReg) (a : VReg) (b : VReg) : RoundTrip.Statement (.imulhZ k d a b) := by
  obtain ⟨n, hN⟩ : ∃ n, n = 67108867 + k.val * 8388608 + d.val * 65536 + a.val * 512 + b.val * 4 := ⟨_, rfl⟩
  obtain ⟨hlt, hm, hf0, hf1, hf2, hf3, hc0⟩ := shape0 (m := 1) (c0 := 3) rfl hN (by decide) (by decide) k.isLt d.isLt a.isLt b.isLt
  refine decode_of_raw (hN ▸ rfl) hlt (not_tvcut hm (by decide)) ?_
  rw [raw1 hm]
  delta decodeMajor1
  rw [if_neg (other_field hc0 rfl), if_neg (other_field hc0 rfl), if_neg (other_field hc0 rfl), if_pos hc0]
  simp only [fin_eq hf0, fin_eq hf1, fin_eq hf2, fin_eq hf3]

theorem RoundTrip.iminS (k : KReg) (d : VReg) (a : VReg) (b : VReg) : RoundTrip.Statement (.iminS k d a b) := by
  obtain ⟨n, hN⟩ : ∃ n, n = 201326592 + k.val * 8388608 + d.val * 65536 + a.val * 512 + b.val * 4 := ⟨_, rfl⟩
  obtain ⟨hlt, hm, hf0, hf1, hf2, hf3, hc0⟩ := shape0 (m := 3) (c0 := 0) rfl hN (by decide) (by decide) k.isLt d.isLt a.isLt b.isLt
  refine decode_of_raw (hN ▸ rfl) hlt (not_tvcut hm (by decide)) ?_
  rw [raw3 hm]
  delta decodeMajor3
  rw [if_pos hc0]
  simp only [fin_eq hf0, fin_eq hf1, fin_eq hf2, fin_eq hf3]

theorem RoundTrip.imaxS (k : KReg) (d : VReg) (a : VReg) (b : VReg) : RoundTrip.Statement (.imaxS k d a b) := by
  obtain ⟨n, hN⟩ : ∃ n, n = 201326593 + k.val * 8388608 + d.val * 65536 + a.val * 512 + b.val * 4 := ⟨_, rfl⟩
  obtain ⟨hlt, hm, hf0, hf1, hf2, hf3, hc0⟩ := shape0 (m := 3) (c0 := 1) rfl hN (by decide) (by decide) k.isLt d.isLt a.isLt b.isLt
  refine decode_of_raw (hN ▸ rfl) hlt (not_tvcut hm (by decide)) ?_
  rw [raw3 hm]
  delta decodeMajor3
  rw [if_neg (other_field hc0 rfl), if_pos hc0]
  simp only [fin_eq hf0, fin_eq hf1, fin_eq hf2, fin_eq hf3]

theorem RoundTrip.iminZ (k : KReg) (d : VReg) (a : VReg) (b : VReg) : RoundTrip.Statement (.iminZ k d a b) := by
  obtain ⟨n, hN⟩ : ∃ n, n = 201326594 + k.val * 8388608 + d.val * 65536 + a.val * 512 + b.val * 4 := ⟨_, rfl⟩
  obtain ⟨hlt, hm, hf0, hf1, hf2, hf3, hc0⟩ := shape0 (m := 3) (c0 := 2) rfl hN (by decide) (by decide) k.isLt d.isLt a.isLt b.isLt
  refine decode_of_raw (hN ▸ rfl) hlt (not_tvcut hm (by decide)) ?_
  rw [raw3 hm]
  delta decodeMajor3
  rw [if_neg (other_field hc0 rfl), if_neg (other_field hc0 rfl), if_pos hc0]
  simp only [fin_eq hf0, fin_eq hf1, fin_eq hf2, fin_eq hf3]

theorem RoundTrip.imaxZ (k : KReg) (d : VReg) (a : VReg) (b : VReg) : RoundTrip.Statement (.imaxZ k d a b) := by
  obtain ⟨n, hN⟩ : ∃ n, n = 201326595 + k.val * 8388608 + d.val * 65536 + a.val * 512 + b.val * 4 := ⟨_, rfl⟩
  obtain ⟨hlt, hm, hf0, hf1, hf2, hf3, hc0⟩ := shape0 (m := 3) (c0 := 3) rfl hN (by decide) (by decide) k.isLt d.isLt a.isLt b.isLt
  refine decode_of_raw (hN ▸ rfl) hlt (not_tvcut hm (by decide)) ?_
  rw [raw3 hm]
  delta decodeMajor3
  rw [if_neg (other_field hc0 rfl), if_neg (other_field hc0 rfl), if_neg (other_field hc0 rfl), if_pos hc0]
  simp only [fin_eq hf0, fin_eq hf1, fin_eq hf2, fin_eq hf3]

theorem RoundTrip.and (k : KReg) (d : VReg) (a : VReg) (b : VReg) : RoundTrip.Statement (.and k d a b) := by
  obtain ⟨n, hN⟩ : ∃ n, n = 268435456 + k.val * 8388608 + d.val * 65536 + a.val * 512 + b.val * 4 := ⟨_, rfl⟩
  obtain ⟨hlt, hm, hf0, hf1, hf2, hf3, hc0⟩ := shape0 (m := 4) (c0 := 0) rfl hN (by decide) (by decide) k.isLt d.isLt a.isLt b.isLt
  refine decode_of_raw (hN ▸ rfl) hlt (not_tvcut hm (by decide)) ?_
  rw [raw4 hm]
  delta decodeMajor4
  rw [if_pos hc0]
  simp only [fin_eq hf0, fin_eq hf1, fin_eq hf2, fin_eq hf3]

theorem RoundTrip.or (k : KReg) (d : VReg) (a : VReg) (b : VReg) : RoundTrip.Statement (.or k d a b) := by
  obtain ⟨n, hN⟩ : ∃ n, n = 268435457 + k.val * 8388608 + d.val * 65536 + a.val * 512 + b.val * 4 := ⟨_, rfl⟩
  obtain ⟨hlt, hm, hf0, hf1, hf2, hf3, hc0⟩ := shape0 (m := 4) (c0 := 1) rfl hN (by decide) (by decide) k.isLt d.isLt a.isLt b.isLt
  refine decode_of_raw (hN ▸ rfl) hlt (not_tvcut hm (by decide)) ?_
  rw [raw4 hm]
  delta decodeMajor4
  rw [if_neg (other_field hc0 rfl), if_pos hc0]
  simp only [fin_eq hf0, fin_eq hf1, fin_eq hf2, fin_eq hf3]

theorem RoundTrip.xor (k : KReg) (d : VReg) (a : VReg) (b : VReg) : RoundTrip.Statement (.xor k d a b) := by
  obtain ⟨n, hN⟩ : ∃ n, n = 268435458 + k.val * 8388608 + d.val * 65536 + a.val * 512 + b.val * 4 := ⟨_, rfl⟩
  obtain ⟨hlt, hm, hf0, hf1, hf2, hf3, hc0⟩ := shape0 (m := 4) (c0 := 2) rfl hN (by decide) (by decide) k.isLt d.isLt a.isLt b.isLt
  refine decode_of_raw (hN ▸ rfl) hlt (not_tvcut hm (by decide)) ?_
  rw [raw4 hm]
  delta decodeMajor4
  rw [if_neg (other_field hc0 rfl), if_neg (other_field hc0 rfl), if_pos hc0]
  simp only [fin_eq hf0, fin_eq hf1, fin_eq hf2, fin_eq hf3]

theorem RoundTrip.andn (k : KReg) (d : VReg) (a : VReg) (b : VReg) : RoundTrip.Statement (.andn k d a b) := by
  obtain ⟨n, hN⟩ : ∃ n, n = 268435459 + k.val * 8388608 + d.val * 65536 + a.val * 512 + b.val * 4 := ⟨_, rfl⟩
  obtain ⟨hlt, hm, hf0, hf1, hf2, hf3, hc0⟩ := shape0 (m := 4) (c0 := 3) rfl hN (by decide) (by decide) k.isLt d.isLt a.isLt b.isLt
  refine decode_of_raw (hN ▸ rfl) hlt (not_tvcut hm (by decide)) ?_
  rw [raw4 hm]
  delta decodeMajor4
  rw [if_neg (other_field hc0 rfl), if_neg (other_field hc0 rfl), if_neg (other_field hc0 rfl), if_pos hc0]
  simp only [fin_eq hf0, fin_eq hf1, fin_eq hf2, fin_eq hf3]

theorem RoundTrip.shl (k : KReg) (d : VReg) (a : VReg) (b : VReg) : RoundTrip.Statement (.shl k d a b) := by
  obtain ⟨n, hN⟩ : ∃ n, n = 335544320 + k.val * 8388608 + d.val * 65536 + a.val * 512 + b.val * 4 := ⟨_, rfl⟩
  obtain ⟨hlt, hm, hf0, hf1, hf2, hf3, hc0⟩ := shape0 (m := 5) (c0 := 0) rfl hN (by decide) (by decide) k.isLt d.isLt a.isLt b.isLt
  refine decode_of_raw (hN ▸ rfl) hlt (not_tvcut hm (by decide)) ?_
  rw [raw5 hm]
  delta decodeMajor5
  rw [if_pos hc0]
  simp only [fin_eq hf0, fin_eq hf1, fin_eq hf2, fin_eq hf3]

theorem RoundTrip.shr (k : KReg) (d : VReg) (a : VReg) (b : VReg) : RoundTrip.Statement (.shr k d a b) := by
  obtain ⟨n, hN⟩ : ∃ n, n = 335544321 + k.val * 8388608 + d.val * 65536 + a.val * 512 + b.val * 4 := ⟨_, rfl⟩
  obtain ⟨hlt, hm, hf0, hf1, hf2, hf3, hc0⟩ := shape0 (m := 5) (c0 := 1) rfl hN (by decide) (by decide) k.isLt d.isLt a.isLt b.isLt
  refine decode_of_raw (hN ▸ rfl) hlt (not_tvcut hm (by decide)) ?_
  rw [raw5 hm]
  delta decodeMajor5
  rw [if_neg (other_field hc0 rfl), if_pos hc0]
  simp only [fin_eq hf0, fin_eq hf1, fin_eq hf2, fin_eq hf3]

theorem RoundTrip.sar (k : KReg) (d : VReg) (a : VReg) (b : VReg) : RoundTrip.Statement (.sar k d a b) := by
  obtain ⟨n, hN⟩ : ∃ n, n = 335544322 + k.val * 8388608 + d.val * 65536 + a.val * 512 + b.val * 4 := ⟨_, rfl⟩
  obtain ⟨hlt, hm, hf0, hf1, hf2, hf3, hc0⟩ := shape0 (m := 5) (c0 := 2) rfl hN (by decide) (by decide) k.isLt d.isLt a.isLt b.isLt
  refine decode_of_raw (hN ▸ rfl) hlt (not_tvcut hm (by decide)) ?_
  rw [raw5 hm]
  delta decodeMajor5
  rw [if_neg (other_field hc0 rfl), if_neg (other_field hc0 rfl), if_pos hc0]
  simp only [fin_eq hf0, fin_eq hf1, fin_eq hf2, fin_eq hf3]

theorem RoundTrip.rotl (k : KReg) (d : VReg) (a : VReg) (b : VReg) : RoundTrip.Statement (.rotl k d a b) := by
  obtain ⟨n, hN⟩ : ∃ n, n = 335544323 + k.val * 8388608 + d.val * 65536 + a.val * 512 + b.val * 4 := ⟨_, rfl⟩
  obtain ⟨hlt, hm, hf0, hf1, hf2, hf3, hc0⟩ := shape0 (m := 5) (c0 := 3) rfl hN (by decide) (by decide) k.isLt d.isLt a.isLt b.isLt
  refine decode_of_raw (hN ▸ rfl) hlt (not_tvcut hm (by decide)) ?_
  rw [raw5 hm]
  delta decodeMajor5
  rw [if_neg (other_field hc0 rfl), if_neg (other_field hc0 rfl), if_neg (other_field hc0 rfl), if_pos hc0]
  simp only [fin_eq hf0, fin_eq hf1, fin_eq hf2, fin_eq hf3]

theorem RoundTrip.popc (k : KReg) (d : VReg) (a : VReg) : RoundTrip.Statement (.popc k d a) := by
  obtain ⟨n, hN⟩ : ∃ n, n = 402653184 + k.val * 8388608 + d.val * 65536 + a.val * 512 := ⟨_, rfl⟩
  obtain ⟨hlt, hm, hf0, hf1, hf2, hc0⟩ := shape1 (m := 6) (c0 := 0) rfl hN (by decide) (by decide) k.isLt d.isLt a.isLt
  refine decode_of_raw (hN ▸ rfl) hlt (not_tvcut hm (by decide)) ?_
  rw [raw6 hm]
  delta decodeMajor6
  rw [if_pos hc0]
  simp only [fin_eq hf0, fin_eq hf1, fin_eq hf2]

theorem RoundTrip.clz (k : KReg) (d : VReg) (a : VReg) : RoundTrip.Statement (.clz k d a) := by
  obtain ⟨n, hN⟩ : ∃ n, n = 402653185 + k.val * 8388608 + d.val * 65536 + a.val * 512 := ⟨_, rfl⟩
  obtain ⟨hlt, hm, hf0, hf1, hf2, hc0⟩ := shape1 (m := 6) (c0 := 1) rfl hN (by decide) (by decide) k.isLt d.isLt a.isLt
  refine decode_of_raw (hN ▸ rfl) hlt (not_tvcut hm (by decide)) ?_
  rw [raw6 hm]
  delta decodeMajor6
  rw [if_neg (other_field hc0 rfl), if_pos hc0]
  simp only [fin_eq hf0, fin_eq hf1, fin_eq hf2]

theorem RoundTrip.ctz (k : KReg) (d : VReg) (a : VReg) : RoundTrip.Statement (.ctz k d a) := by
  obtain ⟨n, hN⟩ : ∃ n, n = 402653186 + k.val * 8388608 + d.val * 65536 + a.val * 512 := ⟨_, rfl⟩
  obtain ⟨hlt, hm, hf0, hf1, hf2, hc0⟩ := shape1 (m := 6) (c0 := 2) rfl hN (by decide) (by decide) k.isLt d.isLt a.isLt
  refine decode_of_raw (hN ▸ rfl) hlt (not_tvcut hm (by decide)) ?_
  rw [raw6 hm]
  delta decodeMajor6
  rw [if_neg (other_field hc0 rfl), if_neg (other_field hc0 rfl), if_pos hc0]
  simp only [fin_eq hf0, fin_eq hf1, fin_eq hf2]

theorem RoundTrip.brev (k : KReg) (d : VReg) (a : VReg) : RoundTrip.Statement (.brev k d a) := by
  obtain ⟨n, hN⟩ : ∃ n, n = 402653187 + k.val * 8388608 + d.val * 65536 + a.val * 512 := ⟨_, rfl⟩
  obtain ⟨hlt, hm, hf0, hf1, hf2, hc0⟩ := shape1 (m := 6) (c0 := 3) rfl hN (by decide) (by decide) k.isLt d.isLt a.isLt
  refine decode_of_raw (hN ▸ rfl) hlt (not_tvcut hm (by decide)) ?_
  rw [raw6 hm]
  delta decodeMajor6
  rw [if_neg (other_field hc0 rfl), if_neg (other_field hc0 rfl), if_neg (other_field hc0 rfl), if_pos hc0]
  simp only [fin_eq hf0, fin_eq hf1, fin_eq hf2]

theorem RoundTrip.bfeZ (k : KReg) (d : VReg) (a : VReg) (b : VReg) : RoundTrip.Statement (.bfeZ k d a b) := by
  obtain ⟨n, hN⟩ : ∃ n, n = 469762048 + k.val * 8388608 + d.val * 65536 + a.val * 512 + b.val * 4 := ⟨_, rfl⟩
  obtain ⟨hlt, hm, hf0, hf1, hf2, hf3, hc0⟩ := shape0 (m := 7) (c0 := 0) rfl hN (by decide) (by decide) k.isLt d.isLt a.isLt b.isLt
  refine decode_of_raw (hN ▸ rfl) hlt (not_tvcut hm (by decide)) ?_
  rw [raw7 hm]
  delta decodeMajor7
  rw [if_pos hc0]
  simp only [fin_eq hf0, fin_eq hf1, fin_eq hf2, fin_eq hf3]

theorem RoundTrip.bfeS (k : KReg) (d : VReg) (a : VReg) (b : VReg) : RoundTrip.Statement (.bfeS k d a b) := by
  obtain ⟨n, hN⟩ : ∃ n, n = 469762049 + k.val * 8388608 + d.val * 65536 + a.val * 512 + b.val * 4 := ⟨_, rfl⟩
  obtain ⟨hlt, hm, hf0, hf1, hf2, hf3, hc0⟩ := shape0 (m := 7) (c0 := 1) rfl hN (by decide) (by decide) k.isLt d.isLt a.isLt b.isLt
  refine decode_of_raw (hN ▸ rfl) hlt (not_tvcut hm (by decide)) ?_
  rw [raw7 hm]
  delta decodeMajor7
  rw [if_neg (other_field hc0 rfl), if_pos hc0]
  simp only [fin_eq hf0, fin_eq hf1, fin_eq hf2, fin_eq hf3]

theorem RoundTrip.bfi (k : KReg) (d : VReg) (a : VReg) (b : VReg) : RoundTrip.Statement (.bfi k d a b) := by
  obtain ⟨n, hN⟩ : ∃ n, n = 469762050 + k.val * 8388608 + d.val * 65536 + a.val * 512 + b.val * 4 := ⟨_, rfl⟩
  obtain ⟨hlt, hm, hf0, hf1, hf2, hf3, hc0⟩ := shape0 (m := 7) (c0 := 2) rfl hN (by decide) (by decide) k.isLt d.isLt a.isLt b.isLt
  refine decode_of_raw (hN ▸ rfl) hlt (not_tvcut hm (by decide)) ?_
  rw [raw7 hm]
  delta decodeMajor7
  rw [if_neg (other_field hc0 rfl), if_neg (other_field hc0 rfl), if_pos hc0]
  simp only [fin_eq hf0, fin_eq hf1, fin_eq hf2, fin_eq hf3]

theorem RoundTrip.perm (k : KReg) (d : VReg) (a : VReg) (b : VReg) : RoundTrip.Statement (.perm k d a b) := by
  obtain ⟨n, hN⟩ : ∃ n, n = 469762051 + k.val * 8388608 + d.val * 65536 + a.val * 512 + b.val * 4 := ⟨_, rfl⟩
  obtain ⟨hlt, hm, hf0, hf1, hf2, hf3, hc0⟩ := shape0 (m := 7) (c0 := 3) rfl hN (by decide) (by decide) k.isLt d.isLt a.isLt b.isLt
  refine decode_of_raw (hN ▸ rfl) hlt (not_tvcut hm (by decide)) ?_
  rw [raw7 hm]
  delta decodeMajor7
  rw [if_neg (other_field hc0 rfl), if_neg (other_field hc0 rfl), if_neg (other_field hc0 rfl), if_pos hc0]
  simp only [fin_eq hf0, fin_eq hf1, fin_eq hf2, fin_eq hf3]

theorem RoundTrip.icmp (k : KReg) (c : ICond) (e : KReg) (a : VReg) (b : VReg) (t : IType) : RoundTrip.Statement (.icmp k c e a b t) := by
  obtain ⟨n, hN⟩ : ∃ n, n = 536870912 + k.val * 8388608 + c.code * 524288 + e.val * 65536 + a.val * 512 + b.val * 4 + t.code := ⟨_, rfl⟩
  obtain ⟨hlt, hm, hf0, hf1, hf2, hf3, hf4, hf5⟩ := shape2 (m := 8) rfl hN (by decide) k.isLt (ICond_code_lt c) e.isLt a.isLt b.isLt (IType_code_lt t)
  refine decode_of_raw (hN ▸ rfl) hlt (not_tvcut hm (by decide)) ?_
  rw [raw8 hm]
  delta decodeMajor8
  simp only [fin_eq hf0, hf1, ICond_code_of, Option.bind_some, fin_eq hf2, fin_eq hf3, fin_eq hf4, hf5, IType_code_of]

theorem RoundTrip.iadd64 (k : KReg) (d : VReg) (a : VReg) (b : VReg) : RoundTrip.Statement (.iadd64 k d a b) := by
  obtain ⟨n, hN⟩ : ∃ n, n = 603979776 + k.val * 8388608 + d.val * 65536 + a.val * 512 + b.val * 4 := ⟨_, rfl⟩
  obtain ⟨hlt, hm, hf0, hf1, hf2, hf3, hc0⟩ := shape0 (m := 9) (c0 := 0) rfl hN (by decide) (by decide) k.isLt d.isLt a.isLt b.isLt
  refine decode_of_raw (hN ▸ rfl) hlt (not_tvcut hm (by decide)) ?_
  rw [raw9 hm]
  delta decodeMajor9
  rw [if_pos hc0]
  simp only [fin_eq hf0, fin_eq hf1, fin_eq hf2, fin_eq hf3]

theorem RoundTrip.isub64 (k : KReg) (d : VReg) (a : VReg) (b : VReg) : RoundTrip.Statement (.isub64 k d a b) := by
  obtain ⟨n, hN⟩ : ∃ n, n = 603979777 + k.val * 8388608 + d.val * 65536 + a.val * 512 + b.val * 4 := ⟨_, rfl⟩
  obtain ⟨hlt, hm, hf0, hf1, hf2, hf3, hc0⟩ := shape0 (m := 9) (c0 := 1) rfl hN (by decide) (by decide) k.isLt d.isLt a.isLt b.isLt
  refine decode_of_raw (hN ▸ rfl) hlt (not_tvcut hm (by decide)) ?_
  rw [raw9 hm]
  delta decodeMajor9
  rw [if_neg (other_field hc0 rfl), if_pos hc0]
  simp only [fin_eq hf0, fin_eq hf1, fin_eq hf2, fin_eq hf3]

theorem RoundTrip.shl64 (k : KReg) (d : VReg) (a : VReg) (b : VReg) : RoundTrip.Statement (.shl64 k d a b) := by
  obtain ⟨n, hN⟩ : ∃ n, n = 603979778 + k.val * 8388608 + d.val * 65536 + a.val * 512 + b.val * 4 := ⟨_, rfl⟩
  obtain ⟨hlt, hm, hf0, hf1, hf2, hf3, hc0⟩ := shape0 (m := 9) (c0 := 2) rfl hN (by decide) (by decide) k.isLt d.isLt a.isLt b.isLt
  refine decode_of_raw (hN ▸ rfl) hlt (not_tvcut hm (by decide)) ?_
  rw [raw9 hm]
  delta decodeMajor9
  rw [if_neg (other_field hc0 rfl), if_neg (other_field hc0 rfl), if_pos hc0]
  simp only [fin_eq hf0, fin_eq hf1, fin_eq hf2, fin_eq hf3]

theorem RoundTrip.shr64 (k : KReg) (d : VReg) (a : VReg) (b : VReg) : RoundTrip.Statement (.shr64 k d a b) := by
  obtain ⟨n, hN⟩ : ∃ n, n = 603979779 + k.val * 8388608 + d.val * 65536 + a.val * 512 + b.val * 4 := ⟨_, rfl⟩
  obtain ⟨hlt, hm, hf0, hf1, hf2, hf3, hc0⟩ := shape0 (m := 9) (c0 := 3) rfl hN (by decide) (by decide) k.isLt d.isLt a.isLt b.isLt
  refine decode_of_raw (hN ▸ rfl) hlt (not_tvcut hm (by decide)) ?_
  rw [raw9 hm]
  delta decodeMajor9
  rw [if_neg (other_field hc0 rfl), if_neg (other_field hc0 rfl), if_neg (other_field hc0 rfl), if_pos hc0]
  simp only [fin_eq hf0, fin_eq hf1, fin_eq hf2, fin_eq hf3]

theorem RoundTrip.imadLo (k : KReg) (d : VReg) (a : VReg) (b : VReg) : RoundTrip.Statement (.imadLo k d a b) := by
  obtain ⟨n, hN⟩ : ∃ n, n = 671088640 + k.val * 8388608 + d.val * 65536 + a.val * 512 + b.val * 4 := ⟨_, rfl⟩
  obtain ⟨hlt, hm, hf0, hf1, hf2, hf3, hc0⟩ := shape0 (m := 10) (c0 := 0) rfl hN (by decide) (by decide) k.isLt d.isLt a.isLt b.isLt
  refine decode_of_raw (hN ▸ rfl) hlt (not_tvcut hm (by decide)) ?_
  rw [raw10 hm]
  delta decodeMajor10
  rw [if_pos hc0]
  simp only [fin_eq hf0, fin_eq hf1, fin_eq hf2, fin_eq hf3]

theorem RoundTrip.imadWideZ (k : KReg) (d : VReg) (a : VReg) (b : VReg) : RoundTrip.Statement (.imadWideZ k d a b) := by
  obtain ⟨n, hN⟩ : ∃ n, n = 671088641 + k.val * 8388608 + d.val * 65536 + a.val * 512 + b.val * 4 := ⟨_, rfl⟩
  obtain ⟨hlt, hm, hf0, hf1, hf2, hf3, hc0⟩ := shape0 (m := 10) (c0 := 1) rfl hN (by decide) (by decide) k.isLt d.isLt a.isLt b.isLt
  refine decode_of_raw (hN ▸ rfl) hlt (not_tvcut hm (by decide)) ?_
  rw [raw10 hm]
  delta decodeMajor10
  rw [if_neg (other_field hc0 rfl), if_pos hc0]
  simp only [fin_eq hf0, fin_eq hf1, fin_eq hf2, fin_eq hf3]

theorem RoundTrip.imadWideS (k : KReg) (d : VReg) (a : VReg) (b : VReg) : RoundTrip.Statement (.imadWideS k d a b) := by
  obtain ⟨n, hN⟩ : ∃ n, n = 671088642 + k.val * 8388608 + d.val * 65536 + a.val * 512 + b.val * 4 := ⟨_, rfl⟩
  obtain ⟨hlt, hm, hf0, hf1, hf2, hf3, hc0⟩ := shape0 (m := 10) (c0 := 2) rfl hN (by decide) (by decide) k.isLt d.isLt a.isLt b.isLt
  refine decode_of_raw (hN ▸ rfl) hlt (not_tvcut hm (by decide)) ?_
  rw [raw10 hm]
  delta decodeMajor10
  rw [if_neg (other_field hc0 rfl), if_neg (other_field hc0 rfl), if_pos hc0]
  simp only [fin_eq hf0, fin_eq hf1, fin_eq hf2, fin_eq hf3]

theorem RoundTrip.imulhS (k : KReg) (d : VReg) (a : VReg) (b : VReg) : RoundTrip.Statement (.imulhS k d a b) := by
  obtain ⟨n, hN⟩ : ∃ n, n = 671088643 + k.val * 8388608 + d.val * 65536 + a.val * 512 + b.val * 4 := ⟨_, rfl⟩
  obtain ⟨hlt, hm, hf0, hf1, hf2, hf3, hc0⟩ := shape0 (m := 10) (c0 := 3) rfl hN (by decide) (by decide) k.isLt d.isLt a.isLt b.isLt
  refine decode_of_raw (hN ▸ rfl) hlt (not_tvcut hm (by decide)) ?_
  rw [raw10 hm]
  delta decodeMajor10
  rw [if_neg (other_field hc0 rfl), if_neg (other_field hc0 rfl), if_neg (other_field hc0 rfl), if_pos hc0]
  simp only [fin_eq hf0, fin_eq hf1, fin_eq hf2, fin_eq hf3]

theorem RoundTrip.sel (k : KReg) (d : VReg) (a : VReg) (b : VReg) : RoundTrip.Statement (.sel k d a b) := by
  obtain ⟨n, hN⟩ : ∃ n, n = 738197504 + k.val * 8388608 + d.val * 65536 + a.val * 512 + b.val * 4 := ⟨_, rfl⟩
  obtain ⟨hlt, hm, hf0, hf1, hf2, hf3, hc0⟩ := shape0 (m := 11) (c0 := 0) rfl hN (by decide) (by decide) k.isLt d.isLt a.isLt b.isLt
  refine decode_of_raw (hN ▸ rfl) hlt (not_tvcut hm (by decide)) ?_
  rw [raw11 hm]
  delta decodeMajor11
  rw [if_pos hc0]
  simp only [fin_eq hf0, fin_eq hf1, fin_eq hf2, fin_eq hf3]

theorem RoundTrip.mov (k : KReg) (d : VReg) (a : VReg) : RoundTrip.Statement (.mov k d a) := by
  obtain ⟨n, hN⟩ : ∃ n, n = 738197505 + k.val * 8388608 + d.val * 65536 + a.val * 512 := ⟨_, rfl⟩
  obtain ⟨hlt, hm, hf0, hf1, hf2, hc0⟩ := shape1 (m := 11) (c0 := 1) rfl hN (by decide) (by decide) k.isLt d.isLt a.isLt
  refine decode_of_raw (hN ▸ rfl) hlt (not_tvcut hm (by decide)) ?_
  rw [raw11 hm]
  delta decodeMajor11
  rw [if_neg (by clear hlt hf0 hf1 hf2; have hb0 := k.isLt; have hb1 := d.isLt; have hb2 := a.isLt; simp only [fld_eq]; omega), if_pos hc0]
  simp only [fin_eq hf0, fin_eq hf1, fin_eq hf2]

theorem RoundTrip.laneid (k : KReg) (d : VReg) : RoundTrip.Statement (.laneid k d) := by
  obtain ⟨n, hN⟩ : ∃ n, n = 738197506 + k.val * 8388608 + d.val * 65536 := ⟨_, rfl⟩
  obtain ⟨hlt, hm, hf0, hf1, hc0⟩ := shape3 (m := 11) (c0 := 2) rfl hN (by decide) (by decide) k.isLt d.isLt
  refine decode_of_raw (hN ▸ rfl) hlt (not_tvcut hm (by decide)) ?_
  rw [raw11 hm]
  delta decodeMajor11
  rw [if_neg (by clear hlt hf0 hf1; have hb0 := k.isLt; have hb1 := d.isLt; simp only [fld_eq]; omega), if_neg (by clear hlt hf0 hf1; have hb0 := k.isLt; have hb1 := d.isLt; simp only [fld_eq]; omega), if_pos hc0]
  simp only [fin_eq hf0, fin_eq hf1]

theorem RoundTrip.ialugIadd (k : KReg) (d : VReg) (a : VReg) (g : GReg) : RoundTrip.Statement (.ialugIadd k d a g) := by
  obtain ⟨n, hN⟩ : ∃ n, n = 805306368 + k.val * 8388608 + d.val * 65536 + a.val * 512 + g.val * 8 := ⟨_, rfl⟩
  obtain ⟨hlt, hm, hf0, hf1, hf2, hf3, hc0⟩ := shape4 (m := 12) (c0 := 0) rfl hN (by decide) (by decide) k.isLt d.isLt a.isLt g.isLt
  refine decode_of_raw (hN ▸ rfl) hlt (not_tvcut hm (by decide)) ?_
  rw [raw12 hm]
  delta decodeMajor12
  rw [if_pos hc0]
  simp only [fin_eq hf0, fin_eq hf1, fin_eq hf2, fin_eq hf3]

theorem RoundTrip.ialugIsub (k : KReg) (d : VReg) (a : VReg) (g : GReg) : RoundTrip.Statement (.ialugIsub k d a g) := by
  obtain ⟨n, hN⟩ : ∃ n, n = 805306369 + k.val * 8388608 + d.val * 65536 + a.val * 512 + g.val * 8 := ⟨_, rfl⟩
  obtain ⟨hlt, hm, hf0, hf1, hf2, hf3, hc0⟩ := shape4 (m := 12) (c0 := 1) rfl hN (by decide) (by decide) k.isLt d.isLt a.isLt g.isLt
  refine decode_of_raw (hN ▸ rfl) hlt (not_tvcut hm (by decide)) ?_
  rw [raw12 hm]
  delta decodeMajor12
  rw [if_neg (other_field hc0 rfl), if_pos hc0]
  simp only [fin_eq hf0, fin_eq hf1, fin_eq hf2, fin_eq hf3]

theorem RoundTrip.ialugImul (k : KReg) (d : VReg) (a : VReg) (g : GReg) : RoundTrip.Statement (.ialugImul k d a g) := by
  obtain ⟨n, hN⟩ : ∃ n, n = 805306370 + k.val * 8388608 + d.val * 65536 + a.val * 512 + g.val * 8 := ⟨_, rfl⟩
  obtain ⟨hlt, hm, hf0, hf1, hf2, hf3, hc0⟩ := shape4 (m := 12) (c0 := 2) rfl hN (by decide) (by decide) k.isLt d.isLt a.isLt g.isLt
  refine decode_of_raw (hN ▸ rfl) hlt (not_tvcut hm (by decide)) ?_
  rw [raw12 hm]
  delta decodeMajor12
  rw [if_neg (other_field hc0 rfl), if_neg (other_field hc0 rfl), if_pos hc0]
  simp only [fin_eq hf0, fin_eq hf1, fin_eq hf2, fin_eq hf3]

theorem RoundTrip.ialugAnd (k : KReg) (d : VReg) (a : VReg) (g : GReg) : RoundTrip.Statement (.ialugAnd k d a g) := by
  obtain ⟨n, hN⟩ : ∃ n, n = 805306371 + k.val * 8388608 + d.val * 65536 + a.val * 512 + g.val * 8 := ⟨_, rfl⟩
  obtain ⟨hlt, hm, hf0, hf1, hf2, hf3, hc0⟩ := shape4 (m := 12) (c0 := 3) rfl hN (by decide) (by decide) k.isLt d.isLt a.isLt g.isLt
  refine decode_of_raw (hN ▸ rfl) hlt (not_tvcut hm (by decide)) ?_
  rw [raw12 hm]
  delta decodeMajor12
  rw [if_neg (other_field hc0 rfl), if_neg (other_field hc0 rfl), if_neg (other_field hc0 rfl), if_pos hc0]
  simp only [fin_eq hf0, fin_eq hf1, fin_eq hf2, fin_eq hf3]

theorem RoundTrip.ialugOr (k : KReg) (d : VReg) (a : VReg) (g : GReg) : RoundTrip.Statement (.ialugOr k d a g) := by
  obtain ⟨n, hN⟩ : ∃ n, n = 805306372 + k.val * 8388608 + d.val * 65536 + a.val * 512 + g.val * 8 := ⟨_, rfl⟩
  obtain ⟨hlt, hm, hf0, hf1, hf2, hf3, hc0⟩ := shape4 (m := 12) (c0 := 4) rfl hN (by decide) (by decide) k.isLt d.isLt a.isLt g.isLt
  refine decode_of_raw (hN ▸ rfl) hlt (not_tvcut hm (by decide)) ?_
  rw [raw12 hm]
  delta decodeMajor12
  rw [if_neg (other_field hc0 rfl), if_neg (other_field hc0 rfl), if_neg (other_field hc0 rfl), if_neg (other_field hc0 rfl), if_pos hc0]
  simp only [fin_eq hf0, fin_eq hf1, fin_eq hf2, fin_eq hf3]

theorem RoundTrip.ialugXor (k : KReg) (d : VReg) (a : VReg) (g : GReg) : RoundTrip.Statement (.ialugXor k d a g) := by
  obtain ⟨n, hN⟩ : ∃ n, n = 805306373 + k.val * 8388608 + d.val * 65536 + a.val * 512 + g.val * 8 := ⟨_, rfl⟩
  obtain ⟨hlt, hm, hf0, hf1, hf2, hf3, hc0⟩ := shape4 (m := 12) (c0 := 5) rfl hN (by decide) (by decide) k.isLt d.isLt a.isLt g.isLt
  refine decode_of_raw (hN ▸ rfl) hlt (not_tvcut hm (by decide)) ?_
  rw [raw12 hm]
  delta decodeMajor12
  rw [if_neg (other_field hc0 rfl), if_neg (other_field hc0 rfl), if_neg (other_field hc0 rfl), if_neg (other_field hc0 rfl), if_neg (other_field hc0 rfl), if_pos hc0]
  simp only [fin_eq hf0, fin_eq hf1, fin_eq hf2, fin_eq hf3]

theorem RoundTrip.ialugShl (k : KReg) (d : VReg) (a : VReg) (g : GReg) : RoundTrip.Statement (.ialugShl k d a g) := by
  obtain ⟨n, hN⟩ : ∃ n, n = 805306374 + k.val * 8388608 + d.val * 65536 + a.val * 512 + g.val * 8 := ⟨_, rfl⟩
  obtain ⟨hlt, hm, hf0, hf1, hf2, hf3, hc0⟩ := shape4 (m := 12) (c0 := 6) rfl hN (by decide) (by decide) k.isLt d.isLt a.isLt g.isLt
  refine decode_of_raw (hN ▸ rfl) hlt (not_tvcut hm (by decide)) ?_
  rw [raw12 hm]
  delta decodeMajor12
  rw [if_neg (other_field hc0 rfl), if_neg (other_field hc0 rfl), if_neg (other_field hc0 rfl), if_neg (other_field hc0 rfl), if_neg (other_field hc0 rfl), if_neg (other_field hc0 rfl), if_pos hc0]
  simp only [fin_eq hf0, fin_eq hf1, fin_eq hf2, fin_eq hf3]

theorem RoundTrip.ialugShr (k : KReg) (d : VReg) (a : VReg) (g : GReg) : RoundTrip.Statement (.ialugShr k d a g) := by
  obtain ⟨n, hN⟩ : ∃ n, n = 805306375 + k.val * 8388608 + d.val * 65536 + a.val * 512 + g.val * 8 := ⟨_, rfl⟩
  obtain ⟨hlt, hm, hf0, hf1, hf2, hf3, hc0⟩ := shape4 (m := 12) (c0 := 7) rfl hN (by decide) (by decide) k.isLt d.isLt a.isLt g.isLt
  refine decode_of_raw (hN ▸ rfl) hlt (not_tvcut hm (by decide)) ?_
  rw [raw12 hm]
  delta decodeMajor12
  rw [if_neg (other_field hc0 rfl), if_neg (other_field hc0 rfl), if_neg (other_field hc0 rfl), if_neg (other_field hc0 rfl), if_neg (other_field hc0 rfl), if_neg (other_field hc0 rfl), if_neg (other_field hc0 rfl), if_pos hc0]
  simp only [fin_eq hf0, fin_eq hf1, fin_eq hf2, fin_eq hf3]

theorem RoundTrip.falugFadd (k : KReg) (d : VReg) (a : VReg) (g : GReg) : RoundTrip.Statement (.falugFadd k d a g) := by
  obtain ⟨n, hN⟩ : ∃ n, n = 872415232 + k.val * 8388608 + d.val * 65536 + a.val * 512 + g.val * 8 := ⟨_, rfl⟩
  obtain ⟨hlt, hm, hf0, hf1, hf2, hf3, hc0⟩ := shape4 (m := 13) (c0 := 0) rfl hN (by decide) (by decide) k.isLt d.isLt a.isLt g.isLt
  refine decode_of_raw (hN ▸ rfl) hlt (not_tvcut hm (by decide)) ?_
  rw [raw13 hm]
  delta decodeMajor13
  rw [if_pos hc0]
  simp only [fin_eq hf0, fin_eq hf1, fin_eq hf2, fin_eq hf3]

theorem RoundTrip.falugFsub (k : KReg) (d : VReg) (a : VReg) (g : GReg) : RoundTrip.Statement (.falugFsub k d a g) := by
  obtain ⟨n, hN⟩ : ∃ n, n = 872415233 + k.val * 8388608 + d.val * 65536 + a.val * 512 + g.val * 8 := ⟨_, rfl⟩
  obtain ⟨hlt, hm, hf0, hf1, hf2, hf3, hc0⟩ := shape4 (m := 13) (c0 := 1) rfl hN (by decide) (by decide) k.isLt d.isLt a.isLt g.isLt
  refine decode_of_raw (hN ▸ rfl) hlt (not_tvcut hm (by decide)) ?_
  rw [raw13 hm]
  delta decodeMajor13
  rw [if_neg (other_field hc0 rfl), if_pos hc0]
  simp only [fin_eq hf0, fin_eq hf1, fin_eq hf2, fin_eq hf3]

theorem RoundTrip.falugFmul (k : KReg) (d : VReg) (a : VReg) (g : GReg) : RoundTrip.Statement (.falugFmul k d a g) := by
  obtain ⟨n, hN⟩ : ∃ n, n = 872415234 + k.val * 8388608 + d.val * 65536 + a.val * 512 + g.val * 8 := ⟨_, rfl⟩
  obtain ⟨hlt, hm, hf0, hf1, hf2, hf3, hc0⟩ := shape4 (m := 13) (c0 := 2) rfl hN (by decide) (by decide) k.isLt d.isLt a.isLt g.isLt
  refine decode_of_raw (hN ▸ rfl) hlt (not_tvcut hm (by decide)) ?_
  rw [raw13 hm]
  delta decodeMajor13
  rw [if_neg (other_field hc0 rfl), if_neg (other_field hc0 rfl), if_pos hc0]
  simp only [fin_eq hf0, fin_eq hf1, fin_eq hf2, fin_eq hf3]

theorem RoundTrip.falugFma (k : KReg) (d : VReg) (a : VReg) (g : GReg) : RoundTrip.Statement (.falugFma k d a g) := by
  obtain ⟨n, hN⟩ : ∃ n, n = 872415235 + k.val * 8388608 + d.val * 65536 + a.val * 512 + g.val * 8 := ⟨_, rfl⟩
  obtain ⟨hlt, hm, hf0, hf1, hf2, hf3, hc0⟩ := shape4 (m := 13) (c0 := 3) rfl hN (by decide) (by decide) k.isLt d.isLt a.isLt g.isLt
  refine decode_of_raw (hN ▸ rfl) hlt (not_tvcut hm (by decide)) ?_
  rw [raw13 hm]
  delta decodeMajor13
  rw [if_neg (other_field hc0 rfl), if_neg (other_field hc0 rfl), if_neg (other_field hc0 rfl), if_pos hc0]
  simp only [fin_eq hf0, fin_eq hf1, fin_eq hf2, fin_eq hf3]

theorem RoundTrip.falugFmin (k : KReg) (d : VReg) (a : VReg) (g : GReg) : RoundTrip.Statement (.falugFmin k d a g) := by
  obtain ⟨n, hN⟩ : ∃ n, n = 872415236 + k.val * 8388608 + d.val * 65536 + a.val * 512 + g.val * 8 := ⟨_, rfl⟩
  obtain ⟨hlt, hm, hf0, hf1, hf2, hf3, hc0⟩ := shape4 (m := 13) (c0 := 4) rfl hN (by decide) (by decide) k.isLt d.isLt a.isLt g.isLt
  refine decode_of_raw (hN ▸ rfl) hlt (not_tvcut hm (by decide)) ?_
  rw [raw13 hm]
  delta decodeMajor13
  rw [if_neg (other_field hc0 rfl), if_neg (other_field hc0 rfl), if_neg (other_field hc0 rfl), if_neg (other_field hc0 rfl), if_pos hc0]
  simp only [fin_eq hf0, fin_eq hf1, fin_eq hf2, fin_eq hf3]

theorem RoundTrip.falugFmax (k : KReg) (d : VReg) (a : VReg) (g : GReg) : RoundTrip.Statement (.falugFmax k d a g) := by
  obtain ⟨n, hN⟩ : ∃ n, n = 872415237 + k.val * 8388608 + d.val * 65536 + a.val * 512 + g.val * 8 := ⟨_, rfl⟩
  obtain ⟨hlt, hm, hf0, hf1, hf2, hf3, hc0⟩ := shape4 (m := 13) (c0 := 5) rfl hN (by decide) (by decide) k.isLt d.isLt a.isLt g.isLt
  refine decode_of_raw (hN ▸ rfl) hlt (not_tvcut hm (by decide)) ?_
  rw [raw13 hm]
  delta decodeMajor13
  rw [if_neg (other_field hc0 rfl), if_neg (other_field hc0 rfl), if_neg (other_field hc0 rfl), if_neg (other_field hc0 rfl), if_neg (other_field hc0 rfl), if_pos hc0]
  simp only [fin_eq hf0, fin_eq hf1, fin_eq hf2, fin_eq hf3]

theorem RoundTrip.movg (k : KReg) (d : VReg) (g : GReg) : RoundTrip.Statement (.movg k d g) := by
  obtain ⟨n, hN⟩ : ∃ n, n = 872415238 + k.val * 8388608 + d.val * 65536 + g.val * 8 := ⟨_, rfl⟩
  obtain ⟨hlt, hm, hf0, hf1, hf2, hc0, hc1⟩ := shape5 (m := 13) (c0 := 6) (c1 := 0) rfl hN (by decide) (by decide) (by decide) k.isLt d.isLt g.isLt
  refine decode_of_raw (hN ▸ rfl) hlt (not_tvcut hm (by decide)) ?_
  rw [raw13 hm]
  delta decodeMajor13
  rw [if_neg (other_field hc0 rfl), if_neg (other_field hc0 rfl), if_neg (other_field hc0 rfl), if_neg (other_field hc0 rfl), if_neg (other_field hc0 rfl), if_neg (other_field hc0 rfl), if_pos ⟨hc0, hc1⟩]
  simp only [fin_eq hf0, fin_eq hf1, fin_eq hf2]

theorem RoundTrip.fadd (k : KReg) (d : VReg) (a : VReg) (b : VReg) (t : FType) : RoundTrip.Statement (.fadd k d a b t) := by
  obtain ⟨n, hN⟩ : ∃ n, n = 939524096 + k.val * 8388608 + d.val * 65536 + a.val * 512 + b.val * 4 + t.code := ⟨_, rfl⟩
  obtain ⟨hlt, hm, hf0, hf1, hf2, hf3, hf4⟩ := shape6 (m := 14) rfl hN (by decide) k.isLt d.isLt a.isLt b.isLt (FType_code_lt t)
  refine decode_of_raw (hN ▸ rfl) hlt (not_tvcut hm (by decide)) ?_
  rw [raw14 hm]
  delta decodeMajor14
  simp only [fin_eq hf0, fin_eq hf1, fin_eq hf2, fin_eq hf3, hf4, FType_code_of, Option.bind_some]

theorem RoundTrip.fsub (k : KReg) (d : VReg) (a : VReg) (b : VReg) (t : FType) : RoundTrip.Statement (.fsub k d a b t) := by
  obtain ⟨n, hN⟩ : ∃ n, n = 1006632960 + k.val * 8388608 + d.val * 65536 + a.val * 512 + b.val * 4 + t.code := ⟨_, rfl⟩
  obtain ⟨hlt, hm, hf0, hf1, hf2, hf3, hf4⟩ := shape6 (m := 15) rfl hN (by decide) k.isLt d.isLt a.isLt b.isLt (FType_code_lt t)
  refine decode_of_raw (hN ▸ rfl) hlt (not_tvcut hm (by decide)) ?_
  rw [raw15 hm]
  delta decodeMajor15
  simp only [fin_eq hf0, fin_eq hf1, fin_eq hf2, fin_eq hf3, hf4, FType_code_of, Option.bind_some]

theorem RoundTrip.fmul (k : KReg) (d : VReg) (a : VReg) (b : VReg) (t : FType) : RoundTrip.Statement (.fmul k d a b t) := by
  obtain ⟨n, hN⟩ : ∃ n, n = 1073741824 + k.val * 8388608 + d.val * 65536 + a.val * 512 + b.val * 4 + t.code := ⟨_, rfl⟩
  obtain ⟨hlt, hm, hf0, hf1, hf2, hf3, hf4⟩ := shape6 (m := 16) rfl hN (by decide) k.isLt d.isLt a.isLt b.isLt (FType_code_lt t)
  refine decode_of_raw (hN ▸ rfl) hlt (not_tvcut hm (by decide)) ?_
  rw [raw16 hm]
  delta decodeMajor16
  simp only [fin_eq hf0, fin_eq hf1, fin_eq hf2, fin_eq hf3, hf4, FType_code_of, Option.bind_some]

theorem RoundTrip.fma (k : KReg) (d : VReg) (a : VReg) (b : VReg) (t : FType) : RoundTrip.Statement (.fma k d a b t) := by
  obtain ⟨n, hN⟩ : ∃ n, n = 1140850688 + k.val * 8388608 + d.val * 65536 + a.val * 512 + b.val * 4 + t.code := ⟨_, rfl⟩
  obtain ⟨hlt, hm, hf0, hf1, hf2, hf3, hf4⟩ := shape6 (m := 17) rfl hN (by decide) k.isLt d.isLt a.isLt b.isLt (FType_code_lt t)
  refine decode_of_raw (hN ▸ rfl) hlt (not_tvcut hm (by decide)) ?_
  rw [raw17 hm]
  delta decodeMajor17
  simp only [fin_eq hf0, fin_eq hf1, fin_eq hf2, fin_eq hf3, hf4, FType_code_of, Option.bind_some]

theorem RoundTrip.fmin (k : KReg) (d : VReg) (a : VReg) (b : VReg) (t : FType) : RoundTrip.Statement (.fmin k d a b t) := by
  obtain ⟨n, hN⟩ : ∃ n, n = 1207959552 + k.val * 8388608 + d.val * 65536 + a.val * 512 + b.val * 4 + t.code := ⟨_, rfl⟩
  obtain ⟨hlt, hm, hf0, hf1, hf2, hf3, hf4⟩ := shape6 (m := 18) rfl hN (by decide) k.isLt d.isLt a.isLt b.isLt (FType_code_lt t)
  refine decode_of_raw (hN ▸ rfl) hlt (not_tvcut hm (by decide)) ?_
  rw [raw18 hm]
  delta decodeMajor18
  simp only [fin_eq hf0, fin_eq hf1, fin_eq hf2, fin_eq hf3, hf4, FType_code_of, Option.bind_some]

theorem RoundTrip.fmax (k : KReg) (d : VReg) (a : VReg) (b : VReg) (t : FType) : RoundTrip.Statement (.fmax k d a b t) := by
  obtain ⟨n, hN⟩ : ∃ n, n = 1275068416 + k.val * 8388608 + d.val * 65536 + a.val * 512 + b.val * 4 + t.code := ⟨_, rfl⟩
  obtain ⟨hlt, hm, hf0, hf1, hf2, hf3, hf4⟩ := shape6 (m := 19) rfl hN (by decide) k.isLt d.isLt a.isLt b.isLt (FType_code_lt t)
  refine decode_of_raw (hN ▸ rfl) hlt (not_tvcut hm (by decide)) ?_
  rw [raw19 hm]
  delta decodeMajor19
  simp only [fin_eq hf0, fin_eq hf1, fin_eq hf2, fin_eq hf3, hf4, FType_code_of, Option.bind_some]

theorem RoundTrip.fcmp (k : KReg) (c : FCond) (e : KReg) (a : VReg) (b : VReg) (t : FType) : RoundTrip.Statement (.fcmp k c e a b t) := by
  obtain ⟨n, hN⟩ : ∃ n, n = 1342177280 + k.val * 8388608 + c.code * 524288 + e.val * 65536 + a.val * 512 + b.val * 4 + t.code := ⟨_, rfl⟩
  obtain ⟨hlt, hm, hf0, hf1, hf2, hf3, hf4, hf5⟩ := shape2 (m := 20) rfl hN (by decide) k.isLt (FCond_code_lt c) e.isLt a.isLt b.isLt (FType_code_lt t)
  refine decode_of_raw (hN ▸ rfl) hlt (not_tvcut hm (by decide)) ?_
  rw [raw20 hm]
  delta decodeMajor20
  simp only [fin_eq hf0, hf1, FCond_code_of, Option.bind_some, fin_eq hf2, fin_eq hf3, fin_eq hf4, hf5, FType_code_of]

theorem RoundTrip.cvt (k : KReg) (d : VReg) (a : VReg) (c : Fin 128) (m : RMode) : RoundTrip.Statement (.cvt k d a c m) := by
  obtain ⟨n, hN⟩ : ∃ n, n = 1409286144 + k.val * 8388608 + d.val * 65536 + a.val * 512 + c.val * 4 + m.code := ⟨_, rfl⟩
  obtain ⟨hlt, hm, hf0, hf1, hf2, hf3, hf4⟩ := shape6 (m := 21) rfl hN (by decide) k.isLt d.isLt a.isLt c.isLt (RMode_code_lt m)
  refine decode_of_raw (hN ▸ rfl) hlt (not_tvcut hm (by decide)) ?_
  rw [raw21 hm]
  delta decodeMajor21
  simp only [fin_eq hf0, fin_eq hf1, fin_eq hf2, fin_eq hf3, hf4, RMode_code_of, Option.bind_some]

theorem RoundTrip.xfnRcp (k : KReg) (d : VReg) (a : VReg) (l : La) : RoundTrip.Statement (.xfnRcp k d a l) := by
  obtain ⟨n, hN⟩ : ∃ n, n = 1476395008 + k.val * 8388608 + d.val * 65536 + a.val * 512 + l.val := ⟨_, rfl⟩
  obtain ⟨hlt, hm, hf0, hf1, hf2, hf3, hc0⟩ := shape7 (m := 22) (c0 := 0) rfl hN (by decide) (by decide) k.isLt d.isLt a.isLt l.isLt
  refine decode_of_raw (hN ▸ rfl) hlt (not_tvcut hm (by decide)) ?_
  rw [raw22 hm]
  delta decodeMajor22
  rw [if_pos hc0]
  simp only [fin_eq hf0, fin_eq hf1, fin_eq hf2, fin_eq hf3]

theorem RoundTrip.xfnRsq (k : KReg) (d : VReg) (a : VReg) (l : La) : RoundTrip.Statement (.xfnRsq k d a l) := by
  obtain ⟨n, hN⟩ : ∃ n, n = 1476395024 + k.val * 8388608 + d.val * 65536 + a.val * 512 + l.val := ⟨_, rfl⟩
  obtain ⟨hlt, hm, hf0, hf1, hf2, hf3, hc0⟩ := shape7 (m := 22) (c0 := 1) rfl hN (by decide) (by decide) k.isLt d.isLt a.isLt l.isLt
  refine decode_of_raw (hN ▸ rfl) hlt (not_tvcut hm (by decide)) ?_
  rw [raw22 hm]
  delta decodeMajor22
  rw [if_neg (other_field hc0 rfl), if_pos hc0]
  simp only [fin_eq hf0, fin_eq hf1, fin_eq hf2, fin_eq hf3]

theorem RoundTrip.xfnSqrt (k : KReg) (d : VReg) (a : VReg) (l : La) : RoundTrip.Statement (.xfnSqrt k d a l) := by
  obtain ⟨n, hN⟩ : ∃ n, n = 1476395040 + k.val * 8388608 + d.val * 65536 + a.val * 512 + l.val := ⟨_, rfl⟩
  obtain ⟨hlt, hm, hf0, hf1, hf2, hf3, hc0⟩ := shape7 (m := 22) (c0 := 2) rfl hN (by decide) (by decide) k.isLt d.isLt a.isLt l.isLt
  refine decode_of_raw (hN ▸ rfl) hlt (not_tvcut hm (by decide)) ?_
  rw [raw22 hm]
  delta decodeMajor22
  rw [if_neg (other_field hc0 rfl), if_neg (other_field hc0 rfl), if_pos hc0]
  simp only [fin_eq hf0, fin_eq hf1, fin_eq hf2, fin_eq hf3]

theorem RoundTrip.xfnExp2 (k : KReg) (d : VReg) (a : VReg) (l : La) : RoundTrip.Statement (.xfnExp2 k d a l) := by
  obtain ⟨n, hN⟩ : ∃ n, n = 1476395056 + k.val * 8388608 + d.val * 65536 + a.val * 512 + l.val := ⟨_, rfl⟩
  obtain ⟨hlt, hm, hf0, hf1, hf2, hf3, hc0⟩ := shape7 (m := 22) (c0 := 3) rfl hN (by decide) (by decide) k.isLt d.isLt a.isLt l.isLt
  refine decode_of_raw (hN ▸ rfl) hlt (not_tvcut hm (by decide)) ?_
  rw [raw22 hm]
  delta decodeMajor22
  rw [if_neg (other_field hc0 rfl), if_neg (other_field hc0 rfl), if_neg (other_field hc0 rfl), if_pos hc0]
  simp only [fin_eq hf0, fin_eq hf1, fin_eq hf2, fin_eq hf3]

theorem RoundTrip.xfnLog2 (k : KReg) (d : VReg) (a : VReg) (l : La) : RoundTrip.Statement (.xfnLog2 k d a l) := by
  obtain ⟨n, hN⟩ : ∃ n, n = 1476395072 + k.val * 8388608 + d.val * 65536 + a.val * 512 + l.val := ⟨_, rfl⟩
  obtain ⟨hlt, hm, hf0, hf1, hf2, hf3, hc0⟩ := shape7 (m := 22) (c0 := 4) rfl hN (by decide) (by decide) k.isLt d.isLt a.isLt l.isLt
  refine decode_of_raw (hN ▸ rfl) hlt (not_tvcut hm (by decide)) ?_
  rw [raw22 hm]
  delta decodeMajor22
  rw [if_neg (other_field hc0 rfl), if_neg (other_field hc0 rfl), if_neg (other_field hc0 rfl), if_neg (other_field hc0 rfl), if_pos hc0]
  simp only [fin_eq hf0, fin_eq hf1, fin_eq hf2, fin_eq hf3]

theorem RoundTrip.xfnSin (k : KReg) (d : VReg) (a : VReg) (l : La) : RoundTrip.Statement (.xfnSin k d a l) := by
  obtain ⟨n, hN⟩ : ∃ n, n = 1476395088 + k.val * 8388608 + d.val * 65536 + a.val * 512 + l.val := ⟨_, rfl⟩
  obtain ⟨hlt, hm, hf0, hf1, hf2, hf3, hc0⟩ := shape7 (m := 22) (c0 := 5) rfl hN (by decide) (by decide) k.isLt d.isLt a.isLt l.isLt
  refine decode_of_raw (hN ▸ rfl) hlt (not_tvcut hm (by decide)) ?_
  rw [raw22 hm]
  delta decodeMajor22
  rw [if_neg (other_field hc0 rfl), if_neg (other_field hc0 rfl), if_neg (other_field hc0 rfl), if_neg (other_field hc0 rfl), if_neg (other_field hc0 rfl), if_pos hc0]
  simp only [fin_eq hf0, fin_eq hf1, fin_eq hf2, fin_eq hf3]

theorem RoundTrip.xfnCos (k : KReg) (d : VReg) (a : VReg) (l : La) : RoundTrip.Statement (.xfnCos k d a l) := by
  obtain ⟨n, hN⟩ : ∃ n, n = 1476395104 + k.val * 8388608 + d.val * 65536 + a.val * 512 + l.val := ⟨_, rfl⟩
  obtain ⟨hlt, hm, hf0, hf1, hf2, hf3, hc0⟩ := shape7 (m := 22) (c0 := 6) rfl hN (by decide) (by decide) k.isLt d.isLt a.isLt l.isLt
  refine decode_of_raw (hN ▸ rfl) hlt (not_tvcut hm (by decide)) ?_
  rw [raw22 hm]
  delta decodeMajor22
  rw [if_neg (other_field hc0 rfl), if_neg (other_field hc0 rfl), if_neg (other_field hc0 rfl), if_neg (other_field hc0 rfl), if_neg (other_field hc0 rfl), if_neg (other_field hc0 rfl), if_pos hc0]
  simp only [fin_eq hf0, fin_eq hf1, fin_eq hf2, fin_eq hf3]

theorem RoundTrip.xfnTanh (k : KReg) (d : VReg) (a : VReg) (l : La) : RoundTrip.Statement (.xfnTanh k d a l) := by
  obtain ⟨n, hN⟩ : ∃ n, n = 1476395120 + k.val * 8388608 + d.val * 65536 + a.val * 512 + l.val := ⟨_, rfl⟩
  obtain ⟨hlt, hm, hf0, hf1, hf2, hf3, hc0⟩ := shape7 (m := 22) (c0 := 7) rfl hN (by decide) (by decide) k.isLt d.isLt a.isLt l.isLt
  refine decode_of_raw (hN ▸ rfl) hlt (not_tvcut hm (by decide)) ?_
  rw [raw22 hm]
  delta decodeMajor22
  rw [if_neg (other_field hc0 rfl), if_neg (other_field hc0 rfl), if_neg (other_field hc0 rfl), if_neg (other_field hc0 rfl), if_neg (other_field hc0 rfl), if_neg (other_field hc0 rfl), if_neg (other_field hc0 rfl), if_pos hc0]
  simp only [fin_eq hf0, fin_eq hf1, fin_eq hf2, fin_eq hf3]

theorem RoundTrip.shflIdx (k : KReg) (d : VReg) (a : VReg) (b : VReg) : RoundTrip.Statement (.shflIdx k d a b) := by
  obtain ⟨n, hN⟩ : ∃ n, n = 1543503872 + k.val * 8388608 + d.val * 65536 + a.val * 512 + b.val * 4 := ⟨_, rfl⟩
  obtain ⟨hlt, hm, hf0, hf1, hf2, hf3, hc0⟩ := shape0 (m := 23) (c0 := 0) rfl hN (by decide) (by decide) k.isLt d.isLt a.isLt b.isLt
  refine decode_of_raw (hN ▸ rfl) hlt (not_tvcut hm (by decide)) ?_
  rw [raw23 hm]
  delta decodeMajor23
  rw [if_pos hc0]
  simp only [fin_eq hf0, fin_eq hf1, fin_eq hf2, fin_eq hf3]

theorem RoundTrip.shflXor (k : KReg) (d : VReg) (a : VReg) (b : VReg) : RoundTrip.Statement (.shflXor k d a b) := by
  obtain ⟨n, hN⟩ : ∃ n, n = 1543503873 + k.val * 8388608 + d.val * 65536 + a.val * 512 + b.val * 4 := ⟨_, rfl⟩
  obtain ⟨hlt, hm, hf0, hf1, hf2, hf3, hc0⟩ := shape0 (m := 23) (c0 := 1) rfl hN (by decide) (by decide) k.isLt d.isLt a.isLt b.isLt
  refine decode_of_raw (hN ▸ rfl) hlt (not_tvcut hm (by decide)) ?_
  rw [raw23 hm]
  delta decodeMajor23
  rw [if_neg (other_field hc0 rfl), if_pos hc0]
  simp only [fin_eq hf0, fin_eq hf1, fin_eq hf2, fin_eq hf3]

theorem RoundTrip.shflUp (k : KReg) (d : VReg) (a : VReg) (b : VReg) : RoundTrip.Statement (.shflUp k d a b) := by
  obtain ⟨n, hN⟩ : ∃ n, n = 1543503874 + k.val * 8388608 + d.val * 65536 + a.val * 512 + b.val * 4 := ⟨_, rfl⟩
  obtain ⟨hlt, hm, hf0, hf1, hf2, hf3, hc0⟩ := shape0 (m := 23) (c0 := 2) rfl hN (by decide) (by decide) k.isLt d.isLt a.isLt b.isLt
  refine decode_of_raw (hN ▸ rfl) hlt (not_tvcut hm (by decide)) ?_
  rw [raw23 hm]
  delta decodeMajor23
  rw [if_neg (other_field hc0 rfl), if_neg (other_field hc0 rfl), if_pos hc0]
  simp only [fin_eq hf0, fin_eq hf1, fin_eq hf2, fin_eq hf3]

theorem RoundTrip.shflDown (k : KReg) (d : VReg) (a : VReg) (b : VReg) : RoundTrip.Statement (.shflDown k d a b) := by
  obtain ⟨n, hN⟩ : ∃ n, n = 1543503875 + k.val * 8388608 + d.val * 65536 + a.val * 512 + b.val * 4 := ⟨_, rfl⟩
  obtain ⟨hlt, hm, hf0, hf1, hf2, hf3, hc0⟩ := shape0 (m := 23) (c0 := 3) rfl hN (by decide) (by decide) k.isLt d.isLt a.isLt b.isLt
  refine decode_of_raw (hN ▸ rfl) hlt (not_tvcut hm (by decide)) ?_
  rw [raw23 hm]
  delta decodeMajor23
  rw [if_neg (other_field hc0 rfl), if_neg (other_field hc0 rfl), if_neg (other_field hc0 rfl), if_pos hc0]
  simp only [fin_eq hf0, fin_eq hf1, fin_eq hf2, fin_eq hf3]

theorem RoundTrip.ldsZ8 (k : KReg) (d : VReg) (a : VReg) (g : AReg) (l : La) : RoundTrip.Statement (.ldsZ8 k d a g l) := by
  obtain ⟨n, hN⟩ : ∃ n, n = 1610612736 + k.val * 8388608 + d.val * 65536 + a.val * 512 + g.val * 64 + l.val := ⟨_, rfl⟩
  obtain ⟨hlt, hm, hf0, hf1, hf2, hf3, hf4, hc0⟩ := shape8 (m := 24) (c0 := 0) rfl hN (by decide) (by decide) k.isLt d.isLt a.isLt g.isLt l.isLt
  refine decode_of_raw (hN ▸ rfl) hlt (not_tvcut hm (by decide)) ?_
  rw [raw24 hm]
  delta decodeMajor24
  rw [if_pos hc0]
  simp only [fin_eq hf0, fin_eq hf1, fin_eq hf2, fin_eq hf3, fin_eq hf4]

theorem RoundTrip.ldsZ16 (k : KReg) (d : VReg) (a : VReg) (g : AReg) (l : La) : RoundTrip.Statement (.ldsZ16 k d a g l) := by
  obtain ⟨n, hN⟩ : ∃ n, n = 1610612752 + k.val * 8388608 + d.val * 65536 + a.val * 512 + g.val * 64 + l.val := ⟨_, rfl⟩
  obtain ⟨hlt, hm, hf0, hf1, hf2, hf3, hf4, hc0⟩ := shape8 (m := 24) (c0 := 1) rfl hN (by decide) (by decide) k.isLt d.isLt a.isLt g.isLt l.isLt
  refine decode_of_raw (hN ▸ rfl) hlt (not_tvcut hm (by decide)) ?_
  rw [raw24 hm]
  delta decodeMajor24
  rw [if_neg (other_field hc0 rfl), if_pos hc0]
  simp only [fin_eq hf0, fin_eq hf1, fin_eq hf2, fin_eq hf3, fin_eq hf4]

theorem RoundTrip.lds32 (k : KReg) (d : VReg) (a : VReg) (g : AReg) (l : La) : RoundTrip.Statement (.lds32 k d a g l) := by
  obtain ⟨n, hN⟩ : ∃ n, n = 1610612768 + k.val * 8388608 + d.val * 65536 + a.val * 512 + g.val * 64 + l.val := ⟨_, rfl⟩
  obtain ⟨hlt, hm, hf0, hf1, hf2, hf3, hf4, hc0⟩ := shape8 (m := 24) (c0 := 2) rfl hN (by decide) (by decide) k.isLt d.isLt a.isLt g.isLt l.isLt
  refine decode_of_raw (hN ▸ rfl) hlt (not_tvcut hm (by decide)) ?_
  rw [raw24 hm]
  delta decodeMajor24
  rw [if_neg (other_field hc0 rfl), if_neg (other_field hc0 rfl), if_pos hc0]
  simp only [fin_eq hf0, fin_eq hf1, fin_eq hf2, fin_eq hf3, fin_eq hf4]

theorem RoundTrip.lds64 (k : KReg) (d : VReg) (a : VReg) (g : AReg) (l : La) : RoundTrip.Statement (.lds64 k d a g l) := by
  obtain ⟨n, hN⟩ : ∃ n, n = 1610612784 + k.val * 8388608 + d.val * 65536 + a.val * 512 + g.val * 64 + l.val := ⟨_, rfl⟩
  obtain ⟨hlt, hm, hf0, hf1, hf2, hf3, hf4, hc0⟩ := shape8 (m := 24) (c0 := 3) rfl hN (by decide) (by decide) k.isLt d.isLt a.isLt g.isLt l.isLt
  refine decode_of_raw (hN ▸ rfl) hlt (not_tvcut hm (by decide)) ?_
  rw [raw24 hm]
  delta decodeMajor24
  rw [if_neg (other_field hc0 rfl), if_neg (other_field hc0 rfl), if_neg (other_field hc0 rfl), if_pos hc0]
  simp only [fin_eq hf0, fin_eq hf1, fin_eq hf2, fin_eq hf3, fin_eq hf4]

theorem RoundTrip.ldsxS8 (k : KReg) (d : VReg) (a : VReg) (g : AReg) (l : La) : RoundTrip.Statement (.ldsxS8 k d a g l) := by
  obtain ⟨n, hN⟩ : ∃ n, n = 1677721600 + k.val * 8388608 + d.val * 65536 + a.val * 512 + g.val * 64 + l.val := ⟨_, rfl⟩
  obtain ⟨hlt, hm, hf0, hf1, hf2, hf3, hf4, hc0⟩ := shape8 (m := 25) (c0 := 0) rfl hN (by decide) (by decide) k.isLt d.isLt a.isLt g.isLt l.isLt
  refine decode_of_raw (hN ▸ rfl) hlt (not_tvcut hm (by decide)) ?_
  rw [raw25 hm]
  delta decodeMajor25
  rw [if_pos hc0]
  simp only [fin_eq hf0, fin_eq hf1, fin_eq hf2, fin_eq hf3, fin_eq hf4]

theorem RoundTrip.ldsxS16 (k : KReg) (d : VReg) (a : VReg) (g : AReg) (l : La) : RoundTrip.Statement (.ldsxS16 k d a g l) := by
  obtain ⟨n, hN⟩ : ∃ n, n = 1677721616 + k.val * 8388608 + d.val * 65536 + a.val * 512 + g.val * 64 + l.val := ⟨_, rfl⟩
  obtain ⟨hlt, hm, hf0, hf1, hf2, hf3, hf4, hc0⟩ := shape8 (m := 25) (c0 := 1) rfl hN (by decide) (by decide) k.isLt d.isLt a.isLt g.isLt l.isLt
  refine decode_of_raw (hN ▸ rfl) hlt (not_tvcut hm (by decide)) ?_
  rw [raw25 hm]
  delta decodeMajor25
  rw [if_neg (other_field hc0 rfl), if_pos hc0]
  simp only [fin_eq hf0, fin_eq hf1, fin_eq hf2, fin_eq hf3, fin_eq hf4]

theorem RoundTrip.ldsx128 (k : KReg) (d : VReg) (a : VReg) (g : AReg) (l : La) : RoundTrip.Statement (.ldsx128 k d a g l) := by
  obtain ⟨n, hN⟩ : ∃ n, n = 1677721632 + k.val * 8388608 + d.val * 65536 + a.val * 512 + g.val * 64 + l.val := ⟨_, rfl⟩
  obtain ⟨hlt, hm, hf0, hf1, hf2, hf3, hf4, hc0⟩ := shape8 (m := 25) (c0 := 2) rfl hN (by decide) (by decide) k.isLt d.isLt a.isLt g.isLt l.isLt
  refine decode_of_raw (hN ▸ rfl) hlt (not_tvcut hm (by decide)) ?_
  rw [raw25 hm]
  delta decodeMajor25
  rw [if_neg (other_field hc0 rfl), if_neg (other_field hc0 rfl), if_pos hc0]
  simp only [fin_eq hf0, fin_eq hf1, fin_eq hf2, fin_eq hf3, fin_eq hf4]

theorem RoundTrip.sts8 (k : KReg) (d : VReg) (a : VReg) (g : AReg) : RoundTrip.Statement (.sts8 k d a g) := by
  obtain ⟨n, hN⟩ : ∃ n, n = 1744830464 + k.val * 8388608 + d.val * 65536 + a.val * 512 + g.val * 64 := ⟨_, rfl⟩
  obtain ⟨hlt, hm, hf0, hf1, hf2, hf3, hc0⟩ := shape9 (m := 26) (c0 := 0) rfl hN (by decide) (by decide) k.isLt d.isLt a.isLt g.isLt
  refine decode_of_raw (hN ▸ rfl) hlt (not_tvcut hm (by decide)) ?_
  rw [raw26 hm]
  delta decodeMajor26
  rw [if_pos hc0]
  simp only [fin_eq hf0, fin_eq hf1, fin_eq hf2, fin_eq hf3]

theorem RoundTrip.sts16 (k : KReg) (d : VReg) (a : VReg) (g : AReg) : RoundTrip.Statement (.sts16 k d a g) := by
  obtain ⟨n, hN⟩ : ∃ n, n = 1744830480 + k.val * 8388608 + d.val * 65536 + a.val * 512 + g.val * 64 := ⟨_, rfl⟩
  obtain ⟨hlt, hm, hf0, hf1, hf2, hf3, hc0⟩ := shape9 (m := 26) (c0 := 16) rfl hN (by decide) (by decide) k.isLt d.isLt a.isLt g.isLt
  refine decode_of_raw (hN ▸ rfl) hlt (not_tvcut hm (by decide)) ?_
  rw [raw26 hm]
  delta decodeMajor26
  rw [if_neg (other_field hc0 rfl), if_pos hc0]
  simp only [fin_eq hf0, fin_eq hf1, fin_eq hf2, fin_eq hf3]

theorem RoundTrip.sts32 (k : KReg) (d : VReg) (a : VReg) (g : AReg) : RoundTrip.Statement (.sts32 k d a g) := by
  obtain ⟨n, hN⟩ : ∃ n, n = 1744830496 + k.val * 8388608 + d.val * 65536 + a.val * 512 + g.val * 64 := ⟨_, rfl⟩
  obtain ⟨hlt, hm, hf0, hf1, hf2, hf3, hc0⟩ := shape9 (m := 26) (c0 := 32) rfl hN (by decide) (by decide) k.isLt d.isLt a.isLt g.isLt
  refine decode_of_raw (hN ▸ rfl) hlt (not_tvcut hm (by decide)) ?_
  rw [raw26 hm]
  delta decodeMajor26
  rw [if_neg (other_field hc0 rfl), if_neg (other_field hc0 rfl), if_pos hc0]
  simp only [fin_eq hf0, fin_eq hf1, fin_eq hf2, fin_eq hf3]

theorem RoundTrip.sts64 (k : KReg) (d : VReg) (a : VReg) (g : AReg) : RoundTrip.Statement (.sts64 k d a g) := by
  obtain ⟨n, hN⟩ : ∃ n, n = 1744830512 + k.val * 8388608 + d.val * 65536 + a.val * 512 + g.val * 64 := ⟨_, rfl⟩
  obtain ⟨hlt, hm, hf0, hf1, hf2, hf3, hc0⟩ := shape9 (m := 26) (c0 := 48) rfl hN (by decide) (by decide) k.isLt d.isLt a.isLt g.isLt
  refine decode_of_raw (hN ▸ rfl) hlt (not_tvcut hm (by decide)) ?_
  rw [raw26 hm]
  delta decodeMajor26
  rw [if_neg (other_field hc0 rfl), if_neg (other_field hc0 rfl), if_neg (other_field hc0 rfl), if_pos hc0]
  simp only [fin_eq hf0, fin_eq hf1, fin_eq hf2, fin_eq hf3]

theorem RoundTrip.atomsAdd (k : KReg) (d : VReg) (a : VReg) (g : AReg) (l : La) : RoundTrip.Statement (.atomsAdd k d a g l) := by
  obtain ⟨n, hN⟩ : ∃ n, n = 1811939328 + k.val * 8388608 + d.val * 65536 + a.val * 512 + g.val * 64 + l.val := ⟨_, rfl⟩
  obtain ⟨hlt, hm, hf0, hf1, hf2, hf3, hf4, hc0⟩ := shape8 (m := 27) (c0 := 0) rfl hN (by decide) (by decide) k.isLt d.isLt a.isLt g.isLt l.isLt
  refine decode_of_raw (hN ▸ rfl) hlt (not_tvcut hm (by decide)) ?_
  rw [raw27 hm]
  delta decodeMajor27
  rw [if_pos hc0]
  simp only [fin_eq hf0, fin_eq hf1, fin_eq hf2, fin_eq hf3, fin_eq hf4]

theorem RoundTrip.atomsExch (k : KReg) (d : VReg) (a : VReg) (g : AReg) (l : La) : RoundTrip.Statement (.atomsExch k d a g l) := by
  obtain ⟨n, hN⟩ : ∃ n, n = 1811939344 + k.val * 8388608 + d.val * 65536 + a.val * 512 + g.val * 64 + l.val := ⟨_, rfl⟩
  obtain ⟨hlt, hm, hf0, hf1, hf2, hf3, hf4, hc0⟩ := shape8 (m := 27) (c0 := 1) rfl hN (by decide) (by decide) k.isLt d.isLt a.isLt g.isLt l.isLt
  refine decode_of_raw (hN ▸ rfl) hlt (not_tvcut hm (by decide)) ?_
  rw [raw27 hm]
  delta decodeMajor27
  rw [if_neg (other_field hc0 rfl), if_pos hc0]
  simp only [fin_eq hf0, fin_eq hf1, fin_eq hf2, fin_eq hf3, fin_eq hf4]

theorem RoundTrip.atomsCas (k : KReg) (d : VReg) (a : VReg) (g : AReg) (l : La) : RoundTrip.Statement (.atomsCas k d a g l) := by
  obtain ⟨n, hN⟩ : ∃ n, n = 1811939360 + k.val * 8388608 + d.val * 65536 + a.val * 512 + g.val * 64 + l.val := ⟨_, rfl⟩
  obtain ⟨hlt, hm, hf0, hf1, hf2, hf3, hf4, hc0⟩ := shape8 (m := 27) (c0 := 2) rfl hN (by decide) (by decide) k.isLt d.isLt a.isLt g.isLt l.isLt
  refine decode_of_raw (hN ▸ rfl) hlt (not_tvcut hm (by decide)) ?_
  rw [raw27 hm]
  delta decodeMajor27
  rw [if_neg (other_field hc0 rfl), if_neg (other_field hc0 rfl), if_pos hc0]
  simp only [fin_eq hf0, fin_eq hf1, fin_eq hf2, fin_eq hf3, fin_eq hf4]

theorem RoundTrip.atomsMaxS (k : KReg) (d : VReg) (a : VReg) (g : AReg) (l : La) : RoundTrip.Statement (.atomsMaxS k d a g l) := by
  obtain ⟨n, hN⟩ : ∃ n, n = 1811939376 + k.val * 8388608 + d.val * 65536 + a.val * 512 + g.val * 64 + l.val := ⟨_, rfl⟩
  obtain ⟨hlt, hm, hf0, hf1, hf2, hf3, hf4, hc0⟩ := shape8 (m := 27) (c0 := 3) rfl hN (by decide) (by decide) k.isLt d.isLt a.isLt g.isLt l.isLt
  refine decode_of_raw (hN ▸ rfl) hlt (not_tvcut hm (by decide)) ?_
  rw [raw27 hm]
  delta decodeMajor27
  rw [if_neg (other_field hc0 rfl), if_neg (other_field hc0 rfl), if_neg (other_field hc0 rfl), if_pos hc0]
  simp only [fin_eq hf0, fin_eq hf1, fin_eq hf2, fin_eq hf3, fin_eq hf4]

theorem RoundTrip.atomsxAnd (k : KReg) (d : VReg) (a : VReg) (g : AReg) (l : La) : RoundTrip.Statement (.atomsxAnd k d a g l) := by
  obtain ⟨n, hN⟩ : ∃ n, n = 134217728 + k.val * 8388608 + d.val * 65536 + a.val * 512 + g.val * 64 + l.val := ⟨_, rfl⟩
  obtain ⟨hlt, hm, hf0, hf1, hf2, hf3, hf4, hc0⟩ := shape8 (m := 2) (c0 := 0) rfl hN (by decide) (by decide) k.isLt d.isLt a.isLt g.isLt l.isLt
  refine decode_of_raw (hN ▸ rfl) hlt (not_tvcut hm (by decide)) ?_
  rw [raw2 hm]
  delta decodeMajor2
  rw [if_pos hc0]
  simp only [fin_eq hf0, fin_eq hf1, fin_eq hf2, fin_eq hf3, fin_eq hf4]

theorem RoundTrip.atomsxOr (k : KReg) (d : VReg) (a : VReg) (g : AReg) (l : La) : RoundTrip.Statement (.atomsxOr k d a g l) := by
  obtain ⟨n, hN⟩ : ∃ n, n = 134217744 + k.val * 8388608 + d.val * 65536 + a.val * 512 + g.val * 64 + l.val := ⟨_, rfl⟩
  obtain ⟨hlt, hm, hf0, hf1, hf2, hf3, hf4, hc0⟩ := shape8 (m := 2) (c0 := 1) rfl hN (by decide) (by decide) k.isLt d.isLt a.isLt g.isLt l.isLt
  refine decode_of_raw (hN ▸ rfl) hlt (not_tvcut hm (by decide)) ?_
  rw [raw2 hm]
  delta decodeMajor2
  rw [if_neg (other_field hc0 rfl), if_pos hc0]
  simp only [fin_eq hf0, fin_eq hf1, fin_eq hf2, fin_eq hf3, fin_eq hf4]

theorem RoundTrip.atomsxXor (k : KReg) (d : VReg) (a : VReg) (g : AReg) (l : La) : RoundTrip.Statement (.atomsxXor k d a g l) := by
  obtain ⟨n, hN⟩ : ∃ n, n = 134217760 + k.val * 8388608 + d.val * 65536 + a.val * 512 + g.val * 64 + l.val := ⟨_, rfl⟩
  obtain ⟨hlt, hm, hf0, hf1, hf2, hf3, hf4, hc0⟩ := shape8 (m := 2) (c0 := 2) rfl hN (by decide) (by decide) k.isLt d.isLt a.isLt g.isLt l.isLt
  refine decode_of_raw (hN ▸ rfl) hlt (not_tvcut hm (by decide)) ?_
  rw [raw2 hm]
  delta decodeMajor2
  rw [if_neg (other_field hc0 rfl), if_neg (other_field hc0 rfl), if_pos hc0]
  simp only [fin_eq hf0, fin_eq hf1, fin_eq hf2, fin_eq hf3, fin_eq hf4]

theorem RoundTrip.atomsxMinS (k : KReg) (d : VReg) (a : VReg) (g : AReg) (l : La) : RoundTrip.Statement (.atomsxMinS k d a g l) := by
  obtain ⟨n, hN⟩ : ∃ n, n = 134217776 + k.val * 8388608 + d.val * 65536 + a.val * 512 + g.val * 64 + l.val := ⟨_, rfl⟩
  obtain ⟨hlt, hm, hf0, hf1, hf2, hf3, hf4, hc0⟩ := shape8 (m := 2) (c0 := 3) rfl hN (by decide) (by decide) k.isLt d.isLt a.isLt g.isLt l.isLt
  refine decode_of_raw (hN ▸ rfl) hlt (not_tvcut hm (by decide)) ?_
  rw [raw2 hm]
  delta decodeMajor2
  rw [if_neg (other_field hc0 rfl), if_neg (other_field hc0 rfl), if_neg (other_field hc0 rfl), if_pos hc0]
  simp only [fin_eq hf0, fin_eq hf1, fin_eq hf2, fin_eq hf3, fin_eq hf4]

theorem RoundTrip.ldg32 (k : KReg) (d : VReg) (a : VReg) (g : AReg) : RoundTrip.Statement (.ldg32 k d a g) := by
  obtain ⟨n, hN⟩ : ∃ n, n = 1879048192 + k.val * 8388608 + d.val * 65536 + a.val * 512 + g.val * 64 := ⟨_, rfl⟩
  obtain ⟨hlt, hm, hf0, hf1, hf2, hf3, hc0⟩ := shape9 (m := 28) (c0 := 0) rfl hN (by decide) (by decide) k.isLt d.isLt a.isLt g.isLt
  refine decode_of_raw (hN ▸ rfl) hlt (not_tvcut hm (by decide)) ?_
  rw [raw28 hm]
  delta decodeMajor28
  rw [if_pos hc0]
  simp only [fin_eq hf0, fin_eq hf1, fin_eq hf2, fin_eq hf3]

theorem RoundTrip.ldg64 (k : KReg) (d : VReg) (a : VReg) (g : AReg) : RoundTrip.Statement (.ldg64 k d a g) := by
  obtain ⟨n, hN⟩ : ∃ n, n = 1879048208 + k.val * 8388608 + d.val * 65536 + a.val * 512 + g.val * 64 := ⟨_, rfl⟩
  obtain ⟨hlt, hm, hf0, hf1, hf2, hf3, hc0⟩ := shape9 (m := 28) (c0 := 16) rfl hN (by decide) (by decide) k.isLt d.isLt a.isLt g.isLt
  refine decode_of_raw (hN ▸ rfl) hlt (not_tvcut hm (by decide)) ?_
  rw [raw28 hm]
  delta decodeMajor28
  rw [if_neg (other_field hc0 rfl), if_pos hc0]
  simp only [fin_eq hf0, fin_eq hf1, fin_eq hf2, fin_eq hf3]

theorem RoundTrip.ldg128 (k : KReg) (d : VReg) (a : VReg) (g : AReg) : RoundTrip.Statement (.ldg128 k d a g) := by
  obtain ⟨n, hN⟩ : ∃ n, n = 1879048224 + k.val * 8388608 + d.val * 65536 + a.val * 512 + g.val * 64 := ⟨_, rfl⟩
  obtain ⟨hlt, hm, hf0, hf1, hf2, hf3, hc0⟩ := shape9 (m := 28) (c0 := 32) rfl hN (by decide) (by decide) k.isLt d.isLt a.isLt g.isLt
  refine decode_of_raw (hN ▸ rfl) hlt (not_tvcut hm (by decide)) ?_
  rw [raw28 hm]
  delta decodeMajor28
  rw [if_neg (other_field hc0 rfl), if_neg (other_field hc0 rfl), if_pos hc0]
  simp only [fin_eq hf0, fin_eq hf1, fin_eq hf2, fin_eq hf3]

theorem RoundTrip.ldg32Acq (k : KReg) (d : VReg) (a : VReg) (g : AReg) : RoundTrip.Statement (.ldg32Acq k d a g) := by
  obtain ⟨n, hN⟩ : ∃ n, n = 1879048240 + k.val * 8388608 + d.val * 65536 + a.val * 512 + g.val * 64 := ⟨_, rfl⟩
  obtain ⟨hlt, hm, hf0, hf1, hf2, hf3, hc0⟩ := shape9 (m := 28) (c0 := 48) rfl hN (by decide) (by decide) k.isLt d.isLt a.isLt g.isLt
  refine decode_of_raw (hN ▸ rfl) hlt (not_tvcut hm (by decide)) ?_
  rw [raw28 hm]
  delta decodeMajor28
  rw [if_neg (other_field hc0 rfl), if_neg (other_field hc0 rfl), if_neg (other_field hc0 rfl), if_pos hc0]
  simp only [fin_eq hf0, fin_eq hf1, fin_eq hf2, fin_eq hf3]

theorem RoundTrip.stg8 (k : KReg) (d : VReg) (a : VReg) (g : AReg) : RoundTrip.Statement (.stg8 k d a g) := by
  obtain ⟨n, hN⟩ : ∃ n, n = 1946157056 + k.val * 8388608 + d.val * 65536 + a.val * 512 + g.val * 64 := ⟨_, rfl⟩
  obtain ⟨hlt, hm, hf0, hf1, hf2, hf3, hc0⟩ := shape9 (m := 29) (c0 := 0) rfl hN (by decide) (by decide) k.isLt d.isLt a.isLt g.isLt
  refine decode_of_raw (hN ▸ rfl) hlt (not_tvcut hm (by decide)) ?_
  rw [raw29 hm]
  delta decodeMajor29
  rw [if_pos hc0]
  simp only [fin_eq hf0, fin_eq hf1, fin_eq hf2, fin_eq hf3]

theorem RoundTrip.stg16 (k : KReg) (d : VReg) (a : VReg) (g : AReg) : RoundTrip.Statement (.stg16 k d a g) := by
  obtain ⟨n, hN⟩ : ∃ n, n = 1946157072 + k.val * 8388608 + d.val * 65536 + a.val * 512 + g.val * 64 := ⟨_, rfl⟩
  obtain ⟨hlt, hm, hf0, hf1, hf2, hf3, hc0⟩ := shape9 (m := 29) (c0 := 16) rfl hN (by decide) (by decide) k.isLt d.isLt a.isLt g.isLt
  refine decode_of_raw (hN ▸ rfl) hlt (not_tvcut hm (by decide)) ?_
  rw [raw29 hm]
  delta decodeMajor29
  rw [if_neg (other_field hc0 rfl), if_pos hc0]
  simp only [fin_eq hf0, fin_eq hf1, fin_eq hf2, fin_eq hf3]

theorem RoundTrip.stg32 (k : KReg) (d : VReg) (a : VReg) (g : AReg) : RoundTrip.Statement (.stg32 k d a g) := by
  obtain ⟨n, hN⟩ : ∃ n, n = 1946157088 + k.val * 8388608 + d.val * 65536 + a.val * 512 + g.val * 64 := ⟨_, rfl⟩
  obtain ⟨hlt, hm, hf0, hf1, hf2, hf3, hc0⟩ := shape9 (m := 29) (c0 := 32) rfl hN (by decide) (by decide) k.isLt d.isLt a.isLt g.isLt
  refine decode_of_raw (hN ▸ rfl) hlt (not_tvcut hm (by decide)) ?_
  rw [raw29 hm]
  delta decodeMajor29
  rw [if_neg (other_field hc0 rfl), if_neg (other_field hc0 rfl), if_pos hc0]
  simp only [fin_eq hf0, fin_eq hf1, fin_eq hf2, fin_eq hf3]

theorem RoundTrip.stg64 (k : KReg) (d : VReg) (a : VReg) (g : AReg) : RoundTrip.Statement (.stg64 k d a g) := by
  obtain ⟨n, hN⟩ : ∃ n, n = 1946157104 + k.val * 8388608 + d.val * 65536 + a.val * 512 + g.val * 64 := ⟨_, rfl⟩
  obtain ⟨hlt, hm, hf0, hf1, hf2, hf3, hc0⟩ := shape9 (m := 29) (c0 := 48) rfl hN (by decide) (by decide) k.isLt d.isLt a.isLt g.isLt
  refine decode_of_raw (hN ▸ rfl) hlt (not_tvcut hm (by decide)) ?_
  rw [raw29 hm]
  delta decodeMajor29
  rw [if_neg (other_field hc0 rfl), if_neg (other_field hc0 rfl), if_neg (other_field hc0 rfl), if_pos hc0]
  simp only [fin_eq hf0, fin_eq hf1, fin_eq hf2, fin_eq hf3]

theorem RoundTrip.mstream (k : KReg) (d : VReg) (a : VReg) (y : Fin 32) (t : MType) : RoundTrip.Statement (.mstream k d a y t) := by
  obtain ⟨n, hN⟩ : ∃ n, n = 2013265920 + k.val * 8388608 + d.val * 65536 + a.val * 512 + y.val * 16 + t.code := ⟨_, rfl⟩
  obtain ⟨hlt, hm, hf0, hf1, hf2, hf3, hf4⟩ := shape10 (m := 30) rfl hN (by decide) k.isLt d.isLt a.isLt y.isLt (MType_code_lt t)
  refine decode_of_raw (hN ▸ rfl) hlt (not_tvcut hm (by decide)) ?_
  rw [raw30 hm]
  delta decodeMajor30
  simp only [fin_eq hf0, fin_eq hf1, fin_eq hf2, fin_eq hf3, hf4, MType_code_of, Option.bind_some]

theorem RoundTrip.tcopy (k : KReg) (d : VReg) (a : VReg) : RoundTrip.Statement (.tcopy k d a) := by
  obtain ⟨n, hN⟩ : ∃ n, n = 2080374784 + k.val * 8388608 + d.val * 65536 + a.val * 512 := ⟨_, rfl⟩
  obtain ⟨hlt, hm, hf0, hf1, hf2, hc0⟩ := shape1 (m := 31) (c0 := 0) rfl hN (by decide) (by decide) k.isLt d.isLt a.isLt
  refine decode_of_raw (hN ▸ rfl) hlt (fun h => by clear hlt hf0 hf1 hf2; have hb0 := k.isLt; have hb1 := d.isLt; have hb2 := a.isLt; simp only [fld_eq] at h; omega) ?_
  rw [raw31 hm]
  delta decodeMajor31
  rw [if_pos hc0]
  simp only [fin_eq hf0, fin_eq hf1, fin_eq hf2]

theorem RoundTrip.tcopyq (k : KReg) (d : VReg) (a : VReg) : RoundTrip.Statement (.tcopyq k d a) := by
  obtain ⟨n, hN⟩ : ∃ n, n = 2080374800 + k.val * 8388608 + d.val * 65536 + a.val * 512 := ⟨_, rfl⟩
  obtain ⟨hlt, hm, hf0, hf1, hf2, hc0⟩ := shape1 (m := 31) (c0 := 16) rfl hN (by decide) (by decide) k.isLt d.isLt a.isLt
  refine decode_of_raw (hN ▸ rfl) hlt (fun h => by clear hlt hf0 hf1 hf2; have hb0 := k.isLt; have hb1 := d.isLt; have hb2 := a.isLt; simp only [fld_eq] at h; omega) ?_
  rw [raw31 hm]
  delta decodeMajor31
  rw [if_neg (other_field hc0 rfl), if_pos hc0]
  simp only [fin_eq hf0, fin_eq hf1, fin_eq hf2]

theorem RoundTrip.atomg (k : KReg) (d : VReg) (a : VReg) (o : AtomOp) : RoundTrip.Statement (.atomg k d a o) := by
  obtain ⟨n, hN⟩ : ∃ n, n = 2080374816 + k.val * 8388608 + d.val * 65536 + a.val * 512 + o.code := ⟨_, rfl⟩
  obtain ⟨hlt, hm, hf0, hf1, hf2, hf3, hc0⟩ := shape7 (m := 31) (c0 := 2) rfl hN (by decide) (by decide) k.isLt d.isLt a.isLt (AtomOp_code_lt o)
  refine decode_of_raw (hN ▸ rfl) hlt (fun h => by clear hlt hf0 hf1 hf2 hf3; have hb0 := k.isLt; have hb1 := d.isLt; have hb2 := a.isLt; have hb3 := (AtomOp_code_lt o); simp only [fld_eq] at h; omega) ?_
  rw [raw31 hm]
  delta decodeMajor31
  rw [if_neg (by clear hlt hf0 hf1 hf2 hf3; have hb0 := k.isLt; have hb1 := d.isLt; have hb2 := a.isLt; have hb3 := (AtomOp_code_lt o); simp only [fld_eq]; omega), if_neg (by clear hlt hf0 hf1 hf2 hf3; have hb0 := k.isLt; have hb1 := d.isLt; have hb2 := a.isLt; have hb3 := (AtomOp_code_lt o); simp only [fld_eq]; omega), if_pos hc0]
  simp only [fin_eq hf0, fin_eq hf1, fin_eq hf2, hf3, AtomOp_code_of, Option.bind_some]

theorem RoundTrip.tvwalk (k : KReg) (d : VReg) (a : VReg) : RoundTrip.Statement (.tvwalk k d a) := by
  obtain ⟨n, hN⟩ : ∃ n, n = 2080374832 + k.val * 8388608 + d.val * 65536 + a.val * 512 := ⟨_, rfl⟩
  obtain ⟨hlt, hm, hf0, hf1, hf2, hc0⟩ := shape1 (m := 31) (c0 := 48) rfl hN (by decide) (by decide) k.isLt d.isLt a.isLt
  refine decode_of_raw (hN ▸ rfl) hlt (fun h => by clear hlt hf0 hf1 hf2; have hb0 := k.isLt; have hb1 := d.isLt; have hb2 := a.isLt; simp only [fld_eq] at h; omega) ?_
  rw [raw31 hm]
  delta decodeMajor31
  rw [if_neg (other_field hc0 rfl), if_neg (other_field hc0 rfl), if_neg (by clear hlt hf0 hf1 hf2; have hb0 := k.isLt; have hb1 := d.isLt; have hb2 := a.isLt; simp only [fld_eq]; omega), if_pos hc0]
  simp only [fin_eq hf0, fin_eq hf1, fin_eq hf2]

theorem RoundTrip.tvcut (k : KReg) (d : VReg) (a : VReg) : RoundTrip.Statement (.tvcut k d a) := by
  intro svc w hb hw h
  simp only [belongs] at hb
  simp only [encode, encodeNat, Option.map_some, Option.some.injEq] at h
  generalize hN' : 2080374848 + k.val * 8388608 + d.val * 65536 + a.val * 512 = n at h
  have hN := hN'.symm
  obtain ⟨hlt, hm, hf0, hf1, hf2, hc0⟩ := shape1 (m := 31) (c0 := 64) rfl hN (by decide) (by decide) k.isLt d.isLt a.isLt
  have ht : w.toNat = n := by rw [← h, BitVec.toNat_ofNat]; omega
  have hc : ¬ (svc = true ∧ fld n 26 6 = 31 ∧ fld n 4 5 = 4) := fun g => by rw [g.1] at hb; exact absurd hb (by decide)
  have hr : decodeRaw n = some (.tvcut k d a) := by
    rw [raw31 hm]
    delta decodeMajor31
    rw [if_neg (other_field hc0 rfl), if_neg (other_field hc0 rfl), if_neg (by clear hlt hf0 hf1 hf2; have hb0 := k.isLt; have hb1 := d.isLt; have hb2 := a.isLt; simp only [fld_eq]; omega), if_neg (other_field hc0 rfl), if_pos hc0]
    simp only [fin_eq hf0, fin_eq hf1, fin_eq hf2]
  simp only [decode, ht, if_neg hc, hr, hw, if_true]

theorem RoundTrip.tvret (k : KReg) (a : VReg) : RoundTrip.Statement (.tvret k a) := by
  intro svc w hb hw h
  simp only [belongs] at hb
  simp only [encode, encodeNat, Option.map_some, Option.some.injEq] at h
  generalize hN' : 2080374848 + k.val * 8388608 + a.val * 512 = n at h
  have hN := hN'.symm
  obtain ⟨hlt, hm, hf0, hf1, hc0, hc1⟩ := shape11 (m := 31) (c0 := 64) (c1 := 0) rfl hN (by decide) (by decide) (by decide) k.isLt a.isLt
  have ht : w.toNat = n := by rw [← h, BitVec.toNat_ofNat]; omega
  have hc : svc = true ∧ fld n 26 6 = 31 ∧ fld n 4 5 = 4 := ⟨hb, hm, by simp only [fld_eq]; omega⟩
  simp only [decode, ht, if_pos hc, decodeTvret, hc0, hc1, and_self, if_true, hw, fin_eq hf0, fin_eq hf1]

theorem RoundTrip.tvresume (k : KReg) (d : VReg) (a : VReg) : RoundTrip.Statement (.tvresume k d a) := by
  obtain ⟨n, hN⟩ : ∃ n, n = 2080374864 + k.val * 8388608 + d.val * 65536 + a.val * 512 := ⟨_, rfl⟩
  obtain ⟨hlt, hm, hf0, hf1, hf2, hc0⟩ := shape1 (m := 31) (c0 := 80) rfl hN (by decide) (by decide) k.isLt d.isLt a.isLt
  refine decode_of_raw (hN ▸ rfl) hlt (fun h => by clear hlt hf0 hf1 hf2; have hb0 := k.isLt; have hb1 := d.isLt; have hb2 := a.isLt; simp only [fld_eq] at h; omega) ?_
  rw [raw31 hm]
  delta decodeMajor31
  rw [if_neg (other_field hc0 rfl), if_neg (other_field hc0 rfl), if_neg (by clear hlt hf0 hf1 hf2; have hb0 := k.isLt; have hb1 := d.isLt; have hb2 := a.isLt; simp only [fld_eq]; omega), if_neg (other_field hc0 rfl), if_neg (other_field hc0 rfl), if_pos hc0]
  simp only [fin_eq hf0, fin_eq hf1, fin_eq hf2]

theorem RoundTrip.tvstat (k : KReg) (d : VReg) (a : VReg) : RoundTrip.Statement (.tvstat k d a) := by
  obtain ⟨n, hN⟩ : ∃ n, n = 2080374880 + k.val * 8388608 + d.val * 65536 + a.val * 512 := ⟨_, rfl⟩
  obtain ⟨hlt, hm, hf0, hf1, hf2, hc0⟩ := shape1 (m := 31) (c0 := 96) rfl hN (by decide) (by decide) k.isLt d.isLt a.isLt
  refine decode_of_raw (hN ▸ rfl) hlt (fun h => by clear hlt hf0 hf1 hf2; have hb0 := k.isLt; have hb1 := d.isLt; have hb2 := a.isLt; simp only [fld_eq] at h; omega) ?_
  rw [raw31 hm]
  delta decodeMajor31
  rw [if_neg (other_field hc0 rfl), if_neg (other_field hc0 rfl), if_neg (by clear hlt hf0 hf1 hf2; have hb0 := k.isLt; have hb1 := d.isLt; have hb2 := a.isLt; simp only [fld_eq]; omega), if_neg (other_field hc0 rfl), if_neg (other_field hc0 rfl), if_neg (other_field hc0 rfl), if_pos hc0]
  simp only [fin_eq hf0, fin_eq hf1, fin_eq hf2]

theorem RoundTrip.gput (k : KReg) (d : VReg) (a : VReg) : RoundTrip.Statement (.gput k d a) := by
  obtain ⟨n, hN⟩ : ∃ n, n = 2080374896 + k.val * 8388608 + d.val * 65536 + a.val * 512 := ⟨_, rfl⟩
  obtain ⟨hlt, hm, hf0, hf1, hf2, hc0⟩ := shape1 (m := 31) (c0 := 112) rfl hN (by decide) (by decide) k.isLt d.isLt a.isLt
  refine decode_of_raw (hN ▸ rfl) hlt (fun h => by clear hlt hf0 hf1 hf2; have hb0 := k.isLt; have hb1 := d.isLt; have hb2 := a.isLt; simp only [fld_eq] at h; omega) ?_
  rw [raw31 hm]
  delta decodeMajor31
  rw [if_neg (other_field hc0 rfl), if_neg (other_field hc0 rfl), if_neg (by clear hlt hf0 hf1 hf2; have hb0 := k.isLt; have hb1 := d.isLt; have hb2 := a.isLt; simp only [fld_eq]; omega), if_neg (other_field hc0 rfl), if_neg (other_field hc0 rfl), if_neg (other_field hc0 rfl), if_neg (other_field hc0 rfl), if_pos hc0]
  simp only [fin_eq hf0, fin_eq hf1, fin_eq hf2]

theorem RoundTrip.gtake (k : KReg) (d : VReg) (a : VReg) : RoundTrip.Statement (.gtake k d a) := by
  obtain ⟨n, hN⟩ : ∃ n, n = 2080374912 + k.val * 8388608 + d.val * 65536 + a.val * 512 := ⟨_, rfl⟩
  obtain ⟨hlt, hm, hf0, hf1, hf2, hc0⟩ := shape1 (m := 31) (c0 := 128) rfl hN (by decide) (by decide) k.isLt d.isLt a.isLt
  refine decode_of_raw (hN ▸ rfl) hlt (fun h => by clear hlt hf0 hf1 hf2; have hb0 := k.isLt; have hb1 := d.isLt; have hb2 := a.isLt; simp only [fld_eq] at h; omega) ?_
  rw [raw31 hm]
  delta decodeMajor31
  rw [if_neg (other_field hc0 rfl), if_neg (other_field hc0 rfl), if_neg (by clear hlt hf0 hf1 hf2; have hb0 := k.isLt; have hb1 := d.isLt; have hb2 := a.isLt; simp only [fld_eq]; omega), if_neg (other_field hc0 rfl), if_neg (other_field hc0 rfl), if_neg (other_field hc0 rfl), if_neg (other_field hc0 rfl), if_neg (other_field hc0 rfl), if_pos hc0]
  simp only [fin_eq hf0, fin_eq hf1, fin_eq hf2]

theorem RoundTrip.stgRel (k : KReg) (d : VReg) (a : VReg) (y : SzCode) : RoundTrip.Statement (.stgRel k d a y) := by
  obtain ⟨n, hN⟩ : ∃ n, n = 2080374928 + k.val * 8388608 + d.val * 65536 + a.val * 512 + y.code := ⟨_, rfl⟩
  obtain ⟨hlt, hm, hf0, hf1, hf2, hf3, hc0⟩ := shape12 (m := 31) (c0 := 36) rfl hN (by decide) (by decide) k.isLt d.isLt a.isLt (SzCode_code_lt y)
  refine decode_of_raw (hN ▸ rfl) hlt (fun h => by clear hlt hf0 hf1 hf2 hf3; have hb0 := k.isLt; have hb1 := d.isLt; have hb2 := a.isLt; have hb3 := (SzCode_code_lt y); simp only [fld_eq] at h; omega) ?_
  rw [raw31 hm]
  delta decodeMajor31
  rw [if_neg (by clear hlt hf0 hf1 hf2 hf3; have hb0 := k.isLt; have hb1 := d.isLt; have hb2 := a.isLt; have hb3 := (SzCode_code_lt y); simp only [fld_eq]; omega), if_neg (by clear hlt hf0 hf1 hf2 hf3; have hb0 := k.isLt; have hb1 := d.isLt; have hb2 := a.isLt; have hb3 := (SzCode_code_lt y); simp only [fld_eq]; omega), if_neg (by clear hlt hf0 hf1 hf2 hf3; have hb0 := k.isLt; have hb1 := d.isLt; have hb2 := a.isLt; have hb3 := (SzCode_code_lt y); simp only [fld_eq]; omega), if_neg (by clear hlt hf0 hf1 hf2 hf3; have hb0 := k.isLt; have hb1 := d.isLt; have hb2 := a.isLt; have hb3 := (SzCode_code_lt y); simp only [fld_eq]; omega), if_neg (by clear hlt hf0 hf1 hf2 hf3; have hb0 := k.isLt; have hb1 := d.isLt; have hb2 := a.isLt; have hb3 := (SzCode_code_lt y); simp only [fld_eq]; omega), if_neg (by clear hlt hf0 hf1 hf2 hf3; have hb0 := k.isLt; have hb1 := d.isLt; have hb2 := a.isLt; have hb3 := (SzCode_code_lt y); simp only [fld_eq]; omega), if_neg (by clear hlt hf0 hf1 hf2 hf3; have hb0 := k.isLt; have hb1 := d.isLt; have hb2 := a.isLt; have hb3 := (SzCode_code_lt y); simp only [fld_eq]; omega), if_neg (by clear hlt hf0 hf1 hf2 hf3; have hb0 := k.isLt; have hb1 := d.isLt; have hb2 := a.isLt; have hb3 := (SzCode_code_lt y); simp only [fld_eq]; omega), if_neg (by clear hlt hf0 hf1 hf2 hf3; have hb0 := k.isLt; have hb1 := d.isLt; have hb2 := a.isLt; have hb3 := (SzCode_code_lt y); simp only [fld_eq]; omega), if_pos hc0]
  simp only [fin_eq hf0, fin_eq hf1, fin_eq hf2, hf3, SzCode_code_of, Option.bind_some]

theorem RoundTrip.uadd (d : GReg) (a : GReg) (b : GReg) : RoundTrip.Statement (.uadd d a b) := by
  obtain ⟨n, hN⟩ : ∃ n, n = 2214592512 + d.val * 1048576 + a.val * 16384 + b.val * 256 := ⟨_, rfl⟩
  obtain ⟨hlt, hm, hf0, hf1, hf2, hc0⟩ := shape13 (m := 33) (c0 := 0) rfl hN (by decide) (by decide) d.isLt a.isLt b.isLt
  refine decode_of_raw (hN ▸ rfl) hlt (not_tvcut hm (by decide)) ?_
  rw [raw33 hm]
  delta decodeMajor33
  rw [if_pos hc0]
  simp only [fin_eq hf0, fin_eq hf1, fin_eq hf2]

theorem RoundTrip.usub (d : GReg) (a : GReg) (b : GReg) : RoundTrip.Statement (.usub d a b) := by
  obtain ⟨n, hN⟩ : ∃ n, n = 2214592513 + d.val * 1048576 + a.val * 16384 + b.val * 256 := ⟨_, rfl⟩
  obtain ⟨hlt, hm, hf0, hf1, hf2, hc0⟩ := shape13 (m := 33) (c0 := 1) rfl hN (by decide) (by decide) d.isLt a.isLt b.isLt
  refine decode_of_raw (hN ▸ rfl) hlt (not_tvcut hm (by decide)) ?_
  rw [raw33 hm]
  delta decodeMajor33
  rw [if_neg (other_field hc0 rfl), if_pos hc0]
  simp only [fin_eq hf0, fin_eq hf1, fin_eq hf2]

theorem RoundTrip.umul (d : GReg) (a : GReg) (b : GReg) : RoundTrip.Statement (.umul d a b) := by
  obtain ⟨n, hN⟩ : ∃ n, n = 2214592514 + d.val * 1048576 + a.val * 16384 + b.val * 256 := ⟨_, rfl⟩
  obtain ⟨hlt, hm, hf0, hf1, hf2, hc0⟩ := shape13 (m := 33) (c0 := 2) rfl hN (by decide) (by decide) d.isLt a.isLt b.isLt
  refine decode_of_raw (hN ▸ rfl) hlt (not_tvcut hm (by decide)) ?_
  rw [raw33 hm]
  delta decodeMajor33
  rw [if_neg (other_field hc0 rfl), if_neg (other_field hc0 rfl), if_pos hc0]
  simp only [fin_eq hf0, fin_eq hf1, fin_eq hf2]

theorem RoundTrip.umulhZ (d : GReg) (a : GReg) (b : GReg) : RoundTrip.Statement (.umulhZ d a b) := by
  obtain ⟨n, hN⟩ : ∃ n, n = 2214592515 + d.val * 1048576 + a.val * 16384 + b.val * 256 := ⟨_, rfl⟩
  obtain ⟨hlt, hm, hf0, hf1, hf2, hc0⟩ := shape13 (m := 33) (c0 := 3) rfl hN (by decide) (by decide) d.isLt a.isLt b.isLt
  refine decode_of_raw (hN ▸ rfl) hlt (not_tvcut hm (by decide)) ?_
  rw [raw33 hm]
  delta decodeMajor33
  rw [if_neg (other_field hc0 rfl), if_neg (other_field hc0 rfl), if_neg (other_field hc0 rfl), if_pos hc0]
  simp only [fin_eq hf0, fin_eq hf1, fin_eq hf2]

theorem RoundTrip.umulhS (d : GReg) (a : GReg) (b : GReg) : RoundTrip.Statement (.umulhS d a b) := by
  obtain ⟨n, hN⟩ : ∃ n, n = 2214592516 + d.val * 1048576 + a.val * 16384 + b.val * 256 := ⟨_, rfl⟩
  obtain ⟨hlt, hm, hf0, hf1, hf2, hc0⟩ := shape13 (m := 33) (c0 := 4) rfl hN (by decide) (by decide) d.isLt a.isLt b.isLt
  refine decode_of_raw (hN ▸ rfl) hlt (not_tvcut hm (by decide)) ?_
  rw [raw33 hm]
  delta decodeMajor33
  rw [if_neg (other_field hc0 rfl), if_neg (other_field hc0 rfl), if_neg (other_field hc0 rfl), if_neg (other_field hc0 rfl), if_pos hc0]
  simp only [fin_eq hf0, fin_eq hf1, fin_eq hf2]

theorem RoundTrip.uminS (d : GReg) (a : GReg) (b : GReg) : RoundTrip.Statement (.uminS d a b) := by
  obtain ⟨n, hN⟩ : ∃ n, n = 2214592517 + d.val * 1048576 + a.val * 16384 + b.val * 256 := ⟨_, rfl⟩
  obtain ⟨hlt, hm, hf0, hf1, hf2, hc0⟩ := shape13 (m := 33) (c0 := 5) rfl hN (by decide) (by decide) d.isLt a.isLt b.isLt
  refine decode_of_raw (hN ▸ rfl) hlt (not_tvcut hm (by decide)) ?_
  rw [raw33 hm]
  delta decodeMajor33
  rw [if_neg (other_field hc0 rfl), if_neg (other_field hc0 rfl), if_neg (other_field hc0 rfl), if_neg (other_field hc0 rfl), if_neg (other_field hc0 rfl), if_pos hc0]
  simp only [fin_eq hf0, fin_eq hf1, fin_eq hf2]

theorem RoundTrip.umaxS (d : GReg) (a : GReg) (b : GReg) : RoundTrip.Statement (.umaxS d a b) := by
  obtain ⟨n, hN⟩ : ∃ n, n = 2214592518 + d.val * 1048576 + a.val * 16384 + b.val * 256 := ⟨_, rfl⟩
  obtain ⟨hlt, hm, hf0, hf1, hf2, hc0⟩ := shape13 (m := 33) (c0 := 6) rfl hN (by decide) (by decide) d.isLt a.isLt b.isLt
  refine decode_of_raw (hN ▸ rfl) hlt (not_tvcut hm (by decide)) ?_
  rw [raw33 hm]
  delta decodeMajor33
  rw [if_neg (other_field hc0 rfl), if_neg (other_field hc0 rfl), if_neg (other_field hc0 rfl), if_neg (other_field hc0 rfl), if_neg (other_field hc0 rfl), if_neg (other_field hc0 rfl), if_pos hc0]
  simp only [fin_eq hf0, fin_eq hf1, fin_eq hf2]

theorem RoundTrip.uminZ (d : GReg) (a : GReg) (b : GReg) : RoundTrip.Statement (.uminZ d a b) := by
  obtain ⟨n, hN⟩ : ∃ n, n = 2214592519 + d.val * 1048576 + a.val * 16384 + b.val * 256 := ⟨_, rfl⟩
  obtain ⟨hlt, hm, hf0, hf1, hf2, hc0⟩ := shape13 (m := 33) (c0 := 7) rfl hN (by decide) (by decide) d.isLt a.isLt b.isLt
  refine decode_of_raw (hN ▸ rfl) hlt (not_tvcut hm (by decide)) ?_
  rw [raw33 hm]
  delta decodeMajor33
  rw [if_neg (other_field hc0 rfl), if_neg (other_field hc0 rfl), if_neg (other_field hc0 rfl), if_neg (other_field hc0 rfl), if_neg (other_field hc0 rfl), if_neg (other_field hc0 rfl), if_neg (other_field hc0 rfl), if_pos hc0]
  simp only [fin_eq hf0, fin_eq hf1, fin_eq hf2]

theorem RoundTrip.umaxZ (d : GReg) (a : GReg) (b : GReg) : RoundTrip.Statement (.umaxZ d a b) := by
  obtain ⟨n, hN⟩ : ∃ n, n = 2214592520 + d.val * 1048576 + a.val * 16384 + b.val * 256 := ⟨_, rfl⟩
  obtain ⟨hlt, hm, hf0, hf1, hf2, hc0⟩ := shape13 (m := 33) (c0 := 8) rfl hN (by decide) (by decide) d.isLt a.isLt b.isLt
  refine decode_of_raw (hN ▸ rfl) hlt (not_tvcut hm (by decide)) ?_
  rw [raw33 hm]
  delta decodeMajor33
  rw [if_neg (other_field hc0 rfl), if_neg (other_field hc0 rfl), if_neg (other_field hc0 rfl), if_neg (other_field hc0 rfl), if_neg (other_field hc0 rfl), if_neg (other_field hc0 rfl), if_neg (other_field hc0 rfl), if_neg (other_field hc0 rfl), if_pos hc0]
  simp only [fin_eq hf0, fin_eq hf1, fin_eq hf2]

theorem RoundTrip.uand (d : GReg) (a : GReg) (b : GReg) : RoundTrip.Statement (.uand d a b) := by
  obtain ⟨n, hN⟩ : ∃ n, n = 2214592521 + d.val * 1048576 + a.val * 16384 + b.val * 256 := ⟨_, rfl⟩
  obtain ⟨hlt, hm, hf0, hf1, hf2, hc0⟩ := shape13 (m := 33) (c0 := 9) rfl hN (by decide) (by decide) d.isLt a.isLt b.isLt
  refine decode_of_raw (hN ▸ rfl) hlt (not_tvcut hm (by decide)) ?_
  rw [raw33 hm]
  delta decodeMajor33
  rw [if_neg (other_field hc0 rfl), if_neg (other_field hc0 rfl), if_neg (other_field hc0 rfl), if_neg (other_field hc0 rfl), if_neg (other_field hc0 rfl), if_neg (other_field hc0 rfl), if_neg (other_field hc0 rfl), if_neg (other_field hc0 rfl), if_neg (other_field hc0 rfl), if_pos hc0]
  simp only [fin_eq hf0, fin_eq hf1, fin_eq hf2]

theorem RoundTrip.uor (d : GReg) (a : GReg) (b : GReg) : RoundTrip.Statement (.uor d a b) := by
  obtain ⟨n, hN⟩ : ∃ n, n = 2214592522 + d.val * 1048576 + a.val * 16384 + b.val * 256 := ⟨_, rfl⟩
  obtain ⟨hlt, hm, hf0, hf1, hf2, hc0⟩ := shape13 (m := 33) (c0 := 10) rfl hN (by decide) (by decide) d.isLt a.isLt b.isLt
  refine decode_of_raw (hN ▸ rfl) hlt (not_tvcut hm (by decide)) ?_
  rw [raw33 hm]
  delta decodeMajor33
  rw [if_neg (other_field hc0 rfl), if_neg (other_field hc0 rfl), if_neg (other_field hc0 rfl), if_neg (other_field hc0 rfl), if_neg (other_field hc0 rfl), if_neg (other_field hc0 rfl), if_neg (other_field hc0 rfl), if_neg (other_field hc0 rfl), if_neg (other_field hc0 rfl), if_neg (other_field hc0 rfl), if_pos hc0]
  simp only [fin_eq hf0, fin_eq hf1, fin_eq hf2]

theorem RoundTrip.uxor (d : GReg) (a : GReg) (b : GReg) : RoundTrip.Statement (.uxor d a b) := by
  obtain ⟨n, hN⟩ : ∃ n, n = 2214592523 + d.val * 1048576 + a.val * 16384 + b.val * 256 := ⟨_, rfl⟩
  obtain ⟨hlt, hm, hf0, hf1, hf2, hc0⟩ := shape13 (m := 33) (c0 := 11) rfl hN (by decide) (by decide) d.isLt a.isLt b.isLt
  refine decode_of_raw (hN ▸ rfl) hlt (not_tvcut hm (by decide)) ?_
  rw [raw33 hm]
  delta decodeMajor33
  rw [if_neg (other_field hc0 rfl), if_neg (other_field hc0 rfl), if_neg (other_field hc0 rfl), if_neg (other_field hc0 rfl), if_neg (other_field hc0 rfl), if_neg (other_field hc0 rfl), if_neg (other_field hc0 rfl), if_neg (other_field hc0 rfl), if_neg (other_field hc0 rfl), if_neg (other_field hc0 rfl), if_neg (other_field hc0 rfl), if_pos hc0]
  simp only [fin_eq hf0, fin_eq hf1, fin_eq hf2]

theorem RoundTrip.uandn (d : GReg) (a : GReg) (b : GReg) : RoundTrip.Statement (.uandn d a b) := by
  obtain ⟨n, hN⟩ : ∃ n, n = 2214592524 + d.val * 1048576 + a.val * 16384 + b.val * 256 := ⟨_, rfl⟩
  obtain ⟨hlt, hm, hf0, hf1, hf2, hc0⟩ := shape13 (m := 33) (c0 := 12) rfl hN (by decide) (by decide) d.isLt a.isLt b.isLt
  refine decode_of_raw (hN ▸ rfl) hlt (not_tvcut hm (by decide)) ?_
  rw [raw33 hm]
  delta decodeMajor33
  rw [if_neg (other_field hc0 rfl), if_neg (other_field hc0 rfl), if_neg (other_field hc0 rfl), if_neg (other_field hc0 rfl), if_neg (other_field hc0 rfl), if_neg (other_field hc0 rfl), if_neg (other_field hc0 rfl), if_neg (other_field hc0 rfl), if_neg (other_field hc0 rfl), if_neg (other_field hc0 rfl), if_neg (other_field hc0 rfl), if_neg (other_field hc0 rfl), if_pos hc0]
  simp only [fin_eq hf0, fin_eq hf1, fin_eq hf2]

theorem RoundTrip.ushl (d : GReg) (a : GReg) (b : GReg) : RoundTrip.Statement (.ushl d a b) := by
  obtain ⟨n, hN⟩ : ∃ n, n = 2214592525 + d.val * 1048576 + a.val * 16384 + b.val * 256 := ⟨_, rfl⟩
  obtain ⟨hlt, hm, hf0, hf1, hf2, hc0⟩ := shape13 (m := 33) (c0 := 13) rfl hN (by decide) (by decide) d.isLt a.isLt b.isLt
  refine decode_of_raw (hN ▸ rfl) hlt (not_tvcut hm (by decide)) ?_
  rw [raw33 hm]
  delta decodeMajor33
  rw [if_neg (other_field hc0 rfl), if_neg (other_field hc0 rfl), if_neg (other_field hc0 rfl), if_neg (other_field hc0 rfl), if_neg (other_field hc0 rfl), if_neg (other_field hc0 rfl), if_neg (other_field hc0 rfl), if_neg (other_field hc0 rfl), if_neg (other_field hc0 rfl), if_neg (other_field hc0 rfl), if_neg (other_field hc0 rfl), if_neg (other_field hc0 rfl), if_neg (other_field hc0 rfl), if_pos hc0]
  simp only [fin_eq hf0, fin_eq hf1, fin_eq hf2]

theorem RoundTrip.ushr (d : GReg) (a : GReg) (b : GReg) : RoundTrip.Statement (.ushr d a b) := by
  obtain ⟨n, hN⟩ : ∃ n, n = 2214592526 + d.val * 1048576 + a.val * 16384 + b.val * 256 := ⟨_, rfl⟩
  obtain ⟨hlt, hm, hf0, hf1, hf2, hc0⟩ := shape13 (m := 33) (c0 := 14) rfl hN (by decide) (by decide) d.isLt a.isLt b.isLt
  refine decode_of_raw (hN ▸ rfl) hlt (not_tvcut hm (by decide)) ?_
  rw [raw33 hm]
  delta decodeMajor33
  rw [if_neg (other_field hc0 rfl), if_neg (other_field hc0 rfl), if_neg (other_field hc0 rfl), if_neg (other_field hc0 rfl), if_neg (other_field hc0 rfl), if_neg (other_field hc0 rfl), if_neg (other_field hc0 rfl), if_neg (other_field hc0 rfl), if_neg (other_field hc0 rfl), if_neg (other_field hc0 rfl), if_neg (other_field hc0 rfl), if_neg (other_field hc0 rfl), if_neg (other_field hc0 rfl), if_neg (other_field hc0 rfl), if_pos hc0]
  simp only [fin_eq hf0, fin_eq hf1, fin_eq hf2]

theorem RoundTrip.usar (d : GReg) (a : GReg) (b : GReg) : RoundTrip.Statement (.usar d a b) := by
  obtain ⟨n, hN⟩ : ∃ n, n = 2214592527 + d.val * 1048576 + a.val * 16384 + b.val * 256 := ⟨_, rfl⟩
  obtain ⟨hlt, hm, hf0, hf1, hf2, hc0⟩ := shape13 (m := 33) (c0 := 15) rfl hN (by decide) (by decide) d.isLt a.isLt b.isLt
  refine decode_of_raw (hN ▸ rfl) hlt (not_tvcut hm (by decide)) ?_
  rw [raw33 hm]
  delta decodeMajor33
  rw [if_neg (other_field hc0 rfl), if_neg (other_field hc0 rfl), if_neg (other_field hc0 rfl), if_neg (other_field hc0 rfl), if_neg (other_field hc0 rfl), if_neg (other_field hc0 rfl), if_neg (other_field hc0 rfl), if_neg (other_field hc0 rfl), if_neg (other_field hc0 rfl), if_neg (other_field hc0 rfl), if_neg (other_field hc0 rfl), if_neg (other_field hc0 rfl), if_neg (other_field hc0 rfl), if_neg (other_field hc0 rfl), if_neg (other_field hc0 rfl), if_pos hc0]
  simp only [fin_eq hf0, fin_eq hf1, fin_eq hf2]

theorem RoundTrip.ucmpEq (d : GReg) (a : GReg) (b : GReg) : RoundTrip.Statement (.ucmpEq d a b) := by
  obtain ⟨n, hN⟩ : ∃ n, n = 2214592528 + d.val * 1048576 + a.val * 16384 + b.val * 256 := ⟨_, rfl⟩
  obtain ⟨hlt, hm, hf0, hf1, hf2, hc0⟩ := shape13 (m := 33) (c0 := 16) rfl hN (by decide) (by decide) d.isLt a.isLt b.isLt
  refine decode_of_raw (hN ▸ rfl) hlt (not_tvcut hm (by decide)) ?_
  rw [raw33 hm]
  delta decodeMajor33
  rw [if_neg (other_field hc0 rfl), if_neg (other_field hc0 rfl), if_neg (other_field hc0 rfl), if_neg (other_field hc0 rfl), if_neg (other_field hc0 rfl), if_neg (other_field hc0 rfl), if_neg (other_field hc0 rfl), if_neg (other_field hc0 rfl), if_neg (other_field hc0 rfl), if_neg (other_field hc0 rfl), if_neg (other_field hc0 rfl), if_neg (other_field hc0 rfl), if_neg (other_field hc0 rfl), if_neg (other_field hc0 rfl), if_neg (other_field hc0 rfl), if_neg (other_field hc0 rfl), if_pos hc0]
  simp only [fin_eq hf0, fin_eq hf1, fin_eq hf2]

theorem RoundTrip.ucmpLtS (d : GReg) (a : GReg) (b : GReg) : RoundTrip.Statement (.ucmpLtS d a b) := by
  obtain ⟨n, hN⟩ : ∃ n, n = 2214592529 + d.val * 1048576 + a.val * 16384 + b.val * 256 := ⟨_, rfl⟩
  obtain ⟨hlt, hm, hf0, hf1, hf2, hc0⟩ := shape13 (m := 33) (c0 := 17) rfl hN (by decide) (by decide) d.isLt a.isLt b.isLt
  refine decode_of_raw (hN ▸ rfl) hlt (not_tvcut hm (by decide)) ?_
  rw [raw33 hm]
  delta decodeMajor33
  rw [if_neg (other_field hc0 rfl), if_neg (other_field hc0 rfl), if_neg (other_field hc0 rfl), if_neg (other_field hc0 rfl), if_neg (other_field hc0 rfl), if_neg (other_field hc0 rfl), if_neg (other_field hc0 rfl), if_neg (other_field hc0 rfl), if_neg (other_field hc0 rfl), if_neg (other_field hc0 rfl), if_neg (other_field hc0 rfl), if_neg (other_field hc0 rfl), if_neg (other_field hc0 rfl), if_neg (other_field hc0 rfl), if_neg (other_field hc0 rfl), if_neg (other_field hc0 rfl), if_neg (other_field hc0 rfl), if_pos hc0]
  simp only [fin_eq hf0, fin_eq hf1, fin_eq hf2]

theorem RoundTrip.ucmpLtZ (d : GReg) (a : GReg) (b : GReg) : RoundTrip.Statement (.ucmpLtZ d a b) := by
  obtain ⟨n, hN⟩ : ∃ n, n = 2214592530 + d.val * 1048576 + a.val * 16384 + b.val * 256 := ⟨_, rfl⟩
  obtain ⟨hlt, hm, hf0, hf1, hf2, hc0⟩ := shape13 (m := 33) (c0 := 18) rfl hN (by decide) (by decide) d.isLt a.isLt b.isLt
  refine decode_of_raw (hN ▸ rfl) hlt (not_tvcut hm (by decide)) ?_
  rw [raw33 hm]
  delta decodeMajor33
  rw [if_neg (other_field hc0 rfl), if_neg (other_field hc0 rfl), if_neg (other_field hc0 rfl), if_neg (other_field hc0 rfl), if_neg (other_field hc0 rfl), if_neg (other_field hc0 rfl), if_neg (other_field hc0 rfl), if_neg (other_field hc0 rfl), if_neg (other_field hc0 rfl), if_neg (other_field hc0 rfl), if_neg (other_field hc0 rfl), if_neg (other_field hc0 rfl), if_neg (other_field hc0 rfl), if_neg (other_field hc0 rfl), if_neg (other_field hc0 rfl), if_neg (other_field hc0 rfl), if_neg (other_field hc0 rfl), if_neg (other_field hc0 rfl), if_pos hc0]
  simp only [fin_eq hf0, fin_eq hf1, fin_eq hf2]

theorem RoundTrip.ucmpLeS (d : GReg) (a : GReg) (b : GReg) : RoundTrip.Statement (.ucmpLeS d a b) := by
  obtain ⟨n, hN⟩ : ∃ n, n = 2214592531 + d.val * 1048576 + a.val * 16384 + b.val * 256 := ⟨_, rfl⟩
  obtain ⟨hlt, hm, hf0, hf1, hf2, hc0⟩ := shape13 (m := 33) (c0 := 19) rfl hN (by decide) (by decide) d.isLt a.isLt b.isLt
  refine decode_of_raw (hN ▸ rfl) hlt (not_tvcut hm (by decide)) ?_
  rw [raw33 hm]
  delta decodeMajor33
  rw [if_neg (other_field hc0 rfl), if_neg (other_field hc0 rfl), if_neg (other_field hc0 rfl), if_neg (other_field hc0 rfl), if_neg (other_field hc0 rfl), if_neg (other_field hc0 rfl), if_neg (other_field hc0 rfl), if_neg (other_field hc0 rfl), if_neg (other_field hc0 rfl), if_neg (other_field hc0 rfl), if_neg (other_field hc0 rfl), if_neg (other_field hc0 rfl), if_neg (other_field hc0 rfl), if_neg (other_field hc0 rfl), if_neg (other_field hc0 rfl), if_neg (other_field hc0 rfl), if_neg (other_field hc0 rfl), if_neg (other_field hc0 rfl), if_neg (other_field hc0 rfl), if_pos hc0]
  simp only [fin_eq hf0, fin_eq hf1, fin_eq hf2]

theorem RoundTrip.ucmpLeZ (d : GReg) (a : GReg) (b : GReg) : RoundTrip.Statement (.ucmpLeZ d a b) := by
  obtain ⟨n, hN⟩ : ∃ n, n = 2214592532 + d.val * 1048576 + a.val * 16384 + b.val * 256 := ⟨_, rfl⟩
  obtain ⟨hlt, hm, hf0, hf1, hf2, hc0⟩ := shape13 (m := 33) (c0 := 20) rfl hN (by decide) (by decide) d.isLt a.isLt b.isLt
  refine decode_of_raw (hN ▸ rfl) hlt (not_tvcut hm (by decide)) ?_
  rw [raw33 hm]
  delta decodeMajor33
  rw [if_neg (other_field hc0 rfl), if_neg (other_field hc0 rfl), if_neg (other_field hc0 rfl), if_neg (other_field hc0 rfl), if_neg (other_field hc0 rfl), if_neg (other_field hc0 rfl), if_neg (other_field hc0 rfl), if_neg (other_field hc0 rfl), if_neg (other_field hc0 rfl), if_neg (other_field hc0 rfl), if_neg (other_field hc0 rfl), if_neg (other_field hc0 rfl), if_neg (other_field hc0 rfl), if_neg (other_field hc0 rfl), if_neg (other_field hc0 rfl), if_neg (other_field hc0 rfl), if_neg (other_field hc0 rfl), if_neg (other_field hc0 rfl), if_neg (other_field hc0 rfl), if_neg (other_field hc0 rfl), if_pos hc0]
  simp only [fin_eq hf0, fin_eq hf1, fin_eq hf2]

theorem RoundTrip.upopc (d : GReg) (a : GReg) : RoundTrip.Statement (.upopc d a) := by
  obtain ⟨n, hN⟩ : ∃ n, n = 2214592533 + d.val * 1048576 + a.val * 16384 := ⟨_, rfl⟩
  obtain ⟨hlt, hm, hf0, hf1, hc0⟩ := shape14 (m := 33) (c0 := 21) rfl hN (by decide) (by decide) d.isLt a.isLt
  refine decode_of_raw (hN ▸ rfl) hlt (not_tvcut hm (by decide)) ?_
  rw [raw33 hm]
  delta decodeMajor33
  rw [if_neg (by clear hlt hf0 hf1; have hb0 := d.isLt; have hb1 := a.isLt; simp only [fld_eq]; omega), if_neg (by clear hlt hf0 hf1; have hb0 := d.isLt; have hb1 := a.isLt; simp only [fld_eq]; omega), if_neg (by clear hlt hf0 hf1; have hb0 := d.isLt; have hb1 := a.isLt; simp only [fld_eq]; omega), if_neg (by clear hlt hf0 hf1; have hb0 := d.isLt; have hb1 := a.isLt; simp only [fld_eq]; omega), if_neg (by clear hlt hf0 hf1; have hb0 := d.isLt; have hb1 := a.isLt; simp only [fld_eq]; omega), if_neg (by clear hlt hf0 hf1; have hb0 := d.isLt; have hb1 := a.isLt; simp only [fld_eq]; omega), if_neg (by clear hlt hf0 hf1; have hb0 := d.isLt; have hb1 := a.isLt; simp only [fld_eq]; omega), if_neg (by clear hlt hf0 hf1; have hb0 := d.isLt; have hb1 := a.isLt; simp only [fld_eq]; omega), if_neg (by clear hlt hf0 hf1; have hb0 := d.isLt; have hb1 := a.isLt; simp only [fld_eq]; omega), if_neg (by clear hlt hf0 hf1; have hb0 := d.isLt; have hb1 := a.isLt; simp only [fld_eq]; omega), if_neg (by clear hlt hf0 hf1; have hb0 := d.isLt; have hb1 := a.isLt; simp only [fld_eq]; omega), if_neg (by clear hlt hf0 hf1; have hb0 := d.isLt; have hb1 := a.isLt; simp only [fld_eq]; omega), if_neg (by clear hlt hf0 hf1; have hb0 := d.isLt; have hb1 := a.isLt; simp only [fld_eq]; omega), if_neg (by clear hlt hf0 hf1; have hb0 := d.isLt; have hb1 := a.isLt; simp only [fld_eq]; omega), if_neg (by clear hlt hf0 hf1; have hb0 := d.isLt; have hb1 := a.isLt; simp only [fld_eq]; omega), if_neg (by clear hlt hf0 hf1; have hb0 := d.isLt; have hb1 := a.isLt; simp only [fld_eq]; omega), if_neg (by clear hlt hf0 hf1; have hb0 := d.isLt; have hb1 := a.isLt; simp only [fld_eq]; omega), if_neg (by clear hlt hf0 hf1; have hb0 := d.isLt; have hb1 := a.isLt; simp only [fld_eq]; omega), if_neg (by clear hlt hf0 hf1; have hb0 := d.isLt; have hb1 := a.isLt; simp only [fld_eq]; omega), if_neg (by clear hlt hf0 hf1; have hb0 := d.isLt; have hb1 := a.isLt; simp only [fld_eq]; omega), if_neg (by clear hlt hf0 hf1; have hb0 := d.isLt; have hb1 := a.isLt; simp only [fld_eq]; omega), if_pos hc0]
  simp only [fin_eq hf0, fin_eq hf1]

theorem RoundTrip.uclz (d : GReg) (a : GReg) : RoundTrip.Statement (.uclz d a) := by
  obtain ⟨n, hN⟩ : ∃ n, n = 2214592534 + d.val * 1048576 + a.val * 16384 := ⟨_, rfl⟩
  obtain ⟨hlt, hm, hf0, hf1, hc0⟩ := shape14 (m := 33) (c0 := 22) rfl hN (by decide) (by decide) d.isLt a.isLt
  refine decode_of_raw (hN ▸ rfl) hlt (not_tvcut hm (by decide)) ?_
  rw [raw33 hm]
  delta decodeMajor33
  rw [if_neg (by clear hlt hf0 hf1; have hb0 := d.isLt; have hb1 := a.isLt; simp only [fld_eq]; omega), if_neg (by clear hlt hf0 hf1; have hb0 := d.isLt; have hb1 := a.isLt; simp only [fld_eq]; omega), if_neg (by clear hlt hf0 hf1; have hb0 := d.isLt; have hb1 := a.isLt; simp only [fld_eq]; omega), if_neg (by clear hlt hf0 hf1; have hb0 := d.isLt; have hb1 := a.isLt; simp only [fld_eq]; omega), if_neg (by clear hlt hf0 hf1; have hb0 := d.isLt; have hb1 := a.isLt; simp only [fld_eq]; omega), if_neg (by clear hlt hf0 hf1; have hb0 := d.isLt; have hb1 := a.isLt; simp only [fld_eq]; omega), if_neg (by clear hlt hf0 hf1; have hb0 := d.isLt; have hb1 := a.isLt; simp only [fld_eq]; omega), if_neg (by clear hlt hf0 hf1; have hb0 := d.isLt; have hb1 := a.isLt; simp only [fld_eq]; omega), if_neg (by clear hlt hf0 hf1; have hb0 := d.isLt; have hb1 := a.isLt; simp only [fld_eq]; omega), if_neg (by clear hlt hf0 hf1; have hb0 := d.isLt; have hb1 := a.isLt; simp only [fld_eq]; omega), if_neg (by clear hlt hf0 hf1; have hb0 := d.isLt; have hb1 := a.isLt; simp only [fld_eq]; omega), if_neg (by clear hlt hf0 hf1; have hb0 := d.isLt; have hb1 := a.isLt; simp only [fld_eq]; omega), if_neg (by clear hlt hf0 hf1; have hb0 := d.isLt; have hb1 := a.isLt; simp only [fld_eq]; omega), if_neg (by clear hlt hf0 hf1; have hb0 := d.isLt; have hb1 := a.isLt; simp only [fld_eq]; omega), if_neg (by clear hlt hf0 hf1; have hb0 := d.isLt; have hb1 := a.isLt; simp only [fld_eq]; omega), if_neg (by clear hlt hf0 hf1; have hb0 := d.isLt; have hb1 := a.isLt; simp only [fld_eq]; omega), if_neg (by clear hlt hf0 hf1; have hb0 := d.isLt; have hb1 := a.isLt; simp only [fld_eq]; omega), if_neg (by clear hlt hf0 hf1; have hb0 := d.isLt; have hb1 := a.isLt; simp only [fld_eq]; omega), if_neg (by clear hlt hf0 hf1; have hb0 := d.isLt; have hb1 := a.isLt; simp only [fld_eq]; omega), if_neg (by clear hlt hf0 hf1; have hb0 := d.isLt; have hb1 := a.isLt; simp only [fld_eq]; omega), if_neg (by clear hlt hf0 hf1; have hb0 := d.isLt; have hb1 := a.isLt; simp only [fld_eq]; omega), if_neg (other_field hc0 rfl), if_pos hc0]
  simp only [fin_eq hf0, fin_eq hf1]

theorem RoundTrip.umov (d : GReg) (a : GReg) : RoundTrip.Statement (.umov d a) := by
  obtain ⟨n, hN⟩ : ∃ n, n = 2214592535 + d.val * 1048576 + a.val * 16384 := ⟨_, rfl⟩
  obtain ⟨hlt, hm, hf0, hf1, hc0⟩ := shape14 (m := 33) (c0 := 23) rfl hN (by decide) (by decide) d.isLt a.isLt
  refine decode_of_raw (hN ▸ rfl) hlt (not_tvcut hm (by decide)) ?_
  rw [raw33 hm]
  delta decodeMajor33
  rw [if_neg (by clear hlt hf0 hf1; have hb0 := d.isLt; have hb1 := a.isLt; simp only [fld_eq]; omega), if_neg (by clear hlt hf0 hf1; have hb0 := d.isLt; have hb1 := a.isLt; simp only [fld_eq]; omega), if_neg (by clear hlt hf0 hf1; have hb0 := d.isLt; have hb1 := a.isLt; simp only [fld_eq]; omega), if_neg (by clear hlt hf0 hf1; have hb0 := d.isLt; have hb1 := a.isLt; simp only [fld_eq]; omega), if_neg (by clear hlt hf0 hf1; have hb0 := d.isLt; have hb1 := a.isLt; simp only [fld_eq]; omega), if_neg (by clear hlt hf0 hf1; have hb0 := d.isLt; have hb1 := a.isLt; simp only [fld_eq]; omega), if_neg (by clear hlt hf0 hf1; have hb0 := d.isLt; have hb1 := a.isLt; simp only [fld_eq]; omega), if_neg (by clear hlt hf0 hf1; have hb0 := d.isLt; have hb1 := a.isLt; simp only [fld_eq]; omega), if_neg (by clear hlt hf0 hf1; have hb0 := d.isLt; have hb1 := a.isLt; simp only [fld_eq]; omega), if_neg (by clear hlt hf0 hf1; have hb0 := d.isLt; have hb1 := a.isLt; simp only [fld_eq]; omega), if_neg (by clear hlt hf0 hf1; have hb0 := d.isLt; have hb1 := a.isLt; simp only [fld_eq]; omega), if_neg (by clear hlt hf0 hf1; have hb0 := d.isLt; have hb1 := a.isLt; simp only [fld_eq]; omega), if_neg (by clear hlt hf0 hf1; have hb0 := d.isLt; have hb1 := a.isLt; simp only [fld_eq]; omega), if_neg (by clear hlt hf0 hf1; have hb0 := d.isLt; have hb1 := a.isLt; simp only [fld_eq]; omega), if_neg (by clear hlt hf0 hf1; have hb0 := d.isLt; have hb1 := a.isLt; simp only [fld_eq]; omega), if_neg (by clear hlt hf0 hf1; have hb0 := d.isLt; have hb1 := a.isLt; simp only [fld_eq]; omega), if_neg (by clear hlt hf0 hf1; have hb0 := d.isLt; have hb1 := a.isLt; simp only [fld_eq]; omega), if_neg (by clear hlt hf0 hf1; have hb0 := d.isLt; have hb1 := a.isLt; simp only [fld_eq]; omega), if_neg (by clear hlt hf0 hf1; have hb0 := d.isLt; have hb1 := a.isLt; simp only [fld_eq]; omega), if_neg (by clear hlt hf0 hf1; have hb0 := d.isLt; have hb1 := a.isLt; simp only [fld_eq]; omega), if_neg (by clear hlt hf0 hf1; have hb0 := d.isLt; have hb1 := a.isLt; simp only [fld_eq]; omega), if_neg (other_field hc0 rfl), if_neg (other_field hc0 rfl), if_pos hc0]
  simp only [fin_eq hf0, fin_eq hf1]

theorem RoundTrip.uadd32 (d : GReg) (a : GReg) (b : GReg) : RoundTrip.Statement (.uadd32 d a b) := by
  obtain ⟨n, hN⟩ : ∃ n, n = 2214592536 + d.val * 1048576 + a.val * 16384 + b.val * 256 := ⟨_, rfl⟩
  obtain ⟨hlt, hm, hf0, hf1, hf2, hc0⟩ := shape13 (m := 33) (c0 := 24) rfl hN (by decide) (by decide) d.isLt a.isLt b.isLt
  refine decode_of_raw (hN ▸ rfl) hlt (not_tvcut hm (by decide)) ?_
  rw [raw33 hm]
  delta decodeMajor33
  rw [if_neg (other_field hc0 rfl), if_neg (other_field hc0 rfl), if_neg (other_field hc0 rfl), if_neg (other_field hc0 rfl), if_neg (other_field hc0 rfl), if_neg (other_field hc0 rfl), if_neg (other_field hc0 rfl), if_neg (other_field hc0 rfl), if_neg (other_field hc0 rfl), if_neg (other_field hc0 rfl), if_neg (other_field hc0 rfl), if_neg (other_field hc0 rfl), if_neg (other_field hc0 rfl), if_neg (other_field hc0 rfl), if_neg (other_field hc0 rfl), if_neg (other_field hc0 rfl), if_neg (other_field hc0 rfl), if_neg (other_field hc0 rfl), if_neg (other_field hc0 rfl), if_neg (other_field hc0 rfl), if_neg (other_field hc0 rfl), if_neg (by clear hlt hf0 hf1 hf2; have hb0 := d.isLt; have hb1 := a.isLt; have hb2 := b.isLt; simp only [fld_eq]; omega), if_neg (by clear hlt hf0 hf1 hf2; have hb0 := d.isLt; have hb1 := a.isLt; have hb2 := b.isLt; simp only [fld_eq]; omega), if_neg (by clear hlt hf0 hf1 hf2; have hb0 := d.isLt; have hb1 := a.isLt; have hb2 := b.isLt; simp only [fld_eq]; omega), if_pos hc0]
  simp only [fin_eq hf0, fin_eq hf1, fin_eq hf2]

theorem RoundTrip.usub32 (d : GReg) (a : GReg) (b : GReg) : RoundTrip.Statement (.usub32 d a b) := by
  obtain ⟨n, hN⟩ : ∃ n, n = 2214592537 + d.val * 1048576 + a.val * 16384 + b.val * 256 := ⟨_, rfl⟩
  obtain ⟨hlt, hm, hf0, hf1, hf2, hc0⟩ := shape13 (m := 33) (c0 := 25) rfl hN (by decide) (by decide) d.isLt a.isLt b.isLt
  refine decode_of_raw (hN ▸ rfl) hlt (not_tvcut hm (by decide)) ?_
  rw [raw33 hm]
  delta decodeMajor33
  rw [if_neg (other_field hc0 rfl), if_neg (other_field hc0 rfl), if_neg (other_field hc0 rfl), if_neg (other_field hc0 rfl), if_neg (other_field hc0 rfl), if_neg (other_field hc0 rfl), if_neg (other_field hc0 rfl), if_neg (other_field hc0 rfl), if_neg (other_field hc0 rfl), if_neg (other_field hc0 rfl), if_neg (other_field hc0 rfl), if_neg (other_field hc0 rfl), if_neg (other_field hc0 rfl), if_neg (other_field hc0 rfl), if_neg (other_field hc0 rfl), if_neg (other_field hc0 rfl), if_neg (other_field hc0 rfl), if_neg (other_field hc0 rfl), if_neg (other_field hc0 rfl), if_neg (other_field hc0 rfl), if_neg (other_field hc0 rfl), if_neg (by clear hlt hf0 hf1 hf2; have hb0 := d.isLt; have hb1 := a.isLt; have hb2 := b.isLt; simp only [fld_eq]; omega), if_neg (by clear hlt hf0 hf1 hf2; have hb0 := d.isLt; have hb1 := a.isLt; have hb2 := b.isLt; simp only [fld_eq]; omega), if_neg (by clear hlt hf0 hf1 hf2; have hb0 := d.isLt; have hb1 := a.isLt; have hb2 := b.isLt; simp only [fld_eq]; omega), if_neg (other_field hc0 rfl), if_pos hc0]
  simp only [fin_eq hf0, fin_eq hf1, fin_eq hf2]

theorem RoundTrip.uaddi (d : GReg) (a : GReg) (i : BitVec 14) : RoundTrip.Statement (.uaddi d a i) := by
  obtain ⟨n, hN⟩ : ∃ n, n = 2281701376 + d.val * 1048576 + a.val * 16384 + i.toNat := ⟨_, rfl⟩
  obtain ⟨hlt, hm, hf0, hf1, hf2⟩ := shape15 (m := 34) rfl hN (by decide) d.isLt a.isLt i.isLt
  refine decode_of_raw (hN ▸ rfl) hlt (not_tvcut hm (by decide)) ?_
  rw [raw34 hm]
  delta decodeMajor34
  simp only [fin_eq hf0, fin_eq hf1, bits_eq hf2]

theorem RoundTrip.uhi (d : GReg) (i : BitVec 20) : RoundTrip.Statement (.uhi d i) := by
  obtain ⟨n, hN⟩ : ∃ n, n = 2348810240 + d.val * 1048576 + i.toNat := ⟨_, rfl⟩
  obtain ⟨hlt, hm, hf0, hf1⟩ := shape16 (m := 35) rfl hN (by decide) d.isLt i.isLt
  refine decode_of_raw (hN ▸ rfl) hlt (not_tvcut hm (by decide)) ?_
  rw [raw35 hm]
  delta decodeMajor35
  simp only [fin_eq hf0, bits_eq hf1]

theorem RoundTrip.uandi (d : GReg) (a : GReg) (i : BitVec 14) : RoundTrip.Statement (.uandi d a i) := by
  obtain ⟨n, hN⟩ : ∃ n, n = 2415919104 + d.val * 1048576 + a.val * 16384 + i.toNat := ⟨_, rfl⟩
  obtain ⟨hlt, hm, hf0, hf1, hf2⟩ := shape15 (m := 36) rfl hN (by decide) d.isLt a.isLt i.isLt
  refine decode_of_raw (hN ▸ rfl) hlt (not_tvcut hm (by decide)) ?_
  rw [raw36 hm]
  delta decodeMajor36
  simp only [fin_eq hf0, fin_eq hf1, bits_eq hf2]

theorem RoundTrip.uori (d : GReg) (a : GReg) (i : BitVec 14) : RoundTrip.Statement (.uori d a i) := by
  obtain ⟨n, hN⟩ : ∃ n, n = 2483027968 + d.val * 1048576 + a.val * 16384 + i.toNat := ⟨_, rfl⟩
  obtain ⟨hlt, hm, hf0, hf1, hf2⟩ := shape15 (m := 37) rfl hN (by decide) d.isLt a.isLt i.isLt
  refine decode_of_raw (hN ▸ rfl) hlt (not_tvcut hm (by decide)) ?_
  rw [raw37 hm]
  delta decodeMajor37
  simp only [fin_eq hf0, fin_eq hf1, bits_eq hf2]

theorem RoundTrip.uxori (d : GReg) (a : GReg) (i : BitVec 14) : RoundTrip.Statement (.uxori d a i) := by
  obtain ⟨n, hN⟩ : ∃ n, n = 2550136832 + d.val * 1048576 + a.val * 16384 + i.toNat := ⟨_, rfl⟩
  obtain ⟨hlt, hm, hf0, hf1, hf2⟩ := shape15 (m := 38) rfl hN (by decide) d.isLt a.isLt i.isLt
  refine decode_of_raw (hN ▸ rfl) hlt (not_tvcut hm (by decide)) ?_
  rw [raw38 hm]
  delta decodeMajor38
  simp only [fin_eq hf0, fin_eq hf1, bits_eq hf2]

theorem RoundTrip.ushli (d : GReg) (a : GReg) (x : Fin 64) : RoundTrip.Statement (.ushli d a x) := by
  obtain ⟨n, hN⟩ : ∃ n, n = 2617245696 + d.val * 1048576 + a.val * 16384 + x.val := ⟨_, rfl⟩
  obtain ⟨hlt, hm, hf0, hf1, hf2, hc0⟩ := shape17 (m := 39) (c0 := 0) rfl hN (by decide) (by decide) d.isLt a.isLt x.isLt
  refine decode_of_raw (hN ▸ rfl) hlt (not_tvcut hm (by decide)) ?_
  rw [raw39 hm]
  delta decodeMajor39
  rw [if_pos hc0]
  simp only [fin_eq hf0, fin_eq hf1, fin_eq hf2]

theorem RoundTrip.br (c : BCond) (a : GReg) (o : BitVec 16) : RoundTrip.Statement (.br c a o) := by
  obtain ⟨n, hN⟩ : ∃ n, n = 2684354560 + c.code * 4194304 + a.val * 65536 + o.toNat := ⟨_, rfl⟩
  obtain ⟨hlt, hm, hf0, hf1, hf2⟩ := shape18 (m := 40) rfl hN (by decide) (BCond_code_lt c) a.isLt o.isLt
  refine decode_of_raw (hN ▸ rfl) hlt (not_tvcut hm (by decide)) ?_
  rw [raw40 hm]
  delta decodeMajor40
  simp only [hf0, BCond_code_of, Option.bind_some, fin_eq hf1, bits_eq hf2]

theorem RoundTrip.brd (k : KReg) (i : Fin 2) (o : BitVec 22) : RoundTrip.Statement (.brd k i o) := by
  obtain ⟨n, hN⟩ : ∃ n, n = 2751463424 + k.val * 8388608 + i.val * 4194304 + o.toNat := ⟨_, rfl⟩
  obtain ⟨hlt, hm, hf0, hf1, hf2⟩ := shape19 (m := 41) rfl hN (by decide) k.isLt i.isLt o.isLt
  refine decode_of_raw (hN ▸ rfl) hlt (not_tvcut hm (by decide)) ?_
  rw [raw41 hm]
  delta decodeMajor41
  simp only [fin_eq hf0, fin_eq hf1, bits_eq hf2]

theorem RoundTrip.call (o : BitVec 26) : RoundTrip.Statement (.call o) := by
  obtain ⟨n, hN⟩ : ∃ n, n = 2818572288 + o.toNat := ⟨_, rfl⟩
  obtain ⟨hlt, hm, hf0⟩ := shape20 (m := 42) rfl hN (by decide) o.isLt
  refine decode_of_raw (hN ▸ rfl) hlt (not_tvcut hm (by decide)) ?_
  rw [raw42 hm]
  delta decodeMajor42
  simp only [bits_eq hf0]

theorem RoundTrip.jmpi (a : GReg) : RoundTrip.Statement (.jmpi a) := by
  obtain ⟨n, hN⟩ : ∃ n, n = 2885681152 + a.val * 16384 := ⟨_, rfl⟩
  obtain ⟨hlt, hm, hf0, hc0, hc1⟩ := shape21 (m := 43) (c0 := 0) (c1 := 0) rfl hN (by decide) (by decide) (by decide) a.isLt
  refine decode_of_raw (hN ▸ rfl) hlt (not_tvcut hm (by decide)) ?_
  rw [raw43 hm]
  delta decodeMajor43
  rw [if_pos ⟨hc0, hc1⟩]
  simp only [fin_eq hf0]

theorem RoundTrip.calli (a : GReg) : RoundTrip.Statement (.calli a) := by
  obtain ⟨n, hN⟩ : ∃ n, n = 2885681153 + a.val * 16384 := ⟨_, rfl⟩
  obtain ⟨hlt, hm, hf0, hc0, hc1⟩ := shape21 (m := 43) (c0 := 1) (c1 := 0) rfl hN (by decide) (by decide) (by decide) a.isLt
  refine decode_of_raw (hN ▸ rfl) hlt (not_tvcut hm (by decide)) ?_
  rw [raw43 hm]
  delta decodeMajor43
  rw [if_neg (fun h => other_field hc0 rfl h.1), if_pos ⟨hc0, hc1⟩]
  simp only [fin_eq hf0]

theorem RoundTrip.ret : RoundTrip.Statement .ret := by
  obtain ⟨n, hN⟩ : ∃ n, n = 2885681154 := ⟨_, rfl⟩
  obtain ⟨hlt, hm, hc0⟩ := shape22 (m := 43) (c0 := 2) rfl hN (by decide) (by decide)
  refine decode_of_raw (hN ▸ rfl) hlt (not_tvcut hm (by decide)) ?_
  rw [raw43 hm]
  delta decodeMajor43
  rw [if_neg (by clear hlt; simp only [fld_eq]; omega), if_neg (by clear hlt; simp only [fld_eq]; omega), if_pos hc0]

theorem RoundTrip.nop (x : Fin 64) : RoundTrip.Statement (.nop x) := by
  obtain ⟨n, hN⟩ : ∃ n, n = 2952790016 + x.val * 256 := ⟨_, rfl⟩
  obtain ⟨hlt, hm, hf0, hc0, hc1⟩ := shape23 (m := 44) (c0 := 0) (c1 := 0) rfl hN (by decide) (by decide) (by decide) x.isLt
  refine decode_of_raw (hN ▸ rfl) hlt (not_tvcut hm (by decide)) ?_
  rw [raw44 hm]
  delta decodeMajor44
  rw [if_pos ⟨hc0, hc1⟩]
  simp only [fin_eq hf0]

theorem RoundTrip.exit : RoundTrip.Statement .exit := by
  obtain ⟨n, hN⟩ : ∃ n, n = 2952790017 := ⟨_, rfl⟩
  obtain ⟨hlt, hm, hc0⟩ := shape22 (m := 44) (c0 := 1) rfl hN (by decide) (by decide)
  refine decode_of_raw (hN ▸ rfl) hlt (not_tvcut hm (by decide)) ?_
  rw [raw44 hm]
  delta decodeMajor44
  rw [if_neg (by clear hlt; simp only [fld_eq]; omega), if_pos hc0]

theorem RoundTrip.trap (c : Fin 64) : RoundTrip.Statement (.trap c) := by
  obtain ⟨n, hN⟩ : ∃ n, n = 2952790018 + c.val * 256 := ⟨_, rfl⟩
  obtain ⟨hlt, hm, hf0, hc0, hc1⟩ := shape23 (m := 44) (c0 := 2) (c1 := 0) rfl hN (by decide) (by decide) (by decide) c.isLt
  refine decode_of_raw (hN ▸ rfl) hlt (not_tvcut hm (by decide)) ?_
  rw [raw44 hm]
  delta decodeMajor44
  rw [if_neg (fun h => other_field hc0 rfl h.1), if_neg (by clear hlt hf0; have hb0 := c.isLt; simp only [fld_eq]; omega), if_pos ⟨hc0, hc1⟩]
  simp only [fin_eq hf0]

theorem RoundTrip.rett : RoundTrip.Statement .rett := by
  obtain ⟨n, hN⟩ : ∃ n, n = 2952790019 := ⟨_, rfl⟩
  obtain ⟨hlt, hm, hc0⟩ := shape22 (m := 44) (c0 := 3) rfl hN (by decide) (by decide)
  refine decode_of_raw (hN ▸ rfl) hlt (not_tvcut hm (by decide)) ?_
  rw [raw44 hm]
  delta decodeMajor44
  rw [if_neg (by clear hlt; simp only [fld_eq]; omega), if_neg (other_field hc0 rfl), if_neg (by clear hlt; simp only [fld_eq]; omega), if_pos hc0]

theorem RoundTrip.brk : RoundTrip.Statement .brk := by
  obtain ⟨n, hN⟩ : ∃ n, n = 2952790020 := ⟨_, rfl⟩
  obtain ⟨hlt, hm, hc0⟩ := shape22 (m := 44) (c0 := 4) rfl hN (by decide) (by decide)
  refine decode_of_raw (hN ▸ rfl) hlt (not_tvcut hm (by decide)) ?_
  rw [raw44 hm]
  delta decodeMajor44
  rw [if_neg (by clear hlt; simp only [fld_eq]; omega), if_neg (other_field hc0 rfl), if_neg (by clear hlt; simp only [fld_eq]; omega), if_neg (other_field hc0 rfl), if_pos hc0]

theorem RoundTrip.yield : RoundTrip.Statement .yield := by
  obtain ⟨n, hN⟩ : ∃ n, n = 2952790021 := ⟨_, rfl⟩
  obtain ⟨hlt, hm, hc0⟩ := shape22 (m := 44) (c0 := 5) rfl hN (by decide) (by decide)
  refine decode_of_raw (hN ▸ rfl) hlt (not_tvcut hm (by decide)) ?_
  rw [raw44 hm]
  delta decodeMajor44
  rw [if_neg (by clear hlt; simp only [fld_eq]; omega), if_neg (other_field hc0 rfl), if_neg (by clear hlt; simp only [fld_eq]; omega), if_neg (other_field hc0 rfl), if_neg (other_field hc0 rfl), if_pos hc0]

theorem RoundTrip.pjoin (o : BitVec 26) : RoundTrip.Statement (.pjoin o) := by
  obtain ⟨n, hN⟩ : ∃ n, n = 3019898880 + o.toNat := ⟨_, rfl⟩
  obtain ⟨hlt, hm, hf0⟩ := shape20 (m := 45) rfl hN (by decide) o.isLt
  refine decode_of_raw (hN ▸ rfl) hlt (not_tvcut hm (by decide)) ?_
  rw [raw45 hm]
  delta decodeMajor45
  simp only [bits_eq hf0]

theorem RoundTrip.cfence (d : GReg) : RoundTrip.Statement (.cfence d) := by
  obtain ⟨n, hN⟩ : ∃ n, n = 3087007744 + d.val * 1048576 := ⟨_, rfl⟩
  obtain ⟨hlt, hm, hf0, hc0⟩ := shape24 (m := 46) (c0 := 0) rfl hN (by decide) (by decide) d.isLt
  refine decode_of_raw (hN ▸ rfl) hlt (not_tvcut hm (by decide)) ?_
  rw [raw46 hm]
  delta decodeMajor46
  rw [if_pos hc0]
  simp only [fin_eq hf0]

theorem RoundTrip.mfence (d : GReg) : RoundTrip.Statement (.mfence d) := by
  obtain ⟨n, hN⟩ : ∃ n, n = 3087007745 + d.val * 1048576 := ⟨_, rfl⟩
  obtain ⟨hlt, hm, hf0, hc0⟩ := shape24 (m := 46) (c0 := 1) rfl hN (by decide) (by decide) d.isLt
  refine decode_of_raw (hN ▸ rfl) hlt (not_tvcut hm (by decide)) ?_
  rw [raw46 hm]
  delta decodeMajor46
  rw [if_neg (other_field hc0 rfl), if_pos hc0]
  simp only [fin_eq hf0]

theorem RoundTrip.lfence (d : GReg) : RoundTrip.Statement (.lfence d) := by
  obtain ⟨n, hN⟩ : ∃ n, n = 3087007746 + d.val * 1048576 := ⟨_, rfl⟩
  obtain ⟨hlt, hm, hf0, hc0⟩ := shape24 (m := 46) (c0 := 2) rfl hN (by decide) (by decide) d.isLt
  refine decode_of_raw (hN ▸ rfl) hlt (not_tvcut hm (by decide)) ?_
  rw [raw46 hm]
  delta decodeMajor46
  rw [if_neg (other_field hc0 rfl), if_neg (other_field hc0 rfl), if_pos hc0]
  simp only [fin_eq hf0]

theorem RoundTrip.xfence (d : GReg) : RoundTrip.Statement (.xfence d) := by
  obtain ⟨n, hN⟩ : ∃ n, n = 3087007747 + d.val * 1048576 := ⟨_, rfl⟩
  obtain ⟨hlt, hm, hf0, hc0⟩ := shape24 (m := 46) (c0 := 3) rfl hN (by decide) (by decide) d.isLt
  refine decode_of_raw (hN ▸ rfl) hlt (not_tvcut hm (by decide)) ?_
  rw [raw46 hm]
  delta decodeMajor46
  rw [if_neg (other_field hc0 rfl), if_neg (other_field hc0 rfl), if_neg (other_field hc0 rfl), if_pos hc0]
  simp only [fin_eq hf0]

theorem RoundTrip.tfence (d : GReg) : RoundTrip.Statement (.tfence d) := by
  obtain ⟨n, hN⟩ : ∃ n, n = 3087007748 + d.val * 1048576 := ⟨_, rfl⟩
  obtain ⟨hlt, hm, hf0, hc0⟩ := shape24 (m := 46) (c0 := 4) rfl hN (by decide) (by decide) d.isLt
  refine decode_of_raw (hN ▸ rfl) hlt (not_tvcut hm (by decide)) ?_
  rw [raw46 hm]
  delta decodeMajor46
  rw [if_neg (other_field hc0 rfl), if_neg (other_field hc0 rfl), if_neg (other_field hc0 rfl), if_neg (other_field hc0 rfl), if_pos hc0]
  simp only [fin_eq hf0]

theorem RoundTrip.fenceAll (y : Scope) : RoundTrip.Statement (.fenceAll y) := by
  obtain ⟨n, hN⟩ : ∃ n, n = 3087007808 + y.code := ⟨_, rfl⟩
  obtain ⟨hlt, hm, hf0, hc0⟩ := shape25 (m := 46) (c0 := 8) rfl hN (by decide) (by decide) (Scope_code_lt y)
  refine decode_of_raw (hN ▸ rfl) hlt (not_tvcut hm (by decide)) ?_
  rw [raw46 hm]
  delta decodeMajor46
  rw [if_neg (by clear hlt hf0; have hb0 := (Scope_code_lt y); simp only [fld_eq]; omega), if_neg (by clear hlt hf0; have hb0 := (Scope_code_lt y); simp only [fld_eq]; omega), if_neg (by clear hlt hf0; have hb0 := (Scope_code_lt y); simp only [fld_eq]; omega), if_neg (by clear hlt hf0; have hb0 := (Scope_code_lt y); simp only [fld_eq]; omega), if_neg (by clear hlt hf0; have hb0 := (Scope_code_lt y); simp only [fld_eq]; omega), if_pos hc0]
  simp only [hf0, Scope_code_of, Option.bind_some]

theorem RoundTrip.fenceAcq (y : Scope) : RoundTrip.Statement (.fenceAcq y) := by
  obtain ⟨n, hN⟩ : ∃ n, n = 3087007816 + y.code := ⟨_, rfl⟩
  obtain ⟨hlt, hm, hf0, hc0⟩ := shape25 (m := 46) (c0 := 9) rfl hN (by decide) (by decide) (Scope_code_lt y)
  refine decode_of_raw (hN ▸ rfl) hlt (not_tvcut hm (by decide)) ?_
  rw [raw46 hm]
  delta decodeMajor46
  rw [if_neg (by clear hlt hf0; have hb0 := (Scope_code_lt y); simp only [fld_eq]; omega), if_neg (by clear hlt hf0; have hb0 := (Scope_code_lt y); simp only [fld_eq]; omega), if_neg (by clear hlt hf0; have hb0 := (Scope_code_lt y); simp only [fld_eq]; omega), if_neg (by clear hlt hf0; have hb0 := (Scope_code_lt y); simp only [fld_eq]; omega), if_neg (by clear hlt hf0; have hb0 := (Scope_code_lt y); simp only [fld_eq]; omega), if_neg (other_field hc0 rfl), if_pos hc0]
  simp only [hf0, Scope_code_of, Option.bind_some]

theorem RoundTrip.fenceRel (y : Scope) : RoundTrip.Statement (.fenceRel y) := by
  obtain ⟨n, hN⟩ : ∃ n, n = 3087007824 + y.code := ⟨_, rfl⟩
  obtain ⟨hlt, hm, hf0, hc0⟩ := shape25 (m := 46) (c0 := 10) rfl hN (by decide) (by decide) (Scope_code_lt y)
  refine decode_of_raw (hN ▸ rfl) hlt (not_tvcut hm (by decide)) ?_
  rw [raw46 hm]
  delta decodeMajor46
  rw [if_neg (by clear hlt hf0; have hb0 := (Scope_code_lt y); simp only [fld_eq]; omega), if_neg (by clear hlt hf0; have hb0 := (Scope_code_lt y); simp only [fld_eq]; omega), if_neg (by clear hlt hf0; have hb0 := (Scope_code_lt y); simp only [fld_eq]; omega), if_neg (by clear hlt hf0; have hb0 := (Scope_code_lt y); simp only [fld_eq]; omega), if_neg (by clear hlt hf0; have hb0 := (Scope_code_lt y); simp only [fld_eq]; omega), if_neg (other_field hc0 rfl), if_neg (other_field hc0 rfl), if_pos hc0]
  simp only [hf0, Scope_code_of, Option.bind_some]

theorem RoundTrip.waitGate (a : GReg) (g : Gate) : RoundTrip.Statement (.waitGate a g) := by
  obtain ⟨n, hN⟩ : ∃ n, n = 3154116608 + a.val * 16384 + g.code := ⟨_, rfl⟩
  obtain ⟨hlt, hm, hf0, hf1, hc0, hc1⟩ := shape26 (m := 47) (c0 := 0) (c1 := 0) rfl hN (by decide) (by decide) (by decide) a.isLt (Gate_code_lt g)
  refine decode_of_raw (hN ▸ rfl) hlt (not_tvcut hm (by decide)) ?_
  rw [raw47 hm]
  delta decodeMajor47
  rw [if_pos ⟨hc0, hc1⟩]
  simp only [fin_eq hf0, hf1, Gate_code_of, Option.bind_some]

theorem RoundTrip.waitObject (a : GReg) (b : GReg) : RoundTrip.Statement (.waitObject a b) := by
  obtain ⟨n, hN⟩ : ∃ n, n = 3154116616 + a.val * 16384 + b.val * 256 := ⟨_, rfl⟩
  obtain ⟨hlt, hm, hf0, hf1, hc0, hc1⟩ := shape27 (m := 47) (c0 := 8) (c1 := 0) rfl hN (by decide) (by decide) (by decide) a.isLt b.isLt
  refine decode_of_raw (hN ▸ rfl) hlt (not_tvcut hm (by decide)) ?_
  rw [raw47 hm]
  delta decodeMajor47
  rw [if_neg (by clear hlt hf0 hf1; have hb0 := a.isLt; have hb1 := b.isLt; simp only [fld_eq]; omega), if_pos ⟨hc0, hc1⟩]
  simp only [fin_eq hf0, fin_eq hf1]

theorem RoundTrip.arrive (a : GReg) : RoundTrip.Statement (.arrive a) := by
  obtain ⟨n, hN⟩ : ∃ n, n = 3221225472 + a.val * 16384 := ⟨_, rfl⟩
  obtain ⟨hlt, hm, hf0, hc0, hc1⟩ := shape21 (m := 48) (c0 := 0) (c1 := 0) rfl hN (by decide) (by decide) (by decide) a.isLt
  refine decode_of_raw (hN ▸ rfl) hlt (not_tvcut hm (by decide)) ?_
  rw [raw48 hm]
  delta decodeMajor48
  rw [if_pos ⟨hc0, hc1⟩]
  simp only [fin_eq hf0]

theorem RoundTrip.arriveExpect (a : GReg) (b : GReg) : RoundTrip.Statement (.arriveExpect a b) := by
  obtain ⟨n, hN⟩ : ∃ n, n = 3221225473 + a.val * 16384 + b.val * 256 := ⟨_, rfl⟩
  obtain ⟨hlt, hm, hf0, hf1, hc0, hc1⟩ := shape27 (m := 48) (c0 := 1) (c1 := 0) rfl hN (by decide) (by decide) (by decide) a.isLt b.isLt
  refine decode_of_raw (hN ▸ rfl) hlt (not_tvcut hm (by decide)) ?_
  rw [raw48 hm]
  delta decodeMajor48
  rw [if_neg (by clear hlt hf0 hf1; have hb0 := a.isLt; have hb1 := b.isLt; simp only [fld_eq]; omega), if_pos ⟨hc0, hc1⟩]
  simp only [fin_eq hf0, fin_eq hf1]

theorem RoundTrip.arriveDrop (a : GReg) : RoundTrip.Statement (.arriveDrop a) := by
  obtain ⟨n, hN⟩ : ∃ n, n = 3221225474 + a.val * 16384 := ⟨_, rfl⟩
  obtain ⟨hlt, hm, hf0, hc0, hc1⟩ := shape21 (m := 48) (c0 := 2) (c1 := 0) rfl hN (by decide) (by decide) (by decide) a.isLt
  refine decode_of_raw (hN ▸ rfl) hlt (not_tvcut hm (by decide)) ?_
  rw [raw48 hm]
  delta decodeMajor48
  rw [if_neg (fun h => other_field hc0 rfl h.1), if_neg (by clear hlt hf0; have hb0 := a.isLt; simp only [fld_eq]; omega), if_pos ⟨hc0, hc1⟩]
  simp only [fin_eq hf0]

theorem RoundTrip.binit (a : GReg) (b : GReg) : RoundTrip.Statement (.binit a b) := by
  obtain ⟨n, hN⟩ : ∃ n, n = 3221225475 + a.val * 16384 + b.val * 256 := ⟨_, rfl⟩
  obtain ⟨hlt, hm, hf0, hf1, hc0, hc1⟩ := shape27 (m := 48) (c0 := 3) (c1 := 0) rfl hN (by decide) (by decide) (by decide) a.isLt b.isLt
  refine decode_of_raw (hN ▸ rfl) hlt (not_tvcut hm (by decide)) ?_
  rw [raw48 hm]
  delta decodeMajor48
  rw [if_neg (by clear hlt hf0 hf1; have hb0 := a.isLt; have hb1 := b.isLt; simp only [fld_eq]; omega), if_neg (fun h => other_field hc0 rfl h.1), if_neg (by clear hlt hf0 hf1; have hb0 := a.isLt; have hb1 := b.isLt; simp only [fld_eq]; omega), if_pos ⟨hc0, hc1⟩]
  simp only [fin_eq hf0, fin_eq hf1]

theorem RoundTrip.uldS32 (d : GReg) (a : GReg) : RoundTrip.Statement (.uldS32 d a) := by
  obtain ⟨n, hN⟩ : ∃ n, n = 3288334336 + d.val * 1048576 + a.val * 16384 := ⟨_, rfl⟩
  obtain ⟨hlt, hm, hf0, hf1, hc0⟩ := shape14 (m := 49) (c0 := 0) rfl hN (by decide) (by decide) d.isLt a.isLt
  refine decode_of_raw (hN ▸ rfl) hlt (not_tvcut hm (by decide)) ?_
  rw [raw49 hm]
  delta decodeMajor49
  rw [if_pos hc0]
  simp only [fin_eq hf0, fin_eq hf1]

theorem RoundTrip.uldS64 (d : GReg) (a : GReg) : RoundTrip.Statement (.uldS64 d a) := by
  obtain ⟨n, hN⟩ : ∃ n, n = 3288334337 + d.val * 1048576 + a.val * 16384 := ⟨_, rfl⟩
  obtain ⟨hlt, hm, hf0, hf1, hc0⟩ := shape14 (m := 49) (c0 := 1) rfl hN (by decide) (by decide) d.isLt a.isLt
  refine decode_of_raw (hN ▸ rfl) hlt (not_tvcut hm (by decide)) ?_
  rw [raw49 hm]
  delta decodeMajor49
  rw [if_neg (other_field hc0 rfl), if_pos hc0]
  simp only [fin_eq hf0, fin_eq hf1]

theorem RoundTrip.uldG32 (d : GReg) (a : GReg) : RoundTrip.Statement (.uldG32 d a) := by
  obtain ⟨n, hN⟩ : ∃ n, n = 3288334338 + d.val * 1048576 + a.val * 16384 := ⟨_, rfl⟩
  obtain ⟨hlt, hm, hf0, hf1, hc0⟩ := shape14 (m := 49) (c0 := 2) rfl hN (by decide) (by decide) d.isLt a.isLt
  refine decode_of_raw (hN ▸ rfl) hlt (not_tvcut hm (by decide)) ?_
  rw [raw49 hm]
  delta decodeMajor49
  rw [if_neg (other_field hc0 rfl), if_neg (other_field hc0 rfl), if_pos hc0]
  simp only [fin_eq hf0, fin_eq hf1]

theorem RoundTrip.uldG64 (d : GReg) (a : GReg) : RoundTrip.Statement (.uldG64 d a) := by
  obtain ⟨n, hN⟩ : ∃ n, n = 3288334339 + d.val * 1048576 + a.val * 16384 := ⟨_, rfl⟩
  obtain ⟨hlt, hm, hf0, hf1, hc0⟩ := shape14 (m := 49) (c0 := 3) rfl hN (by decide) (by decide) d.isLt a.isLt
  refine decode_of_raw (hN ▸ rfl) hlt (not_tvcut hm (by decide)) ?_
  rw [raw49 hm]
  delta decodeMajor49
  rw [if_neg (other_field hc0 rfl), if_neg (other_field hc0 rfl), if_neg (other_field hc0 rfl), if_pos hc0]
  simp only [fin_eq hf0, fin_eq hf1]

theorem RoundTrip.uldGAdd (d : GReg) (a : GReg) (b : GReg) : RoundTrip.Statement (.uldGAdd d a b) := by
  obtain ⟨n, hN⟩ : ∃ n, n = 3288334344 + d.val * 1048576 + a.val * 16384 + b.val * 256 := ⟨_, rfl⟩
  obtain ⟨hlt, hm, hf0, hf1, hf2, hc0⟩ := shape13 (m := 49) (c0 := 8) rfl hN (by decide) (by decide) d.isLt a.isLt b.isLt
  refine decode_of_raw (hN ▸ rfl) hlt (not_tvcut hm (by decide)) ?_
  rw [raw49 hm]
  delta decodeMajor49
  rw [if_neg (by clear hlt hf0 hf1 hf2; have hb0 := d.isLt; have hb1 := a.isLt; have hb2 := b.isLt; simp only [fld_eq]; omega), if_neg (by clear hlt hf0 hf1 hf2; have hb0 := d.isLt; have hb1 := a.isLt; have hb2 := b.isLt; simp only [fld_eq]; omega), if_neg (by clear hlt hf0 hf1 hf2; have hb0 := d.isLt; have hb1 := a.isLt; have hb2 := b.isLt; simp only [fld_eq]; omega), if_neg (by clear hlt hf0 hf1 hf2; have hb0 := d.isLt; have hb1 := a.isLt; have hb2 := b.isLt; simp only [fld_eq]; omega), if_pos hc0]
  simp only [fin_eq hf0, fin_eq hf1, fin_eq hf2]

theorem RoundTrip.uldGExch (d : GReg) (a : GReg) (b : GReg) : RoundTrip.Statement (.uldGExch d a b) := by
  obtain ⟨n, hN⟩ : ∃ n, n = 3288334345 + d.val * 1048576 + a.val * 16384 + b.val * 256 := ⟨_, rfl⟩
  obtain ⟨hlt, hm, hf0, hf1, hf2, hc0⟩ := shape13 (m := 49) (c0 := 9) rfl hN (by decide) (by decide) d.isLt a.isLt b.isLt
  refine decode_of_raw (hN ▸ rfl) hlt (not_tvcut hm (by decide)) ?_
  rw [raw49 hm]
  delta decodeMajor49
  rw [if_neg (by clear hlt hf0 hf1 hf2; have hb0 := d.isLt; have hb1 := a.isLt; have hb2 := b.isLt; simp only [fld_eq]; omega), if_neg (by clear hlt hf0 hf1 hf2; have hb0 := d.isLt; have hb1 := a.isLt; have hb2 := b.isLt; simp only [fld_eq]; omega), if_neg (by clear hlt hf0 hf1 hf2; have hb0 := d.isLt; have hb1 := a.isLt; have hb2 := b.isLt; simp only [fld_eq]; omega), if_neg (by clear hlt hf0 hf1 hf2; have hb0 := d.isLt; have hb1 := a.isLt; have hb2 := b.isLt; simp only [fld_eq]; omega), if_neg (other_field hc0 rfl), if_pos hc0]
  simp only [fin_eq hf0, fin_eq hf1, fin_eq hf2]

theorem RoundTrip.uldGCas (d : GReg) (a : GReg) (b : GReg) : RoundTrip.Statement (.uldGCas d a b) := by
  obtain ⟨n, hN⟩ : ∃ n, n = 3288334346 + d.val * 1048576 + a.val * 16384 + b.val * 256 := ⟨_, rfl⟩
  obtain ⟨hlt, hm, hf0, hf1, hf2, hc0⟩ := shape13 (m := 49) (c0 := 10) rfl hN (by decide) (by decide) d.isLt a.isLt b.isLt
  refine decode_of_raw (hN ▸ rfl) hlt (not_tvcut hm (by decide)) ?_
  rw [raw49 hm]
  delta decodeMajor49
  rw [if_neg (by clear hlt hf0 hf1 hf2; have hb0 := d.isLt; have hb1 := a.isLt; have hb2 := b.isLt; simp only [fld_eq]; omega), if_neg (by clear hlt hf0 hf1 hf2; have hb0 := d.isLt; have hb1 := a.isLt; have hb2 := b.isLt; simp only [fld_eq]; omega), if_neg (by clear hlt hf0 hf1 hf2; have hb0 := d.isLt; have hb1 := a.isLt; have hb2 := b.isLt; simp only [fld_eq]; omega), if_neg (by clear hlt hf0 hf1 hf2; have hb0 := d.isLt; have hb1 := a.isLt; have hb2 := b.isLt; simp only [fld_eq]; omega), if_neg (other_field hc0 rfl), if_neg (other_field hc0 rfl), if_pos hc0]
  simp only [fin_eq hf0, fin_eq hf1, fin_eq hf2]

theorem RoundTrip.ustS32 (a : GReg) (b : GReg) : RoundTrip.Statement (.ustS32 a b) := by
  obtain ⟨n, hN⟩ : ∃ n, n = 3355443200 + a.val * 16384 + b.val * 256 := ⟨_, rfl⟩
  obtain ⟨hlt, hm, hf0, hf1, hc0, hc1⟩ := shape27 (m := 50) (c0 := 0) (c1 := 0) rfl hN (by decide) (by decide) (by decide) a.isLt b.isLt
  refine decode_of_raw (hN ▸ rfl) hlt (not_tvcut hm (by decide)) ?_
  rw [raw50 hm]
  delta decodeMajor50
  rw [if_pos ⟨hc0, hc1⟩]
  simp only [fin_eq hf0, fin_eq hf1]

theorem RoundTrip.ustS64 (a : GReg) (b : GReg) : RoundTrip.Statement (.ustS64 a b) := by
  obtain ⟨n, hN⟩ : ∃ n, n = 3355443201 + a.val * 16384 + b.val * 256 := ⟨_, rfl⟩
  obtain ⟨hlt, hm, hf0, hf1, hc0, hc1⟩ := shape27 (m := 50) (c0 := 1) (c1 := 0) rfl hN (by decide) (by decide) (by decide) a.isLt b.isLt
  refine decode_of_raw (hN ▸ rfl) hlt (not_tvcut hm (by decide)) ?_
  rw [raw50 hm]
  delta decodeMajor50
  rw [if_neg (fun h => other_field hc0 rfl h.1), if_pos ⟨hc0, hc1⟩]
  simp only [fin_eq hf0, fin_eq hf1]

theorem RoundTrip.ustG32 (a : GReg) (b : GReg) : RoundTrip.Statement (.ustG32 a b) := by
  obtain ⟨n, hN⟩ : ∃ n, n = 3355443202 + a.val * 16384 + b.val * 256 := ⟨_, rfl⟩
  obtain ⟨hlt, hm, hf0, hf1, hc0, hc1⟩ := shape27 (m := 50) (c0 := 2) (c1 := 0) rfl hN (by decide) (by decide) (by decide) a.isLt b.isLt
  refine decode_of_raw (hN ▸ rfl) hlt (not_tvcut hm (by decide)) ?_
  rw [raw50 hm]
  delta decodeMajor50
  rw [if_neg (fun h => other_field hc0 rfl h.1), if_neg (fun h => other_field hc0 rfl h.1), if_pos ⟨hc0, hc1⟩]
  simp only [fin_eq hf0, fin_eq hf1]

theorem RoundTrip.ustG64 (a : GReg) (b : GReg) : RoundTrip.Statement (.ustG64 a b) := by
  obtain ⟨n, hN⟩ : ∃ n, n = 3355443203 + a.val * 16384 + b.val * 256 := ⟨_, rfl⟩
  obtain ⟨hlt, hm, hf0, hf1, hc0, hc1⟩ := shape27 (m := 50) (c0 := 3) (c1 := 0) rfl hN (by decide) (by decide) (by decide) a.isLt b.isLt
  refine decode_of_raw (hN ▸ rfl) hlt (not_tvcut hm (by decide)) ?_
  rw [raw50 hm]
  delta decodeMajor50
  rw [if_neg (fun h => other_field hc0 rfl h.1), if_neg (fun h => other_field hc0 rfl h.1), if_neg (fun h => other_field hc0 rfl h.1), if_pos ⟨hc0, hc1⟩]
  simp only [fin_eq hf0, fin_eq hf1]

theorem RoundTrip.readlane (d : GReg) (v : VReg) (b : GReg) : RoundTrip.Statement (.readlane d v b) := by
  obtain ⟨n, hN⟩ : ∃ n, n = 3422552064 + d.val * 1048576 + v.val * 8192 + b.val * 128 := ⟨_, rfl⟩
  obtain ⟨hlt, hm, hf0, hf1, hf2, hc0⟩ := shape28 (m := 51) (c0 := 0) rfl hN (by decide) (by decide) d.isLt v.isLt b.isLt
  refine decode_of_raw (hN ▸ rfl) hlt (not_tvcut hm (by decide)) ?_
  rw [raw51 hm]
  delta decodeMajor51
  rw [if_pos hc0]
  simp only [fin_eq hf0, fin_eq hf1, fin_eq hf2]

theorem RoundTrip.readfirst (d : GReg) (v : VReg) : RoundTrip.Statement (.readfirst d v) := by
  obtain ⟨n, hN⟩ : ∃ n, n = 3422552065 + d.val * 1048576 + v.val * 8192 := ⟨_, rfl⟩
  obtain ⟨hlt, hm, hf0, hf1, hc0⟩ := shape29 (m := 51) (c0 := 1) rfl hN (by decide) (by decide) d.isLt v.isLt
  refine decode_of_raw (hN ▸ rfl) hlt (not_tvcut hm (by decide)) ?_
  rw [raw51 hm]
  delta decodeMajor51
  rw [if_neg (by clear hlt hf0 hf1; have hb0 := d.isLt; have hb1 := v.isLt; simp only [fld_eq]; omega), if_pos hc0]
  simp only [fin_eq hf0, fin_eq hf1]

theorem RoundTrip.voteAny (d : GReg) (v : VReg) : RoundTrip.Statement (.voteAny d v) := by
  obtain ⟨n, hN⟩ : ∃ n, n = 3422552066 + d.val * 1048576 + v.val * 8192 := ⟨_, rfl⟩
  obtain ⟨hlt, hm, hf0, hf1, hc0⟩ := shape29 (m := 51) (c0 := 2) rfl hN (by decide) (by decide) d.isLt v.isLt
  refine decode_of_raw (hN ▸ rfl) hlt (not_tvcut hm (by decide)) ?_
  rw [raw51 hm]
  delta decodeMajor51
  rw [if_neg (by clear hlt hf0 hf1; have hb0 := d.isLt; have hb1 := v.isLt; simp only [fld_eq]; omega), if_neg (other_field hc0 rfl), if_pos hc0]
  simp only [fin_eq hf0, fin_eq hf1]

theorem RoundTrip.voteAll (d : GReg) (v : VReg) : RoundTrip.Statement (.voteAll d v) := by
  obtain ⟨n, hN⟩ : ∃ n, n = 3422552067 + d.val * 1048576 + v.val * 8192 := ⟨_, rfl⟩
  obtain ⟨hlt, hm, hf0, hf1, hc0⟩ := shape29 (m := 51) (c0 := 3) rfl hN (by decide) (by decide) d.isLt v.isLt
  refine decode_of_raw (hN ▸ rfl) hlt (not_tvcut hm (by decide)) ?_
  rw [raw51 hm]
  delta decodeMajor51
  rw [if_neg (by clear hlt hf0 hf1; have hb0 := d.isLt; have hb1 := v.isLt; simp only [fld_eq]; omega), if_neg (other_field hc0 rfl), if_neg (other_field hc0 rfl), if_pos hc0]
  simp only [fin_eq hf0, fin_eq hf1]

theorem RoundTrip.ballot (d : GReg) (v : VReg) : RoundTrip.Statement (.ballot d v) := by
  obtain ⟨n, hN⟩ : ∃ n, n = 3422552068 + d.val * 1048576 + v.val * 8192 := ⟨_, rfl⟩
  obtain ⟨hlt, hm, hf0, hf1, hc0⟩ := shape29 (m := 51) (c0 := 4) rfl hN (by decide) (by decide) d.isLt v.isLt
  refine decode_of_raw (hN ▸ rfl) hlt (not_tvcut hm (by decide)) ?_
  rw [raw51 hm]
  delta decodeMajor51
  rw [if_neg (by clear hlt hf0 hf1; have hb0 := d.isLt; have hb1 := v.isLt; simp only [fld_eq]; omega), if_neg (other_field hc0 rfl), if_neg (other_field hc0 rfl), if_neg (other_field hc0 rfl), if_pos hc0]
  simp only [fin_eq hf0, fin_eq hf1]

theorem RoundTrip.umaskSet (d : KReg) (a : GReg) : RoundTrip.Statement (.umaskSet d a) := by
  obtain ⟨n, hN⟩ : ∃ n, n = 3489660928 + d.val * 1048576 + a.val * 16384 := ⟨_, rfl⟩
  obtain ⟨hlt, hm, hf0, hf1, hc0, hc1⟩ := shape30 (m := 52) (c0 := 0) (c1 := 0) rfl hN (by decide) (by decide) (by decide) d.isLt a.isLt
  refine decode_of_raw (hN ▸ rfl) hlt (not_tvcut hm (by decide)) ?_
  rw [raw52 hm]
  delta decodeMajor52
  rw [if_pos ⟨hc0, hc1⟩]
  simp only [fin_eq hf0, fin_eq hf1]

theorem RoundTrip.umaskGet (d : GReg) (a : KReg) : RoundTrip.Statement (.umaskGet d a) := by
  obtain ⟨n, hN⟩ : ∃ n, n = 3489660929 + d.val * 1048576 + a.val * 16384 := ⟨_, rfl⟩
  obtain ⟨hlt, hm, hf0, hf1, hc0, hc1⟩ := shape31 (m := 52) (c0 := 1) (c1 := 0) rfl hN (by decide) (by decide) (by decide) d.isLt a.isLt
  refine decode_of_raw (hN ▸ rfl) hlt (not_tvcut hm (by decide)) ?_
  rw [raw52 hm]
  delta decodeMajor52
  rw [if_neg (fun h => other_field hc0 rfl h.1), if_pos ⟨hc0, hc1⟩]
  simp only [fin_eq hf0, fin_eq hf1]

theorem RoundTrip.umaskAnd (d : KReg) (a : KReg) (b : KReg) : RoundTrip.Statement (.umaskAnd d a b) := by
  obtain ⟨n, hN⟩ : ∃ n, n = 3489660930 + d.val * 1048576 + a.val * 16384 + b.val * 256 := ⟨_, rfl⟩
  obtain ⟨hlt, hm, hf0, hf1, hf2, hc0, hc1, hc2, hc3⟩ := shape32 (m := 52) (c0 := 2) (c1 := 0) (c2 := 0) (c3 := 0) rfl hN (by decide) (by decide) (by decide) (by decide) (by decide) d.isLt a.isLt b.isLt
  refine decode_of_raw (hN ▸ rfl) hlt (not_tvcut hm (by decide)) ?_
  rw [raw52 hm]
  delta decodeMajor52
  rw [if_neg (by clear hlt hf0 hf1 hf2; have hb0 := d.isLt; have hb1 := a.isLt; have hb2 := b.isLt; simp only [fld_eq]; omega), if_neg (by clear hlt hf0 hf1 hf2; have hb0 := d.isLt; have hb1 := a.isLt; have hb2 := b.isLt; simp only [fld_eq]; omega), if_pos ⟨hc0, hc1, hc2, hc3⟩]
  simp only [fin_eq hf0, fin_eq hf1, fin_eq hf2]

theorem RoundTrip.umaskOr (d : KReg) (a : KReg) (b : KReg) : RoundTrip.Statement (.umaskOr d a b) := by
  obtain ⟨n, hN⟩ : ∃ n, n = 3489660931 + d.val * 1048576 + a.val * 16384 + b.val * 256 := ⟨_, rfl⟩
  obtain ⟨hlt, hm, hf0, hf1, hf2, hc0, hc1, hc2, hc3⟩ := shape32 (m := 52) (c0 := 3) (c1 := 0) (c2 := 0) (c3 := 0) rfl hN (by decide) (by decide) (by decide) (by decide) (by decide) d.isLt a.isLt b.isLt
  refine decode_of_raw (hN ▸ rfl) hlt (not_tvcut hm (by decide)) ?_
  rw [raw52 hm]
  delta decodeMajor52
  rw [if_neg (by clear hlt hf0 hf1 hf2; have hb0 := d.isLt; have hb1 := a.isLt; have hb2 := b.isLt; simp only [fld_eq]; omega), if_neg (by clear hlt hf0 hf1 hf2; have hb0 := d.isLt; have hb1 := a.isLt; have hb2 := b.isLt; simp only [fld_eq]; omega), if_neg (fun h => other_field hc0 rfl h.1), if_pos ⟨hc0, hc1, hc2, hc3⟩]
  simp only [fin_eq hf0, fin_eq hf1, fin_eq hf2]

theorem RoundTrip.umaskXor (d : KReg) (a : KReg) (b : KReg) : RoundTrip.Statement (.umaskXor d a b) := by
  obtain ⟨n, hN⟩ : ∃ n, n = 3489660932 + d.val * 1048576 + a.val * 16384 + b.val * 256 := ⟨_, rfl⟩
  obtain ⟨hlt, hm, hf0, hf1, hf2, hc0, hc1, hc2, hc3⟩ := shape32 (m := 52) (c0 := 4) (c1 := 0) (c2 := 0) (c3 := 0) rfl hN (by decide) (by decide) (by decide) (by decide) (by decide) d.isLt a.isLt b.isLt
  refine decode_of_raw (hN ▸ rfl) hlt (not_tvcut hm (by decide)) ?_
  rw [raw52 hm]
  delta decodeMajor52
  rw [if_neg (by clear hlt hf0 hf1 hf2; have hb0 := d.isLt; have hb1 := a.isLt; have hb2 := b.isLt; simp only [fld_eq]; omega), if_neg (by clear hlt hf0 hf1 hf2; have hb0 := d.isLt; have hb1 := a.isLt; have hb2 := b.isLt; simp only [fld_eq]; omega), if_neg (fun h => other_field hc0 rfl h.1), if_neg (fun h => other_field hc0 rfl h.1), if_pos ⟨hc0, hc1, hc2, hc3⟩]
  simp only [fin_eq hf0, fin_eq hf1, fin_eq hf2]

theorem RoundTrip.umaskAndn (d : KReg) (a : KReg) (b : KReg) : RoundTrip.Statement (.umaskAndn d a b) := by
  obtain ⟨n, hN⟩ : ∃ n, n = 3489660933 + d.val * 1048576 + a.val * 16384 + b.val * 256 := ⟨_, rfl⟩
  obtain ⟨hlt, hm, hf0, hf1, hf2, hc0, hc1, hc2, hc3⟩ := shape32 (m := 52) (c0 := 5) (c1 := 0) (c2 := 0) (c3 := 0) rfl hN (by decide) (by decide) (by decide) (by decide) (by decide) d.isLt a.isLt b.isLt
  refine decode_of_raw (hN ▸ rfl) hlt (not_tvcut hm (by decide)) ?_
  rw [raw52 hm]
  delta decodeMajor52
  rw [if_neg (by clear hlt hf0 hf1 hf2; have hb0 := d.isLt; have hb1 := a.isLt; have hb2 := b.isLt; simp only [fld_eq]; omega), if_neg (by clear hlt hf0 hf1 hf2; have hb0 := d.isLt; have hb1 := a.isLt; have hb2 := b.isLt; simp only [fld_eq]; omega), if_neg (fun h => other_field hc0 rfl h.1), if_neg (fun h => other_field hc0 rfl h.1), if_neg (fun h => other_field hc0 rfl h.1), if_pos ⟨hc0, hc1, hc2, hc3⟩]
  simp only [fin_eq hf0, fin_eq hf1, fin_eq hf2]

theorem RoundTrip.umaskNot (d : KReg) (a : KReg) : RoundTrip.Statement (.umaskNot d a) := by
  obtain ⟨n, hN⟩ : ∃ n, n = 3489660934 + d.val * 1048576 + a.val * 16384 := ⟨_, rfl⟩
  obtain ⟨hlt, hm, hf0, hf1, hc0, hc1, hc2⟩ := shape33 (m := 52) (c0 := 6) (c1 := 0) (c2 := 0) rfl hN (by decide) (by decide) (by decide) (by decide) d.isLt a.isLt
  refine decode_of_raw (hN ▸ rfl) hlt (not_tvcut hm (by decide)) ?_
  rw [raw52 hm]
  delta decodeMajor52
  rw [if_neg (fun h => other_field hc0 rfl h.1), if_neg (fun h => other_field hc0 rfl h.1), if_neg (by clear hlt hf0 hf1; have hb0 := d.isLt; have hb1 := a.isLt; simp only [fld_eq]; omega), if_neg (by clear hlt hf0 hf1; have hb0 := d.isLt; have hb1 := a.isLt; simp only [fld_eq]; omega), if_neg (by clear hlt hf0 hf1; have hb0 := d.isLt; have hb1 := a.isLt; simp only [fld_eq]; omega), if_neg (by clear hlt hf0 hf1; have hb0 := d.isLt; have hb1 := a.isLt; simp only [fld_eq]; omega), if_pos ⟨hc0, hc1, hc2⟩]
  simp only [fin_eq hf0, fin_eq hf1]

theorem RoundTrip.mload (a : GReg) (b : GReg) : RoundTrip.Statement (.mload a b) := by
  obtain ⟨n, hN⟩ : ∃ n, n = 3556769792 + a.val * 16384 + b.val * 256 := ⟨_, rfl⟩
  obtain ⟨hlt, hm, hf0, hf1, hc0, hc1⟩ := shape27 (m := 53) (c0 := 0) (c1 := 0) rfl hN (by decide) (by decide) (by decide) a.isLt b.isLt
  refine decode_of_raw (hN ▸ rfl) hlt (not_tvcut hm (by decide)) ?_
  rw [raw53 hm]
  delta decodeMajor53
  rw [if_pos ⟨hc0, hc1⟩]
  simp only [fin_eq hf0, fin_eq hf1]

theorem RoundTrip.mopen (d : GReg) (a : GReg) : RoundTrip.Statement (.mopen d a) := by
  obtain ⟨n, hN⟩ : ∃ n, n = 3556769793 + d.val * 1048576 + a.val * 16384 := ⟨_, rfl⟩
  obtain ⟨hlt, hm, hf0, hf1, hc0⟩ := shape14 (m := 53) (c0 := 1) rfl hN (by decide) (by decide) d.isLt a.isLt
  refine decode_of_raw (hN ▸ rfl) hlt (not_tvcut hm (by decide)) ?_
  rw [raw53 hm]
  delta decodeMajor53
  rw [if_neg (by clear hlt hf0 hf1; have hb0 := d.isLt; have hb1 := a.isLt; simp only [fld_eq]; omega), if_pos hc0]
  simp only [fin_eq hf0, fin_eq hf1]

theorem RoundTrip.mclose (a : GReg) : RoundTrip.Statement (.mclose a) := by
  obtain ⟨n, hN⟩ : ∃ n, n = 3556769794 + a.val * 16384 := ⟨_, rfl⟩
  obtain ⟨hlt, hm, hf0, hc0, hc1⟩ := shape21 (m := 53) (c0 := 2) (c1 := 0) rfl hN (by decide) (by decide) (by decide) a.isLt
  refine decode_of_raw (hN ▸ rfl) hlt (not_tvcut hm (by decide)) ?_
  rw [raw53 hm]
  delta decodeMajor53
  rw [if_neg (by clear hlt hf0; have hb0 := a.isLt; simp only [fld_eq]; omega), if_neg (other_field hc0 rfl), if_pos ⟨hc0, hc1⟩]
  simp only [fin_eq hf0]

theorem RoundTrip.epi (a : GReg) : RoundTrip.Statement (.epi a) := by
  obtain ⟨n, hN⟩ : ∃ n, n = 3556769795 + a.val * 16384 := ⟨_, rfl⟩
  obtain ⟨hlt, hm, hf0, hc0, hc1⟩ := shape21 (m := 53) (c0 := 3) (c1 := 0) rfl hN (by decide) (by decide) (by decide) a.isLt
  refine decode_of_raw (hN ▸ rfl) hlt (not_tvcut hm (by decide)) ?_
  rw [raw53 hm]
  delta decodeMajor53
  rw [if_neg (by clear hlt hf0; have hb0 := a.isLt; simp only [fld_eq]; omega), if_neg (other_field hc0 rfl), if_neg (fun h => other_field hc0 rfl h.1), if_pos ⟨hc0, hc1⟩]
  simp only [fin_eq hf0]

theorem RoundTrip.amovLd (a : GReg) (b : GReg) : RoundTrip.Statement (.amovLd a b) := by
  obtain ⟨n, hN⟩ : ∃ n, n = 3556769796 + a.val * 16384 + b.val * 256 := ⟨_, rfl⟩
  obtain ⟨hlt, hm, hf0, hf1, hc0, hc1⟩ := shape27 (m := 53) (c0 := 4) (c1 := 0) rfl hN (by decide) (by decide) (by decide) a.isLt b.isLt
  refine decode_of_raw (hN ▸ rfl) hlt (not_tvcut hm (by decide)) ?_
  rw [raw53 hm]
  delta decodeMajor53
  rw [if_neg (fun h => other_field hc0 rfl h.1), if_neg (by clear hlt hf0 hf1; have hb0 := a.isLt; have hb1 := b.isLt; simp only [fld_eq]; omega), if_neg (by clear hlt hf0 hf1; have hb0 := a.isLt; have hb1 := b.isLt; simp only [fld_eq]; omega), if_neg (by clear hlt hf0 hf1; have hb0 := a.isLt; have hb1 := b.isLt; simp only [fld_eq]; omega), if_pos ⟨hc0, hc1⟩]
  simp only [fin_eq hf0, fin_eq hf1]

theorem RoundTrip.amovSt (a : GReg) (b : GReg) : RoundTrip.Statement (.amovSt a b) := by
  obtain ⟨n, hN⟩ : ∃ n, n = 3556769797 + a.val * 16384 + b.val * 256 := ⟨_, rfl⟩
  obtain ⟨hlt, hm, hf0, hf1, hc0, hc1⟩ := shape27 (m := 53) (c0 := 5) (c1 := 0) rfl hN (by decide) (by decide) (by decide) a.isLt b.isLt
  refine decode_of_raw (hN ▸ rfl) hlt (not_tvcut hm (by decide)) ?_
  rw [raw53 hm]
  delta decodeMajor53
  rw [if_neg (fun h => other_field hc0 rfl h.1), if_neg (by clear hlt hf0 hf1; have hb0 := a.isLt; have hb1 := b.isLt; simp only [fld_eq]; omega), if_neg (by clear hlt hf0 hf1; have hb0 := a.isLt; have hb1 := b.isLt; simp only [fld_eq]; omega), if_neg (by clear hlt hf0 hf1; have hb0 := a.isLt; have hb1 := b.isLt; simp only [fld_eq]; omega), if_neg (fun h => other_field hc0 rfl h.1), if_pos ⟨hc0, hc1⟩]
  simp only [fin_eq hf0, fin_eq hf1]

theorem RoundTrip.mstat (d : GReg) : RoundTrip.Statement (.mstat d) := by
  obtain ⟨n, hN⟩ : ∃ n, n = 3556769798 + d.val * 1048576 := ⟨_, rfl⟩
  obtain ⟨hlt, hm, hf0, hc0⟩ := shape24 (m := 53) (c0 := 6) rfl hN (by decide) (by decide) d.isLt
  refine decode_of_raw (hN ▸ rfl) hlt (not_tvcut hm (by decide)) ?_
  rw [raw53 hm]
  delta decodeMajor53
  rw [if_neg (by clear hlt hf0; have hb0 := d.isLt; simp only [fld_eq]; omega), if_neg (by clear hlt hf0; have hb0 := d.isLt; simp only [fld_eq]; omega), if_neg (by clear hlt hf0; have hb0 := d.isLt; simp only [fld_eq]; omega), if_neg (by clear hlt hf0; have hb0 := d.isLt; simp only [fld_eq]; omega), if_neg (by clear hlt hf0; have hb0 := d.isLt; simp only [fld_eq]; omega), if_neg (by clear hlt hf0; have hb0 := d.isLt; simp only [fld_eq]; omega), if_pos hc0]
  simp only [fin_eq hf0]

theorem RoundTrip.ginfo (d : GReg) (a : GReg) (b : GReg) : RoundTrip.Statement (.ginfo d a b) := by
  obtain ⟨n, hN⟩ : ∃ n, n = 3623878656 + d.val * 1048576 + a.val * 16384 + b.val * 256 := ⟨_, rfl⟩
  obtain ⟨hlt, hm, hf0, hf1, hf2, hc0⟩ := shape13 (m := 54) (c0 := 0) rfl hN (by decide) (by decide) d.isLt a.isLt b.isLt
  refine decode_of_raw (hN ▸ rfl) hlt (not_tvcut hm (by decide)) ?_
  rw [raw54 hm]
  delta decodeMajor54
  rw [if_pos hc0]
  simp only [fin_eq hf0, fin_eq hf1, fin_eq hf2]

theorem RoundTrip.gbind (d : GReg) (a : GReg) (b : GReg) : RoundTrip.Statement (.gbind d a b) := by
  obtain ⟨n, hN⟩ : ∃ n, n = 3623878657 + d.val * 1048576 + a.val * 16384 + b.val * 256 := ⟨_, rfl⟩
  obtain ⟨hlt, hm, hf0, hf1, hf2, hc0⟩ := shape13 (m := 54) (c0 := 1) rfl hN (by decide) (by decide) d.isLt a.isLt b.isLt
  refine decode_of_raw (hN ▸ rfl) hlt (not_tvcut hm (by decide)) ?_
  rw [raw54 hm]
  delta decodeMajor54
  rw [if_neg (other_field hc0 rfl), if_pos hc0]
  simp only [fin_eq hf0, fin_eq hf1, fin_eq hf2]

theorem RoundTrip.xbind (d : GReg) (a : GReg) (b : GReg) : RoundTrip.Statement (.xbind d a b) := by
  obtain ⟨n, hN⟩ : ∃ n, n = 3690987520 + d.val * 1048576 + a.val * 16384 + b.val * 256 := ⟨_, rfl⟩
  obtain ⟨hlt, hm, hf0, hf1, hf2, hc0⟩ := shape13 (m := 55) (c0 := 0) rfl hN (by decide) (by decide) d.isLt a.isLt b.isLt
  refine decode_of_raw (hN ▸ rfl) hlt (not_tvcut hm (by decide)) ?_
  rw [raw55 hm]
  delta decodeMajor55
  rw [if_pos hc0]
  simp only [fin_eq hf0, fin_eq hf1, fin_eq hf2]

theorem RoundTrip.xpermit (a : GReg) : RoundTrip.Statement (.xpermit a) := by
  obtain ⟨n, hN⟩ : ∃ n, n = 3690987521 + a.val * 16384 := ⟨_, rfl⟩
  obtain ⟨hlt, hm, hf0, hc0, hc1⟩ := shape21 (m := 55) (c0 := 1) (c1 := 0) rfl hN (by decide) (by decide) (by decide) a.isLt
  refine decode_of_raw (hN ▸ rfl) hlt (not_tvcut hm (by decide)) ?_
  rw [raw55 hm]
  delta decodeMajor55
  rw [if_neg (by clear hlt hf0; have hb0 := a.isLt; simp only [fld_eq]; omega), if_pos ⟨hc0, hc1⟩]
  simp only [fin_eq hf0]

theorem RoundTrip.xsend (d : GReg) (a : GReg) (b : GReg) : RoundTrip.Statement (.xsend d a b) := by
  obtain ⟨n, hN⟩ : ∃ n, n = 3690987522 + d.val * 1048576 + a.val * 16384 + b.val * 256 := ⟨_, rfl⟩
  obtain ⟨hlt, hm, hf0, hf1, hf2, hc0⟩ := shape13 (m := 55) (c0 := 2) rfl hN (by decide) (by decide) d.isLt a.isLt b.isLt
  refine decode_of_raw (hN ▸ rfl) hlt (not_tvcut hm (by decide)) ?_
  rw [raw55 hm]
  delta decodeMajor55
  rw [if_neg (other_field hc0 rfl), if_neg (by clear hlt hf0 hf1 hf2; have hb0 := d.isLt; have hb1 := a.isLt; have hb2 := b.isLt; simp only [fld_eq]; omega), if_pos hc0]
  simp only [fin_eq hf0, fin_eq hf1, fin_eq hf2]

theorem RoundTrip.xstat (d : GReg) (a : GReg) : RoundTrip.Statement (.xstat d a) := by
  obtain ⟨n, hN⟩ : ∃ n, n = 3690987523 + d.val * 1048576 + a.val * 16384 := ⟨_, rfl⟩
  obtain ⟨hlt, hm, hf0, hf1, hc0⟩ := shape14 (m := 55) (c0 := 3) rfl hN (by decide) (by decide) d.isLt a.isLt
  refine decode_of_raw (hN ▸ rfl) hlt (not_tvcut hm (by decide)) ?_
  rw [raw55 hm]
  delta decodeMajor55
  rw [if_neg (by clear hlt hf0 hf1; have hb0 := d.isLt; have hb1 := a.isLt; simp only [fld_eq]; omega), if_neg (fun h => other_field hc0 rfl h.1), if_neg (by clear hlt hf0 hf1; have hb0 := d.isLt; have hb1 := a.isLt; simp only [fld_eq]; omega), if_pos hc0]
  simp only [fin_eq hf0, fin_eq hf1]

theorem RoundTrip.fbulk (d : GReg) (a : Fin 16) : RoundTrip.Statement (.fbulk d a) := by
  obtain ⟨n, hN⟩ : ∃ n, n = 3758096384 + d.val * 1048576 + a.val * 65536 := ⟨_, rfl⟩
  obtain ⟨hlt, hm, hf0, hf1, hc0⟩ := shape34 (m := 56) (c0 := 0) rfl hN (by decide) (by decide) d.isLt a.isLt
  refine decode_of_raw (hN ▸ rfl) hlt (not_tvcut hm (by decide)) ?_
  rw [raw56 hm]
  delta decodeMajor56
  rw [if_pos hc0]
  simp only [fin_eq hf0, fin_eq hf1]

theorem RoundTrip.fstat (d : GReg) (a : GReg) : RoundTrip.Statement (.fstat d a) := by
  obtain ⟨n, hN⟩ : ∃ n, n = 3758096385 + d.val * 1048576 + a.val * 16384 := ⟨_, rfl⟩
  obtain ⟨hlt, hm, hf0, hf1, hc0⟩ := shape14 (m := 56) (c0 := 1) rfl hN (by decide) (by decide) d.isLt a.isLt
  refine decode_of_raw (hN ▸ rfl) hlt (not_tvcut hm (by decide)) ?_
  rw [raw56 hm]
  delta decodeMajor56
  rw [if_neg (by clear hlt hf0 hf1; have hb0 := d.isLt; have hb1 := a.isLt; simp only [fld_eq]; omega), if_pos hc0]
  simp only [fin_eq hf0, fin_eq hf1]

theorem RoundTrip.vcost (d : GReg) (a : GReg) (b : GReg) : RoundTrip.Statement (.vcost d a b) := by
  obtain ⟨n, hN⟩ : ∃ n, n = 3825205248 + d.val * 1048576 + a.val * 16384 + b.val * 256 := ⟨_, rfl⟩
  obtain ⟨hlt, hm, hf0, hf1, hf2, hc0⟩ := shape13 (m := 57) (c0 := 0) rfl hN (by decide) (by decide) d.isLt a.isLt b.isLt
  refine decode_of_raw (hN ▸ rfl) hlt (not_tvcut hm (by decide)) ?_
  rw [raw57 hm]
  delta decodeMajor57
  rw [if_pos hc0]
  simp only [fin_eq hf0, fin_eq hf1, fin_eq hf2]

theorem RoundTrip.vtest (d : GReg) (a : GReg) (b : GReg) : RoundTrip.Statement (.vtest d a b) := by
  obtain ⟨n, hN⟩ : ∃ n, n = 3825205249 + d.val * 1048576 + a.val * 16384 + b.val * 256 := ⟨_, rfl⟩
  obtain ⟨hlt, hm, hf0, hf1, hf2, hc0⟩ := shape13 (m := 57) (c0 := 1) rfl hN (by decide) (by decide) d.isLt a.isLt b.isLt
  refine decode_of_raw (hN ▸ rfl) hlt (not_tvcut hm (by decide)) ?_
  rw [raw57 hm]
  delta decodeMajor57
  rw [if_neg (other_field hc0 rfl), if_pos hc0]
  simp only [fin_eq hf0, fin_eq hf1, fin_eq hf2]

theorem RoundTrip.umovs (d : GReg) (r : Fin 64) : RoundTrip.Statement (.umovs d r) := by
  obtain ⟨n, hN⟩ : ∃ n, n = 3892314112 + d.val * 1048576 + r.val * 256 := ⟨_, rfl⟩
  obtain ⟨hlt, hm, hf0, hf1, hc0, hc1⟩ := shape35 (m := 58) (c0 := 0) (c1 := 0) rfl hN (by decide) (by decide) (by decide) d.isLt r.isLt
  refine decode_of_raw (hN ▸ rfl) hlt (not_tvcut hm (by decide)) ?_
  rw [raw58 hm]
  delta decodeMajor58
  rw [if_pos ⟨hc0, hc1⟩]
  simp only [fin_eq hf0, fin_eq hf1]

theorem RoundTrip.umovt (a : GReg) (r : Fin 64) : RoundTrip.Statement (.umovt a r) := by
  obtain ⟨n, hN⟩ : ∃ n, n = 3892314113 + a.val * 16384 + r.val * 256 := ⟨_, rfl⟩
  obtain ⟨hlt, hm, hf0, hf1, hc0, hc1⟩ := shape27 (m := 58) (c0 := 1) (c1 := 0) rfl hN (by decide) (by decide) (by decide) a.isLt r.isLt
  refine decode_of_raw (hN ▸ rfl) hlt (not_tvcut hm (by decide)) ?_
  rw [raw58 hm]
  delta decodeMajor58
  rw [if_neg (fun h => other_field hc0 rfl h.1), if_pos ⟨hc0, hc1⟩]
  simp only [fin_eq hf0, fin_eq hf1]

theorem RoundTrip.event (a : GReg) (b : GReg) : RoundTrip.Statement (.event a b) := by
  obtain ⟨n, hN⟩ : ∃ n, n = 3892314114 + a.val * 16384 + b.val * 256 := ⟨_, rfl⟩
  obtain ⟨hlt, hm, hf0, hf1, hc0, hc1⟩ := shape27 (m := 58) (c0 := 2) (c1 := 0) rfl hN (by decide) (by decide) (by decide) a.isLt b.isLt
  refine decode_of_raw (hN ▸ rfl) hlt (not_tvcut hm (by decide)) ?_
  rw [raw58 hm]
  delta decodeMajor58
  rw [if_neg (fun h => other_field hc0 rfl h.1), if_neg (fun h => other_field hc0 rfl h.1), if_pos ⟨hc0, hc1⟩]
  simp only [fin_eq hf0, fin_eq hf1]

theorem RoundTrip.tmark : RoundTrip.Statement .tmark := by
  obtain ⟨n, hN⟩ : ∃ n, n = 3892314115 := ⟨_, rfl⟩
  obtain ⟨hlt, hm, hc0⟩ := shape22 (m := 58) (c0 := 3) rfl hN (by decide) (by decide)
  refine decode_of_raw (hN ▸ rfl) hlt (not_tvcut hm (by decide)) ?_
  rw [raw58 hm]
  delta decodeMajor58
  rw [if_neg (by clear hlt; simp only [fld_eq]; omega), if_neg (by clear hlt; simp only [fld_eq]; omega), if_neg (by clear hlt; simp only [fld_eq]; omega), if_pos hc0]

theorem RoundTrip.dispatch (d : GReg) (a : GReg) : RoundTrip.Statement (.dispatch d a) := by
  obtain ⟨n, hN⟩ : ∃ n, n = 3959422976 + d.val * 1048576 + a.val * 16384 := ⟨_, rfl⟩
  obtain ⟨hlt, hm, hf0, hf1, hc0⟩ := shape14 (m := 59) (c0 := 0) rfl hN (by decide) (by decide) d.isLt a.isLt
  refine decode_of_raw (hN ▸ rfl) hlt (not_tvcut hm (by decide)) ?_
  rw [raw59 hm]
  delta decodeMajor59
  rw [if_pos hc0]
  simp only [fin_eq hf0, fin_eq hf1]

theorem RoundTrip.lease (d : GReg) (a : GReg) : RoundTrip.Statement (.lease d a) := by
  obtain ⟨n, hN⟩ : ∃ n, n = 3959422977 + d.val * 1048576 + a.val * 16384 := ⟨_, rfl⟩
  obtain ⟨hlt, hm, hf0, hf1, hc0⟩ := shape14 (m := 59) (c0 := 1) rfl hN (by decide) (by decide) d.isLt a.isLt
  refine decode_of_raw (hN ▸ rfl) hlt (not_tvcut hm (by decide)) ?_
  rw [raw59 hm]
  delta decodeMajor59
  rw [if_neg (other_field hc0 rfl), if_pos hc0]
  simp only [fin_eq hf0, fin_eq hf1]

theorem RoundTrip.carve (d : GReg) (a : GReg) (b : GReg) : RoundTrip.Statement (.carve d a b) := by
  obtain ⟨n, hN⟩ : ∃ n, n = 3959422978 + d.val * 1048576 + a.val * 16384 + b.val * 256 := ⟨_, rfl⟩
  obtain ⟨hlt, hm, hf0, hf1, hf2, hc0⟩ := shape13 (m := 59) (c0 := 2) rfl hN (by decide) (by decide) d.isLt a.isLt b.isLt
  refine decode_of_raw (hN ▸ rfl) hlt (not_tvcut hm (by decide)) ?_
  rw [raw59 hm]
  delta decodeMajor59
  rw [if_neg (by clear hlt hf0 hf1 hf2; have hb0 := d.isLt; have hb1 := a.isLt; have hb2 := b.isLt; simp only [fld_eq]; omega), if_neg (by clear hlt hf0 hf1 hf2; have hb0 := d.isLt; have hb1 := a.isLt; have hb2 := b.isLt; simp only [fld_eq]; omega), if_pos hc0]
  simp only [fin_eq hf0, fin_eq hf1, fin_eq hf2]

theorem RoundTrip.ctxsave (d : GReg) (a : GReg) (b : GReg) : RoundTrip.Statement (.ctxsave d a b) := by
  obtain ⟨n, hN⟩ : ∃ n, n = 3959422979 + d.val * 1048576 + a.val * 16384 + b.val * 256 := ⟨_, rfl⟩
  obtain ⟨hlt, hm, hf0, hf1, hf2, hc0⟩ := shape13 (m := 59) (c0 := 3) rfl hN (by decide) (by decide) d.isLt a.isLt b.isLt
  refine decode_of_raw (hN ▸ rfl) hlt (not_tvcut hm (by decide)) ?_
  rw [raw59 hm]
  delta decodeMajor59
  rw [if_neg (by clear hlt hf0 hf1 hf2; have hb0 := d.isLt; have hb1 := a.isLt; have hb2 := b.isLt; simp only [fld_eq]; omega), if_neg (by clear hlt hf0 hf1 hf2; have hb0 := d.isLt; have hb1 := a.isLt; have hb2 := b.isLt; simp only [fld_eq]; omega), if_neg (other_field hc0 rfl), if_pos hc0]
  simp only [fin_eq hf0, fin_eq hf1, fin_eq hf2]

theorem RoundTrip.ctxload (d : GReg) (a : GReg) (b : GReg) : RoundTrip.Statement (.ctxload d a b) := by
  obtain ⟨n, hN⟩ : ∃ n, n = 3959422980 + d.val * 1048576 + a.val * 16384 + b.val * 256 := ⟨_, rfl⟩
  obtain ⟨hlt, hm, hf0, hf1, hf2, hc0⟩ := shape13 (m := 59) (c0 := 4) rfl hN (by decide) (by decide) d.isLt a.isLt b.isLt
  refine decode_of_raw (hN ▸ rfl) hlt (not_tvcut hm (by decide)) ?_
  rw [raw59 hm]
  delta decodeMajor59
  rw [if_neg (by clear hlt hf0 hf1 hf2; have hb0 := d.isLt; have hb1 := a.isLt; have hb2 := b.isLt; simp only [fld_eq]; omega), if_neg (by clear hlt hf0 hf1 hf2; have hb0 := d.isLt; have hb1 := a.isLt; have hb2 := b.isLt; simp only [fld_eq]; omega), if_neg (other_field hc0 rfl), if_neg (other_field hc0 rfl), if_pos hc0]
  simp only [fin_eq hf0, fin_eq hf1, fin_eq hf2]

theorem RoundTrip.tlbinv (a : GReg) (b : GReg) : RoundTrip.Statement (.tlbinv a b) := by
  obtain ⟨n, hN⟩ : ∃ n, n = 3959422981 + a.val * 16384 + b.val * 256 := ⟨_, rfl⟩
  obtain ⟨hlt, hm, hf0, hf1, hc0, hc1⟩ := shape27 (m := 59) (c0 := 5) (c1 := 0) rfl hN (by decide) (by decide) (by decide) a.isLt b.isLt
  refine decode_of_raw (hN ▸ rfl) hlt (not_tvcut hm (by decide)) ?_
  rw [raw59 hm]
  delta decodeMajor59
  rw [if_neg (by clear hlt hf0 hf1; have hb0 := a.isLt; have hb1 := b.isLt; simp only [fld_eq]; omega), if_neg (by clear hlt hf0 hf1; have hb0 := a.isLt; have hb1 := b.isLt; simp only [fld_eq]; omega), if_neg (other_field hc0 rfl), if_neg (other_field hc0 rfl), if_neg (other_field hc0 rfl), if_pos ⟨hc0, hc1⟩]
  simp only [fin_eq hf0, fin_eq hf1]

theorem RoundTrip.keyset (d : GReg) (a : GReg) (b : GReg) : RoundTrip.Statement (.keyset d a b) := by
  obtain ⟨n, hN⟩ : ∃ n, n = 3959422982 + d.val * 1048576 + a.val * 16384 + b.val * 256 := ⟨_, rfl⟩
  obtain ⟨hlt, hm, hf0, hf1, hf2, hc0⟩ := shape13 (m := 59) (c0 := 6) rfl hN (by decide) (by decide) d.isLt a.isLt b.isLt
  refine decode_of_raw (hN ▸ rfl) hlt (not_tvcut hm (by decide)) ?_
  rw [raw59 hm]
  delta decodeMajor59
  rw [if_neg (by clear hlt hf0 hf1 hf2; have hb0 := d.isLt; have hb1 := a.isLt; have hb2 := b.isLt; simp only [fld_eq]; omega), if_neg (by clear hlt hf0 hf1 hf2; have hb0 := d.isLt; have hb1 := a.isLt; have hb2 := b.isLt; simp only [fld_eq]; omega), if_neg (other_field hc0 rfl), if_neg (other_field hc0 rfl), if_neg (other_field hc0 rfl), if_neg (fun h => other_field hc0 rfl h.1), if_pos hc0]
  simp only [fin_eq hf0, fin_eq hf1, fin_eq hf2]

theorem RoundTrip.splitPark (core : Nat) (slot : Nat) (split : Nat) : RoundTrip.Statement (.splitPark core slot split) := no_word rfl

theorem RoundTrip.stackFill (core : Nat) (slot : Nat) : RoundTrip.Statement (.stackFill core slot) := no_word rfl

theorem RoundTrip.yieldExpiry (core : Nat) (slot : Nat) (split : Nat) : RoundTrip.Statement (.yieldExpiry core slot split) := no_word rfl

theorem RoundTrip.scratchResult (core : Nat) (slot : Nat) (x : Nat) : RoundTrip.Statement (.scratchResult core slot x) := no_word rfl

theorem RoundTrip.takeValue (core : Nat) (slot : Nat) (piece : Nat) : RoundTrip.Statement (.takeValue core slot piece) := no_word rfl

theorem RoundTrip.leave (core : Nat) (slot : Nat) : RoundTrip.Statement (.leave core slot) := no_word rfl

theorem RoundTrip.propagationArrive (x : Nat) : RoundTrip.Statement (.propagationArrive x) := no_word rfl

theorem RoundTrip.drop (core : Nat) (line : Nat) : RoundTrip.Statement (.drop core line) := no_word rfl

theorem RoundTrip.atomicStep (core : Nat) (slot : Nat) : RoundTrip.Statement (.atomicStep core slot) := no_word rfl

theorem RoundTrip.engineAccess (op : Nat) (x : Nat) : RoundTrip.Statement (.engineAccess op x) := no_word rfl

theorem RoundTrip.faultResponseDoorbell (func : Nat) (ctx : Nat) (w : (BitVec 64)) : RoundTrip.Statement (.faultResponseDoorbell func ctx w) := no_word rfl

theorem RoundTrip.faultAnswerFirmware (ctx : Nat) (record : Nat) (fail : Bool) : RoundTrip.Statement (.faultAnswerFirmware ctx record fail) := no_word rfl

theorem RoundTrip.replicaStamp (x : Nat) : RoundTrip.Statement (.replicaStamp x) := no_word rfl

theorem RoundTrip.replicaApply (ctx : Nat) (rset : Nat) (die : Nat) : RoundTrip.Statement (.replicaApply ctx rset die) := no_word rfl

theorem RoundTrip.mstreamPassRun (core : Nat) (x : Nat) : RoundTrip.Statement (.mstreamPassRun core x) := no_word rfl

theorem RoundTrip.mloadRun (core : Nat) (x : Nat) : RoundTrip.Statement (.mloadRun core x) := no_word rfl

theorem RoundTrip.slotZeroing (core : Nat) (x : Nat) : RoundTrip.Statement (.slotZeroing core x) := no_word rfl

theorem RoundTrip.epiRun (core : Nat) (x : Nat) : RoundTrip.Statement (.epiRun core x) := no_word rfl

theorem RoundTrip.amovRun (core : Nat) (x : Nat) : RoundTrip.Statement (.amovRun core x) := no_word rfl

theorem RoundTrip.tceLanding (op : Nat) : RoundTrip.Statement (.tceLanding op) := no_word rfl

theorem RoundTrip.tcopyComplete (op : Nat) : RoundTrip.Statement (.tcopyComplete op) := no_word rfl

theorem RoundTrip.walkVisit (op : Nat) (lane : Nat) : RoundTrip.Statement (.walkVisit op lane) := no_word rfl

theorem RoundTrip.serviceGroupForm (core : Nat) (block : Nat) : RoundTrip.Statement (.serviceGroupForm core block) := no_word rfl

theorem RoundTrip.serviceGroupTimeout (core : Nat) (block : Nat) : RoundTrip.Statement (.serviceGroupTimeout core block) := no_word rfl

theorem RoundTrip.routineReturn (core : Nat) (block : Nat) : RoundTrip.Statement (.routineReturn core block) := no_word rfl

theorem RoundTrip.tvcutComplete (op : Nat) : RoundTrip.Statement (.tvcutComplete op) := no_word rfl

theorem RoundTrip.galleyReservation (op : Nat) : RoundTrip.Statement (.galleyReservation op) := no_word rfl

theorem RoundTrip.galleyPublish (op : Nat) (lane : Nat) : RoundTrip.Statement (.galleyPublish op lane) := no_word rfl

theorem RoundTrip.galleyOpComplete (op : Nat) : RoundTrip.Statement (.galleyOpComplete op) := no_word rfl

theorem RoundTrip.galleyConsumerLaunch (galley : Nat) (core : Nat) (p : Placement) : RoundTrip.Statement (.galleyConsumerLaunch galley core p) := no_word rfl

theorem RoundTrip.galleyConsumerTimer (galley : Nat) (core : Nat) (p : Placement) : RoundTrip.Statement (.galleyConsumerTimer galley core p) := no_word rfl

theorem RoundTrip.xsendLanding (op : Nat) : RoundTrip.Statement (.xsendLanding op) := no_word rfl

theorem RoundTrip.grantSend (core : Nat) (slot : Nat) (split : Nat) : RoundTrip.Statement (.grantSend core slot split) := no_word rfl

theorem RoundTrip.permitGrant (x : Nat) : RoundTrip.Statement (.permitGrant x) := no_word rfl

theorem RoundTrip.fbulkLanding (op : Nat) (x : Nat) : RoundTrip.Statement (.fbulkLanding op x) := no_word rfl

theorem RoundTrip.fbulkComplete (op : Nat) : RoundTrip.Statement (.fbulkComplete op) := no_word rfl

theorem RoundTrip.branchBlocked (op : Nat) : RoundTrip.Statement (.branchBlocked op) := no_word rfl

theorem RoundTrip.fabricMessageReceive (m : FabricMessage) : RoundTrip.Statement (.fabricMessageReceive m) := no_word rfl

theorem RoundTrip.fabricLink (port : Nat) (state : Nat) : RoundTrip.Statement (.fabricLink port state) := no_word rfl

theorem RoundTrip.hostAccess (a : HostAccess) : RoundTrip.Statement (.hostAccess a) := no_word rfl

theorem RoundTrip.registerWrite (off : Nat) (v : (BitVec 64)) : RoundTrip.Statement (.registerWrite off v) := no_word rfl

theorem RoundTrip.featctlCommit (v : (BitVec 64)) : RoundTrip.Statement (.featctlCommit v) := no_word rfl

theorem RoundTrip.ctxcmdVacate (ctx : Nat) : RoundTrip.Statement (.ctxcmdVacate ctx) := no_word rfl

theorem RoundTrip.ctxcmdResume (ctx : Nat) (ps : (List (Nat × Nat × Placement))) : RoundTrip.Statement (.ctxcmdResume ctx ps) := no_word rfl

theorem RoundTrip.ctxcmdEnd (ctx : Nat) : RoundTrip.Statement (.ctxcmdEnd ctx) := no_word rfl

theorem RoundTrip.partcmdApply (func : Nat) : RoundTrip.Statement (.partcmdApply func) := no_word rfl

theorem RoundTrip.dbgcmdHalt (v : (BitVec 64)) : RoundTrip.Statement (.dbgcmdHalt v) := no_word rfl

theorem RoundTrip.dbgcmdResume (v : (BitVec 64)) : RoundTrip.Statement (.dbgcmdResume v) := no_word rfl

theorem RoundTrip.dbgcmdStep (ctx core slot split : Nat) : RoundTrip.Statement (.dbgcmdStep ctx core slot split) := no_word rfl

theorem RoundTrip.dbgcmdAttach (v : (BitVec 64)) : RoundTrip.Statement (.dbgcmdAttach v) := no_word rfl

theorem RoundTrip.dbgcmdDetach (v : (BitVec 64)) : RoundTrip.Statement (.dbgcmdDetach v) := no_word rfl

theorem RoundTrip.errcntClear (die : Nat) (v : (BitVec 64)) : RoundTrip.Statement (.errcntClear die v) := no_word rfl

theorem RoundTrip.queueTailDoorbell (func : Nat) (queue : Nat) (v : (BitVec 64)) : RoundTrip.Statement (.queueTailDoorbell func queue v) := no_word rfl

theorem RoundTrip.eventHeadDoorbell (func : Nat) (ring : Nat) (v : (BitVec 64)) : RoundTrip.Statement (.eventHeadDoorbell func ring v) := no_word rfl

theorem RoundTrip.packetNop (queue : Nat) : RoundTrip.Statement (.packetNop queue) := no_word rfl

theorem RoundTrip.packetLaunch (queue : Nat) : RoundTrip.Statement (.packetLaunch queue) := no_word rfl

theorem RoundTrip.packetBarrier (queue : Nat) : RoundTrip.Statement (.packetBarrier queue) := no_word rfl

theorem RoundTrip.packetCopy (queue : Nat) : RoundTrip.Statement (.packetCopy queue) := no_word rfl

theorem RoundTrip.packetSignalSet (queue : Nat) : RoundTrip.Statement (.packetSignalSet queue) := no_word rfl

theorem RoundTrip.packetSignalAdd (queue : Nat) : RoundTrip.Statement (.packetSignalAdd queue) := no_word rfl

theorem RoundTrip.packetChain (queue : Nat) : RoundTrip.Statement (.packetChain queue) := no_word rfl

theorem RoundTrip.packetEvent (queue : Nat) : RoundTrip.Statement (.packetEvent queue) := no_word rfl

theorem RoundTrip.packetComplete (queue : Nat) (x : Nat) : RoundTrip.Statement (.packetComplete queue x) := no_word rfl

theorem RoundTrip.barrierTest (queue : Nat) (x : Nat) : RoundTrip.Statement (.barrierTest queue x) := no_word rfl

theorem RoundTrip.progressPublish (queue : Nat) : RoundTrip.Statement (.progressPublish queue) := no_word rfl

theorem RoundTrip.blockClaim (launch : Nat) (core : Nat) (p : Placement) : RoundTrip.Statement (.blockClaim launch core p) := no_word rfl

theorem RoundTrip.instanceStart (launch : Nat) : RoundTrip.Statement (.instanceStart launch) := no_word rfl

theorem RoundTrip.rowFree (core : Nat) (row : Nat) : RoundTrip.Statement (.rowFree core row) := no_word rfl

theorem RoundTrip.blockComplete (core : Nat) (block : Nat) : RoundTrip.Statement (.blockComplete core block) := no_word rfl

theorem RoundTrip.blkmaxOverrun (core : Nat) (block : Nat) : RoundTrip.Statement (.blkmaxOverrun core block) := no_word rfl

theorem RoundTrip.channelPriorityHold (core : Nat) (slot : Nat) (split : Nat) : RoundTrip.Statement (.channelPriorityHold core slot split) := no_word rfl

theorem RoundTrip.blockSave (core : Nat) (block : Nat) : RoundTrip.Statement (.blockSave core block) := no_word rfl

theorem RoundTrip.blockModeFinished (core : Nat) (block : Nat) : RoundTrip.Statement (.blockModeFinished core block) := no_word rfl

theorem RoundTrip.ctxloadComplete (op : Nat) : RoundTrip.Statement (.ctxloadComplete op) := no_word rfl

theorem RoundTrip.tlbinvComplete (op : Nat) : RoundTrip.Statement (.tlbinvComplete op) := no_word rfl

theorem RoundTrip.traceUnitWrite (core : Nat) : RoundTrip.Statement (.traceUnitWrite core) := no_word rfl

theorem RoundTrip.sample (core : Nat) (sched : Nat) : RoundTrip.Statement (.sample core sched) := no_word rfl

theorem RoundTrip.packageReset : RoundTrip.Statement .packageReset := no_word rfl

theorem RoundTrip.reducedServiceStart : RoundTrip.Statement .reducedServiceStart := no_word rfl

theorem RoundTrip.fullServiceStart : RoundTrip.Statement .fullServiceStart := no_word rfl

theorem RoundTrip.ageingPlanRaise (plan : Nat) : RoundTrip.Statement (.ageingPlanRaise plan) := no_word rfl

theorem RoundTrip.periodChange : RoundTrip.Statement .periodChange := no_word rfl

theorem RoundTrip.dieFailure (die : Nat) (launch : Nat) : RoundTrip.Statement (.dieFailure die launch) := no_word rfl

theorem RoundTrip.correctedError (die : Nat) : RoundTrip.Statement (.correctedError die) := no_word rfl

theorem RoundTrip.uncorrectedError (die : Nat) (site : ErrorSite) : RoundTrip.Statement (.uncorrectedError die site) := no_word rfl

theorem RoundTrip.firmwareImage (img : FirmwareImage) : RoundTrip.Statement (.firmwareImage img) := no_word rfl

theorem RoundTrip.liveHandover : RoundTrip.Statement .liveHandover := no_word rfl

theorem RoundTrip.measurements : RoundTrip.Statement .measurements := no_word rfl

theorem RoundTrip.illegalOp (w : (BitVec 32)) : RoundTrip.Statement (.illegalOp w) := no_word rfl

theorem RoundTrip.heldUniformResult (core : Nat) (slot : Nat) (split : Nat) : RoundTrip.Statement (.heldUniformResult core slot split) := no_word rfl

theorem RoundTrip.trainingComplete : RoundTrip.Statement .trainingComplete := no_word rfl

theorem RoundTrip.fabricLinkUp (port : Nat) : RoundTrip.Statement (.fabricLinkUp port) := no_word rfl

theorem RoundTrip.linkLevelRetry (port : Nat) : RoundTrip.Statement (.linkLevelRetry port) := no_word rfl

end Sys2Proof.Laws
end

