-- ==== Sys2Proof/Tests/Slice0.lean ====
section
/-! SUPPORT. Tests: the operand checks, words of the encodings, single steps, and a witness for the hypotheses of every statement. -/

open Sys2Proof Sys2Proof.Machine

namespace Sys2Proof.Tests

/-! Small states. The machine of these tests is one core with one group in slot 0, split 0 at address 0, in a context whose tables map the
first 64 GiB onto themselves. -/

/-- The group of a small state, changed by `f`. -/
def groupWith (f : Group → Group) : Group := f loadGroup

/-- The context of the small states, changed by `f`. -/
def ctxWith (f : Ctx → Ctx) : Ctx := f { loadCtx with vb := 1000000 }

/-- A small state: one group of one context on core 0, which issues. -/
def small (x : Ctx → Ctx) (y : Core → Core) (f : Group → Group) : State :=
  { State.reset.withFetchWord 32 0 with
    issuer := some (0, 0, 0), ctxs := [ctxWith x], cores := [y { Core.idle 0 with groups := [groupWith f] }] }

/-- The plain small state. -/
def plain : State := small id id id

/-- The small state with G(i) of its group holding a value. -/
def withG (i v : Nat) (y : Core) : Core := (y.landV loadGroup (gReg loadGroup i) (gLane i) (BitVec.ofNat 32 v)).landV loadGroup
  (gReg loadGroup i) (gLane i + 1) (BitVec.ofNat 32 (v / 2 ^ 32))

/-- The issuer of a small state: split 0 of slot 0 of core 0. -/
def who (s : State) : Issuer :=
  let g := (s.group? 0 0).getD loadGroup
  ⟨0, 0, 0, s.core 0, g, (g.split? 0).getD (newSplit 0 0 0 0)⟩

theorem issues_plain : Issues plain (who plain) := ⟨rfl, .inr rfl⟩

/-- What a test asks of the next state of an instruction. -/
def after (i : Instr) (s : State) (p : State → Bool) : Bool :=
  match exec i s with
  | .next t => p t
  | _ => false

/-! Ill-formed terms, one for each check of WellFormed. -/

theorem test_ill_icmp_pair : wellFormed (.icmp 0 .lt 1 3 4 .s64) = false := by decide
theorem test_ill_iadd64 : wellFormed (.iadd64 0 5 4 6) = false := by decide
theorem test_ill_isub64 : wellFormed (.isub64 0 4 4 7) = false := by decide
theorem test_ill_shl64 : wellFormed (.shl64 0 4 5 7) = false := by decide
theorem test_ill_shr64 : wellFormed (.shr64 0 5 4 7) = false := by decide
theorem test_ill_imad_wide_z : wellFormed (.imadWideZ 0 7 4 5) = false := by decide
theorem test_ill_imad_wide_s : wellFormed (.imadWideS 0 7 4 5) = false := by decide
theorem test_ill_fadd : wellFormed (.fadd 0 2 4 5 .f64) = false := by decide
theorem test_ill_fsub : wellFormed (.fsub 0 3 4 6 .f64) = false := by decide
theorem test_ill_fmul : wellFormed (.fmul 0 2 5 6 .f64) = false := by decide
theorem test_ill_fma : wellFormed (.fma 0 1 4 6 .f64) = false := by decide
theorem test_ill_fmin : wellFormed (.fmin 0 1 4 6 .f64) = false := by decide
theorem test_ill_fmax : wellFormed (.fmax 0 2 4 7 .f64) = false := by decide
theorem test_ill_fcmp : wellFormed (.fcmp 0 .ord 1 3 4 .f64) = false := by decide
theorem test_ill_cvt_code : wellFormed (.cvt 0 2 4 0x30 .rne) = false := by decide
theorem test_ill_cvt_sat : wellFormed (.cvt 0 2 4 0x40 .rne) = false := by decide
theorem test_ill_cvt_wide : wellFormed (.cvt 0 3 4 0x00 .rne) = false := by decide
theorem test_ill_lds64 : wellFormed (.lds64 0 3 4 0 0) = false := by decide
theorem test_ill_ldsx128 : wellFormed (.ldsx128 0 6 4 0 0) = false := by decide
theorem test_ill_sts64 : wellFormed (.sts64 0 3 4 0) = false := by decide
theorem test_ill_atoms_cas : wellFormed (.atomsCas 0 3 4 0 0) = false := by decide
theorem test_ill_ldg64 : wellFormed (.ldg64 0 3 4 0) = false := by decide
theorem test_ill_ldg128 : wellFormed (.ldg128 0 2 4 0) = false := by decide
theorem test_ill_stg64 : wellFormed (.stg64 0 3 4 0) = false := by decide
theorem test_ill_atomg : wellFormed (.atomg 0 2 5 .add) = false := by decide
theorem test_ill_atomg_cas : wellFormed (.atomg 0 3 4 .cas) = false := by decide
theorem test_ill_stg_rel : wellFormed (.stgRel 0 3 4 .b8) = false := by decide
theorem test_ill_tcopy : wellFormed (.tcopy 0 4 3) = false := by decide
theorem test_ill_tcopyq : wellFormed (.tcopyq 0 4 3) = false := by decide
theorem test_ill_tvwalk : wellFormed (.tvwalk 0 4 3) = false := by decide
theorem test_ill_tvcut : wellFormed (.tvcut 0 4 3) = false := by decide
theorem test_ill_tvresume : wellFormed (.tvresume 0 4 3) = false := by decide
theorem test_ill_br : wellFormed (.br .always 5 3) = false := by decide
theorem test_ill_umovs : wellFormed (.umovs 5 36) = false := by decide
theorem test_ill_umovt : wellFormed (.umovt 5 22) = false := by decide

/-! Words written out from the encodings: the worked encodings of 09_encoding, and words of the lane entries of 11. -/

theorem test_word_uadd : decode false 0x84518700 = .ok (.uadd 5 6 7) := by decide
theorem test_word_uaddi : decode false 0x88503FFD = .ok (.uaddi 5 0 0x3FFD) := by decide
theorem test_word_uhi : decode false 0x8C512345 = .ok (.uhi 5 0x12345) := by decide
theorem test_word_uori : decode false 0x94514678 = .ok (.uori 5 5 0x0678) := by decide
theorem test_word_ushli : decode false 0x9C614020 = .ok (.ushli 6 5 32) := by decide
theorem test_word_brd : decode false 0xA5000005 = .ok (.brd 2 0 5) := by decide
theorem test_word_brd_not : decode false 0xA5400005 = .ok (.brd 2 1 5) := by decide
theorem test_word_call : decode false 0xA8000040 = .ok (.call 64) := by decide
theorem test_word_ret : decode false 0xAC000002 = .ok .ret := by decide
theorem test_word_trap : decode false 0xB0000502 = .ok (.trap 5) := by decide
theorem test_word_rett : decode false 0xB0000003 = .ok .rett := by decide
theorem test_word_pjoin : decode false 0xB400000A = .ok (.pjoin 10) := by decide
theorem test_word_cfence : decode false 0xB9400000 = .ok (.cfence 20) := by decide
theorem test_word_fence : decode false 0xB8000052 = .ok (.fenceRel .cluster) := by decide
theorem test_word_wait : decode false 0xBC014608 = .ok (.waitObject 5 6) := by decide
theorem test_word_arrive : decode false 0xC0014701 = .ok (.arriveExpect 5 7) := by decide
theorem test_word_ballot : decode false 0xCC908004 = .ok (.ballot 9 4) := by decide
theorem test_word_umask : decode false 0xD0304202 = .ok (.umaskAnd 3 1 2) := by decide
theorem test_word_vtest : decode false 0xE4518701 = .ok (.vtest 5 6 7) := by decide
theorem test_word_umovs : decode false 0xE8701800 = .ok (.umovs 7 24) := by decide
theorem test_word_umovt : decode false 0xE801D701 = .ok (.umovt 7 23) := by decide
theorem test_word_condition_with_register : decode false 0xA0050003 = .error .illFormed := by decide
theorem test_word_shift_of_64 : decode false 0x9C614040 = .error .reserved := by decide
theorem test_word_unused_field : decode false 0xE8014F01 = .error .illFormed := by decide

/-- A launch record of one block of one group. -/
def launch0 : Launch :=
  { va := 0x10000, version := 0, flags := 0, levels := [⟨1, 1, 1, 0, 1, 0, 0⟩], roleCount := 1, entry0 := 0, entry1 := 0, rows0 := 0, groups0 := 1,
    rows1 := 0, groups1 := 0, scratch := 4096, shares := [1], args := 0, blkmax := 0, modes := 1, kinds := 0, routines := 0, galley := 0,
    maxLive := 0, bitmap := 0, zerosOk := true }

/-- A running block of the small states, with 4,096 bytes of scratchpad. -/
def block0 : Block :=
  { id := 0, ctx := 0, blockIndex := 0, incarn := 0, spbase := 0, rec_ := launch0, launchId := none, dispatch := 1, slots := [0], rows := [1],
    routineRow := none, routineSlot := none, unit := none, elapsed := 0, overrun := false, phase := .running, saveVa := 0, saveOp := none,
    inst := none, waiting := false, taken := [], calls := [], before := [], marked := false, half := none }

/-- A routine call. -/
def call0 : Call := ⟨1, 0, 0, .enter, 0, 0, 0, 0, 0, [], 0, 0, 0x40, none⟩

/-- The small state with its block resident and holding the matrix engine. -/
def blocked (x : Ctx → Ctx) (y : Core → Core) (f : Group → Group) : State :=
  small x (fun z => y { z with blocks := [block0], matrix := { z.matrix with holder := some 0 } }) f

/-! Witnesses: for each statement, states and operands that meet the hypotheses of each of its clauses. The group of `plain` has 64 lane
registers, so v63 is the last it has. -/

theorem witness_LaneIntegerResults : Issues plain (who plain) ∧ (63 : VReg).val < (who plain).g.allot := ⟨issues_plain, by decide⟩

theorem witness_LanePairResults : Issues plain (who plain) ∧ (62 : VReg).val < (who plain).g.allot
    ∧ ∀ p ∈ pairForms, wellFormed (p.1 0 62 0 2) = true := ⟨issues_plain, by decide⟩

theorem witness_LaneMovesAndShuffles : Issues plain (who plain) ∧ (63 : VReg).val < (who plain).g.allot := ⟨issues_plain, by decide⟩

theorem witness_CompareResults : Issues plain (who plain) ∧ (63 : VReg).val < (who plain).g.allot
    ∧ wellFormed (.icmp 0 .lt 1 63 62 .z32) = true ∧ wellFormed (.icmp 0 .ge 7 62 0 .s64) = true
    ∧ wellFormed (.fcmp 1 .ord 0 62 0 .f64) = true ∧ wellFormed (.fcmp 1 .eq 2 63 1 .bf16x2) = true := ⟨issues_plain, by decide⟩

theorem witness_FloatingResults : Issues plain (who plain) ∧ (63 : VReg).val < (who plain).g.allot
    ∧ (∀ p ∈ floatForms, wellFormed (p.1 0 62 0 2 .f64) = true ∧ wellFormed (p.1 0 63 1 3 .f16x2) = true)
    ∧ cvtOf 0x2F = some (.z 32, .f16, false) ∧ wellFormed (.cvt 0 63 63 0x2F .rdn) = true := ⟨issues_plain, by decide⟩

theorem witness_TranscendentalResults : Issues plain (who plain) ∧ (63 : VReg).val < (who plain).g.allot
    ∧ activeOf plain (who plain) 0 ≠ 0 ∧ (14 : La).val < 15 := ⟨issues_plain, by decide⟩

/-- A group with an acquiring load whose value has not come. -/
def acquiring : State := small id id fun g =>
  { g with reads := [⟨0, 1, 0, 0, .lanes 4 4, [⟨0, 64, 4, 0⟩], [], none, [], false, some .package, .clear, 0, 0, [], []⟩], nextSeq := 1 }

/-- A group whose release fence is behind it, with an earlier store on its way. -/
def releasing : State :=
  let s := small id id fun g => { g with nextSeq := 1, relFence := some .package }
  { s with props := [⟨0, 0, 0, [(64, 1)], none, .none, false, [], none⟩] }

theorem unfenced_plain : Unfenced plain (who plain) := by unfold Unfenced; decide

/-- Behind an acquire, and behind a release, an access waits. -/
theorem witness_fenced : (Issues acquiring (who acquiring) ∧ ¬ Unfenced acquiring (who acquiring) ∧ activeOf acquiring (who acquiring) 0 ≠ 0
    ∧ acquirePending (who acquiring).g = true) ∧ Issues releasing (who releasing) ∧ ¬ Unfenced releasing (who releasing)
    ∧ activeOf releasing (who releasing) 0 ≠ 0 := by
  unfold Unfenced; exact ⟨⟨⟨rfl, .inr rfl⟩, by decide⟩, ⟨rfl, .inr rfl⟩, by decide⟩

/-- A cluster instance spans cores 0 and 1; v0 of the one lane and g4 hold an address of core 1's block. -/
def paired : State :=
  let s := small id (fun y => { (withG 4 0x11000040 y).landV loadGroup 0 0 0x11000040 with blocks := [{ block0 with unit := some 7 }] })
    fun g => { g with live := 1, splits := [newSplit 0 0 1 0], gates := List.replicate 5 ⟨0, 0, []⟩ }
  s.modCore 1 fun y => { y with blocks := [{ block0 with unit := some 7, blockIndex := 1 }] }

/-- The lane's address lies in the other core, for loads, stores, atomics and uniform accesses. -/
theorem witness_paired : Issues paired (who paired) ∧ Unfenced paired (who paired)
    ∧ nearLanes paired (who paired) (activeOf paired (who paired) 0) (scratchAddr paired (who paired) 7 0) = []
    ∧ (lanesOf (activeOf paired (who paired) 0)).map (fun l => (placeOf paired (who paired) (scratchAddr paired (who paired) 7 0 l)).core) = [1]
    ∧ scratchFault paired (who paired) 16 [(0, 0x11000040)] = none ∧ (uniG paired (who paired) 4).toNat = 0x11000040
    ∧ (placeOf paired (who paired) 0x11000040) = ⟨1, 0x40⟩ := by
  unfold Unfenced; exact ⟨⟨rfl, .inr rfl⟩, by decide⟩

theorem witness_ScratchLoads : Issues plain (who plain) ∧ (60 : VReg).val < (who plain).g.allot ∧ activeOf plain (who plain) 0 ≠ 0
    ∧ acquirePending (who plain).g = false
    ∧ (∀ p ∈ scratchLoadForms, wellFormed (p.1 0 60 0 7 15) = true
      ∧ scratchFault plain (who plain) p.2.1 ((lanesOf (activeOf plain (who plain) 0)).map fun l =>
          (l, scratchAddr plain (who plain) 7 0 l)) = none) := ⟨issues_plain, by decide⟩

theorem witness_ScratchStores : Issues plain (who plain) ∧ (62 : VReg).val < (who plain).g.allot
    ∧ (∀ p ∈ scratchStoreForms, wellFormed (p.1 0 62 0 7) = true
      ∧ scratchFault plain (who plain) p.2 ((lanesOf (activeOf plain (who plain) 0)).map fun l =>
          (l, scratchAddr plain (who plain) 7 0 l)) = none) := ⟨issues_plain, by decide⟩

theorem witness_ScratchAtomics : Issues plain (who plain) ∧ (62 : VReg).val < (who plain).g.allot
    ∧ (∀ p ∈ scratchAtomicForms, wellFormed (p.1 0 62 0 7 0) = true)
    ∧ scratchFault plain (who plain) 4 ((lanesOf (activeOf plain (who plain) 0)).map fun l =>
          (l, scratchAddr plain (who plain) 7 0 l)) = none := ⟨issues_plain, by decide⟩

theorem witness_UniformArithmetic : Issues plain (who plain) := issues_plain

theorem witness_LaneToUniformAndMasks : Issues plain (who plain) ∧ (63 : VReg).val < (who plain).g.allot := ⟨issues_plain, by decide⟩

theorem witness_SystemReadsAndQueries : Issues plain (who plain) ∧ plain.ctx? (who plain).g.ctx = some (ctxWith id)
    ∧ admitMine plain (who plain) 13 (chargeOf plain 13 0) = .go := ⟨issues_plain, by decide⟩

theorem witness_SystemWrites : Issues plain (who plain) ∧ plain.ctx? (who plain).g.ctx = some (ctxWith id) ∧ (who plain).g.spilled = 0
    ∧ plain.holdsKey (ctxWith id).func 0 = false ∧ plain.feature 8 = true ∧ plain.traceNow = [] ∧ tracing (ctxWith id) = false
    := ⟨issues_plain, by decide⟩

/-- A group with a spilled entry. -/
def spilling : State := small id id fun g => { g with stack := [⟨.join, 64, 1, 0, true⟩], spill := 0x10001 }

/-- A partition that holds key slot 5, which g4 names, on a device without tracing. -/
def keyed : State :=
  let s := small id (withG 4 5) id
  { s with dev := { s.dev with keys := [⟨5, [], 64, []⟩], featen := 0 } }

/-- g4 turns the trace of an area at 0x10000 on, in regions of 4,096 bytes. -/
def tracingOn : State := small id (withG 4 0x10301) id

theorem witness_SystemWrites_trace : Issues tracingOn (who tracingOn) ∧ tracingOn.feature 8 = true ∧ tracingOn.traceNow = []
    ∧ tracing (ctxWith id) = false ∧ tracing { ctxWith id with trcctl := uniG tracingOn (who tracingOn) 4 } = true
    ∧ trcLog 0x10301 ≠ trcLog (ctxWith id).trcctl.toNat := ⟨⟨rfl, .inr rfl⟩, by decide⟩

theorem witness_SystemWrites_other : Issues spilling (who spilling) ∧ (who spilling).g.spilled ≠ 0 ∧ Issues keyed (who keyed)
    ∧ keyed.feature 8 = false ∧ keyed.holdsKey (ctxWith id).func ((uniG keyed (who keyed) 4).toNat % 256) = true :=
  ⟨⟨rfl, .inr rfl⟩, by decide, ⟨rfl, .inr rfl⟩, by decide⟩

theorem witness_BranchesAndCalls : Issues plain (who plain) ∧ wellFormed (.br .always 0 0x7FFF) = true
    ∧ (0 : Int) ≤ ((who plain).sp.pc.toNat : Int) + 4 * (0x7FFF : BitVec 16).toInt ∧ (uniG plain (who plain) 63).toNat % 4 = 0 :=
  ⟨issues_plain, by decide⟩

/-- Registers that hold no target: g4 is not aligned, g5 is beyond 2^57. -/
def badTargets : State := small id (fun y => withG 5 (2 ^ 57) (withG 4 2 y)) id

theorem witness_BranchTargetTraps : Issues badTargets (who badTargets) ∧ wellFormed (.br .eq 1 0xFFFF) = true
    ∧ ((who badTargets).sp.pc.toNat : Int) + 4 * (0xFFFF : BitVec 16).toInt < 0
    ∧ ((who badTargets).sp.pc.toNat : Int) + 4 * (0x3FFFFF : BitVec 22).toInt < 0
    ∧ ((who badTargets).sp.pc.toNat : Int) + 4 * (0x3FFFFFF : BitVec 26).toInt < 0
    ∧ (uniG badTargets (who badTargets) 4).toNat % 4 ≠ 0 ∧ (uniG badTargets (who badTargets) 5).toNat % 4 = 0
    ∧ 2 ^ 57 ≤ (uniG badTargets (who badTargets) 5).toNat := ⟨⟨rfl, .inr rfl⟩, by decide⟩

/-- Lanes 0 and 1 of k1 are set; all four splits are in use. -/
def divided : State := small id id fun g =>
  { g with masks := [BitVec.allOnes 32, 3], splits := [newSplit 0 0 0xF 0, newSplit 1 64 0xF0 0, newSplit 2 64 0xF00 0, newSplit 3 64 0xF000 0] }

/-- Lanes 0 and 1 of k1 are set; one split is in use. -/
def undivided : State := small id id fun g => { g with masks := [BitVec.allOnes 32, 3] }

theorem witness_DivergentBranches : Issues divided (who divided) ∧ Issues undivided (who undivided)
    ∧ maskK undivided (who undivided) true 1 = 3 ∧ (who undivided).g.freeIdx = some 1 ∧ (who divided).g.freeIdx = none
    ∧ (chipEntries (who divided).g).length < 32 ∧ (who divided).sp.mask &&& maskK divided (who divided) true 1 = 3
    ∧ (who undivided).sp.mask &&& maskK undivided (who undivided) true 2 = 0
    ∧ (who undivided).sp.mask &&& maskK undivided (who undivided) true 0 = (who undivided).sp.mask :=
  ⟨⟨rfl, .inr rfl⟩, ⟨rfl, .inr rfl⟩, by decide⟩

/-- A group whose stack is full, without a spill area. -/
def stacked : State := small id id fun g => { g with stack := List.replicate 32 ⟨.join, 64, 0xFF, 0, false⟩ }

theorem witness_ControlCompletes : Issues plain (who plain) ∧ (chipEntries (who plain).g).length < 32 ∧ Issues stacked (who stacked)
    ∧ 32 ≤ (chipEntries (who stacked).g).length ∧ bits (who stacked).g.spill.toNat 4 53 = 0 := ⟨issues_plain, by decide, ⟨rfl, .inr rfl⟩, by decide⟩

theorem witness_ExitEndsLanes : Issues plain (who plain) ∧ plain.ctx? (who plain).g.ctx = some (ctxWith id)
    ∧ (∀ d ∈ (who plain).g.due, d.store = false) ∧ (who plain).g.queue = [] ∧ clusterExit plain (who plain) = none
    ∧ (who plain).g.spilled = 0 := ⟨issues_plain, by decide⟩

/-- A group of a cluster instance of one block, whose exit barrier is at phase 0. -/
def clustered : State := small id
  (fun y => { y with blocks := [{ block0 with unit := some 7, rec_ := { launch0 with levels := [⟨2, 1, 1, 2, 2, 0, 4⟩] } }] }) id

theorem witness_ExitEndsLanes_cluster : Issues clustered (who clustered) ∧ inService (who clustered).g = false
    ∧ clusterExit clustered (who clustered) = some 0x10000040 := ⟨⟨rfl, .inr rfl⟩, by decide⟩

/-- A group with a handler, in a context with a debugger. -/
def handled : State := small (fun x => { x with attached := true }) id fun g => { g with tvec := 0x100 }

theorem witness_TrapAndReturn : Issues plain (who plain) ∧ plain.ctx? (who plain).g.ctx = some (ctxWith id) ∧ (ctxWith id).attached = false
    ∧ Issues handled (who handled) ∧ handled.ctx? (who handled).g.ctx = some (ctxWith fun x => { x with attached := true })
    ∧ bits (who handled).g.tvec.toNat 2 55 ≠ 0 ∧ (chipEntries (who handled).g).length + (who handled).g.splits.length ≤ 32
    ∧ (topFrame (who plain).g.stack 0).1 = [] := ⟨issues_plain, by decide, by decide, ⟨rfl, .inr rfl⟩, by decide⟩

/-- A handler's group, with the frame of two splits above a covered JOIN entry of empty mask. -/
def framed : State := small id id fun g =>
  { g with ecause := 0x113, epc := 0x44,
           stack := [⟨.trap, 0x44, 0xF, 1, false⟩, ⟨.trap, 0x80, 0xF0, 0, false⟩, ⟨.join, 0xC0, 0, 0, false⟩, ⟨.join, 0x100, 0xFF, 0, false⟩] }

theorem witness_TrapReturn : Issues framed (who framed) ∧ (topFrame (who framed).g.stack 0).1 ≠ [] ∧ (who framed).g.spilled = 0
    ∧ ((topFrame (who framed).g.stack 0).1.map fun e => e.arrived.toNat % 4).Nodup := ⟨⟨rfl, .inr rfl⟩, by decide⟩

theorem witness_IssueTraps : Issues plain (who plain) ∧ (who plain).g.allot ≤ (64 : VReg).val ∧ (63 : VReg).val < (who plain).g.allot
    ∧ ∀ p ∈ pairForms, wellFormed (p.1 0 61 0 2) = false := ⟨issues_plain, by decide⟩

/-- A block of 4,096 scratchpad bytes, with an address in g4 and g15. -/
def addressed (v : Nat) : State := small id (fun y => { withG 15 v (withG 4 v y) with blocks := [block0] }) id

theorem witness_ScratchAddressTraps :
    (∀ v ∈ [4095, 0x11000000, 2, 0x10000, 0x80000, 0x01000000, 0x20000000], Issues (addressed v) (who (addressed v)))
    ∧ (∀ p ∈ [(4095, 0, true), (4088, 0, false), (0x11000000, 1, true), (2, 2, true), (0x80000, 0, true), (0x01000000, 0, true),
        (0x20000000, 0, true)],
      let s := addressed p.1
      let q := (scratchTests s (who s) 8)[p.2.1]?
      (uniG s (who s) 4).toNat = p.1 ∧ scratchAddr s (who s) 7 0 0 = p.1 ∧ (q.map fun q => q.2 p.1) = some p.2.2)
    ∧ 0 ∈ lanesOf (activeOf (addressed 0) (who (addressed 0)) 0) ∧ (60 : VReg).val < (who (addressed 0)).g.allot :=
  ⟨fun _ _ => ⟨rfl, .inr rfl⟩, by decide⟩

theorem witness_GlobalAddressTraps :
    (∀ p ∈ [((2 ^ 57 - 8, 0, false) : Nat × Nat × Bool), (2 ^ 57 - 7, 0, true), (2 ^ 57, 0, true), (12, 1, true), (16, 1, false)],
      let s := addressed p.1
      (uniG s (who s) 4).toNat = p.1 ∧ globalAddr s (who s) 7 0 0 = p.1 ∧ (((globalTests 8 8)[p.2.1]?).map fun q => q.2 p.1) = some p.2.2)
    ∧ ∀ v, Issues (addressed v) (who (addressed v)) := ⟨by decide, fun _ => ⟨rfl, .inr rfl⟩⟩

/-- The block under a bound of `v` ticks, with `n` ticks of reads outstanding. -/
def boundedBy (v n : Nat) : State :=
  let s := small (fun x => { x with vb := v }) (fun y => { withG 4 64 y with blocks := [block0] }) id
  { s with ops := [⟨1, 0, 0, 0, 0, 0, .gl, 1, 0, n, 0, false, false, .reads⟩] }

theorem witness_VacateBoundTraps : ∀ p ∈ [((400, 0, true, false) : Nat × Nat × Bool × Bool), (600, 0, false, false), (600, 256, false, true)],
    let s := boundedBy p.1 p.2.1
    let x := ctxWith fun x => { x with vb := p.1 }
    s.ctx? 0 = some x ∧ blockOf (who s) = some block0 ∧ flushes s x 0 0 = false ∧ drains s 0 0 = false
    ∧ decide (x.vb < vfix s x + chargeOf s 5 0) = p.2.2.1
    ∧ decide (vfix s x + chargeOf s 5 0 ≤ x.vb ∧ x.vb < vfix s x + max (channelSum s x 0 + chargeOf s 5 0) (otherSums s x 0)) = p.2.2.2
    ∧ channelOf s 5 = 0 ∧ (uniG s (who s) 4).toNat = 64 ∧ (∀ l ∈ lanesOf (activeOf s (who s) 0), lanePair s (who s) 0 l % 4 = 0) := by decide

/-- A group with operations outstanding at gl in batch 1 of two closed. -/
def waiting : State := small id (withG 4 1) fun g =>
  { g with gates := [⟨0, 0, []⟩, ⟨0, 0, []⟩, ⟨2, 0, [1]⟩, ⟨0, 0, []⟩, ⟨0, 0, []⟩] }

theorem witness_GateControl : Issues waiting (who waiting) ∧ (who waiting).g.gates.length = 5 ∧ inService (who waiting).g = false
    ∧ (((uniG waiting (who waiting) 4).setWidth 32 : Word) - ((who waiting).g.gate .gl).closed).toInt ≤ 0
    ∧ (((who waiting).g.gate .gl).done - ((uniG waiting (who waiting) 4).setWidth 32 : Word)).toInt < 0
    ∧ 0 < (((uniG waiting (who waiting) 4).setWidth 32 : Word) - ((who waiting).g.gate .gm).closed).toInt
    ∧ dueAtGate (who waiting).g .gl 0 = none ∧ (0 : Int) ≤ (((who waiting).g.gate .gl).done - (0 : Word)).toInt
    ∧ (∀ r ∈ (who waiting).g.la, r.untilWait = true → r.path &&& (who waiting).sp.mask = 0) := ⟨⟨rfl, .inr rfl⟩, by decide⟩

/-- A group that serves a walk. -/
def serving : State := small id id fun g => { g with service := [call0] }

theorem witness_GateWaits_in_service : Issues serving (who serving) ∧ inService (who serving).g = true := ⟨⟨rfl, .inr rfl⟩, by decide⟩

/-- A valid object at address 0, in phase 3; g4 holds 3 and g5 holds 4. -/
def withObject : State := small id (fun y => withG 5 4 (withG 4 3 (y.putScratch 0
  (bytesOf 4 3 ++ bytesOf 2 1 ++ bytesOf 2 1 ++ bytesOf 4 0 ++ bytesOf 1 3 ++ bytesOf 3 0)))) id

/-- The group's WAIT is held on the object, and a test has found what `m` says. -/
def tested (m : Option Bool) : State :=
  let s := withObject.modGroup 0 0 fun g => { g with splits := [{ newSplit 0 0 1 0 with hold := .waitObject }] }
  { s with waits := [⟨0, 0, 0, 0, 0, 4, m⟩] }

theorem witness_ObjectWaits : Issues withObject (who withObject) ∧ inService (who withObject).g = false
    ∧ acquirePending (who withObject).g = false ∧ (who withObject).g.parts = [] ∧ (who withObject).sp.hold ≠ .drain15
    ∧ (∀ r ∈ (who withObject).g.la, r.untilWait = true → r.path &&& (who withObject).sp.mask = 0)
    ∧ (∀ m ∈ [some true, some false, none], let s := tested m
      let w := who s
      acquirePending w.g = false ∧ w.sp.hold = .waitObject
        ∧ (s.waits.find? fun u => u.core == w.c && u.slot == w.slot && u.split == w.idx && u.home == (placeOf s w 0).core
            && u.off == (placeOf s w 0).off && u.phase == 4) = some ⟨0, 0, 0, 0, 0, 4, m⟩)
    ∧ cappedGroup withObject (who withObject).g = false ∧ (objAt withObject (placeOf withObject (who withObject) 0)).scope < 6
    ∧ scratchFault withObject (who withObject) 16 [(0, 0)] = none
    ∧ dueAtObject (who withObject).g (placeOf withObject (who withObject) 0) = none
    ∧ (objAt withObject (placeOf withObject (who withObject) 0)).valid = true
    ∧ (0 : Int) ≤ (BitVec.ofNat 32 (objAt withObject (placeOf withObject (who withObject) 0)).phase - (3 : Word)).toInt
    ∧ (BitVec.ofNat 32 (objAt withObject (placeOf withObject (who withObject) 0)).phase - (4 : Word)).toInt < 0
    ∧ (objAt plain (placeOf plain (who plain) 0)).valid = false ∧ scratchFault plain (who plain) 16 [(0, 0)] = none :=
  ⟨⟨rfl, .inr rfl⟩, by decide⟩

/-- A capped context, with a store of the group on its way. -/
def capped : State :=
  let s := small (fun x => { x with capped := true }) id fun g => { g with nextSeq := 1 }
  { s with props := [⟨0, 0, 0, [(64, 1)], none, .none, false, [], none⟩] }

/-- A capped context, and an object of SYSTEM scope at address 0. -/
def cappedObject : State := small (fun x => { x with capped := true }) (fun y => y.putScratch 0
  (bytesOf 4 3 ++ bytesOf 2 1 ++ bytesOf 2 1 ++ bytesOf 4 0 ++ bytesOf 1 0xD ++ bytesOf 3 0)) id

theorem witness_ObjectWaits_capped : Issues cappedObject (who cappedObject) ∧ cappedGroup cappedObject (who cappedObject).g = true
    ∧ (objAt cappedObject (placeOf cappedObject (who cappedObject) 0)).valid = true
    ∧ 6 ≤ (objAt cappedObject (placeOf cappedObject (who cappedObject) 0)).scope ∧ isAgent (who cappedObject).g = false :=
  ⟨⟨rfl, .inr rfl⟩, by decide⟩

theorem witness_Fences : Issues plain (who plain) ∧ plain.ctx? (who plain).g.ctx = some (ctxWith id) ∧ (who plain).g.due = []
    ∧ (who plain).g.queue = [] ∧ (who plain).g.reads = [] ∧ (ctxWith id).capped = false
    ∧ ownPerformed plain 0 (who plain).g (fencePoint (who plain)) .system = true
    ∧ Issues capped (who capped) ∧ ownPerformed capped 0 (who capped).g (fencePoint (who capped)) .package = false
    ∧ capped.ctx? (who capped).g.ctx = some (ctxWith fun x => { x with capped := true }) ∧ 5 ≤ scopeRank .pod :=
  ⟨issues_plain, by decide, rfl, rfl, rfl, rfl, by decide, ⟨rfl, .inr rfl⟩, by decide, by decide, by decide⟩

theorem witness_BarrierArrivals : Issues withObject (who withObject) ∧ acquirePending (who withObject).g = false ∧ (who withObject).g.relFence = none
    ∧ (who withObject).g.parts = [] ∧ (placeOf withObject (who withObject) 0).core = 0 ∧ releaseReady releasing 0 (who releasing).g = false
    ∧ acquirePending (who releasing).g = false ∧ scratchFault withObject (who withObject) 16 [(0, 0)] = none
    ∧ releaseReady withObject 0 (who withObject).g = true ∧ bits 3 16 3 ≠ 7 ∧ bits 0x60000 16 3 ≠ 7 ∧ bits 0x70000 16 3 = 7 ∧ bits 0x80000 19 13 ≠ 0 :=
  ⟨⟨rfl, .inr rfl⟩, by decide⟩

/-- A group with one held result and one lookahead result. -/
def awaiting : State := small id id fun g =>
  { g with held := [⟨0, 5, 7, none, 0, 0, none⟩], la := [⟨0xF, List.replicate 32 3, false, [(63, 31, 9)], none, 0, 0, 0, 0, []⟩] }

theorem witness_UniformScratchAndResults : Issues awaiting (who awaiting) ∧ scratchFault awaiting (who awaiting) 8 [(0, 0)] = none
    ∧ (who awaiting).g.held = [⟨0, 5, 7, none, 0, 0, none⟩] ∧ (who awaiting).g.la = [⟨0xF, List.replicate 32 3, false, [(63, 31, 9)], none, 0, 0, 0, 0, []⟩]
    ∧ acquirePending (who awaiting).g = false ∧ releaseReady awaiting 0 (who awaiting).g = true
    ∧ isG0 (who awaiting).g 63 31 = false ∧ 63 < (who awaiting).g.allot := ⟨⟨rfl, .inr rfl⟩, by decide⟩

/-- A load of one lane of another core's scratchpad. -/
def far0 (k : RemoteKind) : RemoteAccess := ⟨1, 0, 0, 0, 4, k, [⟨0, 0x11000040, 0x40, 3, 4⟩], false⟩

/-- The results of the group wait for another core's intake. -/
def awaitingFar : State := paired.modGroup 0 0 fun g =>
  { g with held := [⟨0, 5, 0, none, 0, 0, some (far0 .uload)⟩], la := [⟨1, List.replicate 32 3, false, [], none, 0, 0, 0, 0, [far0 (.load 9 1 0)]⟩] }

theorem witness_ResultsCome_far : Issues awaitingFar (who awaitingFar) ∧ (who awaitingFar).g.held = [⟨0, 5, 0, none, 0, 0, some (far0 .uload)⟩]
    ∧ (who awaitingFar).g.la = [⟨1, List.replicate 32 3, false, [], none, 0, 0, 0, 0, [far0 (.load 9 1 0)]⟩] := ⟨⟨rfl, .inr rfl⟩, by decide⟩

theorem witness_RemotePerformed : ∀ k ∈ [RemoteKind.store, .load 9 1 0, .atom .add 9], (far0 k).target < Config.cores ∧ (far0 k).size = 4
    ∧ (∀ j, j < 4 → (paired.core 1).poisonedAt (0x40 + j) 1 = false) := by decide

theorem witness_GlobalLoads : Issues plain (who plain) ∧ (60 : VReg).val < (who plain).g.allot
    ∧ admitMine plain (who plain) 4 (chargeOf plain 4 0) = .go ∧ wellFormed (.ldg128 0 60 0 7) = true
    ∧ lanesOf (activeOf plain (who plain) 0) ≠ [] ∧ lanesOf (activeOf undivided (who undivided) 2) = []
    ∧ (∀ l ∈ lanesOf (activeOf plain (who plain) 0), globalAddr plain (who plain) 7 0 l + 16 - 1 < 2 ^ 57)
    ∧ (uniG plain (who plain) 0).toNat < 2 ^ 57 := ⟨issues_plain, by decide⟩

theorem witness_GlobalStores : Issues plain (who plain) ∧ (62 : VReg).val < (who plain).g.allot ∧ (who plain).g.queue.length < 16 ∧ foundFull (who plain) = false
    ∧ plain.ctx? (who plain).g.ctx = some (ctxWith id) ∧ wellFormed (.stg64 0 62 0 7) = true ∧ wellFormed (.stgRel 0 62 0 .b8) = true
    ∧ (who plain).g.due = [] ∧ (∀ l ∈ lanesOf (activeOf plain (who plain) 0), lanePair plain (who plain) 0 l + 7 < 2 ^ 57) :=
  ⟨issues_plain, by decide⟩

theorem witness_GlobalAtomics : Issues plain (who plain) ∧ (62 : VReg).val < (who plain).g.allot
    ∧ admitMine plain (who plain) 5 (chargeOf plain 5 0) = .go ∧ wellFormed (.atomg 0 62 0 .cas) = true
    ∧ (∀ l ∈ lanesOf (activeOf plain (who plain) 0), lanePair plain (who plain) 0 l + 3 < 2 ^ 57 ∧ lanePair plain (who plain) 0 l % 4 = 0)
    ∧ (uniG plain (who plain) 3).toNat % 8 = 0 := ⟨issues_plain, by decide⟩

/-! The ordering machine. -/

/-- A page of memory that holds 9 at 64, with no write in flight. -/
def storing (e : QEntry) : State := small id id fun g => { g with queue := [e], nextSeq := 1 }

/-- A store of two bytes at 64. -/
def store0 : QEntry := ⟨0, 0, 0, [(0, 64, [1, 2])], none, none, [], [], false, .clear, 0⟩

/-- What one translation gives. -/
def pageOf (s : State) (k : Need) (va : Nat) : Option Page :=
  match (translateR s (.core 0) (ctxWith id) k va).1 with
  | .ok p => some p
  | _ => none

theorem witness_StoresLeave : ((storing store0).group? 0 0).map Group.queue = some [store0]
    ∧ (storing store0).ctx? 0 = some (ctxWith id) ∧ mayLeave (storing store0) 0 (who (storing store0)).g store0 = true
    ∧ 64 % 65536 + [1, 2].length ≤ 65536
    ∧ (pageOf (storing store0) .store 64).map (fun p => (p.pa, p.repl, p.nc)) = some (64, false, false)
    ∧ (pageOf (storing store0) .store 64).map (fun p => p.attic) = some false
    ∧ ((storing store0).core 0).view = [] := by decide

/-- A queued read of G(5) at 64. -/
def reading (atom : Option AtomOp) (dest : Dest) (n : Nat) : State := small id id fun g =>
  { g with reads := [⟨0, 1, 0, 0, dest, [⟨0, 64, n, 0⟩], [], atom, [(0, 1, 2)], false, none, .clear, 0, 0, [], []⟩], nextSeq := 1 }

theorem witness_ReadsTakeValues : Issues (reading none (.uniform 5 8) 8) (who (reading none (.uniform 5 8) 8))
    ∧ (reading none (.uniform 5 8) 8).ctx? 0 = some (ctxWith id)
    ∧ (who (reading none (.uniform 5 8) 8)).g.reads = [⟨0, 1, 0, 0, .uniform 5 8, [⟨0, 64, 8, 0⟩], [], none, [(0, 1, 2)], false, none, .clear, 0, 0, [], []⟩]
    ∧ (who (reading none (.uniform 5 8) 8)).g.queue = [] ∧ ((reading none (.uniform 5 8) 8).core 0).view = []
    ∧ (reading none (.uniform 5 8) 8).props = [] ∧ (reading none (.uniform 5 8) 8).memPoison = []
    ∧ (∀ e ∈ (who (reading none (.uniform 5 8) 8)).g.reads, behindFenceAll (who (reading none (.uniform 5 8) 8)).g e = false)
    ∧ inSpillArea (reading none (.uniform 5 8) 8) 0 64 = false
    ∧ (pageOf (reading none (.uniform 5 8) 8) .load 64).map (fun p => (p.pa, p.repl, p.attic)) = some (64, false, false) := ⟨⟨rfl, .inr rfl⟩, by decide⟩

/-- An atomic whose read half took 9 from its word. -/
def halfway : State := (reading (some .add) (.lanes 4 4) 4).modGroup 0 0 fun g =>
  { g with reads := g.reads.map fun e => { e with half := true, got := (bytesOf 4 9).zipIdx.map fun b => (0, b.2, b.1) } }

/-- A page without SATOM, and one with it, as the leaf of address 64. -/
def atomicPage (sat : Bool) : Option (Nat × Bool × Bool × Bool) :=
  let s := reading (some .add) (.lanes 4 4) 4
  match leafPage s 64 .atomic 64 1 (if sat then 0x5F else 0x1F) with
  | .ok p => some (p.pa, p.repl, p.attic, p.satom)
  | _ => none

theorem witness_AtomicSteps_halves : ((halfway.group? 0 0).map fun g => g.reads.map fun e => (e.half, e.got.length, e.atom)) = some [(true, 4, some .add)]
    ∧ halfway.memPoison = [] ∧ (∀ g ∈ (halfway.core 0).groups, ∀ e ∈ g.reads, behindFenceAll g e = false)
    ∧ atomicPage false = some (64, false, false, false) ∧ atomicPage true = some (64, false, false, true) := by decide

theorem witness_AtomicSteps : Memory.wf (reading (some .add) (.lanes 4 4) 4).mem = true
    ∧ ((reading (some .add) (.lanes 4 4) 4).group? 0 0).map Group.queue = some []
    ∧ (reading (some .add) (.lanes 4 4) 4).ctx? 0 = some (ctxWith id) ∧ (reading (some .add) (.lanes 4 4) 4).props = []
    ∧ (pageOf (reading (some .add) (.lanes 4 4) 4) .atomic 64).map (fun p => (p.pa, p.repl, p.sys)) = some (64, false, false) := by decide

/-- A write in flight to 64. -/
def flying (repl : Option (Nat × Nat)) (b : Beyond) (home : Bool) : State := { plain with props := [⟨0, 0, 0, [(64, 1)], repl, b, home, [], none⟩] }

theorem witness_PropagationsAndDrops : ∀ p ∈ [((.none, false) : Beyond × Bool), (.node, false), (.node, true), (.host, true)],
    let s := flying none p.1 p.2
    Memory.wf s.mem = true ∧ s.attic = [] ∧ s.props[0]? = some ⟨0, 0, 0, [(64, 1)], none, p.1, p.2, [], none⟩
      ∧ mayArrive s 0 ⟨0, 0, 0, [(64, 1)], none, p.1, p.2, [], none⟩ = true := by decide

/-- A write through to the node behind port 1 with the trap its group owes if it is refused, and the port's link. -/
def through (link : Nat) : Propagation × State :=
  let p : Propagation := ⟨0, 0, 0, [(2 ^ 51 + 2 ^ 41, 1)], none, .node, true, [],
    some (0, ⟨none, none, true, 0, .accessViolation, BitVec.ofNat 64 (2 ^ 39), 1, 0⟩)⟩
  (p, { plain with props := [p], dev := { plain.dev with ports := List.replicate 8 ⟨link, 0, true, 0⟩ } })

theorem witness_PropagationsAndDrops_port :
    (through 2).2.props[0]? = some (through 2).1 ∧ mayArrive (through 2).2 0 (through 2).1 = true
    ∧ portUp (through 2).2 (through 2).1.port = true ∧ portUp (through 0).2 (through 0).1.port = false
    ∧ (((through 0).2.group? 0 0).map Group.block) = some 0 ∧ (through 0).1.owed.isSome = true := by decide

/-- A replica set of two members in memory at 0x2000: dies 0 and 1, sequencer 0, bases 0x100000 and 2^37. -/
def replicated (f : State → State) : State :=
  f ((small (fun x => { x with replsets := 0x2000 }) id id).poke 0x2000 (bytesOf 8 3 ++ bytesOf 8 0x100000 ++ bytesOf 8 (2 ^ 37)))

/-- A stamped write that waits for die 1. -/
def pending0 (s : State) : State := { s with replicas := [⟨0, 0, 1, [⟨0, 1, [(64, 1)], [], 0, 0, 0, none⟩]⟩] }

theorem witness_ReplicasAndHost_apply : Memory.wf (replicated pending0).mem = true
    ∧ (replicated pending0).ctx? 0 = some (ctxWith fun x => { x with replsets := 0x2000 })
    ∧ ((replicated pending0).replicas.find? fun r => r.ctx == 0 && r.rset == 0) = some ⟨0, 0, 1, [⟨0, 1, [(64, 1)], [], 0, 0, 0, none⟩]⟩
    ∧ replicaOf (replicated pending0) (ctxWith fun x => { x with replsets := 0x2000 }) 0
      = some (3, 0, [0x100000, 2 ^ 37, 0, 0, 0, 0, 0, 0, 0, 0, 0, 0]) := by decide

theorem witness_ReplicasAndHost_stamp :
    let s := replicated fun s => { s with props := [⟨0, 0, 0, [(0x100040, 1)], some (0, 0), .none, false, [], none⟩] }
    Memory.wf s.mem = true ∧ s.props[0]? = some ⟨0, 0, 0, [(0x100040, 1)], some (0, 0), .none, false, [], none⟩
    ∧ mayArrive s 0 ⟨0, 0, 0, [(0x100040, 1)], some (0, 0), .none, false, [], none⟩ = true
    ∧ (replicaOf s (ctxWith fun x => { x with replsets := 0x2000 }) 0).isSome = true := by decide

theorem witness_ReplicasAndHost_unread : replicaOf { pending0 plain with mem := [] } (ctxWith id) 0 = none
    ∧ ((pending0 plain).replicas.find? fun r => r.ctx == 0 && r.rset == 0).isSome = true := by decide

theorem witness_ReplicasAndHost_host : NoHalves plain := by unfold NoHalves; decide

/-! The matrix engine and the copies. -/

/-- The block holds the engine; slot 0 is open; g4 holds 1, g5 holds 1 << 10 (one row of slot 0) and g6 the command's address 0. -/
def engine (y : Matrix → Matrix) : State := blocked id (fun z => withG 5 0x400 (withG 4 1 { z with matrix := y z.matrix })) id

/-- One pass of the first quarter, on an open slot, with four columns loaded. -/
def passAsked : State := blocked id
  (fun z => { z with matrix := { z.matrix with slots := z.matrix.slots.set 0 .opened, used := 1, count0 := 4 } })
  fun g => { g with live := 0xFF, splits := [newSplit 0 0 1 0] }

theorem witness_MatrixIssue_mstream :
    let s := passAsked
    Issues s (who s) ∧ holdsEngine (who s) = true ∧ typeAccepted s .f32 = true ∧ wellFormed (.mstream 0 2 4 8 .f32) = true
    ∧ (passAsks s (who s) (activeOf s (who s) 0) 2 4).length = 1 ∧ mstreamFault s (who s) .f32 8 (passAsks s (who s) (activeOf s (who s) 0) 2 4) = none
    ∧ admitMine s (who s) 6 (chargeOf s 6 (shapeM 8)) = .go ∧ (s.core 0).matrix.queue.length + 1 ≤ 32
    ∧ acquirePending (who s).g = false ∧ releaseReady s 0 (who s).g = true := ⟨⟨rfl, .inr rfl⟩, by decide⟩

theorem witness_MatrixIssue_mload :
    let s := engine id
    Issues s (who s) ∧ holdsEngine (who s) = true ∧ (uniG s (who s) 4).toNat % 128 = 1 ∧ 1 ≤ Config.width 0
    ∧ admitMine s (who s) 7 (chargeOf s 7 1) = .go ∧ (s.core 0).matrix.queue.length < 32 ∧ (s.core 0).matrix.used ≠ 64
    ∧ 128 * 1 ≤ (ownScratch (who s)).2 ∧ acquirePending (who s).g = false
    ∧ releaseReady s 0 (who s).g = true := ⟨⟨rfl, .inr rfl⟩, by decide⟩

theorem witness_MatrixIssue_slots :
    let s := engine fun m => { m with slots := m.slots.set 0 .opened, used := 1 }
    Issues s (who s) ∧ holdsEngine (who s) = true ∧ (uniG s (who s) 3).toNat < 64 ∧ slotState (s.core 0).matrix.slots 0 = .opened
    ∧ (uniG s (who s) 5).toNat / 2 ^ 10 % 32 = 1 ∧ (uniG s (who s) 5).toNat < 2 ^ 15 ∧ admitMine s (who s) 9 (chargeOf s 9 1) = .go
    ∧ 4 * Config.width 0 ≤ (ownScratch (who s)).2 ∧ acquirePending (who s).g = false
    ∧ releaseReady s 0 (who s).g = true := ⟨⟨rfl, .inr rfl⟩, by decide⟩

/-- A ready slot and an epilogue record at address 0: one row of f32 to 64. -/
def epilogueHeld (h : Hold) : State := blocked id (fun z => ({ z with matrix := { z.matrix with slots := z.matrix.slots.set 0 .ready, used := 1 } } : Core).putScratch 0
  (bytesOf 1 0 ++ bytesOf 1 0 ++ bytesOf 1 0 ++ bytesOf 1 0 ++ bytesOf 4 0 ++ bytesOf 4 0 ++ bytesOf 4 1024 ++ bytesOf 4 256 ++ bytesOf 4 1))
  fun g => { g with live := 1, splits := [{ newSplit 0 0 1 0 with hold := h }] }

/-- It, before the EPI issues. -/
def epilogue : State := epilogueHeld .none

theorem witness_MatrixIssue_epi :
    let record := readPlace epilogue ⟨0, 0⟩ 32
    epilogue.group? 0 0 = some (who epilogue).g ∧ (who epilogue).sp.hold = .none
    ∧ (∀ h ∈ [Hold.commandQueueFull, .vacateStall], (who (epilogueHeld h)).sp.hold = h ∧ readPlace (epilogueHeld h) ⟨0, 0⟩ 32 = record)
    ∧ let s := epilogueHeld (.epiRead record none)
    let r := epiRecordOf (readPlace s ⟨0, 0⟩ 32)
    Issues s (who s) ∧ holdsEngine (who s) = true ∧ (∀ j < 4, (who s).core.poisonedAt (8 * j) 8 = false)
    ∧ epiValid s 0 (ownScratch (who s)).2 r = true ∧ r.accKind = 0 ∧ (s.core 0).matrix.used = 1
    ∧ slotState (s.core 0).matrix.slots (s.core 0).matrix.tail = .ready ∧ admitMine s (who s) 8 (chargeOf s 8 0) = .go
    ∧ acquirePending (who s).g = false ∧ releaseReady s 0 (who s).g = true :=
  ⟨rfl, rfl, by decide, ⟨rfl, .inr rfl⟩, by decide⟩

/-- A command at the head of the queue of an engine, a cycle later. -/
def queued (k : CommandKind) : State :=
  { blocked id (fun z => { z with matrix := { z.matrix with queue := [newCommand 0 none 0 128 k] } }) id with cycle := 1 }

theorem witness_MatrixRuns : ∀ k ∈ [CommandKind.zero 63, .load 1 0 16, .amov true 0 5 0 16, .amov false 0 5 15 1,
    .pass 0 63 15 60 1 true 1 4 false .e4m3, .pass 0 62 0 0 0 false 4 16 true .f64,
    .epi (epiRecordOf (readPlace epilogue ⟨0, 0⟩ 32)) 0 3], runnable (queued k) 0 0 = some (newCommand 0 none 0 128 k, 0)
      ∧ (newCommand 0 none 0 128 k).left ≠ [] ∧ ∀ u ∈ (newCommand 0 none 0 128 k).left,
        (0, u) ∈ unitsLeft ((queued k).core 0).matrix.queue := by decide

/-- A command of which one unit is left, of those of MatrixRuns with several. -/
def lastUnit (k : Command) (u : Nat) : Command := { k with left := [u] }

theorem witness_MatrixRuns_last :
    let k := lastUnit (newCommand 0 none 0 128 (.epi ⟨0, 0, 0, 6, 64, 320, 1024, 256, 2, 0, true⟩ 0 3)) 3
    let s : State := { queued k.kind with cores := (queued k.kind).cores.map fun x => { x with matrix := { x.matrix with queue := [k] } } }
    (newCommand 0 none 0 128 k.kind).left = [0, 1, 2, 3] ∧ runnable s 0 0 = some (k, 0) ∧ (3 ∈ k.left ∧ ∀ v ∈ k.left, 3 ≤ v)
    ∧ (unitsLeft (s.core 0).matrix.queue)[0]? = some (0, 3) := by decide

/-- The lanes of v2 and v3 hold a record's address and the low word of v4 is 64 bytes. -/
def copying : State := small id (fun y => y.landV loadGroup 4 0 64) fun g => { g with live := 1, splits := [newSplit 0 0 1 0] }

theorem witness_CopyIssue : Issues copying (who copying) ∧ (2 : VReg).val + 1 < (who copying).g.allot ∧ (58 : VReg).val + 5 < (who copying).g.allot
    ∧ wellFormed (.tcopy 0 4 2) = true ∧ wellFormed (.tcopyq 0 4 2) = true ∧ activeOf copying (who copying) 0 ≠ 0
    ∧ lanePair copying (who copying) 2 0 % 128 = 0 ∧ (laneV copying (who copying) 4 0).toNat = 64
    ∧ activeOf undivided (who undivided) 2 = 0
    ∧ admitMine copying (who copying) 0 (chargeUnits copying 0 64) = .go ∧ admitMine copying (who copying) 2 (chargeUnits copying 2 64) = .go
    ∧ acquirePending (who copying).g = false ∧ releaseReady copying 0 (who copying).g = true := ⟨⟨rfl, .inr rfl⟩, by decide⟩

/-- A load of four f32 of a line at 0x1000 to DST 64, with a credit. -/
def layout0 : Layout :=
  { base := 0x1000, format := 1, kind := 0, ndims := 1, flags := 2, extents := [4, 0, 0, 0, 0], strides := [0, 0, 0, 0], boxes := [4, 0, 0, 0, 0],
    phaseBase := 0, bscale := 0, sscale := 0, dst := 64, barrier := 0, zerosOk := true }

/-- A copy of it at a unit, from an origin. -/
def copy0 (next : Nat) (origin : Int) (moved : Nat) : Copy :=
  { quant := false, lane := 0, vd := 9, recVa := 0, declared := 16, origin := [origin, 0, 0, 0, 0], phase := 0, layout := some layout0, next := next,
    ahead := [], buffer := [], moved := moved, code := none, codeAt := 0, ends := none, trying := 0, bad := 0,
    places := [], owed := none, word := 0 }

/-- An operation of the group's block in flight on a gate. -/
def op0 (g : Gate) (k : OpKind) : Op := ⟨1, 0, 0, 0, 0, 0, g, 1, 0, 0, 0, false, false, k⟩

/-- A state with one operation in flight. -/
def flight (o : Op) : State := { blocked id id id with ops := [o], nextId := 2 }


/-- The copy's operation at unit `n`, from origin `z`, with `m` bytes moved. -/
def copyAt (n : Nat) (z : Int) (m : Nat) : State := flight (op0 .gc (.copy (copy0 n z m)))

theorem witness_CopyEvents_unit :
    let s := copyAt 3 0 0
    let o := op0 .gc (.copy (copy0 3 0 0))
    let x := ctxWith id
    s.op? 1 = some o ∧ s.ctx? o.ctx = some x ∧ opWaits s o 0 = false ∧ (copy0 3 0 0).unit 0 = 3 ∧ (copy0 3 1 0).unit 0 = 3 ∧ 3 < (copy0 3 0 0).limit layout0 ∧ layout0.store = false ∧ layout0.nq4 = false
    ∧ inBounds layout0 (coordsOf (copy0 3 0 0) layout0 3) = true
    ∧ (match engineSpans s o x 0 5 .load (elementVa layout0 (coordsOf (copy0 3 0 0) layout0 3)) layout0.size with
      | .ok ps u => ps.all (fun p => !p.1.attic) && (opBytes u o x ps).all (fun b => !b.2)
      | _ => false) = true
    ∧ inBounds layout0 (coordsOf (copy0 3 1 0) layout0 3) = false := by decide

theorem witness_CopyEvents_end :
    let s := copyAt 4 0 0
    let o := op0 .gc (.copy (copy0 4 0 16))
    let t := flight o
    (copy0 4 0 0).moved < (copy0 4 0 0).landEdge layout0 ∧ replPending t o = false ∧ opWaits s (op0 .gc (.copy (copy0 4 0 0))) 0 = false
    ∧ (copy0 4 0 16).landed layout0 = true ∧ creditsSettled t o = true ∧ (t.group? 0 0).isSome = true
    ∧ isG0 ((t.group? 0 0).getD loadGroup) 9 0 = false := by decide

/-! The traversal engine. -/

/-- v2 and v3 of lane 0 hold `va`, v4 holds `x`; v9 holds handle 1. %tvstack: base 0x100000, HLOG 8, ELOG 8. Lane 0 is the split's. -/
def walking (va x : Nat) (f : Group → Group) : State := small (fun c => { c with tvstack := 0x100808 })
  (fun y => ((y.landV loadGroup 2 0 (BitVec.ofNat 32 va)).landV loadGroup 4 0 (BitVec.ofNat 32 x)).landV loadGroup 9 0 1)
  fun g => f { g with live := 1, splits := [newSplit 0 0 1 0] }

theorem witness_WalksStart :
    let s := walking 0x1000 0x05 id
    let w := who s
    let tv := (ctxOf s w).tvstack.toNat
    Issues s w ∧ (2 : VReg).val + 2 < w.g.allot ∧ (9 : VReg).val < w.g.allot ∧ s.feature 3 = true ∧ inService w.g = false
    ∧ activeOf s w 0 = 1 ∧ 4 ≤ bits tv 0 5 ∧ bits tv 0 5 ≤ 20 ∧ bits tv 8 5 ≤ 16 ∧ bits tv 16 41 ≠ 0
    ∧ (laneV s w 9 0).toNat < 2 ^ bits tv 8 5 ∧ lanePair s w 2 0 % 16 = 0 ∧ lanePair s w 2 0 < 2 ^ 57 ∧ bits (laneV s w 4 0).toNat 4 4 = 0
    ∧ bits (laneV s w 4 0).toNat 20 12 = 0 ∧ walksOn s w.c w.g.ctx = [] ∧ acquirePending w.g = false ∧ releaseReady s 0 w.g = true
    ∧ admitMine s w 12 (chargeOf s 12 0) = .go := ⟨⟨rfl, .inr rfl⟩, by decide⟩

theorem witness_WalksStart_service : Issues serving (who serving) ∧ inService (who serving).g = true ∧ serving.feature 3 = true :=
  ⟨⟨rfl, .inr rfl⟩, by decide⟩

theorem witness_WalkControl :
    let s := walking 0x1000 0x10001 id
    let w := who s
    Issues s w ∧ (9 : VReg).val < w.g.allot ∧ (2 : VReg).val + 2 < w.g.allot ∧ s.feature 3 = true ∧ activeOf s w 0 = 1
    ∧ lanePair s w 2 0 < 2 ^ 57 ∧ lanePair s w 2 0 % 16 = 0 ∧ bits (laneV s w 4 0).toNat 12 4 = 0 ∧ bits (laneV s w 4 0).toNat 16 16 ≠ 0
    ∧ s.ops = [] ∧ acquirePending w.g = false ∧ releaseReady s 0 w.g = true := ⟨⟨rfl, .inr rfl⟩, by decide⟩

theorem witness_WalkControl_return : Issues serving (who serving) ∧ inService (who serving).g = true
    ∧ activeOf serving (who serving) 0 ≠ 0 ∧ (who serving).g.spilled = 0 := ⟨⟨rfl, .inr rfl⟩, by decide⟩

/-- A walk of a lane at a point, with a stack. -/
def walk0 (lane : Nat) (hot : List WEntry) (p : WalkPoint) : Walk :=
  { lane := lane, handle := lane, area := 0x200000, elog := 8, hot := hot, spilled := 0, query := 0x100000, frames := 0, cutGalley := none,
    visited := 0, point := p, cuts := [], bad := 0 }

/-- Walks in flight to v9, with a kind table at 0x3000 whose kind 0 has nodes of 16 bytes, and whose kind 1 is null. -/
def walks (ws : List Walk) : State :=
  let s := (flight (op0 .gt (.walks 9 ws))).poke 0x3000 (bytesOf 2 16)
  s.modCore 0 fun y => { y with blocks := [{ block0 with rec_ := { launch0 with kinds := 0x3000 } }] }

/-- What the kind of an entry's node reads as. -/
def kindAt (s : State) (q : Walk) (n : Nat) : Option NodeKind :=
  match s.op? 1, s.ctx? 0, (s.core 0).block? 0 with
  | some o, some x, some b => match readKind s o x b q n with
    | .ok (k, _) => some k
    | _ => none
  | _, _, _ => none

theorem witness_WalkVisits :
    let e : WEntry := ⟨0x1000, 0, 0, 0, 0⟩
    let q := walk0 0 [e] .boundary
    let r := walk0 1 [e] .boundary
    let s := walks [q, r]
    let o := op0 .gt (.walks 9 [q, r])
    let v := walks [walk0 0 [] (.visiting e), r]
    s.op? 1 = some o ∧ s.ctx? 0 = some (ctxWith id) ∧ opWaits s o 0 = false ∧ replPending s o = false
    ∧ (kindAt v (walk0 0 [] (.visiting e)) 0).map NodeKind.enter = some 0
    ∧ ((s.core 0).block? 0).map Block.phase = some .running ∧ (∃ v ∈ [q, r], v.lane ≠ q.lane ∧ v.over = false)
    ∧ (kindAt s q 0).map (fun k => (k.empty, k.valid, k.enter)) = some (false, true, 0)
    ∧ (kindAt s q 1).map NodeKind.empty = some true
    ∧ isG0 loadGroup 9 0 = false ∧ (s.group? 0 0).isSome = true := by decide

theorem witness_WalkVisits_done :
    let q := walk0 0 [] .boundary
    let r := walk0 1 [] (.ended 0)
    let s := walks [q, r]
    (s.op? 1).map Op.kind = some (.walks 9 [q, r]) ∧ walkTrap 0 = none ∧ ([q, r].map Walk.lane).Nodup := by decide

/-- A block of one call that waits in its queue, with row 2 and slot 3 for its service groups. -/
def calling (waited : Nat) (n : Nat) : State :=
  let s := walks [walk0 0 [] (.entering ⟨0x1000, 0, 0, 0, 0⟩ none)]
  s.modCore 0 fun y => { y with blocks := [{ block0 with routineRow := some 2, routineSlot := some 3,
                                                          calls := List.replicate n { call0 with waited := waited } }] }

theorem witness_ServiceGroups_form :
    let s := calling 64 32
    let b := ((s.core 0).block? 0).getD block0
    (s.core 0).block? b.id = some b ∧ b.routineRow = some 2 ∧ b.routineSlot = some 3 ∧ serves s b = true ∧ (s.core 0).group? 3 = none
    ∧ (b.calls.find? fun c => decide (32 ≤ (b.calls.filter fun d => d.routine == c.routine).length) || decide (64 ≤ c.waited)) = some { call0 with waited := 64 }
    ∧ 32 ≤ (b.calls.filter fun d => d.routine == (0 : Nat)).length ∧ 64 ≤ ({ call0 with waited := 64 } : Call).waited := by decide

/-- The service group of one call has returned. -/
def returned : State :=
  let s := calling 64 0
  s.modCore 0 fun y => { y with groups := y.groups ++ [{ loadGroup with slot := 3, live := 0, splits := [], service := [call0] }] }

theorem witness_ServiceGroups_return :
    let g := ((returned.core 0).group? 3).getD loadGroup
    ((returned.core 0).groups.find? fun g => g.block == 0 && !g.service.isEmpty) = some g ∧ g.slot = 3 ∧ g.ended = true ∧ g.quiet = true
    ∧ writesPerformed returned 0 g g.nextSeq .package = true ∧ g.service = [call0]
    ∧ (returned.op? call0.op).map Op.kind = some (.walks 9 [walk0 0 [] (.entering ⟨0x1000, 0, 0, 0, 0⟩ none)]) := by decide

theorem witness_ServiceGroups_cut :
    let s := flight (op0 .gt (.cut [⟨0, 0, 0, 1, 0x1000, some true⟩]))
    (s.op? 1).map Op.kind = some (.cut [⟨0, 0, 0, 1, 0x1000, some true⟩]) ∧ (s.op? 1).map (replPending s) = some false ∧ (s.group? 0 0).isSome = true := by decide

/-! Galleys. -/

/-- Galley 0: records of 16 bytes, four slots, at 0x8000000. -/
def galley0 : Galley :=
  { id := 0, ctx := 0, ring := 0x8000000, recLog := 4, capLog := 2, thresh := 1, consumer := 0, doneSig := 0, head := 0, tail := 0, overflow := 0,
    outstanding := 0, slots := [], launches := 0, live := [], idle := 0 }

/-- The small state with a galley bound. -/
def bound (y : Galley) : State := { small id (withG 5 7 ∘ withG 4 0x1000) id with galleys := [y] }

theorem witness_GalleyInstructions_transfers :
    let s := bound galley0
    let w := who s
    Issues s w ∧ (63 : VReg).val < w.g.allot ∧ s.feature 3 = true ∧ activeOf s w 0 ≠ 0 ∧ s.galley? 0 = some galley0
    ∧ (∀ l ∈ lanesOf (activeOf s w 0), (laneV s w 63 l).toNat = 0 ∧ (laneV s w 0 l).toNat + 2 ^ galley0.recLog ≤ (ownScratch w).2)
    ∧ acquirePending w.g = false ∧ releaseReady s 0 w.g = true ∧ admitMine s w 13 (chargeOf s 13 0) = .go ∧ uniG s w 0 = 0 ∧ galley0.ctx = w.g.ctx ∧ galley0.tail = galley0.head := ⟨⟨rfl, .inr rfl⟩, by decide⟩

theorem witness_GalleyInstructions_other :
    let s := bound { galley0 with ctx := 1 }
    let u := bound { galley0 with tail := 1 }
    Issues s (who s) ∧ Issues u (who u) ∧ s.galley? 0 = some { galley0 with ctx := 1 } ∧ u.galley? 0 = some { galley0 with tail := 1 } :=
  ⟨⟨rfl, .inr rfl⟩, ⟨rfl, .inr rfl⟩, by decide⟩

theorem witness_GalleyInstructions_bind :
    let s := (bound galley0).poke 0x1000 (bytesOf 8 0x8000000 ++ [4, 2, 0, 0] ++ bytesOf 4 1)
    let w := who s
    Issues s w ∧ s.galley? ((uniG s w 5).toNat % 4096) = none ∧ uniG s w 4 ≠ 0 ∧ (uniG s w 4).toNat < 2 ^ 57 ∧ (uniG s w 4).toNat % 64 = 0
    ∧ (match (readVa s (.core 0) (ctxOf s w) 0x1000 64).1 with
      | .ok bs => galleyDescOk bs (galleyOf 7 0 bs) && fieldOf bs 0x18 8 == 0
      | _ => false) = true := ⟨⟨rfl, .inr rfl⟩, by decide⟩

/-- A lane of a transfer. -/
def lane0 (slot : Option Nat) (bytes : Option (List Byte)) (r : Option Word) : GalleyLane := ⟨0, 0, 0, slot, bytes, r, none⟩

/-- A transfer in flight to v9. -/
def transfer (put : Bool) (y : Galley) (l : GalleyLane) : State :=
  { flight (op0 .gt (if put then .put 9 [l] else .take 9 [l])) with galleys := [y] }

theorem witness_GalleyTransfers_reservation :
    let full : Galley := { galley0 with slots := [(0, .published), (1, .void), (2, .published), (3, .reserved)], tail := 4 }
    (∀ p ∈ [true, false], ∀ y ∈ [galley0, full, { full with head := 3 }], let s := transfer p y (lane0 none none none)
      (s.op? 1).map Op.kind = some (if p then OpKind.put 9 [lane0 none none none] else .take 9 [lane0 none none none])
        ∧ s.galley? (lane0 none none none).galley = some y)
    ∧ galley0.slots.length < 2 ^ galley0.capLog ∧ 2 ^ full.capLog ≤ full.slots.length
    ∧ (full.slots.find? fun p => p.1 == full.head.toNat) = some (full.head.toNat, .published)
    ∧ (galley0.slots.find? fun p => p.1 == galley0.head.toNat) = none
    ∧ (full.slots.find? fun p => p.1 == 3) = some (3, .reserved) := by decide

theorem witness_GalleyTransfers_publish :
    let l := lane0 (some 0) (some (bytesOf 16 5)) none
    let s := transfer true { galley0 with slots := [(0, .reserved)], tail := 1, outstanding := 1 } l
    let o := op0 .gt (.put 9 [l])
    Memory.wf s.mem = true ∧ s.op? 1 = some o ∧ s.ctx? o.ctx = some (ctxWith id) ∧ opWaits s o 0 = false ∧ replPending s o = false ∧ bytesOf 16 5 ≠ []
    ∧ (match engineSpans s o (ctxWith id) 0 1 .store (0x8000000 + 2 ^ 4 * (0 % 2 ^ 2)) 16 with
      | .ok [(p, n)] _ => n == 16 && !p.repl
      | _ => false) = true := by decide

theorem witness_GalleyTransfers_complete :
    let l := lane0 (some 0) none (some 1)
    let s := transfer false galley0 l
    (s.op? 1).map Op.kind = some (.take 9 [l]) ∧ (s.group? 0 0).isSome = true ∧ isG0 ((s.group? 0 0).getD loadGroup) 9 0 = false := by decide

/-- A record of one block of one group with 4,096 bytes of scratchpad and mode FLUSH, at 0x10000, in memory. -/
def recorded (s : State) : State :=
  let at_ := 0x10000
  ((((((s.poke at_ (bytesOf 4 0x01020001)).poke (at_ + 0x18) (bytesOf 2 0x0101)).poke (at_ + 0x1C) (bytesOf 4 4096)).poke (at_ + 0x20)
    (bytesOf 2 1 ++ bytesOf 2 1 ++ bytesOf 2 1 ++ [3, 1])).poke (at_ + 0x30) (bytesOf 2 1 ++ bytesOf 2 1 ++ bytesOf 2 1 ++ [4, 0])).poke (at_ + 0xA0)
    (bytesOf 4 1)).poke (at_ + 0xDC) [12]

/-- What that record reads as. -/
def launch1 : Launch := launchOf 0x10000 ((List.range 256).map fun j => Memory.read (recorded plain).mem (0x10000 + j))

/-- The same record, with galley 0 for its consumers. -/
def consuming (y : Galley) : State :=
  { (recorded (blocked id id id)).poke (0x10000 + 0xF0) (bytesOf 2 0x8000) with galleys := [{ y with consumer := 0x10000 }], nextId := 2 }

theorem witness_ConsumerLaunches :
    let y : Galley := { galley0 with consumer := 0x10000, head := 0, tail := 1, slots := [(0, .published)], idle := 4096 }
    let s := consuming y
    let x := ctxWith id
    let p : Placement := ⟨0xFC, 4096⟩
    s.galley? 0 = some y ∧ (ctxForWork s 0).1 = some x ∧ (match readLaunch s (.core 0) x 0x10000 (boundConsumer s 0) with
      | (.ok r, u) => u.holdsCluster x.func (Config.clusterIndex 0 (Config.clusterOf 0)) && (r.share 0 != 0) && (r.maxLive == 0)
          && admits u x 0 r && (match agentCarve (u.core 0) r p with
            | none => false
            | some (made, table, routine) =>
              let n := placeBlock (u.setCore made) 0 x r (y.launches % 2 ^ 32) 0 p.spbase table routine none
              ((n.2.core 0).block? n.1).map Block.rec_ == some r && admits n.2 x 0 r)
      | _ => false) = true ∧ x.phase = .idle
    ∧ y.thresh * (waitingConsumers s y + 1) ≤ y.avail ∧ 0 < y.avail ∧ waitingConsumers s y = 0 ∧ 4096 ≤ y.idle := by decide

/-! The exchange and the fabric. -/

/-- A channel from core 0 of die 0 to core 0 of die 4. -/
def channel0 : ChanDesc := ⟨0, 0, 0, 0, 4, 0, 0, 0, 16, 2, 0x100, 0x20, 0x10, true⟩

/-- Its ends. -/
def end0 (sender : Bool) (granted count : Word) : ChanEnd :=
  ⟨if sender then 20 else 21, 0, 0, 0, (0, 0, 0), sender, .live, 0x1000, channel0, count, granted⟩

/-- The small state with an end of the channel bound on core 0 and its peer on core 640; g4 and g5 hold values. -/
def channelled (sender : Bool) (v x : Nat) : State :=
  let s := small id (fun y => { withG 5 x (withG 4 v y) with blocks := [block0], ends := [end0 sender 1 0] }) id
  s.modCore 640 fun y => { y with blocks := [block0], ends := [end0 (!sender) 1 0] }

theorem witness_ExchangeInstructions_permit :
    let s := channelled false 0x100 0
    let w := who s
    Issues s w ∧ inService w.g = false ∧ s.feature 4 = true ∧ (uniG s w 4).toNat = 0x100 ∧ w.core.endOf w.g.block 0 = some (end0 false 1 0)
    ∧ peerOf s (end0 false 1 0) = some (end0 true 1 0) ∧ ((end0 false 1 0).granted + BitVec.ofNat 32 1 - (end0 false 1 0).count).toInt ≤ (end0 false 1 0).desc.slots := ⟨⟨rfl, .inr rfl⟩, by decide⟩

theorem witness_ExchangeInstructions_send :
    let s := channelled true 0x40 0x1000
    let w := who s
    let q := end0 true 1 0
    Issues s w ∧ (uniG s w 5).toNat = 0x1000 ∧ (uniG s w 4).toNat = 0x40 ∧ w.core.endOf w.g.block 0 = some q
    ∧ peerOf s q = some (end0 false 1 0) ∧ (endAt s 21).map (fun p => (p.1, p.2.1)) = some (640, end0 false 1 0)
    ∧ acquirePending w.g = false ∧ releaseReady s 0 w.g = true ∧ 0 < (q.granted - q.count).toInt ∧ 16 ≤ q.desc.slotBytes ∧ 0x40 + 16 ≤ (ownScratch w).2
    ∧ admitMine s w 10 (chargeOf s 10 16) = .go := ⟨⟨rfl, .inr rfl⟩, by decide⟩

/-- The channel's descriptor in memory at 0x1000, and nothing bound. -/
def describing (x : Nat) : State :=
  (small id (fun y => { withG 5 x (withG 4 0x1000 y) with blocks := [block0] }) id).poke 0x1000
    ([0, 0, 0, 0, 4, 0, 0, 0] ++ bytesOf 4 16 ++ [2, 0, 0, 0] ++ bytesOf 4 0x100 ++ bytesOf 4 0x20 ++ bytesOf 4 0x10)

theorem witness_ExchangeInstructions_bind :
    let s := describing 8
    let w := who s
    Issues s w ∧ (uniG s w 5).toNat = 8 ∧ (uniG s w 4).toNat = 0x1000 ∧ boundEnds s = []
    ∧ (match readVa s (.core 0) (ctxOf s w) 0x1000 64 with
      | (.ok bs, u) => bindStatus u w 0 true 0x1000 (chanDescOf bs) == 0
      | _ => false) = true := ⟨⟨rfl, .inr rfl⟩, by decide⟩

theorem witness_ExchangeInstructions_unbind :
    let s := describing 16
    Issues s (who s) ∧ (uniG s (who s) 5).toNat = 16 ∧ (who s).core.endOf (who s).g.block 0 = none := ⟨⟨rfl, .inr rfl⟩, by decide⟩

theorem witness_ExchangeEvents_grant :
    let s := (channelled false 0 0).modGroup 0 0 fun g =>
      { g with splits := [{ newSplit 0 0 1 0 with hold := .xpermit 21 1 }], permits := [⟨0, 21, 20, 1⟩] }
    let g := ((s.core 0).group? 0).getD loadGroup
    s.group? 0 0 = some g ∧ (g.split? 0).map Split.hold = some (.xpermit 21 1) ∧ g.la = [] ∧ g.parts = []
    ∧ g.permits = [⟨0, 21, 20, 1⟩] := by decide

theorem witness_ExchangeEvents_permit :
    let s : State := { channelled true 0 0 with grants := [⟨20, false⟩] }
    s.grants = [⟨20, false⟩] ∧ endAt s 20 = some (0, end0 true 1 0, block0) ∧ block0.phase ≠ .finished .save := by decide

/-- A send of 16 bytes to core 640, all landed but for the update. -/
def send0 : Send :=
  { sender := 20, receiver := 21, number := 0, src := 0x40, bytes := 16, core := 640, block := 0, tag := (0, 0, 0), landing := 0x100, landbar := 0x20,
    unread := [], sent := [], cut := false, applied := false }

theorem witness_ExchangeEvents_landing :
    let s : State := { channelled true 0 0 with ops := [op0 .gx (.send send0)] }
    (s.op? 1).map Op.kind = some (.send send0) ∧ sendTurn s send0 = true ∧ sendParked s send0 = false ∧ landingBlock s send0 = some (640, block0)
    ∧ (s.group? 0 0).isSome = true := by decide

theorem witness_ExchangeEvents_access :
    let x : Send := { send0 with bytes := 32, unread := [1], sent := [(0, List.replicate 16 (7, false))] }
    let s : State := { channelled true 0 0 with ops := [op0 .gx (.send x)] }
    (s.op? 1).map Op.kind = some (.send x) ∧ x.unread[0]? = some 1 ∧ x.sent[0]? = some (0, List.replicate 16 (7, false)) ∧ x.cut = false
    ∧ sendParked s x = false ∧ landingBlock s x = some (640, block0) ∧ (s.group? 0 0).isSome = true := by decide

/-- The registers of a transfer: 512 bytes from 0x100, and where to. -/
def transferring (remote word : Nat) : State := small id (withG 6 word ∘ withG 5 remote ∘ withG 4 (512 * 2 ^ 32 + 0x100)) id

theorem witness_FabricInstructions :
    (∀ p ∈ [((0x2000, 0) : Nat × Nat), (0x2000, 8), (0x2004, 16), (0x100, 64 + 3), (0x100, 128 + 7)], let s := transferring p.1 p.2
      let w := who s
      s.feature 5 = true ∧ acquirePending w.g = false ∧ releaseReady s 0 w.g = true ∧ (uniG s w 5).toNat = p.1 ∧ (uniG s w 6).toNat = p.2 ∧ (uniG s w 7).toNat = 0
        ∧ (uniG s w 4).toNat = 512 * 2 ^ 32 + 0x100 ∧ 0x100 + 512 ≤ (ownScratch w).2 ∧ admitMine s w 11 (chargeOf s 11 512) = .go)
    ∧ Issues (transferring 0x2000 0) (who (transferring 0x2000 0)) := ⟨by decide, rfl, .inr rfl⟩

/-- One message of 16 bytes, read and not landed, or landed. -/
def message0 (landed : Bool) : Message := ⟨0, 16, some (List.replicate 16 (7, false)), landed, landed, 0, 0, false⟩

/-- A transfer of one message through port 1. -/
def bulk0 (kind op : Nat) (landed : Bool) : Bulk :=
  { gd := 4, loc := 0x100, bytes := 16, remote := 2 ^ 39, port := 1, op := op, kind := kind, barrier := 0, credit := false, key := 3, slot := some ⟨3, [], 64, []⟩,
    messages := [message0 landed] }

/-- Such a transfer in flight, in a partition that holds key slot 3. The 64 GiB from 2^39 on lie in the attic memory of the node behind port 0. -/
def fabric (b : Bulk) : State :=
  let s : State := { flight (op0 .gx (.bulk b)) with dev := { plain.dev with keys := [⟨3, [], 64, []⟩], ports := List.replicate 8 ⟨2, 0, true, 0⟩ } }
  s.poke (0x8000 + 8 * 8) (bytesOf 8 (2 ^ 51 + 0x1F + 3 * 2 ^ 56))

theorem witness_FabricEvents :
    (∀ p ∈ [((0, 1) : Nat × Nat), (0, 0), (2, 0)], let b := bulk0 p.1 p.2 false
      let s := fabric b
      let o := op0 .gx (.bulk b)
      Memory.wf s.mem = true ∧ s.op? 1 = some o ∧ s.ctx? 0 = some (ctxWith id) ∧ opWaits s o 0 = false)
    ∧ (message0 false).blocked = false ∧ (fabric (bulk0 0 1 false)).dev.ports[1]? = some ⟨2, 0, true, 0⟩ ∧ portUp (fabric (bulk0 0 1 false)) 1 = true := by decide

/-- A PUT of one message in flight. -/
def putting : State := fabric (bulk0 0 0 false)

/-- The page it lands in. -/
def atticPage : Page := ⟨2 ^ 51, false, false, false, false, 0, true, 3, false⟩

/-- The state with the page's leaf in the caches. -/
def putCached : State :=
  let leaf := fun (s : State) (h : Tlb) => cacheLeaf s h 0 (2 ^ 39) 1 (2 ^ 51 + 0x1F + 3 * 2 ^ 56)
  leaf (leaf putting (.die 0)) (.core 0)

theorem attic_resolves (h : Config.atticMemory (2 ^ 51 / 2 ^ 16) = true) : resolvable putting (2 ^ 51) = true := by
  have hp : portUp putting (atticPort (2 ^ 51)) = true := by decide
  simp only [resolvable, hp, h]
  decide

theorem attic_leaf (h : Config.atticMemory (2 ^ 51 / 2 ^ 16) = true) :
    leafPage putting 64 .store (2 ^ 39) 1 (2 ^ 51 + 0x1F + 3 * 2 ^ 56) = .ok atticPage := by
  have hpa : bits (2 ^ 51 + 0x1F + 3 * 2 ^ 56) 16 36 * 65536 + 2 ^ 39 % 2 ^ levelShift 1 = 2 ^ 51 := by decide
  have hk : putting.holdsKey 64 (bits (2 ^ 51 + 0x1F + 3 * 2 ^ 56) 56 8) = true := by decide
  simp only [leafPage, hpa, attic_resolves h, hk]
  rfl

theorem attic_translates (h : Config.atticMemory (2 ^ 51 / 2 ^ 16) = true) :
    translateR putting (.core 0) (ctxWith id) .store (2 ^ 39) = (.ok atticPage, putCached) := by
  have hw : walk putting (ctxWith id) (2 ^ 39) = .ok (1, 2 ^ 51 + 0x1F + 3 * 2 ^ 56) := by decide
  have hf : (ctxWith id).func = 64 := rfl
  have hl : findLeaf putting (.core 0) (ctxWith id) (2 ^ 39) = (.ok (1, 2 ^ 51 + 0x1F + 3 * 2 ^ 56), putCached) := by
    simp only [findLeaf, hw]
    rfl
  have ht : Machine.translate putting (.core 0) (ctxWith id) .store (2 ^ 39) = (.ok atticPage, putCached) := by
    simp only [Machine.translate, hl, hf, attic_leaf h]
  simp only [translateR, ht]
  rfl

/-- That the node has memory there is the network's, and no constant of the model decides it: with it, a PUT's message has its place. -/
theorem witness_FabricEvents_put (h : Config.atticMemory (2 ^ 51 / 2 ^ 16) = true) :
    atticPlaces putting (op0 .gx (.bulk (bulk0 0 0 false))) (ctxWith id) (bulk0 0 0 false) 0 (message0 false) .store
        = .ok ([(atticPage, 16)], putCached) ∧ atticPage.repl = false ∧ keyUsable putCached (bulk0 0 0 false) (atticPort atticPage.pa) = true := by
  have hs : spansOf ((bulk0 0 0 false).remote + (message0 false).off) (message0 false).len = [(2 ^ 39, 16)] := by decide
  have hh : (highVa (2 ^ 39) || highVa (2 ^ 39 + 16 - 1)) = false := by decide
  have h16 : spansOf (2 ^ 39) 16 = [(2 ^ 39, 16)] := by decide
  refine ⟨?_, rfl, by decide⟩
  have hc : (op0 .gx (.bulk (bulk0 0 0 false))).core = 0 := rfl
  simp only [atticPlaces, hs, atticSpans, partSpans, hh, h16, placeSpans, hc, attic_translates h]
  rfl

theorem witness_FabricEvents_complete :
    let b := bulk0 1 0 true
    let s := fabric b
    (s.op? 1).map Op.kind = some (.bulk b) ∧ (∀ m ∈ b.messages, m.spent = true ∧ m.code = 0) ∧ creditsSettled s (op0 .gx (.bulk b)) = true
    ∧ replPending s (op0 .gx (.bulk b)) = false
    ∧ (s.group? 0 0).isSome = true ∧ b.gd ≠ 0 := by decide

/-- A message from another package to address 0x100 of the block of core 0. -/
def incoming : FabricMessage :=
  { port := 1, key := 3, authentic := true, die := 0, cluster := 0, core := 0, offset := 0x100, bytes := List.replicate 16 7, credit := false,
    barrier := 0 }

theorem witness_FabricEvents_receive :
    let s := fabric (bulk0 0 1 false)
    portUp s incoming.port = true ∧ s.keyOwner incoming.key = some 64 ∧ (s.core (Config.coreIndex 0 0 0)).blocks = [block0]
    ∧ block0.phase.outside = false ∧ block0.phase ≠ .finished .save ∧ incoming.authentic = true
    ∧ (s.ctx? block0.ctx).map Ctx.func = some 64 ∧ incoming.offset + incoming.bytes.length ≤ block0.rec_.scratch := by decide

/-- The small state under a plan of 2,500 ps. -/
def planned : State := let s := small id (fun y => { y with blocks := [block0] }) id; { s with dev := { s.dev with plan := 2500 } }

theorem witness_HealthEvents_late : planned.ctx? 0 = some (ctxWith id) ∧ planned.dev.plan = 2500 ∧ block0 ∈ (planned.core 0).blocks
    ∧ block0.ctx = 0 := by decide

theorem witness_FabricEvents_link :
    let s : State := { plain with dev := { plain.dev with ports := List.replicate 8 ⟨3, 5, true, 0⟩ } }
    s.dev.ports[7]? = some ⟨3, 5, true, 0⟩ ∧ portUp s 7 = false ∧ s.dev.service = .full := by decide

/-! The firmware agents. -/

/-- A group in row 0. -/
def agentGroup : Group := { loadGroup with first := 0, second := 0 }

/-- The small state's group as an agent's, with values in the low words of g4 and g5. -/
def agent (v x : Nat) (y : Core → Core) : State := small id
  (fun z => y ((z.landV agentGroup (gReg agentGroup 4) (gLane 4) (BitVec.ofNat 32 v)).landV agentGroup (gReg agentGroup 5) (gLane 5)
    (BitVec.ofNat 32 x))) fun _ => agentGroup

theorem witness_AgentInstructions_privilege : Issues plain (who plain) ∧ (who plain).g.first ≠ 0 := ⟨issues_plain, by decide⟩

theorem witness_AgentInstructions_lease :
    let s := agent 0x101 0 id
    let u := agent 0x202 0 fun y => y.setLease 2 .claimed
    Issues s (who s) ∧ (who s).g.first = 0 ∧ (uniG s (who s) 4).toNat / 2 ^ 8 % 4 = 1 ∧ (who s).core.lease 1 = .free
    ∧ Issues u (who u) ∧ (uniG u (who u) 4).toNat / 2 ^ 8 % 4 = 2 ∧ (who u).core.lease 2 = .claimed
    ∧ (uniG u (who u) 5).toNat / 2 ^ 8 % 4 = 0 := ⟨⟨rfl, .inr rfl⟩, by decide, by decide, by decide, ⟨rfl, .inr rfl⟩, by decide⟩

/-- Rows 2 and 3 are claimed; a dispatch record at 0x100 asks for one group of one row. -/
def carving (x : Nat) (y : Core → Core) : State := agent 0x100 x fun z =>
  (y (((z.setLease 2 .claimed).setLease 3 .claimed).putScratch 0x100
    (bytesOf 2 0 ++ [1, 0] ++ bytesOf 4 4096 ++ bytesOf 8 0x10000 ++ bytesOf 4 0 ++ bytesOf 4 0 ++ [1, 1, 0, 0] ++ bytesOf 4 4096 ++ [3, 2, 2])))

theorem witness_AgentInstructions_carve :
    let s := carving 4 id
    let u := agent 0 4 id
    let roles := fun (s : State) (o : Nat) => readPlace s ⟨0, o⟩ 8
    Issues s (who s) ∧ Issues u (who u) ∧ (uniG s (who s) 4).toNat = 0x100 ∧ (uniG s (who s) 5).toNat = 4 ∧ recordFault s (who s) 128 16 0x100 = none ∧ recordFault u (who u) 128 16 0 = none
    ∧ (match carveFor (who s).core (roles s (0x100 + 24)) (fun r => (4 : BitVec 64).toNat.testBit r) with | .ok t => t.length == 1 | _ => false) = true
    ∧ (match carveFor (who u).core (roles u 24) (fun r => (4 : BitVec 64).toNat.testBit r) with | .failed k => k == 3 | _ => false) = true :=
  ⟨⟨rfl, .inr rfl⟩, ⟨rfl, .inr rfl⟩, by decide⟩

theorem witness_AgentInstructions_keyset :
    let s := agent 5 0 fun y => y.putScratch 32 [64]
    let u := agent 5 0 fun y => y.putScratch 32 [63, 1]
    Issues s (who s) ∧ Issues u (who u) ∧ recordFault s (who s) 64 16 0 = none ∧ keyRecordOk (readPlace s ⟨0, 0⟩ 64) = false
    ∧ keyRecordOk (readPlace u ⟨0, 0⟩ 64) = true := ⟨⟨rfl, .inr rfl⟩, ⟨rfl, .inr rfl⟩, by decide⟩

/-- The launch record in memory, its block's resources in place, and another block of the context resident. -/
def dispatching : State :=
  { recorded (carving 0x14000 fun y => { y with blocks := [block0], carved := [(3, 2, 2)] }) with nextId := 2 }

theorem witness_AgentBlocks_dispatch :
    let s := dispatching
    let w := who s
    let q := drecordOf (readPlace s ⟨0, 0x100⟩ 128)
    let x := ctxWith id
    Issues s w ∧ w.g.first = 0 ∧ recordFault s w 128 16 0x100 = none ∧ q.ctx = 0 ∧ (ctxForWork s 0).1 = some x ∧ q.launch = 0x10000
    ∧ x.phase ≠ .vacating ∧ (match readLaunch s (.core 0) x 0x10000 (boundConsumer s 0) with
      | (.ok r, u) => recordAgrees q r && u.holdsCluster x.func (Config.clusterIndex 0 (Config.clusterOf w.c)) && r.shareStart 0 == 0
          && q.block == 0 && r.share 0 == 1 && resourcesOk (u.core w.c) r q.spbase q.table && !r.traversal && r.unitLevel.isNone
          && admits u x w.c r
          && (let n := launchRunOf u x.id r.va
              let v := placeBlock u w.c x r q.block q.incarn q.spbase q.table none n
              placeFits u x.id r n q.block w.c && admits v.2 x w.c r
                && (match instanceMembers v.2 x.id r n q.block with
                  | [(c, k)] => c == w.c && k.id == v.1 && k.rec_ == r
                  | _ => false))
      | _ => false) = true
    ∧ (∀ k ∈ (s.core 0).blocks, k.id < s.nextId) ∧ (∀ e ∈ q.table, ((s.core 0).carved.find? fun p => p.1 == e.1) = some e)
    ∧ acquirePending w.g = false ∧ releaseReady s w.c w.g = true
    ∧ w.sp.hold ≠ .recordFailed ∧ (∀ x ∈ s.ctxs, x.asks (.dispatch w.c w.slot w.idx) = false) ∧ x.halted = false
    ∧ (uniG s w 5).toNat % 64 = 0 ∧ (uniG s w 5).toNat < 2 ^ 57 := ⟨⟨rfl, .inr rfl⟩, by decide⟩

theorem witness_AgentBlocks_save :
    let s := agent 0 0x4000 fun y => { y with blocks := [block0] }
    let w := who s
    Issues s w ∧ blockAt w.core ((uniG s w 4).toNat % 32) = some block0 ∧ (s.core 0).block? 0 = some block0 ∧ block0.unit = none
    ∧ block0.phase = .running ∧ s.ctx? 0 = some (ctxWith id) ∧ bit block0.rec_.modes 2 = false ∧ (uniG s w 5).toNat % 64 = 0
    ∧ acquirePending w.g = false ∧ releaseReady s w.c w.g = true ∧ (uniG s w 5).toNat < 2 ^ 57
    ∧ blockAt w.core 7 = none := ⟨⟨rfl, .inr rfl⟩, by decide⟩

/-- A block of the small context as a vacate saved it. -/
def saved0 (flushed : Bool) : SavedBlock := ⟨0, 0, 0, 0x14000, launch0, none, none, none, flushed, [], [], false, [], false, false⟩

theorem witness_AgentBlocks_load_fails :
    let s : State := { dispatching with ctxs := dispatching.ctxs.map fun x => { x with saved := [{ saved0 false with core := 640 }] } }
    let x := ctxWith fun x => { x with saved := [{ saved0 false with core := 640 }] }
    let q := drecordOf (readPlace s ⟨0, 0x100⟩ 128)
    (match readLaunch s (.core 0) x q.launch (boundConsumer s 0) with
      | (.ok r, u) => (match imageAt u x 0 r q.block q.incarn 0x14000 with | .error n => n == 3 | .ok _ => false)
          && savedAt x q.block q.incarn r.va 0x14000 == some { saved0 false with core := 640 }
      | _ => false) = true ∧ Config.dieOf 640 ≠ 0 := by decide

theorem witness_AgentBlocks_load :
    let s : State := { dispatching with ctxs := dispatching.ctxs.map fun x => { x with saved := [saved0 false] } }
    let w := who s
    let q := drecordOf (readPlace s ⟨0, 0x100⟩ 128)
    let x := ctxWith fun x => { x with saved := [saved0 false] }
    Issues s w ∧ w.g.first = 0 ∧ recordFault s w 128 16 0x100 = none ∧ (uniG s w 4).toNat = 0x100 ∧ (ctxForWork s q.ctx).1 = some x
    ∧ acquirePending w.g = false ∧ releaseReady s w.c w.g = true ∧ (uniG s w 5).toNat = 0x14000
    ∧ w.sp.hold ≠ .recordFailed ∧ (∀ x ∈ s.ctxs, x.asks (.dispatch w.c w.slot w.idx) = false)
    ∧ (match readLaunch s (.core 0) x q.launch (boundConsumer s 0) with
      | (.ok r, u) => recordAgrees q r && u.holdsCluster x.func (Config.clusterIndex 0 (Config.clusterOf w.c))
          && resourcesOk (u.core w.c) r q.spbase q.table && placeOk u x.id w.c r (saved0 false) && !r.traversal
          && (match imageAt u x w.c r q.block q.incarn 0x14000 with | .ok z => z == saved0 false | .error _ => false)
      | _ => false) = true ∧ ∀ k ∈ (s.core 0).blocks, k.id < s.nextId := ⟨⟨rfl, .inr rfl⟩, by decide⟩

/-- A block that waits for its flush image, at 0x14000. -/
def loading0 : Block := { block0 with id := 3, incarn := 1, phase := .loading, slots := [3], rows := [2], saveVa := 0x14000 }

/-- The CTXLOAD that brings it in. -/
def loadingState : State :=
  let o := op0 .gc (.ctxload 0 0 3 0x14000)
  let s : State := { small (fun x => { x with saved := [saved0 true] }) (fun y => { y with blocks := [loading0] }) id with ops := [o], nextId := 4 }
  s.poke 0x14000 (bytesOf 2 0x5A56)

theorem witness_AgentBlocks_loaded :
    let s := loadingState
    let o := op0 .gc (.ctxload 0 0 3 0x14000)
    let x := ctxWith fun x => { x with saved := [saved0 true] }
    s.op? 1 = some o ∧ (s.group? 0 0).isSome = true ∧ (s.core 0).block? 3 = some loading0 ∧ s.ctx? 0 = some x
    ∧ (match imageAt s x 0 loading0.rec_ loading0.blockIndex loading0.incarn 0x14000 with | .ok z => z == saved0 true | .error _ => false) = true
    ∧ x.saved.contains (saved0 true) = true ∧ opWaits s o 0 = false
    ∧ (match readImage (fun t a n => engineSpans t o x 0 0 .load a n) (fun t ps => opBytes t o x ps) s 0 x true loading0.rec_ 0x14000 with
      | .ok img areas t => (restoreInto t 0 3 x (saved0 true) img areas).1 == 0
      | _ => false) = true := by decide +kernel

theorem witness_AgentBlocks_completions : ∀ k ∈ [OpKind.ctxload 9 1 0 0x4000, .tlbinv 3 1 0 0, .tlbinv 3 2 0 0],
    ((flight (op0 .gc k)).op? 1).map Op.kind = some k ∧ ((flight (op0 .gc k)).group? 0 0).isSome = true := by decide

/-! Splits and faults. -/

/-- Lanes 0 and 1 wait at the JOIN entry on top of the stack, at the address of the split of lanes 2 and 3. -/
def joining (arrived : Mask) (k : EntryKind) : State := small id id fun g =>
  { g with splits := [newSplit 0 64 12 0], stack := [⟨k, 64, 15, arrived, false⟩] }

theorem witness_SplitEvents_park :
    let s := joining 1 .join
    let u := joining 3 .join
    (∀ v ∈ [s, u], (v.group? 0 0).isSome = true ∧ ((v.group? 0 0).getD loadGroup).split? 0 = some (newSplit 0 64 12 0)
      ∧ ((v.group? 0 0).getD loadGroup).spilled = 0) ∧ (12 : Mask) &&& ~~~15 = 0 ∧ (1 : Mask) ||| 12 ≠ 15 ∧ (3 : Mask) ||| 12 = 15 := by decide

theorem witness_SplitEvents_fill :
    let g := ((joining 0 .defer).group? 0 0).getD loadGroup
    (joining 0 .defer).group? 0 0 = some g ∧ g.freeIdx = some 1 ∧ g.spilled = 0 ∧ g.stack = [⟨.defer, 64, 15, 0, false⟩] := by decide

/-- A group whose split is held, on a word that is an XSEND at address 0. -/
def held0 (h : Hold) (n : Nat) : State :=
  ({ small id id id with mem := (State.reset.withFetchWord 32 0xDC000002).mem } : State).modGroup 0 0 fun g =>
    { g with splits := [{ newSplit 0 0 1 0 with hold := h, heldFor := n }] }

theorem witness_SplitEvents_yield : ∀ n ∈ [16, 17], (((held0 .yield n).group? 0 0).bind fun g => g.split? 0).map
    (fun sp => (sp.hold, sp.heldFor)) = some (.yield, n) := by decide

theorem witness_SplitEvents_stall : (((held0 .vacateStall 1024).group? 0 0).bind fun g => g.split? 0).map
    (fun sp => (sp.hold, sp.heldFor)) = some (.vacateStall, 1024)
    ∧ channelAt (held0 .vacateStall 1024) 0 loadGroup { newSplit 0 0 1 0 with hold := .vacateStall, heldFor := 1024 } = some 2
    ∧ ((held0 .vacateStall 1024).ctx? 0).map (fun x => x.priority.any fun p => p.1 == 2) = some false
    ∧ (({ ctxWith id with priority := [(2, 5, 0, 0)] } : Ctx).priority.any fun p => p.1 == 2) = true := by decide

/-- A record of a store's fault. -/
def fault0 : FaultRecord := ⟨0, 64, 1, 0, 1, .store 0 0 0⟩

theorem witness_FaultAnswers : ∀ b ∈ [true, false],
    let s := small (fun x => { x with fwfault := b, faults := [fault0] }) id fun g => { g with queue := [{ store0 with fault := .waiting 0 }], nextSeq := 1 }
    (s.ctx? 0).map (fun x => (x.faults, x.fwfault)) = some ([fault0], b) ∧ (s.group? 0 0).isSome = true ∧ answerIgnored s 0 0 = false
    ∧ (((s.group? 0 0).getD loadGroup).queue.find? fun q => q.seq == 0) = some { store0 with fault := .waiting 0 } ∧ ownsCtx s 64 0 = true := by decide

/-! The host. -/

/-- A queue of 16 packets with its ring at 0x30000, whose host has written `tail`, in a state of the queue; a block of its context is
resident. -/
def queued0 (st tail : Nat) (f : Queue → Queue) (s : State) : State :=
  let q := 0x20000
  { (((s.poke q (bytesOf 8 0x30000)).poke (q + 8) [4, 0, 2, BitVec.ofNat 8 st]).poke (q + 0x10) (bytesOf 8 tail)) with
    queues := [f { id := 0, ctx := 0, out := false, fetched := 0, chain := [], started := [], progress := 0 }],
    dev := { s.dev with qbase := 0x20000 } }

theorem witness_HostRegisters_queue :
    let s := queued0 0 0 id (blocked id id id)
    Memory.wf s.mem = true ∧ s.dev.service ≠ .training ∧ queueDescOk s 0 = true ∧ ownsCtx s 64 (queueCtx s 0) = true
    ∧ (s.queue? 0).map Queue.progress = some 0 ∧ queueTail s 0 ≤ 16 ∧ 16 ≤ 0 + queueSize s 0 ∧ queueEnabled s 0 = true ∧ s.queueState 0 = 0
    ∧ s.num (s.dev.evbase.toNat + 64 * 255 + 0x18) 8 ≤ 0 ∧ s.num (s.dev.evbase.toNat + 64 * 255 + 9) 1 = 0 := by decide

theorem witness_HostRegisters_device : plain.dev.commit = true ∧ plain.dev.partRun = none ∧ nothingResident State.reset = true ∧ State.reset.dev.commit = false
    ∧ State.reset.dev.errcnt[11]? = some ⟨0, 0, 0x10⟩ := by decide

theorem witness_HostCommands_context :
    let s := blocked id id id
    s.dev.commit = true ∧ s.ctx? 0 = some (ctxWith id) ∧ (ctxForWork s 0).1 = some (ctxWith id) ∧ (ctxForWork s 0).2.ctx? 0 = some (ctxWith id)
    ∧ commandRuns (ctxWith id) = false ∧ blocksOf (ctxForWork s 0).2 0 = [(0, block0)] ∧ (∀ y ∈ (ctxForWork s 0).2.cores, ∀ b ∈ y.blocks, b.ctx = 0 → b.phase ≠ .reserved) ∧ (s.core 0).block? 0 = some block0
    ∧ block0.phase = .running ∧ bit block0.rec_.modes 2 = false ∧ (ctxWith id).faults = [] := by decide

theorem witness_HostCommands_resume :
    let x := ctxWith fun x => { x with saved := [saved0 true] }
    let s := (blocked (fun x => { x with saved := [saved0 true] }) id id).poke 0x14000 (bytesOf 2 0x5A56)
    let t := (tookCommand (ctxForWork s 0).2 0).modCtx 0 fun y => { y with phase := .resuming }
    s.dev.commit = true ∧ s.ctx? 0 = some x ∧ (ctxForWork s 0).1 = some x ∧ (ctxForWork s 0).2.ctx? 0 = some x ∧ commandRuns x = false
    ∧ x.saved[0]? = some (saved0 true) ∧ (saved0 true).whole = none
    ∧ (match readImages 0 t [(saved0 true, 0)] with
      | (true, u) => ((u.ctx? 0).bind fun y => y.saved[0]?) == some (saved0 true) && (restoreOne u 0 (saved0 true) 0 ⟨0xFC, 4096⟩).isSome
      | _ => false) = true := by decide +kernel

theorem witness_HostCommands_partition : plain.dev.partRun = none ∧ (partitionOf plain 63).isSome = true
    ∧ (∀ p, partitionOf plain 63 = some p → partitionClash plain p = false) ∧ (∀ x ∈ plain.ctxs, x.resizing = false)
    ∧ ∀ y ∈ plain.cores, y.blocks = [] := by
  refine ⟨by decide, by decide, fun p h => ?_, by decide⟩
  have hv : (partitionOf plain 63).map Partition.valid = some false := by decide
  rw [h] at hv
  simp [partitionClash, Option.some.inj hv]

theorem witness_HostCommands_debug : ∀ b ∈ [true, false],
    let s := small (fun x => { x with halted := b }) id id
    s.ctx? 0 = some (ctxWith fun x => { x with halted := b }) ∧ (ctxWith id).valid = true ∧ (ctxWith id).phase ≠ .ended
    ∧ commandRuns (ctxWith id) = false ∧ ((s.group? 0 0).bind fun g => g.split? 0).isSome = true ∧ (ctxWith id).stopping = []
    ∧ dbgCtx 0x0C00 = 0 ∧ stepNamed 0x0C00 = some (0, 0, 0)
    ∧ ((s.ctx? (dbgCtx 0x0C00)).map fun x => x.halted) = some b := by decide

theorem witness_HostCommands_debug_ignored :
    ((small (fun x => { x with valid := false }) id id).ctx? (dbgCtx 0x0400)).map (fun x => x.valid) = some false := by decide

/-- The queue runs with one packet of a type, AUX and pointer. -/
def packet0 (type aux ptr : Nat) : State :=
  (queued0 1 1 id (blocked id id id)).poke 0x30000 (bytesOf 1 type ++ bytesOf 1 0 ++ bytesOf 2 aux ++ bytesOf 6 (ptr / 16))

/-- What a queue's next packet is fetched as, with its chain levels and its context. -/
def fetched (s : State) : Option (List Nat × Bool) :=
  match fetchPacket s 0 with
  | .ok x _ _ ch p _ => some ([p.type, p.aux, p.ptr, p.flags, ch.length], decide (x = ctxWith id))
  | _ => none

theorem witness_PacketsStart :
    (∀ p ∈ [((0, 0, 0) : Nat × Nat × Nat), (6, 9, 0), (4, 0, 0x500), (4, 1, 0x500), (5, 2, 0x500)],
      fetched (packet0 p.1 p.2.1 p.2.2) = some ([p.1, p.2.1, p.2.2, 0, 0], true)) := by decide

theorem witness_PacketsStart_copy :
    let s := (packet0 3 0 0x500).poke 0x510 (bytesOf 8 64)
    fetched s = some ([3, 0, 0x500, 0, 0], true) ∧ (match (readVa (packetAcquire s 0 (acquireScope 0 false)) (chainTlb 0) (ctxWith id) 0x500 32).1 with
      | .ok bs => fieldOf bs 0x10 8 == 64 && fieldOf bs 0x18 8 == 0
      | _ => false) = true := by decide

theorem witness_PacketsStart_launch :
    let s := recorded (packet0 1 0 0x10000)
    fetched s = some ([1, 0, 0x10000, 0, 0], true) ∧ (match (readLaunch (packetAcquire s 0 (acquireScope 0 false)) (chainTlb 0) (ctxWith id) 0x10000 (boundConsumer s 0)).1 with
      | .ok _ => true
      | _ => false) = true := by decide

theorem witness_PacketsStart_barrier :
    let s := ((packet0 2 1 0x500).poke 0x500 (bytesOf 8 0x600)).poke 0x600 (bytesOf 8 1)
    fetched s = some ([2, 1, 0x500, 0, 0], true) ∧ (match testList (chainTlb 0) (ctxWith id) 0x500 1 0 true (packetAcquire s 0 (acquireScope 0 true)) with
      | .waiting _ => true
      | _ => false) = true := by decide

/-- A packet that has started. -/
def started0 (type aux : Nat) (done : Bool) : Started := ⟨[0], type, 0, aux, 0x500, none, none, none, 0, done, false, [], none⟩

/-- The queue with one packet started. -/
def running0 (k : Started) : State := queued0 1 1 (fun y => { y with fetched := 1, started := [k] }) (blocked id id id)

theorem witness_PacketsComplete :
    (∀ k ∈ [started0 0 0 true, started0 4 0 false, started0 2 1 false], ((running0 k).queue? 0).map (fun y => (y.started, y.out)) = some ([k], false)
      ∧ (running0 k).ctx? 0 = some (ctxWith id) ∧ k.failed = false
      ∧ ((running0 k).queue? 0).map (fun y => packetRuns (ctxWith id) y k) = some true)
    ∧ (match setSignal (running0 (started0 4 0 false)) (chainTlb 0) (ctxWith id) 0x500 (signed 48 0) with | (.ok (), _) => true | _ => false) = true
    ∧ (match testList (chainTlb 0) (ctxWith id) 0x500 1 0 true (packetAcquire (running0 (started0 2 1 false)) 0 (acquireScope 0 true)) with | .satisfied _ => true | _ => false) = true
    ∧ (((running0 (started0 2 1 false)).queue? 0).map fun y => queueRuns (running0 (started0 2 1 false)) (ctxWith id) y) = some true
    ∧ ((queued0 1 1 (fun y => { y with fetched := 1 }) (blocked id id id)).queue? 0).map (fun y => min y.fetched ((started0 0 0 false).path.headD 0) + 1)
      = some 1 := by decide

theorem witness_PacketsComplete_progress :
    let k : Started := { started0 0 0 false with path := [1] }
    ((running0 k).queue? 0).map (fun y => (min y.fetched (k.path.headD 0), y.progress)) = some (1, 0) := by decide

/-! Launches, vacates and health. -/

/-- A firmware image whose signatures are good. -/
def firmware0 : FirmwareImage := ⟨true, true, 5, []⟩

/-- A launch being run. -/
def run0 (r : Launch) : LaunchRun := ⟨5, 0, r, 0, [0], List.replicate 12 0, 1, false, none, 0, false, [], []⟩

/-- A running queue with that launch. -/
def launchingIn (x : Ctx → Ctx) (r : Launch) (k : Block) : State :=
  let s := queued0 1 1 (fun y => { y with fetched := 1 }) (small x (fun y => { y with blocks := [k] }) id)
  { s with launches := [run0 r], nextId := 6, dev := { s.dev with image := some firmware0 } }

/-- It, in the plain context. -/
def launching (r : Launch) (k : Block) : State := launchingIn id r k

/-- What a claim of the launch by core 0 comes to: whether the block starts, and what is asked of its place. -/
def claimed (s : State) (x : Ctx) : Option (Bool × Bool) :=
  match agentCarve (s.core 0) launch0 ⟨0xFC, 4096⟩ with
  | none => none
  | some (y, table, routine) =>
    let n := placeBlock (s.setCore y) 0 x launch0 0 0 4096 table routine (some 5)
    let u := n.2.modLaunch 5 fun m => { m with tickets := modifyAt (· + 1) 0 m.tickets }
    some ((tryStart u x (run0 launch0) 0).isSome, match reservedWith u 0 launch0 (some 5) with
      | [(c, k)] => c == 0 && k.id == n.1 && k.blockIndex == 0 && decide (vfix u x + (committed u 0 x k.rec_ 0).1 + maxSum u x ≤ x.vb)
      | _ => false)

theorem witness_BlockEvents_claim_held :
    let x := ctxWith fun x => { x with vb := 1000 }
    let s : State := { launchingIn (fun x => { x with vb := 1000 }) launch0 block0 with ops := [{ op0 .gc .reads with charge := 800 }] }
    (ctxForWork s 0).1 = some x ∧ offers s (run0 launch0) 0 = true ∧ (claimed s x).map Prod.fst = some false := by decide

theorem witness_BlockEvents_claim :
    let s := launching launch0 block0
    (ctxForWork s 0).1 = some (ctxWith id) ∧ claimed s (ctxWith id) = some (true, true) ∧ placeFits s 0 launch0 (some 5) 0 0 = true
    ∧ s.launch? 5 = some (run0 launch0) ∧ s.ctx? 0 = some (ctxWith id) ∧ offers s (run0 launch0) 0 = true
    ∧ (∀ m ∈ s.launches, offers s m 0 = true → preferred s (run0 launch0) m = true) ∧ launch0.unitLevel = none ∧ launch0.clusterLevel = none
    ∧ (agentCarve (s.core 0) launch0 ⟨0xFC, 4096⟩).isSome = true ∧ admits s (ctxWith id) 0 launch0 = true
    ∧ ∀ b ∈ (s.core 0).blocks, b.id < s.nextId := by decide

theorem witness_BlockEvents_instance :
    let r : Launch := { launch0 with levels := [⟨1, 1, 1, 2, 2, 0, 4⟩, ⟨1, 1, 1, 4, 0, 0, 0⟩] }
    let k : Block := { block0 with id := 3, phase := .reserved, unit := some 7, launchId := some 5, rec_ := r }
    let s := (launching r k).modCore 1 fun y => { y with blocks := [block0] }
    let x := ctxWith id
    s.launch? 5 = some (run0 r) ∧ x.phase = .idle ∧ x.halted = false ∧ (s.core 0).block? 3 = some k
    ∧ (ctxForWork s 0).1 = some x ∧ reservedWith s 0 r (some 5) = [(0, k)] ∧ instanceMembers s 0 r (some 5) 0 = [(0, k)] ∧ instanceWhole r [(0, k)] = true ∧ vfix s x + (committed s 0 x k.rec_ 0).1 + maxSum s x ≤ x.vb := by decide

theorem witness_BlockEvents_row :
    let s := small id (fun y => y.setLease 2 .draining) fun g => { g with first := 2, second := 2, live := 0, splits := [] }
    (s.core 0).lease 2 = .draining ∧ ∀ g ∈ (s.core 0).groups, g.ended = true ∧ g.quiet = true := by decide

theorem witness_BlockEvents_complete :
    let k : Block := { block0 with id := 1, launchId := some 5 }
    let s := launching launch0 k
    (s.core 0).block? 1 = some k ∧ s.launch? 5 = some (run0 launch0) ∧ groupsGone (s.core 0) k = true
    ∧ k.rec_.bitmap = 0 ∧ (run0 launch0).perBlock = false ∧ k.overrun = false ∧ k.phase = .running := by decide

theorem witness_BlockEvents_published :
    let k : Block := { block0 with id := 1, launchId := some 5, phase := .publishing, rec_ := { launch0 with bitmap := 0x5000 }, marked := true }
    let s := launching launch0 k
    (s.core 0).block? 1 = some k ∧ s.launch? 5 = some (run0 launch0) ∧ opsOf s 0 1 = [] ∧ k.before = [] ∧ agentPending s 0 = false
    ∧ (ctxWith id).faults = [] ∧ (ctxWith id).faultWait = [] := by decide

/-- A block without scratchpad whose group has ended, to be saved at 0x4000000 by CTXSAVE. -/
def saving (p : BlockPhase) : Block :=
  { block0 with id := 1, phase := p, saveOp := some 9, saveVa := 0x4000000, elapsed := 7, rec_ := { launch0 with scratch := 0 } }

theorem witness_BlockEvents_save :
    let k := saving (.vacating .save)
    let s := launching launch0 k
    let x := ctxWith id
    (s.core 0).block? 1 = some k ∧ drained s x 0 k = true ∧ opsOf s 0 1 = [] ∧ nextDue (s.core 0) k = none
    ∧ ((s.core 0).groups.filter fun g => g.block == 1 && !g.ended) = [] ∧ (saveImage s 0 k).length = 608
    ∧ (match writeImage x 0 k s (spansOf (imageVa x 0 k) 608) (saveImage s 0 k) with | .ok _ => true | _ => false) = true := by
  decide +kernel

theorem witness_BlockEvents_end :
    let s := launching launch0 (saving (.finished .save))
    (s.core 0).block? 1 = some (saving (.finished .save)) ∧ (saving (.finished .save)).rec_.blkmax < (saving (.finished .save)).elapsed ∧ agentPending s 0 = false
    ∧ (saving (.finished .save)).overrun = false ∧ (11 : Nat) < 12
    ∧ s.launch? 5 = some (run0 launch0) := by decide

/-- A device in a phase of service. -/
def serviced (p : Service) (i : Option FirmwareImage) (q : Option FirmwareImage) : State :=
  { State.reset with dev := { Device.reset with service := p, trained := true, image := i, pendingImage := q } }

theorem witness_HealthEvents_service : (serviced .training none none).dev.service = .training
    ∧ (serviced .reduced none none).dev.service = .reduced ∧ (serviced .reduced none none).dev.trained = true
    ∧ nothingResident (serviced .reduced none none) = true ∧ (1275 : Nat) % 25 = 0 ∧ (serviced .full none none).dev.plan < 1275
    ∧ (serviced .full none none).dev.period ≠ (serviced .full none none).dev.plan
    ∧ (serviced .full none none).dev.errcnt[11]? = some ⟨0, 0, 0x10⟩ ∧ (plain.group? 0 0).isSome = true
    ∧ plain.dev.errcnt[0]? = some ⟨0, 0, 0x10⟩ := by decide

theorem witness_HealthEvents_firmware : firmware0.ecdsaOk = true ∧ firmware0.lmsOk = true ∧ (serviced .full none none).dev.image = none
    ∧ (serviced .full (some firmware0) none).dev.image = some firmware0
    ∧ (serviced .full (some firmware0) (some { firmware0 with measurement := 6 })).dev.pendingImage = some { firmware0 with measurement := 6 } := by
  refine ⟨rfl, rfl, rfl, rfl, rfl⟩

/-- Sampling on every 64 cycles, into regions of 4 KiB at 0x1000000. -/
def sampled : State := small (fun x => { x with trcctl := BitVec.ofNat 64 (0x1000000 + 2 + 12 * 2 ^ 6) }) id id

theorem witness_HealthEvents_sample :
    let x := ctxWith fun x => { x with trcctl := BitVec.ofNat 64 (0x1000000 + 2 + 12 * 2 ^ 6) }
    sampled.ctxs = [x] ∧ sampleDue x = true ∧ (sampled.core 0).tracer 0
      = { (sampled.core 0).tracer 0 with sampledAt := List.replicate 4 0, cursors := List.replicate 4 0 }
    ∧ ((sampled.core 0).groups.filter fun g => g.ctx == 0 && schedOf g.slot == 0) = [loadGroup] ∧ 8 * 0 ≤ loadGroup.slot := by decide

theorem witness_HealthEvents_trace :
    let r : Tracer := { Tracer.fresh 0 with buffer := List.replicate 64 1 }
    let s := small id (fun y => { y with tracers := [r] }) id
    (s.core 0).tracers = [r] ∧ 64 ≤ r.buffer.length ∧ s.ctx? r.ctx = some (ctxWith id) := by decide

/-! The machine as a whole. -/

theorem witness_ServiceExchange :
    let s := small id (withG 5 0x1000 ∘ withG 4 0x100) fun g => { g with service := [call0] }
    Issues s (who s) ∧ inService (who s).g = true ∧ s.feature 4 = true ∧ (uniG s (who s) 4).toNat / 8 % 32 = 0 ∧ (uniG s (who s) 4).toNat / 2 ^ 8 = 1
    ∧ (uniG s (who s) 5).toNat / 8 % 32 = 0 ∧ (uniG s (who s) 5).toNat < 2 ^ 25 ∧ (uniG s (who s) 0).toNat < 32 := ⟨⟨rfl, .inr rfl⟩, by decide⟩

theorem witness_MaskRegisterZero : Issues plain (who plain) ∧ (63 : VReg).val < (who plain).g.allot ∧ wellFormed (.icmp 1 .lt 0 4 5 .s32) = true
    ∧ wellFormed (.fcmp 1 .ord 0 4 6 .f64) = true ∧ wellFormed (.umaskSet 0 4) = true ∧ wellFormed (.umaskAnd 0 1 2) = true
    ∧ wellFormed (.umaskNot 0 1) = true := ⟨issues_plain, by decide⟩

theorem witness_LittleEndian : Memory.wf plain.mem = true := by decide

theorem witness_EncodedWordsDecode : belongs false (.uaddi 5 0 7) = true ∧ wellFormed (.uaddi 5 0 7) = true
    ∧ encode (.uaddi 5 0 7) = some 0x88500007 ∧ belongs true (.tvret 0 4) = true ∧ (encode (.tvret 0 4)).isSome = true := by decide

theorem witness_DecodedWordsEncode : decode true 0x88500007 = .ok (.uaddi 5 0 7) := by decide

/-- The group's split is next to issue. -/
def stepping : State := State.reset.withFetchWord 32 0x88500007

theorem witness_StepRunsDecoded :
    let s0 : State := { stepping with agenda := [], issuer := none, free := stepping.free + 1 }
    let g := loadGroup
    let sp := newSplit 0 0 (BitVec.allOnes 32) 0
    stepping.agenda = [.issue 0 0 0] ∧ s0.group? 0 0 = some g ∧ g.split? 0 = some sp ∧ s0.ctx? 0 = some loadCtx ∧ mayTry s0 0 g sp = true
    ∧ parks g sp = false ∧ g.la = [] ∧ (match fetch { s0 with issuer := some (0, 0, 0) } 0 loadCtx 0 with
      | .word v u => v == 0x88500007 && (match exec (.uaddi 5 0 7) u with | .next t => !heldIn t 0 0 0 | _ => false)
      | _ => false) = true
    ∧ selected s0 0 g sp (nextPipe s0 0 g sp) = true ∧ mergers s0 0 g sp = [] ∧ (closeHalf s0).isNone = true
    ∧ earlierDue s0 0 g (nextPipe s0 0 g sp) = false := by decide

theorem witness_StepRunsDecoded_held :
    let s := (State.reset.withFetchWord 32 (((encode (.waitGate 0 .gc)).getD 0).toNat)).modGroup 0 0 fun g =>
      { g with gates := List.replicate 5 ⟨0, 0xFFFFFFFF, [0]⟩ }
    (match step s with | .next t => heldIn t 0 0 0 | _ => false) = true := by decide

theorem witness_StepRunsDecoded_event : comesAlone .packageReset = true ∧ comesAlone (.registerWrite 0x0E0 0) = true := by decide

theorem witness_StepKeepsMemoryForm : Memory.wf stepping.mem = true ∧ stepping.attic = [] ∧ (∀ x ∈ stepping.cores, x.view = []) ∧ (match step stepping with | .next _ => true | _ => false) = true := by decide

theorem witness_StepKeepsBlockNames : (∀ k ∈ stepping.cores, ∀ b ∈ k.blocks, b.id < stepping.nextId)
    ∧ (match step stepping with | .next _ => true | _ => false) = true := by decide

/-! Single steps. The values are those of the examples of 11_lane_instructions, 12_uniform_instructions and 24_exchange, or worked
out by hand from their entries. -/

/-- Lane registers of lane `l` hold values. -/
def withV (vs : List (Nat × Word)) (l : Nat) (y : Core) : Core := vs.foldl (fun y p => y.landV loadGroup p.1 l p.2) y

/-- V(r) of a lane of the group of a state, and G(r). -/
def vOf (s : State) (r l : Nat) : Nat := (rawV (s.core 0) ((s.group? 0 0).getD loadGroup) r l).toNat
def gOf (s : State) (r : Fin 64) : Nat := (rawG (s.core 0) ((s.group? 0 0).getD loadGroup) r).toNat

theorem test_sar : after (.sar 0 3 4 5) (small id (withV [(4, 0xFFFFFFF9), (5, 0x22)] 0) id) (fun t => vOf t 3 0 == 0xFFFFFFFE) = true := by decide
theorem test_sar_inactive : after (.sar 1 3 4 5) (small id (withV [(3, 9), (4, 0xFFFFFFF9), (5, 0x22)] 7) fun g => { g with masks := [0, 0xFF7F] })
    (fun t => vOf t 3 7 == 9 && vOf t 3 8 == 0) = true := by decide
theorem test_imad_wide_s : after (.imadWideS 0 6 4 5) (small id (withV [(4, 0xFFFFFFFF), (5, 3), (6, 10)] 1) id)
    (fun t => vOf t 6 1 == 7 && vOf t 7 1 == 0) = true := by decide
theorem test_shr64 : after (.shr64 0 8 8 3) (small id (withV [(8, 0x9ABCDEF0), (9, 0x12345678), (3, 40)] 0) id)
    (fun t => vOf t 8 0 == 0x123456 && vOf t 9 0 == 0) = true := by decide
theorem test_perm : after (.perm 0 3 4 5) (small id (withV [(3, 0x7654), (4, 0x11111111), (5, 0xA1B2C3D4)] 0) id)
    (fun t => vOf t 3 0 == 0xA1B2C3D4) = true := by decide
theorem test_icmp_and : after (.icmp 3 .lt 3 4 5 .s32) (small id (withV [(4, 0xFFFFFFFF), (5, 0)] 0 ∘ withV [(4, 1), (5, 0)] 1)
    fun g => { g with masks := (g.masks.set 3 3) }) (fun t => ((t.group? 0 0).map fun g => rawK g 3) == some 1) = true := by decide
theorem test_sel : after (.sel 2 3 4 5) (small id (withV [(4, 7), (5, 8)] 0 ∘ withV [(4, 7), (5, 8)] 1) fun g => { g with masks := g.masks.set 2 1 })
    (fun t => vOf t 3 0 == 7 && vOf t 3 1 == 8) = true := by decide
theorem test_fmul_f32 : after (.fmul 0 7 4 5 .f32) (small id (withV [(4, 0x40400000), (5, 0xBF000000)] 0) id)
    (fun t => vOf t 7 0 == 0xBFC00000) = true := by decide
theorem test_fma_f32_single_rounding : after (.fma 0 7 4 5 .f32) (small id (withV [(4, 0x3F800001), (5, 0x3F800001), (7, 0xBF800002)] 0) id)
    (fun t => vOf t 7 0 == 0x28800000) = true := by decide
theorem test_shfl_xor : after (.shflXor 0 10 11 12) (small id (withV [(11, 5), (12, 16)] 0 ∘ withV [(11, 6), (12, 16)] 16) id)
    (fun t => vOf t 10 0 == 6 && vOf t 10 16 == 5) = true := by decide
theorem test_ldsx_s16 : after (.ldsxS16 0 4 5 1 15) (small id (fun y => (withV [(5, 0x40)] 0 y).putScratch 0x40 [0xFE, 0xFF]) id)
    (fun t => ((t.group? 0 0).map fun g => g.la.flatMap fun a => a.writes.filter fun w => w.2.1 == 0) == some [(4, 0, 0xFFFFFFFE)]) = true := by decide
theorem test_sts32 : after (.sts32 0 4 5 0) (small id (withV [(4, 0xA1B2C3D4), (5, 0x40)] 0) fun g => { g with live := 1, splits := [newSplit 0 0 1 0] })
    (fun t => ((t.core 0).scratch.byte 0x40) == 0xD4 && ((t.core 0).scratch.byte 0x43) == 0xA1 && ((t.core 0).scratch.byte 0x44) == 0) = true := by decide
theorem test_ucmp_lt_s : after (.ucmpLtS 6 4 5) (small id (withG 4 (2 ^ 64 - 1)) id) (fun t => gOf t 6 == 1) = true := by decide
theorem test_uhi : after (.uhi 5 0x12345) plain (fun t => gOf t 5 == 0x12345000) = true := by decide
theorem test_uori : after (.uori 5 5 0x678) (small id (withG 5 0x12345000) id) (fun t => gOf t 5 == 0x12345678) = true := by decide
theorem test_uadd_wraps : after (.uadd 6 4 5) (small id (withG 5 1 ∘ withG 4 (2 ^ 64 - 1)) id) (fun t => gOf t 6 == 0) = true := by decide
theorem test_uaddi_sign : after (.uaddi 5 0 0x3FFD) plain (fun t => gOf t 5 == 2 ^ 64 - 3) = true := by decide
theorem test_g0_discards : after (.uaddi 0 0 5) plain (fun t => gOf t 0 == 0) = true := by decide
theorem test_trap_ecause : after (.trap 7) handled
    (fun t => ((t.group? 0 0).map fun g => (g.ecause, g.epc, (g.split? 0).map Split.pc)) == some (0x1C14, 4, some 0x100)) = true := by decide
theorem test_ballot : after (.ballot 9 4) (small id (withV [(4, 1)] 0 ∘ withV [(4, 1)] 5) id) (fun t => gOf t 9 == 0x21) = true := by decide
theorem test_umask_and : after (.umaskAnd 3 1 2) (small id id fun g => { g with masks := [0, 6, 3, 0, 0, 0, 0, 0] })
    (fun t => ((t.group? 0 0).map fun g => rawK g 3) == some 2) = true := by decide
theorem test_brd : after (.brd 3 0 5) (small id id fun g => { g with masks := [0, 0, 0, 0xF, 0, 0, 0, 0] })
    (fun t => ((t.group? 0 0).map fun g => (g.splits.map fun p => (p.mask, p.pc))) == some [(0xFFFFFFF0, 4), (0xF, 20)]
      || ((t.group? 0 0).map fun g => (g.splits.map fun p => (p.mask, p.pc))) == some [(0xF, 20), (0xFFFFFFF0, 4)]) = true := by decide
theorem test_binit : after (.binit 5 6) (small id (withG 6 0x20004) id)
    (fun t => readPlace t ⟨0, 0⟩ 16 == [0, 0, 0, 0, 4, 0, 4, 0, 0, 0, 0, 0, 5, 0, 0, 0]) = true := by decide
theorem test_vcost : after (.vcost 6 0 4) (small id (withG 4 64) id)
    (fun t => gOf t 6 == 272 || ((t.group? 0 0).map fun g => g.held.map HeldResult.value) == some [272]) = true := by decide
theorem test_lease : after (.lease 7 4) (agent 0x105 0 id)
    (fun t => (t.core 0).lease 5 == .claimed && ((t.group? 0 0).map fun g => g.held.map HeldResult.value) == some [0]) = true := by decide
theorem test_word_xbind : decode false 0xDC714600 = .ok (.xbind 7 5 6) := by decide
theorem test_word_xpermit : decode false 0xDC018001 = .ok (.xpermit 6) := by decide
theorem test_word_xsend : decode false 0xDC914602 = .ok (.xsend 9 5 6) := by decide
theorem test_word_xstat : decode false 0xDC918003 = .ok (.xstat 9 6) := by decide
theorem test_word_tvret_in_service : decode true ((encode (.tvret 0 4)).getD 0) = .ok (.tvret 0 4) := by decide

end Sys2Proof.Tests
end

section
/-! Proofs: the byte order of memory (00_scope R4). -/

namespace Sys2Proof.Machine

@[simp] theorem length_bytesOf (n v : Nat) : (bytesOf n v).length = n := by
  induction n generalizing v with
  | zero => rfl
  | succ n ih => simp [bytesOf, ih]

/-- Byte j of a number is its bits [8j+7:8j]. -/
theorem getD_bytesOf {n j : Nat} (v : Nat) (h : j < n) : (bytesOf n v).getD j 0 = BitVec.ofNat 8 (v / 2 ^ (8 * j)) := by
  induction n generalizing v j with
  | zero => omega
  | succ n ih =>
    cases j with
    | zero => simp [bytesOf]
    | succ j =>
      have e : v / 2 ^ (8 * (j + 1)) = v / 256 / 2 ^ (8 * j) := by
        rw [Nat.div_div_eq_div_mul, Nat.mul_succ, Nat.pow_add, Nat.mul_comm]
      simpa [bytesOf, e] using ih (v / 256) (by omega : j < n)

/-- The number of the bytes of a number is the number again, cut to those bytes. -/
theorem numOf_bytesOf (n v : Nat) : numOf (bytesOf n v) = v % 2 ^ (8 * n) := by
  induction n generalizing v with
  | zero => simp [bytesOf, numOf, Nat.mod_one]
  | succ n ih =>
    calc numOf (bytesOf (n + 1) v) = v % 256 + 256 * (v / 256 % 2 ^ (8 * n)) := by simp [bytesOf, numOf, ih]
      _ = v % (256 * 2 ^ (8 * n)) := (Nat.mod_mul).symm
      _ = v % 2 ^ (8 * (n + 1)) := by rw [Nat.mul_succ, Nat.pow_add, Nat.mul_comm]

/-- Bits [8j+7:8j] of the number of a byte string are its byte j. -/
theorem numOf_div_mod (bs : List Byte) (j : Nat) : numOf bs / 2 ^ (8 * j) % 2 ^ 8 = (bs.getD j 0).toNat := by
  induction bs generalizing j with
  | nil => simp [numOf]
  | cons b bs ih =>
    have hb : b.toNat < 256 := b.isLt
    cases j with
    | zero =>
      have : (b.toNat + 256 * numOf bs) % 256 = b.toNat := by omega
      simpa [numOf] using this
    | succ j =>
      have e : numOf (b :: bs) / 2 ^ (8 * (j + 1)) = numOf bs / 2 ^ (8 * j) := by
        have : (b.toNat + 256 * numOf bs) / 256 = numOf bs := by omega
        rw [Nat.mul_succ, Nat.pow_add, Nat.mul_comm, ← Nat.div_div_eq_div_mul, numOf, this]
      simpa [e] using ih j

/-- A byte string written from `pa` upward reads as itself at its own addresses, and every other byte as before. -/
theorem Memory.read_writeAll_cellsOf {m : List Host.Cell} (pa a : Nat) (bs : List Byte) (hm : Memory.wf m = true) :
    Memory.read (Memory.writeAll m (cellsOf pa bs)) a
      = if pa ≤ a ∧ a < pa + bs.length then bs.getD (a - pa) 0 else Memory.read m a := by
  induction bs generalizing m pa with
  | nil =>
    have h : ¬ (pa ≤ a ∧ a < pa) := by omega
    simp [h, cellsOf, Memory.writeAll]
  | cons b bs ih =>
    have step : Memory.writeAll m (cellsOf pa (b :: bs)) = Memory.writeAll (Memory.write m pa b) (cellsOf (pa + 1) bs) := rfl
    rw [step, ih _ (Memory.wf_write pa b hm), Memory.read_write_wf pa a b hm]
    rcases Nat.lt_trichotomy a pa with h | h | h
    · have h1 : ¬ pa + 1 ≤ a := by omega
      have h2 : ¬ pa ≤ a := by omega
      simp [h1, h2, Nat.ne_of_lt h]
    · subst h
      simp
    · obtain ⟨d, rfl⟩ := Nat.exists_eq_add_of_lt h
      have e1 : pa + d + 1 - (pa + 1) = d := by omega
      have e2 : pa + d + 1 - pa = d + 1 := by omega
      have hin : (pa + 1 ≤ pa + d + 1 ∧ pa + d + 1 < pa + 1 + bs.length)
          ↔ (pa ≤ pa + d + 1 ∧ pa + d + 1 < pa + (b :: bs).length) := by
        rw [List.length_cons]; omega
      have hne : pa + d + 1 ≠ pa := by omega
      simp only [hin, e1, e2, hne, if_false, List.getD_cons_succ]

/-- A byte at home after a byte string was written there. -/
theorem State.read_poke {s : State} (pa a : Nat) (bs : List Byte) (hm : Memory.wf s.mem = true) :
    Memory.read (s.poke pa bs).mem a = if pa ≤ a ∧ a < pa + bs.length then bs.getD (a - pa) 0 else Memory.read s.mem a :=
  Memory.read_writeAll_cellsOf pa a bs hm

@[simp] theorem Memory.length_bytes (m : List Host.Cell) (a n : Nat) : (Memory.bytes m a n).length = n := by
  induction n generalizing a with
  | zero => rfl
  | succ n ih => simp [Memory.bytes, ih]

@[simp] theorem Memory.getElem_bytes (m : List Host.Cell) (a n j : Nat) (h : j < (Memory.bytes m a n).length) :
    (Memory.bytes m a n)[j] = Memory.read m (a + j) := by
  induction n generalizing a j with
  | zero => simp [Memory.bytes] at h
  | succ n ih =>
    cases j with
    | zero => rfl
    | succ j =>
      have e : a + 1 + j = a + (j + 1) := by omega
      simp [Memory.bytes, ih, e]

/-- The bytes read where a byte string was written are that string. -/
theorem State.bytes_poke {s : State} (pa : Nat) (bs : List Byte) (hm : Memory.wf s.mem = true) :
    Memory.bytes (s.poke pa bs).mem pa bs.length = bs := by
  refine List.ext_getElem (Memory.length_bytes _ _ _) fun j _ h => ?_
  simp [State.read_poke pa _ bs hm, h]

/-- A number written at home reads as itself, cut to the bytes written. -/
theorem State.num_poke_bytesOf {s : State} (pa n v : Nat) (hm : Memory.wf s.mem = true) :
    (s.poke pa (bytesOf n v)).num pa n = v % 2 ^ (8 * n) := by
  have h := State.bytes_poke pa (bytesOf n v) hm
  rw [length_bytesOf] at h
  rw [State.num, h, numOf_bytesOf]

/-- Byte j of a field of `w` bytes at offset `n` of a record is byte `n + j` of the record. -/
theorem fieldOf_div_mod (bs : List Byte) {n w j : Nat} (h : j < w) :
    fieldOf bs n w / 2 ^ (8 * j) % 2 ^ 8 = (bs.getD (n + j) 0).toNat := by
  rw [fieldOf, numOf_div_mod]
  simp [List.getD_eq_getElem?_getD, h]

/-- The word of four bytes has their number. -/
theorem toNat_wordOfBytes (b0 b1 b2 b3 : Byte) : (wordOfBytes b0 b1 b2 b3).toNat = numOf [b0, b1, b2, b3] := by
  have h0 : b0.toNat < 256 := b0.isLt
  have h1 : b1.toNat < 256 := b1.isLt
  have h2 : b2.toNat < 256 := b2.isLt
  have h3 : b3.toNat < 256 := b3.isLt
  simp only [wordOfBytes, numOf, BitVec.toNat_ofNat]
  omega

/-- Settles O53: what a poke leaves at each address is `State.read_poke`, and the bytes of a number and the number of bytes undo each
other (`getD_bytesOf`, `numOf_bytesOf`, `numOf_div_mod`). -/
theorem littleEndian : Obligations.LittleEndian := by
  unfold Obligations.LittleEndian
  intro s pa n v hm
  refine ⟨fun j hj => ?_, fun a ha => ?_, State.num_poke_bytesOf pa n v hm, fun bs w j _ hj => fieldOf_div_mod bs hj,
    toNat_wordOfBytes⟩
  · have hin : pa ≤ pa + j ∧ pa + j < pa + (bytesOf n v).length := by rw [length_bytesOf]; omega
    rw [State.read_poke pa _ _ hm, if_pos hin, Nat.add_sub_cancel_left, getD_bytesOf v hj]
  · have hout : ¬ (pa ≤ a ∧ a < pa + (bytesOf n v).length) := by rw [length_bytesOf]; omega
    rw [State.read_poke pa _ _ hm, if_neg hout]

end Sys2Proof.Machine
end

section
/-! Proofs: the names of resident blocks (O59). `BlocksNamed` speaks of the cores' blocks and of the next name alone, so a change that
leaves both keeps it (`named_same`), and one that gives a name keeps it too (`named_next`). The lemmas follow the functions of the
model in its order, one for each function that makes a state: the names of blocks are below the next one in what it makes when they
were in what it was given. A function whose result holds a state in some cases only has the predicate of its result type
(`NamedOut`, `NamedOpt`, …). A block gets its name in `reserveBlock`, and nowhere else. -/
namespace Sys2Proof.Machine

/-- The names of blocks are below the next one in the states of an outcome. -/
inductive NamedOut : Host.Outcome State Fault Refusal → Prop where
  | next {t} (h : BlocksNamed t) : NamedOut (.next t)
  | fault {r} : NamedOut (.fault r)
  | refused {r} : NamedOut (.refused r)

/-- The names of blocks are below the next one in the states of an optional state. -/
inductive NamedOpt : Option State → Prop where
  | some {t} (h : BlocksNamed t) : NamedOpt (.some t)
  | none : NamedOpt (.none)

/-- The names of blocks are below the next one in the states of what a push or a refill comes to. -/
inductive NamedSpill : Spill → Prop where
  | ok {t} (h : BlocksNamed t) : NamedSpill (.ok t)
  | faulted {t} (h : BlocksNamed t) : NamedSpill (.faulted t)
  | overflow {va} : NamedSpill (.overflow va)
  | violation {va} : NamedSpill (.violation va)

/-- The names of blocks are below the next one in the states of what translating the pieces of an access comes to. -/
inductive NamedScreen : Screen → Prop where
  | used {t} (h : BlocksNamed t) : NamedScreen (.used t)
  | good {t ps} (h : BlocksNamed t) : NamedScreen (.good t ps)

/-- The names of blocks are below the next one in the states of a fetch. -/
inductive NamedFetched : Fetched → Prop where
  | word {w t} (h : BlocksNamed t) : NamedFetched (.word w t)
  | fault {k t} (h : BlocksNamed t) : NamedFetched (.fault k t)
  | lost {t} (h : BlocksNamed t) : NamedFetched (.lost t)

/-- The names of blocks are below the next one in the states of an add to a signal. -/
inductive NamedAdded : Added → Prop where
  | done {t} (h : BlocksNamed t) : NamedAdded (.done t)
  | half {old t} (h : BlocksNamed t) : NamedAdded (.half old t)
  | fails {e va t} (h : BlocksNamed t) : NamedAdded (.fails e va t)

/-- The names of blocks are below the next one in the states of what an engine's translation comes to. -/
inductive NamedEngineGot : EngineGot → Prop where
  | ok {ps t} (h : BlocksNamed t) : NamedEngineGot (.ok ps t)
  | held {t} (h : BlocksNamed t) : NamedEngineGot (.held t)
  | lost {va t} (h : BlocksNamed t) : NamedEngineGot (.lost va t)

/-- The names of blocks are below the next one in the states of the fetch of a packet. -/
inductive NamedPacketFetch : PacketFetch → Prop where
  | idle : NamedPacketFetch (.idle)
  | stopped {t} (h : BlocksNamed t) : NamedPacketFetch (.stopped t)
  | ok {x y path ch p t} (h : BlocksNamed t) : NamedPacketFetch (.ok x y path ch p t)

/-- The names of blocks are below the next one in the states of the test of a wait list. -/
inductive NamedWaitTest : WaitTest → Prop where
  | satisfied {t} (h : BlocksNamed t) : NamedWaitTest (.satisfied t)
  | waiting {t} (h : BlocksNamed t) : NamedWaitTest (.waiting t)
  | negative {t} (h : BlocksNamed t) : NamedWaitTest (.negative t)
  | badList {t} (h : BlocksNamed t) : NamedWaitTest (.badList t)
  | listFails {e va t} (h : BlocksNamed t) : NamedWaitTest (.listFails e va t)
  | signalFails {e va sig t} (h : BlocksNamed t) : NamedWaitTest (.signalFails e va sig t)

/-- The names of blocks are below the next one in the states of a read for a walk. -/
inductive NamedWalkGot : WalkGot → Prop where
  | bytes {bs t} (h : BlocksNamed t) : NamedWalkGot (.bytes bs t)
  | stop {t} (h : BlocksNamed t) : NamedWalkGot (.stop t)

/-- The names of blocks are below the next one in the states of the writing of an image. -/
inductive NamedWritten : Written → Prop where
  | ok {t} (h : BlocksNamed t) : NamedWritten (.ok t)
  | held {t} (h : BlocksNamed t) : NamedWritten (.held t)
  | lost {t} (h : BlocksNamed t) : NamedWritten (.lost t)

/-- The names of blocks are below the next one in the states of the reading of an image. -/
inductive NamedImageGot : ImageGot → Prop where
  | ok {img areas t} (h : BlocksNamed t) : NamedImageGot (.ok img areas t)
  | held {t} (h : BlocksNamed t) : NamedImageGot (.held t)
  | lost {t} (h : BlocksNamed t) : NamedImageGot (.lost t)

/-- The names of blocks are below the next one in the states of what a CTXLOAD finds to load. -/
inductive NamedLoadKind : LoadKind → Prop where
  | ok {b t} (h : BlocksNamed t) : NamedLoadKind (.ok b t)
  | held {t} (h : BlocksNamed t) : NamedLoadKind (.held t)
  | lost {t} (h : BlocksNamed t) : NamedLoadKind (.lost t)

/-- The names of blocks are below the next one in the states of one read of a copy. -/
inductive NamedCopyRead : CopyRead → Prop where
  | bytes {bs t} (h : BlocksNamed t) : NamedCopyRead (.bytes bs t)
  | ends {t code bad} (h : BlocksNamed t) : NamedCopyRead (.ends t code bad)
  | held {t} (h : BlocksNamed t) : NamedCopyRead (.held t)

/-- The names of blocks are below the next one in the states of a result that ends early in a state, or goes on with a value. -/
inductive NamedExc {α : Type} : Except State (α × State) → Prop where
  | error {t} (h : BlocksNamed t) : NamedExc (.error t)
  | ok {a t} (h : BlocksNamed t) : NamedExc (.ok (a, t))

theorem NamedOut.of_next {r : Host.Outcome State Fault Refusal} {t} (h : NamedOut r) (e : r = .next t) : BlocksNamed t := by
  subst e; cases h; assumption

theorem NamedOpt.of_some {r : Option State} {t} (h : NamedOpt r) (e : r = .some t) : BlocksNamed t := by
  subst e; cases h; assumption

theorem NamedSpill.of_ok {r : Spill} {t} (h : NamedSpill r) (e : r = .ok t) : BlocksNamed t := by
  subst e; cases h; assumption

theorem NamedSpill.of_faulted {r : Spill} {t} (h : NamedSpill r) (e : r = .faulted t) : BlocksNamed t := by
  subst e; cases h; assumption

theorem NamedScreen.of_used {r : Screen} {t} (h : NamedScreen r) (e : r = .used t) : BlocksNamed t := by
  subst e; cases h; assumption

theorem NamedScreen.of_good {r : Screen} {t ps} (h : NamedScreen r) (e : r = .good t ps) : BlocksNamed t := by
  subst e; cases h; assumption

theorem NamedFetched.of_word {r : Fetched} {w t} (h : NamedFetched r) (e : r = .word w t) : BlocksNamed t := by
  subst e; cases h; assumption

theorem NamedFetched.of_fault {r : Fetched} {k t} (h : NamedFetched r) (e : r = .fault k t) : BlocksNamed t := by
  subst e; cases h; assumption

theorem NamedFetched.of_lost {r : Fetched} {t} (h : NamedFetched r) (e : r = .lost t) : BlocksNamed t := by
  subst e; cases h; assumption

theorem NamedAdded.of_done {r : Added} {t} (h : NamedAdded r) (e : r = .done t) : BlocksNamed t := by
  subst e; cases h; assumption

theorem NamedAdded.of_half {r : Added} {old t} (h : NamedAdded r) (e : r = .half old t) : BlocksNamed t := by
  subst e; cases h; assumption

theorem NamedAdded.of_fails {r : Added} {e va t} (h : NamedAdded r) (e : r = .fails e va t) : BlocksNamed t := by
  subst e; cases h; assumption

theorem NamedEngineGot.of_ok {r : EngineGot} {ps t} (h : NamedEngineGot r) (e : r = .ok ps t) : BlocksNamed t := by
  subst e; cases h; assumption

theorem NamedEngineGot.of_held {r : EngineGot} {t} (h : NamedEngineGot r) (e : r = .held t) : BlocksNamed t := by
  subst e; cases h; assumption

theorem NamedEngineGot.of_lost {r : EngineGot} {va t} (h : NamedEngineGot r) (e : r = .lost va t) : BlocksNamed t := by
  subst e; cases h; assumption

theorem NamedPacketFetch.of_stopped {r : PacketFetch} {t} (h : NamedPacketFetch r) (e : r = .stopped t) : BlocksNamed t := by
  subst e; cases h; assumption

theorem NamedPacketFetch.of_ok {r : PacketFetch} {x y path ch p t} (h : NamedPacketFetch r) (e : r = .ok x y path ch p t) : BlocksNamed t := by
  subst e; cases h; assumption

theorem NamedWaitTest.of_satisfied {r : WaitTest} {t} (h : NamedWaitTest r) (e : r = .satisfied t) : BlocksNamed t := by
  subst e; cases h; assumption

theorem NamedWaitTest.of_waiting {r : WaitTest} {t} (h : NamedWaitTest r) (e : r = .waiting t) : BlocksNamed t := by
  subst e; cases h; assumption

theorem NamedWaitTest.of_negative {r : WaitTest} {t} (h : NamedWaitTest r) (e : r = .negative t) : BlocksNamed t := by
  subst e; cases h; assumption

theorem NamedWaitTest.of_badList {r : WaitTest} {t} (h : NamedWaitTest r) (e : r = .badList t) : BlocksNamed t := by
  subst e; cases h; assumption

theorem NamedWaitTest.of_listFails {r : WaitTest} {e va t} (h : NamedWaitTest r) (e : r = .listFails e va t) : BlocksNamed t := by
  subst e; cases h; assumption

theorem NamedWaitTest.of_signalFails {r : WaitTest} {e va sig t} (h : NamedWaitTest r) (e : r = .signalFails e va sig t) : BlocksNamed t := by
  subst e; cases h; assumption

theorem NamedWalkGot.of_bytes {r : WalkGot} {bs t} (h : NamedWalkGot r) (e : r = .bytes bs t) : BlocksNamed t := by
  subst e; cases h; assumption

theorem NamedWalkGot.of_stop {r : WalkGot} {t} (h : NamedWalkGot r) (e : r = .stop t) : BlocksNamed t := by
  subst e; cases h; assumption

theorem NamedWritten.of_ok {r : Written} {t} (h : NamedWritten r) (e : r = .ok t) : BlocksNamed t := by
  subst e; cases h; assumption

theorem NamedWritten.of_held {r : Written} {t} (h : NamedWritten r) (e : r = .held t) : BlocksNamed t := by
  subst e; cases h; assumption

theorem NamedWritten.of_lost {r : Written} {t} (h : NamedWritten r) (e : r = .lost t) : BlocksNamed t := by
  subst e; cases h; assumption

theorem NamedImageGot.of_ok {r : ImageGot} {img areas t} (h : NamedImageGot r) (e : r = .ok img areas t) : BlocksNamed t := by
  subst e; cases h; assumption

theorem NamedImageGot.of_held {r : ImageGot} {t} (h : NamedImageGot r) (e : r = .held t) : BlocksNamed t := by
  subst e; cases h; assumption

theorem NamedImageGot.of_lost {r : ImageGot} {t} (h : NamedImageGot r) (e : r = .lost t) : BlocksNamed t := by
  subst e; cases h; assumption

theorem NamedLoadKind.of_ok {r : LoadKind} {b t} (h : NamedLoadKind r) (e : r = .ok b t) : BlocksNamed t := by
  subst e; cases h; assumption

theorem NamedLoadKind.of_held {r : LoadKind} {t} (h : NamedLoadKind r) (e : r = .held t) : BlocksNamed t := by
  subst e; cases h; assumption

theorem NamedLoadKind.of_lost {r : LoadKind} {t} (h : NamedLoadKind r) (e : r = .lost t) : BlocksNamed t := by
  subst e; cases h; assumption

theorem NamedCopyRead.of_bytes {r : CopyRead} {bs t} (h : NamedCopyRead r) (e : r = .bytes bs t) : BlocksNamed t := by
  subst e; cases h; assumption

theorem NamedCopyRead.of_ends {r : CopyRead} {t code bad} (h : NamedCopyRead r) (e : r = .ends t code bad) : BlocksNamed t := by
  subst e; cases h; assumption

theorem NamedCopyRead.of_held {r : CopyRead} {t} (h : NamedCopyRead r) (e : r = .held t) : BlocksNamed t := by
  subst e; cases h; assumption

theorem NamedExc.of_error {α : Type} {r : Except State (α × State)} {t} (h : NamedExc r) (e : r = .error t) : BlocksNamed t := by
  subst e; cases h; assumption

theorem NamedExc.of_ok {α : Type} {r : Except State (α × State)} {a t} (h : NamedExc r) (e : r = .ok (a, t)) : BlocksNamed t := by
  subst e; cases h; assumption

theorem named_of_snd {α : Type} {p : α × State} {a : α} {t : State} (h : BlocksNamed p.2) (e : p = (a, t)) : BlocksNamed t := by
  subst e; exact h
theorem named_of_snd₂ {α β : Type} {p : α × β × State} {a : α} {b : β} {t : State} (h : BlocksNamed p.2.2) (e : p = (a, b, t)) :
    BlocksNamed t := by
  subst e; exact h
theorem named_of_fst {α : Type} {p : State × α} {a : α} {t : State} (h : BlocksNamed p.1) (e : p = (t, a)) : BlocksNamed t := by
  subst e; exact h

/-- The names of the blocks of a core are below a number. -/
def CoreNamed (n : Nat) (x : Core) : Prop := ∀ b ∈ x.blocks, b.id < n

theorem coreNamed_of_snd {α : Type} {n : Nat} {p : α × Core} {a : α} {x : Core} (h : CoreNamed n p.2) (e : p = (a, x)) : CoreNamed n x := by
  subst e; exact h

theorem named_core {s : State} (h : BlocksNamed s) (c : Nat) : CoreNamed s.nextId (s.core c) := h c

theorem coreNamed_upd {n : Nat} {x y : Core} (h : CoreNamed n x) (e : y.blocks = x.blocks) : CoreNamed n y := by
  intro b hb
  rw [e] at hb
  exact h b hb

theorem coreNamed_filterBlocks {n : Nat} {x y : Core} {p : Block → Bool} (h : CoreNamed n x) (e : y.blocks = x.blocks.filter p) :
    CoreNamed n y := by
  intro b hb
  rw [e] at hb
  exact h b (List.mem_of_mem_filter hb)

theorem coreNamed_mapBlocks {n : Nat} {x y : Core} {f : Block → Block} (h : CoreNamed n x) (hf : ∀ k, (f k).id = k.id)
    (e : y.blocks = x.blocks.map f) : CoreNamed n y := by
  intro b hb
  rw [e] at hb
  obtain ⟨k, hk, rfl⟩ := List.mem_map.1 hb
  rw [hf]
  exact h k hk

theorem coreNamed_foldl {α : Type} {n : Nat} {f : Core → α → Core} (hf : ∀ x a, CoreNamed n x → CoreNamed n (f x a)) {xs : List α}
    {x : Core} (h : CoreNamed n x) : CoreNamed n (xs.foldl f x) := by
  induction xs generalizing x with
  | nil => exact h
  | cons a xs ih => exact ih (hf x a h)

theorem coreNamed_modGroup {n slot : Nat} {f : Group → Group} {x : Core} (h : CoreNamed n x) : CoreNamed n (x.modGroup slot f) := h

/-- What leaves the cores, and gives names at most, keeps the names below the next one. -/
theorem named_upd {s t : State} (h : BlocksNamed s) (hc : t.cores = s.cores) (hn : s.nextId ≤ t.nextId) : BlocksNamed t := by
  intro c b hb
  have e : t.core c = s.core c := by simp only [State.core, hc]
  rw [e] at hb
  exact Nat.lt_of_lt_of_le (h c b hb) hn

theorem named_same {s t : State} (h : BlocksNamed s) (hc : t.cores = s.cores) (hn : t.nextId = s.nextId) :
    BlocksNamed t := named_upd h hc (Nat.le_of_eq hn.symm)

theorem named_next {s t : State} (h : BlocksNamed s) (hc : t.cores = s.cores) (hn : t.nextId = s.nextId + 1) :
    BlocksNamed t := named_upd h hc (hn ▸ Nat.le_succ _)

theorem named_foldl {α : Type} {f : State → α → State} (hf : ∀ s a, BlocksNamed s → BlocksNamed (f s a)) {xs : List α} {s : State}
    (h : BlocksNamed s) : BlocksNamed (xs.foldl f s) := by
  induction xs generalizing s with
  | nil => exact h
  | cons a xs ih => exact ih (hf s a h)

theorem named_setCore {s : State} {x : Core} (h : BlocksNamed s) (hx : CoreNamed s.nextId x) : BlocksNamed (s.setCore x) := by
  intro c b hb
  by_cases e : c = x.index
  · subst e
    rw [core_setCore] at hb
    exact hx b hb
  · rw [core_setCore_other _ _ _ e] at hb
    exact h c b hb

theorem named_modCore {s : State} {c : Nat} {f : Core → Core} (h : BlocksNamed s)
    (hf : ∀ x, CoreNamed s.nextId x → CoreNamed s.nextId (f x)) : BlocksNamed (s.modCore c f) :=
  named_setCore h (hf _ (h c))

theorem named_modGroup {s : State} {c slot : Nat} {f : Group → Group} (h : BlocksNamed s) : BlocksNamed (s.modGroup c slot f) :=
  named_modCore h fun _ hx => hx

theorem named_modSplit {s : State} {c slot i : Nat} {f : Split → Split} (h : BlocksNamed s) : BlocksNamed (s.modSplit c slot i f) :=
  named_modGroup h

theorem mem_replaceFirst {α : Type} {p : α → Bool} {f : α → α} {xs : List α} {b : α} (h : b ∈ replaceFirst p f xs) :
    b ∈ xs ∨ ∃ a ∈ xs, b = f a := by
  induction xs with
  | nil => simp [replaceFirst] at h
  | cons a r ih =>
    unfold replaceFirst at h
    split at h
    · rcases List.mem_cons.1 h with rfl | h
      · exact .inr ⟨a, by simp, rfl⟩
      · exact .inl (by simp [h])
    · rcases List.mem_cons.1 h with rfl | h
      · exact .inl (by simp)
      · rcases ih h with h | ⟨c, hc, e⟩
        · exact .inl (by simp [h])
        · exact .inr ⟨c, by simp [hc], e⟩

theorem coreNamed_modBlock {x : Core} {i n : Nat} {f : Block → Block} (hf : ∀ k, (f k).id = k.id) (h : CoreNamed n x) :
    CoreNamed n (x.modBlock i f) := by
  intro b hb
  rcases mem_replaceFirst hb with hb | ⟨a, ha, rfl⟩
  · exact h b hb
  · rw [hf]
    exact h a ha

theorem named_modBlock {s : State} {c i : Nat} {f : Block → Block} (hf : ∀ k, (f k).id = k.id) (h : BlocksNamed s) :
    BlocksNamed (s.modBlock c i f) := named_modCore h fun _ hx => coreNamed_modBlock hf hx

/-- Changing every core at once, with the names of its blocks below where they were. -/
theorem named_mapCores {s t : State} {f : Core → Core} (h : BlocksNamed s) (hc : t.cores = s.cores.map f) (hn : s.nextId ≤ t.nextId)
    (hi : ∀ x, (f x).index = x.index) (hf : ∀ x n, CoreNamed n x → CoreNamed n (f x)) : BlocksNamed t := by
  intro c b hb
  have e : t.core c = f (s.core c) ∨ (t.core c).blocks = [] := by
    unfold State.core
    rw [hc, List.find?_map]
    have e : ((fun x => x.index == c) ∘ f : Core → Bool) = fun x => x.index == c := by funext x; simp [hi]
    rw [e]
    cases s.cores.find? (fun x => x.index == c) with
    | none => exact .inr rfl
    | some x => exact .inl rfl
  rcases e with e | e
  · rw [e] at hb
    exact Nat.lt_of_lt_of_le (hf _ _ (h c) b hb) hn
  · rw [e] at hb
    exact nomatch hb

theorem named_getD {o : Option State} {s : State} (ho : NamedOpt o) (h : BlocksNamed s) : BlocksNamed (o.getD s) := by
  cases ho with
  | some h => exact h
  | none => exact h

theorem named_findSome {α : Type} {f : α → Option State} (hf : ∀ a, NamedOpt (f a)) (xs : List α) : NamedOpt (xs.findSome? f) := by
  induction xs with
  | nil => exact .none
  | cons a xs ih =>
    rw [List.findSome?_cons]
    split
    · exact .some ((hf a).of_some ‹_›)
    · exact ih

theorem named_modCtx {s : State} {c : Nat} {f : Ctx → Ctx} (hs : BlocksNamed s) : BlocksNamed (s.modCtx c f) :=
  named_same hs rfl rfl

theorem named_modOp {s : State} {n : Nat} {f : Op → Op} (hs : BlocksNamed s) : BlocksNamed (s.modOp n f) :=
  named_same hs rfl rfl

theorem named_setOpKind {s : State} {n : Nat} {k : OpKind} (hs : BlocksNamed s) : BlocksNamed (s.setOpKind n k) :=
  named_modOp hs

theorem named_dropOp {s : State} {n : Nat} (hs : BlocksNamed s) : BlocksNamed (s.dropOp n) :=
  named_same hs rfl rfl

theorem named_modQueue {s : State} {q : Nat} {f : Queue → Queue} (hs : BlocksNamed s) : BlocksNamed (s.modQueue q f) :=
  named_same hs rfl rfl

theorem named_modLaunch {s : State} {n : Nat} {f : LaunchRun → LaunchRun} (hs : BlocksNamed s) : BlocksNamed (s.modLaunch n f) :=
  named_same hs rfl rfl

theorem named_modGalley {s : State} {n : Nat} {f : Galley → Galley} (hs : BlocksNamed s) : BlocksNamed (s.modGalley n f) :=
  named_same hs rfl rfl

theorem named_fresh {s : State} (hs : BlocksNamed s) : BlocksNamed s.fresh.2 :=
  named_next hs rfl rfl

theorem named_coin {s : State} (hs : BlocksNamed s) : BlocksNamed s.coin.2 :=
  named_same hs rfl rfl

theorem named_modDev {s : State} {f : Device → Device} (hs : BlocksNamed s) : BlocksNamed (s.modDev f) :=
  named_same hs rfl rfl

theorem named_onIssuer {s : State} {f : Issuer → State} (hf : ∀ w, BlocksNamed (f w)) : NamedOut (onIssuer s f) := by
  unfold onIssuer
  split
  · exact .fault
  · exact .next (hf _)

theorem named_modMine {s : State} {w : Issuer} {f : Group → Group} (hs : BlocksNamed s) : BlocksNamed (s.modMine w f) :=
  named_modGroup hs

theorem named_poke {s : State} {pa : Nat} {bs : List Byte} (hs : BlocksNamed s) : BlocksNamed (s.poke pa bs) :=
  named_same hs rfl rfl

theorem named_putCells {s : State} {cs : List Host.Cell} {bad : List Nat} (hs : BlocksNamed s) : BlocksNamed (s.putCells cs bad) :=
  named_same hs rfl rfl

theorem named_homePoke {s : State} {pa : Nat} {bs : List Byte} (hs : BlocksNamed s) : BlocksNamed (s.homePoke pa bs) := by
  unfold State.homePoke
  extract_lets +onlyGivenNames t
  have ht : BlocksNamed t := named_poke hs
  split
  · exact named_same ht rfl rfl
  · exact ht

theorem named_sealTrip {s : State} {key port : Nat} (hs : BlocksNamed s) : BlocksNamed (sealTrip s key port).2 := by
  unfold sealTrip
  split
  · exact hs
  · split
    · exact hs
    · exact named_coin (named_modDev hs)

theorem named_cacheLeaf {s : State} {h : Tlb} {c va level pte : Nat} (hs : BlocksNamed s) : BlocksNamed (cacheLeaf s h c va level pte) :=
  named_same hs rfl rfl

theorem named_throughTlb {h : Tlb} {c va : Nat} {next : Except XErr (Nat × Nat) × State} (hnext : BlocksNamed next.2) :
    BlocksNamed (throughTlb h c va next).2 := by
  unfold throughTlb
  extract_lets +onlyGivenNames fill
  have hfill : BlocksNamed fill.2 := by
    unfold fill
    split
    · exact hnext
    · exact named_cacheLeaf hnext
  split
  · exact hfill
  · extract_lets +onlyGivenNames same r
    have hr : BlocksNamed r.2 := by
      unfold r
      split
      · exact hnext
      · exact hfill
    split
    · exact hr
    · exact named_same hr rfl rfl

theorem named_findLeaf {s : State} {h : Tlb} {x : Ctx} {va : Nat} (hs : BlocksNamed s) : BlocksNamed (findLeaf s h x va).2 := by
  unfold findLeaf
  split
  · exact named_throughTlb hs
  · exact named_throughTlb (named_throughTlb hs)

theorem named_translate {s : State} {h : Tlb} {x : Ctx} {need : Need} {va : Nat} (hs : BlocksNamed s) :
    BlocksNamed (Machine.translate s h x need va).2 := by
  unfold translate
  split
  · exact named_of_snd (named_findLeaf hs) ‹_›
  · exact named_of_snd (named_findLeaf hs) ‹_›

theorem named_translateR {s : State} {h : Tlb} {x : Ctx} {need : Need} {va : Nat} (hs : BlocksNamed s) :
    BlocksNamed (translateR s h x need va).2 := by
  unfold translateR
  split
  · exact named_of_snd (named_translate hs) ‹_›
  · split
    · exact named_of_snd (named_translate hs) ‹_›
    · exact named_of_snd (named_translate hs) ‹_›

theorem named_modReplica {s : State} {c rset : Nat} {f : ReplicaSet → ReplicaSet} (hs : BlocksNamed s) :
    BlocksNamed (modReplica s c rset f) := by
  unfold modReplica
  split
  · exact named_same hs rfl rfl
  · exact named_same hs rfl rfl

theorem named_stampWrite {s : State} {x : Ctx} {rset : Nat} {cells : List Host.Cell} {bad : List Nat} {w : Writer} (hs : BlocksNamed s) :
    BlocksNamed (stampWrite s x rset cells bad w) := by
  unfold stampWrite
  split
  · exact hs
  · exact named_modReplica (named_putCells hs)

theorem named_sealPage {s : State} {ctx : Nat} {p : Page} (hs : BlocksNamed s) : BlocksNamed (sealPage s ctx p).2 := by
  unfold sealPage
  split
  · exact hs
  · split
    · exact named_of_snd (named_sealTrip hs) ‹_›
    · exact named_modDev (named_of_snd (named_sealTrip hs) ‹_›)

theorem named_readSpans {h : Tlb} {x : Ctx} {need : Need} {s : State} {l : List (Nat × Nat)} (hs : BlocksNamed s) :
    BlocksNamed (readSpans h x need s l).2 := by
  fun_induction readSpans h x need s l
  · exact hs
  · exact named_of_snd (named_translateR hs) ‹_›
  · exact named_of_snd (named_sealPage (named_of_snd (named_translateR hs) ‹_›)) ‹_›
  · rename_i ih
    exact named_of_snd (ih (named_of_snd (named_sealPage (named_of_snd (named_translateR hs) ‹_›)) ‹_›)) ‹_›
  · rename_i ih
    exact named_of_snd (ih (named_of_snd (named_sealPage (named_of_snd (named_translateR hs) ‹_›)) ‹_›)) ‹_›

theorem named_readVa {s : State} {h : Tlb} {x : Ctx} {va n : Nat} (hs : BlocksNamed s) : BlocksNamed (readVa s h x va n).2 := by
  unfold readVa
  split
  · exact hs
  · exact named_readSpans hs

theorem named_placeSpans {h : Tlb} {x : Ctx} {need : Need} {s : State} {l : List (Nat × Nat)} (hs : BlocksNamed s) :
    BlocksNamed (placeSpans h x need s l).2 := by
  fun_induction placeSpans h x need s l
  · exact hs
  · exact named_of_snd (named_translateR hs) ‹_›
  · rename_i ih
    exact named_of_snd (ih (named_of_snd (named_translateR hs) ‹_›)) ‹_›
  · rename_i ih
    exact named_of_snd (ih (named_of_snd (named_translateR hs) ‹_›)) ‹_›

theorem named_sealPlaces {ctx : Nat} {s : State} {l : List (Page × Nat)} (hs : BlocksNamed s) : BlocksNamed (sealPlaces ctx s l).2 := by
  fun_induction sealPlaces ctx s l
  · exact hs
  · rename_i ih
    exact ih (named_of_snd (named_sealPage hs) ‹_›)
  · exact named_of_snd (named_sealPage hs) ‹_›

theorem named_placeSealed {h : Tlb} {x : Ctx} {need : Need} {s : State} {l : List (Nat × Nat)} (hs : BlocksNamed s) :
    BlocksNamed (placeSealed h x need s l).2 := by
  unfold placeSealed
  split
  · exact named_of_snd (named_placeSpans hs) ‹_›
  · split
    · exact named_of_snd (named_sealPlaces (named_of_snd (named_placeSpans hs) ‹_›)) ‹_›
    · exact named_of_snd (named_sealPlaces (named_of_snd (named_placeSpans hs) ‹_›)) ‹_›

theorem named_writePlaces {x : Ctx} {s : State} {l : List (Page × Nat)} {l1 : List Byte} (hs : BlocksNamed s) :
    BlocksNamed (writePlaces x s l l1) := by
  fun_induction writePlaces x s l l1
  · exact hs
  · rename_i ih
    refine ih ?_
    rename_i t
    unfold t
    split
    · exact named_stampWrite hs
    · exact named_homePoke hs

theorem named_writeVa {s : State} {h : Tlb} {x : Ctx} {va : Nat} {bs : List Byte} (hs : BlocksNamed s) :
    BlocksNamed (writeVa s h x va bs).2 := by
  unfold writeVa
  split
  · exact hs
  · split
    · exact named_of_snd (named_placeSealed hs) ‹_›
    · exact named_writePlaces (named_of_snd (named_placeSealed hs) ‹_›)

theorem named_addVa {s : State} {h : Tlb} {x : Ctx} {va n : Nat} {half : Option DWord} {f : Nat → Nat} (hs : BlocksNamed s) :
    NamedAdded (addVa s h x va n half f) := by
  unfold addVa
  split
  · exact .fails hs
  · split
    · exact .fails (named_of_snd (named_placeSealed hs) ‹_›)
    · split
      · split
        · exact .done (named_writePlaces (named_of_snd (named_placeSealed hs) ‹_›))
        · exact .done (named_writePlaces (named_of_snd (named_placeSealed hs) ‹_›))
      · extract_lets +onlyGivenNames old
        split
        · exact .done (named_writePlaces (named_of_snd (named_placeSealed hs) ‹_›))
        · exact .half (named_of_snd (named_placeSealed hs) ‹_›)
      · exact .fails (named_of_snd (named_placeSealed hs) ‹_›)

theorem named_haltAt {s : State} {q state code index : Nat} (hs : BlocksNamed s) : BlocksNamed (haltAt s q state code index) := by
  unfold haltAt
  extract_lets +onlyGivenNames d word t
  have ht : BlocksNamed t := by
    unfold t
    split
    · exact named_poke hs
    · exact hs
  exact named_poke ht

theorem named_haltQueue {s : State} {q state code : Nat} (hs : BlocksNamed s) : BlocksNamed (haltQueue s q state code) :=
  named_haltAt hs

theorem named_countLost {s : State} {ring : Nat} (hs : BlocksNamed s) : BlocksNamed (countLost s ring) := by
  unfold countLost
  extract_lets +onlyGivenNames d
  split
  · exact named_poke hs
  · exact hs

theorem named_tryPost {s : State} {ring : Nat} {ctx : Option Ctx} {ty : EventType} {queue code detail : Nat} {src : EventSource}
    (hs : BlocksNamed s) : BlocksNamed (tryPost s ring ctx ty queue code detail src).2 := by
  unfold tryPost
  extract_lets +onlyGivenNames d tail size va rec_ written
  have hwritten : NamedOpt written := by
    unfold written
    split
    · split
      · split
        · exact .some (named_homePoke hs)
        · exact .none
      · split
        · exact .some (named_of_snd (named_writeVa hs) ‹_›)
        · exact .none
    · exact .none
  clear_value written rec_ va size tail d
  cases hwritten with
  | some h => exact named_poke h
  | none =>
    dsimp only
    exact named_countLost hs

theorem named_loseEvent {s : State} {x : Ctx} (hs : BlocksNamed s) : BlocksNamed (loseEvent s x) := by
  unfold loseEvent
  refine named_foldl (fun _ _ h => ?_) hs
  split
  · exact named_tryPost (named_haltQueue h)
  · exact h

theorem named_postTo {s : State} {ring : Nat} {ctx : Option Ctx} {ty : EventType} {queue code detail : Nat} {src : EventSource}
    (hs : BlocksNamed s) : BlocksNamed (postTo s ring ctx ty queue code detail src) := by
  have h := named_tryPost (ring := ring) (ctx := ctx) (ty := ty) (queue := queue) (code := code) (detail := detail) (src := src) hs
  unfold postTo
  generalize tryPost s ring ctx ty queue code detail src = r at h ⊢
  split
  · split
    · exact named_loseEvent h
    · exact h
  · exact h

theorem named_postEvent {s : State} {c : Nat} {ty : EventType} {queue code detail : Nat} {src : EventSource} (hs : BlocksNamed s) :
    BlocksNamed (postEvent s c ty queue code detail src) := by
  unfold postEvent
  split
  · exact hs
  · exact named_postTo hs

theorem named_postPf {s : State} {ty : EventType} {code detail : Nat} {src : EventSource} (hs : BlocksNamed s) :
    BlocksNamed (postPf s ty code detail src) := by
  unfold postPf
  split
  · exact hs
  · exact named_postTo hs

theorem named_authEvent {s : State} {key port : Nat} {ctx : Option Nat} (hs : BlocksNamed s) : BlocksNamed (authEvent s key port ctx) := by
  unfold authEvent
  split
  · exact named_postPf hs
  · extract_lets +onlyGivenNames mine owners
    split
    · exact named_postEvent hs
    · exact hs

theorem named_atticTrip {s : State} {ctx key port : Nat} (hs : BlocksNamed s) : BlocksNamed (atticTrip s ctx key port).2 := by
  unfold atticTrip
  split
  · exact named_of_snd (named_sealTrip hs) ‹_›
  · exact named_authEvent (named_of_snd (named_sealTrip hs) ‹_›)

theorem named_postAuth {s : State} (hs : BlocksNamed s) : BlocksNamed (postAuth s) :=
  named_foldl (fun _ _ h => named_authEvent h) (named_modDev hs)

theorem named_postFault {s : State} {x : Ctx} {va : Nat} {src : EventSource} {kind cause : Nat} {lanes : Mask} {batch time : Nat}
    {owner : FaultOwner} (hs : BlocksNamed s) : BlocksNamed (postFault s x va src kind cause lanes batch time owner).2 := by
  unfold postFault
  extract_lets +onlyGivenNames x1
  split
  · exact hs
  · extract_lets +onlyGivenNames n rec_ t
    have ht : BlocksNamed t := by
      unfold t
      split
      · exact named_of_snd (named_writeVa hs) ‹_›
      · exact named_of_snd (named_writeVa hs) ‹_›
    exact named_modCtx (named_poke ht)

theorem named_postHeld {s : State} {x : Ctx} {va : Nat} {src : EventSource} {kind cause : Nat} {lanes : Mask} {time : Nat}
    {owner : FaultOwner} (hs : BlocksNamed s) : BlocksNamed (postHeld s x va src kind cause lanes time owner) := by
  unfold postHeld
  split
  · exact named_of_snd (named_postFault hs) ‹_›
  · exact named_modCtx (named_of_snd (named_postFault hs) ‹_›)

theorem named_postOrWait {s : State} {x : Ctx} {va : Nat} {src : EventSource} {kind cause : Nat} {owner : FaultOwner} (hs : BlocksNamed s) :
    BlocksNamed (postOrWait s x va src kind cause owner) :=
  named_postHeld hs

theorem named_postWaiting {n : Nat} {s : State} {n1 : Nat} (hs : BlocksNamed s) : BlocksNamed (postWaiting n s n1) := by
  fun_induction postWaiting n s n1
  · exact hs
  · exact hs
  · exact hs
  · rename_i ih
    exact ih (named_modCtx (named_of_snd (named_postFault hs) ‹_›))
  · exact hs

theorem coreNamed_setTracer {N : Nat} {x : Core} {t : Tracer} (hx : CoreNamed N x) : CoreNamed N (x.setTracer t) :=
  coreNamed_upd hx rfl

theorem coreNamed_oweSyncs {N : Nat} {x : Core} {ctx : Nat} {o : OwedSync} (hx : CoreNamed N x) : CoreNamed N (x.oweSyncs ctx o) :=
  coreNamed_upd hx rfl

theorem coreNamed_putLoss {N : Nat} {x : Core} {ctx : Nat} (hx : CoreNamed N x) : CoreNamed N (putLoss x ctx) :=
  coreNamed_oweSyncs (coreNamed_setTracer hx)

theorem coreNamed_lossFirst {N : Nat} {x : Core} {ctx : Nat} (hx : CoreNamed N x) : CoreNamed N (lossFirst x ctx) := by
  unfold lossFirst
  extract_lets +onlyGivenNames t
  split
  · exact coreNamed_putLoss hx
  · exact hx

theorem coreNamed_writeUnit {N : Nat} {x : Core} {ctx : Nat} {unit : List (List Byte)} (hx : CoreNamed N x) :
    CoreNamed N (writeUnit x ctx unit).2 := by
  unfold writeUnit
  extract_lets +onlyGivenNames t n
  split
  · exact coreNamed_setTracer hx
  · exact coreNamed_setTracer hx

theorem coreNamed_countPacket {N : Nat} {x : Core} {slot split : Nat} {isSync : Bool} (hx : CoreNamed N x) :
    CoreNamed N (countPacket x slot split isSync) :=
  coreNamed_modGroup hx

theorem coreNamed_putSync {N : Nat} {x : Core} {g : Group} {split : Nat} {pc : PC} {m : Mask} {time : Nat} (hx : CoreNamed N x) :
    CoreNamed N (putSync x g split pc m time) := by
  unfold putSync
  split
  · exact coreNamed_countPacket (coreNamed_setTracer (coreNamed_of_snd (coreNamed_writeUnit hx) ‹_›))
  · exact coreNamed_of_snd (coreNamed_writeUnit hx) ‹_›

theorem coreNamed_putPacket {N : Nat} {x : Core} {g : Group} {split : Nat} {body : List Byte} {ptime : Nat} {pc : PC} {m : Mask}
    {time : Nat} (hx : CoreNamed N x) : CoreNamed N (putPacket x g split body ptime pc m time) := by
  unfold putPacket
  extract_lets +onlyGivenNames t at_
  split
  · exact coreNamed_putSync hx
  · extract_lets +onlyGivenNames group dts
    split
    · exact coreNamed_countPacket (coreNamed_setTracer (coreNamed_of_snd (coreNamed_writeUnit hx) ‹_›))
    · exact coreNamed_of_snd (coreNamed_writeUnit hx) ‹_›

theorem coreNamed_putBits {N : Nat} {x : Core} {slot split time : Nat} (hx : CoreNamed N x) : CoreNamed N (putBits x slot split time) := by
  unfold putBits
  split
  · exact hx
  · extract_lets +onlyGivenNames t
    split
    · exact hx
    · extract_lets +onlyGivenNames x1
      have hx1 : CoreNamed N x1 := coreNamed_modGroup hx
      extract_lets +onlyGivenNames x2
      have hx2 : CoreNamed N x2 := by
        unfold x2
        split
        · exact coreNamed_putSync hx1
        · exact hx1
      exact coreNamed_putPacket hx2

theorem coreNamed_leaveStream {N : Nat} {x : Core} {ctx slot split time : Nat} (hx : CoreNamed N x) :
    CoreNamed N (leaveStream x ctx slot split time) := by
  unfold leaveStream
  split
  · split
    · exact hx
    · exact coreNamed_putBits hx
  · exact hx

theorem coreNamed_syncAfterLoss {N : Nat} {x : Core} {g : Group} {split : Nat} {pc : PC} {m : Mask} {time : Nat} (hx : CoreNamed N x) :
    CoreNamed N (syncAfterLoss x g split pc m time) :=
  coreNamed_putSync (coreNamed_modGroup hx)

theorem coreNamed_writeEvent {N : Nat} {x : Core} {e : TraceEvent} {time : Nat} (hx : CoreNamed N x) :
    CoreNamed N (writeEvent x e time) := by
  unfold writeEvent
  split
  · exact hx
  · extract_lets +onlyGivenNames x1
    have hx1 : CoreNamed N x1 := coreNamed_leaveStream (coreNamed_lossFirst hx)
    extract_lets +onlyGivenNames g lost x2
    have hx2 : CoreNamed N x2 := coreNamed_putBits hx1
    extract_lets +onlyGivenNames g1
    split
    · split
      · exact coreNamed_syncAfterLoss hx2
      · exact hx2
    · split
      · exact coreNamed_syncAfterLoss hx2
      · exact coreNamed_putSync hx2
    · extract_lets +onlyGivenNames x3
      have hx3 : CoreNamed N x3 := by
        unfold x3
        split
        · exact coreNamed_syncAfterLoss hx2
        · split
          · exact coreNamed_putSync hx2
          · exact hx2
      exact coreNamed_putPacket hx3

theorem coreNamed_takeTrace {N : Nat} {x : Core} {e : TraceEvent} {time : Nat} (hx : CoreNamed N x) : CoreNamed N (takeTrace x e time) := by
  unfold takeTrace
  split
  · exact hx
  · extract_lets +onlyGivenNames st
    split
    · extract_lets +onlyGivenNames st1 st2 x1
      have hx1 : CoreNamed N x1 := coreNamed_modGroup hx
      split
      · exact hx1
      · exact coreNamed_writeEvent hx1
    · exact coreNamed_writeEvent (coreNamed_modGroup hx)

theorem named_note {s : State} {e : TraceEvent} (hs : BlocksNamed s) : BlocksNamed (note s e) := by
  unfold note
  split
  · exact hs
  · split
    · exact hs
    · split
      · exact named_same hs rfl rfl
      · exact hs

theorem named_noteSync {s : State} {c slot pipe i : Nat} (hs : BlocksNamed s) : BlocksNamed (noteSync s c slot pipe i) := by
  unfold noteSync
  split
  · exact hs
  · exact named_note hs

theorem named_settleTrace {s : State} (hs : BlocksNamed s) : BlocksNamed (settleTrace s) :=
  named_foldl (fun _ _ h => named_modCore h (fun _ h1 => coreNamed_takeTrace h1)) (named_same hs rfl rfl)

theorem named_drainUnit {s : State} {x : Ctx} {c : Nat} (hs : BlocksNamed s) : BlocksNamed (drainUnit s x c) := by
  unfold drainUnit
  extract_lets +onlyGivenNames t unit
  split
  · exact hs
  · exact named_writeVa (named_writeVa (named_modCore (named_writeVa hs) (fun _ h => coreNamed_setTracer h)))

theorem named_drainAll {n : Nat} {s : State} {a : Ctx} {n1 : Nat} (hs : BlocksNamed s) : BlocksNamed (drainAll n s a n1) := by
  fun_induction drainAll n s a n1
  · exact hs
  · rename_i ih
    exact ih (named_drainUnit hs)

theorem coreNamed_flushStream {N : Nat} {x : Core} {ctx time slot split : Nat} (hx : CoreNamed N x) :
    CoreNamed N (flushStream x ctx time slot split) := by
  unfold flushStream
  split
  · exact hx
  · extract_lets +onlyGivenNames st
    split
    · exact hx
    · extract_lets +onlyGivenNames x1
      have hx1 : CoreNamed N x1 := coreNamed_lossFirst hx
      extract_lets +onlyGivenNames g
      split
      · exact coreNamed_syncAfterLoss hx1
      · exact coreNamed_putBits hx1

theorem coreNamed_flushBits {N : Nat} {x : Core} {ctx time : Nat} (hx : CoreNamed N x) : CoreNamed N (flushBits x ctx time) := by
  unfold flushBits
  extract_lets +onlyGivenNames y
  have hy : CoreNamed N y := by
    unfold y
    split
    · exact coreNamed_flushStream hx
    · exact hx
  exact coreNamed_foldl (fun _ _ h => coreNamed_foldl (fun _ _ h1 => coreNamed_flushStream h1) h) hy

theorem coreNamed_padStream {N : Nat} {x : Core} {ctx : Nat} (hx : CoreNamed N x) : CoreNamed N (padStream x ctx) := by
  unfold padStream
  extract_lets +onlyGivenNames ragged y
  have hy : CoreNamed N y := by
    unfold y
    split
    · exact coreNamed_putLoss hx
    · exact hx
  split
  · exact hy
  · exact coreNamed_setTracer hy

theorem named_flushTrace {s : State} {c : Nat} (hs : BlocksNamed s) : BlocksNamed (flushTrace s c) := by
  unfold flushTrace
  extract_lets +onlyGivenNames s1
  have hs1 : BlocksNamed s1 := named_settleTrace hs
  split
  · exact hs1
  · split
    · exact hs1
    · exact named_foldl (fun _ _ h => named_drainAll (named_setCore h (coreNamed_padStream (coreNamed_flushBits (named_core h _))))) hs1

theorem named_writeTrcctl {s : State} {c : Nat} {v : DWord} (hs : BlocksNamed s) : BlocksNamed (writeTrcctl s c v) := by
  unfold writeTrcctl
  split
  · exact hs
  · extract_lets +onlyGivenNames new moved y s1
    have hs1 : BlocksNamed s1 := by
      unfold s1
      split
      · exact named_flushTrace hs
      · exact named_settleTrace hs
    extract_lets +onlyGivenNames s2
    have hs2 : BlocksNamed s2 := by
      unfold s2
      split
      · exact named_mapCores hs1 rfl (Nat.le_refl _) (fun _ => rfl) (fun _ _ h => coreNamed_upd h rfl)
      · exact hs1
    extract_lets +onlyGivenNames s3
    have hs3 : BlocksNamed s3 := by
      unfold s3
      split
      · exact named_mapCores hs2 rfl (Nat.le_refl _) (fun _ => rfl) (fun _ _ h => coreNamed_oweSyncs (coreNamed_setTracer h))
      · exact hs2
    exact named_modCtx hs3

theorem coreNamed_putScratch {N : Nat} {x : Core} {off : Nat} {bs : List Byte} (hx : CoreNamed N x) : CoreNamed N (x.putScratch off bs) :=
  coreNamed_upd hx rfl

theorem named_writePlace {s : State} {p : Place} {bs : List Byte} (hs : BlocksNamed s) : BlocksNamed (writePlace s p bs) :=
  named_modCore hs fun _ h => coreNamed_putScratch h

theorem named_testWaits {s : State} {p : Place} {n : Nat} (hs : BlocksNamed s) : BlocksNamed (testWaits s p n) :=
  named_same hs rfl rfl

theorem named_storePlace {s : State} {p : Place} {bs : List Byte} (hs : BlocksNamed s) : BlocksNamed (storePlace s p bs) :=
  named_testWaits (named_writePlace hs)

theorem named_performLane {s : State} {p : RemoteAccess} {l : RemoteLane} (hs : BlocksNamed s) : BlocksNamed (performLane s p l).1 := by
  unfold performLane
  extract_lets +onlyGivenNames at_ bad now
  split
  · exact named_writePlace hs
  · exact hs
  · exact hs
  · split
    · exact named_writePlace hs
    · exact hs

theorem named_performLanes {p : RemoteAccess} {l : List RemoteLane} {s : State} (hs : BlocksNamed s) :
    BlocksNamed (performLanes p l s).1 := by
  fun_induction performLanes p l s
  · exact hs
  · rename_i ih
    exact ih (named_performLane hs)

theorem named_performPart {s : State} {c slot : Nat} {p : RemoteAccess} (hs : BlocksNamed s) : BlocksNamed (performPart s c slot p) := by
  unfold performPart
  extract_lets +onlyGivenNames r
  have hr : BlocksNamed r.1 := named_performLanes hs
  extract_lets +onlyGivenNames t
  have ht : BlocksNamed t := by
    unfold t
    split
    · exact named_foldl (fun _ _ h => named_testWaits h) hr
    · exact hr
  exact named_modGroup ht

theorem named_performAll {s : State} {c slot : Nat} (hs : BlocksNamed s) : BlocksNamed (performAll s c slot) := by
  unfold performAll
  split
  · exact hs
  · exact named_foldl (fun _ _ h => named_performPart h) hs

theorem named_settleRemote {s : State} (hs : BlocksNamed s) : BlocksNamed (settleRemote s) := by
  unfold settleRemote
  refine named_foldl (fun _ _ h => ?_) hs
  split
  · exact h
  · split
    · exact named_performPart h
    · exact h

theorem coreNamed_landV {N : Nat} {x : Core} {g : Group} {n l : Nat} {v : Word} (hx : CoreNamed N x) : CoreNamed N (x.landV g n l v) := by
  unfold Core.landV
  split
  · exact hx
  · exact coreNamed_upd hx rfl

theorem coreNamed_landLanes {N : Nat} {x : Core} {g : Group} {n : Nat} {f : Nat → Word} {l : List Nat} (hx : CoreNamed N x) :
    CoreNamed N (x.landLanes g n f l) := by
  fun_induction Core.landLanes x g n f l
  · exact hx
  · rename_i ih
    exact ih (coreNamed_landV hx)

theorem named_putV {s : State} {w : Issuer} {n : Nat} {lanes : Mask} {tl tu : Nat} {f : Nat → Word} (hs : BlocksNamed s) :
    BlocksNamed (putV s w n lanes tl tu f) := by
  unfold putV
  split
  · exact hs
  · refine named_modCore hs fun _ h => ?_
    split
    · exact h
    · exact coreNamed_modGroup (coreNamed_landLanes h)

theorem named_putPair {s : State} {w : Issuer} {n : Nat} {lanes : Mask} {tl tu : Nat} {f : Nat → Nat} (hs : BlocksNamed s) :
    BlocksNamed (putPair s w n lanes tl tu f) :=
  named_putV (named_putV hs)

theorem named_putK {s : State} {w : Issuer} {k : Nat} {lanes : Mask} {tl tu : Nat} {v : Mask} (hs : BlocksNamed s) :
    BlocksNamed (putK s w k lanes tl tu v) := by
  unfold putK
  split
  · exact hs
  · exact named_modGroup hs

theorem named_putG {s : State} {w : Issuer} {i : Nat} {v : DWord} (hs : BlocksNamed s) : BlocksNamed (putG s w i v) := by
  unfold putG
  split
  · exact hs
  · exact named_putV hs

theorem coreNamed_landG {N : Nat} {x : Core} {g : Group} {i : Nat} {v : DWord} (hx : CoreNamed N x) : CoreNamed N (x.landG g i v) :=
  coreNamed_landV (coreNamed_landV hx)

theorem named_flagWrite {s : State} {w : Issuer} {t : Nat} {f : BitVec 4} {to_ : BitVec 4 → BitVec 4} (hs : BlocksNamed s) :
    BlocksNamed (flagWrite s w t f to_) :=
  named_modGroup hs

theorem named_raiseFlags {s : State} {w : Issuer} {t : Nat} {f : BitVec 4} (hs : BlocksNamed s) : BlocksNamed (raiseFlags s w t f) := by
  unfold raiseFlags
  split
  · exact hs
  · exact named_flagWrite hs

theorem named_retire {s : State} {w : Issuer} {next : PC} {n : Nat} (hs : BlocksNamed s) : BlocksNamed (retire s w next n) :=
  named_modGroup hs

theorem named_done {s : State} {w : Issuer} (hs : BlocksNamed s) : BlocksNamed (done s w) :=
  named_retire hs

theorem named_holdIt {s : State} {w : Issuer} {h : Hold} (hs : BlocksNamed s) : BlocksNamed (holdIt s w h) :=
  named_modSplit hs

theorem named_blockIt {s : State} {w : Issuer} {h : Hold} (hs : BlocksNamed s) : BlocksNamed (blockIt s w h) :=
  named_modSplit hs

theorem named_spillFails {s : State} {x : Ctx} {c : Nat} {g : Group} {idx : Nat} {e : XErr} {va : Nat} (hs : BlocksNamed s) :
    NamedSpill (spillFails s x c g idx e va) := by
  unfold spillFails
  split
  · exact .violation
  · exact .faulted (named_postHeld hs)

theorem named_spillWrite {s : State} {c : Nat} {g : Group} {idx j : Nat} {e : SEntry} (hs : BlocksNamed s) :
    NamedSpill (spillWrite s c g idx j e) := by
  unfold spillWrite
  split
  · exact .violation
  · split
    · exact .ok (named_of_snd (named_writeVa hs) ‹_›)
    · exact named_spillFails (named_of_snd (named_writeVa hs) ‹_›)

theorem named_spillRead {s : State} {c : Nat} {g : Group} {idx j : Nat} (hs : BlocksNamed s) : NamedSpill (spillRead s c g idx j) := by
  unfold spillRead
  split
  · exact .violation
  · split
    · exact .ok (named_modGroup (named_of_snd (named_readVa hs) ‹_›))
    · exact named_spillFails (named_of_snd (named_readVa hs) ‹_›)

theorem named_pushEntry {s : State} {c slot idx : Nat} {e : SEntry} (hs : BlocksNamed s) : NamedSpill (pushEntry s c slot idx e) := by
  unfold pushEntry
  split
  · exact .ok hs
  · extract_lets +onlyGivenNames j
    split
    · split
      · exact .ok (named_modGroup hs)
      · split
        · exact .overflow
        · split
          · exact .overflow
          · split
            · exact .ok (named_modGroup ((named_spillWrite hs).of_ok ‹_›))
            · exact named_spillWrite hs
    · exact .ok (named_modGroup hs)

theorem named_pushAll {c slot idx : Nat} {s : State} {l : List SEntry} (hs : BlocksNamed s) : NamedSpill (pushAll c slot idx s l) := by
  fun_induction pushAll c slot idx s l
  · exact .ok hs
  · rename_i ih
    exact ih ((named_pushEntry hs).of_ok ‹_›)
  · exact named_pushEntry hs

theorem coreNamed_landResults {N : Nat} {x : Core} {g : Group} {ws : List (Nat × Nat × Word)} (hx : CoreNamed N x) :
    CoreNamed N (x.landResults g ws) :=
  coreNamed_foldl (fun _ _ h => coreNamed_landV h) hx

theorem named_landWrites {s : State} {c slot : Nat} (hs : BlocksNamed s) : BlocksNamed (landWrites s c slot) := by
  unfold landWrites
  refine named_modCore hs fun _ h => ?_
  split
  · exact h
  · extract_lets +onlyGivenNames x1
    have hx1 : CoreNamed s.nextId x1 := coreNamed_foldl (fun _ _ h1 => coreNamed_landResults h1) h
    extract_lets +onlyGivenNames x2
    have hx2 : CoreNamed s.nextId x2 := by
      unfold x2
      refine coreNamed_foldl (fun _ _ h1 => ?_) hx1
      split
      · exact h1
      · exact coreNamed_landG h1
    exact coreNamed_modGroup hx2

theorem named_completeWrites {s : State} {c slot : Nat} (hs : BlocksNamed s) : BlocksNamed (completeWrites s c slot) :=
  named_landWrites (named_performAll hs)

theorem named_suspend {s : State} {c slot : Nat} (hs : BlocksNamed s) : BlocksNamed (suspend s c slot) :=
  named_modGroup hs

theorem named_enterHandler {s : State} {c slot : Nat} {t : TrapWait} (hs : BlocksNamed s) : BlocksNamed (enterHandler s c slot t) := by
  unfold enterHandler
  split
  · exact hs
  · split
    · exact named_noteSync (named_modGroup ((named_pushAll hs).of_ok ‹_›))
    · exact named_modGroup ((named_pushAll hs).of_faulted ‹_›)
    · exact named_postEvent (named_modGroup (named_suspend hs))

theorem named_postUnhandled {s : State} {t : TakenTrap} (hs : BlocksNamed s) : BlocksNamed (postUnhandled s t) := by
  unfold postUnhandled
  split
  · exact hs
  · split
    · exact named_postEvent hs
    · exact hs

theorem named_trapAt {s : State} {c slot : Nat} {sp : Split} {cause : Cause} {resume : PC} {bad : DWord} {flt : Mask} {code : Nat}
    (hs : BlocksNamed s) : BlocksNamed (trapAt s c slot sp cause resume bad flt code) := by
  unfold trapAt
  extract_lets +onlyGivenNames s1
  have hs1 : BlocksNamed s1 := named_landWrites hs
  extract_lets +onlyGivenNames s2
  have hs2 : BlocksNamed s2 := named_modGroup hs1
  extract_lets +onlyGivenNames handler s3
  have hs3 : BlocksNamed s3 := named_same hs2 rfl rfl
  extract_lets +onlyGivenNames s4
  have hs4 : BlocksNamed s4 := named_note hs3
  split
  · exact named_suspend hs4
  · exact named_enterHandler hs4

theorem named_takeTrap {s : State} {c slot i : Nat} {cause : Cause} {resume : PC} {bad : DWord} {flt : Mask} {code : Nat}
    (hs : BlocksNamed s) : BlocksNamed (takeTrap s c slot i cause resume bad flt code) := by
  unfold takeTrap
  split
  · exact hs
  · exact named_trapAt hs

theorem named_spillTrap {s : State} {c slot va : Nat} (hs : BlocksNamed s) : BlocksNamed (spillTrap s c slot va) := by
  unfold spillTrap
  split
  · exact hs
  · split
    · exact named_takeTrap hs
    · exact named_trapAt (named_same hs rfl rfl)

theorem named_mirrorFrom {c slot idx : Nat} {l : List Nat} {s : State} (hs : BlocksNamed s) : BlocksNamed (mirrorFrom c slot idx l s) := by
  fun_induction mirrorFrom c slot idx l s
  · exact hs
  · exact hs
  · exact hs
  · rename_i ih
    exact ih ((named_spillWrite hs).of_ok ‹_›)
  · exact named_spillTrap hs
  · exact (named_spillWrite hs).of_faulted ‹_›
  · exact hs

theorem named_mirrorSpill {s : State} {old : List SEntry} {c slot idx : Nat} (hs : BlocksNamed s) :
    BlocksNamed (mirrorSpill s old c slot idx) := by
  unfold mirrorSpill
  split
  · exact hs
  · exact named_mirrorFrom hs

theorem named_trapHere {s : State} {w : Issuer} {cause : Cause} {bad : DWord} {flt : Mask} (hs : BlocksNamed s) :
    BlocksNamed (trapHere s w cause bad flt) :=
  named_takeTrap hs

theorem named_trapAll {s : State} {w : Issuer} {cause : Cause} {bad : DWord} (hs : BlocksNamed s) : BlocksNamed (trapAll s w cause bad) :=
  named_trapHere hs

theorem named_queueUpdate {s : State} {u : Update} (hs : BlocksNamed s) : BlocksNamed (queueUpdate s u) :=
  named_same hs rfl rfl

theorem named_rejectUpdate {s : State} {u : Update} {cause : Cause} (hs : BlocksNamed s) : BlocksNamed (rejectUpdate s u cause) := by
  unfold rejectUpdate
  split
  · split
    · exact named_modGroup hs
    · split
      · exact hs
      · exact named_takeTrap (named_modSplit hs)
  · extract_lets +onlyGivenNames s1
    have hs1 : BlocksNamed s1 := named_postEvent hs
    split
    · exact hs1
    · exact named_modOp hs1

theorem named_acceptArrivals {s : State} {us : List Update} (hs : BlocksNamed s) : BlocksNamed (acceptArrivals s us) := by
  unfold acceptArrivals
  refine named_foldl (fun _ _ h => ?_) hs
  split
  · exact named_modSplit h
  · exact h

theorem named_noteExits {s : State} {us : List Update} (hs : BlocksNamed s) : BlocksNamed (noteExits s us) :=
  named_foldl (fun _ _ h => named_modGroup h) hs

theorem named_phaseSets {s : State} {core off n : Nat} (hs : BlocksNamed s) : BlocksNamed (phaseSets s core off n) :=
  named_same hs rfl rfl

theorem named_updateObject {s : State} {core off : Nat} {us : List Update} (hs : BlocksNamed s) :
    BlocksNamed (updateObject s core off us) := by
  unfold updateObject
  extract_lets +onlyGivenNames came r s1
  have hs1 : BlocksNamed s1 := named_phaseSets hs
  extract_lets +onlyGivenNames s2
  have hs2 : BlocksNamed s2 := by
    unfold s2
    split
    · exact hs1
    · exact named_storePlace hs1
  extract_lets +onlyGivenNames s3
  have hs3 : BlocksNamed s3 := by
    unfold s3
    split
    · exact named_noteExits hs2
    · exact hs2
  exact named_foldl (fun _ _ h => named_rejectUpdate h) (named_acceptArrivals hs3)

theorem named_settleUpdates {n : Nat} {s : State} (hs : BlocksNamed s) : BlocksNamed (settleUpdates n s) := by
  fun_induction settleUpdates n s
  · exact named_same hs rfl rfl
  · exact hs
  · rename_i ih
    exact ih (named_updateObject (named_same hs rfl rfl))

theorem named_laneIssue {s : State} {i : Instr} {named : List Nat} {srcs : Issuer → List Src} {act : Issuer → State} (hs : BlocksNamed s)
    (hact : ∀ (a : Issuer), BlocksNamed (act a)) : NamedOut (laneIssue s i named srcs act) := by
  unfold laneIssue
  refine named_onIssuer fun _ => ?_
  split
  · exact named_trapAll hs
  · split
    · exact named_trapAll hs
    · split
      · exact named_trapAll hs
      · exact hact _

theorem named_afterAcquires {s : State} {w : Issuer} {go : State} (hs : BlocksNamed s) (hgo : BlocksNamed go) :
    BlocksNamed (afterAcquires s w go) := by
  unfold afterAcquires
  split
  · exact named_holdIt hs
  · exact hgo

theorem named_uniIssue {s : State} {i : Instr} {priv : Bool} {named : List Nat} {srcs : Issuer → List Src} {act : Issuer → State}
    (hs : BlocksNamed s) (hact : ∀ (a : Issuer), BlocksNamed (act a)) : NamedOut (uniIssue s i priv named srcs act) := by
  unfold uniIssue
  refine named_onIssuer fun _ => ?_
  split
  · exact named_trapAll hs
  · split
    · exact named_trapAll hs
    · split
      · exact named_trapAll hs
      · split
        · exact named_trapAll hs
        · exact hact _

theorem named_laneIssueIf {s : State} {i : Instr} {legal : Issuer → Bool} {named : List Nat} {srcs : Issuer → List Src}
    {act : Issuer → State} (hs : BlocksNamed s) (hact : ∀ (a : Issuer), BlocksNamed (act a)) :
    NamedOut (laneIssueIf s i legal named srcs act) := by
  unfold laneIssueIf
  split
  · split
    · exact .next (named_trapAll hs)
    · exact named_laneIssue hs fun _ => hact _
  · exact named_laneIssue hs fun _ => hact _

theorem named_uniIssueIf {s : State} {i : Instr} {legal : Issuer → Bool} {named : List Nat} {srcs : Issuer → List Src}
    {act : Issuer → State} (hs : BlocksNamed s) (hact : ∀ (a : Issuer), BlocksNamed (act a)) :
    NamedOut (uniIssueIf s i legal named srcs act) := by
  unfold uniIssueIf
  split
  · split
    · exact .next (named_trapAll hs)
    · exact named_uniIssue hs fun _ => hact _
  · exact named_uniIssue hs fun _ => hact _

theorem named_writeLanes {s : State} {w : Issuer} {d : Nat} {m : Mask} {t : Nat} {f : Nat → Word} (hs : BlocksNamed s) :
    BlocksNamed (writeLanes s w d m t f) :=
  named_putV hs

theorem named_writePairs {s : State} {w : Issuer} {d : Nat} {m : Mask} {t : Nat} {f : Nat → Nat} (hs : BlocksNamed s) :
    BlocksNamed (writePairs s w d m t f) :=
  named_putPair hs

theorem named_checked {s : State} {w : Issuer} {size : Nat} {as : List (Nat × Nat)} {ok : State} (hs : BlocksNamed s) (hok : BlocksNamed ok)
    : BlocksNamed (checked s w size as ok) := by
  unfold checked
  split
  · exact named_trapHere hs
  · split
    · exact hok
    · exact named_afterAcquires hs hok

theorem named_checkedU {s : State} {w : Issuer} {size a : Nat} {ok : State} (hs : BlocksNamed s) (hok : BlocksNamed ok) :
    BlocksNamed (checkedU s w size a ok) := by
  unfold checkedU
  split
  · exact named_trapAll hs
  · exact named_afterAcquires hs hok

theorem named_chargedFor {s : State} {w : Issuer} {cls c : Nat} {flt : Mask} {go : State} (hs : BlocksNamed s) (hgo : BlocksNamed go) :
    BlocksNamed (chargedFor s w cls c flt go) := by
  unfold chargedFor
  split
  · exact hgo
  · exact named_holdIt hs
  · exact named_trapHere hs

theorem named_charged {s : State} {w : Issuer} {cls c : Nat} {go : State} (hs : BlocksNamed s) (hgo : BlocksNamed go) :
    BlocksNamed (charged s w cls c go) :=
  named_chargedFor hs hgo

theorem named_endPriority {s : State} {w : Issuer} (hs : BlocksNamed s) : BlocksNamed (endPriority s w) :=
  named_modCtx hs

theorem named_forkOp {s : State} {w : Issuer} {gate : Gate} {cls c : Nat} {kind : OpKind} (hs : BlocksNamed s) :
    BlocksNamed (forkOp s w gate cls c kind).2 := by
  unfold forkOp
  exact named_modGroup (named_next (named_endPriority (w := w) hs) rfl rfl)

theorem named_completeOp {s : State} {o : Op} (hs : BlocksNamed s) : BlocksNamed (completeOp s o) := by
  unfold completeOp
  extract_lets +onlyGivenNames s1
  have hs1 : BlocksNamed s1 := named_dropOp hs
  extract_lets +onlyGivenNames heir
  refine named_modGroup ?_
  clear_value heir
  split
  · exact named_modOp hs1
  · exact hs1

theorem named_landResults {s : State} {o : Op} {n : Nat} {ws : List (Nat × Word)} (hs : BlocksNamed s) :
    BlocksNamed (landResults s o n ws) := by
  unfold landResults
  split
  · exact hs
  · refine named_modCore hs fun _ h => ?_
    split
    · exact h
    · exact coreNamed_modGroup (coreNamed_foldl (fun _ _ h1 => coreNamed_landV h1) h)

theorem named_landResultG {s : State} {o : Op} {gd v : Nat} (hs : BlocksNamed s) : BlocksNamed (landResultG s o gd v) := by
  unfold landResultG
  split
  · exact hs
  · refine named_modCore hs fun _ h => ?_
    split
    · exact h
    · exact coreNamed_modGroup (coreNamed_landG h)

theorem named_readLaunch {s : State} {h : Tlb} {x : Ctx} {va : Nat} {bound : Nat → Option Nat} (hs : BlocksNamed s) :
    BlocksNamed (readLaunch s h x va bound).2 := by
  unfold readLaunch
  split
  · exact named_of_snd (named_readVa hs) ‹_›
  · extract_lets +onlyGivenNames r
    split
    · exact named_of_snd (named_readVa hs) ‹_›
    · split
      · exact named_of_snd (named_readVa hs) ‹_›
      · split
        · exact named_of_snd (named_readVa hs) ‹_›
        · split
          · split
            · exact named_of_snd (named_readVa (named_of_snd (named_readVa hs) ‹_›)) ‹_›
            · split
              · exact named_of_snd (named_readVa (named_of_snd (named_readVa hs) ‹_›)) ‹_›
              · exact named_of_snd (named_readVa (named_of_snd (named_readVa hs) ‹_›)) ‹_›
          · exact named_of_snd (named_readVa hs) ‹_›

theorem named_writeFloat {s : State} {w : Issuer} {t : FType} {d : Nat} {m : Mask} {f : Nat → Nat} (hs : BlocksNamed s) :
    BlocksNamed (writeFloat s w t d m f) := by
  unfold writeFloat
  split
  · exact named_writePairs hs
  · exact named_writeLanes hs

theorem named_fpR {s : State} {i : Instr} {k d a b : Nat} {t : FType} {readD : Bool} {op : NumFmt → Nat → Nat → Nat → Nat × FFlags}
    (hs : BlocksNamed s) : NamedOut (fpR s i k d a b t readD op) :=
  named_laneIssue hs fun _ => named_done (named_raiseFlags (named_writeFloat hs))

theorem named_fpG {s : State} {i : Instr} {k d a g : Nat} {readD : Bool} {op : NumFmt → Nat → Nat → Nat → Nat × FFlags} (hs : BlocksNamed s)
    : NamedOut (fpG s i k d a g readD op) :=
  named_laneIssue hs fun _ => named_done (named_raiseFlags (named_writeLanes hs))

theorem named_pushLa {s : State} {w : Issuer} {la : Nat} {regs : List Nat} {m : Mask} {writes : List (Nat × Nat × Word)}
    {poisoned : Option (DWord × Mask)} {parts : List RemoteAccess} (hs : BlocksNamed s) :
    BlocksNamed (pushLa s w la regs m writes poisoned parts) := by
  unfold pushLa
  split
  · exact hs
  · refine named_modCore (named_next hs rfl rfl) fun _ h => ?_
    split
    · exact h
    · exact coreNamed_modGroup h

theorem named_xfn {s : State} {i : Instr} {k d a la : Nat} {f : FVal → Nat × FFlags} (hs : BlocksNamed s) : NamedOut (xfn s i k d a la f) :=
  named_laneIssue hs fun _ => named_done (named_raiseFlags (named_pushLa hs))

theorem named_execFcmp {k : KReg} {c : FCond} {e : KReg} {a b : VReg} {t : FType} {s : State} (hs : BlocksNamed s) :
    NamedOut (execFcmp k c e a b t s) :=
  named_laneIssue hs fun _ => named_done (named_raiseFlags (named_putK hs))

theorem named_execCvt {k : KReg} {d a : VReg} {c : Fin 128} {md : RMode} {s : State} (hs : BlocksNamed s) :
    NamedOut (execCvt k d a c md s) := by
  unfold execCvt
  split
  refine named_laneIssue hs fun w => ?_
  extract_lets +onlyGivenNames m r t
  have ht : BlocksNamed t := by
    unfold t
    split
    · exact named_writePairs hs
    · exact named_writeLanes hs
  exact named_done (named_raiseFlags ht)

theorem named_countCapped {s : State} {c slot : Nat} {pc : PC} (hs : BlocksNamed s) : BlocksNamed (countCapped s c slot pc) := by
  unfold countCapped
  split
  · exact hs
  · extract_lets +onlyGivenNames t
    have ht : BlocksNamed t := named_modGroup hs
    split
    · exact named_postEvent ht
    · exact ht

theorem named_capScope {s : State} {c slot : Nat} {g : Group} {sc : Scope} {pc : PC} (hs : BlocksNamed s) :
    BlocksNamed (capScope s c slot g sc pc).2 := by
  unfold capScope
  split
  · exact named_countCapped hs
  · exact hs

theorem named_afterFences {s : State} {w : Issuer} {go : State} (hs : BlocksNamed s) (hgo : BlocksNamed go) :
    BlocksNamed (afterFences s w go) := by
  unfold afterFences
  split
  · exact named_holdIt hs
  · exact hgo

theorem named_pushFar {s : State} {w : Issuer} {parts : List RemoteAccess} (hs : BlocksNamed s) : BlocksNamed (pushFar s w parts) := by
  unfold pushFar
  split
  · exact hs
  · exact named_modMine (named_next hs rfl rfl)

theorem named_lds {s : State} {i : Instr} {k d a g la size regs ext : Nat} (hs : BlocksNamed s) :
    NamedOut (lds s i k d a g la size regs ext) :=
  named_laneIssue hs fun _ => named_checked hs (named_done (named_pushLa hs))

theorem named_testAll {s : State} {w : Issuer} {size : Nat} {as : List (Nat × Nat)} {t : State} (ht : BlocksNamed t) :
    BlocksNamed (testAll s w size as t) :=
  named_foldl (fun _ _ h => named_testWaits h) ht

theorem named_storeLanes {s : State} {w : Issuer} {size d : Nat} {as : List (Nat × Nat)} (hs : BlocksNamed s) :
    BlocksNamed (storeLanes s w size d as) :=
  named_testAll (named_foldl (fun _ _ h => named_writePlace h) hs)

theorem named_checkedStore {s : State} {w : Issuer} {size : Nat} {as : List (Nat × Nat)} {ok : State} (hs : BlocksNamed s)
    (hok : BlocksNamed ok) : BlocksNamed (checkedStore s w size as ok) := by
  unfold checkedStore
  refine named_checked hs ?_
  split
  · exact hok
  · exact named_afterFences hs hok

theorem named_sts {s : State} {i : Instr} {k d a g size : Nat} (hs : BlocksNamed s) : NamedOut (sts s i k d a g size) :=
  named_laneIssue hs fun _ => named_checkedStore hs (named_done (named_pushFar (named_storeLanes hs)))

theorem named_atomLanes {s : State} {w : Issuer} {op : AtomOp} {d : Nat} {l : List (Nat × Nat)} {s1 : State} {l1 : List (Nat × Nat × Word)}
    (hs1 : BlocksNamed s1) : BlocksNamed (atomLanes s w op d l s1 l1).1 := by
  fun_induction atomLanes s w op d l s1 l1
  · exact hs1
  · rename_i ih
    exact ih hs1
  · rename_i ih
    exact ih (named_writePlace hs1)

theorem named_atoms {s : State} {i : Instr} {k d a g la : Nat} {op : AtomOp} (hs : BlocksNamed s) : NamedOut (atoms s i k d a g la op) :=
  named_laneIssue hs fun _ => named_checkedStore hs (named_done (named_pushLa (named_testAll (named_atomLanes hs))))

theorem named_keepSet {s : State} {core : Nat} {sc : Scope} {source : Option (Nat × Nat)} {cells : List Host.Cell}
    {object : Option (Nat × Nat)} {ws : List WriteRef} (hs : BlocksNamed s) : BlocksNamed (keepSet s core sc source cells object ws) := by
  unfold keepSet
  split
  · exact hs
  · exact named_next hs rfl rfl

theorem named_arriveSets {s : State} {core slot seq : Nat} {cells : List Nat} (hs : BlocksNamed s) :
    BlocksNamed (arriveSets s core slot seq cells) :=
  named_same hs rfl rfl

theorem named_endSets {s : State} {pa n : Nat} (hs : BlocksNamed s) : BlocksNamed (endSets s pa n) :=
  named_same hs rfl rfl

theorem named_acquireAt {s : State} {c : Nat} {sc : Scope} (hs : BlocksNamed s) : BlocksNamed (acquireAt s c sc) := by
  unfold acquireAt
  split
  · exact named_modCore hs fun _ h => coreNamed_upd h rfl
  · exact hs

theorem named_acquireBy {s : State} {c slot : Nat} {sc : Scope} (hs : BlocksNamed s) : BlocksNamed (acquireBy s c slot sc) := by
  unfold acquireBy
  extract_lets +onlyGivenNames t
  have ht : BlocksNamed t := named_acquireAt hs
  split
  · exact named_modGroup ht
  · exact ht

theorem named_dropBehind {s : State} {c : Nat} (hs : BlocksNamed s) : BlocksNamed (dropBehind s c) :=
  named_modCore hs fun _ h => coreNamed_upd h rfl

theorem named_observe {s : State} {c slot : Nat} {sc : Scope} {ys : List Sight} (hs : BlocksNamed s) :
    BlocksNamed (observe s c slot sc ys) :=
  named_modGroup hs

theorem named_acquireReads {s : State} {c slot : Nat} {sc : Scope} (hs : BlocksNamed s) : BlocksNamed (acquireReads s c slot sc) := by
  unfold acquireReads
  split
  · exact hs
  · exact named_acquireBy (named_observe hs)

theorem named_queueRead {s : State} {w : Issuer} {cls : Nat} {dest : Dest} {pieces : List Piece} {atom : Option AtomOp}
    {operands : List (Nat × DWord × DWord)} {acquire : Option Scope} (hs : BlocksNamed s) :
    BlocksNamed (queueRead s w cls dest pieces atom operands acquire) :=
  named_charged hs (named_done (named_modMine (named_forkOp hs)))

theorem named_queueStore {s : State} {w : Issuer} {writes : List (Nat × Nat × List Byte)} {release : Option Scope} (hs : BlocksNamed s) :
    BlocksNamed (queueStore s w writes release) :=
  named_done (named_modMine (named_next hs rfl rfl))

theorem named_poisonEvent {s : State} {c slot : Nat} {cause : Cause} {bad : DWord} (hs : BlocksNamed s) :
    BlocksNamed (poisonEvent s c slot cause bad) := by
  unfold poisonEvent
  split
  · exact named_postEvent hs
  · exact hs

theorem named_takeDue {s : State} {w : Issuer} {d : DueTrap} (hs : BlocksNamed s) : BlocksNamed (takeDue s w d) :=
  named_trapHere (named_poisonEvent (named_modMine hs))

theorem named_storePoint {s : State} {w : Issuer} {go : State} (hs : BlocksNamed s) (hgo : BlocksNamed go) :
    BlocksNamed (storePoint s w go) := by
  unfold storePoint
  split
  · exact named_takeDue hs
  · split
    · exact hgo
    · split
      · exact named_holdIt hs
      · exact hgo

theorem named_withRoom {s : State} {w : Issuer} {go : State} (hs : BlocksNamed s) (hgo : BlocksNamed go) :
    BlocksNamed (withRoom s w go) := by
  unfold withRoom
  split
  · refine named_storePoint hs ?_
    split
    · exact hgo
    · exact named_holdIt hs
  · exact hgo

theorem named_refreshAttic {s : State} {line : Nat} (hs : BlocksNamed s) : BlocksNamed (refreshAttic s line) :=
  named_same hs rfl rfl

theorem named_atticFetch {s : State} {g : Group} {q : Page} {line : Nat} (hs : BlocksNamed s) : BlocksNamed (atticFetch s g q line).2 := by
  unfold atticFetch
  split
  · exact hs
  · extract_lets +onlyGivenNames must lost
    have hlost : BlocksNamed lost.2 := named_coin hs
    split
    · extract_lets +onlyGivenNames r
      have hr : BlocksNamed r.2 := by
        unfold r
        refine named_atticTrip ?_
        split
        · exact hs
        · exact hlost
      split
      · exact named_refreshAttic hr
      · exact hr
    · exact hlost

theorem named_copyLine {s : State} {c line : Nat} (hs : BlocksNamed s) : BlocksNamed (copyLine s c line) :=
  named_modCore hs fun _ h => coreNamed_upd h rfl

theorem named_dropLine {s : State} {c line : Nat} (hs : BlocksNamed s) : BlocksNamed (dropLine s c line) :=
  named_modCore hs fun _ h => coreNamed_upd h rfl

theorem named_translatePieces {c : Nat} {x : Ctx} {need : Need} {s : State} {l : List Piece} (hs : BlocksNamed s) :
    BlocksNamed (translatePieces c x need s l).2 := by
  fun_induction translatePieces c x need s l
  · exact hs
  · rename_i ih
    exact ih (named_translateR hs)

theorem named_modRead {s : State} {c slot : Nat} {f : REntry → REntry} (hs : BlocksNamed s) : BlocksNamed (modRead s c slot f) :=
  named_modGroup hs

theorem coreNamed_landRead {N : Nat} {x : Core} {g : Group} {e : REntry} (hx : CoreNamed N x) : CoreNamed N (landRead x g e) := by
  unfold landRead
  split
  · refine coreNamed_foldl (fun _ _ h => ?_) hx
    split
    · exact h
    · exact coreNamed_foldl (fun _ _ h1 => coreNamed_landV h1) h
  · split
    · exact hx
    · split
      · exact hx
      · exact coreNamed_landG hx

theorem named_finishRead {s : State} {c slot : Nat} (hs : BlocksNamed s) : BlocksNamed (finishRead s c slot) := by
  unfold finishRead
  split
  · exact hs
  · split
    · exact hs
    · extract_lets +onlyGivenNames s1
      have hs1 : BlocksNamed s1 := named_modCore hs fun _ h => coreNamed_modGroup (coreNamed_landRead h)
      extract_lets +onlyGivenNames s2
      have hs2 : BlocksNamed s2 := by
        unfold s2
        split
        · exact hs1
        · exact named_completeOp hs1
      split
      · exact hs2
      · exact named_acquireBy (named_observe (named_capScope hs2))

theorem named_finishIfDone {s : State} {c slot : Nat} (hs : BlocksNamed s) : BlocksNamed (finishIfDone s c slot) := by
  unfold finishIfDone
  split
  · exact hs
  · split
    · exact named_finishRead hs
    · exact hs

theorem named_screen {s : State} {c slot : Nat} {x : Ctx} {g : Group} {e : REntry} {kind : Nat} {need : Need} (hs : BlocksNamed s) :
    NamedScreen (screen s c slot x g e kind need) := by
  unfold screen
  extract_lets +onlyGivenNames r
  have hr : BlocksNamed r.2 := named_translatePieces hs
  extract_lets +onlyGivenNames r1
  have hr1 : BlocksNamed r1.2 := hr
  extract_lets +onlyGivenNames faults lost good
  clear_value good lost faults r1
  split
  · exact .used (named_finishIfDone (named_modGroup (named_modRead hr1)))
  · split
    · extract_lets +onlyGivenNames lanes
      split
      · exact .used hs
      · exact .used (named_modRead (named_of_snd (named_postFault hr1) ‹_›))
    · exact .good hr1
  · exact .good hr1

theorem named_oweReadPoison {s : State} {c slot : Nat} {p : Piece} (hs : BlocksNamed s) : BlocksNamed (oweReadPoison s c slot p) :=
  named_modGroup hs

theorem named_gotPiece {s : State} {c slot : Nat} {p : Piece} {bs : List Byte} {bad : Bool} (hs : BlocksNamed s) :
    BlocksNamed (gotPiece s c slot p bs bad) := by
  unfold gotPiece
  extract_lets +onlyGivenNames s1
  have hs1 : BlocksNamed s1 := named_modRead hs
  split
  · exact named_oweReadPoison hs1
  · exact hs1

theorem named_noteSights {s : State} {c slot lane pa : Nat} {rs : List ByteRead} (hs : BlocksNamed s) :
    BlocksNamed (noteSights s c slot lane pa rs) := by
  unfold noteSights
  split
  · exact hs
  · exact named_modGroup (named_modRead hs)

theorem named_takePiece {s : State} {c slot : Nat} {x : Ctx} {g : Group} {e : REntry} {p : Piece} {q : Page} (hs : BlocksNamed s) :
    BlocksNamed (takePiece s c slot x g e p q) := by
  unfold takePiece
  extract_lets +onlyGivenNames pa atHome fromHome f
  have hf : BlocksNamed f.2 := by
    unfold f
    split
    · exact named_atticFetch hs
    · exact hs
  extract_lets +onlyGivenNames s1
  have hs1 : BlocksNamed s1 := hf
  extract_lets +onlyGivenNames rs bs bad s2
  have hs2 : BlocksNamed s2 := by
    unfold s2
    split
    · exact named_copyLine hf
    · exact hf
  exact named_gotPiece (named_modRead (named_noteSights hs2))

theorem named_takePieces {c slot : Nat} {x : Ctx} {l : List (Piece × Page)} {s : State} (hs : BlocksNamed s) :
    BlocksNamed (takePieces c slot x l s) := by
  fun_induction takePieces c slot x l s
  · exact named_finishIfDone hs
  · exact hs
  · exact hs
  · rename_i ih
    exact ih (named_takePiece hs)

theorem named_takeValue {s : State} {c slot n : Nat} (hs : BlocksNamed s) : BlocksNamed (takeValue s c slot n) := by
  unfold takeValue
  split
  · exact hs
  · split
    · split
      · exact hs
      · split
        · exact (named_screen hs).of_used ‹_›
        · split
          · exact hs
          · exact named_takePieces ((named_screen hs).of_good ‹_›)
    · exact hs

theorem named_cleanPoison {s : State} {pa n : Nat} (hs : BlocksNamed s) : BlocksNamed (cleanPoison s pa n) :=
  named_same hs rfl rfl

theorem named_homeWrite {s : State} {pa : Nat} {bs : List Byte} (hs : BlocksNamed s) : BlocksNamed (homeWrite s pa bs) :=
  named_endSets (named_cleanPoison (named_homePoke hs))

theorem named_homeCells {s : State} {cs : List Host.Cell} (hs : BlocksNamed s) : BlocksNamed (homeCells s cs) := by
  unfold homeCells
  extract_lets +onlyGivenNames t
  have ht : BlocksNamed t := named_same hs rfl rfl
  split
  · exact ht
  · split
    · exact named_same ht rfl rfl
    · exact named_same ht rfl rfl

theorem named_writeAtHome {s : State} {q : Page} {cs : List Host.Cell} {c slot seq : Nat} {owed : Option (Nat × DueTrap)}
    (hs : BlocksNamed s) : BlocksNamed (writeAtHome s q cs c slot seq owed) := by
  unfold writeAtHome
  extract_lets +onlyGivenNames t
  have ht : BlocksNamed t := named_homeCells hs
  split
  · exact ht
  · exact named_same ht rfl rfl

theorem named_atomWrite {s : State} {c slot : Nat} {x : Ctx} {e : REntry} {p : Piece} {q : Page} {new : List Byte} (hs : BlocksNamed s) :
    BlocksNamed (atomWrite s c slot x e p q new) := by
  unfold atomWrite
  split
  · exact named_stampWrite hs
  · exact named_writeAtHome hs

theorem named_atomSeal {s : State} {x : Ctx} {q : Page} (hs : BlocksNamed s) : BlocksNamed (atomSeal s x q).2 := by
  unfold atomSeal
  split
  · exact named_atticTrip hs
  · exact hs

theorem named_atomFetch {s : State} {g : Group} {q : Page} (hs : BlocksNamed s) : BlocksNamed (atomFetch s g q).2 :=
  named_atticFetch hs

theorem named_atomSees {s : State} {c slot : Nat} {p : Piece} {q : Page} (hs : BlocksNamed s) : BlocksNamed (atomSees s c slot p q) :=
  named_noteSights hs

theorem named_atomAt {s : State} {c slot : Nat} {x : Ctx} {e : REntry} {op : AtomOp} {p : Piece} {q : Page} (hs : BlocksNamed s) :
    BlocksNamed (atomAt s c slot x e op p q) := by
  unfold atomAt
  extract_lets +onlyGivenNames old s1
  have hs1 : BlocksNamed s1 := named_atomSees hs
  split
  · exact named_gotPiece hs1
  · split
    · exact named_gotPiece (named_of_snd (named_atomSeal hs1) ‹_›)
    · exact named_gotPiece (named_dropLine (named_atomWrite (named_of_snd (named_atomSeal hs1) ‹_›)))

theorem named_readHalf {s : State} {c slot : Nat} {p : Piece} {q : Page} (hs : BlocksNamed s) : BlocksNamed (readHalf s c slot p q) := by
  unfold readHalf
  extract_lets +onlyGivenNames old s1
  have hs1 : BlocksNamed s1 := named_atomSees hs
  split
  · exact named_finishIfDone (named_gotPiece hs1)
  · exact named_modRead hs1

theorem named_writeHalf {s : State} {c slot : Nat} {x : Ctx} {e : REntry} {op : AtomOp} {p : Piece} {q : Page} (hs : BlocksNamed s) :
    BlocksNamed (writeHalf s c slot x e op p q) := by
  unfold writeHalf
  extract_lets +onlyGivenNames old v
  split
  · exact named_gotPiece (named_modRead (named_of_snd (named_atomSeal hs) ‹_›))
  · exact named_gotPiece (named_modRead (named_dropLine (named_atomWrite (named_of_snd (named_atomSeal hs) ‹_›))))

theorem named_atomicStep {s : State} {c slot : Nat} (hs : BlocksNamed s) : BlocksNamed (atomicStep s c slot) := by
  unfold atomicStep
  split
  · exact hs
  · split
    · split
      · exact hs
      · split
        · exact (named_screen hs).of_used ‹_›
        · exact hs
        · split
          · exact hs
          · split
            · exact named_finishIfDone (named_writeHalf ((named_screen hs).of_good ‹_›))
            · split
              · exact named_finishIfDone (named_gotPiece (named_of_snd (named_atomFetch ((named_screen hs).of_good ‹_›)) ‹_›))
              · split
                · exact named_readHalf (named_of_snd (named_atomFetch ((named_screen hs).of_good ‹_›)) ‹_›)
                · exact named_finishIfDone (named_atomAt (named_of_snd (named_atomFetch ((named_screen hs).of_good ‹_›)) ‹_›))
    · exact hs

theorem named_placeWrites {c : Nat} {x : Ctx} {s : State} {l : List (Nat × Nat × List Byte)} (hs : BlocksNamed s) :
    BlocksNamed (placeWrites c x s l).2 := by
  fun_induction placeWrites c x s l
  · exact hs
  · rename_i ih
    exact ih (named_placeSpans hs)

theorem named_sealPages {ctx : Nat} {s : State} {l : List (Page × Nat)} (hs : BlocksNamed s) : BlocksNamed (sealPages ctx s l).2 := by
  fun_induction sealPages ctx s l
  · exact hs
  · rename_i ih
    exact ih (named_of_snd (named_atticTrip hs) ‹_›)
  · exact named_of_snd (named_atticTrip hs) ‹_›
  · rename_i ih
    exact ih hs

theorem named_sealWrites {ctx : Nat} {s : State} {l : List ((Nat × Nat × List Byte) × Except (XErr × Nat) (List (Page × Nat)))}
    (hs : BlocksNamed s) : BlocksNamed (sealWrites ctx s l).2 := by
  fun_induction sealWrites ctx s l
  · exact hs
  · rename_i ih
    exact ih hs
  · rename_i ih
    exact ih (named_sealPages hs)

theorem named_propagate {s : State} {c slot ctx seq : Nat} {owed : Page × List Host.Cell → Option (Nat × DueTrap)}
    {ws : List (Page × List Host.Cell)} (hs : BlocksNamed s) : BlocksNamed (propagate s c slot ctx seq owed ws) :=
  named_same hs rfl rfl

theorem named_enterView {s : State} {c : Nat} {ws : List (Page × List Host.Cell)} (hs : BlocksNamed s) : BlocksNamed (enterView s c ws) :=
  named_modCore hs fun _ h => coreNamed_upd h rfl

theorem named_released {s : State} {c slot : Nat} {g : Group} {e : QEntry} {sc : Scope} {cells : List LaneCell} (hs : BlocksNamed s) :
    BlocksNamed (released s c slot g e sc cells) := by
  unfold released
  extract_lets +onlyGivenNames s1
  have hs1 : BlocksNamed s1 := by
    unfold s1
    split
    · exact named_capScope hs
    · exact hs
  extract_lets +onlyGivenNames at_
  split
  · exact hs1
  · extract_lets +onlyGivenNames ws s2
    have hs2 : BlocksNamed s2 := by
      unfold s2
      split
      · exact named_modGroup hs1
      · exact hs1
    refine named_foldl (fun _ _ h => ?_) hs2
    extract_lets +onlyGivenNames mine
    split
    · exact named_keepSet h
    · exact h

theorem named_leave {s : State} {c slot : Nat} (hs : BlocksNamed s) : BlocksNamed (leave s c slot) := by
  unfold leave
  split
  · exact hs
  · split
    · split
      · exact hs
      · extract_lets +onlyGivenNames r r1 r2 ok cells words wide scope lost faults posted
        have hr : BlocksNamed r.2 := named_placeWrites hs
        have hr2 : BlocksNamed r2.2 := named_sealWrites hr
        have hposted : ∀ p, posted = some p → BlocksNamed p.2 := by
          intro p hp
          unfold posted at hp
          clear_value faults
          split at hp
          · exact Option.some.inj hp ▸ hr2
          · extract_lets cause at hp
            split at hp
            · exact nomatch hp
            · exact Option.some.inj hp ▸ named_of_snd (named_postFault hr2) ‹_›
        clear_value posted
        split
        · exact hs
        · split
          · exact hs
          next => exact named_modGroup (named_enterView (named_propagate (named_released (hposted _ rfl))))
    · exact hs

theorem named_oweRefused {s : State} {p : Propagation} (hs : BlocksNamed s) : BlocksNamed (oweRefused s p) := by
  unfold oweRefused
  split
  · exact hs
  · exact named_modGroup hs

theorem named_arriveProp {s : State} {n : Nat} (hs : BlocksNamed s) : BlocksNamed (arriveProp s n) := by
  unfold arriveProp
  split
  · exact hs
  · split
    · exact hs
    · extract_lets +onlyGivenNames t
      have ht : BlocksNamed t := named_same hs rfl rfl
      split
      · split
        · exact ht
        · split
          · exact named_same ht rfl rfl
          · exact named_oweRefused ht
      · extract_lets +onlyGivenNames prev t1
        have ht1 : BlocksNamed t1 := named_arriveSets (named_homeCells ht)
        split
        · exact ht1
        · exact named_same ht1 rfl rfl

theorem named_retireRepl {s : State} {ctx core slot seq : Nat} (hs : BlocksNamed s) : BlocksNamed (retireRepl s ctx core slot seq) := by
  unfold retireRepl
  split
  · exact hs
  · extract_lets +onlyGivenNames flying waiting
    split
    · exact hs
    · exact named_modCore hs fun _ h => coreNamed_modGroup (coreNamed_upd h rfl)

theorem named_replicaStamp {s : State} {n : Nat} (hs : BlocksNamed s) : BlocksNamed (replicaStamp s n) := by
  unfold replicaStamp
  split
  · exact hs
  · split
    · exact hs
    · split
      · exact hs
      · split
        · exact hs
        · extract_lets +onlyGivenNames t
          have ht : BlocksNamed t := named_same hs rfl rfl
          refine named_retireRepl ?_
          split
          · exact named_stampWrite ht
          · exact named_postEvent (named_modReplica ht)

theorem named_passMember {s : State} {die : Nat} {cs : List Host.Cell} (hs : BlocksNamed s) : BlocksNamed (passMember s die cs) := by
  refine named_mapCores hs rfl (Nat.le_refl _) (fun x => ?_) fun x n h => ?_
  · split <;> rfl
  · split
    · exact coreNamed_upd h rfl
    · exact h

theorem named_replicaApply {s : State} {ctx rset die : Nat} (hs : BlocksNamed s) : BlocksNamed (replicaApply s ctx rset die) := by
  unfold replicaApply
  split
  · split
    · exact hs
    · extract_lets +onlyGivenNames s1
      have hs1 : BlocksNamed s1 := named_modReplica hs
      split
      · exact named_retireRepl (named_postEvent hs1)
      · extract_lets +onlyGivenNames cs s2
        have hs2 : BlocksNamed s2 := named_putCells hs1
        refine named_retireRepl ?_
        split
        · exact named_passMember hs2
        · exact hs2
  · exact hs

theorem named_snoopRaces {s : State} {pa n : Nat} (hs : BlocksNamed s) : BlocksNamed (snoopRaces s pa n) := by
  unfold snoopRaces
  refine named_foldl (fun _ _ h => ?_) hs
  refine named_foldl (fun _ _ h1 => ?_) h
  split
  · split
    · split
      · split
        · exact named_postEvent h1
        · exact h1
      · exact h1
    · exact h1
  · exact h1

theorem named_agentRaces {s : State} {pa n : Nat} (hs : BlocksNamed s) : BlocksNamed (agentRaces s pa n) := by
  unfold agentRaces
  refine named_foldl (fun _ _ h => ?_) hs
  split
  · split
    · exact named_postEvent h
    · exact h
  · exact h

theorem named_hostWrote {s : State} {pa n : Nat} (hs : BlocksNamed s) : BlocksNamed (hostWrote s pa n) :=
  named_same hs rfl rfl

theorem named_hostAccessAt {s : State} {a : HostAccess} (hs : BlocksNamed s) : BlocksNamed (hostAccessAt s a) := by
  unfold hostAccessAt
  split
  · exact named_modDev (named_agentRaces (named_snoopRaces hs))
  · exact named_hostWrote (named_homeWrite (named_agentRaces (named_snoopRaces hs)))

theorem named_fetch {s : State} {c : Nat} {x : Ctx} {pc : PC} (hs : BlocksNamed s) : NamedFetched (fetch s c x pc) := by
  unfold fetch
  split
  · exact .fault (named_of_snd (named_translateR hs) ‹_›)
  · exact .lost (named_of_snd (named_translateR hs) ‹_›)
  next p t ht =>
    replace ht : BlocksNamed t := named_of_snd (named_translateR hs) ht
    extract_lets +onlyGivenNames kept
    have hkept : BlocksNamed kept.2 := named_coin ht
    have hread : BlocksNamed (if !p.attic then (true, t) else if kept.1 then kept else sealPage kept.2 x.id p).2 := by
      split
      · exact ht
      · split
        · exact hkept
        · exact named_sealPage hkept
    split
    · exact .word (named_of_snd hread ‹_›)
    · exact .lost (named_of_snd hread ‹_›)

theorem named_noteUni {s : State} {w : Issuer} {pc : PC} {m : Mask} {k : TraceKind} (hs : BlocksNamed s) :
    BlocksNamed (noteUni s w pc m k) :=
  named_note hs

theorem named_toTarget {s : State} {w : Issuer} {t : Int} {go : PC → State} (hs : BlocksNamed s) (hgo : ∀ (a : PC), BlocksNamed (go a)) :
    BlocksNamed (toTarget s w t go) := by
  unfold toTarget
  split
  · exact hgo _
  · exact named_trapAll hs

theorem named_toRegister {s : State} {w : Issuer} {v : DWord} {go : PC → State} (hs : BlocksNamed s) (hgo : ∀ (a : PC), BlocksNamed (go a))
    : BlocksNamed (toRegister s w v go) := by
  unfold toRegister
  split
  · exact named_trapAll hs
  · split
    · exact named_trapAll hs
    · exact hgo _

theorem named_execBr {c : BCond} {a : GReg} {o : BitVec 16} {s : State} (hs : BlocksNamed s) : NamedOut (execBr c a o s) := by
  unfold execBr
  refine named_uniIssue hs fun _ => ?_
  refine named_toTarget hs fun _ => ?_
  extract_lets +onlyGivenNames taken next s1
  have hs1 : BlocksNamed s1 := by
    unfold s1
    split
    · exact hs
    · exact named_noteUni hs
  exact named_retire hs1

theorem named_moveWhole {s : State} {w : Issuer} {taken : Bool} {t : PC} (hs : BlocksNamed s) : BlocksNamed (moveWhole s w taken t) :=
  named_retire (named_noteUni hs)

theorem named_keepLanes {s : State} {w : Issuer} {kept : Mask} (hs : BlocksNamed s) : BlocksNamed (keepLanes s w kept) :=
  named_modSplit (named_retire hs)

theorem named_divide {s : State} {w : Issuer} {taken : Mask} {t : PC} (hs : BlocksNamed s) : BlocksNamed (divide s w taken t) := by
  unfold divide
  extract_lets +onlyGivenNames kept
  split
  · exact named_note (named_noteUni (named_modSplit (named_modMine (named_keepLanes hs))))
  · split
    · exact named_noteUni (named_keepLanes ((named_pushEntry hs).of_ok ‹_›))
    · exact named_trapAll hs
    · exact named_trapAll hs
    · exact named_holdIt ((named_pushEntry hs).of_faulted ‹_›)

theorem named_execBrd {k : KReg} {i : Fin 2} {o : BitVec 22} {s : State} (hs : BlocksNamed s) : NamedOut (execBrd k i o s) := by
  unfold execBrd
  refine named_uniIssue hs fun _ => ?_
  refine named_toTarget hs fun _ => ?_
  extract_lets +onlyGivenNames v taken
  split
  · exact named_moveWhole hs
  · split
    · exact named_moveWhole hs
    · exact named_divide hs

theorem named_link {s : State} {w : Issuer} (hs : BlocksNamed s) : BlocksNamed (link s w) :=
  named_putG hs

theorem named_jumpTo {s : State} {w : Issuer} {t : PC} (hs : BlocksNamed s) : BlocksNamed (jumpTo s w t) :=
  named_noteUni (named_retire hs)

theorem named_execCall {o : BitVec 26} {s : State} (hs : BlocksNamed s) : NamedOut (execCall o s) :=
  named_uniIssue hs fun _ => named_toTarget hs (fun _ => named_retire (named_link hs))

theorem named_execCalli {a : GReg} {s : State} (hs : BlocksNamed s) : NamedOut (execCalli a s) :=
  named_uniIssue hs fun _ => named_toRegister hs (fun _ => named_jumpTo (named_link hs))

theorem named_execPjoin {o : BitVec 26} {s : State} (hs : BlocksNamed s) : NamedOut (execPjoin o s) := by
  unfold execPjoin
  refine named_uniIssue hs fun _ => ?_
  split
  · exact named_done ((named_pushEntry hs).of_ok ‹_›)
  · exact named_trapAll hs
  · exact named_trapAll hs
  · exact named_holdIt ((named_pushEntry hs).of_faulted ‹_›)

theorem named_execSplitPark {core slot split : Nat} {s : State} (hs : BlocksNamed s) : NamedOut (execSplitPark core slot split s) := by
  unfold execSplitPark
  refine .next ?_
  split
  · exact hs
  · split
    · exact hs
    · split
      · exact hs
      · extract_lets +onlyGivenNames pipe arrived t
        have ht : BlocksNamed t := named_note hs
        extract_lets +onlyGivenNames t1
        have ht1 : BlocksNamed t1 := named_modGroup ht
        extract_lets +onlyGivenNames t2
        have ht2 : BlocksNamed t2 := named_modSplit ht1
        refine named_mirrorSpill ?_
        split
        · exact named_noteSync ht2
        · exact ht2

theorem named_execStackFill {core slot : Nat} {s : State} (hs : BlocksNamed s) : NamedOut (execStackFill core slot s) := by
  unfold execStackFill
  refine .next ?_
  split
  · exact hs
  · split
    · split
      · exact hs
      · exact named_mirrorSpill (named_noteSync (named_modGroup hs))
    · exact hs

theorem named_execNop {n : Fin 64} {s : State} (hs : BlocksNamed s) : NamedOut (execNop n s) :=
  named_uniIssue hs fun _ => named_retire hs

theorem named_execExit {s : State} (hs : BlocksNamed s) : NamedOut (execExit s) := by
  unfold execExit
  refine named_uniIssue hs fun _ => ?_
  refine named_storePoint hs ?_
  split
  · exact named_trapAll hs
  · exact named_mirrorSpill (named_noteUni (named_modMine hs))

theorem named_execTrap {c : Fin 64} {s : State} (hs : BlocksNamed s) : NamedOut (execTrap c s) :=
  named_uniIssue hs fun _ => named_takeTrap hs

theorem named_execRett {s : State} (hs : BlocksNamed s) : NamedOut (execRett s) := by
  unfold execRett
  refine named_uniIssue hs fun _ => ?_
  split
  · exact named_trapAll hs
  · exact named_mirrorSpill (named_foldl (fun _ _ h => named_noteSync h) (named_modMine hs))

theorem named_execBrk {s : State} (hs : BlocksNamed s) : NamedOut (execBrk s) := by
  unfold execBrk
  refine named_uniIssue hs fun _ => ?_
  split
  · exact named_modCtx (named_done hs)
  · exact named_takeTrap hs

theorem named_execYield {s : State} (hs : BlocksNamed s) : NamedOut (execYield s) :=
  named_uniIssue hs fun _ => named_blockIt (named_done hs)

theorem named_execYieldExpiry {core slot split : Nat} {s : State} (hs : BlocksNamed s) : NamedOut (execYieldExpiry core slot split s) :=
  .next (named_modSplit hs)

theorem named_execIllegalOp {w : BitVec 32} {s : State} (hs : BlocksNamed s) : NamedOut (execIllegalOp w s) :=
  named_onIssuer fun _ => named_trapAll hs

theorem named_execEvent {a b : GReg} {s : State} (hs : BlocksNamed s) : NamedOut (execEvent a b s) :=
  named_uniIssue hs fun _ => named_done (named_postEvent hs)

theorem named_execTmark {s : State} (hs : BlocksNamed s) : NamedOut (execTmark s) :=
  named_uniIssue hs fun _ => named_done (named_noteUni hs)

theorem named_writeFlags {s : State} {w : Issuer} {f : BitVec 4} (hs : BlocksNamed s) : BlocksNamed (writeFlags s w f) :=
  named_flagWrite hs

theorem named_execUmovt {a : GReg} {r : Fin 64} {s : State} (hs : BlocksNamed s) : NamedOut (execUmovt a r s) := by
  unfold execUmovt
  refine named_uniIssue hs fun _ => ?_
  extract_lets +onlyGivenNames v n group
  have hgroup : ∀ (f : Group → Group), BlocksNamed (group f) := fun _ => named_done (named_modMine hs)
  extract_lets +onlyGivenNames ctx
  have hctx : ∀ (f : Ctx → Ctx), BlocksNamed (ctx f) := fun _ => named_done (named_modCtx hs)
  split
  · exact hgroup _
  · exact hgroup _
  · exact hgroup _
  · exact hgroup _
  · exact hgroup _
  · exact hgroup _
  · split
    · exact hgroup _
    · exact named_trapAll hs
  · exact hctx _
  · exact named_done (named_writeFlags hs)
  · exact hgroup _
  · split
    · exact hctx _
    · exact named_trapAll hs
  · refine named_done ?_
    split
    · exact named_writeTrcctl hs
    · exact hs
  · exact named_trapAll hs

theorem named_queueEvent {s : State} {q code : Nat} (hs : BlocksNamed s) : BlocksNamed (queueEvent s q code) := by
  unfold queueEvent
  split
  · exact hs
  · exact named_postEvent hs

theorem named_refusedEvent {s : State} {x : Ctx} {q : Nat} (hs : BlocksNamed s) : BlocksNamed (refusedEvent s x q) := by
  unfold refusedEvent
  extract_lets +onlyGivenNames word
  split
  · exact named_postTo hs
  · split
    · exact hs
    · exact named_postTo hs

theorem named_refuseCtx {s : State} {x : Ctx} {before : Bool} (hs : BlocksNamed s) : BlocksNamed (refuseCtx s x before) :=
  named_foldl (fun _ _ h => named_refusedEvent (named_modQueue (named_haltQueue h))) hs

theorem named_readBoundary {s : State} {c : Nat} (hs : BlocksNamed s) : BlocksNamed (readBoundary s c).2 := by
  unfold readBoundary
  extract_lets +onlyGivenNames new
  clear_value new
  split
  · dsimp only
    exact named_refuseCtx (named_modCtx hs)
  · split
    · exact named_same hs rfl rfl
    · split
      · exact named_modCtx hs
      · exact named_modCtx hs

theorem named_ctxForWork {s : State} {c : Nat} (hs : BlocksNamed s) : BlocksNamed (ctxForWork s c).2 := by
  unfold ctxForWork
  split
  · exact named_readBoundary hs
  · split
    · exact named_readBoundary hs
    · exact hs

theorem named_setSignal {s : State} {h : Tlb} {x : Ctx} {va : Nat} {v : Int} (hs : BlocksNamed s) : BlocksNamed (setSignal s h x va v).2 :=
  named_writeVa hs

theorem named_addSignal {s : State} {h : Tlb} {x : Ctx} {va : Nat} {v : Int} {half : Option DWord} (hs : BlocksNamed s) :
    NamedAdded (addSignal s h x va v half) :=
  named_addVa hs

theorem named_minusSignal {s : State} {x : Ctx} {q : Nat} {sig : Option Nat} (hs : BlocksNamed s) :
    BlocksNamed (minusSignal s x q sig) := by
  unfold minusSignal
  split
  · exact hs
  · split
    · exact named_of_snd (named_setSignal hs) ‹_›
    · exact named_of_snd (named_setSignal hs) ‹_›
    · exact named_postOrWait (named_of_snd (named_setSignal hs) ‹_›)

theorem named_queueError {s : State} {x : Ctx} {q code : Nat} {sig : Option Nat} {index : Nat} (hs : BlocksNamed s) :
    BlocksNamed (queueError s x q code sig index) :=
  named_minusSignal (named_queueEvent (named_haltAt hs))

theorem named_queueFails {s : State} {x : Ctx} {q : Nat} {e : XErr} {va kind code : Nat} {sig : Option Nat} {path : List Nat}
    (hs : BlocksNamed s) : BlocksNamed (queueFails s x q e va kind code sig path) := by
  unfold queueFails
  split
  · exact named_queueError hs
  · exact named_postOrWait hs

theorem named_closeGate {s : State} {i : Instr} {x : Gate} {d : Nat} (hs : BlocksNamed s) : NamedOut (closeGate s i x d) :=
  named_uniIssue hs fun _ => named_done (named_putG (named_modMine hs))

theorem named_passRelease {s : State} {w : Issuer} {sc : Scope} (hs : BlocksNamed s) : BlocksNamed (passRelease s w sc) :=
  named_modMine hs

theorem named_markRelease {s : State} {w : Issuer} {sc : Scope} (hs : BlocksNamed s) : BlocksNamed (markRelease s w sc) :=
  named_modMine hs

theorem named_fenceAt {s : State} {i : Instr} {sc : Scope} {acq rel : Bool} (hs : BlocksNamed s) : NamedOut (fenceAt s i sc acq rel) := by
  unfold fenceAt
  refine named_uniIssue hs fun _ => ?_
  extract_lets +onlyGivenNames n p marked
  have hmarked : BlocksNamed marked := by
    unfold marked
    split
    · exact named_markRelease hs
    · exact hs
  refine named_storePoint hs ?_
  split
  · extract_lets +onlyGivenNames t
    have ht : BlocksNamed t := named_capScope hmarked
    extract_lets +onlyGivenNames t1
    have ht1 : BlocksNamed t1 := by
      unfold t1
      split
      · exact named_passRelease ht
      · exact ht
    refine named_done ?_
    split
    · exact named_acquireReads ht1
    · exact ht1
  · exact named_holdIt hmarked

theorem named_poisonTrap {s : State} {w : Issuer} {a : LaResult} (hs : BlocksNamed s) : BlocksNamed (poisonTrap s w a) :=
  named_trapHere (named_poisonEvent (named_modMine hs))

theorem named_drain15 {s : State} {w : Issuer} {go : State} (hs : BlocksNamed s) (hgo : BlocksNamed go) : BlocksNamed (drain15 s w go) := by
  unfold drain15
  split
  · exact named_poisonTrap hs
  · split
    · exact hgo
    · exact named_holdIt hs

theorem named_joinedBy {s : State} {c : Nat} {g : Gate} (hs : BlocksNamed s) : BlocksNamed (joinedBy s c g) := by
  unfold joinedBy
  split
  · exact named_acquireAt hs
  · exact named_dropBehind hs

theorem named_execWaitGate {a : GReg} {g : Gate} {s : State} (hs : BlocksNamed s) : NamedOut (execWaitGate a g s) := by
  unfold execWaitGate
  refine named_uniIssue hs fun _ => ?_
  extract_lets +onlyGivenNames n
  split
  · exact named_trapAll hs
  · split
    · exact named_trapAll hs
    · split
      · exact named_holdIt hs
      · split
        · exact named_takeDue hs
        · exact named_drain15 hs (named_done (named_modMine (named_joinedBy hs)))

theorem named_holdOnObject {s : State} {w : Issuer} {p : Place} {phase : Word} (hs : BlocksNamed s) :
    BlocksNamed (holdOnObject s w p phase) :=
  named_holdIt (named_same hs rfl rfl)

theorem named_joinObject {s : State} {w : Issuer} {p : Place} (hs : BlocksNamed s) : BlocksNamed (joinObject s w p) :=
  named_dropBehind (named_acquireBy (named_observe hs))

theorem named_afterParts {s : State} {w : Issuer} {p : Place} {n : Nat} {go : State} (hs : BlocksNamed s) (hgo : BlocksNamed go) :
    BlocksNamed (afterParts s w p n go) := by
  unfold afterParts
  split
  · exact named_holdIt hs
  · exact hgo

theorem named_execWaitObject {a b : GReg} {s : State} (hs : BlocksNamed s) : NamedOut (execWaitObject a b s) := by
  unfold execWaitObject
  refine named_uniIssue hs fun _ => ?_
  extract_lets +onlyGivenNames at_ phase
  split
  · exact named_trapAll hs
  · refine named_checkedU hs ?_
    extract_lets +onlyGivenNames p
    split
    · exact named_takeDue hs
    · refine named_afterParts hs ?_
      split
      · exact named_trapAll hs
      · exact named_holdOnObject hs
      · exact named_drain15 hs (named_done (named_joinObject hs))

theorem named_carrySet {s : State} {w : Issuer} {p : Place} (hs : BlocksNamed s) : BlocksNamed (carrySet s w p) := by
  unfold carrySet
  split
  · exact named_keepSet hs
  · exact hs

theorem named_arriveAt {s : State} {i : Instr} {a : Nat} {gs : List Nat} {drop : Bool} {expect : Issuer → Nat} (hs : BlocksNamed s) :
    NamedOut (arriveAt s i a gs drop expect) :=
  named_uniIssue hs fun _ => named_checkedU hs (named_afterFences hs (named_afterParts hs (named_blockIt (named_queueUpdate (named_done
    (named_carrySet hs))))))

theorem named_storeNear {s : State} {w : Issuer} {n a v : Nat} (hs : BlocksNamed s) : BlocksNamed (storeNear s w n a v) := by
  unfold storeNear
  refine named_afterFences hs ?_
  split
  · exact named_done (named_storePlace hs)
  · exact named_done (named_pushFar hs)

theorem named_execBinit {a b : GReg} {s : State} (hs : BlocksNamed s) : NamedOut (execBinit a b s) := by
  unfold execBinit
  refine named_uniIssue hs fun _ => ?_
  extract_lets +onlyGivenNames at_ v
  refine named_checkedU hs ?_
  split
  · exact named_trapAll hs
  · exact named_storeNear hs

theorem named_heldFor {s : State} {w : Issuer} {d : Nat} {v : DWord} {poisoned : Option DWord} {part : Option RemoteAccess}
    (hs : BlocksNamed s) : BlocksNamed (heldFor s w d v poisoned part) :=
  named_blockIt (named_modMine (named_next (named_done hs) rfl rfl))

theorem named_heldDone {s : State} {w : Issuer} {d : Nat} {v : DWord} {poisoned : Option DWord} (hs : BlocksNamed s) :
    BlocksNamed (heldDone s w d v poisoned) :=
  named_heldFor hs

theorem named_execHeldUniformResult {core slot split : Nat} {s : State} (hs : BlocksNamed s) :
    NamedOut (execHeldUniformResult core slot split s) := by
  unfold execHeldUniformResult
  refine .next ?_
  split
  · exact hs
  · split
    · split
      · exact named_modGroup hs
      · extract_lets +onlyGivenNames s1
        have hs1 : BlocksNamed s1 := by
          unfold s1
          refine named_modCore hs fun _ h => ?_
          extract_lets +onlyGivenNames x1
          have hx1 : CoreNamed s.nextId x1 := by
            unfold x1
            split
            · exact h
            · exact coreNamed_landG h
          exact coreNamed_modGroup hx1
        split
        · exact hs1
        · exact named_takeTrap (named_poisonEvent hs1)
    · exact hs

theorem named_uldS {s : State} {i : Instr} {d a n : Nat} (hs : BlocksNamed s) : NamedOut (uldS s i d a n) := by
  unfold uldS
  refine named_uniIssue hs fun _ => ?_
  extract_lets +onlyGivenNames at_
  refine named_checkedU hs ?_
  split
  · exact named_heldDone hs
  · exact named_heldFor hs

theorem named_ustS {s : State} {i : Instr} {a b n : Nat} (hs : BlocksNamed s) : NamedOut (ustS s i a b n) :=
  named_uniIssue hs fun _ => named_checkedU hs (named_storeNear hs)

theorem named_execScratchResult {core slot n : Nat} {s : State} (hs : BlocksNamed s) : NamedOut (execScratchResult core slot n s) := by
  unfold execScratchResult
  refine .next ?_
  split
  · exact hs
  · split
    · exact hs
    · split
      · exact named_modGroup hs
      · exact named_modCore hs fun _ h => coreNamed_modGroup (coreNamed_landResults h)

theorem coreNamed_setLease {N : Nat} {x : Core} {r : Nat} {l : Lease} (hx : CoreNamed N x) : CoreNamed N (x.setLease r l) := by
  unfold Core.setLease
  split
  · exact hx
  · exact coreNamed_upd hx rfl

theorem coreNamed_setLeases {N : Nat} {x : Core} {rs : List Nat} {l : Lease} (hx : CoreNamed N x) : CoreNamed N (x.setLeases rs l) :=
  coreNamed_foldl (fun _ _ h => coreNamed_setLease h) hx

theorem coreNamed_release {N : Nat} {x : Core} {r : Nat} (hx : CoreNamed N x) : CoreNamed N (x.release r) :=
  coreNamed_setLease (coreNamed_upd hx rfl)

theorem coreNamed_freshRow {N : Nat} {x : Core} {ctx seed r : Nat} (hx : CoreNamed N x) : CoreNamed N (x.freshRow ctx seed r) :=
  coreNamed_upd hx rfl

theorem coreNamed_freshScratch {N : Nat} {x : Core} {ctx seed base n : Nat} (hx : CoreNamed N x) :
    CoreNamed N (x.freshScratch ctx seed base n) :=
  coreNamed_upd hx rfl

theorem coreNamed_giveG {N : Nat} {x : Core} {slot i v : Nat} (hx : CoreNamed N x) : CoreNamed N (x.giveG slot i v) := by
  unfold Core.giveG
  split
  · exact hx
  · exact coreNamed_landG hx

/-- The block takes the next name, and the one after it is the next from there. -/
theorem named_reserveBlock {s : State} {c : Nat} {x : Ctx} {r : Launch} {b incarn spbase : Nat} {table : List (Nat × Nat × Nat)}
    {routine : Option (Nat × Nat)} {launchId unit inst : Option Nat} {saveVa : Nat} (hs : BlocksNamed s) :
    BlocksNamed (reserveBlock s c x r b incarn spbase table routine launchId unit inst saveVa).2 := by
  unfold reserveBlock
  extract_lets +onlyGivenNames n count k extra keep
  refine named_modCore (named_next hs rfl rfl) fun y hy => coreNamed_setLeases fun a ha => ?_
  rcases List.mem_append.1 ha with ha | ha
  · exact hy a ha
  · rw [List.mem_singleton.1 ha]
    exact Nat.lt_succ_self _

theorem named_startFresh {s : State} {c id : Nat} {together : List Nat} (hs : BlocksNamed s) :
    BlocksNamed (startFresh s c id together) := by
  unfold startFresh
  split
  · exact hs
  · extract_lets +onlyGivenNames sc s1
    have hs1 : BlocksNamed s1 := named_acquireAt hs
    extract_lets +onlyGivenNames y
    have hy : CoreNamed s1.nextId y := named_core hs1 _
    extract_lets +onlyGivenNames table seed gs rows gs1 y1
    have hy1 : CoreNamed s1.nextId y1 := coreNamed_foldl (fun _ _ h => coreNamed_freshRow h) hy
    extract_lets +onlyGivenNames y2
    have hy2 : CoreNamed s1.nextId y2 := coreNamed_freshScratch hy1
    extract_lets +onlyGivenNames y3
    have hy3 : CoreNamed s1.nextId y3 := by
      unfold y3
      split
      · exact coreNamed_upd hy2 rfl
      · exact hy2
    extract_lets +onlyGivenNames y4
    have hy4 : CoreNamed s1.nextId y4 := coreNamed_setLeases (coreNamed_upd hy3 rfl)
    extract_lets +onlyGivenNames y5
    have hy5 : CoreNamed s1.nextId y5 := by
      unfold y5
      refine coreNamed_modBlock (fun _ => ?_) hy4
      exact rfl
    extract_lets +onlyGivenNames g2 y6
    have hy6 : CoreNamed s1.nextId y6 := by
      unfold y6
      refine coreNamed_foldl (fun _ _ h => ?_) hy5
      extract_lets +onlyGivenNames y7
      have hy7 : CoreNamed s1.nextId y7 := coreNamed_giveG h
      clear_value g2
      split
      · exact hy7
      · exact coreNamed_giveG hy7
    exact named_foldl (fun _ _ h => named_noteSync h) (named_modCtx (named_setCore hs1 hy6))

theorem named_setExitBarrier {s : State} {u : Nat} (hs : BlocksNamed s) : BlocksNamed (setExitBarrier s u) := by
  unfold setExitBarrier
  extract_lets +onlyGivenNames members groups
  split
  · exact hs
  · exact named_writePlace hs

theorem coreNamed_drainRows {N : Nat} {y : Core} (hy : CoreNamed N y) : CoreNamed N (drainRows y) := by
  unfold drainRows
  refine coreNamed_foldl (fun _ _ h => ?_) hy
  split
  · refine coreNamed_foldl (fun _ _ h1 => ?_) h
    split
    · exact coreNamed_setLease h1
    · exact h1
  · exact h

theorem named_detachWrites {s : State} {c slot : Nat} (hs : BlocksNamed s) : BlocksNamed (detachWrites s c slot) := by
  unfold detachWrites
  extract_lets +onlyGivenNames n f fs
  exact named_mapCores hs rfl (Nat.le_succ _) (fun _ => rfl) fun x n h =>
    coreNamed_mapBlocks (f := fun k => { k with before := fs k.before }) h (fun _ => rfl) rfl

theorem named_groupLeaves {s : State} {c : Nat} {g : Group} (hs : BlocksNamed s) : BlocksNamed (groupLeaves s c g) := by
  unfold groupLeaves
  extract_lets +onlyGivenNames s1
  have hs1 : BlocksNamed s1 := by
    unfold s1
    refine named_modBlock (fun _ => ?_) hs
    exact rfl
  exact named_modCore (named_same (named_detachWrites hs1) rfl rfl) fun _ h => coreNamed_upd h rfl

theorem named_freeRow {s : State} {c r : Nat} (hs : BlocksNamed s) : BlocksNamed (freeRow s c r) := by
  unfold freeRow
  extract_lets +onlyGivenNames y
  have hy : CoreNamed s.nextId y := named_core hs _
  split
  · exact named_foldl (fun _ _ h => named_groupLeaves h) (named_setCore hs (coreNamed_setLease hy))
  · exact hs

theorem named_completeBlock {s : State} {c : Nat} {k : Block} (hs : BlocksNamed s) : BlocksNamed (completeBlock s c k) := by
  unfold completeBlock
  refine named_modCore hs fun _ h => ?_
  refine coreNamed_modBlock (fun _ => ?_) (coreNamed_setLeases (coreNamed_upd h rfl))
  exact rfl

theorem named_dropBlock {s : State} {c id : Nat} (hs : BlocksNamed s) : BlocksNamed (dropBlock s c id) := by
  unfold dropBlock
  extract_lets +onlyGivenNames s1 t
  have hs1 : BlocksNamed s1 := named_foldl (fun _ _ h => named_detachWrites h) hs
  have ht : BlocksNamed t := named_same hs1 rfl rfl
  refine named_modCore ht fun x hx => ?_
  split
  · exact hx
  · exact coreNamed_setLeases (coreNamed_setLeases (coreNamed_filterBlocks hx rfl))

theorem named_partSpans {s : State} {o : Op} {x : Ctx} {part : Nat} {lanes : Mask} {kind : Nat} {need : Need} {va n : Nat}
    (hs : BlocksNamed s) : NamedEngineGot (partSpans s o x part lanes kind need va n) := by
  unfold partSpans
  split
  · exact .lost hs
  · split
    · split
      · exact .lost (named_of_snd (named_placeSpans hs) ‹_›)
      · exact .ok (named_of_snd (named_placeSpans hs) ‹_›)
    · exact .lost (named_of_snd (named_placeSpans hs) ‹_›)
    · split
      · exact .held hs
      · exact .held (named_of_snd (named_postFault (named_of_snd (named_placeSpans hs) ‹_›)) ‹_›)

theorem named_sealSpans {ctx : Nat} {s : State} {l : List (Page × Nat)} (hs : BlocksNamed s) : BlocksNamed (sealSpans ctx s l).2 := by
  fun_induction sealSpans ctx s l
  · exact hs
  · rename_i ih
    exact ih (named_atticTrip hs)
  · rename_i ih
    exact ih hs

theorem named_sealGot {x : Ctx} {need : Need} {va : Nat} {a : EngineGot} (ha : NamedEngineGot a) :
    NamedEngineGot (sealGot x need va a) := by
  unfold sealGot
  split
  · extract_lets +onlyGivenNames u
    have hu : BlocksNamed u.2 := named_sealSpans (ha.of_ok rfl)
    split
    · exact .lost hu
    · exact .ok hu
  · exact ha

theorem named_engineSpans {s : State} {o : Op} {x : Ctx} {lane kind : Nat} {need : Need} {va n : Nat} (hs : BlocksNamed s) :
    NamedEngineGot (engineSpans s o x lane kind need va n) :=
  named_sealGot (named_partSpans hs)

theorem named_engineWrite {wr : Writer} {x : Ctx} {s : State} {l : List (Page × Nat)} {l1 : List (Byte × Bool)} (hs : BlocksNamed s) :
    BlocksNamed (engineWrite wr x s l l1) := by
  fun_induction engineWrite wr x s l l1
  · exact hs
  · rename_i ih
    refine ih ?_
    rename_i t
    unfold t
    split
    · exact named_stampWrite hs
    · exact named_same (named_homeWrite hs) rfl rfl

theorem named_passViews {s : State} {ps : List (Page × Nat)} (hs : BlocksNamed s) : BlocksNamed (passViews s ps) :=
  named_mapCores hs rfl (Nat.le_refl _) (fun _ => rfl) (fun _ _ h => coreNamed_upd h rfl)

theorem coreNamed_landBytes {n : Nat} {x : Core} {off : Nat} {bs : List (Byte × Bool)} (hx : CoreNamed n x) :
    CoreNamed n (x.landBytes off bs) := by
  unfold Core.landBytes
  extract_lets +onlyGivenNames y
  have hy : CoreNamed n y := coreNamed_putScratch hx
  exact coreNamed_upd hy rfl

theorem named_landAt {s : State} {p : Place} {bs : List (Byte × Bool)} (hs : BlocksNamed s) : BlocksNamed (landAt s p bs) :=
  named_testWaits (named_modCore hs (fun _ h => coreNamed_landBytes h))

theorem named_creditBytes {s : State} {core off n : Nat} {o : Op} {part addr : Nat} (hs : BlocksNamed s) :
    BlocksNamed (creditBytes s core off n o part addr) :=
  named_queueUpdate hs

theorem named_oweTrap {s : State} {o : Op} {object : Option Nat} {cause : Cause} {bad : DWord} {lanes : Mask} (hs : BlocksNamed s) :
    BlocksNamed (oweTrap s o object cause bad lanes) :=
  named_modGroup hs

theorem named_checkedRecord {s : State} {w : Issuer} {size align a : Nat} {ok : State} (hs : BlocksNamed s) (hok : BlocksNamed ok) :
    BlocksNamed (checkedRecord s w size align a ok) := by
  unfold checkedRecord
  split
  · exact named_trapAll hs
  · exact hok

theorem named_execLease {d a : GReg} {s : State} (hs : BlocksNamed s) : NamedOut (execLease d a s) := by
  unfold execLease
  refine named_uniIssue hs fun _ => ?_
  extract_lets +onlyGivenNames v r old t
  have ht : BlocksNamed t := by
    unfold t
    split
    · exact named_modCore hs fun _ h => coreNamed_setLease h
    · exact named_modCore hs fun _ h => coreNamed_release h
    · exact hs
  exact named_heldDone ht

theorem named_execCarve {d a b : GReg} {s : State} (hs : BlocksNamed s) : NamedOut (execCarve d a b s) := by
  unfold execCarve
  refine named_uniIssue hs fun _ => ?_
  extract_lets +onlyGivenNames at_
  refine named_checkedRecord hs ?_
  extract_lets +onlyGivenNames p
  split
  · exact named_heldDone hs
  · exact named_heldDone (named_modCore (named_writePlace (named_writePlace hs)) (fun _ h => coreNamed_upd h rfl))

theorem named_joinInstance {s : State} {ctx : Nat} {r : Launch} {launchId : Option Nat} {b : Nat} {level : Option Nat}
    {num : Block → Option Nat} (hs : BlocksNamed s) : BlocksNamed (joinInstance s ctx r launchId b level num).2 := by
  unfold joinInstance
  split
  · exact hs
  · split
    · exact hs
    · exact named_fresh hs

theorem named_keepHome {s : State} {r : Launch} {launchId : Option Nat} {b c : Nat} (hs : BlocksNamed s) :
    BlocksNamed (keepHome s r launchId b c) := by
  unfold keepHome
  split
  · split
    · exact hs
    · exact named_modLaunch hs
  · exact hs

theorem named_moveHome {s : State} {r : Launch} {launchId : Option Nat} {b c : Nat} (hs : BlocksNamed s) :
    BlocksNamed (moveHome s r launchId b c) := by
  unfold moveHome
  split
  · split
    · exact hs
    · exact named_modLaunch hs
  · exact hs

theorem named_startInstance {s : State} {x : Ctx} {members : List (Nat × Block)} (hs : BlocksNamed s) :
    NamedOpt (startInstance s x members) := by
  unfold startInstance
  extract_lets +onlyGivenNames cost
  split
  · exact .none
  · extract_lets +onlyGivenNames units together
    exact .some (named_foldl (fun _ _ h => named_setExitBarrier h) (named_foldl (fun _ _ h1 => named_startFresh h1) hs))

theorem named_placeBlock {s : State} {c : Nat} {x : Ctx} {r : Launch} {b incarn spbase : Nat} {table : List (Nat × Nat × Nat)}
    {routine : Option (Nat × Nat)} {launchId : Option Nat} (hs : BlocksNamed s) :
    BlocksNamed (placeBlock s c x r b incarn spbase table routine launchId).2 :=
  named_reserveBlock (named_keepHome (named_joinInstance (named_joinInstance hs)))

theorem named_dispatchRecord {s : State} {c : Nat} {d : DRecord} {o : FaultOwner} (hs : BlocksNamed s) :
    BlocksNamed (dispatchRecord s c d o).2 := by
  unfold dispatchRecord
  split
  next x t ht => exact named_of_snd (named_ctxForWork hs) ht
  next x t ht =>
    replace ht : BlocksNamed t := named_of_snd (named_ctxForWork hs) ht
    split
    next r u hu =>
      replace hu : BlocksNamed u := named_of_snd (named_readLaunch ht) hu
      extract_lets +onlyGivenNames die y
      split
      · exact hu
      · split
        · exact hu
        · split
          · exact hu
          · split
            · exact hu
            · extract_lets +onlyGivenNames n
              split
              · exact hu
              · split
                · exact hu
                · extract_lets +onlyGivenNames v members
                  have hv : BlocksNamed v := named_placeBlock hu
                  split
                  · split
                    · exact (named_startInstance hv).of_some ‹_›
                    · exact hu
                  · exact hv
    · exact named_postOrWait (named_of_snd (named_readLaunch ht) ‹_›)
    · exact named_of_snd (named_readLaunch ht) ‹_›

theorem named_execDispatch {d a : GReg} {s : State} (hs : BlocksNamed s) : NamedOut (execDispatch d a s) := by
  unfold execDispatch
  refine named_uniIssue hs fun _ => ?_
  extract_lets +onlyGivenNames at_
  refine named_checkedRecord hs ?_
  extract_lets +onlyGivenNames owner
  split
  · exact named_heldDone hs
  · split
    · exact named_holdIt hs
    · split
      · exact named_heldDone (named_of_snd (named_dispatchRecord hs) ‹_›)
      · exact named_holdIt (named_of_snd (named_dispatchRecord hs) ‹_›)

theorem named_agentOp {s : State} {w : Issuer} {gate : Gate} {k : OpKind} (hs : BlocksNamed s) : BlocksNamed (agentOp s w gate k) :=
  named_forkOp hs

theorem named_execTlbinv {a b : GReg} {s : State} (hs : BlocksNamed s) : NamedOut (execTlbinv a b s) :=
  named_uniIssue hs fun _ => named_done (named_agentOp hs)

theorem named_invalidate {s : State} {ctx kind size va : Nat} (hs : BlocksNamed s) : BlocksNamed (invalidate s ctx kind size va) :=
  named_same hs rfl rfl

theorem named_execTlbinvComplete {op : Nat} {s : State} (hs : BlocksNamed s) : NamedOut (execTlbinvComplete op s) := by
  unfold execTlbinvComplete
  refine .next ?_
  split
  · exact hs
  · split
    · exact named_completeOp (named_invalidate hs)
    · exact hs

theorem named_setKey {s : State} {k : Nat} {v : Option KeySlot} (hs : BlocksNamed s) : BlocksNamed (setKey s k v) :=
  named_modDev hs

theorem named_execKeyset {d a b : GReg} {s : State} (hs : BlocksNamed s) : NamedOut (execKeyset d a b s) := by
  unfold execKeyset
  refine named_uniIssue hs fun _ => ?_
  extract_lets +onlyGivenNames at_ k
  refine named_checkedRecord hs ?_
  extract_lets +onlyGivenNames p bs
  split
  · exact named_heldDone hs
  · exact named_heldDone (named_writePlace (named_setKey hs))

theorem named_fetchPacket {s : State} {q : Nat} (hs : BlocksNamed s) : NamedPacketFetch (fetchPacket s q) := by
  unfold fetchPacket
  extract_lets +onlyGivenNames s1
  have hs1 : BlocksNamed s1 := named_modQueue hs
  split
  · exact .idle
  · split
    · exact .idle
    · split
      · exact .idle
      · split
        · exact .idle
        · split
          · exact .stopped (named_of_snd (named_ctxForWork hs1) ‹_›)
          · split
            · exact .idle
            · split
              · exact .stopped (named_queueFails (named_of_snd (named_readVa (named_of_snd (named_ctxForWork hs1) ‹_›)) ‹_›))
              · extract_lets +onlyGivenNames p
                split
                · exact .stopped (named_queueError (named_of_snd (named_readVa (named_of_snd (named_ctxForWork hs1) ‹_›)) ‹_›))
                · exact .ok (named_of_snd (named_readVa (named_of_snd (named_ctxForWork hs1) ‹_›)) ‹_›)

theorem named_startPacket {s : State} {q : Nat} {path : List Nat} {ch : List (Nat × Nat × Nat)} {p : Packet} {done : Bool}
    {f : Started → Started} (hs : BlocksNamed s) : BlocksNamed (startPacket s q path ch p done f) :=
  named_modQueue hs

theorem named_packetAcquire {s : State} {q : Nat} {scope : Option Nat} (hs : BlocksNamed s) : BlocksNamed (packetAcquire s q scope) := by
  unfold packetAcquire
  split
  · exact hs
  · extract_lets +onlyGivenNames t
    have ht : BlocksNamed t := by
      refine named_mapCores hs rfl (Nat.le_refl _) (fun x => ?_) fun x n h => ?_
      · split <;> rfl
      · split
        · exact coreNamed_upd h rfl
        · exact h
    split
    · exact named_foldl (fun _ _ h => named_refreshAttic h) ht
    · exact ht

theorem named_startNext {s : State} {q : Nat} {fits : Packet → Bool}
    {go : State → Ctx → Queue → List Nat → List (Nat × Nat × Nat) → Packet → State} (hs : BlocksNamed s)
    (hgo : ∀ t x q path ch p, BlocksNamed t → BlocksNamed (go t x q path ch p))
    : NamedOut (startNext s q fits go) := by
  unfold startNext
  refine .next ?_
  split
  · exact hs
  · exact (named_fetchPacket hs).of_stopped ‹_›
  · split
    · exact hgo _ _ _ _ _ _ (named_packetAcquire ((named_fetchPacket hs).of_ok ‹_›))
    · exact hs

theorem named_execPacketNop {queue : Nat} {s : State} (hs : BlocksNamed s) : NamedOut (execPacketNop queue s) :=
  named_startNext hs fun _ _ _ _ _ _ h => named_startPacket h

theorem named_execPacketEvent {queue : Nat} {s : State} (hs : BlocksNamed s) : NamedOut (execPacketEvent queue s) :=
  named_startNext hs fun _ _ _ _ _ _ h => named_startPacket (named_postEvent h)

theorem named_execPacketSignalSet {queue : Nat} {s : State} (hs : BlocksNamed s) : NamedOut (execPacketSignalSet queue s) :=
  named_startNext hs fun _ _ _ _ _ _ h => named_startPacket h

theorem named_execPacketSignalAdd {queue : Nat} {s : State} (hs : BlocksNamed s) : NamedOut (execPacketSignalAdd queue s) :=
  named_startNext hs fun _ _ _ _ _ _ h => named_startPacket h

theorem named_execPacketChain {queue : Nat} {s : State} (hs : BlocksNamed s) : NamedOut (execPacketChain queue s) := by
  unfold execPacketChain
  refine named_startNext hs fun _ _ _ _ _ _ h => ?_
  split
  · exact named_queueError h
  · exact named_modQueue (named_startPacket h)

theorem named_execPacketCopy {queue : Nat} {s : State} (hs : BlocksNamed s) : NamedOut (execPacketCopy queue s) := by
  unfold execPacketCopy
  refine named_startNext hs fun _ _ _ _ _ _ h => ?_
  split
  · exact named_queueFails (named_of_snd (named_readVa h) ‹_›)
  · extract_lets +onlyGivenNames n
    split
    · exact named_queueError (named_of_snd (named_readVa h) ‹_›)
    · exact named_startPacket (named_of_snd (named_readVa h) ‹_›)

theorem named_execPacketLaunch {queue : Nat} {s : State} (hs : BlocksNamed s) : NamedOut (execPacketLaunch queue s) := by
  unfold execPacketLaunch
  refine named_startNext hs fun _ _ _ _ _ _ h => ?_
  extract_lets +onlyGivenNames index
  split
  · exact named_queueError h
  · split
    · exact named_queueFails (named_of_snd (named_readLaunch h) ‹_›)
    · exact named_queueError (named_of_snd (named_readLaunch h) ‹_›)
    next u hu =>
      replace hu : BlocksNamed u := named_of_snd (named_readLaunch h) hu
      exact named_startPacket (named_next hu rfl rfl)

theorem named_testList {h : Tlb} {x : Ctx} {va n n1 : Nat} {a : Bool} {s : State} (hs : BlocksNamed s) :
    NamedWaitTest (testList h x va n n1 a s) := by
  fun_induction testList h x va n n1 a s
  · exact .satisfied hs
  · exact .waiting hs
  · exact .listFails (named_of_snd (named_readVa hs) ‹_›)
  · exact .badList (named_of_snd (named_readVa hs) ‹_›)
  · exact .signalFails (named_of_snd (named_readVa (named_of_snd (named_readVa hs) ‹_›)) ‹_›)
  · exact .negative (named_of_snd (named_readVa (named_of_snd (named_readVa hs) ‹_›)) ‹_›)
  · rename_i ih
    exact ih (named_of_snd (named_readVa (named_of_snd (named_readVa hs) ‹_›)) ‹_›)

theorem named_modStarted {s : State} {q : Nat} {path : List Nat} {f : Started → Started} (hs : BlocksNamed s) :
    BlocksNamed (modStarted s q path f) :=
  named_modQueue hs

theorem named_startedError {s : State} {x : Ctx} {q code : Nat} {k : Started} (hs : BlocksNamed s) :
    BlocksNamed (startedError s x q code k) :=
  named_queueError (named_modStarted hs)

theorem named_startedFails {s : State} {x : Ctx} {q : Nat} {e : XErr} {va kind code : Nat} {sig : Option Nat} {k : Started}
    (hs : BlocksNamed s) : BlocksNamed (startedFails s x q e va kind code sig k) := by
  unfold startedFails
  extract_lets +onlyGivenNames t
  have ht : BlocksNamed t := by
    unfold t
    split
    · exact named_modStarted hs
    · exact hs
  exact named_queueFails ht

theorem named_barrierTest {s : State} {x : Ctx} {q : Nat} {k : Started} (hs : BlocksNamed s) : BlocksNamed (barrierTest s x q k) := by
  unfold barrierTest
  split
  · exact named_modStarted ((named_testList (named_packetAcquire hs)).of_satisfied ‹_›)
  · exact (named_testList (named_packetAcquire hs)).of_waiting ‹_›
  · exact named_startedError ((named_testList (named_packetAcquire hs)).of_negative ‹_›)
  · exact named_startedError ((named_testList (named_packetAcquire hs)).of_badList ‹_›)
  · exact named_startedFails ((named_testList (named_packetAcquire hs)).of_listFails ‹_›)
  · exact named_startedFails ((named_testList (named_packetAcquire hs)).of_signalFails ‹_›)

theorem named_execPacketBarrier {queue : Nat} {s : State} (hs : BlocksNamed s) : NamedOut (execPacketBarrier queue s) := by
  unfold execPacketBarrier
  refine named_startNext hs fun _ _ _ _ _ _ h => ?_
  extract_lets +onlyGivenNames u
  have hu : BlocksNamed u := named_startPacket h
  split
  · exact named_barrierTest hu
  · exact hu

theorem named_execBarrierTest {queue n : Nat} {s : State} (hs : BlocksNamed s) : NamedOut (execBarrierTest queue n s) := by
  unfold execBarrierTest
  refine .next ?_
  split
  · exact hs
  · split
    · split
      · exact named_barrierTest hs
      · exact hs
    · exact hs

theorem named_publishProgress {s : State} {q : Nat} (hs : BlocksNamed s) : BlocksNamed (publishProgress s q) := by
  unfold publishProgress
  split
  · exact hs
  · split
    · exact hs
    · exact named_modQueue (named_poke hs)

theorem named_execProgressPublish {queue : Nat} {s : State} (hs : BlocksNamed s) : NamedOut (execProgressPublish queue s) :=
  .next (named_publishProgress hs)

theorem named_finishPacket {s : State} {q : Nat} {k : Started} (hs : BlocksNamed s) : BlocksNamed (finishPacket s q k) := by
  unfold finishPacket
  extract_lets +onlyGivenNames s1
  have hs1 : BlocksNamed s1 := named_modQueue hs
  extract_lets +onlyGivenNames s2
  have hs2 : BlocksNamed s2 := by
    unfold s2
    split
    · exact named_same hs1 rfl rfl
    · exact hs1
  split
  · exact named_publishProgress hs2
  · exact hs2

theorem named_signalDone {s : State} {x : Ctx} {q : Nat} {k : Started} {perBlock : Bool} (hs : BlocksNamed s) :
    BlocksNamed (signalDone s x q k perBlock) := by
  unfold signalDone
  split
  · exact named_finishPacket hs
  · split
    · exact named_finishPacket hs
    · split
      · exact named_finishPacket ((named_addSignal hs).of_done ‹_›)
      · exact named_modStarted ((named_addSignal hs).of_half ‹_›)
      · exact named_startedFails ((named_addSignal hs).of_fails ‹_›)

theorem named_signalWrite {s : State} {x : Ctx} {q : Nat} {k : Started} (hs : BlocksNamed s) : BlocksNamed (signalWrite s x q k) := by
  unfold signalWrite
  extract_lets +onlyGivenNames v k0 r
  have hr : NamedAdded r := by
    unfold r
    split
    · exact named_addSignal hs
    · split
      · exact .done (named_of_snd (named_setSignal hs) ‹_›)
      · exact .fails (named_of_snd (named_setSignal hs) ‹_›)
  clear_value r
  split
  · exact named_finishPacket (hr.of_done rfl)
  · exact named_modStarted (hr.of_half rfl)
  · exact named_startedFails (hr.of_fails rfl)

theorem named_copyWord {s : State} {x : Ctx} {q : Nat} {k : Started} {src dst n pick : Nat} (hs : BlocksNamed s) :
    BlocksNamed (copyWord s x q k src dst n pick) := by
  unfold copyWord
  extract_lets +onlyGivenNames len b units
  split
  · exact hs
  · extract_lets +onlyGivenNames lo m a fail
    have hfail : ∀ (t : State), BlocksNamed t → BlocksNamed (fail t) := fun _ h => named_startedError h
    split
    · exact hfail _ hs
    · split
      · exact hfail _ (named_of_snd (named_placeSealed hs) ‹_›)
      · extract_lets +onlyGivenNames bs
        split
        · exact hfail _ (named_of_snd (named_placeSealed (named_of_snd (named_placeSealed hs) ‹_›)) ‹_›)
        · extract_lets +onlyGivenNames left copied
          exact named_modStarted (named_passViews (named_engineWrite (named_of_snd (named_placeSealed (named_of_snd (named_placeSealed hs)
            ‹_›)) ‹_›)))

theorem named_copyStep {s : State} {x : Ctx} {q : Nat} {k : Started} {src dst n pick : Nat} (hs : BlocksNamed s) :
    BlocksNamed (copyStep s x q k src dst n pick) := by
  unfold copyStep
  split
  · split
    · exact hs
    · exact named_signalDone hs
  · exact named_copyWord hs

theorem named_packetStep {queue n : Nat} {s : State} (hs : BlocksNamed s) : BlocksNamed (packetStep queue n s) := by
  unfold packetStep
  split
  · exact hs
  · split
    · split
      · split
        · exact hs
        · split
          · exact named_signalWrite hs
          · exact named_copyStep hs
          · split
            · exact named_signalDone hs
            · exact hs
          · split
            · exact hs
            · split
              · exact hs
              · split
                · exact named_startedError hs
                · exact named_signalDone hs
          · split
            · exact named_signalDone hs
            · exact hs
      · split
        · exact hs
        · split
          · exact named_signalWrite hs
          · exact named_copyStep hs
          · split
            · exact named_signalDone hs
            · exact hs
          · split
            · exact hs
            · split
              · exact hs
              · split
                · exact named_startedError hs
                · exact named_signalDone hs
          · split
            · exact named_signalDone hs
            · exact hs
    · exact hs

theorem named_openQueue {s : State} {q : Nat} (hs : BlocksNamed s) : BlocksNamed (openQueue s q) := by
  unfold openQueue
  extract_lets +onlyGivenNames p
  split
  · exact hs
  · exact named_same hs rfl rfl

theorem named_badDoorbell {s : State} {queue : Nat} (hs : BlocksNamed s) : BlocksNamed (badDoorbell s queue) := by
  unfold badDoorbell
  extract_lets +onlyGivenNames t
  have ht : BlocksNamed t := named_haltQueue hs
  split
  · exact named_queueEvent ht
  · split
    · exact named_queueEvent (named_of_snd (named_readBoundary ht) ‹_›)
    · exact named_of_snd (named_readBoundary ht) ‹_›

theorem named_execQueueTailDoorbell {func queue : Nat} {v : BitVec 64} {s : State} (hs : BlocksNamed s) :
    NamedOut (execQueueTailDoorbell func queue v s) := by
  unfold execQueueTailDoorbell
  refine .next ?_
  split
  · exact hs
  · extract_lets +onlyGivenNames t u
    have hu : BlocksNamed u := named_openQueue hs
    extract_lets +onlyGivenNames progress
    split
    · exact named_badDoorbell hu
    · extract_lets +onlyGivenNames u1
      have hu1 : BlocksNamed u1 := named_poke hu
      extract_lets +onlyGivenNames st cleared
      split
      · exact named_poke hu1
      · exact hu1

theorem named_execEventHeadDoorbell {func ring : Nat} {v : BitVec 64} {s : State} (hs : BlocksNamed s) :
    NamedOut (execEventHeadDoorbell func ring v s) := by
  unfold execEventHeadDoorbell
  refine .next ?_
  extract_lets +onlyGivenNames d head tail
  split
  · exact hs
  · exact named_poke hs

theorem named_writeDone {s : State} {x : Ctx} {y : Galley} (hs : BlocksNamed s) : BlocksNamed (writeDone s x y) := by
  unfold writeDone
  split
  · exact named_of_snd (named_setSignal hs) ‹_›
  · exact named_of_snd (named_setSignal hs) ‹_›
  · exact named_postOrWait (named_of_snd (named_setSignal hs) ‹_›)

theorem named_galleyDone {s : State} {g : Nat} (hs : BlocksNamed s) : BlocksNamed (galleyDone s g) := by
  unfold galleyDone
  split
  · exact hs
  · split
    · exact hs
    · split
      · exact hs
      · exact named_writeDone hs

theorem named_retireRecords {s : State} {g n : Nat} (hs : BlocksNamed s) : BlocksNamed (retireRecords s g n) := by
  unfold retireRecords
  split
  · exact hs
  · exact named_galleyDone (named_modGalley hs)

theorem named_reserveTake {n : Nat} {s : State} {n1 : Nat} (hs : BlocksNamed s) : BlocksNamed (reserveTake n s n1).2 := by
  fun_induction reserveTake n s n1
  · exact hs
  · exact hs
  · exact named_modGalley hs
  · rename_i ih
    exact ih (named_retireRecords (named_modGalley hs))
  · exact hs

theorem named_galleyIssue {s : State} {i : Instr} {k d a : Nat} {put : Bool} (hs : BlocksNamed s) :
    NamedOut (galleyIssue s i k d a put) := by
  unfold galleyIssue
  refine named_laneIssueIf hs fun _ => ?_
  extract_lets +onlyGivenNames m
  split
  · exact named_done (named_modMine hs)
  · extract_lets +onlyGivenNames gv bad recBytes av out skew
    clear_value skew out av bad gv m
    split
    · exact named_trapHere hs
    · exact named_trapHere hs
    · exact named_trapHere hs
    · exact named_charged hs (named_afterFences hs (named_done (named_forkOp hs)))

theorem named_reservePuts {s : State} {l : List GalleyLane} (hs : BlocksNamed s) : BlocksNamed (reservePuts s l).1 := by
  fun_induction reservePuts s l
  · exact hs
  · rename_i ih
    refine ih ?_
    rename_i t _
    unfold t
    split
    · exact hs
    · split
      · exact named_modGalley hs
      · exact named_modGalley hs

theorem named_reserveTakes {core block : Nat} {s : State} {l : List GalleyLane} (hs : BlocksNamed s) :
    BlocksNamed (reserveTakes core block s l).1 := by
  fun_induction reserveTakes core block s l
  · exact hs
  · rename_i ih
    refine ih ?_
    rename_i t _
    unfold t
    split
    · exact named_reserveTake hs
    · refine named_modBlock (fun _ => ?_) (named_reserveTake hs)
      exact rfl

theorem named_execGalleyReservation {op : Nat} {s : State} (hs : BlocksNamed s) : NamedOut (execGalleyReservation op s) := by
  unfold execGalleyReservation
  refine .next ?_
  split
  · extract_lets +onlyGivenNames fresh
    split
    · split
      · exact named_setOpKind (named_reservePuts hs)
      · exact hs
    · split
      · exact named_setOpKind (named_reserveTakes hs)
      · exact hs
    · exact hs
  · exact hs

theorem named_modGalleyLane {s : State} {op lane : Nat} {f : GalleyLane → GalleyLane} (hs : BlocksNamed s) :
    BlocksNamed (modGalleyLane s op lane f) :=
  named_modOp hs

theorem named_voidPut {s : State} {o : Op} {l : GalleyLane} {va : Nat} (hs : BlocksNamed s) : BlocksNamed (voidPut s o l va) :=
  named_modGalleyLane (named_modGalley hs)

theorem named_loseTake {s : State} {o : Op} {l : GalleyLane} {va : Nat} (hs : BlocksNamed s) : BlocksNamed (loseTake s o l va) :=
  named_modGalleyLane (named_modGalley hs)

theorem named_galleyRead {s : State} {o : Op} {x : Ctx} {l : GalleyLane} {put : Bool} (hs : BlocksNamed s) :
    BlocksNamed (galleyRead s o x l put) := by
  unfold galleyRead
  split
  · extract_lets +onlyGivenNames off
    split
    · exact named_modGalleyLane hs
    · split
      · exact hs
      · split
        · exact (named_engineSpans hs).of_held ‹_›
        · exact named_loseTake ((named_engineSpans hs).of_lost ‹_›)
        · exact named_modGalleyLane (named_modGalley (named_landAt ((named_engineSpans hs).of_ok ‹_›)))
  · exact hs

theorem named_galleyAccess {s : State} {o : Op} {n : Nat} (hs : BlocksNamed s) : BlocksNamed (galleyAccess s o n) := by
  unfold galleyAccess
  split
  · split
    · exact named_galleyRead hs
    · exact hs
  · split
    · exact named_galleyRead hs
    · exact hs
  · exact hs

theorem named_publishPut {s : State} {o : Op} {l : GalleyLane} {n : Nat} (hs : BlocksNamed s) : BlocksNamed (publishPut s o l n) :=
  named_modGalleyLane (named_modGalley hs)

theorem named_putRecord {s : State} {o : Op} {x : Ctx} {l : GalleyLane} {n va : Nat} {bs : List Byte} (hs : BlocksNamed s) :
    BlocksNamed (putRecord s o x l n va bs) := by
  unfold putRecord
  split
  · split
    · exact hs
    · exact named_publishPut hs
  · split
    · exact hs
    · split
      · exact (named_engineSpans hs).of_held ‹_›
      · exact named_voidPut ((named_engineSpans hs).of_lost ‹_›)
      · extract_lets +onlyGivenNames t
        have ht : BlocksNamed t := named_engineWrite ((named_engineSpans hs).of_ok ‹_›)
        split
        · exact named_modGalleyLane ht
        · exact named_publishPut ht

theorem named_execGalleyPublish {op lane : Nat} {s : State} (hs : BlocksNamed s) : NamedOut (execGalleyPublish op lane s) := by
  unfold execGalleyPublish
  refine .next ?_
  split
  · split
    · split
      · split
        · exact named_putRecord hs
        · exact hs
      · exact hs
    · exact hs
  · exact hs

theorem named_execGalleyOpComplete {op : Nat} {s : State} (hs : BlocksNamed s) : NamedOut (execGalleyOpComplete op s) := by
  unfold execGalleyOpComplete
  refine .next ?_
  split
  · extract_lets +onlyGivenNames finish
    have hfinish : ∀ (d : Nat) (ls : List GalleyLane) (take : Bool), BlocksNamed (finish d ls take) := by
      intro _ _ _
      unfold finish
      split
      · exact hs
      · extract_lets +onlyGivenNames t
        have ht : BlocksNamed t := named_landResults hs
        extract_lets +onlyGivenNames lost t1
        have ht1 : BlocksNamed t1 := by
          unfold t1
          clear_value lost
          split
          · exact ht
          · exact named_oweTrap ht
        extract_lets +onlyGivenNames t2
        have ht2 : BlocksNamed t2 := by
          unfold t2
          split
          · refine named_modBlock (fun _ => ?_) ht1
            exact rfl
          · exact ht1
        exact named_completeOp ht2
    split
    · exact hfinish _ _ _
    · exact hfinish _ _ _
    · exact hs
  · exact hs

theorem named_instrRead {s : State} {w : Issuer} {x : Ctx} {va n : Nat} {go : State → List Byte → State} (hs : BlocksNamed s)
    (hgo : ∀ (a : State) (a_1 : List Byte), BlocksNamed a → BlocksNamed (go a a_1)) : BlocksNamed (instrRead s w x va n go) := by
  unfold instrRead
  split
  · exact hgo _ _ (named_of_snd (named_readVa hs) ‹_›)
  · exact named_trapAll (named_of_snd (named_readVa hs) ‹_›)
  · split
    · exact named_holdIt hs
    · exact named_holdIt (named_of_snd (named_postFault (named_of_snd (named_readVa hs) ‹_›)) ‹_›)

theorem named_bindGalley {s : State} {w : Issuer} {x : Ctx} {d g va bound : Nat} (hs : BlocksNamed s) :
    BlocksNamed (bindGalley s w x d g va bound) := by
  unfold bindGalley
  refine named_instrRead hs fun _ _ h => ?_
  extract_lets +onlyGivenNames y status
  have hstatus : ∀ (s : State) (v : Nat), BlocksNamed s → BlocksNamed (status s v) := fun _ _ h => named_heldDone h
  extract_lets +onlyGivenNames bind
  have hbind : ∀ (s : State), BlocksNamed s → BlocksNamed (bind s) := fun _ h => hstatus _ _ (named_same h rfl rfl)
  split
  · exact hstatus _ _ h
  · split
    · exact hstatus _ _ h
    · split
      · exact hstatus _ _ (named_same h rfl rfl)
      · split
        · exact hstatus _ _ h
        · refine named_instrRead h fun _ _ h1 => ?_
          extract_lets +onlyGivenNames r
          split
          · exact hstatus _ _ (named_same h1 rfl rfl)
          · exact hstatus _ _ h1

theorem named_execGbind {d a b : GReg} {s : State} (hs : BlocksNamed s) : NamedOut (execGbind d a b s) := by
  unfold execGbind
  refine named_uniIssueIf hs fun _ => ?_
  extract_lets +onlyGivenNames va g status
  have hstatus : ∀ (s : State) (v : Nat), BlocksNamed s → BlocksNamed (status s v) := fun _ _ h => named_heldDone h
  extract_lets +onlyGivenNames free bound
  split
  · split
    · exact hstatus _ _ (named_same hs rfl rfl)
    · exact hstatus _ _ hs
  · split
    · exact named_trapAll hs
    · split
      · exact hstatus _ _ hs
      · exact named_bindGalley hs

theorem named_execGinfo {d a b : GReg} {s : State} (hs : BlocksNamed s) : NamedOut (execGinfo d a b s) :=
  named_uniIssueIf hs fun _ => named_heldDone hs

theorem coreNamed_agentCarve {n : Nat} {x y : Core} {r : Launch} {p : Placement} {table : List (Nat × Nat × Nat)}
    {q : Option (Nat × Nat)} (hx : CoreNamed n x) (e : agentCarve x r p = some (y, table, q)) : CoreNamed n y := by
  unfold agentCarve at e
  extract_lets +onlyGivenNames needs rows at e
  split at e
  · extract_lets +onlyGivenNames taken used extra z routine at e
    have hz : CoreNamed n z := coreNamed_setLeases (coreNamed_upd hx rfl)
    clear_value z routine
    split at e
    · split at e
      · rw [Option.some.injEq, Prod.mk.injEq] at e
        exact e.1 ▸ hz
      · exact nomatch e
    · exact nomatch e
  · exact nomatch e

theorem named_launchConsumer {s : State} {g : Nat} {y : Galley} {c : Nat} {p : Placement} (hs : BlocksNamed s) :
    BlocksNamed (launchConsumer s g y c p) := by
  unfold launchConsumer
  split
  next ht => exact named_of_snd (named_ctxForWork hs) ht
  next x t ht =>
    replace ht : BlocksNamed t := named_of_snd (named_ctxForWork hs) ht
    extract_lets +onlyGivenNames die
    split
    · exact hs
    · split
      next r u hu =>
        replace hu : BlocksNamed u := named_of_snd (named_readLaunch ht) hu
        extract_lets +onlyGivenNames ok
        split
        next core table routine hcarve =>
          split
          · exact hs
          · extract_lets +onlyGivenNames n
            have hn : BlocksNamed n.2 := named_placeBlock (named_setCore hu (coreNamed_agentCarve (named_core hu c) hcarve))
            split
            · exact named_modGalley ((named_startInstance hn).of_some ‹_›)
            · exact hs
        · exact hs
      · exact named_postOrWait (named_of_snd (named_readLaunch ht) ‹_›)
      · exact hs

theorem named_execGalleyConsumerLaunch {galley core : Nat} {p : Placement} {s : State} (hs : BlocksNamed s) :
    NamedOut (execGalleyConsumerLaunch galley core p s) := by
  unfold execGalleyConsumerLaunch
  refine .next ?_
  split
  · split
    · exact named_launchConsumer hs
    · exact hs
  · exact hs

theorem named_execGalleyConsumerTimer {galley core : Nat} {p : Placement} {s : State} (hs : BlocksNamed s) :
    NamedOut (execGalleyConsumerTimer galley core p s) := by
  unfold execGalleyConsumerTimer
  refine .next ?_
  split
  · split
    · exact named_launchConsumer hs
    · exact hs
  · exact hs

theorem named_ualu {s : State} {i : Instr} {d a b : Nat} {f : DWord → DWord → DWord} (hs : BlocksNamed s) : NamedOut (ualu s i d a b f) :=
  named_uniIssue hs fun _ => named_done (named_putG hs)

theorem named_ualu1 {s : State} {i : Instr} {d a : Nat} {f : DWord → DWord} (hs : BlocksNamed s) : NamedOut (ualu1 s i d a f) :=
  named_uniIssue hs fun _ => named_done (named_putG hs)

theorem named_laneToUni {s : State} {i : Instr} {d v : Nat} {gs : List Nat} {lanes : Issuer → Mask} {f : Issuer → DWord}
    (hs : BlocksNamed s) : NamedOut (laneToUni s i d v gs lanes f) :=
  named_uniIssue hs fun _ => named_done (named_putG hs)

theorem named_putMask {s : State} {w : Issuer} {k : Nat} {v : Mask} (hs : BlocksNamed s) : BlocksNamed (putMask s w k v) :=
  named_putK hs

theorem named_umask2 {s : State} {i : Instr} {d a b : Nat} {f : Mask → Mask → Mask} (hs : BlocksNamed s) : NamedOut (umask2 s i d a b f) :=
  named_uniIssue hs fun _ => named_done (named_putMask hs)

theorem named_placeNow {s : State} {w : Issuer} {go : State → State} (hs : BlocksNamed s)
    (hgo : ∀ (a : State), BlocksNamed a → BlocksNamed (go a)) : BlocksNamed (placeNow s w go) := by
  unfold placeNow
  split
  · exact hgo _ hs
  · exact named_holdIt hs

theorem named_execMstream {k : KReg} {d a : VReg} {sh : Fin 32} {t : MType} {s : State} (hs : BlocksNamed s) :
    NamedOut (execMstream k d a sh t s) := by
  unfold execMstream
  refine named_laneIssueIf hs fun _ => ?_
  extract_lets +onlyGivenNames ps
  split
  · exact named_trapHere hs
  · split
    · exact named_done hs
    · extract_lets +onlyGivenNames charge
      refine named_chargedFor hs ?_
      split
      · exact named_holdIt hs
      · exact named_afterFences hs (named_done (named_modCore (named_forkOp hs) (fun _ h => coreNamed_upd h rfl)))

theorem named_placeCommand {s : State} {w : Issuer} {cls c : Nat} {kind : CommandKind} {book : Matrix → Matrix} (hs : BlocksNamed s) :
    BlocksNamed (placeCommand s w cls c kind book) :=
  named_charged hs (named_placeNow hs (fun _ h => named_afterFences h (named_done (named_modCore (named_forkOp h) (fun _ h1 => coreNamed_upd
    h1 rfl)))))

theorem named_checkedLocal {s : State} {w : Issuer} {size align a : Nat} {ok : State} (hs : BlocksNamed s) (hok : BlocksNamed ok) :
    BlocksNamed (checkedLocal s w size align a ok) := by
  unfold checkedLocal
  split
  · exact named_trapAll hs
  · split
    · exact named_trapAll hs
    · exact hok

theorem named_execMload {a b : GReg} {s : State} (hs : BlocksNamed s) : NamedOut (execMload a b s) := by
  unfold execMload
  refine named_uniIssueIf hs fun _ => ?_
  extract_lets +onlyGivenNames at_ v n p
  split
  · exact named_trapAll hs
  · exact named_checkedLocal hs (named_placeCommand hs)

theorem named_execMopen {d a : GReg} {s : State} (hs : BlocksNamed s) : NamedOut (execMopen d a s) := by
  unfold execMopen
  refine named_uniIssueIf hs fun _ => ?_
  extract_lets +onlyGivenNames v m
  split
  · exact named_trapAll hs
  · split
    · exact named_trapAll hs
    · extract_lets +onlyGivenNames go
      have hgo : ∀ (s : State), BlocksNamed s → BlocksNamed (go s) := fun _ h => named_done (named_putG (named_modCore h (fun _ h1 =>
        coreNamed_upd h1 rfl)))
      split
      · exact named_placeNow hs fun _ h => hgo _ h
      · exact hgo _ hs

theorem named_execMclose {a : GReg} {s : State} (hs : BlocksNamed s) : NamedOut (execMclose a s) := by
  unfold execMclose
  refine named_uniIssueIf hs fun _ => ?_
  extract_lets +onlyGivenNames v
  split
  · exact named_trapAll hs
  · split
    · exact named_trapAll hs
    · exact named_done (named_modCore hs (fun _ h => coreNamed_upd h rfl))

theorem named_amov {s : State} {i : Instr} {a b : Nat} {store : Bool} (hs : BlocksNamed s) : NamedOut (amov s i a b store) := by
  unfold amov
  refine named_uniIssueIf hs fun _ => ?_
  extract_lets +onlyGivenNames at_ v slot row0 rows
  split
  · exact named_trapAll hs
  · split
    · exact named_trapAll hs
    · exact named_checkedLocal hs (named_placeCommand hs)

theorem named_epiChecked {s : State} {w : Issuer} {at_ : Nat} {r : EpiRecord} (hs : BlocksNamed s) :
    BlocksNamed (epiChecked s w at_ r) := by
  unfold epiChecked
  extract_lets +onlyGivenNames ebad m slots
  split
  · exact named_trapAll hs
  · split
    · exact named_trapAll hs
    · split
      · exact named_trapAll hs
      · split
        · exact named_holdIt hs
        · extract_lets +onlyGivenNames t
          have ht : BlocksNamed t := named_placeCommand hs
          split
          · exact ht
          · exact named_modMine ht

theorem named_execEpi {a : GReg} {s : State} (hs : BlocksNamed s) : NamedOut (execEpi a s) := by
  unfold execEpi
  refine named_uniIssueIf hs fun _ => ?_
  extract_lets +onlyGivenNames at_ m record readNow
  have hreadNow : BlocksNamed readNow := named_holdIt hs
  extract_lets +onlyGivenNames readAgain
  have hreadAgain : BlocksNamed readAgain := by
    unfold readAgain
    split
    · exact named_epiChecked hs
    · exact hreadNow
  refine named_checkedLocal hs ?_
  split
  · exact named_trapAll (named_poisonEvent hs)
  · exact named_epiChecked hs
  · split
    · exact named_holdIt hs
    · exact hreadNow
  · exact hreadAgain
  · exact hreadAgain
  · exact hreadAgain
  · exact hreadNow

theorem named_atUnit {s : State} {core i : Nat} {f : Nat → Nat → State} (hs : BlocksNamed s) (hf : ∀ (a a_1 : Nat), BlocksNamed (f a a_1)) :
    NamedOut (atUnit s core i f) := by
  unfold atUnit
  refine .next ?_
  split
  · exact hf _ _
  · exact hs

theorem named_commandDone {s : State} {c n : Nat} {k : Command} (hs : BlocksNamed s) : BlocksNamed (commandDone s c n k) := by
  unfold commandDone
  extract_lets +onlyGivenNames s1
  have hs1 : BlocksNamed s1 := named_modCore hs fun _ h => coreNamed_upd h rfl
  split
  · exact hs1
  · extract_lets +onlyGivenNames s2
    have hs2 : BlocksNamed s2 := by
      unfold s2
      split
      · exact hs1
      · exact named_modGroup hs1
    split
    · exact named_setOpKind hs2
    · exact named_completeOp hs2

theorem named_unitDone {s : State} {c n u : Nat} {k : Command} {bad : Option DWord} (hs : BlocksNamed s) :
    BlocksNamed (unitDone s c n u k bad) := by
  unfold unitDone
  extract_lets +onlyGivenNames k1
  split
  · exact named_commandDone hs
  · exact named_modCore hs fun _ h => coreNamed_upd h rfl

theorem coreNamed_putAcc {N : Nat} {x : Core} {off : Nat} {bs : List (Byte × Bool)} (hx : CoreNamed N x) : CoreNamed N (x.putAcc off bs) :=
  coreNamed_upd hx rfl

theorem coreNamed_putPlaten {N : Nat} {x : Core} {p off : Nat} {bs : List (Byte × Bool)} (hx : CoreNamed N x) :
    CoreNamed N (x.putPlaten p off bs) :=
  coreNamed_upd hx rfl

theorem coreNamed_passElement {N : Nat} {x : Core} {c : Nat} {t : MType} {k a slot row0 col0 platen : Nat} {zero : Bool} {m j : Nat}
    (hx : CoreNamed N x) : CoreNamed N (passElement x c t k a slot row0 col0 platen zero m j) :=
  coreNamed_putAcc hx

theorem coreNamed_passRow {N : Nat} {x : Core} {c : Nat} {t : MType} {k a slot row0 col0 platen : Nat} {zero : Bool} {m n : Nat}
    (hx : CoreNamed N x) : CoreNamed N (passRow x c t k a slot row0 col0 platen zero m n) :=
  coreNamed_foldl (fun _ _ h => coreNamed_passElement h) hx

theorem named_runPass {core n u : Nat} {s : State} (hs : BlocksNamed s) : BlocksNamed (runPass core n u s) := by
  unfold runPass
  split
  · split
    · exact named_unitDone (named_modCore hs (fun _ h => coreNamed_passRow h))
    · exact hs
  · exact hs

theorem named_execMstreamPassRun {core i : Nat} {s : State} (hs : BlocksNamed s) : NamedOut (execMstreamPassRun core i s) :=
  named_atUnit hs fun _ _ => named_runPass hs

theorem named_runLoad {core n u : Nat} {s : State} (hs : BlocksNamed s) : BlocksNamed (runLoad core n u s) := by
  unfold runLoad
  split
  · split
    · exact named_unitDone (named_modCore hs (fun _ h => coreNamed_putPlaten h))
    · exact hs
  · exact hs

theorem named_execMloadRun {core i : Nat} {s : State} (hs : BlocksNamed s) : NamedOut (execMloadRun core i s) :=
  named_atUnit hs fun _ _ => named_runLoad hs

theorem named_execSlotZeroing {core n : Nat} {s : State} (hs : BlocksNamed s) : NamedOut (execSlotZeroing core n s) := by
  unfold execSlotZeroing
  refine .next ?_
  split
  · split
    · exact named_unitDone (named_modCore hs (fun _ h => coreNamed_upd h rfl))
    · exact hs
  · exact hs

theorem named_runAmov {core n u : Nat} {s : State} (hs : BlocksNamed s) : BlocksNamed (runAmov core n u s) := by
  unfold runAmov
  split
  · split
    · extract_lets +onlyGivenNames bad off at_
      refine named_unitDone ?_
      split
      · exact named_landAt hs
      · exact named_modCore hs fun _ h => coreNamed_putAcc h
    · exact hs
  · exact hs

theorem named_execAmovRun {core i : Nat} {s : State} (hs : BlocksNamed s) : NamedOut (execAmovRun core i s) :=
  named_atUnit hs fun _ _ => named_runAmov hs

theorem named_runEpi {core n u : Nat} {s : State} (hs : BlocksNamed s) : BlocksNamed (runEpi core n u s) := by
  unfold runEpi
  split
  · split
    · extract_lets +onlyGivenNames x
      have hx : CoreNamed s.nextId x := named_core hs _
      extract_lets +onlyGivenNames bad vec
      split
      · exact named_unitDone hs
      · split
        · exact named_unitDone hs
        · exact named_unitDone (named_landAt hs)
    · exact hs
  · exact hs

theorem named_execEpiRun {core i : Nat} {s : State} (hs : BlocksNamed s) : NamedOut (execEpiRun core i s) :=
  named_atUnit hs fun _ _ => named_runEpi hs

theorem named_modEnd {s : State} {binding : Nat} {f : ChanEnd → ChanEnd} (hs : BlocksNamed s) : BlocksNamed (modEnd s binding f) :=
  named_mapCores hs rfl (Nat.le_refl _) (fun _ => rfl) (fun _ _ h => coreNamed_upd h rfl)

theorem named_releaseEnd {s : State} {e : ChanEnd} (hs : BlocksNamed s) : BlocksNamed (releaseEnd s e) := by
  unfold releaseEnd
  extract_lets +onlyGivenNames s1
  have hs1 : BlocksNamed s1 := by
    unfold s1
    split
    · split
      · exact named_modEnd hs
      · exact hs
    · exact hs
  exact named_mapCores hs1 rfl (Nat.le_refl _) (fun _ => rfl) (fun _ _ h => coreNamed_upd h rfl)

theorem named_releaseEnds {s : State} {core block : Nat} (hs : BlocksNamed s) : BlocksNamed (releaseEnds s core block) :=
  named_foldl (fun _ _ h => named_releaseEnd h) hs

theorem named_sendGrants {s : State} {e : ChanEnd} {n : Nat} (hs : BlocksNamed s) : BlocksNamed (sendGrants s e n) := by
  unfold sendGrants
  split
  · exact named_same hs rfl rfl
  · exact hs

theorem named_bindEnd {s : State} {w : Issuer} {n : Nat} {sender : Bool} {va : Nat} {d : ChanDesc} (hs : BlocksNamed s) :
    BlocksNamed (bindEnd s w n sender va d) := by
  unfold bindEnd
  extract_lets +onlyGivenNames e s1
  have hs1 : BlocksNamed s1 := named_writePlace (named_next hs rfl rfl)
  extract_lets +onlyGivenNames s2
  have hs2 : BlocksNamed s2 := named_modCore hs1 fun _ h => coreNamed_upd h rfl
  split
  · split
    · exact named_modEnd (named_sendGrants (named_modEnd (named_modEnd hs2)))
    · exact hs2
  · exact hs2

theorem named_execXbind {d a b : GReg} {s : State} (hs : BlocksNamed s) : NamedOut (execXbind d a b s) := by
  unfold execXbind
  refine named_uniIssueIf hs fun _ => ?_
  extract_lets +onlyGivenNames v va n sender status
  have hstatus : ∀ (s : State) (v : Nat), BlocksNamed s → BlocksNamed (status s v) := fun _ _ h => named_heldDone h
  split
  · exact named_trapAll hs
  · split
    · split
      · exact hstatus _ _ hs
      · split
        · exact hstatus _ _ (named_releaseEnd hs)
        · exact named_holdIt hs
    · split
      · exact named_trapAll hs
      · split
        · exact named_trapAll hs
        · refine named_instrRead hs fun _ _ h => ?_
          extract_lets +onlyGivenNames desc
          split
          · exact hstatus _ _ (named_bindEnd h)
          · exact hstatus _ _ h

theorem named_permitting {s : State} {w : Issuer} {q : ChanEnd} {count : Nat} (hs : BlocksNamed s) : BlocksNamed (permitting s w q count) :=
  named_modMine hs

theorem named_execXpermit {a : GReg} {s : State} (hs : BlocksNamed s) : NamedOut (execXpermit a s) := by
  unfold execXpermit
  extract_lets +onlyGivenNames ok
  refine named_uniIssueIf hs fun _ => ?_
  extract_lets +onlyGivenNames v count e
  split
  · exact named_trapAll hs
  · clear_value e
    split
    · exact named_trapAll hs
    · split
      · exact named_trapAll hs
      · exact named_blockIt (named_done (named_modEnd (named_permitting hs)))

theorem named_deliverGrants {s : State} {p : Permit} (hs : BlocksNamed s) : BlocksNamed (deliverGrants s p) :=
  named_same hs rfl rfl

theorem named_execGrantSend {core slot split : Nat} {s : State} (hs : BlocksNamed s) : NamedOut (execGrantSend core slot split s) := by
  unfold execGrantSend
  refine .next ?_
  split
  · exact hs
  · extract_lets +onlyGivenNames n
    split
    · split
      · exact hs
      · exact named_modGroup (named_deliverGrants hs)
    · exact hs

theorem named_execXsend {d a b : GReg} {s : State} (hs : BlocksNamed s) : NamedOut (execXsend d a b s) := by
  unfold execXsend
  extract_lets +onlyGivenNames ok
  refine named_uniIssueIf hs fun _ => ?_
  extract_lets +onlyGivenNames v bytes at_ e
  split
  · exact named_trapAll hs
  · clear_value e
    split
    · split
      · exact named_trapAll hs
      · split
        · exact named_trapAll hs
        · exact named_checkedLocal hs (named_charged hs (named_afterFences hs (named_done (named_putG (named_modEnd (named_forkOp hs))))))
    · exact named_trapAll hs

theorem named_landPieces {s : State} {x : Send} {ps : List (Nat × List (Byte × Bool))} (hs : BlocksNamed s) :
    BlocksNamed (landPieces s x ps) := by
  unfold landPieces
  split
  · exact hs
  · exact named_foldl (fun _ _ h => named_landAt h) hs

theorem named_sendAccess {s : State} {o : Op} {x : Send} {n : Nat} (hs : BlocksNamed s) : BlocksNamed (sendAccess s o x n) := by
  unfold sendAccess
  split
  · exact named_setOpKind hs
  · split
    · exact hs
    · split
      · exact hs
      · extract_lets +onlyGivenNames sent s1
        have hs1 : BlocksNamed s1 := named_landPieces hs
        split
        · exact named_completeOp hs1
        · exact named_setOpKind hs1

theorem named_execXsendLanding {op : Nat} {s : State} (hs : BlocksNamed s) : NamedOut (execXsendLanding op s) := by
  unfold execXsendLanding
  refine .next ?_
  split
  · split
    · split
      · exact hs
      · split
        · exact named_completeOp hs
        · exact named_setOpKind (named_queueUpdate (named_landPieces hs))
    · exact hs
  · exact hs

theorem named_execPermitGrant {n : Nat} {s : State} (hs : BlocksNamed s) : NamedOut (execPermitGrant n s) := by
  unfold execPermitGrant
  refine .next ?_
  split
  · exact hs
  · split
    · exact hs
    · split
      · split
        · exact hs
        · exact named_same hs rfl rfl
      · split
        · exact hs
        · extract_lets +onlyGivenNames t
          have ht : BlocksNamed t := named_queueUpdate hs
          exact named_same ht rfl rfl

theorem named_settleExchange {s : State} (hs : BlocksNamed s) : BlocksNamed (settleExchange s) := by
  unfold settleExchange
  extract_lets +onlyGivenNames s1
  have hs1 : BlocksNamed s1 := named_foldl (fun _ _ h => named_modEnd h) hs
  extract_lets +onlyGivenNames s2
  have hs2 : BlocksNamed s2 := named_same hs1 rfl rfl
  refine named_foldl (fun _ _ h => ?_) hs2
  split
  · split
    · exact named_completeOp (named_modEnd h)
    · exact h
  · exact h

theorem named_modWalk {s : State} {op lane : Nat} {f : Walk → Walk} (hs : BlocksNamed s) : BlocksNamed (modWalk s op lane f) :=
  named_modOp hs

theorem named_oweWalks {s : State} {o : Op} {ws : List Walk} (hs : BlocksNamed s) : BlocksNamed (oweWalks s o ws) := by
  unfold oweWalks
  extract_lets +onlyGivenNames bad
  clear_value bad
  split
  · exact hs
  · exact named_oweTrap hs

theorem named_finishWalks {s : State} {op : Nat} (hs : BlocksNamed s) : BlocksNamed (finishWalks s op) := by
  unfold finishWalks
  split
  · exact hs
  · split
    · split
      · exact hs
      · exact named_completeOp (named_oweWalks hs)
    · exact hs

theorem named_endWalk {s : State} {o : Op} {w : Walk} {code : Nat} {bad : DWord} (hs : BlocksNamed s) :
    BlocksNamed (endWalk s o w code bad) := by
  unfold endWalk
  extract_lets +onlyGivenNames s1
  have hs1 : BlocksNamed s1 := by
    unfold s1
    split
    · exact named_landResults hs
    · exact hs
  exact named_finishWalks (named_modWalk hs1)

theorem named_walkRead {s : State} {o : Op} {x : Ctx} {w : Walk} {va n : Nat} (hs : BlocksNamed s) :
    NamedWalkGot (walkRead s o x w va n) := by
  unfold walkRead
  split
  · exact .bytes hs
  · split
    · exact .stop ((named_engineSpans hs).of_held ‹_›)
    · exact .stop (named_endWalk ((named_engineSpans hs).of_lost ‹_›))
    · extract_lets +onlyGivenNames bs
      split
      · exact .stop (named_endWalk ((named_engineSpans hs).of_ok ‹_›))
      · exact .bytes ((named_engineSpans hs).of_ok ‹_›)

theorem named_walkPlaces {s : State} {o : Op} {x : Ctx} {w : Walk} {need : Need} {va n : Nat} (hs : BlocksNamed s) :
    NamedExc (walkPlaces s o x w need va n) := by
  unfold walkPlaces
  split
  · exact .ok hs
  · split
    · exact .error ((named_engineSpans hs).of_held ‹_›)
    · exact .error (named_endWalk ((named_engineSpans hs).of_lost ‹_›))
    · exact .ok ((named_engineSpans hs).of_ok ‹_›)

theorem named_walkWrite {s : State} {o : Op} {x : Ctx} {ps : List (Page × Nat)} {bs : List Byte} (hs : BlocksNamed s) :
    BlocksNamed (walkWrite s o x ps bs) :=
  named_engineWrite hs

theorem named_walkAdd {s : State} {o : Op} {x : Ctx} {w : Walk} {va : Nat} {f : Nat → Nat} (hs : BlocksNamed s) :
    NamedExc (walkAdd s o x w va f) := by
  unfold walkAdd
  split
  · exact .error ((named_walkPlaces hs).of_error ‹_›)
  · extract_lets +onlyGivenNames at_
    split
    · exact .error (named_endWalk ((named_walkPlaces hs).of_ok ‹_›))
    · exact .ok (named_walkWrite ((named_walkPlaces hs).of_ok ‹_›))

theorem named_wholeStack {s : State} {o : Op} {x : Ctx} {w : Walk} (hs : BlocksNamed s) : NamedExc (wholeStack s o x w) := by
  unfold wholeStack
  split
  · exact .error ((named_walkRead hs).of_stop ‹_›)
  · exact .ok ((named_walkRead hs).of_bytes ‹_›)

theorem named_placeStack {s : State} {o : Op} {x : Ctx} {w : Walk} {st : List WEntry} {kept : Nat} (hs : BlocksNamed s) :
    NamedExc (placeStack s o x w st kept) := by
  unfold placeStack
  extract_lets +onlyGivenNames low
  split
  · exact .error ((named_walkPlaces hs).of_error ‹_›)
  · exact .ok (named_walkWrite ((named_walkPlaces hs).of_ok ‹_›))

theorem named_setWalk {s : State} {o : Op} {w : Walk} (hs : BlocksNamed s) : BlocksNamed (setWalk s o w) :=
  named_modWalk hs

theorem named_readKind {s : State} {o : Op} {x : Ctx} {b : Block} {w : Walk} {kind : Nat} (hs : BlocksNamed s) :
    NamedExc (readKind s o x b w kind) := by
  unfold readKind
  split
  · exact .ok hs
  · split
    · exact .error ((named_walkRead hs).of_stop ‹_›)
    · exact .ok ((named_walkRead hs).of_bytes ‹_›)

theorem named_callRoutine {s : State} {o : Op} {x : Ctx} {b : Block} {w : Walk} {routine : Nat} {calls : List Call} {point : WalkPoint}
    (hs : BlocksNamed s) : BlocksNamed (callRoutine s o x b w routine calls point) := by
  unfold callRoutine
  extract_lets +onlyGivenNames go
  have hgo : ∀ (s : State) (v : Nat), BlocksNamed s → BlocksNamed (go s v) := by
    intro _ _ h
    unfold go
    split
    · exact named_endWalk h
    · refine named_modBlock (fun _ => ?_) (named_setWalk h)
      exact rfl
  split
  · exact hgo _ _ hs
  · split
    · exact (named_walkRead hs).of_stop ‹_›
    · exact hgo _ _ ((named_walkRead hs).of_bytes ‹_›)

theorem named_resolveChildren {o : Op} {x : Ctx} {b : Block} {w : Walk} {k : NodeKind} {s : State}
    {l : List (Nat × Nat × Nat × Option Nat)} (hs : BlocksNamed s) : NamedExc (resolveChildren o x b w k s l) := by
  induction l generalizing s with
  | nil => exact .ok hs
  | cons c r ih =>
    obtain ⟨slot, va, kind, idx⟩ := c
    unfold resolveChildren
    extract_lets +onlyGivenNames size
    have hsize : NamedExc size := by
      unfold size
      split
      · exact .ok hs
      · split
        · exact .error ((named_readKind hs).of_error ‹_›)
        · exact .ok ((named_readKind hs).of_ok ‹_›)
    clear_value size
    cases hsize with
    | error h => exact .error h
    | ok ht =>
      dsimp only
      split
      · exact .error ((ih ht).of_error ‹_›)
      · exact .ok ((ih ht).of_ok ‹_›)

theorem named_readChildren {o : Op} {x : Ctx} {w : Walk} {k : NodeKind} {e : WEntry} {mask : Nat} {s : State} {l : List Nat}
    (hs : BlocksNamed s) : NamedExc (readChildren o x w k e mask s l) := by
  fun_induction readChildren o x w k e mask s l
  · exact .ok hs
  · rename_i ih
    exact ih hs
  · exact .error ((named_walkRead hs).of_stop ‹_›)
  · rename_i ih
    exact ih ((named_walkRead hs).of_bytes ‹_›)
  · exact .error (named_endWalk ((named_walkRead hs).of_bytes ‹_›))
  · rename_i ih
    exact .error ((ih ((named_walkRead hs).of_bytes ‹_›)).of_error ‹_›)
  · rename_i ih
    exact .ok ((ih ((named_walkRead hs).of_bytes ‹_›)).of_ok ‹_›)

theorem named_entered {s : State} {o : Op} {x : Ctx} {b : Block} {w : Walk} {e : WEntry} {v : Nat} (hs : BlocksNamed s) :
    BlocksNamed (entered s o x b w e v) := by
  unfold entered
  split
  · exact named_endWalk hs
  · split
    · exact (named_readKind hs).of_error ‹_›
    · extract_lets +onlyGivenNames act cut
      split
      · exact named_endWalk ((named_readKind hs).of_ok ‹_›)
      · split
        · exact named_setWalk ((named_readKind hs).of_ok ‹_›)
        · extract_lets +onlyGivenNames count
          have hcount : NamedWalkGot count := by
            unfold count
            split
            · exact .bytes ((named_readKind hs).of_ok ‹_›)
            · exact named_walkRead ((named_readKind hs).of_ok ‹_›)
          clear_value count
          split
          · exact hcount.of_stop rfl
          · extract_lets +onlyGivenNames n
            split
            · exact named_endWalk (hcount.of_bytes rfl)
            · split
              · exact (named_readChildren (hcount.of_bytes rfl)).of_error ‹_›
              · split
                · exact (named_resolveChildren ((named_readChildren (hcount.of_bytes rfl)).of_ok ‹_›)).of_error ‹_›
                · split
                  · exact named_setWalk ((named_resolveChildren ((named_readChildren (hcount.of_bytes rfl)).of_ok ‹_›)).of_ok ‹_›)
                  · split
                    · exact (named_walkRead ((named_resolveChildren ((named_readChildren (hcount.of_bytes rfl)).of_ok ‹_›)).of_ok
                        ‹_›)).of_stop ‹_›
                    · extract_lets +onlyGivenNames calls
                      exact named_callRoutine ((named_walkRead ((named_resolveChildren ((named_readChildren (hcount.of_bytes rfl)).of_ok
                        ‹_›)).of_ok ‹_›)).of_bytes ‹_›)

theorem named_pruned {s : State} {o : Op} {w : Walk} {e : WEntry} {cut : Option Nat} {cs : List Cand} {rs : List Nat} (hs : BlocksNamed s) :
    BlocksNamed (pruned s o w e cut cs rs) := by
  unfold pruned
  split
  · exact named_endWalk hs
  · exact named_setWalk hs

theorem named_pushCands {s : State} {o : Op} {x : Ctx} {w : Walk} {e : WEntry} {cs : List Cand} {f : Nat} {next : WalkPoint} {t : State}
    (hs : BlocksNamed s) (h : pushCands s o x w e cs f next = .ok t ∨ pushCands s o x w e cs f next = .error t) : BlocksNamed t := by
  unfold pushCands at h
  split at h
  · rcases h with h | h
    · cases h
      exact named_endWalk hs
    · exact nomatch h
  · extract_lets +onlyGivenNames top st low at h
    split at h
    next hu =>
      rcases h with h | h
      · exact nomatch h
      · cases h
        exact (named_walkPlaces hs).of_error hu
    next hu =>
      rcases h with h | h
      · cases h
        exact named_setWalk (named_walkWrite ((named_walkPlaces hs).of_ok hu))
      · exact nomatch h

theorem named_placeCands {s : State} {o : Op} {x : Ctx} {w : Walk} {e : WEntry} {opens : Bool} {cut : Option Nat} {cs : List Cand}
    {f : Nat} (hs : BlocksNamed s) : BlocksNamed (placeCands s o x w e opens cut cs f) := by
  unfold placeCands
  split
  · exact named_pushCands hs (.inl ‹_›)
  · exact named_pushCands hs (.inr ‹_›)

theorem named_pushVisit {s : State} {o : Op} {x : Ctx} {b : Block} {w : Walk} {e : WEntry} {cut : Option Nat} {cs : List Cand}
    (hs : BlocksNamed s) : BlocksNamed (pushVisit s o x b w e cut cs) := by
  unfold pushVisit
  split
  · exact (named_readKind hs).of_error ‹_›
  · extract_lets +onlyGivenNames opens
    split
    · split
      · exact (named_walkRead ((named_readKind hs).of_ok ‹_›)).of_stop ‹_›
      · exact named_callRoutine ((named_walkRead ((named_readKind hs).of_ok ‹_›)).of_bytes ‹_›)
    · split
      · split
        · exact named_endWalk ((named_readKind hs).of_ok ‹_›)
        · split
          · exact (named_walkRead ((named_readKind hs).of_ok ‹_›)).of_stop ‹_›
          · split
            · exact named_endWalk ((named_walkRead ((named_readKind hs).of_ok ‹_›)).of_bytes ‹_›)
            · split
              · exact (named_walkAdd ((named_walkRead ((named_readKind hs).of_ok ‹_›)).of_bytes ‹_›)).of_error ‹_›
              · split
                · exact named_endWalk ((named_walkAdd ((named_walkRead ((named_readKind hs).of_ok ‹_›)).of_bytes ‹_›)).of_ok ‹_›)
                · exact named_setWalk ((named_walkAdd ((named_walkRead ((named_readKind hs).of_ok ‹_›)).of_bytes ‹_›)).of_ok ‹_›)
      · split
        · split
          · exact (named_walkAdd ((named_readKind hs).of_ok ‹_›)).of_error ‹_›
          · exact named_setWalk ((named_walkAdd ((named_readKind hs).of_ok ‹_›)).of_ok ‹_›)
        · exact named_placeCands ((named_readKind hs).of_ok ‹_›)

theorem named_writeFrame {s : State} {o : Op} {x : Ctx} {b : Block} {w : Walk} {e : WEntry} {cut : Option Nat} {cs : List Cand} {f : Nat}
    (hs : BlocksNamed s) : BlocksNamed (writeFrame s o x b w e cut cs f) := by
  unfold writeFrame
  split
  · exact (named_readKind hs).of_error ‹_›
  · split
    · exact (named_walkPlaces ((named_readKind hs).of_ok ‹_›)).of_error ‹_›
    · exact named_setWalk (named_walkWrite ((named_walkPlaces ((named_readKind hs).of_ok ‹_›)).of_ok ‹_›))

theorem named_closeFrame {s : State} {o : Op} {x : Ctx} {w : Walk} {f : Nat} (hs : BlocksNamed s) : BlocksNamed (closeFrame s o x w f) := by
  unfold closeFrame
  split
  · exact named_setWalk hs
  · split
    · exact (named_walkAdd hs).of_error ‹_›
    · exact named_setWalk ((named_walkAdd hs).of_ok ‹_›)

theorem named_callFrame {s : State} {o : Op} {x : Ctx} {b : Block} {w : Walk} {f : Nat} (hs : BlocksNamed s) :
    BlocksNamed (callFrame s o x b w f) := by
  unfold callFrame
  split
  · exact (named_walkRead (named_acquireAt hs)).of_stop ‹_›
  · extract_lets +onlyGivenNames v node leave dp
    split
    · exact (named_readKind ((named_walkRead (named_acquireAt hs)).of_bytes ‹_›)).of_error ‹_›
    · split
      · exact (named_walkRead ((named_readKind ((named_walkRead (named_acquireAt hs)).of_bytes ‹_›)).of_ok ‹_›)).of_stop ‹_›
      · exact named_callRoutine ((named_walkRead ((named_readKind ((named_walkRead (named_acquireAt hs)).of_bytes ‹_›)).of_ok ‹_›)).of_bytes
          ‹_›)

theorem named_restack {s : State} {o : Op} {x : Ctx} {w : Walk} {old st : List WEntry} (hs : BlocksNamed s) :
    NamedExc (restack s o x w old st) :=
  named_placeStack hs

theorem named_modCutLane {s : State} {op lane : Nat} {made : Bool} (hs : BlocksNamed s) : BlocksNamed (modCutLane s op lane made) :=
  named_modOp hs

theorem named_makeCut {s : State} {o : Op} {x : Ctx} {w : Walk} {cop lane : Nat} {more : List (Nat × Nat)} (hs : BlocksNamed s) :
    BlocksNamed (makeCut s o x w cop lane more) := by
  unfold makeCut
  extract_lets +onlyGivenNames drop
  have hdrop : ∀ (s : State), BlocksNamed s → BlocksNamed (drop s) := fun _ h => named_setWalk h
  split
  · exact hdrop _ hs
  · split
    · split
      · exact hdrop _ hs
      · split
        · exact hs
        · split
          · exact hdrop _ hs
          · split
            · exact (named_wholeStack hs).of_error ‹_›
            · extract_lets +onlyGivenNames p fits out image
              split
              · exact (named_engineSpans ((named_wholeStack hs).of_ok ‹_›)).of_held ‹_›
              · exact hdrop _ (named_modCutLane ((named_engineSpans ((named_wholeStack hs).of_ok ‹_›)).of_lost ‹_›))
              · split
                · exact (named_restack ((named_engineSpans ((named_wholeStack hs).of_ok ‹_›)).of_ok ‹_›)).of_error ‹_›
                · exact named_setWalk (named_modCutLane (named_walkWrite ((named_restack ((named_engineSpans ((named_wholeStack hs).of_ok
                    ‹_›)).of_ok ‹_›)).of_ok ‹_›)))
    · exact hdrop _ hs

theorem named_cutToGalley {s : State} {o : Op} {x : Ctx} {w : Walk} {e : WEntry} {opens : Bool} {level : Nat} {slot : Option Word}
    (hs : BlocksNamed s) : BlocksNamed (cutToGalley s o x w e opens level slot) := by
  unfold cutToGalley
  extract_lets +onlyGivenNames next skip
  have hskip : ∀ (s : State), BlocksNamed s → BlocksNamed (skip s) := fun _ h => named_setWalk h
  split
  · exact hskip _ hs
  · split
    · exact hskip _ hs
    · split
      · exact hskip _ hs
      · split
        · exact hskip _ (named_modGalley hs)
        · split
          · exact (named_wholeStack hs).of_error ‹_›
          · extract_lets +onlyGivenNames p n
            split
            · exact hskip _ ((named_wholeStack hs).of_ok ‹_›)
            · split
              · exact named_setWalk (named_modGalley ((named_wholeStack hs).of_ok ‹_›))
              · extract_lets +onlyGivenNames image image1
                split
                · exact (named_engineSpans ((named_wholeStack hs).of_ok ‹_›)).of_held ‹_›
                · exact hskip _ (named_modGalley ((named_engineSpans ((named_wholeStack hs).of_ok ‹_›)).of_lost ‹_›))
                · split
                  · exact (named_restack ((named_engineSpans ((named_wholeStack hs).of_ok ‹_›)).of_ok ‹_›)).of_error ‹_›
                  · extract_lets +onlyGivenNames v
                    have hv : BlocksNamed v := named_walkWrite ((named_restack ((named_engineSpans ((named_wholeStack hs).of_ok ‹_›)).of_ok
                      ‹_›)).of_ok ‹_›)
                    split
                    · exact named_setWalk hv
                    · exact named_setWalk (named_modGalley hv)

theorem named_startWalk {s : State} {o : Op} {x : Ctx} {w : Walk} {record : Option Nat} {restored : Bool} (hs : BlocksNamed s) :
    BlocksNamed (startWalk s o x w record restored) := by
  unfold startWalk
  extract_lets +onlyGivenNames query
  have hquery : ∀ (s : State) (w : Walk) (keepFrames : Bool) (next : State → Walk → State),
      (∀ t w, BlocksNamed t → BlocksNamed (next t w)) → BlocksNamed s → BlocksNamed (query s w keepFrames next) := by
    intro s w keepFrames next hnext h
    unfold query
    split
    · exact (named_walkRead h).of_stop ‹_›
    · extract_lets +onlyGivenNames c
      split
      · exact named_endWalk ((named_walkRead h).of_bytes ‹_›)
      · exact hnext _ _ ((named_walkRead h).of_bytes ‹_›)
  clear_value query
  split
  · exact hquery _ _ _ _ (fun _ _ h => named_setWalk h) hs
  · split
    · exact (named_walkRead hs).of_stop ‹_›
    next hd t ht =>
      replace ht : BlocksNamed t := (named_walkRead hs).of_bytes ht
      extract_lets +onlyGivenNames count
      split
      · exact named_endWalk ht
      · split
        · exact named_endWalk ht
        · split
          · exact named_endWalk ht
          · split
            · exact (named_walkRead ht).of_stop ‹_›
            · refine hquery _ _ _ _ (fun u w hu => ?_) ((named_walkRead ht).of_bytes ‹_›)
              split
              · exact (named_placeStack hu).of_error ‹_›
              · exact named_setWalk ((named_placeStack hu).of_ok ‹_›)

theorem named_boundaryStep {s : State} {o : Op} {x : Ctx} {b : Block} {w : Walk} (hs : BlocksNamed s) :
    BlocksNamed (boundaryStep s o x b w) := by
  unfold boundaryStep
  split
  · exact named_makeCut hs
  · exact named_endWalk hs
  · extract_lets +onlyGivenNames refill
    have hrefill : NamedExc refill := by
      unfold refill
      split
      · exact .ok hs
      · split
        · exact .error ((named_walkRead hs).of_stop ‹_›)
        · exact .ok ((named_walkRead hs).of_bytes ‹_›)
    clear_value refill
    split
    · exact hrefill.of_error rfl
    · split
      · exact (named_readKind (hrefill.of_ok rfl)).of_error ‹_›
      · split
        · exact named_endWalk ((named_readKind (hrefill.of_ok rfl)).of_ok ‹_›)
        · exact named_setWalk ((named_readKind (hrefill.of_ok rfl)).of_ok ‹_›)

theorem named_beginVisit {s : State} {o : Op} {x : Ctx} {b : Block} {w : Walk} {e : WEntry} (hs : BlocksNamed s) :
    BlocksNamed (beginVisit s o x b w e) := by
  unfold beginVisit
  split
  · exact (named_readKind hs).of_error ‹_›
  · split
    · exact named_setWalk ((named_readKind hs).of_ok ‹_›)
    · split
      · exact (named_walkRead ((named_readKind hs).of_ok ‹_›)).of_stop ‹_›
      · exact named_callRoutine ((named_walkRead ((named_readKind hs).of_ok ‹_›)).of_bytes ‹_›)

theorem named_walkStep {s : State} {o : Op} {x : Ctx} {b : Block} {w : Walk} (hs : BlocksNamed s) : BlocksNamed (walkStep s o x b w) := by
  unfold walkStep
  split
  · exact hs
  · split
    · exact named_startWalk hs
    · split
      · exact named_boundaryStep hs
      · exact hs
    · exact named_beginVisit hs
    · exact named_entered hs
    · exact hs
    · split
      · exact named_pruned hs
      · exact hs
    · exact named_pushVisit hs
    · exact named_writeFrame hs
    · exact named_placeCands hs
    · split
      · exact named_endWalk hs
      · exact named_setWalk hs
    · exact hs
    · exact named_cutToGalley hs
    · exact named_setWalk (named_modGalley hs)
    · exact named_closeFrame hs
    · exact named_callFrame hs
    · split
      · exact named_endWalk hs
      · exact named_setWalk hs
    · exact hs
    · exact named_finishWalks hs

theorem named_execWalkVisit {op lane : Nat} {s : State} (hs : BlocksNamed s) : NamedOut (execWalkVisit op lane s) := by
  unfold execWalkVisit
  refine .next ?_
  split
  · split
    · split
      · exact named_walkStep hs
      · exact hs
    · exact hs
  · exact hs

theorem named_failWalk {s : State} {o : Op} {w : Walk} {bad : DWord} (hs : BlocksNamed s) : BlocksNamed (failWalk s o w bad) := by
  unfold failWalk
  split
  · split
    · split
      · exact named_setWalk (named_modGalley hs)
      · exact named_endWalk hs
    · exact named_endWalk hs
  · exact named_endWalk hs

theorem named_landRefused {s : State} {op d : Nat} {ws : List Walk} (hs : BlocksNamed s) : BlocksNamed (landRefused s op d ws) := by
  unfold landRefused
  split
  · exact hs
  · exact named_landResults hs

theorem named_walkIssue {s : State} {i : Instr} {k d a : Nat} {resume : Bool} (hs : BlocksNamed s) :
    NamedOut (walkIssue s i k d a resume) := by
  unfold walkIssue
  extract_lets +onlyGivenNames srcs
  refine named_laneIssueIf hs fun _ => ?_
  extract_lets +onlyGivenNames m
  split
  · exact named_trapHere hs
  · split
    · exact named_done (named_modMine hs)
    · extract_lets +onlyGivenNames c ws
      refine named_charged hs (named_afterFences hs (named_done ?_))
      split
      · exact named_finishWalks (named_landRefused (named_forkOp hs))
      · exact named_landRefused (named_forkOp hs)

theorem named_askCuts {core block op : Nat} {s : State} {l : List CutLane} (hs : BlocksNamed s) :
    BlocksNamed (askCuts core block op s l) := by
  induction l generalizing s with
  | nil => exact hs
  | cons c r ih =>
    unfold askCuts
    extract_lets +onlyGivenNames walk
    clear_value walk
    refine ih ?_
    split
    · exact hs
    · exact named_modWalk hs

theorem named_execTvcut {k : KReg} {d a : VReg} {s : State} (hs : BlocksNamed s) : NamedOut (execTvcut k d a s) := by
  unfold execTvcut
  refine named_laneIssueIf hs fun _ => ?_
  extract_lets +onlyGivenNames m va x
  split
  · exact named_done (named_modMine hs)
  · split
    · exact named_trapHere hs
    · exact named_trapHere hs
    · exact named_trapHere hs
    · exact named_afterFences hs (named_done (named_askCuts (named_forkOp hs)))

theorem named_emptyCut {s : State} {o : Op} {x : Ctx} {l : CutLane} (hs : BlocksNamed s) : BlocksNamed (emptyCut s o x l) := by
  unfold emptyCut
  split
  · exact hs
  · split
    · exact (named_engineSpans hs).of_held ‹_›
    · exact named_modCutLane ((named_engineSpans hs).of_lost ‹_›)
    · exact named_modCutLane (named_same (named_walkWrite ((named_engineSpans hs).of_ok ‹_›)) rfl rfl)

theorem named_execTvcutComplete {op : Nat} {s : State} (hs : BlocksNamed s) : NamedOut (execTvcutComplete op s) := by
  unfold execTvcutComplete
  refine .next ?_
  split
  · split
    · extract_lets +onlyGivenNames asked
      split
      · exact named_emptyCut hs
      · split
        · exact hs
        · extract_lets +onlyGivenNames lost t
          have ht : BlocksNamed t := by
            unfold t
            clear_value lost
            split
            · exact hs
            · exact named_oweTrap hs
          exact named_completeOp ht
    · exact hs
  · exact hs

theorem named_execTvret {k : KReg} {a : VReg} {s : State} (hs : BlocksNamed s) : NamedOut (execTvret k a s) := by
  unfold execTvret
  refine named_laneIssueIf hs fun _ => ?_
  extract_lets +onlyGivenNames m
  split
  · exact named_done hs
  · extract_lets +onlyGivenNames reply ended t
    have ht : BlocksNamed t := by
      unfold t
      split
      · exact named_modMine hs
      · exact named_modMine (named_done hs)
    exact named_mirrorSpill (named_noteUni ht)

theorem named_execTvstat {k : KReg} {d a : VReg} {s : State} (hs : BlocksNamed s) : NamedOut (execTvstat k d a s) :=
  named_laneIssueIf hs fun _ => named_done (named_writeLanes hs)

theorem named_formService {s : State} {core : Nat} {b : Block} {routine : Nat} (hs : BlocksNamed s) :
    BlocksNamed (formService s core b routine) := by
  unfold formService
  split
  · extract_lets +onlyGivenNames mine y
    have hy : CoreNamed s.nextId y := named_core hs _
    clear_value mine
    split
    · exact hs
    · split
      · exact hs
      · extract_lets +onlyGivenNames live g g1 y1
        have hy1 : CoreNamed s.nextId y1 := coreNamed_upd hy rfl
        extract_lets +onlyGivenNames y2
        have hy2 : CoreNamed s.nextId y2 := by
          unfold y2
          refine coreNamed_foldl (fun _ _ h => ?_) hy1
          split
          · exact h
          · exact coreNamed_foldl (fun _ _ h1 => coreNamed_landV h1) h
        extract_lets +onlyGivenNames y3
        have hy3 : CoreNamed s.nextId y3 := by
          unfold y3
          refine coreNamed_modBlock (fun _ => ?_) hy2
          exact rfl
        exact named_noteSync (named_setCore hs hy3)
  · exact hs

theorem named_execServiceGroupForm {core block : Nat} {s : State} (hs : BlocksNamed s) : NamedOut (execServiceGroupForm core block s) := by
  unfold execServiceGroupForm
  refine .next ?_
  split
  · split
    · exact hs
    · extract_lets +onlyGivenNames many
      split
      · split
        · exact named_formService hs
        · exact hs
      · exact hs
  · exact hs

theorem named_execServiceGroupTimeout {core block : Nat} {s : State} (hs : BlocksNamed s) :
    NamedOut (execServiceGroupTimeout core block s) := by
  unfold execServiceGroupTimeout
  refine .next ?_
  split
  · split
    · split
      · exact named_formService hs
      · exact hs
    · exact hs
  · exact hs

theorem named_deliver {s : State} {c : Call} (hs : BlocksNamed s) : BlocksNamed (deliver s c) :=
  named_modWalk hs

theorem named_execRoutineReturn {core block : Nat} {s : State} (hs : BlocksNamed s) : NamedOut (execRoutineReturn core block s) := by
  unfold execRoutineReturn
  refine .next ?_
  split
  · split
    · split
      · exact hs
      · exact named_foldl (fun _ _ h => named_deliver h) (named_groupLeaves hs)
    · exact hs
  · exact hs

theorem named_abandonPut {s : State} {ls : List GalleyLane} (hs : BlocksNamed s) : BlocksNamed (abandonPut s ls) := by
  unfold abandonPut
  refine named_foldl (fun _ _ h => ?_) hs
  split
  · exact named_modGalley h
  · exact h

theorem named_abandonTake {s : State} {ls : List GalleyLane} (hs : BlocksNamed s) : BlocksNamed (abandonTake s ls) := by
  unfold abandonTake
  refine named_foldl (fun _ _ h => ?_) hs
  split
  · exact named_modGalley h
  · exact h

theorem named_abandonWalk {s : State} {w : Walk} (hs : BlocksNamed s) : BlocksNamed (abandonWalk s w) := by
  unfold abandonWalk
  split
  · exact named_modGalley hs
  · exact named_modGalley hs
  · exact hs

theorem named_abandonOp {s : State} {o : Op} (hs : BlocksNamed s) : BlocksNamed (abandonOp s o) := by
  unfold abandonOp
  extract_lets +onlyGivenNames detached
  have hdetached : ∀ (k : OpKind), BlocksNamed (detached k) := fun _ => named_modOp hs
  extract_lets +onlyGivenNames drop
  have hdrop : ∀ (s : State), BlocksNamed s → BlocksNamed (drop s) := fun _ h => named_dropOp h
  split
  · split
    · exact hdetached _
    · split
      · exact hdrop _ hs
      · exact hdetached _
  · extract_lets +onlyGivenNames sent
    split
    · exact hdrop _ hs
    · exact hdetached _
  · exact hdrop _ (named_abandonPut hs)
  · exact hdrop _ (named_abandonTake hs)
  · exact hdrop _ (named_foldl (fun _ _ h => named_abandonWalk h) hs)
  · exact hdrop _ hs

theorem named_deliverHeld {s : State} {c : Nat} {k : Block} (hs : BlocksNamed s) : BlocksNamed (deliverHeld s c k) :=
  named_foldl (fun _ _ h => named_foldl (fun _ _ h1 => named_deliverGrants h1) h) hs

theorem named_abandonBlock {s : State} {c : Nat} {k : Block} (hs : BlocksNamed s) : BlocksNamed (abandonBlock s c k) := by
  unfold abandonBlock
  extract_lets +onlyGivenNames gone s1
  have hs1 : BlocksNamed s1 := named_deliverHeld hs
  extract_lets +onlyGivenNames s2
  have hs2 : BlocksNamed s2 := named_foldl (fun _ _ h => named_abandonOp h) hs1
  extract_lets +onlyGivenNames own s3
  have hs3 : BlocksNamed s3 := named_modCtx hs2
  extract_lets +onlyGivenNames s4
  have hs4 : BlocksNamed s4 := named_modCore hs3 fun _ h => coreNamed_upd h rfl
  refine named_modBlock (fun _ => ?_) hs4
  exact rfl

theorem named_beginMode {s : State} {x : Ctx} {p : Nat × Block} (hs : BlocksNamed s) : BlocksNamed (beginMode s x p) := by
  unfold beginMode
  extract_lets +onlyGivenNames m s1
  have hs1 : BlocksNamed s1 := by
    unfold s1
    refine named_modBlock (fun _ => ?_) hs
    exact rfl
  extract_lets +onlyGivenNames s2
  have hs2 : BlocksNamed s2 := named_modCtx hs1
  split
  · exact named_abandonBlock hs2
  · exact hs2

theorem named_releaseReserved {s : State} {ctx : Nat} (hs : BlocksNamed s) : BlocksNamed (releaseReserved s ctx) := by
  unfold releaseReserved
  extract_lets +onlyGivenNames held
  refine named_foldl (fun _ _ h => ?_) hs
  extract_lets +onlyGivenNames s2 s3
  have hs3 : BlocksNamed s3 := by
    unfold s3
    split
    · exact h
    · exact named_modLaunch h
  exact named_dropBlock hs3

theorem named_vacateDone {s : State} {ctx : Nat} (hs : BlocksNamed s) : BlocksNamed (vacateDone s ctx) := by
  unfold vacateDone
  split
  · exact hs
  · split
    · exact hs
    · extract_lets +onlyGivenNames time late s1
      have hs1 : BlocksNamed s1 := named_modCtx (named_flushTrace hs)
      extract_lets +onlyGivenNames s2
      have hs2 : BlocksNamed s2 := by
        unfold s2
        split
        · exact named_postEvent hs1
        · exact hs1
      split
      · exact hs2
      · exact named_postEvent hs2

theorem named_endSaveOp {s : State} {k : Block} {bytes mode : Nat} (hs : BlocksNamed s) : BlocksNamed (endSaveOp s k bytes mode) := by
  unfold endSaveOp
  refine named_foldl (fun _ _ h => ?_) hs
  split
  · split
    · exact h
    · exact named_completeOp (named_landResultG h)
  · exact h

theorem named_retireTaken {s : State} {k : Block} (hs : BlocksNamed s) : BlocksNamed (retireTaken s k) :=
  named_foldl (fun _ _ h => named_retireRecords h) hs

theorem named_blockLeaves {s : State} {c : Nat} {k : Block} {saved : Option SavedBlock} {bytes mode : Nat} (hs : BlocksNamed s) :
    BlocksNamed (blockLeaves s c k saved bytes mode) := by
  unfold blockLeaves
  extract_lets +onlyGivenNames s1
  have hs1 : BlocksNamed s1 := by
    unfold s1
    split
    · exact hs
    · exact named_modCtx hs
  exact named_vacateDone (named_dropBlock (named_endSaveOp (named_settleTrace hs1)))

theorem named_detachSend {s : State} {o : Op} (hs : BlocksNamed s) : BlocksNamed (detachSend s o) := by
  unfold detachSend
  split
  · exact named_modGroup (named_modOp hs)
  · exact hs

theorem named_oweEnded {s : State} {o : Op} (hs : BlocksNamed s) : BlocksNamed (oweEnded s o) := by
  unfold oweEnded
  split
  · split
    · exact named_setOpKind (named_oweWalks hs)
    · exact hs
  · exact hs

theorem named_takeSaved {s : State} {c : Nat} {g : Group} {d : DueTrap} (hs : BlocksNamed s) : BlocksNamed (takeSaved s c g d) :=
  named_takeTrap (named_poisonEvent (named_modGroup hs))

theorem named_makeRoom {c slot n : Nat} {s : State} (hs : BlocksNamed s) : NamedSpill (makeRoom c slot n s) := by
  fun_induction makeRoom c slot n s
  · exact .ok hs
  · exact .ok hs
  · exact .ok hs
  · exact .ok hs
  · exact .overflow
  · rename_i ih
    exact ih (named_modGroup ((named_spillWrite hs).of_ok ‹_›))
  · exact .overflow
  · exact .faulted (named_spillTrap hs)
  · exact named_spillWrite hs

theorem named_makeRooms {c : Nat} {l : List Group} {s : State} (hs : BlocksNamed s) : NamedSpill (makeRooms c l s) := by
  fun_induction makeRooms c l s
  · exact .ok hs
  · rename_i ih
    exact ih ((named_makeRoom hs).of_ok ‹_›)
  · exact named_makeRoom hs

theorem named_writeImage {x : Ctx} {c : Nat} {k : Block} {s : State} {l : List (Nat × Nat)} {l1 : List (Byte × Bool)} (hs : BlocksNamed s) :
    NamedWritten (writeImage x c k s l l1) := by
  fun_induction writeImage x c k s l l1
  · exact .ok hs
  · exact .lost hs
  · rename_i ih
    exact ih (named_engineWrite (named_of_snd (named_placeSealed hs) ‹_›))
  · exact .lost (named_of_snd (named_placeSealed hs) ‹_›)
  · exact .held hs
  · exact .held (named_of_snd (named_postFault (named_of_snd (named_placeSealed hs) ‹_›)) ‹_›)

theorem named_saveFails {s : State} {c : Nat} {k : Block} (hs : BlocksNamed s) : BlocksNamed (saveFails s c k) := by
  unfold saveFails
  extract_lets +onlyGivenNames t u b
  have ht : BlocksNamed t := named_postEvent hs
  have hu : BlocksNamed u := named_retireTaken (named_releaseEnds (named_abandonBlock ht))
  exact named_blockLeaves hu

theorem named_saveStuck {s : State} {c : Nat} {k : Block} (hs : BlocksNamed s) : BlocksNamed (saveStuck s c k) := by
  unfold saveStuck
  refine named_postEvent (named_modBlock (fun _ => ?_) hs)
  exact rfl

theorem named_execBlockSave {core block : Nat} {s : State} (hs : BlocksNamed s) : NamedOut (execBlockSave core block s) := by
  unfold execBlockSave
  refine .next ?_
  split
  · exact hs
  · split
    · exact hs
    · split
      · exact hs
      · extract_lets +onlyGivenNames s1
        have hs1 : BlocksNamed s1 := named_foldl (fun _ _ h => named_detachSend (named_oweEnded h)) hs
        split
        · exact named_takeSaved hs1
        · extract_lets +onlyGivenNames gs s2
          have hs2 : BlocksNamed s2 := named_foldl (fun _ _ h => named_completeWrites h) hs1
          split
          · exact (named_makeRooms hs2).of_faulted ‹_›
          · exact named_saveStuck hs2
          · exact named_saveStuck hs2
          · extract_lets +onlyGivenNames image
            split
            · refine named_modBlock (fun _ => ?_) ((named_writeImage ((named_makeRooms hs2).of_ok ‹_›)).of_ok ‹_›)
              exact rfl
            · exact (named_writeImage ((named_makeRooms hs2).of_ok ‹_›)).of_held ‹_›
            · exact named_saveFails ((named_writeImage ((named_makeRooms hs2).of_ok ‹_›)).of_lost ‹_›)

theorem named_execBlockModeFinished {core block : Nat} {s : State} (hs : BlocksNamed s) :
    NamedOut (execBlockModeFinished core block s) := by
  unfold execBlockModeFinished
  refine .next ?_
  split
  · exact hs
  · split
    · split
      · exact hs
      · exact named_blockLeaves (named_retireTaken (named_releaseEnds hs))
    · split
      · exact hs
      · exact named_blockLeaves hs
    · split
      · exact hs
      · extract_lets +onlyGivenNames image
        split
        · exact (named_writeImage hs).of_held ‹_›
        · exact named_saveFails ((named_writeImage hs).of_lost ‹_›)
        · refine named_modBlock (fun _ => ?_) ((named_writeImage hs).of_ok ‹_›)
          exact rfl
    · exact hs

theorem named_saveBlock {s : State} {c : Nat} {k : Block} {op va : Nat} (hs : BlocksNamed s) : BlocksNamed (saveBlock s c k op va) := by
  unfold saveBlock
  extract_lets +onlyGivenNames fresh
  split
  · exact hs
  · extract_lets +onlyGivenNames s1
    have hs1 : BlocksNamed s1 := by
      unfold s1
      refine named_modBlock (fun _ => ?_) hs
      exact rfl
    split
    · exact hs1
    · exact named_foldl (fun _ _ h => named_beginMode h) hs1

theorem named_execCtxsave {d a b : GReg} {s : State} (hs : BlocksNamed s) : NamedOut (execCtxsave d a b s) := by
  unfold execCtxsave
  refine named_uniIssue hs fun _ => ?_
  extract_lets +onlyGivenNames va
  split
  · exact named_trapAll hs
  · split
    · exact named_trapAll hs
    · split
      · exact named_heldDone hs
      · exact named_afterFences hs (named_done (named_saveBlock (named_forkOp hs)))

theorem coreNamed_putRow {n : Nat} {x : Core} {row : Nat} {bs : List Byte} (hx : CoreNamed n x) : CoreNamed n (x.putRow row bs) := by
  unfold Core.putRow
  exact coreNamed_upd hx rfl

theorem named_addWalkOps {s : State} {core slot block ctx : Nat} {l : List (Nat × Nat × List Walk)} {n : Nat} (hs : BlocksNamed s) :
    BlocksNamed (addWalkOps s core slot block ctx l n) := by
  fun_induction addWalkOps s core slot block ctx l n
  · exact hs
  · rename_i ih
    exact ih (named_next hs rfl rfl)

theorem named_areaBytes {c : Nat} {x : Ctx} {va n : Nat} {s : State} (hs : BlocksNamed s) : BlocksNamed (areaBytes c x va n s).2 := by
  fun_induction areaBytes c x va n s
  · exact hs
  · rename_i ih
    refine ih ?_
    rename_i t _
    unfold t
    split
    · exact named_of_snd (named_readVa hs) ‹_›
    · exact hs

theorem named_readAreas {c : Nat} {x : Ctx} {l : List (Nat × Nat)} {s : State} (hs : BlocksNamed s) :
    BlocksNamed (readAreas c x l s).2 := by
  fun_induction readAreas c x l s
  · exact hs
  · rename_i ih
    exact ih (named_areaBytes hs)

theorem named_readImage {rd : State → Nat → Nat → EngineGot} {got : State → List (Page × Nat) → List (Byte × Bool)} {s : State} {c : Nat}
    {x : Ctx} {flushed : Bool} {r : Launch} {va : Nat} (hrd : ∀ (a : State) (a_1 a_2 : Nat), BlocksNamed a → NamedEngineGot (rd a a_1 a_2))
    (hs : BlocksNamed s) : NamedImageGot (readImage rd got s c x flushed r va) := by
  unfold readImage
  split
  · exact .held ((hrd _ _ _ hs).of_held ‹_›)
  · exact .lost ((hrd _ _ _ hs).of_lost ‹_›)
  · exact .ok (named_readAreas ((hrd _ _ _ hs).of_ok ‹_›))

theorem named_restoreGroup {s : State} {c : Nat} {x : Ctx} {k : Block} {arrived : List Nat} {img : List Byte} {areas : List (List Byte)}
    {trace : Nat} {e : Nat × Nat × Nat} {j : Nat} (hs : BlocksNamed s) :
    BlocksNamed (restoreGroup s c x k arrived img areas trace e j) := by
  unfold restoreGroup
  extract_lets +onlyGivenNames r z h ended walks batches role fresh g g1 rows s1
  have hs1 : BlocksNamed s1 := by
    unfold s1
    refine named_modCore hs fun _ h1 => ?_
    extract_lets +onlyGivenNames y
    have hy : CoreNamed s.nextId y := coreNamed_putRow h1
    extract_lets +onlyGivenNames y1
    have hy1 : CoreNamed s.nextId y1 := by
      unfold y1
      split
      · exact coreNamed_putRow hy
      · exact hy
    exact coreNamed_upd hy1 rfl
  exact named_addWalkOps hs1

theorem named_loadBlock {s : State} {c : Nat} {x : Ctx} {k : Block} {b : SavedBlock} {img : List (Byte × Bool)} {areas : List (List Byte)}
    (hs : BlocksNamed s) : BlocksNamed (loadBlock s c x k b img areas) := by
  unfold loadBlock
  extract_lets +onlyGivenNames r z bs s1
  have hs1 : BlocksNamed s1 := named_acquireAt hs
  extract_lets +onlyGivenNames y
  have hy : CoreNamed s1.nextId y := named_core hs1 _
  extract_lets +onlyGivenNames table rows y1
  have hy1 : CoreNamed s1.nextId y1 := coreNamed_foldl (fun _ _ h => coreNamed_freshRow h) hy
  extract_lets +onlyGivenNames y2
  have hy2 : CoreNamed s1.nextId y2 := coreNamed_freshScratch hy1
  extract_lets +onlyGivenNames y3
  have hy3 : CoreNamed s1.nextId y3 := coreNamed_upd hy2 rfl
  extract_lets +onlyGivenNames y4
  have hy4 : CoreNamed s1.nextId y4 := coreNamed_landBytes hy3
  extract_lets +onlyGivenNames acc platens y5
  have hy5 : CoreNamed s1.nextId y5 := by
    unfold y5
    split
    · exact coreNamed_upd hy4 rfl
    · exact hy4
  extract_lets +onlyGivenNames y6
  have hy6 : CoreNamed s1.nextId y6 := coreNamed_upd hy5 rfl
  extract_lets +onlyGivenNames y7
  have hy7 : CoreNamed s1.nextId y7 := coreNamed_setLeases hy6
  extract_lets +onlyGivenNames y8
  have hy8 : CoreNamed s1.nextId y8 := by
    unfold y8
    refine coreNamed_modBlock (fun _ => ?_) hy7
    exact rfl
  exact named_foldl (fun _ _ h => named_restoreGroup h) (named_setCore hs1 hy8)

theorem named_startLoaded {s : State} {c : Nat} {k : Block} (hs : BlocksNamed s) : BlocksNamed (startLoaded s c k) := by
  unfold startLoaded
  extract_lets +onlyGivenNames s1
  have hs1 : BlocksNamed s1 := by
    unfold s1
    refine named_modCtx (named_modBlock (fun _ => ?_) hs)
    exact rfl
  exact named_foldl (fun _ _ h => named_foldl (fun _ _ h1 => named_noteSync h1) h) hs1

theorem named_startRestored {s : State} {ps : List (Nat × Block)} (hs : BlocksNamed s) : BlocksNamed (startRestored s ps) := by
  unfold startRestored
  extract_lets +onlyGivenNames fresh s1
  have hs1 : BlocksNamed s1 := by
    unfold s1
    refine named_foldl (fun _ _ h => ?_) hs
    split
    · exact named_startLoaded h
    · exact named_startFresh h
  exact named_foldl (fun _ _ h => named_setExitBarrier h) hs1

theorem named_rejoinGalley {s : State} {c : Nat} {k : Block} (hs : BlocksNamed s) : BlocksNamed (rejoinGalley s c k) := by
  unfold rejoinGalley
  split
  · exact named_modGalley hs
  · exact hs

theorem named_restoreInto {s : State} {c id : Nat} {x : Ctx} {b : SavedBlock} {img : List (Byte × Bool)} {areas : List (List Byte)}
    (hs : BlocksNamed s) : BlocksNamed (restoreInto s c id x b img areas).2 := by
  unfold restoreInto
  split
  · exact hs
  · extract_lets +onlyGivenNames bs
    split
    · split
      · exact hs
      · split
        · exact hs
        · split
          · exact hs
          · extract_lets +onlyGivenNames s1
            have hs1 : BlocksNamed s1 := named_modCtx hs
            extract_lets +onlyGivenNames s2
            have hs2 : BlocksNamed s2 := hs1
            extract_lets +onlyGivenNames s3
            have hs3 : BlocksNamed s3 := by
              unfold s3
              refine named_rejoinGalley (named_modBlock (fun k => ?_) hs1)
              exact rfl
            extract_lets +onlyGivenNames members
            split
            · exact named_startRestored hs3
            · exact hs3
    · split
      · exact hs
      · split
        · exact hs
        · split
          · exact hs
          · extract_lets +onlyGivenNames s1
            have hs1 : BlocksNamed s1 := named_modCtx hs
            extract_lets +onlyGivenNames s2
            have hs2 : BlocksNamed s2 := named_loadBlock hs1
            extract_lets +onlyGivenNames s3
            have hs3 : BlocksNamed s3 := by
              unfold s3
              refine named_rejoinGalley (named_modBlock (fun _ => ?_) hs2)
              exact rfl
            extract_lets +onlyGivenNames members
            split
            · exact named_startRestored hs3
            · exact hs3

theorem named_reserveFor {s : State} {c : Nat} {x : Ctx} {r : Launch} {b : SavedBlock} {incarn spbase : Nat}
    {table : List (Nat × Nat × Nat)} {routine : Option (Nat × Nat)} {va : Nat} (hs : BlocksNamed s) :
    BlocksNamed (reserveFor s c x r b incarn spbase table routine va).2 := by
  unfold reserveFor
  extract_lets +onlyGivenNames n
  have hn : BlocksNamed n.2 := named_reserveBlock (named_moveHome hs)
  refine named_modBlock (fun _ => ?_) hn
  exact rfl

theorem named_reserveLoad {s : State} {c : Nat} {d : DRecord} {va : Nat} {o : FaultOwner} (hs : BlocksNamed s) :
    BlocksNamed (reserveLoad s c d va o).2.2 := by
  unfold reserveLoad
  split
  · exact named_of_snd (named_ctxForWork hs) ‹_›
  · split
    · split
      · exact named_of_snd (named_readLaunch (named_of_snd (named_ctxForWork hs) ‹_›)) ‹_›
      · split
        · exact named_of_snd (named_readLaunch (named_of_snd (named_ctxForWork hs) ‹_›)) ‹_›
        · split
          · exact named_of_snd (named_readLaunch (named_of_snd (named_ctxForWork hs) ‹_›)) ‹_›
          · split
            · exact named_of_snd (named_readLaunch (named_of_snd (named_ctxForWork hs) ‹_›)) ‹_›
            · extract_lets +onlyGivenNames n
              have hn : BlocksNamed n.2 := named_reserveFor (named_of_snd (named_readLaunch (named_of_snd (named_ctxForWork hs) ‹_›)) ‹_›)
              exact hn
    · exact named_postOrWait (named_of_snd (named_readLaunch (named_of_snd (named_ctxForWork hs) ‹_›)) ‹_›)
    · exact named_of_snd (named_readLaunch (named_of_snd (named_ctxForWork hs) ‹_›)) ‹_›

theorem named_execCtxload {d a b : GReg} {s : State} (hs : BlocksNamed s) : NamedOut (execCtxload d a b s) := by
  unfold execCtxload
  refine named_uniIssue hs fun _ => ?_
  extract_lets +onlyGivenNames at_ va
  refine named_checkedRecord hs ?_
  split
  · exact named_trapAll hs
  · split
    · exact named_trapAll hs
    · refine named_afterFences hs ?_
      extract_lets +onlyGivenNames owner go
      have hgo : ∀ (s : State) (status block : Nat), BlocksNamed s → BlocksNamed (go s status block) := fun _ _ _ h => named_done
        (named_forkOp h)
      split
      · exact hgo _ _ _ hs
      · split
        · exact named_holdIt hs
        · split
          · exact hgo _ _ _ (named_of_snd₂ (named_reserveLoad hs) ‹_›)
          · exact named_holdIt (named_of_snd₂ (named_reserveLoad hs) ‹_›)

theorem named_unreserve {s : State} {c id : Nat} (hs : BlocksNamed s) : BlocksNamed (unreserve s c id) :=
  named_modCore hs fun _ hx => coreNamed_filterBlocks hx rfl

theorem named_endLoadOp {s : State} {o : Op} {gd status : Nat} (hs : BlocksNamed s) : BlocksNamed (endLoadOp s o gd status) :=
  named_completeOp (named_landResultG hs)

theorem named_loadKind {s : State} {o : Op} {x : Ctx} {k : Block} {b : SavedBlock} {va : Nat} (hs : BlocksNamed s) :
    NamedLoadKind (loadKind s o x k b va) := by
  unfold loadKind
  split
  · exact .ok hs
  · split
    · exact .held ((named_engineSpans hs).of_held ‹_›)
    · exact .lost ((named_engineSpans hs).of_lost ‹_›)
    · exact .ok ((named_engineSpans hs).of_ok ‹_›)

theorem named_execCtxloadComplete {op : Nat} {s : State} (hs : BlocksNamed s) : NamedOut (execCtxloadComplete op s) := by
  unfold execCtxloadComplete
  refine .next ?_
  split
  · exact hs
  · split
    · extract_lets +onlyGivenNames fail
      have hfail : ∀ (s : State) (n : Nat), BlocksNamed s → BlocksNamed (fail s n) := fun _ _ h => named_endLoadOp (named_unreserve h)
      split
      · exact hfail _ _ hs
      · split
        · exact named_endLoadOp hs
        · split
          · exact hfail _ _ hs
          · split
            · exact hfail _ _ hs
            · split
              · exact hs
              · split
                · exact (named_loadKind hs).of_held ‹_›
                · exact hfail _ _ ((named_loadKind hs).of_lost ‹_›)
                · split
                  · exact (named_readImage (fun _ _ _ h => named_engineSpans h) ((named_loadKind hs).of_ok ‹_›)).of_held ‹_›
                  · exact hfail _ _ ((named_readImage (fun _ _ _ h => named_engineSpans h) ((named_loadKind hs).of_ok ‹_›)).of_lost ‹_›)
                  · split
                    · exact named_endLoadOp (named_of_snd (named_restoreInto ((named_readImage (fun _ _ _ h => named_engineSpans h)
                        ((named_loadKind hs).of_ok ‹_›)).of_ok ‹_›)) ‹_›)
                    · exact hfail _ _ ((named_readImage (fun _ _ _ h => named_engineSpans h) ((named_loadKind hs).of_ok ‹_›)).of_ok ‹_›)
    · exact hs

theorem named_agentSpans {x : Ctx} {c : Nat} {b : SavedBlock} {s : State} {va n : Nat} (hs : BlocksNamed s) :
    NamedEngineGot (agentSpans x c b s va n) := by
  unfold agentSpans
  split
  · exact .lost hs
  · split
    · exact .ok (named_of_snd (named_placeSealed hs) ‹_›)
    · exact .lost (named_of_snd (named_placeSealed hs) ‹_›)
    · exact .held (named_postHeld (named_of_snd (named_placeSealed hs) ‹_›))

theorem named_agentImage {s : State} {x : Ctx} {c : Nat} {b : SavedBlock} (hs : BlocksNamed s) : NamedImageGot (agentImage s x c b) :=
  named_readImage (fun _ _ _ h => named_agentSpans h) hs

theorem named_restoreOne {s : State} {ctx : Nat} {b : SavedBlock} {c : Nat} {p : Placement} (hs : BlocksNamed s) :
    NamedOpt (restoreOne s ctx b c p) := by
  unfold restoreOne
  split
  · exact .none
  · extract_lets +onlyGivenNames die
    split
    · exact .none
    · split
      · exact .none
      next y table routine hcarve =>
        extract_lets +onlyGivenNames incarn n
        have hn : BlocksNamed n.2 := named_reserveFor (named_setCore hs (coreNamed_agentCarve (named_core hs c) hcarve))
        split
        · split
          · exact .some (named_of_snd (named_restoreInto ((named_agentImage hn).of_ok ‹_›)) ‹_›)
          · exact .none
        · exact .none

theorem named_restoreAll {s : State} {ctx : Nat} {l : List (SavedBlock × Nat × Placement)} (hs : BlocksNamed s) :
    NamedOpt (restoreAll s ctx l) := by
  fun_induction restoreAll s ctx l
  · exact .some hs
  · exact .none
  · rename_i ih
    exact ih ((named_restoreOne hs).of_some ‹_›)

theorem named_restoreEach {ctx : Nat} {all : List (SavedBlock × Nat × Placement)} {s : State} {l : List (SavedBlock × Nat × Placement)}
    (hs : BlocksNamed s) : BlocksNamed (restoreEach ctx all s l) := by
  fun_induction restoreEach ctx all s l
  · exact hs
  · rename_i ih
    refine ih ?_
    rename_i t
    unfold t
    split
    · exact named_getD (named_restoreOne hs) hs
    · extract_lets +onlyGivenNames members
      split
      · extract_lets +onlyGivenNames need
        split
        · exact hs
        · exact named_getD (named_restoreAll hs) hs
      · exact hs

theorem named_writeErrcnt {s : State} {die : Nat} {v : DWord} (hs : BlocksNamed s) : BlocksNamed (writeErrcnt s die v) :=
  named_modDev hs

theorem named_execRegisterWrite {off : Nat} {v : BitVec 64} {s : State} (hs : BlocksNamed s) : NamedOut (execRegisterWrite off v s) := by
  unfold execRegisterWrite
  refine .next ?_
  extract_lets +onlyGivenNames free
  split
  · split
    · exact named_modDev hs
    · exact hs
  · split
    · exact named_modDev hs
    · exact hs
  · split
    · exact named_modDev hs
    · exact hs
  · split
    · exact named_modDev hs
    · exact hs
  · split
    · exact named_modDev hs
    · exact hs
  · exact named_modDev hs
  · split
    · exact named_modDev hs
    · exact hs
  · split
    · exact named_modDev hs
    · split
      · exact named_writeErrcnt hs
      · exact hs

theorem named_execFeatctlCommit {v : BitVec 64} {s : State} (hs : BlocksNamed s) : NamedOut (execFeatctlCommit v s) := by
  unfold execFeatctlCommit
  refine .next ?_
  split
  · exact hs
  · split
    · exact named_modDev hs
    · exact named_modDev hs

theorem named_execErrcntClear {die : Nat} {v : BitVec 64} {s : State} (hs : BlocksNamed s) : NamedOut (execErrcntClear die v s) :=
  .next (named_writeErrcnt hs)

theorem named_tookCommand {s : State} {ctx : Nat} (hs : BlocksNamed s) : BlocksNamed (tookCommand s ctx) :=
  named_modDev hs

theorem named_switchQueues {s : State} {ctx : Nat} {out : Bool} (hs : BlocksNamed s) : BlocksNamed (switchQueues s ctx out) :=
  named_same hs rfl rfl

theorem named_vacateCtx {s : State} {ctx : Nat} (hs : BlocksNamed s) : BlocksNamed (vacateCtx s ctx) := by
  unfold vacateCtx
  extract_lets +onlyGivenNames s1
  have hs1 : BlocksNamed s1 := named_flushTrace (named_releaseReserved (named_switchQueues hs))
  extract_lets +onlyGivenNames s2
  have hs2 : BlocksNamed s2 := named_modCtx hs1
  extract_lets +onlyGivenNames s3
  have hs3 : BlocksNamed s3 := by
    unfold s3
    refine named_foldl (fun _ _ h => ?_) hs2
    split
    · split
      · exact named_beginMode h
      · exact h
    · exact h
  exact named_vacateDone hs3

theorem named_refusedCommand {s : State} {ctx op : Nat} (hs : BlocksNamed s) : BlocksNamed (refusedCommand s ctx op) := by
  unfold refusedCommand
  extract_lets +onlyGivenNames x left
  split
  · exact named_postTo hs
  · split
    · exact hs
    · exact named_postTo hs

theorem named_execCtxcmdVacate {ctx : Nat} {s : State} (hs : BlocksNamed s) : NamedOut (execCtxcmdVacate ctx s) := by
  unfold execCtxcmdVacate
  refine .next ?_
  split
  · exact hs
  · split
    · exact named_refusedCommand (named_tookCommand (named_of_snd (named_ctxForWork hs) ‹_›))
    · split
      · exact hs
      · exact named_vacateCtx (named_tookCommand (named_of_snd (named_ctxForWork hs) ‹_›))

theorem named_readImages {ctx : Nat} {s : State} {l : List (SavedBlock × Nat)} (hs : BlocksNamed s) :
    BlocksNamed (readImages ctx s l).2 := by
  fun_induction readImages ctx s l
  · exact hs
  · exact hs
  · rename_i ih
    exact ih hs
  · rename_i ih
    exact ih ((named_agentImage hs).of_ok ‹_›)
  · exact (named_agentImage hs).of_held ‹_›
  · rename_i ih
    exact ih (named_modCtx ((named_agentImage hs).of_lost ‹_›))

theorem named_forgetLost {s : State} {ctx : Nat} (hs : BlocksNamed s) : BlocksNamed (forgetLost s ctx) :=
  named_modCtx hs

theorem named_resumeDone {s : State} {ctx : Nat} (hs : BlocksNamed s) : BlocksNamed (resumeDone s ctx) := by
  unfold resumeDone
  split
  · exact hs
  · exact named_modCtx (named_forgetLost (named_switchQueues (named_postEvent hs)))

theorem named_resumeCtx {s : State} {ctx : Nat} {x : Ctx} {ps : List (Nat × Nat × Placement)} (hs : BlocksNamed s) :
    BlocksNamed (resumeCtx s ctx x ps) := by
  unfold resumeCtx
  split
  · exact named_of_snd (named_readImages hs) ‹_›
  · exact named_resumeDone (named_restoreEach (named_of_snd (named_readImages hs) ‹_›))

theorem named_execCtxcmdResume {ctx : Nat} {ps : List (Nat × Nat × Placement)} {s : State} (hs : BlocksNamed s) :
    NamedOut (execCtxcmdResume ctx ps s) := by
  unfold execCtxcmdResume
  refine .next ?_
  split
  · exact hs
  · split
    · split
      · exact hs
      · split
        · split
          · exact hs
          · exact named_resumeCtx hs
        · split
          · exact named_refusedCommand (named_tookCommand (named_of_snd (named_ctxForWork hs) ‹_›))
          · exact named_resumeCtx (named_modCtx (named_tookCommand (named_of_snd (named_ctxForWork hs) ‹_›)))
    · split
      · exact named_refusedCommand (named_tookCommand (named_of_snd (named_ctxForWork hs) ‹_›))
      · exact named_resumeDone (named_tookCommand (named_of_snd (named_ctxForWork hs) ‹_›))

theorem named_endBlock {s : State} {c : Nat} {k : Block} (hs : BlocksNamed s) : BlocksNamed (endBlock s c k) :=
  named_dropBlock (named_retireTaken (named_releaseEnds (named_endSaveOp (named_abandonBlock (named_settleTrace hs)))))

theorem named_finishPiece {q : Nat} {path : List Nat} {n : Nat} {s : State} (hs : BlocksNamed s) :
    BlocksNamed (finishPiece q path n s) := by
  fun_induction finishPiece q path n s
  · exact hs
  · exact hs
  · exact hs
  · rename_i ih
    exact ih (named_packetStep hs)

theorem named_finishPieces {s : State} {ctx : Nat} (hs : BlocksNamed s) : BlocksNamed (finishPieces s ctx) :=
  named_foldl (fun _ _ h => named_finishPiece h) hs

theorem named_endCtx {s : State} {ctx : Nat} (hs : BlocksNamed s) : BlocksNamed (endCtx s ctx) := by
  unfold endCtx
  extract_lets +onlyGivenNames s1
  have hs1 : BlocksNamed s1 := named_finishPieces hs
  extract_lets +onlyGivenNames mine s2
  have hs2 : BlocksNamed s2 := named_foldl (fun _ _ h => named_endBlock h) hs1
  exact named_same (named_foldl (fun _ _ h => named_poke h) hs2) rfl rfl

theorem named_forgetCtx {s : State} {ctx : Nat} (hs : BlocksNamed s) : BlocksNamed (forgetCtx s ctx) :=
  named_modCtx hs

theorem named_execCtxcmdEnd {ctx : Nat} {s : State} (hs : BlocksNamed s) : NamedOut (execCtxcmdEnd ctx s) := by
  unfold execCtxcmdEnd
  refine .next ?_
  split
  · exact hs
  · split
    · exact named_forgetCtx (named_refusedCommand (named_endCtx (named_tookCommand (named_of_snd (named_ctxForWork hs) ‹_›))))
    · extract_lets +onlyGivenNames stuck
      split
      · exact hs
      · exact named_forgetCtx (named_postEvent (named_endCtx (named_tookCommand (named_of_snd (named_ctxForWork hs) ‹_›))))

theorem named_takePartition {s : State} {p : Partition} (hs : BlocksNamed s) : BlocksNamed (takePartition s p) :=
  named_modDev hs

theorem named_partitionEvent {s : State} {code func : Nat} (hs : BlocksNamed s) : BlocksNamed (partitionEvent s code func) :=
  named_postPf hs

theorem named_restoreSomewhere {ctx : Nat} {s : State} {l : List SavedBlock} (hs : BlocksNamed s) : NamedOpt (restoreSomewhere ctx s l) := by
  induction l generalizing s with
  | nil => exact .some hs
  | cons b r ih =>
    unfold restoreSomewhere
    refine named_findSome (fun c => ?_) _
    have h := named_restoreOne (ctx := ctx) (b := b) (c := c) (p := autoPlace s c b.rec_) hs
    cases e : restoreOne s ctx b c (autoPlace s c b.rec_) with
    | none => exact .none
    | some t => exact ih (h.of_some e)

theorem named_restoreAuto {s : State} {ctx : Nat} {all : List SavedBlock} {b : SavedBlock} (hs : BlocksNamed s) :
    NamedOpt (restoreAuto s ctx all b) := by
  unfold restoreAuto
  split
  · exact named_restoreSomewhere hs
  · extract_lets +onlyGivenNames members
    split
    · exact named_restoreSomewhere hs
    · exact .none

theorem named_restoreCtx {s : State} {ctx : Nat} (hs : BlocksNamed s) : BlocksNamed (restoreCtx s ctx).2 := by
  unfold restoreCtx
  split
  · exact named_modCtx (named_foldl (fun _ _ h => named_postEvent h) (named_of_snd (named_ctxForWork hs) ‹_›))
  · split
    · exact named_of_snd (named_ctxForWork hs) ‹_›
    · split
      · exact named_of_snd (named_readImages (named_of_snd (named_ctxForWork hs) ‹_›)) ‹_›
      · extract_lets +onlyGivenNames saved u
        have hu : BlocksNamed u := named_foldl (fun _ _ h => named_getD (named_restoreAuto h) h) (named_of_snd (named_readImages
          (named_of_snd (named_ctxForWork hs) ‹_›)) ‹_›)
        exact named_switchQueues (named_modCtx (named_forgetLost (named_foldl (fun _ _ h => named_postEvent h) hu)))

theorem named_restoreCtxs {l : List Nat} {s : State} (hs : BlocksNamed s) : BlocksNamed (restoreCtxs l s).2 := by
  fun_induction restoreCtxs l s
  · exact hs
  · rename_i ih
    exact ih (named_of_snd (named_restoreCtx hs) ‹_›)
  · exact named_of_snd (named_restoreCtx hs) ‹_›

theorem named_partitionDone {s : State} {p : Partition} (hs : BlocksNamed s) : BlocksNamed (partitionDone s p) := by
  unfold partitionDone
  split
  · exact named_of_snd (named_restoreCtxs hs) ‹_›
  next t ht =>
    replace ht : BlocksNamed t := named_of_snd (named_restoreCtxs hs) ht
    exact named_partitionEvent (named_modDev (named_same ht rfl rfl))

theorem named_partitionGoes {s : State} {p : Partition} (hs : BlocksNamed s) : BlocksNamed (partitionGoes s p) := by
  unfold partitionGoes
  extract_lets +onlyGivenNames s1
  have hs1 : BlocksNamed s1 := by
    unfold s1
    refine named_foldl (fun _ _ h => ?_) hs
    split
    · split
      · exact h
      · exact named_vacateCtx (named_modCtx h)
    · exact h
  split
  · exact hs1
  · exact named_partitionDone hs1

theorem named_execPartcmdApply {func : Nat} {s : State} (hs : BlocksNamed s) : NamedOut (execPartcmdApply func s) := by
  unfold execPartcmdApply
  refine .next ?_
  split
  · exact named_partitionGoes hs
  · extract_lets +onlyGivenNames s1
    have hs1 : BlocksNamed s1 := named_modDev hs
    split
    · exact named_partitionEvent hs1
    · split
      · exact named_partitionEvent hs1
      · split
        · exact named_partitionEvent hs1
        · exact named_partitionGoes (named_modDev (named_takePartition hs1))

theorem named_debugCommand {s : State} {v : DWord} {go : State → Ctx → State} (hs : BlocksNamed s)
    (hgo : ∀ (a : State) (a_1 : Ctx), BlocksNamed a → BlocksNamed (go a a_1)) : BlocksNamed (debugCommand s v go) := by
  unfold debugCommand
  extract_lets +onlyGivenNames s1
  have hs1 : BlocksNamed s1 := named_modDev hs
  split
  · split
    · exact hgo _ _ hs1
    · exact hs1
  · extract_lets +onlyGivenNames x
    split
    · exact hgo _ _ (named_same hs1 rfl rfl)
    · exact hs1

theorem named_debugChange {v : DWord} {f : Ctx → Ctx} {s : State} (hs : BlocksNamed s) : NamedOut (debugChange v f s) :=
  .next (named_debugCommand hs (fun _ _ h => named_modCtx h))

theorem named_debugStep {v : DWord} {s : State} (hs : BlocksNamed s) : BlocksNamed (debugStep v s) := by
  unfold debugStep
  refine named_debugCommand hs fun _ _ h => ?_
  split
  · exact h
  · split
    · exact named_modCtx h
    · exact named_postEvent (named_same h rfl rfl)

theorem named_execDbgcmdStep {ctx core slot split : Nat} {s : State} (hs : BlocksNamed s) :
    NamedOut (execDbgcmdStep ctx core slot split s) :=
  .next (named_debugStep hs)

theorem named_tcopyIssue {s : State} {i : Instr} {k d a : Nat} {quant : Bool} (hs : BlocksNamed s) :
    NamedOut (tcopyIssue s i k d a quant) := by
  unfold tcopyIssue
  refine named_laneIssue hs fun _ => ?_
  extract_lets +onlyGivenNames m
  split
  · exact named_done (named_modMine hs)
  · extract_lets +onlyGivenNames l va declared lane
    split
    · exact named_trapHere hs
    · split
      · exact named_trapHere hs
      · split
        · exact named_trapHere hs
        · extract_lets +onlyGivenNames cls c copy
          refine named_charged hs (named_afterFences hs (named_done ?_))
          split
          · exact named_modMine (named_forkOp hs)
          · exact named_forkOp hs

theorem named_execTcopy {k : KReg} {d a : VReg} {s : State} (hs : BlocksNamed s) : NamedOut (execTcopy k d a s) :=
  named_tcopyIssue hs

theorem named_startCopy {s : State} {o : Op} {x : Ctx} {c : Copy} (hs : BlocksNamed s) : BlocksNamed (startCopy s o x c) := by
  unfold startCopy
  split
  · exact named_setOpKind ((named_partSpans hs).of_held ‹_›)
  · exact named_setOpKind ((named_partSpans hs).of_lost ‹_›)
  · split
    · exact named_setOpKind ((named_partSpans hs).of_ok ‹_›)
    · exact named_setOpKind (named_sealSpans ((named_partSpans hs).of_ok ‹_›))

theorem named_copyRead {s : State} {o : Op} {x : Ctx} {c : Copy} {va n : Nat} (hs : BlocksNamed s) :
    NamedCopyRead (copyRead s o x c va n) := by
  unfold copyRead
  split
  · exact .held ((named_partSpans hs).of_held ‹_›)
  · exact .ends ((named_partSpans hs).of_lost ‹_›)
  · split
    · exact .ends ((named_partSpans hs).of_ok ‹_›)
    · exact .bytes (named_sealSpans ((named_partSpans hs).of_ok ‹_›))

theorem named_readScale {s : State} {o : Op} {x : Ctx} {c : Copy} {l : Layout} {u : Nat} {cs : List Int} (hs : BlocksNamed s) :
    NamedCopyRead (readScale s o x c l u cs).1 := by
  unfold readScale
  extract_lets +onlyGivenNames j va vs
  split
  · extract_lets +onlyGivenNames c1 v
    split
    · exact .ends ((named_copyRead hs).of_bytes ‹_›)
    · split
      · exact .bytes ((named_copyRead ((named_copyRead hs).of_bytes ‹_›)).of_bytes ‹_›)
      · exact named_copyRead ((named_copyRead hs).of_bytes ‹_›)
  · exact named_copyRead hs

theorem named_loadCode {s : State} {o : Op} {x : Ctx} {c : Copy} {l : Layout} {b : Nat} (hs : BlocksNamed s) :
    NamedCopyRead (loadCode s o x c l b).1 := by
  unfold loadCode
  extract_lets +onlyGivenNames cs u
  split
  · exact .bytes hs
  · extract_lets +onlyGivenNames go
    have hgo : ∀ t c, BlocksNamed t → NamedCopyRead (go t c).1 := by
      intro t c h
      unfold go
      split
      · exact .bytes ((named_copyRead h).of_bytes ‹_›)
      · exact named_copyRead h
    clear_value go
    split
    · exact hgo _ _ hs
    · split
      next ht => exact hgo _ _ ((named_readScale hs).of_bytes (congrArg Prod.fst ht))
      · exact named_readScale hs

theorem named_loadUnit {s : State} {o : Op} {x : Ctx} {c : Copy} {l : Layout} {u : Nat} (hs : BlocksNamed s) :
    NamedCopyRead (loadUnit s o x c l u).1 := by
  unfold loadUnit
  split
  · split
    next lo t c ht =>
      replace ht : BlocksNamed t := (named_loadCode hs).of_bytes (congrArg Prod.fst ht)
      split
      next hu => exact .bytes ((named_loadCode ht).of_bytes (congrArg Prod.fst hu))
      · exact named_loadCode ht
    · exact named_loadCode hs
  · extract_lets +onlyGivenNames cs
    split
    · exact .bytes hs
    · extract_lets +onlyGivenNames va
      split
      · exact .bytes ((named_copyRead hs).of_bytes ‹_›)
      · exact named_copyRead hs

theorem named_loadAccess {s : State} {o : Op} {x : Ctx} {c : Copy} {l : Layout} {u : Nat} (hs : BlocksNamed s) :
    BlocksNamed (loadAccess s o x c l u) := by
  have h := named_loadUnit (o := o) (x := x) (c := c) (l := l) (u := u) hs
  unfold loadAccess
  split
  next ht => exact named_setOpKind (h.of_held (congrArg Prod.fst ht))
  next ht => exact named_setOpKind (h.of_ends (congrArg Prod.fst ht))
  next ht => exact named_setOpKind (h.of_bytes (congrArg Prod.fst ht))

theorem named_storePlaces {s : State} {o : Op} {x : Ctx} {c : Copy} {l : Layout} {u : Nat} (hs : BlocksNamed s) :
    NamedExc (storePlaces s o x c l u) := by
  unfold storePlaces
  split
  · exact .error (named_setOpKind ((named_partSpans hs).of_held ‹_›))
  · exact .error (named_setOpKind ((named_partSpans hs).of_lost ‹_›))
  · split
    · exact .error (named_setOpKind ((named_partSpans hs).of_ok ‹_›))
    · exact .ok ((named_partSpans hs).of_ok ‹_›)

theorem named_storeAccess {s : State} {o : Op} {x : Ctx} {c : Copy} {l : Layout} {u : Nat} (hs : BlocksNamed s) :
    BlocksNamed (storeAccess s o x c l u) := by
  unfold storeAccess
  split
  · exact named_setOpKind hs
  · split
    · exact (named_storePlaces hs).of_error ‹_›
    · split
      · exact named_setOpKind (named_of_snd (named_sealPages ((named_storePlaces hs).of_ok ‹_›)) ‹_›)
      · exact named_setOpKind (named_of_snd (named_sealPages ((named_storePlaces hs).of_ok ‹_›)) ‹_›)

theorem named_copyAccess {s : State} {o : Op} {c : Copy} {n : Nat} (hs : BlocksNamed s) : BlocksNamed (copyAccess s o c n) := by
  unfold copyAccess
  split
  · exact hs
  · split
    · exact hs
    · split
      · split
        · exact hs
        · exact named_startCopy hs
      · extract_lets +onlyGivenNames u
        split
        · exact hs
        · split
          · exact named_storeAccess hs
          · exact named_loadAccess hs

theorem named_creditCopy {s : State} {o : Op} {l : Layout} {u n : Nat} (hs : BlocksNamed s) : BlocksNamed (creditCopy s o l u n) := by
  unfold creditCopy
  split
  · exact named_creditBytes hs
  · exact hs

theorem named_landLoad {s : State} {o : Op} {c : Copy} {l : Layout} (hs : BlocksNamed s) : BlocksNamed (landLoad s o c l) := by
  unfold landLoad
  extract_lets +onlyGivenNames edge n
  split
  · exact hs
  · exact named_creditCopy (named_setOpKind (named_landAt hs))

theorem named_landStore {s : State} {o : Op} {x : Ctx} {c : Copy} {l : Layout} (hs : BlocksNamed s) :
    BlocksNamed (landStore s o x c l) := by
  unfold landStore
  extract_lets +onlyGivenNames us
  split
  · split
    · exact hs
    · exact named_creditCopy (named_setOpKind hs)
  · split
    · exact hs
    · extract_lets +onlyGivenNames ps bs repl
      split
      · exact named_setOpKind hs
      · extract_lets +onlyGivenNames t
        have ht : BlocksNamed t := named_passViews (named_engineWrite (named_same hs rfl rfl))
        extract_lets +onlyGivenNames t1
        have ht1 : BlocksNamed t1 := named_setOpKind ht
        split
        · exact ht1
        · exact named_creditCopy ht1

theorem named_execTceLanding {op : Nat} {s : State} (hs : BlocksNamed s) : NamedOut (execTceLanding op s) := by
  unfold execTceLanding
  refine .next ?_
  split
  · split
    · split
      · split
        · exact hs
        · split
          · exact named_landStore hs
          · exact named_landLoad hs
      · exact hs
    · exact hs
  · exact hs

theorem named_copyTrap {s : State} {o : Op} {c : Copy} (hs : BlocksNamed s) : BlocksNamed (copyTrap s o c) := by
  unfold copyTrap
  extract_lets +onlyGivenNames base object
  split
  · exact named_oweTrap hs
  · exact named_oweTrap hs
  · exact named_oweTrap hs
  · exact named_oweTrap hs
  · exact hs

theorem named_execTcopyComplete {op : Nat} {s : State} (hs : BlocksNamed s) : NamedOut (execTcopyComplete op s) := by
  unfold execTcopyComplete
  refine .next ?_
  split
  · split
    · split
      · exact hs
      · exact named_completeOp (named_copyTrap (named_landResults hs))
    · exact hs
  · exact hs

theorem named_failCopy {s : State} {o : Op} {c : Copy} {bad : DWord} (hs : BlocksNamed s) : BlocksNamed (failCopy s o c bad) :=
  named_setOpKind hs

theorem named_execFbulk {d : GReg} {a : Fin 16} {s : State} (hs : BlocksNamed s) : NamedOut (execFbulk d a s) := by
  unfold execFbulk
  extract_lets +onlyGivenNames g legal
  refine named_uniIssueIf hs fun _ => ?_
  extract_lets +onlyGivenNames bytes loc kind op remote align go go1 go2
  have hgo2 : BlocksNamed go2 := named_charged hs (named_afterFences hs (named_done (named_forkOp hs)))
  split
  · exact named_trapAll hs
  · refine named_checkedLocal hs ?_
    split
    · exact named_trapAll hs
    · split
      · exact named_trapAll hs
      · exact hgo2

theorem named_modMessage {s : State} {op n : Nat} {f : Message → Message} (hs : BlocksNamed s) : BlocksNamed (modMessage s op n f) :=
  named_modOp hs

theorem named_countNonce {s : State} {o : Op} {b : Bulk} {port : Nat} (hs : BlocksNamed s) : BlocksNamed (countNonce s o b port) := by
  unfold countNonce
  split
  · exact hs
  · split
    · exact named_modDev hs
    · exact named_modOp (named_modDev hs)

theorem named_bulkTrip {s : State} {o : Op} {b : Bulk} {port : Nat} (hs : BlocksNamed s) : BlocksNamed (bulkTrip s o b port).2 := by
  unfold bulkTrip
  split
  · exact named_authEvent hs
  · split
    · exact named_of_snd (named_coin (named_countNonce hs)) ‹_›
    · exact named_authEvent (named_of_snd (named_coin (named_countNonce hs)) ‹_›)

theorem named_bulkTrips {o : Op} {b : Bulk} {s : State} {l : List Nat} (hs : BlocksNamed s) : BlocksNamed (bulkTrips o b s l).2 := by
  fun_induction bulkTrips o b s l
  · exact hs
  · rename_i ih
    exact ih (named_of_snd (named_bulkTrip hs) ‹_›)
  · exact named_of_snd (named_bulkTrip hs) ‹_›

theorem named_atticSpans {o : Op} {x : Ctx} {b : Bulk} {n kind : Nat} {need : Need} {s : State} {l : List (Nat × Nat)} (hs : BlocksNamed s)
    : NamedExc (atticSpans o x b n kind need s l) := by
  fun_induction atticSpans o x b n kind need s l
  · exact .ok hs
  · exact .error ((named_partSpans hs).of_held ‹_›)
  · exact .error (named_modMessage ((named_partSpans hs).of_lost ‹_›))
  · exact .error (named_modMessage ((named_partSpans hs).of_ok ‹_›))
  · rename_i ih
    exact .ok ((ih ((named_partSpans hs).of_ok ‹_›)).of_ok ‹_›)
  · rename_i ih
    exact .error ((ih ((named_partSpans hs).of_ok ‹_›)).of_error ‹_›)

theorem named_atticPlaces {s : State} {o : Op} {x : Ctx} {b : Bulk} {n : Nat} {m : Message} {need : Need} (hs : BlocksNamed s) :
    NamedExc (atticPlaces s o x b n m need) :=
  named_atticSpans hs

theorem named_bulkAccess {s : State} {o : Op} {b : Bulk} {n : Nat} (hs : BlocksNamed s) : BlocksNamed (bulkAccess s o b n) := by
  unfold bulkAccess
  split
  · split
    · exact hs
    · extract_lets +onlyGivenNames local_
      split
      · extract_lets +onlyGivenNames port
        refine named_modMessage ?_
        split
        · exact named_authEvent hs
        · exact hs
      · split
        · split
          · exact (named_atticPlaces hs).of_error ‹_›
          · split
            · exact named_modMessage (named_of_snd (named_bulkTrips ((named_atticPlaces hs).of_ok ‹_›)) ‹_›)
            · exact named_modMessage (named_of_snd (named_bulkTrips ((named_atticPlaces hs).of_ok ‹_›)) ‹_›)
        · exact named_modMessage hs
  · exact hs

theorem named_landGet {s : State} {o : Op} {b : Bulk} {n : Nat} {m : Message} {bs : List (Byte × Bool)} (hs : BlocksNamed s) :
    BlocksNamed (landGet s o b n m bs) := by
  unfold landGet
  extract_lets +onlyGivenNames base s1
  have hs1 : BlocksNamed s1 := named_landAt hs
  extract_lets +onlyGivenNames s2
  have hs2 : BlocksNamed s2 := named_modMessage hs1
  split
  · exact named_creditBytes hs2
  · exact hs2

theorem named_landAttic {s : State} {o : Op} {x : Ctx} {b : Bulk} {n : Nat} {m : Message} {bs : List (Byte × Bool)} (hs : BlocksNamed s) :
    BlocksNamed (landAttic s o x b n m bs) := by
  unfold landAttic
  split
  · exact (named_atticPlaces hs).of_error ‹_›
  · split
    · exact named_modMessage (named_of_snd (named_bulkTrips ((named_atticPlaces hs).of_ok ‹_›)) ‹_›)
    · extract_lets +onlyGivenNames src
      split
      · split
        · exact named_modMessage (named_of_snd (named_bulkTrips ((named_atticPlaces hs).of_ok ‹_›)) ‹_›)
        · extract_lets +onlyGivenNames old
          exact named_modMessage (named_passViews (named_engineWrite (named_of_snd (named_bulkTrips ((named_atticPlaces hs).of_ok ‹_›))
            ‹_›)))
      · exact named_modMessage (named_passViews (named_engineWrite (named_of_snd (named_bulkTrips ((named_atticPlaces hs).of_ok ‹_›)) ‹_›)))

theorem named_landRemote {s : State} {o : Op} {b : Bulk} {n : Nat} {bs : List (Byte × Bool)} (hs : BlocksNamed s) :
    BlocksNamed (landRemote s o b n bs) := by
  unfold landRemote
  split
  · exact named_modMessage hs
  · split
    · exact named_modMessage (named_of_snd (named_bulkTrip hs) ‹_›)
    · extract_lets +onlyGivenNames refused
      have hrefused : BlocksNamed refused.2 := named_coin (named_of_snd (named_bulkTrip hs) ‹_›)
      extract_lets +onlyGivenNames other
      have hother : BlocksNamed other.2 := named_coin hrefused
      split
      · exact named_modMessage hother
      · exact named_modMessage hother

theorem named_execFbulkLanding {op n : Nat} {s : State} (hs : BlocksNamed s) : NamedOut (execFbulkLanding op n s) := by
  unfold execFbulkLanding
  refine .next ?_
  split
  · split
    · split
      · split
        · split
          · exact hs
          · split
            · split
              · exact named_landGet hs
              · exact named_landAttic hs
            · exact named_landRemote hs
        · exact hs
      · exact hs
    · exact hs
  · exact hs

theorem named_failBulk {s : State} {o : Op} {n : Nat} {bad : DWord} (hs : BlocksNamed s) : BlocksNamed (failBulk s o n bad) :=
  named_modMessage hs

theorem named_execFbulkComplete {op : Nat} {s : State} (hs : BlocksNamed s) : NamedOut (execFbulkComplete op s) := by
  unfold execFbulkComplete
  refine .next ?_
  split
  · split
    · split
      · exact hs
      · extract_lets +onlyGivenNames moved first code bad t
        have ht : BlocksNamed t := named_landResultG hs
        extract_lets +onlyGivenNames t1
        have ht1 : BlocksNamed t1 := by
          unfold t1
          clear_value code
          split
          · exact named_oweTrap ht
          · exact named_oweTrap ht
          · exact ht
        exact named_completeOp ht1
    · exact hs
  · exact hs

theorem named_execBranchBlocked {op : Nat} {s : State} (hs : BlocksNamed s) : NamedOut (execBranchBlocked op s) := by
  unfold execBranchBlocked
  refine .next ?_
  split
  · split
    · split
      · split
        · exact named_modMessage (named_postEvent hs)
        · exact hs
      · exact hs
    · exact hs
  · exact hs

theorem named_execFabricMessageReceive {m : FabricMessage} {s : State} (hs : BlocksNamed s) : NamedOut (execFabricMessageReceive m s) := by
  unfold execFabricMessageReceive
  refine .next ?_
  split
  · exact hs
  · split
    · exact named_authEvent hs
    · exact named_authEvent hs
    · split
      · split
        · exact hs
        · extract_lets +onlyGivenNames c fits
          split
          · exact hs
          · extract_lets +onlyGivenNames t
            have ht : BlocksNamed t := named_landAt hs
            split
            · exact named_queueUpdate ht
            · exact ht
      · split
        · exact hs
        · extract_lets +onlyGivenNames c fits
          split
          · exact hs
          · extract_lets +onlyGivenNames t
            have ht : BlocksNamed t := named_landAt hs
            split
            · exact named_queueUpdate ht
            · exact ht

theorem named_setLink {s : State} {port link : Nat} (hs : BlocksNamed s) : BlocksNamed (setLink s port link) :=
  named_modDev hs

theorem named_failPort {port : Nat} {s t : State} {x : Ctx} (ht : BlocksNamed t) : BlocksNamed (failPort port s t x) :=
  named_foldl (fun _ _ h => named_foldl (fun _ _ h1 => named_startedError h1) h) (named_same ht rfl rfl)

theorem named_execFabricLink {port state : Nat} {s : State} (hs : BlocksNamed s) : NamedOut (execFabricLink port state s) := by
  unfold execFabricLink
  refine .next ?_
  split
  · exact hs
  · split
    · split
      · exact named_setLink hs
      · exact hs
    · extract_lets +onlyGivenNames hit t
      have ht : BlocksNamed t := named_foldl (fun _ _ h => named_postEvent h) hs
      extract_lets +onlyGivenNames t1
      have ht1 : BlocksNamed t1 := named_foldl (fun _ _ h => named_failPort h) ht
      exact named_setLink (named_modDev (named_foldl (fun _ _ h => named_oweRefused h) (named_same ht1 rfl rfl)))

theorem named_execFabricLinkUp {port : Nat} {s : State} (hs : BlocksNamed s) : NamedOut (execFabricLinkUp port s) := by
  unfold execFabricLinkUp
  refine .next ?_
  split
  · exact hs
  · exact named_setLink hs

theorem named_execLinkLevelRetry {port : Nat} {s : State} (hs : BlocksNamed s) : NamedOut (execLinkLevelRetry port s) :=
  .next (named_modDev hs)

theorem named_execFstat {d a : GReg} {s : State} (hs : BlocksNamed s) : NamedOut (execFstat d a s) :=
  named_uniIssueIf hs fun _ => named_heldDone (named_same hs rfl rfl)

theorem named_execPacketComplete {queue n : Nat} {s : State} (hs : BlocksNamed s) : NamedOut (execPacketComplete queue n s) := by
  unfold execPacketComplete
  extract_lets +onlyGivenNames t
  have ht : BlocksNamed t := named_packetStep hs
  refine .next ?_
  split
  · split
    · exact named_vacateDone ht
    · exact ht
  · exact ht

theorem named_tryStart {s : State} {x : Ctx} {l : LaunchRun} {b : Nat} (hs : BlocksNamed s) : NamedOpt (tryStart s x l b) := by
  unfold tryStart
  extract_lets +onlyGivenNames members others lower
  split
  · exact named_startInstance hs
  · exact .none

theorem named_execBlockClaim {launch core : Nat} {p : Placement} {s : State} (hs : BlocksNamed s) :
    NamedOut (execBlockClaim launch core p s) := by
  unfold execBlockClaim
  refine .next ?_
  split
  · exact hs
  · split
    · exact hs
    · split
      next ht => exact named_of_snd (named_ctxForWork hs) ht
      next x t ht =>
        replace ht : BlocksNamed t := named_of_snd (named_ctxForWork hs) ht
        extract_lets +onlyGivenNames d b
        split
        · exact ht
        next y table routine hcarve =>
          split
          · exact ht
          · extract_lets +onlyGivenNames u v
            have hu : BlocksNamed u := named_placeBlock (named_setCore ht (coreNamed_agentCarve (named_core ht core) hcarve))
            have hv : BlocksNamed v := named_modLaunch hu
            exact named_getD (named_tryStart hv) hv

theorem named_execInstanceStart {launch : Nat} {s : State} (hs : BlocksNamed s) : NamedOut (execInstanceStart launch s) := by
  unfold execInstanceStart
  refine .next ?_
  split
  · exact hs
  · split
    · exact named_of_snd (named_ctxForWork hs) ‹_›
    · extract_lets +onlyGivenNames waiting
      split
      · exact named_of_snd (named_ctxForWork hs) ‹_›
      · exact named_getD (named_findSome (fun _ => named_tryStart (named_of_snd (named_ctxForWork hs) ‹_›)) _) (named_of_snd
          (named_ctxForWork hs) ‹_›)

theorem named_execRowFree {core row : Nat} {s : State} (hs : BlocksNamed s) : NamedOut (execRowFree core row s) :=
  .next (named_freeRow hs)

theorem named_blockDone {s : State} {c : Nat} {k : Block} (hs : BlocksNamed s) : BlocksNamed (blockDone s c k) :=
  named_vacateDone (named_dropBlock (named_endSaveOp (named_retireTaken hs)))

theorem named_completionFails {s : State} {c : Nat} {k : Block} (hs : BlocksNamed s) : BlocksNamed (completionFails s c k) := by
  unfold completionFails
  extract_lets +onlyGivenNames s1
  have hs1 : BlocksNamed s1 := by
    unfold s1
    split
    · exact named_queueError (named_modStarted hs)
    · exact hs
  exact named_blockDone hs1

theorem named_completionStops {s : State} {x : Ctx} {c : Nat} {k : Block} {e : XErr} {va : Nat} (hs : BlocksNamed s) :
    BlocksNamed (completionStops s x c k e va) := by
  unfold completionStops
  split
  · exact named_completionFails hs
  · exact named_postOrWait hs

theorem named_countBlock {s : State} {c : Nat} {k : Block} (hs : BlocksNamed s) : BlocksNamed (countBlock s c k) := by
  unfold countBlock
  extract_lets +onlyGivenNames s1
  have hs1 : BlocksNamed s1 := by
    unfold s1
    split
    · exact named_modLaunch hs
    · exact hs
  exact named_blockDone hs1

theorem named_signalBlock {s : State} {x : Ctx} {c : Nat} {k : Block} (hs : BlocksNamed s) : BlocksNamed (signalBlock s x c k) := by
  unfold signalBlock
  split
  · exact named_countBlock hs
  · split
    · exact named_countBlock ((named_addSignal hs).of_done ‹_›)
    · refine named_modBlock (fun _ => ?_) ((named_addSignal hs).of_half ‹_›)
      exact rfl
    · exact named_completionStops ((named_addSignal hs).of_fails ‹_›)

theorem named_publishBlock {s : State} {x : Ctx} {c : Nat} {k : Block} (hs : BlocksNamed s) : BlocksNamed (publishBlock s x c k) := by
  unfold publishBlock
  split
  · exact hs
  · split
    · exact hs
    · split
      · exact named_signalBlock hs
      · split
        · refine named_modBlock (fun k1 => ?_) ((named_addVa hs).of_done ‹_›)
          exact rfl
        · refine named_modBlock (fun _ => ?_) ((named_addVa hs).of_half ‹_›)
          exact rfl
        · exact named_completionStops ((named_addVa hs).of_fails ‹_›)

theorem named_execBlockComplete {core block : Nat} {s : State} (hs : BlocksNamed s) : NamedOut (execBlockComplete core block s) := by
  unfold execBlockComplete
  refine .next ?_
  split
  · exact hs
  · split
    · exact hs
    · extract_lets +onlyGivenNames waits
      split
      · split
        · exact hs
        · exact named_publishBlock hs
      · split
        · exact named_completeBlock (named_releaseEnds hs)
        · exact hs

theorem named_execDieFailure {die launch : Nat} {s : State} (hs : BlocksNamed s) : NamedOut (execDieFailure die launch s) := by
  unfold execDieFailure
  refine .next ?_
  split
  · exact hs
  · split
    · exact hs
    · extract_lets +onlyGivenNames s1 mine saved left t t1 t2 failed
      have hs1 : BlocksNamed s1 := named_postEvent hs
      have ht : BlocksNamed t := named_foldl (fun _ _ h => named_dropBlock (named_releaseEnds (named_endSaveOp (named_abandonBlock h)))) hs1
      clear_value t
      have ht1 : BlocksNamed t1 := named_modCtx ht
      have ht2 : BlocksNamed t2 := named_modLaunch ht1
      clear_value t2
      refine named_vacateDone (named_foldl (fun _ _ h => ?_) ht2)
      exact named_modCore h fun _ hx => coreNamed_upd hx rfl

theorem named_execEngineAccess {op n : Nat} {s : State} (hs : BlocksNamed s) : NamedOut (execEngineAccess op n s) := by
  unfold execEngineAccess
  refine .next ?_
  split
  · exact hs
  · split
    · exact named_copyAccess hs
    · exact named_galleyAccess hs
    · exact named_galleyAccess hs
    · exact named_sendAccess hs
    · exact named_bulkAccess hs
    · exact hs

theorem named_failRead {s : State} {c slot seq : Nat} {f : FaultRecord} (hs : BlocksNamed s) : BlocksNamed (failRead s c slot seq f) := by
  unfold failRead
  split
  · exact hs
  · split
    · exact hs
    · exact named_finishIfDone (named_modGroup (named_modRead hs))

theorem named_failStore {s : State} {c slot seq : Nat} {f : FaultRecord} (hs : BlocksNamed s) : BlocksNamed (failStore s c slot seq f) :=
  named_modGroup hs

theorem named_failSplit {s : State} {c slot i : Nat} {f : FaultRecord} (hs : BlocksNamed s) : BlocksNamed (failSplit s c slot i f) := by
  unfold failSplit
  split
  · exact hs
  · exact named_takeTrap hs

theorem named_failSpill {s : State} {c slot i : Nat} {f : FaultRecord} (hs : BlocksNamed s) : BlocksNamed (failSpill s c slot i f) := by
  unfold failSpill
  split
  · exact hs
  · split
    · exact named_failSplit hs
    · exact named_postEvent (named_modGroup (named_suspend hs))

theorem named_failOp {s : State} {n part : Nat} {f : FaultRecord} (hs : BlocksNamed s) : BlocksNamed (failOp s n part f) := by
  unfold failOp
  split
  · exact hs
  · split
    · exact named_failCopy hs
    · split
      · exact named_failWalk hs
      · exact hs
    · split
      · exact named_voidPut hs
      · exact hs
    · split
      · exact named_loseTake hs
      · exact hs
    · exact named_modCutLane hs
    · exact named_failBulk hs
    · exact named_setOpKind hs
    · exact hs

theorem named_failBlock {s : State} {c b : Nat} {go : State → Block → State} (hs : BlocksNamed s)
    (hgo : ∀ (a : State) (a_1 : Block), BlocksNamed a → BlocksNamed (go a a_1)) : BlocksNamed (failBlock s c b go) := by
  unfold failBlock
  split
  · exact hs
  · exact hgo _ _ hs

theorem named_failQueue {s : State} {x : Ctx} {q code : Nat} {sig : Option Nat} {path : List Nat} (hs : BlocksNamed s) :
    BlocksNamed (failQueue s x q code sig path) :=
  named_queueError (named_modStarted hs)

theorem named_answerFail {s : State} {x : Ctx} {f : FaultRecord} (hs : BlocksNamed s) : BlocksNamed (answerFail s x f) := by
  unfold answerFail
  split
  · split
    · exact hs
    · exact named_failRead hs
  · split
    · exact hs
    · exact named_failStore hs
  · split
    · exact hs
    · exact named_failSplit hs
  · split
    · exact hs
    · exact named_failSpill hs
  · split
    · exact hs
    · exact named_failSplit hs
  · exact named_failOp hs
  · exact named_failQueue hs
  · exact hs
  · exact named_failBlock hs fun _ _ h => named_completionFails h
  · exact hs
  · exact named_failBlock hs fun _ _ h => named_saveFails h
  · exact named_modCtx hs
  · exact hs
  · exact named_modSplit hs
  · exact hs

theorem named_answerRetry {s : State} {x : Ctx} {f : FaultRecord} (hs : BlocksNamed s) : BlocksNamed (answerRetry s x f) := by
  unfold answerRetry
  split
  · exact named_modRead hs
  · exact named_modGroup hs
  · split
    · exact named_enterHandler hs
    · exact named_mirrorSpill hs
  · exact named_minusSignal hs
  · split
    · exact named_writeDone hs
    · exact hs
  · exact named_failBlock hs fun _ _ h => named_publishBlock h
  · exact hs

theorem named_answerRecord {s : State} {c : Nat} {pick : FaultRecord → Bool} {fail : Bool} (hs : BlocksNamed s) :
    BlocksNamed (answerRecord s c pick fail) := by
  unfold answerRecord
  split
  · exact hs
  · split
    · exact hs
    · extract_lets +onlyGivenNames s1
      have hs1 : BlocksNamed s1 := named_postWaiting (named_modCtx hs)
      split
      · exact hs1
      · split
        · exact named_answerFail hs1
        · exact named_answerRetry hs1

theorem named_execFaultResponseDoorbell {func ctx : Nat} {w : BitVec 64} {s : State} (hs : BlocksNamed s) :
    NamedOut (execFaultResponseDoorbell func ctx w s) := by
  unfold execFaultResponseDoorbell
  refine .next ?_
  split
  · exact hs
  · exact named_answerRecord hs

theorem named_execFaultAnswerFirmware {ctx record : Nat} {fail : Bool} {s : State} (hs : BlocksNamed s) :
    NamedOut (execFaultAnswerFirmware ctx record fail s) := by
  unfold execFaultAnswerFirmware
  refine .next ?_
  split
  · exact named_answerRecord hs
  · exact hs

theorem named_checkedG {s : State} {w : Issuer} {size align : Nat} {as : List (Nat × Nat)} {ok : State} (hs : BlocksNamed s)
    (hok : BlocksNamed ok) : BlocksNamed (checkedG s w size align as ok) := by
  unfold checkedG
  split
  · exact named_trapHere hs
  · exact hok

theorem named_ldg {s : State} {i : Instr} {k d a g n : Nat} {acquire : Option Scope} (hs : BlocksNamed s) :
    NamedOut (ldg s i k d a g n acquire) := by
  unfold ldg
  refine named_laneIssue hs fun _ => ?_
  extract_lets +onlyGivenNames m as
  split
  · exact named_done hs
  · exact named_checkedG hs (named_queueRead hs)

theorem named_stg {s : State} {i : Instr} {k d a g n : Nat} (hs : BlocksNamed s) : NamedOut (stg s i k d a g n) := by
  unfold stg
  refine named_laneIssue hs fun _ => ?_
  extract_lets +onlyGivenNames m as
  split
  · exact named_done hs
  · exact named_checkedG hs (named_withRoom hs (named_queueStore hs))

theorem named_execAtomg {k : KReg} {d a : VReg} {o : AtomOp} {s : State} (hs : BlocksNamed s) : NamedOut (execAtomg k d a o s) := by
  unfold execAtomg
  refine named_laneIssue hs fun _ => ?_
  extract_lets +onlyGivenNames m as
  split
  · exact named_done hs
  · exact named_checkedG hs (named_queueRead hs)

theorem named_execStgRel {k : KReg} {d a : VReg} {z : SzCode} {s : State} (hs : BlocksNamed s) : NamedOut (execStgRel k d a z s) := by
  unfold execStgRel
  refine named_laneIssue hs fun _ => ?_
  extract_lets +onlyGivenNames m as
  split
  · exact named_done hs
  · exact named_checkedG hs (named_storePoint hs (named_withRoom hs (named_queueStore hs)))

theorem named_checkedUG {s : State} {w : Issuer} {size align a : Nat} {ok : State} (hs : BlocksNamed s) (hok : BlocksNamed ok) :
    BlocksNamed (checkedUG s w size align a ok) := by
  unfold checkedUG
  split
  · exact named_trapAll hs
  · exact hok

theorem named_uldG {s : State} {i : Instr} {d a n : Nat} (hs : BlocksNamed s) : NamedOut (uldG s i d a n) :=
  named_uniIssue hs fun _ => named_checkedUG hs (named_queueRead hs)

theorem named_uldGAtom {s : State} {i : Instr} {d a b : Nat} {gs : List Nat} {o : AtomOp} (hs : BlocksNamed s) :
    NamedOut (uldGAtom s i d a b gs o) :=
  named_uniIssue hs fun _ => named_checkedUG hs (named_queueRead hs)

theorem named_ustG {s : State} {i : Instr} {a b n : Nat} (hs : BlocksNamed s) : NamedOut (ustG s i a b n) :=
  named_uniIssue hs fun _ => named_checkedUG hs (named_withRoom hs (named_queueStore hs))

theorem named_execTakeValue {core slot piece : Nat} {s : State} (hs : BlocksNamed s) : NamedOut (execTakeValue core slot piece s) :=
  .next (named_takeValue hs)

theorem named_execLeave {core slot : Nat} {s : State} (hs : BlocksNamed s) : NamedOut (execLeave core slot s) :=
  .next (named_leave hs)

theorem named_execPropagationArrive {n : Nat} {s : State} (hs : BlocksNamed s) : NamedOut (execPropagationArrive n s) :=
  .next (named_arriveProp hs)

theorem named_execDrop {core line : Nat} {s : State} (hs : BlocksNamed s) : NamedOut (execDrop core line s) :=
  .next (named_dropLine hs)

theorem named_execAtomicStep {core slot : Nat} {s : State} (hs : BlocksNamed s) : NamedOut (execAtomicStep core slot s) :=
  .next (named_atomicStep hs)

theorem named_execReplicaStamp {n : Nat} {s : State} (hs : BlocksNamed s) : NamedOut (execReplicaStamp n s) :=
  .next (named_replicaStamp hs)

theorem named_execReplicaApply {ctx rset die : Nat} {s : State} (hs : BlocksNamed s) : NamedOut (execReplicaApply ctx rset die s) :=
  .next (named_replicaApply hs)

theorem named_execHostAccess {a : HostAccess} {s : State} (hs : BlocksNamed s) : NamedOut (execHostAccess a s) :=
  .next (named_hostAccessAt hs)

theorem named_execPackageReset {s : State} : NamedOut (execPackageReset s) :=
  .next fun _ b hb => nomatch (hb : b ∈ [])

theorem named_execReducedServiceStart {s : State} (hs : BlocksNamed s) : NamedOut (execReducedServiceStart s) := by
  unfold execReducedServiceStart
  refine .next ?_
  split
  · exact named_modDev hs
  · exact hs

theorem named_execTrainingComplete {s : State} (hs : BlocksNamed s) : NamedOut (execTrainingComplete s) := by
  unfold execTrainingComplete
  refine .next ?_
  split
  · exact hs
  · exact named_modDev hs

theorem named_execFullServiceStart {s : State} (hs : BlocksNamed s) : NamedOut (execFullServiceStart s) := by
  unfold execFullServiceStart
  refine .next ?_
  split
  · exact named_postPf (named_modDev hs)
  · exact hs

theorem named_freeCode {s : State} (hs : BlocksNamed s) : BlocksNamed (freeCode s).2 :=
  named_same hs rfl rfl

theorem named_execPeriodChange {s : State} (hs : BlocksNamed s) : NamedOut (execPeriodChange s) := by
  unfold execPeriodChange
  refine .next ?_
  split
  · exact named_postPf (named_modDev hs)
  · exact hs

theorem named_postOpen {s : State} {ty : EventType} {src : EventSource} (hs : BlocksNamed s) : BlocksNamed (postOpen s ty src) :=
  named_postPf (named_same hs rfl rfl)

theorem named_execCorrectedError {die : Nat} {s : State} (hs : BlocksNamed s) : NamedOut (execCorrectedError die s) := by
  unfold execCorrectedError
  refine .next ?_
  split
  · exact hs
  · split
    · exact hs
    · extract_lets +onlyGivenNames n t
      have ht : BlocksNamed t := named_modDev hs
      split
      · exact named_postOpen ht
      · exact ht

theorem named_haltWhere {s : State} {works : Nat → Bool} (hs : BlocksNamed s) : BlocksNamed (haltWhere s works) :=
  named_same hs rfl rfl

theorem named_coreFault {s : State} {c : Nat} (hs : BlocksNamed s) : BlocksNamed (coreFault s c) :=
  named_postOpen (named_haltWhere hs)

theorem named_raisePlan {s : State} {plan : Nat} (hs : BlocksNamed s) : BlocksNamed (raisePlan s plan) := by
  unfold raisePlan
  split
  · exact named_postPf (named_freeCode (named_modDev hs))
  · exact hs

theorem named_timingLost {s : State} {die : Nat} (hs : BlocksNamed s) : BlocksNamed (timingLost s die) := by
  unfold timingLost
  split
  · exact named_foldl (fun _ _ h => named_coreFault h) hs
  · exact hs

theorem named_execAgeingPlanRaise {plan : Nat} {s : State} (hs : BlocksNamed s) : NamedOut (execAgeingPlanRaise plan s) := by
  unfold execAgeingPlanRaise
  extract_lets +onlyGivenNames t
  have ht : BlocksNamed t := named_raisePlan hs
  refine .next ?_
  split
  · exact ht
  · exact named_timingLost ht

theorem named_groupFault {s : State} {c : Nat} {g : Group} {detail : Nat} (hs : BlocksNamed s) : BlocksNamed (groupFault s c g detail) :=
  named_postEvent (named_suspend hs)

theorem named_strike {s : State} {die : Nat} {a : ErrorSite} (hs : BlocksNamed s) : BlocksNamed (strike s die a) := by
  unfold strike
  split
  · split
    · exact named_same hs rfl rfl
    · exact hs
  · exact named_modCore hs fun _ h => coreNamed_upd h rfl
  · exact named_modOp hs
  · split
    · exact named_modCore hs fun _ h => coreNamed_upd h rfl
    · exact hs
  · split
    · exact named_modCore hs fun _ h => coreNamed_upd h rfl
    · exact hs
  · split
    · exact named_modCore hs fun _ h => coreNamed_upd h rfl
    · exact hs
  · split
    · exact named_coreFault hs
    · split
      · exact named_groupFault hs
      · exact hs
  · split
    · exact named_groupFault hs
    · exact hs
  · split
    · exact named_coreFault hs
    · exact hs
  · exact named_postOpen (named_haltWhere hs)

theorem named_execUncorrectedError {die : Nat} {site : ErrorSite} {s : State} (hs : BlocksNamed s) :
    NamedOut (execUncorrectedError die site s) := by
  unfold execUncorrectedError
  refine .next ?_
  split
  · exact named_strike (named_modDev hs)
  · exact hs

theorem named_execFirmwareImage {img : FirmwareImage} {s : State} (hs : BlocksNamed s) : NamedOut (execFirmwareImage img s) := by
  unfold execFirmwareImage
  refine .next ?_
  split
  · exact named_modDev hs
  · exact hs

theorem named_execLiveHandover {s : State} (hs : BlocksNamed s) : NamedOut (execLiveHandover s) := by
  unfold execLiveHandover
  refine .next ?_
  split
  · exact named_postPf (named_freeCode (named_modDev hs))
  · exact hs

theorem named_execMeasurements {s : State} (hs : BlocksNamed s) : NamedOut (execMeasurements s) := by
  unfold execMeasurements
  refine .next ?_
  split
  · exact named_modDev hs
  · exact hs

theorem named_aluR {s : State} {i : Instr} {k d a b : Nat} {readD : Bool} {f : Word → Word → Word → Word} (hs : BlocksNamed s) :
    NamedOut (aluR s i k d a b readD f) :=
  named_laneIssue hs fun _ => named_done (named_writeLanes hs)

theorem named_aluR1 {s : State} {i : Instr} {k d a : Nat} {f : Word → Word} (hs : BlocksNamed s) : NamedOut (aluR1 s i k d a f) :=
  named_laneIssue hs fun _ => named_done (named_writeLanes hs)

theorem named_aluG {s : State} {i : Instr} {k d a g : Nat} {f : Word → Word → Word} (hs : BlocksNamed s) : NamedOut (aluG s i k d a g f) :=
  named_laneIssue hs fun _ => named_done (named_writeLanes hs)

theorem named_shuffle {s : State} {i : Instr} {k d a b : Nat} {src : Nat → Nat → Option Nat} (hs : BlocksNamed s) :
    NamedOut (shuffle s i k d a b src) :=
  named_laneIssue hs fun _ => named_done (named_writeLanes hs)

theorem named_execPerm {k : KReg} {d a b : VReg} {s : State} (hs : BlocksNamed s) : NamedOut (execPerm k d a b s) :=
  named_aluR hs

theorem named_execIcmp {k : KReg} {c : ICond} {e : KReg} {a b : VReg} {t : IType} {s : State} (hs : BlocksNamed s) :
    NamedOut (execIcmp k c e a b t s) :=
  named_laneIssue hs fun _ => named_done (named_putK hs)

theorem named_sampleFor {s : State} {c sched : Nat} {x : Ctx} (hs : BlocksNamed s) : BlocksNamed (sampleFor s c sched x) := by
  unfold sampleFor
  extract_lets +onlyGivenNames t
  split
  · exact hs
  · split
    · exact hs
    · exact named_writeVa (named_modCore (named_writeVa hs) (fun _ h => coreNamed_setTracer h))

theorem named_execSample {core sched : Nat} {s : State} (hs : BlocksNamed s) : NamedOut (execSample core sched s) := by
  unfold execSample
  refine .next ?_
  split
  · exact named_foldl (fun _ _ h => named_sampleFor h) hs
  · exact hs

theorem named_execTraceUnitWrite {core : Nat} {s : State} (hs : BlocksNamed s) : NamedOut (execTraceUnitWrite core s) := by
  unfold execTraceUnitWrite
  refine .next ?_
  split
  · exact hs
  · split
    · exact hs
    · exact named_drainUnit hs

theorem named_execBlkmaxOverrun {core block : Nat} {s : State} (hs : BlocksNamed s) : NamedOut (execBlkmaxOverrun core block s) := by
  unfold execBlkmaxOverrun
  refine .next ?_
  split
  · exact hs
  · split
    · exact hs
    · refine named_postEvent (named_modBlock (fun _ => ?_) hs)
      exact rfl

theorem named_execChannelPriorityHold {core slot split : Nat} {s : State} (hs : BlocksNamed s) :
    NamedOut (execChannelPriorityHold core slot split s) := by
  unfold execChannelPriorityHold
  refine .next ?_
  split
  · exact hs
  · split
    · exact hs
    · split
      · split
        · exact hs
        · exact named_modCtx hs
      · exact hs

theorem named_fetchFault {s : State} {w : Issuer} {x : Ctx} {cause : Nat} (hs : BlocksNamed s) : BlocksNamed (fetchFault s w x cause) :=
  named_holdIt (named_postFault hs)

theorem named_exec {i : Instr} {s : State} (hs : BlocksNamed s) : NamedOut (exec i s) := by
  unfold exec
  cases i with
  | iadd | isub | imul | imulhZ | iminS | imaxS | iminZ | imaxZ | and | or | xor | andn | shl | shr | sar | rotl | bfeZ | bfeS | bfi |
    imadLo | imulhS => exact named_aluR hs
  | popc | clz | ctz | brev | mov => exact named_aluR1 hs
  | perm => exact named_execPerm hs
  | icmp => exact named_execIcmp hs
  | iadd64 | isub64 | shl64 | shr64 | imadWideZ | imadWideS => exact named_laneIssue hs fun _ => named_done (named_writePairs hs)
  | sel | laneid | movg => exact named_laneIssue hs fun _ => named_done (named_writeLanes hs)
  | ialugIadd | ialugIsub | ialugImul | ialugAnd | ialugOr | ialugXor | ialugShl | ialugShr => exact named_aluG hs
  | falugFadd | falugFsub | falugFmul | falugFma | falugFmin | falugFmax => exact named_fpG hs
  | fadd | fsub | fmul | fma | fmin | fmax => exact named_fpR hs
  | fcmp => exact named_execFcmp hs
  | cvt => exact named_execCvt hs
  | xfnRcp | xfnRsq | xfnSqrt | xfnExp2 | xfnLog2 | xfnSin | xfnCos | xfnTanh => exact named_xfn hs
  | shflIdx | shflXor | shflUp | shflDown => exact named_shuffle hs
  | ldsZ8 | ldsZ16 | lds32 | lds64 | ldsxS8 | ldsxS16 | ldsx128 => exact named_lds hs
  | sts8 | sts16 | sts32 | sts64 => exact named_sts hs
  | atomsAdd | atomsExch | atomsCas | atomsMaxS | atomsxAnd | atomsxOr | atomsxXor | atomsxMinS => exact named_atoms hs
  | ldg32 | ldg64 | ldg128 | ldg32Acq => exact named_ldg hs
  | stg8 | stg16 | stg32 | stg64 => exact named_stg hs
  | mstream => exact named_execMstream hs
  | tcopy => exact named_execTcopy hs
  | tcopyq => exact named_tcopyIssue hs
  | atomg => exact named_execAtomg hs
  | tvwalk | tvresume => exact named_walkIssue hs
  | tvcut => exact named_execTvcut hs
  | tvret => exact named_execTvret hs
  | tvstat => exact named_execTvstat hs
  | gput | gtake => exact named_galleyIssue hs
  | stgRel => exact named_execStgRel hs
  | uadd | usub | umul | umulhZ | umulhS | uminS | umaxS | uminZ | umaxZ | uand | uor | uxor | uandn | ushl | ushr | usar | ucmpEq |
    ucmpLtS | ucmpLtZ | ucmpLeS | ucmpLeZ | uadd32 | usub32 => exact named_ualu hs
  | upopc | uclz | umov | uaddi | uandi | uori | uxori | ushli => exact named_ualu1 hs
  | uhi | umaskGet | vcost | vtest | umovs => exact named_uniIssue hs fun _ => named_done (named_putG hs)
  | br => exact named_execBr hs
  | brd => exact named_execBrd hs
  | call => exact named_execCall hs
  | jmpi | ret => exact named_uniIssue hs fun _ => named_toRegister hs fun _ => named_jumpTo hs
  | calli => exact named_execCalli hs
  | nop => exact named_execNop hs
  | exit => exact named_execExit hs
  | trap => exact named_execTrap hs
  | rett => exact named_execRett hs
  | brk => exact named_execBrk hs
  | yield => exact named_execYield hs
  | pjoin => exact named_execPjoin hs
  | cfence | mfence | lfence | xfence | tfence => exact named_closeGate hs
  | fenceAll | fenceAcq | fenceRel => exact named_fenceAt hs
  | waitGate => exact named_execWaitGate hs
  | waitObject => exact named_execWaitObject hs
  | arrive | arriveExpect | arriveDrop => exact named_arriveAt hs
  | binit => exact named_execBinit hs
  | uldS32 | uldS64 => exact named_uldS hs
  | uldG32 | uldG64 => exact named_uldG hs
  | uldGAdd | uldGExch | uldGCas => exact named_uldGAtom hs
  | ustS32 | ustS64 => exact named_ustS hs
  | ustG32 | ustG64 => exact named_ustG hs
  | readlane | readfirst | voteAny | voteAll | ballot => exact named_laneToUni hs
  | umaskSet | umaskNot => exact named_uniIssue hs fun _ => named_done (named_putMask hs)
  | umaskAnd | umaskOr | umaskXor | umaskAndn => exact named_umask2 hs
  | mload => exact named_execMload hs
  | mopen => exact named_execMopen hs
  | mclose => exact named_execMclose hs
  | epi => exact named_execEpi hs
  | amovLd | amovSt => exact named_amov hs
  | mstat | xstat => exact named_uniIssueIf hs fun _ => named_done (named_putG hs)
  | ginfo => exact named_execGinfo hs
  | gbind => exact named_execGbind hs
  | xbind => exact named_execXbind hs
  | xpermit => exact named_execXpermit hs
  | xsend => exact named_execXsend hs
  | fbulk => exact named_execFbulk hs
  | fstat => exact named_execFstat hs
  | umovt => exact named_execUmovt hs
  | event => exact named_execEvent hs
  | tmark => exact named_execTmark hs
  | dispatch => exact named_execDispatch hs
  | lease => exact named_execLease hs
  | carve => exact named_execCarve hs
  | ctxsave => exact named_execCtxsave hs
  | ctxload => exact named_execCtxload hs
  | tlbinv => exact named_execTlbinv hs
  | keyset => exact named_execKeyset hs
  | splitPark => exact named_execSplitPark hs
  | stackFill => exact named_execStackFill hs
  | yieldExpiry => exact named_execYieldExpiry hs
  | scratchResult => exact named_execScratchResult hs
  | takeValue => exact named_execTakeValue hs
  | leave => exact named_execLeave hs
  | propagationArrive => exact named_execPropagationArrive hs
  | drop => exact named_execDrop hs
  | atomicStep => exact named_execAtomicStep hs
  | engineAccess => exact named_execEngineAccess hs
  | faultResponseDoorbell => exact named_execFaultResponseDoorbell hs
  | faultAnswerFirmware => exact named_execFaultAnswerFirmware hs
  | replicaStamp => exact named_execReplicaStamp hs
  | replicaApply => exact named_execReplicaApply hs
  | mstreamPassRun => exact named_execMstreamPassRun hs
  | mloadRun => exact named_execMloadRun hs
  | slotZeroing => exact named_execSlotZeroing hs
  | epiRun => exact named_execEpiRun hs
  | amovRun => exact named_execAmovRun hs
  | tceLanding => exact named_execTceLanding hs
  | tcopyComplete => exact named_execTcopyComplete hs
  | walkVisit => exact named_execWalkVisit hs
  | serviceGroupForm => exact named_execServiceGroupForm hs
  | serviceGroupTimeout => exact named_execServiceGroupTimeout hs
  | routineReturn => exact named_execRoutineReturn hs
  | tvcutComplete => exact named_execTvcutComplete hs
  | galleyReservation => exact named_execGalleyReservation hs
  | galleyPublish => exact named_execGalleyPublish hs
  | galleyOpComplete => exact named_execGalleyOpComplete hs
  | galleyConsumerLaunch => exact named_execGalleyConsumerLaunch hs
  | galleyConsumerTimer => exact named_execGalleyConsumerTimer hs
  | xsendLanding => exact named_execXsendLanding hs
  | grantSend => exact named_execGrantSend hs
  | permitGrant => exact named_execPermitGrant hs
  | fbulkLanding => exact named_execFbulkLanding hs
  | fbulkComplete => exact named_execFbulkComplete hs
  | branchBlocked => exact named_execBranchBlocked hs
  | fabricMessageReceive => exact named_execFabricMessageReceive hs
  | fabricLink => exact named_execFabricLink hs
  | hostAccess => exact named_execHostAccess hs
  | registerWrite => exact named_execRegisterWrite hs
  | featctlCommit => exact named_execFeatctlCommit hs
  | ctxcmdVacate => exact named_execCtxcmdVacate hs
  | ctxcmdResume => exact named_execCtxcmdResume hs
  | ctxcmdEnd => exact named_execCtxcmdEnd hs
  | partcmdApply => exact named_execPartcmdApply hs
  | dbgcmdHalt | dbgcmdResume | dbgcmdAttach | dbgcmdDetach => exact named_debugChange hs
  | dbgcmdStep => exact named_execDbgcmdStep hs
  | errcntClear => exact named_execErrcntClear hs
  | queueTailDoorbell => exact named_execQueueTailDoorbell hs
  | eventHeadDoorbell => exact named_execEventHeadDoorbell hs
  | packetNop => exact named_execPacketNop hs
  | packetLaunch => exact named_execPacketLaunch hs
  | packetBarrier => exact named_execPacketBarrier hs
  | packetCopy => exact named_execPacketCopy hs
  | packetSignalSet => exact named_execPacketSignalSet hs
  | packetSignalAdd => exact named_execPacketSignalAdd hs
  | packetChain => exact named_execPacketChain hs
  | packetEvent => exact named_execPacketEvent hs
  | packetComplete => exact named_execPacketComplete hs
  | barrierTest => exact named_execBarrierTest hs
  | progressPublish => exact named_execProgressPublish hs
  | blockClaim => exact named_execBlockClaim hs
  | instanceStart => exact named_execInstanceStart hs
  | rowFree => exact named_execRowFree hs
  | blockComplete => exact named_execBlockComplete hs
  | blkmaxOverrun => exact named_execBlkmaxOverrun hs
  | channelPriorityHold => exact named_execChannelPriorityHold hs
  | blockSave => exact named_execBlockSave hs
  | blockModeFinished => exact named_execBlockModeFinished hs
  | ctxloadComplete => exact named_execCtxloadComplete hs
  | tlbinvComplete => exact named_execTlbinvComplete hs
  | traceUnitWrite => exact named_execTraceUnitWrite hs
  | sample => exact named_execSample hs
  | packageReset => exact named_execPackageReset
  | reducedServiceStart => exact named_execReducedServiceStart hs
  | fullServiceStart => exact named_execFullServiceStart hs
  | ageingPlanRaise => exact named_execAgeingPlanRaise hs
  | periodChange => exact named_execPeriodChange hs
  | dieFailure => exact named_execDieFailure hs
  | correctedError => exact named_execCorrectedError hs
  | uncorrectedError => exact named_execUncorrectedError hs
  | firmwareImage => exact named_execFirmwareImage hs
  | liveHandover => exact named_execLiveHandover hs
  | measurements => exact named_execMeasurements hs
  | illegalOp => exact named_execIllegalOp hs
  | heldUniformResult => exact named_execHeldUniformResult hs
  | trainingComplete => exact named_execTrainingComplete hs
  | fabricLinkUp => exact named_execFabricLinkUp hs
  | linkLevelRetry => exact named_execLinkLevelRetry hs

theorem named_issueWord {g : Group} {v : Word} {s : State} (hs : BlocksNamed s) : NamedOut (issueWord g v s) := by
  unfold issueWord
  split
  · exact named_exec hs
  · exact named_execIllegalOp hs

theorem named_attempt {s : State} {c slot i : Nat} (hs : BlocksNamed s) : NamedOut (attempt s c slot i) := by
  unfold attempt
  extract_lets +onlyGivenNames s1
  have hs1 : BlocksNamed s1 := named_same hs rfl rfl
  split
  · exact .next hs1
  · split
    · exact .next hs1
    · split
      · exact .next (named_fetchFault ((named_fetch hs1).of_fault ‹_›))
      · exact .next (named_trapAll ((named_fetch hs1).of_lost ‹_›))
      · split
        · refine .next ?_
          split
          · exact named_poisonTrap ((named_fetch hs1).of_word ‹_›)
          · exact named_holdIt ((named_fetch hs1).of_word ‹_›)
        · exact named_issueWord ((named_fetch hs1).of_word ‹_›)

theorem named_merged {s : State} {c pipe : Nat} {g : Group} {sp : Split} {others : List Split} (hs : BlocksNamed s) :
    BlocksNamed (merged s c pipe g sp others).1 := by
  unfold merged
  split
  · exact hs
  · exact named_note (named_modGroup hs)

theorem named_passOver {t : State} {c : Nat} {rs : List (Group × Split)} (ht : BlocksNamed t) : BlocksNamed (passOver t c rs) :=
  named_foldl (fun _ _ h => named_modSplit h) ht

theorem named_afterIssue {t : State} {c slot i pipe : Nat} {pc : PC} {ctx : Nat} {parked : Bool} (ht : BlocksNamed t) :
    BlocksNamed (afterIssue t c slot i pipe pc ctx parked) := by
  unfold afterIssue
  extract_lets +onlyGivenNames t1
  have ht1 : BlocksNamed t1 := named_same ht rfl rfl
  extract_lets +onlyGivenNames t2
  have ht2 : BlocksNamed t2 := by
    unfold t2
    split
    · exact ht1
    · exact named_modSplit ht1
  exact named_modCtx ht2

theorem named_issueBare {s : State} {c : Nat} {g : Group} {sp : Split} {pipe : Nat} (hs : BlocksNamed s) :
    NamedOut (issueBare s c g sp pipe) := by
  unfold issueBare
  extract_lets +onlyGivenNames rs
  split
  · split
    · exact .next (named_passOver (named_afterIssue ((named_execSplitPark hs).of_next ‹_›)))
    · exact named_execSplitPark hs
  · extract_lets +onlyGivenNames others m
    have hm : BlocksNamed m.1 := named_merged hs
    split
    · split
      next ht _ =>
        have h := (named_attempt hm).of_next ht
        exact .next (named_passOver (named_same h rfl rfl))
      · split
        · exact .next ((named_attempt hm).of_next ‹_›)
        · exact .next (named_passOver (named_afterIssue ((named_attempt hm).of_next ‹_›)))
    · exact named_attempt hm

theorem named_issueOne {s : State} {c : Nat} {g : Group} {sp : Split} {pipe : Nat} (hs : BlocksNamed s) :
    NamedOut (issueOne s c g sp pipe) := by
  unfold issueOne
  split
  · split
    · exact .next (named_modSplit hs)
    · exact .next ((named_issueBare hs).of_next ‹_›)
  · exact named_issueBare hs

theorem named_settleMates {s t : State} {c : Nat} {g : Group} {sp : Split} {pipe : Nat} (hs : BlocksNamed s) (ht : BlocksNamed t) :
    NamedOut (settleMates s t c g sp pipe) := by
  unfold settleMates
  split
  · split
    · exact .next ht
    · split
      · extract_lets +onlyGivenNames low
        split
        · refine .next ?_
          split
          · exact ht
          · exact (named_issueOne hs).of_next ‹_›
        · split
          · exact .next ((named_issueOne hs).of_next ‹_›)
          · split
            · exact .next ((named_issueOne hs).of_next ‹_›)
            · exact named_issueOne ((named_issueOne hs).of_next ‹_›)
      · exact named_issueOne hs
  · exact .next ht

theorem named_issueMove {s : State} {c slot i : Nat} (hs : BlocksNamed s) : NamedOut (issueMove s c slot i) := by
  unfold issueMove
  split
  · exact .next hs
  · split
    · exact .next hs
    · split
      · exact .next hs
      · extract_lets +onlyGivenNames pipe
        split
        · split
          · split
            · exact named_settleMates hs ((named_issueOne hs).of_next ‹_›)
            · exact named_issueOne hs
          · exact .next hs
        · exact named_attempt hs

theorem named_refill {s : State} {c : Nat} {g : Group} (hs : BlocksNamed s) : BlocksNamed (refill s c g) := by
  unfold refill
  extract_lets +onlyGivenNames held
  split
  · exact hs
  · extract_lets +onlyGivenNames i
    split
    · exact named_modGroup ((named_spillRead hs).of_ok ‹_›)
    · exact named_spillTrap hs
    · exact (named_spillRead hs).of_faulted ‹_›
    · exact hs

theorem named_orElse {s : State} {a : Host.Outcome State Fault Refusal} (hs : BlocksNamed s) (ha : NamedOut a) :
    BlocksNamed (orElse s a) := by
  unfold orElse
  split
  · exact ha.of_next rfl
  · exact hs

theorem named_refillAll {s : State} (hs : BlocksNamed s) : BlocksNamed (refillAll s) := by
  unfold refillAll
  refine named_foldl (fun _ _ h => ?_) hs
  split
  · split
    · exact named_refill h
    · exact h
  · exact h

theorem named_fillAll {s : State} (hs : BlocksNamed s) : BlocksNamed (fillAll s) := by
  unfold fillAll
  refine named_foldl (fun _ _ h => ?_) hs
  split
  · split
    · exact named_orElse h (named_execStackFill h)
    · exact h
  · exact h

theorem named_holdTick {s : State} (hs : BlocksNamed s) : BlocksNamed (holdTick s) :=
  named_mapCores hs rfl (Nat.le_refl _) (fun _ => rfl) (fun _ _ h => coreNamed_upd h rfl)

theorem named_holdsEnd {s : State} (hs : BlocksNamed s) : BlocksNamed (holdsEnd s) :=
  named_foldl (fun _ _ h => named_orElse h (named_execChannelPriorityHold (named_orElse h (named_execYieldExpiry h)))) hs

theorem named_blockTick {s : State} (hs : BlocksNamed s) : BlocksNamed (blockTick s) := by
  refine named_mapCores hs rfl (Nat.le_refl _) (fun _ => rfl) fun x n h => coreNamed_mapBlocks h (fun b => ?_) rfl
  extract_lets +onlyGivenNames b1
  have e : b1.id = b.id := by
    unfold b1
    split <;> rfl
  split <;> exact e

theorem named_blockEvents {s : State} (hs : BlocksNamed s) : BlocksNamed (blockEvents s) := by
  unfold blockEvents
  refine named_foldl (fun _ _ h => ?_) hs
  extract_lets +onlyGivenNames s2
  have hs2 : BlocksNamed s2 := named_orElse h (named_execBlkmaxOverrun h)
  split
  · extract_lets +onlyGivenNames s3
    have hs3 : BlocksNamed s3 := named_orElse hs2 (named_execServiceGroupForm hs2)
    exact named_orElse hs3 (named_execServiceGroupTimeout hs3)
  · exact hs2

theorem named_sampleAll {s : State} (hs : BlocksNamed s) : BlocksNamed (sampleAll s) := by
  unfold sampleAll
  split
  · exact named_foldl (fun _ _ h => named_foldl (fun _ _ h1 => named_orElse h1 (named_execSample h1)) h) hs
  · exact hs

theorem named_haltNow {s : State} {ctx : Nat} (hs : BlocksNamed s) : BlocksNamed (haltNow s ctx) := by
  unfold haltNow
  split
  · exact hs
  · split
    · exact hs
    · extract_lets +onlyGivenNames s1
      have hs1 : BlocksNamed s1 := by
        unfold s1
        refine named_foldl (fun _ _ h => ?_) hs
        split
        · exact named_completeWrites h
        · exact h
      exact named_foldl (fun _ _ h => named_postEvent h) (named_modCtx (named_flushTrace hs1))

theorem named_haltAll {s : State} (hs : BlocksNamed s) : BlocksNamed (haltAll s) :=
  named_foldl (fun _ _ h => named_haltNow h) hs

theorem named_reachAll {s : State} (hs : BlocksNamed s) : BlocksNamed (reachAll s) :=
  named_mapCores hs rfl (Nat.le_refl _) (fun _ => rfl) (fun _ _ h => coreNamed_upd h rfl)

theorem named_landTrapped {s : State} (hs : BlocksNamed s) : BlocksNamed (landTrapped s) :=
  named_foldl (fun _ _ h => named_completeWrites h) hs

theorem foldl_index {α : Type} {f : Core → α → Core} (hf : ∀ x a, (f x a).index = x.index) (xs : List α) (x : Core) :
    (xs.foldl f x).index = x.index := by
  induction xs generalizing x with
  | nil => rfl
  | cons a r ih => exact (ih (f x a)).trans (hf x a)

theorem drainRows_index (y : Core) : (drainRows y).index = y.index := by
  refine foldl_index (fun x g => ?_) _ _
  split
  · refine foldl_index (fun z r => ?_) _ _
    split
    · unfold Core.setLease
      split <;> rfl
    · rfl
  · rfl

theorem named_endCycle {s : State} (hs : BlocksNamed s) : BlocksNamed (endCycle s) := by
  unfold endCycle
  extract_lets +onlyGivenNames s1
  have hs1 : BlocksNamed s1 := named_reachAll (named_sampleAll hs)
  clear_value s1
  extract_lets +onlyGivenNames s2
  have hs2 : BlocksNamed s2 := named_settleExchange (named_settleUpdates (named_settleRemote hs1))
  clear_value s2
  extract_lets +onlyGivenNames s3 s4
  have hs3 : BlocksNamed s3 := named_refillAll hs2
  have hs4 : BlocksNamed s4 := named_mapCores hs3 rfl (Nat.le_refl _) drainRows_index fun _ _ h => coreNamed_drainRows h
  clear_value s4
  extract_lets +onlyGivenNames s5 s6 s7
  have hs5 : BlocksNamed s5 := named_settleTrace (named_fillAll hs4)
  have hs6 : BlocksNamed s6 := named_holdsEnd (named_holdTick hs5)
  have hs7 : BlocksNamed s7 := named_blockEvents (named_blockTick hs6)
  clear_value s7
  extract_lets +onlyGivenNames s8 s9 s10 s11
  have hs8 : BlocksNamed s8 := named_same hs7 rfl rfl
  have hs9 : BlocksNamed s9 := named_same hs8 rfl rfl
  have hs10 : BlocksNamed s10 := named_postAuth hs9
  have hs11 : BlocksNamed s11 := named_haltAll (named_foldl (fun _ _ h => named_postUnhandled h) (named_landTrapped hs10))
  clear_value s11
  extract_lets +onlyGivenNames s12 s13
  have hs12 : BlocksNamed s12 := named_same hs11 rfl rfl
  have hs13 : BlocksNamed s13 := named_same hs12 rfl rfl
  exact named_orElse hs13 (named_execPeriodChange (named_orElse hs13 (named_execFullServiceStart hs13)))

theorem named_dropStale {c : Nat} {v : ViewLine} {s : State} (hs : BlocksNamed s) : NamedOut (dropStale c v s) := by
  unfold dropStale
  split
  · exact .next hs
  · exact named_execDrop hs

/-- Every action of a list keeps the names of blocks below the next name. -/
def NamedActs (l : List Act) : Prop := ∀ f ∈ l, ∀ s, BlocksNamed s → NamedOut (f s)

theorem namedActs_nil : NamedActs [] := fun _ hf => nomatch hf

theorem namedActs_cons {f : Act} {l : List Act} (hf : ∀ s, BlocksNamed s → NamedOut (f s)) (hl : NamedActs l) : NamedActs (f :: l) := by
  intro g hg
  rcases List.mem_cons.1 hg with rfl | hg
  · exact hf
  · exact hl g hg

theorem namedActs_append {l r : List Act} (hl : NamedActs l) (hr : NamedActs r) : NamedActs (l ++ r) := fun f hf =>
  (List.mem_append.1 hf).elim (hl f) (hr f)

theorem namedActs_map {α : Type} {g : α → Act} {xs : List α} (h : ∀ a s, BlocksNamed s → NamedOut (g a s)) : NamedActs (xs.map g) := by
  intro f hf
  obtain ⟨a, -, rfl⟩ := List.mem_map.1 hf
  exact h a

theorem namedActs_flatMap {α : Type} {g : α → List Act} {xs : List α} (h : ∀ a, NamedActs (g a)) : NamedActs (xs.flatMap g) := by
  intro f hf
  obtain ⟨a, -, hf⟩ := List.mem_flatMap.1 hf
  exact h a f hf

theorem named_firstChange {s : State} {l : List Act} (hl : NamedActs l) (hs : BlocksNamed s) : NamedOpt (firstChange s l) := by
  induction l with
  | nil => exact .none
  | cons f r ih =>
    have hr := ih fun g hg => hl g (List.mem_cons_of_mem _ hg)
    have hf := hl f (List.mem_cons_self ..) s hs
    unfold firstChange
    split
    · split
      · exact hr
      · exact .some (hf.of_next ‹_›)
    · exact hr

theorem namedActs_groupActs {c : Nat} {g : Group} : NamedActs (groupActs c g) :=
  namedActs_append (namedActs_append (namedActs_append (namedActs_append (namedActs_map fun _ _ h => named_execScratchResult h)
    (namedActs_map fun _ _ h => named_execHeldUniformResult h)) (namedActs_map fun _ _ h => named_execGrantSend h))
    (namedActs_map fun _ _ h => named_execTakeValue h))
    (namedActs_cons (fun _ h => named_execAtomicStep h) (namedActs_cons (fun _ h => named_execLeave h) namedActs_nil))

theorem namedActs_opActs {o : Op} : NamedActs (opActs o) := by
  unfold opActs
  split
  case h_1 => exact namedActs_nil
  case h_2 =>
    exact namedActs_cons (fun _ h => named_execEngineAccess h) (namedActs_cons (fun _ h => named_execTceLanding h)
      (namedActs_cons (fun _ h => named_execTcopyComplete h) namedActs_nil))
  case h_3 => exact namedActs_nil
  case h_4 => exact namedActs_map fun _ _ h => named_execWalkVisit h
  case h_5 => exact namedActs_cons (fun _ h => named_execTvcutComplete h) namedActs_nil
  case h_6 =>
    exact namedActs_append (namedActs_append (namedActs_append
      (namedActs_cons (fun _ h => named_execGalleyReservation h) namedActs_nil)
      (namedActs_map fun _ _ h => named_execEngineAccess h)) (namedActs_map fun _ _ h => named_execGalleyPublish h))
      (namedActs_cons (fun _ h => named_execGalleyOpComplete h) namedActs_nil)
  case h_7 =>
    exact namedActs_append (namedActs_append (namedActs_cons (fun _ h => named_execGalleyReservation h) namedActs_nil)
      (namedActs_map fun _ _ h => named_execEngineAccess h))
      (namedActs_cons (fun _ h => named_execGalleyOpComplete h) namedActs_nil)
  case h_8 =>
    exact namedActs_cons (fun _ h => named_execEngineAccess h) (namedActs_cons (fun _ h => named_execXsendLanding h) namedActs_nil)
  case h_9 =>
    exact namedActs_append (namedActs_flatMap fun _ => namedActs_cons (fun _ h => named_execEngineAccess h)
      (namedActs_cons (fun _ h => named_execFbulkLanding h) namedActs_nil))
      (namedActs_cons (fun _ h => named_execFbulkComplete h) namedActs_nil)
  case h_10 => exact namedActs_nil
  case h_11 => exact namedActs_cons (fun _ h => named_execCtxloadComplete h) namedActs_nil
  case h_12 => exact namedActs_cons (fun _ h => named_execTlbinvComplete h) namedActs_nil

theorem namedActs_coreActs {y : Core} : NamedActs (coreActs y) :=
  namedActs_append (namedActs_append (namedActs_append (namedActs_append (namedActs_append
    (namedActs_flatMap fun _ => namedActs_groupActs)
    (namedActs_cons (fun _ h => named_execMstreamPassRun h) (namedActs_cons (fun _ h => named_execMloadRun h)
      (namedActs_cons (fun _ h => named_execSlotZeroing h) (namedActs_cons (fun _ h => named_execEpiRun h)
      (namedActs_cons (fun _ h => named_execAmovRun h) namedActs_nil))))))
    (namedActs_flatMap fun _ => namedActs_cons (fun _ h => named_execRoutineReturn h)
      (namedActs_cons (fun _ h => named_execBlockSave h) (namedActs_cons (fun _ h => named_execBlockModeFinished h) namedActs_nil))))
    (namedActs_map fun _ _ h => named_execRowFree h)) (namedActs_map fun _ _ h => named_execBlockComplete h))
    (namedActs_cons (fun _ h => named_execTraceUnitWrite h) namedActs_nil)

theorem namedActs_queueActs {y : Queue} : NamedActs (queueActs y) :=
  namedActs_append (namedActs_flatMap fun _ => namedActs_cons (fun _ h => named_execPacketComplete h)
      (namedActs_cons (fun _ h => named_execBarrierTest h) namedActs_nil))
    (namedActs_cons (fun _ h => named_execPacketNop h) (namedActs_cons (fun _ h => named_execPacketLaunch h)
    (namedActs_cons (fun _ h => named_execPacketBarrier h) (namedActs_cons (fun _ h => named_execPacketCopy h)
    (namedActs_cons (fun _ h => named_execPacketSignalSet h) (namedActs_cons (fun _ h => named_execPacketSignalAdd h)
    (namedActs_cons (fun _ h => named_execPacketChain h) (namedActs_cons (fun _ h => named_execPacketEvent h)
    (namedActs_cons (fun _ h => named_execProgressPublish h) namedActs_nil)))))))))

theorem namedActs_launchActs {s : State} {l : LaunchRun} : NamedActs (launchActs s l) :=
  namedActs_cons (fun _ h => named_execInstanceStart h) (namedActs_map fun _ _ h => named_execBlockClaim h)

theorem namedActs_galleyActs {s : State} {y : Galley} : NamedActs (galleyActs s y) := by
  unfold galleyActs
  split
  · exact namedActs_nil
  · split
    · exact namedActs_nil
    · refine namedActs_flatMap fun c => ?_
      split
      · exact namedActs_cons (fun _ h => named_execGalleyConsumerLaunch h)
          (namedActs_cons (fun _ h => named_execGalleyConsumerTimer h) namedActs_nil)
      · exact namedActs_nil

theorem namedActs_ownActs {s : State} : NamedActs (ownActs s) :=
  namedActs_append (namedActs_append (namedActs_append (namedActs_append (namedActs_append (namedActs_append (namedActs_append
    (namedActs_append (namedActs_flatMap fun _ => namedActs_coreActs) (namedActs_flatMap fun _ => namedActs_opActs))
    (namedActs_flatMap fun _ => namedActs_cons (fun _ h => named_execPropagationArrive h)
      (namedActs_cons (fun _ h => named_execReplicaStamp h) namedActs_nil)))
    (namedActs_flatMap fun _ => namedActs_map fun _ _ h => named_execReplicaApply h))
    (namedActs_map fun _ _ h => named_execPermitGrant h)) (namedActs_flatMap fun _ => namedActs_queueActs))
    (namedActs_flatMap fun _ => namedActs_launchActs)) (namedActs_flatMap fun _ => namedActs_galleyActs))
    (namedActs_flatMap fun _ => namedActs_map fun _ _ h => named_dropStale h)

theorem namedActs_openHalves {s : State} : NamedActs (openHalves s) :=
  namedActs_append (namedActs_append (namedActs_map fun _ _ h => named_execAtomicStep h)
    (namedActs_flatMap fun _ => namedActs_map fun _ _ h => named_execPacketComplete h))
    (namedActs_map fun _ _ h => named_execBlockComplete h)

theorem named_closeHalf {s : State} (hs : BlocksNamed s) : NamedOpt (closeHalf s) :=
  named_firstChange namedActs_openHalves hs

theorem named_makeMove {s : State} {m : Move} (hs : BlocksNamed s) : NamedOut (makeMove s m) := by
  unfold makeMove
  split
  · split
    · exact named_exec hs
    · exact .next hs
  · exact named_issueMove hs
  · split
    · exact named_issueMove (named_same hs rfl rfl)
    · exact .next (named_endCycle hs)

theorem named_ownMove {s : State} (hs : BlocksNamed s) : NamedOut (ownMove s) := by
  unfold ownMove
  split
  · exact named_issueMove hs
  · split
    · exact .next ((named_firstChange namedActs_ownActs hs).of_some ‹_›)
    · exact .next (named_endCycle hs)

theorem named_oneMove {s : State} (hs : BlocksNamed s) : NamedOut (oneMove s) := by
  unfold oneMove
  extract_lets +onlyGivenNames t
  have ht : BlocksNamed t := named_same hs rfl rfl
  clear_value t
  split
  next m rest _ =>
    have hhalf : NamedOpt (if m.ofHost then none else closeHalf t) := by
      split
      · exact .none
      · exact named_closeHalf ht
    split
    · exact .next (hhalf.of_some ‹_›)
    · exact named_makeMove (named_same ht rfl rfl)
  · split
    · exact .next ((named_closeHalf ht).of_some ‹_›)
    · exact named_ownMove ht

theorem named_step {s : State} (hs : BlocksNamed s) : NamedOut (step s) :=
  named_oneMove hs

/-- Settles O59: no move gives a block a name that is not below the next name, as only a claim of resources (`reserveBlock`) gives a
block its name, and takes the next one. -/
theorem stepKeepsBlockNames : Obligations.StepKeepsBlockNames := by
  intro s t hs ht
  exact (named_step hs).of_next ht

end Sys2Proof.Machine
end

section
/-! Proofs: a step and the word it runs (O57). -/
namespace Sys2Proof.Machine

/-- The group's split is next to issue an EPI whose record is at byte 0 of the scratchpad, and its block holds the matrix engine. -/
def recordDue : State :=
  (State.reset.withFetchWord 32 (((encode (.epi 4)).getD 0).toNat)).modCore 0 fun x =>
    { x with matrix := { x.matrix with holder := some loadGroup.block } }

/-- What the word that the issuer of `recordDue` fetches at its step runs to, if it completes. -/
def recordRun : Option State :=
  match fetch { recordDue with agenda := [], issuer := some (0, 0, 0), free := recordDue.free + 1 } 0 loadCtx 0 with
  | .word v u => match issueWord loadGroup v u with
    | .next t => some t
    | _ => none
  | _ => none

theorem recordRun_held : (recordRun.any fun t => heldIn t 0 0 0) = true := by decide

/-- The try that reads the record leaves the split held, and its step takes the uniform pipe all the same. -/
theorem step_recordDue_takes_pipe :
    (match step recordDue with | .next t => t.issued | _ => []) = [(0, 0, true)]
    ∧ (recordRun.any fun t => t.issued.isEmpty) = true := by decide

theorem recordDue_tries :
    let s0 : State := { recordDue with agenda := [], issuer := none, free := recordDue.free + 1 }
    let sp := newSplit 0 0 (BitVec.allOnes 32) 0
    recordDue.agenda = [.issue 0 0 0] ∧ s0.group? 0 0 = some loadGroup ∧ loadGroup.split? 0 = some sp ∧ s0.ctx? 0 = some loadCtx
    ∧ mayTry s0 0 loadGroup sp = true ∧ parks loadGroup sp = false ∧ loadGroup.la = []
    ∧ (closeHalf { recordDue with issuer := none, free := recordDue.free + 1 }).isNone = true := by decide

/-- Refutes O57: in its clause on a split that stays held. An EPI with no record yet is held until its record is read, and the
reading takes the pipe of the cycle (16 R234), so the step does not only mark the split: it records the issue too. -/
theorem not_stepRunsDecoded : ¬ Obligations.StepRunsDecoded := by
  intro h
  obtain ⟨hagenda, hgroup, hsplit, hctx, htry, hparks, hla, hdue⟩ := recordDue_tries
  obtain ⟨hstep, hrun⟩ := step_recordDue_takes_pipe
  have hheld := recordRun_held
  unfold recordRun at hheld hrun
  split at hheld
  next v u hf =>
    rw [hf] at hrun
    dsimp only at hrun
    obtain ⟨-, -, h⟩ := h recordDue []
    obtain ⟨h, -⟩ := h 0 0 0 loadGroup _ loadCtx v u hagenda (Option.isNone_iff_eq_none.1 hdue) hgroup hsplit hctx htry hparks
      (by simp [hla]) hf
    split at hheld
    next t ht =>
      rw [ht] at hrun
      rw [h t ht hheld] at hstep
      replace hrun : t.issued.isEmpty = true := hrun
      replace hstep : t.issued = [(0, 0, true)] := hstep
      rw [hstep] at hrun
      exact nomatch hrun
    · exact nomatch hheld
  · exact nomatch hheld

end Sys2Proof.Machine
end

section
/-! Proofs: branches, joins and the other control instructions (O16, O17). -/
namespace Sys2Proof.Machine

/-! A trace event changes nothing but the events of the cycle. -/

theorem note_eq (s : State) (e : TraceEvent) : note s e = { s with traceNow := (note s e).traceNow } := by
  unfold note
  split
  · rfl
  · split
    · rfl
    · split <;> rfl

theorem note_core (s : State) (e : TraceEvent) (c : Nat) : (note s e).core c = s.core c := by
  rw [note_eq]
  rfl

theorem note_group (s : State) (e : TraceEvent) (c b : Nat) : (note s e).group? c b = s.group? c b := by
  rw [note_eq]
  rfl

theorem note_local (s : State) (e : TraceEvent) (w : Issuer) (keys ks : Nat → Prop) (fl : Bool) : Local s (note s e) w keys ks fl := by
  rw [note_eq]
  exact ⟨rfl, fun _ => rfl, fun _ _ => rfl, rfl, fun _ _ => rfl, fun _ _ => rfl, fun g hg => ⟨g, hg, GroupLocal.refl ks fl g⟩⟩

theorem Stands.note {t : State} {w : Issuer} {sp : Split} (h : Stands t w sp) (e : TraceEvent) : Stands (note t e) w sp := by
  obtain ⟨g, hg, h⟩ := h
  exact ⟨g, (note_group t e w.c w.slot).trans hg, h⟩

theorem Tracks.note {t : State} {w : Issuer} (h : Tracks t w) (e : TraceEvent) : Tracks (note t e) w := by
  obtain ⟨g, hg, h⟩ := h
  exact ⟨g, (note_group t e w.c w.slot).trans hg, h⟩

/-! Changing one split of the issuing group. -/

theorem group_changed_some {s : State} {c slot : Nat} {g : Group} (F : Group → Group) (hs : ∀ g, (F g).slot = g.slot)
    (hg : s.group? c slot = some g) : (s.modGroup c slot F).group? c slot = some (F g) := by
  rw [group_changed s c slot F hs, hg]
  rfl

theorem modSplit_local (s : State) (w : Issuer) (i : Nat) (f : Split → Split) (ks : Nat → Prop) (fl : Bool) :
    Local s (s.modSplit w.c w.slot i f) w noKeys ks fl :=
  modGroup_local _ (fun _ => rfl) fun _ => ⟨rfl, fun _ _ => rfl, fun _ => rfl, by simp [Group.modSplit]⟩

theorem Stands.modSplit {t : State} {w : Issuer} {sp : Split} (h : Stands t w sp) (f : Split → Split) (hf : ∀ a, (f a).idx = a.idx) :
    Stands (t.modSplit w.c w.slot w.idx f) w (f sp) := by
  obtain ⟨g, hg, hsp, ho⟩ := h
  refine ⟨g.modSplit w.idx f, group_changed_some (·.modSplit w.idx f) (fun _ => rfl) hg, ?_, fun i hi => ?_⟩
  · rw [split_modSplit _ _ _ hf, hsp]
    rfl
  · rw [split_modSplit_other _ _ _ _ hf hi, ho i hi]

/-! The split table after a split is put in it. -/

theorem split_setSplit (g : Group) (x : Split) : (g.setSplit x).split? x.idx = some x := by
  show (putSplit x g.splits).find? (fun y => y.idx == x.idx) = some x
  induction g.splits with
  | nil => simp [putSplit]
  | cons y r ih =>
    unfold putSplit
    split
    · simp
    · split
      · simp
      next h _ => simpa [h] using ih

theorem split_setSplit_other (g : Group) (x : Split) (i : Nat) (h : i ≠ x.idx) : (g.setSplit x).split? i = g.split? i := by
  have hx : (x.idx == i) = false := by simpa using h.symm
  show (putSplit x g.splits).find? (fun y => y.idx == i) = g.splits.find? (fun y => y.idx == i)
  induction g.splits with
  | nil => simp [putSplit, hx]
  | cons y r ih =>
    unfold putSplit
    split
    next hy =>
      have : (y.idx == i) = false := by rw [hy]; exact hx
      simp [hx, this]
    · split
      · simp [hx]
      · simp [ih, List.find?_cons]

theorem setSplit_local (s : State) (w : Issuer) (x : Split) : Local s (s.modMine w fun g => g.setSplit x) w noKeys noKeys false :=
  modGroup_local _ (fun _ => rfl) fun _ => ⟨rfl, fun _ _ => rfl, fun _ => rfl, by simp [Group.setSplit]⟩

/-! Entries pushed on chip. -/

/-- The group with an entry pushed on its stack. -/
def pushed (e : SEntry) (g : Group) : Group := { g with stack := e :: g.stack }

theorem pushEntry_chip {s : State} {c slot i : Nat} {g : Group} (hg : s.group? c slot = some g) (hn : (chipEntries g).length < 32)
    (e : SEntry) : pushEntry s c slot i e = .ok (s.modGroup c slot (pushed e)) := by
  unfold pushEntry
  rw [hg]
  cases hc : chipEntries g with
  | nil => simp only [hc]; rfl
  | cons b r =>
    have hr : r.length < 31 := by
      rw [hc, List.length_cons] at hn
      omega
    simp only [hc, if_pos hr]
    rfl

theorem pushEntry_overflow {s : State} {c slot i : Nat} {g : Group} (hg : s.group? c slot = some g)
    (hn : 32 ≤ (chipEntries g).length) (hb : spillBase g = 0) (e : SEntry) : pushEntry s c slot i e = .overflow 0 := by
  unfold pushEntry
  rw [hg]
  cases hc : chipEntries g with
  | nil => rw [hc] at hn; exact absurd hn (by simp)
  | cons b r =>
    have hr : ¬ r.length < 31 := by
      rw [hc, List.length_cons] at hn
      omega
    simp only [hc, if_neg hr, if_pos hb]

theorem pushed_near (s : State) (w : Issuer) (e : SEntry) :
    Near s (s.modGroup w.c w.slot (pushed e)) w noKeys (GroupBy (pushed e)) :=
  modGroup_near _ (fun _ => rfl) fun _ => ⟨rfl, rfl⟩

theorem Tracks.pushed {s : State} {w : Issuer} (h : Tracks s w) (e : SEntry) : Tracks (s.modGroup w.c w.slot (pushed e)) w := by
  obtain ⟨g, hg, h⟩ := h
  exact ⟨Machine.pushed e g, group_changed_some (Machine.pushed e) (fun _ => rfl) hg, h⟩

theorem retire_near (s : State) (w : Issuer) (pc : PC) (n : Nat) : Near s (retire s w pc n) w noKeys (GroupBy id) :=
  modGroup_near _ (fun _ => rfl) fun g => ⟨rfl, pass_content g s.cycle w.sp.mask n⟩

theorem modSplit_near (s : State) (w : Issuer) (i : Nat) (f : Split → Split) :
    Near s (s.modSplit w.c w.slot i f) w noKeys (GroupBy id) :=
  modGroup_near _ (fun _ => rfl) fun _ => ⟨rfl, rfl⟩

theorem note_near (s : State) (e : TraceEvent) (w : Issuer) : Near s (note s e) w noKeys (GroupBy id) := by
  rw [note_eq]
  exact ⟨rfl, fun _ => rfl, fun _ _ => rfl, rfl, fun _ _ => rfl, fun _ _ => rfl, fun g hg => ⟨g, hg, rfl, rfl⟩⟩

/-- A change of the group goes on through changes of its split table and its writes in flight. -/
theorem Near.by_trans {s t u : State} {w : Issuer} {f : Group → Group} (h : Near s t w noKeys (GroupBy f))
    (k : Near t u w noKeys (GroupBy id)) : Near s u w noKeys (GroupBy f) := by
  refine h.trans k fun a b c hab hbc => ?_
  obtain ⟨hab, hla⟩ := hab
  obtain ⟨hbc, kla⟩ := hbc
  rw [hab] at hbc
  exact ⟨hbc, kla.trans hla⟩

/-! The moves of a branch. -/

theorem moves_of_retire {s : State} {w : Issuer} {i : Instr} {pc : PC} {n : Nat} (h : s.who = some w)
    (e : exec i s = .next (retire s w pc n)) : Moves s w i pc :=
  ⟨_, e, retire_goesOn pc n (who_tracks h) (who_parts h).2.1, retire_local s w pc n⟩

theorem moves_of_note_retire {s : State} {w : Issuer} {i : Instr} {pc : PC} {n : Nat} {v : TraceEvent} (h : s.who = some w)
    (e : exec i s = .next (retire (note s v) w pc n)) : Moves s w i pc :=
  ⟨_, e, retire_goesOn pc n ((who_tracks h).note v) (who_parts h).2.1, (note_local s v w _ _ _).trans (retire_local _ w pc n)⟩

/-- The split keeps some of its lanes and goes on after the branch. -/
theorem keepLanes_stands {s : State} {w : Issuer} (h : Tracks s w) (hsp : w.g.split? w.idx = some w.sp) (kept : Mask) :
    Stands (keepLanes s w kept) w { w.sp with pc := nextPc w, mask := kept, hold := .none, heldFor := 0 } :=
  (retire_goesOn (nextPc w) 1 h hsp).modSplit (fun sp => { sp with mask := kept }) fun _ => rfl

theorem keepLanes_near (s : State) (w : Issuer) (kept : Mask) : Near s (keepLanes s w kept) w noKeys (GroupBy id) :=
  (retire_near s w (nextPc w) 1).by_trans (modSplit_near _ w w.idx _)

theorem keepLanes_local (s : State) (w : Issuer) (kept : Mask) : Local s (keepLanes s w kept) w noKeys noKeys false :=
  (retire_local s w (nextPc w) 1).trans (modSplit_local _ w w.idx _ _ _)

theorem freeIdx_free {g : Group} {i : Nat} (h : g.freeIdx = some i) : g.split? i = none := by
  simpa using List.find?_some h

/-- The split with its try of the cycle made. -/
def markTried (sp : Split) : Split := { sp with tried := true }

/-- BRD with split entries to spare: the taken lanes are a new split. -/
theorem divide_some {s : State} {w : Issuer} (h : s.who = some w) {i : Nat} (hi : w.g.freeIdx = some i) (taken : Mask) (pc : PC) :
    Local s (divide s w taken pc) w noKeys noKeys false
    ∧ ∃ g, (divide s w taken pc).group? w.c w.slot = some g
      ∧ g.split? w.idx = some { w.sp with pc := nextPc w, mask := w.sp.mask &&& ~~~taken, hold := .none, heldFor := 0 }
      ∧ g.split? i = some ⟨i, pc, taken, w.sp.passOver, .none, 0, true⟩ ∧ ∀ j, j ≠ w.idx → j ≠ i → g.split? j = w.g.split? j := by
  obtain ⟨-, hsp, -⟩ := who_parts h
  have hne : w.idx ≠ i := fun e => by
    have := freeIdx_free hi
    rw [← e, hsp] at this
    exact nomatch this
  obtain ⟨g, hg, hkept, hother⟩ := keepLanes_stands (who_tracks h) hsp (w.sp.mask &&& ~~~taken)
  have hlocal := keepLanes_local s w (w.sp.mask &&& ~~~taken)
  simp only [divide, hi]
  generalize keepLanes s w (w.sp.mask &&& ~~~taken) = t at hg hlocal
  refine ⟨(hlocal.trans (setSplit_local t w _)).trans ((modSplit_local _ w i _ _ _).trans
    ((note_local _ _ w _ _ _).trans (note_local _ _ w _ _ _))), (g.setSplit (newSplit i pc taken w.sp.passOver)).modSplit i markTried, ?_, ?_, ?_, fun j hj hji => ?_⟩
  · rw [note_group, noteUni, note_group]
    exact group_changed_some (·.modSplit i markTried) (fun _ => rfl) (group_changed_some (·.setSplit _) (fun _ => rfl) hg)
  · rw [split_modSplit_other _ _ _ markTried (fun _ => rfl) hne, split_setSplit_other _ _ _ hne, hkept]
  · rw [split_modSplit _ _ markTried fun _ => rfl]
    exact congrArg (Option.map markTried) (split_setSplit g (newSplit i pc taken w.sp.passOver))
  · rw [split_modSplit_other _ _ _ markTried (fun _ => rfl) hji, split_setSplit_other _ _ _ hji, hother j hj]

/-- BRD with every split entry in use: the taken lanes are a DEFER entry. -/
theorem divide_none {s : State} {w : Issuer} (h : s.who = some w) (hi : w.g.freeIdx = none) (hn : (chipEntries w.g).length < 32)
    (taken : Mask) (pc : PC) :
    Stands (divide s w taken pc) w { w.sp with pc := nextPc w, mask := w.sp.mask &&& ~~~taken, hold := .none, heldFor := 0 }
    ∧ Near s (divide s w taken pc) w noKeys (GroupBy (pushed ⟨.defer, pc, taken, 0, false⟩)) := by
  obtain ⟨hg, hsp, -⟩ := who_parts h
  simp only [divide, hi, pushEntry_chip hg hn]
  exact ⟨(keepLanes_stands ((who_tracks h).pushed _) hsp _).note _,
    ((pushed_near s w _).by_trans (keepLanes_near _ w _)).by_trans (note_near _ _ w)⟩

/-- Settles O16: by whether no lane is taken, every lane, or some of them, and in that case by whether a split entry is free. -/
theorem divergentBranches : Obligations.DivergentBranches := by
  intro s w k v o h dest pc truth taken kept h0 h1
  have hact : exec (.brd k v o) s = .next (if taken = 0 then moveWhole s w false pc
      else if taken = w.sp.mask then moveWhole s w true pc else divide s w taken pc) := by
    rw [exec_brd, execBrd, uniIssue_acts h rfl (by simp) (by simp), toTarget, if_pos (by simpa [targetOk] using ⟨h0, h1⟩)]
    rfl
  refine ⟨fun ht => ?_, fun ht hall => ?_, fun ht hsome => ?_⟩
  · rw [if_pos ht] at hact
    exact moves_of_note_retire h.1 hact
  · rw [if_neg ht, if_pos hall] at hact
    exact moves_of_note_retire h.1 hact
  · rw [if_neg ht, if_neg hsome] at hact
    refine ⟨fun i hi => ?_, fun hi hn => ⟨_, hact, divide_none h.1 hi hn taken pc⟩⟩
    obtain ⟨hlocal, g, hg, hsplits⟩ := divide_some h.1 hi taken pc
    exact ⟨_, g, hact, hlocal, hg, hsplits⟩

end Sys2Proof.Machine
end

section
/-! Proofs: what the writing of a record in memory leaves unchanged. -/
namespace Sys2Proof.Machine

/-- Between two states only memory, the copies of its lines, the translations kept and the device changed, as by the writing of a record
in memory: the cores, contexts, operations, queues' and launches' records are as before. -/
structure Posted (s t : State) : Prop where
  cores : t.cores = s.cores
  ctxs : t.ctxs = s.ctxs
  ops : t.ops = s.ops
  launches : t.launches = s.launches
  nextId : t.nextId = s.nextId

theorem Posted.refl (s : State) : Posted s s := ⟨rfl, rfl, rfl, rfl, rfl⟩

theorem posted_same {u s t : State} (h : Posted u s)
    (e : (t.cores, t.ctxs, t.ops, t.launches, t.nextId) = (s.cores, s.ctxs, s.ops, s.launches, s.nextId)) : Posted u t := by
  simp only [Prod.mk.injEq] at e
  obtain ⟨hcores, hctxs, hops, hlaunches, hid⟩ := e
  exact ⟨hcores.trans h.cores, hctxs.trans h.ctxs, hops.trans h.ops, hlaunches.trans h.launches, hid.trans h.nextId⟩

theorem posted_of_snd {α : Type} {u t : State} {p : α × State} {a : α} (h : Posted u p.2) (e : p = (a, t)) : Posted u t := by
  subst e
  exact h

theorem posted_foldl {α : Type} {u s : State} {f : State → α → State} (hf : ∀ s a, Posted u s → Posted u (f s a)) {xs : List α}
    (h : Posted u s) : Posted u (xs.foldl f s) := by
  induction xs generalizing s with
  | nil => exact h
  | cons a xs ih => exact ih (hf s a h)

theorem Posted.core {s t : State} (h : Posted s t) (c : Nat) : t.core c = s.core c := by simp only [State.core, h.cores]

theorem Posted.group {s t : State} (h : Posted s t) (c b : Nat) : t.group? c b = s.group? c b := by simp only [State.group?, h.core]

theorem Posted.ctx {s t : State} (h : Posted s t) (c : Nat) : t.ctx? c = s.ctx? c := by simp only [State.ctx?, h.ctxs]

theorem posted_modDev {u s : State} {f : Device → Device} (hs : Posted u s) : Posted u (s.modDev f) :=
  posted_same hs rfl

theorem posted_coin {u s : State} (hs : Posted u s) : Posted u s.coin.2 :=
  posted_same hs rfl

theorem posted_poke {u s : State} {pa : Nat} {bs : List Byte} (hs : Posted u s) : Posted u (s.poke pa bs) :=
  posted_same hs rfl

theorem posted_putCells {u s : State} {cs : List Host.Cell} {bad : List Nat} (hs : Posted u s) : Posted u (s.putCells cs bad) :=
  posted_same hs rfl

theorem posted_homePoke {u s : State} {pa : Nat} {bs : List Byte} (hs : Posted u s) : Posted u (s.homePoke pa bs) := by
  unfold State.homePoke
  extract_lets +onlyGivenNames t
  have ht : Posted u t := posted_poke hs
  split
  · exact posted_same ht rfl
  · exact ht

theorem posted_sealTrip {u s : State} {key port : Nat} (hs : Posted u s) : Posted u (sealTrip s key port).2 := by
  unfold sealTrip
  split
  · exact hs
  · split
    · exact hs
    · exact posted_coin (posted_modDev hs)

theorem posted_cacheLeaf {u s : State} {h : Tlb} {c va level pte : Nat} (hs : Posted u s) : Posted u (cacheLeaf s h c va level pte) :=
  posted_same hs rfl

theorem posted_throughTlb {u : State} {h : Tlb} {c va : Nat} {next : Except XErr (Nat × Nat) × State} (hnext : Posted u next.2) :
    Posted u (throughTlb h c va next).2 := by
  unfold throughTlb
  extract_lets +onlyGivenNames fill
  have hfill : Posted u fill.2 := by
    unfold fill
    split
    · exact hnext
    · exact posted_cacheLeaf hnext
  split
  · exact hfill
  · extract_lets +onlyGivenNames same r
    have hr : Posted u r.2 := by
      unfold r
      split
      · exact hnext
      · exact hfill
    split
    · exact hr
    · exact posted_same hr rfl

theorem posted_findLeaf {u s : State} {h : Tlb} {x : Ctx} {va : Nat} (hs : Posted u s) : Posted u (findLeaf s h x va).2 := by
  unfold findLeaf
  split
  · exact posted_throughTlb hs
  · exact posted_throughTlb (posted_throughTlb hs)

theorem posted_translate {u s : State} {h : Tlb} {x : Ctx} {need : Need} {va : Nat} (hs : Posted u s) :
    Posted u (Machine.translate s h x need va).2 := by
  unfold translate
  split
  · exact posted_of_snd (posted_findLeaf hs) ‹_›
  · exact posted_of_snd (posted_findLeaf hs) ‹_›

theorem posted_translateR {u s : State} {h : Tlb} {x : Ctx} {need : Need} {va : Nat} (hs : Posted u s) :
    Posted u (translateR s h x need va).2 := by
  unfold translateR
  split
  · exact posted_of_snd (posted_translate hs) ‹_›
  · split
    · exact posted_of_snd (posted_translate hs) ‹_›
    · exact posted_of_snd (posted_translate hs) ‹_›

theorem posted_placeSpans {u : State} {h : Tlb} {x : Ctx} {need : Need} {s : State} {l : List (Nat × Nat)} (hs : Posted u s) :
    Posted u (placeSpans h x need s l).2 := by
  fun_induction placeSpans h x need s l
  · exact hs
  · exact posted_of_snd (posted_translateR hs) ‹_›
  · rename_i ih
    exact posted_of_snd (ih (posted_of_snd (posted_translateR hs) ‹_›)) ‹_›
  · rename_i ih
    exact posted_of_snd (ih (posted_of_snd (posted_translateR hs) ‹_›)) ‹_›

theorem posted_sealPage {u s : State} {ctx : Nat} {p : Page} (hs : Posted u s) : Posted u (sealPage s ctx p).2 := by
  unfold sealPage
  split
  · exact hs
  · split
    · exact posted_of_snd (posted_sealTrip hs) ‹_›
    · dsimp only
      exact posted_modDev (posted_of_snd (posted_sealTrip hs) ‹_›)

theorem posted_sealPlaces {u : State} {ctx : Nat} {s : State} {l : List (Page × Nat)} (hs : Posted u s) : Posted u (sealPlaces ctx s l).2 := by
  fun_induction sealPlaces ctx s l
  · exact hs
  · rename_i ih
    exact ih (posted_of_snd (posted_sealPage hs) ‹_›)
  · exact posted_of_snd (posted_sealPage hs) ‹_›

theorem posted_placeSealed {u : State} {h : Tlb} {x : Ctx} {need : Need} {s : State} {l : List (Nat × Nat)} (hs : Posted u s) :
    Posted u (placeSealed h x need s l).2 := by
  unfold placeSealed
  split
  · exact posted_of_snd (posted_placeSpans hs) ‹_›
  · split
    · exact posted_of_snd (posted_sealPlaces (posted_of_snd (posted_placeSpans hs) ‹_›)) ‹_›
    · exact posted_of_snd (posted_sealPlaces (posted_of_snd (posted_placeSpans hs) ‹_›)) ‹_›

theorem posted_modReplica {u s : State} {c rset : Nat} {f : ReplicaSet → ReplicaSet} (hs : Posted u s) :
    Posted u (modReplica s c rset f) := by
  unfold modReplica
  split
  · exact posted_same hs rfl
  · exact posted_same hs rfl

theorem posted_stampWrite {u s : State} {x : Ctx} {rset : Nat} {cells : List Host.Cell} {bad : List Nat} {w : Writer} (hs : Posted u s) :
    Posted u (stampWrite s x rset cells bad w) := by
  unfold stampWrite
  split
  · exact hs
  · exact posted_modReplica (posted_putCells hs)

theorem posted_writePlaces {u : State} {x : Ctx} {s : State} {l : List (Page × Nat)} {l1 : List Byte} (hs : Posted u s) :
    Posted u (writePlaces x s l l1) := by
  fun_induction writePlaces x s l l1
  · exact hs
  · rename_i ih
    refine ih ?_
    rename_i t
    unfold t
    split
    · exact posted_stampWrite hs
    · exact posted_homePoke hs

theorem posted_writeVa {u s : State} {h : Tlb} {x : Ctx} {va : Nat} {bs : List Byte} (hs : Posted u s) :
    Posted u (writeVa s h x va bs).2 := by
  unfold writeVa
  split
  · exact hs
  · split
    · exact posted_of_snd (posted_placeSealed hs) ‹_›
    · exact posted_writePlaces (posted_of_snd (posted_placeSealed hs) ‹_›)

theorem posted_countLost {u s : State} {ring : Nat} (hs : Posted u s) : Posted u (countLost s ring) := by
  unfold countLost
  extract_lets +onlyGivenNames d
  split
  · exact posted_poke hs
  · exact hs

theorem posted_tryPost {u s : State} {ring : Nat} {ctx : Option Ctx} {ty : EventType} {queue code detail : Nat} {src : EventSource}
    (hs : Posted u s) : Posted u (tryPost s ring ctx ty queue code detail src).2 := by
  unfold tryPost
  extract_lets d tail size va rec_ written
  have hwritten : ∀ t, written = some t → Posted u t := by
    intro t ht
    unfold written at ht
    split at ht
    · split at ht
      · split at ht
        · exact Option.some.inj ht ▸ posted_homePoke hs
        · exact nomatch ht
      · split at ht
        · exact Option.some.inj ht ▸ posted_of_snd (posted_writeVa hs) ‹_›
        · exact nomatch ht
    · exact nomatch ht
  clear_value written rec_ va size tail d
  cases written with
  | some t => exact posted_poke (hwritten t rfl)
  | none =>
    dsimp only
    exact posted_countLost hs

theorem posted_haltAt {u s : State} {q state code index : Nat} (hs : Posted u s) : Posted u (haltAt s q state code index) := by
  unfold haltAt
  extract_lets +onlyGivenNames d word t
  have ht : Posted u t := by
    unfold t
    split
    · exact posted_poke hs
    · exact hs
  exact posted_poke ht

theorem posted_haltQueue {u s : State} {q state code : Nat} (hs : Posted u s) : Posted u (haltQueue s q state code) :=
  posted_haltAt hs

theorem posted_loseEvent {u s : State} {x : Ctx} (hs : Posted u s) : Posted u (loseEvent s x) := by
  unfold loseEvent
  refine posted_foldl (fun _ _ h => ?_) hs
  split
  · exact posted_tryPost (posted_haltQueue h)
  · exact h

theorem posted_postTo {u s : State} {ring : Nat} {ctx : Option Ctx} {ty : EventType} {queue code detail : Nat} {src : EventSource}
    (hs : Posted u s) : Posted u (postTo s ring ctx ty queue code detail src) := by
  have h := posted_tryPost (ring := ring) (ctx := ctx) (ty := ty) (queue := queue) (code := code) (detail := detail) (src := src) hs
  unfold postTo
  generalize tryPost s ring ctx ty queue code detail src = r at h ⊢
  split
  · split
    · exact posted_loseEvent h
    · exact h
  · exact h

theorem posted_postEvent {u s : State} {c : Nat} {ty : EventType} {queue code detail : Nat} {src : EventSource} (hs : Posted u s) :
    Posted u (postEvent s c ty queue code detail src) := by
  unfold postEvent
  split
  · exact hs
  · exact posted_postTo hs

end Sys2Proof.Machine
end

section
/-! Proofs: NOP, PJOIN, TMARK, YIELD and EVENT (O17). -/
namespace Sys2Proof.Machine

/-! What an instruction sees of its group after a record is written in memory is as before. -/

theorem Posted.tracks {s t : State} {w : Issuer} (h : Posted s t) (hw : Tracks s w) : Tracks t w := by
  obtain ⟨g, hg, hw⟩ := hw
  exact ⟨g, (h.group w.c w.slot).trans hg, hw⟩

theorem posted_event (s : State) (c : Nat) (ty : EventType) (queue code detail : Nat) (src : EventSource) :
    Posted s (postEvent s c ty queue code detail src) := posted_postEvent (.refl s)

/-! The positions that a retirement counts. -/

theorem atLanes_lane (m : Mask) (f : Nat → Nat) (xs : List Nat) {l : Nat} (h : l < 32) :
    (atLanes m f xs).getD l 0 = if m.getLsbD l then f (xs.getD l 0) else xs.getD l 0 := by
  simp [atLanes, List.getD_eq_getElem?_getD, h]

theorem pass_left {g : Group} {cycle n i : Nat} {m : Mask} {r : LaResult} (h : g.la[i]? = some r) :
    ∃ q, (g.pass cycle m n).la[i]? = some q ∧ ∀ l, l < 32 →
      q.left.getD l 0 = if m.getLsbD l && r.parked == 0 then r.left.getD l 0 - n else r.left.getD l 0 := by
  refine ⟨if r.parked = 0 then { r with left := atLanes m (· - n) r.left } else r, by simp [Group.pass, h], fun l hl => ?_⟩
  by_cases hp : r.parked = 0
  · simp only [hp, if_true, atLanes_lane m _ _ hl, beq_self_eq_true, Bool.and_true]
  · simp [hp]

theorem retire_left {s : State} {w : Issuer} (h : s.who = some w) (pc : PC) (n : Nat) {i : Nat} {r : LaResult} (hr : w.g.la[i]? = some r) :
    ∃ g q, (retire s w pc n).group? w.c w.slot = some g ∧ g.la[i]? = some q ∧ ∀ l, l < 32 →
      q.left.getD l 0 = if w.sp.mask.getLsbD l && r.parked == 0 then r.left.getD l 0 - n else r.left.getD l 0 := by
  obtain ⟨hg, -, -⟩ := who_parts h
  obtain ⟨q, hq, hleft⟩ := pass_left (cycle := s.cycle) (n := n) (m := w.sp.mask) hr
  exact ⟨_, q, group_changed_some (fun g => (g.pass s.cycle w.sp.mask n).modSplit w.idx fun sp =>
    { sp with pc := pc, hold := .none, heldFor := 0 }) (fun _ => rfl) hg, hq, hleft⟩

/-- A split that is blocked after its instruction stands held. -/
theorem blockIt_stands {t : State} {w : Issuer} {sp : Split} (h : Stands t w sp) (k : Hold) :
    Stands (blockIt t w k) w { sp with hold := k, heldFor := 0 } :=
  h.modSplit (fun sp => { sp with hold := k, heldFor := 0 }) fun _ => rfl

/-- Settles O17: by the effect of each instruction, all five of which act, as they name no register and read nothing too near. -/
theorem controlCompletes : Obligations.ControlCompletes := by
  intro s w n o a b h
  obtain ⟨hg, hsp, -⟩ := who_parts h.1
  have htracks := who_tracks h.1
  refine ⟨?_, ?_, fun hroom => ?_, fun hfull hbase => ?_, ?_, ?_⟩
  · have hact : exec (.nop n) s = .next (retire s w (nextPc w) (n.val + 1)) := by
      rw [exec_nop, execNop, uniIssue_acts h rfl (by simp) (by simp)]
    exact ⟨_, hact, retire_goesOn _ _ htracks hsp, retire_local .., fun i r hr => retire_left h.1 _ _ hr⟩
  · refine moves_of_note_retire h.1 (n := 1) (v := ⟨w.c, w.slot, 1, w.idx, w.sp.pc, w.sp.mask, w.sp.pc, w.sp.mask, .sync⟩) ?_
    rw [exec_tmark, execTmark, uniIssue_acts h rfl (by simp) (by simp)]
    rfl
  · refine ⟨done (s.modGroup w.c w.slot (pushed _)) w, ?_, retire_goesOn _ _ (htracks.pushed _) hsp,
      (pushed_near s w _).by_trans (retire_near ..)⟩
    rw [exec_pjoin, execPjoin, uniIssue_acts h rfl (by simp) (by simp), pushEntry_chip hg hroom]
    rfl
  · have hspill : spillBase w.g = 0 := by simp [spillBase, hbase]
    rw [exec_pjoin, execPjoin, uniIssue_acts h rfl (by simp) (by simp), pushEntry_overflow hg hfull hspill]
    rfl
  · refine ⟨blockIt (done s w) w .yield, ?_, blockIt_stands (retire_goesOn _ _ htracks hsp) _,
      (retire_local ..).trans (modSplit_local ..)⟩
    rw [exec_yield, execYield, uniIssue_acts h rfl (by simp) (by simp)]
  · refine ⟨done (postEvent s w.g.ctx .program 0xFFFF ((uniG s w a).toNat % 65536) (uniG s w b).toNat (groupSource w.c w.slot)) w,
      ?_, retire_goesOn _ _ ((posted_event ..).tracks htracks) hsp, retire_local ..⟩
    rw [exec_event, execEvent, uniIssue_acts h rfl (by simp) (by simp)]

end Sys2Proof.Machine
end

section
/-! Proofs: TRAP, BRK and RETT (O20). -/
namespace Sys2Proof.Machine

/-- A group with one TRAP entry on its stack, whose split 0 has an XPERMIT with a grant that has not left. -/
def permitFramed : Group :=
  { loadGroup with stack := [⟨.trap, 0x40, BitVec.allOnes 32, 0, false⟩], permits := [⟨0, 1, 2, 1⟩] }

/-- The state whose issuer is the split of that group. -/
def permitReturn : State :=
  { State.reset.withFetchWord 32 0 with issuer := some (0, 0, 0), cores := [{ Core.idle 0 with groups := [permitFramed] }] }

/-- The issuer of that state. -/
def permitIssuer : Issuer := ⟨0, 0, 0, permitReturn.core 0, permitFramed, newSplit 0 0 (BitVec.allOnes 32) 0⟩

theorem permitReturn_who : permitReturn.who = some permitIssuer := by decide

theorem permitReturn_hold :
    (match exec .rett permitReturn with
      | .next t => ((t.group? 0 0).bind fun g => g.split? 0).map fun sp => sp.hold
      | _ => none) = some (.xpermit 1 1) := by decide

/-- Refutes O20: in the hold of a split after RETT. The split of a frame whose XPERMIT has a grant that has not left is held by it again
(24 R316), where the statement has no hold but that of a poisoned result. -/
theorem not_trapAndReturn : ¬ Obligations.TrapAndReturn := by
  rintro ⟨-, h⟩
  obtain ⟨-, h⟩ := h permitReturn permitIssuer ⟨permitReturn_who, .inr rfl⟩
  obtain ⟨t, g, ht, hg, hsplit, -⟩ := h (by decide) rfl (by decide)
  have hsp := hsplit ⟨.trap, 0x40, BitVec.allOnes 32, 0, false⟩ (by decide)
  have hhold := permitReturn_hold
  rw [ht] at hhold
  replace hhold : ((t.group? 0 0).bind fun g => g.split? 0).map (fun sp => sp.hold) = some (.xpermit 1 1) := hhold
  replace hg : t.group? 0 0 = some g := hg
  rw [hg, Option.bind_some] at hhold
  replace hsp := hsp.symm.trans (by rfl : g.split? _ = g.split? 0)
  rw [← hsp] at hhold
  exact absurd hhold (by decide)

end Sys2Proof.Machine
end

section
/-! Proofs: the answers to fault records (O45). -/
namespace Sys2Proof.Machine

/-- A store in the queue of a group that waits for the answer to its record. -/
def awaitingStore : QEntry := ⟨0, 0, 0, [], none, none, [], [], false, .waiting 0, 0⟩

/-- The record of that store. -/
def storeRecord : FaultRecord := ⟨0, 0, 1, 0, 1, .store 0 0 0⟩

/-- A context whose fault queue has one slot, which the record of the store fills, while a fault of a spill access waits for it. -/
def fullQueueCtx : Ctx :=
  { loadCtx with fwfault := true, faults := [storeRecord], faultWait := [⟨0, (0, 0, 0, 0), 4, 0, 1, 0, .spill 0 0 0⟩] }

/-- The state of that context with the group of the store. -/
def fullQueueState : State :=
  { State.reset.withFetchWord 32 0 with
    ctxs := [fullQueueCtx], cores := [{ Core.idle 0 with groups := [{ loadGroup with queue := [awaitingStore] }] }] }

theorem fullQueueState_answered :
    (match exec (.faultAnswerFirmware 0 0 false) fullQueueState with
      | .next t => (t.ctx? 0).map fun x => x.faultWait.length
      | _ => none) = some 0 := by decide

/-- Refutes O45: in the answers to fault records. The slot that an answer frees takes the fault that waits for one (26 R330), so that the
context has a record again, where the statement has it with none and with its waiting faults as they were. -/
theorem not_splitAndFaultEvents : ¬ Obligations.SplitAndFaultEvents := by
  rintro ⟨-, h⟩
  obtain ⟨-, h⟩ := h fullQueueState fullQueueCtx storeRecord { loadGroup with queue := [awaitingStore] } awaitingStore 0 0 0 0 false
    rfl rfl rfl rfl rfl (by decide) rfl
  obtain ⟨t, -, y, ht, hy, rfl, -⟩ := h rfl
  have hwait := fullQueueState_answered
  replace ht : exec (.faultAnswerFirmware 0 0 false) fullQueueState = .next t := ht
  replace hy : t.ctx? 0 = some { fullQueueCtx with faults := [] } := hy
  rw [ht] at hwait
  replace hwait : (t.ctx? 0).map (fun x => x.faultWait.length) = some 0 := hwait
  rw [hy] at hwait
  exact absurd hwait (by decide)

end Sys2Proof.Machine
end

section
/-! Proofs: the end of a block (O49). -/
namespace Sys2Proof.Machine

/-- A launch of one block of one group. -/
def oneBlockLaunch : Launch :=
  { va := 0, version := 0, flags := 0, levels := [⟨1, 1, 1, 0, 1, 0, 0⟩], roleCount := 1, entry0 := 0, entry1 := 0, rows0 := 0, groups0 := 1,
    rows1 := 0, groups1 := 0, scratch := 0, shares := [1], args := 0, blkmax := 0, modes := 1, kinds := 0, routines := 0, galley := 0,
    maxLive := 0, bitmap := 0, zerosOk := true }

/-- That launch being run. -/
def oneBlockRun : LaunchRun := ⟨5, 0, oneBlockLaunch, 0, [0], List.replicate 12 0, 1, false, none, 0, false, [], []⟩

/-- Its block, running, with row 0, the agents', for its routine row. -/
def rowZeroBlock : Block :=
  { id := 0, ctx := 0, blockIndex := 0, incarn := 0, spbase := 0, rec_ := oneBlockLaunch, launchId := none, dispatch := 1, slots := [],
    rows := [], routineRow := some 0, routineSlot := none, unit := none, elapsed := 0, overrun := false, phase := .running, saveVa := 0,
    saveOp := none, inst := none, waiting := false, taken := [], calls := [], before := [], marked := false, half := none }

/-- The state of the block on its core, with every group of it gone. -/
def rowZeroState : State :=
  { State.reset.withFetchWord 32 0 with cores := [{ Core.idle 0 with blocks := [rowZeroBlock] }] }

theorem rowZeroState_completed :
    (match exec (.blockComplete 0 0) rowZeroState with
      | .next t => some ((t.core 0).lease 0)
      | _ => none) = some .agent := by decide

/-- Refutes O49: in the routine row of a block that completes. Row 0 keeps the lease state of the agents' row whatever is released (12
R190), where the statement has the routine row free for every block. -/
theorem not_blockEvents : ¬ Obligations.BlockEvents := by
  rintro ⟨-, h⟩
  obtain ⟨-, h, -⟩ := h rowZeroState oneBlockRun loadCtx 0 rowZeroBlock
  obtain ⟨hdone, -⟩ := h rfl rfl
  obtain ⟨t, ht, -, -, hfree, -⟩ := hdone rfl rfl
  have hlease := rowZeroState_completed
  replace ht : exec (.blockComplete 0 0) rowZeroState = .next t := ht
  rw [ht] at hlease
  replace hlease : some ((t.core 0).lease 0) = some .agent := hlease
  rw [hfree 0 rfl] at hlease
  exact absurd hlease (by decide)

end Sys2Proof.Machine
end

section
/-! Proofs: EXIT (O18). -/
namespace Sys2Proof.Machine

/-! A suspension point of stores that nothing holds. -/

theorem storePoint_goes {s : State} {w : Issuer} {x : Ctx} (hx : s.ctx? w.g.ctx = some x) (hdue : ∀ d ∈ w.g.due, d.store = false)
    (hqueue : ∀ e ∈ w.g.queue, e.fault = .clear ∧ storeTranslates s x e = true) (go : State) : storePoint s w go = go := by
  have hnone : (w.g.due.find? fun d => d.store) = none := by simpa using hdue
  have hclear : ¬ (w.g.queue.any fun e => e.fault != .clear || !storeTranslates s x e) = true := by
    intro h
    obtain ⟨e, he, h⟩ := List.any_eq_true.mp h
    obtain ⟨hfault, htr⟩ := hqueue e he
    simp [hfault, htr] at h
  simp only [storePoint, hnone, hx, if_neg hclear]

/-! Lanes leave a group's masks. -/

theorem and_not_and_self (a m : Mask) : a &&& ~~~m &&& m = 0 := by
  rw [BitVec.and_assoc, BitVec.and_comm (~~~m), BitVec.and_not_self]
  exact BitVec.and_zero

/-- A stack entry without some lanes. -/
def SEntry.without (m : Mask) (e : SEntry) : SEntry :=
  { e with mask := e.mask &&& ~~~m, arrived := if e.kind = .join then e.arrived &&& ~~~m else e.arrived }

/-- A split without some lanes. -/
def Split.without (m : Mask) (sp : Split) : Split := { sp with mask := sp.mask &&& ~~~m }

theorem popCovered_sublist (st : List SEntry) (i : Nat) : (popCovered st i).Sublist st := by
  unfold popCovered
  split
  · exact List.Sublist.refl st
  · have htail : (st.drop (i + 1)).Sublist (st.drop i) := List.drop_sublist_drop_left st (Nat.le_succ i)
    refine List.Sublist.trans (List.filter_sublist.append htail) ?_
    rw [List.take_append_drop]

theorem dropEmptyJoins_sublist (n : Nat) (st : List SEntry) : (dropEmptyJoins n st).Sublist st := by
  induction n generalizing st with
  | zero => exact List.Sublist.refl st
  | succ n ih =>
    unfold dropEmptyJoins
    split
    · exact List.Sublist.refl st
    · exact (ih _).trans (popCovered_sublist st _)

theorem endIfDead_stack (g : Group) : (endIfDead g).stack.Sublist g.stack := by
  unfold endIfDead
  split
  · exact List.nil_sublist _
  · exact List.Sublist.refl _

theorem endIfDead_splits (g : Group) : (endIfDead g).splits.Sublist g.splits := by
  unfold endIfDead
  split
  · exact List.nil_sublist _
  · exact List.Sublist.refl _

theorem endIfDead_live (g : Group) : (endIfDead g).live = g.live := by
  unfold endIfDead
  split <;> rfl

theorem exitLanes_live (g : Group) (i : Nat) (m : Mask) : (exitLanes g i m).live = g.live &&& ~~~m := endIfDead_live _

theorem exitLanes_stack (g : Group) (i : Nat) (m : Mask) : (exitLanes g i m).stack.Sublist (g.stack.map (SEntry.without m)) :=
  (endIfDead_stack _).trans ((dropEmptyJoins_sublist _ _).trans List.filter_sublist)

theorem exitLanes_splits (g : Group) (i : Nat) (m : Mask) :
    (exitLanes g i m).splits.Sublist ((g.splits.map (Split.without m)).filter fun sp => sp.idx != i) := endIfDead_splits _

theorem exitLanes_split (g : Group) (i : Nat) (m : Mask) : (exitLanes g i m).split? i = none := by
  refine List.find?_eq_none.mpr fun sp hsp => ?_
  have hne := (List.mem_filter.mp ((exitLanes_splits g i m).subset hsp)).2
  simpa using hne

theorem exitLanes_dead (g : Group) (i : Nat) (m : Mask) (h : (exitLanes g i m).live = 0) :
    (exitLanes g i m).splits = [] ∧ (exitLanes g i m).stack = [] := by
  have hlive : ((dropLanes g m).dropSplit i).live = 0 := (endIfDead_live _).symm.trans h
  simp only [exitLanes, endIfDead, if_pos hlive, and_self]

theorem exitLanes_without (g : Group) (i : Nat) (m : Mask) : Without (exitLanes g i m) m := by
  refine ⟨?_, fun sp hsp => ?_, fun e he => ?_⟩
  · rw [exitLanes_live]
    exact and_not_and_self g.live m
  · obtain ⟨a, -, rfl⟩ := List.mem_map.mp (List.mem_filter.mp ((exitLanes_splits g i m).subset hsp)).1
    exact and_not_and_self a.mask m
  · obtain ⟨a, -, rfl⟩ := List.mem_map.mp ((exitLanes_stack g i m).subset he)
    refine ⟨and_not_and_self a.mask m, fun hk => ?_⟩
    have ha : (a.without m).arrived = a.arrived &&& ~~~m := if_pos hk
    rw [ha]
    exact and_not_and_self a.arrived m

theorem exitLanes_spilled {g : Group} (i : Nat) (m : Mask) (h : g.spilled = 0) : (exitLanes g i m).spilled = 0 := by
  refine Nat.le_zero.mp ((exitLanes_stack g i m).countP_le.trans ?_)
  rw [List.countP_map]
  exact Nat.le_of_eq h

/-- The group of a split whose EXIT has issued. -/
def exited (cycle : Nat) (i : Nat) (m : Mask) (g : Group) : Group := exitLanes (g.pass cycle m 1) i m

theorem endIfDead_rest (g : Group) : endIfDead g = { g with splits := (endIfDead g).splits, stack := (endIfDead g).stack } := by
  unfold endIfDead
  split <;> rfl

theorem exited_rest (cycle : Nat) (i : Nat) (m : Mask) (g : Group) : ∃ live splits stack pend la,
    exited cycle i m g = { g with live := live, splits := splits, stack := stack, pend := pend, la := la } := by
  unfold exited exitLanes
  rw [endIfDead_rest]
  generalize (endIfDead _).splits = splits, (endIfDead _).stack = stack
  refine ⟨g.live &&& ~~~m, splits, stack, ((g.pass cycle m 1).forget m).pend, ((g.pass cycle m 1).forget m).la, ?_⟩
  simp only [Group.dropSplit, dropLanes, Group.forget, Group.pass]

/-- With no entry spilled there is nothing to write in the spill area. -/
theorem mirrorSpill_none {s : State} {c slot : Nat} {g : Group} (hg : s.group? c slot = some g) (hn : g.spilled = 0) (old : List SEntry)
    (i : Nat) : mirrorSpill s old c slot i = s := by
  simp only [mirrorSpill, hg, hn, List.range_zero, List.filter_nil, mirrorFrom]

/-- What EXIT does at a suspension point of stores that nothing holds. -/
theorem exec_exit_goes {s : State} {w : Issuer} {x : Ctx} (h : Issues s w) (hx : s.ctx? w.g.ctx = some x)
    (hdue : ∀ d ∈ w.g.due, d.store = false) (hqueue : ∀ e ∈ w.g.queue, e.fault = .clear ∧ storeTranslates s x e = true) :
    exec .exit s = .next (match if inService w.g then none else clusterExit s w with
      | some a => trapAll s w .clusterExit (BitVec.ofNat 64 a)
      | none => mirrorSpill (noteUni (s.modMine w (exited s.cycle w.idx w.sp.mask)) w w.sp.pc w.sp.mask
          (.mask 4 (w.g.live &&& ~~~w.sp.mask))) w.g.stack w.c w.slot w.idx) := by
  rw [exec_exit, execExit, uniIssue_acts h rfl (by simp) (by simp), storePoint_goes hx hdue hqueue]
  rfl

/-- Settles O18: EXIT changes the group by `exited`, and a trace event is all that follows. -/
theorem exitEndsLanes : Obligations.ExitEndsLanes := by
  intro s w x h hx hdue hqueue
  have hexec := exec_exit_goes h hx hdue hqueue
  obtain ⟨hg, -, -⟩ := who_parts h.1
  refine ⟨fun a hs ha => ?_, fun hno hn => ?_⟩
  · rw [hexec, hs, ha]
    rfl
  · have hnone : (if inService w.g then none else clusterExit s w) = none := by
      rcases hno with hs | hc
      · rw [if_pos hs]
      · rw [hc, ite_self]
    have hsp : ∀ g, (exited s.cycle w.idx w.sp.mask g).slot = g.slot := fun g => by
      obtain ⟨_, _, _, _, _, he⟩ := exited_rest s.cycle w.idx w.sp.mask g
      rw [he]
    have hgroup : (noteUni (s.modMine w (exited s.cycle w.idx w.sp.mask)) w w.sp.pc w.sp.mask (.mask 4 (w.g.live &&& ~~~w.sp.mask))).group?
        w.c w.slot = some (exited s.cycle w.idx w.sp.mask w.g) := (note_group _ _ _ _).trans (group_changed_some _ hsp hg)
    rw [hnone] at hexec
    dsimp only at hexec
    rw [mirrorSpill_none hgroup (exitLanes_spilled (g := w.g.pass s.cycle w.sp.mask 1) w.idx w.sp.mask hn)] at hexec
    refine ⟨_, _, hexec, hgroup, exitLanes_live _ _ _, exitLanes_split _ _ _, exitLanes_without _ _ _, exitLanes_dead _ _ _, ?_⟩
    exact (modGroup_near (rel := fun g h => h = exited s.cycle w.idx w.sp.mask g) _ hsp fun _ => rfl).trans (note_near _ _ w) 
      fun a b c hab hbc => by
        obtain ⟨hbc, -⟩ := hbc
        obtain ⟨_, _, _, _, _, he⟩ := exited_rest s.cycle w.idx w.sp.mask a
        rw [hbc, hab, he]
        rfl

end Sys2Proof.Machine
end

section
/-! Proofs: what taking a trap does (O19). -/
namespace Sys2Proof.Machine

/-! Changes that stay within the rows of one core and the group in one slot of it. -/

/-- Between two states, of the other cores nothing changed, of this core no other group, and no row if `keep` holds. -/
structure Confined (keep : Prop) (s t : State) (c slot : Nat) : Prop where
  cores : ∀ d, d ≠ c → t.core d = s.core d
  slots : ∀ b, b ≠ slot → t.group? c b = s.group? c b
  rows : keep → (t.core c).rows = (s.core c).rows

theorem Confined.trans {keep : Prop} {s t u : State} {c slot : Nat} (h : Confined keep s t c slot) (k : Confined keep t u c slot) :
    Confined keep s u c slot :=
  ⟨fun d hd => (k.cores d hd).trans (h.cores d hd), fun b hb => (k.slots b hb).trans (h.slots b hb),
    fun hk => (k.rows hk).trans (h.rows hk)⟩

theorem confined_of_cores {keep : Prop} {s t : State} (h : t.cores = s.cores) (c slot : Nat) : Confined keep s t c slot := by
  have hc : ∀ d, t.core d = s.core d := fun d => by simp only [State.core, h]
  exact ⟨fun d _ => hc d, fun b _ => by simp only [State.group?, hc], fun _ => by rw [hc]⟩

theorem confined_setCore {keep : Prop} {s : State} {c slot : Nat} {x : Core} {f : Group → Group} (hi : x.index = c)
    (hx : x.groups = (s.core c).groups) (hs : ∀ g, (f g).slot = g.slot) (hrows : keep → x.rows = (s.core c).rows) :
    Confined keep s (s.setCore (x.modGroup slot f)) c slot := by
  have hi' : (x.modGroup slot f).index = c := hi
  refine ⟨fun d hd => core_setCore_other s _ d (by rwa [hi']), fun b hb => group_after_other s x c slot b f hi hx hs hb, fun hk => ?_⟩
  have hc := core_setCore s (x.modGroup slot f)
  rw [hi'] at hc
  rw [hc]
  exact hrows hk

theorem confined_modGroup {keep : Prop} (s : State) (c slot : Nat) {f : Group → Group} (hs : ∀ g, (f g).slot = g.slot) :
    Confined keep s (s.modGroup c slot f) c slot := confined_setCore (core_index s c) rfl hs fun _ => rfl

/-! Landing what a group has outstanding. -/

/-- A core after the results of a group that its trap writes at once. -/
def landRows (x : Core) (g : Group) : Core :=
  g.held.foldl (fun x h => if h.gd = 0 || h.poisoned.isSome || h.part.isSome then x else x.landG g h.gd h.value)
    (g.la.foldl (fun x a => x.landResults g a.writes) x)

/-- A group after them. -/
def landed (g : Group) : Group :=
  { g with pend := g.pend.filter fun e => e.gate.isSome
           la := (g.la.filter fun a => a.poisoned.isSome || !a.parts.isEmpty).map fun a => { a with writes := [] }
           held := g.held.filter fun h => h.poisoned.isSome || h.part.isSome
           splits := g.splits.map fun sp =>
             if sp.hold == .heldResult && !(g.held.any fun h => h.split == sp.idx && h.poisoned.isSome && h.parked == 0)
             then { sp with hold := .none, heldFor := 0 } else sp }

/-- Between two cores the index and the groups are the same, as when results are written in its rows. -/
structure SameGroups (x y : Core) : Prop where
  index : y.index = x.index
  groups : y.groups = x.groups

theorem sameGroups_foldl {α : Type} {x y : Core} {f : Core → α → Core} (hf : ∀ y a, SameGroups x y → SameGroups x (f y a)) {xs : List α}
    (h : SameGroups x y) : SameGroups x (xs.foldl f y) := by
  induction xs generalizing y with
  | nil => exact h
  | cons a xs ih => exact ih (hf y a h)

theorem sameGroups_landV {x y : Core} (h : SameGroups x y) (g : Group) (n l : Nat) (v : Word) : SameGroups x (y.landV g n l v) := by
  unfold Core.landV
  split
  · exact h
  · exact ⟨h.index, h.groups⟩

theorem sameGroups_landRows (x : Core) (g : Group) : SameGroups x (landRows x g) := by
  refine sameGroups_foldl (fun y a h => ?_) (sameGroups_foldl (fun y a h => ?_) ⟨rfl, rfl⟩)
  · split
    · exact h
    · exact sameGroups_landV (sameGroups_landV h _ _ _ _) _ _ _ _
  · exact sameGroups_foldl (fun y p h => sameGroups_landV h _ _ _ _) h

theorem landRows_empty {g : Group} (hla : g.la = []) (hheld : g.held = []) (x : Core) : landRows x g = x := by
  simp only [landRows, hla, hheld, List.foldl_nil]

section
variable {s : State} {c slot : Nat} {g : Group} (hg : s.group? c slot = some g)
include hg

theorem landWrites_eq : landWrites s c slot = s.setCore ((landRows (s.core c) g).modGroup slot landed) := by
  have hx : (s.core c).group? slot = some g := hg
  simp only [landWrites, State.modCore, hx]
  rfl

theorem landWrites_group : (landWrites s c slot).group? c slot = some (landed g) := by
  obtain ⟨hi, hgroups⟩ := sameGroups_landRows (s.core c) g
  rw [landWrites_eq hg, group_after s _ c slot landed (hi.trans (core_index s c)) hgroups fun _ => rfl, hg]
  rfl

theorem landWrites_confined : Confined (g.la = [] ∧ g.held = []) s (landWrites s c slot) c slot := by
  obtain ⟨hi, hgroups⟩ := sameGroups_landRows (s.core c) g
  rw [landWrites_eq hg]
  refine confined_setCore (hi.trans (core_index s c)) hgroups (fun _ => rfl) fun ⟨hla, hheld⟩ => ?_
  rw [landRows_empty hla hheld]

end

/-! Pushing a frame. -/

theorem postHeld_cores (s : State) (x : Ctx) (va : Nat) (src : EventSource) (kind cause : Nat) (lanes : Mask) (time : Nat)
    (owner : FaultOwner) : (postHeld s x va src kind cause lanes time owner).cores = s.cores := by
  have hpost : (postFault s x va src kind cause lanes 0 time owner).2.cores = s.cores := by
    unfold postFault
    extract_lets x n rec_ t u
    have ht : t.cores = s.cores := by
      have hw := (posted_writeVa (h := .die 0) (x := x) (va := x.faultq + 32 * (n % 2 ^ x.faultLog)) (bs := rec_) (Posted.refl s)).cores
      unfold t
      split
      · rename_i h
        rw [h] at hw
        exact hw
      · rename_i h
        rw [h] at hw
        exact hw
    have hu : u.cores = s.cores := ht
    clear_value u
    split
    · rfl
    · exact hu
  unfold postHeld
  split
  · rename_i h
    rw [h] at hpost
    exact hpost
  · rename_i h
    rw [h] at hpost
    exact hpost

/-- A property of the state that a push leaves, where it leaves one. -/
def SpillLeaves (P : State → Prop) : Spill → Prop
  | .ok t => P t
  | .faulted t => P t
  | _ => True

theorem SpillLeaves.imp {P Q : State → Prop} {r : Spill} (h : SpillLeaves P r) (hPQ : ∀ t, P t → Q t) : SpillLeaves Q r := by
  cases r with
  | ok t => exact hPQ t h
  | faulted t => exact hPQ t h
  | _ => trivial

theorem spillWrite_cores (s : State) (c : Nat) (g : Group) (i j : Nat) (e : SEntry) :
    SpillLeaves (fun t => t.cores = s.cores) (spillWrite s c g i j e) := by
  unfold spillWrite
  split
  · trivial
  · rename_i x _
    have hw := (posted_writeVa (h := .core c) (x := x) (va := spillVa g j) (bs := entryBytes e) (Posted.refl s)).cores
    split
    · rename_i h
      rw [h] at hw
      exact hw
    · rename_i h
      rw [h] at hw
      unfold spillFails
      split
      · trivial
      · exact (postHeld_cores _ _ _ _ _ _ _ _ _).trans hw

theorem pushEntry_confined (keep : Prop) (s : State) (c slot i : Nat) (e : SEntry) :
    SpillLeaves (Confined keep s · c slot) (pushEntry s c slot i e) := by
  unfold pushEntry
  split
  · exact confined_of_cores rfl c slot
  · rename_i g hg
    split
    · rename_i bottom rest hc
      dsimp only
      split
      · exact confined_modGroup s c slot fun _ => rfl
      · split
        · trivial
        · split
          · trivial
          · have hw := spillWrite_cores s c g i g.spilled bottom
            split
            · rename_i h
              rw [h] at hw
              exact (confined_of_cores hw c slot).trans (confined_modGroup _ c slot fun _ => rfl)
            · cases h : spillWrite s c g i g.spilled bottom with
              | ok t => rename_i h'; exact absurd h (h' t)
              | faulted t =>
                rw [h] at hw
                exact confined_of_cores hw c slot
              | _ => trivial
    · exact confined_modGroup s c slot fun _ => rfl

theorem pushAll_confined (keep : Prop) (c slot i : Nat) (s : State) (es : List SEntry) :
    SpillLeaves (Confined keep s · c slot) (pushAll c slot i s es) := by
  induction es generalizing s with
  | nil => exact confined_of_cores rfl c slot
  | cons e es ih =>
    have he := pushEntry_confined keep s c slot i e
    unfold pushAll
    cases h : pushEntry s c slot i e with
    | ok t =>
      rw [h] at he
      exact (ih t).imp fun u hu => Confined.trans he hu
    | faulted t =>
      rw [h] at he
      exact he
    | _ => trivial

/-- Entries that find room on chip are pushed one by one, the last on top. -/
theorem pushAll_chip {c slot i : Nat} {s : State} {g : Group} {es : List SEntry} (hg : s.group? c slot = some g)
    (harea : ∀ e ∈ es, e.area = false) (hn : (chipEntries g).length + es.length ≤ 32) :
    ∃ u, pushAll c slot i s es = .ok u ∧ u.group? c slot = some { g with stack := es.reverse ++ g.stack } ∧ u.mem = s.mem := by
  induction es generalizing s g with
  | nil => exact ⟨s, rfl, hg, rfl⟩
  | cons e es ih =>
    have hlen : (chipEntries (pushed e g)).length = (chipEntries g).length + 1 := by
      simp [chipEntries, pushed, harea e List.mem_cons_self]
    have hes : (chipEntries g).length + (es.length + 1) ≤ 32 := hn
    obtain ⟨u, hu, hgu, hm⟩ := ih (group_changed_some (c := c) (slot := slot) (pushed e) (fun _ => rfl) hg)
      (fun f hf => harea f (List.mem_cons_of_mem e hf)) (by omega)
    refine ⟨u, ?_, ?_, hm⟩
    · rw [pushAll, pushEntry_chip hg (by omega)]
      exact hu
    · rw [hgu]
      simp [pushed]

/-! Entering the handler. -/

theorem noteSync_eq (s : State) (c slot pipe i : Nat) :
    noteSync s c slot pipe i = { s with traceNow := (noteSync s c slot pipe i).traceNow } := by
  unfold noteSync
  split
  · rfl
  · exact note_eq _ _

theorem noteSync_cores (s : State) (c slot pipe i : Nat) : (noteSync s c slot pipe i).cores = s.cores := by rw [noteSync_eq]

theorem noteSync_mem (s : State) (c slot pipe i : Nat) : (noteSync s c slot pipe i).mem = s.mem := by rw [noteSync_eq]

theorem noteSync_group (s : State) (c slot pipe i d b : Nat) : (noteSync s c slot pipe i).group? d b = s.group? d b := by
  simp only [State.group?, State.core, noteSync_cores]

theorem note_cores (s : State) (e : TraceEvent) : (note s e).cores = s.cores := by rw [note_eq]

theorem note_mem (s : State) (e : TraceEvent) : (note s e).mem = s.mem := by rw [note_eq]

/-- The group with its split 0 at its handler. -/
def Group.atHandler (g : Group) : Group := { g with splits := [newSplit 0 g.handler (BitVec.allOnes 32) 0], trapWait := none }

theorem enterHandler_ok {s u : State} {c slot : Nat} {g : Group} {t : TrapWait} (hg : s.group? c slot = some g)
    (hu : pushAll c slot t.split s (trapEntries g t.split t.resume) = .ok u) :
    enterHandler s c slot t = noteSync (u.modGroup c slot Group.atHandler) c slot 2 0 := by
  simp only [enterHandler, hg, hu]
  rfl

theorem enterHandler_confined (keep : Prop) (s : State) (c slot : Nat) (t : TrapWait) : Confined keep s (enterHandler s c slot t) c slot := by
  cases hg : s.group? c slot with
  | none =>
    simp only [enterHandler, hg]
    exact confined_of_cores rfl c slot
  | some g =>
    have hpush := pushAll_confined keep c slot t.split s (trapEntries g t.split t.resume)
    cases h : pushAll c slot t.split s (trapEntries g t.split t.resume) with
    | ok u =>
      rw [h] at hpush
      rw [enterHandler_ok hg h]
      exact Confined.trans (t := u.modGroup c slot Group.atHandler) (Confined.trans hpush (confined_modGroup u c slot fun _ => rfl))
        (confined_of_cores (noteSync_cores _ _ _ _ _) c slot)
    | faulted u =>
      rw [h] at hpush
      simp only [enterHandler, hg, h]
      exact Confined.trans hpush (confined_modGroup u c slot fun _ => rfl)
    | overflow _ | violation _ =>
      simp only [enterHandler, hg, h]
      refine Confined.trans ?_ (confined_of_cores (posted_postEvent (Posted.refl _)).cores c slot)
      exact Confined.trans (t := suspend s c slot) (confined_modGroup s c slot fun _ => rfl) (confined_modGroup _ c slot fun _ => rfl)

/-- A handler is entered with its frame on chip. -/
theorem enterHandler_chip {s : State} {c slot : Nat} {g : Group} (hg : s.group? c slot = some g) {t : TrapWait}
    (hn : (chipEntries g).length + g.splits.length ≤ 32) :
    (enterHandler s c slot t).group? c slot
        = some (Group.atHandler { g with stack := (trapEntries g t.split t.resume).reverse ++ g.stack })
      ∧ (enterHandler s c slot t).mem = s.mem := by
  have harea : ∀ e ∈ trapEntries g t.split t.resume, e.area = false := fun e he => by
    obtain ⟨sp, -, rfl⟩ := List.mem_map.mp he
    rfl
  obtain ⟨u, hu, hgu, hm⟩ := pushAll_chip (i := t.split) hg harea (by rwa [trapEntries, List.length_map])
  rw [enterHandler_ok hg hu, noteSync_group, noteSync_mem]
  exact ⟨group_changed_some Group.atHandler (fun _ => rfl) hgu, hm⟩

/-! Taking a trap. -/

section
variable (s : State) (c slot : Nat) (sp : Split) (cause : Cause) (resume : PC) (bad : DWord) (flt : Mask) (code : Nat)

/-- The group with the trap registers of a trap of a split. -/
def markTrap (g : Group) : Group :=
  (g.park.trapRegs sp.idx cause resume bad sp.mask flt code).modSplit sp.idx fun t => { t with hold := .none }

/-- The state with the group so marked. -/
def trapMarked : State := (landWrites s c slot).modGroup c slot (markTrap sp cause resume bad flt code)

/-- The state before the handler is entered. -/
def trapPending (unhandled : Bool) : State :=
  let t := trapMarked s c slot sp cause resume bad flt code
  note { t with trapped := ⟨c, slot, sp.idx, sp.pc, unhandled⟩ :: t.trapped }
    ⟨c, slot, 2, sp.idx, sp.pc, sp.mask, sp.pc, sp.mask, .mask 3 flt⟩

theorem trapPending_cores (b : Bool) :
    (trapPending s c slot sp cause resume bad flt code b).cores = (trapMarked s c slot sp cause resume bad flt code).cores :=
  note_cores _ _

theorem trapPending_mem (b : Bool) : (trapPending s c slot sp cause resume bad flt code b).mem = s.mem := note_mem _ _

variable {g : Group} (hg : s.group? c slot = some g)
include hg

theorem trapMarked_group :
    (trapMarked s c slot sp cause resume bad flt code).group? c slot = some (markTrap sp cause resume bad flt code (landed g)) :=
  group_changed_some (markTrap sp cause resume bad flt code) (fun _ => rfl) (landWrites_group hg)

theorem trapPending_group (b : Bool) :
    (trapPending s c slot sp cause resume bad flt code b).group? c slot = some (markTrap sp cause resume bad flt code (landed g)) := by
  simp only [State.group?, State.core, trapPending_cores]
  exact trapMarked_group s c slot sp cause resume bad flt code hg

theorem trapPending_confined (b : Bool) :
    Confined (g.la = [] ∧ g.held = []) s (trapPending s c slot sp cause resume bad flt code b) c slot :=
  Confined.trans (t := trapMarked s c slot sp cause resume bad flt code)
    ((landWrites_confined hg).trans (confined_modGroup _ c slot fun _ => rfl))
    (confined_of_cores (trapPending_cores s c slot sp cause resume bad flt code b) c slot)

theorem trapAt_eq : trapAt s c slot sp cause resume bad flt code =
    if g.handler = 0 then suspend (trapPending s c slot sp cause resume bad flt code (g.handler == 0)) c slot
    else enterHandler (trapPending s c slot sp cause resume bad flt code (g.handler == 0)) c slot ⟨sp.idx, cause, resume, bad, flt, code⟩ := by
  have hmarked := trapMarked_group s c slot sp cause resume bad flt code hg
  have hhandler : (((trapMarked s c slot sp cause resume bad flt code).group? c slot).map Group.handler).getD 0 = g.handler := by
    rw [hmarked]
    rfl
  rw [← hhandler]
  rfl

theorem trapAt_confined : Confined (g.la = [] ∧ g.held = []) s (trapAt s c slot sp cause resume bad flt code) c slot := by
  rw [trapAt_eq s c slot sp cause resume bad flt code hg]
  have hpending := trapPending_confined s c slot sp cause resume bad flt code hg (g.handler == 0)
  split
  · exact hpending.trans (confined_modGroup _ c slot fun _ => rfl)
  · exact hpending.trans (enterHandler_confined _ _ c slot _)

theorem trapAt_suspends (hh : g.handler = 0) : (trapAt s c slot sp cause resume bad flt code).group? c slot =
    some { markTrap sp cause resume bad flt code (landed g) with suspended := true } := by
  rw [trapAt_eq s c slot sp cause resume bad flt code hg, if_pos hh]
  exact group_changed_some (fun g => { g with suspended := true }) (fun _ => rfl)
    (trapPending_group s c slot sp cause resume bad flt code hg _)

end

theorem replaceFirst_map {α β : Type} (p : α → Bool) (f : α → α) (k : α → β) (hf : ∀ a, k (f a) = k a) (xs : List α) :
    (replaceFirst p f xs).map k = xs.map k := by
  induction xs with
  | nil => rfl
  | cons x xs ih =>
    unfold replaceFirst
    split
    · simp only [List.map_cons, hf]
    · simp only [List.map_cons, ih]

/-- Landing results and marking a trap leave the frame that it pushes. -/
theorem trapEntries_marked (sp : Split) (cause : Cause) (resume : PC) (bad : DWord) (flt : Mask) (code i : Nat) (r : PC) (g : Group) :
    trapEntries (markTrap sp cause resume bad flt code (landed g)) i r = trapEntries g i r := by
  simp only [trapEntries, markTrap, Group.modSplit, Group.trapRegs, Group.park, landed]
  rw [replaceFirst_map, List.map_map]
  · refine List.map_congr_left fun a _ => ?_
    dsimp only [Function.comp]
    split <;> rfl
  · exact fun _ => rfl

theorem trapAt_enters (s : State) (c slot : Nat) (sp : Split) (cause : Cause) (resume : PC) (bad : DWord) (flt : Mask) (code : Nat)
    {g : Group} (hg : s.group? c slot = some g) (hh : g.handler ≠ 0) (hn : (chipEntries g).length + g.splits.length ≤ 32) :
    (trapAt s c slot sp cause resume bad flt code).group? c slot
        = some (Group.atHandler { markTrap sp cause resume bad flt code (landed g) with
            stack := (trapEntries g sp.idx resume).reverse ++ g.stack })
      ∧ (trapAt s c slot sp cause resume bad flt code).mem = s.mem := by
  have hframe := trapEntries_marked sp cause resume bad flt code sp.idx resume g
  have hlen : (markTrap sp cause resume bad flt code (landed g)).splits.length = g.splits.length := by
    have := congrArg List.length hframe
    simpa only [trapEntries, List.length_map] using this
  obtain ⟨hgroup, hmem⟩ := enterHandler_chip (t := ⟨sp.idx, cause, resume, bad, flt, code⟩)
    (trapPending_group s c slot sp cause resume bad flt code hg (g.handler == 0)) (by rw [hlen]; exact hn)
  rw [trapAt_eq s c slot sp cause resume bad flt code hg, if_neg hh]
  refine ⟨hgroup.trans ?_, hmem.trans (trapPending_mem s c slot sp cause resume bad flt code _)⟩
  dsimp only
  rw [hframe]
  rfl

/-- What a trap makes of a group that enters its handler, field by field (12 R171). -/
theorem entered_fields (sp : Split) (cause : Cause) (resume : PC) (bad : DWord) (flt : Mask) (code : Nat) (st : List SEntry) (g : Group) :
    Group.atHandler { markTrap sp cause resume bad flt code (landed g) with stack := st } =
      { g with epc := resume.setWidth 64, ebad := bad, emact := sp.mask.setWidth 64, emflt := flt.setWidth 64
               ecause := BitVec.ofNat 64 (cause.number + 2 ^ 8 * sp.idx + 2 ^ 10 * code)
               splits := [newSplit 0 g.handler (BitVec.allOnes 32) 0], stack := st, trapWait := none
               pend := g.pend.filter fun e => e.gate.isSome
               la := (g.la.filter fun a => a.poisoned.isSome || !a.parts.isEmpty).map fun a => { a with writes := [], parked := a.parked + 1 }
               held := (g.held.filter fun r => r.poisoned.isSome || r.part.isSome).map fun r => { r with parked := r.parked + 1 } } := by
  simp only [Group.atHandler, markTrap, Group.modSplit, Group.trapRegs, Group.park, landed, Group.handler, List.map_map, Function.comp_def]

theorem handler_zero (g : Group) : g.handler = 0 ↔ bits g.tvec.toNat 2 55 = 0 := by
  have hlt : bits g.tvec.toNat 2 55 < 2 ^ 55 := Nat.mod_lt _ (by decide)
  have h0 : (0 : PC).toNat = 0 := rfl
  rw [Group.handler, ← BitVec.toNat_inj, h0, BitVec.toNat_ofNat]
  omega

/-- An instruction that takes a trap at the issuer's split is one that traps as the statements say. -/
theorem trapsIn_of_trapAt {s : State} {w : Issuer} (h : s.who = some w) {i : Instr} {cause : Cause} {resume : PC} {bad : DWord} {code : Nat}
    {flt : Mask} (e : exec i s = .next (trapAt s w.c w.slot w.sp cause resume bad flt code)) : TrapsIn s w i cause resume bad code flt := by
  obtain ⟨hg, hsp, -⟩ := who_parts h
  have hidx := split_idx hsp
  obtain ⟨hcores, hslots, hrows⟩ := trapAt_confined s w.c w.slot w.sp cause resume bad flt code hg
  refine ⟨_, e, fun hv hn => ?_, fun hv => ?_, fun c hc => by rw [hcores c hc], hslots, fun hla hheld k => by rw [hrows ⟨hla, hheld⟩]⟩
  · obtain ⟨hgroup, hmem⟩ := trapAt_enters s w.c w.slot w.sp cause resume bad flt code hg (mt (handler_zero w.g).mp hv) hn
    rw [entered_fields, hidx] at hgroup
    exact ⟨⟨_, hgroup, rfl, rfl, rfl, rfl, rfl, rfl, rfl, rfl, rfl, rfl, rfl, rfl, rfl, rfl, rfl, rfl, rfl, rfl, rfl⟩, fun a => by rw [hmem]⟩
  · have hgroup := trapAt_suspends s w.c w.slot w.sp cause resume bad flt code hg ((handler_zero w.g).mpr hv)
    simp only [markTrap, Group.modSplit, Group.trapRegs, Group.park, landed, hidx] at hgroup
    exact ⟨_, hgroup, rfl, rfl, rfl, rfl, rfl, rfl, rfl⟩

end Sys2Proof.Machine
end

section
/-! Proofs: the traps of an instruction at its issue (O19). -/
namespace Sys2Proof.Machine

/-- An instruction that traps precisely at its own address traps as the statements say. -/
theorem trapsIn_of_trapHere {s : State} {w : Issuer} (h : s.who = some w) {i : Instr} {cause : Cause} {bad : DWord} {flt : Mask}
    (e : exec i s = .next (trapHere s w cause bad flt)) : TrapsIn s w i cause w.sp.pc bad 0 flt := by
  obtain ⟨hg, hsp, -⟩ := who_parts h
  have htake : trapHere s w cause bad flt = trapAt s w.c w.slot w.sp cause w.sp.pc bad flt 0 := by
    simp only [trapHere, takeTrap, hg, Option.bind_some, hsp]
  rw [htake] at e
  exact trapsIn_of_trapAt h e

/-! The operands of an instruction (11 R128). -/

theorem laneIssue_range {s : State} {w : Issuer} (h : s.who = some w) {i : Instr} (hw : wellFormed i = true) {named : List Nat} {r : Nat}
    (hr : named.find? (fun r => w.g.allot ≤ r) = some r) (srcs : Issuer → List Src) (act : Issuer → State) :
    laneIssue s i named srcs act = .next (trapAll s w .regRange (BitVec.ofNat 64 r)) := by
  unfold laneIssue
  rw [onIssuer_eq h]
  simp [hw, hr]

/-- An instruction is a lane-set one that names some registers. -/
def LaneSet (i : Instr) (named : List Nat) : Prop := ∀ s, ∃ srcs act, exec i s = laneIssue s i named srcs act

theorem LaneSet.traps_range {s : State} {w : Issuer} (h : s.who = some w) {i : Instr} {named : List Nat} (hi : LaneSet i named)
    (hw : wellFormed i = true) {r : Nat} (hr : named.find? (fun r => w.g.allot ≤ r) = some r) :
    Traps s w i .regRange w.sp.pc (BitVec.ofNat 64 r) 0 := by
  obtain ⟨srcs, act, e⟩ := hi s
  exact trapsIn_of_trapHere h (e.trans (laneIssue_range h hw hr srcs act))

theorem LaneSet.traps_illegal {s : State} {w : Issuer} (h : s.who = some w) {i : Instr} {named : List Nat} (hi : LaneSet i named)
    (hw : wellFormed i = false) : Traps s w i .illegalOp w.sp.pc (wordOf i) 0 := by
  obtain ⟨srcs, act, e⟩ := hi s
  exact trapsIn_of_trapHere h (e.trans (laneIssue_illegal h hw named srcs act))

theorem laneBinaryForms_laneSet (k : KReg) (d a b : VReg) :
    ∀ p ∈ laneBinaryForms, LaneSet (p.1 k d a b) [d.val, a.val, b.val] ∧ wellFormed (p.1 k d a b) = true := by
  simp only [laneBinaryForms, List.forall_mem_cons]
  refine ⟨?_, ?_, ?_, ?_, ?_, ?_, ?_, ?_, ?_, ?_, ?_, ?_, ?_, ?_, ?_, ?_, ?_, fun _ h => nomatch h⟩ <;> exact ⟨fun _ => ⟨_, _, rfl⟩, rfl⟩

theorem pairForms_laneSet (k : KReg) (d a b : VReg) : ∀ p ∈ pairForms, ∃ named, LaneSet (p.1 k d a b) named := by
  simp only [pairForms, List.forall_mem_cons]
  refine ⟨?_, ?_, ?_, ?_, ?_, ?_, fun _ h => nomatch h⟩ <;> exact ⟨_, fun _ => ⟨_, _, rfl⟩⟩

theorem operandTraps : OperandTraps := by
  intro s w k d a b h
  refine ⟨fun p hp => ?_, fun p hp hw => ?_⟩
  · obtain ⟨hset, hw⟩ := laneBinaryForms_laneSet k d a b p hp
    refine ⟨fun hd => hset.traps_range h.1 hw ?_, fun hd ha => hset.traps_range h.1 hw ?_, fun hd ha hb => hset.traps_range h.1 hw ?_⟩
    · simp [hd]
    · simp [ha, Nat.not_le.mpr hd]
    · simp [hb, Nat.not_le.mpr hd, Nat.not_le.mpr ha]
  · obtain ⟨named, hset⟩ := pairForms_laneSet k d a b p hp
    exact hset.traps_illegal h.1 hw

/-! The first cause that an address meets. -/

/-- The first of some causes that any of the addresses meets, its lanes, and the address of the lowest. -/
def pickCause : List (Cause × (Nat → Bool)) → List (Nat × Nat) → Option (Cause × Mask × Nat)
  | [], _ => none
  | (c, p) :: r, as => match as.filter fun q => p q.2 with
    | [] => pickCause r as
    | (l, x) :: z => some (c, maskOf (l :: z.map Prod.fst), x)

theorem firstCause_of_pick {s : State} {w : Issuer} {i : Instr} {flt : Mask → Mask} {ts : List (Cause × (Nat → Bool))}
    {as : List (Nat × Nat)}
    (h : ∀ c m x, pickCause ts as = some (c, m, x) → TrapsIn s w i c w.sp.pc (BitVec.ofNat 64 x) 0 (flt m)) :
    FirstCause s w i flt ts as := by
  induction ts with
  | nil => trivial
  | cons t r ih =>
    obtain ⟨c, p⟩ := t
    unfold FirstCause
    unfold pickCause at h
    split
    next hf =>
      simp only [hf] at h
      exact ih h
    next hf =>
      simp only [hf] at h
      exact h _ _ _ rfl

theorem pickCause_nil (ts : List (Cause × (Nat → Bool))) : pickCause ts [] = none := by
  induction ts with
  | nil => rfl
  | cons t r ih => exact ih

theorem firstCause_nil {s : State} {w : Issuer} {i : Instr} {flt : Mask → Mask} (ts : List (Cause × (Nat → Bool))) :
    FirstCause s w i flt ts [] :=
  firstCause_of_pick fun _ _ _ h => nomatch (pickCause_nil ts).symm.trans h

theorem globalFault_eq (size align : Nat) (as : List (Nat × Nat)) : globalFault size align as = pickCause (globalTests size align) as := by
  have hhigh : highLanes size as = as.filter fun q => decide (2 ^ 57 ≤ q.2) || decide (2 ^ 57 ≤ q.2 + size - 1) := rfl
  unfold globalFault globalTests
  simp only [pickCause, hhigh]
  split
  next h => simp only [h, List.map_cons]
  next h =>
    simp only [h]
    split
    next h => simp only [h, List.map_cons]
    next h => simp only [h]

/-! The tests of a scratchpad address (05 R63). -/

section
variable (s : State) (w : Issuer) {a : Nat} (ha : a < 2 ^ 32)
include ha

theorem selector_eq : bits a 28 4 = a / 2 ^ 28 := Nat.mod_eq_of_lt (by omega)

theorem outOfRange_eq (size : Nat) : outOfRange s w size a =
    (decide (2 ≤ a / 2 ^ 28) || a / 2 ^ 19 % 32 != 0 || (a / 2 ^ 28 == 0 && a / 2 ^ 24 % 16 != 0)
      || (a / 2 ^ 28 == 1 && decide (Config.coresPerCluster w.c ≤ a / 2 ^ 24 % 16))
      || (a / 2 ^ 28 == 0 && decide ((ownScratch w).2 < a % 2 ^ 19 + size))
      || (a / 2 ^ 28 == 1 && (memberBlock s w (remoteCore w.c (a / 2 ^ 24 % 16))).any fun b =>
            decide (b.rec_.scratch < a % 2 ^ 19 + size))) := by
  have hfield : ∀ lo n, bits a lo n = a / 2 ^ lo % 2 ^ n := fun _ _ => rfl
  simp only [outOfRange, targetScratch, selector_eq ha, hfield, Nat.pow_zero, Nat.div_one]
  generalize a / 2 ^ 28 = n
  match n with
  | 0 => simp
  | 1 => cases memberBlock s w (remoteCore w.c (a / 2 ^ 24 % 16)) <;> simp
  | n + 2 => simp

theorem nonMember_eq : nonMember s w a = (a / 2 ^ 28 == 1 && (memberBlock s w (remoteCore w.c (a / 2 ^ 24 % 16))).isNone) := by
  have hfield : bits a 24 4 = a / 2 ^ 24 % 16 := rfl
  simp only [nonMember, targetScratch, selector_eq ha, hfield]
  generalize a / 2 ^ 28 = n
  match n with
  | 0 => rfl
  | 1 => simp
  | n + 2 => simp

end

theorem misaligned_eq {size : Nat} (hsize : size ∣ 2 ^ 19) (a : Nat) : bits a 0 19 % size = a % size := by
  rw [bits, Nat.pow_zero, Nat.div_one]
  exact Nat.mod_mod_of_dvd a hsize

theorem scratchFault_eq (s : State) (w : Issuer) {size : Nat} (hsize : size ∣ 2 ^ 19) {as : List (Nat × Nat)} (has : ∀ q ∈ as, q.2 < 2 ^ 32) :
    scratchFault s w size as = pickCause (scratchTests s w size) as := by
  unfold scratchFault scratchTests
  simp only [pickCause]
  rw [List.filter_congr fun q hq => outOfRange_eq s w (has q hq) size, List.filter_congr fun q hq => nonMember_eq s w (has q hq)]
  simp only [misaligned_eq hsize]
  generalize as.filter (fun q => q.2 % size != 0) = odd
  generalize as.filter (fun q => q.2 / 2 ^ 28 == 1 && _) = strange
  generalize as.filter _ = high
  rcases high with - | ⟨⟨l, x⟩, z⟩
  · rcases strange with - | ⟨⟨l, x⟩, z⟩
    · cases odd <;> rfl
    · rfl
  · rfl

/-! Instructions that check their addresses. -/

section
variable {s : State} {w : Issuer} (h : s.who = some w) {i : Instr} {ok : State}
include h

theorem firstCause_of_checked {size : Nat} (hsize : size ∣ 2 ^ 19) {as : List (Nat × Nat)} (has : ∀ q ∈ as, q.2 < 2 ^ 32)
    (e : exec i s = .next (checked s w size as ok)) : FirstCause s w i id (scratchTests s w size) as := by
  refine firstCause_of_pick fun c m x hp => trapsIn_of_trapHere h ?_
  rw [e, checked, scratchFault_eq s w hsize has, hp]
  rfl

theorem firstCause_of_checkedU {size a : Nat} (hsize : size ∣ 2 ^ 19) (ha : a < 2 ^ 32) (e : exec i s = .next (checkedU s w size a ok)) :
    FirstCause s w i (fun _ => w.sp.mask) (scratchTests s w size) [(0, a)] := by
  refine firstCause_of_pick fun c m x hp => trapsIn_of_trapHere h ?_
  rw [e, checkedU, scratchFault_eq s w hsize (by simpa using ha), hp]
  rfl

theorem firstCause_of_checkedG {size align : Nat} {as : List (Nat × Nat)} (e : exec i s = .next (checkedG s w size align as ok)) :
    FirstCause s w i id (globalTests size align) as := by
  refine firstCause_of_pick fun c m x hp => trapsIn_of_trapHere h ?_
  rw [e, checkedG, globalFault_eq, hp]
  rfl

theorem firstCause_of_checkedUG {size align a : Nat} (e : exec i s = .next (checkedUG s w size align a ok)) :
    FirstCause s w i (fun _ => w.sp.mask) (globalTests size align) [(0, a)] := by
  refine firstCause_of_pick fun c m x hp => trapsIn_of_trapHere h ?_
  rw [e, checkedUG, globalFault_eq, hp]
  rfl

end

/-! Scratchpad accesses. -/

theorem laneAddrs_lt (s : State) (w : Issuer) (m : Mask) (g a : Nat) : ∀ q ∈ laneAddrs s w m g a, q.2 < 2 ^ 32 := by
  intro q hq
  obtain ⟨l, -, rfl⟩ := List.mem_map.mp hq
  exact Nat.mod_lt _ (by decide)

/-- A scratchpad instruction of lanes, at the addresses of its active lanes, with an access size. -/
def ScratchLanes (s : State) (w : Issuer) (k g a : Nat) (i : Instr) (size : Nat) : Prop :=
  ∃ ok, exec i s = .next (checked s w size (laneAddrs s w (activeOf s w k) g a) ok)

section
variable {s : State} {w : Issuer} (h : Issues s w) {k d a g : Nat} {i : Instr} (hw : wellFormed i = true) (hd : d < w.g.allot)
  (ha : a < w.g.allot)
include h hw hd ha

theorem lds_checks {la size regs ext : Nat} (e : exec i s = lds s i k d a g la size regs ext) : ScratchLanes s w k g a i size :=
  ⟨_, e.trans (laneIssue_acts h hw (by simpa using ⟨hd, ha⟩) _ _)⟩

theorem sts_checks {size : Nat} (e : exec i s = sts s i k d a g size) : ScratchLanes s w k g a i size :=
  ⟨_, e.trans (laneIssue_acts h hw (by simpa using ⟨hd, ha⟩) _ _)⟩

theorem atoms_checks {la : Nat} {op : AtomOp} (e : exec i s = atoms s i k d a g la op) : ScratchLanes s w k g a i 4 :=
  ⟨_, e.trans (laneIssue_acts h hw (by simpa using ⟨hd, ha⟩) _ _)⟩

end

theorem scratchLoadForms_lds (s : State) (k : KReg) (d a : VReg) (g : AReg) (n : La) :
    ∀ p ∈ scratchLoadForms, p.2.1 ∣ 2 ^ 19 ∧ ∃ ext, exec (p.1 k d a g n) s = lds s (p.1 k d a g n) k d a g n p.2.1 p.2.2.1 ext := by
  simp only [scratchLoadForms, List.forall_mem_cons]
  refine ⟨?_, ?_, ?_, ?_, ?_, ?_, ?_, fun _ h => nomatch h⟩ <;> exact ⟨by decide, _, rfl⟩

theorem scratchStoreForms_sts (s : State) (k : KReg) (d a : VReg) (g : AReg) :
    ∀ p ∈ scratchStoreForms, p.2 ∣ 2 ^ 19 ∧ exec (p.1 k d a g) s = sts s (p.1 k d a g) k d a g p.2 := by
  simp only [scratchStoreForms, List.forall_mem_cons]
  refine ⟨?_, ?_, ?_, ?_, fun _ h => nomatch h⟩ <;> exact ⟨by decide, rfl⟩

theorem scratchAtomicForms_atoms (s : State) (k : KReg) (d a : VReg) (g : AReg) (n : La) :
    ∀ p ∈ scratchAtomicForms, exec (p.1 k d a g n) s = atoms s (p.1 k d a g n) k d a g n p.2.1 := by
  simp only [scratchAtomicForms, List.forall_mem_cons]
  refine ⟨?_, ?_, ?_, ?_, ?_, ?_, ?_, ?_, fun _ h => nomatch h⟩ <;> rfl

theorem uniform_checks {s : State} {w : Issuer} (h : Issues s w) {i : Instr} (hw : wellFormed i = true) {srcs : Issuer → List Src}
    {size a : Nat} {ok : Issuer → State}
    (e : exec i s = uniIssue s i false [] srcs fun w => checkedU s w size (uniAddr s w a) (ok w)) :
    exec i s = .next (checkedU s w size (uniAddr s w a) (ok w)) :=
  e.trans (uniIssue_acts h hw (by simp) (by simp) _ _)

/-- The uniform scratchpad instructions, each with its access size. -/
theorem uniformScratch_checks {s : State} {w : Issuer} (h : Issues s w) (e b : GReg) :
    ∀ p ∈ [((Instr.arrive e, 16) : Instr × Nat), (.arriveExpect e b, 16), (.arriveDrop e, 16), (.binit e b, 16), (.uldS32 b e, 4),
        (.uldS64 b e, 8), (.ustS32 e b, 4), (.ustS64 e b, 8)],
      p.2 ∣ 2 ^ 19 ∧ ∃ ok, exec p.1 s = .next (checkedU s w p.2 (uniAddr s w e) ok) := by
  simp only [List.forall_mem_cons]
  refine ⟨?_, ?_, ?_, ?_, ?_, ?_, ?_, ?_, fun _ h => nomatch h⟩ <;>
    exact ⟨by decide, _, uniform_checks h rfl rfl⟩

theorem scratchAddressTraps : ScratchAddressTraps := by
  intro s w k d a g n e b h hd ha
  refine ⟨fun p hp hw => ?_, fun p hp hw => ?_, fun p hp hw => ?_, fun p hp => ?_⟩
  · obtain ⟨hsize, ext, he⟩ := scratchLoadForms_lds s k d a g n p hp
    obtain ⟨ok, hok⟩ := lds_checks h hw hd ha he
    exact firstCause_of_checked h.1 hsize (laneAddrs_lt _ _ _ _ _) hok
  · obtain ⟨hsize, he⟩ := scratchStoreForms_sts s k d a g p hp
    obtain ⟨ok, hok⟩ := sts_checks h hw hd ha he
    exact firstCause_of_checked h.1 hsize (laneAddrs_lt _ _ _ _ _) hok
  · obtain ⟨ok, hok⟩ := atoms_checks h hw hd ha (scratchAtomicForms_atoms s k d a g n p hp)
    exact firstCause_of_checked h.1 (by decide) (laneAddrs_lt _ _ _ _ _) hok
  · obtain ⟨hsize, ok, hok⟩ := uniformScratch_checks h e b p hp
    exact firstCause_of_checkedU h.1 hsize (Nat.mod_lt _ (by decide)) hok

/-! Global accesses. -/

/-- A global instruction of lanes completes with none active, and else checks the addresses of its active lanes and goes on. -/
def GlobalLanes (s : State) (w : Issuer) (k : Nat) (i : Instr) (size align : Nat) (addr : Nat → Nat) (go : State) : Prop :=
  exec i s = .next (if activeOf s w k = 0 then done s w
    else checkedG s w size align ((lanesOf (activeOf s w k)).map fun l => (l, addr l)) go)

theorem lanesOf_zero : lanesOf 0 = [] := by simp [lanesOf]

theorem GlobalLanes.firstCause {s : State} {w : Issuer} (h : s.who = some w) {k : Nat} {i : Instr} {size align : Nat} {addr : Nat → Nat}
    {go : State} (e : GlobalLanes s w k i size align addr go) :
    FirstCause s w i id (globalTests size align) ((lanesOf (activeOf s w k)).map fun l => (l, addr l)) := by
  unfold GlobalLanes at e
  split at e
  next hm =>
    rw [hm, lanesOf_zero]
    exact firstCause_nil _
  · exact firstCause_of_checkedG h e

theorem globalFault_none {size align : Nat} {ls : List Nat} {addr : Nat → Nat}
    (h : ∀ l ∈ ls, addr l < 2 ^ 57 ∧ addr l + size - 1 < 2 ^ 57 ∧ addr l % align = 0) :
    globalFault size align (ls.map fun l => (l, addr l)) = none := by
  have hhigh : ∀ q ∈ ls.map fun l => (l, addr l), ¬ (decide (2 ^ 57 ≤ q.2) || decide (2 ^ 57 ≤ q.2 + size - 1)) = true := fun q hq => by
    obtain ⟨l, hl, rfl⟩ := List.mem_map.mp hq
    obtain ⟨hlow, hend, -⟩ := h l hl
    simp only [Bool.or_eq_true, decide_eq_true_eq, not_or, Nat.not_le]
    exact ⟨hlow, hend⟩
  have halign : ∀ q ∈ ls.map fun l => (l, addr l), ¬ (q.2 % align != 0) = true := fun q hq => by
    obtain ⟨l, hl, rfl⟩ := List.mem_map.mp hq
    simp [(h l hl).2.2]
  rw [globalFault_eq, globalTests]
  simp only [pickCause, List.filter_eq_nil_iff.mpr hhigh, List.filter_eq_nil_iff.mpr halign]

/-- With an active lane and every address good a global instruction goes on. -/
theorem GlobalLanes.goes {s : State} {w : Issuer} {k : Nat} {i : Instr} {size align : Nat} {addr : Nat → Nat} {go : State}
    (e : GlobalLanes s w k i size align addr go) (hm : lanesOf (activeOf s w k) ≠ [])
    (h : ∀ l ∈ lanesOf (activeOf s w k), addr l < 2 ^ 57 ∧ addr l + size - 1 < 2 ^ 57 ∧ addr l % align = 0) : exec i s = .next go := by
  have hne : activeOf s w k ≠ 0 := fun h0 => hm (by rw [h0, lanesOf_zero])
  have hgo : exec i s = _ := e
  rw [if_neg hne, checkedG, globalFault_none h] at hgo
  exact hgo

section
variable {s : State} {w : Issuer} (h : Issues s w) {k d a g : Nat} {i : Instr} (hw : wellFormed i = true) (hd : d < w.g.allot)
  (ha : a < w.g.allot)
include h hw hd ha

theorem ldg_lanes {size : Nat} {acquire : Option Scope} (e : exec i s = ldg s i k d a g size acquire) :
    ∃ dest pieces, GlobalLanes s w k i size 1 (globalAddr s w g a) (queueRead s w 4 dest pieces none [] acquire) :=
  ⟨_, _, e.trans (laneIssue_acts h hw (by simpa using ⟨hd, ha⟩) _ _)⟩

theorem stg_lanes {size : Nat} (e : exec i s = stg s i k d a g size) : ∃ go, GlobalLanes s w k i size 1 (globalAddr s w g a) go :=
  ⟨_, e.trans (laneIssue_acts h hw (by simpa using ⟨hd, ha⟩) _ _)⟩

end

theorem atomg_lanes {s : State} {w : Issuer} (h : Issues s w) {k : KReg} {d a : VReg} {o : AtomOp} (hw : wellFormed (.atomg k d a o) = true)
    (hd : d.val < w.g.allot) (ha : a.val < w.g.allot) :
    ∃ dest pieces operands, GlobalLanes s w k (.atomg k d a o) 4 4 (lanePair s w a) (queueRead s w 5 dest pieces (some o) operands none) :=
  ⟨_, _, _, laneIssue_acts h hw (by simpa using ⟨hd, ha⟩) _ _⟩

theorem stgRel_lanes {s : State} {w : Issuer} (h : Issues s w) {k : KReg} {d a : VReg} {z : SzCode} (hw : wellFormed (.stgRel k d a z) = true)
    (hd : d.val < w.g.allot) (ha : a.val < w.g.allot) : ∃ go, GlobalLanes s w k (.stgRel k d a z) (szBytes z) 1 (lanePair s w a) go :=
  ⟨_, laneIssue_acts h hw (by simpa using ⟨hd, ha⟩) _ _⟩

/-- The loads of LDG, each with its access size. -/
theorem ldgForms_ldg (s : State) (k : KReg) (d a : VReg) (g : AReg) :
    ∀ p ∈ [((Instr.ldg32 k d a g, 4) : Instr × Nat), (.ldg64 k d a g, 8), (.ldg128 k d a g, 16), (.ldg32Acq k d a g, 4)],
      ∃ acquire, exec p.1 s = ldg s p.1 k d a g p.2 acquire := by
  simp only [List.forall_mem_cons]
  refine ⟨?_, ?_, ?_, ?_, fun _ h => nomatch h⟩ <;> exact ⟨_, rfl⟩

/-- The stores of STG, each with its access size. -/
theorem stgForms_stg (s : State) (k : KReg) (d a : VReg) (g : AReg) :
    ∀ p ∈ [((Instr.stg8 k d a g, 1) : Instr × Nat), (.stg16 k d a g, 2), (.stg32 k d a g, 4), (.stg64 k d a g, 8)],
      exec p.1 s = stg s p.1 k d a g p.2 := by
  simp only [List.forall_mem_cons]
  refine ⟨?_, ?_, ?_, ?_, fun _ h => nomatch h⟩ <;> rfl

/-- A uniform global instruction checks its address and goes on. -/
def GlobalUniform (s : State) (w : Issuer) (i : Instr) (size align e : Nat) (go : State) : Prop :=
  exec i s = .next (checkedUG s w size align (uniG s w e).toNat go)

section
variable {s : State} {w : Issuer} (h : Issues s w) {i : Instr} (hw : wellFormed i = true)
include h hw

theorem uldG_uniform {d a n : Nat} (e : exec i s = uldG s i d a n) :
    ∃ dest pieces, GlobalUniform s w i n 1 a (queueRead s w 4 dest pieces none [] none) :=
  ⟨_, _, e.trans (uniIssue_acts h hw (by simp) (by simp) _ _)⟩

theorem uldGAtom_uniform {d a b : Nat} {gs : List Nat} {o : AtomOp} (e : exec i s = uldGAtom s i d a b gs o) :
    ∃ dest pieces op operands, GlobalUniform s w i 8 8 a (queueRead s w 5 dest pieces (some op) operands none) :=
  ⟨_, _, _, _, e.trans (uniIssue_acts h hw (by simp) (by simp) _ _)⟩

theorem ustG_uniform {a b n : Nat} (e : exec i s = ustG s i a b n) : ∃ go, GlobalUniform s w i n 1 a go :=
  ⟨_, e.trans (uniIssue_acts h hw (by simp) (by simp) _ _)⟩

end

/-- The uniform global loads, each with its access size. -/
theorem uniformLoads {s : State} {w : Issuer} (h : Issues s w) (e b : GReg) :
    ∀ p ∈ [((Instr.uldG32 b e, 4) : Instr × Nat), (.uldG64 b e, 8)],
      ∃ dest pieces, GlobalUniform s w p.1 p.2 1 e (queueRead s w 4 dest pieces none [] none) := by
  simp only [List.forall_mem_cons]
  exact ⟨uldG_uniform h rfl rfl, uldG_uniform h rfl rfl, fun _ h => nomatch h⟩

/-- The uniform global atomics. -/
theorem uniformAtomics {s : State} {w : Issuer} (h : Issues s w) (e b c : GReg) :
    ∀ i ∈ [Instr.uldGAdd b e c, .uldGExch b e c, .uldGCas b e c],
      ∃ dest pieces op operands, GlobalUniform s w i 8 8 e (queueRead s w 5 dest pieces (some op) operands none) := by
  simp only [List.forall_mem_cons]
  exact ⟨uldGAtom_uniform h rfl rfl, uldGAtom_uniform h rfl rfl, uldGAtom_uniform h rfl rfl, fun _ h => nomatch h⟩

/-- The uniform global instructions, each with its access size and alignment. -/
theorem uniformGlobal_checks {s : State} {w : Issuer} (h : Issues s w) (e b c : GReg) :
    ∀ p ∈ [((Instr.uldG32 b e, 4, 1) : Instr × Nat × Nat), (.uldG64 b e, 8, 1), (.ustG32 e b, 4, 1), (.ustG64 e b, 8, 1),
        (.uldGAdd b e c, 8, 8), (.uldGExch b e c, 8, 8), (.uldGCas b e c, 8, 8)], ∃ go, GlobalUniform s w p.1 p.2.1 p.2.2 e go := by
  have hloads := uniformLoads h e b
  have hatomics := uniformAtomics h e b c
  simp only [List.forall_mem_cons] at hloads hatomics ⊢
  obtain ⟨⟨_, _, h32⟩, ⟨_, _, h64⟩, -⟩ := hloads
  obtain ⟨⟨_, _, _, _, hadd⟩, ⟨_, _, _, _, hexch⟩, ⟨_, _, _, _, hcas⟩, -⟩ := hatomics
  exact ⟨⟨_, h32⟩, ⟨_, h64⟩, ustG_uniform h rfl rfl, ustG_uniform h rfl rfl, ⟨_, hadd⟩, ⟨_, hexch⟩, ⟨_, hcas⟩, fun _ h => nomatch h⟩

theorem GlobalUniform.goes {s : State} {w : Issuer} {i : Instr} {size align e : Nat} {go : State} (hi : GlobalUniform s w i size align e go)
    (hlow : (uniG s w e).toNat < 2 ^ 57) (hend : (uniG s w e).toNat + size - 1 < 2 ^ 57) (halign : (uniG s w e).toNat % align = 0) :
    exec i s = .next go := by
  have hgo : exec i s = _ := hi
  have hnone := globalFault_none (size := size) (align := align) (ls := [0]) (addr := fun _ => (uniG s w e).toNat)
    fun l _ => ⟨hlow, hend, halign⟩
  rw [List.map_singleton] at hnone
  rw [checkedUG, hnone] at hgo
  exact hgo

theorem globalAddressTraps : GlobalAddressTraps := by
  intro s w k d a g o z e b c h hd ha
  refine ⟨fun p hp hw => ?_, fun p hp hw => ?_, fun p hp => ?_⟩
  · have hlanes : ∃ go, GlobalLanes s w k p.1 p.2 1 (globalAddr s w g a) go := by
      rcases List.mem_append.mp (show p ∈ [((Instr.ldg32 k d a g, 4) : Instr × Nat), (.ldg64 k d a g, 8), (.ldg128 k d a g, 16),
        (.ldg32Acq k d a g, 4)] ++ [(.stg8 k d a g, 1), (.stg16 k d a g, 2), (.stg32 k d a g, 4), (.stg64 k d a g, 8)] from hp) with hp | hp
      · obtain ⟨acquire, he⟩ := ldgForms_ldg s k d a g p hp
        obtain ⟨_, _, hl⟩ := ldg_lanes h hw hd ha he
        exact ⟨_, hl⟩
      · exact stg_lanes h hw hd ha (stgForms_stg s k d a g p hp)
    obtain ⟨go, hlanes⟩ := hlanes
    exact hlanes.firstCause h.1
  · revert p
    refine List.forall_mem_cons.mpr ⟨fun hw => ?_, List.forall_mem_cons.mpr ⟨fun hw => ?_, fun _ hp => nomatch hp⟩⟩
    · obtain ⟨_, _, _, hlanes⟩ := atomg_lanes h hw hd ha
      exact hlanes.firstCause h.1
    · obtain ⟨_, hlanes⟩ := stgRel_lanes h hw hd ha
      exact hlanes.firstCause h.1
  · obtain ⟨go, hgo⟩ := uniformGlobal_checks h e b c p hp
    exact firstCause_of_checkedUG h.1 hgo

/-! A charge that does not fit (18 R257). -/

theorem holdIt_stands {s : State} {w : Issuer} (h : s.who = some w) (hold : Hold) :
    Stands (holdIt s w hold) w { w.sp with hold := hold, tried := true, heldFor := if w.sp.hold == hold then w.sp.heldFor else 0 } := by
  obtain ⟨hg, hsp, -⟩ := who_parts h
  have hstands : Stands s w w.sp := ⟨w.g, hg, hsp, fun _ _ => rfl⟩
  exact hstands.modSplit (fun sp => { sp with hold := hold, tried := true, heldFor := if sp.hold == hold then sp.heldFor else 0 }) fun _ => rfl

theorem holds_of_holdIt {s : State} {w : Issuer} (h : s.who = some w) {i : Instr} {hold : Hold} (e : exec i s = .next (holdIt s w hold)) :
    Holds s w i hold :=
  ⟨_, _, e, holdIt_stands h hold, rfl, rfl, rfl, modSplit_local ..⟩

/-- What the statement says of an instruction that is charged `n` on a channel. -/
def Bounded (s : State) (w : Issuer) (x : Ctx) (i : Instr) (cls : Nat) : Prop :=
  (x.vb < vfix s x + chargeOf s cls 0 → Traps s w i .vacateBound w.sp.pc (BitVec.ofNat 64 (chargeOf s cls 0)) 0)
    ∧ (vfix s x + chargeOf s cls 0 ≤ x.vb →
        x.vb < vfix s x + max (channelSum s x (channelOf s cls) + chargeOf s cls 0) (otherSums s x (channelOf s cls)) →
        Holds s w i .vacateStall)

section
variable {s : State} {w : Issuer} {x : Ctx} {y : Block} (h : s.who = some w) (hx : s.ctx? w.g.ctx = some x) (hy : blockOf w = some y)
  (hflush : flushes s x w.c y.id = false) (hdrain : drains s w.c y.id = false)
include h hx hy hflush hdrain

theorem bounded_of_queueRead {i : Instr} {cls : Nat} {dest : Dest} {pieces : List Piece} {atom : Option AtomOp}
    {operands : List (Nat × DWord × DWord)} {acquire : Option Scope}
    (e : exec i s = .next (queueRead s w cls dest pieces atom operands acquire)) : Bounded s w x i cls := by
  have hrule : admitMine s w cls (chargeOf s cls 0) = issueRule s x w.c y.id (channelOf s cls) (chargeOf s cls 0) w.claimant := by
    simp only [admitMine, hx, hy]
  have hopen : ¬ (flushes s x w.c y.id || drains s w.c y.id) = true := by simp [hflush, hdrain]
  rw [issueRule, if_neg hopen] at hrule
  refine ⟨fun hbig => trapsIn_of_trapHere h ?_, fun hfit hfull => holds_of_holdIt h ?_⟩
  · rw [if_pos hbig] at hrule
    rw [e, queueRead, charged, chargedFor, hrule]
  · rw [if_neg (Nat.not_lt.mpr hfit), if_pos hfull] at hrule
    rw [e, queueRead, charged, chargedFor, hrule]

end

theorem vacateBoundTraps : VacateBoundTraps := by
  intro s w x y k d a g o e b c h hd ha hx hy hflush hdrain
  refine ⟨fun p hp hw hls hgood => ?_, fun hw hls hgood => ?_, fun p hp hlow hend => ?_, fun i hi hend halign => ?_⟩
  · obtain ⟨acquire, he⟩ := ldgForms_ldg s k d a g p hp
    obtain ⟨_, _, hlanes⟩ := ldg_lanes h hw hd ha he
    exact bounded_of_queueRead h.1 hx hy hflush hdrain
      (hlanes.goes hls fun l hl => ⟨(hgood l hl).1, (hgood l hl).2, Nat.mod_one _⟩)
  · obtain ⟨_, _, _, hlanes⟩ := atomg_lanes h hw hd ha
    refine bounded_of_queueRead h.1 hx hy hflush hdrain (hlanes.goes hls fun l hl => ?_)
    obtain ⟨hend, halign⟩ := hgood l hl
    exact ⟨by omega, by omega, halign⟩
  · obtain ⟨_, _, hu⟩ := uniformLoads h e b p hp
    exact bounded_of_queueRead h.1 hx hy hflush hdrain (hu.goes hlow hend (Nat.mod_one _))
  · obtain ⟨_, _, _, _, hu⟩ := uniformAtomics h e b c i hi
    exact bounded_of_queueRead h.1 hx hy hflush hdrain (hu.goes (by omega) (by omega) halign)

/-- Settles O19: an instruction that traps takes its trap by `trapAt`, and what it tests first decides the cause. -/
theorem issueTraps : Obligations.IssueTraps := ⟨operandTraps, scratchAddressTraps, globalAddressTraps, vacateBoundTraps⟩

end Sys2Proof.Machine
end

section
/-! Proofs: pair results of lane instructions (O2). -/
namespace Sys2Proof.Machine

/-- The two registers of a pair lie in different cells of the rows (05 R58). -/
theorem rowKey_pair_ne {g : Group} {d : Nat} (hd : d % 2 = 0) (l l' : Nat) (hl : l < 32) (hl' : l' < 32) :
    rowKey g d l ≠ rowKey g (d + 1) l' := by
  have hside : d < 64 ↔ d + 1 < 64 := by omega
  simp only [rowKey, hside]
  split <;> omega

theorem vkeys_pair_disjoint {g : Group} {d : Nat} (hd : d % 2 = 0) (m : Mask) (a : Nat) (h : VKeys g d m a) : ¬ VKeys g (d + 1) m a := by
  rintro ⟨l', hl', -, -, rfl⟩
  obtain ⟨l, hl, -, -, heq⟩ := h
  exact rowKey_pair_ne hd l l' hl hl' heq.symm

/-- What an instruction with a pair result does. -/
theorem pairResult_of {s : State} {w : Issuer} (h : s.who = some w) {i : Instr} {d : Nat} (hd : d % 2 = 0) {m : Mask} {tl tu : Nat}
    {f : Nat → Nat} (e : exec i s = .next (done (putPair s w d m tl tu f) w)) : PairResult s w i d m f := by
  have htracks := who_tracks h
  have hlow := putV_tracks d m tl tu (fun l => BitVec.ofNat 32 (f l)) htracks
  have hkeepHigh := putV_local (d + 1) m tl tu (fun l => BitVec.ofNat 32 (f l / 2 ^ 32)) hlow
  have hretire := retire_local (putPair s w d m tl tu f) w (nextPc w) 1
  refine ⟨_, e, ?_, ?_, ?_, ?_⟩
  · exact ((putV_holds d m tl tu _ htracks).keep hkeepHigh (vkeys_pair_disjoint hd m)).keep hretire fun _ _ hk => hk
  · exact (putV_holds (d + 1) m tl tu _ hlow).keep hretire fun _ _ hk => hk
  · exact retire_goesOn _ _ (putV_tracks (d + 1) m tl tu _ hlow) (who_parts h).2.1
  · have hlowLocal := (putV_local d m tl tu (fun l => BitVec.ofNat 32 (f l)) htracks).mono (keys' := fun k =>
      VKeys w.g d m k ∨ VKeys w.g (d + 1) m k) (fun _ hk => .inl hk) (fun _ hk => hk) id
    exact (hlowLocal.trans (hkeepHigh.mono (fun _ hk => .inr hk) (fun _ hk => hk) id)).trans
      (hretire.mono (fun _ hk => hk.elim) (fun _ hk => hk) id)

theorem lanePair_lt (s : State) (w : Issuer) (n l : Nat) : lanePair s w n l < 2 ^ 64 := by
  have hlow := (laneV s w n l).isLt
  have hhigh := (laneV s w (n + 1) l).isLt
  unfold lanePair
  omega

/-- The form acts by writing the pair of each active lane's value. -/
theorem pairForms_act {s : State} {w : Issuer} (h : Issues s w) (k : KReg) (d a b : VReg) (hd : d.val < w.g.allot) (ha : a.val < w.g.allot)
    (hb : b.val < w.g.allot) : ∀ p ∈ pairForms, wellFormed (p.1 k d a b) = true → d.val % 2 = 0
      ∧ exec (p.1 k d a b) s = .next (done (putPair s w d (activeOf s w k) 2 4 fun l => p.2 s w d a b l) w) := by
  have hnamed : ∀ r ∈ [d.val, a.val, b.val], r < w.g.allot := by simpa using ⟨hd, ha, hb⟩
  have hsub : ∀ l, aluSub64 (lanePair s w a l) (lanePair s w b l) = (lanePair s w a l + 2 ^ 64 - lanePair s w b l) % 2 ^ 64 := fun l => by
    rw [aluSub64, Nat.mod_eq_of_lt (lanePair_lt s w b l)]
  simp only [pairForms, List.forall_mem_cons]
  refine ⟨?_, ?_, ?_, ?_, ?_, ?_, fun _ hp => nomatch hp⟩ <;> intro hw
  all_goals
    refine ⟨?_, (laneIssue_acts h hw hnamed _ _).trans ?_⟩
    · simp only [wellFormed, evenReg, Bool.and_eq_true, beq_iff_eq] at hw
      omega
  · rfl
  · simp only [hsub]
    rfl
  · rfl
  · rfl
  · rfl
  · rfl

/-- Settles O2: the form writes vd and then vd + 1, which lie in different cells, since a well-formed vd is even. -/
theorem lanePairResults : Obligations.LanePairResults := by
  intro s w k d a b h hd ha hb p hp hw
  obtain ⟨heven, he⟩ := pairForms_act h k d a b hd ha hb p hp hw
  exact pairResult_of h.1 heven he

end Sys2Proof.Machine
end

section
/-! Proofs: the mask register k0 (O52). -/
namespace Sys2Proof.Machine

/-- A change that leaves every mask register leaves their content as the issuer has it. -/
theorem Near.rawK_same {s t : State} {w : Issuer} {keys : Nat → Prop} {fl : Bool} (h : s.who = some w) (k : Local s t w keys noKeys fl) :
    ∃ g, t.group? w.c w.slot = some g ∧ ∀ m, rawK g m = rawK w.g m := by
  obtain ⟨hg, -, -⟩ := who_parts h
  obtain ⟨g, hgroup, -, hmasks, -⟩ := k.group w.g hg
  exact ⟨g, hgroup, fun m => hmasks m id⟩

/-- An instruction completes and leaves every mask register. -/
def KeepsMasks (s : State) (w : Issuer) (i : Instr) : Prop :=
  ∃ t h, exec i s = .next t ∧ GoesOn t w (nextPc w) ∧ t.group? w.c w.slot = some h ∧ ∀ m, rawK h m = rawK w.g m

section
variable {s : State} {w : Issuer} (h : s.who = some w) {i : Instr}
include h

theorem keepsMasks_of_done (e : exec i s = .next (done s w)) : KeepsMasks s w i := by
  obtain ⟨g, hg, hmasks⟩ := (retire_local s w (nextPc w) 1).rawK_same h
  exact ⟨_, g, e, retire_goesOn _ _ (who_tracks h) (who_parts h).2.1, hg, hmasks⟩

theorem keepsMasks_of_flags {n : Nat} {f : FFlags} (e : exec i s = .next (done (raiseFlags s w n f) w)) : KeepsMasks s w i := by
  have hretire := (retire_local (raiseFlags s w n f) w (nextPc w) 1).mono (keys' := noKeys) (ks' := noKeys) (fl' := true)
    (fun _ hk => hk) (fun _ hk => hk) fun _ => rfl
  obtain ⟨g, hg, hmasks⟩ := ((raiseFlags_local s w n f).trans hretire).rawK_same h
  exact ⟨_, g, e, retire_goesOn _ _ (raiseFlags_tracks n f (who_tracks h)) (who_parts h).2.1, hg, hmasks⟩

end

theorem putK_zero (s : State) (w : Issuer) (m : Mask) (tl tu : Nat) (v : Mask) : putK s w 0 m tl tu v = s := if_pos rfl

/-- Settles O52: a write of k0 is the state unchanged, so that an instruction that writes it only retires, FCMP after it raised its flags. -/
theorem maskRegisterZero : Obligations.MaskRegisterZero := by
  intro s w k i j a b g c f t u h ha hb
  have hnamed : ∀ r ∈ [a.val, b.val], r < w.g.allot := by simpa using ⟨ha, hb⟩
  have huni : ∀ {n : Instr} {srcs : Issuer → List Src} {v : Issuer → Mask}, wellFormed n = true →
      exec n s = uniIssue s n false [] srcs (fun w => done (putMask s w 0 (v w)) w) → KeepsMasks s w n := fun hw e =>
    keepsMasks_of_done h.1 (e.trans ((uniIssue_acts h hw (by simp) (by simp) _ _).trans (by rw [putMask, putK_zero])))
  refine ⟨fun z => rfl, rfl, fun l hl => BitVec.getLsbD_and, fun hw => huni hw rfl, fun hw => huni hw rfl, fun hw => huni hw rfl,
    fun hw => huni hw rfl, fun hw => huni hw rfl, fun hw => huni hw rfl, fun hw => ?_, fun hw => ?_⟩
  · have he : exec (.icmp k c 0 a b t) s = .next (done (putK s w 0 _ 3 3 _) w) := laneIssue_acts h hw hnamed _ _
    rw [putK_zero] at he
    exact keepsMasks_of_done h.1 he
  · have he : exec (.fcmp k f 0 a b u) s = .next (done (raiseFlags (putK s w 0 _ 3 3 _) w 3 _) w) := laneIssue_acts h hw hnamed _ _
    rw [putK_zero] at he
    exact keepsMasks_of_flags h.1 he

end Sys2Proof.Machine
end

section
/-! Proofs: instructions that change only their group or fork an operation. -/
namespace Sys2Proof.Machine

/-- A change of a group that leaves its slot, the places of its registers and its split table. -/
structure KeepsPlace (f : Group → Group) : Prop where
  slot : ∀ g, (f g).slot = g.slot
  first : ∀ g, (f g).first = g.first
  second : ∀ g, (f g).second = g.second
  allot : ∀ g, (f g).allot = g.allot
  splits : ∀ g, (f g).splits = g.splits

theorem Tracks.modGroup {s : State} {w : Issuer} (h : Tracks s w) {f : Group → Group} (hf : KeepsPlace f) :
    Tracks (s.modGroup w.c w.slot f) w := by
  obtain ⟨g, hg, hfirst, hsecond, hallot, hsplits, hslot⟩ := h
  exact ⟨f g, group_changed_some f hf.slot hg, (hf.first g).trans hfirst, (hf.second g).trans hsecond, (hf.allot g).trans hallot,
    (hf.splits g).trans hsplits, (hf.slot g).trans hslot⟩

/-- What an instruction sees of its group after a change outside the cores is as before. -/
theorem Tracks.sameCores {s t : State} {w : Issuer} (h : Tracks s w) (hc : t.cores = s.cores) : Tracks t w := by
  obtain ⟨g, hg, hkeep⟩ := h
  refine ⟨g, ?_, hkeep⟩
  rw [← hg]
  simp only [State.group?, State.core, hc]

theorem nextId_near (s : State) (w : Issuer) (n : Nat) : Near s { s with nextId := n } w noKeys fun a b => b = a :=
  ⟨rfl, fun _ => rfl, fun _ _ => rfl, rfl, fun _ _ => rfl, fun _ _ => rfl, fun g hg => ⟨g, hg, rfl⟩⟩

/-- A new name taken and the group changed, and then the split goes on. -/
theorem named_near (s : State) (w : Issuer) (n : Nat) {f : Group → Group} (hf : KeepsPlace f) (hla : ∀ g, (f g).la = g.la) (pc : PC) (k : Nat) :
    Near s (retire (State.modGroup { s with nextId := n } w.c w.slot f) w pc k) w noKeys (GroupBy f) := by
  have hchange : Near s (State.modGroup { s with nextId := n } w.c w.slot f) w noKeys (GroupBy f) :=
    (nextId_near s w n).trans (modGroup_near (rel := fun a b => b = f a) f hf.slot fun _ => rfl) fun a b c hab hbc => by
      rw [hbc, hab]
      exact ⟨rfl, by rw [hla]⟩
  exact hchange.by_trans (retire_near ..)

theorem completes_of_named {s : State} {w : Issuer} (h : s.who = some w) {i : Instr} {n : Nat} {f : Group → Group} (hf : KeepsPlace f)
    (hla : ∀ g, (f g).la = g.la) (e : exec i s = .next (done (State.modMine { s with nextId := n } w f) w)) : Completes s w i f := by
  have htracks : Tracks { s with nextId := n } w := (who_tracks h).sameCores rfl
  exact ⟨_, e, retire_goesOn _ _ (htracks.modGroup hf) (who_parts h).2.1, named_near s w n hf hla _ _⟩

theorem join_keepsPlace (x : Gate) : KeepsPlace (·.join x) := ⟨fun _ => rfl, fun _ => rfl, fun _ => rfl, fun _ => rfl, fun _ => rfl⟩

theorem modCtx_ctx (s : State) (c b : Nat) (f : Ctx → Ctx) (hf : ∀ x, (f x).id = x.id) :
    (s.modCtx c f).ctx? b = (s.ctx? b).map fun x => if b = c then f x else x := by
  by_cases hb : b = c
  · subst hb
    simp only [if_true]
    exact find_replaceFirst_same _ f (fun a ha => by simpa [hf a] using ha) s.ctxs
  · simp only [if_neg hb, Option.map_id']
    refine find_replaceFirst_other _ _ f (fun a ha => ?_) (fun a ha => ?_) s.ctxs
    · simp only [beq_iff_eq] at ha
      simp [ha, Ne.symm hb]
    · simp only [beq_iff_eq] at ha
      simp [hf a, ha, Ne.symm hb]

/-- What an instruction does that forks an operation, changes its group beside and goes on. -/
theorem forks_of_forkOp {s : State} {w : Issuer} (h : s.who = some w) {i : Instr} {gate : Gate} {cls charge : Nat} {kind : OpKind}
    {f : Group → Group} (hf : KeepsPlace f) (hla : ∀ g, (f g).la = g.la)
    (e : exec i s = .next (done ((forkOp s w gate cls charge kind).2.modMine w f) w)) : Forks s w i gate cls charge kind f := by
  have htracks : Tracks (forkOp s w gate cls charge kind).2 w :=
    Tracks.modGroup (s := { endPriority s w with nextId := s.nextId + 1, ops := s.ops ++ [forkedOp s w gate cls charge kind] })
      ((who_tracks h).sameCores rfl) (join_keepsPlace gate)
  refine ⟨_, e, retire_goesOn _ _ (htracks.modGroup hf) (who_parts h).2.1, rfl, fun c => modCtx_ctx s w.g.ctx c _ fun _ => rfl, ?_⟩
  have hjoin := (nextId_near s w (s.nextId + 1)).trans (r3 := fun a b => b = a.join gate)
    (modGroup_near (rel := fun a b => b = a.join gate) (·.join gate) (join_keepsPlace gate).slot fun _ => rfl)
    fun a b c hab hbc => by rw [hbc, hab]
  have hchange := hjoin.trans (r3 := GroupBy fun g => f (g.join gate)) (modGroup_near (rel := fun a b => b = f a) f hf.slot fun _ => rfl)
    fun a b c hab hbc => by
      rw [hbc, hab]
      exact ⟨rfl, by rw [hla]; rfl⟩
  exact hchange.by_trans (retire_near _ w (nextPc w) 1)

theorem lanesOf_eq_nil {m : Mask} : lanesOf m = [] ↔ m = 0 := by
  refine ⟨fun h => BitVec.eq_of_getLsbD_eq fun l hl => ?_, fun h => by rw [h, lanesOf_zero]⟩
  have hno : l ∉ lanesOf m := by simp [h]
  rw [mem_lanesOf, not_and] at hno
  simpa using hno hl

theorem GlobalLanes.idle {s : State} {w : Issuer} (h : s.who = some w) {k : Nat} {i : Instr} {size align : Nat} {addr : Nat → Nat}
    {go : State} (e : GlobalLanes s w k i size align addr go) (hm : lanesOf (activeOf s w k) = []) : Moves s w i (nextPc w) := by
  have hgo : exec i s = _ := e
  rw [if_pos (lanesOf_eq_nil.mp hm)] at hgo
  exact moves_of_retire h hgo

end Sys2Proof.Machine
end

section
/-! Proofs: global loads (O25). -/
namespace Sys2Proof.Machine

theorem queueRead_forks {s : State} {w : Issuer} (h : s.who = some w) {i : Instr} {cls : Nat} {dest : Dest} {pieces : List Piece}
    {atom : Option AtomOp} {operands : List (Nat × DWord × DWord)} {acquire : Option Scope} (hgo : admitMine s w cls (chargeOf s cls 0) = .go)
    (e : exec i s = .next (queueRead s w cls dest pieces atom operands acquire)) :
    Forks s w i .gl cls (chargeOf s cls 0) .reads (readQueued w s.nextId dest pieces atom operands acquire) := by
  refine forks_of_forkOp h ⟨fun _ => rfl, fun _ => rfl, fun _ => rfl, fun _ => rfl, fun _ => rfl⟩ (fun _ => rfl) (e.trans ?_)
  rw [queueRead, charged, chargedFor, hgo]
  rfl

section
variable {s : State} {w : Issuer} (h : Issues s w) (hgo : admitMine s w 4 (chargeOf s 4 0) = .go)
include h hgo

/-- What the statement says of a load of lanes. -/
theorem ldg_queues {k d a g : Nat} (hd : d < w.g.allot) (ha : a < w.g.allot) {i : Instr} {size : Nat} {acquire : Option Scope}
    (hw : wellFormed i = true) (e : exec i s = ldg s i k d a g size acquire) :
    (lanesOf (activeOf s w k) = [] → Moves s w i (nextPc w))
      ∧ (lanesOf (activeOf s w k) ≠ [] → (∀ l ∈ lanesOf (activeOf s w k), lowVa (globalAddr s w g a l) size) →
          Forks s w i .gl 4 (chargeOf s 4 0) .reads (readQueued w s.nextId (.lanes d size)
            ((lanesOf (activeOf s w k)).flatMap fun l => cutPieces 4 l (globalAddr s w g a l) size 0) none [] acquire)) := by
  have hlanes : GlobalLanes s w k i size 1 (globalAddr s w g a) (queueRead s w 4 (.lanes d size)
      ((globalAddrs s w (activeOf s w k) g a).flatMap fun p => cutPieces 4 p.1 p.2 size 0) none [] acquire) :=
    e.trans (laneIssue_acts h hw (by simpa using ⟨hd, ha⟩) _ _)
  rw [globalAddrs, List.flatMap_map] at hlanes
  refine ⟨hlanes.idle h.1, fun hne hlow => queueRead_forks h.1 hgo (hlanes.goes hne fun l hl => ?_)⟩
  obtain ⟨hva, hend⟩ := hlow l hl
  exact ⟨hva, hend, Nat.mod_one _⟩

theorem uldG_queues {i : Instr} {d a size : Nat} (hw : wellFormed i = true) (e : exec i s = uldG s i d a size)
    (hlow : lowVa (uniG s w a).toNat size) :
    Forks s w i .gl 4 (chargeOf s 4 0) .reads
      (readQueued w s.nextId (.uniform d size) (cutPieces 3 0 (uniG s w a).toNat size 0) none [] none) := by
  have huni : GlobalUniform s w i size 1 a (queueRead s w 4 (.uniform d size) (cutPieces 3 0 (uniG s w a).toNat size 0) none [] none) :=
    e.trans (uniIssue_acts h hw (by simp) (by simp) _ _)
  obtain ⟨hva, hend⟩ := hlow
  exact queueRead_forks h.1 hgo (huni.goes hva hend (Nat.mod_one _))

end

/-- Settles O25: an admitted load whose addresses are good forks its operation and queues its read. -/
theorem globalLoads : Obligations.GlobalLoads := by
  intro s w k d a g e b h hd ha hgo
  simp only [List.forall_mem_cons]
  refine ⟨⟨?_, ?_, ?_, ?_, fun _ hp => nomatch hp⟩, ?_, ?_, fun _ hp => nomatch hp⟩
  · exact fun hw => ldg_queues h hgo hd ha hw rfl
  · exact fun hw => ldg_queues h hgo hd ha hw rfl
  · exact fun hw => ldg_queues h hgo hd ha hw rfl
  · exact fun hw => ldg_queues h hgo hd ha hw rfl
  · exact uldG_queues h hgo rfl rfl
  · exact uldG_queues h hgo rfl rfl

end Sys2Proof.Machine
end

section
/-! Proofs: global stores (O26). -/
namespace Sys2Proof.Machine

theorem queueStore_completes {s : State} {w : Issuer} (h : s.who = some w) {i : Instr} {writes : List (Nat × Nat × List Byte)}
    {release : Option Scope} (e : exec i s = .next (queueStore s w writes release)) :
    Completes s w i (storeQueued w s.nextId writes release) :=
  completes_of_named h ⟨fun _ => rfl, fun _ => rfl, fun _ => rfl, fun _ => rfl, fun _ => rfl⟩ (fun _ => rfl) e

/-- What the statement says of a store of lanes at some addresses. -/
theorem store_queues {s : State} {w : Issuer} (h : s.who = some w) {k d size : Nat} {addr : Nat → Nat} {release : Option Scope} {i : Instr} {go : State}
    (hlanes : GlobalLanes s w k i size 1 addr go)
    (hgo : go = queueStore s w ((lanesOf (activeOf s w k)).map fun l => (l, addr l, bytesStored s w size d l)) release) :
    (lanesOf (activeOf s w k) = [] → Moves s w i (nextPc w))
      ∧ (lanesOf (activeOf s w k) ≠ [] → (∀ l ∈ lanesOf (activeOf s w k), lowVa (addr l) size) → Completes s w i
          (storeQueued w s.nextId ((lanesOf (activeOf s w k)).map fun l => (l, addr l, bytesStored s w size d l)) release)) := by
  subst hgo
  refine ⟨hlanes.idle h, fun hne hlow => queueStore_completes h (hlanes.goes hne fun l hl => ?_)⟩
  obtain ⟨hva, hend⟩ := hlow l hl
  exact ⟨hva, hend, Nat.mod_one _⟩

section
variable {s : State} {w : Issuer} {x : Ctx} (hroom : w.g.queue.length < 16) (hx : s.ctx? w.g.ctx = some x)
  (hfull : foundFull w = true → (∀ q ∈ w.g.due, q.store = false) ∧ ∀ q ∈ w.g.queue, q.fault = .clear ∧ storeTranslates s x q = true)
include hroom hx hfull

/-- A store that finds room goes on; one that had found the queue full is a suspension point that nothing holds. -/
theorem withRoom_goes (go : State) : withRoom s w go = go := by
  rw [withRoom, if_pos hroom]
  split
  next hf =>
    obtain ⟨hdue, hqueue⟩ := hfull hf
    exact storePoint_goes hx hdue hqueue go
  · rfl

variable (h : Issues s w)
include h

theorem stg_queues {k d a g : Nat} (hd : d < w.g.allot) (ha : a < w.g.allot) {i : Instr} {size : Nat} (hw : wellFormed i = true)
    (e : exec i s = stg s i k d a g size) :
    (lanesOf (activeOf s w k) = [] → Moves s w i (nextPc w))
      ∧ (lanesOf (activeOf s w k) ≠ [] → (∀ l ∈ lanesOf (activeOf s w k), lowVa (globalAddr s w g a l) size) → Completes s w i
          (storeQueued w s.nextId ((lanesOf (activeOf s w k)).map fun l => (l, globalAddr s w g a l, bytesStored s w size d l)) none)) := by
  refine store_queues h.1 (e.trans (laneIssue_acts h hw (by simpa using ⟨hd, ha⟩) _ _)) ?_
  rw [withRoom_goes hroom hx hfull, globalAddrs, List.map_map]
  rfl

theorem ustG_queues {i : Instr} {a b size : Nat} (hw : wellFormed i = true) (e : exec i s = ustG s i a b size)
    (hlow : lowVa (uniG s w a).toNat size) :
    Completes s w i (storeQueued w s.nextId [(0, (uniG s w a).toNat, bytesOf size (uniG s w b).toNat)] none) := by
  have huni : GlobalUniform s w i size 1 a
      (withRoom s w (queueStore s w [(0, (uniG s w a).toNat, bytesOf size (uniG s w b).toNat)] none)) :=
    e.trans (uniIssue_acts h hw (by simp) (by simp) _ _)
  rw [withRoom_goes hroom hx hfull] at huni
  obtain ⟨hva, hend⟩ := hlow
  exact queueStore_completes h.1 (huni.goes hva hend (Nat.mod_one _))

end

/-- Settles O26: a store that finds room queues its entry. -/
theorem globalStores : Obligations.GlobalStores := by
  intro s w x k d a g z e b h hd ha hroom hx hfull
  simp only [List.forall_mem_cons]
  refine ⟨⟨?_, ?_, ?_, ?_, fun _ hp => nomatch hp⟩, fun hw hdue hqueue => ?_, ?_, ?_, fun _ hp => nomatch hp⟩
  · exact fun hw => stg_queues hroom hx hfull h hd ha hw rfl
  · exact fun hw => stg_queues hroom hx hfull h hd ha hw rfl
  · exact fun hw => stg_queues hroom hx hfull h hd ha hw rfl
  · exact fun hw => stg_queues hroom hx hfull h hd ha hw rfl
  · refine store_queues h.1 (laneIssue_acts h hw (by simpa using ⟨hd, ha⟩) _ _) ?_
    rw [storePoint_goes hx hdue hqueue, withRoom_goes hroom hx hfull, pairAddrs, List.map_map]
    rfl
  · exact ustG_queues hroom hx hfull h rfl rfl
  · exact ustG_queues hroom hx hfull h rfl rfl

end Sys2Proof.Machine
end

section
/-! Proofs: changes of the issuing group alone, and results handed in under a lookahead count. -/
namespace Sys2Proof.Machine

/-- Between two states only the issuing group changed, as `rel` says, and the count of names. -/
structure OnlyMine (s t : State) (w : Issuer) (rel : Group → Group → Prop) : Prop where
  package : t = { s with cores := t.cores, nextId := t.nextId }
  cores : ∀ c, c ≠ w.c → t.core c = s.core c
  core : t.core w.c = { s.core w.c with groups := (t.core w.c).groups }
  slots : ∀ b, b ≠ w.slot → t.group? w.c b = s.group? w.c b
  group : ∀ g, s.group? w.c w.slot = some g → ∃ h, t.group? w.c w.slot = some h ∧ rel g h

section
variable {s t u : State} {w : Issuer} {r r1 r2 r3 : Group → Group → Prop}

theorem OnlyMine.near (h : OnlyMine s t w r) : Near s t w noKeys r := by
  obtain ⟨hpackage, hcores, hcore, hslots, hgroup⟩ := h
  refine ⟨?_, fun a => ?_, hcores, ?_, fun k _ => ?_, hslots, hgroup⟩
  · rw [hpackage]
  · rw [hpackage]
  · rw [hcore]
  · rw [hcore]

theorem OnlyMine.trans (h : OnlyMine s t w r1) (k : OnlyMine t u w r2) (hr : ∀ a b c, r1 a b → r2 b c → r3 a c) : OnlyMine s u w r3 := by
  refine ⟨?_, fun c hc => (k.cores c hc).trans (h.cores c hc), ?_, fun b hb => (k.slots b hb).trans (h.slots b hb), fun g hg => ?_⟩
  · rw [k.package, h.package]
  · rw [k.core, h.core]
  · obtain ⟨g1, hg1, e1⟩ := h.group g hg
    obtain ⟨g2, hg2, e2⟩ := k.group g1 hg1
    exact ⟨g2, hg2, hr _ _ _ e1 e2⟩

theorem onlyMine_nextId (s : State) (w : Issuer) (n : Nat) : OnlyMine s { s with nextId := n } w fun a b => b = a :=
  ⟨rfl, fun _ _ => rfl, rfl, fun _ _ => rfl, fun g hg => ⟨g, hg, rfl⟩⟩

theorem onlyMine_modGroup (s : State) (w : Issuer) {f : Group → Group} (hs : ∀ g, (f g).slot = g.slot) :
    OnlyMine s (s.modGroup w.c w.slot f) w fun a b => b = f a := by
  have hnear := modGroup_near (s := s) (w := w) (rel := fun a b => b = f a) f hs fun _ => rfl
  exact ⟨rfl, hnear.cores, by rw [State.modGroup, core_modCore _ _ _ (core_index s w.c)]; rfl, hnear.slots, hnear.group⟩

theorem onlyMine_retire (s : State) (w : Issuer) (pc : PC) (n : Nat) : OnlyMine s (retire s w pc n) w (GroupLocal noKeys false) :=
  (onlyMine_nextId s w s.nextId).trans (onlyMine_modGroup s w fun _ => rfl) fun a b c hab hbc => by
    rw [hbc, hab]
    exact ⟨rfl, fun _ _ => rfl, fun _ => rfl, (pass_content a s.cycle w.sp.mask n).trans (by simp)⟩

/-- After a change of the issuing group that awaits results, the split goes on. -/
theorem OnlyMine.done {new : List LaResult} (h : OnlyMine s t w (GroupAwaits new noKeys false)) :
    OnlyMine s (done t w) w (GroupAwaits new noKeys false) :=
  h.trans (onlyMine_retire t w (nextPc w) 1) fun _ _ _ => GroupAwaits.trans

end

/-- A result handed in, with its writes in flight; accesses to other cores take a place in the issue order (13 R206). -/
def handIn (r : LaResult) (es : List Pend) (g : Group) : Group :=
  { g with la := g.la ++ [r], pend := es ++ g.pend, nextSeq := if r.parts.isEmpty then g.nextSeq else g.nextSeq + 1 }

theorem handIn_keepsPlace (r : LaResult) (es : List Pend) : KeepsPlace (handIn r es) :=
  ⟨fun _ => rfl, fun _ => rfl, fun _ => rfl, fun _ => rfl, fun _ => rfl⟩

theorem handIn_awaits (r : LaResult) (es : List Pend) (g : Group) : GroupAwaits [r.content] noKeys false g (handIn r es g) := by
  refine ⟨?_, fun _ _ => rfl, fun _ => rfl, ?_⟩
  · have hparts : r.content.parts = r.parts := rfl
    simp only [handIn, List.all_cons, List.all_nil, Bool.and_true, hparts]
    split <;> rfl
  · simp [handIn, LaResult.content]

/-- A result handed in by a state with a new name. -/
def handedIn (s : State) (w : Issuer) (r : LaResult) (es : List Pend) : State :=
  State.modGroup { s with nextId := s.nextId + 1 } w.c w.slot (handIn r es)

theorem handedIn_onlyMine (s : State) (w : Issuer) (r : LaResult) (es : List Pend) :
    OnlyMine s (handedIn s w r es) w (GroupAwaits [r.content] noKeys false) :=
  (onlyMine_nextId s w _).trans (onlyMine_modGroup _ w (handIn_keepsPlace r es).slot) fun a b c hab hbc => by
    rw [hbc, hab]
    exact handIn_awaits r es a

theorem Tracks.handedIn {s : State} {w : Issuer} (h : Tracks s w) (r : LaResult) (es : List Pend) : Tracks (handedIn s w r es) w :=
  Tracks.modGroup (h.sameCores rfl) (handIn_keepsPlace r es)

/-! Results under a lookahead count (09 R116). -/

section
variable (s : State) (w : Issuer) (la : Nat) (ws : List (Nat × Nat × Word)) (bad : Option (DWord × Mask)) (far : List RemoteAccess)

/-- The result that an instruction with an active lane hands in. -/
def laResult : LaResult :=
  ⟨w.sp.mask, List.replicate 32 (laWindow la), la == 15, ws, bad, w.sp.pc, s.nextId, w.idx, 0, far⟩

variable {s w} (h : Tracks s w) (regs : List Nat) {m : Mask}
include h

theorem pushLa_handedIn (hm : m ≠ 0) : ∃ es, pushLa s w la regs m ws bad far = handedIn s w (laResult s w la ws bad far) es := by
  obtain ⟨g, hg, -⟩ := h
  have hcore : (s.core w.c).group? w.slot = some g := hg
  refine ⟨regs.map fun n => { pendOf s w (.v n) m (laneList (s.core w.c) g n) (laWindow la) (laWindow la) with own := some s.nextId }, ?_⟩
  rw [pushLa, if_neg hm]
  show State.setCore _ (match (s.core w.c).group? w.slot with | none => s.core w.c | some g => _) = _
  rw [hcore]
  rfl

theorem pushLa_onlyMine :
    OnlyMine s (pushLa s w la regs m ws bad far) w (GroupAwaits (awaited s w la m ws bad far) noKeys false) := by
  by_cases hm : m = 0
  · rw [pushLa, awaited, if_pos hm, if_pos hm]
    exact ⟨rfl, fun _ _ => rfl, rfl, fun _ _ => rfl, fun g hg => ⟨g, hg, GroupLocal.refl _ _ g⟩⟩
  · obtain ⟨es, he⟩ := pushLa_handedIn la ws bad far h regs hm
    rw [he, awaited, if_neg hm]
    exact handedIn_onlyMine s w _ es

theorem pushLa_tracks : Tracks (pushLa s w la regs m ws bad far) w := by
  by_cases hm : m = 0
  · rw [pushLa, if_pos hm]
    exact h
  · obtain ⟨es, he⟩ := pushLa_handedIn la ws bad far h regs hm
    rw [he]
    exact h.handedIn _ es

/-- After the instruction itself, `la` more positions are left to each lane of its split. -/
theorem pushLa_newestWaits (hm : m ≠ 0) (hla : la < 15) : NewestWaits (done (pushLa s w la regs m ws bad far) w) w la := by
  obtain ⟨es, he⟩ := pushLa_handedIn la ws bad far h regs hm
  obtain ⟨g, hg, -⟩ := h.sameCores (t := { s with nextId := s.nextId + 1 }) rfl
  have hgroup := group_changed_some (handIn (laResult s w la ws bad far) es) (handIn_keepsPlace _ es).slot hg
  rw [he]
  refine ⟨_, { laResult s w la ws bad far with left := atLanes w.sp.mask (· - 1) (List.replicate 32 (laWindow la)) },
    group_changed_some (fun g => (g.pass s.cycle w.sp.mask 1).modSplit w.idx fun sp =>
      { sp with pc := nextPc w, hold := .none, heldFor := 0 }) (fun _ => rfl) hgroup, ?_, fun l hl hmask => ?_⟩
  · simp [Group.modSplit, Group.pass, handIn, laResult]
  · have hwindow : laWindow la = la + 1 := if_neg (by omega)
    rw [atLanes_lane _ _ _ hl, if_pos hmask, List.getD_eq_getElem?_getD, List.getElem?_replicate, if_pos hl, hwindow]
    rfl

end

/-! Accesses without a result (13 R206). -/

section
variable {s : State} {w : Issuer} (h : Tracks s w) (far : List RemoteAccess)

theorem pushFar_handedIn (hfar : far ≠ []) :
    pushFar s w far = handedIn s w ⟨0, List.replicate 32 0, false, [], none, w.sp.pc, s.nextId, w.idx, 0, far⟩ [] := by
  cases far with
  | nil => exact absurd rfl hfar
  | cons p r => rfl

theorem pushFar_onlyMine : OnlyMine s (pushFar s w far) w (GroupAwaits (leftFar s w far) noKeys false) := by
  by_cases hfar : far = []
  · subst hfar
    exact ⟨rfl, fun _ _ => rfl, rfl, fun _ _ => rfl, fun g hg => ⟨g, hg, GroupLocal.refl _ _ g⟩⟩
  · rw [pushFar_handedIn far hfar, leftFar, if_neg hfar]
    exact handedIn_onlyMine s w _ []

include h in
theorem pushFar_tracks : Tracks (pushFar s w far) w := by
  by_cases hfar : far = []
  · subst hfar
    exact h
  · rw [pushFar_handedIn far hfar]
    exact h.handedIn _ []

end

end Sys2Proof.Machine
end

section
/-! Proofs: scratchpad loads (O7). -/
namespace Sys2Proof.Machine

/-- A scratchpad access whose addresses are good goes on, unless it waits behind an acquire (13 R209). -/
theorem checked_goes {s : State} {w : Issuer} {size : Nat} {as : List (Nat × Nat)} (hgood : scratchFault s w size as = none)
    (h : as = [] ∨ acquirePending w.g = false) (ok : State) : checked s w size as ok = ok := by
  rw [checked, hgood]
  dsimp only
  split
  · rfl
  next hne =>
    have hopen : acquirePending w.g = false := h.resolve_left (by simpa using hne)
    rw [afterAcquires, hopen]
    rfl

theorem checked_waits {s : State} {w : Issuer} {size : Nat} {as : List (Nat × Nat)} (hgood : scratchFault s w size as = none)
    (hne : as ≠ []) (h : acquirePending w.g = true) (ok : State) :
    checked s w size as ok = holdIt s w (.fence w.g.nextSeq false false) := by
  have hfull : ¬ as.isEmpty = true := by simpa using hne
  rw [checked, hgood]
  dsimp only
  rw [if_neg hfull, afterAcquires, if_pos h]

theorem laneAddrs_nil {s : State} {w : Issuer} {m : Mask} {g a : Nat} : laneAddrs s w m g a = [] ↔ m = 0 := by
  rw [laneAddrs, List.map_eq_nil_iff, lanesOf_eq_nil]

/-- The addresses in the own core are those of the near lanes. -/
theorem laneAddrs_near (s : State) (w : Issuer) (m : Mask) (g a : Nat) :
    (laneAddrs s w m g a).filter (fun p => isNear s w p.2)
      = (nearLanes s w m (scratchAddr s w g a)).map fun l => (l, scratchAddr s w g a l) := List.filter_map

theorem numOf_lt (bs : List Byte) : numOf bs < 256 ^ bs.length := by
  induction bs with
  | nil => decide
  | cons b bs ih =>
    have hb := b.isLt
    rw [numOf, List.length_cons, Nat.pow_succ]
    omega

theorem Store.bytes_eq_map (s : Store 8) (k n : Nat) : s.bytes k n = (List.range n).map fun j => s.byte (k + j) := by
  induction n generalizing k with
  | zero => rfl
  | succ n ih =>
    rw [Store.bytes, ih, List.range_succ_eq_map, List.map_cons, List.map_map]
    refine congrArg (s.byte k :: ·) (List.map_congr_left fun j _ => ?_)
    rw [Function.comp, Nat.add_assoc, Nat.add_comm 1 j]

theorem readPlace_length (s : State) (p : Place) (n : Nat) : (readPlace s p n).length = n := by
  simp [readPlace, Store.bytes_eq_map]

/-- The code of the extension of a scratchpad load (11 R148). -/
def extCode (ext : Nat → Nat) : Nat := if ext 255 = 255 then (if ext 65535 = 65535 then 0 else 16) else 8

/-- Each load extends what it reads as the statement says. -/
theorem scratchLoadForms_extend (s : State) (k : KReg) (d a : VReg) (g : AReg) (n : La) :
    ∀ p ∈ scratchLoadForms,
      exec (p.1 k d a g n) s = lds s (p.1 k d a g n) k d a g n p.2.1 p.2.2.1 (extCode p.2.2.2)
        ∧ ∀ v, v < 256 ^ p.2.1 → extend (extCode p.2.2.2) v = p.2.2.2 v := by
  have hbyte : ∀ v, v < 256 → signTo32 8 v = if v < 128 then v else v + 0xFFFFFF00 := fun v hv => by
    simp only [signTo32, signed, BitVec.toNat_ofInt]
    split <;> split <;> omega
  have hhalf : ∀ v, v < 65536 → signTo32 16 v = if v < 32768 then v else v + 0xFFFF0000 := fun v hv => by
    simp only [signTo32, signed, BitVec.toNat_ofInt]
    split <;> split <;> omega
  simp only [scratchLoadForms, List.forall_mem_cons]
  refine ⟨?_, ?_, ?_, ?_, ?_, ?_, ?_, fun _ hp => nomatch hp⟩
  · exact ⟨rfl, fun _ _ => rfl⟩
  · exact ⟨rfl, fun _ _ => rfl⟩
  · exact ⟨rfl, fun _ _ => rfl⟩
  · exact ⟨rfl, fun _ _ => rfl⟩
  · exact ⟨rfl, hbyte⟩
  · exact ⟨rfl, hhalf⟩
  · exact ⟨rfl, fun _ _ => rfl⟩

/-- What the model hands in for the lanes of its own core is what the statement says. -/
theorem lds_writes (s : State) (w : Issuer) (m : Mask) (g a d size regs : Nat) (ext : Nat → Nat)
    (hext : ∀ v, v < 256 ^ size → extend (extCode ext) v = ext v) :
    (((laneAddrs s w m g a).filter fun p => isNear s w p.2).filter fun p => (poisonAddr s w size p.2).isNone).flatMap
        (fun p => spread d regs p.1 (extend (extCode ext) (numOf (readPlace s (placeOf s w p.2) size))))
      = scratchWrites s w m g a d size regs ext := by
  have hvalue : ∀ q, extend (extCode ext) (numOf (readPlace s q size)) = ext (numOf (readPlace s q size)) := fun q =>
    hext _ (by simpa only [readPlace_length] using numOf_lt (readPlace s q size))
  rw [laneAddrs_near, List.filter_map, List.flatMap_map]
  simp only [hvalue]
  rfl

/-- Settles O7: the values wait as a result handed in, and nothing else of the group changes but its issue order. -/
theorem scratchLoads : Obligations.ScratchLoads := by
  intro s w k d a g n h hd ha p hp hw m lane as ext hgood
  replace hgood : scratchFault s w p.2.1 (laneAddrs s w (activeOf s w k) g a) = none := hgood
  obtain ⟨hexec, hext⟩ := scratchLoadForms_extend s k d a g n p hp
  have hact := hexec.trans (laneIssue_acts h hw (by simpa using ⟨hd, ha⟩) _ _)
  refine ⟨fun hopen => ?_, fun hm hwait => holds_of_holdIt h.1 (hact.trans (congrArg _ ?_))⟩
  · have hempty : laneAddrs s w (activeOf s w k) g a = [] ∨ acquirePending w.g = false := hopen.imp_left laneAddrs_nil.mpr
    dsimp only at hact
    rw [checked_goes hgood hempty, lds_writes _ _ _ _ _ _ _ _ _ hext, laneAddrs_near] at hact
    have htracks := who_tracks h.1
    refine ⟨_, hact, retire_goesOn _ _ (pushLa_tracks _ _ _ _ htracks _) (who_parts h.1).2.1, ?_, fun hm hn => ?_⟩
    · exact (pushLa_onlyMine _ _ _ _ htracks _).done.near
    · exact pushLa_newestWaits _ _ _ _ htracks _ hm hn
  · exact checked_waits hgood (mt laneAddrs_nil.mp hm) hwait _

end Sys2Proof.Machine
end

section
/-! Proofs: what is written in scratchpads, and the WAITs held on what is written. -/
namespace Sys2Proof.Machine

/-! Bytes written. -/

theorem setBytes_byte (s : Store 8) (k : Nat) (bs : List Byte) (o : Nat) :
    (s.setBytes k bs).byte o = (if k ≤ o ∧ o < k + bs.length then bs[o - k]? else none).getD (s.byte o) := by
  induction bs generalizing s k with
  | nil =>
    have hout : ¬ (k ≤ o ∧ o < k + ([] : List Byte).length) := by simp
    rw [if_neg hout]
    rfl
  | cons b bs ih =>
    rw [Store.setBytes, ih, List.length_cons]
    rcases Nat.lt_trichotomy o k with hlt | rfl | hgt
    · rw [if_neg (by omega), if_neg (by omega), byte_set_other _ _ _ _ (by omega)]
    · rw [if_neg (by omega), if_pos (by omega), byte_set]
      simp
    · have hindex : o - k = (o - (k + 1)) + 1 := by omega
      have hrange : (k ≤ o ∧ o < k + (bs.length + 1)) ↔ (k + 1 ≤ o ∧ o < k + 1 + bs.length) := by omega
      rw [hindex, List.getElem?_cons_succ, byte_set_other _ _ _ _ (by omega)]
      simp only [hrange]

/-- Between two states only bytes of scratchpads changed, to what `f` gives; a byte written loses its error (31 R380). -/
structure Wrote (s t : State) (f : Nat → Nat → Option Byte) : Prop where
  package : t = { s with cores := t.cores }
  core : ∀ c, t.core c = { s.core c with scratch := (t.core c).scratch, poison := (t.core c).poison }
  bytes : ∀ c o, (t.core c).scratch.byte o = (f c o).getD ((s.core c).scratch.byte o)
  poison : ∀ c o, o ∈ (t.core c).poison ↔ o ∈ (s.core c).poison ∧ f c o = none

theorem Wrote.refl (s : State) : Wrote s s noBytes :=
  ⟨rfl, fun _ => rfl, fun _ _ => rfl, fun _ _ => (and_iff_left rfl).symm⟩

theorem overBytes_in {p : Place} {bs : List Byte} {f : Nat → Nat → Option Byte} {o : Nat} (h : p.off ≤ o ∧ o < p.off + bs.length) :
    overBytes p bs f p.core o = bs[o - p.off]? := if_pos ⟨rfl, h⟩

theorem overBytes_out {p : Place} {bs : List Byte} {f : Nat → Nat → Option Byte} {c o : Nat}
    (h : ¬ (c = p.core ∧ p.off ≤ o ∧ o < p.off + bs.length)) : overBytes p bs f c o = f c o := if_neg h

theorem overBytes_isSome {p : Place} {bs : List Byte} {f : Nat → Nat → Option Byte} {c o : Nat} :
    (overBytes p bs f c o).isSome ↔ (c = p.core ∧ p.off ≤ o ∧ o < p.off + bs.length) ∨ (f c o).isSome := by
  by_cases h : c = p.core ∧ p.off ≤ o ∧ o < p.off + bs.length
  · obtain ⟨rfl, hin⟩ := h
    have hlt : o - p.off < bs.length := by omega
    simp [overBytes_in hin, List.getElem?_eq_getElem hlt, hin]
  · simp [overBytes_out h, h]

theorem writePlace_core (s : State) (p : Place) (bs : List Byte) :
    (writePlace s p bs).core p.core = (s.core p.core).putScratch p.off bs := core_modCore s p.core _ (core_index s p.core)

theorem writePlace_core_other (s : State) (p : Place) (bs : List Byte) {c : Nat} (h : c ≠ p.core) :
    (writePlace s p bs).core c = s.core c := core_modCore_other s p.core c _ (core_index s p.core) h

theorem Wrote.writePlace {s t : State} {f : Nat → Nat → Option Byte} (h : Wrote s t f) (p : Place) (bs : List Byte) :
    Wrote s (writePlace t p bs) (overBytes p bs f) := by
  obtain ⟨hpackage, hcore, hbytes, hpoison⟩ := h
  refine ⟨?_, fun c => ?_, fun c o => ?_, fun c o => ?_⟩
  · rw [hpackage]
    rfl
  · by_cases hc : c = p.core
    · subst hc
      rw [writePlace_core, hcore]
      rfl
    · rw [writePlace_core_other t p bs hc]
      exact hcore c
  · by_cases hc : c = p.core
    · subst hc
      rw [writePlace_core, Core.putScratch, setBytes_byte, hbytes]
      by_cases hin : p.off ≤ o ∧ o < p.off + bs.length
      · have hlt : o - p.off < bs.length := by omega
        rw [overBytes_in hin, if_pos hin, List.getElem?_eq_getElem hlt]
        rfl
      · rw [overBytes_out (fun h => hin h.2), if_neg hin]
        rfl
    · rw [writePlace_core_other t p bs hc, overBytes_out (fun h => hc h.1), hbytes]
  · rw [← Option.not_isSome_iff_eq_none, overBytes_isSome, not_or, Option.not_isSome_iff_eq_none]
    by_cases hc : c = p.core
    · subst hc
      rw [writePlace_core, Core.putScratch, List.mem_filter, hpoison]
      have hin : (decide (o < p.off) || decide (p.off + bs.length ≤ o)) = true
          ↔ ¬ (p.core = p.core ∧ p.off ≤ o ∧ o < p.off + bs.length) := by
        simp only [Bool.or_eq_true, decide_eq_true_eq, true_and]
        omega
      rw [hin]
      tauto
    · rw [writePlace_core_other t p bs hc, hpoison]
      tauto

theorem Wrote.group {s t : State} {f : Nat → Nat → Option Byte} (h : Wrote s t f) (c b : Nat) : t.group? c b = s.group? c b := by
  rw [State.group?, h.core c]
  rfl

theorem Wrote.nextId {s t : State} {f : Nat → Nat → Option Byte} (h : Wrote s t f) : t.nextId = s.nextId := by rw [h.package]

theorem Wrote.waits {s t : State} {f : Nat → Nat → Option Byte} (h : Wrote s t f) : t.waits = s.waits := by rw [h.package]

/-! The tests of held WAITs (12 R176). -/

/-- Whether an access of `n` bytes at a place touches the object that a WAIT is held on. -/
def touches (p : Place) (n : Nat) (u : ObjectWait) : Prop := u.home = p.core ∧ u.off < p.off + n ∧ p.off < u.off + 16

/-- A held WAIT after a store of `n` bytes at a place. -/
def retest (t : State) (n : Nat) (u : ObjectWait) (p : Place) : ObjectWait :=
  if u.met.isNone && u.home == p.core && u.off < p.off + n && p.off < u.off + 16 then tested t u else u

theorem retest_met {t : State} {n : Nat} {u : ObjectWait} {p : Place} (h : u.met ≠ none) : retest t n u p = u := by
  have hmet : u.met.isNone = false := Option.isNone_eq_false_iff.mpr (Option.isSome_iff_ne_none.mpr h)
  simp [retest, hmet]

theorem retest_touched {t : State} {n : Nat} {u : ObjectWait} {p : Place} (h : u.met = none) (hp : touches p n u) :
    retest t n u p = tested t u := by
  obtain ⟨hhome, hlow, hhigh⟩ := hp
  simp [retest, h, hhome, hlow, hhigh]

theorem retest_cases (t : State) (n : Nat) (u : ObjectWait) (p : Place) : retest t n u p = u ∨ retest t n u p = tested t u := by
  unfold retest
  split
  · exact .inr rfl
  · exact .inl rfl

theorem retests_met {t : State} {n : Nat} {u : ObjectWait} (ps : List Place) (h : u.met ≠ none) : ps.foldl (retest t n) u = u := by
  induction ps with
  | nil => rfl
  | cons p ps ih => rw [List.foldl_cons, retest_met h, ih]

/-- A WAIT that has met nothing is tested by the stores one after another until a test ends it: the object stands as they left it. -/
theorem retests_unmet {t : State} {n : Nat} {u : ObjectWait} (ps : List Place) (h : u.met = none) :
    (ps.foldl (retest t n) u = u ∨ ps.foldl (retest t n) u = tested t u)
      ∧ ((∃ p ∈ ps, touches p n u) → ps.foldl (retest t n) u = tested t u) := by
  induction ps with
  | nil => exact ⟨.inl rfl, fun ⟨_, hp, _⟩ => nomatch hp⟩
  | cons p ps ih =>
    obtain ⟨hcases, htouched⟩ := ih
    rw [List.foldl_cons]
    by_cases hend : (tested t u).met = none
    · have hsame : tested t u = u := by
        unfold tested at hend ⊢
        rw [show testObject (objAt t ⟨u.home, u.off⟩) u.phase = u.met from hend.trans h.symm]
      have hfirst : retest t n u p = u := (retest_cases t n u p).elim id fun hr => hr.trans hsame
      rw [hfirst, hsame]
      rw [hsame] at hcases
      exact ⟨hcases, fun _ => hcases.elim id id⟩
    · rcases retest_cases t n u p with hfirst | hfirst
      · rw [hfirst]
        refine ⟨hcases, fun ⟨q, hq, htouch⟩ => ?_⟩
        rcases List.mem_cons.mp hq with rfl | hq
        · rw [retest_touched h htouch] at hfirst
          rw [← hfirst] at h
          exact absurd (hfirst ▸ h) hend
        · exact htouched ⟨q, hq, htouch⟩
      · rw [hfirst, retests_met ps hend]
        exact ⟨.inr rfl, fun _ => rfl⟩

theorem tested_congr {t u : State} (h : ∀ c, (u.core c).scratch = (t.core c).scratch) (v : ObjectWait) : tested u v = tested t v := by
  simp only [tested, objAt, readPlace, h]

theorem testAll_waits (s : State) (w : Issuer) (n : Nat) (as : List (Nat × Nat)) (t : State) :
    testAll s w n as t = { t with waits := t.waits.map ((as.map fun p => placeOf s w p.2).foldl (retest t n)) } := by
  induction as generalizing t with
  | nil => simp [testAll]
  | cons a as ih =>
    have hstep : testAll s w n (a :: as) t = testAll s w n as (testWaits t (placeOf s w a.2) n) := rfl
    have hretest : retest (testWaits t (placeOf s w a.2) n) n = retest t n := rfl
    rw [hstep, ih, hretest]
    simp only [testWaits, List.map_map]
    rfl

/-- Bytes written, the WAITs on them tested, and then only the issuing group changed. -/
theorem scratched_of {s t u : State} {w : Issuer} {rel : Group → Group → Prop} {f : Nat → Nat → Option Byte} {n : Nat}
    {as : List (Nat × Nat)} (hwrote : Wrote s t f) (hmine : OnlyMine (testAll s w n as t) u w rel)
    (htouched : ∀ c o, (f c o).isSome → ∃ a ∈ as, (placeOf s w a.2).core = c ∧ (placeOf s w a.2).off ≤ o ∧ o < (placeOf s w a.2).off + n) :
    Scratched s u w rel f := by
  rw [testAll_waits] at hmine
  obtain ⟨hpackage, hcores, hcore, hslots, hgroup⟩ := hmine
  have hother : ∀ c, u.core c = { t.core c with groups := (u.core c).groups } := fun c => by
    by_cases hc : c = w.c
    · rw [hc]
      exact hcore
    · rw [hcores c hc]
      rfl
  have hscratch : ∀ c, (u.core c).scratch = (t.core c).scratch := fun c => by rw [hother]
  have hpoison : ∀ c, (u.core c).poison = (t.core c).poison := fun c => by rw [hother]
  refine ⟨?_, fun c => ?_, fun c b hcb => ?_, fun c o => ?_, fun c o => ?_, ?_, fun g hg => hgroup g ((hwrote.group _ _).trans hg)⟩
  · rw [hpackage, hwrote.package]
  · rw [hother, hwrote.core]
  · rw [← hwrote.group]
    by_cases hc : c = w.c
    · subst hc
      exact hslots b (hcb.resolve_left fun hne => hne rfl)
    · exact congrArg (Core.group? · b) (hcores c hc)
  · rw [hscratch, hwrote.bytes]
  · rw [hpoison, hwrote.poison]
  · have hwaits : u.waits = s.waits.map ((as.map fun p => placeOf s w p.2).foldl (retest t n)) := by
      rw [hpackage, ← hwrote.waits]
    rw [hwaits, List.forall₂_map_right_iff, List.forall₂_same]
    intro v _
    rw [Retests, tested_congr hscratch]
    by_cases hmet : v.met = none
    · obtain ⟨hcases, hhit⟩ := retests_unmet (t := t) (n := n) (as.map fun p => placeOf s w p.2) hmet
      refine ⟨hcases, fun hne => absurd hmet hne, fun _ ⟨o, hlow, hhigh, hsome⟩ => hhit ?_⟩
      obtain ⟨a, ha, hc, hoff, hend⟩ := htouched _ _ hsome
      exact ⟨_, List.mem_map_of_mem ha, hc.symm, by omega, by omega⟩
    · rw [retests_met _ hmet]
      exact ⟨.inl rfl, fun _ => rfl, fun h => absurd h hmet⟩

theorem Tracks.wrote {s t : State} {w : Issuer} {f : Nat → Nat → Option Byte} (h : Tracks s w) (hwrote : Wrote s t f) : Tracks t w := by
  obtain ⟨g, hg, hkeep⟩ := h
  exact ⟨g, (hwrote.group _ _).trans hg, hkeep⟩

theorem Tracks.testAll {s t : State} {w : Issuer} (h : Tracks t w) (n : Nat) (as : List (Nat × Nat)) : Tracks (testAll s w n as t) w := by
  rw [testAll_waits]
  exact h.sameCores rfl

end Sys2Proof.Machine
end

section
/-! Proofs: scratchpad stores (O8). -/
namespace Sys2Proof.Machine

section
variable {s : State} {w : Issuer} {size : Nat} {as : List (Nat × Nat)} (hgood : scratchFault s w size as = none)
include hgood

/-- A scratchpad access that writes goes on if its addresses are good and its group's earlier accesses let it (13 R208, R209). -/
theorem checkedStore_goes (h : as = [] ∨ Unfenced s w) (ok : State) : checkedStore s w size as ok = ok := by
  rw [checkedStore, checked_goes hgood (h.imp_right And.left)]
  split
  · rfl
  next hne =>
    obtain ⟨hacquire, hrelease⟩ := h.resolve_left (by simpa using hne)
    rw [afterFences, hacquire, hrelease]
    rfl

theorem checkedStore_waits (hne : as ≠ []) (h : ¬ Unfenced s w) (ok : State) :
    checkedStore s w size as ok = holdIt s w (.fence w.g.nextSeq false false) := by
  have hfull : ¬ as.isEmpty = true := by simpa using hne
  rw [checkedStore]
  by_cases hacquire : acquirePending w.g = true
  · exact checked_waits hgood hne hacquire _
  · have hrelease : releaseReady s w.c w.g = false := by
      simpa [Unfenced, hacquire] using h
    rw [checked_goes hgood (.inr (by simpa using hacquire)), if_neg hfull, afterFences, hrelease]
    simp

end

/-- The bytes of each lane are written over those of the lanes below it (05 R66). -/
theorem wrote_stores {s t : State} {w : Issuer} (size d : Nat) (addr : Nat → Nat) (ls : List Nat) {f : Nat → Nat → Option Byte}
    (h : Wrote s t f) :
    Wrote s ((ls.map fun l => (l, addr l)).foldl
      (fun t p => writePlace t (placeOf s w p.2) (bytesOf size (storeValue s w size d p.1))) t) (storedBytes s w size d addr ls f) := by
  induction ls generalizing t f with
  | nil => exact h
  | cons l ls ih => exact ih (h.writePlace (placeOf s w (addr l)) (bytesStored s w size d l))

theorem storedBytes_touched {s : State} {w : Issuer} {size d : Nat} {addr : Nat → Nat} {ls : List Nat} {f : Nat → Nat → Option Byte} {c o : Nat}
    (h : (storedBytes s w size d addr ls f c o).isSome) : (f c o).isSome ∨ ∃ l ∈ ls, (placeOf s w (addr l)).core = c
      ∧ (placeOf s w (addr l)).off ≤ o ∧ o < (placeOf s w (addr l)).off + size := by
  induction ls generalizing f with
  | nil => exact .inl h
  | cons l ls ih =>
    rcases ih h with hover | ⟨m, hm, hplace⟩
    · rcases overBytes_isSome.mp hover with ⟨hc, hlow, hend⟩ | hold
      · exact .inr ⟨l, List.mem_cons_self, hc.symm, hlow, by simpa [bytesStored] using hend⟩
      · exact .inl hold
    · exact .inr ⟨m, List.mem_cons_of_mem l hm, hplace⟩

theorem leftFar_congr {s t : State} (h : t.nextId = s.nextId) (w : Issuer) (far : List RemoteAccess) : leftFar t w far = leftFar s w far := by
  rw [leftFar, leftFar, h]

theorem testAll_nextId (s : State) (w : Issuer) (n : Nat) (as : List (Nat × Nat)) (t : State) : (testAll s w n as t).nextId = t.nextId := by
  rw [testAll_waits]

/-- Settles O8: the near lanes' bytes are written in ascending order, and the far ones are handed in without a result. -/
theorem scratchStores : Obligations.ScratchStores := by
  intro s w k d a g h hd ha p hp hw m as hgood
  replace hgood : scratchFault s w p.2 (laneAddrs s w (activeOf s w k) g a) = none := hgood
  obtain ⟨-, hexec⟩ := scratchStoreForms_sts s k d a g p hp
  have hact := hexec.trans (laneIssue_acts h hw (by simpa using ⟨hd, ha⟩) _ _)
  refine ⟨fun hopen => ?_, fun hm hwait => holds_of_holdIt h.1 (hact.trans (congrArg _ ?_))⟩
  · have hempty : laneAddrs s w (activeOf s w k) g a = [] ∨ Unfenced s w := hopen.imp_left laneAddrs_nil.mpr
    dsimp only at hact
    rw [checkedStore_goes hgood hempty, laneAddrs_near, storeLanes] at hact
    have hwrote := wrote_stores (w := w) p.2 d (scratchAddr s w g a) (nearLanes s w (activeOf s w k) (scratchAddr s w g a)) (Wrote.refl s)
    have htracks := ((who_tracks h.1).wrote hwrote).testAll (s := s) p.2
      ((nearLanes s w (activeOf s w k) (scratchAddr s w g a)).map fun l => (l, scratchAddr s w g a l))
    refine ⟨_, hact, retire_goesOn _ _ (pushFar_tracks htracks _) (who_parts h.1).2.1, ?_⟩
    rw [← leftFar_congr ((testAll_nextId s w p.2 _ _).trans hwrote.nextId)]
    refine scratched_of hwrote (pushFar_onlyMine _).done fun c o hsome => ?_
    obtain ⟨l, hl, hplace⟩ := (storedBytes_touched hsome).resolve_left fun hno => nomatch hno
    exact ⟨_, List.mem_map_of_mem hl, hplace⟩
  · exact checkedStore_waits hgood (mt laneAddrs_nil.mp hm) hwait _

end Sys2Proof.Machine
end

section
/-! Proofs: scratchpad atomics (O9). -/
namespace Sys2Proof.Machine

theorem poisonedAt_iff {x : Core} {off n : Nat} :
    x.poisonedAt off n = true ↔ ∃ k ∈ x.poison, off / 8 ≤ k / 8 ∧ k / 8 ≤ (off + n - 1) / 8 := by
  simp [Core.poisonedAt]

/-- No byte that has an error is written. -/
def Spares (s : State) (f : Nat → Nat → Option Byte) : Prop := ∀ c, ∀ o ∈ (s.core c).poison, f c o = none

theorem Wrote.poisonedAt {s t : State} {f : Nat → Nat → Option Byte} (h : Wrote s t f) (hf : Spares s f) (c off n : Nat) :
    (t.core c).poisonedAt off n = (s.core c).poisonedAt off n := by
  have hmem : ∀ k, k ∈ (t.core c).poison ↔ k ∈ (s.core c).poison := fun k =>
    (h.poison c k).trans (and_iff_left_of_imp (hf c k))
  rw [Bool.eq_iff_iff, poisonedAt_iff, poisonedAt_iff]
  simp only [hmem]

theorem Spares.overBytes {s : State} {f : Nat → Nat → Option Byte} (hf : Spares s f) {p : Place} {bs : List Byte}
    (h : (s.core p.core).poisonedAt p.off bs.length = false) : Spares s (overBytes p bs f) := by
  intro c o ho
  refine (overBytes_out ?_).trans (hf c o ho)
  rintro ⟨rfl, hlow, hend⟩
  refine Bool.eq_false_iff.mp h (poisonedAt_iff.mpr ⟨o, ho, ?_, ?_⟩)
  · omega
  · omega

/-- The word at a place, of bytes of which some have been written. -/
theorem Wrote.readPlace {s t : State} {f : Nat → Nat → Option Byte} (h : Wrote s t f) (p : Place) (n : Nat) :
    readPlace t p n = (List.range n).map fun j => (f p.core (p.off + j)).getD ((s.core p.core).scratch.byte (p.off + j)) := by
  rw [Machine.readPlace, Store.bytes_eq_map]
  simp only [h.bytes]

/-- The operation of a form leaves the word that the statement says. -/
theorem scratchAtomicForms_newWord : ∀ p ∈ scratchAtomicForms, ∀ o x y : Word,
    atomNew p.2.1 32 o.toNat x.toNat y.toNat = (p.2.2 o x y).toNat := by
  have hsigned : ∀ x : Word, signed 32 x.toNat = x.toInt := fun x => by
    rw [signed, Nat.mod_eq_of_lt x.isLt, BitVec.toInt]
    rfl
  simp only [scratchAtomicForms, List.forall_mem_cons]
  refine ⟨?_, ?_, ?_, ?_, ?_, ?_, ?_, ?_, fun _ hp => nomatch hp⟩ <;> intro o x y
  · exact (BitVec.toNat_add o x).symm
  · rfl
  · simp only [atomNew, BitVec.toNat_inj]
    split <;> rfl
  · simp only [atomNew, hsigned, BitVec.sle, decide_eq_true_eq]
    split <;> rfl
  · exact (BitVec.toNat_and o x).symm
  · exact (BitVec.toNat_or o x).symm
  · exact (BitVec.toNat_xor o x).symm
  · simp only [atomNew, hsigned, BitVec.sle, decide_eq_true_eq]
    split <;> rfl

theorem scratchAtomicForms_new : ∀ p ∈ scratchAtomicForms, ∀ (old : Nat) (x y : Word), old < 2 ^ 32 →
    atomNew p.2.1 32 old x.toNat y.toNat = (p.2.2 (BitVec.ofNat 32 old) x y).toNat := by
  intro p hp old x y hold
  rw [← scratchAtomicForms_newWord p hp, BitVec.toNat_ofNat, Nat.mod_eq_of_lt hold]

section
variable {s : State} {w : Issuer} {d : Nat} {addr : Nat → Nat} {op : AtomOp} {fn : Word → Word → Word → Word}
  (hfn : ∀ (old : Nat) (x y : Word), old < 2 ^ 32 → atomNew op 32 old x.toNat y.toNat = (fn (BitVec.ofNat 32 old) x y).toNat)
include hfn

/-- The words change lane by lane, and each lane gets its old word. -/
theorem wrote_atomics {t : State} {f : Nat → Nat → Option Byte} {ls : List Nat} {out : List (Nat × Nat × Word)} (h : Wrote s t f)
    (hf : Spares s f) :
    Wrote s (atomLanes s w op d (ls.map fun l => (l, addr l)) t out).1 (atomicBytes s w d addr fn ls f).1
      ∧ (atomLanes s w op d (ls.map fun l => (l, addr l)) t out).2 = out ++ (atomicBytes s w d addr fn ls f).2 := by
  induction ls generalizing t f out with
  | nil => exact ⟨h, (List.append_nil out).symm⟩
  | cons l ls ih =>
    rw [List.map_cons, atomLanes, atomicBytes]
    dsimp only
    rw [h.poisonedAt hf]
    by_cases hbad : (s.core (placeOf s w (addr l)).core).poisonedAt (placeOf s w (addr l)).off 4 = true
    · rw [if_pos hbad, if_pos hbad]
      exact ih h hf
    · have hclean : (s.core (placeOf s w (addr l)).core).poisonedAt (placeOf s w (addr l)).off 4 = false := by simpa using hbad
      have hold := numOf_lt (readPlace t (placeOf s w (addr l)) 4)
      rw [readPlace_length] at hold
      rw [if_neg hbad, if_neg hbad, hfn _ _ _ hold, h.readPlace]
      refine (ih (h.writePlace _ _) (hf.overBytes ?_)).imp id fun hout => ?_
      · rw [length_bytesOf]
        exact hclean
      · rw [hout, List.append_assoc]
        rfl

end

theorem atomicBytes_touched {s : State} {w : Issuer} {d : Nat} {addr : Nat → Nat} {fn : Word → Word → Word → Word} {ls : List Nat}
    {f : Nat → Nat → Option Byte} {c o : Nat} (h : ((atomicBytes s w d addr fn ls f).1 c o).isSome) :
    (f c o).isSome ∨ ∃ l ∈ ls, (placeOf s w (addr l)).core = c ∧ (placeOf s w (addr l)).off ≤ o ∧ o < (placeOf s w (addr l)).off + 4 := by
  induction ls generalizing f with
  | nil => exact .inl h
  | cons l ls ih =>
    rw [atomicBytes] at h
    dsimp only at h
    split at h
    · exact (ih h).imp id fun ⟨m, hm, hplace⟩ => ⟨m, List.mem_cons_of_mem l hm, hplace⟩
    · rcases ih h with hover | ⟨m, hm, hplace⟩
      · rcases overBytes_isSome.mp hover with ⟨hc, hlow, hend⟩ | hold
        · exact .inr ⟨l, List.mem_cons_self, hc.symm, hlow, by simpa using hend⟩
        · exact .inl hold
      · exact .inr ⟨m, List.mem_cons_of_mem l hm, hplace⟩

theorem awaited_congr {s t : State} (h : t.nextId = s.nextId) (w : Issuer) (la : Nat) (m : Mask) (ws : List (Nat × Nat × Word))
    (bad : Option (DWord × Mask)) (far : List RemoteAccess) : awaited t w la m ws bad far = awaited s w la m ws bad far := by
  rw [awaited, awaited, h]

/-- Settles O9: the near lanes' words are changed in ascending order, and their old values are handed in with the far accesses. -/
theorem scratchAtomics : Obligations.ScratchAtomics := by
  intro s w k d a g n h hd ha p hp hw m lane as near r hgood
  replace hgood : scratchFault s w 4 (laneAddrs s w (activeOf s w k) g a) = none := hgood
  have hact := (scratchAtomicForms_atoms s k d a g n p hp).trans (laneIssue_acts h hw (by simpa using ⟨hd, ha⟩) _ _)
  refine ⟨fun hopen => ?_, fun hm hwait => holds_of_holdIt h.1 (hact.trans (congrArg _ ?_))⟩
  · have hempty : laneAddrs s w (activeOf s w k) g a = [] ∨ Unfenced s w := hopen.imp_left laneAddrs_nil.mpr
    obtain ⟨hwrote, hold⟩ := wrote_atomics (w := w) (d := d) (addr := scratchAddr s w g a) (out := [])
      (ls := nearLanes s w (activeOf s w k) (scratchAddr s w g a)) (scratchAtomicForms_new p hp) (Wrote.refl s) fun _ _ _ => rfl
    dsimp only at hact
    rw [checkedStore_goes hgood hempty, laneAddrs_near, hold, List.nil_append] at hact
    have htracks := ((who_tracks h.1).wrote hwrote).testAll (s := s) 4
      ((nearLanes s w (activeOf s w k) (scratchAddr s w g a)).map fun l => (l, scratchAddr s w g a l))
    refine ⟨_, hact, retire_goesOn _ _ (pushLa_tracks _ _ _ _ htracks _) (who_parts h.1).2.1, ?_, fun hm hn => ?_⟩
    · rw [← awaited_congr ((testAll_nextId s w 4 _ _).trans hwrote.nextId)]
      refine scratched_of hwrote (pushLa_onlyMine _ _ _ _ htracks _).done fun c o hsome => ?_
      obtain ⟨l, hl, hplace⟩ := (atomicBytes_touched hsome).resolve_left fun hno => nomatch hno
      exact ⟨_, List.mem_map_of_mem hl, hplace⟩
    · exact pushLa_newestWaits _ _ _ _ htracks _ hm hn
  · exact checkedStore_waits hgood (mt laneAddrs_nil.mp hm) hwait _

end Sys2Proof.Machine
end

section
/-! Proofs: gates close, and waits for batches and objects (O21). -/
namespace Sys2Proof.Machine

/-! Closing a gate (12 R175). -/

theorem GroupBy.trans {f : Group → Group} {a b c : Group} (h : GroupBy f a b) (k : GroupBy id b c) : GroupBy f a c := by
  obtain ⟨hab, hla⟩ := h
  obtain ⟨hbc, kla⟩ := k
  rw [hab] at hbc
  exact ⟨hbc, kla.trans hla⟩

/-- A fixed-latency write leaves all of the group but its writes in flight. -/
theorem putV_near {s : State} {w : Issuer} (n : Nat) (m : Mask) (tl tu : Nat) (f : Nat → Word) (h : Tracks s w) :
    Near s (putV s w n m tl tu f) w (VKeys w.g n m) (GroupBy id) := by
  obtain ⟨g, hg, -⟩ := id h
  refine { putV_local n m tl tu f h with group := fun a ha => ?_ }
  by_cases hm : m = 0
  · rw [putV, if_pos hm]
    exact ⟨a, ha, rfl, rfl⟩
  · have hafter := group_after s ((s.core w.c).landLanes g n f (lanesOf m)) w.c w.slot
      (fun b => b.addPend (pendOf s w (.v n) m (laneList (s.core w.c) g n) tl tu))
      ((landLanes_index ..).trans (core_index ..)) (landLanes_groups ..) fun _ => rfl
    rw [ha] at hafter
    rw [putV_core hg hm]
    exact ⟨_, hafter, rfl, rfl⟩

theorem putG_near {s : State} {w : Issuer} (i : Nat) (v : DWord) (h : Tracks s w) :
    Near s (putG s w i v) w (GKeys w.g i) (GroupBy id) := by
  by_cases hi : i = 0
  · rw [putG, if_pos hi]
    exact { Local.refl s w (GKeys w.g i) noKeys false with group := fun a ha => ⟨a, ha, rfl, rfl⟩ }
  · rw [putG, if_neg hi]
    exact (putV_near _ _ _ _ _ h).mono (fun _ hk => ⟨hi, hk⟩) fun _ _ hab => hab

theorem close_keepsPlace (x : Gate) : KeepsPlace (·.close x) := ⟨fun _ => rfl, fun _ => rfl, fun _ => rfl, fun _ => rfl, fun _ => rfl⟩

theorem gateNum_injective : ∀ {x y : Gate}, gateNum x = gateNum y → x = y := by
  intro x y h
  cases x <;> cases y <;> simp [gateNum] at h ⊢

theorem gateNum_lt (x : Gate) : gateNum x < 5 := by cases x <;> decide

theorem gate_setGate (g : Group) (x : Gate) (v : GateState) (h : g.gates.length = 5) : (g.setGate x v).gate x = v := by
  have hlt := gateNum_lt x
  simp [Group.gate, Group.setGate, h, hlt]

theorem gate_setGate_other (g : Group) {x y : Gate} (v : GateState) (h : y ≠ x) : (g.setGate x v).gate y = g.gate y := by
  have hne : gateNum x ≠ gateNum y := fun e => h (gateNum_injective e).symm
  simp [Group.gate, Group.setGate, hne, List.getD_eq_getElem?_getD]

/-- What the statement says of an instruction that closes a gate. -/
theorem closeGate_closes {s : State} {w : Issuer} (h : Issues s w) (hgates : w.g.gates.length = 5) {i : Instr} {x : Gate} {d : Nat}
    (hw : wellFormed i = true) (e : exec i s = closeGate s i x d) :
    ∃ t g, exec i s = .next t ∧ GoesOn t w (nextPc w) ∧ HoldsG t w d (((w.g.gate x).closed + 1).setWidth 64)
      ∧ t.group? w.c w.slot = some g
      ∧ g.gate x = ⟨(w.g.gate x).closed + 1, doneOf ((w.g.gate x).closed + 1) (w.g.gate x).outstanding, (w.g.gate x).outstanding⟩
      ∧ (∀ y, y ≠ x → g.gate y = w.g.gate y)
      ∧ Near s t w (GKeys w.g d) fun g h => h = { g with gates := h.gates, splits := h.splits, pend := h.pend, la := h.la } := by
  obtain ⟨hg, hsp, -⟩ := who_parts h.1
  have hclosed : ((w.g.close x).gate x).closed.toNat = (((w.g.gate x).closed + 1).setWidth 64 : DWord) := by
    rw [Group.close, gate_setGate _ _ _ hgates]
    exact (BitVec.natCast_eq_ofNat ..).trans (BitVec.ofNat_toNat ..)
  have hact := e.trans (uniIssue_acts h hw (by simp) (by simp) _ _)
  dsimp only at hact
  rw [hclosed] at hact
  have htracks := (who_tracks h.1).modGroup (close_keepsPlace x)
  have hclose := modGroup_near (s := s) (w := w) (rel := GroupBy (·.close x)) (·.close x) (close_keepsPlace x).slot fun _ => ⟨rfl, rfl⟩
  have hput := (hclose.mono (fun _ hk => hk.elim) fun _ _ => id).trans (putG_near d (((w.g.gate x).closed + 1).setWidth 64) htracks)
    (r3 := GroupBy (·.close x)) fun _ _ _ => GroupBy.trans
  have hnear := hput.trans ((retire_near _ w (nextPc w) 1).mono (fun _ hk => hk.elim) fun _ _ => id) (r3 := GroupBy (·.close x))
    fun _ _ _ => GroupBy.trans
  obtain ⟨g, hgroup, hfields, -⟩ := hnear.group _ hg
  have hgate : ∀ y, g.gate y = (w.g.close x).gate y := fun y => by rw [hfields]; rfl
  refine ⟨_, g, hact, retire_goesOn _ _ (putG_tracks d _ htracks) hsp, ?_, hgroup, ?_, fun y hy => ?_, ?_⟩
  · exact (putG_holds d _ htracks).keep (retire_local ..) fun _ _ hk => hk
  · rw [hgate, Group.close, gate_setGate _ _ _ hgates]
  · rw [hgate, Group.close, gate_setGate_other _ _ hy]
  · exact hnear.mono (fun _ => id) fun _ _ hab => by rw [hab.1]; rfl

theorem gateCloses : GateCloses := by
  intro s w d h hgates
  simp only [List.forall_mem_cons]
  refine ⟨?_, ?_, ?_, ?_, ?_, fun _ hp => nomatch hp⟩
  · exact closeGate_closes h hgates rfl rfl
  · exact closeGate_closes h hgates rfl rfl
  · exact closeGate_closes h hgates rfl rfl
  · exact closeGate_closes h hgates rfl rfl
  · exact closeGate_closes h hgates rfl rfl

/-! Changes of the issuing group and of the core's clean copies (13 R211, R217). -/

/-- The state with other line copies in a core. -/
def withView (s : State) (c : Nat) (v : List ViewLine) : State := s.modCore c fun x => { x with view := v }

theorem withView_core (s : State) (c : Nat) (v : List ViewLine) : (withView s c v).core c = { s.core c with view := v } :=
  core_modCore s c _ (core_index s c)

theorem withView_core_other (s : State) {c b : Nat} (v : List ViewLine) (h : b ≠ c) : (withView s c v).core b = s.core b :=
  core_modCore_other s c b _ (core_index s c) h

/-- Between two states only the issuing group changed, as `rel` says, and the line copies of its core. -/
structure OnlyMineView (s t : State) (w : Issuer) (rel : Group → Group → Prop) : Prop where
  package : t = { s with cores := t.cores }
  cores : ∀ c, c ≠ w.c → t.core c = s.core c
  core : t.core w.c = { s.core w.c with groups := (t.core w.c).groups, view := (t.core w.c).view }
  slots : ∀ b, b ≠ w.slot → t.group? w.c b = s.group? w.c b
  group : ∀ g, s.group? w.c w.slot = some g → ∃ h, t.group? w.c w.slot = some h ∧ rel g h

section
variable {s t u : State} {w : Issuer} {r r1 r2 r3 : Group → Group → Prop}

theorem OnlyMineView.trans (h : OnlyMineView s t w r1) (k : OnlyMineView t u w r2) (hr : ∀ a b c, r1 a b → r2 b c → r3 a c) :
    OnlyMineView s u w r3 := by
  refine ⟨?_, fun c hc => (k.cores c hc).trans (h.cores c hc), ?_, fun b hb => (k.slots b hb).trans (h.slots b hb), fun g hg => ?_⟩
  · rw [k.package, h.package]
  · rw [k.core, h.core]
  · obtain ⟨g1, hg1, e1⟩ := h.group g hg
    obtain ⟨g2, hg2, e2⟩ := k.group g1 hg1
    exact ⟨g2, hg2, hr _ _ _ e1 e2⟩

theorem withView_onlyMine (s : State) (w : Issuer) (v : List ViewLine) : OnlyMineView s (withView s w.c v) w fun a b => b = a := by
  have hgroup : ∀ b, (withView s w.c v).group? w.c b = s.group? w.c b := fun b => by
    rw [State.group?, withView_core]
    rfl
  refine ⟨rfl, fun c hc => withView_core_other s v hc, ?_, fun b _ => hgroup b, fun g hg => ⟨g, (hgroup _).trans hg, rfl⟩⟩
  rw [withView_core]

theorem modGroup_onlyMine (s : State) (w : Issuer) {f : Group → Group} (hs : ∀ g, (f g).slot = g.slot) :
    OnlyMineView s (s.modGroup w.c w.slot f) w (fun a b => b = f a) := by
  obtain ⟨-, hcores, hcore, hslots, hgroup⟩ := onlyMine_modGroup s w hs
  refine ⟨rfl, hcores, ?_, hslots, hgroup⟩
  rw [hcore]

theorem modGroup_view (s : State) (w : Issuer) {f : Group → Group} (hs : ∀ g, (f g).slot = g.slot) :
    ((s.modGroup w.c w.slot f).core w.c).view = (s.core w.c).view := by rw [(onlyMine_modGroup s w hs).core]

/-- With the line copies as they were, only the group has changed. -/
theorem OnlyMineView.near (h : OnlyMineView s t w r) : Near s (withView t w.c (s.core w.c).view) w noKeys r := by
  obtain ⟨hpackage, hcores, hcore, hslots, hgroup⟩ := h
  obtain ⟨-, vcores, -, vslots, vgroup⟩ := withView_onlyMine t w (s.core w.c).view
  have hboth : (withView t w.c (s.core w.c).view).core w.c = { s.core w.c with groups := (t.core w.c).groups } := by
    rw [withView_core, hcore]
  refine ⟨?_, fun a => ?_, fun c hc => (vcores c hc).trans (hcores c hc), ?_, fun k _ => ?_, fun b hb => (vslots b hb).trans (hslots b hb),
    fun g hg => ?_⟩
  · have hnext : t.nextId = s.nextId := by rw [hpackage]
    have htrace : t.traceNow = s.traceNow := by rw [hpackage]
    show _ = { s with cores := _, nextId := t.nextId, traceNow := t.traceNow }
    rw [hnext, htrace]
    exact congrArg (fun u : State => { u with cores := (withView t w.c (s.core w.c).view).cores }) hpackage
  · show Memory.read t.mem a = _
    rw [hpackage]
  · rw [hboth]
  · rw [hboth]
  · obtain ⟨g1, hg1, e1⟩ := hgroup g hg
    obtain ⟨g2, hg2, e2⟩ := vgroup g1 hg1
    exact ⟨g2, hg2, e2 ▸ e1⟩

theorem OnlyMineView.tracks (h : OnlyMineView s t w r) (htracks : Tracks s w) (hr : ∀ a b, r a b →
    b.first = a.first ∧ b.second = a.second ∧ b.allot = a.allot ∧ b.splits = a.splits ∧ b.slot = a.slot) : Tracks t w := by
  obtain ⟨g, hg, hfirst, hsecond, hallot, hsplits, hslot⟩ := htracks
  obtain ⟨b, hb, hrel⟩ := h.group g hg
  obtain ⟨first, second, allot, splits, slot⟩ := hr g b hrel
  exact ⟨b, hb, first.trans hfirst, second.trans hsecond, allot.trans hallot, splits.trans hsplits, slot.trans hslot⟩

/-- After such a change the split goes on. -/
theorem OnlyMineView.done (h : OnlyMineView s t w r1) (hr : ∀ a b c, r1 a b → GroupBy id b c → r3 a c) :
    Near s (withView (done t w) w.c (s.core w.c).view) w noKeys r3 :=
  (h.trans (modGroup_onlyMine t w (f := fun a => (a.pass t.cycle w.sp.mask 1).modSplit w.idx fun sp =>
    { sp with pc := nextPc w, hold := .none, heldFor := 0 }) fun _ => rfl) fun a b c hab hbc =>
      hr a b c hab (by rw [hbc]; exact ⟨rfl, pass_content b t.cycle w.sp.mask 1⟩)).near

theorem done_view (t : State) (w : Issuer) : ((Machine.done t w).core w.c).view = (t.core w.c).view := by
  rw [Machine.done, (onlyMine_retire ..).core]

end

/-! Waiting for a batch (12 R176). -/

/-- A WAIT whose condition is met returns if its split awaits no result at la = 15. -/
theorem drain15_goes {s : State} {w : Issuer} (h : ∀ r ∈ w.g.la, r.untilWait = true → r.path &&& w.sp.mask = 0) (go : State) :
    drain15 s w go = go := by
  have hnone : la15 w = [] := by
    rw [la15, List.filter_eq_nil_iff]
    intro r hr hwaits
    simp only [Bool.and_eq_true, bne_iff_ne] at hwaits
    exact hwaits.2 (h r hr hwaits.1.1)
  rw [drain15, hnone]
  rfl

theorem settleBatch_keepsPlace (x : Gate) (n : Word) : KeepsPlace (·.settleBatch x n) :=
  ⟨fun _ => rfl, fun _ => rfl, fun _ => rfl, fun _ => rfl, fun _ => rfl⟩

/-- The clean copies that a join on a gate leaves. -/
def joinedView (g : Gate) (vs : List ViewLine) : List ViewLine := if g = .gt then [] else vs.filter fun v => !v.behind

theorem joinedBy_view (s : State) (c : Nat) (g : Gate) : joinedBy s c g = withView s c (joinedView g (s.core c).view) := by
  cases g <;> rfl

/-- A WAIT that is held stays at its address. -/
theorem gateWait_holds {s : State} {w : Issuer} (h : s.who = some w) {i : Instr} {hold : Hold} {P : Hold → Prop} (hP : P hold)
    (e : exec i s = .next (holdIt s w hold)) : ∃ t sp, exec i s = .next t ∧ Stands t w sp ∧ sp.pc = w.sp.pc ∧ sp.mask = w.sp.mask
      ∧ P sp.hold ∧ Local s t w noKeys noKeys false := by
  obtain ⟨t, sp, hexec, hstands, hpc, hmask, rfl, hlocal⟩ := holds_of_holdIt h e
  exact ⟨t, sp, hexec, hstands, hpc, hmask, hP, hlocal⟩

theorem gateWaits : GateWaits := by
  intro s w a g h n v
  have hact := (exec_waitGate a g s).trans (uniIssue_acts h rfl (by simp) (by simp) _ _)
  refine ⟨fun hservice hgate => trapsIn_of_trapHere h.1 (hact.trans (congrArg _ (if_pos ?_))), fun hopen => ?_⟩
  · rcases hgate with rfl | rfl | rfl <;> simpa using hservice
  have hfree : ¬ (inService w.g && g != .gl && g != .gm) = true := by
    rcases hopen with hservice | rfl | rfl
    · simp [hservice]
    · simp
    · simp
  rw [if_neg hfree] at hact
  refine ⟨fun hrange => trapsIn_of_trapHere h.1 (hact.trans (congrArg _ (if_pos (decide_eq_true hrange)))), fun hclosed hwait => ?_,
    fun hclosed hdone hdue hla => ?_⟩
  · have hunreached : (!(w.g.gate g).reached n) = true := by
      rw [GateState.reached, decide_eq_false (not_le.mpr hwait)]
      rfl
    rw [if_neg (mt of_decide_eq_true (not_lt.mpr hclosed)), if_pos hunreached] at hact
    refine gateWait_holds h.1 (P := fun x => x = .waitGate g ∨ x = .faultSuspension) ?_ hact
    split
    · exact .inr rfl
    · exact .inl rfl
  · have hreached : ¬ (!(w.g.gate g).reached n) = true := by
      rw [GateState.reached, decide_eq_true hdone]
      exact Bool.false_ne_true
    rw [if_neg (mt of_decide_eq_true (not_lt.mpr hclosed)), if_neg hreached, hdue] at hact
    dsimp only at hact
    rw [drain15_goes hla, joinedBy_view] at hact
    have hsettle := (settleBatch_keepsPlace g n).slot
    have hchange := (withView_onlyMine s w (joinedView g (s.core w.c).view)).trans
      (modGroup_onlyMine _ w (f := (·.settleBatch g n)) hsettle) (r3 := fun a b => b = a.settleBatch g n)
      fun _ _ _ hab hbc => by rw [hbc, hab]
    have htracks := hchange.tracks (who_tracks h.1) fun a b hab => by rw [hab]; exact ⟨rfl, rfl, rfl, rfl, rfl⟩
    refine ⟨_, hact, retire_goesOn _ _ htracks (who_parts h.1).2.1, ?_, hchange.done fun a b c hab hbc => ?_⟩
    · exact ((done_view ..).trans (modGroup_view _ w hsettle)).trans (by rw [withView_core]; rfl)
    · obtain ⟨hfields, hla⟩ := hbc
      rw [hab] at hfields hla
      rw [hfields]
      exact ⟨rfl, fun _ _ => rfl, fun _ => rfl, hla.trans (List.append_nil _).symm⟩

/-! Waiting for an object (05 R69, 12 R176). -/

/-- What an acquire at a scope makes of its group. -/
def acquired (sc : Scope) (g : Group) : Group := { g with podAcquired := g.podAcquired || decide (5 ≤ scopeRank sc) }

theorem acquireAt_view (s : State) (c : Nat) (sc : Scope) :
    ((acquireAt s c sc).core c).view = if 2 ≤ scopeRank sc then [] else (s.core c).view := by
  by_cases hout : 2 ≤ scopeRank sc
  · rw [acquireAt, reachesOut, if_pos (decide_eq_true hout), if_pos hout]
    exact congrArg Core.view (withView_core s c [])
  · rw [acquireAt, reachesOut, if_neg (mt of_decide_eq_true hout), if_neg hout]

theorem acquireAt_onlyMine (s : State) (w : Issuer) (sc : Scope) : OnlyMineView s (acquireAt s w.c sc) w fun a b => b = a := by
  rw [acquireAt]
  split
  · exact withView_onlyMine s w []
  · exact ⟨rfl, fun _ _ => rfl, rfl, fun _ _ => rfl, fun g hg => ⟨g, hg, rfl⟩⟩

theorem acquireBy_view (s : State) (w : Issuer) (sc : Scope) :
    ((acquireBy s w.c w.slot sc).core w.c).view = if 2 ≤ scopeRank sc then [] else (s.core w.c).view := by
  rw [← acquireAt_view, acquireBy]
  split
  · exact modGroup_view _ w fun _ => rfl
  · rfl

theorem acquireBy_onlyMine (s : State) (w : Issuer) (sc : Scope) :
    OnlyMineView s (acquireBy s w.c w.slot sc) w fun a b => b = acquired sc a := by
  have hat := acquireAt_onlyMine s w sc
  rw [acquireBy]
  split
  next hpod =>
    refine hat.trans (modGroup_onlyMine _ w fun _ => rfl) fun a b c hab hbc => ?_
    rw [hbc, hab, acquired, decide_eq_true hpod, Bool.or_true]
  next hpod =>
    refine { hat with group := fun g hg => ?_ }
    obtain ⟨_, hb, rfl⟩ := hat.group g hg
    exact ⟨_, hb, by rw [acquired, decide_eq_false hpod, Bool.or_false]⟩

/-- The cap lowers no scope below POD. -/
theorem performedScope_rank (s : State) (g : Group) (n : Nat) :
    (2 ≤ scopeRank (performedScope s g (scopeOfCode n)) ↔ 2 ≤ n) ∧ (5 ≤ scopeRank (performedScope s g (scopeOfCode n)) ↔ 5 ≤ n) := by
  have hcode : (2 ≤ scopeRank (scopeOfCode n) ↔ 2 ≤ n) ∧ (5 ≤ scopeRank (scopeOfCode n) ↔ 5 ≤ n) := by
    match n with
    | 0 | 1 | 2 | 3 | 4 | 5 => decide
    | n + 6 => simp [scopeOfCode, scopeRank]
  rw [performedScope]
  split
  next hcap =>
    rw [Bool.and_eq_true] at hcap
    have hn := hcode.2.mp (of_decide_eq_true hcap.2)
    simp only [scopeRank]
    omega
  · exact hcode

/-- What a WAIT on an object makes of its group and of the clean copies of its core. -/
theorem joinObject_onlyMine (s : State) (w : Issuer) (p : Place) :
    OnlyMineView s (joinObject s w p) w fun a b => b = { a with
      observed := b.observed, podAcquired := a.podAcquired || decide (5 ≤ (objAt s p).scope) } := by
  have hobserve := modGroup_onlyMine s w (f := fun g : Group => { g with observed := (g.observed ++ ((setsOf s p).filter fun y =>
    y.counts (performedScope s w.g (scopeOfCode (objAt s p).scope)) w.c).map fun y => y.ref).eraseDups.filter fun o => onWay s o }) fun _ => rfl
  have hacquire := hobserve.trans (r3 := fun a b => b = { a with
      observed := b.observed, podAcquired := a.podAcquired || decide (5 ≤ (objAt s p).scope) })
    (acquireBy_onlyMine _ w (performedScope s w.g (scopeOfCode (objAt s p).scope))) fun a b c hab hbc => by
      rw [hbc, hab, acquired, decide_eq_decide.mpr (performedScope_rank ..).2]
  exact hacquire.trans (withView_onlyMine _ w _) fun a b c hab hbc => by rw [hbc]; exact hab

theorem joinObject_view (s : State) (w : Issuer) (p : Place) :
    ((joinObject s w p).core w.c).view = if 2 ≤ (objAt s p).scope then [] else (s.core w.c).view.filter fun v => !v.behind := by
  have hdrop : ∀ t : State, ((dropBehind t w.c).core w.c).view = (t.core w.c).view.filter fun v => !v.behind := fun t =>
    congrArg Core.view (withView_core t w.c _)
  have hobserve : ∀ sc, ((observe s w.c w.slot sc (setsOf s p)).core w.c).view = (s.core w.c).view := fun sc => modGroup_view s w fun _ => rfl
  rw [joinObject, hdrop, acquireBy_view, hobserve]
  simp only [(performedScope_rank ..).1]
  split <;> rfl

theorem afterParts_goes {s : State} {w : Issuer} {p : Place} {n : Nat} (h : ∀ q ∈ w.g.parts, q.before w.idx p.core w.g.epoch p.off n = false)
    (go : State) : afterParts s w p n go = go := by
  have hnone : (w.g.parts.any fun q => q.before w.idx p.core w.g.epoch p.off n) = false := by simpa using h
  rw [afterParts, hnone]
  rfl

theorem checkedU_goes {s : State} {w : Issuer} {size a : Nat} (hgood : scratchFault s w size [(0, a)] = none)
    (h : acquirePending w.g = false) (ok : State) : checkedU s w size a ok = ok := by
  rw [checkedU, hgood]
  dsimp only
  rw [afterAcquires, h]
  rfl

theorem testObject_some {o : Obj} {p : Word} (hvalid : o.valid = true) :
    testObject o p = if 0 ≤ (BitVec.ofNat 32 o.phase - p).toInt then some true else none := by
  rw [testObject, hvalid]
  rfl

theorem testObject_invalid {o : Obj} {p : Word} (hvalid : o.valid = false) : testObject o p = some false := by
  rw [testObject, hvalid]
  rfl

/-- What a WAIT on an object does after its checks, by what it finds. -/
theorem waitObject_finds {s : State} {w : Issuer} {a b : GReg} (h : Issues s w) (hservice : inService w.g = false) {q : Place} {p : Word}
    (hq : placeOf s w (uniAddr s w a) = q) (hp : (uniG s w b).setWidth 32 = p) (hgood : scratchFault s w 16 [(0, uniAddr s w a)] = none)
    (hacquire : acquirePending w.g = false) (hdue : dueAtObject w.g q = none)
    (hparts : ∀ z ∈ w.g.parts, z.before w.idx q.core w.g.epoch q.off 16 = false) :
    exec (.waitObject a b) s = .next (match waitFinds s w q p with
      | some false => trapAll s w .barrierInvalid (BitVec.ofNat 64 (uniAddr s w a))
      | none => holdOnObject s w q p
      | some true => drain15 s w (done (joinObject s w q) w)) := by
  subst hq hp
  refine (exec_waitObject a b s).trans ((uniIssue_acts h rfl (by simp) (by simp) _ _).trans (congrArg _ ?_))
  dsimp only
  rw [hservice, if_neg Bool.false_ne_true, checkedU_goes hgood hacquire, hdue]
  exact afterParts_goes hparts _

/-- The split is held, and its WAIT is the newest of those held. -/
theorem holdOnObject_holds {s : State} {w : Issuer} (h : s.who = some w) (p : Place) (phase : Word) :
    let t := holdOnObject s w p phase
    Stands t w { w.sp with hold := .waitObject, tried := true, heldFor := if w.sp.hold == .waitObject then w.sp.heldFor else 0 }
      ∧ t.waits = ⟨w.c, w.slot, w.idx, p.core, p.off, phase, none⟩
          :: s.waits.filter (fun u => !(u.core == w.c && u.slot == w.slot && u.split == w.idx))
      ∧ Local s { t with waits := s.waits } w noKeys noKeys false :=
  ⟨holdIt_stands (s := { s with waits := _ }) h .waitObject, rfl, modSplit_local s w w.idx _ _ _⟩

theorem objectWaits : ObjectWaits := by
  intro s w a b h hservice at_ p q o mine ended hgood hacquire hdue hparts hdrain
  have hexec := waitObject_finds h hservice (q := q) (p := p) rfl rfl hgood hacquire hdue hparts
  have hfinds : waitFinds s w q p = (ended <|> testObject o p) := if_neg hdrain
  refine ⟨fun hend => ?_, fun hend hvalid hphase => ?_, fun hend hla => ?_⟩
  · have hfalse : waitFinds s w q p = some false := by
      rcases hend with hend | ⟨hend, hvalid⟩
      · rw [hfinds, hend]
        rfl
      · rw [hfinds, hend, testObject_invalid hvalid]
        rfl
    rw [hfalse] at hexec
    exact trapsIn_of_trapHere h.1 hexec
  · have hnone : waitFinds s w q p = none := by
      rw [hfinds, hend, testObject_some hvalid, if_neg (not_le.mpr hphase)]
      rfl
    rw [hnone] at hexec
    obtain ⟨hstands, hwaits, hlocal⟩ := holdOnObject_holds h.1 q p
    exact ⟨_, _, hexec, hstands, rfl, rfl, rfl, hwaits, hlocal⟩
  · have htrue : waitFinds s w q p = some true := by
      rcases hend with hend | ⟨hend, hvalid, hphase⟩
      · rw [hfinds, hend]
        rfl
      · rw [hfinds, hend, testObject_some hvalid, if_pos hphase]
        rfl
    rw [htrue] at hexec
    dsimp only at hexec
    rw [drain15_goes hla] at hexec
    have hjoin := joinObject_onlyMine s w q
    have htracks := hjoin.tracks (who_tracks h.1) fun a b hab => by rw [hab]; exact ⟨rfl, rfl, rfl, rfl, rfl⟩
    refine ⟨_, hexec, retire_goesOn _ _ htracks (who_parts h.1).2.1, (done_view ..).trans (joinObject_view s w q),
      hjoin.done fun a b c hab hbc => ?_⟩
    obtain ⟨hfields, -⟩ := hbc
    rw [hab] at hfields
    rw [hfields]
    exact ⟨rfl, rfl⟩

/-- Settles O21: by what each instruction does once its checks have passed. -/
theorem gateControl : Obligations.GateControl := ⟨gateCloses, gateWaits, objectWaits⟩

end Sys2Proof.Machine
end

section
/-! Proofs: the arrive family (O23). -/
namespace Sys2Proof.Machine

/-! The accesses of a group that may be performed when they issue (13 R208, R209). -/

theorem afterFences_goes {s : State} {w : Issuer} (hacquire : acquirePending w.g = false) (hrelease : releaseReady s w.c w.g = true)
    (go : State) : afterFences s w go = go := by
  rw [afterFences, hacquire, hrelease]
  rfl

theorem afterFences_waits {s : State} {w : Issuer} (hrelease : releaseReady s w.c w.g = false) (go : State) :
    afterFences s w go = holdIt s w (.fence w.g.nextSeq false false) := by
  rw [afterFences, hrelease, Bool.not_false, Bool.or_true, if_pos rfl]

/-! Arrivals (12 R177). -/

/-- What a release carries to its object is kept under a name of its own. -/
theorem keepSet_sets (s : State) (core : Nat) (sc : Scope) (source : Option (Nat × Nat)) (cells : List Host.Cell) (object : Option (Nat × Nat))
    (ws : List WriteRef) : ∃ n rs, keepSet s core sc source cells object ws = { s with nextId := n, sets := rs } := by
  rw [keepSet]
  split
  · exact ⟨s.nextId, s.sets, rfl⟩
  · exact ⟨_, _, rfl⟩

theorem carrySet_sets (s : State) (w : Issuer) (p : Place) :
    ∃ n rs, carrySet s w p = { s with nextId := n, sets := rs } ∧ (w.g.relFence = none → rs = s.sets) := by
  rw [carrySet]
  split
  next hfence =>
    obtain ⟨n, rs, hkeep⟩ := keepSet_sets s w.c (scopeOfCode (objAt s p).scope) none [] (some (p.core, p.off)) (beforeSet s w.c w.g w.g.nextSeq)
    exact ⟨n, rs, hkeep, fun hnone => by simp [hnone] at hfence⟩
  · exact ⟨s.nextId, s.sets, rfl, fun _ => rfl⟩

/-- The state after an arrival whose update waits for the end of the cycle. -/
def arrived (s : State) (w : Issuer) (u : Update) (p : Place) : State := blockIt (queueUpdate (done (carrySet s w p) w) u) w .arrival

theorem arrived_waits {s : State} {w : Issuer} (h : s.who = some w) (u : Update) (p : Place) :
    Stands (arrived s w u p) w { w.sp with pc := nextPc w, hold := .arrival, heldFor := 0 }
      ∧ (arrived s w u p).updates = insertUpdate u s.updates ∧ (w.g.relFence = none → (arrived s w u p).sets = s.sets)
      ∧ Local s { arrived s w u p with updates := s.updates, sets := s.sets } w noKeys noKeys false := by
  obtain ⟨n, rs, hcarry, hsets⟩ := carrySet_sets s w p
  rw [arrived, hcarry]
  have htracks : Tracks { s with nextId := n, sets := rs } w := (who_tracks h).sameCores rfl
  have hgoes : Stands (queueUpdate (done { s with nextId := n, sets := rs } w) u) w _ := retire_goesOn (nextPc w) 1 htracks (who_parts h).2.1
  have hnamed : Local s { s with nextId := n } w noKeys noKeys false := (nextId_near s w n).mono (fun _ => id) fun a b hab => by
    rw [hab]
    exact GroupLocal.refl ..
  exact ⟨blockIt_stands hgoes .arrival, rfl, hsets, (hnamed.trans (retire_local _ w (nextPc w) 1)).trans (modSplit_local _ w w.idx _ _ _)⟩

section
variable {s : State} {w : Issuer} (h : Issues s w) {a : Nat} (hgood : scratchFault s w 16 [(0, uniAddr s w a)] = none)
  (hacquire : acquirePending w.g = false)
include h hgood hacquire

/-- What an instruction of the arrive family does after its checks. -/
theorem arriveAt_checks {i : Instr} {gs : List Nat} {drop : Bool} {expect : Issuer → Nat} (hw : wellFormed i = true)
    (e : exec i s = arriveAt s i a gs drop expect) : exec i s = .next (afterFences s w (afterParts s w (placeOf s w (uniAddr s w a)) 16
      (arrived s w (arrivalOf s w (uniAddr s w a) drop (expect w)) (placeOf s w (uniAddr s w a))))) :=
  e.trans ((uniIssue_acts h hw (by simp) (by simp) _ _).trans (congrArg _ (checkedU_goes hgood hacquire _)))

theorem arriveAt_arrives {i : Instr} {gs : List Nat} {drop : Bool} {expect : Issuer → Nat} (hw : wellFormed i = true)
    (e : exec i s = arriveAt s i a gs drop expect) (hrelease : releaseReady s w.c w.g = true)
    (hparts : ∀ z ∈ w.g.parts, z.before w.idx (placeOf s w (uniAddr s w a)).core w.g.epoch (placeOf s w (uniAddr s w a)).off 16 = false) :
    ∃ t, exec i s = .next t ∧ Stands t w { w.sp with pc := nextPc w, hold := .arrival, heldFor := 0 }
      ∧ t.updates = insertUpdate (arrivalOf s w (uniAddr s w a) drop (expect w)) s.updates ∧ (w.g.relFence = none → t.sets = s.sets)
      ∧ Local s { t with updates := s.updates, sets := s.sets } w noKeys noKeys false := by
  have hact := arriveAt_checks h hgood hacquire hw e
  rw [afterFences_goes hacquire hrelease, afterParts_goes hparts] at hact
  exact ⟨_, hact, arrived_waits h.1 _ _⟩

theorem arriveAt_holds {i : Instr} {gs : List Nat} {drop : Bool} {expect : Issuer → Nat} (hw : wellFormed i = true)
    (e : exec i s = arriveAt s i a gs drop expect) (hrelease : releaseReady s w.c w.g = false) :
    Holds s w i (.fence w.g.nextSeq false false) := by
  have hact := arriveAt_checks h hgood hacquire hw e
  rw [afterFences_waits hrelease] at hact
  exact holds_of_holdIt h.1 hact

end

/-! The object that BINIT writes (12 R178). -/

theorem bytesOf_numOf (bs : List Byte) : bytesOf bs.length (numOf bs) = bs := by
  induction bs with
  | nil => rfl
  | cons b bs ih =>
    have hb := b.isLt
    have hlow : BitVec.ofNat 8 (b.toNat + 256 * numOf bs) = b := by
      apply BitVec.eq_of_toNat_eq
      rw [BitVec.toNat_ofNat]
      omega
    have hrest : (b.toNat + 256 * numOf bs) / 256 = numOf bs := by omega
    rw [List.length_cons, numOf, bytesOf, hlow, hrest, ih]

theorem bytesOf_mod (n v : Nat) : bytesOf n (v % 256 ^ n) = bytesOf n v := by
  induction n generalizing v with
  | zero => rfl
  | succ n ih =>
    have hlow : BitVec.ofNat 8 (v % 256 ^ (n + 1)) = BitVec.ofNat 8 v := by
      apply BitVec.eq_of_toNat_eq
      rw [BitVec.toNat_ofNat, BitVec.toNat_ofNat, Nat.pow_succ, Nat.mul_comm]
      exact Nat.mod_mul_right_mod ..
    have hrest : v % 256 ^ (n + 1) / 256 = v / 256 % 256 ^ n := by
      rw [Nat.pow_succ, Nat.mul_comm, Nat.mod_mul_right_div_self]
    rw [bytesOf, bytesOf, hlow, hrest, ih]

theorem wrapInt32_signed (x : Nat) : Obj.image.wrapInt32 (signed 32 x) = x % 2 ^ 32 := by
  simp only [Obj.image.wrapInt32, signed]
  split <;> omega

/-- The bytes of the object, as the statement says them. -/
theorem binitObj_image (v : Nat) : (binitObj v).image
    = bytesOf 4 0 ++ bytesOf 2 v ++ bytesOf 2 v ++ bytesOf 4 (v / 2 ^ 32) ++ bytesOf 1 (1 + 2 * bits v 16 3) ++ bytesOf 3 0 := by
  have hpend : bytesOf 2 (bits v 0 16) = bytesOf 2 v := by
    rw [bits, Nat.pow_zero, Nat.div_one]
    exact bytesOf_mod 2 v
  have hbytes : bytesOf 4 (Obj.image.wrapInt32 (signed 32 (bits v 32 32))) = bytesOf 4 (v / 2 ^ 32) := by
    rw [wrapInt32_signed, bits, Nat.mod_mod]
    exact bytesOf_mod 4 _
  rw [Obj.image, binitObj]
  dsimp only
  rw [hpend, hbytes]

/-- The only access to another core of a uniform store. -/
theorem remoteParts_far {s : State} {w : Issuer} {size at_ : Nat} {k : RemoteKind} {v : Nat → DWord × DWord}
    (h : (placeOf s w at_).core ≠ w.c) : remoteParts s w size k [(0, at_)] v
      = [⟨(placeOf s w at_).core, w.g.nextSeq, w.idx, w.g.epoch, size, k, [⟨0, at_, (placeOf s w at_).off, (v 0).1, (v 0).2⟩], false⟩] := by
  have hfar : [(0, at_)].filter (fun p : Nat × Nat => !isNear s w p.2) = [(0, at_)] := by simp [isNear, h]
  rw [remoteParts, hfar]
  simp [List.eraseDups_cons]

/-- The bytes of an object stored in the own core. -/
theorem storePlace_scratched {s : State} {w : Issuer} (at_ : Nat) (bs : List Byte) :
    Scratched s (done (storePlace s (placeOf s w at_) bs) w) w (GroupLocal noKeys false) (overBytes (placeOf s w at_) bs noBytes) := by
  refine scratched_of (n := bs.length) (as := [(0, at_)]) ((Wrote.refl s).writePlace _ _) (onlyMine_retire _ w _ 1) fun c o hsome => ?_
  rcases overBytes_isSome.mp hsome with ⟨hc, hlow, hend⟩ | hno
  · exact ⟨_, List.mem_singleton_self _, hc.symm, hlow, hend⟩
  · exact nomatch hno

theorem storePlace_tracks {s : State} {w : Issuer} (h : Tracks s w) (at_ : Nat) (bs : List Byte) :
    Tracks (storePlace s (placeOf s w at_) bs) w :=
  (h.wrote ((Wrote.refl s).writePlace _ _)).testAll bs.length [(0, at_)]

section
variable {s : State} {w : Issuer} (h : Issues s w) {a b : GReg} (hgood : scratchFault s w 16 [(0, uniAddr s w a)] = none)
  (hacquire : acquirePending w.g = false)
include h hgood hacquire

theorem binit_checks : exec (.binit a b) s = .next (if bits (uniG s w b).toNat 16 3 = 7 ∨ bits (uniG s w b).toNat 19 13 ≠ 0
      then trapAll s w .barrierInvalid (BitVec.ofNat 64 (uniAddr s w a))
      else storeNear s w 16 (uniAddr s w a) (numOf (binitObj (uniG s w b).toNat).image)) :=
  (exec_binit a b s).trans ((uniIssue_acts h rfl (by simp) (by simp) _ _).trans (congrArg _ (checkedU_goes hgood hacquire _)))

variable (hvalid : bits (uniG s w b).toNat 16 3 ≠ 7 ∧ bits (uniG s w b).toNat 19 13 = 0) (hrelease : releaseReady s w.c w.g = true)
include hvalid hrelease

theorem binit_near (hnear : (placeOf s w (uniAddr s w a)).core = w.c) :
    exec (.binit a b) s = .next (done (storePlace s (placeOf s w (uniAddr s w a)) (binitObj (uniG s w b).toNat).image) w) := by
  have hlength : (binitObj (uniG s w b).toNat).image.length = 16 := by simp [binitObj_image]
  have himage := bytesOf_numOf (binitObj (uniG s w b).toNat).image
  rw [hlength] at himage
  rw [binit_checks h hgood hacquire, if_neg (not_or_intro hvalid.1 (not_not_intro hvalid.2)), storeNear, afterFences_goes hacquire hrelease,
    isNear, hnear, beq_self_eq_true, if_pos rfl, himage]

theorem binit_far (hfar : (placeOf s w (uniAddr s w a)).core ≠ w.c) :
    exec (.binit a b) s = .next (done (pushFar s w [⟨(placeOf s w (uniAddr s w a)).core, w.g.nextSeq, w.idx, w.g.epoch, 16, .store,
      [⟨0, uniAddr s w a, (placeOf s w (uniAddr s w a)).off, BitVec.ofNat 64 (numOf (binitObj (uniG s w b).toNat).image),
        BitVec.ofNat 64 (numOf (binitObj (uniG s w b).toNat).image / 2 ^ 64)⟩], false⟩]) w) := by
  rw [binit_checks h hgood hacquire, if_neg (not_or_intro hvalid.1 (not_not_intro hvalid.2)), storeNear, afterFences_goes hacquire hrelease,
    isNear, beq_false_of_ne hfar, if_neg Bool.false_ne_true, remoteParts_far hfar]

end

/-- Settles O23: an arrival's update is kept with its split held, and BINIT stores its object's bytes as a uniform store does. -/
theorem barrierArrivals : Obligations.BarrierArrivals := by
  intro s w a b h at_ v q image good arrives hgood hacquire
  have himage : image = (binitObj v).image := (binitObj_image v).symm
  rw [himage]
  have htracks := who_tracks h.1
  have hsp := (who_parts h.1).2.1
  refine ⟨fun hrelease hparts => ⟨?_, ?_, ?_⟩, fun hvalid hrelease hnear => ?_, fun hvalid hrelease hfar => ?_, fun hrelease => ?_,
    fun hinvalid => ?_⟩
  · exact arriveAt_arrives h hgood hacquire rfl (exec_arrive a s) hrelease hparts
  · exact arriveAt_arrives h hgood hacquire rfl (exec_arriveExpect a b s) hrelease hparts
  · exact arriveAt_arrives h hgood hacquire rfl (exec_arriveDrop a s) hrelease hparts
  · exact ⟨_, binit_near h hgood hacquire hvalid hrelease hnear, retire_goesOn _ _ (storePlace_tracks htracks at_ _) hsp,
      storePlace_scratched at_ _⟩
  · exact ⟨_, binit_far h hgood hacquire hvalid hrelease hfar, retire_goesOn _ _ (pushFar_tracks htracks _) hsp,
      (pushFar_onlyMine _).done.near⟩
  · simp only [List.forall_mem_cons]
    refine ⟨?_, ?_, ?_, fun _ hi => nomatch hi⟩
    · exact arriveAt_holds h hgood hacquire rfl (exec_arrive a s) hrelease
    · exact arriveAt_holds h hgood hacquire rfl (exec_arriveExpect a b s) hrelease
    · exact arriveAt_holds h hgood hacquire rfl (exec_arriveDrop a s) hrelease
  · have hbad : bits v 16 3 = 7 ∨ bits v 19 13 ≠ 0 := by
      by_contra hno
      exact hinvalid (not_or.mp hno |>.imp id not_not.mp)
    exact trapsIn_of_trapHere h.1 ((binit_checks h hgood hacquire).trans (congrArg _ (if_pos hbad)))

end Sys2Proof.Machine
end

section
/-! Proofs: bytes written at home, and the host's accesses (O30). -/
namespace Sys2Proof.Machine

/-- The cells written last count. -/
theorem writtenOver_concat (cs : List Host.Cell) (c : Host.Cell) (a : Nat) (old : Byte) :
    writtenOver (cs ++ [c]) a old = if a = c.1 then c.2 else writtenOver cs a old := by
  rw [writtenOver, List.reverse_append, List.reverse_singleton, List.singleton_append, List.find?_cons]
  by_cases ha : a = c.1
  · have hcell : (c.1 == a) = true := by simp [ha]
    rw [hcell, if_pos ha]
    rfl
  · have hcell : (c.1 == a) = false := beq_false_of_ne (Ne.symm ha)
    rw [hcell, if_neg ha, writtenOver]

theorem Memory.read_writeAll {m : List Host.Cell} (hm : Memory.wf m = true) (cs : List Host.Cell) (a : Nat) :
    Memory.read (Memory.writeAll m cs) a = writtenOver cs a (Memory.read m a) := by
  induction cs using List.reverseRecOn with
  | nil => rfl
  | append_singleton cs c ih =>
    have hlast : Memory.writeAll m (cs ++ [c]) = Memory.write (Memory.writeAll m cs) c.1 c.2 := List.foldl_concat ..
    rw [hlast, Memory.read_write_wf _ _ _ (Memory.wf_writeAll cs hm), ih, writtenOver_concat]

theorem foldl_fixed_of_forall {α β : Type} {f : β → α → β} {b : β} {xs : List α} (h : ∀ a ∈ xs, f b a = b) : xs.foldl f b = b := by
  induction xs with
  | nil => rfl
  | cons a xs ih =>
    rw [List.foldl_cons, h a List.mem_cons_self]
    exact ih fun c hc => h c (List.mem_cons_of_mem a hc)

/-! A host access where no atomic stands between its halves (13 R220). -/

section
variable {s : State} (h : NoHalves s) (pa n : Nat)
include h

theorem snoopRaces_same : snoopRaces s pa n = s := by
  refine foldl_fixed_of_forall fun x hx => foldl_fixed_of_forall fun g hg => ?_
  split
  next e _ _ hreads _ =>
    have hwhole : e.half = false := (h.1 x hx).1 g hg e (by simp [hreads])
    rw [hwhole]
  · rfl

theorem agentHalves_none : agentHalves s = [] := by
  have hqueues : ∀ q ∈ s.queues, q.started.filter (fun k => k.half.isSome) = [] := fun q hq =>
    List.filter_eq_nil_iff.mpr fun k hk => by simp [h.2 q hq k hk]
  have hblocks : ∀ y ∈ s.cores, y.blocks.filter (fun k => k.half.isSome) = [] := fun y hy =>
    List.filter_eq_nil_iff.mpr fun k hk => by simp [(h.1 y hy).2 k hk]
  rw [agentHalves, List.append_eq_nil_iff, List.flatMap_eq_nil_iff, List.flatMap_eq_nil_iff]
  exact ⟨fun q hq => by rw [hqueues q hq]; rfl, fun y hy => by rw [hblocks y hy]; rfl⟩

theorem agentRaces_same : agentRaces s pa n = s := by
  rw [agentRaces, agentHalves_none h]
  rfl

theorem hostRead_same : hostAccessAt s (.read pa n) = s.modDev fun d => { d with hostData := (List.range n).map fun i => hostByte s (pa + i) } := by
  rw [hostAccessAt, snoopRaces_same h, agentRaces_same h]

theorem hostWrite_same (bs : List Byte) : hostAccessAt s (.write pa bs) = hostWrote (homeWrite s pa bs) pa bs.length := by
  rw [hostAccessAt, snoopRaces_same h, agentRaces_same h]

end

/-- The host sees what it has not acknowledged as it was, and else the home. -/
theorem hostByte_eq (s : State) (pa : Nat) :
    hostByte s pa = (((s.props.flatMap fun p => p.prev).find? fun k => k.1 == pa).map Prod.snd).getD (s.homeByte pa) := by
  rw [hostByte, List.find?_flatMap]

/-- A write at home changes memory, the home slices' copies, the poison there and what releases have live there. -/
theorem homeWrite_fields (s : State) (pa : Nat) (bs : List Byte) : ∃ attic bad sets,
    homeWrite s pa bs = { s with mem := Memory.writeAll s.mem (cellsOf pa bs), attic := attic, memPoison := bad, sets := sets } := by
  rw [homeWrite, State.homePoke]
  split
  · exact ⟨_, _, _, rfl⟩
  · exact ⟨s.attic, _, _, rfl⟩

theorem hostAccesses {s : State} (hm : Memory.wf s.mem = true) (h : NoHalves s) (pa n : Nat) (bs : List Byte) :
    (∃ t, exec (.hostAccess (.read pa n)) s = .next t
        ∧ t.dev.hostData = ((List.range n).map fun i =>
            (((s.props.flatMap fun p => p.prev).find? fun k => k.1 == pa + i).map Prod.snd).getD (s.homeByte (pa + i)))
        ∧ t = { s with dev := { s.dev with hostData := t.dev.hostData } })
      ∧ ∃ t, exec (.hostAccess (.write pa bs)) s = .next t
        ∧ (∀ a, Memory.read t.mem a = writtenOver (cellsOf pa bs) a (Memory.read s.mem a))
        ∧ t.props = s.props.map (fun p => { p with prev := p.prev.filter fun k => k.1 < pa || pa + bs.length ≤ k.1 })
        ∧ t = { s with mem := t.mem, attic := t.attic, memPoison := t.memPoison, props := t.props, sets := t.sets } := by
  constructor
  · refine ⟨_, (exec_hostAccess ..).trans (congrArg Host.Outcome.next (hostRead_same h pa n)), ?_, rfl⟩
    simp only [← hostByte_eq]
    rfl
  · obtain ⟨attic, bad, sets, hwrite⟩ := homeWrite_fields s pa bs
    have hact : hostAccessAt s (.write pa bs) = hostWrote _ pa bs.length := (hostWrite_same h pa bs).trans (by rw [hwrite])
    exact ⟨_, (exec_hostAccess ..).trans (congrArg Host.Outcome.next hact), Memory.read_writeAll hm _, rfl, rfl⟩

end Sys2Proof.Machine
end

section
/-! Proofs: an event's record does not depend on the writes in flight and the replica sets' stamps (O30). -/
namespace Sys2Proof.Machine

/-- The state with other writes in flight and other replica sets' stamps. -/
def withStamps (s : State) (ps : List Propagation) (rs : List ReplicaSet) : State := { s with props := ps, replicas := rs }

/-- Two states differ only in the writes in flight and in the replica sets' stamps. -/
def ButStamps (s t : State) : Prop := ∃ ps rs, t = withStamps s ps rs

theorem ButStamps.mem {s t : State} (h : ButStamps s t) : t.mem = s.mem := by
  obtain ⟨_, _, rfl⟩ := h
  rfl

theorem ButStamps.num {s t : State} (h : ButStamps s t) (pa n : Nat) : t.num pa n = s.num pa n := by rw [State.num, State.num, h.mem]

theorem ButStamps.queueDesc {s t : State} (h : ButStamps s t) (q : Nat) : t.queueDesc q = s.queueDesc q := by
  obtain ⟨_, _, rfl⟩ := h
  rfl

/-! Reading memory through a context's tables. -/

theorem walkFrom_withStamps (s : State) (ps : List Propagation) (rs : List ReplicaSet) (func va fuel level base : Nat) :
    walkFrom (withStamps s ps rs) func va fuel level base = walkFrom s func va fuel level base := by
  induction fuel generalizing level base with
  | zero => rfl
  | succ fuel ih =>
    rw [walkFrom, walkFrom]
    simp only [ih]
    rfl

theorem walk_withStamps (s : State) (ps : List Propagation) (rs : List ReplicaSet) (x : Ctx) (va : Nat) :
    walk (withStamps s ps rs) x va = walk s x va := walkFrom_withStamps ..

theorem replicaOf_withStamps (s : State) (ps : List Propagation) (rs : List ReplicaSet) (x : Ctx) (rset : Nat) :
    replicaOf (withStamps s ps rs) x rset = replicaOf s x rset := by
  rw [replicaOf, replicaOf]
  simp only [walk_withStamps]
  rfl

theorem throughTlb_withStamps (h : Tlb) (c va : Nat) (r : Except XErr (Nat × Nat)) (s : State) (ps : List Propagation) (rs : List ReplicaSet) :
    throughTlb h c va (r, withStamps s ps rs) = ((throughTlb h c va (r, s)).1, withStamps (throughTlb h c va (r, s)).2 ps rs) := by
  have hcached : cachedLeaf (withStamps s ps rs) h c va = cachedLeaf s h c va := rfl
  have hfree : (withStamps s ps rs).free = s.free := rfl
  unfold throughTlb
  dsimp only
  rw [hcached, hfree]
  generalize Config.freeBool (s.free * 16384 + 16382) = kept
  cases cachedLeaf s h c va with
  | none => cases r <;> rfl
  | some e =>
    cases r with
    | error k => cases kept <;> rfl
    | ok l =>
      dsimp only
      split
      · split <;> rfl
      · split <;> rfl

/-- Two results are the same, with states that differ only in stamps. -/
def SameResult {α : Type} (a b : α × State) : Prop := b.1 = a.1 ∧ ButStamps a.2 b.2

theorem findLeaf_withStamps (h : Tlb) (x : Ctx) (va : Nat) (s : State) (ps : List Propagation) (rs : List ReplicaSet) :
    findLeaf (withStamps s ps rs) h x va = ((findLeaf s h x va).1, withStamps (findLeaf s h x va).2 ps rs) := by
  rw [findLeaf, findLeaf, walk_withStamps]
  split
  · exact throughTlb_withStamps ..
  · rw [throughTlb_withStamps, throughTlb_withStamps]

theorem translate_withStamps (h : Tlb) (x : Ctx) (need : Need) (va : Nat) (s : State) (ps : List Propagation) (rs : List ReplicaSet) :
    Machine.translate (withStamps s ps rs) h x need va
      = ((Machine.translate s h x need va).1, withStamps (Machine.translate s h x need va).2 ps rs) := by
  rw [Machine.translate, Machine.translate, findLeaf_withStamps]
  rcases findLeaf s h x va with ⟨_ | _, t⟩ <;> rfl

theorem translateR_withStamps (h : Tlb) (x : Ctx) (need : Need) (va : Nat) (s : State) (ps : List Propagation) (rs : List ReplicaSet) :
    translateR (withStamps s ps rs) h x need va = ((translateR s h x need va).1, withStamps (translateR s h x need va).2 ps rs) := by
  rw [translateR, translateR, translate_withStamps]
  rcases Machine.translate s h x need va with ⟨_ | p, t⟩
  · rfl
  · dsimp only
    rw [replicaOf_withStamps]
    split <;> rfl

theorem placeSpans_withStamps (h : Tlb) (x : Ctx) (need : Need) (s : State) (l : List (Nat × Nat)) (ps : List Propagation) (rs : List ReplicaSet) :
    placeSpans h x need (withStamps s ps rs) l = ((placeSpans h x need s l).1, withStamps (placeSpans h x need s l).2 ps rs) := by
  induction l generalizing s with
  | nil => rfl
  | cons a l ih =>
    rw [placeSpans, placeSpans, translateR_withStamps]
    rcases translateR s h x need a.1 with ⟨_ | p, t⟩
    · rfl
    · dsimp only
      rw [ih]
      rcases placeSpans h x need t l with ⟨_ | rest, u⟩ <;> rfl

theorem sealTrip_withStamps (key port : Nat) (s : State) (ps : List Propagation) (rs : List ReplicaSet) :
    sealTrip (withStamps s ps rs) key port = ((sealTrip s key port).1, withStamps (sealTrip s key port).2 ps rs) := by
  have hdev : (withStamps s ps rs).dev = s.dev := rfl
  rw [sealTrip, sealTrip, hdev]
  split
  · rfl
  · split <;> rfl

theorem sealPage_withStamps (ctx : Nat) (p : Page) (s : State) (ps : List Propagation) (rs : List ReplicaSet) :
    sealPage (withStamps s ps rs) ctx p = ((sealPage s ctx p).1, withStamps (sealPage s ctx p).2 ps rs) := by
  rw [sealPage, sealPage, sealTrip_withStamps]
  split
  · rfl
  · rcases sealTrip s p.key (atticPort p.pa) with ⟨_ | _, t⟩ <;> rfl

theorem sealPlaces_withStamps (ctx : Nat) (s : State) (l : List (Page × Nat)) (ps : List Propagation) (rs : List ReplicaSet) :
    sealPlaces ctx (withStamps s ps rs) l = ((sealPlaces ctx s l).1, withStamps (sealPlaces ctx s l).2 ps rs) := by
  induction l generalizing s with
  | nil => rfl
  | cons a l ih =>
    rw [sealPlaces, sealPlaces, sealPage_withStamps]
    rcases sealPage s ctx a.1 with ⟨_ | _, t⟩
    · rfl
    · exact ih t

theorem placeSealed_withStamps (h : Tlb) (x : Ctx) (need : Need) (s : State) (l : List (Nat × Nat)) (ps : List Propagation)
    (rs : List ReplicaSet) :
    placeSealed h x need (withStamps s ps rs) l = ((placeSealed h x need s l).1, withStamps (placeSealed h x need s l).2 ps rs) := by
  rw [placeSealed, placeSealed, placeSpans_withStamps]
  rcases placeSpans h x need s l with ⟨_ | places, t⟩
  · rfl
  · dsimp only
    rw [sealPlaces_withStamps]
    rcases sealPlaces x.id t places with ⟨_ | _, u⟩ <;> rfl

/-! Writing a record: a write of a replicated page takes a stamp, which memory does not show (05 R83). -/

theorem ButStamps.refl (s : State) : ButStamps s s := ⟨s.props, s.replicas, rfl⟩

theorem ButStamps.result {α : Type} {s t : State} (h : ButStamps s t) (a : α) : SameResult (a, s) (a, t) := ⟨rfl, h⟩

theorem modReplica_stamps {s t : State} (h : ButStamps s t) (c rset : Nat) (f g : ReplicaSet → ReplicaSet) :
    ButStamps (modReplica s c rset f) (modReplica t c rset g) := by
  obtain ⟨ps, rs, rfl⟩ := h
  rw [modReplica, modReplica]
  split <;> split <;> exact ⟨ps, _, rfl⟩

theorem stampWrite_stamps {s t : State} (h : ButStamps s t) (x : Ctx) (rset : Nat) (cells : List Host.Cell) (bad : List Nat) (w : Writer) :
    ButStamps (stampWrite s x rset cells bad w) (stampWrite t x rset cells bad w) := by
  obtain ⟨ps, rs, rfl⟩ := h
  rw [stampWrite, stampWrite, replicaOf_withStamps]
  split
  · exact ⟨ps, rs, rfl⟩
  · exact modReplica_stamps ⟨ps, rs, rfl⟩ ..

theorem poke_stamps {s t : State} (h : ButStamps s t) (pa : Nat) (bs : List Byte) : ButStamps (s.poke pa bs) (t.poke pa bs) := by
  obtain ⟨ps, rs, rfl⟩ := h
  exact ⟨ps, rs, rfl⟩

theorem homePoke_stamps {s t : State} (h : ButStamps s t) (pa : Nat) (bs : List Byte) : ButStamps (s.homePoke pa bs) (t.homePoke pa bs) := by
  obtain ⟨ps, rs, rfl⟩ := h
  refine ⟨ps, rs, ?_⟩
  rw [State.homePoke, State.homePoke]
  split <;> rfl

theorem writePlaces_stamps {s t : State} (h : ButStamps s t) (x : Ctx) (l : List (Page × Nat)) (bs : List Byte) :
    ButStamps (writePlaces x s l bs) (writePlaces x t l bs) := by
  induction l generalizing s t bs with
  | nil => exact h
  | cons a l ih =>
    rw [writePlaces, writePlaces]
    refine ih ?_ _
    split
    · exact stampWrite_stamps h ..
    · exact homePoke_stamps h ..

theorem writeVa_stamps {s t : State} (h : ButStamps s t) (k : Tlb) (x : Ctx) (va : Nat) (bs : List Byte) :
    SameResult (writeVa s k x va bs) (writeVa t k x va bs) := by
  obtain ⟨ps, rs, rfl⟩ := h
  rw [writeVa, writeVa, placeSealed_withStamps]
  split
  · exact ⟨rfl, ps, rs, rfl⟩
  · rcases placeSealed k x .store s (spansOf va bs.length) with ⟨_ | places, u⟩
    · exact ⟨rfl, ps, rs, rfl⟩
    · exact ⟨rfl, writePlaces_stamps ⟨ps, rs, rfl⟩ ..⟩

theorem countLost_stamps {s t : State} (h : ButStamps s t) (ring : Nat) : ButStamps (countLost s ring) (countLost t ring) := by
  obtain ⟨ps, rs, rfl⟩ := h
  have hring : ringOk (withStamps s ps rs) ring = ringOk s ring := rfl
  refine ⟨ps, rs, ?_⟩
  rw [countLost, countLost, hring]
  split <;> rfl

section
variable {s t : State} (h : ButStamps s t)
include h

theorem tryPost_stamps (ring : Nat) (ctx : Option Ctx) (ty : EventType) (queue code detail : Nat) (src : EventSource) :
    SameResult (tryPost s ring ctx ty queue code detail src) (tryPost t ring ctx ty queue code detail src) := by
  have hpoke := fun va bs => homePoke_stamps h va bs
  have hwrite := fun x va bs => writeVa_stamps h (.die 0) x va bs
  have hlost := countLost_stamps h ring
  obtain ⟨ps, rs, rfl⟩ := h
  have hring : ringOk (withStamps s ps rs) ring = ringOk s ring := rfl
  have hnum : ∀ pa n, (withStamps s ps rs).num pa n = s.num pa n := fun _ _ => rfl
  have hdev : (withStamps s ps rs).dev = s.dev := rfl
  have hbytes : ∀ c, eventBytes (withStamps s ps rs) ty c queue code detail src = eventBytes s ty c queue code detail src := fun _ => rfl
  unfold tryPost
  simp only [hring, hnum, hdev, hbytes]
  generalize (ringOk s ring && decide ((_ : Nat) < (_ : Nat))) = room
  cases room with
  | false =>
    rw [if_neg Bool.false_ne_true, if_neg Bool.false_ne_true]
    dsimp only
    exact hlost.result false
  | true =>
    rw [if_pos rfl, if_pos rfl]
    generalize s.num _ _ + 32 * ((_ : Nat) % (_ : Nat)) = va
    generalize eventBytes s ty _ queue code detail src = record
    cases ctx with
    | none =>
      have hplace : resolvable (withStamps s ps rs) va = resolvable s va := rfl
      dsimp only
      rw [hplace]
      by_cases hreach : resolvable s va = true
      · rw [if_pos hreach, if_pos hreach]
        exact (poke_stamps (hpoke va record) _ _).result true
      · rw [if_neg hreach, if_neg hreach]
        exact hlost.result false
    | some x =>
      obtain ⟨hresult, hstate⟩ := hwrite x va record
      dsimp only
      generalize writeVa s (.die 0) x va record = a at hresult hstate
      generalize writeVa (withStamps s ps rs) (.die 0) x va record = b at hresult hstate
      obtain ⟨ra, a⟩ := a
      obtain ⟨rb, b⟩ := b
      cases hresult
      cases ra with
      | ok _ => exact (poke_stamps hstate _ _).result true
      | error _ => exact hlost.result false

theorem haltAt_stamps (q state code index : Nat) : ButStamps (haltAt s q state code index) (haltAt t q state code index) := by
  unfold haltAt
  simp only [h.queueDesc, h.num]
  refine poke_stamps ?_ _ _
  split
  · exact poke_stamps h _ _
  · exact h

end

theorem foldl_stamps {α : Type} {f : State → α → State} (hf : ∀ s t a, ButStamps s t → ButStamps (f s a) (f t a)) (xs : List α) {s t : State}
    (h : ButStamps s t) : ButStamps (xs.foldl f s) (xs.foldl f t) := by
  induction xs generalizing s t with
  | nil => exact h
  | cons a xs ih => exact ih (hf s t a h)

theorem loseEvent_stamps {s t : State} (h : ButStamps s t) (x : Ctx) : ButStamps (loseEvent s x) (loseEvent t x) := by
  have hqueues : t.queuesOf x.id = s.queuesOf x.id := by
    obtain ⟨ps, rs, rfl⟩ := h
    rfl
  rw [loseEvent, loseEvent, hqueues]
  refine foldl_stamps (fun a b q hab => ?_) _ h
  have hstate : b.queueState q = a.queueState q := by rw [State.queueState, State.queueState, hab.queueDesc, hab.num]
  have hhalt : ButStamps (haltQueue a q 2 9) (haltQueue b q 2 9) := by
    have hqueue : b.queue? q = a.queue? q := by
      obtain ⟨ps, rs, rfl⟩ := hab
      rfl
    rw [haltQueue, haltQueue, hqueue]
    exact haltAt_stamps hab ..
  rw [hstate]
  split
  · have hnum : (haltQueue b q 2 9).num ((haltQueue b q 2 9).queueDesc q + 0x20) 8
        = (haltQueue a q 2 9).num ((haltQueue a q 2 9).queueDesc q + 0x20) 8 := by
      rw [hhalt.queueDesc, hhalt.num]
    dsimp only
    rw [hnum]
    exact (tryPost_stamps hhalt ..).2
  · exact hab

theorem postTo_stamps {s t : State} (h : ButStamps s t) (ring : Nat) (ctx : Option Ctx) (ty : EventType) (queue code detail : Nat)
    (src : EventSource) : ButStamps (postTo s ring ctx ty queue code detail src) (postTo t ring ctx ty queue code detail src) := by
  obtain ⟨hresult, hstate⟩ := tryPost_stamps h ring ctx ty queue code detail src
  unfold postTo
  generalize tryPost s ring ctx ty queue code detail src = a at hresult hstate
  generalize tryPost t ring ctx ty queue code detail src = b at hresult hstate
  obtain ⟨ra, a⟩ := a
  obtain ⟨rb, b⟩ := b
  cases hresult
  cases ctx with
  | none => cases ra <;> exact hstate
  | some x =>
    cases ra with
    | true => exact hstate
    | false =>
      dsimp only
      split
      · exact loseEvent_stamps hstate x
      · exact hstate

theorem postEvent_stamps {s t : State} (h : ButStamps s t) (c : Nat) (ty : EventType) (queue code detail : Nat) (src : EventSource) :
    ButStamps (postEvent s c ty queue code detail src) (postEvent t c ty queue code detail src) := by
  have hctx : t.ctx? c = s.ctx? c := by
    obtain ⟨ps, rs, rfl⟩ := h
    rfl
  rw [postEvent, postEvent, hctx]
  split
  · exact h
  · exact postTo_stamps h ..

end Sys2Proof.Machine
end

section
/-! Proofs: replicated writes (O30). -/
namespace Sys2Proof.Machine

theorem removeAt_eq_eraseIdx {α : Type} (n : Nat) (xs : List α) : removeAt n xs = xs.eraseIdx n := by
  induction xs generalizing n with
  | nil => cases n <;> rfl
  | cons x xs ih =>
    cases n with
    | zero => rfl
    | succ n => exact congrArg (x :: ·) (ih n)

theorem retireRepl_cores (s : State) (ctx core slot seq : Nat) : ∃ cs, retireRepl s ctx core slot seq = { s with cores := cs } := by
  unfold retireRepl
  split
  · exact ⟨s.cores, rfl⟩
  · extract_lets flying waiting
    split
    · exact ⟨s.cores, rfl⟩
    · exact ⟨_, rfl⟩

/-- Whether a set is the one that a context names. -/
def isSet (c rset : Nat) (r : ReplicaSet) : Bool := r.ctx == c && r.rset == rset

theorem modReplica_replicas (s : State) (c rset : Nat) (f : ReplicaSet → ReplicaSet) : ∃ rs, modReplica s c rset f = { s with replicas := rs } := by
  rw [modReplica]
  split
  · exact ⟨_, rfl⟩
  · exact ⟨_, rfl⟩

section
variable {s : State} {c rset : Nat} {f : ReplicaSet → ReplicaSet} (hf : ∀ r, (f r).ctx = r.ctx ∧ (f r).rset = r.rset)
include hf

/-- A set after a change of it: one not kept yet is new. -/
theorem modReplica_find : (modReplica s c rset f).replicas.find? (isSet c rset)
    = some (f (((s.replicas.find? (isSet c rset))).getD ⟨c, rset, 0, []⟩)) := by
  have hkeeps : ∀ r, isSet c rset (f r) = isSet c rset r := fun r => by rw [isSet, isSet, (hf r).1, (hf r).2]
  have hfind : ∀ rs : List ReplicaSet, (replaceFirst (isSet c rset) f rs).find? (isSet c rset) = (rs.find? (isSet c rset)).map f :=
    find_replaceFirst_same _ f fun r hr => (hkeeps r).trans hr
  rw [modReplica]
  split
  next hany =>
    obtain ⟨r, hr⟩ := Option.isSome_iff_exists.mp (List.find?_isSome.mpr (List.any_eq_true.mp hany))
    have hr : s.replicas.find? (isSet c rset) = some r := hr
    exact (hfind s.replicas).trans (by rw [hr]; rfl)
  next hnone =>
    have hno : s.replicas.find? (isSet c rset) = none := by
      rw [List.find?_eq_none]
      exact fun r hr hset => hnone (List.any_eq_true.mpr ⟨r, hr, hset⟩)
    have hnew : isSet c rset (f ⟨c, rset, 0, []⟩) = true := by rw [hkeeps]; simp [isSet]
    rw [hno, List.find?_cons_of_pos hnew]
    rfl

end

/-- What a stamped write of an engine passes changes cores only. -/
theorem passed_cores (q : Stamped) (s : State) (die : Nat) (cs : List Host.Cell) :
    ∃ ys, (if q.op.isSome then passMember s die cs else s) = { s with cores := ys } := by
  split
  · exact ⟨_, rfl⟩
  · exact ⟨s.cores, rfl⟩

/-- The cells of a stamped write at the copy of a die (05 R82). -/
def memberCells (d : Nat × Nat × List Nat) (die : Nat) (q : Stamped) : List Host.Cell := q.bytes.map fun b => (copyPlace d die b.1, b.2)

/-- A pending write of a member, off its set's list. -/
def withoutPending (q : Stamped) (r : ReplicaSet) : ReplicaSet := { r with pending := r.pending.erase q }

section
variable {s : State} {x : Ctx} {r : ReplicaSet} {q : Stamped} {die rset : Nat} (hx : s.ctx? x.id = some x)
  (hr : s.replicas.find? (isSet x.id rset) = some r) (hq : r.pending.find? (fun q => q.die == die) = some q)
include hx hr hq

/-- A member's copy takes its next stamped write. -/
theorem replicaApply_applies {d : Nat × Nat × List Nat} (hd : replicaOf s x rset = some d) :
    ∃ cs bad, replicaApply s x.id rset die = { (modReplica s x.id rset (withoutPending q)) with
      cores := cs, memPoison := bad, mem := Memory.writeAll s.mem (memberCells d die q) } := by
  obtain ⟨rs, hmod⟩ := modReplica_replicas s x.id rset (withoutPending q)
  have hset : replicaOf { s with replicas := rs } x rset = some d := (replicaOf_withStamps s s.props rs x rset).trans hd
  have happly : replicaApply s x.id rset die = retireRepl (if q.op.isSome
      then passMember (State.putCells { s with replicas := rs } (memberCells d die q) (q.bad.map fun a => copyPlace d die a)) die (memberCells d die q)
      else State.putCells { s with replicas := rs } (memberCells d die q) (q.bad.map fun a => copyPlace d die a))
      x.id q.core q.slot q.seq := by
    have hr' : s.replicas.find? (fun r => r.ctx == x.id && r.rset == rset) = some r := hr
    have hmod' : modReplica s x.id rset (fun r => { r with pending := r.pending.erase q }) = { s with replicas := rs } := hmod
    unfold replicaApply
    simp only [hx, hr', hq, hmod', hset]
    rfl
  generalize q.bad.map (fun a => copyPlace d die a) = poisoned at happly
  obtain ⟨ys, hpassed⟩ := passed_cores q (State.putCells { s with replicas := rs } (memberCells d die q) poisoned) die (memberCells d die q)
  rw [hpassed] at happly
  obtain ⟨cs, hretire⟩ := retireRepl_cores
    { State.putCells { s with replicas := rs } (memberCells d die q) poisoned with cores := ys } x.id q.core q.slot q.seq
  rw [happly, hretire, hmod]
  exact ⟨cs, _, rfl⟩

/-- A set that cannot be read is reported, and nothing is written but the record. -/
theorem replicaApply_reports (hd : replicaOf s x rset = none) :
    (replicaApply s x.id rset die).mem = (postEvent s x.id .replica 0xFFFF rset q.stamp noSource).mem := by
  obtain ⟨rs, hmod⟩ := modReplica_replicas s x.id rset (withoutPending q)
  have hset : replicaOf { s with replicas := rs } x rset = none := (replicaOf_withStamps s s.props rs x rset).trans hd
  have hr' : s.replicas.find? (fun r => r.ctx == x.id && r.rset == rset) = some r := hr
  have hmod' : modReplica s x.id rset (fun r => { r with pending := r.pending.erase q }) = { s with replicas := rs } := hmod
  have happly : replicaApply s x.id rset die
      = retireRepl (postEvent { s with replicas := rs } x.id .replica 0xFFFF rset q.stamp noSource) x.id q.core q.slot q.seq := by
    unfold replicaApply
    simp only [hx, hr', hq, hmod', hset]
  obtain ⟨cs, hretire⟩ := retireRepl_cores (postEvent { s with replicas := rs } x.id .replica 0xFFFF rset q.stamp noSource) x.id q.core q.slot q.seq
  rw [happly, hretire]
  exact (postEvent_stamps (t := { s with replicas := rs }) ⟨s.props, rs, rfl⟩ ..).mem

end

/-- The sequencer's copy takes a write with the set's next stamp. -/
theorem stampWrite_stamps_next {s : State} {x : Ctx} {rset : Nat} {cells : List Host.Cell} {bad : List Nat} {w : Writer}
    {d : Nat × Nat × List Nat} (hd : replicaOf s x rset = some d) :
    (stampWrite s x rset cells bad w).mem = Memory.writeAll s.mem cells ∧ (stampWrite s x rset cells bad w).props = s.props
      ∧ stampOf (stampWrite s x rset cells bad w) x.id rset = stampOf s x.id rset + 1 := by
  rw [stampWrite, hd]
  dsimp only
  generalize (((List.range 12).filter fun m => bit d.1 m && m != d.2.1).map fun m =>
    w.stamped (stampOf s x.id rset + 1) m cells bad) = new
  obtain ⟨rs, hmod⟩ := modReplica_replicas (s.putCells cells bad) x.id rset fun r =>
    { r with stamp := stampOf s x.id rset + 1, pending := r.pending ++ new }
  have hfind := modReplica_find (s := s.putCells cells bad) (c := x.id) (rset := rset)
    (f := fun r => { r with stamp := stampOf s x.id rset + 1, pending := r.pending ++ new }) fun _ => ⟨rfl, rfl⟩
  refine ⟨?_, ?_, ?_⟩
  · rw [hmod]
    rfl
  · rw [hmod]
    rfl
  · exact congrArg (fun r => (r.map ReplicaSet.stamp).getD 0) hfind

theorem replicaStamp_next {s : State} {x : Ctx} {rset n : Nat} {p : Propagation} {d : Nat × Nat × List Nat} (hx : s.ctx? x.id = some x)
    (hp : s.props[n]? = some p) (hrepl : p.repl = some (x.id, rset)) (harrive : mayArrive s n p = true) (hd : replicaOf s x rset = some d) :
    (replicaStamp s n).props = s.props.eraseIdx n ∧ stampOf (replicaStamp s n) x.id rset = stampOf s x.id rset + 1
      ∧ (replicaStamp s n).mem = Memory.writeAll s.mem p.bytes := by
  have hd' : replicaOf { s with props := removeAt n s.props } x rset = some d :=
    (replicaOf_withStamps s (removeAt n s.props) s.replicas x rset).trans hd
  have hstamp : replicaStamp s n = retireRepl (stampWrite { s with props := removeAt n s.props } x rset p.bytes []
      (.group p.core p.slot p.seq)) x.id p.core p.slot p.seq := by
    unfold replicaStamp
    simp only [hp, hrepl, hx, harrive, hd']
    rfl
  obtain ⟨cs, hretire⟩ := retireRepl_cores (stampWrite { s with props := removeAt n s.props } x rset p.bytes []
    (.group p.core p.slot p.seq)) x.id p.core p.slot p.seq
  obtain ⟨hmem, hprops, hnext⟩ := stampWrite_stamps_next (cells := p.bytes) (bad := []) (w := .group p.core p.slot p.seq) hd'
  rw [hstamp, hretire]
  exact ⟨hprops.trans (removeAt_eq_eraseIdx n s.props), hnext, hmem⟩

/-- Settles O30: by what each instruction writes at home, in states whose memory is in its canonical form. -/
theorem replicasAndHost : Obligations.ReplicasAndHost := by
  intro s x r q d die rset hm hx
  refine ⟨fun hr hq => ⟨fun hd => ?_, fun hd => ?_⟩, fun n p hp hrepl harrive hd => ?_, fun h pa n bs => hostAccesses hm h pa n bs⟩
  · obtain ⟨cs, bad, happly⟩ := replicaApply_applies hx hr hq hd
    have hfind := modReplica_find (s := s) (c := x.id) (rset := rset) (f := withoutPending q) fun _ => ⟨rfl, rfl⟩
    rw [show s.replicas.find? (isSet x.id rset) = some r from hr] at hfind
    exact ⟨_, (exec_replicaApply ..).trans (congrArg Host.Outcome.next happly), Memory.read_writeAll hm _, _, hfind, rfl, rfl⟩
  · exact ⟨_, exec_replicaApply .., replicaApply_reports hx hr hq hd⟩
  · obtain ⟨hprops, hnext, hmem⟩ := replicaStamp_next hx hp hrepl harrive hd
    exact ⟨_, exec_replicaStamp .., hprops, hnext, fun a => by rw [hmem]; exact Memory.read_writeAll hm p.bytes a⟩

end Sys2Proof.Machine
end

section
/-! Proofs: transcendental functions (O6). -/
namespace Sys2Proof.Machine

@[simp] theorem raiseFlags_cycle (t : State) (w : Issuer) (d : Nat) (f : FFlags) : (raiseFlags t w d f).cycle = t.cycle := by
  unfold raiseFlags
  split <;> rfl

/-- Flags raised join those that stood, and the results awaited are as before. -/
theorem raiseFlags_group {t : State} {w : Issuer} {g : Group} (hg : t.group? w.c w.slot = some g) (d : Nat) (f : FFlags) :
    ∃ h, (raiseFlags t w d f).group? w.c w.slot = some h ∧ h.fpflags = g.fpflags ||| f ∧ h.la = g.la := by
  by_cases hf : f = 0
  · rw [raiseFlags, if_pos hf, hf]
    exact ⟨g, hg, BitVec.or_zero.symm, rfl⟩
  · rw [raiseFlags, if_neg hf]
    exact ⟨_, group_changed_some _ (fun _ => rfl) hg, rfl, rfl⟩

theorem done_group {t : State} {w : Issuer} {g : Group} (hg : t.group? w.c w.slot = some g) :
    ∃ h, (done t w).group? w.c w.slot = some h ∧ h.fpflags = g.fpflags ∧ h.la = (g.pass t.cycle w.sp.mask 1).la :=
  ⟨_, group_changed_some _ (fun _ => rfl) hg, rfl, rfl⟩

/-- Raising flags before the split goes on leaves the positions that the newest result may see. -/
theorem NewestWaits.raiseFlags {t : State} {w : Issuer} {la : Nat} (h : NewestWaits (done t w) w la) (ht : Tracks t w) (d : Nat)
    (f : FFlags) : NewestWaits (done (raiseFlags t w d f) w) w la := by
  obtain ⟨g, hg, -⟩ := ht
  obtain ⟨g', hg', -, hsame⟩ := raiseFlags_group hg d f
  obtain ⟨u, hu, -, hula⟩ := done_group hg
  obtain ⟨u', hu', -, hula'⟩ := done_group hg'
  obtain ⟨v, a, hv, hlast, hleft⟩ := h
  obtain rfl : u = v := Option.some.inj (hu.symm.trans hv)
  have hla : u'.la = u.la := by rw [hula, hula', raiseFlags_cycle, Group.pass, Group.pass, hsame]
  exact ⟨u', a, hu', by rw [hla, hlast], hleft⟩

theorem transcendForms_xfn (s : State) (k : KReg) (d a : VReg) (n : La) : ∀ p ∈ transcendForms,
    wellFormed (p.1 k d a n) = true ∧ exec (p.1 k d a n) s = xfn s (p.1 k d a n) k d a n p.2 := by
  simp only [transcendForms, List.forall_mem_cons]
  exact ⟨⟨rfl, rfl⟩, ⟨rfl, rfl⟩, ⟨rfl, rfl⟩, ⟨rfl, rfl⟩, ⟨rfl, rfl⟩, ⟨rfl, rfl⟩, ⟨rfl, rfl⟩, ⟨rfl, rfl⟩, fun _ hp => nomatch hp⟩

/-- A change of the issuing group that awaits results, then flags raised, and the split goes on. -/
theorem onlyMine_raisesFlags {s t : State} {w : Issuer} {new : List LaResult} (h : OnlyMine s t w (GroupAwaits new noKeys false))
    (hw : s.who = some w) (ht : Tracks t w) (d : Nat) (f : FFlags) :
    GoesOn (done (raiseFlags t w d f) w) w (nextPc w)
      ∧ Near s (done (raiseFlags t w d f) w) w noKeys (GroupAwaits new noKeys true)
      ∧ ∃ g, (done (raiseFlags t w d f) w).group? w.c w.slot = some g ∧ g.fpflags = w.g.fpflags ||| f := by
  obtain ⟨hg, hsp, -⟩ := who_parts hw
  refine ⟨retire_goesOn _ _ (raiseFlags_tracks _ _ ht) hsp, ?_, ?_⟩
  · have hawaits := h.near.mono (fun _ => id) fun _ _ hab => hab.mono (fl' := true) (fun _ => id) fun _ => rfl
    have hflags := hawaits.trans (raiseFlags_local t w d f) fun _ _ _ => GroupAwaits.trans
    exact hflags.trans ((retire_local _ w (nextPc w) 1).mono (fun _ => id) (fun _ => id) fun _ => rfl) fun _ _ _ => GroupAwaits.trans
  · obtain ⟨g1, hg1, -, -, hsame, -⟩ := h.group w.g hg
    obtain ⟨g2, hg2, hraised, -⟩ := raiseFlags_group hg1 d f
    obtain ⟨g3, hg3, hkept, -⟩ := done_group hg2
    exact ⟨g3, hg3, by rw [hkept, hraised, hsame rfl]⟩

/-- Settles O6: the results are handed in, then the flags are raised, and neither changes what the other leaves. -/
theorem transcendentalResults : Obligations.TranscendentalResults := by
  intro s w k d a n h hd ha p hp m r
  obtain ⟨hw, hexec⟩ := transcendForms_xfn s k d a n p hp
  have hact := hexec.trans (laneIssue_acts h hw (by simpa using ⟨hd, ha⟩) _ _)
  have hpush := pushLa_onlyMine n ((lanesOf m).map fun l => (d.val, l, BitVec.ofNat 32 (r l).1)) none [] (who_tracks h.1) [d.val] (m := m)
  obtain ⟨hgoes, hnear, hflags⟩ := onlyMine_raisesFlags hpush h.1 (pushLa_tracks _ _ _ _ (who_tracks h.1) _) 0
    (orFlags (fun l => (r l).2) (lanesOf m))
  exact ⟨_, hact, hgoes, hnear, fun hm hn => (pushLa_newestWaits _ _ _ _ (who_tracks h.1) _ hm hn).raiseFlags
    (pushLa_tracks _ _ _ _ (who_tracks h.1) _) _ _, hflags⟩

end Sys2Proof.Machine
end

section
/-! Proofs: the commands of the matrix queue (O32). -/
namespace Sys2Proof.Machine

/-- A core whose accumulator store lists its cells out of order, so that the one at 0 is not found behind the one at 4096, and whose
matrix queue holds a zeroing of slot 1. -/
def disorderedCore : Core :=
  { Core.idle 0 with matrix := { Matrix.empty with acc := ⟨[], [(4096, 1), (0, 7)]⟩, queue := [newCommand 0 none 0 128 (.zero 1)] } }

/-- That core a cycle after the command came. -/
def disorderedState : State := { State.reset with cycle := 1, cores := [disorderedCore] }

theorem disorderedState_zeroed :
    (match exec (.slotZeroing 0 0) disorderedState with
      | .next t => some ((t.core 0).matrix.acc.byte 0)
      | _ => none) = some 7 := by decide

/-- Refutes O32: in the zeroing, of an accumulator store whose cells stand out of order. The writes of the model keep them in order, but the
statement speaks of every state. The cells of the zeroed slot go, and a cell of another slot that stood behind one of them is found where it
was not: byte 0 is 7 after the zeroing of slot 1, where the statement has it 0 as before. -/
theorem not_matrixRuns : ¬ Obligations.MatrixRuns := by
  intro h
  obtain ⟨hzero, -⟩ := h disorderedState 0 0 0 0 0 (newCommand 0 none 0 128 (.zero 1)) (by decide) (by decide) (by decide)
  obtain ⟨t, ht, -, -, hacc, -⟩ := hzero 1 rfl rfl
  have hbyte := disorderedState_zeroed
  rw [ht] at hbyte
  replace hbyte : some ((t.core 0).matrix.acc.byte 0) = some 7 := hbyte
  rw [hacc 0] at hbyte
  exact absurd hbyte (by decide)

end Sys2Proof.Machine
end

section
/-! Proofs: the issue of a copy (O33). -/
namespace Sys2Proof.Machine

/-! With no active lane the open batch takes an operation that completes at once. -/

/-- A change of a gate's state that leaves CLOSED leaves it at every gate. -/
theorem closed_setGate {g : Group} {x : Gate} {v : GateState} (hv : v.closed = (g.gate x).closed) (y : Gate) :
    ((g.setGate x v).gate y).closed = (g.gate y).closed := by
  by_cases hy : y = x
  · subst hy
    by_cases hlt : gateNum y < g.gates.length
    · simpa [Group.gate, Group.setGate, hlt] using hv
    · rw [Group.setGate, List.set_eq_of_length_le (by omega)]
  · rw [gate_setGate_other _ _ hy]

/-- An operation joins the open batch of a gate and completes. -/
def joinedAndDone (x : Gate) (g : Group) : Group := (g.join x).complete x (g.openBatch x)

theorem joinedAndDone_keepsPlace (x : Gate) : KeepsPlace (joinedAndDone x) :=
  ⟨fun _ => rfl, fun _ => rfl, fun _ => rfl, fun _ => rfl, fun _ => rfl⟩

theorem joinedAndDone_closed (x y : Gate) (g : Group) : ((joinedAndDone x g).gate y).closed = (g.gate y).closed := by
  have hjoin : ((g.join x).gate y).closed = (g.gate y).closed := closed_setGate (by rfl) y
  exact (closed_setGate (by rfl) y).trans hjoin

theorem joinedAndDone_other {x y : Gate} (h : y ≠ x) (g : Group) : (joinedAndDone x g).gate y = g.gate y :=
  (gate_setGate_other _ _ h).trans (gate_setGate_other _ _ h)

/-! A fork that steps the dither phase or not. -/

/-- A core put into the list takes the place of one of its index put there before. -/
theorem putCore_putCore {x y : Core} (h : x.index = y.index) (xs : List Core) : putCore y (putCore x xs) = putCore y xs := by
  induction xs with
  | nil => simp [putCore, h]
  | cons z r ih =>
    rcases Nat.lt_trichotomy z.index y.index with hlt | heq | hgt
    · have hne : z.index ≠ y.index := by omega
      have hge : ¬ y.index < z.index := by omega
      simp [putCore, h, hne, hge, ih]
    · simp [putCore, h, heq]
    · have hne : z.index ≠ y.index := by omega
      simp [putCore, h, hne, hgt]

theorem replaceFirst_id {α : Type} (p : α → Bool) (xs : List α) : replaceFirst p id xs = xs := by
  induction xs with
  | nil => rfl
  | cons a r ih => simp [replaceFirst, ih]

theorem modGroup_id_after (s : State) (c slot : Nat) (f : Group → Group) :
    (s.modGroup c slot f).modGroup c slot id = s.modGroup c slot f := by
  have hcore : (s.modGroup c slot f).core c = (s.core c).modGroup slot f := core_modCore s c _ (core_index s c)
  have hsame : ((s.core c).modGroup slot f).modGroup slot id = (s.core c).modGroup slot f := by
    rw [Core.modGroup, replaceFirst_id]
  rw [State.modGroup, State.modCore, hcore, hsame]
  exact congrArg (fun cs => { s with cores := cs }) (putCore_putCore rfl s.cores)

/-- The group of a copy steps its dither phase if the copy is a TCOPYQ (07 R98). -/
def stepPhase (quant : Bool) (g : Group) : Group := if quant then { g with dphase := g.dphase + 1 } else g

theorem stepPhase_keepsPlace (quant : Bool) : KeepsPlace (stepPhase quant) := by
  cases quant <;> exact ⟨fun _ => rfl, fun _ => rfl, fun _ => rfl, fun _ => rfl, fun _ => rfl⟩

theorem stepPhase_la (quant : Bool) (g : Group) : (stepPhase quant g).la = g.la := by cases quant <;> rfl

theorem forkOp_stepPhase (s : State) (w : Issuer) (gate : Gate) (cls charge : Nat) (kind : OpKind) (quant : Bool) :
    (if quant then (forkOp s w gate cls charge kind).2.modMine w fun g => { g with dphase := g.dphase + 1 }
      else (forkOp s w gate cls charge kind).2) = (forkOp s w gate cls charge kind).2.modMine w (stepPhase quant) := by
  cases quant with
  | true => rfl
  | false => exact (modGroup_id_after _ w.c w.slot _).symm

/-- The copy that lane `l` of a TCOPY or TCOPYQ asks for, before its record is read (16 R243). -/
def askedCopy (s : State) (w : Issuer) (i : Instr) (d a l : Nat) (quant : Bool) : Copy :=
  { quant := quant, lane := l, vd := d, recVa := lanePair s w a l, declared := laneV s w d l,
    origin := (List.range 5).map fun j => (laneV s w (d + 1 + j) l).toInt, phase := w.g.dphase.toNat, layout := none,
    next := 0, ahead := [], buffer := [], moved := 0, code := none, codeAt := 0, ends := none, trying := 0, bad := 0,
    places := [], owed := none, word := wordOf i }

/-- The registers that a copy names exist if the last of its descriptor's and of its address's do. -/
theorem copyRegisters_lt {d a n : Nat} (hd : d + 5 < n) (ha : a + 1 < n) : ∀ r ∈ (List.range 6).map (d + ·) ++ [a, a + 1], r < n := by
  intro r hr
  simp only [List.mem_append, List.mem_map, List.mem_range, List.mem_cons, List.not_mem_nil, or_false] at hr
  omega

section
variable {s : State} {w : Issuer} (h : Issues s w) {i : Instr} {k d a : Nat} {quant : Bool} (hw : wellFormed i = true)
  (ha : a + 1 < w.g.allot) (hd : d + 5 < w.g.allot) (e : exec i s = tcopyIssue s i k d a quant)
include h hw ha hd e

theorem tcopyIssue_idle (hm : activeOf s w k = 0) : ∃ t, exec i s = .next t ∧ GoesOn t w (nextPc w) ∧ t.ops = s.ops
    ∧ Near s t w noKeys fun g h => h = { g with gates := h.gates, splits := h.splits, pend := h.pend, la := h.la }
        ∧ ∀ x, (h.gate x).closed = (g.gate x).closed ∧ (x ≠ .gc → h.gate x = g.gate x) := by
  have hact : exec i s = .next (done (s.modMine w (joinedAndDone .gc)) w) :=
    e.trans ((laneIssue_acts h hw (copyRegisters_lt hd ha) _ _).trans (congrArg _ (if_pos hm)))
  have hchange := modGroup_near (s := s) (w := w) (rel := GroupBy (joinedAndDone .gc)) _ (joinedAndDone_keepsPlace .gc).slot
    fun _ => ⟨rfl, rfl⟩
  refine ⟨_, hact, retire_goesOn _ _ ((who_tracks h.1).modGroup (joinedAndDone_keepsPlace .gc)) (who_parts h.1).2.1, rfl, ?_⟩
  refine (hchange.by_trans (retire_near _ w (nextPc w) 1)).mono (fun _ => id) fun g u hgu => ?_
  obtain ⟨hfields, -⟩ := hgu
  have hgates : ∀ x, u.gate x = (joinedAndDone .gc g).gate x := fun x => by rw [hfields]; rfl
  refine ⟨by rw [hfields]; rfl, fun x => ⟨?_, fun hx => ?_⟩⟩
  · rw [hgates, joinedAndDone_closed]
  · rw [hgates, joinedAndDone_other hx]

theorem tcopyIssue_forks {l : Nat} (hl : l = lowestLane (activeOf s w k)) (hm : activeOf s w k ≠ 0) (hlow : lanePair s w a l < 2 ^ 57)
    (halign : lanePair s w a l % 128 = 0) (hword : (laneV s w d l).toNat < 2 ^ 25) {cls charge : Nat}
    (hcls : cls = (if quant then 2 else 0) + bits (laneV s w d l).toNat 24 1)
    (hcharge : charge = chargeUnits s cls ((laneV s w d l).toNat % 2 ^ 24)) (hgo : admitMine s w cls charge = .go)
    (hfence : Unfenced s w) : Forks s w i .gc cls charge (.copy (askedCopy s w i d a l quant)) (stepPhase quant) := by
  subst hl
  have hhigh : ¬ highVa (lanePair s w a (lowestLane (activeOf s w k))) = true := by simpa [highVa] using hlow
  have hrest : bits (laneV s w d (lowestLane (activeOf s w k))).toNat 25 7 = 0 := by rw [bits, Nat.div_eq_of_lt hword]; rfl
  have hunits : bits (laneV s w d (lowestLane (activeOf s w k))).toNat 0 24 = (laneV s w d (lowestLane (activeOf s w k))).toNat % 2 ^ 24 := by
    rw [bits, Nat.pow_zero, Nat.div_one]
  have hact := e.trans (laneIssue_acts h hw (copyRegisters_lt hd ha) _ _)
  dsimp only at hact
  rw [if_neg hm, if_neg hhigh, if_neg (not_not_intro halign), if_neg (not_not_intro hrest), hunits, ← hcls, ← hcharge, charged,
    chargedFor, hgo] at hact
  dsimp only at hact
  rw [afterFences_goes hfence.1 hfence.2, forkOp_stepPhase] at hact
  exact forks_of_forkOp h.1 (stepPhase_keepsPlace quant) (stepPhase_la quant) hact

end

/-- Settles O33: the checks passed, the copy is forked and the phase stepped; with no active lane an operation joins and completes. -/
theorem copyIssue : Obligations.CopyIssue := by
  intro s w k d a h ha hd
  simp only [List.forall_mem_cons]
  refine ⟨fun hw => ⟨?_, ?_⟩, fun hw => ⟨?_, ?_⟩, fun _ hp => nomatch hp⟩
  · exact tcopyIssue_idle h hw ha hd rfl
  · exact fun hm hlow halign hword hgo hfence => tcopyIssue_forks h hw ha hd rfl rfl hm hlow halign hword rfl rfl hgo hfence
  · exact tcopyIssue_idle h hw ha hd rfl
  · exact fun hm hlow halign hword hgo hfence => tcopyIssue_forks h hw ha hd rfl rfl hm hlow halign hword rfl rfl hgo hfence

end Sys2Proof.Machine
end

section
/-! Proofs: the word of an instruction decodes to it (O55), and words written out (O54). -/
namespace Sys2Proof.Encoding

open Laws

/-- Every instruction's word decodes to it: a lemma of the model for each constructor, in their order. -/
theorem roundTrip (i : Instr) : RoundTrip.Statement i :=
  Instr.casesOn (motive := RoundTrip.Statement) i
    RoundTrip.iadd RoundTrip.isub RoundTrip.imul RoundTrip.imulhZ RoundTrip.iminS RoundTrip.imaxS RoundTrip.iminZ RoundTrip.imaxZ
    RoundTrip.and RoundTrip.or RoundTrip.xor RoundTrip.andn RoundTrip.shl RoundTrip.shr RoundTrip.sar RoundTrip.rotl RoundTrip.popc
    RoundTrip.clz RoundTrip.ctz RoundTrip.brev RoundTrip.bfeZ RoundTrip.bfeS RoundTrip.bfi RoundTrip.perm RoundTrip.icmp RoundTrip.iadd64
    RoundTrip.isub64 RoundTrip.shl64 RoundTrip.shr64 RoundTrip.imadLo RoundTrip.imadWideZ RoundTrip.imadWideS RoundTrip.imulhS
    RoundTrip.sel RoundTrip.mov RoundTrip.laneid RoundTrip.ialugIadd RoundTrip.ialugIsub RoundTrip.ialugImul RoundTrip.ialugAnd
    RoundTrip.ialugOr RoundTrip.ialugXor RoundTrip.ialugShl RoundTrip.ialugShr RoundTrip.falugFadd RoundTrip.falugFsub
    RoundTrip.falugFmul RoundTrip.falugFma RoundTrip.falugFmin RoundTrip.falugFmax RoundTrip.movg RoundTrip.fadd RoundTrip.fsub
    RoundTrip.fmul RoundTrip.fma RoundTrip.fmin RoundTrip.fmax RoundTrip.fcmp RoundTrip.cvt RoundTrip.xfnRcp RoundTrip.xfnRsq
    RoundTrip.xfnSqrt RoundTrip.xfnExp2 RoundTrip.xfnLog2 RoundTrip.xfnSin RoundTrip.xfnCos RoundTrip.xfnTanh RoundTrip.shflIdx
    RoundTrip.shflXor RoundTrip.shflUp RoundTrip.shflDown RoundTrip.ldsZ8 RoundTrip.ldsZ16 RoundTrip.lds32 RoundTrip.lds64
    RoundTrip.ldsxS8 RoundTrip.ldsxS16 RoundTrip.ldsx128 RoundTrip.sts8 RoundTrip.sts16 RoundTrip.sts32 RoundTrip.sts64
    RoundTrip.atomsAdd RoundTrip.atomsExch RoundTrip.atomsCas RoundTrip.atomsMaxS RoundTrip.atomsxAnd RoundTrip.atomsxOr
    RoundTrip.atomsxXor RoundTrip.atomsxMinS RoundTrip.ldg32 RoundTrip.ldg64 RoundTrip.ldg128 RoundTrip.ldg32Acq RoundTrip.stg8
    RoundTrip.stg16 RoundTrip.stg32 RoundTrip.stg64 RoundTrip.mstream RoundTrip.tcopy RoundTrip.tcopyq RoundTrip.atomg RoundTrip.tvwalk
    RoundTrip.tvcut RoundTrip.tvret RoundTrip.tvresume RoundTrip.tvstat RoundTrip.gput RoundTrip.gtake RoundTrip.stgRel RoundTrip.uadd
    RoundTrip.usub RoundTrip.umul RoundTrip.umulhZ RoundTrip.umulhS RoundTrip.uminS RoundTrip.umaxS RoundTrip.uminZ RoundTrip.umaxZ
    RoundTrip.uand RoundTrip.uor RoundTrip.uxor RoundTrip.uandn RoundTrip.ushl RoundTrip.ushr RoundTrip.usar RoundTrip.ucmpEq
    RoundTrip.ucmpLtS RoundTrip.ucmpLtZ RoundTrip.ucmpLeS RoundTrip.ucmpLeZ RoundTrip.upopc RoundTrip.uclz RoundTrip.umov
    RoundTrip.uadd32 RoundTrip.usub32 RoundTrip.uaddi RoundTrip.uhi RoundTrip.uandi RoundTrip.uori RoundTrip.uxori RoundTrip.ushli
    RoundTrip.br RoundTrip.brd RoundTrip.call RoundTrip.jmpi RoundTrip.calli RoundTrip.ret RoundTrip.nop RoundTrip.exit RoundTrip.trap
    RoundTrip.rett RoundTrip.brk RoundTrip.yield RoundTrip.pjoin RoundTrip.cfence RoundTrip.mfence RoundTrip.lfence RoundTrip.xfence
    RoundTrip.tfence RoundTrip.fenceAll RoundTrip.fenceAcq RoundTrip.fenceRel RoundTrip.waitGate RoundTrip.waitObject RoundTrip.arrive
    RoundTrip.arriveExpect RoundTrip.arriveDrop RoundTrip.binit RoundTrip.uldS32 RoundTrip.uldS64 RoundTrip.uldG32 RoundTrip.uldG64
    RoundTrip.uldGAdd RoundTrip.uldGExch RoundTrip.uldGCas RoundTrip.ustS32 RoundTrip.ustS64 RoundTrip.ustG32 RoundTrip.ustG64
    RoundTrip.readlane RoundTrip.readfirst RoundTrip.voteAny RoundTrip.voteAll RoundTrip.ballot RoundTrip.umaskSet RoundTrip.umaskGet
    RoundTrip.umaskAnd RoundTrip.umaskOr RoundTrip.umaskXor RoundTrip.umaskAndn RoundTrip.umaskNot RoundTrip.mload RoundTrip.mopen
    RoundTrip.mclose RoundTrip.epi RoundTrip.amovLd RoundTrip.amovSt RoundTrip.mstat RoundTrip.ginfo RoundTrip.gbind RoundTrip.xbind
    RoundTrip.xpermit RoundTrip.xsend RoundTrip.xstat RoundTrip.fbulk RoundTrip.fstat RoundTrip.vcost RoundTrip.vtest RoundTrip.umovs
    RoundTrip.umovt RoundTrip.event RoundTrip.tmark RoundTrip.dispatch RoundTrip.lease RoundTrip.carve RoundTrip.ctxsave
    RoundTrip.ctxload RoundTrip.tlbinv RoundTrip.keyset RoundTrip.splitPark RoundTrip.stackFill RoundTrip.yieldExpiry
    RoundTrip.scratchResult RoundTrip.takeValue RoundTrip.leave RoundTrip.propagationArrive RoundTrip.drop RoundTrip.atomicStep
    RoundTrip.engineAccess RoundTrip.faultResponseDoorbell RoundTrip.faultAnswerFirmware RoundTrip.replicaStamp RoundTrip.replicaApply
    RoundTrip.mstreamPassRun RoundTrip.mloadRun RoundTrip.slotZeroing RoundTrip.epiRun RoundTrip.amovRun RoundTrip.tceLanding
    RoundTrip.tcopyComplete RoundTrip.walkVisit RoundTrip.serviceGroupForm RoundTrip.serviceGroupTimeout RoundTrip.routineReturn
    RoundTrip.tvcutComplete RoundTrip.galleyReservation RoundTrip.galleyPublish RoundTrip.galleyOpComplete RoundTrip.galleyConsumerLaunch
    RoundTrip.galleyConsumerTimer RoundTrip.xsendLanding RoundTrip.grantSend RoundTrip.permitGrant RoundTrip.fbulkLanding
    RoundTrip.fbulkComplete RoundTrip.branchBlocked RoundTrip.fabricMessageReceive RoundTrip.fabricLink RoundTrip.hostAccess
    RoundTrip.registerWrite RoundTrip.featctlCommit RoundTrip.ctxcmdVacate RoundTrip.ctxcmdResume RoundTrip.ctxcmdEnd
    RoundTrip.partcmdApply RoundTrip.dbgcmdHalt RoundTrip.dbgcmdResume RoundTrip.dbgcmdStep RoundTrip.dbgcmdAttach RoundTrip.dbgcmdDetach
    RoundTrip.errcntClear RoundTrip.queueTailDoorbell RoundTrip.eventHeadDoorbell RoundTrip.packetNop RoundTrip.packetLaunch
    RoundTrip.packetBarrier RoundTrip.packetCopy RoundTrip.packetSignalSet RoundTrip.packetSignalAdd RoundTrip.packetChain
    RoundTrip.packetEvent RoundTrip.packetComplete RoundTrip.barrierTest RoundTrip.progressPublish RoundTrip.blockClaim
    RoundTrip.instanceStart RoundTrip.rowFree RoundTrip.blockComplete RoundTrip.blkmaxOverrun RoundTrip.channelPriorityHold
    RoundTrip.blockSave RoundTrip.blockModeFinished RoundTrip.ctxloadComplete RoundTrip.tlbinvComplete RoundTrip.traceUnitWrite
    RoundTrip.sample RoundTrip.packageReset RoundTrip.reducedServiceStart RoundTrip.fullServiceStart RoundTrip.ageingPlanRaise
    RoundTrip.periodChange RoundTrip.dieFailure RoundTrip.correctedError RoundTrip.uncorrectedError RoundTrip.firmwareImage
    RoundTrip.liveHandover RoundTrip.measurements RoundTrip.illegalOp RoundTrip.heldUniformResult RoundTrip.trainingComplete
    RoundTrip.fabricLinkUp RoundTrip.linkLevelRetry

/-- Settles O55: `RoundTrip.Statement` is what the statement says of one instruction. -/
theorem encodedWordsDecode : Obligations.EncodedWordsDecode := roundTrip

/-- Settles O54: each word is decoded as it stands. -/
theorem decodeWords : Obligations.DecodeWords := by
  unfold Obligations.DecodeWords
  decide

end Sys2Proof.Encoding
end

section
/-! Proofs: the word that a decoded instruction has (O56). A decoder is a ladder of rows, each with its test of the fields that hold
codes. A row reads back what it decodes because the tested fields and the operand fields make up the whole word (`lane_word`,
`uniform_word`, `fld_append`), so that the encoder, which adds the same fields, gives the word again. The rows are proved a format at a time
(09 R102, R108). -/
namespace Sys2Proof.Encoding

open Laws

/-- What a decoder of groups that are no service groups reads from the word `w`, if anything, exists there and has `w` for its word. -/
def ReadsBack (w : Nat) (r : Option Instr) : Prop := ∀ i, r = some i → encodeNat i = some w ∧ belongs false i = true

section
variable {w : Nat}

theorem readsBack_none : ReadsBack w none := nofun

theorem readsBack_some {i : Instr} : ReadsBack w (some i) ↔ encodeNat i = some w ∧ belongs false i = true := by simp [ReadsBack]

/-- A row of a decoder's ladder. -/
theorem ReadsBack.row {c : Prop} [Decidable c] {a r : Option Instr} (ha : c → ReadsBack w a) (hr : ReadsBack w r) :
    ReadsBack w (if c then a else r) := by
  split
  next hc => exact ha hc
  next => exact hr

/-- A row whose instruction holds a code that may be reserved. -/
theorem ReadsBack.coded {α : Type} {o : Option α} {code : α → Nat} {n : Nat} {f : α → Option Instr}
    (ho : ∀ a, o = some a → code a = n) (hf : ∀ a, code a = n → ReadsBack w (f a)) : ReadsBack w (o.bind f) := by
  cases o with
  | none => exact readsBack_none
  | some a => exact hf a (ho a rfl)

/-! The fields of a word. -/

theorem fld_lt (w lo n : Nat) : fld w lo n < 2 ^ n := Nat.mod_lt _ (Nat.two_pow_pos n)

theorem val_fin_fld {m n : Nat} [NeZero m] (lo : Nat) (h : m = 2 ^ n) : (fin m (fld w lo n)).val = fld w lo n :=
  Nat.mod_eq_of_lt (h ▸ fld_lt w lo n)

theorem toNat_ofNat_fld (lo n : Nat) : (BitVec.ofNat n (fld w lo n)).toNat = fld w lo n := by
  rw [BitVec.toNat_ofNat, Nat.mod_eq_of_lt (fld_lt w lo n)]

/-- A field is its low part and its high part. -/
theorem fld_append (w lo n k : Nat) : fld w lo n + 2 ^ n * fld w (lo + n) k = fld w lo (n + k) := by
  rw [fld, fld, fld, Nat.pow_add 2 lo n, ← Nat.div_div_eq_div_mul, Nat.pow_add 2 n k, Nat.mod_mul]

/-- Bits [25:0] and the six of SET and MAJOR make up a word. -/
theorem word_split (hw : w < 2 ^ 32) : fld w 0 26 + 67108864 * fld w 26 6 = w := by
  have h : fld w 0 26 + 67108864 * fld w 26 6 = fld w 0 32 := fld_append w 0 26 6
  rw [h, fld, Nat.pow_zero, Nat.div_one, Nat.mod_eq_of_lt hw]

/-- The fields k, vd and va of the lane-set formats, and the low 9 bits (09 R102). -/
theorem lane_word (hw : w < 2 ^ 32) :
    fld w 0 9 + fld w 9 7 * 512 + fld w 16 7 * 65536 + fld w 23 3 * 8388608 + fld w 26 6 * 67108864 = w := by
  have h1 : fld w 0 9 + 512 * fld w 9 7 = fld w 0 16 := fld_append w 0 9 7
  have h2 : fld w 0 16 + 65536 * fld w 16 7 = fld w 0 23 := fld_append w 0 16 7
  have h3 : fld w 0 23 + 8388608 * fld w 23 3 = fld w 0 26 := fld_append w 0 23 3
  have h4 := word_split hw
  omega

/-- The fields gd and ga of the formats UR and UI, and the low 14 bits (09 R108). -/
theorem uniform_word (hw : w < 2 ^ 32) :
    fld w 0 14 + fld w 14 6 * 16384 + fld w 20 6 * 1048576 + fld w 26 6 * 67108864 = w := by
  have h1 : fld w 0 14 + 16384 * fld w 14 6 = fld w 0 20 := fld_append w 0 14 6
  have h2 : fld w 0 20 + 1048576 * fld w 20 6 = fld w 0 26 := fld_append w 0 20 6
  have h3 := word_split hw
  omega

/-! The codes of the conditions, types, modes and scopes. -/

theorem ICond_code_of_ofCode {n : Nat} (c : ICond) (h : ICond.ofCode n = some c) : c.code = n := by
  unfold ICond.ofCode at h
  split at h <;> cases h <;> rfl

theorem FCond_code_of_ofCode {n : Nat} (c : FCond) (h : FCond.ofCode n = some c) : c.code = n := by
  unfold FCond.ofCode at h
  split at h <;> cases h <;> rfl

theorem IType_code_of_ofCode {n : Nat} (c : IType) (h : IType.ofCode n = some c) : c.code = n := by
  unfold IType.ofCode at h
  split at h <;> cases h <;> rfl

theorem FType_code_of_ofCode {n : Nat} (c : FType) (h : FType.ofCode n = some c) : c.code = n := by
  unfold FType.ofCode at h
  split at h <;> cases h <;> rfl

theorem RMode_code_of_ofCode {n : Nat} (c : RMode) (h : RMode.ofCode n = some c) : c.code = n := by
  unfold RMode.ofCode at h
  split at h <;> cases h <;> rfl

theorem MType_code_of_ofCode {n : Nat} (c : MType) (h : MType.ofCode n = some c) : c.code = n := by
  unfold MType.ofCode at h
  split at h <;> cases h <;> rfl

theorem AtomOp_code_of_ofCode {n : Nat} (c : AtomOp) (h : AtomOp.ofCode n = some c) : c.code = n := by
  unfold AtomOp.ofCode at h
  split at h <;> cases h <;> rfl

theorem SzCode_code_of_ofCode {n : Nat} (c : SzCode) (h : SzCode.ofCode n = some c) : c.code = n := by
  unfold SzCode.ofCode at h
  split at h <;> cases h <;> rfl

theorem BCond_code_of_ofCode {n : Nat} (c : BCond) (h : BCond.ofCode n = some c) : c.code = n := by
  unfold BCond.ofCode at h
  split at h <;> cases h <;> rfl

theorem Gate_code_of_ofCode {n : Nat} (c : Gate) (h : Gate.ofCode n = some c) : c.code = n := by
  unfold Gate.ofCode at h
  split at h <;> cases h <;> rfl

theorem Scope_code_of_ofCode {n : Nat} (c : Scope) (h : Scope.ofCode n = some c) : c.code = n := by
  unfold Scope.ofCode at h
  split at h <;> cases h <;> rfl

/-! The decoders of the majors, by their format. -/

/-- Decoders with their majors, each of which reads back the words of its major. -/
def MajorsReadBack (w : Nat) (ds : List (Nat × (Nat → Option Instr))) : Prop := ∀ p ∈ ds, fld w 26 6 = p.1 → ReadsBack w (p.2 w)

/-- The majors of format LR with three registers and fn. -/
def registerMajors : List (Nat × (Nat → Option Instr)) :=
  [(1, decodeMajor1), (3, decodeMajor3), (4, decodeMajor4), (5, decodeMajor5), (7, decodeMajor7), (9, decodeMajor9), (10, decodeMajor10),
   (23, decodeMajor23)]

theorem registerMajors_readBack (hw : w < 2 ^ 32) : MajorsReadBack w registerMajors := by
  have hword := lane_word hw
  have hlow : fld w 0 2 + 4 * fld w 2 7 = fld w 0 9 := fld_append w 0 2 7
  simp only [MajorsReadBack, registerMajors, List.forall_mem_cons, decodeMajor1, decodeMajor3, decodeMajor4, decodeMajor5, decodeMajor7,
    decodeMajor9, decodeMajor10, decodeMajor23]
  refine ⟨?_, ?_, ?_, ?_, ?_, ?_, ?_, ?_, fun _ hp => nomatch hp⟩ <;> intro hm
  all_goals
    repeat' apply ReadsBack.row
    all_goals simp only [readsBack_none, readsBack_some, encodeNat, belongs, val_fin_fld, Nat.reducePow, Option.some.injEq, and_true]
    all_goals omega

/-- BITS and MOVE: format LR, where va or vb may be a field that is not used. -/
def moveMajors : List (Nat × (Nat → Option Instr)) := [(6, decodeMajor6), (11, decodeMajor11)]

theorem moveMajors_readBack (hw : w < 2 ^ 32) : MajorsReadBack w moveMajors := by
  have hword := lane_word hw
  have hlow : fld w 0 2 + 4 * fld w 2 7 = fld w 0 9 := fld_append w 0 2 7
  have hva : fld w 0 9 + 512 * fld w 9 7 = fld w 0 16 := fld_append w 0 9 7
  simp only [MajorsReadBack, moveMajors, List.forall_mem_cons, decodeMajor6, decodeMajor11]
  refine ⟨?_, ?_, fun _ hp => nomatch hp⟩ <;> intro hm
  all_goals
    repeat' apply ReadsBack.row
    all_goals simp only [readsBack_none, readsBack_some, encodeNat, belongs, val_fin_fld, Nat.reducePow, Option.some.injEq, and_true]
    all_goals omega

/-- The floating majors of format LR, whose fn is a type. -/
def floatMajors : List (Nat × (Nat → Option Instr)) :=
  [(14, decodeMajor14), (15, decodeMajor15), (16, decodeMajor16), (17, decodeMajor17), (18, decodeMajor18), (19, decodeMajor19)]

theorem floatMajors_readBack (hw : w < 2 ^ 32) : MajorsReadBack w floatMajors := by
  have hword := lane_word hw
  have hlow : fld w 0 2 + 4 * fld w 2 7 = fld w 0 9 := fld_append w 0 2 7
  simp only [MajorsReadBack, floatMajors, List.forall_mem_cons, decodeMajor14, decodeMajor15, decodeMajor16, decodeMajor17, decodeMajor18,
    decodeMajor19]
  refine ⟨?_, ?_, ?_, ?_, ?_, ?_, fun _ hp => nomatch hp⟩ <;> intro hm
  all_goals
    refine .coded FType_code_of_ofCode fun t ht => ?_
    simp only [readsBack_some, encodeNat, belongs, val_fin_fld, Nat.reducePow, Option.some.injEq, and_true]
    omega

/-- ICMP, FCMP and CVT: format LR, with vd or vb split or taken for a code. -/
def compareMajors : List (Nat × (Nat → Option Instr)) := [(8, decodeMajor8), (20, decodeMajor20), (21, decodeMajor21)]

theorem compareMajors_readBack (hw : w < 2 ^ 32) : MajorsReadBack w compareMajors := by
  have hword := lane_word hw
  have hlow : fld w 0 2 + 4 * fld w 2 7 = fld w 0 9 := fld_append w 0 2 7
  have hvd : fld w 16 3 + 8 * fld w 19 4 = fld w 16 7 := fld_append w 16 3 4
  simp only [MajorsReadBack, compareMajors, List.forall_mem_cons, decodeMajor8, decodeMajor20, decodeMajor21]
  refine ⟨fun hm => ?_, fun hm => ?_, fun hm => ?_, fun _ hp => nomatch hp⟩
  · refine .coded ICond_code_of_ofCode fun c hc => .coded IType_code_of_ofCode fun t ht => ?_
    simp only [readsBack_some, encodeNat, belongs, val_fin_fld, Nat.reducePow, Option.some.injEq, and_true]
    omega
  · refine .coded FCond_code_of_ofCode fun c hc => .coded FType_code_of_ofCode fun t ht => ?_
    simp only [readsBack_some, encodeNat, belongs, val_fin_fld, Nat.reducePow, Option.some.injEq, and_true]
    omega
  · refine .coded RMode_code_of_ofCode fun m hc => ?_
    simp only [readsBack_some, encodeNat, belongs, val_fin_fld, Nat.reducePow, Option.some.injEq, and_true]
    omega

/-- The majors of format LG. -/
def laneUniformMajors : List (Nat × (Nat → Option Instr)) := [(12, decodeMajor12), (13, decodeMajor13)]

theorem laneUniformMajors_readBack (hw : w < 2 ^ 32) : MajorsReadBack w laneUniformMajors := by
  have hword := lane_word hw
  have hlow : fld w 0 3 + 8 * fld w 3 6 = fld w 0 9 := fld_append w 0 3 6
  simp only [MajorsReadBack, laneUniformMajors, List.forall_mem_cons, decodeMajor12, decodeMajor13]
  refine ⟨?_, ?_, fun _ hp => nomatch hp⟩ <;> intro hm
  all_goals
    repeat' apply ReadsBack.row
    all_goals simp only [readsBack_none, readsBack_some, encodeNat, belongs, val_fin_fld, Nat.reducePow, Option.some.injEq, and_true]
    all_goals omega

/-- The majors of format LM. -/
def memoryMajors : List (Nat × (Nat → Option Instr)) :=
  [(24, decodeMajor24), (25, decodeMajor25), (26, decodeMajor26), (27, decodeMajor27), (2, decodeMajor2), (28, decodeMajor28),
   (29, decodeMajor29)]

theorem memoryMajors_readBack (hw : w < 2 ^ 32) : MajorsReadBack w memoryMajors := by
  have hword := lane_word hw
  have hlow : fld w 0 6 + 64 * fld w 6 3 = fld w 0 9 := fld_append w 0 6 3
  have hla : fld w 0 4 + 16 * fld w 4 2 = fld w 0 6 := fld_append w 0 4 2
  simp only [MajorsReadBack, memoryMajors, List.forall_mem_cons, decodeMajor24, decodeMajor25, decodeMajor26, decodeMajor27, decodeMajor2,
    decodeMajor28, decodeMajor29]
  refine ⟨?_, ?_, ?_, ?_, ?_, ?_, ?_, fun _ hp => nomatch hp⟩ <;> intro hm
  all_goals
    repeat' apply ReadsBack.row
    all_goals simp only [readsBack_none, readsBack_some, encodeNat, belongs, val_fin_fld, Nat.reducePow, Option.some.injEq, and_true]
    all_goals omega

/-- XFN, MSTREAM and ASYNC: the formats LXF, LMS and LQ. -/
def queuedMajors : List (Nat × (Nat → Option Instr)) := [(22, decodeMajor22), (30, decodeMajor30), (31, decodeMajor31)]

theorem queuedMajors_readBack (hw : w < 2 ^ 32) : MajorsReadBack w queuedMajors := by
  have hword := lane_word hw
  have hlow : fld w 0 4 + 16 * fld w 4 5 = fld w 0 9 := fld_append w 0 4 5
  have hrel : fld w 0 2 + 4 * fld w 2 7 = fld w 0 9 := fld_append w 0 2 7
  simp only [MajorsReadBack, queuedMajors, List.forall_mem_cons, decodeMajor22, decodeMajor30, decodeMajor31]
  refine ⟨fun hm => ?_, fun hm => .coded MType_code_of_ofCode fun t ht => ?_, fun hm => ?_, fun _ hp => nomatch hp⟩
  · repeat' apply ReadsBack.row
    all_goals simp only [readsBack_none, readsBack_some, encodeNat, belongs, val_fin_fld, Nat.reducePow, Option.some.injEq, and_true]
    all_goals omega
  · simp only [readsBack_some, encodeNat, belongs, val_fin_fld, Nat.reducePow, Option.some.injEq, and_true]
    omega
  · refine .row ?_ (.row ?_ (.row (fun hsub => .coded AtomOp_code_of_ofCode fun o ho => ?_) (.row ?_ (.row ?_ (.row ?_ (.row ?_ (.row ?_
      (.row ?_ (.row (fun hsub => .coded SzCode_code_of_ofCode fun z hz => ?_) readsBack_none)))))))))
    all_goals simp only [readsBack_some, encodeNat, belongs, Bool.not_false, val_fin_fld, Nat.reducePow, Option.some.injEq, and_true]
    all_goals omega

/-- UADDI, UANDI, UORI, UXORI and USHLI: format UI. -/
def immediateMajors : List (Nat × (Nat → Option Instr)) :=
  [(34, decodeMajor34), (36, decodeMajor36), (37, decodeMajor37), (38, decodeMajor38), (39, decodeMajor39)]

theorem immediateMajors_readBack (hw : w < 2 ^ 32) : MajorsReadBack w immediateMajors := by
  have hword := uniform_word hw
  have hcount : fld w 0 6 + 64 * fld w 6 8 = fld w 0 14 := fld_append w 0 6 8
  simp only [MajorsReadBack, immediateMajors, List.forall_mem_cons, decodeMajor34, decodeMajor36, decodeMajor37, decodeMajor38, decodeMajor39]
  refine ⟨?_, ?_, ?_, ?_, fun hm => .row ?_ readsBack_none, fun _ hp => nomatch hp⟩
  all_goals
    simp only [readsBack_some, encodeNat, belongs, val_fin_fld, toNat_ofNat_fld, Nat.reducePow, Option.some.injEq, and_true]
    omega

/-- UHI, BR, BRD, CALL and PJOIN: the formats UH, UB, UD and UJ. -/
def branchMajors : List (Nat × (Nat → Option Instr)) :=
  [(35, decodeMajor35), (40, decodeMajor40), (41, decodeMajor41), (42, decodeMajor42), (45, decodeMajor45)]

theorem branchMajors_readBack (hw : w < 2 ^ 32) : MajorsReadBack w branchMajors := by
  have hword := word_split hw
  have hgd : fld w 0 20 + 1048576 * fld w 20 6 = fld w 0 26 := fld_append w 0 20 6
  have hga : fld w 0 16 + 65536 * fld w 16 6 = fld w 0 22 := fld_append w 0 16 6
  have hcond : fld w 0 22 + 4194304 * fld w 22 4 = fld w 0 26 := fld_append w 0 22 4
  have hinv : fld w 22 1 + 2 * fld w 23 3 = fld w 22 4 := fld_append w 22 1 3
  simp only [MajorsReadBack, branchMajors, List.forall_mem_cons, decodeMajor35, decodeMajor40, decodeMajor41, decodeMajor42, decodeMajor45]
  refine ⟨?_, fun hm => .coded BCond_code_of_ofCode fun c hc => ?_, ?_, ?_, ?_, fun _ hp => nomatch hp⟩
  all_goals
    simp only [readsBack_some, encodeNat, belongs, val_fin_fld, toNat_ofNat_fld, Nat.reducePow, Option.some.injEq, and_true]
    omega

/-- The majors of format UR whose rows leave fields unused only below ga, and those of format UL. -/
def uniformMajors : List (Nat × (Nat → Option Instr)) :=
  [(33, decodeMajor33), (49, decodeMajor49), (51, decodeMajor51), (54, decodeMajor54), (56, decodeMajor56), (57, decodeMajor57)]

theorem uniformMajors_readBack (hw : w < 2 ^ 32) : MajorsReadBack w uniformMajors := by
  have hword := uniform_word hw
  have hgb : fld w 0 8 + 256 * fld w 8 6 = fld w 0 14 := fld_append w 0 8 6
  have hga : fld w 0 14 + 16384 * fld w 14 6 = fld w 0 20 := fld_append w 0 14 6
  have hva : fld w 0 13 + 8192 * fld w 13 7 = fld w 0 20 := fld_append w 0 13 7
  have hlane : fld w 0 7 + 128 * fld w 7 6 = fld w 0 13 := fld_append w 0 7 6
  have hport : fld w 0 16 + 65536 * fld w 16 4 = fld w 0 20 := fld_append w 0 16 4
  simp only [MajorsReadBack, uniformMajors, List.forall_mem_cons, decodeMajor33, decodeMajor49, decodeMajor51, decodeMajor54, decodeMajor56,
    decodeMajor57]
  refine ⟨?_, ?_, ?_, ?_, ?_, ?_, fun _ hp => nomatch hp⟩ <;> intro hm
  all_goals
    repeat' apply ReadsBack.row
    all_goals simp only [readsBack_none, readsBack_some, encodeNat, belongs, val_fin_fld, Nat.reducePow, Option.some.injEq, and_true]
    all_goals omega

/-- The majors of format UR whose rows leave gd or ga unused. -/
def controlMajors : List (Nat × (Nat → Option Instr)) :=
  [(43, decodeMajor43), (44, decodeMajor44), (48, decodeMajor48), (50, decodeMajor50), (53, decodeMajor53), (55, decodeMajor55),
   (58, decodeMajor58), (59, decodeMajor59)]

theorem controlMajors_readBack (hw : w < 2 ^ 32) : MajorsReadBack w controlMajors := by
  have hword := uniform_word hw
  have hsplit := word_split hw
  have hgb : fld w 0 8 + 256 * fld w 8 6 = fld w 0 14 := fld_append w 0 8 6
  have hga : fld w 0 14 + 16384 * fld w 14 6 = fld w 0 20 := fld_append w 0 14 6
  have hgd : fld w 14 6 + 64 * fld w 20 6 = fld w 14 12 := fld_append w 14 6 6
  simp only [MajorsReadBack, controlMajors, List.forall_mem_cons, decodeMajor43, decodeMajor44, decodeMajor48, decodeMajor50, decodeMajor53,
    decodeMajor55, decodeMajor58, decodeMajor59]
  refine ⟨?_, ?_, ?_, ?_, ?_, ?_, ?_, ?_, fun _ hp => nomatch hp⟩ <;> intro hm
  all_goals
    repeat' apply ReadsBack.row
    all_goals simp only [readsBack_none, readsBack_some, encodeNat, belongs, val_fin_fld, Nat.reducePow, Option.some.injEq, and_true]
    all_goals omega

/-- UMASK: format UR, with mask registers in the low bits of its fields. -/
def maskMajors : List (Nat × (Nat → Option Instr)) := [(52, decodeMajor52)]

theorem maskMajors_readBack (hw : w < 2 ^ 32) : MajorsReadBack w maskMajors := by
  have hword := uniform_word hw
  have hgb : fld w 0 8 + 256 * fld w 8 6 = fld w 0 14 := fld_append w 0 8 6
  have hkb : fld w 8 3 + 8 * fld w 11 3 = fld w 8 6 := fld_append w 8 3 3
  have hka : fld w 14 3 + 8 * fld w 17 3 = fld w 14 6 := fld_append w 14 3 3
  have hkd : fld w 20 3 + 8 * fld w 23 3 = fld w 20 6 := fld_append w 20 3 3
  simp only [MajorsReadBack, maskMajors, List.forall_mem_cons, decodeMajor52]
  refine ⟨fun hm => ?_, fun _ hp => nomatch hp⟩
  repeat' apply ReadsBack.row
  all_goals simp only [readsBack_none, readsBack_some, encodeNat, belongs, val_fin_fld, Nat.reducePow, Option.some.injEq, and_true]
  all_goals omega

/-- FENCES and WAIT: format UR, with a scope or a gate in the low bits of fn. -/
def waitMajors : List (Nat × (Nat → Option Instr)) := [(46, decodeMajor46), (47, decodeMajor47)]

theorem waitMajors_readBack (hw : w < 2 ^ 32) : MajorsReadBack w waitMajors := by
  have hword := uniform_word hw
  have hsplit := word_split hw
  have hgd : fld w 0 20 + 1048576 * fld w 20 6 = fld w 0 26 := fld_append w 0 20 6
  have hgb : fld w 0 8 + 256 * fld w 8 6 = fld w 0 14 := fld_append w 0 8 6
  have hscope : fld w 0 3 + 8 * fld w 3 23 = fld w 0 26 := fld_append w 0 3 23
  have hgate : fld w 0 3 + 8 * fld w 3 11 = fld w 0 14 := fld_append w 0 3 11
  simp only [MajorsReadBack, waitMajors, List.forall_mem_cons, decodeMajor46, decodeMajor47]
  refine ⟨fun hm => .row ?_ (.row ?_ (.row ?_ (.row ?_ (.row ?_ (.row (fun h => .coded Scope_code_of_ofCode fun c hc => ?_)
    (.row (fun h => .coded Scope_code_of_ofCode fun c hc => ?_) (.row (fun h => .coded Scope_code_of_ofCode fun c hc => ?_)
    readsBack_none))))))),
    fun hm => .row (fun h => .coded Gate_code_of_ofCode fun g hg => ?_) (.row ?_ readsBack_none), fun _ hp => nomatch hp⟩
  all_goals simp only [readsBack_some, encodeNat, belongs, val_fin_fld, Nat.reducePow, Option.some.injEq, and_true]
  all_goals omega

/-- The decoders of all majors. -/
def majors : List (Nat × (Nat → Option Instr)) :=
  registerMajors ++ moveMajors ++ floatMajors ++ compareMajors ++ laneUniformMajors ++ memoryMajors ++ queuedMajors ++ immediateMajors
    ++ branchMajors ++ uniformMajors ++ controlMajors ++ maskMajors ++ waitMajors

theorem majors_readBack (hw : w < 2 ^ 32) : MajorsReadBack w majors := by
  simp only [MajorsReadBack, majors, List.forall_mem_append, and_assoc]
  exact ⟨registerMajors_readBack hw, moveMajors_readBack hw, floatMajors_readBack hw, compareMajors_readBack hw,
    laneUniformMajors_readBack hw, memoryMajors_readBack hw, queuedMajors_readBack hw, immediateMajors_readBack hw, branchMajors_readBack hw,
    uniformMajors_readBack hw, controlMajors_readBack hw, maskMajors_readBack hw, waitMajors_readBack hw⟩

/-- A word is decoded by the decoder of its major, or to no instruction. -/
theorem decodeRaw_major (w : Nat) : decodeRaw w = none ∨ ∃ m d, (m, d) ∈ majors ∧ fld w 26 6 = m ∧ decodeRaw w = d w := by
  unfold decodeRaw
  split
  case h_59 => exact .inl rfl
  all_goals
    next h =>
      refine .inr ⟨_, _, ?_, h, rfl⟩
      simp [majors, registerMajors, moveMajors, floatMajors, compareMajors, laneUniformMajors, memoryMajors, queuedMajors, immediateMajors,
        branchMajors, uniformMajors, controlMajors, maskMajors, waitMajors]

theorem decodeRaw_readsBack (hw : w < 2 ^ 32) : ReadsBack w (decodeRaw w) := by
  rcases decodeRaw_major w with h | ⟨m, d, hd, hm, h⟩
  · exact h ▸ readsBack_none
  · exact h ▸ majors_readBack hw (m, d) hd hm

/-! ASYNC sub 4, which is TVCUT outside service groups and TVRET in them (22 R294). -/

theorem tvcut_fields {k : KReg} {d a : VReg} (h : encodeNat (.tvcut k d a) = some w) : fld w 26 6 = 31 ∧ fld w 4 5 = 4 := by
  obtain ⟨-, hm, -, -, -, hlow⟩ := shape1 (m := 31) (c0 := 64) rfl (Option.some.inj h).symm (by decide) (by decide) k.isLt d.isLt a.isLt
  have hsub : fld w 0 4 + 16 * fld w 4 5 = fld w 0 9 := fld_append w 0 4 5
  have haux := fld_lt w 0 4
  exact ⟨hm, by omega⟩

theorem decodeTvret_readsBack (hw : w < 2 ^ 32) (hm : fld w 26 6 = 31) {i : Instr} (h : decodeTvret w = some i) :
    encodeNat i = some w ∧ belongs true i = true := by
  have hword := lane_word hw
  unfold decodeTvret at h
  split at h
  next hzero =>
    cases h
    simp only [encodeNat, belongs, val_fin_fld, Nat.reducePow, Option.some.injEq, and_true]
    omega
  next => exact nomatch h

/-- What a group's decoder reads from a word exists in the group and has the word for its word. -/
theorem read_belongs {svc : Bool} (hw : w < 2 ^ 32) {i : Instr}
    (h : (if svc ∧ fld w 26 6 = 31 ∧ fld w 4 5 = 4 then decodeTvret w else decodeRaw w) = some i) :
    encodeNat i = some w ∧ belongs svc i = true := by
  split at h
  next hret =>
    obtain ⟨rfl, hm, -⟩ := hret
    exact decodeTvret_readsBack hw hm h
  next hret =>
    obtain ⟨he, hb⟩ := decodeRaw_readsBack hw i h
    refine ⟨he, ?_⟩
    cases svc with
    | false => exact hb
    | true =>
      unfold belongs
      split
      next => exact absurd ⟨rfl, tvcut_fields he⟩ hret
      all_goals rfl

theorem encode_toNat {i : Instr} {v : Word} (h : encodeNat i = some v.toNat) : encode i = some v := by
  simp [encode, h]

end

/-- Settles O56: a word that a decoder reads is read back (`read_belongs`), and the operand checks are the decoder's own. -/
theorem decodedWordsEncode : Obligations.DecodedWordsEncode := by
  intro svc v i h
  simp only [decode] at h
  split at h
  next => exact nomatch h
  next j hj =>
    split at h
    next hwf =>
      cases h
      obtain ⟨he, hb⟩ := read_belongs v.isLt hj
      exact ⟨hwf, hb, encode_toNat he⟩
    next => exact nomatch h

end Sys2Proof.Encoding
end

section
/-! Proofs: reads of system registers, and the vacate queries (O12). -/
namespace Sys2Proof.Machine

section
variable {s : State} {w : Issuer} (h : Issues s w)
include h

theorem umovs_result {d : GReg} {r : Fin 64} (hr : r.val < 36) : UniResult s w (.umovs d r) d (sysReg s w (ctxOf s w) r.val) :=
  uniResult_of h.1 ((exec_umovs d r s).trans (uniIssue_acts h (by simpa [wellFormed] using hr) (by simp) (by simp) _ _))

theorem vcost_result (d a b : GReg) : UniResult s w (.vcost d a b) d (vcostOf s ((uniG s w a).toNat % 256) (uniG s w b).toNat) :=
  uniResult_of h.1 ((exec_vcost d a b s).trans (uniIssue_acts h rfl (by simp) (by simp) _ _))

theorem vtest_result (d a b : GReg) : UniResult s w (.vtest d a b) d (vtestOf s w ((uniG s w a).toNat % 256) (uniG s w b).toNat) :=
  uniResult_of h.1 ((exec_vtest d a b s).trans (uniIssue_acts h rfl (by simp) (by simp) _ _))

end

theorem ctxOf_eq {s : State} {w : Issuer} {x : Ctx} (hx : s.ctx? w.g.ctx = some x) : ctxOf s w = x := by simp [ctxOf, hx]

/-- The levels of a launch stand in the registers from 4 (03 R50). -/
theorem sysReg_level (s : State) (w : Issuer) (x : Ctx) {i : Nat} (hi : i < 8) :
    sysReg s w x (4 + i) = BitVec.ofNat 64 (lvlOf w.g i) := by
  interval_cases i <;> rfl

/-- The registers of the statement hold its values, and exist. -/
theorem systemValues_sysReg (s : State) (w : Issuer) (x : Ctx) : ∀ p ∈ systemValues s w x, p.1.val < 36 ∧ sysReg s w x p.1.val = p.2 := by
  intro p hp
  rw [systemValues, List.mem_append, List.mem_append] at hp
  rcases hp with (hp | hp) | hp
  · fin_cases hp <;> exact ⟨Nat.le_of_ble_eq_true rfl, rfl⟩
  · obtain ⟨i, hi, rfl⟩ := List.mem_map.mp hp
    rw [List.mem_range] at hi
    have hval : (Fin.ofNat 64 (4 + i)).val = 4 + i := Nat.mod_eq_of_lt (by omega)
    dsimp only
    rw [hval]
    refine ⟨by omega, ?_⟩
    rw [sysReg_level s w x hi, lvlOf]
    cases w.g.levels[i]? <;> rfl
  · fin_cases hp <;> exact ⟨Nat.le_of_ble_eq_true rfl, rfl⟩

/-- A vacate register is read as it stood in one of the cycles that the model keeps (18 R250). -/
theorem sysReg_vacate (s : State) (w : Issuer) (x : Ctx) {r : Nat} (hlow : 14 ≤ r) (hhigh : r ≤ 21) :
    ∃ v ∈ vacateRegs s x :: x.vpast, sysReg s w x r = BitVec.ofNat 64 (v.getD (r - 14) 0) := by
  have hlt : Config.freeNat s.free % (vacateRegs s x :: x.vpast).length < (vacateRegs s x :: x.vpast).length := Nat.mod_lt _ (by simp)
  have hread : sysReg s w x r = BitVec.ofNat 64 (readVacate s x (r - 14)) := by
    interval_cases r <;> rfl
  refine ⟨_, List.getElem_mem hlt, ?_⟩
  rw [hread, readVacate, List.getD_eq_getElem _ _ hlt]

/-- Settles O12: what each instruction answers is `sysReg`, `vcostOf` or `vtestOf`, which give what the statement says. -/
theorem systemReadsAndQueries : Obligations.SystemReadsAndQueries := by
  intro s w x d a b h hx
  have hctx := ctxOf_eq hx
  refine ⟨fun p hp => ?_, fun r hlow hhigh => ?_, vcost_result h d a b, fun hc => ?_, fun hc hgo => ?_, fun k hc hhold => ?_, fun hc htrap => ?_⟩
  · obtain ⟨hlt, hvalue⟩ := systemValues_sysReg s w x p hp
    exact hvalue ▸ hctx ▸ umovs_result h hlt
  · obtain ⟨v, hv, hvalue⟩ := sysReg_vacate s w x hlow hhigh
    exact ⟨v, hv, hvalue ▸ hctx ▸ umovs_result h (by omega)⟩
  · have hanswer : vtestOf s w ((uniG s w a).toNat % 256) (uniG s w b).toNat = BitVec.allOnes 64 := if_pos hc
    exact hanswer ▸ vtest_result h d a b
  · have hanswer : vtestOf s w ((uniG s w a).toNat % 256) (uniG s w b).toNat = 0 := by rw [vtestOf, if_neg (Nat.not_lt.mpr hc), hgo]
    exact hanswer ▸ vtest_result h d a b
  · have hanswer : vtestOf s w ((uniG s w a).toNat % 256) (uniG s w b).toNat = 1 := by rw [vtestOf, if_neg (Nat.not_lt.mpr hc), hhold]
    exact hanswer ▸ vtest_result h d a b
  · have hanswer : vtestOf s w ((uniG s w a).toNat % 256) (uniG s w b).toNat = 2 := by rw [vtestOf, if_neg (Nat.not_lt.mpr hc), htrap]
    exact hanswer ▸ vtest_result h d a b

end Sys2Proof.Machine
end

section
/-! Proofs: branches with a whole split, calls, jumps and returns (O14). -/
namespace Sys2Proof.Machine

theorem targetOk_of {t : Int} (h0 : 0 ≤ t) (h1 : t ≤ 2 ^ 57 - 4) : targetOk t = true := decide_eq_true ⟨h0, h1⟩

theorem toTarget_goes {s : State} {w : Issuer} {t : Int} (h0 : 0 ≤ t) (h1 : t ≤ 2 ^ 57 - 4) (go : PC → State) :
    toTarget s w t go = go (BitVec.ofInt 57 t) := if_pos (targetOk_of h0 h1)

theorem toRegister_goes {s : State} {w : Issuer} {v : DWord} (halign : v.toNat % 4 = 0) (hlow : v.toNat < 2 ^ 57) (go : PC → State) :
    toRegister s w v go = go (v.setWidth 57) := by
  have hva : highVa v.toNat = false := decide_eq_false (Nat.not_le.mpr hlow)
  rw [toRegister, if_neg (not_not_intro halign), hva]
  rfl

/-- A jump to an address moves the split there; its trace event changes nothing (29 R377). -/
theorem jumpTo_goesOn {s : State} {w : Issuer} (h : Tracks s w) (hsp : w.g.split? w.idx = some w.sp) (t : PC) : GoesOn (jumpTo s w t) w t :=
  (retire_goesOn t 1 h hsp).note _

theorem jumpTo_local (s : State) (w : Issuer) (t : PC) : Local s (jumpTo s w t) w noKeys noKeys false :=
  (retire_local s w t 1).trans (note_local _ _ w _ _ _)

/-- A call writes the link register, and then its split moves. -/
theorem calls_of_link {s t : State} {w : Issuer} (h : s.who = some w) {i : Instr} {pc : PC} (e : exec i s = .next t) (hgo : GoesOn t w pc)
    (hlocal : Local (link s w) t w noKeys noKeys false) : Calls s w i pc := by
  have htracks := who_tracks h
  exact ⟨t, e, hgo, (putG_holds 63 _ htracks).keep hlocal fun _ _ hk => hk,
    (putG_local 63 _ htracks).trans (hlocal.mono (fun _ hk => hk.elim) (fun _ hk => hk) id)⟩

section
variable {s : State} {w : Issuer} (h : Issues s w)
include h

theorem br_moves {c : BCond} {a : GReg} {o : BitVec 16} (hw : wellFormed (.br c a o) = true) (h0 : 0 ≤ branchTarget w.sp.pc 16 o)
    (h1 : branchTarget w.sp.pc 16 o ≤ 2 ^ 57 - 4) :
    Moves s w (.br c a o) (if brTest c (uniG s w a) then BitVec.ofInt 57 (branchTarget w.sp.pc 16 o) else nextPc w) := by
  have hact := (exec_br c a o s).trans (uniIssue_acts h hw (by simp) (by simp) _ _)
  dsimp only at hact
  rw [toTarget_goes h0 h1] at hact
  by_cases hc : c = .always
  · rw [if_pos hc] at hact
    exact moves_of_retire h.1 hact
  · rw [if_neg hc] at hact
    exact moves_of_note_retire h.1 hact

theorem call_calls {n : BitVec 26} (h0 : 0 ≤ branchTarget w.sp.pc 26 n) (h1 : branchTarget w.sp.pc 26 n ≤ 2 ^ 57 - 4) :
    Calls s w (.call n) (BitVec.ofInt 57 (branchTarget w.sp.pc 26 n)) := by
  have hact := (exec_call n s).trans (uniIssue_acts h rfl (by simp) (by simp) _ _)
  rw [toTarget_goes h0 h1] at hact
  exact calls_of_link h.1 hact (retire_goesOn _ _ (putG_tracks 63 _ (who_tracks h.1)) (who_parts h.1).2.1) (retire_local ..)

variable {v : DWord} (halign : v.toNat % 4 = 0) (hlow : v.toNat < 2 ^ 57)
include halign hlow

theorem moves_of_toRegister {i : Instr} (e : exec i s = .next (toRegister s w v fun t => jumpTo s w t)) : Moves s w i (v.setWidth 57) := by
  rw [toRegister_goes halign hlow] at e
  exact ⟨_, e, jumpTo_goesOn (who_tracks h.1) (who_parts h.1).2.1 _, jumpTo_local ..⟩

theorem calls_of_toRegister {i : Instr} (e : exec i s = .next (toRegister s w v fun t => jumpTo (link s w) w t)) :
    Calls s w i (v.setWidth 57) := by
  rw [toRegister_goes halign hlow] at e
  exact calls_of_link h.1 e (jumpTo_goesOn (putG_tracks 63 _ (who_tracks h.1)) (who_parts h.1).2.1 _) (jumpTo_local ..)

end

/-- Settles O14: by where the target of each comes from, its own address or a register. -/
theorem branchesAndCalls : Obligations.BranchesAndCalls := by
  intro s w c a o n h near far x y holds
  have htest : holds = brTest c x := by cases c <;> rfl
  refine ⟨fun hw h0 h1 => htest ▸ br_moves h hw h0 h1, call_calls h, fun halign hlow => ⟨?_, ?_⟩, fun halign hlow => ?_⟩
  · exact moves_of_toRegister h halign hlow ((exec_jmpi a s).trans (uniIssue_acts h rfl (by simp) (by simp) _ _))
  · exact calls_of_toRegister h halign hlow ((exec_calli a s).trans (uniIssue_acts h rfl (by simp) (by simp) _ _))
  · exact moves_of_toRegister h halign hlow ((exec_ret s).trans (uniIssue_acts h rfl (by simp) (by simp) _ _))

end Sys2Proof.Machine
end

section
/-! Proofs: uniform accesses to scratchpads (O24). -/
namespace Sys2Proof.Machine

theorem Stands.modGroup {t : State} {w : Issuer} {sp : Split} (h : Stands t w sp) {f : Group → Group} (hf : KeepsPlace f) :
    Stands (t.modGroup w.c w.slot f) w sp := by
  obtain ⟨g, hg, hsp, hother⟩ := h
  have hsplit : ∀ i, (f g).split? i = g.split? i := fun i => by rw [Group.split?, Group.split?, hf.splits]
  exact ⟨f g, group_changed_some f hf.slot hg, (hsplit w.idx).trans hsp, fun i hi => (hsplit i).trans (hother i hi)⟩

/-! A result held for HELD_UNIFORM_RESULT (12 R159). -/

/-- The group with a result held, which takes a place in the issue order if it is on its way to another core (13 R206). -/
def holding (r : HeldResult) (g : Group) : Group :=
  { g with held := g.held ++ [r], nextSeq := if r.part.isSome then g.nextSeq + 1 else g.nextSeq }

theorem holding_keepsPlace (r : HeldResult) : KeepsPlace (holding r) := ⟨fun _ => rfl, fun _ => rfl, fun _ => rfl, fun _ => rfl, fun _ => rfl⟩

section
variable {s : State} {w : Issuer} (h : s.who = some w) (d : Nat) (v : DWord) (poisoned : Option DWord) (part : Option RemoteAccess)

theorem heldFor_near : Near s (heldFor s w d v poisoned part) w noKeys (GroupBy (holding ⟨w.idx, d, v, poisoned, s.nextId, 0, part⟩)) := by
  have hdone : Near s { done s w with nextId := s.nextId + 1 } w noKeys (GroupBy id) :=
    (retire_near s w (nextPc w) 1).trans (nextId_near (done s w) w (s.nextId + 1)) fun a b c hab hbc => hbc ▸ hab
  have hhold : Near s (State.modGroup { done s w with nextId := s.nextId + 1 } w.c w.slot
      (holding ⟨w.idx, d, v, poisoned, s.nextId, 0, part⟩)) w noKeys (GroupBy (holding ⟨w.idx, d, v, poisoned, s.nextId, 0, part⟩)) := by
    refine hdone.trans (modGroup_near (rel := fun a b => b = holding ⟨w.idx, d, v, poisoned, s.nextId, 0, part⟩ a)
      (holding ⟨w.idx, d, v, poisoned, s.nextId, 0, part⟩) (holding_keepsPlace _).slot fun _ => rfl) fun a b c hab hbc => ?_
    obtain ⟨hfields, hla⟩ := hab
    rw [hbc, hfields]
    exact ⟨rfl, hla⟩
  exact hhold.by_trans (modSplit_near _ w w.idx _)

include h in
theorem heldFor_stands : Stands (heldFor s w d v poisoned part) w { w.sp with pc := nextPc w, hold := .heldResult, heldFor := 0 } := by
  have hgo : Stands { done s w with nextId := s.nextId + 1 } w { w.sp with pc := nextPc w, hold := .none, heldFor := 0 } :=
    retire_goesOn (nextPc w) 1 (who_tracks h) (who_parts h).2.1
  exact blockIt_stands (hgo.modGroup (holding_keepsPlace ⟨w.idx, d, v, poisoned, s.nextId, 0, part⟩)) .heldResult

end

/-! Loads and stores. -/

/-- The access of a uniform instruction at an address of another core's scratchpad, with the values it carries (13 R206). -/
def farAccess (s : State) (w : Issuer) (n : Nat) (k : RemoteKind) (at_ : Nat) (x y : DWord) : RemoteAccess :=
  ⟨(placeOf s w at_).core, w.g.nextSeq, w.idx, w.g.epoch, n, k, [⟨0, at_, (placeOf s w at_).off, x, y⟩], false⟩

section
variable {s : State} {w : Issuer} (h : Issues s w) (hacquire : acquirePending w.g = false) {i : Instr} (hw : wellFormed i = true) {a n : Nat}
  (hgood : scratchFault s w n [(0, uniAddr s w a)] = none)
include h hacquire hw hgood

/-- A load holds its value, or the access that brings it from another core. -/
theorem uldS_holds {d : Nat} (e : exec i s = uldS s i d a n) :
    let p := placeOf s w (uniAddr s w a)
    ∃ t, exec i s = .next t ∧ Stands t w { w.sp with pc := nextPc w, hold := .heldResult, heldFor := 0 }
      ∧ Near s t w noKeys (GroupBy fun g => if p.core = w.c then { g with held := g.held ++ [⟨w.idx, d,
            BitVec.ofNat 64 (numOf (readPlace s p n)), (poisonAddr s w n (uniAddr s w a)).map (fun z => BitVec.ofNat 64 z), s.nextId, 0, none⟩] }
          else { g with held := g.held ++ [⟨w.idx, d, 0, none, s.nextId, 0, some (farAccess s w n .uload (uniAddr s w a) 0 0)⟩],
                        nextSeq := g.nextSeq + 1 }) := by
  have hact := e.trans (uniIssue_acts h hw (by simp) (by simp) _ _)
  dsimp only at hact ⊢
  rw [checkedU_goes hgood hacquire] at hact
  by_cases hnear : (placeOf s w (uniAddr s w a)).core = w.c
  · rw [isNear, hnear, beq_self_eq_true, if_pos rfl] at hact
    simp only [if_pos hnear]
    exact ⟨_, hact, heldFor_stands h.1 .., heldFor_near ..⟩
  · rw [isNear, beq_false_of_ne hnear, if_neg Bool.false_ne_true, remoteParts_far hnear] at hact
    simp only [if_neg hnear]
    exact ⟨_, hact, heldFor_stands h.1 .., heldFor_near ..⟩

/-- A store writes its bytes, or leaves the access that takes them to another core. -/
theorem ustS_stores {b : Nat} (hrelease : releaseReady s w.c w.g = true) (e : exec i s = ustS s i a b n) :
    let p := placeOf s w (uniAddr s w a)
    let v := (uniG s w b).toNat
    ∃ t, exec i s = .next t ∧ GoesOn t w (nextPc w)
      ∧ (p.core = w.c → Scratched s t w (GroupLocal noKeys false) (overBytes p (bytesOf n v) noBytes))
      ∧ (p.core ≠ w.c → Near s t w noKeys (GroupAwaits
          (leftFar s w [farAccess s w n .store (uniAddr s w a) (BitVec.ofNat 64 v) (BitVec.ofNat 64 (v / 2 ^ 64))]) noKeys false)) := by
  have hact := e.trans (uniIssue_acts h hw (by simp) (by simp) _ _)
  dsimp only at hact ⊢
  rw [checkedU_goes hgood hacquire, storeNear, afterFences_goes hacquire hrelease] at hact
  have htracks := who_tracks h.1
  have hsp := (who_parts h.1).2.1
  by_cases hnear : (placeOf s w (uniAddr s w a)).core = w.c
  · rw [isNear, hnear, beq_self_eq_true, if_pos rfl] at hact
    exact ⟨_, hact, retire_goesOn _ _ (storePlace_tracks htracks _ _) hsp, fun _ => storePlace_scratched _ _, fun hfar => absurd hnear hfar⟩
  · rw [isNear, beq_false_of_ne hnear, if_neg Bool.false_ne_true, remoteParts_far hnear] at hact
    exact ⟨_, hact, retire_goesOn _ _ (pushFar_tracks htracks _) hsp, fun hown => absurd hown hnear, fun _ => (pushFar_onlyMine _).done.near⟩

end

theorem uniformScratch : UniformScratch := by
  intro s w d a b h hacquire at_ p v far
  simp only [List.forall_mem_cons]
  refine ⟨⟨fun hgood => ?_, fun hgood => ?_, fun _ hq => nomatch hq⟩, fun hgood hrelease => ?_, fun hgood hrelease => ?_,
    fun _ hq => nomatch hq⟩
  · exact uldS_holds h hacquire rfl hgood (exec_uldS32 d a s)
  · exact uldS_holds h hacquire rfl hgood (exec_uldS64 d a s)
  · exact ustS_stores h hacquire rfl hgood hrelease (exec_ustS32 a b s)
  · exact ustS_stores h hacquire rfl hgood hrelease (exec_ustS64 a b s)

end Sys2Proof.Machine
end

section
/-! Proofs: held and lookahead results are written (O24). -/
namespace Sys2Proof.Machine

/-! Rows of the issuer's core written, and its group changed. -/

section
variable {s : State} {w : Issuer} {y : Core} {F : Group → Group} (hs : ∀ g, (F g).slot = g.slot)
  (hy : y = { s.core w.c with rows := y.rows })
include hy

theorem rowsWritten_core : (s.setCore (y.modGroup w.slot F)).core w.c = y.modGroup w.slot F := by
  have hi : y.index = w.c := by rw [hy]; exact core_index s w.c
  have hc := core_setCore s (y.modGroup w.slot F)
  rwa [modGroup_index, hi] at hc

include hs

theorem rowsWritten_group : (s.setCore (y.modGroup w.slot F)).group? w.c w.slot = (s.group? w.c w.slot).map F :=
  group_after s y w.c w.slot F (by rw [hy]; exact core_index s w.c) (by rw [hy]) hs

theorem rowsWritten_near {keys : Nat → Prop} {rel : Group → Group → Prop} (h : s.who = some w)
    (hrows : ∀ k, ¬ keys k → y.rows.word k = (s.core w.c).rows.word k) (hF : rel w.g (F w.g)) :
    Near s (s.setCore (y.modGroup w.slot F)) w keys rel := by
  have hi : y.index = w.c := by rw [hy]; exact core_index s w.c
  have hg := (who_parts h).1
  refine ⟨rfl, fun _ => rfl, fun c hc => core_setCore_other s _ c (by rw [modGroup_index, hi]; exact hc), ?_, fun k hk => ?_, fun b hb => ?_,
    fun g hgroup => ⟨F g, ?_, ?_⟩⟩
  · rw [rowsWritten_core hy, Core.modGroup, hy]
  · rw [rowsWritten_core hy, modGroup_rows]
    exact hrows k hk
  · exact group_after_other s y w.c w.slot b F hi (by rw [hy]) hs hb
  · rw [rowsWritten_group hs hy, hgroup]
    rfl
  · rw [hg] at hgroup
    cases hgroup
    exact hF

end

/-! HELD_UNIFORM_RESULT (12 R159). -/

theorem landG_eq (x : Core) (g : Group) (i : Nat) (v : DWord) : x.landG g i v
    = x.landLanes g (gReg g i) (fun l => if l = gLane i then v.setWidth 32 else (v >>> 32).setWidth 32) [gLane i, gLane i + 1] := by
  simp [Core.landG, Core.landLanes]

/-- The core after a uniform result is written to it. -/
def resultCore (s : State) (w : Issuer) (i : Nat) (v : DWord) : Core :=
  if i = 0 then s.core w.c else (s.core w.c).landG w.g i v

theorem resultCore_rest (s : State) (w : Issuer) (i : Nat) (v : DWord) :
    resultCore s w i v = { s.core w.c with rows := (resultCore s w i v).rows } := by
  unfold resultCore
  split
  · rfl
  · rw [landG_eq]
    exact landLanes_rest ..

theorem resultCore_rows (s : State) (w : Issuer) (i : Nat) (v : DWord) (k : Nat) (hk : ¬ GKeys w.g i k) :
    (resultCore s w i v).rows.word k = (s.core w.c).rows.word k := by
  unfold resultCore
  split
  · rfl
  next hi =>
    have hlt := gLane_lt i
    rw [landG_eq]
    refine landLanes_other _ _ _ _ _ _ fun l hl h0 he => hk ⟨hi, l, ?_, ?_, h0, he⟩
    · simp only [List.mem_cons, List.not_mem_nil, or_false] at hl
      omega
    · simp only [List.mem_cons, List.not_mem_nil, or_false] at hl
      rw [pair_lane _ _ (by omega)]
      simpa using hl

theorem resultCore_holds {s t : State} {w : Issuer} {i : Nat} {v : DWord} (h : (t.core w.c).rows = (resultCore s w i v).rows) :
    HoldsG t w i v := by
  by_cases hi : i = 0
  · simp [HoldsG, rawG, hi]
  · refine holdsG_of_V hi fun l hl hmask => ?_
    rw [pair_lane _ _ hl] at hmask
    have hlane : l = gLane i ∨ l = gLane i + 1 := by simpa using hmask
    have h0 := gReg_not_g0 w.g i l hi hlane
    rw [rawV, h0, h, resultCore, if_neg hi, landG_eq]
    exact landLanes_same _ _ _ _ _ _ (by simpa using hlane) h0 (by simp)

/-- The group with its held result taken and the split released. -/
def resultTaken (r : HeldResult) (i : Nat) (g : Group) : Group :=
  { g with held := g.held.erase r }.modSplit i fun sp => { sp with hold := .none, heldFor := 0 }

theorem resultTaken_split (r : HeldResult) (i : Nat) (g : Group) :
    (resultTaken r i g).split? i = (g.split? i).map fun sp => { sp with hold := .none, heldFor := 0 } :=
  split_modSplit { g with held := g.held.erase r } i (fun sp => { sp with hold := .none, heldFor := 0 }) fun _ => rfl

theorem resultTaken_split_other (r : HeldResult) {i j : Nat} (g : Group) (h : j ≠ i) : (resultTaken r i g).split? j = g.split? j :=
  split_modSplit_other { g with held := g.held.erase r } i j (fun sp => { sp with hold := .none, heldFor := 0 }) (fun _ => rfl) h

/-- The group with a held result reaching its intake in this cycle. -/
def heldReached (r : HeldResult) (g : Group) : Group :=
  { g with held := g.held.map fun k => if k = r then { k with part := k.part.map fun p => { p with reached := true } } else k }

section
variable {s : State} {w : Issuer} (h : s.who = some w) {r : HeldResult} (hheld : w.g.held = [r]) (hsplit : r.split = w.idx)
  (hparked : r.parked = 0)
include h hheld hsplit hparked

theorem heldUniformResult_writes (hpart : r.part = none) (hclean : r.poisoned = none) :
    exec (.heldUniformResult w.c w.slot w.idx) s
      = .next (s.setCore ((resultCore s w r.gd r.value).modGroup w.slot (resultTaken r w.idx))) := by
  obtain ⟨hg, hsp, -⟩ := who_parts h
  rw [exec_heldUniformResult, execHeldUniformResult, hg]
  simp only [hheld, hsp, List.find?_cons, hsplit, hparked, beq_self_eq_true, Bool.and_self, hpart, hclean, Option.isSome_none,
    Bool.false_eq_true, if_false, Bool.or_false, decide_eq_true_eq]
  rfl

theorem heldUniformResult_reaches {z : RemoteAccess} (hpart : r.part = some z) :
    exec (.heldUniformResult w.c w.slot w.idx) s = .next (s.modGroup w.c w.slot (heldReached r)) := by
  obtain ⟨hg, hsp, -⟩ := who_parts h
  rw [exec_heldUniformResult, execHeldUniformResult, hg]
  simp only [hheld, hsp, List.find?_cons, hsplit, hparked, beq_self_eq_true, Bool.and_self, hpart, Option.isSome_some, if_true]
  rfl

end

/-! SCRATCH_RESULT (09 R116). -/

/-- The group with its only lookahead result written. -/
def resultWritten (r : LaResult) (g : Group) : Group :=
  { g with la := removeAt 0 g.la, pend := if r.untilWait then g.pend.filter fun e => e.own != some r.born else g.pend }

/-- The group with its oldest lookahead result's accesses reaching their intakes in this cycle. -/
def resultReached (g : Group) : Group :=
  { g with la := modifyAt (fun a => { a with parts := a.parts.map fun p => { p with reached := true } }) 0 g.la }

section
variable {s : State} {w : Issuer} (h : s.who = some w) {r : LaResult} (hla : w.g.la = [r])
include h hla

theorem scratchResult_writes {n l : Nat} {v : Word} (hparts : r.parts = []) (hclean : r.poisoned = none) (hwrites : r.writes = [(n, l, v)]) :
    exec (.scratchResult w.c w.slot 0) s
      = .next (s.setCore (((s.core w.c).landLanes w.g n (fun _ => v) [l]).modGroup w.slot (resultWritten r))) := by
  rw [exec_scratchResult, execScratchResult, (who_parts h).1]
  simp only [hla, List.getElem?_cons_zero, hparts, List.isEmpty_nil, Bool.not_true, Bool.false_eq_true, if_false, hclean, Option.isSome_none,
    hwrites]
  rfl

theorem scratchResult_reaches (hparts : r.parts ≠ []) :
    exec (.scratchResult w.c w.slot 0) s = .next (s.modGroup w.c w.slot resultReached) := by
  have hsome : r.parts.isEmpty = false := by simpa using hparts
  rw [exec_scratchResult, execScratchResult, (who_parts h).1]
  simp only [hla, List.getElem?_cons_zero, hsome, Bool.not_false, if_true]
  rfl

end

theorem resultsCome : ResultsCome := by
  intro s w hissues
  have h := hissues.1
  obtain ⟨hg, hsp, -⟩ := who_parts h
  refine ⟨fun r hheld hsplit hparked => ⟨fun hpart hclean => ?_, fun z hpart => ?_⟩,
    fun r n l v hla hparts hclean hwrites h0 hn hl => ?_, fun r hla hparts => ?_⟩
  · have hrest := resultCore_rest s w r.gd r.value
    have hgroup := rowsWritten_group (F := resultTaken r w.idx) (fun _ => rfl) hrest
    rw [hg] at hgroup
    refine ⟨_, heldUniformResult_writes h hheld hsplit hparked hpart hclean, resultCore_holds (s := s) ?_, ⟨_, hgroup, ?_, fun i hi => ?_⟩,
      rowsWritten_near (F := resultTaken r w.idx) (fun _ => rfl) hrest h (resultCore_rows s w r.gd r.value) ⟨?_, rfl⟩⟩
    · rw [rowsWritten_core hrest, modGroup_rows]
    · rw [resultTaken_split, hsp]
      rfl
    · exact resultTaken_split_other r w.g hi
    · simp [resultTaken, hheld, Group.modSplit]
  · refine ⟨_, heldUniformResult_reaches h hheld hsplit hparked hpart,
      ⟨_, group_changed_some (heldReached r) (fun _ => rfl) hg, hsp, fun _ _ => rfl⟩,
      rowsWritten_near (F := heldReached r) (fun _ => rfl) rfl h (fun _ _ => rfl) ⟨?_, rfl⟩⟩
    simp [heldReached, hheld, hpart]
  · have hrest := landLanes_rest (s.core w.c) w.g n (fun _ => v) [l]
    refine ⟨_, scratchResult_writes h hla hparts hclean hwrites, ?_,
      rowsWritten_near (F := resultWritten r) (fun _ => rfl) hrest h (fun k hk => ?_) ?_⟩
    · rw [rawV, h0, rowsWritten_core hrest, modGroup_rows]
      exact landLanes_same _ _ _ _ _ _ List.mem_cons_self h0 (List.nodup_singleton l)
    · refine landLanes_other _ _ _ _ _ _ fun m hm _ he => hk ?_
      rw [he, List.mem_singleton.mp hm]
    · simp [resultWritten, hla, removeAt]
  · refine ⟨_, scratchResult_reaches h hla hparts, rowsWritten_near (F := resultReached) (fun _ => rfl) rfl h (fun _ _ => rfl) ?_⟩
    simp [resultReached, hla, modifyAt]

end Sys2Proof.Machine
end

section
/-! Proofs: accesses performed at another core's scratchpad (O24). -/
namespace Sys2Proof.Machine

/-- Bytes free of errors one by one are free of them together (11 R151). -/
theorem not_poisonedAt {x : Core} {off n : Nat} (hn : 0 < n) (h : ∀ j, j < n → x.poisonedAt (off + j) 1 = false) :
    x.poisonedAt off n = false := by
  rw [Bool.eq_false_iff]
  intro hbad
  obtain ⟨k, hk, hlow, hhigh⟩ := poisonedAt_iff.mp hbad
  -- the first byte of the access in the 8-byte word of the error
  have hword : (off + (8 * (k / 8) - off)) / 8 = k / 8 := by omega
  refine Bool.eq_false_iff.mp (h (8 * (k / 8) - off) (by omega)) (poisonedAt_iff.mpr ⟨k, hk, ?_, ?_⟩)
  · omega
  · omega

theorem remotePoison_nil {x : Core} {size : Nat} {l : RemoteLane} (hsize : 0 < size)
    (h : ∀ j, j < size → x.poisonedAt (l.off + j) 1 = false) : remotePoison x size l = [] := by
  have hlow : x.poisonedAt l.off (min size 8) = false := not_poisonedAt (by omega) fun j hj => h j (by omega)
  have hhigh : (decide (8 < size) && x.poisonedAt (l.off + 8) (size - 8)) = false := by
    by_cases hwide : 8 < size
    · rw [not_poisonedAt (by omega) fun j hj => by rw [Nat.add_assoc]; exact h (8 + j) (by omega), Bool.and_false]
    · rw [decide_eq_false hwide, Bool.false_and]
  rw [remotePoison, hlow, hhigh]
  rfl

theorem remotePerformed : RemotePerformed := by
  intro s p l _ hclean hpos _ at_ r now
  have hbad : remotePoison (s.core p.target) p.size l = [] := remotePoison_nil hpos hclean
  refine ⟨fun hkind => ?_, fun d regs hkind => ?_, fun op d hkind hword => ?_⟩
  · have hr : r = (writePlace s at_ (bytesOf p.size (l.v1.toNat + 2 ^ 64 * l.v2.toNat)), ([], [])) := by
      simp only [r, performLane, hkind]
      rfl
    rw [hr]
    exact ⟨rfl, ((Wrote.refl s).writePlace at_ _).bytes⟩
  · have hr : r = (s, (spread d regs l.lane now, [])) := by
      simp only [r, performLane, hkind, hbad]
      rfl
    rw [hr]
    exact ⟨rfl, rfl, rfl⟩
  · have hr : r = (writePlace s at_ (bytesOf 4 (atomNew op 32 now l.v1.toNat l.v2.toNat)), (spread d 1 l.lane now, [])) := by
      simp only [r, performLane, hkind, hbad]
      rfl
    rw [hr]
    refine ⟨?_, ((Wrote.refl s).writePlace at_ _).bytes⟩
    simp [spread]

/-- Settles O24: uniform accesses, the results that come later, and what an intake performs, each as its lemma says. -/
theorem uniformScratchAndResults : Obligations.UniformScratchAndResults := ⟨uniformScratch, resultsCome, remotePerformed⟩

end Sys2Proof.Machine
end

section
/-! Proofs: integer lane instructions (O1). -/
namespace Sys2Proof.Machine

section
variable {s : State} {w : Issuer} (h : Issues s w) {i : Instr} (hw : wellFormed i = true) {k d a : Nat} (hd : d < w.g.allot)
  (ha : a < w.g.allot)
include h hw hd ha

theorem aluR_result {b : Nat} (hb : b < w.g.allot) {readD : Bool} {f : Word → Word → Word → Word} (e : exec i s = aluR s i k d a b readD f) :
    LaneResult s w i d (activeOf s w k) fun l => f (laneV s w a l) (laneV s w b l) (laneV s w d l) :=
  laneResult_of h.1 (e.trans (laneIssue_acts h hw (by simpa using ⟨hd, ha, hb⟩) _ _))

theorem aluR1_result {f : Word → Word} (e : exec i s = aluR1 s i k d a f) :
    LaneResult s w i d (activeOf s w k) fun l => f (laneV s w a l) :=
  laneResult_of h.1 (e.trans (laneIssue_acts h hw (by simpa using ⟨hd, ha⟩) _ _))

theorem aluG_result {g : Nat} {f : Word → Word → Word} (e : exec i s = aluG s i k d a g f) :
    LaneResult s w i d (activeOf s w k) fun l => f (laneV s w a l) ((laneG s w g).setWidth 32) :=
  laneResult_of h.1 (e.trans (laneIssue_acts h hw (by simpa using ⟨hd, ha⟩) _ _))

theorem shuffle_result {b : Nat} (hb : b < w.g.allot) {src : Nat → Nat → Option Nat} (e : exec i s = shuffle s i k d a b src) :
    LaneResult s w i d (activeOf s w k) fun l => laneV s w a ((src l ((laneV s w b l).toNat % 32)).getD l) :=
  laneResult_of h.1 (e.trans (laneIssue_acts h hw (by simpa using ⟨hd, ha, hb⟩) _ _))

end

/-! The comparisons of the minimum and maximum are those of the words (11 R130). -/

theorem aluMinS_sle : aluMinS = fun x y => if x.sle y then x else y := by
  funext x y
  simp only [aluMinS, BitVec.sle_iff_toInt_le]

theorem aluMaxS_sle : aluMaxS = fun x y => if x.sle y then y else x := by
  funext x y
  simp only [aluMaxS, BitVec.sle_iff_toInt_le]

theorem aluMinZ_ule : aluMinZ = fun x y => if x.ule y then x else y := by
  funext x y
  simp only [aluMinZ, BitVec.ule_iff_toNat_le]

theorem aluMaxZ_ule : aluMaxZ = fun x y => if x.ule y then y else x := by
  funext x y
  simp only [aluMaxZ, BitVec.ule_iff_toNat_le]

/-- Every form of the table is a register operation of its function, which the minimum and maximum give in another form. -/
theorem laneBinaryForms_aluR (s : State) (k : KReg) (d a b : VReg) : ∀ p ∈ laneBinaryForms, wellFormed (p.1 k d a b) = true
    ∧ exec (p.1 k d a b) s = aluR s (p.1 k d a b) k d a b false fun x y _ => p.2 x y := by
  simp only [laneBinaryForms, ← aluMinS_sle, ← aluMaxS_sle, ← aluMinZ_ule, ← aluMaxZ_ule, List.forall_mem_cons]
  exact ⟨⟨rfl, rfl⟩, ⟨rfl, rfl⟩, ⟨rfl, rfl⟩, ⟨rfl, rfl⟩, ⟨rfl, rfl⟩, ⟨rfl, rfl⟩, ⟨rfl, rfl⟩, ⟨rfl, rfl⟩, ⟨rfl, rfl⟩, ⟨rfl, rfl⟩, ⟨rfl, rfl⟩,
    ⟨rfl, rfl⟩, ⟨rfl, rfl⟩, ⟨rfl, rfl⟩, ⟨rfl, rfl⟩, ⟨rfl, rfl⟩, ⟨rfl, rfl⟩, fun _ hp => nomatch hp⟩

theorem laneTernaryForms_aluR (s : State) (k : KReg) (d a b : VReg) : ∀ p ∈ laneTernaryForms, wellFormed (p.1 k d a b) = true
    ∧ ∃ readD, exec (p.1 k d a b) s = aluR s (p.1 k d a b) k d a b readD p.2 := by
  simp only [laneTernaryForms, List.forall_mem_cons]
  exact ⟨⟨rfl, true, rfl⟩, ⟨rfl, true, rfl⟩, ⟨rfl, true, rfl⟩, ⟨rfl, false, rfl⟩, ⟨rfl, false, rfl⟩, fun _ hp => nomatch hp⟩

theorem laneUniformForms_aluG (s : State) (k : KReg) (d a : VReg) (g : GReg) : ∀ p ∈ laneUniformForms, wellFormed (p.1 k d a g) = true
    ∧ exec (p.1 k d a g) s = aluG s (p.1 k d a g) k d a g p.2 := by
  simp only [laneUniformForms, List.forall_mem_cons]
  exact ⟨⟨rfl, rfl⟩, ⟨rfl, rfl⟩, ⟨rfl, rfl⟩, ⟨rfl, rfl⟩, ⟨rfl, rfl⟩, ⟨rfl, rfl⟩, ⟨rfl, rfl⟩, ⟨rfl, rfl⟩, fun _ hp => nomatch hp⟩

theorem laneBinaryResults : LaneBinaryResults := by
  intro s w k d a b h hd ha hb p hp
  obtain ⟨hw, he⟩ := laneBinaryForms_aluR s k d a b p hp
  exact aluR_result h hw hd ha hb he

theorem laneTernaryResults : LaneTernaryResults := by
  intro s w k d a b h hd ha hb p hp
  obtain ⟨hw, _, he⟩ := laneTernaryForms_aluR s k d a b p hp
  exact aluR_result h hw hd ha hb he

theorem laneUniformResults : LaneUniformResults := by
  intro s w k d a g h hd ha p hp
  obtain ⟨hw, he⟩ := laneUniformForms_aluG s k d a g p hp
  exact aluG_result h hw hd ha he

/-- Settles O1: each form is a register operation of its function, which writes its result and retires. -/
theorem laneIntegerResults : Obligations.LaneIntegerResults := ⟨laneBinaryResults, laneTernaryResults, laneUniformResults⟩

end Sys2Proof.Machine
end

section
/-! Proofs: bit counts, moves and shuffles (O3). -/
namespace Sys2Proof.Machine

/-! The bits of a number. -/

theorem testBit_comp_succ (x : Nat) : (fun j => x.testBit j) ∘ Nat.succ = fun j => (x / 2).testBit j := funext fun j => Nat.testBit_succ x j

theorem popcount_eq (n x : Nat) : popcount n x = ((List.range n).filter fun j => x.testBit j).length := by
  induction n generalizing x with
  | zero => rfl
  | succ n ih =>
    rw [popcount, ih, List.range_succ_eq_map, List.filter_cons, List.filter_map, testBit_comp_succ, Nat.testBit_zero]
    rcases Nat.mod_two_eq_zero_or_one x with hbit | hbit <;> simp [hbit, Nat.add_comm]

theorem trailingZeros_eq (n x : Nat) : trailingZeros n x = ((List.range n).find? fun j => x.testBit j).getD n := by
  induction n generalizing x with
  | zero => rfl
  | succ n ih =>
    rw [trailingZeros, ih, List.range_succ_eq_map, List.find?_cons, List.find?_map, testBit_comp_succ, Nat.testBit_zero]
    rcases Nat.mod_two_eq_zero_or_one x with hbit | hbit
    · cases hfind : (List.range n).find? fun j => (x / 2).testBit j <;> simp [hbit, Nat.add_comm]
    · simp [hbit]

theorem bit_eq_testBit (x i : Nat) : bit x i = x.testBit i := by
  rw [Nat.testBit_eq_decide_div_mod_eq]
  rfl

/-- The highest bit of a number that is not 0 stands at its logarithm. -/
theorem leadingZeros_eq {n x : Nat} (hx : x < 2 ^ n) : leadingZeros n x = if x = 0 then n else n - 1 - Nat.log2 x := by
  induction n with
  | zero => simp [leadingZeros, show x = 0 by simpa using hx]
  | succ n ih =>
    rw [leadingZeros, bit_eq_testBit]
    by_cases htop : 2 ^ n ≤ x
    · have hne : x ≠ 0 := (lt_of_lt_of_le (Nat.two_pow_pos n) htop).ne'
      have hlog : Nat.log2 x = n := (Nat.log2_eq_iff hne).mpr ⟨htop, hx⟩
      simp [Nat.testBit_of_two_pow_le_and_two_pow_add_one_gt htop hx, hne, hlog]
    · have hlt : x < 2 ^ n := Nat.not_le.mp htop
      rw [Nat.testBit_lt_two_pow hlt, if_neg Bool.false_ne_true, ih hlt]
      split
      · exact Nat.add_comm 1 n
      next hne =>
        have hlog : Nat.log2 x < n := (Nat.log2_lt hne).mpr hlt
        omega

theorem reverseBits_lt (n x : Nat) : reverseBits n x < 2 ^ n := by
  induction n generalizing x with
  | zero => simp [reverseBits]
  | succ n ih =>
    have hrest := ih (x / 2)
    rw [reverseBits, pow_succ]
    rcases Nat.mod_two_eq_zero_or_one x with hbit | hbit <;> rw [hbit] <;> omega

theorem testBit_reverseBits {n x j : Nat} (hj : j < n) : (reverseBits n x).testBit j = x.testBit (n - 1 - j) := by
  induction n generalizing x with
  | zero => omega
  | succ n ih =>
    rw [reverseBits, Nat.mul_comm, Nat.testBit_two_pow_mul_add _ (reverseBits_lt n (x / 2))]
    by_cases hlow : j < n
    · rw [if_pos hlow, ih hlow, ← Nat.testBit_succ]
      congr 1
      omega
    · obtain rfl : j = n := by omega
      simp

/-! The functions of a word. -/

theorem aluPopc_eq (x : Word) : aluPopc x = BitVec.ofNat 32 ((List.range 32).filter fun j => x.getLsbD j).length := by
  rw [aluPopc, popcount_eq]
  rfl

theorem aluCtz_eq (x : Word) : aluCtz x = BitVec.ofNat 32 (((List.range 32).find? fun j => x.getLsbD j).getD 32) := by
  rw [aluCtz, trailingZeros_eq]
  rfl

theorem aluClz_eq (x : Word) : aluClz x = BitVec.ofNat 32 (highZeros x) := by
  have hzero : x.toNat = 0 ↔ x = 0 := by rw [BitVec.toNat_eq]; rfl
  simp only [aluClz, leadingZeros_eq x.isLt, highZeros, hzero]

theorem aluBrev_eq (x : Word) : aluBrev x = reversed x := by
  refine BitVec.eq_of_getLsbD_eq fun j hj => ?_
  rw [aluBrev, reversed, BitVec.getLsbD_ofFnLE, dif_pos hj, BitVec.getLsbD_ofNat, testBit_reverseBits hj, decide_eq_true hj]
  rfl

theorem laneMoveResults : LaneMoveResults := by
  intro s w k d a b g h hd ha hb m
  simp only [← aluPopc_eq, ← aluClz_eq, ← aluCtz_eq, ← aluBrev_eq]
  refine ⟨?_, ?_, ?_, ?_, ?_, ?_, ?_, ?_⟩
  · exact aluR1_result h rfl hd ha (exec_popc k d a s)
  · exact aluR1_result h rfl hd ha (exec_clz k d a s)
  · exact aluR1_result h rfl hd ha (exec_ctz k d a s)
  · exact aluR1_result h rfl hd ha (exec_brev k d a s)
  · exact aluR1_result h rfl hd ha (exec_mov k d a s)
  · exact laneResult_of h.1 ((exec_laneid k d s).trans (laneIssue_acts h rfl (by simpa using hd) _ _))
  · exact laneResult_of h.1 ((exec_sel k d a b s).trans (laneIssue_acts h rfl (by simpa using ⟨hd, ha, hb⟩) _ _))
  · exact laneResult_of h.1 ((exec_movg k d g s).trans (laneIssue_acts h rfl (by simpa using hd) _ _))

theorem getD_choice {p : Prop} [Decidable p] (x l : Nat) : (if p then some x else none).getD l = if p then x else l := by
  split <;> rfl

theorem shuffleResults : ShuffleResults := by
  intro s w k d a b h hd ha hb m c
  have hup := shuffle_result h rfl hd ha hb (exec_shflUp k d a b s)
  have hdown := shuffle_result h rfl hd ha hb (exec_shflDown k d a b s)
  simp only [getD_choice] at hup hdown
  exact ⟨shuffle_result h rfl hd ha hb (exec_shflIdx k d a b s), shuffle_result h rfl hd ha hb (exec_shflXor k d a b s), hup, hdown⟩

/-- Settles O3: each instruction writes its function of what it reads, and the model's bit functions are those of the statement. -/
theorem laneMovesAndShuffles : Obligations.LaneMovesAndShuffles := ⟨laneMoveResults, shuffleResults⟩

end Sys2Proof.Machine
end

section
/-! Proofs: floating flags raised after a register write, and compares (O4). -/
namespace Sys2Proof.Machine

/-! The lanes of a mask that is computed lane by lane. -/

theorem getLsbD_foldl_oneLane (ls : List Nat) (m : Mask) {l : Nat} (hl : l < 32) :
    (ls.foldl (fun m a => m ||| oneLane a) m).getLsbD l = (m.getLsbD l || decide (l ∈ ls)) := by
  induction ls generalizing m with
  | nil => simp
  | cons a ls ih => simp [ih, getLsbD_oneLane a l hl, Bool.or_assoc]

theorem getLsbD_maskFrom (f : Nat → Bool) {l : Nat} (hl : l < 32) : (maskFrom f).getLsbD l = f l := by
  rw [maskFrom, maskOf, getLsbD_foldl_oneLane _ _ hl]
  simp [hl]

theorem getLsbD_mergeMask (m old new : Mask) {l : Nat} (hl : l < 32) :
    (mergeMask m old new).getLsbD l = if m.getLsbD l then new.getLsbD l else old.getLsbD l := by
  rw [mergeMask, BitVec.getLsbD_or, BitVec.getLsbD_and, BitVec.getLsbD_and, BitVec.getLsbD_not, decide_eq_true hl]
  cases m.getLsbD l <;> simp

/-! Flags raised, and the split goes on. -/

theorem raiseFlags_done_local (t : State) (w : Issuer) (n : Nat) (fl : FFlags) :
    Local t (done (raiseFlags t w n fl) w) w noKeys noKeys true :=
  (raiseFlags_local t w n fl).trans ((retire_local _ w (nextPc w) 1).mono (fun _ => id) (fun _ => id) fun _ => rfl)

theorem raiseFlags_done_group {t : State} {w : Issuer} {g : Group} (hg : t.group? w.c w.slot = some g) (n : Nat) (fl : FFlags) :
    ∃ h, (done (raiseFlags t w n fl) w).group? w.c w.slot = some h ∧ h.fpflags = g.fpflags ||| fl ∧ h.masks = g.masks := by
  by_cases hf : fl = 0
  · rw [raiseFlags, if_pos hf, hf]
    exact ⟨_, group_changed_some _ (fun _ => rfl) hg, BitVec.or_zero.symm, rfl⟩
  · rw [raiseFlags, if_neg hf]
    exact ⟨_, group_changed_some _ (fun _ => rfl) (group_changed_some _ (fun _ => rfl) hg), rfl, rfl⟩

/-- After registers are written the flags are raised beside those that stood, and the split goes on. -/
theorem local_raisesFlags {s t : State} {w : Issuer} {keys ks : Nat → Prop} (h : s.who = some w) (ht : Tracks t w)
    (hlocal : Local s t w keys ks false) (n : Nat) (fl : FFlags) :
    GoesOn (done (raiseFlags t w n fl) w) w (nextPc w) ∧ Local s (done (raiseFlags t w n fl) w) w keys ks true
      ∧ ∃ f g, t.group? w.c w.slot = some f ∧ (done (raiseFlags t w n fl) w).group? w.c w.slot = some g
        ∧ g.fpflags = w.g.fpflags ||| fl ∧ g.masks = f.masks := by
  obtain ⟨hg, hsp, -⟩ := who_parts h
  obtain ⟨f, hf, -, -, hsame, -⟩ := hlocal.group w.g hg
  obtain ⟨g, hgroup, hflags, hmasks⟩ := raiseFlags_done_group hf n fl
  refine ⟨retire_goesOn _ _ (raiseFlags_tracks n fl ht) hsp, ?_, f, g, hf, hgroup, hflags.trans (by rw [hsame rfl]), hmasks⟩
  exact (hlocal.mono (fun _ => id) (fun _ => id) fun _ => rfl).trans
    ((raiseFlags_done_local t w n fl).mono (fun _ => False.elim) (fun _ => False.elim) id)

/-! Compares. -/

theorem putK_masks {s : State} {w : Issuer} {g : Group} (hg : s.group? w.c w.slot = some g) {e : Nat} (he : e ≠ 0) (m : Mask) (tl tu : Nat)
    (v : Mask) : ∃ f, (putK s w e m tl tu v).group? w.c w.slot = some f ∧ f.masks = g.masks.set e (mergeMask m (rawK g e) v) := by
  rw [putK, if_neg he]
  exact ⟨_, group_changed_some _ (fun _ => rfl) hg, rfl⟩

theorem rawK_of_masks {g : Group} {e : Nat} {ms : List Mask} {v : Mask} (he : e ≠ 0) (hg : g.masks = ms.set e v) (hlen : e < g.masks.length) :
    rawK g e = v := by
  rw [hg, List.length_set] at hlen
  rw [rawK, if_neg he, hg, List.getD_eq_getElem?_getD, List.getElem?_set_self hlen, Option.getD_some]

/-- What a compare does: it writes its truth, raises its flags and goes on. -/
theorem maskResult_of {s : State} {w : Issuer} (h : s.who = some w) {i : Instr} {e n tl tu : Nat} {m : Mask} {truth : Nat → Bool} {fl : FFlags}
    (hact : exec i s = .next (done (raiseFlags (putK s w e m tl tu (maskFrom truth)) w n fl) w)) : MaskResult s w i e m truth fl := by
  obtain ⟨hg, -, -⟩ := who_parts h
  obtain ⟨hgoes, hlocal, f, g, hf, hgroup, hflags, hmasks⟩ :=
    local_raisesFlags h (putK_tracks e m tl tu (maskFrom truth) (who_tracks h)) (putK_local ..) n fl
  refine ⟨_, hact, hgoes, hlocal, g, hgroup, hflags, fun hlen he l hl => ?_⟩
  obtain ⟨f', hf', hset⟩ := putK_masks hg he m tl tu (maskFrom truth)
  obtain rfl : f = f' := Option.some.inj (hf.symm.trans hf')
  rw [rawK_of_masks he (hmasks.trans hset) hlen, getLsbD_mergeMask _ _ _ hl, getLsbD_maskFrom _ hl]

theorem integerCompare : IntegerCompare := by
  intro s w k e c a b t h ha hb hw
  exact maskResult_of h.1 (n := 0) ((exec_icmp k c e a b t s).trans (laneIssue_acts h hw (by simpa using ⟨ha, hb⟩) _ _))

theorem floatCompare : FloatCompare := by
  intro s w k e c a b t h ha hb hw
  exact maskResult_of h.1 ((exec_fcmp k c e a b t s).trans (laneIssue_acts h hw (by simpa using ⟨ha, hb⟩) _ _))

/-- Settles O4: the truth is merged into the mask register, and a compare of integers raises no flag. -/
theorem compareResults : Obligations.CompareResults := ⟨integerCompare, floatCompare⟩

end Sys2Proof.Machine
end

section
/-! Proofs: floating results (O5). -/
namespace Sys2Proof.Machine

/-! Writes of a register or of a pair. -/

section
variable {s : State} {w : Issuer} (ht : Tracks s w) (d : Nat) (m : Mask) (tl tu : Nat) (f : Nat → Nat)
include ht

theorem putPair_tracks : Tracks (putPair s w d m tl tu f) w := putV_tracks _ _ _ _ _ (putV_tracks _ _ _ _ _ ht)

theorem putPair_local : Local s (putPair s w d m tl tu f) w (fun k => VKeys w.g d m k ∨ VKeys w.g (d + 1) m k) noKeys false :=
  ((putV_local d m tl tu _ ht).mono (fun _ => .inl) (fun _ => id) id).trans
    ((putV_local (d + 1) m tl tu _ (putV_tracks _ _ _ _ _ ht)).mono (fun _ => .inr) (fun _ => id) id)

theorem putPair_low (hd : d % 2 = 0) : HoldsV (putPair s w d m tl tu f) w d m fun l => BitVec.ofNat 32 (f l) :=
  (putV_holds d m tl tu _ ht).keep (putV_local (d + 1) m tl tu _ (putV_tracks _ _ _ _ _ ht)) (vkeys_pair_disjoint hd m)

theorem putPair_high : HoldsV (putPair s w d m tl tu f) w (d + 1) m fun l => BitVec.ofNat 32 (f l / 2 ^ 32) :=
  putV_holds (d + 1) m tl tu _ (putV_tracks _ _ _ _ _ ht)

end

/-- Between two states the active lanes of a floating result were written: a register, or a pair with `wide`. -/
structure WritesFloat (s t : State) (w : Issuer) (wide : Bool) (d : Nat) (m : Mask) (f : Nat → Nat) : Prop where
  tracks : Tracks t w
  low : HoldsV t w d m fun l => BitVec.ofNat 32 (f l)
  high : wide = true → HoldsV t w (d + 1) m fun l => BitVec.ofNat 32 (f l / 2 ^ 32)
  near : Local s t w (fun k => VKeys w.g d m k ∨ (wide = true ∧ VKeys w.g (d + 1) m k)) noKeys false

section
variable {s : State} {w : Issuer} (h : s.who = some w) {d : Nat} {m : Mask} {f : Nat → Nat}
include h

theorem writeLanes_writesFloat (n : Nat) : WritesFloat s (writeLanes s w d m n fun l => BitVec.ofNat 32 (f l)) w false d m f where
  tracks := putV_tracks _ _ _ _ _ (who_tracks h)
  low := putV_holds _ _ _ _ _ (who_tracks h)
  high := nofun
  near := (putV_local _ _ _ _ _ (who_tracks h)).mono (fun _ => .inl) (fun _ => id) id

theorem writePairs_writesFloat (hd : d % 2 = 0) (n : Nat) : WritesFloat s (writePairs s w d m n f) w true d m f where
  tracks := putPair_tracks (who_tracks h) ..
  low := putPair_low (who_tracks h) d m _ _ f hd
  high _ := putPair_high (who_tracks h) d m _ _ f
  near := (putPair_local (who_tracks h) d m _ _ f).mono (fun _ hk => hk.imp_right fun hhigh => ⟨rfl, hhigh⟩) (fun _ => id) id

/-- What a floating instruction does: it writes its results, raises its flags and goes on. -/
theorem floatResult_of {i : Instr} {t : State} {wide : Bool} {r : Nat → Nat × FFlags} {n : Nat}
    (ht : WritesFloat s t w wide d m fun l => (r l).1)
    (e : exec i s = .next (done (raiseFlags t w n (orFlags (fun l => (r l).2) (lanesOf m))) w)) : FloatResult s w i wide d m r := by
  obtain ⟨hgoes, hlocal, -, g, -, hgroup, hflags, -⟩ := local_raisesFlags h ht.tracks ht.near n (orFlags (fun l => (r l).2) (lanesOf m))
  have hkeep := raiseFlags_done_local t w n (orFlags (fun l => (r l).2) (lanesOf m))
  exact ⟨_, e, hgoes, ht.low.keep hkeep fun _ _ => id, fun hwide => (ht.high hwide).keep hkeep fun _ _ => id, hlocal, g, hgroup, hflags⟩

theorem writeFloat_writesFloat {t : FType} (hd : t = .f64 → d % 2 = 0) : WritesFloat s (writeFloat s w t d m f) w (t == .f64) d m f := by
  cases t
  case f64 => exact writePairs_writesFloat h (hd rfl) 6
  case f32 => exact writeLanes_writesFloat h 4
  case f16x2 => exact writeLanes_writesFloat h 4
  case bf16x2 => exact writeLanes_writesFloat h 4

end

/-! The instructions. -/

/-- Every form of the table is an operation on the elements of its type, and names even registers for f64. -/
theorem floatForms_fpR (s : State) (k : KReg) (d a b : VReg) (t : FType) : ∀ p ∈ floatForms,
    wellFormed (p.1 k d a b t) = floatRegs t [d, a, b] ∧ ∃ readD, exec (p.1 k d a b t) s = fpR s (p.1 k d a b t) k d a b t readD p.2 := by
  simp only [floatForms, List.forall_mem_cons]
  exact ⟨⟨rfl, _, rfl⟩, ⟨rfl, _, rfl⟩, ⟨rfl, _, rfl⟩, ⟨rfl, _, rfl⟩, ⟨rfl, _, rfl⟩, ⟨rfl, _, rfl⟩, fun _ hp => nomatch hp⟩

theorem floatRegs_even {d a b : VReg} {t : FType} (h : floatRegs t [d, a, b] = true) (ht : t = .f64) : d.val % 2 = 0 := by
  subst ht
  simp only [floatRegs, List.all_cons, evenReg, Bool.and_eq_true, beq_iff_eq] at h
  exact h.1

theorem floatResults : FloatResults := by
  intro s w k d a b t h hd ha hb p hp hw
  obtain ⟨hregs, readD, he⟩ := floatForms_fpR s k d a b t p hp
  exact floatResult_of h.1 (writeFloat_writesFloat h.1 (floatRegs_even (hregs.symm.trans hw)))
    (he.trans (laneIssue_acts h hw (by simpa using ⟨hd, ha, hb⟩) _ _))

theorem floatUniformForms_fpG (s : State) (k : KReg) (d a : VReg) (g : GReg) : ∀ p ∈ floatUniformForms,
    wellFormed (p.1 k d a g) = true ∧ ∃ readD, exec (p.1 k d a g) s = fpG s (p.1 k d a g) k d a g readD p.2 := by
  simp only [floatUniformForms, List.forall_mem_cons]
  exact ⟨⟨rfl, _, rfl⟩, ⟨rfl, _, rfl⟩, ⟨rfl, _, rfl⟩, ⟨rfl, _, rfl⟩, ⟨rfl, _, rfl⟩, ⟨rfl, _, rfl⟩, fun _ hp => nomatch hp⟩

/-- The result of a lane of a conversion as it is written: a pair as it is, a narrow one filled (11 R142). -/
def cvtResult (s : State) (w : Issuer) (dst src : NumFmt) (sat : Bool) (md : RMode) (a l : Nat) : Nat × FFlags :=
  let r := convert dst src sat (rndOf md) (cvtOperand s w src a l)
  (if dst.wide then r.1 else fillResult dst r.1, r.2)

section
variable {c : Fin 128} {dst src : NumFmt} {sat : Bool} (hc : cvtOf c.val = some (dst, src, sat))
include hc

theorem cvt_even {k : KReg} {d a : VReg} {md : RMode} (hw : wellFormed (.cvt k d a c md) = true) (hwide : dst.wide = true) :
    d.val % 2 = 0 := by
  simp only [wellFormed, cvtOk, hc, hwide, evenReg, Bool.and_eq_true, Bool.not_true, Bool.false_or, beq_iff_eq] at hw
  exact hw.1

theorem exec_cvt_listed (k : KReg) (d a : VReg) (md : RMode) (s : State) : exec (.cvt k d a c md) s =
    laneIssue s (.cvt k d a c md) [d, a] (readsV s k (cvtSpan src a)) fun w =>
      done (raiseFlags (if dst.wide then writePairs s w d (activeOf s w k) 4 fun l => (convert dst src sat (rndOf md) (cvtOperand s w src a l)).1
          else writeLanes s w d (activeOf s w k) 4 fun l =>
            BitVec.ofNat 32 (fillResult dst (convert dst src sat (rndOf md) (cvtOperand s w src a l)).1)) w 4
        (orFlags (fun l => (cvtResult s w dst src sat md a l).2) (lanesOf (activeOf s w k)))) w := by
  rw [exec_cvt, execCvt, hc]
  rfl

theorem cvt_result {s : State} {w : Issuer} (h : Issues s w) {k : KReg} {d a : VReg} {md : RMode} (hd : d.val < w.g.allot)
    (ha : a.val < w.g.allot) (hw : wellFormed (.cvt k d a c md) = true) :
    FloatResult s w (.cvt k d a c md) dst.wide d (activeOf s w k) (cvtResult s w dst src sat md a) := by
  have hact := (exec_cvt_listed hc k d a md s).trans (laneIssue_acts h hw (by simpa using ⟨hd, ha⟩) _ _)
  refine floatResult_of h.1 ?_ hact
  by_cases hwide : dst.wide = true
  · have hresult : (fun l => (cvtResult s w dst src sat md a l).1) = fun l => (convert dst src sat (rndOf md) (cvtOperand s w src a l)).1 :=
      funext fun l => if_pos hwide
    rw [hresult, if_pos hwide, hwide]
    exact writePairs_writesFloat h.1 (cvt_even hc hw hwide) 4
  · have hresult : (fun l => (cvtResult s w dst src sat md a l).1) = fun l =>
        fillResult dst (convert dst src sat (rndOf md) (cvtOperand s w src a l)).1 := funext fun l => if_neg hwide
    rw [hresult, if_neg hwide, Bool.eq_false_iff.mpr hwide]
    exact writeLanes_writesFloat h.1 4

end

theorem floatUniformAndConvert : FloatUniformAndConvert := by
  intro s w k d a g c md h hd ha
  refine ⟨fun p hp => ?_, fun dst src sat hc hw => cvt_result hc h hd ha hw⟩
  obtain ⟨hw, readD, he⟩ := floatUniformForms_fpG s k d a g p hp
  exact floatResult_of h.1 (writeLanes_writesFloat h.1 4) (he.trans (laneIssue_acts h hw (by simpa using ⟨hd, ha⟩) _ _))

/-- Settles O5: the results are written, to a pair where the type is wide, and then the flags are raised. -/
theorem floatingResults : Obligations.FloatingResults := ⟨floatResults, floatUniformAndConvert⟩

end Sys2Proof.Machine
end

section
/-! Proofs: global atomics (O27). -/
namespace Sys2Proof.Machine

section
variable {s : State} {w : Issuer} (h : Issues s w) (hgo : admitMine s w 5 (chargeOf s 5 0) = .go)
include h hgo

/-- What the statement says of an atomic of lanes. -/
theorem atomg_queues {k : KReg} {d a : VReg} {o : AtomOp} (hd : d.val < w.g.allot) (ha : a.val < w.g.allot)
    (hw : wellFormed (.atomg k d a o) = true) :
    (lanesOf (activeOf s w k) = [] → Moves s w (.atomg k d a o) (nextPc w))
      ∧ (lanesOf (activeOf s w k) ≠ [] → (∀ l ∈ lanesOf (activeOf s w k), lowVa (lanePair s w a l) 4 ∧ lanePair s w a l % 4 = 0) →
          Forks s w (.atomg k d a o) .gl 5 (chargeOf s 5 0) .reads (readQueued w s.nextId (.lanes d 4)
            ((lanesOf (activeOf s w k)).map fun l => ⟨l, lanePair s w a l, 4, 0⟩) (some o)
            ((lanesOf (activeOf s w k)).map fun l => (l, (laneV s w d l).setWidth 64, (laneV s w (d.val + 1) l).setWidth 64)) none)) := by
  have hlanes : GlobalLanes s w k (.atomg k d a o) 4 4 (lanePair s w a) (queueRead s w 5 (.lanes d 4)
      ((pairAddrs s w (activeOf s w k) a).map fun p => ⟨p.1, p.2, 4, 0⟩) (some o)
      ((pairAddrs s w (activeOf s w k) a).map fun p => (p.1, (laneV s w d p.1).setWidth 64, (laneV s w (d.val + 1) p.1).setWidth 64)) none) :=
    (exec_atomg k d a o s).trans (laneIssue_acts h hw (by simpa using ⟨hd, ha⟩) _ _)
  rw [pairAddrs, List.map_map, List.map_map] at hlanes
  refine ⟨hlanes.idle h.1, fun hne hgood => queueRead_forks h.1 hgo (hlanes.goes hne fun l hl => ?_)⟩
  obtain ⟨⟨hva, hend⟩, halign⟩ := hgood l hl
  exact ⟨hva, hend, halign⟩

theorem uldGAtom_queues {i : Instr} {d a b : Nat} {gs : List Nat} {o : AtomOp} (hw : wellFormed i = true)
    (e : exec i s = uldGAtom s i d a b gs o) (hlow : lowVa (uniG s w a).toNat 8) (halign : (uniG s w a).toNat % 8 = 0) :
    Forks s w i .gl 5 (chargeOf s 5 0) .reads (readQueued w s.nextId (.uniform d 8) [⟨0, (uniG s w a).toNat, 8, 0⟩] (some o)
      [(0, uniG s w b, uniG s w d)] none) := by
  have huni : GlobalUniform s w i 8 8 a (queueRead s w 5 (.uniform d 8) [⟨0, (uniG s w a).toNat, 8, 0⟩] (some o)
      [(0, uniG s w b, uniG s w d)] none) := e.trans (uniIssue_acts h hw (by simp) (by simp) _ _)
  obtain ⟨hva, hend⟩ := hlow
  exact queueRead_forks h.1 hgo (huni.goes hva hend halign)

end

/-- Settles O27: an admitted atomic whose addresses are good and aligned forks its operation and queues its accesses. -/
theorem globalAtomics : Obligations.GlobalAtomics := by
  intro s w k d a o e b c h hd ha hgo
  simp only [List.forall_mem_cons]
  refine ⟨atomg_queues h hgo hd ha, ?_, ?_, ?_, fun _ hp => nomatch hp⟩
  · exact uldGAtom_queues h hgo rfl (exec_uldGAdd e b c s)
  · exact uldGAtom_queues h hgo rfl (exec_uldGExch e b c s)
  · exact uldGAtom_queues h hgo rfl (exec_uldGCas e b c s)

end Sys2Proof.Machine
end

section
/-! Proofs: uniform arithmetic (O10). -/
namespace Sys2Proof.Machine

section
variable {s : State} {w : Issuer} (h : Issues s w) {i : Instr} (hw : wellFormed i = true) {d a : Nat}
include h hw

theorem ualu_result {b : Nat} {f : DWord → DWord → DWord} (e : exec i s = ualu s i d a b f) :
    UniResult s w i d (f (uniG s w a) (uniG s w b)) :=
  uniResult_of h.1 (e.trans (uniIssue_acts h hw (by simp) (by simp) _ _))

theorem ualu1_result {f : DWord → DWord} (e : exec i s = ualu1 s i d a f) : UniResult s w i d (f (uniG s w a)) :=
  uniResult_of h.1 (e.trans (uniIssue_acts h hw (by simp) (by simp) _ _))

end

/-! The comparisons of the statement are those of the words (12 R162). -/

theorem uniMinS_sle : uniMinS = fun x y => if x.sle y then x else y := by
  funext x y
  simp only [uniMinS, BitVec.sle_iff_toInt_le]

theorem uniMaxS_sle : uniMaxS = fun x y => if x.sle y then y else x := by
  funext x y
  simp only [uniMaxS, BitVec.sle_iff_toInt_le]

theorem uniMinZ_ule : uniMinZ = fun x y => if x.ule y then x else y := by
  funext x y
  simp only [uniMinZ, BitVec.ule_iff_toNat_le]

theorem uniMaxZ_ule : uniMaxZ = fun x y => if x.ule y then y else x := by
  funext x y
  simp only [uniMaxZ, BitVec.ule_iff_toNat_le]

theorem uniCmpEq_eq : uniCmpEq = fun x y => if x = y then 1 else 0 := by
  funext x y
  simp only [uniCmpEq, flag64, beq_iff_eq]

theorem uniCmpLtS_toInt : uniCmpLtS = fun x y => if x.toInt < y.toInt then 1 else 0 := by
  funext x y
  simp only [uniCmpLtS, flag64, BitVec.slt_iff_toInt_lt]

theorem uniCmpLtZ_toNat : uniCmpLtZ = fun x y => if x.toNat < y.toNat then 1 else 0 := by
  funext x y
  simp only [uniCmpLtZ, flag64, BitVec.ult_iff_toNat_lt]

theorem uniCmpLeS_toInt : uniCmpLeS = fun x y => if x.toInt ≤ y.toInt then 1 else 0 := by
  funext x y
  simp only [uniCmpLeS, flag64, BitVec.sle_iff_toInt_le]

theorem uniCmpLeZ_toNat : uniCmpLeZ = fun x y => if x.toNat ≤ y.toNat then 1 else 0 := by
  funext x y
  simp only [uniCmpLeZ, flag64, BitVec.ule_iff_toNat_le]

/-- Every form of the table is a uniform operation of its function. -/
theorem uniformForms_ualu (s : State) (d a b : GReg) : ∀ p ∈ uniformForms, wellFormed (p.1 d a b) = true
    ∧ exec (p.1 d a b) s = ualu s (p.1 d a b) d a b p.2 := by
  simp only [uniformForms, ← uniMinS_sle, ← uniMaxS_sle, ← uniMinZ_ule, ← uniMaxZ_ule, ← uniCmpEq_eq, ← uniCmpLtS_toInt, ← uniCmpLtZ_toNat,
    ← uniCmpLeS_toInt, ← uniCmpLeZ_toNat, List.forall_mem_cons]
  exact ⟨⟨rfl, rfl⟩, ⟨rfl, rfl⟩, ⟨rfl, rfl⟩, ⟨rfl, rfl⟩, ⟨rfl, rfl⟩, ⟨rfl, rfl⟩, ⟨rfl, rfl⟩, ⟨rfl, rfl⟩, ⟨rfl, rfl⟩, ⟨rfl, rfl⟩, ⟨rfl, rfl⟩,
    ⟨rfl, rfl⟩, ⟨rfl, rfl⟩, ⟨rfl, rfl⟩, ⟨rfl, rfl⟩, ⟨rfl, rfl⟩, ⟨rfl, rfl⟩, ⟨rfl, rfl⟩, ⟨rfl, rfl⟩, ⟨rfl, rfl⟩, ⟨rfl, rfl⟩, ⟨rfl, rfl⟩,
    ⟨rfl, rfl⟩, fun _ hp => nomatch hp⟩

theorem uniformResults : UniformResults := by
  intro s w d a b h p hp
  obtain ⟨hw, he⟩ := uniformForms_ualu s d a b p hp
  exact ualu_result h hw he

/-! The forms with one operand. -/

theorem uniPopc_eq (x : DWord) : uniPopc x = BitVec.ofNat 64 ((List.range 64).filter fun j => x.getLsbD j).length := by
  rw [uniPopc, popcount_eq]
  rfl

theorem uniClz_eq (x : DWord) : uniClz x = if x = 0 then 64 else BitVec.ofNat 64 (63 - Nat.log2 x.toNat) := by
  have hzero : x.toNat = 0 ↔ x = 0 := by rw [BitVec.toNat_eq]; rfl
  rw [uniClz, leadingZeros_eq x.isLt]
  simp only [hzero]
  split <;> rfl

/-- A shift left multiplies by a power of two, cut to the word. -/
theorem shiftLeft_eq_ofNat_mul (x : DWord) (n : Nat) : x <<< n = BitVec.ofNat 64 (x.toNat * 2 ^ n) := by
  refine BitVec.eq_of_toNat_eq ?_
  rw [BitVec.toNat_shiftLeft, Nat.shiftLeft_eq, BitVec.toNat_ofNat]

/-- The immediate of UHI stands in bits 31 to 12 of a word (12 R163). -/
theorem append_zero_eq_shiftLeft (j : BitVec 20) : j ++ (0 : BitVec 12) = (j.setWidth 32) <<< 12 := by
  refine BitVec.eq_of_toNat_eq ?_
  simp only [BitVec.toNat_append, BitVec.toNat_shiftLeft, BitVec.toNat_setWidth, Nat.shiftLeft_eq]
  have hlt := j.isLt
  simp
  omega

theorem uhi_result {s : State} {w : Issuer} (h : Issues s w) (d : GReg) (j : BitVec 20) :
    UniResult s w (.uhi d j) d (((j.setWidth 32) <<< 12).signExtend 64) :=
  append_zero_eq_shiftLeft j ▸ uniResult_of h.1 ((exec_uhi d j s).trans (uniIssue_acts h rfl (by simp) (by simp) _ _))

theorem uniformImmediates : UniformImmediates := by
  intro s w d a i j n h x
  simp only [← uniPopc_eq, ← uniClz_eq, ← shiftLeft_eq_ofNat_mul]
  refine ⟨?_, ?_, ?_, ?_, ?_, ?_, ?_, ?_, uhi_result h d j⟩
  · exact ualu1_result h rfl (exec_upopc d a s)
  · exact ualu1_result h rfl (exec_uclz d a s)
  · exact ualu1_result h rfl (exec_umov d a s)
  · exact ualu1_result h rfl (exec_uaddi d a i s)
  · exact ualu1_result h rfl (exec_uandi d a i s)
  · exact ualu1_result h rfl (exec_uori d a i s)
  · exact ualu1_result h rfl (exec_uxori d a i s)
  · exact ualu1_result h rfl (exec_ushli d a n s)

/-- Settles O10: each form is a uniform operation of its function, which writes its result and retires. -/
theorem uniformArithmetic : Obligations.UniformArithmetic := ⟨uniformResults, uniformImmediates⟩

end Sys2Proof.Machine
end

section
/-! Proofs: lane reads, votes and mask operations (O11). -/
namespace Sys2Proof.Machine

/-! The lanes whose value is not 0. -/

theorem getLsbD_maskOf (ls : List Nat) {l : Nat} (hl : l < 32) : (maskOf ls).getLsbD l = decide (l ∈ ls) := by
  rw [maskOf, getLsbD_foldl_oneLane _ _ hl]
  simp

theorem maskOf_eq_zero {ls : List Nat} (h : ∀ l ∈ ls, l < 32) : maskOf ls = 0 ↔ ls = [] := by
  refine ⟨fun hzero => List.eq_nil_iff_forall_not_mem.mpr fun l hl => ?_, fun hnil => hnil ▸ rfl⟩
  have hbit := getLsbD_maskOf ls (h l hl)
  rw [hzero, decide_eq_true hl] at hbit
  exact absurd hbit (by simp)

/-- A mask is that of the lanes it keeps just when it keeps them all. -/
theorem maskOf_filter_eq (m : Mask) (p : Nat → Bool) : maskOf ((lanesOf m).filter p) = m ↔ (lanesOf m).all p = true := by
  rw [List.all_eq_true]
  refine ⟨fun heq l hl => ?_, fun hall => BitVec.eq_of_getLsbD_eq fun l hl => ?_⟩
  · obtain ⟨hlt, hbit⟩ := mem_lanesOf.mp hl
    rw [← heq, getLsbD_maskOf _ hlt, decide_eq_true_iff, List.mem_filter] at hbit
    exact hbit.2
  · rw [List.filter_eq_self.mpr hall, getLsbD_maskOf _ hl]
    simp [mem_lanesOf, hl]

/-- The number of a mask of lanes in ascending order is the sum of its lanes' bits. -/
theorem toNat_foldl_oneLane {ls : List Nat} (hlt : ∀ l ∈ ls, l < 32) (hnodup : ls.Nodup) (m : Mask) (hm : ∀ l ∈ ls, m.getLsbD l = false) :
    (ls.foldl (fun m l => m ||| oneLane l) m).toNat = ls.foldl (fun n l => n + 2 ^ l) m.toNat := by
  induction ls generalizing m with
  | nil => rfl
  | cons l ls ih =>
    obtain ⟨hl, hlt⟩ := List.forall_mem_cons.mp hlt
    obtain ⟨hml, hm⟩ := List.forall_mem_cons.mp hm
    obtain ⟨hnew, hnodup⟩ := List.nodup_cons.mp hnodup
    have hone : (oneLane l).toNat = 2 ^ l := by
      simp [oneLane, Nat.shiftLeft_eq, Nat.mod_eq_of_lt (Nat.pow_lt_pow_right Nat.one_lt_two hl)]
    have happart : m &&& oneLane l = 0#32 := BitVec.eq_of_getLsbD_eq fun k hk => by
      rw [BitVec.getLsbD_and, getLsbD_oneLane l k hk, BitVec.getLsbD_zero]
      by_cases hkl : k = l
      · rw [hkl, hml, Bool.false_and]
      · rw [decide_eq_false hkl, Bool.and_false]
    have hsum : (m ||| oneLane l).toNat = m.toNat + 2 ^ l := by
      rw [← BitVec.add_eq_or_of_and_eq_zero _ _ happart, BitVec.toNat_add_of_and_eq_zero happart, hone]
    rw [List.foldl_cons, List.foldl_cons, ← hsum]
    refine ih hlt hnodup _ fun k hk => ?_
    have hne : k ≠ l := fun he => hnew (he ▸ hk)
    rw [BitVec.getLsbD_or, hm k hk, getLsbD_oneLane l k (hlt k hk), decide_eq_false hne]
    rfl

/-- The number of the lanes of a mask that satisfy a predicate (12 R181). -/
theorem setWidth_maskOf_filter (m : Mask) (p : Nat → Bool) : (maskOf ((lanesOf m).filter p)).setWidth 64
    = BitVec.ofNat 64 ((lanesOf m).foldl (fun n l => if p l then n + 2 ^ l else n) 0) := by
  have hlt : ∀ l ∈ (lanesOf m).filter p, l < 32 := fun l hl => (mem_lanesOf.mp (List.mem_filter.mp hl).1).1
  have hnum := toNat_foldl_oneLane hlt ((lanesOf_nodup m).filter p) 0 fun l _ => BitVec.getLsbD_zero
  rw [List.foldl_filter (f := fun n l => n + 2 ^ l)] at hnum
  rw [← BitVec.ofNat_toNat, maskOf, hnum]
  rfl

section
variable (s : State) (w : Issuer) (v : Nat)

theorem voteAny_eq : flag64 (nonZero s w v != 0) = flag64 ((lanesOf w.sp.mask).any fun l => uniV s w v l != 0) := by
  have hlt : ∀ l ∈ (lanesOf w.sp.mask).filter fun l => uniV s w v l != 0, l < 32 :=
    fun l hl => (mem_lanesOf.mp (List.mem_filter.mp hl).1).1
  have hany : (nonZero s w v != 0) = (lanesOf w.sp.mask).any fun l => uniV s w v l != 0 := by
    rw [Bool.eq_iff_iff, bne_iff_ne, nonZero, Ne, maskOf_eq_zero hlt, List.filter_eq_nil_iff, List.any_eq_true]
    push Not
    rfl
  rw [hany]

theorem voteAll_eq : flag64 (nonZero s w v == w.sp.mask) = flag64 ((lanesOf w.sp.mask).all fun l => uniV s w v l != 0) := by
  have hall : (nonZero s w v == w.sp.mask) = (lanesOf w.sp.mask).all fun l => uniV s w v l != 0 := by
    rw [Bool.eq_iff_iff, beq_iff_eq, nonZero, maskOf_filter_eq]
  rw [hall]

end

section
variable {s : State} {w : Issuer} (h : Issues s w) {i : Instr} (hw : wellFormed i = true)
include h hw

theorem laneToUni_result {d v : Nat} (hv : v < w.g.allot) {gs : List Nat} {lanes : Issuer → Mask} {f : Issuer → DWord}
    (e : exec i s = laneToUni s i d v gs lanes f) : UniResult s w i d (f w) :=
  uniResult_of h.1 (e.trans (uniIssue_acts h hw (by simp) (by simpa using hv) _ _))

/-- A uniform instruction that writes a whole mask register. -/
theorem putMask_result {named : List Nat} {e : Nat} {srcs : Issuer → List Src} {f : Issuer → Mask} {truth : Nat → Bool}
    (htruth : ∀ l, l < 32 → (f w).getLsbD l = truth l) (hnamed : ∀ r ∈ named, r < w.g.allot)
    (he : exec i s = uniIssue s i false named srcs fun w => done (putMask s w e (f w)) w) :
    MaskResult s w i e (BitVec.allOnes 32) truth noFlags := by
  have hmask : f w = maskFrom truth := BitVec.eq_of_getLsbD_eq fun l hl => by rw [htruth l hl, getLsbD_maskFrom _ hl]
  have hact := he.trans (uniIssue_acts h hw (by simp) hnamed _ _)
  rw [hmask] at hact
  exact maskResult_of h.1 (n := 0) hact

theorem umask2_result {e a b : Nat} {f : Mask → Mask → Mask} {op : Bool → Bool → Bool}
    (hop : ∀ (x y : Mask) (l : Nat), l < 32 → (f x y).getLsbD l = op (x.getLsbD l) (y.getLsbD l)) (he : exec i s = umask2 s i e a b f) :
    MaskResult s w i e (BitVec.allOnes 32) (fun l => op ((maskK s w true a).getLsbD l) ((maskK s w true b).getLsbD l)) noFlags :=
  putMask_result h hw (fun l hl => hop _ _ l hl) (by simp) he

end

theorem getLsbD_not_of_lt (x : Mask) {l : Nat} (hl : l < 32) : (~~~x).getLsbD l = !x.getLsbD l := by
  rw [BitVec.getLsbD_not, decide_eq_true hl, Bool.true_and]

/-- Settles O11: a read of lanes writes its value, and a mask operation its mask, lane by lane. -/
theorem laneToUniformAndMasks : Obligations.LaneToUniformAndMasks := by
  intro s w d b v e i j h hv ls x one ones
  refine ⟨?_, ?_, ?_, ?_, ?_, ?_, ?_, ?_, ?_, ?_, ?_, ?_⟩
  · exact laneToUni_result h rfl hv (exec_readlane d v b s)
  · exact laneToUni_result h rfl hv (exec_readfirst d v s)
  · have hvote := laneToUni_result h rfl hv (exec_voteAny d v s)
    rwa [voteAny_eq] at hvote
  · have hvote := laneToUni_result h rfl hv (exec_voteAll d v s)
    rwa [voteAll_eq] at hvote
  · exact setWidth_maskOf_filter w.sp.mask _ ▸ laneToUni_result h rfl hv (exec_ballot d v s)
  · exact putMask_result h rfl (fun l hl => by rw [BitVec.getLsbD_setWidth, decide_eq_true hl, Bool.true_and]) (by simp) (exec_umaskSet e b s)
  · exact uniResult_of h.1 ((exec_umaskGet d i s).trans (uniIssue_acts h rfl (by simp) (by simp) _ _))
  · exact umask2_result h rfl (op := (· && ·)) (fun _ _ _ _ => BitVec.getLsbD_and) (exec_umaskAnd e i j s)
  · exact umask2_result h rfl (op := (· || ·)) (fun _ _ _ _ => BitVec.getLsbD_or) (exec_umaskOr e i j s)
  · exact umask2_result h rfl (op := (· != ·)) (fun _ _ _ _ => BitVec.getLsbD_xor) (exec_umaskXor e i j s)
  · exact umask2_result h rfl (op := fun y z => y && !z) (fun _ _ _ hl => by rw [BitVec.getLsbD_and, getLsbD_not_of_lt _ hl])
      (exec_umaskAndn e i j s)
  · exact putMask_result h rfl (fun _ hl => getLsbD_not_of_lt _ hl) (by simp) (exec_umaskNot e i s)

end Sys2Proof.Machine
end

section
/-! Proofs: targets that are no address (O15). -/
namespace Sys2Proof.Machine

theorem toTarget_traps {s : State} {w : Issuer} {t : Int} (ht : t < 0 ∨ 2 ^ 57 - 4 < t) (go : PC → State) :
    toTarget s w t go = trapAll s w .accessViolation (BitVec.ofInt 64 t) := by
  have hbad : targetOk t = false := decide_eq_false (by omega)
  rw [toTarget, hbad, if_neg Bool.false_ne_true]

/-- What a register that holds no address does to a jump (12 R161). -/
theorem toRegister_traps {s : State} {w : Issuer} {i : Instr} {x : DWord} {go : PC → State} (e : exec i s = .next (toRegister s w x go)) :
    (x.toNat % 4 ≠ 0 → exec i s = .next (trapAll s w .misaligned x))
      ∧ (x.toNat % 4 = 0 → 2 ^ 57 ≤ x.toNat → exec i s = .next (trapAll s w .accessViolation x)) := by
  refine ⟨fun hodd => ?_, fun halign hhigh => ?_⟩
  · rw [e, toRegister, if_pos hodd]
  · have hva : highVa x.toNat = true := decide_eq_true hhigh
    rw [e, toRegister, if_neg (not_not_intro halign), if_pos hva]

/-- Settles O15: a target is tested before anything else is done, one of an instruction by `toTarget` and one in a register by
`toRegister`. -/
theorem branchTargetTraps : Obligations.BranchTargetTraps := by
  intro s w c k v a o m n h out near mid far register
  refine ⟨fun hw ht => ?_, fun ht => ?_, fun ht => ?_, ?_, ?_, ?_⟩
  · rw [exec_br, execBr, uniIssue_acts h hw (by simp) (by simp)]
    exact congrArg _ (toTarget_traps ht _)
  · rw [exec_brd, execBrd, uniIssue_acts h rfl (by simp) (by simp)]
    exact congrArg _ (toTarget_traps ht _)
  · rw [exec_call, execCall, uniIssue_acts h rfl (by simp) (by simp)]
    exact congrArg _ (toTarget_traps ht _)
  · exact toRegister_traps ((exec_jmpi a s).trans (uniIssue_acts h rfl (by simp) (by simp) _ _))
  · exact toRegister_traps ((exec_calli a s).trans (uniIssue_acts h rfl (by simp) (by simp) _ _))
  · exact toRegister_traps ((exec_ret s).trans (uniIssue_acts h rfl (by simp) (by simp) _ _))

end Sys2Proof.Machine
end

section
/-! Proofs: writes of system registers (O13). -/
namespace Sys2Proof.Machine

/-! The bits that a register keeps. -/

/-- Bits of a value in place are the value under a mask of ones. -/
theorem keepBits_eq_and (v : DWord) (lo n : Nat) : keepBits v.toNat lo n = v &&& BitVec.ofNat 64 ((2 ^ n - 1) * 2 ^ lo) := by
  refine BitVec.eq_of_getLsbD_eq fun i hi => ?_
  rw [keepBits, bits, BitVec.getLsbD_and, BitVec.getLsbD_ofNat, BitVec.getLsbD_ofNat, decide_eq_true hi, Nat.testBit_mul_two_pow,
    Nat.testBit_mul_two_pow, Nat.testBit_mod_two_pow, Nat.testBit_div_two_pow, Nat.testBit_two_pow_sub_one, BitVec.getLsbD]
  by_cases hlo : lo ≤ i
  · rw [decide_eq_true hlo, Nat.sub_add_cancel hlo, Bool.true_and, Bool.true_and, Bool.true_and, Bool.true_and, Bool.and_comm]
  · simp [hlo]

/-- Bits kept by two masks that do not meet are those kept by both. -/
theorem and_add_and {a b : DWord} (h : a &&& b = 0) (v : DWord) : (v &&& a) + (v &&& b) = v &&& (a ||| b) := by
  have hapart : (v &&& a) &&& (v &&& b) = 0#64 := by
    calc (v &&& a) &&& (v &&& b) = (v &&& v) &&& (a &&& b) := by ac_rfl
      _ = 0#64 := by rw [h]; exact BitVec.and_zero
  rw [BitVec.add_eq_or_of_and_eq_zero _ _ hapart, ← BitVec.and_or_distrib_left]

/-- %tvstack keeps three fields (22 R284). -/
theorem tvstackOf_eq_and (v : DWord) : tvstackOf v.toNat = v &&& 0x01FFFFFFFFFF1F1F := by
  have hsum : tvstackOf v.toNat = keepBits v.toNat 0 5 + keepBits v.toNat 8 5 + keepBits v.toNat 16 41 := by
    simp only [tvstackOf, keepBits, ← BitVec.ofNat_add]
    congr 1
    ring
  rw [hsum, keepBits_eq_and, keepBits_eq_and, keepBits_eq_and, and_add_and (by decide), and_add_and (by decide)]
  rfl

/-- %trcctl keeps its flags and LOG, and its area (29 R373). -/
theorem trcctl_eq_and (v : DWord) : BitVec.ofNat 64 (bits v.toNat 0 11 + trcArea v.toNat) = v &&& 0x01FFFFFFFFFF07FF := by
  have hsum : BitVec.ofNat 64 (bits v.toNat 0 11 + trcArea v.toNat) = keepBits v.toNat 0 11 + keepBits v.toNat 16 41 := by
    simp only [trcArea, keepBits, ← BitVec.ofNat_add]
    congr 1
    ring
  rw [hsum, keepBits_eq_and, keepBits_eq_and, and_add_and (by decide)]
  rfl

/-! Writes that change the group alone, or the context alone. -/

/-- An instruction that changes its group by `F` and goes on, where `F` is `f` but for splits, writes in flight and counts. -/
theorem completes_of_modMine {s : State} {w : Issuer} (h : s.who = some w) {i : Instr} {f F : Group → Group}
    (e : exec i s = .next (done (s.modMine w F) w)) (hF : KeepsPlace F) (hf : ∀ g, GroupBy f g (F g)) : Completes s w i f :=
  ⟨_, e, retire_goesOn _ _ ((who_tracks h).modGroup hF) (who_parts h).2.1,
    (modGroup_near (rel := GroupBy f) F hF.slot hf).by_trans (retire_near ..)⟩

section
variable {s : State} {w : Issuer} (h : Issues s w) {a : GReg}
include h

theorem groupWrites_complete : ∀ p ∈ groupWrites (uniG s w a), Completes s w (.umovt a p.1) p.2 := by
  have hpc : keepBits (uniG s w a).toNat 2 55 = uniG s w a &&& 0x01FFFFFFFFFFFFFC := keepBits_eq_and _ 2 55
  have hcause : keepBits (uniG s w a).toNat 0 16 = uniG s w a &&& 0xFFFF := keepBits_eq_and _ 0 16
  have hmask : keepBits (uniG s w a).toNat 0 32 = uniG s w a &&& 0xFFFFFFFF := keepBits_eq_and _ 0 32
  have hact := fun (r : Fin 64) (hr : wellFormed (.umovt a r) = true) =>
    (exec_umovt a r s).trans (uniIssue_acts h hr (by simp) (by simp) _ _)
  simp only [groupWrites, ← hpc, ← hcause, ← hmask, List.forall_mem_cons]
  refine ⟨?_, ?_, ?_, ?_, ?_, ?_, ?_, ?_, fun _ hp => nomatch hp⟩
  all_goals exact completes_of_modMine h.1 (hact _ rfl) ⟨fun _ => rfl, fun _ => rfl, fun _ => rfl, fun _ => rfl, fun _ => rfl⟩ fun _ => ⟨rfl, rfl⟩

theorem spill_completes (hspilled : w.g.spilled = 0) :
    Completes s w (.umovt a 29) fun g => { g with spill := uniG s w a &&& 0x01FFFFFFFFFFFFFF } := by
  have hkeep : keepBits (uniG s w a).toNat 0 57 = uniG s w a &&& 0x01FFFFFFFFFFFFFF := keepBits_eq_and _ 0 57
  have hact := (exec_umovt a 29 s).trans (uniIssue_acts h rfl (by simp) (by simp) _ _)
  rw [← hkeep]
  exact completes_of_modMine h.1 (hact.trans (congrArg _ (if_pos hspilled)))
    ⟨fun _ => rfl, fun _ => rfl, fun _ => rfl, fun _ => rfl, fun _ => rfl⟩ fun _ => ⟨rfl, rfl⟩

theorem spill_traps (hspilled : w.g.spilled ≠ 0) : exec (.umovt a 29) s = .next (trapAll s w .stackOverflow 0) :=
  ((exec_umovt a 29 s).trans (uniIssue_acts h rfl (by simp) (by simp) _ _)).trans (congrArg _ (if_neg hspilled))

theorem keyid_traps {x : Ctx} (hx : s.ctx? w.g.ctx = some x) (hkey : s.holdsKey x.func ((uniG s w a).toNat % 256) = false) :
    exec (.umovt a 33) s = .next (trapAll s w .privilege (uniG s w a)) := by
  rw [← ctxOf_eq hx] at hkey
  exact ((exec_umovt a 33 s).trans (uniIssue_acts h rfl (by simp) (by simp) _ _)).trans
    (congrArg _ (if_neg (by rw [hkey]; exact Bool.false_ne_true)))

/-- An instruction that changes its context by `f` and goes on. -/
theorem changesCtx {x : Ctx} (hx : s.ctx? w.g.ctx = some x) {i : Instr} {f : Ctx → Ctx}
    (e : exec i s = .next (done (s.modCtx w.g.ctx f) w)) (hf : ∀ x, (f x).id = x.id) : ∃ t, exec i s = .next t ∧ GoesOn t w (nextPc w) ∧ t.ctx? x.id = some (f x)
      ∧ (∀ i, i ≠ x.id → t.ctx? i = s.ctx? i) ∧ Local s { t with ctxs := s.ctxs } w noKeys noKeys false := by
  have hid : x.id = w.g.ctx := by simpa using List.find?_some hx
  have hctx : ∀ b, (done (s.modCtx w.g.ctx f) w).ctx? b = (s.ctx? b).map fun y => if b = w.g.ctx then f y else y :=
    fun b => modCtx_ctx s w.g.ctx b f hf
  refine ⟨_, e, retire_goesOn _ _ ((who_tracks h.1).sameCores rfl) (who_parts h.1).2.1, ?_, fun b hb => ?_, retire_local s w (nextPc w) 1⟩
  · rw [hctx, hid, hx, Option.map_some, if_pos rfl]
  · rw [hid] at hb
    simp only [hctx, if_neg hb, Option.map_id']

theorem contextWrites_complete {x : Ctx} (hx : s.ctx? w.g.ctx = some x) : ∀ p ∈ contextWrites (uniG s w a),
    (p.1 = 33 → s.holdsKey x.func ((uniG s w a).toNat % 256) = true) → ∃ t, exec (.umovt a p.1) s = .next t ∧ GoesOn t w (nextPc w)
      ∧ t.ctx? x.id = some (p.2 x) ∧ (∀ i, i ≠ x.id → t.ctx? i = s.ctx? i) ∧ Local s { t with ctxs := s.ctxs } w noKeys noKeys false := by
  simp only [contextWrites, ← tvstackOf_eq_and, true_implies, List.forall_mem_cons]
  refine ⟨fun _ => ?_, fun hkey => ?_, fun _ hp => nomatch hp⟩
  · have hact := (exec_umovt a 30 s).trans (uniIssue_acts h rfl (by simp) (by simp) _ _)
    exact changesCtx h hx hact fun _ => rfl
  · have hact := (exec_umovt a 33 s).trans (uniIssue_acts h rfl (by simp) (by simp) _ _)
    rw [← ctxOf_eq hx] at hkey
    exact changesCtx h hx (hact.trans (congrArg _ (if_pos hkey))) fun _ => rfl

end

end Sys2Proof.Machine
end

section
/-! Proofs: a write of %trcctl that finds the trace off (O13). -/
namespace Sys2Proof.Machine

/-! A change of every core. -/

section
variable {s t : State} {F : Core → Core} (ht : t.cores = s.cores.map F) (hF : ∀ k, (F k).index = k.index) (c : Nat)
include ht hF

theorem mapCores_find : (t.cores.find? fun k => k.index == c) = (s.cores.find? fun k => k.index == c).map F := by
  rw [ht, List.find?_map]
  simp only [Function.comp_def, hF]

/-- A core after every core is changed: a core that the list does not hold stays so. -/
theorem mapCores_core :
    t.core c = F (s.core c) ∨ (s.cores.find? fun k => k.index == c) = none ∧ t.core c = Core.idle c := by
  have hfind := mapCores_find ht hF c
  cases hk : s.cores.find? fun k => k.index == c with
  | none => exact .inr ⟨rfl, by rw [State.core, hfind, hk]; rfl⟩
  | some k =>
    left
    rw [State.core, hfind, State.core, hk]
    rfl

end

theorem core_of_find_none {s : State} {c : Nat} (h : (s.cores.find? fun k => k.index == c) = none) : s.core c = Core.idle c := by
  rw [State.core, h]
  rfl

/-- A core that a change of another leaves out of the list was not in it before. -/
theorem find_none_of_setCore {s : State} {x : Core} {c : Nat} (h : ((s.setCore x).cores.find? fun k => k.index == c) = none) :
    (s.cores.find? fun k => k.index == c) = none ∧ c ≠ x.index := by
  have hne : c ≠ x.index := fun he => by
    rw [he, State.setCore, find_putCore_same] at h
    exact nomatch h
  exact ⟨(find_putCore_other x c hne s.cores).symm.trans h, hne⟩

/-! Trace units and trace streams. -/

/-- A group with other trace streams. -/
def withStreams (l : Group → List Stream) (g : Group) : Group := { g with streams := l g }

/-- A group with the trace streams of another. -/
def takeStreams (g h : Group) : Group := { g with streams := h.streams }

/-- A core with the trace units and the trace streams of another. -/
def Core.tracedAs (y z : Core) : Core :=
  { y with tracers := z.tracers, groups := List.zipWith takeStreams y.groups z.groups }

theorem traceOf_cores (s t : State) : (traceOf s t).cores = t.cores.map fun y => y.tracedAs (s.core y.index) := rfl

/-- Of a core at most the trace units and the trace streams of its groups differ. -/
def Retraces (k y : Core) : Prop := ∃ l, y = { k with tracers := y.tracers, groups := k.groups.map (withStreams l) }

theorem Retraces.refl (k : Core) : Retraces k k := by
  refine ⟨Group.streams, ?_⟩
  rw [show withStreams Group.streams = id from rfl, List.map_id]

theorem Retraces.trans {k y z : Core} (h : Retraces k y) (j : Retraces y z) : Retraces k z := by
  obtain ⟨l, hy⟩ := h
  obtain ⟨m, hz⟩ := j
  refine ⟨fun g => m (withStreams l g), ?_⟩
  rw [hy] at hz
  rw [hz, List.map_map]
  rfl

theorem zipWith_streams (l : Group → List Stream) (gs : List Group) :
    List.zipWith takeStreams (gs.map (withStreams l)) gs = gs := by
  induction gs with
  | nil => rfl
  | cons g gs ih => rw [List.map_cons, List.zipWith_cons_cons, ih]; rfl

/-- With its trace units and streams put back a core is as it was. -/
theorem Retraces.tracedAs {k y : Core} (h : Retraces k y) : y.tracedAs k = k := by
  obtain ⟨l, hy⟩ := h
  rw [hy, Core.tracedAs, zipWith_streams]

/-- A change of a group that does not see its trace streams and leaves them. -/
def IgnoresStreams (f : Group → Group) : Prop := ∀ (g : Group) (l : List Stream), f { g with streams := l } = { f g with streams := l }

theorem zipWith_replaceFirst {f : Group → Group} (hf : IgnoresStreams f) (l : Group → List Stream) (slot : Nat) (gs : List Group) :
    List.zipWith takeStreams
      (replaceFirst (fun g => g.slot == slot) f (gs.map (withStreams l))) gs = replaceFirst (fun g => g.slot == slot) f gs := by
  induction gs with
  | nil => rfl
  | cons g gs ih =>
    rw [List.map_cons, replaceFirst, replaceFirst]
    have hslot : (withStreams l g).slot = g.slot := rfl
    rw [hslot]
    by_cases hg : (g.slot == slot) = true
    · have hstreams : takeStreams (f (withStreams l g)) g = f g := by
        rw [withStreams, hf]
        exact (hf g g.streams).symm
      rw [if_pos hg, if_pos hg, List.zipWith_cons_cons, zipWith_streams, hstreams]
    · rw [if_neg hg, if_neg hg, List.zipWith_cons_cons, ih]
      rfl

/-- The same for a core one of whose groups has changed since. -/
theorem Retraces.modGroup_tracedAs {k y : Core} (h : Retraces k y) {f : Group → Group} (hf : IgnoresStreams f) (slot : Nat) :
    (y.modGroup slot f).tracedAs k = k.modGroup slot f := by
  obtain ⟨l, hy⟩ := h
  rw [hy, Core.modGroup, Core.tracedAs]
  dsimp only
  rw [zipWith_replaceFirst hf]
  rfl

theorem Retraces.group {k y : Core} (h : Retraces k y) (slot : Nat) :
    ∃ l, y.group? slot = (k.group? slot).map (withStreams l) := by
  obtain ⟨l, hy⟩ := h
  refine ⟨l, ?_⟩
  rw [hy, Core.group?, Core.group?, List.find?_map]
  rfl

/-! What a write of %trcctl does to the cores (29 R373, R377). -/

/-- The counts of the units of a context restart. -/
def Core.restarts (k : Core) (c : Nat) : Core :=
  { k with tracers := k.tracers.map fun t => if t.ctx = c then t.restart else t }

/-- The trace of a context begins: its unit has no current stream, and its streams owe their first SYNC. -/
def Core.begins (k : Core) (c : Nat) : Core := (k.setTracer { k.tracer c with current := none, lastTime := 0 }).oweSyncs c .first

/-- A core after a write of %trcctl that finds the trace off. -/
def Core.retraced (c : Nat) (moved on : Bool) (k : Core) : Core :=
  let y := if moved then k.restarts c else k
  if on then y.begins c else y

theorem restarts_retraces (k : Core) (c : Nat) : Retraces k (k.restarts c) := by
  refine ⟨Group.streams, ?_⟩
  rw [show withStreams Group.streams = id from rfl, List.map_id]
  rfl

/-- The streams of a group after the trace of a context has begun. -/
def owedFirst (c : Nat) (g : Group) : List Stream := if g.ctx = c then g.streams.map fun t => { t with owed := .first } else g.streams

theorem begins_groups (k : Core) (c : Nat) : (k.begins c).groups = k.groups.map (withStreams (owedFirst c)) := by
  refine List.map_congr_left fun g _ => ?_
  rw [withStreams, owedFirst]
  split <;> rfl

theorem begins_retraces (k : Core) (c : Nat) : Retraces k (k.begins c) := by
  refine ⟨owedFirst c, ?_⟩
  rw [← begins_groups]
  rfl

theorem retraced_retraces (c : Nat) (moved on : Bool) (k : Core) : Retraces k (k.retraced c moved on) := by
  have hfirst : Retraces k (if moved then k.restarts c else k) := by
    split
    · exact restarts_retraces k c
    · exact Retraces.refl k
  rw [Core.retraced]
  split
  · exact hfirst.trans (begins_retraces _ c)
  · exact hfirst

theorem retraced_index (c : Nat) (moved on : Bool) (k : Core) : (k.retraced c moved on).index = k.index := by
  obtain ⟨_, hy⟩ := retraced_retraces c moved on k
  rw [hy]

theorem settleTrace_nil {s : State} (h : s.traceNow = []) : settleTrace s = s := by
  rw [settleTrace, h]
  exact congrArg (fun e => { s with traceNow := e }) h.symm

/-- A write of %trcctl that finds the trace off, with no event of the cycle kept. -/
theorem writeTrcctl_off {s : State} {c : Nat} {x : Ctx} {v : DWord} (hx : s.ctx? c = some x) (hoff : tracing x = false) (hnow : s.traceNow = []) :
    let new := v &&& 0x01FFFFFFFFFF07FF
    writeTrcctl s c v = State.modCtx { s with cores := s.cores.map (Core.retraced c
        (trcLog new.toNat != trcLog x.trcctl.toNat || trcArea new.toNat != trcArea x.trcctl.toNat)
        (tracing { x with trcctl := new })) } c fun z => { z with trcctl := new } := by
  intro new
  rw [writeTrcctl, hx]
  simp only [trcctl_eq_and, hoff, settleTrace_nil hnow, Bool.false_and, Bool.false_eq_true, if_false, Bool.not_false, Bool.and_true]
  refine congrArg (State.modCtx · c _) ?_
  generalize (trcLog new.toNat != trcLog x.trcctl.toNat || trcArea new.toNat != trcArea x.trcctl.toNat) = moved
  generalize tracing { x with trcctl := new } = on
  cases moved <;> cases on
  · have hsame : Core.retraced c false false = id := rfl
    rw [hsame, List.map_id]
    rfl
  · rfl
  · rfl
  · have hboth : Core.retraced c true true = (Core.begins · c) ∘ (Core.restarts · c) := rfl
    rw [hboth, ← List.map_map]
    rfl

/-! The split goes on after the trace units have changed. -/

theorem Near.sameCores {s t u : State} {w : Issuer} {keys : Nat → Prop} {rel : Group → Group → Prop} (h : Near s t w keys rel)
    (hcore : ∀ c, u.core c = t.core c) (hrest : u = { t with cores := u.cores }) : Near s u w keys rel := by
  have hgroup : ∀ c b, u.group? c b = t.group? c b := fun c b => by rw [State.group?, hcore, State.group?]
  refine ⟨?_, fun a => ?_, fun c hc => (hcore c).trans (h.cores c hc), ?_, fun k hk => ?_, fun b hb => (hgroup _ b).trans (h.slots b hb),
    fun g hg => ?_⟩
  · rw [hrest, h.package]
  · rw [hrest]
    exact h.memory a
  · rw [hcore]
    exact h.core
  · rw [hcore]
    exact h.rows k hk
  · obtain ⟨g1, hg1, hrel⟩ := h.group g hg
    exact ⟨g1, (hgroup _ _).trans hg1, hrel⟩

/-- What retiring does to the issuing group. -/
def retired (w : Issuer) (cycle : Nat) (g : Group) : Group :=
  (g.pass cycle w.sp.mask 1).modSplit w.idx fun sp => { sp with pc := nextPc w, hold := .none, heldFor := 0 }

theorem done_core (t : State) (w : Issuer) : (done t w).core w.c = (t.core w.c).modGroup w.slot (retired w t.cycle) :=
  core_modCore t w.c _ (core_index t w.c)

theorem done_core_other (t : State) (w : Issuer) {c : Nat} (hc : c ≠ w.c) : (done t w).core c = t.core c :=
  core_modCore_other t w.c c _ (core_index t w.c) hc

section
variable {s u : State} {w : Issuer} {F : Core → Core} (hF : ∀ k, Retraces k (F k)) (hu : u = { s with cores := s.cores.map F })
include hF hu

theorem mapped_find (c : Nat) : (u.cores.find? fun k => k.index == c) = (s.cores.find? fun k => k.index == c).map F :=
  mapCores_find (by rw [hu]) (fun k => by obtain ⟨_, hy⟩ := hF k; rw [hy]) c

theorem mapped_core (c : Nat) : u.core c = F (s.core c) ∨ (s.cores.find? fun k => k.index == c) = none ∧ u.core c = Core.idle c :=
  mapCores_core (by rw [hu]) (fun k => by obtain ⟨_, hy⟩ := hF k; rw [hy]) c

variable (h : s.who = some w)
include h

theorem mapped_issuer : u.core w.c = F (s.core w.c) := by
  refine (mapped_core hF hu w.c).resolve_right fun ⟨hnone, _⟩ => ?_
  obtain ⟨hg, -, -⟩ := who_parts h
  rw [State.group?, core_of_find_none hnone] at hg
  exact nomatch hg

theorem mapped_tracks : Tracks u w := by
  obtain ⟨g, hg, hkeep⟩ := who_tracks h
  obtain ⟨l, hl⟩ := (hF (s.core w.c)).group w.slot
  rw [← mapped_issuer hF hu h, ← State.group?, ← State.group?, hg] at hl
  exact ⟨withStreams l g, hl, hkeep⟩

/-- With the trace units and streams put back every core is as if nothing but the split's going on had happened. -/
theorem traceOf_done_core (c : Nat) : (traceOf s (done u w)).core c = (done s w).core c := by
  have hcycle : u.cycle = s.cycle := by rw [hu]
  rcases mapCores_core (traceOf_cores s (done u w)) (fun _ => rfl) c with hcore | ⟨hnone, hcore⟩
  · rw [hcore, core_index]
    by_cases hc : c = w.c
    · rw [hc, done_core, done_core, mapped_issuer hF hu h, hcycle]
      exact (hF (s.core w.c)).modGroup_tracedAs (fun _ _ => rfl) w.slot
    · rw [done_core_other _ _ hc, done_core_other _ _ hc]
      rcases mapped_core hF hu c with hk | ⟨hnone, hk⟩
      · rw [hk, (hF (s.core c)).tracedAs]
      · rw [hk, core_of_find_none hnone]
        rfl
  · obtain ⟨hnone, hne⟩ := find_none_of_setCore hnone
    rw [modGroup_index, core_index] at hne
    rw [mapped_find hF hu, Option.map_eq_none_iff] at hnone
    rw [hcore, done_core_other _ _ hne, core_of_find_none hnone]

theorem traceOf_done_local : Local s (traceOf s (done u w)) w noKeys noKeys false :=
  (retire_local s w (nextPc w) 1).sameCores (traceOf_done_core hF hu h) (by rw [hu]; rfl)

end

/-! The units and streams after the write. -/

theorem done_tracers (u : State) (w : Issuer) (c : Nat) : ((done u w).core c).tracers = (u.core c).tracers := by
  by_cases hc : c = w.c
  · rw [hc, done_core]
    rfl
  · rw [done_core_other _ _ hc]

theorem done_keepsStreams (u : State) (w : Issuer) (c b : Nat) : ∃ f : Group → Group, (∀ g, (f g).streams = g.streams ∧ (f g).ctx = g.ctx)
    ∧ (done u w).group? c b = (u.group? c b).map f := by
  by_cases hc : c = w.c
  · subst hc
    by_cases hb : b = w.slot
    · subst hb
      exact ⟨retired w u.cycle, fun _ => ⟨rfl, rfl⟩, group_changed u w.c w.slot _ fun _ => rfl⟩
    · exact ⟨id, fun _ => ⟨rfl, rfl⟩, ((onlyMine_retire u w (nextPc w) 1).slots b hb).trans Option.map_id'.symm⟩
  · refine ⟨id, fun _ => ⟨rfl, rfl⟩, ?_⟩
    rw [State.group?, done_core_other _ _ hc, Option.map_id]
    rfl

/-- A unit with its counts at 0. -/
def Tracer.atZero (r : Tracer) : Prop := r.offset = 0 ∧ r.samples = 0 ∧ r.lost = 0

theorem restarts_atZero {k : Core} {c : Nat} {r : Tracer} (hr : r ∈ (k.restarts c).tracers) (hc : r.ctx = c) : r.atZero := by
  obtain ⟨t, -, rfl⟩ := List.mem_map.mp hr
  by_cases ht : t.ctx = c
  · rw [if_pos ht]
    exact ⟨rfl, rfl, rfl⟩
  · rw [if_neg ht] at hc
    exact absurd hc ht

theorem begins_atZero {k : Core} {c : Nat} (hk : ∀ t ∈ k.tracers, t.ctx = c → t.atZero) {r : Tracer} (hr : r ∈ (k.begins c).tracers)
    (hc : r.ctx = c) : r.atZero := by
  rcases List.mem_cons.mp hr with rfl | hr
  · have hunit : (k.tracer c).atZero := by
      rw [Core.tracer]
      cases hfind : k.tracers.find? fun t => t.ctx == c with
      | none => exact ⟨rfl, rfl, rfl⟩
      | some t => exact hk t (List.mem_of_find?_eq_some hfind) (by simpa using List.find?_some hfind)
    exact hunit
  · exact hk r (List.mem_filter.mp hr).1 hc

theorem retraced_atZero {k : Core} {c : Nat} {on : Bool} {r : Tracer} (hr : r ∈ (k.retraced c true on).tracers) (hc : r.ctx = c) :
    r.atZero := by
  cases on with
  | false => exact restarts_atZero hr hc
  | true => exact begins_atZero (fun _ => restarts_atZero) hr hc

theorem retraced_groups_off (k : Core) (c : Nat) (moved : Bool) : (k.retraced c moved false).groups = k.groups := by
  cases moved <;> rfl

theorem retraced_groups_on (k : Core) (c : Nat) (moved : Bool) :
    (k.retraced c moved true).groups = k.groups.map (withStreams (owedFirst c)) := by
  cases moved <;> exact begins_groups _ c

theorem owedFirst_owed {c : Nat} {g : Group} (hg : g.ctx = c) {r : Stream} (hr : r ∈ owedFirst c g) : r.owed = .first := by
  rw [owedFirst, if_pos hg] at hr
  obtain ⟨_, -, rfl⟩ := List.mem_map.mp hr
  rfl

section
variable {s u : State} {c : Nat} {moved : Bool}

theorem retraced_atZero_core {on : Bool} (hu : u = { s with cores := s.cores.map (Core.retraced c true on) }) (d : Nat) :
    ∀ r ∈ (u.core d).tracers, r.ctx = c → r.atZero := by
  intro r hr hc
  rcases mapped_core (retraced_retraces c true on) hu d with hd | ⟨-, hd⟩
  · rw [hd] at hr
    exact retraced_atZero hr hc
  · rw [hd] at hr
    exact nomatch hr

theorem retraced_off_group (hu : u = { s with cores := s.cores.map (Core.retraced c moved false) }) (d b : Nat) :
    u.group? d b = s.group? d b := by
  rcases mapped_core (retraced_retraces c moved false) hu d with hd | ⟨hnone, hd⟩
  · rw [State.group?, hd, Core.group?, retraced_groups_off]
    rfl
  · rw [State.group?, hd, State.group?, core_of_find_none hnone]

theorem retraced_on_group (hu : u = { s with cores := s.cores.map (Core.retraced c moved true) }) {d b : Nat} {g : Group}
    (hg : u.group? d b = some g) (hctx : g.ctx = c) : ∀ r ∈ g.streams, r.owed = .first := by
  rcases mapped_core (retraced_retraces c moved true) hu d with hd | ⟨-, hd⟩
  · rw [State.group?, hd, Core.group?, retraced_groups_on, List.find?_map, Option.map_eq_some_iff] at hg
    obtain ⟨g0, -, rfl⟩ := hg
    exact fun r hr => owedFirst_owed (g := g0) hctx hr
  · rw [State.group?, hd] at hg
    exact nomatch hg

end

section
variable {s : State} {w : Issuer} (h : Issues s w) {a : GReg}
include h

theorem trcctl_acts : exec (.umovt a 34) s = .next (done (if s.feature 8 then writeTrcctl s w.g.ctx (uniG s w a) else s) w) :=
  (exec_umovt a 34 s).trans (uniIssue_acts h rfl (by simp) (by simp) _ _)

theorem trcctl_absent (hfeature : s.feature 8 = false) :
    ∃ t, exec (.umovt a 34) s = .next t ∧ GoesOn t w (nextPc w) ∧ Local s t w noKeys noKeys false := by
  have hact := trcctl_acts h (a := a)
  rw [hfeature, if_neg Bool.false_ne_true] at hact
  exact moves_of_retire h.1 hact

theorem trcctl_starts {x : Ctx} (hx : s.ctx? w.g.ctx = some x) (hfeature : s.feature 8 = true) (hnow : s.traceNow = [])
    (hoff : tracing x = false) :
    let new := { x with trcctl := uniG s w a &&& 0x01FFFFFFFFFF07FF }
    ∃ t, exec (.umovt a 34) s = .next t ∧ GoesOn t w (nextPc w) ∧ t.ctx? x.id = some new ∧ (∀ i, i ≠ x.id → t.ctx? i = s.ctx? i)
      ∧ Local s (traceOf s { t with ctxs := s.ctxs }) w noKeys noKeys false
      ∧ (tracing new = false → ∀ c b, (t.group? c b).map Group.streams = (s.group? c b).map Group.streams)
      ∧ (tracing new = true → ∀ c b h, t.group? c b = some h → h.ctx = x.id → ∀ r ∈ h.streams, r.owed = .first)
      ∧ (trcLog new.trcctl.toNat ≠ trcLog x.trcctl.toNat ∨ trcArea new.trcctl.toNat ≠ trcArea x.trcctl.toNat →
          ∀ c, ∀ r ∈ (t.core c).tracers, r.ctx = x.id → r.offset = 0 ∧ r.samples = 0 ∧ r.lost = 0) := by
  intro new
  have hid : x.id = w.g.ctx := by simpa using List.find?_some hx
  have hact := trcctl_acts h (a := a)
  rw [hfeature, if_pos rfl, writeTrcctl_off hx hoff hnow, ← hid] at hact
  change exec (.umovt a 34) s = .next (done (State.modCtx { s with cores := s.cores.map (Core.retraced x.id
    (trcLog new.trcctl.toNat != trcLog x.trcctl.toNat || trcArea new.trcctl.toNat != trcArea x.trcctl.toNat) (tracing new)) } x.id
      fun z => { z with trcctl := new.trcctl }) w) at hact
  generalize hmoved : (trcLog new.trcctl.toNat != trcLog x.trcctl.toNat || trcArea new.trcctl.toNat != trcArea x.trcctl.toNat) = moved at hact
  generalize htracing : tracing new = on at hact
  obtain ⟨u, hu⟩ : ∃ u : State, u = { s with cores := s.cores.map (Core.retraced x.id moved on) } := ⟨_, rfl⟩
  rw [← hu] at hact
  have hF := retraced_retraces x.id moved on
  have hctx : ∀ b, (done (u.modCtx x.id fun z => { z with trcctl := new.trcctl }) w).ctx? b
      = (s.ctx? b).map fun y => if b = x.id then { y with trcctl := new.trcctl } else y := fun b => by
    rw [show s.ctx? b = u.ctx? b by rw [hu]; rfl]
    exact modCtx_ctx u x.id b _ fun _ => rfl
  refine ⟨_, hact, retire_goesOn _ _ ((mapped_tracks hF hu h.1).sameCores rfl) (who_parts h.1).2.1, ?_, fun b hb => ?_, ?_, fun hnew c b => ?_,
    fun hnew c b g hg hgctx => ?_, fun hchanged c => ?_⟩
  · rw [hctx, hid, hx, Option.map_some, if_pos rfl]
  · simp only [hctx, if_neg hb, Option.map_id']
  · have hsame : { done (u.modCtx x.id fun z => { z with trcctl := new.trcctl }) w with ctxs := s.ctxs } = done u w := by
      rw [hu]
      rfl
    rw [hsame]
    exact traceOf_done_local hF hu h.1
  · obtain ⟨f, hf, hgroup⟩ := done_keepsStreams (u.modCtx x.id fun z => { z with trcctl := new.trcctl }) w c b
    subst hnew
    have hu' : (u.modCtx x.id fun z => { z with trcctl := new.trcctl }).group? c b = s.group? c b := retraced_off_group hu c b
    rw [hgroup, hu', Option.map_map]
    exact congrArg (Option.map · _) (funext fun g => (hf g).1)
  · obtain ⟨f, hf, hgroup⟩ := done_keepsStreams (u.modCtx x.id fun z => { z with trcctl := new.trcctl }) w c b
    subst hnew
    rw [hgroup, Option.map_eq_some_iff] at hg
    obtain ⟨g0, hg0, rfl⟩ := hg
    rw [(hf g0).1]
    exact retraced_on_group hu hg0 ((hf g0).2.symm.trans hgctx)
  · have hmove : moved = true := by
      rw [← hmoved, Bool.or_eq_true, bne_iff_ne, bne_iff_ne]
      exact hchanged
    subst hmove
    intro r hr
    rw [done_tracers] at hr
    exact retraced_atZero_core hu c r hr

end

/-- Settles O13: a write changes its group, its context, or, for %trcctl, its context and the trace units. -/
theorem systemWrites : Obligations.SystemWrites := by
  intro s w x a h hx v
  exact ⟨groupWrites_complete h, spill_completes h, spill_traps h, keyid_traps h hx, trcctl_absent h, trcctl_starts h hx,
    contextWrites_complete h hx⟩

end Sys2Proof.Machine
end

section
/-! Proofs: held results in a changed package, and the agents' instructions that end at once (O43). -/
namespace Sys2Proof.Machine

section
variable {s u : State} {w : Issuer}

/-- A change of the issuer's core that leaves its groups. -/
theorem Tracks.modCore (h : Tracks s w) {f : Core → Core} (hindex : (f (s.core w.c)).index = w.c)
    (hgroups : (f (s.core w.c)).groups = (s.core w.c).groups) : Tracks (s.modCore w.c f) w := by
  obtain ⟨g, hg, hkeep⟩ := h
  refine ⟨g, ?_, hkeep⟩
  rw [State.group?, core_modCore _ _ _ hindex, Core.group?, hgroups]
  exact hg

theorem heldDone_stands (htracks : Tracks u w) (hsp : w.g.split? w.idx = some w.sp) (d : Nat) (v : DWord) (poisoned : Option DWord) :
    Stands (heldDone u w d v poisoned) w { w.sp with pc := nextPc w, hold := .heldResult, heldFor := 0 } := by
  have hgo : Stands { done u w with nextId := u.nextId + 1 } w { w.sp with pc := nextPc w, hold := .none, heldFor := 0 } :=
    retire_goesOn (nextPc w) 1 htracks hsp
  exact blockIt_stands (hgo.modGroup (holding_keepsPlace ⟨w.idx, d, v, poisoned, u.nextId, 0, none⟩)) .heldResult

end

/-- An instruction near its issuer leaves all of a core but its registers and its groups. -/
theorem Near.core_eq {s t : State} {w : Issuer} {keys : Nat → Prop} {rel : Group → Group → Prop} (h : Near s t w keys rel) (c : Nat) :
    t.core c = { s.core c with rows := (t.core c).rows, groups := (t.core c).groups } := by
  by_cases hc : c = w.c
  · rw [hc]
    exact h.core
  · rw [h.cores c hc]

section
variable (u : State) (w : Issuer) (d : Nat) (v : DWord)

theorem heldDone_near : Near u (heldDone u w d v none) w noKeys (GroupBy (holding ⟨w.idx, d, v, none, u.nextId, 0, none⟩)) :=
  heldFor_near d v none none

theorem heldDone_scratch (c : Nat) : ((heldDone u w d v none).core c).scratch = (u.core c).scratch := by
  rw [(heldDone_near u w d v).core_eq]

theorem heldDone_carved (c : Nat) : ((heldDone u w d v none).core c).carved = (u.core c).carved := by
  rw [(heldDone_near u w d v).core_eq]

theorem heldDone_keyOwner (k : Nat) : (heldDone u w d v none).keyOwner k = u.keyOwner k := by
  rw [(heldDone_near u w d v).package]
  rfl

end

section
variable {s : State} {w : Issuer} (h : s.who = some w) {i : Instr} {d : Nat} {v : DWord}
include h

theorem answersIn_of_heldDone {f : State → State} (htracks : Tracks (f s) w) (e : exec i s = .next (heldDone (f s) w d v none)) :
    AnswersIn s w i d v f :=
  ⟨_, e, heldDone_stands htracks (who_parts h).2.1 d v none, heldDone_near ..⟩

theorem answers_of_heldDone (e : exec i s = .next (heldDone s w d v none)) : Answers s w i d v :=
  answersIn_of_heldDone (f := id) h (who_tracks h) e

end

/-! The issue of a privileged instruction (12 R189). -/

theorem isAgent_iff {g : Group} : isAgent g = true ↔ g.first = 0 := by simp [isAgent]

theorem privileged_acts {s : State} {w : Issuer} (h : Issues s w) (hagent : w.g.first = 0) {i : Instr} (hw : wellFormed i = true)
    {srcs : Issuer → List Src} {act : Issuer → State} (e : exec i s = uniIssue s i true [] srcs act) : exec i s = .next (act w) :=
  e.trans (uniIssue_acts h hw (fun _ => isAgent_iff.mpr hagent) (by simp) srcs act)

theorem privileged_traps {s : State} {w : Issuer} (h : Issues s w) (hagent : w.g.first ≠ 0) {i : Instr} (hw : wellFormed i = true)
    {srcs : Issuer → List Src} {act : Issuer → State} (e : exec i s = uniIssue s i true [] srcs act) :
    Traps s w i .privilege w.sp.pc (wordOf i) 0 := by
  refine trapsIn_of_trapHere h.1 (e.trans ?_)
  have hno : isAgent w.g = false := Bool.eq_false_iff.mpr (mt isAgent_iff.mp hagent)
  rw [uniIssue, onIssuer_eq h.1, hw, hno]
  rfl

theorem setLease_index (x : Core) (r : Nat) (l : Lease) : (x.setLease r l).index = x.index := by
  unfold Core.setLease
  split <;> rfl

theorem setLease_groups (x : Core) (r : Nat) (l : Lease) : (x.setLease r l).groups = x.groups := by
  unfold Core.setLease
  split <;> rfl

/-! The owners of key slots (12 R197). -/

/-- The key slot that a good record gives, if it sets one. -/
def recordSlot (k : Nat) (bs : List Byte) : Option KeySlot :=
  if bit (fieldOf bs 33 1) 0 then some ⟨k, bs.take 32, fieldOf bs 32 1, []⟩ else none

theorem recordSlot_index (k : Nat) (bs : List Byte) : ∀ x ∈ recordSlot k bs, x.index = k := by simp [recordSlot]

theorem recordSlot_owner (k : Nat) (bs : List Byte) :
    (recordSlot k bs).map KeySlot.func = if fieldOf bs 33 1 % 2 = 1 then some (fieldOf bs 32 1) else none := by
  rw [recordSlot, bit_eq_testBit, Nat.testBit_zero, apply_ite (Option.map KeySlot.func)]
  simp only [decide_eq_true_eq]
  rfl

theorem setKey_owner (s : State) (k : Nat) {slot : Option KeySlot} (hslot : ∀ x ∈ slot, x.index = k) :
    (setKey s k slot).keyOwner k = slot.map KeySlot.func := by
  cases slot with
  | none =>
    have hnone : ((s.dev.keys.filter fun x => x.index != k).find? fun x => x.index == k) = none := by simp
    exact congrArg (Option.map KeySlot.func) hnone
  | some x =>
    have hfirst : ((x :: s.dev.keys.filter fun x => x.index != k).find? fun x => x.index == k) = some x :=
      List.find?_cons_of_pos (beq_iff_eq.mpr (hslot x rfl))
    exact congrArg (Option.map KeySlot.func) hfirst

theorem setKey_owner_other (s : State) {k j : Nat} (hj : j ≠ k) {slot : Option KeySlot} (hslot : ∀ x ∈ slot, x.index = k) :
    (setKey s k slot).keyOwner j = s.keyOwner j := by
  have hrest : ((s.dev.keys.filter fun x => x.index != k).find? fun x => x.index == j) = s.dev.keys.find? fun x => x.index == j := by
    rw [List.find?_filter]
    congr 1
    funext x
    by_cases hx : x.index = j <;> simp [hx, hj]
  cases slot with
  | none => exact congrArg (Option.map KeySlot.func) hrest
  | some x =>
    have hne : ¬ (x.index == j) = true := by simpa [hslot x rfl] using Ne.symm hj
    have hskip : ((x :: s.dev.keys.filter fun x => x.index != k).find? fun x => x.index == j) = _ := List.find?_cons_of_neg hne
    exact congrArg (Option.map KeySlot.func) (hskip.trans hrest)

theorem checkedRecord_goes {s : State} {w : Issuer} {size align at_ : Nat} (hgood : recordFault s w size align at_ = none) (ok : State) :
    checkedRecord s w size align at_ ok = ok := by
  rw [checkedRecord, hgood]

section
variable {s : State} {w : Issuer} (h : Issues s w) (hagent : w.g.first = 0) (d a b : GReg)
include h hagent

/-! LEASE (12 R190). -/

theorem lease_acts : exec (.lease d a) s = .next (
    let r := (uniG s w a).toNat % 64
    let t := match (uniG s w a).toNat / 2 ^ 8 % 4, w.core.lease r with
      | 1, .free => s.modCore w.c fun x => x.setLease r .claimed
      | 2, .claimed => s.modCore w.c fun x => x.release r
      | _, _ => s
    heldDone t w d (BitVec.ofNat 64 (w.core.lease r).number) none) :=
  privileged_acts h hagent rfl (exec_lease d a s)

theorem lease_claims (hop : (uniG s w a).toNat / 2 ^ 8 % 4 = 1) (hold : w.core.lease ((uniG s w a).toNat % 64) = .free) :
    AnswersIn s w (.lease d a) d 0 fun t => t.modCore w.c fun x => x.setLease ((uniG s w a).toNat % 64) .claimed := by
  have hact := lease_acts h hagent d a
  dsimp only at hact
  rw [hop, hold] at hact
  exact answersIn_of_heldDone h.1 ((who_tracks h.1).modCore ((setLease_index ..).trans (core_index ..)) (setLease_groups ..)) hact

theorem lease_releases (hop : (uniG s w a).toNat / 2 ^ 8 % 4 = 2) (hold : w.core.lease ((uniG s w a).toNat % 64) = .claimed) :
    AnswersIn s w (.lease d a) d 3 fun t => t.modCore w.c fun x => x.release ((uniG s w a).toNat % 64) := by
  have hact := lease_acts h hagent d a
  dsimp only at hact
  rw [hop, hold] at hact
  exact answersIn_of_heldDone h.1 ((who_tracks h.1).modCore ((setLease_index ..).trans (core_index ..)) (setLease_groups ..)) hact

theorem lease_reads (hclaims : ¬ ((uniG s w a).toNat / 2 ^ 8 % 4 = 1 ∧ w.core.lease ((uniG s w a).toNat % 64) = .free))
    (hreleases : ¬ ((uniG s w a).toNat / 2 ^ 8 % 4 = 2 ∧ w.core.lease ((uniG s w a).toNat % 64) = .claimed)) :
    Answers s w (.lease d a) d (BitVec.ofNat 64 (w.core.lease ((uniG s w a).toNat % 64)).number) := by
  have hact := lease_acts h hagent d a
  dsimp only at hact
  split at hact
  case h_1 hop hold => exact absurd ⟨hop, hold⟩ hclaims
  case h_2 hop hold => exact absurd ⟨hop, hold⟩ hreleases
  case h_3 => exact answers_of_heldDone h.1 hact

/-! CARVE (12 R192). -/

section
variable (hgood : recordFault s w 128 16 (uniAddr s w a) = none)
include hgood

theorem carve_acts : exec (.carve d a b) s = .next (
    let p := placeOf s w (uniAddr s w a)
    match carveFor w.core (readPlace s ⟨p.core, p.off + 24⟩ 8) (fun r => (uniG s w b).toNat.testBit r) with
    | .failed k => heldDone s w d (BitVec.ofNat 64 k) none
    | .ok table =>
      let t := writePlace (writePlace s ⟨p.core, p.off + 2⟩ [BitVec.ofNat 8 table.length]) ⟨p.core, p.off + 32⟩ (tableBytes table)
      heldDone (t.modCore w.c fun x => { x with carved := x.carved ++ table }) w d 0 none) := by
  have hact := privileged_acts h hagent rfl (exec_carve d a b s)
  rw [checkedRecord_goes hgood] at hact
  simp only [bit_eq_testBit] at hact
  exact hact

theorem carve_fails {k : Nat} (hmade : carveFor w.core (readPlace s ⟨(placeOf s w (uniAddr s w a)).core,
    (placeOf s w (uniAddr s w a)).off + 24⟩ 8) (fun r => (uniG s w b).toNat.testBit r) = .failed k) :
    Answers s w (.carve d a b) d (BitVec.ofNat 64 k) := by
  have hact := carve_acts h hagent d a b hgood
  dsimp only at hact
  rw [hmade] at hact
  exact answers_of_heldDone h.1 hact

theorem carve_fills {table : List (Nat × Nat × Nat)} (hmade : carveFor w.core (readPlace s ⟨(placeOf s w (uniAddr s w a)).core,
    (placeOf s w (uniAddr s w a)).off + 24⟩ 8) (fun r => (uniG s w b).toNat.testBit r) = .ok table) :
    let p := placeOf s w (uniAddr s w a)
    ∃ t, exec (.carve d a b) s = .next t ∧ Stands t w { w.sp with pc := nextPc w, hold := .heldResult, heldFor := 0 }
      ∧ (t.core w.c).carved = w.core.carved ++ table
      ∧ ∀ o, (t.core p.core).scratch.byte o = ((overBytes ⟨p.core, p.off + 32⟩ (tableBytes table)
          (overBytes ⟨p.core, p.off + 2⟩ [BitVec.ofNat 8 table.length] noBytes)) p.core o).getD ((s.core p.core).scratch.byte o) := by
  intro p
  have hact := carve_acts h hagent d a b hgood
  dsimp only at hact
  rw [hmade] at hact
  have hwrote := ((Wrote.refl s).writePlace ⟨p.core, p.off + 2⟩ [BitVec.ofNat 8 table.length]).writePlace ⟨p.core, p.off + 32⟩ (tableBytes table)
  refine ⟨_, hact, heldDone_stands (((who_tracks h.1).wrote hwrote).modCore (core_index ..) rfl) (who_parts h.1).2.1 .., ?_, fun o => ?_⟩
  · rw [heldDone_carved, core_modCore _ _ _ (core_index ..), hwrote.core, (who_parts h.1).2.2]
  · rw [heldDone_scratch, ← hwrote.bytes]
    by_cases hc : p.core = w.c
    · rw [hc, core_modCore _ _ _ (core_index ..)]
    · rw [core_modCore_other _ _ _ _ (core_index ..) hc]

end

/-! TLBINV (12 R196). -/

theorem tlbinv_forks :
    let x := (uniG s w b).toNat
    let kind := if x / 2 ^ 10 % 4 = 0 ∧ x / 2 ^ 12 % 4 = 3 then 1 else min (x / 2 ^ 10 % 4) 2
    Forks s w (.tlbinv a b) .gl 14 0 (.tlbinv (x % 1024) kind (x / 2 ^ 12 % 4) (uniG s w a).toNat) id := by
  have hact := privileged_acts h hagent rfl (exec_tlbinv a b s)
  refine forks_of_forkOp h.1 (f := id) ⟨fun _ => rfl, fun _ => rfl, fun _ => rfl, fun _ => rfl, fun _ => rfl⟩ (fun _ => rfl) (hact.trans ?_)
  exact congrArg (fun t => Host.Outcome.next (done t w)) (modGroup_id_after ..).symm

/-! KEYSET (12 R197). -/

section
variable (hgood : recordFault s w 64 16 (uniAddr s w b) = none)
include hgood

theorem keyset_acts : exec (.keyset d a b) s = .next (
    let p := placeOf s w (uniAddr s w b)
    let bs := readPlace s p 64
    let k := (uniG s w a).toNat % 256
    if !keyRecordOk bs then heldDone s w d 1 none
    else
      heldDone (writePlace (setKey s k (recordSlot k bs)) p (List.replicate 32 0)) w d 0 none) := by
  have hact := privileged_acts h hagent rfl (exec_keyset d a b s)
  rw [checkedRecord_goes hgood] at hact
  exact hact

theorem keyset_refuses (hbad : keyRecordOk (readPlace s (placeOf s w (uniAddr s w b)) 64) = false) : Answers s w (.keyset d a b) d 1 := by
  have hact := keyset_acts h hagent d a b hgood
  dsimp only at hact
  rw [hbad] at hact
  exact answers_of_heldDone h.1 hact

theorem keyset_sets (hok : keyRecordOk (readPlace s (placeOf s w (uniAddr s w b)) 64) = true) :
    let p := placeOf s w (uniAddr s w b)
    let bs := readPlace s p 64
    let k := (uniG s w a).toNat % 256
    ∃ t, exec (.keyset d a b) s = .next t ∧ Stands t w { w.sp with pc := nextPc w, hold := .heldResult, heldFor := 0 }
      ∧ t.keyOwner k = (if fieldOf bs 33 1 % 2 = 1 then some (fieldOf bs 32 1) else none) ∧ (∀ j, j ≠ k → t.keyOwner j = s.keyOwner j)
      ∧ ∀ o, (t.core p.core).scratch.byte o = ((overBytes p (List.replicate 32 0) noBytes) p.core o).getD ((s.core p.core).scratch.byte o) := by
  intro p bs k
  have hact := keyset_acts h hagent d a b hgood
  dsimp only at hact
  rw [hok, Bool.not_true, if_neg Bool.false_ne_true] at hact
  have htracks : Tracks (setKey s k (recordSlot k bs)) w := (who_tracks h.1).sameCores rfl
  have hwrote := (Wrote.refl (setKey s k (recordSlot k bs))).writePlace p (List.replicate 32 0)
  refine ⟨_, hact, heldDone_stands (htracks.wrote hwrote) (who_parts h.1).2.1 .., ?_, fun j hj => ?_, fun o => ?_⟩
  · rw [heldDone_keyOwner]
    exact (setKey_owner s k (recordSlot_index k bs)).trans (recordSlot_owner k bs)
  · rw [heldDone_keyOwner]
    exact setKey_owner_other s hj (recordSlot_index k bs)
  · rw [heldDone_scratch, hwrote.bytes]
    rfl

end

end

/-- Settles O43: the seven instructions share their issue, and the four that end at once hold their answer over the state they leave. -/
theorem agentInstructions : Obligations.AgentInstructions := by
  intro s w d a b h v x r free
  refine ⟨fun hno => ?_, fun hagent => ⟨?_, fun hgood => ?_, tlbinv_forks h hagent a b, fun hgood => ?_⟩⟩
  · exact ⟨privileged_traps h hno rfl (exec_lease d a s), privileged_traps h hno rfl (exec_carve d a b s),
      privileged_traps h hno rfl (exec_dispatch d a s), privileged_traps h hno rfl (exec_ctxsave d a b s),
      privileged_traps h hno rfl (exec_ctxload d a b s), privileged_traps h hno rfl (exec_tlbinv a b s),
      privileged_traps h hno rfl (exec_keyset d a b s)⟩
  · exact ⟨lease_claims h hagent d a, lease_releases h hagent d a, lease_reads h hagent d a⟩
  · exact ⟨fun _ => carve_fails h hagent d a b hgood, fun _ => carve_fills h hagent d a b hgood⟩
  · exact ⟨keyset_refuses h hagent d a b hgood, keyset_sets h hagent d a b hgood⟩

end Sys2Proof.Machine
end

section
/-! Proofs: the completions of the agents' operations (O44). -/
namespace Sys2Proof.Machine

/-! The completion of an operation (05 R70). -/

section
variable (s : State) (o : Op)

/-- The operation is gone, and of the cores only its group's gate changes. -/
theorem completeOp_eq : ∃ ops : List Op, (∀ p ∈ ops, p.id ≠ o.id)
    ∧ completeOp s o = State.modGroup { s with ops := ops } o.core o.slot fun g => g.complete o.gate o.batch := by
  have hdrop : ∀ p ∈ (s.dropOp o.id).ops, p.id ≠ o.id := fun p hp => by simpa using (List.mem_filter.mp hp).2
  unfold completeOp
  dsimp only
  split
  next p heir =>
    refine ⟨_, fun q hq => ?_, rfl⟩
    rcases mem_replaceFirst hq with hq | ⟨r, hr, rfl⟩
    · exact hdrop q hq
    · exact hdrop r hr
  next => exact ⟨_, hdrop, rfl⟩

theorem completeOp_op : (completeOp s o).op? o.id = none := by
  obtain ⟨ops, hops, e⟩ := completeOp_eq s o
  rw [e]
  exact List.find?_eq_none.mpr fun p hp => by simpa using hops p hp

theorem complete_keepsPlace (x : Gate) (b : Word) : KeepsPlace (·.complete x b) :=
  ⟨fun _ => rfl, fun _ => rfl, fun _ => rfl, fun _ => rfl, fun _ => rfl⟩

theorem completeOp_core : (completeOp s o).core o.core = (s.core o.core).modGroup o.slot fun g => g.complete o.gate o.batch := by
  obtain ⟨ops, -, e⟩ := completeOp_eq s o
  rw [e]
  exact core_modCore _ _ _ (core_index ..)

theorem completeOp_group : (completeOp s o).group? o.core o.slot = (s.group? o.core o.slot).map fun g => g.complete o.gate o.batch := by
  rw [State.group?, completeOp_core]
  exact group_modGroup _ _ _ (complete_keepsPlace o.gate o.batch).slot

theorem completeOp_cache : (completeOp s o).cache = s.cache := by
  obtain ⟨ops, -, e⟩ := completeOp_eq s o
  rw [e]
  rfl

end

/-! The write of a uniform result (05 R71). -/

theorem landG_rest (x : Core) (g : Group) (i : Nat) (v : DWord) : x.landG g i v = { x with rows := (x.landG g i v).rows } := by
  rw [landG_eq]
  exact landLanes_rest ..

/-- G(i) lies where the places of its group's registers say. -/
theorem rawG_congr {x y : Core} {g h : Group} (hrows : y.rows = x.rows) (hfirst : h.first = g.first) (hsecond : h.second = g.second)
    (hallot : h.allot = g.allot) (i : Nat) : rawG y h i = rawG x g i := by
  have hlane : ∀ n l, rawV y h n l = rawV x g n l := fun n l => by
    rw [rawV, rawV, isG0_congr hallot, rowKey_congr hfirst hsecond, hrows]
  rw [rawG, rawG, hlane, hlane, gReg, gReg, hallot]

theorem rawG_landG (x : Core) (g : Group) {i : Nat} (hi : i ≠ 0) (v : DWord) : rawG (x.landG g i v) g i = v := by
  have hlanes : ∀ l, l = gLane i ∨ l = gLane i + 1 →
      rawV (x.landG g i v) g (gReg g i) l = if l = gLane i then v.setWidth 32 else (v >>> 32).setWidth 32 := fun l hl => by
    have h0 := gReg_not_g0 g i l hi hl
    rw [rawV, h0, landG_eq]
    exact landLanes_same _ _ _ _ _ _ (by simpa using hl) h0 (by simp)
  rw [rawG, if_neg hi, hlanes _ (.inl rfl), hlanes _ (.inr rfl), if_pos rfl, if_neg (Nat.succ_ne_self _)]
  exact word_halves v

/-- What is in flight of a result of an operation in G(d) of its group (05 R71). -/
def resultPend (s : State) (o : Op) (g : Group) (d : Nat) : Pend :=
  gatePend s.cycle (s.core o.core) g (gReg g d) (oneLane (gLane d) ||| oneLane (gLane d + 1)) o.gate o.batch o.pc

section
variable {s : State} {o : Op} {g : Group} (hg : s.group? o.core o.slot = some g)
include hg

theorem landResultG_core {d : Nat} (hd : d ≠ 0) (n : Nat) : (landResultG s o d n).core o.core
    = ((s.core o.core).landG g d (BitVec.ofNat 64 n)).modGroup o.slot fun h => h.addPend (resultPend s o g d) := by
  rw [State.group?] at hg
  rw [landResultG, if_neg hd, core_modCore _ _ _ ?_]
  · simp only [hg]
    rfl
  · simp only [hg, modGroup_index]
    rw [landG_rest]
    exact core_index ..

/-- A CTXLOAD ends with a status in G(gd), and frees its batch. -/
theorem endLoadOp_ends (d n : Nat) : ∃ h, (endLoadOp s o d n).group? o.core o.slot = some h ∧ h.gates = (g.complete o.gate o.batch).gates
    ∧ ((endLoadOp s o d n).core o.core).blocks = (s.core o.core).blocks
    ∧ (d ≠ 0 → rawG ((endLoadOp s o d n).core o.core) h d = BitVec.ofNat 64 n) := by
  rw [endLoadOp, completeOp_group, completeOp_core]
  by_cases hd : d = 0
  · have hsame : landResultG s o d n = s := if_pos hd
    rw [hsame, hg]
    exact ⟨_, rfl, rfl, rfl, fun h => absurd hd h⟩
  · have hcore := landResultG_core hg hd n
    have hgroup : (landResultG s o d n).group? o.core o.slot = some (g.addPend (resultPend s o g d)) := by
      rw [State.group?] at hg
      rw [State.group?, hcore, group_modGroup _ _ (·.addPend (resultPend s o g d)) fun _ => rfl, landG_rest]
      exact congrArg (Option.map _) hg
    rw [hgroup, hcore]
    refine ⟨_, rfl, rfl, ?_, fun _ => ?_⟩
    · rw [landG_rest]
      rfl
    · have hplace := complete_keepsPlace o.gate o.batch
      have hrows := (modGroup_rows (((s.core o.core).landG g d (BitVec.ofNat 64 n)).modGroup o.slot (·.addPend (resultPend s o g d))) o.slot
        (·.complete o.gate o.batch)).trans (modGroup_rows ..)
      exact (rawG_congr hrows (hplace.first _) (hplace.second _) (hplace.allot _) d).trans (rawG_landG _ g hd _)

end

theorem unreserve_core (s : State) (c k : Nat) : ((unreserve s c k).core c).block? k = none
    ∧ ((unreserve s c k).core c).groups = (s.core c).groups := by
  rw [unreserve, core_modCore _ _ _ (core_index ..)]
  exact ⟨List.find?_eq_none.mpr fun b hb => by simpa using (List.mem_filter.mp hb).2, rfl⟩

section
variable {s : State} {o : Op} {g : Group} (ho : s.op? o.id = some o)
include ho

theorem ctxloadComplete_fails (hg : s.group? o.core o.slot = some g) {d n k v : Nat} (hkind : o.kind = .ctxload d n k v) (hn : n ≠ 0) :
    ∃ t h, exec (.ctxloadComplete o.id) s = .next t
      ∧ (t.op? o.id = none ∧ ∃ h, t.group? o.core o.slot = some h ∧ h.gates = (g.complete o.gate o.batch).gates)
      ∧ (t.core o.core).block? k = none ∧ t.group? o.core o.slot = some h
      ∧ (d ≠ 0 → rawG (t.core o.core) h d = BitVec.ofNat 64 n) := by
  have hact : exec (.ctxloadComplete o.id) s = .next (endLoadOp (unreserve s o.core k) o d n) := by
    rw [exec_ctxloadComplete, execCtxloadComplete, ho]
    simp only [hkind, if_pos hn]
  obtain ⟨hblock, hgroups⟩ := unreserve_core s o.core k
  have hg' : (unreserve s o.core k).group? o.core o.slot = some g := by
    rw [State.group?, Core.group?, hgroups]
    exact hg
  obtain ⟨h, hgroup, hgates, hblocks, hvalue⟩ := endLoadOp_ends hg' d n
  refine ⟨_, h, hact, ⟨completeOp_op .., h, hgroup, hgates⟩, ?_, hgroup, hvalue⟩
  rw [Core.block?, hblocks]
  exact hblock

theorem ctxloadComplete_loads {d i v : Nat} {k : Block} {x : Ctx} {z : SavedBlock} {img : List (Byte × Bool)} {areas : List (List Byte)}
    {t u : State} (hkind : o.kind = .ctxload d 0 i v) (hk : (s.core o.core).block? i = some k) (hx : s.ctx? k.ctx = some x)
    (hz : imageAt s x o.core k.rec_ k.blockIndex k.incarn v = .ok z) (hsaved : x.saved.contains z = true) (hready : opWaits s o 0 = false)
    (hread : readImage (fun t a n => engineSpans t o x 0 0 .load a n) (fun t ps => opBytes t o x ps) s o.core x z.flushed k.rec_ v
      = .ok img areas t) (hrestore : restoreInto t o.core i x z img areas = (0, u)) :
    exec (.ctxloadComplete o.id) s = .next (endLoadOp u o d 0) := by
  have hload : loadKind s o x k z v = .ok z s := if_pos hsaved
  rw [exec_ctxloadComplete, execCtxloadComplete, ho]
  simp only [hkind, ne_eq, not_true, if_false, hk, hx, hz, hready, Bool.false_eq_true, hload, hread, hrestore]

theorem tlbinvComplete_drops (hg : s.group? o.core o.slot = some g) {ctx kind size va : Nat} (hkind : o.kind = .tlbinv ctx kind size va) :
    ∃ t, exec (.tlbinvComplete o.id) s = .next t
      ∧ (t.op? o.id = none ∧ ∃ h, t.group? o.core o.slot = some h ∧ h.gates = (g.complete o.gate o.batch).gates)
      ∧ t.cache = (invalidate s ctx kind size va).cache := by
  have hact : exec (.tlbinvComplete o.id) s = .next (completeOp (invalidate s ctx kind size va) o) := by
    rw [exec_tlbinvComplete, execTlbinvComplete, ho]
    simp only [hkind]
  have hg' : (invalidate s ctx kind size va).group? o.core o.slot = some g := hg
  refine ⟨_, hact, ⟨completeOp_op .., g.complete o.gate o.batch, ?_, rfl⟩, completeOp_cache ..⟩
  rw [completeOp_group, hg']
  rfl

end

theorem invalidate_context (s : State) (ctx size va : Nat) : (invalidate s ctx 1 size va).cache = s.cache.filter fun e => e.ctx != ctx := rfl

theorem invalidate_all (s : State) (ctx size va : Nat) : (invalidate s ctx 2 size va).cache = [] := by
  simp [invalidate]

end Sys2Proof.Machine
end

section
/-! Proofs: CTXSAVE begins the vacate of a block (O44). -/
namespace Sys2Proof.Machine

theorem block_modBlock (x : Core) (i : Nat) (f : Block → Block) (hf : ∀ k, (f k).id = k.id) :
    (x.modBlock i f).block? i = (x.block? i).map f :=
  find_replaceFirst_same _ f (fun a ha => by simpa [hf a] using ha) x.blocks

theorem core_modBlock (s : State) (c i : Nat) (f : Block → Block) : (s.modBlock c i f).core c = (s.core c).modBlock i f :=
  core_modCore s c _ (core_index s c)

theorem modCtx_core (s : State) (c i : Nat) (f : Ctx → Ctx) : (s.modCtx i f).core c = s.core c := rfl

theorem Tracks.modBlock {s : State} {w : Issuer} (h : Tracks s w) (i : Nat) (f : Block → Block) : Tracks (s.modBlock w.c i f) w :=
  h.modCore (core_index ..) rfl

/-- What an instruction does not change of a core beside its group, when it goes on. -/
theorem done_blocks (t : State) (w : Issuer) (c : Nat) : ((done t w).core c).blocks = (t.core c).blocks := by
  rw [done, (retire_near t w (nextPc w) 1).core_eq]

theorem done_block (t : State) (w : Issuer) (c i : Nat) : ((done t w).core c).block? i = (t.core c).block? i := by
  rw [Core.block?, done_blocks]
  rfl

theorem done_ops (t : State) (w : Issuer) : (done t w).ops = t.ops := by
  rw [done, (retire_near t w (nextPc w) 1).package]

section
variable (s : State) (w : Issuer) (gate : Gate) (cls charge : Nat) (kind : OpKind)

theorem forkOp_tracks (h : Tracks s w) : Tracks (forkOp s w gate cls charge kind).2 w :=
  Tracks.modGroup (s := { endPriority s w with nextId := s.nextId + 1, ops := s.ops ++ [forkedOp s w gate cls charge kind] })
    (h.sameCores rfl) (join_keepsPlace gate)

theorem forkOp_core : (forkOp s w gate cls charge kind).2.core w.c = (s.core w.c).modGroup w.slot (·.join gate) :=
  core_modCore _ _ _ (core_index ..)

/-- A context after an operation of the issuer is forked. -/
def unclaimed (w : Issuer) (x : Ctx) : Ctx :=
  if x.id = w.g.ctx then { x with priority := x.priority.filter fun p => p.2 != w.claimant } else x

theorem forkOp_ctx (c : Nat) : (forkOp s w gate cls charge kind).2.ctx? c = (s.ctx? c).map (unclaimed w) := by
  have hctx : (forkOp s w gate cls charge kind).2.ctx? c = _ :=
    modCtx_ctx s w.g.ctx c (fun x => { x with priority := x.priority.filter fun p => p.2 != w.claimant }) fun _ => rfl
  rw [hctx]
  cases hx : s.ctx? c with
  | none => rfl
  | some x =>
    have hid : x.id = c := by simpa using List.find?_some hx
    simp only [Option.map_some, unclaimed, hid]

end

/-! The committed mode of a block (18 R253). -/

/-- A claim on a channel is nothing to a block's mode. -/
theorem committed_unclaimed (s : State) (w : Issuer) (c : Nat) (x : Ctx) (r : Launch) (n : Nat) :
    committed s c (unclaimed w x) r n = committed s c x r n := by
  unfold unclaimed
  split <;> rfl

/-- A block that may not be flushed is not flushed. -/
theorem committed_noFlush (s : State) (c : Nat) (x : Ctx) {r : Launch} (n : Nat) (h : bit r.modes 2 = false) : (committed s c x r n).2 ≠ .flush := by
  unfold committed
  simp only [h, Bool.false_and, Bool.false_eq_true, if_false]
  split
  · split <;> simp
  · simp

section
variable {s : State} {w : Issuer} (h : Issues s w) (hagent : w.g.first = 0) (d a b : GReg) (hva : (uniG s w b).toNat < 2 ^ 57)
  (halign : (uniG s w b).toNat % 64 = 0)
include h hagent hva halign

theorem ctxsave_acts : exec (.ctxsave d a b) s = .next (match blockAt w.core ((uniG s w a).toNat % 32) with
    | none => heldDone s w d (BitVec.allOnes 64) none
    | some k => afterFences s w (done (saveBlock (forkOp s w .gc 14 0 (.ctxsave d k.id)).2 w.c k s.nextId (uniG s w b).toNat) w)) := by
  have hact := privileged_acts h hagent rfl (exec_ctxsave d a b s)
  have hlow : highVa (uniG s w b).toNat = false := decide_eq_false (by omega)
  simp only [hlow, Bool.false_eq_true, if_false, halign, ne_eq, not_true] at hact
  exact hact

theorem ctxsave_none (hnamed : blockAt w.core ((uniG s w a).toNat % 32) = none) : Answers s w (.ctxsave d a b) d (BitVec.allOnes 64) := by
  have hact := ctxsave_acts h hagent d a b hva halign
  rw [hnamed] at hact
  exact answers_of_heldDone h.1 hact

end

/-- A block in another phase. -/
def Block.inPhase (b : Block) (p : BlockPhase) : Block := { b with phase := p }

/-- A block with the CTXSAVE that saves it. -/
def Block.savedBy (b : Block) (va op : Nat) : Block := { b with saveVa := va, saveOp := some op }

theorem beginMode_running {v : State} {c : Nat} {k : Block} {x : Ctx} (hphase : k.phase = .running)
    (hm : (committed v c x k.rec_ k.elapsed).2 ≠ .flush) : beginMode v x (c, k)
      = State.modCtx (v.modBlock c k.id (·.inPhase (.vacating (committed v c x k.rec_ k.elapsed).2))) x.id fun x =>
        { x with priority := x.priority.filter fun q => !(q.2.1 == c && k.slots.contains q.2.2.1) } := by
  have hmode : modeOf v c x k = (committed v c x k.rec_ k.elapsed).2 := by rw [modeOf, hphase]
  rw [beginMode, hmode]
  exact if_neg hm

/-- A CTXSAVE of a running block alone in its unit begins the block's mode. -/
theorem saveBlock_begins {u : State} {c op va : Nat} {k : Block} {x : Ctx} (hphase : k.phase = .running) (hunit : k.unit = none)
    (hx : u.ctx? k.ctx = some x) (hm : (committed u c x k.rec_ k.elapsed).2 ≠ .flush) :
    saveBlock u c k op va = State.modCtx (State.modBlock (u.modBlock c k.id (·.savedBy va op)) c k.id
        (·.inPhase (.vacating (committed u c x k.rec_ k.elapsed).2))) x.id fun x =>
      { x with priority := x.priority.filter fun q => !(q.2.1 == c && k.slots.contains q.2.2.1) } := by
  have hunitOf : ∀ v, unitOf v c k = [(c, k)] := fun v => by rw [unitOf, hunit]
  have hctx : ∀ f, (u.modBlock c k.id f).ctx? k.ctx = some x := fun _ => hx
  have hfresh : (k.phase == .running || k.phase == .loaded) = true := by rw [hphase]; rfl
  unfold saveBlock
  simp only [hfresh, hctx, hunitOf, Bool.not_true, Bool.false_eq_true, if_false, List.filter_cons, List.filter_nil, if_true, List.foldl_cons,
    List.foldl_nil]
  exact beginMode_running (v := u.modBlock c k.id (·.savedBy va op)) hphase hm

theorem saves : Saves := by
  intro s w d a b h hagent va named hva halign
  refine ⟨ctxsave_none h hagent d a b hva halign, fun k x hnamed ⟨hacquire, hrelease⟩ hk hunit hphase hx hmodes => ?_⟩
  have hact := ctxsave_acts h hagent d a b hva halign
  have hforked : (forkOp s w .gc 14 0 (.ctxsave d k.id)).2.ctx? k.ctx = some (unclaimed w x) := by rw [forkOp_ctx, hx]; rfl
  have hm : committed (forkOp s w .gc 14 0 (.ctxsave d k.id)).2 w.c (unclaimed w x) k.rec_ k.elapsed = committed s w.c x k.rec_ k.elapsed :=
    committed_unclaimed ..
  rw [show blockAt w.core ((uniG s w a).toNat % 32) = some k from hnamed] at hact
  dsimp only at hact
  rw [afterFences_goes hacquire hrelease, saveBlock_begins hphase hunit hforked (by rw [hm]; exact committed_noFlush _ _ _ _ hmodes), hm] at hact
  have htracks := ((forkOp_tracks s w .gc 14 0 (.ctxsave d k.id) (who_tracks h.1)).modBlock k.id (·.savedBy va s.nextId)).modBlock
    k.id (·.inPhase (.vacating (committed s w.c x k.rec_ k.elapsed).2))
  refine ⟨_, _, hact, retire_goesOn _ _ (htracks.sameCores rfl) (who_parts h.1).2.1, ?_, ?_, rfl⟩
  · rw [done_ops]
    rfl
  · have hblock : ((forkOp s w .gc 14 0 (.ctxsave d k.id)).2.core w.c).block? k.id = some k := by
      rw [forkOp_core]
      exact hk
    rw [done_block, modCtx_core, core_modBlock, block_modBlock, core_modBlock, block_modBlock, hblock]
    · rfl
    · exact fun _ => rfl
    · exact fun _ => rfl

end Sys2Proof.Machine
end

section
/-! Proofs: what the agents read and reserve before a block starts (O44). -/
namespace Sys2Proof.Machine

/-! Reading a launch record (26 R345). -/

theorem posted_readSpans {u : State} {h : Tlb} {x : Ctx} {need : Need} {s : State} {l : List (Nat × Nat)} (hs : Posted u s) :
    Posted u (readSpans h x need s l).2 := by
  fun_induction readSpans h x need s l
  case case1 => exact hs
  case case2 => exact posted_of_snd (posted_translateR hs) ‹_›
  case case3 => exact posted_of_snd (posted_sealPage (posted_of_snd (posted_translateR hs) ‹_›)) ‹_›
  case case4 ih => exact posted_of_snd (ih (posted_of_snd (posted_sealPage (posted_of_snd (posted_translateR hs) ‹_›)) ‹_›)) ‹_›
  case case5 ih => exact posted_of_snd (ih (posted_of_snd (posted_sealPage (posted_of_snd (posted_translateR hs) ‹_›)) ‹_›)) ‹_›

theorem posted_readVa {u s : State} {h : Tlb} {x : Ctx} {va n : Nat} (hs : Posted u s) : Posted u (readVa s h x va n).2 := by
  unfold readVa
  split
  · exact hs
  · exact posted_readSpans hs

theorem posted_readLaunch {u s : State} {h : Tlb} {x : Ctx} {va : Nat} {bound : Nat → Option Nat} (hs : Posted u s) :
    Posted u (readLaunch s h x va bound).2 := by
  have hread : ∀ {va n : Nat} {r : Except (XErr × Nat) (List Byte)} {t : State}, readVa s h x va n = (r, t) → Posted u t := fun e =>
    posted_of_snd (posted_readVa hs) e
  unfold readLaunch
  split
  case h_1 hfirst => exact hread hfirst
  case h_2 t hfirst =>
    have ht := hread hfirst
    dsimp only
    split
    · exact ht
    split
    · exact ht
    split
    · exact ht
    split
    · split
      case h_1 hsecond => exact posted_of_snd (posted_readVa ht) hsecond
      case h_2 hsecond =>
        split
        · exact posted_of_snd (posted_readVa ht) hsecond
        · exact posted_of_snd (posted_readVa ht) hsecond
    · exact ht

/-! Names taken, and what is kept elsewhere than in the cores and the operations. -/

/-- Between two states the cores and the operations are as before, and names may have been taken. -/
structure Idle (s t : State) : Prop where
  cores : t.cores = s.cores
  ops : t.ops = s.ops
  nextId : s.nextId ≤ t.nextId

theorem Idle.refl (s : State) : Idle s s := ⟨rfl, rfl, le_refl _⟩

theorem Idle.trans {s t u : State} (h : Idle s t) (k : Idle t u) : Idle s u :=
  ⟨k.cores.trans h.cores, k.ops.trans h.ops, h.nextId.trans k.nextId⟩

theorem Idle.core {s t : State} (h : Idle s t) (c : Nat) : t.core c = s.core c := by simp only [State.core, h.cores]

theorem Idle.tracks {s t : State} {w : Issuer} (h : Idle s t) (hw : Tracks s w) : Tracks t w := hw.sameCores h.cores

/-- No block of a core has the next name. -/
theorem Idle.unnamed {s t : State} {c : Nat} (h : Idle s t) (hs : ∀ k ∈ (s.core c).blocks, k.id < s.nextId) :
    ∀ k ∈ (t.core c).blocks, k.id < t.nextId := fun k hk => by
  rw [h.core] at hk
  exact (hs k hk).trans_le h.nextId

theorem Posted.idle {s t : State} (h : Posted s t) : Idle s t := ⟨h.cores, h.ops, h.nextId.ge⟩

/-- A context that is there for work leaves the rest of the package. -/
theorem ctxForWork_idle {s t : State} {c : Nat} {x : Ctx} (h : ctxForWork s c = (some x, t)) : Idle s t := by
  have hread : ∀ {x t}, readBoundary s c = (some x, t) → Idle s t := fun {x t} e => by
    unfold readBoundary at e
    dsimp only at e
    split at e
    · cases e
    · split at e
      · cases e
        exact ⟨rfl, rfl, le_refl _⟩
      · split at e
        · cases e
          exact ⟨rfl, rfl, le_refl _⟩
        · cases e
          exact ⟨rfl, rfl, le_refl _⟩
  unfold ctxForWork at h
  split at h
  · exact hread h
  · split at h
    · exact hread h
    · rw [← (Prod.mk.inj h).2]
      exact Idle.refl s

theorem keepHome_idle (s : State) (r : Launch) (n : Option Nat) (b c : Nat) : Idle s (keepHome s r n b c) := by
  unfold keepHome
  split
  · split
    · exact Idle.refl s
    · exact ⟨rfl, rfl, le_refl _⟩
  · exact Idle.refl s

theorem moveHome_idle (s : State) (r : Launch) (n : Option Nat) (b c : Nat) : Idle s (moveHome s r n b c) := by
  unfold moveHome
  split
  · split
    · exact Idle.refl s
    · exact ⟨rfl, rfl, le_refl _⟩
  · exact Idle.refl s

theorem joinInstance_idle (s : State) (ctx : Nat) (r : Launch) (n : Option Nat) (b : Nat) (level : Option Nat) (num : Block → Option Nat) :
    Idle s (joinInstance s ctx r n b level num).2 := by
  unfold joinInstance
  split
  · exact Idle.refl s
  · split
    · exact Idle.refl s
    · exact ⟨rfl, rfl, Nat.le_succ _⟩

/-! A block reserved (03 R54). -/

theorem setLeases_rest (x : Core) (rs : List Nat) (l : Lease) : x.setLeases rs l = { x with leases := (x.setLeases rs l).leases } := by
  unfold Core.setLeases
  induction rs generalizing x with
  | nil => rfl
  | cons r rs ih =>
    have hone : x.setLease r l = { x with leases := (x.setLease r l).leases } := by
      unfold Core.setLease
      split <;> rfl
    rw [List.foldl_cons, ih, hone]

/-- What a core has of another, once its rows, its scratchpad and its matrix engine are given away: its blocks, its groups and its table of
carved slots. -/
structure SameHolders (x y : Core) : Prop where
  index : y.index = x.index
  blocks : y.blocks = x.blocks
  groups : y.groups = x.groups
  carved : y.carved = x.carved

theorem SameHolders.refl (x : Core) : SameHolders x x := ⟨rfl, rfl, rfl, rfl⟩

theorem SameHolders.trans {x y z : Core} (h : SameHolders x y) (k : SameHolders y z) : SameHolders x z :=
  ⟨k.index.trans h.index, k.blocks.trans h.blocks, k.groups.trans h.groups, k.carved.trans h.carved⟩

theorem setLeases_sameHolders (x : Core) (rs : List Nat) (l : Lease) : SameHolders x (x.setLeases rs l) := by
  rw [setLeases_rest]
  exact ⟨rfl, rfl, rfl, rfl⟩

/-- A core's table of carved slots with entries of slots that it has not. -/
def Core.carvedWith (x : Core) (es : List (Nat × Nat × Nat)) : List (Nat × Nat × Nat) :=
  es.foldl (fun l e => if l.any fun q => q.1 == e.1 then l else l ++ [e]) x.carved

theorem carvedWith_find (x : Core) (es : List (Nat × Nat × Nat)) {e : Nat × Nat × Nat}
    (h : x.carved.find? (fun p => p.1 == e.1) = some e) : (x.carvedWith es).find? (fun p => p.1 == e.1) = some e := by
  unfold Core.carvedWith
  generalize x.carved = l at h
  induction es generalizing l with
  | nil => exact h
  | cons a es ih =>
    rw [List.foldl_cons]
    refine ih _ ?_
    split
    · exact h
    · rw [List.find?_append, h]
      rfl

section
variable (s : State) (c : Nat) (x : Ctx) (r : Launch) (b incarn spbase : Nat) (table : List (Nat × Nat × Nat)) (n unit inst : Option Nat)
  (saveVa : Nat)

/-- The block that is reserved for a launch without a routine row. -/
def reserved : Block :=
  { id := s.nextId, ctx := x.id, blockIndex := b, incarn := incarn, spbase := spbase, rec_ := r, launchId := n,
    dispatch := (s.core c).dispatches + 1, slots := table.map fun e => e.1, rows := (table.flatMap fun e => [e.2.1, e.2.2]).eraseDups,
    routineRow := none, routineSlot := none, unit := unit, inst := inst, elapsed := 0, overrun := false, phase := .reserved, saveVa := saveVa,
    saveOp := none, waiting := true, taken := [], calls := [], before := [], marked := false, half := none }

theorem reserveBlock_name : (reserveBlock s c x r b incarn spbase table none n unit inst saveVa).1 = s.nextId := rfl

theorem reserveBlock_ops : (reserveBlock s c x r b incarn spbase table none n unit inst saveVa).2.ops = s.ops := rfl

theorem reserveBlock_core : SameHolders
    { s.core c with blocks := (s.core c).blocks ++ [reserved s c x r b incarn spbase table n unit inst saveVa],
                    carved := (s.core c).carvedWith (table ++ []) }
    ((reserveBlock s c x r b incarn spbase table none n unit inst saveVa).2.core c) := by
  unfold reserveBlock
  dsimp only
  rw [core_modCore _ _ _ ?_]
  · refine SameHolders.trans ?_ (setLeases_sameHolders ..)
    exact ⟨rfl, rfl, rfl, rfl⟩
  · exact (setLeases_sameHolders ..).index.trans (core_index ..)

theorem reserveBlock_tracks {w : Issuer} (h : Tracks s w) : Tracks (reserveBlock s w.c x r b incarn spbase table none n unit inst saveVa).2 w := by
  obtain ⟨g, hg, hkeep⟩ := h
  refine ⟨g, ?_, hkeep⟩
  rw [State.group?, Core.group?, (reserveBlock_core ..).groups]
  exact hg

end

/-! The place of a block held for its image (20 R277). -/

theorem replaceFirst_append {α : Type} {p : α → Bool} (f : α → α) {xs : List α} (h : ∀ a ∈ xs, p a = false) (y : α) (hy : p y = true) :
    replaceFirst p f (xs ++ [y]) = xs ++ [f y] := by
  induction xs with
  | nil => simp [replaceFirst, hy]
  | cons a xs ih =>
    simp only [List.cons_append, replaceFirst, h a (List.mem_cons_self ..), Bool.false_eq_true, if_false]
    rw [ih fun b hb => h b (List.mem_cons_of_mem _ hb)]

section
variable {s : State} {w : Issuer} (x : Ctx) (r : Launch) (z : SavedBlock) (incarn spbase : Nat) (table : List (Nat × Nat × Nat)) (va : Nat)

/-- The block whose place is held for an image. -/
def placeHeld (s : State) (w : Issuer) : Block :=
  (reserved (moveHome s r z.launchId z.blockIndex w.c) w.c x r z.blockIndex incarn spbase table z.launchId z.unit z.inst va).inPhase .loading

theorem reserveFor_name : (reserveFor s w.c x r z incarn spbase table none va).1 = (placeHeld x r z incarn spbase table va s w).id := rfl

theorem reserveFor_ops : (reserveFor s w.c x r z incarn spbase table none va).2.ops = s.ops := (moveHome_idle ..).ops

theorem reserveFor_tracks (h : Tracks s w) : Tracks (reserveFor s w.c x r z incarn spbase table none va).2 w :=
  (reserveBlock_tracks _ _ _ _ _ _ _ _ _ _ _ ((moveHome_idle ..).tracks h)).modBlock _ _

theorem reserveFor_blocks (hnew : ∀ k ∈ (s.core w.c).blocks, k.id < s.nextId) :
    ((reserveFor s w.c x r z incarn spbase table none va).2.core w.c).blocks
      = (s.core w.c).blocks ++ [placeHeld x r z incarn spbase table va s w] := by
  have hidle := moveHome_idle s r z.launchId z.blockIndex w.c
  rw [reserveFor, core_modBlock, Core.modBlock, (reserveBlock_core ..).blocks, hidle.core]
  refine replaceFirst_append _ (fun k hk => ?_) _ (beq_self_eq_true _)
  have hlt := hidle.unnamed hnew k (by rwa [hidle.core])
  exact beq_false_of_ne hlt.ne

end

/-- The record that an agent names. -/
def recordAt (s : State) (w : Issuer) (a : Nat) : DRecord := drecordOf (readPlace s (placeOf s w (uniAddr s w a)) 128)

/-! CTXLOAD (12 R195). -/

section
variable {s : State} {w : Issuer} (h : Issues s w) (hagent : w.g.first = 0) (d a b : GReg) (hva : (uniG s w b).toNat < 2 ^ 57)
  (halign : (uniG s w b).toNat % 64 = 0) (hgood : recordFault s w 128 16 (uniAddr s w a) = none) (hunfenced : Unfenced s w)
  (hhold : w.sp.hold ≠ .recordFailed) (hasks : ∀ x ∈ s.ctxs, x.asks (.dispatch w.c w.slot w.idx) = false)
include h hagent hva halign hgood hunfenced hhold hasks

theorem ctxload_acts {n k : Nat} {t : State}
    (hload : reserveLoad s w.c (recordAt s w a) (uniG s w b).toNat (.dispatch w.c w.slot w.idx) = (some n, k, t)) :
    exec (.ctxload d a b) s = .next (done (forkOp t w .gc 14 0 (.ctxload d n k (uniG s w b).toNat)).2 w) := by
  have hact := privileged_acts h hagent rfl (exec_ctxload d a b s)
  have hlow : highVa (uniG s w b).toNat = false := decide_eq_false (by omega)
  have hanswered : (s.ctxs.any fun x => x.asks (.dispatch w.c w.slot w.idx)) = false := List.any_eq_false.mpr fun x hx => by simp [hasks x hx]
  rw [checkedRecord_goes hgood, afterFences_goes hunfenced.1 hunfenced.2] at hact
  simp only [hlow, Bool.false_eq_true, if_false, halign, ne_eq, not_true, beq_false_of_ne hhold, hanswered] at hact
  rw [show drecordOf (readPlace s (placeOf s w (uniAddr s w a)) 128) = recordAt s w a from rfl, hload] at hact
  exact hact

end

/-- A block without a routine row needs no more of its core. -/
theorem routineFor_none {y : Core} {r : Launch} (h : r.traversal = false) : routineFor y r = some none := by
  rw [routineFor, h]
  rfl

/-- The place of a block is held where its core can take it. -/
theorem reserveLoad_holds {s t u : State} {w : Issuer} {q : DRecord} {va : Nat} {owner : FaultOwner} {x : Ctx} {r : Launch} {z : SavedBlock}
    (hctx : ctxForWork s q.ctx = (some x, t)) (hread : readLaunch t (.core w.c) x q.launch (boundConsumer t x.id) = (.ok r, u))
    (hz : imageAt u x w.c r q.block q.incarn va = .ok z) (hagrees : recordAgrees q r = true)
    (hcluster : u.holdsCluster x.func (Config.clusterIndex (Config.dieOf w.c) (Config.clusterOf w.c)) = true)
    (hresources : resourcesOk (u.core w.c) r q.spbase q.table = true) (hplace : placeOk u x.id w.c r z = true)
    (htraversal : r.traversal = false) : reserveLoad s w.c q va owner
      = (some 0, (placeHeld x r z q.incarn q.spbase q.table va u w).id, (reserveFor u w.c x r z q.incarn q.spbase q.table none va).2) := by
  simp only [reserveLoad, hctx, hread, hz, hagrees, hcluster, hresources, hplace, routineFor_none htraversal, Bool.not_true, Bool.or_self,
    Bool.false_eq_true, if_false, reserveFor_name]

theorem loads : Loads := by
  intro s w d a b h hagent hunfenced at_ va q die x t r u hgood hctx hread hva halign forks hhold hasks
  have hidle : Idle s u := (ctxForWork_idle hctx).trans (posted_of_snd (posted_readLaunch (Posted.refl t)) hread).idle
  have hforks : ∀ {n k v}, reserveLoad s w.c q va (.dispatch w.c w.slot w.idx) = (some n, k, v) → Tracks v w → v.ops = u.ops →
      forks (done (forkOp v w .gc 14 0 (.ctxload d n k va)).2 w) n k := fun {n k v} hload htracks hops =>
    ⟨ctxload_acts h hagent d a b hva halign hgood hunfenced hhold hasks hload,
      retire_goesOn _ _ (forkOp_tracks _ _ _ _ _ _ htracks) (who_parts h.1).2.1, forkedOp v w .gc 14 0 (.ctxload d n k va),
      by rw [done_ops, ← hops]; rfl, rfl, rfl, rfl⟩
  have herror : ∀ n, imageAt u x w.c r q.block q.incarn va = .error n → ∃ t, forks t n u.nextId := fun n hn =>
    ⟨_, hforks (by simp only [reserveLoad, hctx, hread, hn]) (hidle.tracks (who_tracks h.1)) rfl⟩
  refine ⟨herror, fun z hz hdie => herror 3 ?_, fun z hz hagrees hcluster hresources hplace htraversal hnew => ?_⟩
  · simp only [imageAt, hz]
    exact if_neg hdie
  · refine ⟨_, placeHeld x r z q.incarn q.spbase q.table va u w,
      hforks (reserveLoad_holds hctx hread hz hagrees hcluster hresources hplace htraversal)
        (reserveFor_tracks _ _ _ _ _ _ _ (hidle.tracks (who_tracks h.1))) (reserveFor_ops ..), ?_, rfl, rfl, rfl, rfl, rfl, rfl, rfl⟩
    rw [done_blocks, forkOp_core, ← hidle.core w.c]
    exact reserveFor_blocks _ _ _ _ _ _ _ (hidle.unnamed hnew)

end Sys2Proof.Machine
end

section
/-! Proofs: DISPATCH starts the block of its record (O44). -/
namespace Sys2Proof.Machine

/-! What the start of a block leaves of its core: other blocks and groups. -/

theorem sameHolders_foldl {α : Type} {f : Core → α → Core} (hf : ∀ y a, SameHolders y (f y a)) (x : Core) (as : List α) :
    SameHolders x (as.foldl f x) := by
  induction as generalizing x with
  | nil => exact .refl x
  | cons a as ih => exact (hf x a).trans (ih _)

theorem giveG_sameHolders (y : Core) (slot i v : Nat) : SameHolders y (y.giveG slot i v) := by
  unfold Core.giveG
  split
  · exact .refl y
  · rw [landG_rest]
    exact ⟨rfl, rfl, rfl, rfl⟩

theorem acquireAt_sameHolders (s : State) (c : Nat) (sc : Scope) : SameHolders (s.core c) ((acquireAt s c sc).core c) := by
  unfold acquireAt
  split
  · rw [core_modCore _ _ _ (core_index ..)]
    exact ⟨rfl, rfl, rfl, rfl⟩
  · exact .refl _

/-- A block as it starts (12 R193). -/
def Block.started (k : Block) : Block := { k with phase := .running, rows := [], elapsed := 0, overrun := false, waiting := true }

/-- The groups of a block as it starts on a core. -/
def startGroups (s : State) (c : Nat) (k : Block) (pod : Bool) : List Group :=
  (groupsOf k.rec_ k.id k.ctx k.blockIndex (reservedTable (s.core c) k) (k.dispatch % 2048) (64 * k.id)).map fun g =>
    { g with podAcquired := pod }

theorem reservedTable_carved {x y : Core} (h : y.carved = x.carved) (k : Block) : reservedTable y k = reservedTable x k := by
  rw [reservedTable, reservedTable, h]

theorem noteSync_foldl_cores (s : State) (c : Nat) (slots : List Nat) : (slots.foldl (fun s slot => noteSync s c slot 2 0) s).cores = s.cores := by
  induction slots generalizing s with
  | nil => rfl
  | cons a as ih => rw [List.foldl_cons, ih, noteSync_cores]

/-! The steps of a start (12 R193, 16 R223): the core as it gives its rows, its scratchpad and its matrix engine to a block, as the groups
are in place, and as they have their arguments. -/

/-- A core with the contents of a block's rows, allocation and matrix engine as a fresh start leaves them. -/
def Core.readied (y : Core) (k : Block) : Core :=
  let y := (k.rows ++ k.routineRow.toList).foldl (fun y r => y.freshRow k.ctx (64 * k.id + r) r) y
  let y := y.freshScratch k.ctx (4 * k.id) k.spbase k.rec_.scratch
  if k.rec_.matrix then { y with matrix := y.matrix.taken k.id k.ctx k.id, slotPoison := [] } else y

/-- A core with the groups of a block that starts. -/
def Core.peopled (y : Core) (k : Block) (gs : List Group) : Core :=
  ({ y with
    groups := y.groups ++ gs,
    carved := y.carved.filter fun p => !(k.slots.contains p.1),
    poison := y.poison.filter fun o => o < k.spbase || k.spbase + k.rec_.scratch ≤ o }.setLeases (k.rows ++ k.routineRow.toList) .running).modBlock
      k.id Block.started

/-- A core whose groups of a block have ARGS and the address of their exit barrier. -/
def Core.briefed (y : Core) (k : Block) (exit : Option Nat) : Core :=
  k.slots.foldl (fun y slot =>
    let y := y.giveG slot 1 k.rec_.args
    match exit with
    | none => y
    | some a => y.giveG slot 2 a) y

theorem freshRow_sameHolders (y : Core) (ctx seed r : Nat) : SameHolders y (y.freshRow ctx seed r) := ⟨rfl, rfl, rfl, rfl⟩

theorem freshScratch_sameHolders (y : Core) (ctx seed base n : Nat) : SameHolders y (y.freshScratch ctx seed base n) := ⟨rfl, rfl, rfl, rfl⟩

theorem readied_sameHolders (y : Core) (k : Block) : SameHolders y (y.readied k) := by
  have hrows := sameHolders_foldl (fun y r => freshRow_sameHolders y k.ctx (64 * k.id + r) r) y (k.rows ++ k.routineRow.toList)
  have hscratch := hrows.trans (freshScratch_sameHolders _ k.ctx (4 * k.id) k.spbase k.rec_.scratch)
  unfold Core.readied
  dsimp only
  split
  · exact hscratch.trans ⟨rfl, rfl, rfl, rfl⟩
  · exact hscratch

theorem briefed_sameHolders (y : Core) (k : Block) (exit : Option Nat) : SameHolders y (y.briefed k exit) :=
  sameHolders_foldl (fun y slot => by
    cases exit with
    | none => exact giveG_sameHolders y slot 1 _
    | some a => exact (giveG_sameHolders y slot 1 _).trans (giveG_sameHolders _ slot 2 a)) y k.slots

theorem peopled_holders (y : Core) (k : Block) (gs : List Group) : (y.peopled k gs).index = y.index ∧ (y.peopled k gs).groups = y.groups ++ gs
    ∧ (y.peopled k gs).blocks = replaceFirst (fun b => b.id == k.id) Block.started y.blocks := by
  unfold Core.peopled
  rw [setLeases_rest]
  exact ⟨rfl, rfl, rfl⟩

theorem startFresh_eq {s : State} {c : Nat} {k : Block} (hk : (s.core c).block? k.id = some k) (together : List Nat) :
    startFresh s c k.id together
      = k.slots.foldl (fun s slot => noteSync s c slot 2 0) (((acquireAt s c (levelScope s k together)).setCore
          (((((acquireAt s c (levelScope s k together)).core c).readied k).peopled k
            (startGroups (acquireAt s c (levelScope s k together)) c k (decide (5 ≤ scopeRank (levelScope s k together))))).briefed k
              (exitAddress (acquireAt s c (levelScope s k together)) k.unit))).modCtx k.ctx fun x => { x with started := true }) := by
  rw [startFresh, hk]
  rfl

/-- The block of a core is started, and its groups are added to those of the core. -/
theorem startFresh_core {s : State} {c : Nat} {k : Block} (hk : (s.core c).block? k.id = some k) (together : List Nat) :
    ((startFresh s c k.id together).core c).groups
        = (s.core c).groups ++ startGroups s c k (decide (5 ≤ scopeRank (levelScope s k together)))
      ∧ ((startFresh s c k.id together).core c).blocks = replaceFirst (fun b => b.id == k.id) Block.started (s.core c).blocks := by
  have hacquired := acquireAt_sameHolders s c (levelScope s k together)
  have hgroups : startGroups (acquireAt s c (levelScope s k together)) c k = startGroups s c k := by
    funext pod
    rw [startGroups, reservedTable_carved hacquired.carved, startGroups]
  rw [startFresh_eq hk, State.core, noteSync_foldl_cores, ← State.core, modCtx_core, hgroups]
  generalize startGroups s c k (decide (5 ≤ scopeRank (levelScope s k together))) = gs
  generalize exitAddress (acquireAt s c (levelScope s k together)) k.unit = exit
  have hready := hacquired.trans (readied_sameHolders _ k)
  obtain ⟨hindex, hgs, hblocks⟩ := peopled_holders (((acquireAt s c (levelScope s k together)).core c).readied k) k gs
  have hbrief := briefed_sameHolders ((((acquireAt s c (levelScope s k together)).core c).readied k).peopled k gs) k exit
  have hcore := core_setCore (acquireAt s c (levelScope s k together))
    (((((acquireAt s c (levelScope s k together)).core c).readied k).peopled k gs).briefed k exit)
  rw [hbrief.index.trans (hindex.trans (hready.index.trans (core_index s c)))] at hcore
  rw [hcore, hbrief.groups, hgs, hready.groups, hbrief.blocks, hblocks, hready.blocks]
  exact ⟨rfl, rfl⟩

/-! The setup of an exit barrier (03 R56). -/

theorem setExitBarrier_wrote (s : State) (u : Nat) : ∃ f, Wrote s (setExitBarrier s u) f := by
  unfold setExitBarrier
  dsimp only
  split
  · exact ⟨_, Wrote.refl s⟩
  · exact ⟨_, (Wrote.refl s).writePlace _ _⟩

theorem setExitBarriers_sameHolders (s : State) (units : List Nat) (c : Nat) : SameHolders (s.core c) ((units.foldl setExitBarrier s).core c) := by
  induction units generalizing s with
  | nil => exact .refl _
  | cons u us ih =>
    obtain ⟨f, hwrote⟩ := setExitBarrier_wrote s u
    have hone : SameHolders (s.core c) ((setExitBarrier s u).core c) := by
      rw [hwrote.core c]
      exact ⟨rfl, rfl, rfl, rfl⟩
    exact hone.trans (ih _)

/-! The groups of a block beside those of its core. -/

/-- Some groups of a core stand behind the group in a slot. -/
def Behind (t : State) (c slot : Nat) (gs : List Group) : Prop :=
  ∃ xs, (t.core c).groups = xs ++ gs ∧ (xs.find? fun g => g.slot == slot).isSome

theorem replaceFirst_found {α : Type} {p : α → Bool} (f : α → α) {xs : List α} (h : (xs.find? p).isSome) (ys : List α) :
    replaceFirst p f (xs ++ ys) = replaceFirst p f xs ++ ys := by
  induction xs with
  | nil => simp at h
  | cons a xs ih =>
    by_cases ha : p a = true
    · simp [replaceFirst, ha]
    · rw [List.find?_cons_of_neg ha] at h
      simp [replaceFirst, ha, ih h]

theorem Behind.modGroup {t : State} {c slot : Nat} {gs : List Group} (h : Behind t c slot gs) {f : Group → Group}
    (hf : ∀ g, (f g).slot = g.slot) : Behind (t.modGroup c slot f) c slot gs := by
  obtain ⟨xs, hxs, hfound⟩ := h
  refine ⟨replaceFirst (fun g => g.slot == slot) f xs, ?_, ?_⟩
  · rw [State.modGroup, core_modCore _ _ _ (core_index ..), Core.modGroup, hxs, replaceFirst_found f hfound]
  · rw [find_replaceFirst_same _ f fun g hg => by rwa [hf g]]
    simpa using hfound

theorem heldDone_behind {t : State} {w : Issuer} {gs : List Group} (h : Behind t w.c w.slot gs) (d : Nat) (v : DWord) :
    Behind (heldDone t w d v none) w.c w.slot gs := by
  have hgo : Behind { done t w with nextId := t.nextId + 1 } w.c w.slot gs := h.modGroup (f := retired w t.cycle) fun _ => rfl
  have hheld : Behind (State.modGroup { done t w with nextId := t.nextId + 1 } w.c w.slot (holding ⟨w.idx, d, v, none, t.nextId, 0, none⟩)) w.c
      w.slot gs := hgo.modGroup fun _ => rfl
  exact hheld.modGroup (f := (·.modSplit w.idx fun sp => { sp with hold := .heldResult, heldFor := 0 })) fun _ => rfl

theorem heldDone_blocks (t : State) (w : Issuer) (d : Nat) (v : DWord) (c : Nat) :
    ((heldDone t w d v none).core c).blocks = (t.core c).blocks := by
  rw [(heldDone_near t w d v).core_eq]

theorem heldDone_holds {t : State} {w : Issuer} {g : Group} (h : t.group? w.c w.slot = some g) (d : Nat) (v : DWord) :
    ∃ h, (heldDone t w d v none).group? w.c w.slot = some h ∧ h.held = g.held ++ [⟨w.idx, d, v, none, t.nextId, 0, none⟩] := by
  obtain ⟨k, hk, hfields, -⟩ := (heldDone_near t w d v).group g h
  exact ⟨k, hk, by rw [hfields]; rfl⟩

/-! The groups that a block starts with (12 R193). -/

theorem reservedTable_of_find {y : Core} {k : Block} {table : List (Nat × Nat × Nat)} (hslots : k.slots = table.map fun e => e.1)
    (hcarved : ∀ e ∈ table, (y.carved.find? fun p => p.1 == e.1) = some e) : reservedTable y k = table := by
  rw [reservedTable, hslots, List.filterMap_map]
  exact (List.filterMap_congr (g := some) hcarved).trans List.filterMap_some

theorem mem_startGroups {s : State} {c : Nat} {k : Block} (pod : Bool) {e : Nat × Nat × Nat} (he : e ∈ reservedTable (s.core c) k) :
    ∃ (g : Group) (pc : PC), g ∈ startGroups s c k pod ∧ g.slot = e.1 ∧ g.block = k.id ∧ g.first = e.2.1 ∧ g.second = e.2.2
      ∧ g.live = BitVec.allOnes 32 ∧ g.splits = [⟨0, pc, BitVec.allOnes 32, 0, .none, 0, false⟩] ∧ g.stack = [] ∧ g.tvec = 0 := by
  obtain ⟨j, hj, rfl⟩ := List.getElem_of_mem he
  refine ⟨_, _, List.mem_map_of_mem (List.mem_map_of_mem (List.mem_range.mpr hj)), ?_, rfl, ?_, ?_, rfl, rfl, rfl, rfl⟩
  · exact congrArg Prod.fst (List.getD_eq_getElem _ _ hj)
  · exact congrArg (fun e => e.2.1) (List.getD_eq_getElem _ _ hj)
  · exact congrArg (fun e => e.2.2) (List.getD_eq_getElem _ _ hj)

/-! A block placed, and started alone (03 R54). -/

theorem placeBlock_reserves (s : State) (c : Nat) (x : Ctx) (r : Launch) (b incarn spbase : Nat) (table : List (Nat × Nat × Nat)) (n : Option Nat) :
    ∃ v unit inst, Idle s v ∧ placeBlock s c x r b incarn spbase table none n = reserveBlock v c x r b incarn spbase table none n unit inst 0 :=
  ⟨_, _, _, ((joinInstance_idle ..).trans (joinInstance_idle ..)).trans (keepHome_idle ..), rfl⟩

theorem block_append_new {y : Core} {xs : List Block} {k : Block} (hy : y.blocks = xs ++ [k]) (hnew : ∀ b ∈ xs, b.id < k.id) :
    y.block? k.id = some k := by
  have hnone : (xs.find? fun b => b.id == k.id) = none := List.find?_eq_none.mpr fun b hb => by simpa using (hnew b hb).ne
  rw [Core.block?, hy, List.find?_append, hnone]
  simp

/-- One block starts alone where it is admitted. -/
theorem startInstance_one {t : State} {x : Ctx} {c : Nat} {k : Block} (h : admits t x c k.rec_ = true) :
    startInstance t x [(c, k)] = some ((k.unit.toList.eraseDups).foldl setExitBarrier (startFresh t c k.id [k.blockIndex])) := by
  have hroom : ¬ x.vb < vfix t x + ((committed t c x k.rec_ 0).1 + 0) + maxSum t x := by
    simpa [admits] using h
  have hunits : [(c, k)].filterMap (fun p => p.2.unit) = k.unit.toList := by cases hk : k.unit <;> simp [hk]
  rw [startInstance, hunits]
  exact if_neg hroom

section
variable {s t u : State} {c : Nat} {q : DRecord} {owner : FaultOwner} {x : Ctx} {r : Launch} {k : Block}
  (hctx : ctxForWork s q.ctx = (some x, t)) (hphase : x.phase ≠ .vacating) (hhalted : x.halted = false)
  (hread : readLaunch t (.core c) x q.launch (boundConsumer t x.id) = (.ok r, u)) (hagrees : recordAgrees q r = true)
  (hcluster : u.holdsCluster x.func (Config.clusterIndex (Config.dieOf c) (Config.clusterOf c)) = true)
  (hlow : r.shareStart (Config.dieOf c) ≤ q.block) (hhigh : q.block < r.shareStart (Config.dieOf c) + r.share (Config.dieOf c))
  (hresources : resourcesOk (u.core c) r q.spbase q.table = true) (htraversal : r.traversal = false) (hunit : r.unitLevel = none)
  (hfits : placeFits u x.id r (launchRunOf u x.id r.va) q.block c = true) (hadmits : admits u x c r = true)
include hctx hphase hhalted hread hagrees hcluster hlow hhigh hresources htraversal hunit hfits hadmits

/-- A record whose block can start alone has status 0, and its block starts. -/
theorem dispatchRecord_starts
    (hmembers : instanceMembers (placeBlock u c x r q.block q.incarn q.spbase q.table none (launchRunOf u x.id r.va)).2 x.id r
      (launchRunOf u x.id r.va) q.block = [(c, k)])
    (hadmitted : admits (placeBlock u c x r q.block q.incarn q.spbase q.table none (launchRunOf u x.id r.va)).2 x c k.rec_ = true) :
    dispatchRecord s c q owner = (some 0, (k.unit.toList.eraseDups).foldl setExitBarrier (startFresh
      (placeBlock u c x r q.block q.incarn q.spbase q.table none (launchRunOf u x.id r.va)).2 c k.id [k.blockIndex])) := by
  have hshare : ¬ (q.block < r.shareStart (Config.dieOf c) ∨ r.shareStart (Config.dieOf c) + r.share (Config.dieOf c) ≤ q.block) := by omega
  have hwhole : instanceWhole r [(c, k)] = true := by simp [instanceWhole, hunit]
  simp only [dispatchRecord, hctx, hread, hagrees, hcluster, hresources, routineFor_none htraversal, hfits, beq_false_of_ne hphase, hhalted, hadmits,
    if_neg hshare, hmembers, hwhole, startInstance_one hadmitted, Bool.not_true, Bool.or_self, Bool.and_false, Bool.false_eq_true, if_false, if_true]

end

section
variable {s : State} {w : Issuer} (h : Issues s w) (hagent : w.g.first = 0) (d a : GReg)
  (hgood : recordFault s w 128 16 (uniAddr s w a) = none) (hhold : w.sp.hold ≠ .recordFailed)
  (hasks : ∀ x ∈ s.ctxs, x.asks (.dispatch w.c w.slot w.idx) = false)
include h hagent hgood hhold hasks

theorem dispatch_answers {n : Nat} {t : State} (hstatus : dispatchRecord s w.c (recordAt s w a) (.dispatch w.c w.slot w.idx) = (some n, t)) :
    exec (.dispatch d a) s = .next (heldDone t w d (BitVec.ofNat 64 n) none) := by
  have hact := privileged_acts h hagent rfl (exec_dispatch d a s)
  have hanswered : (s.ctxs.any fun x => x.asks (.dispatch w.c w.slot w.idx)) = false := List.any_eq_false.mpr fun x hx => by simp [hasks x hx]
  rw [checkedRecord_goes hgood] at hact
  simp only [beq_false_of_ne hhold, hanswered, Bool.false_eq_true, if_false] at hact
  rw [show drecordOf (readPlace s (placeOf s w (uniAddr s w a)) 128) = recordAt s w a from rfl, hstatus] at hact
  exact hact

end

/-- What a core holds once a block is reserved on it and started alone: the block behind its blocks, and the block's groups
behind its groups. -/
theorem started_core {s v : State} {c : Nat} {x : Ctx} {r : Launch} {b incarn spbase : Nat} {table : List (Nat × Nat × Nat)}
    {n unit inst : Option Nat} (hidle : Idle s v) (hnew : ∀ k ∈ (s.core c).blocks, k.id < s.nextId)
    (hcarved : ∀ e ∈ table, ((s.core c).carved.find? fun p => p.1 == e.1) = some e) (together units : List Nat) :
    let k := reserved v c x r b incarn spbase table n unit inst 0
    let t := units.foldl setExitBarrier (startFresh (reserveBlock v c x r b incarn spbase table none n unit inst 0).2 c k.id together)
    ∃ gs, (t.core c).blocks = (s.core c).blocks ++ [k.started] ∧ (t.core c).groups = (s.core c).groups ++ gs
      ∧ ∀ e ∈ table, ∃ (g : Group) (pc : PC), g ∈ gs ∧ g.slot = e.1 ∧ g.block = k.id ∧ g.first = e.2.1 ∧ g.second = e.2.2
        ∧ g.live = BitVec.allOnes 32 ∧ g.splits = [⟨0, pc, BitVec.allOnes 32, 0, .none, 0, false⟩] ∧ g.stack = [] ∧ g.tvec = 0 := by
  intro k t
  have hreserved := reserveBlock_core v c x r b incarn spbase table n unit inst 0
  have hfresh : ∀ k' ∈ (s.core c).blocks, k'.id < k.id := fun k' hk' => (hnew k' hk').trans_le hidle.nextId
  have hblocks := hreserved.blocks
  have hgroups := hreserved.groups
  rw [hidle.core] at hblocks hgroups
  have hk := block_append_new hblocks hfresh
  have htable := reservedTable_of_find (k := k) rfl fun e he => by
    rw [hreserved.carved]
    exact carvedWith_find _ _ (by rw [hidle.core]; exact hcarved e he)
  obtain ⟨hstartGroups, hstartBlocks⟩ := startFresh_core hk together
  have hbarriers := setExitBarriers_sameHolders (startFresh (reserveBlock v c x r b incarn spbase table none n unit inst 0).2 c k.id together) units c
  refine ⟨_, hbarriers.blocks.trans (hstartBlocks.trans ?_), hbarriers.groups.trans (hstartGroups.trans (congrArg (· ++ _) hgroups)), fun e he => ?_⟩
  · rw [hblocks]
    exact replaceFirst_append _ (fun k' hk' => beq_false_of_ne (hfresh k' hk').ne) _ (beq_self_eq_true _)
  · exact mem_startGroups _ (htable.symm ▸ he)

theorem dispatches : Dispatches := by
  intro s w d a h hagent at_ q die x t r u k0 hgood hctx hphase hhalted hhold hasks hread hagrees hcluster hlow hhigh hresources htraversal hunit hnew
    hcarved n v hfits hadmits hadmitted hmembers hid hrec
  have hidle : Idle s u := (ctxForWork_idle hctx).trans (posted_of_snd (posted_readLaunch (Posted.refl t)) hread).idle
  have hstatus := dispatchRecord_starts (owner := .dispatch w.c w.slot w.idx) hctx hphase hhalted hread hagrees hcluster hlow hhigh hresources
    htraversal hunit hfits hadmits hmembers (by rw [hrec]; exact hadmitted)
  obtain ⟨y, unit, inst, hplaced, hreserve⟩ := placeBlock_reserves u w.c x r q.block q.incarn q.spbase q.table n
  have hact := dispatch_answers h hagent d a hgood hhold hasks hstatus
  rw [hid.trans (congrArg Prod.fst hreserve), hreserve] at hact
  obtain ⟨gs, hblocks, hgroups, hstarted⟩ := started_core (x := x) (r := r) (b := q.block) (incarn := q.incarn) (spbase := q.spbase) (n := n)
    (unit := unit) (inst := inst) (hidle.trans hplaced) hnew hcarved [k0.blockIndex] k0.unit.toList.eraseDups
  have hissuer : (s.core w.c).groups.find? (fun g => g.slot == w.slot) = some w.g := (who_parts h.1).1
  obtain ⟨xs, hxs, -⟩ := heldDone_behind ⟨_, hgroups, by rw [hissuer]; rfl⟩ d 0
  refine ⟨_, (reserved y w.c x r q.block q.incarn q.spbase q.table n unit inst 0).started, hact, (heldDone_blocks ..).trans hblocks, rfl, rfl, rfl,
    rfl, rfl, rfl, rfl, fun e he => ?_, ?_⟩
  · obtain ⟨g, pc, hg, hstands⟩ := hstarted e he
    exact ⟨g, pc, hxs ▸ List.mem_append_right xs hg, hstands⟩
  · obtain ⟨g, hg, hheld⟩ := heldDone_holds (w := w) (g := w.g) (by rw [State.group?, Core.group?, hgroups, List.find?_append, hissuer]; rfl) d 0
    exact ⟨g, _, hg, hheld⟩

/-- Settles O44: each part by what its instruction leaves of the core that it names, and the completions by what ends an operation. -/
theorem agentBlocks : Obligations.AgentBlocks := by
  refine ⟨dispatches, loads, saves, fun s o g ho hg => ⟨fun d n k v hkind hn => ctxloadComplete_fails ho hg hkind hn,
    fun d i v k x z img areas t u => ctxloadComplete_loads ho, fun ctx size v hkind => ?_, fun ctx size v hkind => ?_⟩⟩
  · rw [← invalidate_context s ctx size v]
    exact tlbinvComplete_drops ho hg hkind
  · rw [← invalidate_all s ctx size v]
    exact tlbinvComplete_drops ho hg hkind

end Sys2Proof.Machine
end

section
/-! Proofs: fences (O22). -/
namespace Sys2Proof.Machine

/-! What a fence makes of its group (13 R212). -/

/-- What a release fence makes of its group before it is passed. -/
def marked (sc : Scope) (g : Group) : Group :=
  { g with relFence := some (match g.relFence with | none => sc | some a => widerScope a sc) }

/-- What a release fence makes of its group when it is passed. -/
def passed (sc : Scope) (g : Group) : Group :=
  { g with epoch := if reachesOut sc then g.epoch + 1 else g.epoch, podReleased := g.podReleased || decide (5 ≤ scopeRank sc) }

theorem markRelease_eq (s : State) (w : Issuer) (sc : Scope) : markRelease s w sc = s.modGroup w.c w.slot (marked sc) := rfl

theorem passRelease_eq (s : State) (w : Issuer) (sc : Scope) : passRelease s w sc = s.modGroup w.c w.slot (passed sc) := rfl

/-- The group after a fence performed at a scope, which has then observed the writes `seen`. -/
def fenced (sc : Scope) (acq rel : Bool) (seen : List WriteRef) (g : Group) : Group :=
  { g with observed := seen, relFence := if rel then (marked sc g).relFence else g.relFence,
           epoch := if rel ∧ 2 ≤ scopeRank sc then g.epoch + 1 else g.epoch,
           podAcquired := g.podAcquired || (acq && decide (5 ≤ scopeRank sc)),
           podReleased := g.podReleased || (rel && decide (5 ≤ scopeRank sc)) }

/-- Release and acquire of one fence, one after the other. -/
theorem fenced_fenced (sc : Scope) (acq rel : Bool) (seen later : List WriteRef) (g : Group) :
    fenced sc acq false later (fenced sc false rel seen g) = fenced sc acq rel later g := by
  simp [fenced]

section
variable {s t : State} {w : Issuer}

theorem OnlyMineView.refl (s : State) (w : Issuer) : OnlyMineView s s w fun a b => b = a :=
  ⟨rfl, fun _ _ => rfl, rfl, fun _ _ => rfl, fun g hg => ⟨g, hg, rfl⟩⟩

theorem OnlyMineView.mono {r1 r2 : Group → Group → Prop} (h : OnlyMineView s t w r1) (hr : ∀ a b, r1 a b → r2 a b) : OnlyMineView s t w r2 :=
  h.trans (.refl t w) fun a b c hab hbc => by rw [hbc]; exact hr a b hab

theorem release_onlyMine (s : State) (w : Issuer) (sc : Scope) (rel : Bool) :
    OnlyMineView s (if rel then passRelease (markRelease s w sc) w sc else s) w fun a b => b = fenced sc false rel a.observed a := by
  cases rel with
  | false => exact (OnlyMineView.refl s w).mono fun a b hab => by simp [hab, fenced]
  | true =>
    rw [if_pos rfl, passRelease_eq, markRelease_eq]
    exact (modGroup_onlyMine s w (f := marked sc) fun _ => rfl).trans (modGroup_onlyMine _ w (f := passed sc) fun _ => rfl)
      fun a b c hab hbc => by simp [hbc, hab, fenced, marked, passed, reachesOut]

theorem release_view (s : State) (w : Issuer) (sc : Scope) (rel : Bool) :
    ((if rel then passRelease (markRelease s w sc) w sc else s).core w.c).view = (s.core w.c).view := by
  cases rel with
  | false => rfl
  | true => exact (modGroup_view _ w (f := passed sc) fun _ => rfl).trans (modGroup_view s w (f := marked sc) fun _ => rfl)

theorem observe_onlyMine (s : State) (w : Issuer) (sc : Scope) (ys : List Sight) :
    OnlyMineView s (observe s w.c w.slot sc ys) w fun a b => b = { a with observed := b.observed } :=
  OnlyMineView.mono (modGroup_onlyMine s w fun _ => rfl) fun a b hab => by rw [hab]

theorem acquireReads_eq {g : Group} (hg : s.group? w.c w.slot = some g) (sc : Scope) :
    acquireReads s w.c w.slot sc = acquireBy (observe s w.c w.slot sc g.seen) w.c w.slot sc := by
  rw [acquireReads, hg]

theorem acquireReads_onlyMine {g : Group} (hg : s.group? w.c w.slot = some g) (sc : Scope) :
    OnlyMineView s (acquireReads s w.c w.slot sc) w fun a b => b = fenced sc true false b.observed a := by
  rw [acquireReads_eq hg]
  refine (observe_onlyMine s w sc g.seen).trans (acquireBy_onlyMine _ w sc) fun a b c hab hbc => ?_
  rw [hbc, hab]
  simp [fenced, acquired]

theorem acquireReads_view {g : Group} (hg : s.group? w.c w.slot = some g) (sc : Scope) :
    ((acquireReads s w.c w.slot sc).core w.c).view = if 2 ≤ scopeRank sc then [] else (s.core w.c).view := by
  have hobserve : ((observe s w.c w.slot sc g.seen).core w.c).view = (s.core w.c).view := modGroup_view s w fun _ => rfl
  rw [acquireReads_eq hg, acquireBy_view, hobserve]

end

/-- A fence that is passed at a scope, but for its count under a cap: as a release first, then as an acquire. -/
def passFence (s : State) (w : Issuer) (sc : Scope) (acq rel : Bool) : State :=
  let t := if rel then passRelease (markRelease s w sc) w sc else s
  if acq then acquireReads t w.c w.slot sc else t

section
variable {s : State} {w : Issuer} (hg : s.group? w.c w.slot = some w.g) (sc : Scope) (acq rel : Bool)
include hg

theorem passFence_onlyMine : OnlyMineView s (passFence s w sc acq rel) w fun a b => b = fenced sc acq rel b.observed a := by
  have hrelease := release_onlyMine s w sc rel
  obtain ⟨b, hb, -⟩ := hrelease.group _ hg
  cases acq with
  | false => exact hrelease.mono fun a b hab => by rw [hab]; rfl
  | true =>
    refine hrelease.trans (acquireReads_onlyMine hb sc) fun a b c hab hbc => ?_
    rw [hbc, hab]
    exact fenced_fenced ..

theorem passFence_view : ((passFence s w sc acq rel).core w.c).view = if acq ∧ 2 ≤ scopeRank sc then [] else (s.core w.c).view := by
  obtain ⟨b, hb, -⟩ := (release_onlyMine s w sc rel).group _ hg
  cases acq with
  | false => simpa [passFence] using release_view s w sc rel
  | true => simpa [passFence, release_view] using acquireReads_view hb sc

end

/-! Scopes under a cap (13 R200). -/

section
variable {s : State} {w : Issuer} {x : Ctx} (hx : s.ctx? w.g.ctx = some x) {sc : Scope}
include hx

theorem cappedGroup_eq : cappedGroup s w.g = x.capped := by rw [cappedGroup, hx]; rfl

/-- An operation that no cap changes is performed at its own scope and not counted. -/
theorem capScope_free (hfree : x.capped = false ∨ scopeRank sc < 5) (pc : PC) : capScope s w.c w.slot w.g sc pc = (sc, s) := by
  rw [capScope, performedScope, cappedGroup_eq hx]
  rcases hfree with hfree | hrank
  · simp [hfree]
  · have hlow : ¬ 5 ≤ scopeRank sc := by omega
    have hsystem : (sc == .system) = false := by
      cases sc <;> simp [scopeRank] at hrank ⊢
    simp [hlow, hsystem]

theorem performedScope_capped (hcap : x.capped = true) (hrank : 5 ≤ scopeRank sc) : performedScope s w.g sc = .pod := by
  simp [performedScope, cappedGroup_eq hx, hcap, hrank]

end

/-- The group after an operation of a scope under a cap: one of SYSTEM of no agent is counted, up to the count's end (13 R200, 14 R222). -/
def counted (sc : Scope) (g : Group) : Group :=
  { g with capCount := if sc = .system ∧ isAgent g = false ∧ g.capCount ≠ BitVec.allOnes 32 then g.capCount + 1 else g.capCount }

/-- The group after one of its operations is counted. -/
def countedOne (g : Group) : Group := { g with capCount := if g.capCount = BitVec.allOnes 32 then g.capCount else g.capCount + 1 }

theorem counted_system {g : Group} (hagent : isAgent g = false) : counted .system g = countedOne g := by
  simp [counted, countedOne, hagent]

/-- A count changes the group alone; the event of the first leaves the cores as they were. -/
theorem countCapped_posted {s : State} {c slot : Nat} {g : Group} (hg : s.group? c slot = some g) (pc : PC) :
    Posted (s.modGroup c slot countedOne) (countCapped s c slot pc) := by
  rw [countCapped, hg]
  dsimp only
  split
  · exact posted_event ..
  · exact .refl _

/-- What an operation under a cap leaves of its group. -/
theorem capScope_counts {s : State} {w : Issuer} (hg : s.group? w.c w.slot = some w.g) (hcap : cappedGroup s w.g = true) (sc : Scope) (pc : PC) :
    (capScope s w.c w.slot w.g sc pc).2.group? w.c w.slot = some (counted sc w.g) := by
  rw [capScope, hcap, Bool.true_and]
  by_cases hcount : sc = .system ∧ isAgent w.g = false
  · have hposted := countCapped_posted hg pc
    obtain ⟨rfl, hagent⟩ := hcount
    rw [hagent, beq_self_eq_true, Bool.not_false, Bool.and_self, if_pos rfl, hposted.group,
      group_changed_some countedOne (fun _ => rfl) hg, counted_system hagent]
  · have hnone : (sc == .system && !isAgent w.g) = false := by simpa [not_and] using hcount
    have hsame : counted sc w.g = w.g := by
      rw [counted, if_neg fun h => hcount ⟨h.1, h.2.1⟩]
    rw [hnone, if_neg Bool.false_ne_true, hsame]
    exact hg

/-! A fence at its issue (13 R212). -/

/-- The instruction is a fence of a kind at a scope. -/
def IsFence (i : Instr) (sc : Scope) (acq rel : Bool) : Prop := wellFormed i = true ∧ ∀ s, exec i s = fenceAt s i sc acq rel

theorem fenceAcq_isFence (sc : Scope) : IsFence (.fenceAcq sc) sc true false := ⟨rfl, exec_fenceAcq sc⟩
theorem fenceRel_isFence (sc : Scope) : IsFence (.fenceRel sc) sc false true := ⟨rfl, exec_fenceRel sc⟩
theorem fenceAll_isFence (sc : Scope) : IsFence (.fenceAll sc) sc true true := ⟨rfl, exec_fenceAll sc⟩

section
variable {s : State} {w : Issuer} {x : Ctx} {sc : Scope} {i : Instr} {acq rel : Bool} (h : Issues s w) (hx : s.ctx? w.g.ctx = some x)
  (hdue : ∀ d ∈ w.g.due, d.store = false) (hqueue : ∀ e ∈ w.g.queue, e.fault = .clear ∧ storeTranslates s x e = true)
  (hreads : ∀ e ∈ w.g.reads, fencePoint w ≤ e.seq) (hi : IsFence i sc acq rel)
include h hx hdue hqueue hreads hi

/-- What a fence does at its suspension point of stores, the earlier reads of its group having their values. -/
theorem fence_issues : exec i s = .next (
    let p := performedScope s w.g sc
    let marked := if rel then markRelease s w p else s
    if !rel || ownPerformed s w.c w.g (fencePoint w) p then
      let t := (capScope marked w.c w.slot w.g sc w.sp.pc).2
      let t := if rel then passRelease t w p else t
      done (if acq then acquireReads t w.c w.slot p else t) w
    else holdIt marked w (.fence (fencePoint w) acq rel)) := by
  have hvalued : readsValued w.g (fencePoint w) = true := by simpa [readsValued] using hreads
  refine (hi.2 s).trans ((uniIssue_acts h hi.1 (by simp) (by simp) _ _).trans (congrArg _ ?_))
  dsimp only
  rw [storePoint_goes hx hdue hqueue, hvalued, Bool.true_and]

section
variable (hfree : x.capped = false ∨ scopeRank sc < 5)
include hfree

/-- A fence whose condition is met goes on; what it changes is its group's and the clean copies of its core. -/
theorem fence_passes (hperformed : rel = true → ownPerformed s w.c w.g (fencePoint w) sc = true) :
    exec i s = .next (done (passFence s w sc acq rel) w) := by
  have hp : performedScope s w.g sc = sc := congrArg Prod.fst (capScope_free hx hfree w.sp.pc)
  have hcount : ∀ t : State, t.ctxs = s.ctxs → (capScope t w.c w.slot w.g sc w.sp.pc).2 = t := fun t ht =>
    congrArg Prod.snd (capScope_free (s := t) (by rw [State.ctx?, ht]; exact hx) hfree w.sp.pc)
  refine (fence_issues h hx hdue hqueue hreads hi).trans (congrArg _ ?_)
  dsimp only
  rw [hp]
  cases rel with
  | false => exact congrArg (fun t => done (if acq then acquireReads t w.c w.slot sc else t) w) (hcount s rfl)
  | true =>
    rw [hperformed rfl, if_pos rfl, if_pos rfl, hcount (markRelease s w sc) rfl]
    rfl

/-- A release fence whose group has a write that is not yet performed marks what follows, and is held. -/
theorem fence_waits (hrel : rel = true) (hperformed : ownPerformed s w.c w.g (fencePoint w) sc = false) :
    exec i s = .next (holdIt (markRelease s w sc) w (.fence (fencePoint w) acq true)) := by
  have hp : performedScope s w.g sc = sc := congrArg Prod.fst (capScope_free hx hfree w.sp.pc)
  refine (fence_issues h hx hdue hqueue hreads hi).trans (congrArg _ ?_)
  dsimp only
  rw [hp, hperformed, hrel]
  rfl

end

/-- An acquire fence that a cap lowers is performed at TENANT. -/
theorem fence_capped (hcap : x.capped = true) (hrank : 5 ≤ scopeRank sc) (hacq : acq = true) (hrel : rel = false) :
    exec i s = .next (done (acquireReads (capScope s w.c w.slot w.g sc w.sp.pc).2 w.c w.slot .pod) w) := by
  refine (fence_issues h hx hdue hqueue hreads hi).trans (congrArg _ ?_)
  dsimp only
  rw [performedScope_capped hx hcap hrank, hacq, hrel]
  rfl

end

/-! What a fence leaves. -/

/-- A fence that is passed: its split goes on, and what has changed beside is its group's and the clean copies of its core. -/
theorem passFence_done {s : State} {w : Issuer} (h : s.who = some w) (sc : Scope) (acq rel : Bool) :
    let t := done (passFence s w sc acq rel) w
    GoesOn t w (nextPc w) ∧ (t.core w.c).view = (if acq ∧ 2 ≤ scopeRank sc then [] else (s.core w.c).view)
      ∧ Near s (t.modCore w.c fun x => { x with view := (s.core w.c).view }) w noKeys fun g h =>
        h = { g with splits := h.splits, pend := h.pend, la := h.la, observed := h.observed, relFence := h.relFence, epoch := h.epoch,
                     podAcquired := h.podAcquired, podReleased := h.podReleased }
          ∧ h.relFence = (fenced sc acq rel h.observed g).relFence ∧ h.epoch = (fenced sc acq rel h.observed g).epoch
          ∧ h.podAcquired = (fenced sc acq rel h.observed g).podAcquired ∧ h.podReleased = (fenced sc acq rel h.observed g).podReleased := by
  obtain ⟨hg, hsp, -⟩ := who_parts h
  have hpass := passFence_onlyMine hg sc acq rel
  have htracks := hpass.tracks (who_tracks h) fun a b hab => by rw [hab]; exact ⟨rfl, rfl, rfl, rfl, rfl⟩
  refine ⟨retire_goesOn _ _ htracks hsp, (done_view ..).trans (passFence_view hg sc acq rel), hpass.done fun a b c hab hbc => ?_⟩
  obtain ⟨hfields, -⟩ := hbc
  rw [hab] at hfields
  rw [hfields]
  exact ⟨rfl, rfl, rfl, rfl, rfl⟩

/-- A release fence that is held: its split stands, and its group's later stores are marked. -/
theorem markRelease_holds {s : State} {w : Issuer} (h : s.who = some w) (sc : Scope) (hold : Hold) :
    ∃ sp g, Stands (holdIt (markRelease s w sc) w hold) w sp ∧ sp.pc = w.sp.pc ∧ sp.hold = hold
      ∧ (holdIt (markRelease s w sc) w hold).group? w.c w.slot = some g
      ∧ g.relFence = some (match w.g.relFence with | none => sc | some a => widerScope a sc) := by
  obtain ⟨hg, hsp, -⟩ := who_parts h
  have hmarked : (markRelease s w sc).group? w.c w.slot = some _ := group_changed_some _ (fun _ => rfl) hg
  have hstands : Stands (markRelease s w sc) w w.sp := ⟨_, hmarked, hsp, fun _ _ => rfl⟩
  exact ⟨_, _, hstands.modSplit _ fun _ => rfl, rfl, rfl, group_changed_some _ (fun _ => rfl) hmarked, rfl⟩

/-- An acquire fence performed at TENANT, after its count. -/
theorem acquireCapped_done {s : State} {w : Issuer} (h : s.who = some w) (hcap : cappedGroup s w.g = true) (sc : Scope) :
    let t := done (acquireReads (capScope s w.c w.slot w.g sc w.sp.pc).2 w.c w.slot .pod) w
    ∃ g, GoesOn t w (nextPc w) ∧ (t.core w.c).view = [] ∧ t.group? w.c w.slot = some g ∧ g.relFence = w.g.relFence ∧ g.podAcquired = true
      ∧ g.capCount = (counted sc w.g).capCount := by
  obtain ⟨hg, hsp, -⟩ := who_parts h
  have hcounted := capScope_counts hg hcap sc w.sp.pc
  obtain ⟨b, hb, hab⟩ := (acquireReads_onlyMine hcounted .pod).group _ hcounted
  have htracks : Tracks (acquireReads (capScope s w.c w.slot w.g sc w.sp.pc).2 w.c w.slot .pod) w :=
    ⟨b, hb, by rw [hab]; exact ⟨rfl, rfl, rfl, rfl, (group_slot hg : w.g.slot = w.slot)⟩⟩
  obtain ⟨c, hc, hfields, -⟩ := (retire_near _ w (nextPc w) 1).group b hb
  refine ⟨c, retire_goesOn _ _ htracks hsp, (done_view ..).trans (acquireReads_view hcounted .pod), hc, ?_, ?_, ?_⟩
  · rw [hfields, hab]; rfl
  · rw [hfields, hab]; exact Bool.or_true _
  · rw [hfields, hab]; rfl

/-- Settles O22: by what a fence does at its suspension point of stores (`fence_issues`), in the cases of its condition and of a cap. -/
theorem fences : Obligations.Fences := by
  intro s w x sc h hx hdue hqueue hreads drop rest
  have hpasses := fun {i acq rel} (hi : IsFence i sc acq rel) => fence_passes h hx hdue hqueue hreads hi
  have hwaits := fun {i acq rel} (hi : IsFence i sc acq rel) => fence_waits h hx hdue hqueue hreads hi
  have hdone := passFence_done h.1 sc
  refine ⟨fun hfree => ⟨?_, fun hperformed => ⟨?_, ?_⟩, fun hwaiting => ?_⟩, fun hcap hrank => ?_⟩
  · obtain ⟨hgoes, hview, hrest⟩ := hdone true false
    exact ⟨_, hpasses (fenceAcq_isFence sc) hfree (fun hrel => nomatch hrel), hgoes, by simpa [drop] using hview, hrest⟩
  · obtain ⟨hgoes, hview, hrest⟩ := hdone false true
    exact ⟨_, hpasses (fenceRel_isFence sc) hfree fun _ => hperformed, hgoes, by simpa using hview, hrest⟩
  · obtain ⟨hgoes, hview, hrest⟩ := hdone true true
    exact ⟨_, hpasses (fenceAll_isFence sc) hfree fun _ => hperformed, hgoes, by simpa [drop] using hview, hrest⟩
  · have hheld : ∀ {i acq}, IsFence i sc acq true → ∃ t sp g, exec i s = .next t ∧ Stands t w sp ∧ sp.pc = w.sp.pc
        ∧ sp.hold = .fence (fencePoint w) acq true ∧ t.group? w.c w.slot = some g
        ∧ g.relFence = some (match w.g.relFence with | none => sc | some a => widerScope a sc) := fun hi => by
      obtain ⟨sp, g, hstands⟩ := markRelease_holds h.1 sc (.fence (fencePoint w) _ true)
      exact ⟨_, sp, g, hwaits hi hfree rfl hwaiting, hstands⟩
    simp only [List.forall_mem_cons]
    exact ⟨hheld (fenceRel_isFence sc), hheld (fenceAll_isFence sc), fun _ hq => nomatch hq⟩
  · obtain ⟨g, hdone⟩ := acquireCapped_done h.1 ((cappedGroup_eq hx).trans hcap) sc
    exact ⟨_, g, fence_capped h hx hdue hqueue hreads (fenceAcq_isFence sc) hcap hrank rfl rfl, hdone⟩

end Sys2Proof.Machine
end

section
/-! Proofs: writes that arrive at their homes, and copies that drop (O28). -/
namespace Sys2Proof.Machine

/-! Cells written in order. -/

theorem writtenOver_other {cs : List Host.Cell} {a : Nat} (h : ∀ c ∈ cs, c.1 ≠ a) (old : Byte) : writtenOver cs a old = old := by
  have hnone : (cs.reverse.find? fun c => c.1 == a) = none := by simpa using h
  rw [writtenOver, hnone]
  rfl

/-- What stood at an address that is written does not count. -/
theorem writtenOver_mem {cs : List Host.Cell} {a : Nat} (h : ∃ c ∈ cs, c.1 = a) (old older : Byte) :
    writtenOver cs a old = writtenOver cs a older := by
  have hsome : (cs.reverse.find? fun c => c.1 == a).isSome := by simpa using h
  obtain ⟨c, hc⟩ := Option.isSome_iff_exists.mp hsome
  rw [writtenOver, writtenOver, hc]
  rfl

/-! Line copies (13 R201). -/

theorem testBit_held (cs : List Host.Cell) (n i : Nat) :
    (cs.foldl (fun h c => h ||| 2 ^ (c.1 % 128)) n).testBit i = (n.testBit i || cs.any fun c => c.1 % 128 == i) := by
  induction cs generalizing n with
  | nil => simp
  | cons c cs ih =>
    rw [List.foldl_cons, ih, Nat.testBit_or, Nat.testBit_two_pow, List.any_cons, Bool.or_assoc]
    rfl

/-- A byte of a line copy after bytes of its line are put into it, where it stands over another byte. -/
theorem byte_put {v : ViewLine} {cs : List Host.Cell} {a : Nat} (hform : Memory.wf v.cells = true) (hcs : ∀ c ∈ cs, lineOf c.1 = v.line)
    (ha : lineOf a = v.line) (bad : List Nat) (old : Byte) :
    ((v.put cs bad).byte? a).getD old = writtenOver cs a ((v.byte? a).getD old) := by
  have hmine : (cs.filter fun c => c.1 / 128 == v.line) = cs := List.filter_eq_self.mpr fun c hc => beq_iff_eq.mpr (hcs c hc)
  have hput : (v.put cs bad).byte? a
      = if v.held.testBit (a % 128) || cs.any fun c => c.1 % 128 == a % 128 then some (writtenOver cs a (Memory.read v.cells a)) else none := by
    rw [ViewLine.byte?, ViewLine.put, hmine]
    simp only [testBit_held, Memory.read_writeAll hform, ← ha, lineOf, true_and]
  have hbyte : v.byte? a = if v.held.testBit (a % 128) then some (Memory.read v.cells a) else none := by
    simp only [ViewLine.byte?, ← ha, lineOf, true_and]
  by_cases hwritten : ∃ c ∈ cs, c.1 = a
  · have hany : (cs.any fun c => c.1 % 128 == a % 128) = true := by
      obtain ⟨c, hc, rfl⟩ := hwritten
      exact List.any_eq_true.mpr ⟨c, hc, beq_self_eq_true _⟩
    rw [hput, hany, Bool.or_true, if_pos rfl]
    exact writtenOver_mem hwritten ..
  · have hother : ∀ c ∈ cs, c.1 ≠ a := fun c hc e => hwritten ⟨c, hc, e⟩
    have hany : (cs.any fun c => c.1 % 128 == a % 128) = false := by
      rw [List.any_eq_false]
      intro c hc hmod
      have hline : c.1 / 128 = a / 128 := (hcs c hc).trans ha.symm
      have hmod : c.1 % 128 = a % 128 := by simpa using hmod
      exact hother c hc (by omega)
    rw [hput, hany, Bool.or_false, hbyte, writtenOver_other hother, writtenOver_other hother]

theorem find_putLine_same (line : Nat) (cs : List Host.Cell) (bad : List Nat) (vs : List ViewLine) :
    (putLine line cs bad vs).find? (fun v => v.line == line)
      = some (((vs.find? fun v => v.line == line).getD ⟨line, 0, [], false, []⟩).put cs bad) := by
  induction vs with
  | nil => simp [putLine, ViewLine.put]
  | cons v vs ih =>
    by_cases hline : v.line = line
    · simp [putLine, ViewLine.put, hline]
    · simp [putLine, hline, ih]

theorem find_putLine_other {line other : Nat} (h : other ≠ line) (cs : List Host.Cell) (bad : List Nat) (vs : List ViewLine) :
    (putLine line cs bad vs).find? (fun v => v.line == other) = vs.find? fun v => v.line == other := by
  have hne : (line == other) = false := beq_false_of_ne h.symm
  induction vs with
  | nil => simp [putLine, ViewLine.put, hne]
  | cons v vs ih =>
    by_cases hline : v.line = line
    · simp [putLine, ViewLine.put, hline, hne]
    · simp [putLine, hline, ih, List.find?_cons]

/-- The byte that a list of line copies holds at an address. -/
def copyAt (vs : List ViewLine) (a : Nat) : Option Byte := (vs.find? fun v => v.line == lineOf a).bind fun v => v.byte? a

/-- A byte of a list of line copies after bytes of one line are put into it, where it stands over another byte. -/
theorem copyAt_putLine {line : Nat} {cs : List Host.Cell} {vs : List ViewLine} (hform : LinesForm vs) (hcs : ∀ c ∈ cs, lineOf c.1 = line)
    (bad : List Nat) (a : Nat) (old : Byte) : (copyAt (putLine line cs bad vs) a).getD old = writtenOver cs a ((copyAt vs a).getD old) := by
  by_cases ha : lineOf a = line
  · subst ha
    rw [copyAt, copyAt, find_putLine_same, Option.bind_some]
    cases hfind : vs.find? fun v => v.line == lineOf a with
    | none => exact (byte_put (v := ⟨lineOf a, 0, [], false, []⟩) rfl hcs rfl bad old).trans (by simp [ViewLine.byte?])
    | some v =>
      have hline : v.line = lineOf a := by simpa using List.find?_some hfind
      exact byte_put (hform v (List.mem_of_find?_eq_some hfind)) (fun c hc => (hcs c hc).trans hline.symm) hline.symm bad old
  · rw [copyAt, copyAt, find_putLine_other ha, writtenOver_other fun c hc e => ha ((congrArg lineOf e).symm.trans (hcs c hc))]

/-! Bytes at home (05 R80, 13 R207). -/

theorem homeByte_eq (s : State) (a : Nat) :
    s.homeByte a = if isAttic a then (copyAt s.attic a).getD (Memory.read s.mem a) else Memory.read s.mem a := rfl

/-- The attic window is of whole lines. -/
theorem isAttic_line {a b : Nat} (h : lineOf a = lineOf b) : isAttic a = isAttic b := by
  have hsplit : ∀ x, x / 2 ^ 51 = lineOf x / 2 ^ 44 := fun x => (Nat.div_div_eq_div_mul x 128 (2 ^ 44)).symm
  rw [isAttic, isAttic, bit, bit, hsplit, hsplit, h]

section
variable {s : State} {cs : List Host.Cell} (hline : ∀ b ∈ cs, ∀ c ∈ cs, lineOf b.1 = lineOf c.1)

/-- A write at home changes what is at home, and ends the poison there. -/
theorem homeCells_fields (s : State) (cs : List Host.Cell) : ∃ mem attic,
    homeCells s cs = { s with mem := mem, attic := attic, memPoison := s.memPoison.filter fun k => !(cs.any fun b => b.1 == k) } := by
  unfold homeCells
  split
  · exact ⟨s.mem, s.attic, rfl⟩
  · split
    · exact ⟨s.mem, _, rfl⟩
    · exact ⟨_, s.attic, rfl⟩

include hline

/-- Cells of one line, written at home, stand there over what stood there. -/
theorem homeCells_homeByte (hm : Memory.wf s.mem = true) (hform : LinesForm s.attic) (a : Nat) :
    (homeCells s cs).homeByte a = writtenOver cs a (s.homeByte a) := by
  cases cs with
  | nil => rfl
  | cons c r =>
    have hside : ∀ b ∈ c :: r, isAttic b.1 = isAttic c.1 := fun b hb => isAttic_line (hline b hb c List.mem_cons_self)
    have hapart : isAttic a ≠ isAttic c.1 → ∀ b ∈ c :: r, b.1 ≠ a := fun hne b hb e => hne (e ▸ hside b hb)
    unfold homeCells
    by_cases hattic : isAttic c.1 = true
    · simp only [if_pos hattic, homeByte_eq]
      by_cases ha : isAttic a = true
      · rw [if_pos ha, if_pos ha]
        exact copyAt_putLine hform (fun b hb => hline b hb c List.mem_cons_self) ..
      · rw [if_neg ha, if_neg ha, writtenOver_other (hapart (by rw [hattic]; exact ha))]
    · simp only [if_neg hattic, homeByte_eq, Memory.read_writeAll hm]
      by_cases ha : isAttic a = true
      · have hother := hapart (by rw [ha]; exact Ne.symm hattic)
        rw [if_pos ha, if_pos ha, writtenOver_other hother, writtenOver_other hother]
      · rw [if_neg ha, if_neg ha]

/-- The memory of an attic node takes a write at its home slice only with the write that goes on to it. -/
theorem homeCells_attic (hm : Memory.wf s.mem = true) {a : Nat} (ha : isAttic a = true) :
    Memory.read (homeCells s cs).mem a = Memory.read s.mem a := by
  cases cs with
  | nil => rfl
  | cons c r =>
    unfold homeCells
    by_cases hattic : isAttic c.1 = true
    · simp only [if_pos hattic]
    · simp only [if_neg hattic, Memory.read_writeAll hm]
      exact writtenOver_other (fun b hb e => hattic ((isAttic_line (hline c List.mem_cons_self b hb)).trans (e ▸ ha))) _

end

/-! PROPAGATION_ARRIVE (13 R202). -/

/-- The state with the write at place `n` appended at its home, and no longer on its way there. -/
def appended (s : State) (n : Nat) (p : Propagation) : State :=
  arriveSets (homeCells { s with props := s.props.eraseIdx n } p.bytes) p.core p.slot p.seq (p.bytes.map Prod.fst)

theorem appended_fields (s : State) (n : Nat) (p : Propagation) : ∃ mem attic sets,
    appended s n p = { s with props := s.props.eraseIdx n, mem := mem, attic := attic, sets := sets,
                              memPoison := s.memPoison.filter fun k => !(p.bytes.any fun b => b.1 == k) } := by
  obtain ⟨mem, attic, hcells⟩ := homeCells_fields { s with props := s.props.eraseIdx n } p.bytes
  rw [appended, hcells]
  exact ⟨mem, attic, _, rfl⟩

section
variable {s : State} {n : Nat} {p : Propagation} (hp : s.props[n]? = some p) (hrepl : p.repl = none) (harrive : mayArrive s n p = true)
include hp hrepl harrive

theorem arriveProp_first (hhome : p.home = false) : arriveProp s n = { appended s n p with
    props := s.props.eraseIdx n ++ (if p.beyond = .none then [] else
      [{ p with home := true, prev := if p.beyond = .host then p.bytes.map fun k => (k.1, s.homeByte k.1) else [] }]) } := by
  obtain ⟨mem, attic, sets, happended⟩ := appended_fields s n p
  have hact : arriveProp s n = if p.beyond = .none then appended s n p else { appended s n p with
      props := (appended s n p).props ++ [{ p with home := true, prev := hostPrev s p.beyond p.bytes }] } := by
    simp only [arriveProp, hp, hrepl, harrive, hhome, removeAt_eq_eraseIdx]
    rfl
  rw [hact, happended]
  split
  · rw [List.append_nil]
  · rfl

theorem arriveProp_refused (hhome : p.home = true) (hnode : p.beyond = .node) (hport : portUp s p.port = false) :
    arriveProp s n = oweRefused { s with props := s.props.eraseIdx n } p := by
  simp only [arriveProp, hp, hrepl, harrive, hhome, hnode, hport, removeAt_eq_eraseIdx]
  rfl

theorem arriveProp_onward (hhome : p.home = true) (hport : p.beyond = .node → portUp s p.port = true) :
    arriveProp s n = { s with props := s.props.eraseIdx n, mem := if p.beyond = .node then Memory.writeAll s.mem p.bytes else s.mem } := by
  by_cases hnode : p.beyond = .node
  · simp only [arriveProp, hp, hrepl, harrive, hhome, hnode, hport hnode, removeAt_eq_eraseIdx]
    rfl
  · have hbne : (p.beyond != .node) = true := by simpa using hnode
    simp only [arriveProp, hp, hrepl, harrive, hhome, hbne, if_neg hnode, removeAt_eq_eraseIdx]
    rfl

end

/-- A refused write changes its group alone, which then owes the trap. -/
theorem oweRefused_cores (s : State) (p : Propagation) : ∃ cs, oweRefused s p = { s with cores := cs } := by
  unfold oweRefused
  split
  · exact ⟨s.cores, rfl⟩
  · exact ⟨_, rfl⟩

theorem oweRefused_owes {s : State} {p : Propagation} {g : Group} {b : Nat} {d : DueTrap} (hg : s.group? p.core p.slot = some g)
    (howed : p.owed = some (b, d)) (hb : g.block = b) : (oweRefused s p).group? p.core p.slot = some { g with due := g.due ++ [d] } := by
  have hslot : ∀ a : Group, (if a.block = b then { a with due := a.due ++ [d] } else a).slot = a.slot := fun a => by split <;> rfl
  rw [oweRefused, howed]
  exact (group_changed_some _ hslot hg).trans (congrArg some (if_pos hb))

/-! DROP (13 R202). -/

theorem dropLine_eq (s : State) (c line : Nat) : dropLine s c line = withView s c ((s.core c).view.filter fun v => v.line != line) := rfl

/-- Settles O28: by what each step of a write makes of the state (`arriveProp_first`, `arriveProp_refused`, `arriveProp_onward`), and what
cells of one line written at home leave there (`homeCells_homeByte`). -/
theorem propagationsAndDrops : Obligations.PropagationsAndDrops := by
  intro s n p hm hform hp hrepl hline harrive
  refine ⟨fun hhome => ?_, fun hhome hnode hport => ?_, fun hhome hport => ?_, fun c line => ?_⟩
  · have hbyte : ∀ a, (appended s n p).homeByte a = writtenOver p.bytes a (s.homeByte a) := homeCells_homeByte hline hm hform
    have hattic : ∀ a, isAttic a = true → Memory.read (appended s n p).mem a = Memory.read s.mem a := fun a ha =>
      homeCells_attic (s := { s with props := s.props.eraseIdx n }) hline hm ha
    refine ⟨_, (exec_propagationArrive ..).trans (congrArg Host.Outcome.next (arriveProp_first hp hrepl harrive hhome)), rfl, hbyte, hattic, ?_⟩
    obtain ⟨mem, attic, sets, happended⟩ := appended_fields s n p
    rw [happended]
    exact ⟨fun a => by simp, rfl⟩
  · obtain ⟨cs, hrefused⟩ := oweRefused_cores { s with props := s.props.eraseIdx n } p
    refine ⟨_, (exec_propagationArrive ..).trans (congrArg Host.Outcome.next (arriveProp_refused hp hrepl harrive hhome hnode hport)), ?_, ?_,
      fun g b d hg howed hb => ⟨_, oweRefused_owes (s := { s with props := s.props.eraseIdx n }) hg howed hb, rfl⟩⟩
    · rw [hrefused]
    · rw [hrefused]
  · refine ⟨_, (exec_propagationArrive ..).trans (congrArg Host.Outcome.next (arriveProp_onward hp hrepl harrive hhome hport)), rfl,
      fun a => ?_, rfl⟩
    by_cases hnode : p.beyond = .node
    · simp only [if_pos hnode, Memory.read_writeAll hm]
    · simp only [if_neg hnode]
  · exact ⟨_, (exec_drop ..).trans (congrArg Host.Outcome.next (dropLine_eq s c line)), withView_core ..,
      fun b hb => withView_core_other s _ hb, rfl⟩

end Sys2Proof.Machine
end

section
/-! Proofs: the matrix engine of a core put in the place of another, and commands placed in its queue (O31). -/
namespace Sys2Proof.Machine

/-- The state with a matrix engine put in the place of a core's. -/
def setMatrix (s : State) (c : Nat) (m : Matrix) : State := s.modCore c fun x => { x with matrix := m }

theorem setMatrix_core (s : State) (c : Nat) (m : Matrix) : (setMatrix s c m).core c = { s.core c with matrix := m } :=
  core_modCore s c _ (core_index s c)

theorem setMatrix_matrix (s : State) (c : Nat) (m : Matrix) : ((setMatrix s c m).core c).matrix = m := by rw [setMatrix_core]

theorem setMatrix_core_other (s : State) {c b : Nat} (m : Matrix) (h : b ≠ c) : (setMatrix s c m).core b = s.core b :=
  core_modCore_other s c b _ (core_index s c) h

theorem setMatrix_group (s : State) (c : Nat) (m : Matrix) (a b : Nat) : (setMatrix s c m).group? a b = s.group? a b := by
  unfold State.group?
  by_cases ha : a = c
  · subst ha
    rw [setMatrix_core]
    rfl
  · rw [setMatrix_core_other s m ha]

theorem Tracks.setMatrix {s : State} {w : Issuer} (h : Tracks s w) (m : Matrix) : Tracks (setMatrix s w.c m) w :=
  h.modCore (core_index ..) rfl

/-- A change of registers alone keeps the matrix engine. -/
theorem Near.matrix {s t : State} {w : Issuer} {keys : Nat → Prop} {rel : Group → Group → Prop} (h : Near s t w keys rel) :
    (t.core w.c).matrix = (s.core w.c).matrix := by
  rw [h.core]

/-- A change of registers alone after a change of the matrix engine is one but for that engine. -/
theorem Near.restoreMatrix {s t : State} {w : Issuer} {m : Matrix} {keys : Nat → Prop} {rel : Group → Group → Prop}
    (h : Near (setMatrix s w.c m) t w keys rel) : Near s (setMatrix t w.c (s.core w.c).matrix) w keys rel := by
  refine ⟨?_, h.memory, fun c hc => ?_, ?_, fun k hk => ?_, fun b hb => ?_, fun g hg => ?_⟩
  · rw [h.package]
    rfl
  · rw [setMatrix_core_other t _ hc, h.cores c hc, setMatrix_core_other s m hc]
  · rw [setMatrix_core, h.core, setMatrix_core]
  · rw [setMatrix_core]
    exact (h.rows k hk).trans (by rw [setMatrix_core])
  · rw [setMatrix_group, h.slots b hb, setMatrix_group]
  · obtain ⟨g', hg', hrel⟩ := h.group g ((setMatrix_group s w.c m _ _).trans hg)
    exact ⟨g', (setMatrix_group t w.c _ _ _).trans hg', hrel⟩

/-! An operation forked on gm and its commands placed (16 R224). -/

theorem forkOp_near (s : State) (w : Issuer) (gate : Gate) (cls charge : Nat) (kind : OpKind) :
    Near s { (forkOp s w gate cls charge kind).2 with ops := s.ops, ctxs := s.ctxs } w noKeys (GroupBy (·.join gate)) :=
  (nextId_near s w (s.nextId + 1)).trans (modGroup_near (rel := fun a b => b = a.join gate) (·.join gate) (join_keepsPlace gate).slot
    fun _ => rfl) fun a b c hab hbc => by
      rw [hbc, hab]
      exact ⟨rfl, rfl⟩

/-- The engine's queue after commands are put in it, with what else changes in the engine. -/
def withCommands (m : Matrix) (ks : List Command) (book : Matrix → Matrix) : Matrix :=
  { book m with queue := ks.foldl (fun q k => insertCommand k q) m.queue }

/-- An operation of `n` commands forked on gm, with the commands in the queue, and the split gone on. -/
def placed (s : State) (w : Issuer) (cls charge n : Nat) (ks : List Command) (book : Matrix → Matrix) : State :=
  done (setMatrix (forkOp s w .gm cls charge (.matrix n)).2 w.c (withCommands (s.core w.c).matrix ks book)) w

theorem stepPhase_by {a b : Group} (h : GroupBy id a b) (quant : Bool) : GroupBy (stepPhase quant) a (stepPhase quant b) := by
  obtain ⟨hfields, hla⟩ := h
  refine ⟨?_, by rw [stepPhase_la, hla]⟩
  rw [hfields]
  cases quant <;> rfl

section
variable {s : State} {w : Issuer} (h : s.who = some w) {i : Instr} {cls charge n : Nat} {ks : List Command} {book : Matrix → Matrix}

theorem placed_matrix (s : State) (w : Issuer) (cls charge n : Nat) (ks : List Command) (book : Matrix → Matrix) :
    ((placed s w cls charge n ks book).core w.c).matrix = withCommands (s.core w.c).matrix ks book := by
  rw [placed, done, (retire_near _ w (nextPc w) 1).matrix, setMatrix_matrix]

theorem placed_stepPhase_false (s : State) (w : Issuer) (cls charge n : Nat) (ks : List Command) (book : Matrix → Matrix) :
    (placed s w cls charge n ks book).modMine w (stepPhase false) = placed s w cls charge n ks book :=
  modGroup_id_after _ w.c w.slot _

include h

/-- What an instruction does that places commands, and steps the dither phase or not. -/
theorem places_of_placed {quant : Bool} (e : exec i s = .next ((placed s w cls charge n ks book).modMine w (stepPhase quant))) :
    Places s w i cls charge n ks book (stepPhase quant) := by
  have hphase := stepPhase_keepsPlace quant
  have hafter : ∀ t, Near t (t.modMine w (stepPhase quant)) w noKeys fun a b => b = stepPhase quant a := fun t =>
    modGroup_near _ hphase.slot fun _ => rfl
  have htracks := (forkOp_tracks s w .gm cls charge (.matrix n) (who_tracks h)).setMatrix (withCommands (s.core w.c).matrix ks book)
  refine ⟨_, e, (retire_goesOn _ _ htracks (who_parts h).2.1).modGroup hphase, rfl, fun c => modCtx_ctx s w.g.ctx c _ fun _ => rfl, ?_, ?_⟩
  · rw [(hafter _).matrix, placed_matrix]
    rfl
  · have hfork := forkOp_near s w .gm cls charge (.matrix n)
    have hgo := (retire_near (setMatrix { (forkOp s w .gm cls charge (.matrix n)).2 with ops := s.ops, ctxs := s.ctxs } w.c
      (withCommands (s.core w.c).matrix ks book)) w (nextPc w) 1).trans (r3 := GroupBy (stepPhase quant)) (hafter _) fun a b c hab hbc => by
        rw [hbc]
        exact stepPhase_by hab quant
    have hrest := hgo.restoreMatrix
    rw [hfork.matrix] at hrest
    exact hfork.trans hrest fun a b c hab hbc => by
      obtain ⟨hab, hla⟩ := hab
      obtain ⟨hbc, hla'⟩ := hbc
      rw [hab] at hbc
      refine ⟨?_, hla'.trans hla⟩
      rw [hbc]
      cases quant <;> rfl

end

end Sys2Proof.Machine
end

section
/-! Proofs: the issue of the matrix instructions (O31). -/
namespace Sys2Proof.Machine

/-! What lets a matrix instruction act. -/

/-- A local scratchpad range lies inside the issuer's allocation and is aligned (05 R63). -/
def LocalGood (w : Issuer) (size align a : Nat) : Prop := bits a 19 13 = 0 ∧ a + size ≤ (ownScratch w).2 ∧ a % align = 0

theorem checkedLocal_goes {s : State} {w : Issuer} {size align a : Nat} (h : LocalGood w size align a) (ok : State) :
    checkedLocal s w size align a ok = ok := by
  obtain ⟨hsel, hend, halign⟩ := h
  have hrange : localRange w a size = false := by simp [localRange, hsel, hend]
  rw [checkedLocal, hrange, if_neg Bool.false_ne_true, if_neg (not_not_intro halign)]

theorem placeNow_goes {s : State} {w : Issuer} (hroom : w.core.matrix.queue.length < 32) (go : State → State) :
    placeNow s w go = go s := if_pos (by simpa [Matrix.fits] using hroom)

theorem chargedFor_goes {s : State} {w : Issuer} {cls charge : Nat} (hgo : admitMine s w cls charge = .go) (lanes : Mask) (go : State) :
    chargedFor s w cls charge lanes go = go := by
  rw [chargedFor, hgo]

@[simp] theorem marked_queue (m : Matrix) (cycle : Nat) : (m.marked cycle).queue = m.queue := by
  unfold Matrix.marked
  split <;> rfl

@[simp] theorem marked_slots (m : Matrix) (cycle : Nat) : (m.marked cycle).slots = m.slots := by
  unfold Matrix.marked
  split <;> rfl

@[simp] theorem marked_tail (m : Matrix) (cycle : Nat) : (m.marked cycle).tail = m.tail := by
  unfold Matrix.marked
  split <;> rfl

@[simp] theorem marked_used (m : Matrix) (cycle : Nat) : (m.marked cycle).used = m.used := by
  unfold Matrix.marked
  split <;> rfl

theorem insertCommand_length (k : Command) (q : List Command) : (insertCommand k q).length = q.length + 1 := by
  induction q with
  | nil => rfl
  | cons y r ih =>
    unfold insertCommand
    split
    · rfl
    · rw [List.length_cons, ih, List.length_cons]

theorem enqueue_eq {m : Matrix} {book : Matrix → Matrix} (hbook : (book m).queue = m.queue) (ks : List Command) :
    (book m).enqueue ks = withCommands m ks book := by
  rw [Matrix.enqueue, hbook, withCommands]

/-- Commands put in the queue behind their fork. -/
theorem forkOp_enqueue (s : State) (w : Issuer) (cls charge n : Nat) (ks : List Command) {book : Matrix → Matrix}
    (hbook : ∀ m, (book m).queue = m.queue) :
    done ((forkOp s w .gm cls charge (.matrix n)).2.modCore w.c fun x => { x with matrix := (book x.matrix).enqueue ks }) w
      = placed s w cls charge n ks book := by
  have hmatrix : ((forkOp s w .gm cls charge (.matrix n)).2.core w.c).matrix = (s.core w.c).matrix := by
    rw [forkOp_core]
    rfl
  rw [placed, ← enqueue_eq (hbook _), ← hmatrix]
  rfl

/-- The one command that a uniform matrix instruction places (16 R224). -/
def uniformCommand (s : State) (w : Issuer) (kind : CommandKind) : Command :=
  newCommand w.g.block (some s.nextId) s.cycle (128 + w.slot) kind

section
variable {s : State} {w : Issuer} (h : s.who = some w) {i : Instr} {cls charge : Nat} {kind : CommandKind} {book : Matrix → Matrix}
  (hgo : admitMine s w cls charge = .go) (hroom : (s.core w.c).matrix.queue.length < 32) (hfence : Unfenced s w)
  (hbook : ∀ m, (book m).queue = m.queue)
include h hgo hroom hfence hbook

theorem placeCommand_places : placeCommand s w cls charge kind book
    = placed s w cls charge 1 [uniformCommand s w kind] fun m => book (m.marked s.cycle) := by
  obtain ⟨-, -, hcore⟩ := who_parts h
  obtain ⟨hacquire, hrelease⟩ := hfence
  rw [placeCommand, charged, chargedFor_goes hgo, placeNow_goes (by rwa [hcore]), afterFences_goes hacquire hrelease]
  exact forkOp_enqueue s w cls charge 1 _ (book := fun m => book (m.marked s.cycle)) fun m => (hbook _).trans (marked_queue ..)

theorem places_of_placeCommand (e : exec i s = .next (placeCommand s w cls charge kind book)) :
    Places s w i cls charge 1 [uniformCommand s w kind] (fun m => book (m.marked s.cycle)) id := by
  rw [placeCommand_places h hgo hroom hfence hbook, ← placed_stepPhase_false] at e
  exact places_of_placed h e

end

/-! The words that the instructions read, and what they make of the bookkeeping. -/

theorem passAsks_idle (s : State) (w : Issuer) (d a : Nat) : passAsks s w 0 d a = [] := by
  rw [passAsks, lanesOf_zero]
  rfl

/-- The command of a pass of an MSTREAM (16 R228, R229). -/
def passCommand (s : State) (w : Issuer) (sh : Nat) (ty : MType) (p : PassAsk) : Command :=
  newCommand w.g.block (some s.nextId) s.cycle (32 * p.quarter + w.slot) (.pass (scratchBase w + p.a) (bits p.d 0 6)
    (bits p.d 6 4) (bits p.d 10 6) (bits p.d 16 1) (bit p.d 17) (shapeM sh) (shapeN sh) (bit sh 0) ty)

theorem loadWord_fields {v : Nat} (hzero : v / 128 % 2 = 0) (hv : v < 512) :
    bits v 0 7 = v % 128 ∧ bit v 7 = false ∧ bits v 8 1 = v / 256 ∧ bits v 9 55 = 0 := by
  simp only [bits, bit, Nat.reducePow, beq_eq_false_iff_ne]
  omega

theorem moveWord_fields {v : Nat} (hv : v < 2 ^ 15) :
    bits v 0 6 = v % 64 ∧ bits v 6 4 = v / 64 % 16 ∧ bits v 10 5 = v / 2 ^ 10 % 32 ∧ bits v 15 49 = 0 := by
  refine ⟨?_, rfl, rfl, ?_⟩
  · rw [bits, Nat.pow_zero, Nat.div_one]
    rfl
  · rw [bits, Nat.div_eq_of_lt hv, Nat.zero_mod]

/-- A uniform register written and the split gone on, in a state where the issuer's group stands. -/
theorem putG_goesOn {t : State} {w : Issuer} (ht : Tracks t w) (hsp : w.g.split? w.idx = some w.sp) (i : Nat) (v : DWord) :
    HoldsG (done (putG t w i v) w) w i v ∧ GoesOn (done (putG t w i v) w) w (nextPc w)
      ∧ Local t (done (putG t w i v) w) w (GKeys w.g i) noKeys false := by
  have hretire := retire_local (putG t w i v) w (nextPc w) 1
  exact ⟨(putG_holds i v ht).keep hretire fun _ _ hk => hk, retire_goesOn _ _ (putG_tracks i v ht) hsp,
    (putG_local i v ht).trans (hretire.mono (fun _ hk => hk.elim) (fun _ hk => hk) id)⟩

/-- The engine after MOPEN: the slot at HEAD is open, and a zeroing of it is in the queue if the word asks for one (16 R231). -/
def openedMatrix (s : State) (w : Issuer) (m : Matrix) (v : Nat) : Matrix :=
  let q := m.marked s.cycle
  let opened := { q with slots := q.slots.set q.head .opened, used := q.used + 1 }
  if v = 0 then opened.enqueue [newCommand w.g.block none s.cycle (128 + w.slot) (.zero m.head)] else opened

theorem openedMatrix_fields (s : State) (w : Issuer) (m : Matrix) (v : Nat) :
    (openedMatrix s w m v).slots = m.slots.set ((m.tail + m.used) % 64) .opened ∧ (openedMatrix s w m v).used = m.used + 1
      ∧ (openedMatrix s w m v).queue = if v = 0 then
          insertCommand (newCommand w.g.block none s.cycle (128 + w.slot) (.zero ((m.tail + m.used) % 64))) m.queue else m.queue := by
  unfold openedMatrix
  split <;> simp [Matrix.head, Matrix.enqueue]

theorem recordPoison_none {w : Issuer} {at_ : Nat} :
    recordPoison w at_ = none ↔ ∀ j < 4, w.core.poisonedAt (scratchBase w + at_ + 8 * j) 8 = false := by
  simp [recordPoison, List.find?_eq_none]

/-- The word of MSTAT, field by field (16 R236). -/
theorem mstatWord_eq (m : Matrix) : mstatWord m = (m.tail + m.used) % 64 + 2 ^ 6 * m.tail + 2 ^ 12 * m.used
    + (if m.used ≠ 0 ∧ slotState m.slots m.tail = .ready then 2 ^ 19 else 0) + 2 ^ 20 * m.count0 + 2 ^ 27 * m.count1
    + 2 ^ 34 * m.queue.length := by
  simp [mstatWord, Matrix.head]

/-- Only what a change of the bookkeeping makes of the engine that stands there counts. -/
theorem Places.same_book {s : State} {w : Issuer} {i : Instr} {cls charge n : Nat} {ks : List Command} {book book' : Matrix → Matrix}
    {f : Group → Group} (h : Places s w i cls charge n ks book f) (e : book' (s.core w.c).matrix = book (s.core w.c).matrix) :
    Places s w i cls charge n ks book' f := by
  obtain ⟨t, hexec, hgoes, hops, hclaim, hmatrix, hnear⟩ := h
  exact ⟨t, hexec, hgoes, hops, hclaim, by rw [hmatrix, e], hnear⟩

/-- The ring after an EPI has taken the slots at its tail (16 R227). -/
def freedSlots (ns : List Nat) (m : Matrix) : Matrix :=
  { m with slots := ns.foldl (fun ss n => ss.set n .free) m.slots, tail := (m.tail + ns.length) % 64, used := m.used - ns.length }

theorem freedSlots_marked (ns : List Nat) (m : Matrix) (cycle : Nat) : freedSlots ns (m.marked cycle)
    = { m.marked cycle with slots := ns.foldl (fun ss n => ss.set n .free) m.slots, tail := (m.tail + ns.length) % 64,
                            used := m.used - ns.length } := by
  rw [freedSlots, marked_slots, marked_tail, marked_used]

/-- An EPI whose record and ring are good places its command, frees its slots and steps the dither phase (16 R234, 07 R98). -/
theorem epiChecked_places {s : State} {w : Issuer} (h : s.who = some w) {at_ : Nat} {r : EpiRecord} {ns : List Nat}
    (hns : ns = epiSlots (s.core w.c).matrix r.accKind) (hvalid : epiValid s w.c (ownScratch w).2 r = true)
    (hused : ns.length ≤ (s.core w.c).matrix.used)
    (heven : r.accKind = 2 → (s.core w.c).matrix.tail % 2 = 0) (hready : ∀ n ∈ ns, slotState (s.core w.c).matrix.slots n = .ready)
    (hgo : admitMine s w 8 (chargeOf s 8 0) = .go) (hroom : (s.core w.c).matrix.queue.length < 32) (hfence : Unfenced s w) :
    epiChecked s w at_ r = (placed s w 8 (chargeOf s 8 0) 1 [uniformCommand s w (.epi r (s.core w.c).matrix.tail w.g.dphase.toNat)]
      fun m => freedSlots ns (m.marked s.cycle)).modMine w (stepPhase true) := by
  obtain ⟨-, -, hcore⟩ := who_parts h
  have hpair : (decide (r.accKind = 2) && decide ((s.core w.c).matrix.tail % 2 = 1)) = false := by
    simp only [Bool.and_eq_false_iff, decide_eq_false_iff_not]
    omega
  have hall : (ns.any fun n => slotState (s.core w.c).matrix.slots n != .ready) = false := by simpa using hready
  have hgrown : ((withCommands (s.core w.c).matrix [uniformCommand s w (.epi r (s.core w.c).matrix.tail w.g.dphase.toNat)]
      fun m => freedSlots ns (m.marked s.cycle)).queue.length == (s.core w.c).matrix.queue.length) = false := by
    simp [withCommands, insertCommand_length]
  have hplace := placeCommand_places h hgo hroom hfence (book := freedSlots ns) (fun _ => rfl)
    (kind := .epi r (s.core w.c).matrix.tail w.g.dphase.toNat)
  unfold epiChecked
  dsimp only
  rw [hvalid, Bool.not_true, if_neg Bool.false_ne_true, hcore, ← hns, if_neg (by omega), hpair, if_neg Bool.false_ne_true, hall,
    if_neg Bool.false_ne_true]
  unfold freedSlots at hplace hgrown ⊢
  rw [hplace, placed_matrix, hgrown, if_neg Bool.false_ne_true]
  rfl

section
variable {s : State} {w : Issuer} (h : Issues s w) (hengine : holdsEngine w = true)
include h hengine

/-! MSTREAM (16 R228). -/

section
variable {k : KReg} {d a : VReg} {sh : Fin 32} {ty : MType} (hd : d.val < w.g.allot) (ha : a.val < w.g.allot) (hty : typeAccepted s ty = true)
  (hw : wellFormed (.mstream k d a sh ty) = true)
include hd ha hty hw

theorem mstream_idle (hm : activeOf s w k = 0) : Moves s w (.mstream k d a sh ty) (nextPc w) := by
  have hact : exec (.mstream k d a sh ty) s = _ :=
    laneIssueIf_acts h hw (by simp [hengine, hty]) (by simpa using ⟨hd, ha⟩) (readsV s k [d.val, a.val]) _
  rw [hm, passAsks_idle] at hact
  exact moves_of_retire h.1 hact

theorem mstream_places (hne : passAsks s w (activeOf s w k) d a ≠ [])
    (hfault : mstreamFault s w ty sh.val (passAsks s w (activeOf s w k) d a) = none)
    (hgo : admitMine s w 6 ((passAsks s w (activeOf s w k) d a).length * chargeOf s 6 (shapeM sh.val)) = .go)
    (hroom : (s.core w.c).matrix.queue.length + (passAsks s w (activeOf s w k) d a).length ≤ 32) (hfence : Unfenced s w) :
    Places s w (.mstream k d a sh ty) 6 ((passAsks s w (activeOf s w k) d a).length * chargeOf s 6 (shapeM sh.val))
      (passAsks s w (activeOf s w k) d a).length ((passAsks s w (activeOf s w k) d a).map (passCommand s w sh.val ty)) id id := by
  have hact : exec (.mstream k d a sh ty) s = _ :=
    laneIssueIf_acts h hw (by simp [hengine, hty]) (by simpa using ⟨hd, ha⟩) (readsV s k [d.val, a.val]) _
  obtain ⟨-, -, hcore⟩ := who_parts h.1
  obtain ⟨hacquire, hrelease⟩ := hfence
  generalize hps : passAsks s w (activeOf s w k) d a = ps at *
  have hfull : ps.isEmpty = false := by simpa using hne
  have hfits : w.core.matrix.fits ps.length = true := by simpa [Matrix.fits, hcore] using hroom
  have hplaced := (forkOp_enqueue s w 6 (ps.length * chargeOf s 6 (shapeM sh.val)) ps.length (ps.map (passCommand s w sh.val ty))
    (book := id) fun _ => rfl).trans (placed_stepPhase_false ..).symm
  dsimp only at hact
  rw [hfault] at hact
  dsimp only at hact
  rw [hfull, if_neg Bool.false_ne_true, chargedFor_goes hgo, hfits, Bool.not_true, if_neg Bool.false_ne_true,
    afterFences_goes hacquire hrelease] at hact
  exact places_of_placed h.1 (hact.trans (congrArg _ hplaced))

end

/-! MLOAD and AMOV (16 R230, R235). -/

section
variable {b c : GReg} (hroom : (s.core w.c).matrix.queue.length < 32) (hfence : Unfenced s w)
include hroom hfence

theorem mload_places {v n : Nat} (hword : v = (uniG s w c).toNat) (hn : n = v % 128) (hne : n ≠ 0) (hwidth : n ≤ Config.width w.c)
    (hzero : v / 128 % 2 = 0) (hv : v < 512) (hin : LocalGood w (128 * n) 128 (uniAddr s w b))
    (hgo : admitMine s w 7 (chargeOf s 7 n) = .go) :
    Places s w (.mload b c) 7 (chargeOf s 7 n) 1 [uniformCommand s w (.load (v / 256) (scratchBase w + uniAddr s w b) n)]
      (fun q => if v / 256 = 0 then { q.marked s.cycle with count0 := n } else { q.marked s.cycle with count1 := n }) id := by
  have hact : exec (.mload b c) s = _ := uniIssueIf_acts h rfl hengine (by simp) (readsG [b, c]) _
  obtain ⟨hcount, hbit, hplaten, hrest⟩ := loadWord_fields hzero hv
  have hgood : ¬ (n = 0 ∨ Config.width w.c < n ∨ false = true ∨ 0 ≠ 0) := by simpa using ⟨hne, hwidth⟩
  dsimp only at hact
  rw [← hword, hcount, ← hn, hbit, hplaten, hrest, if_neg hgood, checkedLocal_goes hin] at hact
  exact places_of_placeCommand h.1 hgo hroom hfence (fun m => by split <;> rfl) hact

theorem amov_places {i : Instr} {store : Bool} (hw : wellFormed i = true) (e : exec i s = amov s i b c store) {v rows : Nat}
    (hword : v = (uniG s w c).toNat) (hrows : rows = v / 2 ^ 10 % 32) (hne : rows ≠ 0) (hlast : v / 64 % 16 + rows ≤ 16) (hv : v < 2 ^ 15)
    (hslot : slotState (s.core w.c).matrix.slots (v % 64) ≠ .free)
    (hin : LocalGood w (rows * rowBytes w.c) 16 (uniAddr s w b)) (hgo : admitMine s w 9 (chargeOf s 9 rows) = .go) :
    Places s w i 9 (chargeOf s 9 rows) 1
      [uniformCommand s w (.amov store (scratchBase w + uniAddr s w b) (v % 64) (v / 64 % 16) rows)] (fun q => q.marked s.cycle) id := by
  have hact := e.trans (uniIssueIf_acts h hw hengine (by simp) (readsG [b.val, c.val]) _)
  obtain ⟨hslotOf, hrow0, hrowsOf, hrest⟩ := moveWord_fields hv
  obtain ⟨-, -, hcore⟩ := who_parts h.1
  have hgood : ¬ (rows = 0 ∨ 16 < v / 64 % 16 + rows ∨ 0 ≠ 0) := by simpa using ⟨hne, hlast⟩
  have hused : (slotState (s.core w.c).matrix.slots (v % 64) == .free) = false := by simpa using hslot
  dsimp only at hact
  rw [← hword, hslotOf, hrow0, hrowsOf, hrest, ← hrows, if_neg hgood, hcore, hused, if_neg Bool.false_ne_true,
    checkedLocal_goes hin] at hact
  exact places_of_placeCommand h.1 hgo hroom hfence (fun _ => rfl) hact

end

/-! MOPEN, MCLOSE and MSTAT (16 R231, R232, R236). -/

theorem mopen_acts {c e : GReg} {v : Nat} (hword : v = (uniG s w c).toNat) (hv : v < 2) (hused : (s.core w.c).matrix.used ≠ 64)
    (hroom : v = 0 → (s.core w.c).matrix.queue.length < 32) :
    exec (.mopen e c) s = .next (done (putG (setMatrix s w.c (openedMatrix s w (s.core w.c).matrix v)) w e
      (BitVec.ofNat 64 (s.core w.c).matrix.head)) w) := by
  have hact : exec (.mopen e c) s = _ := uniIssueIf_acts h rfl hengine (by simp) (readsG [c]) _
  obtain ⟨-, -, hcore⟩ := who_parts h.1
  dsimp only at hact
  rw [← hword, if_neg (by omega), hcore, if_neg hused] at hact
  by_cases hzero : v = 0
  · rw [if_pos hzero, placeNow_goes (by rw [hcore]; exact hroom hzero)] at hact
    exact hact
  · rw [if_neg hzero] at hact
    exact hact

theorem mclose_acts {c : GReg} {v : Nat} (hword : v = (uniG s w c).toNat) (hv : v < 64)
    (hopen : slotState (s.core w.c).matrix.slots v = .opened) :
    exec (.mclose c) s = .next (done (setMatrix s w.c { (s.core w.c).matrix.marked s.cycle with
      slots := (s.core w.c).matrix.slots.set v .ready }) w) := by
  have hact : exec (.mclose c) s = _ := uniIssueIf_acts h rfl hengine (by simp) (readsG [c]) _
  obtain ⟨-, -, hcore⟩ := who_parts h.1
  have hready : (slotState (s.core w.c).matrix.slots v != .opened) = false := by simp [hopen]
  dsimp only at hact
  rw [← hword, if_neg (by omega), hcore, hready, if_neg Bool.false_ne_true] at hact
  rw [hact, ← marked_slots (s.core w.c).matrix s.cycle]
  rfl

theorem mopen_opens {c e : GReg} {v : Nat} (hword : v = (uniG s w c).toNat) (hv : v < 2) (hused : (s.core w.c).matrix.used ≠ 64)
    (hroom : v = 0 → (s.core w.c).matrix.queue.length < 32) :
    ∃ t, exec (.mopen e c) s = .next t ∧ GoesOn t w (nextPc w) ∧ HoldsG t w e (BitVec.ofNat 64 (s.core w.c).matrix.head)
      ∧ (t.core w.c).matrix.slots = (s.core w.c).matrix.slots.set (s.core w.c).matrix.head .opened
      ∧ (t.core w.c).matrix.used = (s.core w.c).matrix.used + 1
      ∧ (t.core w.c).matrix.queue = (if v = 0 then insertCommand (newCommand w.g.block none s.cycle (128 + w.slot)
          (.zero (s.core w.c).matrix.head)) (s.core w.c).matrix.queue else (s.core w.c).matrix.queue)
      ∧ Local s (setMatrix t w.c (s.core w.c).matrix) w (GKeys w.g e) noKeys false := by
  have htracks := (who_tracks h.1).setMatrix (openedMatrix s w (s.core w.c).matrix v)
  obtain ⟨hholds, hgoes, hlocal⟩ := putG_goesOn htracks (who_parts h.1).2.1 e.val (BitVec.ofNat 64 (s.core w.c).matrix.head)
  have hmatrix := hlocal.matrix.trans (setMatrix_matrix ..)
  obtain ⟨hslots, hcount, hqueue⟩ := openedMatrix_fields s w (s.core w.c).matrix v
  rw [← hmatrix] at hslots hcount hqueue
  exact ⟨_, mopen_acts h hengine hword hv hused hroom, hgoes, hholds, hslots, hcount, hqueue, hlocal.restoreMatrix⟩

theorem mclose_closes {c : GReg} {v : Nat} (hword : v = (uniG s w c).toNat) (hv : v < 64)
    (hopen : slotState (s.core w.c).matrix.slots v = .opened) :
    ∃ t, exec (.mclose c) s = .next t ∧ GoesOn t w (nextPc w)
      ∧ (t.core w.c).matrix = { (s.core w.c).matrix.marked s.cycle with slots := (s.core w.c).matrix.slots.set v .ready }
      ∧ Local s (setMatrix t w.c (s.core w.c).matrix) w noKeys noKeys false := by
  have hretire := retire_local (setMatrix s w.c { (s.core w.c).matrix.marked s.cycle with slots := (s.core w.c).matrix.slots.set v .ready })
    w (nextPc w) 1
  exact ⟨_, mclose_acts h hengine hword hv hopen, retire_goesOn _ _ ((who_tracks h.1).setMatrix _) (who_parts h.1).2.1,
    hretire.matrix.trans (setMatrix_matrix ..), hretire.restoreMatrix⟩

theorem mstat_reads (e : GReg) : UniResult s w (.mstat e) e (BitVec.ofNat 64 (mstatWord (s.core w.c).matrix)) := by
  obtain ⟨-, -, hcore⟩ := who_parts h.1
  rw [← hcore]
  exact uniResult_of h.1 (uniIssueIf_acts h rfl hengine (by simp) (fun _ => []) _)

/-! EPI (16 R234). -/

section
variable {b : GReg} (hin : LocalGood w 32 32 (uniAddr s w b))
include hin

theorem epi_holds (hfirst : w.sp.hold = .none) : Holds s w (.epi b) (.epiRead (readPlace s ⟨w.c, scratchBase w + uniAddr s w b⟩ 32)
    (recordPoison w (uniAddr s w b))) := by
  have hact : exec (.epi b) s = _ := uniIssueIf_acts h rfl hengine (by simp) (readsG [b]) _
  dsimp only at hact
  rw [checkedLocal_goes hin, hfirst] at hact
  exact holds_of_holdIt h.1 hact

/-- An EPI whose record has been read, or that tries again after the queue or its charge held it, goes on with the record's checks. -/
theorem epi_checks {bs : List Byte} (hread : w.sp.hold = .epiRead bs none ∨ ((w.sp.hold = .commandQueueFull ∨ w.sp.hold = .vacateStall)
      ∧ bs = readPlace s ⟨w.c, scratchBase w + uniAddr s w b⟩ 32
      ∧ ∀ j < 4, w.core.poisonedAt (scratchBase w + uniAddr s w b + 8 * j) 8 = false)) :
    exec (.epi b) s = .next (epiChecked s w (uniAddr s w b) (epiRecordOf bs)) := by
  have hact : exec (.epi b) s = _ := uniIssueIf_acts h rfl hengine (by simp) (readsG [b]) _
  dsimp only at hact
  rw [checkedLocal_goes hin] at hact
  rcases hread with hhold | ⟨hhold | hhold, rfl, hclean⟩
  · rw [hhold] at hact
    exact hact
  · rw [hhold, recordPoison_none.mpr hclean] at hact
    exact hact
  · rw [hhold, recordPoison_none.mpr hclean] at hact
    exact hact

end

end

/-- Settles O31: each instruction passes its checks and then places its commands (`places_of_placed`), or changes the bookkeeping alone
(`mopen_opens`, `mclose_closes`), reads it (`mstat_reads`) or waits for its record (`epi_holds`). -/
theorem matrixIssue : Obligations.MatrixIssue := by
  intro s w k d a sh ty e b c h hengine m at_ v rank inside
  refine ⟨fun hd ha hty hw => ⟨mstream_idle h hengine hd ha hty hw, mstream_places h hengine hd ha hty hw⟩, ?_, fun hv hused hroom => ?_,
    fun hv hopen => ?_, ?_, ?_, fun hin hfirst => ?_, ?_⟩
  · exact fun hne hwidth hzero hv hin hgo hroom hfence => mload_places h hengine hroom hfence rfl rfl hne hwidth hzero hv hin hgo
  · exact mopen_opens h hengine rfl hv hused hroom
  · exact mclose_closes h hengine rfl hv hopen
  · simp only [List.forall_mem_cons]
    refine ⟨?_, ?_, fun _ hq => nomatch hq⟩
    · exact fun hne hlast hv hslot hin hgo hroom hfence => amov_places h hengine hroom hfence rfl rfl rfl rfl hne hlast hv hslot hin hgo
    · exact fun hne hlast hv hslot hin hgo hroom hfence => amov_places h hengine hroom hfence rfl rfl rfl rfl hne hlast hv hslot hin hgo
  · exact mstatWord_eq m ▸ mstat_reads h hengine e
  · exact ⟨_, epi_holds h hengine hin hfirst, recordPoison_none⟩
  · intro bs r slots hin hread hvalid hused heven hready hgo hroom hfence
    have hact := (epi_checks h hengine hin hread).trans
      (congrArg _ (epiChecked_places h.1 (ns := slots) rfl hvalid hused heven hready hgo hroom hfence))
    exact (places_of_placed h.1 hact).same_book (freedSlots_marked ..).symm

end Sys2Proof.Machine
end

section
/-! Proofs: the events of a copy (O34). -/
namespace Sys2Proof.Machine

/-! The reads of a load (16 R241 to R244). -/

/-- Spans with none on an attic page are sealed as they are. -/
theorem sealSpans_home (ctx : Nat) (s : State) {ps : List (Page × Nat)} (h : ∀ p ∈ ps, p.1.attic = false) :
    sealSpans ctx s ps = (ps, s) := by
  induction ps with
  | nil => rfl
  | cons p r ih =>
    obtain ⟨q, n⟩ := p
    obtain ⟨hhome, hrest⟩ := List.forall_mem_cons.mp h
    have hq : ¬ q.attic = true := by simpa using hhome
    rw [sealSpans, if_neg hq, ih hrest]

theorem copyRead_home {s t : State} {o : Op} {x : Ctx} {c : Copy} {va n : Nat} {ps : List (Page × Nat)}
    (hspans : partSpans s o x c.lane (oneLane c.lane) 5 .load va n = .ok ps t) (hhome : ∀ p ∈ ps, p.1.attic = false) :
    copyRead s o x c va n = .bytes (opBytes t o x ps) t := by
  have hattic : (ps.any fun p => p.1.attic) = false := by simpa using hhome
  rw [copyRead, hspans]
  simp only [hattic, Bool.and_false, Bool.false_eq_true, if_false, sealSpans_home x.id t hhome]

/-- A unit without a poisoned byte meets no condition (16 R246). -/
theorem poison_clean (c : Copy) (u va : Nat) {bs : List (Byte × Bool)} (h : ∀ b ∈ bs, b.2 = false) : c.poison u va bs = c := by
  have hnone : ((List.range bs.length).find? fun i => (bs[i]?.map Prod.snd).getD false) = none := by
    rw [List.find?_eq_none]
    intro i hi
    have hlt : i < bs.length := by simpa using hi
    simp [List.getElem?_eq_getElem hlt, h _ (List.getElem_mem hlt)]
  rw [Copy.poison, hnone]

theorem loadAccess_reads {s t : State} {o : Op} {x : Ctx} {c : Copy} {l : Layout} {u : Nat} {bs : List (Byte × Bool)}
    (h : loadUnit s o x c l u = (.bytes bs t, c)) : loadAccess s o x c l u = t.setOpKind o.id (.copy { c.took u with
      buffer := c.buffer ++ (List.range bs.length).map fun i => (l.offset c.quant u + i, bs[i]?.getD (0, false)) }) := by
  rw [loadAccess, h]

/-- A unit out of bounds reads as zeros (16 R241). -/
theorem loadAccess_padding {s : State} {o : Op} {x : Ctx} {c : Copy} {l : Layout} {u : Nat} (hcodes : l.nq4 = false)
    (hout : inBounds l (coordsOf c l u) = false) : loadAccess s o x c l u = s.setOpKind o.id (.copy { c.took u with
      buffer := c.buffer ++ (List.range l.size).map fun i => (l.offset c.quant u + i, ((0 : Byte), false)) }) := by
  have hread : loadUnit s o x c l u = (.bytes (List.replicate l.size (0, false)) s, c) := by simp [loadUnit, hcodes, hout]
  have hzero : ∀ i : Nat, (List.replicate l.size ((0 : Byte), false))[i]?.getD (0, false) = (0, false) := fun i => by
    rw [List.getElem?_replicate]
    split <;> rfl
  rw [loadAccess_reads hread, List.length_replicate]
  simp only [hzero]

theorem loadUnit_element {s t : State} {o : Op} {x : Ctx} {c : Copy} {l : Layout} {u : Nat} {ps : List (Page × Nat)} (hcodes : l.nq4 = false)
    (hin : inBounds l (coordsOf c l u) = true)
    (hspans : partSpans s o x c.lane (oneLane c.lane) 5 .load (elementVa l (coordsOf c l u)) l.size = .ok ps t)
    (hhome : ∀ p ∈ ps, p.1.attic = false) (hclean : ∀ b ∈ opBytes t o x ps, b.2 = false) :
    loadUnit s o x c l u = (.bytes (opBytes t o x ps) t, c) := by
  simp [loadUnit, hcodes, hin, copyRead_home hspans hhome, poison_clean c u _ hclean]

/-! The events of a load act while no fault record of the copy waits for its answer (05 R79, 13 R201, 16 R238). -/

section
variable {s : State} {o : Op} {x : Ctx} {c : Copy} {l : Layout} (ho : s.op? o.id = some o) (hx : s.ctx? o.ctx = some x)
  (hkind : o.kind = .copy c) (hlayout : c.layout = some l) (hwait : opWaits s o c.lane = false)
include ho hx hkind hlayout hwait

theorem engineAccess_load {n : Nat} (hunit : c.unit n < c.limit l) (hload : l.store = false) :
    exec (.engineAccess o.id n) s = .next (loadAccess s o x c l (c.unit n)) := by
  have hlimit : ¬ c.limit l ≤ c.unit n := by omega
  rw [exec_engineAccess, execEngineAccess, ho]
  simp only [hkind, copyAccess, hx, hwait, hlayout, hload, Bool.false_eq_true, if_false, hlimit]

theorem tceLanding_load (hload : l.store = false) : exec (.tceLanding o.id) s = .next (landLoad s o c l) := by
  rw [exec_tceLanding, execTceLanding, ho]
  simp only [hkind, hx, hlayout, hwait, hload, Bool.false_eq_true, if_false]

end

/-! What a load has read lands at the scratchpad intake and credits its object (16 R245). -/

theorem landAt_core (s : State) (p : Place) (bs : List (Byte × Bool)) : (landAt s p bs).core p.core = (s.core p.core).landBytes p.off bs :=
  core_modCore s p.core (fun x => x.landBytes p.off bs) (core_index ..)

theorem landAt_byte (s : State) (p : Place) (bs : List (Byte × Bool)) (b : Nat) : ((landAt s p bs).core p.core).scratch.byte b
    = (if p.off ≤ b ∧ b < p.off + bs.length then (bs[b - p.off]?).map Prod.fst else none).getD ((s.core p.core).scratch.byte b) := by
  have hbytes := setBytes_byte (s.core p.core).scratch p.off (bs.map Prod.fst) b
  rw [List.length_map, List.getElem?_map] at hbytes
  rw [landAt_core]
  exact hbytes

theorem insertUpdate_length (u : Update) (us : List Update) : (insertUpdate u us).length = us.length + 1 := by
  induction us with
  | nil => rfl
  | cons y r ih =>
    unfold insertUpdate
    split
    · rfl
    · rw [List.length_cons, ih, List.length_cons]

/-- A credit adds one update, of a copy that credits an object, and changes nothing else (16 R245). -/
theorem creditCopy_credits (s : State) (o : Op) (l : Layout) (u : Nat) {n : Nat} (hn : n ≠ 0) : ∃ us : List Update,
    creditCopy s o l u n = { s with updates := us } ∧ us.length = s.updates.length + if l.credit then 1 else 0 := by
  cases hcredit : l.credit with
  | false => exact ⟨s.updates, by simp [creditCopy, hcredit], rfl⟩
  | true =>
    have hgoes : (l.credit && n != 0) = true := by simp [hcredit, hn]
    have hadds : creditCopy s o l u n = creditBytes s o.core ((allocOf s o.core o.block).1 + l.barrier) n o u l.barrier := if_pos hgoes
    exact ⟨_, hadds, insertUpdate_length ..⟩

theorem setOpKind_op {s : State} {o : Op} (ho : s.op? o.id = some o) (k : OpKind) :
    (s.setOpKind o.id k).op? o.id = some { o with kind := k } := by
  have hfind := find_replaceFirst_same (fun p : Op => p.id == o.id) (fun p => { p with kind := k }) (fun _ hp => hp) s.ops
  rw [State.op?] at ho
  rw [ho] at hfind
  exact hfind

/-- Where a load lands: behind the bytes that have landed (16 R242, R245). -/
def landingPlace (s : State) (o : Op) (c : Copy) (l : Layout) : Place := ⟨o.core, (allocOf s o.core o.block).1 + l.dst + c.moved⟩

/-- What lands: the bytes up to the edge, those that have been read and the padding between them (16 R242, R243). -/
def landingBytes (c : Copy) (l : Layout) : List (Byte × Bool) :=
  (List.range (c.landEdge l - c.moved)).map fun i => c.landByte l (c.moved + i)

/-- A copy after it has landed. -/
def landedCopy (c : Copy) (l : Layout) : Copy :=
  { c with moved := c.landEdge l, buffer := c.buffer.filter fun p => c.landEdge l ≤ p.1 }

theorem landLoad_eq (s : State) (o : Op) {c : Copy} {l : Layout} (hedge : c.moved < c.landEdge l) : landLoad s o c l
    = creditCopy ((landAt s (landingPlace s o c l) (landingBytes c l)).setOpKind o.id (.copy (landedCopy c l))) o l
        (Machine.Layout.unitAt l c.quant c.moved) (c.landEdge l - c.moved) := by
  have hn : c.landEdge l - c.moved ≠ 0 := by omega
  unfold landLoad
  dsimp only
  rw [if_neg hn]
  rfl

theorem landing_byte (s : State) (o : Op) (c : Copy) (l : Layout) (b : Nat) :
    ((landAt s (landingPlace s o c l) (landingBytes c l)).core o.core).scratch.byte b
      = if (allocOf s o.core o.block).1 + l.dst + c.moved ≤ b ∧ b < (allocOf s o.core o.block).1 + l.dst + c.landEdge l then
          (c.landByte l (b - ((allocOf s o.core o.block).1 + l.dst))).1
        else (s.core o.core).scratch.byte b := by
  refine (landAt_byte ..).trans ?_
  generalize hat : (allocOf s o.core o.block).1 + l.dst = at_
  simp only [landingPlace, landingBytes, hat, List.length_map, List.length_range]
  by_cases hin : at_ + c.moved ≤ b ∧ b < at_ + c.landEdge l
  · have hlt : b - (at_ + c.moved) < c.landEdge l - c.moved := by omega
    have hoff : c.moved + (b - (at_ + c.moved)) = b - at_ := by omega
    rw [if_pos hin, if_pos (by omega), List.getElem?_map, List.getElem?_range hlt, Option.map_some, Option.map_some, hoff]
    rfl
  · rw [if_neg hin, if_neg (by omega)]
    rfl

/-- A landing changes the scratchpad, the copy and the updates of its object (16 R245). -/
theorem landLoad_lands (s : State) (o : Op) {c : Copy} {l : Layout} (hedge : c.moved < c.landEdge l) : ∃ us : List Update,
    landLoad s o c l = { (landAt s (landingPlace s o c l) (landingBytes c l)).setOpKind o.id (.copy (landedCopy c l)) with updates := us }
    ∧ us.length = s.updates.length + if l.credit then 1 else 0 := by
  rw [landLoad_eq s o hedge]
  exact creditCopy_credits _ o l _ (by omega)

/-- The state after a landing: the copy has moved the bytes up to its edge, which stand in the scratchpad (16 R245). -/
theorem tceLanding_lands {s : State} {o : Op} {c : Copy} {l : Layout} (ho : s.op? o.id = some o) (hedge : c.moved < c.landEdge l)
    (e : exec (.tceLanding o.id) s = .next (landLoad s o c l)) :
    ∃ t o', exec (.tceLanding o.id) s = .next t ∧ t.op? o.id = some o' ∧ (∃ c', o'.kind = .copy c' ∧ c'.moved = c.landEdge l)
    ∧ (∀ b, (t.core o.core).scratch.byte b = if (allocOf s o.core o.block).1 + l.dst + c.moved ≤ b
          ∧ b < (allocOf s o.core o.block).1 + l.dst + c.landEdge l then (c.landByte l (b - ((allocOf s o.core o.block).1 + l.dst))).1
        else (s.core o.core).scratch.byte b)
    ∧ t.updates.length = s.updates.length + (if l.credit then 1 else 0) ∧ ∀ a, Memory.read t.mem a = Memory.read s.mem a := by
  obtain ⟨us, hland, hlength⟩ := landLoad_lands s o hedge
  rw [hland] at e
  have hop : (landAt s (landingPlace s o c l) (landingBytes c l)).op? o.id = some o := ho
  exact ⟨_, _, e, setOpKind_op hop (.copy (landedCopy c l)), ⟨_, rfl, rfl⟩, landing_byte s o c l, hlength, fun _ => rfl⟩

/-! A copy completes (16 R244). -/

/-- A cell of a lane register that is written holds what was written. -/
theorem rawV_landV (x : Core) {g : Group} {n l : Nat} (h : isG0 g n l = false) (v : Word) : rawV (x.landV g n l v) g n l = v := by
  simp [rawV, Core.landV, h, word_set]

theorem landV_rest (x : Core) (g : Group) (n l : Nat) (v : Word) : x.landV g n l v = { x with rows := (x.landV g n l v).rows } := by
  unfold Core.landV
  split <;> rfl

section
variable {s : State} {o : Op} {g : Group} (hg : s.group? o.core o.slot = some g)
include hg

/-- The write of one lane of a register at an operation's completion (05 R71). -/
theorem landResult_core (n l : Nat) (v : Word) : ∃ e : Pend, (landResults s o n [(l, v)]).core o.core
    = ((s.core o.core).landV g n l v).modGroup o.slot (·.addPend e) := by
  rw [State.group?] at hg
  refine ⟨gatePend s.cycle (s.core o.core) g n (maskOf [l]) o.gate o.batch o.pc, ?_⟩
  rw [landResults, if_neg (by simp), core_modCore _ _ _ ?_]
  · simp only [hg]
    rfl
  · simp only [hg, modGroup_index]
    show ((s.core o.core).landV g n l v).index = o.core
    rw [landV_rest]
    exact core_index ..

theorem completeOp_result {n l : Nat} (h0 : isG0 g n l = false) (v : Word) :
    ∃ h, (completeOp (landResults s o n [(l, v)]) o).group? o.core o.slot = some h
      ∧ rawV ((completeOp (landResults s o n [(l, v)]) o).core o.core) h n l = v ∧ h.due = g.due
      ∧ h.gates = (g.complete o.gate o.batch).gates := by
  obtain ⟨e, hcore⟩ := landResult_core hg n l v
  have hgroup : (landResults s o n [(l, v)]).group? o.core o.slot = some (g.addPend e) := by
    rw [State.group?] at hg
    rw [State.group?, hcore, group_modGroup _ _ (·.addPend e) fun _ => rfl, landV_rest]
    exact congrArg (Option.map _) hg
  rw [completeOp_group, completeOp_core, hgroup, hcore]
  exact ⟨_, rfl, rawV_landV _ h0 v, rfl, rfl⟩

end

theorem tcopyComplete_completes {s : State} {o : Op} {c : Copy} {l : Layout} (ho : s.op? o.id = some o) (hkind : o.kind = .copy c)
    (hlayout : c.layout = some l) (hwait : opWaits s o c.lane = false) (hlanded : c.landed l = true) (howed : c.owed = none)
    (hcredits : creditsSettled s o = true) (hrepl : replPending s o = false)
    (hcode : c.code = none ∨ c.code = some 2 ∨ c.code = some 3 ∨ c.code = some 4 ∨ c.code = some 5) :
    exec (.tcopyComplete o.id) s = .next (completeOp (landResults s o c.vd
      [(c.lane, BitVec.ofNat 32 (c.code.getD 0 * 2 ^ 24 + (c.moved + 15) / 16))]) o) := by
  have hover : c.over = true := by simpa [Copy.over, hlayout] using hlanded
  have hlawful : c.code ≠ some 8 := by rcases hcode with h | h | h | h | h <;> simp [h]
  have htrap : ∀ t, copyTrap t o c = t := fun t => by rcases hcode with h | h | h | h | h <;> simp [copyTrap, h]
  rw [exec_tcopyComplete, execTcopyComplete, ho]
  simp only [hkind, hover, howed, hcredits, hwait, hrepl, htrap, hlawful, Bool.not_true, Option.isSome_none,
    Bool.or_false, Bool.false_eq_true, if_false]

/-- Settles O34: a unit read joins the buffer (`loadAccess_reads`), a landing writes the bytes up to its edge (`landLoad_lands`), and a copy
that has landed writes its status word and leaves its batch (`completeOp_result`). -/
theorem copyEvents : Obligations.CopyEvents := by
  intro s o x c l ho hx hkind hlayout hwait
  refine ⟨fun n hunit hload hcodes hout => ?_, fun n ps u hunit hload hcodes hin hspans hhome hclean => ?_, fun hload hedge => ?_,
    fun g hlanded howed hcredits hrepl hcode hg h0 _ => ?_⟩
  · rw [engineAccess_load ho hx hkind hlayout hwait hunit hload, loadAccess_padding hcodes hout]
  · rw [engineAccess_load ho hx hkind hlayout hwait hunit hload,
      loadAccess_reads (loadUnit_element hcodes hin hspans (by simpa using hhome) hclean)]
  · exact tceLanding_lands ho hedge (tceLanding_load ho hx hkind hlayout hwait hload)
  · obtain ⟨h, hgroup, hvalue, hdue, hgates⟩ := completeOp_result hg h0 (BitVec.ofNat 32 (c.code.getD 0 * 2 ^ 24 + (c.moved + 15) / 16))
    exact ⟨_, h, tcopyComplete_completes ho hkind hlayout hwait hlanded howed hcredits hrepl hcode, completeOp_op .., hgroup, hvalue, hdue,
      hgates⟩

end Sys2Proof.Machine
end

section
/-! Proofs: the issue of walks (O35). -/
namespace Sys2Proof.Machine

/-- What an instruction does that forks an operation and goes on. -/
theorem forks_only {s : State} {w : Issuer} (h : s.who = some w) {i : Instr} {gate : Gate} {cls charge : Nat} {kind : OpKind}
    (e : exec i s = .next (done (forkOp s w gate cls charge kind).2 w)) : Forks s w i gate cls charge kind id := by
  refine forks_of_forkOp h ⟨fun _ => rfl, fun _ => rfl, fun _ => rfl, fun _ => rfl, fun _ => rfl⟩ (fun _ => rfl) (e.trans ?_)
  exact congrArg (fun t => Host.Outcome.next (done t w)) (modGroup_id_after _ w.c w.slot (·.join gate)).symm

/-! The checks of a walk at its issue (22 R284, R286, R296). -/

section
variable (s : State) (w : Issuer) (d a l : Nat) (resume : Bool)

/-- %tvstack of the issuer's context. -/
def walkStack : Nat := (ctxOf s w).tvstack.toNat

/-- The handle that a lane names. -/
def walkHandle : Nat := (laneV s w d l).toNat

/-- The word with the kind and depth of TVWALK's root. -/
def walkOperand : Nat := (laneV s w (a + 2) l).toNat

/-- The walk of a lane that is not refused: TVWALK's with its root, and TVRESUME's with its record to read. -/
def freshWalk : Walk :=
  { lane := l, handle := walkHandle s w d l,
    area := bits (walkStack s w) 16 41 * 65536 + 64 * 2 ^ bits (walkStack s w) 8 5 + 16 * 2 ^ bits (walkStack s w) 0 5 * walkHandle s w d l,
    elog := bits (walkStack s w) 0 5,
    hot := if resume then [] else [⟨lanePair s w a l, walkOperand s w a l % 16, bits (walkOperand s w a l) 8 12, 0, 0⟩], spilled := 0,
    query := bits (walkStack s w) 16 41 * 65536 + 64 * walkHandle s w d l, frames := 0, cutGalley := none, visited := 0,
    point := .starting (if resume then some (lanePair s w a l) else none) false, cuts := [], bad := 0 }

/-- A lane's operands are good, and its handle is free but for the lanes of its own instruction. -/
def WalkStarts : Prop :=
  walkHandle s w d l < 2 ^ 16 ∧ walkHandle s w d l < 2 ^ bits (walkStack s w) 8 5 ∧ lanePair s w a l < 2 ^ 57
    ∧ (if resume then lanePair s w a l % 16 = 0 else bits (walkOperand s w a l) 4 4 = 0 ∧ bits (walkOperand s w a l) 20 12 = 0)
    ∧ ∀ q ∈ walksOn s w.c w.g.ctx, q.2.handle ≠ walkHandle s w d l ∧ ¬ (q.1.slot = w.slot ∧ q.2.lane = l)

end

/-- The stack areas that %tvstack gives exist. -/
def StacksExist (tv : Nat) : Prop := 4 ≤ bits tv 0 5 ∧ bits tv 0 5 ≤ 20 ∧ bits tv 8 5 ≤ 16 ∧ bits tv 16 41 ≠ 0

section
variable {s : State} {w : Issuer} {d a : Nat} {resume : Bool} (hstacks : StacksExist (walkStack s w))
include hstacks

theorem walkRefusal_none {l : Nat} (hl : WalkStarts s w d a l resume) {earlier : List Walk}
    (hfree : ∀ q ∈ earlier, q.handle ≠ walkHandle s w d l) :
    walkRefusal s w earlier l (walkHandle s w d l) (if resume then 0 else walkOperand s w a l) (lanePair s w a l) resume = none := by
  obtain ⟨helog, helog', hhlog, hbase⟩ := hstacks
  obtain ⟨hhandle, hin, hlow, hoperand, hothers⟩ := hl
  have hh : walkHandle s w d l % 65536 = walkHandle s w d l := Nat.mod_eq_of_lt hhandle
  have hrest : bits (walkHandle s w d l) 16 16 = 0 := by rw [bits, Nat.div_eq_of_lt hhandle, Nat.zero_mod]
  have hva : highVa (lanePair s w a l) = false := decide_eq_false (Nat.not_le.mpr hlow)
  have hidle : ((walksOn s w.c w.g.ctx).any fun p => (p.1.slot == w.slot && p.2.lane == l) || p.2.handle == walkHandle s w d l) = false := by
    rw [List.any_eq_false]
    intro q hq
    obtain ⟨hne, hlane⟩ := hothers q hq
    simpa [hne] using hlane
  have hnew : (earlier.any fun q => !q.over && q.handle == walkHandle s w d l) = false := by
    rw [List.any_eq_false]
    intro q hq
    simp [hfree q hq]
  have hgood : ¬ (bits (walkStack s w) 16 41 = 0 ∨ bits (walkStack s w) 0 5 < 4 ∨ 20 < bits (walkStack s w) 0 5
      ∨ 16 < bits (walkStack s w) 8 5 ∨ 2 ^ bits (walkStack s w) 8 5 ≤ walkHandle s w d l) := by omega
  rw [walkStack] at hgood
  unfold walkRefusal
  cases resume with
  | true =>
    replace hoperand : lanePair s w a l % 16 = 0 := hoperand
    simp [hh, hrest, hidle, hnew, hva, hoperand, hgood]
  | false =>
    obtain ⟨hkind, hdepth⟩ := hoperand
    simp [hh, hrest, hidle, hnew, hva, hkind, hdepth, hgood]

theorem issuedWalk_fresh {l : Nat} (hl : WalkStarts s w d a l resume) {earlier : List Walk}
    (hfree : ∀ q ∈ earlier, q.handle ≠ walkHandle s w d l) :
    issuedWalk s w earlier l (walkHandle s w d l) (if resume then 0 else walkOperand s w a l) (lanePair s w a l) resume
      = freshWalk s w d a l resume := by
  have hh : walkHandle s w d l % 65536 = walkHandle s w d l := Nat.mod_eq_of_lt hl.1
  rw [issuedWalk, walkRefusal_none hstacks hl hfree, hh]
  cases resume <;> rfl

/-- Lanes with handles of their own all start their walks. -/
theorem issuedWalks_fresh {earlier : List Walk} {ls : List Nat} (hls : ∀ l ∈ ls, WalkStarts s w d a l resume)
    (hown : ls.Pairwise fun l j => walkHandle s w d l ≠ walkHandle s w d j)
    (hfree : ∀ q ∈ earlier, ∀ l ∈ ls, q.handle ≠ walkHandle s w d l) :
    issuedWalks s w d a resume earlier ls = earlier ++ ls.map fun l => freshWalk s w d a l resume := by
  induction ls generalizing earlier with
  | nil => simp [issuedWalks]
  | cons l r ih =>
    obtain ⟨hl, hr⟩ := List.forall_mem_cons.mp hls
    obtain ⟨hnew, hrest⟩ := List.pairwise_cons.mp hown
    have hone := issuedWalk_fresh hstacks hl fun q hq => hfree q hq l List.mem_cons_self
    rw [walkHandle, walkOperand] at hone
    rw [issuedWalks, hone, ih hr hrest fun q hq j hj => ?_, List.map_cons, List.append_assoc, List.singleton_append]
    rcases List.mem_append.mp hq with hq | hq
    · exact hfree q hq j (List.mem_cons_of_mem _ hj)
    · rw [List.mem_singleton.mp hq]
      exact hnew j hj

end

/-! TVWALK and TVRESUME (22 R296). -/

theorem landRefused_fresh (t : State) (s : State) (w : Issuer) (n d a : Nat) (resume : Bool) (ls : List Nat) :
    landRefused t n d (ls.map fun l => freshWalk s w d a l resume) = t := by
  unfold landRefused
  split
  · rfl
  · rw [List.filterMap_eq_nil_iff.mpr]
    · rfl
    · intro q hq
      obtain ⟨l, -, rfl⟩ := List.mem_map.mp hq
      rfl

section
variable {s : State} {w : Issuer} (h : Issues s w) {i : Instr} (hw : wellFormed i = true) {k d a : Nat} {resume : Bool}
  (hd : d < w.g.allot) (ha : a + 1 < w.g.allot) (ha2 : resume = false → a + 2 < w.g.allot) (hfeature : s.feature 3 = true)
  (e : exec i s = walkIssue s i k d a resume)
include h hw hd ha ha2 hfeature e

theorem walkIssue_acts : exec i s = .next (
    let m := activeOf s w k
    if inService w.g then trapHere s w .routineReentry 0 m
    else if m = 0 then done (s.modMine w fun g => g.join .gt |>.complete .gt (g.openBatch .gt)) w
    else
      let ws := issuedWalks s w d a resume [] (lanesOf m)
      charged s w 12 (chargeOf s 12 0) (afterFences s w
        (let r := forkOp s w .gt 12 (chargeOf s 12 0) (.walks d ws)
        let t := landRefused r.2 r.1 d ws
        done (if ws.all Walk.over then finishWalks t r.1 else t) w))) := by
  refine e.trans (laneIssueIf_acts h hw hfeature ?_ _ _)
  cases resume with
  | true => simpa using ⟨hd, by omega, ha⟩
  | false => simpa using ⟨hd, by omega, ha, ha2 rfl⟩

theorem walkIssue_inService (hs : inService w.g = true) : exec i s = .next (trapHere s w .routineReentry 0 (activeOf s w k)) := by
  rw [walkIssue_acts h hw hd ha ha2 hfeature e, if_pos hs]

theorem walkIssue_forks (hs : inService w.g = false) (hm : activeOf s w k ≠ 0) (hstacks : StacksExist (walkStack s w))
    (hls : ∀ l ∈ lanesOf (activeOf s w k), WalkStarts s w d a l resume)
    (hown : ∀ l ∈ lanesOf (activeOf s w k), ∀ j ∈ lanesOf (activeOf s w k), j ≠ l → walkHandle s w d j ≠ walkHandle s w d l)
    (hgo : admitMine s w 12 (chargeOf s 12 0) = .go) (hfence : Unfenced s w) :
    Forks s w i .gt 12 (chargeOf s 12 0) (.walks d ((lanesOf (activeOf s w k)).map fun l => freshWalk s w d a l resume)) id := by
  refine forks_only h.1 ?_
  have hapart : (lanesOf (activeOf s w k)).Pairwise fun l j => walkHandle s w d l ≠ walkHandle s w d j :=
    (lanesOf_nodup _).pairwise_of_forall_ne fun l hl j hj hne => hown j hj l hl hne
  have hwalks := issuedWalks_fresh hstacks hls hapart (earlier := []) (fun _ hq => nomatch hq)
  obtain ⟨l, hl⟩ : ∃ l, l ∈ lanesOf (activeOf s w k) := List.exists_mem_of_ne_nil _ fun hnil => hm (lanesOf_eq_nil.mp hnil)
  have hsome : ((lanesOf (activeOf s w k)).map fun l => freshWalk s w d a l resume).all Walk.over ≠ true := fun hall =>
    Bool.false_ne_true (List.all_eq_true.mp hall _ (List.mem_map_of_mem hl))
  have hact := walkIssue_acts h hw hd ha ha2 hfeature e
  dsimp only at hact
  rw [hs, if_neg Bool.false_ne_true, if_neg hm, charged, chargedFor_goes hgo, afterFences_goes hfence.1 hfence.2, hwalks, List.nil_append,
    landRefused_fresh, if_neg hsome] at hact
  exact hact

end

theorem walksStart : WalksStart := by
  rintro s w k d a h ha hd hfeature hpair ⟨i, resume⟩ hp ha2
  obtain ⟨hw, e⟩ : wellFormed i = true ∧ exec i s = walkIssue s i k d a resume := by
    have heven : evenReg a = true := by simpa [evenReg] using hpair
    rcases List.mem_cons.mp hp with hp | hp
    · cases hp
      exact ⟨heven, rfl⟩
    · cases List.mem_singleton.mp hp
      exact ⟨heven, rfl⟩
  refine ⟨walkIssue_inService h hw hd ha ha2 hfeature e, fun hs hm helog helog' hhlog hbase hls hgo hfence => ?_⟩
  refine walkIssue_forks h hw hd ha ha2 hfeature e hs hm ⟨helog, helog', hhlog, hbase⟩ (fun l hl => ?_) (fun l hl j hj => ?_) hgo hfence
  · obtain ⟨hhandle, hin, hlow, hoperand, hothers, -⟩ := hls l hl
    exact ⟨hhandle, hin, hlow, hoperand, hothers⟩
  · obtain ⟨-, -, -, -, -, hown⟩ := hls l hl
    exact hown j hj

end Sys2Proof.Machine
end

section
/-! Proofs: TVCUT, TVRET and TVSTAT (O35). -/
namespace Sys2Proof.Machine

/-! TVCUT (22 R297). -/

/-- A TVCUT that names no walk in flight asks none. -/
theorem askCuts_none {core block op : Nat} {ls : List CutLane} {s : State}
    (h : ∀ o ∈ s.ops, ∀ d ws, o.kind = .walks d ws → o.core = core → o.block = block → ∀ q ∈ ws, ∀ l ∈ ls, q.handle ≠ l.handle) :
    askCuts core block op s ls = s := by
  induction ls with
  | nil => rfl
  | cons l r ih =>
    unfold askCuts
    dsimp only
    split
    next => exact ih fun o ho d ws hk hc hb q hq j hj => h o ho d ws hk hc hb q hq j (List.mem_cons_of_mem _ hj)
    next n lane hnamed =>
      exfalso
      obtain ⟨o, ho, hfound⟩ := List.exists_of_findSome?_eq_some hnamed
      obtain ⟨hmem, hhere⟩ := List.mem_filter.mp ho
      simp only [Bool.and_eq_true, beq_iff_eq] at hhere
      split at hfound
      next d ws hk =>
        obtain ⟨q, hq, -⟩ := Option.map_eq_some_iff.mp hfound
        have hhandle := List.find?_some hq
        simp only [Bool.and_eq_true, beq_iff_eq] at hhandle
        exact h o hmem d ws hk hhere.1 hhere.2 q (List.mem_of_find?_eq_some hq) l List.mem_cons_self hhandle.2
      next => exact nomatch hfound

/-- The lanes of a TVCUT, in ascending order. -/
def cutLanes (s : State) (w : Issuer) (k d a : Nat) : List CutLane := (lanesOf (activeOf s w k)).map fun l =>
  ⟨l, (laneV s w d l).toNat, bits (laneV s w (a + 2) l).toNat 0 12, bits (laneV s w (a + 2) l).toNat 16 16, lanePair s w a l, none⟩

theorem tvcut_forks {s : State} {w : Issuer} (h : Issues s w) {k : KReg} {d a : VReg} (hd : d.val < w.g.allot) (hfeature : s.feature 3 = true)
    (hpair : a.val % 2 = 0) (ha : a.val + 2 < w.g.allot) (hm : activeOf s w k ≠ 0)
    (hgood : ∀ l ∈ lanesOf (activeOf s w k), lanePair s w a l < 2 ^ 57 ∧ lanePair s w a l % 16 = 0
      ∧ bits (laneV s w (a + 2) l).toNat 12 4 = 0 ∧ bits (laneV s w (a + 2) l).toNat 16 16 ≠ 0)
    (hfree : ∀ o ∈ s.ops, ∀ d' ws, o.kind = .walks d' ws → o.core = w.c → o.block = w.g.block → ∀ q ∈ ws, ∀ l ∈ cutLanes s w k d a,
      q.handle ≠ l.handle) (hfence : Unfenced s w) : Forks s w (.tvcut k d a) .gt 14 0 (.cut (cutLanes s w k d a)) id := by
  refine forks_only h.1 ?_
  have hhigh : ((lanesOf (activeOf s w k)).filter fun l => highVa (lanePair s w a l)) = [] :=
    List.filter_eq_nil_iff.mpr fun l hl => by
      have hlow : highVa (lanePair s w a l) = false := decide_eq_false (Nat.not_le.mpr (hgood l hl).1)
      simp [hlow]
  have hskew : ((lanesOf (activeOf s w k)).filter fun l => lanePair s w a l % 16 != 0) = [] :=
    List.filter_eq_nil_iff.mpr fun l hl => by
      obtain ⟨-, halign, -⟩ := hgood l hl
      simp [halign]
  have hform : ((lanesOf (activeOf s w k)).filter fun l => bits (laneV s w (a + 2) l).toNat 12 4 != 0 || bits (laneV s w (a + 2) l).toNat 16 16 == 0)
      = [] := List.filter_eq_nil_iff.mpr fun l hl => by
    obtain ⟨-, -, hzero, hcap⟩ := hgood l hl
    simp [hzero, hcap]
  have hact : exec (.tvcut k d a) s = _ := laneIssueIf_acts h (by simpa [wellFormed, evenReg] using hpair) hfeature
    (by simpa using ⟨hd, by omega, by omega, ha⟩) _ _
  dsimp only at hact
  rw [if_neg hm, hhigh, hskew, hform] at hact
  dsimp only at hact
  rw [afterFences_goes hfence.1 hfence.2, askCuts_none fun o ho => ?_] at hact
  · exact hact
  · replace ho : o ∈ s.ops ++ [forkedOp s w .gt 14 0 (.cut (cutLanes s w k d a))] := ho
    rcases List.mem_append.mp ho with ho | ho
    · exact hfree o ho
    · intro d' ws hk
      rw [List.mem_singleton.mp ho] at hk
      exact nomatch hk

/-! TVSTAT (22 R299). -/

theorem tvstat_result {s : State} {w : Issuer} (h : Issues s w) {k : KReg} {d a : VReg} (hd : d.val < w.g.allot) (ha : a.val < w.g.allot)
    (hfeature : s.feature 3 = true) :
    LaneResult s w (.tvstat k d a) d (activeOf s w k) fun l => tvstatWord s w (laneV s w a l).toNat :=
  laneResult_of h.1 (laneIssueIf_acts h rfl hfeature (by simpa using ⟨hd, ha⟩) _ _)

/-! TVRET (22 R298). -/

theorem range_filterMap_getElem? {α β : Type} (f : Nat → α → β) (xs : List α) (n : Nat) :
    ((List.range n).filterMap fun i => (xs[i]?).map (f i)) = (xs.take n).mapIdx f := by
  induction n with
  | zero => rfl
  | succ n ih =>
    rw [List.range_succ, List.filterMap_append, ih, List.take_add_one, List.mapIdx_append]
    cases hx : xs[n]? with
    | none => simp [hx]
    | some c =>
      have hlen : n < xs.length := (List.getElem?_eq_some_iff.mp hx).1
      simp [hx, Nat.min_eq_left (Nat.le_of_lt hlen)]

/-- The calls of a service group after lanes `m` have given their action words. -/
def answered (s : State) (w : Issuer) (a : Nat) (m : Mask) (g : Group) : Group :=
  { g with service := (List.range g.service.length).filterMap fun i => (g.service[i]?).map fun c =>
      if m.getLsbD i then { c with reply := some (laneV s w a i) } else c }

theorem answered_service (s : State) (w : Issuer) (a : Nat) (m : Mask) {g : Group} {l : Nat} {c : Call} (hc : g.service[l]? = some c) :
    (answered s w a m g).service[l]? = some (if m.getLsbD l then { c with reply := some (laneV s w a l) } else c) := by
  show ((List.range g.service.length).filterMap fun i => (g.service[i]?).map fun c =>
    if m.getLsbD i then { c with reply := some (laneV s w a i) } else c)[l]? = _
  rw [range_filterMap_getElem?, List.take_length, List.getElem?_mapIdx, hc, Option.map_some]

/-- A group whose lanes `m` have ended, while the split of the others goes on. -/
def leftLanes (m : Mask) (g : Group) : Group := endIfDead (dropLanes g m)

/-- Lanes leave a split that goes on as lanes end by EXIT, but that no split goes with them. -/
theorem leftLanes_eq (m : Mask) (g : Group) : ∃ i, leftLanes m g = exitLanes g i m := by
  obtain ⟨i, hi⟩ := Infinite.exists_notMem_finset (g.splits.map Split.idx).toFinset
  refine ⟨i, ?_⟩
  have hall : (dropLanes g m).dropSplit i = dropLanes g m := by
    have hkept : ((g.splits.map (Split.without m)).filter fun sp => sp.idx != i) = g.splits.map (Split.without m) := by
      rw [List.filter_eq_self]
      intro sp hsp
      obtain ⟨a, ha, rfl⟩ := List.mem_map.mp hsp
      exact bne_iff_ne.mpr fun he => hi (by simpa using ⟨a, ha, he⟩)
    exact congrArg (fun l => { dropLanes g m with splits := l }) hkept
  rw [exitLanes, hall]
  rfl

theorem leftLanes_rest (m : Mask) (g : Group) : ∃ live splits stack pend la,
    leftLanes m g = { g with live := live, splits := splits, stack := stack, pend := pend, la := la } := by
  rw [leftLanes, endIfDead_rest]
  exact ⟨_, _, _, _, _, rfl⟩

/-- The end of lanes `m` at TVRET: all lanes of the split end as by EXIT, or those that are active leave it. -/
def retEnds (s : State) (w : Issuer) (m : Mask) (g : Group) : Group :=
  if m = w.sp.mask then exited s.cycle w.idx m g else leftLanes m g

theorem retEnds_rest (s : State) (w : Issuer) (m : Mask) (g : Group) : ∃ live splits stack pend la,
    retEnds s w m g = { g with live := live, splits := splits, stack := stack, pend := pend, la := la } := by
  unfold retEnds
  split
  · exact exited_rest ..
  · exact leftLanes_rest ..

theorem retEnds_leaves (s : State) (w : Issuer) (m : Mask) {g : Group} (hn : g.spilled = 0) :
    (retEnds s w m g).live = g.live &&& ~~~m ∧ Without (retEnds s w m g) m ∧ (retEnds s w m g).spilled = 0 := by
  unfold retEnds
  split
  · exact ⟨exitLanes_live _ _ _, exitLanes_without _ _ _, exitLanes_spilled (g := g.pass s.cycle m 1) w.idx m hn⟩
  · obtain ⟨i, hi⟩ := leftLanes_eq m g
    rw [hi]
    exact ⟨exitLanes_live _ _ _, exitLanes_without _ _ _, exitLanes_spilled i m hn⟩

/-- The group of TVRET's split before its lanes end: the split goes on where some lane of it stays. -/
def retGoes (s : State) (w : Issuer) (m : Mask) (g : Group) : Group :=
  if m = w.sp.mask then g
  else (g.pass s.cycle w.sp.mask 1).modSplit w.idx fun sp => { sp with pc := nextPc w, hold := .none, heldFor := 0 }

theorem retGoes_same (s : State) (w : Issuer) (m : Mask) (g : Group) :
    (retGoes s w m g).live = g.live ∧ (retGoes s w m g).spilled = g.spilled ∧ (retGoes s w m g).service = g.service := by
  unfold retGoes
  split <;> exact ⟨rfl, rfl, rfl⟩

/-- The state after TVRET, but for its trace event. -/
def retState (s : State) (w : Issuer) (a : Nat) (m : Mask) : State :=
  if m = w.sp.mask then s.modMine w fun g => retEnds s w m (answered s w a m g)
  else (done s w).modMine w fun g => retEnds s w m (answered s w a m g)

theorem retState_frame (s : State) (w : Issuer) (a : Nat) (m : Mask) : (retState s w a m).mem = s.mem
    ∧ (retState s w a m).ops = s.ops ∧ ((retState s w a m).core w.c).rows = (s.core w.c).rows := by
  have hrows : ∀ (u : State) (f : Group → Group), ((u.modMine w f).core w.c).rows = (u.core w.c).rows := fun u f => by
    rw [State.modMine, State.modGroup, core_modCore _ _ _ (core_index ..), modGroup_rows]
  unfold retState
  split
  · exact ⟨rfl, rfl, hrows _ _⟩
  · exact ⟨rfl, rfl, (hrows _ _).trans (hrows _ _)⟩

theorem retState_group {s : State} {w : Issuer} (hg : s.group? w.c w.slot = some w.g) (a : Nat) (m : Mask) :
    (retState s w a m).group? w.c w.slot = some (retEnds s w m (answered s w a m (retGoes s w m w.g))) := by
  have hslot : ∀ g, (retEnds s w m (answered s w a m g)).slot = g.slot := fun g => by
    obtain ⟨_, _, _, _, _, hrest⟩ := retEnds_rest s w m (answered s w a m g)
    rw [hrest]
    rfl
  unfold retState retGoes
  split
  · exact group_changed_some _ hslot hg
  · exact group_changed_some _ hslot (group_changed_some _ (fun _ => rfl) hg)

/-- The group after TVRET. -/
theorem tvret_group {s : State} {w : Issuer} (hg : s.group? w.c w.slot = some w.g) (hn : w.g.spilled = 0) (a : Nat) (m : Mask) :
    ∃ h, (retState s w a m).group? w.c w.slot = some h ∧ h.live = w.g.live &&& ~~~m ∧ Without h m ∧ h.spilled = 0
      ∧ ∀ (l : Nat) (c : Call), w.g.service[l]? = some c →
          h.service[l]? = some (if m.getLsbD l then { c with reply := some (laneV s w a l) } else c) := by
  obtain ⟨hlive, hspilled, hservice⟩ := retGoes_same s w m w.g
  obtain ⟨hends, hwithout, hnone⟩ := retEnds_leaves s w m (g := answered s w a m (retGoes s w m w.g)) (hspilled.trans hn)
  obtain ⟨_, _, _, _, _, hrest⟩ := retEnds_rest s w m (answered s w a m (retGoes s w m w.g))
  refine ⟨_, retState_group hg a m, ?_, hwithout, hnone, fun l c hc => ?_⟩
  · rw [hends, ← hlive]
    rfl
  · rw [hrest]
    exact answered_service s w a m (hservice ▸ hc)

theorem tvret_acts {s : State} {w : Issuer} (h : Issues s w) {k : KReg} {a : VReg} (ha : a.val < w.g.allot) (hfeature : s.feature 3 = true)
    (hs : inService w.g = true) (hm : activeOf s w k ≠ 0) (hn : w.g.spilled = 0) : exec (.tvret k a) s
      = .next (noteUni (retState s w a (activeOf s w k)) w w.sp.pc (activeOf s w k) (.mask 4 (w.g.live &&& ~~~activeOf s w k))) := by
  obtain ⟨hg, -, -⟩ := who_parts h.1
  obtain ⟨_, hgroup, -, -, hspilled, -⟩ := tvret_group hg hn a (activeOf s w k)
  have hact : exec (.tvret k a) s = _ := laneIssueIf_acts h rfl (by simp [hfeature, hs]) (by simpa using ha) _ _
  dsimp only at hact
  rw [if_neg hm] at hact
  refine hact.trans (congrArg _ ?_)
  exact mirrorSpill_none ((note_group ..).trans hgroup) hspilled w.g.stack w.idx

theorem walkControl : WalkControl := by
  intro s w k d a h hd ha hfeature
  refine ⟨fun hpair ha2 hm hgood hfree hfence => tvcut_forks h hd hfeature hpair ha2 hm hgood hfree hfence, fun hs hm hn => ?_, ?_⟩
  · obtain ⟨hg, -, -⟩ := who_parts h.1
    obtain ⟨u, hgroup, hlive, hwithout, -, hservice⟩ := tvret_group hg hn a (activeOf s w k)
    obtain ⟨hmem, hops, hrows⟩ := retState_frame s w a (activeOf s w k)
    refine ⟨_, u, tvret_acts h ha hfeature hs hm hn, (note_group ..).trans hgroup, hlive, hwithout, hservice,
      fun b => congrArg (Memory.read · b) ((note_mem ..).trans hmem), ?_, ?_⟩
    · rw [noteUni, note_core]
      exact hrows
    · rw [noteUni, note_eq]
      exact hops
  · refine Eq.mp (congrArg (LaneResult s w _ _ _) (funext fun l => ?_)) (tvstat_result h hd ha hfeature)
    unfold tvstatWord
    generalize (walksOn s w.c w.g.ctx).find? _ = found
    rcases found with _ | ⟨-, q⟩
    · rfl
    · cases hc : q.cuts with
      | nil =>
        dsimp only
        rw [hc]
        rfl
      | cons c r =>
        dsimp only
        rw [hc]
        rfl

/-- Settles O35: TVWALK and TVRESUME by `walksStart`; TVCUT by `tvcut_forks`, TVRET by `tvret_acts` and TVSTAT by `tvstat_result`. -/
theorem walks : Obligations.Walks := ⟨walksStart, walkControl⟩

end Sys2Proof.Machine
end

section
/-! Proofs: what a read of an engine leaves unchanged (O36). -/
namespace Sys2Proof.Machine

/-- Between two states only what a read may change changed: the translations kept, the free values taken and the device's counts. -/
def ReadsOnly (s t : State) : Prop := ∃ cache free dev, t = { s with cache := cache, free := free, dev := dev }

theorem ReadsOnly.refl (s : State) : ReadsOnly s s := ⟨_, _, _, rfl⟩

theorem ReadsOnly.trans {s t u : State} (h : ReadsOnly s t) (k : ReadsOnly t u) : ReadsOnly s u := by
  obtain ⟨_, _, _, rfl⟩ := h
  obtain ⟨_, _, _, rfl⟩ := k
  exact ⟨_, _, _, rfl⟩

theorem ReadsOnly.op {s t : State} (h : ReadsOnly s t) (n : Nat) : t.op? n = s.op? n := by
  obtain ⟨_, _, _, rfl⟩ := h
  rfl

theorem ReadsOnly.mem {s t : State} (h : ReadsOnly s t) : t.mem = s.mem := by
  obtain ⟨_, _, _, rfl⟩ := h
  rfl

theorem readsOnly_of_snd {α : Type} {s t : State} {p : α × State} {a : α} (h : ReadsOnly s p.2) (e : p = (a, t)) : ReadsOnly s t := by
  subst e
  exact h

theorem readsOnly_throughTlb (h : Tlb) (c va : Nat) (next : Except XErr (Nat × Nat) × State) :
    ReadsOnly next.2 (throughTlb h c va next).2 := by
  unfold throughTlb
  extract_lets fill
  have hfill : ReadsOnly next.2 fill.2 := by
    unfold fill
    split
    · exact .refl _
    · exact ⟨_, _, _, rfl⟩
  clear_value fill
  split
  · exact hfill
  · extract_lets same r
    have hr : ReadsOnly next.2 r.2 := by
      unfold r
      split
      · exact .refl _
      · exact hfill
    clear_value r
    split
    · exact hr
    · exact hr.trans ⟨_, _, _, rfl⟩

theorem readsOnly_findLeaf (s : State) (h : Tlb) (x : Ctx) (va : Nat) : ReadsOnly s (findLeaf s h x va).2 := by
  unfold findLeaf
  split
  · exact readsOnly_throughTlb h x.id va (walk s x va, s)
  · exact (readsOnly_throughTlb _ x.id va (walk s x va, s)).trans (readsOnly_throughTlb ..)

theorem readsOnly_translateR (s : State) (h : Tlb) (x : Ctx) (need : Need) (va : Nat) : ReadsOnly s (translateR s h x need va).2 := by
  have htranslate : ReadsOnly s (Machine.translate s h x need va).2 := by
    unfold Machine.translate
    split
    all_goals exact readsOnly_of_snd (readsOnly_findLeaf s h x va) ‹_›
  unfold translateR
  split
  next e => exact readsOnly_of_snd htranslate e
  next e =>
    split
    all_goals exact readsOnly_of_snd htranslate e

theorem readsOnly_placeSpans (h : Tlb) (x : Ctx) (need : Need) (s : State) (l : List (Nat × Nat)) :
    ReadsOnly s (placeSpans h x need s l).2 := by
  fun_induction placeSpans h x need s l
  case case1 => exact .refl _
  case case2 => exact readsOnly_of_snd (readsOnly_translateR ..) ‹_›
  case case3 ih => exact (readsOnly_of_snd (readsOnly_translateR ..) ‹_›).trans (readsOnly_of_snd ih ‹_›)
  case case4 ih => exact (readsOnly_of_snd (readsOnly_translateR ..) ‹_›).trans (readsOnly_of_snd ih ‹_›)

theorem readsOnly_sealTrip (s : State) (key port : Nat) : ReadsOnly s (sealTrip s key port).2 := by
  unfold sealTrip
  split
  · exact .refl _
  · split
    · exact .refl _
    · exact ⟨_, _, _, rfl⟩

/-- A trip to the attic that succeeds reports nothing (28 R357). -/
theorem readsOnly_atticTrip {s : State} {ctx key port : Nat} (h : (atticTrip s ctx key port).1 = true) :
    ReadsOnly s (atticTrip s ctx key port).2 := by
  unfold atticTrip at h ⊢
  split
  next e => exact readsOnly_of_snd (readsOnly_sealTrip ..) e
  next e =>
    rw [e] at h
    exact nomatch h

theorem readsOnly_sealSpans (ctx : Nat) (s : State) (ps : List (Page × Nat)) (h : ∀ p ∈ (sealSpans ctx s ps).1, p.1.forged = false) :
    ReadsOnly s (sealSpans ctx s ps).2 := by
  fun_induction sealSpans ctx s ps
  case case1 => exact .refl _
  case case2 ih =>
    obtain ⟨htrip, hrest⟩ := List.forall_mem_cons.mp h
    exact (readsOnly_atticTrip (by simpa using htrip)).trans (ih hrest)
  case case3 ih =>
    obtain ⟨-, hrest⟩ := List.forall_mem_cons.mp h
    exact ih hrest

/-! The lengths of the spans of an access. -/

theorem spans_pos {fuel va n : Nat} : ∀ p ∈ spans fuel va n, 0 < p.2 := by
  induction fuel generalizing va n with
  | zero => simp [spans]
  | succ fuel ih =>
    unfold spans
    split
    · simp
    · refine List.forall_mem_cons.mpr ⟨?_, ih⟩
      dsimp only
      omega

theorem spans_sum_le (fuel va n : Nat) : ((spans fuel va n).map Prod.snd).sum ≤ n := by
  induction fuel generalizing va n with
  | zero => simp [spans]
  | succ fuel ih =>
    unfold spans
    split
    · simp
    · have hrest := ih (va + min n (65536 - va % 65536)) (n - min n (65536 - va % 65536))
      simp only [List.map_cons, List.sum_cons]
      omega

theorem placeSpans_lengths {h : Tlb} {x : Ctx} {need : Need} {s t : State} {l : List (Nat × Nat)} {ps : List (Page × Nat)}
    (e : placeSpans h x need s l = (.ok ps, t)) : ps.map Prod.snd = l.map Prod.snd := by
  fun_induction placeSpans h x need s l generalizing ps t
  case case1 =>
    cases e
    rfl
  case case2 => cases e
  case case3 => cases e
  case case4 hrest ih =>
    cases e
    simp [ih hrest]

theorem sealSpans_lengths (ctx : Nat) (s : State) (ps : List (Page × Nat)) :
    (sealSpans ctx s ps).1.map Prod.snd = ps.map Prod.snd := by
  fun_induction sealSpans ctx s ps
  case case1 => rfl
  case case2 ih => exact congrArg (_ :: ·) ih
  case case3 ih => exact congrArg (_ :: ·) ih

theorem opBytes_length (s : State) (o : Op) (x : Ctx) (ps : List (Page × Nat)) : (opBytes s o x ps).length = (ps.map Prod.snd).sum := by
  simp only [opBytes, engineBytes, List.length_flatMap, List.length_map, homeAddrs, List.append_nil, List.length_range]

/-- A byte of a forged span is poisoned (28 R358). -/
theorem opBytes_forged {s : State} {o : Op} {x : Ctx} {ps : List (Page × Nat)} (hclean : ∀ b ∈ opBytes s o x ps, b.2 = false)
    (hpos : ∀ p ∈ ps, 0 < p.2) : ∀ p ∈ ps, p.1.forged = false := by
  intro p hp
  obtain ⟨a, ha⟩ : ∃ a, a ∈ homeAddrs s (dieOfCore o.core) x [p] := by
    simpa [homeAddrs] using ⟨0, hpos p hp⟩
  have hbyte := hclean _ (List.mem_flatMap.mpr ⟨p, hp, List.mem_map_of_mem ha⟩)
  exact (Bool.or_eq_false_iff.mp hbyte).1

/-- The spans of an access that may be made are those of its translation, sealed (05 R392, 28 R357). -/
theorem engineSpans_ok {s u : State} {o : Op} {x : Ctx} {lane kind : Nat} {need : Need} {va n : Nat} {ps : List (Page × Nat)}
    (h : engineSpans s o x lane kind need va n = .ok ps u) :
    ∃ qs t, placeSpans (.core o.core) x need s (spansOf va n) = (.ok qs, t) ∧ sealSpans x.id t qs = (ps, u) := by
  unfold engineSpans at h
  cases hpart : partSpans s o x lane (oneLane lane) kind need va n with
  | held t =>
    rw [hpart] at h
    exact nomatch h
  | lost a t =>
    rw [hpart] at h
    exact nomatch h
  | ok qs t =>
    refine ⟨qs, t, ?_, ?_⟩
    · unfold partSpans at hpart
      split at hpart
      · exact nomatch hpart
      split at hpart
      next hplace =>
        split at hpart
        · exact nomatch hpart
        · cases hpart
          exact hplace
      next => exact nomatch hpart
      next =>
        split at hpart
        · exact nomatch hpart
        · exact nomatch hpart
    · rw [hpart, sealGot] at h
      split at h
      · exact nomatch h
      · cases h
        rfl

theorem engineSpans_readsOnly {s u : State} {o : Op} {x : Ctx} {lane kind : Nat} {need : Need} {va n : Nat} {ps : List (Page × Nat)}
    (h : engineSpans s o x lane kind need va n = .ok ps u) (hgenuine : ∀ p ∈ ps, p.1.forged = false) : ReadsOnly s u := by
  obtain ⟨qs, t, hplace, hseal⟩ := engineSpans_ok h
  have hplaced : ReadsOnly s t := readsOnly_of_snd (readsOnly_placeSpans ..) hplace
  have hsealed := readsOnly_sealSpans x.id t qs (by rwa [hseal])
  rw [hseal] at hsealed
  exact hplaced.trans hsealed

theorem engineSpans_lengths {s u : State} {o : Op} {x : Ctx} {lane kind : Nat} {need : Need} {va n : Nat} {ps : List (Page × Nat)}
    (h : engineSpans s o x lane kind need va n = .ok ps u) : ps.map Prod.snd = (spansOf va n).map Prod.snd := by
  obtain ⟨qs, t, hplace, hseal⟩ := engineSpans_ok h
  have hlengths := sealSpans_lengths x.id t qs
  rw [hseal] at hlengths
  exact hlengths.trans (placeSpans_lengths hplace)

/-- A read that gives its bytes changes nothing beside what a read may change: no span of it is forged, so no failure is reported. -/
theorem walkRead_readsOnly {s t : State} {o : Op} {x : Ctx} {w : Walk} {va n : Nat} {bs : List Byte}
    (h : walkRead s o x w va n = .bytes bs t) : ReadsOnly s t := by
  unfold walkRead at h
  split at h
  · cases h
    exact .refl _
  split at h
  next => exact nomatch h
  next => exact nomatch h
  next ps u hspans =>
    dsimp only at h
    split at h
    next => exact nomatch h
    next hclean =>
      obtain ⟨-, rfl⟩ := WalkGot.bytes.inj h
      have hlengths := engineSpans_lengths hspans
      have hsize : (opBytes u o x ps).length ≤ n := by
        rw [opBytes_length, hlengths]
        exact spans_sum_le ..
      have hpos : ∀ p ∈ ps, 0 < p.2 := fun p hp => by
        obtain ⟨q, hq, hpq⟩ := List.mem_map.mp (hlengths ▸ List.mem_map_of_mem (f := Prod.snd) hp)
        exact hpq ▸ spans_pos q hq
      refine engineSpans_readsOnly hspans (opBytes_forged (s := u) (o := o) (x := x) (fun b hb => ?_) hpos)
      obtain ⟨i, hi, rfl⟩ := List.getElem_of_mem hb
      have hbyte := List.find?_eq_none.mp hclean i (List.mem_range.mpr (by omega))
      simpa [List.getElem?_eq_getElem hi] using hbyte

theorem readKind_readsOnly {s t : State} {o : Op} {x : Ctx} {b : Block} {w : Walk} {n : Nat} {k : NodeKind}
    (h : readKind s o x b w n = .ok (k, t)) : ReadsOnly s t := by
  unfold readKind at h
  split at h
  · cases h
    exact .refl _
  split at h
  next => exact nomatch h
  next hread =>
    cases h
    exact walkRead_readsOnly hread

end Sys2Proof.Machine
end

section
/-! Proofs: the steps of a walk at a node boundary and at the start of a visit (O36). -/
namespace Sys2Proof.Machine

/-! The walk of a lane among those of its operation. -/

/-- Where lanes differ, the walks after a change of one are the changed one and those of other lanes. -/
theorem mem_replaceFirst_lane {n : Nat} {f : Walk → Walk} {ws : List Walk} (hnodup : (ws.map Walk.lane).Nodup) {v : Walk}
    (hv : v ∈ replaceFirst (fun w => w.lane == n) f ws) : (∃ w, v = f w) ∨ (v ∈ ws ∧ v.lane ≠ n) := by
  induction ws with
  | nil => exact nomatch hv
  | cons a r ih =>
    obtain ⟨ha, hr⟩ := List.nodup_cons.mp hnodup
    unfold replaceFirst at hv
    by_cases hn : a.lane = n
    · rw [if_pos (by simpa using hn)] at hv
      rcases List.mem_cons.mp hv with rfl | hv
      · exact .inl ⟨a, rfl⟩
      · refine .inr ⟨List.mem_cons_of_mem _ hv, fun hlane => ha ?_⟩
        rw [hn, ← hlane]
        exact List.mem_map_of_mem hv
    · rw [if_neg (by simpa using hn)] at hv
      rcases List.mem_cons.mp hv with rfl | hv
      · exact .inr ⟨List.mem_cons_self, hn⟩
      · exact (ih hr hv).imp_right fun ⟨hmem, hlane⟩ => ⟨List.mem_cons_of_mem _ hmem, hlane⟩

theorem mem_replaceFirst_other {α : Type} {p : α → Bool} {f : α → α} {xs : List α} {a : α} (ha : a ∈ xs) (hp : p a = false) :
    a ∈ replaceFirst p f xs := by
  induction xs with
  | nil => exact ha
  | cons b r ih =>
    unfold replaceFirst
    rcases List.mem_cons.mp ha with rfl | har
    · simp [hp]
    · split
      · exact List.mem_cons_of_mem _ har
      · exact List.mem_cons_of_mem _ (ih har)

theorem modOp_op {s : State} {o : Op} (ho : s.op? o.id = some o) {f : Op → Op} (hf : ∀ p, (f p).id = p.id) :
    (s.modOp o.id f).op? o.id = some (f o) := by
  have hfind := find_replaceFirst_same (fun p : Op => p.id == o.id) f (fun p hp => by simpa [hf p] using hp) s.ops
  rw [State.op?] at ho
  rw [ho] at hfind
  exact hfind

section
variable {s : State} {o : Op} {d : Nat} {ws : List Walk} {q : Walk} (ho : s.op? o.id = some o) (hkind : o.kind = .walks d ws)
  (hq : (ws.find? fun v => v.lane == q.lane) = some q)
include ho hkind

theorem modWalk_op (n : Nat) (f : Walk → Walk) :
    (modWalk s o.id n f).op? o.id = some { o with kind := .walks d (replaceFirst (fun w => w.lane == n) f ws) } := by
  unfold modWalk
  rw [modOp_op ho]
  · rw [hkind]
  · exact fun _ => rfl

include hq

/-- A walk that is changed but for its lane stands so. -/
theorem walkAt_modWalk {f : Walk → Walk} (hf : ∀ v, (f v).lane = v.lane) {v : Walk} (hv : f q = v) : WalkAt (modWalk s o.id q.lane f) o v := by
  subst hv
  refine ⟨_, d, _, modWalk_op ho hkind q.lane f, rfl, ?_⟩
  rw [hf, find_replaceFirst_same _ f (fun v hv => by rw [hf]; exact hv), hq, Option.map_some]

theorem walkAt_setWalk {v : Walk} (hv : v.lane = q.lane) : WalkAt (setWalk s o v) o v := by
  refine ⟨_, d, _, modWalk_op ho hkind v.lane _, rfl, ?_⟩
  rw [find_replaceFirst_same _ _ (fun _ _ => by simp), hv, hq, Option.map_some]

end

/-! The end of a walk (22 R292). -/

/-- A walk that has ended, its stack gone. -/
def endedWalk (q : Walk) (code : Nat) (bad : DWord) : Walk := { q with hot := [], spilled := 0, point := .ended code, bad := bad }

section
variable {s : State} {o : Op} {g : Group} (hg : s.group? o.core o.slot = some g) {n l : Nat} (v : Word)
include hg

/-- The group of an operation after the write of one lane of its result: the write is in flight. -/
theorem landResult_group : ∃ e : Pend, (landResults s o n [(l, v)]).group? o.core o.slot = some (g.addPend e)
    ∧ (isG0 g n l = false → rawV ((landResults s o n [(l, v)]).core o.core) (g.addPend e) n l = v) := by
  obtain ⟨e, hcore⟩ := landResult_core hg n l v
  refine ⟨e, ?_, fun h0 => ?_⟩
  · rw [State.group?] at hg
    rw [State.group?, hcore, group_modGroup _ _ (·.addPend e) fun _ => rfl, landV_rest]
    exact congrArg (Option.map _) hg
  · rw [hcore]
    exact rawV_landV _ h0 v

end

theorem landResults_op {s : State} {o : Op} (ho : s.op? o.id = some o) (n : Nat) (rs : List (Nat × Word)) :
    (landResults s o n rs).op? o.id = some o := by
  unfold landResults
  split
  · exact ho
  · exact ho

/-- The state in which a walk has ended, before its operation's end. -/
theorem endWalk_eq {s : State} {o : Op} {d : Nat} {ws : List Walk} (hkind : o.kind = .walks d ws) (q : Walk) (code : Nat) (bad : DWord) :
    endWalk s o q code bad = finishWalks (setWalk (landResults s o d [(q.lane, q.status code)]) o (endedWalk q code bad)) o.id := by
  rw [endWalk, hkind]
  rfl

section
variable {s : State} {o : Op} {d : Nat} {ws : List Walk} {q : Walk} (ho : s.op? o.id = some o) (hkind : o.kind = .walks d ws)
  (code : Nat) (bad : DWord)
include ho hkind

/-- While another walk goes on, the end of a walk leaves its operation in flight. -/
theorem endWalk_others (hothers : ∃ v ∈ ws, v.lane ≠ q.lane ∧ v.over = false) :
    endWalk s o q code bad = setWalk (landResults s o d [(q.lane, q.status code)]) o (endedWalk q code bad) := by
  obtain ⟨v, hv, hlane, hover⟩ := hothers
  have hop := modWalk_op (landResults_op ho d [(q.lane, q.status code)]) hkind q.lane fun _ => endedWalk q code bad
  rw [endWalk_eq hkind, finishWalks, setWalk, show (endedWalk q code bad).lane = q.lane from rfl, hop]
  have hany : ((replaceFirst (fun w => w.lane == q.lane) (fun _ => endedWalk q code bad) ws).any fun w => !w.over) = true :=
    List.any_eq_true.mpr ⟨v, mem_replaceFirst_other hv (by simpa using hlane), by simp [hover]⟩
  simp only [hany, Bool.true_or, if_true]

/-- With the last walk's end, of walks that owe no trap, the operation completes. -/
theorem endWalk_last (hrepl : replPending s o = false) (hnodup : (ws.map Walk.lane).Nodup)
    (hover : ∀ v ∈ ws, v.lane = q.lane ∨ ∃ c, v.point = .ended c ∧ walkTrap c = none) (hcode : walkTrap code = none) :
    ∃ o', endWalk s o q code bad = completeOp (setWalk (landResults s o d [(q.lane, q.status code)]) o (endedWalk q code bad)) o'
      ∧ o' = { o with kind := o'.kind } := by
  have hop := modWalk_op (landResults_op ho d [(q.lane, q.status code)]) hkind q.lane fun _ => endedWalk q code bad
  have hended : ∀ v ∈ replaceFirst (fun w => w.lane == q.lane) (fun _ => endedWalk q code bad) ws,
      ∃ c, v.point = .ended c ∧ walkTrap c = none := fun v hv => by
    rcases mem_replaceFirst_lane hnodup hv with ⟨-, rfl⟩ | ⟨hmem, hlane⟩
    · exact ⟨code, rfl, hcode⟩
    · exact (hover v hmem).resolve_left hlane
  generalize replaceFirst (fun w => w.lane == q.lane) (fun _ => endedWalk q code bad) ws = us at hop hended
  have hall : (us.any fun w => !w.over) = false := by
    rw [List.any_eq_false]
    intro v hv
    obtain ⟨c, hc, -⟩ := hended v hv
    simp [Walk.over, hc]
  have hpaid : ∀ t p, oweWalks t p us = t := fun t p => by
    unfold oweWalks
    dsimp only
    split
    next => rfl
    next hbad =>
      rw [List.filterMap_eq_nil_iff.mpr fun v hv => ?_] at hbad
      · exact nomatch hbad
      · obtain ⟨c, hc, htrap⟩ := hended v hv
        simp [hc, htrap]
  have hpending : replPending (setWalk (landResults s o d [(q.lane, q.status code)]) o (endedWalk q code bad)) { o with kind := .walks d us } = false :=
    hrepl
  refine ⟨{ o with kind := .walks d us }, ?_, rfl⟩
  rw [endWalk_eq hkind, finishWalks, setWalk, show (endedWalk q code bad).lane = q.lane from rfl, hop]
  rw [setWalk, show (endedWalk q code bad).lane = q.lane from rfl] at hpending
  simp only [hall, hpending, Bool.or_self, Bool.false_eq_true, if_false, hpaid]

end

/-! The registers of an operation's group at the end of a walk. -/

/-- The group of a slot is still there, and its registers are as before. -/
def RegistersKept (s t : State) (c b : Nat) : Prop :=
  ∀ g, s.group? c b = some g → ∃ h, t.group? c b = some h ∧ ∀ n l, rawV (t.core c) h n l = rawV (s.core c) g n l

theorem RegistersKept.refl (s : State) (c b : Nat) : RegistersKept s s c b := fun g hg => ⟨g, hg, fun _ _ => rfl⟩

theorem RegistersKept.trans {s t u : State} {c b : Nat} (h : RegistersKept s t c b) (k : RegistersKept t u c b) : RegistersKept s u c b :=
  fun g hg => by
    obtain ⟨g', hg', hsame⟩ := h g hg
    obtain ⟨g'', hg'', hsame'⟩ := k g' hg'
    exact ⟨g'', hg'', fun n l => (hsame' n l).trans (hsame n l)⟩

theorem registersKept_modGroup (s : State) (c b : Nat) {f : Group → Group} (hf : KeepsPlace f) : RegistersKept s (s.modGroup c b f) c b :=
  fun g hg => by
    refine ⟨f g, group_changed_some f hf.slot hg, fun n l => ?_⟩
    have hcore : (s.modGroup c b f).core c = (s.core c).modGroup b f := core_modCore _ _ _ (core_index ..)
    rw [rawV, rawV, isG0_congr (hf.allot g), rowKey_congr (hf.first g) (hf.second g), hcore]
    rfl

theorem registersKept_oweWalks (s : State) (o : Op) (ws : List Walk) : RegistersKept s (oweWalks s o ws) o.core o.slot := by
  unfold oweWalks
  dsimp only
  split
  · exact .refl _ _ _
  · exact registersKept_modGroup _ _ _ ⟨fun _ => rfl, fun _ => rfl, fun _ => rfl, fun _ => rfl, fun _ => rfl⟩

theorem registersKept_completeOp (s : State) (o : Op) : RegistersKept s (completeOp s o) o.core o.slot := by
  obtain ⟨ops, -, e⟩ := completeOp_eq s o
  rw [e]
  exact registersKept_modGroup { s with ops := ops } _ _ (complete_keepsPlace ..)

theorem registersKept_finishWalks {s : State} {n : Nat} {o : Op} (ho : s.op? n = some o) :
    RegistersKept s (finishWalks s n) o.core o.slot := by
  unfold finishWalks
  rw [ho]
  dsimp only
  split
  · split
    · exact .refl _ _ _
    · exact (registersKept_oweWalks _ _ _).trans (registersKept_completeOp _ _)
  · exact .refl _ _ _

/-- The status word of a walk that has ended stands in its lane (22 R292). -/
theorem endWalk_status {s : State} {o : Op} {g : Group} {d : Nat} {ws : List Walk} {q : Walk} (ho : s.op? o.id = some o)
    (hkind : o.kind = .walks d ws) (hg : s.group? o.core o.slot = some g) (h0 : isG0 g d q.lane = false) (code : Nat) (bad : DWord) :
    ∃ h, (endWalk s o q code bad).group? o.core o.slot = some h
      ∧ rawV ((endWalk s o q code bad).core o.core) h d q.lane = q.status code := by
  obtain ⟨e, hgroup, hvalue⟩ := landResult_group hg (n := d) (l := q.lane) (q.status code)
  have hop := modWalk_op (landResults_op ho d [(q.lane, q.status code)]) hkind q.lane fun _ => endedWalk q code bad
  obtain ⟨h, hh, hsame⟩ := registersKept_finishWalks hop _ hgroup
  rw [endWalk_eq hkind]
  exact ⟨h, hh, (hsame d q.lane).trans (hvalue h0)⟩

/-! The steps of a walk that nothing holds (22 R287). -/

section
variable {s : State} {o : Op} {x : Ctx} {b : Block} {d : Nat} {ws : List Walk} {q : Walk} (hwait : opWaits s o q.lane = false)
  (hrepl : replPending s o = false)
include hwait hrepl

/-- A walk with no stack left is done, whatever its block's phase (22 R307). -/
theorem walkStep_done (hpoint : q.point = .boundary) (hcuts : q.cuts = []) (hhot : q.hot = []) :
    walkStep s o x b q = endWalk s o q 0 0 := by
  simp [walkStep, hwait, hrepl, hpoint, hhot, boundaryStep, hcuts]

/-- The top entry is popped where its kind and its address are good; any other ends the walk. -/
theorem walkStep_boundary (hpoint : q.point = .boundary) (hcuts : q.cuts = []) (hphase : b.phase = .running) {e : WEntry}
    {rest : List WEntry} (hhot : q.hot = e :: rest) (hspilled : q.spilled = 0) {k : NodeKind} {u : State}
    (hread : readKind s o x b q e.kind = .ok (k, u)) :
    walkStep s o x b q = if k.empty || !k.valid || e.node % 16 ≠ 0 || highVa e.node then endWalk u o q 0x04 0
      else setWalk u o { q with hot := rest, visited := q.visited + 1, point := .visiting e } := by
  simp only [walkStep, hwait, hrepl, hpoint, hphase, boundaryStep, hcuts, hhot, hspilled, hread, Bool.or_self, Bool.false_eq_true, if_false,
    if_true, beq_self_eq_true, Bool.true_or]

/-- A visit goes on at once where its kind has no enter routine. -/
theorem walkStep_visiting {e : WEntry} (hpoint : q.point = .visiting e) {k : NodeKind} {u : State}
    (hread : readKind s o x b q e.kind = .ok (k, u)) (henter : k.enter = 0) :
    walkStep s o x b q = setWalk u o { q with point := .entering e (some 0) } := by
  simp [walkStep, hwait, hrepl, hpoint, beginVisit, hread, henter]

end

theorem walkVisit_steps {s : State} {o : Op} {x : Ctx} {b : Block} {d : Nat} {ws : List Walk} {q : Walk} (ho : s.op? o.id = some o)
    (hx : s.ctx? o.ctx = some x) (hb : (s.core o.core).block? o.block = some b) (hkind : o.kind = .walks d ws)
    (hq : (ws.find? fun v => v.lane == q.lane) = some q) :
    exec (.walkVisit o.id q.lane) s = .next (walkStep s o x b q) := by
  rw [exec_walkVisit, execWalkVisit, ho]
  simp only [hkind, hx, hb, hq]

/-- Settles O36: a walk's step is one of `walkStep_done`, `walkStep_boundary` and `walkStep_visiting`; the reading of a kind changes neither
operations nor memory (`readKind_readsOnly`). That the pop and the start of the visit are two moves is the model's choice (log 20). -/
theorem walkVisits : Obligations.WalkVisits := by
  intro s o x b d ws q ho hx hb hkind hq hwait hrepl
  have hexec := walkVisit_steps ho hx hb hkind hq
  refine ⟨fun g hpoint hcuts hhot hg hlane h0 => ?_, fun e rest k u hpoint hcuts hphase hhot hspilled hread hempty hvalid halign hlow => ?_,
    fun e k u hpoint hread henter => ?_, fun e rest k u hpoint hcuts hphase hhot hspilled hread hbad hothers => ?_⟩
  · rw [walkStep_done hwait hrepl hpoint hcuts hhot] at hexec
    obtain ⟨h, hgroup, hvalue⟩ := endWalk_status ho hkind hg h0 0 0
    obtain ⟨p, hland, -⟩ := landResult_group hg (n := d) (l := q.lane) (q.status 0)
    refine ⟨_, h, hexec, hgroup, hvalue.trans (by simp [Walk.status]), fun hothers => ?_, fun hover hnodup => ?_⟩
    · rw [endWalk_others ho hkind 0 0 hothers] at hgroup ⊢
      obtain rfl : g.addPend p = h := Option.some.inj (hland.symm.trans hgroup)
      exact ⟨walkAt_setWalk (landResults_op ho _ _) hkind hq rfl, rfl⟩
    · obtain ⟨o', hend, ho'⟩ := endWalk_last ho hkind 0 0 hrepl hnodup hover rfl
      rw [hend] at hgroup ⊢
      rw [ho'] at hgroup ⊢
      rw [completeOp_group] at hgroup
      obtain rfl : (g.addPend p).complete o.gate o.batch = h := Option.some.inj ((congrArg _ hland).symm.trans hgroup)
      exact ⟨completeOp_op .., rfl, rfl⟩
  · have hgood : ¬ (k.empty || !k.valid || decide (e.node % 16 ≠ 0) || highVa e.node) = true := by
      simp [hempty, hvalid, halign, show highVa e.node = false from decide_eq_false (by omega)]
    rw [walkStep_boundary hwait hrepl hpoint hcuts hphase hhot hspilled hread, if_neg hgood] at hexec
    have hreads := readKind_readsOnly hread
    exact ⟨_, hexec, walkAt_setWalk ((hreads.op _).trans ho) hkind hq rfl, fun a => congrArg (Memory.read · a) hreads.mem⟩
  · rw [walkStep_visiting hwait hrepl hpoint hread henter] at hexec
    have hreads := readKind_readsOnly hread
    exact ⟨_, hexec, walkAt_setWalk ((hreads.op _).trans ho) hkind hq rfl, fun a => congrArg (Memory.read · a) hreads.mem⟩
  · have hends : (k.empty || !k.valid || decide (e.node % 16 ≠ 0) || highVa e.node) = true := by
      rcases hbad with h | h | h | ⟨h, -⟩
      · simp [h]
      · simp [h]
      · simp [h]
      · simp [show highVa e.node = true from decide_eq_true h]
    rw [walkStep_boundary hwait hrepl hpoint hcuts hphase hhot hspilled hread, if_pos hends] at hexec
    have hop := (readKind_readsOnly hread).op o.id
    refine ⟨_, hexec, ?_⟩
    rw [endWalk_others (hop.trans ho) hkind 4 0 hothers]
    exact walkAt_setWalk (landResults_op (hop.trans ho) _ _) hkind hq rfl

end Sys2Proof.Machine
end

section
/-! Proofs: a service group takes its row and the registers of its calls (O37). -/
namespace Sys2Proof.Machine

/-! Words written over a refreshed row. -/

theorem cellAt_none {w : Nat} {k : Nat} {xs : List (Nat × BitVec w)} (h : ∀ p ∈ xs, p.1 ≠ k) : cellAt k xs = none := by
  induction xs with
  | nil => rfl
  | cons p r ih =>
    obtain ⟨hp, hr⟩ := List.forall_mem_cons.mp h
    rw [cellAt, if_neg hp, ih hr, ite_self]

/-- A refreshed word with no seed is 0. -/
theorem word_refresh (x : Store 32) {lo n k : Nat} (hlo : lo ≤ k) (hhi : k < lo + n) : (x.refresh lo n none).word k = 0 := by
  have hcell : cellAt k (x.refresh lo n none).cells = none := cellAt_none fun p hp hk => by
    have hout := (List.mem_filter.mp hp).2
    simp only [Bool.or_eq_true, decide_eq_true_eq] at hout
    omega
  rw [Store.word, hcell, junkWord, Store.refresh, junkSeed, if_pos ⟨hlo, hhi⟩]
  rfl

theorem rowKey_inj {g : Group} {n n' l l' : Nat} (hn : n < 64) (hn' : n' < 64) (hl : l < 32) (hl' : l' < 32)
    (h : rowKey g n l = rowKey g n' l') : n = n' ∧ l = l' := by
  rw [rowKey, rowKey, if_pos hn, if_pos hn'] at h
  omega

theorem rawV_landV_other (x : Core) {g : Group} {n n' l l' : Nat} (hn : n < 64) (hn' : n' < 64) (hl : l < 32) (hl' : l' < 32)
    (h : ¬ (n' = n ∧ l' = l)) (v : Word) : rawV (x.landV g n l v) g n' l' = rawV x g n' l' := by
  refine rawV_of_rows fun _ => ?_
  unfold Core.landV
  split
  · rfl
  · exact word_set_other _ _ _ _ fun he => h (rowKey_inj hn' hn hl' hl he)

/-- Changes of a core's rows alone, one after another, change its rows alone. -/
theorem foldl_rows {α : Type} {f : Core → α → Core} (hf : ∀ x a, f x a = { x with rows := (f x a).rows }) (x : Core) (as : List α) :
    as.foldl f x = { x with rows := (as.foldl f x).rows } := by
  induction as generalizing x with
  | nil => rfl
  | cons a as ih =>
    rw [List.foldl_cons, ih, hf x a]

/-- The registers of a lane from v0 on take some words. -/
def landFrom (g : Group) (l : Nat) (vs : List Word) (x : Core) : Core :=
  (List.range vs.length).foldl (fun x n => x.landV g n l (vs.getD n 0)) x

theorem landFrom_rest (g : Group) (l : Nat) (vs : List Word) (x : Core) : landFrom g l vs x = { x with rows := (landFrom g l vs x).rows } :=
  foldl_rows (fun x n => landV_rest x g n l (vs.getD n 0)) x _

/-- The lanes from 0 on take words, each its own. -/
def landEach (g : Group) (vals : Nat → List Word) (m : Nat) (x : Core) : Core :=
  (List.range m).foldl (fun x l => landFrom g l (vals l) x) x

theorem landEach_rest (g : Group) (vals : Nat → List Word) (m : Nat) (x : Core) :
    landEach g vals m x = { x with rows := (landEach g vals m x).rows } :=
  foldl_rows (fun x l => landFrom_rest g l (vals l) x) x _

section
variable {g : Group} (hlow : ∀ n l, n < 22 → isG0 g n l = false) {n l : Nat} (hn : n < 64) (hl : l < 32)
include hlow hn hl

theorem rawV_landFrom {l' : Nat} (hl' : l' < 32) {vs : List Word} (hvs : vs.length ≤ 22) (x : Core) :
    rawV (landFrom g l' vs x) g n l = if l = l' ∧ n < vs.length then vs.getD n 0 else rawV x g n l := by
  have hfold : ∀ m, m ≤ vs.length → rawV ((List.range m).foldl (fun x i => x.landV g i l' (vs.getD i 0)) x) g n l
      = if l = l' ∧ n < m then vs.getD n 0 else rawV x g n l := fun m => by
    induction m with
    | zero => simp
    | succ m ih =>
      intro hm
      rw [List.range_succ, List.foldl_append, List.foldl_cons, List.foldl_nil]
      by_cases hsame : n = m ∧ l = l'
      · obtain ⟨rfl, rfl⟩ := hsame
        rw [rawV_landV _ (hlow n l (by omega)), if_pos ⟨rfl, Nat.lt_succ_self n⟩]
      · rw [rawV_landV_other _ (by omega) hn hl' hl hsame, ih (by omega)]
        refine if_congr ?_ rfl rfl
        omega
  exact hfold vs.length le_rfl

theorem rawV_landEach {vals : Nat → List Word} (hvals : ∀ l, (vals l).length ≤ 22) (x : Core) {m : Nat} (hm : m ≤ 32) :
    rawV (landEach g vals m x) g n l = if l < m ∧ n < (vals l).length then (vals l).getD n 0 else rawV x g n l := by
  unfold landEach
  induction m with
  | zero => simp
  | succ m ih =>
    rw [List.range_succ, List.foldl_append, List.foldl_cons, List.foldl_nil, rawV_landFrom hlow hn hl (by omega) (hvals m), ih (by omega)]
    by_cases hlm : l = m
    · subst hlm
      by_cases hin : n < (vals l).length
      · rw [if_pos ⟨rfl, hin⟩, if_pos ⟨by omega, hin⟩]
      · rw [if_neg (fun h => hin h.2), if_neg (fun h => hin h.2), if_neg (fun h => hin h.2)]
    · rw [if_neg (fun h => hlm h.1)]
      refine if_congr ?_ rfl rfl
      omega

end

/-! The registers of a call (22 R293). -/

theorem callRegs_length (c : Call) : (callRegs c).length = 22 := rfl

/-- v3: the depth, the kind of the node, the kind of the call and the child's slot. -/
theorem callRegs_v3 (c : Call) : (callRegs c).getD 3 0 = BitVec.ofNat 32 (c.depth % 4096 + c.nodeKind % 16 * 2 ^ 12
    + (match c.kind with | .enter => 0 | .prune => 2 ^ 16 + c.child % 16 * 2 ^ 18 | .leave => 2 ^ 17)) := by
  have hv3 : (callRegs c).getD 3 0 = BitVec.ofNat 32 (c.depth % 4096 + c.nodeKind % 16 * 2 ^ 12
      + (match c.kind with | .enter => 0 | .prune => 1 | .leave => 2) * 2 ^ 16 + (if c.kind = .prune then c.child % 16 * 2 ^ 18 else 0)) := rfl
  rw [hv3]
  cases c.kind with
  | enter => rfl
  | prune =>
    dsimp only
    rw [if_pos rfl, Nat.add_assoc, Nat.one_mul]
  | leave => rfl

theorem callRegs_payload (c : Call) {j : Nat} (hj : j < 16) :
    (callRegs c).getD (4 + j) 0 = BitVec.ofNat 32 (numOf ((c.payload.drop (4 * j)).take 4)) := by
  have hregs : callRegs c = ((callRegs c).take 4 ++ ((List.range 16).map fun j => numOf ((c.payload.drop (4 * j)).take 4)).map (BitVec.ofNat 32))
      ++ (callRegs c).drop 20 := rfl
  rw [hregs, List.getD_append _ _ _ _ (by simp [callRegs_length]; omega), List.getD_append_right _ _ _ _ (by simp [callRegs_length])]
  simp [callRegs_length, hj]

/-- The words of lane `l` of a service group of calls. -/
def callWords (mine : List Call) (l : Nat) : List Word := ((mine[l]?).map callRegs).getD []

theorem callWords_length (mine : List Call) (l : Nat) : (callWords mine l).length ≤ 22 := by
  unfold callWords
  cases mine[l]? with
  | none => exact Nat.zero_le _
  | some c => exact Nat.le_refl _

/-! A service group is formed (22 R293). -/

/-- The group of some calls in its row and slot. -/
def serviceGroup (b : Block) (row slot : Nat) (mine : List Call) (pc : PC) : Group :=
  { newGroup slot b.id b.ctx 64 b.blockIndex 31 0 row row (b.rec_.points b.blockIndex 0) (maskOf (List.range mine.length)) pc
      (BitVec.allOnes 32 :: List.replicate 7 0) ((b.dispatch % 2048) * 32 + slot) with service := mine }

theorem serviceGroup_isG0 (b : Block) (row slot : Nat) (mine : List Call) (pc : PC) (n l : Nat) (hn : n < 22) :
    isG0 (serviceGroup b row slot mine pc) n l = false := by
  have hne : n ≠ 60 := by omega
  simp [isG0, serviceGroup, newGroup, hne]

/-- The core with the group in its row, before the row takes the calls' words. -/
def serviceCore (x : Core) (row : Nat) (g : Group) : Core :=
  { x with rows := x.rows.refresh (rowRange row).1 (rowRange row).2 none, groups := x.groups ++ [g] }

theorem serviceCore_zero (x : Core) (b : Block) (row slot : Nat) (mine : List Call) (pc : PC) {n l : Nat} (hn : n < 64) (hl : l < 32) :
    rawV (serviceCore x row (serviceGroup b row slot mine pc)) (serviceGroup b row slot mine pc) n l = 0 := by
  have hkey : rowKey (serviceGroup b row slot mine pc) n l = (row * 64 + n % 64) * 32 + l := by
    rw [rowKey, if_pos hn]
    rfl
  unfold rawV
  split
  · rfl
  · rw [hkey]
    refine word_refresh _ ?_ ?_
    · show 2048 * row ≤ _
      omega
    · show _ < 2048 * row + 2048
      omega

/-- The core as its row has taken the calls' words. -/
def servedCore (x : Core) (b : Block) (row slot : Nat) (mine : List Call) (pc : PC) : Core :=
  landEach (serviceGroup b row slot mine pc) (callWords mine) mine.length (serviceCore x row (serviceGroup b row slot mine pc))

theorem servedCore_rest (x : Core) (b : Block) (row slot : Nat) (mine : List Call) (pc : PC) : servedCore x b row slot mine pc
    = { x with rows := (servedCore x b row slot mine pc).rows, groups := x.groups ++ [serviceGroup b row slot mine pc] } := by
  unfold servedCore
  rw [landEach_rest]
  rfl

section
variable (x : Core) (b : Block) (row slot : Nat) {mine : List Call} (pc : PC) (hsize : mine.length ≤ 32)
include hsize

theorem servedCore_value {n l : Nat} (hn : n < 64) (hl : l < 32) :
    rawV (servedCore x b row slot mine pc) (serviceGroup b row slot mine pc) n l
      = if l < mine.length ∧ n < (callWords mine l).length then (callWords mine l).getD n 0 else 0 := by
  rw [servedCore, rawV_landEach (serviceGroup_isG0 b row slot mine pc) hn hl (callWords_length mine) _ hsize, serviceCore_zero _ _ _ _ _ _ hn hl]

theorem servedCore_call {l : Nat} {c : Call} (hc : mine[l]? = some c) {n : Nat} (hn : n < 22) :
    rawV (servedCore x b row slot mine pc) (serviceGroup b row slot mine pc) n l = (callRegs c).getD n 0 := by
  have hl : l < mine.length := (List.getElem?_eq_some_iff.mp hc).1
  have hwords : callWords mine l = callRegs c := by rw [callWords, hc, Option.map_some, Option.getD_some]
  rw [servedCore_value x b row slot pc hsize (by omega) (by omega), hwords, if_pos ⟨hl, hn⟩]

theorem servedCore_zero {n l : Nat} (hn : n < 64) (hl : l < 32) (hout : 22 ≤ n ∨ mine.length ≤ l) :
    rawV (servedCore x b row slot mine pc) (serviceGroup b row slot mine pc) n l = 0 := by
  have hlength := callWords_length mine l
  rw [servedCore_value x b row slot pc hsize hn hl, if_neg (by omega)]

end

theorem serviceGroup_masks (b : Block) (row slot : Nat) (mine : List Call) (pc : PC) {k : Nat} (hk : 1 ≤ k) (hk' : k ≤ 7) :
    rawK (serviceGroup b row slot mine pc) k = 0 := by
  obtain ⟨j, rfl⟩ : ∃ j, k = j + 1 := ⟨k - 1, by omega⟩
  have hj : j < 7 := by omega
  show (BitVec.allOnes 32 :: List.replicate 7 (0 : Mask)).getD (j + 1) 0 = 0
  rw [List.getD_cons_succ, List.getD_eq_getElem?_getD, List.getElem?_replicate, if_pos hj]
  rfl

/-- A block whose calls a service group runs: they wait no more. -/
def withoutCalls (mine : List Call) (k : Block) : Block := { k with calls := mine.foldl (fun l c => l.erase c) k.calls }

theorem formService_forms {s : State} {core row slot routine : Nat} {b : Block} {first : Call} {rest : List Call}
    (hrow : b.routineRow = some row) (hslot : b.routineSlot = some slot)
    (hmine : (b.calls.filter fun c => c.routine == routine).take 32 = first :: rest) (hfree : (s.core core).group? slot = none) :
    formService s core b routine = noteSync (s.setCore ((servedCore (s.core core) b row slot (first :: rest) first.pc).modBlock b.id
      (withoutCalls (first :: rest)))) core slot 2 0 := by
  unfold formService
  rw [hrow, hslot]
  dsimp only
  rw [hmine]
  dsimp only
  rw [hfree, Option.isSome_none, if_neg Bool.false_ne_true]
  have hstep : (fun (y : Core) (l : Nat) => match (first :: rest)[l]? with
      | none => y
      | some c => landFrom (serviceGroup b row slot (first :: rest) first.pc) l (callRegs c) y)
      = fun y l => landFrom (serviceGroup b row slot (first :: rest) first.pc) l (callWords (first :: rest) l) y := by
    funext y l
    unfold callWords
    cases (first :: rest)[l]? <;> rfl
  unfold servedCore landEach
  rw [← hstep]
  rfl

theorem formService_serves {s : State} {core row slot routine : Nat} {b : Block} {first : Call} {rest : List Call}
    (hrow : b.routineRow = some row) (hslot : b.routineSlot = some slot)
    (hmine : (b.calls.filter fun c => c.routine == routine).take 32 = first :: rest) (hfree : (s.core core).group? slot = none) :
    ServiceFormed (formService s core b routine) core b row slot (first :: rest) first.pc := by
  have hsize : (first :: rest).length ≤ 32 := by
    rw [← hmine]
    exact List.length_take_le ..
  rw [formService_forms hrow hslot hmine hfree]
  generalize first.pc = pc
  generalize first :: rest = mine at hsize ⊢
  have hrest := servedCore_rest (s.core core) b row slot mine pc
  have hindex : (servedCore (s.core core) b row slot mine pc).index = core := by
    rw [hrest]
    exact core_index ..
  have hcore : (noteSync (s.setCore ((servedCore (s.core core) b row slot mine pc).modBlock b.id (withoutCalls mine))) core slot 2 0).core core
      = (servedCore (s.core core) b row slot mine pc).modBlock b.id (withoutCalls mine) := by
    have hset := core_setCore s ((servedCore (s.core core) b row slot mine pc).modBlock b.id (withoutCalls mine))
    rw [show ((servedCore (s.core core) b row slot mine pc).modBlock b.id (withoutCalls mine)).index = core from hindex] at hset
    rw [State.core, noteSync_cores]
    exact hset
  generalize noteSync (s.setCore ((servedCore (s.core core) b row slot mine pc).modBlock b.id (withoutCalls mine))) core slot 2 0 = t at hcore ⊢
  have hcell : ∀ n l, rawV (t.core core) (serviceGroup b row slot mine pc) n l
      = rawV (servedCore (s.core core) b row slot mine pc) (serviceGroup b row slot mine pc) n l := fun n l => by
    rw [hcore]
    rfl
  refine ⟨serviceGroup b row slot mine pc, ?_, rfl, rfl, rfl, rfl, rfl, rfl, rfl, rfl, rfl, rfl, rfl, rfl,
    fun k hk hk' => serviceGroup_masks b row slot mine pc hk hk', fun l c hc => ?_, fun n l hn hl hout => ?_⟩
  · have hnone : (s.core core).groups.find? (fun g => g.slot == slot) = none := hfree
    have hgroups : (t.core core).groups = (s.core core).groups ++ [serviceGroup b row slot mine pc] := by
      rw [hcore]
      exact congrArg Core.groups hrest
    rw [State.group?, Core.group?, hgroups, List.find?_append, hnone]
    simp [serviceGroup, newGroup]
  · have hword : ∀ n, n < 22 → rawV (t.core core) (serviceGroup b row slot mine pc) n l = (callRegs c).getD n 0 := fun n hn =>
      (hcell n l).trans (servedCore_call (s.core core) b row slot pc hsize hc hn)
    exact ⟨hword 0 (by omega), hword 1 (by omega), hword 2 (by omega), (hword 3 (by omega)).trans (callRegs_v3 c),
      fun j hj => (hword (4 + j) (by omega)).trans (callRegs_payload c hj), hword 20 (by omega), hword 21 (by omega)⟩
  · exact (hcell n l).trans (servedCore_zero (s.core core) b row slot pc hsize hn hl hout)

end Sys2Proof.Machine
end

section
/-! Proofs: the events of service groups and of TVCUT (O37). -/
namespace Sys2Proof.Machine

/-! The group of calls is formed (22 R293). -/

/-- The oldest calls of a routine that some call waits for. -/
theorem oldestCalls {cs : List Call} {c : Call} (hc : c ∈ cs) :
    ∃ f rest, (cs.filter fun d => d.routine == c.routine).head? = some f
      ∧ (cs.filter fun d => d.routine == c.routine).take 32 = f :: rest := by
  have hmem : c ∈ cs.filter fun d => d.routine == c.routine := List.mem_filter.mpr ⟨hc, beq_self_eq_true _⟩
  cases hcalls : cs.filter fun d => d.routine == c.routine with
  | nil =>
    rw [hcalls] at hmem
    exact nomatch hmem
  | cons f r => exact ⟨f, r.take 31, rfl, rfl⟩

theorem serviceGroupForm_forms {s : State} {core : Nat} {b : Block} (hb : (s.core core).block? b.id = some b) (hserves : serves s b = true)
    {c : Call} (hfind : (b.calls.find? fun c => decide (32 ≤ (b.calls.filter fun d => d.routine == c.routine).length) || decide (64 ≤ c.waited))
      = some c) (hmany : 32 ≤ (b.calls.filter fun d => d.routine == c.routine).length) :
    exec (.serviceGroupForm core b.id) s = .next (formService s core b c.routine) := by
  rw [exec_serviceGroupForm, execServiceGroupForm, hb]
  dsimp only
  rw [hserves, hfind]
  dsimp only
  rw [if_neg (by decide), if_pos (decide_eq_true hmany)]

theorem serviceGroupTimeout_forms {s : State} {core : Nat} {b : Block} (hb : (s.core core).block? b.id = some b) (hserves : serves s b = true)
    {c : Call} {rest : List Call} (hcalls : b.calls = c :: rest) (hwaited : 64 ≤ c.waited) :
    exec (.serviceGroupTimeout core b.id) s = .next (formService s core b c.routine) := by
  rw [exec_serviceGroupTimeout, execServiceGroupTimeout, hb]
  dsimp only
  rw [hcalls]
  dsimp only
  rw [hserves, Bool.true_and, if_pos (decide_eq_true hwaited)]

/-! The group returns (22 R293). -/

theorem find_filter_some {α : Type} {p q : α → Bool} {xs : List α} {a : α} (h : xs.find? q = some a) (hp : p a = true) :
    (xs.filter p).find? q = some a := by
  induction xs with
  | nil => exact nomatch h
  | cons b r ih =>
    rw [List.find?_cons] at h
    cases hq : q b with
    | true =>
      rw [hq] at h
      obtain rfl := Option.some.inj h
      rw [List.filter_cons_of_pos hp, List.find?_cons, hq]
    | false =>
      rw [hq] at h
      cases hpb : p b with
      | true => rw [List.filter_cons_of_pos hpb, List.find?_cons, hq, ih h]
      | false => rw [List.filter_cons_of_neg (by simp [hpb]), ih h]

/-- A group that leaves takes its reads with it; every other operation stays. -/
theorem groupLeaves_ops (s : State) (c : Nat) (g : Group) : ∃ (p : Op → Bool) (f : Op → Op), (groupLeaves s c g).ops = (s.ops.filter p).map f
    ∧ (∀ o, (f o).id = o.id) ∧ (∀ o, (f o).kind = o.kind) ∧ ∀ o, o.kind ≠ .reads → p o = true := by
  refine ⟨_, _, rfl, fun o => ?_, fun o => ?_, fun o ho => ?_⟩
  · split <;> rfl
  · split <;> rfl
  · dsimp only
    split
    next hreads => exact absurd hreads ho
    next => simp

theorem groupLeaves_op {s : State} {n : Nat} {o : Op} (ho : s.op? n = some o) (hreads : o.kind ≠ .reads) (c : Nat) (g : Group) :
    ∃ o', (groupLeaves s c g).op? n = some o' ∧ o'.kind = o.kind := by
  obtain ⟨p, f, hops, hid, hkind, hstays⟩ := groupLeaves_ops s c g
  refine ⟨f o, ?_, hkind o⟩
  rw [State.op?, hops, List.find?_map, show ((fun o : Op => o.id == n) ∘ f) = fun o => o.id == n from funext fun o => by
    simp [hid o], find_filter_some ho (hstays o hreads), Option.map_some]

theorem groupLeaves_slot (s : State) (c : Nat) (g : Group) : (groupLeaves s c g).group? c g.slot = none := by
  unfold groupLeaves
  rw [State.group?, core_modCore _ _ _ (core_index ..)]
  exact List.find?_eq_none.mpr fun h hh => by simpa using (List.mem_filter.mp hh).2

theorem op_id {s : State} {n : Nat} {o : Op} (ho : s.op? n = some o) : o.id = n := by simpa using List.find?_some ho

/-- What a delivered action word makes of a walk that waits for its enter call (22 R288). -/
theorem deliver_enters {s : State} {c : Call} {o : Op} {d : Nat} {ws : List Walk} {q : Walk} {e : WEntry} (ho : s.op? c.op = some o)
    (hkind : o.kind = .walks d ws) (hq : (ws.find? fun v => v.lane == c.lane) = some q) (hpoint : q.point = .entering e none) :
    WalkAt (deliver s c) o { q with point := .entering e (some (c.reply.getD 0)) } := by
  have hlane : q.lane = c.lane := by simpa using List.find?_some hq
  have ho' := ho
  rw [← hlane] at hq
  rw [← op_id ho] at ho
  unfold deliver
  rw [← op_id ho', ← hlane]
  refine walkAt_modWalk ho hkind hq ?_ ?_
  · exact fun _ => rfl
  · rw [hpoint]

theorem routineReturn_returns {s : State} {core slot : Nat} {b : Block} {g : Group} {c : Call} (hb : (s.core core).block? b.id = some b)
    (hslot : b.routineSlot = some slot) (hg : ((s.core core).groups.find? fun g => g.block == b.id && !g.service.isEmpty) = some g)
    (hgslot : g.slot = slot) (hended : g.ended = true) (hquiet : g.quiet = true)
    (hwrites : writesPerformed s core g g.nextSeq .package = true) (hservice : g.service = [c]) :
    exec (.routineReturn core b.id) s = .next (deliver (groupLeaves s core g) c) := by
  have hmine : (b.routineSlot != some g.slot) = false := by simp [hslot, hgslot]
  rw [exec_routineReturn, execRoutineReturn, hb]
  dsimp only
  rw [hg]
  dsimp only
  rw [hended, hquiet, hwrites, hmine, hservice]
  rfl

/-! TVCUT_COMPLETE (22 R297). -/

theorem tvcutComplete_completes {s : State} {o : Op} {ls : List CutLane} {x : Ctx} (ho : s.op? o.id = some o) (hx : s.ctx? o.ctx = some x)
    (hkind : o.kind = .cut ls) (hmade : ∀ l ∈ ls, l.made = some true) (hrepl : replPending s o = false) :
    exec (.tvcutComplete o.id) s = .next (completeOp s o) := by
  have hnone : ∀ asked : CutLane → Bool, (ls.find? fun l => l.made.isNone && !asked l) = none := fun asked =>
    List.find?_eq_none.mpr fun l hl => by simp [hmade l hl]
  have hall : (ls.any fun l => l.made.isNone) = false := List.any_eq_false.mpr fun l hl => by simp [hmade l hl]
  have hlost : (ls.filter fun l => l.made == some false) = [] := List.filter_eq_nil_iff.mpr fun l hl => by simp [hmade l hl]
  rw [exec_tvcutComplete, execTvcutComplete, ho]
  simp only [hkind, hx, hnone, hall, hrepl, hlost, Bool.or_self, Bool.false_eq_true, if_false]

/-- Settles O37: groups are formed by `formService_serves`, return by `deliver_enters`, and TVCUT_COMPLETE takes its operation away. -/
theorem serviceGroups : Obligations.ServiceGroups := by
  intro s core row slot b hb hrow hslot
  refine ⟨fun c hserves hfree hfind hmany => ?_, fun c rest hserves hfree hcalls hwaited => ?_,
    fun g c o ws d q e hg hgslot hended hquiet hwrites hservice ho hkind hq hpoint => ?_, fun o ls x g ho hx hkind hg hmade hrepl => ?_⟩
  · obtain ⟨f, r, hhead, htake⟩ := oldestCalls (List.mem_of_find?_eq_some hfind)
    refine ⟨_, f, serviceGroupForm_forms hb hserves hfind hmany, hhead, ?_⟩
    rw [htake]
    exact formService_serves hrow hslot htake hfree
  · have htake : (b.calls.filter fun d => d.routine == c.routine).take 32 = c :: (rest.filter fun d => d.routine == c.routine).take 31 := by
      rw [hcalls, List.filter_cons_of_pos (by simp), List.take_succ_cons]
    refine ⟨_, serviceGroupTimeout_forms hb hserves hcalls hwaited, ?_⟩
    rw [htake]
    exact formService_serves hrow hslot htake hfree
  · have hwalks : o.kind ≠ .reads := by simp [hkind]
    obtain ⟨o', ho', hkind'⟩ := groupLeaves_op ho hwalks core g
    have hsame : o'.id = o.id := (op_id ho').trans (op_id ho).symm
    refine ⟨_, routineReturn_returns hb hslot hg hgslot hended hquiet hwrites hservice, ?_, ?_⟩
    · rw [← hgslot]
      exact groupLeaves_slot s core g
    · have hat := deliver_enters ho' (hkind'.trans hkind) hq hpoint
      rw [WalkAt, hsame] at hat
      exact hat
  · refine ⟨_, g.complete o.gate o.batch, tvcutComplete_completes ho hx hkind hmade hrepl, completeOp_op .., ?_, rfl, rfl⟩
    rw [completeOp_group, hg, Option.map_some]

end Sys2Proof.Machine
end

section
/-! Proofs: the launch of a galley's consumer blocks (O39). -/
namespace Sys2Proof.Machine

/-- A galley with one published record, which has waited 4,096 cycles; the launch record of its consumers is at 0x10000. -/
def waitingGalley : Galley :=
  { id := 0, ctx := 0, ring := 0x8000000, recLog := 4, capLog := 2, thresh := 1, consumer := 0x10000, doneSig := 0, head := 0, tail := 1,
    overflow := 0, outstanding := 1, slots := [(0, .published)], launches := 0, live := [], idle := 4096 }

/-- The fields of that record that are not 0, by their offsets: a block of one group with one row, in mode FLUSH (26 R345). -/
def consumerFields : List (Nat × List Byte) :=
  [(0, [1, 0, 2, 1]), (0x18, [1, 1]), (0x1C, bytesOf 4 4096), (0x20, [1, 0, 1, 0, 1, 0, 3, 1]), (0x30, [1, 0, 1, 0, 1, 0, 4]), (0xA0, [1]),
   (0xDC, [12]), (0xF0, bytesOf 2 0x8000)]

/-- A context that is halted, and that nothing else keeps from having its blocks started. -/
def haltedCtx : Ctx := { loadCtx with vb := 1000000, halted := true }

/-- That context with its galley. Its block on core 0 keeps its tables from being read again. -/
def haltedState : State :=
  { consumerFields.foldl (fun s p => s.poke (0x10000 + p.1) p.2) (State.reset.withFetchWord 32 0) with
    ctxs := [haltedCtx], cores := [{ Core.idle 0 with blocks := [rowZeroBlock] }], galleys := [waitingGalley], nextId := 2 }

/-- The rows and the scratchpad that the agent chooses there. -/
def consumerPlace : Placement := ⟨0xFC, 4096⟩

/-- What the statement asks of a core that starts a consumer block holds there. -/
theorem haltedState_fits :
    (match readLaunch haltedState (.core 0) haltedCtx 0x10000 (boundConsumer haltedState 0) with
      | (.ok r, u) => u.holdsCluster haltedCtx.func (Config.clusterIndex (Config.dieOf 0) (Config.clusterOf 0))
          && decide (r.share (Config.dieOf 0) ≠ 0) && decide (r.maxLive = 0) && admits u haltedCtx 0 r
          && (match agentCarve (u.core 0) r consumerPlace with
            | none => false
            | some (made, table, routine) =>
              let n := placeBlock (u.setCore made) 0 haltedCtx r 0 0 consumerPlace.spbase table routine none
              decide (((n.2.core 0).block? n.1).map Block.rec_ = some r) && admits n.2 haltedCtx 0 r)
      | _ => false) = true := by decide

theorem haltedState_launches_none :
    (match exec (.galleyConsumerLaunch 0 0 consumerPlace) haltedState with
      | .next t => (t.galley? 0).map Galley.launches
      | _ => none) = some 0 := by decide

/-- Refutes O39: in the consumer launches. The agents start no block of a halted context (29 R369), so its galley's consumer is not
launched, where the statement, which has no premise on the halt, has it launched. -/
theorem not_galleyEvents : ¬ Obligations.GalleyEvents := by
  rintro ⟨-, h⟩
  have hfits := haltedState_fits
  split at hfits
  next r u hread =>
    simp only [Bool.and_eq_true, decide_eq_true_eq] at hfits
    obtain ⟨⟨⟨⟨hcluster, hshare⟩, hlive⟩, hadmits⟩, hplaced⟩ := hfits
    split at hplaced
    next => exact nomatch hplaced
    next made table routine hcarve =>
      simp only [Bool.and_eq_true, decide_eq_true_eq] at hplaced
      obtain ⟨hrecord, hagain⟩ := hplaced
      obtain ⟨hlaunch, -⟩ := h haltedState haltedState u waitingGalley haltedCtx r 0 consumerPlace made table routine rfl (by decide) (by decide)
        hread hcluster hshare (.inl hlive) rfl hadmits hcarve hrecord hagain
      obtain ⟨v, id, hv, hgalley⟩ := hlaunch (by decide)
      have hnone := haltedState_launches_none
      replace hv : exec (.galleyConsumerLaunch 0 0 consumerPlace) haltedState = .next v := hv
      rw [hv] at hnone
      replace hnone : (v.galley? 0).map Galley.launches = some 0 := hnone
      replace hgalley : v.galley? 0 = some { waitingGalley with launches := 1, live := [(0, id)], idle := 0 } := hgalley
      rw [hgalley] at hnone
      exact nomatch hnone
  next => exact nomatch hfits

end Sys2Proof.Machine
end

section
/-! Proofs: the exchange instructions of service groups (O51). -/
namespace Sys2Proof.Machine

/-! The operands that the entries allow (24 R316, R317). -/

theorem permitOperand_allowed {v : Nat} (hzeros : v / 8 % 32 = 0) (hmin : 1 ≤ v / 2 ^ 8) (hmax : v / 2 ^ 8 ≤ 16) :
    (bits v 3 5 == 0 && v < 2 ^ 13 && 1 ≤ bits v 8 5 && bits v 8 5 ≤ 16) = true := by
  have hcount : bits v 8 5 = v / 2 ^ 8 := Nat.mod_eq_of_lt (by omega)
  have hlt : v < 2 ^ 13 := by omega
  have hbits : bits v 3 5 = 0 := hzeros
  rw [hbits, hcount, decide_eq_true hlt, decide_eq_true hmin, decide_eq_true hmax]
  rfl

theorem sendOperand_allowed {v : Nat} (hzeros : v / 8 % 32 = 0) (hlt : v < 2 ^ 25) : (bits v 3 5 == 0 && v < 2 ^ 25) = true := by
  have hbits : bits v 3 5 = 0 := hzeros
  rw [hbits, decide_eq_true hlt]
  rfl

section
variable {s : State} {w : Issuer} (h : Issues s w) (hon : s.feature 4 = true)
include h hon

theorem xbind_service (hservice : inService w.g = true) {d a b : GReg} (hx : (uniG s w b).toNat < 32) :
    exec (.xbind d a b) s = .next (trapAll s w .routineBlock 0) := by
  rw [exec_xbind, execXbind, uniIssueIf_acts h rfl (by simp [exchangeOn, hon, hx]) (by simp)]
  dsimp only
  rw [if_pos hservice]

theorem xpermit_service (hservice : inService w.g = true) {a : GReg} (hzeros : (uniG s w a).toNat / 8 % 32 = 0)
    (hmin : 1 ≤ (uniG s w a).toNat / 2 ^ 8) (hmax : (uniG s w a).toNat / 2 ^ 8 ≤ 16) :
    exec (.xpermit a) s = .next (trapAll s w .routineBlock 0) := by
  rw [exec_xpermit, execXpermit, uniIssueIf_acts h rfl
    (by rw [exchangeOn, hon, Bool.true_and]; exact permitOperand_allowed hzeros hmin hmax) (by simp)]
  dsimp only
  rw [if_pos hservice]

theorem xsend_service (hservice : inService w.g = true) {d a b : GReg} (hzeros : (uniG s w b).toNat / 8 % 32 = 0)
    (hlt : (uniG s w b).toNat < 2 ^ 25) : exec (.xsend d a b) s = .next (trapAll s w .routineBlock 0) := by
  rw [exec_xsend, execXsend, uniIssueIf_acts h rfl
    (by rw [exchangeOn, hon, Bool.true_and]; exact sendOperand_allowed hzeros hlt) (by simp)]
  dsimp only
  rw [if_pos hservice]

/-- XSTAT reads the word of an end, but in a service group that of none (24 R318, R319). -/
theorem xstat_reads (d a : GReg) : UniResult s w (.xstat d a) d
    (xstatWord (if inService w.g then none else w.core.endOf w.g.block ((uniG s w a).toNat % 8))) :=
  uniResult_of h.1 ((exec_xstat d a s).trans (uniIssueIf_acts h rfl hon (by simp) _ _))

end

/-- Settles O51: each trap by its instruction's own lemma, XSTAT by `xstat_reads`. -/
theorem serviceExchange : Obligations.ServiceExchange := by
  intro s w d a b h hservice hon v x
  have hreads := xstat_reads h hon d a
  rw [if_pos hservice] at hreads
  exact ⟨xbind_service h hon hservice, xpermit_service h hon hservice, xsend_service h hon hservice, hreads⟩

end Sys2Proof.Machine
end

section
/-! Proofs: channel ends changed, and XPERMIT (O40). -/
namespace Sys2Proof.Machine

/-! Changing an end leaves all of a core but its ends (24 R309). -/

section
variable (s : State) (n : Nat) (f : ChanEnd → ChanEnd)

theorem modEnd_core (c : Nat) :
    (modEnd s n f).core c = { s.core c with ends := (s.core c).ends.map fun e => if e.id = n then f e else e } := by
  simp only [State.core, modEnd, List.find?_map, Function.comp_def]
  cases s.cores.find? fun x => x.index == c with
  | none => rfl
  | some x => rfl

theorem modEnd_group (c b : Nat) : (modEnd s n f).group? c b = s.group? c b := by
  rw [State.group?, modEnd_core]
  rfl

theorem modEnd_ends : EndsBy s (modEnd s n f) n f := fun c => by rw [modEnd_core]

end

theorem Tracks.modEnd {s : State} {w : Issuer} (h : Tracks s w) (n : Nat) (f : ChanEnd → ChanEnd) : Tracks (modEnd s n f) w := by
  obtain ⟨g, hg, hkeep⟩ := h
  exact ⟨g, (modEnd_group s n f w.c w.slot).trans hg, hkeep⟩

theorem Near.ends {s t : State} {w : Issuer} {keys : Nat → Prop} {rel : Group → Group → Prop} (h : Near s t w keys rel) (c : Nat) :
    (t.core c).ends = (s.core c).ends := by rw [h.core_eq]

/-- An end changed between changes near the issuer. -/
theorem EndsBy.between {s t u v : State} {w : Issuer} {n : Nat} {f : ChanEnd → ChanEnd} {keys keys' : Nat → Prop}
    {rel rel' : Group → Group → Prop} (h : EndsBy t u n f) (before : Near s t w keys rel) (after : Near u v w keys' rel') :
    EndsBy s v n f := fun c => by rw [after.ends, h, before.ends]

/-! XPERMIT (24 R316). -/

/-- A group with an XPERMIT whose grants have not left. -/
def permits (p : Permit) (g : Group) : Group := { g with permits := g.permits ++ [p] }

theorem permits_keepsPlace (p : Permit) : KeepsPlace (permits p) := ⟨fun _ => rfl, fun _ => rfl, fun _ => rfl, fun _ => rfl, fun _ => rfl⟩

/-- The permits of an XPERMIT, to the end that the channel's sender has now (24 R314). -/
def permitOf (s : State) (w : Issuer) (q : ChanEnd) (count : Nat) : Permit :=
  ⟨w.idx, q.id, ((peerOf s q).map fun p => p.id).getD s.nextId, count⟩

theorem permitting_eq (s : State) (w : Issuer) (q : ChanEnd) (count : Nat) :
    permitting s w q count = s.modGroup w.c w.slot (permits (permitOf s w q count)) := rfl

/-- The state after an XPERMIT. -/
def permitted (s : State) (w : Issuer) (q : ChanEnd) (count : Nat) : State :=
  blockIt (done (modEnd (permitting s w q count) q.id fun q => { q with granted := q.granted + BitVec.ofNat 32 count }) w) w
    (.xpermit q.id count)

theorem xpermit_permits {s : State} {w : Issuer} (h : Issues s w) (hservice : inService w.g = false) (hon : s.feature 4 = true) {a : GReg}
    {q : ChanEnd} {count : Nat} (hzeros : (uniG s w a).toNat / 8 % 32 = 0) (hcount : (uniG s w a).toNat / 2 ^ 8 = count) (hmin : 1 ≤ count)
    (hmax : count ≤ 16) (hend : w.core.endOf w.g.block ((uniG s w a).toNat % 8) = some q) (hreceiver : q.sender = false)
    (hlive : q.state = .live) (hroom : (q.granted + BitVec.ofNat 32 count - q.count).toInt ≤ q.desc.slots) :
    exec (.xpermit a) s = .next (permitted s w q count) := by
  subst hcount
  have hbits : bits (uniG s w a).toNat 8 5 = (uniG s w a).toNat / 2 ^ 8 := Nat.mod_eq_of_lt (by omega)
  rw [exec_xpermit, execXpermit, uniIssueIf_acts h rfl
    (by rw [exchangeOn, hon, Bool.true_and]; exact permitOperand_allowed hzeros hmin hmax) (by simp)]
  dsimp only
  have hfits : decide ((q.desc.slots : Int) < (q.granted + BitVec.ofNat 32 ((uniG s w a).toNat / 2 ^ 8) - q.count).toInt) = false :=
    decide_eq_false (by omega)
  rw [hservice, hend, hbits]
  dsimp only
  rw [hreceiver, hlive, hfits]
  rfl

section
variable {s : State} {w : Issuer} (h : s.who = some w) (q : ChanEnd) (count : Nat)

theorem permitted_ends : EndsBy s (permitted s w q count) q.id fun e => { e with granted := e.granted + BitVec.ofNat 32 count } := by
  have hafter := (retire_near (modEnd (permitting s w q count) q.id fun q => { q with granted := q.granted + BitVec.ofNat 32 count }) w
    (nextPc w) 1).by_trans (modSplit_near _ w w.idx fun sp => { sp with hold := .xpermit q.id count, heldFor := 0 })
  exact EndsBy.between (modEnd_ends _ _ _) (modGroup_near (rel := fun a b => b = permits (permitOf s w q count) a)
    (permits (permitOf s w q count)) (permits_keepsPlace _).slot fun _ => rfl) hafter

include h

theorem permitted_stands : Stands (permitted s w q count) w { w.sp with pc := nextPc w, hold := .xpermit q.id count, heldFor := 0 } :=
  blockIt_stands (retire_goesOn _ _ (((who_tracks h).modGroup (permits_keepsPlace (permitOf s w q count))).modEnd _ _) (who_parts h).2.1) _

theorem permitted_group : ∃ g, (permitted s w q count).group? w.c w.slot = some g ∧ g.permits = w.g.permits ++ [permitOf s w q count] := by
  have hgroup := group_changed_some (permits (permitOf s w q count)) (permits_keepsPlace _).slot (who_parts h).1
  rw [← permitting_eq, ← modEnd_group (permitting s w q count) q.id fun q => { q with granted := q.granted + BitVec.ofNat 32 count }]
    at hgroup
  have hretired := group_changed_some (fun g => (g.pass (permitting s w q count).cycle w.sp.mask 1).modSplit w.idx fun sp =>
    { sp with pc := nextPc w, hold := .none, heldFor := 0 }) (fun _ => rfl) hgroup
  exact ⟨_, group_changed_some (·.modSplit w.idx fun sp => { sp with hold := .xpermit q.id count, heldFor := 0 }) (fun _ => rfl) hretired, rfl⟩

end

end Sys2Proof.Machine
end

section
/-! Proofs: XSEND and XBIND (O40). -/
namespace Sys2Proof.Machine

/-! A uniform register written in a changed package, and the split goes on. -/

section
variable {t : State} {w : Issuer} (htracks : Tracks t w) (hsp : w.g.split? w.idx = some w.sp) (i : Nat) (v : DWord)
include htracks

theorem Tracks.putG_local : Local t (done (putG t w i v) w) w (GKeys w.g i) noKeys false :=
  (Machine.putG_local i v htracks).trans ((retire_local ..).mono (fun _ e => e.elim) (fun _ e => e) fun e => e)

theorem Tracks.putG_holds : HoldsG (done (putG t w i v) w) w i v :=
  (Machine.putG_holds i v htracks).keep (retire_local ..) fun _ _ e => e

include hsp in
theorem Tracks.putG_goesOn : GoesOn (done (putG t w i v) w) w (nextPc w) := retire_goesOn _ _ (putG_tracks i v htracks) hsp

end

/-! XSEND (24 R317). -/

/-- A send forked and counted in SENT. -/
def sendForked (s : State) (w : Issuer) (q : ChanEnd) (src bytes : Nat) : State :=
  modEnd (forkOp s w .gx 10 (chargeOf s 10 bytes) (.send (sendOf s q src bytes))).2 q.id fun q => { q with count := q.count + 1 }

/-- The state after an XSEND. -/
def afterSend (s : State) (w : Issuer) (d : GReg) (q : ChanEnd) (src bytes : Nat) : State :=
  done (putG (sendForked s w q src bytes) w d (BitVec.ofNat 64 q.count.toNat)) w

theorem xsend_sends {s : State} {w : Issuer} (h : Issues s w) (hservice : inService w.g = false) (hon : s.feature 4 = true) {d a b : GReg}
    {q : ChanEnd} {bytes : Nat} (hzeros : (uniG s w b).toNat / 8 % 32 = 0) (hbytes : (uniG s w b).toNat / 2 ^ 8 = bytes)
    (hend : w.core.endOf w.g.block ((uniG s w b).toNat % 8) = some q) (hsender : q.sender = true) (hlive : q.state = .live)
    (hpermit : 0 < (q.granted - q.count).toInt) (hsome : bytes ≠ 0) (hlt : bytes < 2 ^ 17) (halign : bytes % 16 = 0)
    (hslot : bytes ≤ q.desc.slotBytes) (hgood : LocalGood w bytes 16 (uniAddr s w a))
    (hgo : admitMine s w 10 (chargeOf s 10 bytes) = .go) (hfence : Unfenced s w) :
    exec (.xsend d a b) s = .next (afterSend s w d q (scratchBase w + uniAddr s w a) bytes) := by
  subst hbytes
  obtain ⟨hacquire, hrelease⟩ := hfence
  have hbits : bits (uniG s w b).toNat 8 17 = (uniG s w b).toNat / 2 ^ 8 := Nat.mod_eq_of_lt hlt
  have hallowed : (bits (uniG s w b).toNat 3 5 == 0 && (uniG s w b).toNat < 2 ^ 25) = true := sendOperand_allowed hzeros (by omega)
  have hpermit : decide ((q.granted - q.count).toInt ≤ 0) = false := decide_eq_false (by omega)
  have hlayout : ¬ ((uniG s w b).toNat / 2 ^ 8 = 0 ∨ (uniG s w b).toNat / 2 ^ 8 % 16 ≠ 0 ∨ q.desc.slotBytes < (uniG s w b).toNat / 2 ^ 8) := by
    omega
  rw [exec_xsend, execXsend, uniIssueIf_acts h rfl (by rw [exchangeOn, hon, Bool.true_and]; exact hallowed) (by simp)]
  dsimp only
  rw [hservice, hend, hbits]
  dsimp only
  rw [hsender, hlive, hpermit, if_neg hlayout, checkedLocal_goes hgood, charged, chargedFor_goes hgo, afterFences_goes hacquire hrelease]
  rfl

theorem forkOp_rows (s : State) (w : Issuer) (gate : Gate) (cls charge : Nat) (kind : OpKind) :
    ((forkOp s w gate cls charge kind).2.core w.c).rows = (s.core w.c).rows := by
  rw [forkOp_core]
  rfl

/-- What a send is of its channel's receiver, where that is resident (24 R313). -/
theorem sendOf_receiver {s : State} {q r : ChanEnd} {c : Nat} {e : ChanEnd} {b : Block} (hpeer : peerOf s q = some r)
    (hat : endAt s r.id = some (c, e, b)) (src bytes : Nat) :
    (sendOf s q src bytes).receiver = r.id ∧ (sendOf s q src bytes).core = c ∧ (sendOf s q src bytes).block = b.id
      ∧ (sendOf s q src bytes).tag = r.tag := by
  simp [sendOf, hpeer, hat]

section
variable {s : State} {w : Issuer} (h : s.who = some w) (d : GReg) (q : ChanEnd) (src bytes : Nat)
include h

theorem sendForked_tracks : Tracks (sendForked s w q src bytes) w := (forkOp_tracks _ _ _ _ _ _ (who_tracks h)).modEnd _ _

theorem afterSend_near : Local (sendForked s w q src bytes) (afterSend s w d q src bytes) w (GKeys w.g d) noKeys false :=
  (sendForked_tracks h q src bytes).putG_local d _

theorem afterSend_ops : (afterSend s w d q src bytes).ops
    = s.ops ++ [forkedOp s w .gx 10 (chargeOf s 10 bytes) (.send (sendOf s q src bytes))] := by
  rw [(afterSend_near h d q src bytes).package]
  rfl

theorem afterSend_ends : EndsBy s (afterSend s w d q src bytes) q.id fun e => { e with count := e.count + 1 } := by
  have hforked : EndsBy (forkOp s w .gx 10 (chargeOf s 10 bytes) (.send (sendOf s q src bytes))).2 (sendForked s w q src bytes) q.id _ :=
    modEnd_ends _ _ _
  intro c
  rw [(afterSend_near h d q src bytes).ends, hforked]
  exact congrArg _ ((forkOp_near ..).ends c)

theorem afterSend_memory (a : Nat) : Memory.read (afterSend s w d q src bytes).mem a = Memory.read s.mem a :=
  (afterSend_near h d q src bytes).memory a

theorem afterSend_rows {k : Nat} (hk : ¬ GKeys w.g d k) :
    ((afterSend s w d q src bytes).core w.c).rows.word k = (s.core w.c).rows.word k := by
  rw [(afterSend_near h d q src bytes).rows k hk, sendForked, modEnd_core]
  exact congrArg (Store.word · k) (forkOp_rows ..)

end

end Sys2Proof.Machine
end

section
/-! Proofs: XBIND binds an end (O40). -/
namespace Sys2Proof.Machine

/-! A read that an instruction makes through its context's tables leaves what a read may not change (05 R73). -/

theorem readsOnly_sealPage (s : State) (ctx : Nat) (p : Page) : ReadsOnly s (sealPage s ctx p).2 := by
  unfold sealPage
  split
  · exact .refl s
  · split
    · exact readsOnly_of_snd (readsOnly_sealTrip ..) ‹_›
    · exact (readsOnly_of_snd (readsOnly_sealTrip ..) ‹_›).trans ⟨_, _, _, rfl⟩

theorem readsOnly_readSpans (h : Tlb) (x : Ctx) (need : Need) (s : State) (l : List (Nat × Nat)) : ReadsOnly s (readSpans h x need s l).2 := by
  fun_induction readSpans h x need s l
  case case1 => exact .refl _
  case case2 => exact readsOnly_of_snd (readsOnly_translateR ..) ‹_›
  case case3 => exact (readsOnly_of_snd (readsOnly_translateR ..) ‹_›).trans (readsOnly_of_snd (readsOnly_sealPage ..) ‹_›)
  case case4 ih =>
    exact ((readsOnly_of_snd (readsOnly_translateR ..) ‹_›).trans (readsOnly_of_snd (readsOnly_sealPage ..) ‹_›)).trans
      (readsOnly_of_snd ih ‹_›)
  case case5 ih =>
    exact ((readsOnly_of_snd (readsOnly_translateR ..) ‹_›).trans (readsOnly_of_snd (readsOnly_sealPage ..) ‹_›)).trans
      (readsOnly_of_snd ih ‹_›)

theorem readsOnly_readVa (s : State) (h : Tlb) (x : Ctx) (va n : Nat) : ReadsOnly s (readVa s h x va n).2 := by
  unfold readVa
  split
  · exact .refl s
  · exact readsOnly_readSpans ..

theorem ReadsOnly.cores {s t : State} (h : ReadsOnly s t) : t.cores = s.cores := by
  obtain ⟨_, _, _, rfl⟩ := h
  rfl

theorem ReadsOnly.core {s t : State} (h : ReadsOnly s t) (c : Nat) : t.core c = s.core c := by rw [State.core, State.core, h.cores]

theorem ReadsOnly.grants {s t : State} (h : ReadsOnly s t) : t.grants = s.grants := by
  obtain ⟨_, _, _, rfl⟩ := h
  rfl

/-! The ends of the package after one core has changed (24 R309). -/

theorem mem_putCore {x y : Core} {xs : List Core} (h : y ∈ putCore x xs) : y = x ∨ y ∈ xs := by
  induction xs with
  | nil => exact .inl (List.mem_singleton.mp h)
  | cons z r ih =>
    rw [putCore] at h
    split at h
    · exact (List.mem_cons.mp h).imp id (List.mem_cons_of_mem z)
    · split at h
      · exact List.mem_cons.mp h
      · rcases List.mem_cons.mp h with rfl | h
        · exact .inr List.mem_cons_self
        · exact (ih h).imp id (List.mem_cons_of_mem z)

theorem mem_boundEnds {s : State} {p : ChanEnd} : p ∈ boundEnds s ↔ (∃ x ∈ s.cores, p ∈ x.ends) ∨ p ∈ keptEnds s := by
  simp [boundEnds, allEnds]

theorem mem_boundEnds_core {s : State} {c : Nat} {p : ChanEnd} (h : p ∈ (s.core c).ends) : p ∈ boundEnds s := by
  rw [State.core] at h
  cases hfind : s.cores.find? fun x => x.index == c with
  | none =>
    rw [hfind] at h
    exact nomatch h
  | some x =>
    rw [hfind] at h
    exact mem_boundEnds.mpr (.inl ⟨x, List.mem_of_find?_eq_some hfind, h⟩)

theorem mem_boundEnds_modCore {s : State} {c : Nat} {f : Core → Core} {p : ChanEnd} (h : p ∈ boundEnds (s.modCore c f)) :
    p ∈ (f (s.core c)).ends ∨ p ∈ boundEnds s := by
  rcases mem_boundEnds.mp h with ⟨x, hx, hp⟩ | hkept
  · rcases mem_putCore hx with rfl | hx
    · exact .inl hp
    · exact .inr (mem_boundEnds.mpr (.inl ⟨x, hx, hp⟩))
  · exact .inr (mem_boundEnds.mpr (.inr hkept))

/-! The binding of an end whose peer is not bound (24 R315). -/

/-- The package with an object's bytes written in the issuer's core and an end bound there, before its peer is sought. -/
def bindAt (s : State) (w : Issuer) (off : Nat) (bs : List Byte) (e : ChanEnd) : State :=
  (writePlace { s with nextId := s.nextId + 1 } ⟨w.c, off⟩ bs).modCore w.c fun x => { x with ends := x.ends ++ [e] }

section
variable (s : State) (w : Issuer) (off : Nat) (bs : List Byte) (e : ChanEnd)

theorem bindAt_core : (bindAt s w off bs e).core w.c
    = { (s.core w.c).putScratch off bs with ends := (s.core w.c).ends ++ [e] } := by
  have hwrite : (writePlace { s with nextId := s.nextId + 1 } ⟨w.c, off⟩ bs).core w.c = (s.core w.c).putScratch off bs :=
    writePlace_core { s with nextId := s.nextId + 1 } ⟨w.c, off⟩ bs
  rw [bindAt, core_modCore _ _ _ (core_index ..), hwrite]
  rfl

theorem bindAt_byte (o : Nat) : ((bindAt s w off bs e).core w.c).scratch.byte o
    = ((overBytes ⟨w.c, off⟩ bs noBytes) w.c o).getD ((s.core w.c).scratch.byte o) := by
  have hbytes := ((Wrote.refl s).writePlace ⟨w.c, off⟩ bs).bytes w.c o
  rw [writePlace_core s ⟨w.c, off⟩ bs] at hbytes
  rw [bindAt_core]
  exact hbytes

theorem bindAt_tracks (h : Tracks s w) : Tracks (bindAt s w off bs e) w :=
  ((h.sameCores (t := { s with nextId := s.nextId + 1 }) rfl).modCore (f := fun x => x.putScratch off bs) (core_index ..) rfl).modCore
    (core_index ..) rfl

theorem bindAt_ends {p : ChanEnd} (h : p ∈ boundEnds (bindAt s w off bs e)) : p = e ∨ p ∈ boundEnds s := by
  have hold : ∀ {p}, p ∈ boundEnds (writePlace { s with nextId := s.nextId + 1 } ⟨w.c, off⟩ bs) → p ∈ boundEnds s := fun hp => by
    rcases mem_boundEnds_modCore hp with hmine | hother
    · exact mem_boundEnds_core hmine
    · exact hother
  rcases mem_boundEnds_modCore h with hmine | hother
  · rcases List.mem_append.mp hmine with hmine | hnew
    · exact .inr (hold (mem_boundEnds_core hmine))
    · exact .inl (List.mem_singleton.mp hnew)
  · exact .inr (hold hother)

end

section
variable (s : State) (w : Issuer) (n : Nat) (sender : Bool) (va : Nat) (d : ChanDesc)

/-- The end that XBIND binds. -/
def newEnd : ChanEnd :=
  { id := s.nextId, index := n, ctx := w.g.ctx, block := w.g.block, tag := ((blockOf w).map tagOf).getD (w.g.ctx, 0, 0), sender := sender,
    state := .half, descVa := va, desc := d, count := 0, granted := 0 }

/-- The package after its binding, as long as its peer is not bound. -/
def bound : State :=
  bindAt s w (scratchBase w + (if sender then d.permit else d.landbar)) (boundObject sender).image (newEnd s w n sender va d)

/-- With no peer, or a broken one, the end stays HALF. -/
theorem bindEnd_alone (halone : ∀ p ∈ boundEnds s, p.ctx = w.g.ctx → p.descVa = va → p.sender = sender ∨ p.state = .broken) :
    bindEnd s w n sender va d = bound s w n sender va d := by
  have hnone : peerOf (bound s w n sender va d) (newEnd s w n sender va d) = none := by
    refine List.find?_eq_none.mpr fun p hp => ?_
    rcases bindAt_ends _ _ _ _ _ hp with rfl | hp
    · simp
    · have hpeer := halone p hp
      simp only [newEnd, Bool.and_eq_true, beq_iff_eq, bne_iff_ne, not_and]
      rintro ⟨⟨hctx, hva⟩, hsender⟩
      exact not_not_intro ((hpeer hctx hva).resolve_left hsender)
  unfold bindEnd
  extract_lets e s1 s2
  have hstate : s2 = bound s w n sender va d := rfl
  rw [hstate, show e = newEnd s w n sender va d from rfl, hnone]

end

section
variable {s : State} {w : Issuer} (h : Issues s w) (hservice : inService w.g = false) (hon : s.feature 4 = true) {d a b : GReg}
include h hservice hon

theorem xbind_binds (hx : (uniG s w b).toNat < 16) (hva : (uniG s w a).toNat < 2 ^ 57) (halign : (uniG s w a).toNat % 64 = 0)
    {bs : List Byte} {u : State} (hread : readVa s (.core w.c) (ctxOf s w) (uniG s w a).toNat 64 = (.ok bs, u))
    (hstatus : bindStatus u w ((uniG s w b).toNat % 8) (bit (uniG s w b).toNat 3) (uniG s w a).toNat (chanDescOf bs) = 0) :
    exec (.xbind d a b) s = .next (heldDone
      (bindEnd u w ((uniG s w b).toNat % 8) (bit (uniG s w b).toNat 3) (uniG s w a).toNat (chanDescOf bs)) w d 0 none) := by
  have hbind : bit (uniG s w b).toNat 4 = false := by
    simp only [bit, beq_eq_false_iff_ne]
    omega
  have hlow : highVa (uniG s w a).toNat = false := decide_eq_false (by omega)
  rw [exec_xbind, execXbind, uniIssueIf_acts h rfl (by simp [exchangeOn, hon]; omega) (by simp)]
  dsimp only
  rw [hservice, hbind, hlow, if_neg (not_not_intro halign), instrRead, hread]
  dsimp only
  rw [hstatus]
  rfl

theorem xbind_unbinds_none (hmin : 16 ≤ (uniG s w b).toNat) (hmax : (uniG s w b).toNat < 32)
    (hnone : w.core.endOf w.g.block ((uniG s w b).toNat % 8) = none) : exec (.xbind d a b) s = .next (heldDone s w d 1 none) := by
  have hunbind : bit (uniG s w b).toNat 4 = true := by
    simp only [bit, beq_iff_eq]
    omega
  rw [exec_xbind, execXbind, uniIssueIf_acts h rfl (by simp [exchangeOn, hon]; omega) (by simp)]
  dsimp only
  rw [hservice, hunbind, hnone]
  rfl

end

/-- The bytes of the object, as the statement says them. -/
theorem boundObject_image (sender : Bool) : (boundObject sender).image
    = bytesOf 4 0 ++ bytesOf 2 (if sender then 0 else 1) ++ bytesOf 2 (if sender then 0 else 1) ++ bytesOf 4 0 ++ bytesOf 1 9 ++ bytesOf 3 0 := by
  cases sender <;> rfl

/-- Settles O40: each instruction's effect, and what it leaves of the ends, the group, the registers and the memory. -/
theorem exchangeInstructions : Obligations.ExchangeInstructions := by
  intro s w d a b h hservice hon v x
  have hsp := (who_parts h.1).2.1
  have htracks := who_tracks h.1
  refine ⟨fun q hcut hmin hmax hend hreceiver hlive hroom => ?_, ?_, ?_, ?_, fun hmin hmax hnone => ?_⟩
  · refine ⟨_, xpermit_permits h hservice hon (by omega) rfl hmin hmax hend hreceiver hlive hroom, permitted_stands h.1 q _, permitted_ends q _, rfl,
      fun p hpeer => ?_, fun _ => rfl⟩
    obtain ⟨g, hg, hpermits⟩ := permitted_group h.1 q (v / 2 ^ 8)
    refine ⟨g, hg, ?_⟩
    rw [hpermits, permitOf, hpeer]
    rfl
  · intro bytes at_ q hcut hend hsender hlive hpermit hsome hlt halign hslot hat hin hplace hgo hfence
    have hgood : LocalGood w bytes 16 (uniAddr s w a) := ⟨by
      rw [bits, show uniAddr s w a = at_ from rfl]
      omega, hin, hplace⟩
    have hcounted := sendForked_tracks h.1 q (scratchBase w + at_) bytes
    refine ⟨_, xsend_sends h hservice hon (by omega) rfl hend hsender hlive hpermit hsome hlt halign hslot hgood hgo hfence,
      hcounted.putG_goesOn hsp d _, hcounted.putG_holds d _, ⟨_, afterSend_ops h.1 d q _ bytes, ⟨rfl, rfl, rfl, rfl, rfl, rfl, rfl, rfl, rfl, rfl⟩,
        fun r c e b hpeer hat => sendOf_receiver hpeer hat ..⟩, afterSend_ends h.1 d q _ bytes, afterSend_memory h.1 d q _ bytes,
      fun k hk => afterSend_rows h.1 d q _ bytes hk⟩
  · have hreads := xstat_reads h hon d a
    rw [hservice, if_neg Bool.false_ne_true] at hreads
    exact hreads
  · intro bs u sender e object hx hva halign hread hstatus halone
    have hbound := bindEnd_alone u w (x % 8) sender v e halone
    have hreads : ReadsOnly s u := readsOnly_of_snd (readsOnly_readVa ..) hread
    have hact : exec (.xbind d a b) s = .next (heldDone (bindEnd u w (x % 8) sender v e) w d 0 none) :=
      xbind_binds h hservice hon hx hva halign hread hstatus
    rw [hbound] at hact
    have hnear := heldDone_near (bound u w (x % 8) sender v e) w d 0
    refine ⟨_, newEnd u w (x % 8) sender v e, hact, heldDone_stands (bindAt_tracks u w _ _ _ (htracks.sameCores hreads.cores)) hsp d 0 none,
      ?_, rfl, rfl, rfl, rfl, rfl, rfl, rfl, rfl, ?_, fun o => ?_⟩
    · rw [hnear.ends, bound, bindAt_core, hreads.core]
    · rw [hnear.package]
      exact hreads.grants
    · rw [heldDone_scratch, bound, bindAt_byte, hreads.core, boundObject_image]
  · exact answers_of_heldDone h.1 (xbind_unbinds_none h hservice hon hmin hmax hnone)

end Sys2Proof.Machine
end

section
/-! Proofs: the events of the exchange (O42). -/
namespace Sys2Proof.Machine

/-! GRANT_SEND (24 R314, R316). -/

/-- A split once grants of its group's XPERMITs have left, with `left` still to leave. -/
def grantedSplit (left : List Permit) (sp : Split) : Split :=
  match sp.hold with
  | .xpermit _ _ => if left.any fun p => p.split == sp.idx then sp else { sp with hold := .none, heldFor := 0 }
  | _ => sp

theorem grantedSplit_idx (left : List Permit) (sp : Split) : (grantedSplit left sp).idx = sp.idx := by
  unfold grantedSplit
  split
  · split
    · rfl
    · rfl
  · rfl

theorem granted_split (g : Group) (n i : Nat) : (g.granted n).split? i = (g.split? i).map (grantedSplit (removeAt n g.permits)) := by
  have hfind : (g.granted n).split? i = (g.splits.map (grantedSplit (removeAt n g.permits))).find? fun sp => sp.idx == i := rfl
  rw [hfind, List.find?_map]
  simp only [Function.comp_def, grantedSplit_idx]
  rfl

theorem grantedSplit_free {left : List Permit} {sp : Split} {own count : Nat} (hhold : sp.hold = .xpermit own count)
    (hlast : ∀ q ∈ left, q.split ≠ sp.idx) : grantedSplit left sp = { sp with hold := .none, heldFor := 0 } := by
  have hnone : (left.any fun p => p.split == sp.idx) = false := List.any_eq_false.mpr fun q hq => by simpa using hlast q hq
  rw [grantedSplit, hhold]
  dsimp only
  rw [hnone, if_neg Bool.false_ne_true]

theorem grantSend_sends {s : State} {core slot split : Nat} {g : Group} {p : Permit} {rest : List Permit} (hg : s.group? core slot = some g)
    (hpermits : g.permits = p :: rest) (hmine : p.split = split) (hready : g.la.all LaResult.poisonReady = true)
    (hparts : g.parts.isEmpty = true) :
    exec (.grantSend core slot split) s = .next ((deliverGrants s p).modGroup core slot fun g => g.granted 0) := by
  have hfirst : (g.permits.findIdx fun p => p.split == split) = 0 := by simp [hpermits, List.findIdx_cons, hmine]
  rw [exec_grantSend, execGrantSend, hg]
  dsimp only
  rw [hfirst, hready, hparts, hpermits]
  rfl

/-! Updates of objects (05 R68). -/

theorem mem_insertUpdate {u v : Update} {us : List Update} : v ∈ insertUpdate u us ↔ v = u ∨ v ∈ us := by
  induction us with
  | nil => exact List.mem_singleton.trans (or_iff_left (List.not_mem_nil)).symm
  | cons y r ih =>
    rw [insertUpdate]
    split
    · exact List.mem_cons
    · rw [List.mem_cons, ih, List.mem_cons]
      tauto

theorem queueUpdate_updates (s : State) (u : Update) : Updates s (queueUpdate s u) u := fun _ => mem_insertUpdate

/-! PERMIT_GRANT (24 R314). -/

theorem permitGrant_raises {s : State} {q : Grant} {rest : List Grant} {c : Nat} {e : ChanEnd} {b : Block} (hgrants : s.grants = q :: rest)
    (hnew : q.applied = false) (hat : endAt s q.binding = some (c, e, b)) (hthere : b.phase ≠ .finished .save) :
    exec (.permitGrant 0) s = .next { queueUpdate s ⟨c, b.spbase + e.desc.permit, (3, 0), false, false, 0, 0,
      .credit e.ctx none (BitVec.ofNat 64 e.desc.permit)⟩ with grants := { q with applied := true } :: rest } := by
  rw [exec_permitGrant, execPermitGrant, hgrants]
  dsimp only [List.getElem?_cons_zero]
  rw [hat]
  dsimp only
  rw [hnew, beq_false_of_ne hthere]
  simp only [queueUpdate, hgrants]
  rfl

/-! The accesses and the landing of an XSEND (24 R313, R317). -/

theorem landAt_writes (s : State) (p : Place) (bs : List (Byte × Bool)) (a : Nat) : ((landAt s p bs).core p.core).scratch.byte a
    = if p.off ≤ a ∧ a < p.off + bs.length then ((bs[a - p.off]?).map Prod.fst).getD 0 else (s.core p.core).scratch.byte a := by
  rw [landAt_byte]
  by_cases hin : p.off ≤ a ∧ a < p.off + bs.length
  · have hlt : a - p.off < bs.length := by omega
    rw [if_pos hin, if_pos hin, List.getElem?_eq_getElem hlt]
    rfl
  · rw [if_neg hin, if_neg hin]
    rfl

section
variable {s : State} {o : Op} {x : Send} (ho : s.op? o.id = some o) (hkind : o.kind = .send x)
include ho hkind

theorem engineAccess_send (n : Nat) : exec (.engineAccess o.id n) s = .next (sendAccess s o x n) := by
  rw [exec_engineAccess, execEngineAccess, ho]
  dsimp only
  rw [hkind]

theorem engineAccess_reads {n j : Nat} (hunread : x.unread[n]? = some j) :
    exec (.engineAccess o.id n) s = .next (s.setOpKind o.id (.send { x with
      unread := x.unread.erase j, sent := x.sent ++ [(j, (s.core o.core).markedBytes (x.src + 16 * j) 16)] })) := by
  rw [engineAccess_send ho hkind, sendAccess, hunread]

theorem engineAccess_lands {n j c : Nat} {bs : List (Byte × Bool)} {b : Block} (hsent : x.sent[n]? = some (j, bs)) (hcut : x.cut = false)
    (hthere : sendParked s x = false) (hblock : landingBlock s x = some (c, b)) :
    exec (.engineAccess o.id (x.unread.length + n)) s = .next ((landAt s ⟨c, b.spbase + x.landing + 16 * j⟩ bs).setOpKind o.id
      (.send { x with sent := x.sent.eraseIdx n })) := by
  have hread : x.unread[x.unread.length + n]? = none := List.getElem?_eq_none (by omega)
  rw [engineAccess_send ho hkind, sendAccess, hread]
  dsimp only
  rw [Nat.add_sub_cancel_left, hsent]
  dsimp only
  rw [hthere, hcut, landPieces, hblock, removeAt_eq_eraseIdx]
  rfl

theorem xsendLanding_arrives {c : Nat} {b : Block} (hread : x.unread = []) (hlanded : x.sent = []) (hcut : x.cut = false)
    (hturn : sendTurn s x = true) (hthere : sendParked s x = false) (hblock : landingBlock s x = some (c, b)) :
    exec (.xsendLanding o.id) s = .next ((queueUpdate s ⟨c, b.spbase + x.landbar, (2, 0), true, false, x.bytes, x.bytes,
      .credit o.ctx (some (o.id, 0)) (BitVec.ofNat 64 x.landbar)⟩).setOpKind o.id (.send { x with applied := true })) := by
  have hnothing : landPieces s x x.sent = s := by
    rw [landPieces, hblock, hlanded]
    rfl
  rw [exec_xsendLanding, execXsendLanding, ho]
  dsimp only
  rw [hkind]
  dsimp only
  rw [hread, hcut, hturn, hthere, hblock]
  dsimp only
  rw [hnothing, hlanded]
  rfl

end

theorem exchangeEvents : ExchangeEvents := by
  intro s core slot split g sp hg
  refine ⟨fun p rest hsplit hpermits hmine hready hparts => ?_, fun q rest c e b hgrants hnew hat hthere => ?_,
    fun o x ho hkind => ⟨fun n j hunread => engineAccess_reads ho hkind hunread, fun n j bs c b hsent hcut hthere hblock => ?_⟩,
    fun o x c b ho hkind hread hlanded hcut hturn hthere hblock => ?_⟩
  · have hleft : removeAt 0 g.permits = rest := by rw [hpermits, removeAt]
    have hidx := split_idx hsplit
    refine ⟨_, grantSend_sends hg hpermits hmine hready hparts, rfl, g.granted 0,
      group_changed_some (s := deliverGrants s p) (fun g => g.granted 0) (fun _ => rfl) hg, hleft, fun hhold hlast => ?_⟩
    rw [granted_split, hsplit, hleft, Option.map_some, grantedSplit_free hhold (by rwa [hidx])]
  · exact ⟨_, permitGrant_raises hgrants hnew hat hthere, rfl, queueUpdate_updates s _⟩
  · exact ⟨_, engineAccess_lands ho hkind hsent hcut hthere hblock,
      setOpKind_op (s := landAt s ⟨c, b.spbase + x.landing + 16 * j⟩ bs) ho _, landAt_writes s ⟨c, b.spbase + x.landing + 16 * j⟩ bs⟩
  · exact ⟨_, xsendLanding_arrives ho hkind hread hlanded hcut hturn hthere hblock, setOpKind_op (s := queueUpdate s _) ho _, fun _ => rfl,
      queueUpdate_updates s _⟩

end Sys2Proof.Machine
end

section
/-! Proofs: the messages of FBULK and of other packages (O42). -/
namespace Sys2Proof.Machine

/-! Messages of a transfer, and their bytes (28 R362, R365). -/

theorem firstPoison_clean {bs : List (Byte × Bool)} (hclean : ∀ p ∈ bs, p.2 = false) : firstPoison bs = none := by
  refine List.find?_eq_none.mpr fun i hi => ?_
  have hlt : i < bs.length := List.mem_range.mp hi
  simp [List.getElem?_eq_getElem hlt, hclean _ (List.getElem_mem hlt)]

theorem landedWith_clean (m : Message) {bs : List (Byte × Bool)} (hclean : ∀ p ∈ bs, p.2 = false) (va : Nat) :
    m.landedWith bs va = { m with spent := true, landed := true } := by
  rw [Message.landedWith, firstPoison_clean hclean]

theorem modMessage_op {s : State} {o : Op} {b : Bulk} (ho : s.op? o.id = some o) (hkind : o.kind = .bulk b) (n : Nat) (f : Message → Message) :
    (modMessage s o.id n f).op? o.id = some { o with kind := .bulk { b with messages := modifyAt f n b.messages } } := by
  rw [modMessage, modOp_op ho]
  · rw [hkind]
  · exact fun _ => rfl

/-! A message goes out and is answered (28 R357, R358). -/

theorem posted_postPf {u s : State} {ty : EventType} {code detail : Nat} {src : EventSource} (hs : Posted u s) :
    Posted u (postPf s ty code detail src) := by
  unfold postPf
  split
  · exact hs
  · exact posted_postTo hs

theorem posted_authEvent {u s : State} {key port : Nat} {ctx : Option Nat} (hs : Posted u s) : Posted u (authEvent s key port ctx) := by
  unfold authEvent
  split
  · exact posted_postPf hs
  · dsimp only
    split
    · exact posted_postEvent hs
    · exact hs

theorem Posted.op {s t : State} (h : Posted s t) (n : Nat) : t.op? n = s.op? n := by rw [State.op?, State.op?, h.ops]

/-- The operation stands as it did, but that its transfer's key slot may have counted a nonce (28 R357). -/
def SlotAt (t : State) (o : Op) (b : Bulk) : Prop :=
  ∃ k : Option KeySlot, t.op? o.id = some { o with kind := .bulk { b with slot := k } } ∧ k.map KeySlot.key = b.slot.map KeySlot.key

/-- The only message of a transfer that stands so is changed. -/
theorem modMessage_slot {t : State} {o : Op} {b : Bulk} {k : Option KeySlot} {m : Message}
    (hop : t.op? o.id = some { o with kind := .bulk { b with slot := k } }) (hmessages : b.messages = [m]) (f : Message → Message) :
    (modMessage t o.id 0 f).op? o.id = some { o with kind := .bulk { b with messages := [f m], slot := k } } := by
  have hmod := modMessage_op (o := { o with kind := .bulk { b with slot := k } }) hop rfl 0 f
  rw [hmessages] at hmod
  exact hmod

section
variable {s : State} {o : Op} {b : Bulk} (ho : s.op? o.id = some o) (hkind : o.kind = .bulk b) (port : Nat)
include ho hkind

theorem countNonce_slot : SlotAt (countNonce s o b port) o b := by
  have hsame : some o = some { o with kind := .bulk { b with slot := b.slot } } := by rw [← hkind]
  unfold countNonce
  split
  · exact ⟨b.slot, ho.trans hsame, rfl⟩
  next k hslot =>
    split
    · exact ⟨b.slot, ho.trans hsame, rfl⟩
    · refine ⟨b.slot.map fun q => q.sends port, ?_, ?_⟩
      · rw [modOp_op (s := s.modDev fun d => d.sends port) ho]
        · rw [hkind]
        · exact fun _ => rfl
      · rw [Option.map_map]
        rfl

theorem bulkTrip_slot : SlotAt (bulkTrip s o b port).2 o b := by
  have hsame : some o = some { o with kind := .bulk { b with slot := b.slot } } := by rw [← hkind]
  unfold bulkTrip
  split
  · exact ⟨b.slot, ((posted_authEvent (.refl s)).op o.id).trans (ho.trans hsame), rfl⟩
  · obtain ⟨k, hop, hkey⟩ := countNonce_slot ho hkind port
    split
    next t hcoin =>
      have ht : t = (countNonce s o b port).coin.2 := by rw [hcoin]
      subst ht
      exact ⟨k, hop, hkey⟩
    next t hcoin =>
      have ht : t = (countNonce s o b port).coin.2 := by rw [hcoin]
      subst ht
      exact ⟨k, ((posted_authEvent (.refl _)).op o.id).trans hop, hkey⟩

end

theorem countNonce_mem (s : State) (o : Op) (b : Bulk) (port : Nat) : (countNonce s o b port).mem = s.mem := by
  unfold countNonce
  split
  · rfl
  · split
    · rfl
    · rfl

/-- A trip that succeeds reports nothing. -/
theorem bulkTrip_mem {s : State} {o : Op} {b : Bulk} {port : Nat} (h : (bulkTrip s o b port).1 = true) :
    (bulkTrip s o b port).2.mem = s.mem := by
  unfold bulkTrip at h ⊢
  split at h
  · exact nomatch h
  next husable =>
    rw [if_neg husable]
    split at h
    next t hcoin =>
      have ht : t = (countNonce s o b port).coin.2 := by rw [hcoin]
      subst ht
      exact countNonce_mem s o b port
    next => exact nomatch h

theorem bulkTrips_single (o : Op) (b : Bulk) (s : State) (port : Nat) : bulkTrips o b s [port] = bulkTrip s o b port := by
  rw [bulkTrips]
  split
  next t htrip => rw [htrip, bulkTrips]
  next t htrip => rw [htrip]

/-! The places of a message at an attic node (28 R365). -/

theorem partSpans_readsOnly {s t : State} {o : Op} {x : Ctx} {part kind va n : Nat} {lanes : Mask} {need : Need} {ps : List (Page × Nat)}
    (h : partSpans s o x part lanes kind need va n = .ok ps t) : ReadsOnly s t := by
  unfold partSpans at h
  split at h
  · exact nomatch h
  split at h
  next hplace =>
    split at h
    · exact nomatch h
    · cases h
      exact readsOnly_of_snd (readsOnly_placeSpans ..) hplace
  next => exact nomatch h
  next =>
    split at h
    · exact nomatch h
    · exact nomatch h

theorem atticSpans_readsOnly {o : Op} {x : Ctx} {b : Bulk} {n kind : Nat} {need : Need} {s t : State} {l : List (Nat × Nat)}
    {ps : List (Page × Nat)} (h : atticSpans o x b n kind need s l = .ok (ps, t)) : ReadsOnly s t := by
  induction l generalizing s ps with
  | nil =>
    cases h
    exact .refl _
  | cons a l ih =>
    rw [atticSpans] at h
    split at h
    next => exact nomatch h
    next => exact nomatch h
    next hpart =>
      split at h
      · exact nomatch h
      · split at h
        next hrest =>
          cases h
          exact (partSpans_readsOnly hpart).trans (ih hrest)
        next => exact nomatch h

/-- Bytes written by an engine to one page that is not replicated (05 R80). -/
theorem engineWrite_page {p : Page} (hhome : p.repl = false) (wr : Writer) (x : Ctx) (s : State) (bs : List (Byte × Bool)) :
    (engineWrite wr x s [(p, bs.length)] bs).ops = s.ops
      ∧ (engineWrite wr x s [(p, bs.length)] bs).mem = Memory.writeAll s.mem (cellsOf p.pa (bs.map Prod.fst)) := by
  obtain ⟨attic, bad, sets, hwrite⟩ := homeWrite_fields s p.pa (bs.map Prod.fst)
  rw [engineWrite, engineWrite, hhome, if_neg Bool.false_ne_true, List.take_length, hwrite]
  exact ⟨rfl, rfl⟩

/-! FBULK_LANDING (28 R362). -/

/-- A PUT's message whose range is one page goes out, and is then written there or refused (28 R358, R362). -/
theorem landAttic_put {s : State} {o : Op} {x : Ctx} {b : Bulk} {m : Message} {bs : List (Byte × Bool)} {u t : State}
    {p : Page} {r : Bool} (hput : b.op = 0) (hplace : atticPlaces s o x b 0 m .store = .ok ([(p, bs.length)], u))
    (htrip : bulkTrip u o b (atticPort p.pa) = (r, t)) :
    landAttic s o x b 0 m bs = if r
      then modMessage (passViews (engineWrite (.op o.id) x t [(p, bs.length)] bs) [(p, bs.length)]) o.id 0 fun q => q.landedWith bs (b.loc + m.off)
      else modMessage t o.id 0 fun m => m.refused 3 0 := by
  have hports : portsOf [(p, bs.length)] = [atticPort p.pa] := by simp [portsOf, List.eraseDups_cons]
  have hneed : (if 2 ≤ b.op then Need.atomic else .store) = .store := by rw [hput]; rfl
  rw [landAttic, hneed, hplace]
  dsimp only
  rw [hports, bulkTrips_single, htrip, hput]
  cases r with
  | false => rfl
  | true => rfl

section
variable {s : State} {o : Op} {x : Ctx} {b : Bulk} {m : Message} {bs : List (Byte × Bool)} (ho : s.op? o.id = some o)
  (hkind : o.kind = .bulk b) (hmessages : b.messages = [m])
include ho hkind hmessages

theorem fbulkLanding_acts (hx : s.ctx? o.ctx = some x) (hspent : m.spent = false) (hbytes : m.bytes = some bs) (hwait : opWaits s o 0 = false)
    (hlocal : b.kind = 0) :
    exec (.fbulkLanding o.id 0) s = .next (if b.op = 1 then landGet s o b 0 m bs else landAttic s o x b 0 m bs) := by
  rw [exec_fbulkLanding, execFbulkLanding, ho]
  simp only [hkind, hx, hmessages, List.getElem?_cons_zero, hbytes, hspent, bulkWaits, hwait, hlocal, Bool.or_self, Bool.false_eq_true, if_false,
    if_true]

/-- A GET's message in the state after its landing, and its bytes. -/
theorem landGet_lands (hcredit : b.credit = false) (hclean : ∀ p ∈ bs, p.2 = false) :
    (landGet s o b 0 m bs).op? o.id = some { o with kind := .bulk { b with messages := [{ m with spent := true, landed := true }] } }
      ∧ (∀ z, ((landGet s o b 0 m bs).core o.core).scratch.byte z
          = if (allocOf s o.core o.block).1 + b.loc + m.off ≤ z ∧ z < (allocOf s o.core o.block).1 + b.loc + m.off + bs.length
            then ((bs[z - ((allocOf s o.core o.block).1 + b.loc + m.off)]?).map Prod.fst).getD 0 else (s.core o.core).scratch.byte z)
      ∧ (landGet s o b 0 m bs).mem = s.mem := by
  have hland : landGet s o b 0 m bs = modMessage (landAt s ⟨o.core, (allocOf s o.core o.block).1 + b.loc + m.off⟩ bs) o.id 0
      fun q => q.landedWith bs (b.remote + m.off) := by
    rw [landGet, hcredit]
    rfl
  rw [hland]
  refine ⟨?_, landAt_writes s ⟨o.core, (allocOf s o.core o.block).1 + b.loc + m.off⟩ bs, rfl⟩
  rw [modMessage_op (s := landAt s _ bs) ho hkind, hmessages, modifyAt, landedWith_clean m hclean]

/-- The message and the memory in the state after. -/
theorem landAttic_lands {u : State} {p : Page} (hput : b.op = 0) (hclean : ∀ p ∈ bs, p.2 = false)
    (hplace : atticPlaces s o x b 0 m .store = .ok ([(p, bs.length)], u)) (hhome : p.repl = false) (hm : Memory.wf s.mem = true) :
    ∃ k n, (landAttic s o x b 0 m bs).op? o.id = some { o with kind := .bulk { b with messages := [n], slot := k } }
      ∧ k.map KeySlot.key = b.slot.map KeySlot.key
      ∧ ((bulkTrip u o b (atticPort p.pa)).1 = true → n = { m with spent := true, landed := true }
          ∧ ∀ z, Memory.read (landAttic s o x b 0 m bs).mem z = writtenOver (cellsOf p.pa (bs.map Prod.fst)) z (Memory.read s.mem z))
      ∧ ((bulkTrip u o b (atticPort p.pa)).1 = false → n = m.refused 3 0) := by
  have hreads : ReadsOnly s u := atticSpans_readsOnly hplace
  obtain ⟨k, hop, hkey⟩ := bulkTrip_slot ((hreads.op o.id).trans ho) hkind (atticPort p.pa)
  have hmem := bulkTrip_mem (s := u) (o := o) (b := b) (port := atticPort p.pa)
  cases htrip : bulkTrip u o b (atticPort p.pa) with
  | mk r t =>
    rw [htrip] at hop hmem
    rw [landAttic_put hput hplace htrip]
    cases r with
    | false => exact ⟨k, m.refused 3 0, modMessage_slot hop hmessages _, hkey, (fun h => nomatch h), fun _ => rfl⟩
    | true =>
      obtain ⟨hops, hwrite⟩ := engineWrite_page hhome (.op o.id) x t bs
      have hsame : t.mem = s.mem := (hmem rfl).trans hreads.mem
      have hwritten : (passViews (engineWrite (.op o.id) x t [(p, bs.length)] bs) [(p, bs.length)]).op? o.id = t.op? o.id :=
        congrArg (List.find? fun q : Op => q.id == o.id) hops
      rw [if_pos rfl]
      refine ⟨k, m.landedWith bs (b.loc + m.off), modMessage_slot (hwritten.trans hop) hmessages _, hkey,
        fun _ => ⟨landedWith_clean m hclean _, fun z => ?_⟩, fun h => nomatch h⟩
      rw [← Memory.read_writeAll hm, ← hsame, ← hwrite]
      rfl

/-! BRANCH_BLOCKED (28 R364). -/

theorem branchBlocked_reports (hmulti : b.kind = 2) (hspent : m.spent = false) (hbytes : m.bytes = some bs) (hblocked : m.blocked = false) :
    exec (.branchBlocked o.id) s = .next (modMessage
      (postEvent s o.ctx .branchBlocked 0xFFFF b.port b.remote (groupSource o.core o.slot)) o.id 0 fun m => { m with blocked := true }) := by
  have hfirst : (List.range [m].length).find? (fun n =>
      (([m][n]?).map fun m => !m.spent && m.bytes.isSome && !m.blocked).getD false) = some 0 := by
    simp [List.range_succ, hspent, hbytes, hblocked]
  rw [exec_branchBlocked, execBranchBlocked, ho]
  dsimp only
  rw [hkind]
  dsimp only
  rw [hmessages, hfirst]
  dsimp only
  rw [if_pos hmulti]

end

/-! FBULK_COMPLETE (28 R365). -/

theorem movedBy_accepted {ms : List Message} (hcode : ∀ m ∈ ms, m.code = 0) :
    movedBy ms = total (ms.map fun m => if m.landed then m.len else 0) := by
  have hnone : (ms.filter fun m => m.code == 1) = [] := List.filter_eq_nil_iff.mpr fun m hm => by simp [hcode m hm]
  rw [movedBy, hnone]
  rfl

theorem fbulkComplete_completes {s : State} {o : Op} {b : Bulk} (ho : s.op? o.id = some o) (hkind : o.kind = .bulk b)
    (hover : ∀ m ∈ b.messages, m.spent = true ∧ m.code = 0) (hcredits : creditsSettled s o = true) (hrepl : replPending s o = false) :
    exec (.fbulkComplete o.id) s
      = .next (endLoadOp s o b.gd (total (b.messages.map fun m => if m.landed then m.len else 0) / 16)) := by
  have hspent : (b.messages.any fun m => !m.spent) = false := List.any_eq_false.mpr fun m hm => by simp [(hover m hm).1]
  have hgood : (b.messages.find? fun m => m.code != 0) = none := List.find?_eq_none.mpr fun m hm => by simp [(hover m hm).2]
  rw [exec_fbulkComplete, execFbulkComplete, ho]
  dsimp only
  rw [hkind]
  dsimp only
  rw [hspent, hcredits, hrepl, hgood, movedBy_accepted fun m hm => (hover m hm).2]
  dsimp only [Option.map_none, Option.getD_none]
  rw [Nat.zero_mul, Nat.zero_add]
  rfl

/-- A result leaves the traps that its group owes. -/
theorem endLoadOp_due {s : State} {o : Op} {g h : Group} {d n : Nat} (hg : s.group? o.core o.slot = some g)
    (hh : (endLoadOp s o d n).group? o.core o.slot = some h) : h.due = g.due := by
  have hland : ∃ k, (landResultG s o d n).group? o.core o.slot = some k ∧ k.due = g.due := by
    by_cases hd : d = 0
    · rw [landResultG, if_pos hd]
      exact ⟨g, hg, rfl⟩
    · refine ⟨g.addPend (resultPend s o g d), ?_, rfl⟩
      rw [State.group?, landResultG_core hg hd, group_modGroup _ _ (·.addPend (resultPend s o g d)) fun _ => rfl, landG_rest]
      exact congrArg (Option.map _) hg
  obtain ⟨k, hk, hdue⟩ := hland
  rw [endLoadOp, completeOp_group, hk] at hh
  cases hh
  exact hdue

/-! A message of another package (28 R358, R361). -/

theorem fabricMessageReceive_lands {s : State} {q : FabricMessage} {f : Nat} {k : Block} (hport : q.port < 8)
    (hup : portUp s q.port = true) (hkey : s.keyOwner q.key = some f) (hauth : q.authentic = true) (hdie : q.die < 12)
    (hcluster : q.cluster < Config.clustersOf q.die) (hcore : q.core < (if q.die < 4 then 16 else 8))
    (hblocks : (s.core (Config.coreIndex q.die q.cluster q.core)).blocks = [k]) (hinside : k.phase.outside = false)
    (hthere : k.phase ≠ .finished .save) (hfunc : (s.ctx? k.ctx).map Ctx.func = some f) (halign : q.offset % 16 = 0)
    (hend : q.offset + q.bytes.length ≤ k.rec_.scratch) (hcredit : q.credit = false) :
    exec (.fabricMessageReceive q) s = .next (landAt s ⟨Config.coreIndex q.die q.cluster q.core, k.spbase + q.offset⟩
      (q.bytes.map fun v => (v, false))) := by
  obtain ⟨x, hx, hxf⟩ := Option.map_eq_some_iff.mp hfunc
  have hplace : ¬ (q.die ≥ 12 ∨ Config.clustersOf q.die ≤ q.cluster ∨ (if q.die < 4 then 16 else 8) ≤ q.core) := by omega
  have hsaved : (k.phase != .finished .save) = true := bne_iff_ne.mpr hthere
  have hlink : ¬ (q.port ≥ 8 ∨ (!portUp s q.port) = true) := by simp [hup, hport]
  rw [exec_fabricMessageReceive, execFabricMessageReceive, if_neg hlink, hkey, hauth]
  dsimp only
  rw [if_neg hplace, hblocks, List.find?_cons]
  simp only [hinside, hsaved, hx, hxf, halign, hend, hcredit, Option.any_some, beq_self_eq_true, decide_true, Bool.not_false,
    Bool.and_self, Bool.true_or, Bool.false_eq_true, if_false]

end Sys2Proof.Machine
end

section
/-! Proofs: what the reports of a link that goes down leave of the ports (O42). -/
namespace Sys2Proof.Machine

/-- The link states and the replay counts of the ports (28 R366). -/
def wires (s : State) : List (Nat × Nat) := s.dev.ports.map fun q => (q.link, q.replays)

/-- Between two states no port has changed its link or its count of replays. -/
def SameWires (s t : State) : Prop := wires t = wires s

theorem SameWires.refl (s : State) : SameWires s s := rfl

theorem SameWires.trans {s t u : State} (h : SameWires s t) (k : SameWires t u) : SameWires s u := Eq.trans k h

theorem sameWires_of_dev {s t : State} (h : t.dev = s.dev) : SameWires s t := by rw [SameWires, wires, wires, h]

theorem sameWires_of_dev_ports {s t : State} (h : t.dev.ports = s.dev.ports) : SameWires s t := by rw [SameWires, wires, wires, h]

theorem sameWires_of_snd {α : Type} {s t : State} {p : α × State} {a : α} (h : SameWires s p.2) (e : p = (a, t)) : SameWires s t := by
  subst e
  exact h

theorem sameWires_foldl {α : Type} {f : State → α → State} (hf : ∀ s a, SameWires s (f s a)) (s : State) (xs : List α) :
    SameWires s (xs.foldl f s) := by
  induction xs generalizing s with
  | nil => exact .refl s
  | cons a xs ih => exact (hf s a).trans (ih (f s a))

theorem map_modifyAt {α β : Type} {f : α → α} {g : α → β} (h : ∀ a, g (f a) = g a) (n : Nat) (xs : List α) :
    (modifyAt f n xs).map g = xs.map g := by
  induction xs generalizing n with
  | nil => cases n <;> rfl
  | cons x xs ih =>
    cases n with
    | zero => simp [modifyAt, h]
    | succ n => simp [modifyAt, ih]

/-- A port marked otherwise than in its link and its count. -/
theorem sameWires_of_ports {s t : State} {f : Port → Port} {n : Nat} (hf : ∀ p, ((f p).link, (f p).replays) = (p.link, p.replays))
    (h : t.dev.ports = modifyAt f n s.dev.ports) : SameWires s t := by
  rw [SameWires, wires, wires, h, map_modifyAt hf]

/-! Reading and writing memory through a context's tables: what goes to an attic node only marks its port as used. -/

theorem throughTlb_dev (h : Tlb) (c va : Nat) (next : Except XErr (Nat × Nat) × State) : (throughTlb h c va next).2.dev = next.2.dev := by
  unfold throughTlb
  extract_lets fill
  have hfill : fill.2.dev = next.2.dev := by
    unfold fill
    split
    · rfl
    · rfl
  clear_value fill
  split
  · exact hfill
  · extract_lets same r
    have hr : r.2.dev = next.2.dev := by
      unfold r
      split
      · rfl
      · exact hfill
    clear_value r
    split
    · exact hr
    · exact hr

theorem findLeaf_dev (s : State) (h : Tlb) (x : Ctx) (va : Nat) : (findLeaf s h x va).2.dev = s.dev := by
  unfold findLeaf
  split
  · exact throughTlb_dev ..
  · exact (throughTlb_dev ..).trans (throughTlb_dev ..)

theorem sameWires_translateR (s : State) (h : Tlb) (x : Ctx) (need : Need) (va : Nat) : SameWires s (translateR s h x need va).2 := by
  have hleaf : SameWires s (findLeaf s h x va).2 := sameWires_of_dev (findLeaf_dev ..)
  have htranslate : SameWires s (Machine.translate s h x need va).2 := by
    unfold Machine.translate
    split
    · exact sameWires_of_snd hleaf ‹_›
    · exact sameWires_of_snd hleaf ‹_›
  unfold translateR
  split
  · exact sameWires_of_snd htranslate ‹_›
  · split
    · exact sameWires_of_snd htranslate ‹_›
    · exact sameWires_of_snd htranslate ‹_›

theorem sameWires_placeSpans (h : Tlb) (x : Ctx) (need : Need) (s : State) (l : List (Nat × Nat)) :
    SameWires s (placeSpans h x need s l).2 := by
  fun_induction placeSpans h x need s l
  case case1 => exact .refl _
  case case2 => exact sameWires_of_snd (sameWires_translateR ..) ‹_›
  case case3 ih => exact (sameWires_of_snd (sameWires_translateR ..) ‹_›).trans (sameWires_of_snd ih ‹_›)
  case case4 ih => exact (sameWires_of_snd (sameWires_translateR ..) ‹_›).trans (sameWires_of_snd ih ‹_›)

theorem sameWires_sealTrip (s : State) (key port : Nat) : SameWires s (sealTrip s key port).2 := by
  unfold sealTrip
  split
  · exact .refl s
  · split
    · exact .refl s
    · exact sameWires_of_ports (f := fun p => { p with sent := true }) (n := port) (fun _ => rfl) rfl

theorem sameWires_sealPage (s : State) (ctx : Nat) (p : Page) : SameWires s (sealPage s ctx p).2 := by
  unfold sealPage
  split
  · exact .refl s
  · split
    · exact sameWires_of_snd (sameWires_sealTrip ..) ‹_›
    next t hseal =>
      have htrip : SameWires s t := sameWires_of_snd (sameWires_sealTrip ..) hseal
      exact htrip.trans (sameWires_of_dev_ports rfl)

theorem sameWires_sealPlaces (ctx : Nat) (s : State) (l : List (Page × Nat)) : SameWires s (sealPlaces ctx s l).2 := by
  fun_induction sealPlaces ctx s l
  case case1 => exact .refl _
  case case2 ih => exact (sameWires_of_snd (sameWires_sealPage ..) ‹_›).trans ih
  case case3 => exact sameWires_of_snd (sameWires_sealPage ..) ‹_›

theorem sameWires_placeSealed (h : Tlb) (x : Ctx) (need : Need) (s : State) (l : List (Nat × Nat)) :
    SameWires s (placeSealed h x need s l).2 := by
  unfold placeSealed
  split
  · exact sameWires_of_snd (sameWires_placeSpans ..) ‹_›
  · split
    · exact (sameWires_of_snd (sameWires_placeSpans ..) ‹_›).trans (sameWires_of_snd (sameWires_sealPlaces ..) ‹_›)
    · exact (sameWires_of_snd (sameWires_placeSpans ..) ‹_›).trans (sameWires_of_snd (sameWires_sealPlaces ..) ‹_›)

theorem homePoke_dev (s : State) (pa : Nat) (bs : List Byte) : (s.homePoke pa bs).dev = s.dev := by
  unfold State.homePoke
  dsimp only
  split
  · rfl
  · rfl

theorem stampWrite_dev (s : State) (x : Ctx) (rset : Nat) (cells : List Host.Cell) (bad : List Nat) (w : Writer) :
    (stampWrite s x rset cells bad w).dev = s.dev := by
  unfold stampWrite
  split
  · rfl
  · obtain ⟨rs, hrs⟩ := modReplica_replicas (s.putCells cells bad) x.id rset _
    dsimp only
    rw [hrs]
    rfl

theorem writePlaces_dev (x : Ctx) (s : State) (l : List (Page × Nat)) (bs : List Byte) : (writePlaces x s l bs).dev = s.dev := by
  induction l generalizing s bs with
  | nil => rfl
  | cons a l ih =>
    rw [writePlaces, ih]
    split
    · exact stampWrite_dev ..
    · exact homePoke_dev ..

theorem sameWires_writeVa (s : State) (h : Tlb) (x : Ctx) (va : Nat) (bs : List Byte) : SameWires s (writeVa s h x va bs).2 := by
  unfold writeVa
  split
  · exact .refl s
  · split
    · exact sameWires_of_snd (sameWires_placeSealed ..) ‹_›
    · exact (sameWires_of_snd (sameWires_placeSealed ..) ‹_›).trans (sameWires_of_dev (writePlaces_dev ..))

/-! Events and fault records (26 R330, R349 to R352). -/

theorem sameWires_countLost (s : State) (ring : Nat) : SameWires s (countLost s ring) := by
  unfold countLost
  dsimp only
  split
  · exact .refl s
  · exact .refl s

theorem sameWires_tryPost (s : State) (ring : Nat) (ctx : Option Ctx) (ty : EventType) (queue code detail : Nat) (src : EventSource) :
    SameWires s (tryPost s ring ctx ty queue code detail src).2 := by
  unfold tryPost
  extract_lets d tail size va rec_ written
  have hwritten : ∀ t, written = some t → SameWires s t := by
    intro t ht
    unfold written at ht
    split at ht
    · split at ht
      · split at ht
        · exact Option.some.inj ht ▸ sameWires_of_dev (homePoke_dev ..)
        · exact nomatch ht
      · split at ht
        · exact Option.some.inj ht ▸ sameWires_of_snd (sameWires_writeVa ..) ‹_›
        · exact nomatch ht
    · exact nomatch ht
  clear_value written rec_ va size tail d
  cases written with
  | some t =>
    dsimp only
    exact (hwritten t rfl).trans (sameWires_of_dev (State.poke_dev ..))
  | none =>
    dsimp only
    exact sameWires_countLost s ring

theorem haltAt_dev (s : State) (q state code index : Nat) : (haltAt s q state code index).dev = s.dev := by
  unfold haltAt
  dsimp only
  split
  · rfl
  · rfl

theorem sameWires_loseEvent (s : State) (x : Ctx) : SameWires s (loseEvent s x) := by
  refine sameWires_foldl (fun t q => ?_) s _
  split
  · exact (sameWires_of_dev (haltAt_dev t q 2 9 _)).trans (sameWires_tryPost ..)
  · exact .refl t

theorem sameWires_postTo (s : State) (ring : Nat) (ctx : Option Ctx) (ty : EventType) (queue code detail : Nat) (src : EventSource) :
    SameWires s (postTo s ring ctx ty queue code detail src) := by
  have h := sameWires_tryPost s ring ctx ty queue code detail src
  unfold postTo
  generalize tryPost s ring ctx ty queue code detail src = r at h ⊢
  split
  · split
    · exact h.trans (sameWires_loseEvent ..)
    · exact h
  · exact h

theorem sameWires_postEvent (s : State) (c : Nat) (ty : EventType) (queue code detail : Nat) (src : EventSource) :
    SameWires s (postEvent s c ty queue code detail src) := by
  unfold postEvent
  split
  · exact .refl s
  · exact sameWires_postTo ..

theorem sameWires_postFault (s : State) (x : Ctx) (va : Nat) (src : EventSource) (kind cause : Nat) (lanes : Mask) (batch time : Nat)
    (owner : FaultOwner) : SameWires s (postFault s x va src kind cause lanes batch time owner).2 := by
  unfold postFault
  extract_lets y
  split
  · exact .refl s
  next n rec_ t u _ =>
    have ht : SameWires s t := by
      unfold t
      split
      · exact sameWires_of_snd (sameWires_writeVa ..) ‹_›
      · exact sameWires_of_snd (sameWires_writeVa ..) ‹_›
    have hcount : SameWires t u := sameWires_of_dev (State.poke_dev ..)
    dsimp only
    exact (ht.trans hcount).trans (sameWires_of_dev (State.modCtx_dev ..))

theorem sameWires_postHeld (s : State) (x : Ctx) (va : Nat) (src : EventSource) (kind cause : Nat) (lanes : Mask) (time : Nat)
    (owner : FaultOwner) : SameWires s (postHeld s x va src kind cause lanes time owner) := by
  unfold postHeld
  split
  next t hposted => exact sameWires_of_snd (sameWires_postFault ..) hposted
  next t hfull =>
    have ht : SameWires s t := sameWires_of_snd (sameWires_postFault ..) hfull
    exact ht.trans (sameWires_of_dev rfl)

/-! The errors of packets that a link has cut (26 R342, R343). -/

theorem sameWires_queueEvent (s : State) (q code : Nat) : SameWires s (queueEvent s q code) := by
  unfold queueEvent
  split
  · exact .refl s
  · exact sameWires_postEvent ..

theorem sameWires_minusSignal (s : State) (x : Ctx) (q : Nat) (sig : Option Nat) : SameWires s (minusSignal s x q sig) := by
  unfold minusSignal
  split
  · exact .refl s
  next va =>
    have hset : SameWires s (setSignal s (chainTlb q) x va (-1)).2 := sameWires_writeVa ..
    split
    · exact sameWires_of_snd hset ‹_›
    · exact sameWires_of_snd hset ‹_›
    · exact (sameWires_of_snd hset ‹_›).trans (sameWires_postHeld ..)

theorem sameWires_queueError (s : State) (x : Ctx) (q code : Nat) (sig : Option Nat) (index : Nat) :
    SameWires s (queueError s x q code sig index) := by
  unfold queueError
  exact ((sameWires_of_dev (haltAt_dev ..)).trans (sameWires_queueEvent ..)).trans (sameWires_minusSignal ..)

theorem sameWires_startedError (s : State) (x : Ctx) (q code : Nat) (k : Started) : SameWires s (startedError s x q code k) := by
  have hmark : SameWires s (modStarted s q k.path fun k => { k with failed := true }) := sameWires_of_dev rfl
  exact hmark.trans (sameWires_queueError ..)

theorem sameWires_failPort (port : Nat) (s t : State) (x : Ctx) : SameWires t (failPort port s t x) := by
  unfold failPort
  extract_lets u
  have hops : SameWires t u := sameWires_of_dev rfl
  have hqueue : ∀ v (q : Queue), SameWires v ((q.started.filter (copyOn s x port)).foldl (fun t k => startedError t x q.id 7 k) v) :=
    fun v q => sameWires_foldl (fun z k => sameWires_startedError z x q.id 7 k) v _
  exact hops.trans (sameWires_foldl hqueue u _)

theorem sameWires_oweRefused (s : State) (p : Propagation) : SameWires s (oweRefused s p) := by
  unfold oweRefused
  split
  · exact .refl s
  · exact .refl s

end Sys2Proof.Machine
end

section
/-! Proofs: the states of links, and the events of the exchange and the fabric (O42). -/
namespace Sys2Proof.Machine

/-! A port changed (28 R366). -/

theorem modifyAt_same {α : Type} (f : α → α) (n : Nat) (xs : List α) : (modifyAt f n xs)[n]? = xs[n]?.map f := by
  induction xs generalizing n with
  | nil => cases n <;> rfl
  | cons x xs ih =>
    cases n with
    | zero => rfl
    | succ n => exact ih n

theorem modifyAt_other {α : Type} (f : α → α) {n j : Nat} (h : j ≠ n) (xs : List α) : (modifyAt f n xs)[j]? = xs[j]? := by
  induction xs generalizing n j with
  | nil => cases n <;> rfl
  | cons x xs ih =>
    cases n with
    | zero =>
      cases j with
      | zero => exact absurd rfl h
      | succ j => rfl
    | succ n =>
      cases j with
      | zero => rfl
      | succ j => exact ih fun e => h (congrArg _ e)

theorem setLink_port {s : State} {port link : Nat} {p : Port} (hp : s.dev.ports[port]? = some p) :
    (setLink s port link).dev.ports[port]? = some { p with link := link } := by
  rw [setLink, State.modDev, modifyAt_same, hp]
  rfl

theorem setLink_other (s : State) {port j : Nat} (link : Nat) (h : j ≠ port) : (setLink s port link).dev.ports[j]? = s.dev.ports[j]? :=
  modifyAt_other _ h _

theorem SameWires.port {s t : State} (h : SameWires s t) (j : Nat) :
    (t.dev.ports[j]?).map (fun q => (q.link, q.replays)) = (s.dev.ports[j]?).map fun q => (q.link, q.replays) := by
  rw [← List.getElem?_map, ← List.getElem?_map]
  exact congrArg (·[j]?) h

/-- A link that leaves the up state is set after all that was pending on it has been reported and refused (28 R355, R356). -/
theorem fabricLink_down {s : State} {port link : Nat} (hup : portUp s port = true) (hdown : link ≠ 2) (hlt : link < 4) :
    ∃ t, exec (.fabricLink port link) s = .next (setLink t port link) ∧ SameWires s t := by
  have hother : ¬ (link = 2 ∨ 4 ≤ link) := by omega
  have hon : ¬ (!portUp s port) = true := by simp [hup]
  rw [exec_fabricLink, execFabricLink, if_neg hother, if_neg hon]
  extract_lets hit posted failed gone refused cut
  have hposted : SameWires s posted := sameWires_foldl (fun _ _ => sameWires_postEvent ..) s hit
  have hfailed : SameWires posted failed := sameWires_foldl (sameWires_failPort port s) posted hit
  have hkept : SameWires failed { failed with props := failed.props.filter fun p => !gone p } := sameWires_of_dev rfl
  have hrefused : SameWires failed refused := hkept.trans (sameWires_foldl sameWires_oweRefused _ (failed.props.filter gone))
  have hcut : SameWires refused cut :=
    sameWires_of_ports (f := fun p => { p with since := refused.nextId }) (n := port) (fun _ => rfl) rfl
  exact ⟨cut, rfl, ((hposted.trans hfailed).trans hrefused).trans hcut⟩

theorem fabricLink_moves {s : State} {port link : Nat} (hup : portUp s port = false) (hfull : s.dev.service = .full) (hdown : link ≠ 2)
    (hlt : link < 4) : exec (.fabricLink port link) s = .next (setLink s port link) := by
  have hother : ¬ (link = 2 ∨ 4 ≤ link) := by omega
  rw [exec_fabricLink, execFabricLink, if_neg hother, hup, hfull]
  rfl

theorem fabricLinkUp_rises {s : State} {port : Nat} (hup : portUp s port = false) (hfull : s.dev.service = .full) :
    exec (.fabricLinkUp port) s = .next (setLink s port 2) := by
  rw [exec_fabricLinkUp, execFabricLinkUp, hup, hfull]
  rfl

theorem fabricEvents : FabricEvents := by
  intro s o x b m bs port link hm
  refine ⟨fun ho hx hkind hmessages hspent hbytes hwait hlength hclean => ⟨fun hlocal hget hcredit => ?_,
      fun p u hlocal hput hplace hhome _ => ?_, fun hmulti hblocked => ?_⟩,
    fun g ho hkind hover hcredits hrepl hg => ?_,
    fun q f k hport hup hkey hauth hdie hcluster hcore hblocks hinside hthere hfunc halign hend hcredit => ?_,
    fun p hp => ⟨fun hup hdown hlt => ?_, fun hup hfull hdown hlt => ?_, fun hup hfull => ?_, ?_⟩⟩
  · have hact := fbulkLanding_acts ho hkind hmessages hx hspent hbytes hwait hlocal
    obtain ⟨hop, hbyte, hmem⟩ := landGet_lands (m := m) ho hkind hmessages hcredit hclean
    rw [if_pos hget] at hact
    rw [hlength] at hbyte
    exact ⟨_, hact, hop, hbyte, fun z => by rw [hmem]⟩
  · have hact := fbulkLanding_acts ho hkind hmessages hx hspent hbytes hwait hlocal
    rw [if_neg (by omega)] at hact
    rw [← hlength] at hplace
    obtain ⟨k, n, hop, hkey, hlands, hrefused⟩ := landAttic_lands ho hkind hmessages hput hclean hplace hhome hm
    exact ⟨_, k, n, hact, hop, hkey, hlands, hrefused⟩
  · refine ⟨_, branchBlocked_reports ho hkind hmessages hmulti hspent hbytes hblocked, ?_, rfl⟩
    rw [modMessage_op (((posted_event ..).op o.id).trans ho) hkind, hmessages]
    rfl
  · obtain ⟨h, hh, hgates, -, hvalue⟩ := endLoadOp_ends hg b.gd (total (b.messages.map fun m => if m.landed then m.len else 0) / 16)
    exact ⟨_, h, fbulkComplete_completes ho hkind hover hcredits hrepl, completeOp_op .., hh, hgates, endLoadOp_due hg hh, hvalue⟩
  · refine ⟨_, fabricMessageReceive_lands hport hup hkey hauth hdie hcluster hcore hblocks hinside hthere hfunc halign hend hcredit, fun z => ?_⟩
    rw [landAt_writes s ⟨Config.coreIndex q.die q.cluster q.core, k.spbase + q.offset⟩, List.length_map, List.getElem?_map, Option.map_map]
    simp only [Function.comp_def, Option.map_id']
  · obtain ⟨t, hact, hwires⟩ := fabricLink_down hup hdown hlt
    have hsame := hwires.port port
    rw [hp, Option.map_some, Option.map_eq_some_iff] at hsame
    obtain ⟨q, hq, hwire⟩ := hsame
    refine ⟨_, hact, ⟨_, setLink_port hq, rfl, (Prod.mk.inj hwire).2⟩, fun j hj => ?_⟩
    rw [setLink_other t link hj]
    exact hwires.port j
  · exact ⟨_, fabricLink_moves hup hfull hdown hlt, setLink_port hp, fun j hj => setLink_other s link hj⟩
  · exact ⟨_, fabricLinkUp_rises hup hfull, setLink_port hp, fun j hj => setLink_other s 2 hj⟩
  · refine ⟨_, exec_linkLevelRetry port s, ?_, fun j hj => modifyAt_other _ hj _⟩
    rw [State.modDev, modifyAt_same, hp]
    rfl

/-- Settles O42: what the exchange delivers by `exchangeEvents`, what the fabric delivers by `fabricEvents`. -/
theorem linkEvents : Obligations.LinkEvents := ⟨exchangeEvents, fabricEvents⟩

end Sys2Proof.Machine
end
